-- ==== Sys2Proof/Word.lean ====
section
/-! DEFINITION. The words the block works with. All multi-byte fields are little-endian (R13); bit 0 is the
least significant bit (R12). The bit-field and byte-order helpers live in Machine/Bits.lean. -/

namespace Sys2Proof

/-- One byte. -/
abbrev Byte := BitVec 8
/-- A register of the owner space, or a doorbell word (R486). -/
abbrev Reg64 := BitVec 64
/-- One lane of a vector register, an FP32 encoding or an INT32 (R163). -/
abbrev Lane32 := BitVec 32

/-- Arrays A00 to A63 (R19). -/
abbrev ArrId := Fin 64
/-- Fetch engines FE00 to FE31 (R146). -/
abbrev FeId := Fin 32
/-- Tenant logical devices LD 0 to 15. -/
abbrev LdId := Fin 16
/-- Raile ports RP00 to RP15. -/
abbrev PortId := Fin 16
/-- Raile node identifiers (R40). -/
abbrev NodeId := BitVec 12
/-- Clocks counted from the current furrow's tick. -/
abbrev Clk := Nat

end Sys2Proof
end

