-- ==== Sys2Proof/Syntax.lean ====
section
/-! DEFINITION. The commands of the block: one constructor of `Instr` per row of spec/opcode_table.json, with what
reaches the block from outside as its operands (an address, a value, a packet, a measurement), and the plain data
types of those operands. A command whose effect is wholly the block's own carries only what names its unit. -/

namespace Sys2Proof

/-- The mailbox a command arrives on (R348, R369). -/
inductive Mbox where
  | owner
  | tenant (ld : LdId)
  | i3c
  deriving DecidableEq, Repr

/-- What REGISTER_WRITE accesses: the owner register space over BAR2 (R486, R491), BAR0 of a function (R344), or its configuration
space (R345). The table has no row for a read of these; the reads stand here, with the accesses that R490 and R491 rule together. -/
inductive RegTarget where
  | bar2 (off : Nat)
  | bar2Read (off : Nat)
  | bar0 (fn : Mbox) (off : Nat)
  | bar0Read (fn : Mbox) (off : Nat)
  | config (fn : Mbox) (off : Nat)              -- a read
  | configWrite (fn : Mbox) (off : Nat)
  deriving DecidableEq, Repr

/-- A host CXL.mem address: a host physical address that the HDM decoders of one tenant LD map (MLD mode, R342), or those of the
one SLD (R343, R346). -/
inductive HostAddr where
  | ld (t : LdId) (hpa : Nat)
  | sld (hpa : Nat)
  deriving DecidableEq, Repr

/-- CXL.mem requests without data (R340). -/
inductive MemReadKind where
  | memRd | memRdData | memSpecRd | memInv
  deriving DecidableEq, Repr

/-- A CXL.mem request without data, and how many bytes it names. -/
structure MemRead where
  kind : MemReadKind := .memRd
  len  : Nat
  deriving DecidableEq, Repr

/-- A CXL.mem request with data (R340): MemWr, or MemWrPtl with its byte enables. -/
structure MemWrite where
  bytes : List Byte
  enables : Option (List Bool) := none
  deriving DecidableEq, Repr

/-- What the host link meets when it trains (R340, R341): a CXL 2.0 host, a switch that negotiates multi-logical-device operation, or a
CXL 1.1 host. -/
inductive LinkPartner where
  | host | mldSwitch | rcd
  deriving DecidableEq, Repr

/-- What an IDE_KM message installs (R365, R442): the keys, and the mode that the host chooses. -/
structure IdeKeys where
  keys : List Byte
  skid : Bool := false              -- skid mode, else containment
  deriving DecidableEq, Repr

/-- The fields of a vector instruction but its opcode (R168). -/
structure VInstr where
  dt   : BitVec 4 := 1
  dt2  : BitVec 4 := 0
  sat  : Bool := false
  seg  : BitVec 4 := 0
  vd   : Fin 32 := 0
  va   : Fin 32 := 0
  vb   : Fin 32 := 0
  vc   : Fin 32 := 0
  bimm : Bool := false
  gap  : BitVec 10 := 0
  aux  : BitVec 12 := 0
  ext  : BitVec 64 := 0
  deriving DecidableEq, Repr

/-- A vector instruction that reaches the scratchpad, with the banks whose access it loses to arbitration, one clock for each time that
a bank is named (R131, R165). -/
structure VAccess where
  instr : VInstr
  lost  : List (Fin 32) := []
  deriving DecidableEq, Repr

/-- An access of an array's own units or of its inbound port, with the bank accesses that it loses to arbitration before all of it is
granted (R131). -/
structure ArrAccess where
  arr  : ArrId
  lost : Nat := 0
  deriving DecidableEq, Repr

/-- What loses its bank access in the clock of an issue decision (R131): feeders as (member of the gang, row), and members whose held
load does. -/
structure StepLost where
  feeders : List (Fin 4 × Fin 16) := []
  held    : List (Fin 4) := []
  deriving DecidableEq, Repr

/-- A unit of an array at one of its rings (R143): unit 0 the feeders, 1 the held load port, 2 the output stage, 3 the vector engine; and
the clock in which it comes. -/
structure RingUse where
  ring : Fin 6
  unit : Fin 4
  clk  : Clk
  deriving DecidableEq, Repr

/-- What a burst meets that is not the block's own state: an HBM read may meet an error (R372), and the region of another node that
a WRITE reaches may ask for a NOTIFY (R330). -/
inductive BurstEnv where
  | plain
  | eccCorrected
  | eccUncorrectable
  | notify (role : BitVec 24) (bar : Nat)       -- the region's ROLE and NOTIFY_BAR
  deriving DecidableEq, Repr

/-- What a burst meets, and the bank accesses that its ring loses to arbitration (R131). -/
structure BurstUse where
  env  : BurstEnv := .plain
  lost : Nat := 0
  deriving DecidableEq, Repr

/-- A role message: the 8 B role header of R210, its sender and its body. -/
structure RoleMsg where
  sender   : NodeId
  msgId    : Nat
  role     : BitVec 24
  srcRole  : BitVec 24
  srcEpoch : BitVec 16
  dstEpoch : BitVec 16
  body     : List Byte
  deriving DecidableEq, Repr

/-- A Raile packet header with its payload (R321). `tagOk` is whether the AES-GCM tag verifies under the key of
the flow. -/
structure Packet where
  src      : NodeId
  dst      : NodeId
  ctx      : Fin 17
  flow     : Fin 16
  psn      : BitVec 32
  len      : Nat
  addr     : BitVec 64
  opId     : BitVec 32
  keyEpoch : BitVec 16
  last     : Bool
  fadd     : Bool
  payload  : List Byte
  tagOk    : Bool
  deriving DecidableEq, Repr

/-- HELLO and HELLO_ACK contents (R318, R443). -/
structure HelloMsg where
  node   : NodeId
  bootId : BitVec 32
  nonce  : List Byte
  echo   : List Byte
  stepping : List Byte
  tag    : List Byte
  deriving DecidableEq, Repr

/-- BYE contents (R318, R443). -/
structure ByeMsg where
  bootId : BitVec 32
  nonce  : List Byte
  tag    : List Byte
  deriving DecidableEq, Repr

/-- FLOW_OPEN, FLOW_ACCEPT and FLOW_REFUSE (R320). -/
structure FlowMsg where
  node     : NodeId
  ctx      : Fin 17
  flow     : Fin 16
  keyEpoch : BitVec 16
  nonce    : List Byte
  port     : PortId
  deriving DecidableEq, Repr

/-- A KEEPALIVE (R318): one is due to be sent, a peer's arrives with its stamp, or the echo of an own one gives the round-trip time. -/
inductive KeepaliveMsg where
  | due
  | asked (stamp : BitVec 64)
  | echoed (rttNs : Nat)
  deriving DecidableEq, Repr

/-- A received link frame (R312) with what the receiver found of it: whether its CRC passed and which symbols of each of its codewords
were in error (R308). -/
structure Frame where
  fseq      : BitVec 12
  ackSeq    : BitVec 12
  ackValid  : Bool
  nak       : Bool
  vc        : Bool
  idle      : Bool
  credD     : BitVec 9
  credC     : BitVec 8
  crcOk     : Bool
  errors    : List (List (Fin 544))
  body      : List Byte
  deriving DecidableEq, Repr

/-- A NOTIFY message (R330). -/
structure NotifyMsg where
  sender   : NodeId
  msgId    : Nat
  role     : BitVec 24
  srcEpoch : BitVec 16
  dstEpoch : BitVec 16
  srcRole  : BitVec 24
  furrow   : Nat
  bar      : Nat
  deriving DecidableEq, Repr

/-- Which on-chip structure a parity error was found in (R371). -/
inductive ParityStruct where
  | arrayStore (a : ArrId)                -- feeder queues, held registers, accumulators, chunks, statistics, mask
  | spad (a : ArrId)
  | vectorRegs (a : ArrId)
  | beat (item : Nat)                     -- a crossbar or ring beat of a work item
  | mereCache (die : Fin 4) (line : Nat)
  | feTranslation (fe : FeId)
  | feSlots (fe : FeId)
  | itemCounters (item : Nat)             -- barrier counters, slot epochs, ring head and tail
  | repairMap (a : ArrId)
  | rqtEntry (i : Fin 4096) (shadowOk : Bool)
  | roleTable
  | tickUnit
  | tenantKey (ld : LdId)
  | deviceKey
  | core (c : Fin 4)
  | controlSram (c : Fin 4)               -- control SRAM, met by a core
  | firmwareCopy
  | d2dRetry (die : Fin 4)
  | d2dLost (die : Fin 4)
  deriving DecidableEq, Repr

/-- What a memory controller found when it read a line (R372). -/
inductive EccResult where
  | clean
  | corrected (bursts : Nat)
  | uncorrectable
  deriving DecidableEq, Repr

/-- The rails of R399, in its order; `arr` is VDD_ARR. -/
inductive Rail where
  | arr | ctl | fen | d2d | ser | serh | hbm | hbmq | vpp | io
  deriving DecidableEq, Repr

/-- One rail's telemetry of a 100 µs sample: voltage in mV and current in mA, none where the read failed (R400). -/
structure RailSample where
  rail  : Rail
  value : Option (Nat × Nat)
  deriving DecidableEq, Repr

/-- What bears a share of an interval's energy (R422): the request of a work item or bundle operation, the seats of a
generation round with the positions each fed, an LD for its window or its Raile context, or the device itself. -/
inductive Bearer where
  | entry (i : Nat)
  | round (seats : List (Nat × Nat))
  | ld (t : LdId)
  | device
  deriving DecidableEq, Repr

/-- Work done in a 100 µs interval, as the power unit's activity monitors count it (R422): array-clocks, bytes moved in the
memory system, and bytes of Raile and CXL. -/
structure Activity where
  arrClks  : List (Bearer × Nat) := []
  memBytes : List (Bearer × Nat) := []
  serBytes : List (Bearer × Nat) := []
  deriving DecidableEq, Repr

/-- Die and stack temperatures in °C (R416). -/
structure Temps where
  arrays : List (ArrId × Nat)
  fen    : List ((Fin 4 × Fin 2) × Nat)
  hbm    : List (Fin 20 × Nat)
  deriving DecidableEq, Repr

/-- A finding of a BIST run (R457, R469). -/
structure BistFinding where
  test     : BitVec 8
  source   : BitVec 8
  unit     : BitVec 16
  struct   : BitVec 8
  address  : BitVec 64
  byteMask : BitVec 64
  firstBit : BitVec 16
  nbits    : BitVec 16
  value    : BitVec 32
  drain    : Bool          -- an array row's drain path fails (R461)
  retestOk : Bool          -- the test after the repair passes
  deriving DecidableEq, Repr

/-- What ends a BIST run of one array (R466). -/
structure ArrayTest where
  pass     : Bool
  faultRow : Option (Fin 16)
  findings : List BistFinding
  deriving DecidableEq, Repr

/-- The result of the hardware boot-path phase (R455). -/
structure BootPath where
  sramOk   : Bool
  d2dOk    : Bool
  deriving DecidableEq, Repr

/-- SPDM 1.2 requests the device serves (R444). -/
inductive SpdmReq where
  | getVersion
  | getCapabilities
  | negotiateAlgorithms
  | getDigests
  | getCertificate (slot : Nat)
  | challenge (nonce : List Byte)
  | getMeasurements (index : Nat)
  | keyExchange
  | finish (session : Nat)
  | heartbeat (session : Nat)
  | endSession (session : Nat)
  | pskExchange
  deriving DecidableEq, Repr

/-- Where an SPDM request arrives: the DOE mailbox of a function or the I3C interface (R444). -/
inductive SpdmPort where
  | doe (fn : Mbox)
  | i3c
  deriving DecidableEq, Repr

/-- The PLDM sensors of R478. -/
inductive PldmSensor where
  | pkgPower | junction | hottestStack | effectiveCap | totalEnergy | stopState
  deriving DecidableEq, Repr

/-- Causes of an in-band interrupt (R478). -/
inductive IbiCause where
  | stop | halt | faultRecord
  deriving DecidableEq, Repr

/-- Why a port leaves ACTIVE (R309). -/
inductive RetrainCause where
  | resendRounds | laneRetired | reference | fenDie
  deriving DecidableEq, Repr

/-- Why a lane is retired (R311). -/
inductive LaneCause where
  | lockFailures | errorRatio | bist
  deriving DecidableEq, Repr

/-- What the first read of a lift answers (R291): whether it could be read, and the bundle's bytes from its start up to
its first block's data. -/
structure LiftHeader where
  readOk : Bool
  bytes  : List Byte
  deriving DecidableEq, Repr

/-- What the read of one block's data answers (R292): the ciphertext of its DATA_LEN bytes, and which parts of it could be
read. -/
structure LiftBlock where
  index     : Nat
  tokRead   : Bool
  pagesRead : Bool
  bytes     : List Byte
  deriving DecidableEq, Repr

/-- The commands and events of the block, in the order of spec/opcode_table.json. -/
inductive Instr where
  /-- REGISTER_WRITE (R15). -/
  | registerWrite (tgt : RegTarget) (size : Nat) (val : Reg64)
  /-- CXL_MEM_READ (R35). -/
  | cxlMemRead (addr : HostAddr) (req : MemRead)
  /-- CXL_MEM_WRITE (R35). -/
  | cxlMemWrite (addr : HostAddr) (req : MemWrite)
  /-- SQ_TAIL (R358). -/
  | sqTail (ld : LdId) (slot : Fin 8) (val : Reg64)
  /-- CQ_HEAD (R358). -/
  | cqHead (ld : LdId) (slot : Fin 8) (val : Reg64)
  /-- SUBMISSION_READ (R230). -/
  | submissionRead (q : Fin 128)
  /-- TICK (R218). `waitShare` is the WAIT share of the ending window (R335), for a tick that is a headland of its own. -/
  | tick (waitShare : Nat)
  /-- HEADLAND (R225), with the WAIT share of the ending window (R335). -/
  | headland (waitShare : Nat)
  /-- FUR_NUM_SET (R194). -/
  | furNumSet (val : Reg64)
  /-- FURROW_SYNC_PULSE (R194). -/
  | furrowSyncPulse (offset : Int) (wide : Bool)
  /-- TICK_REF_LOST (R197): no edge for 100 ns, or, with `lost` false, 1 ms of edges after it. -/
  | tickRefLost (lost : Bool)
  /-- PCIE_REF_LOST (R475). -/
  | pcieRefLost
  /-- RAILE_REF_LOST (R475). -/
  | raileRefLost (die : Fin 4)
  /-- ADMISSION_PASS (R242). -/
  | admissionPass
  /-- TILE_START (R100). -/
  | tileStart (a : ArrId) (t : Clk)
  /-- STEP_ISSUE (R81). -/
  | stepIssue (a : ArrId) (t : Clk) (lost : StepLost)
  /-- HELD_SWAP (R77). -/
  | heldSwap (a : ArrId) (row : Fin 16) (t : Clk)
  /-- CHUNK_UPDATE (R109). -/
  | chunkUpdate (a : ArrId) (row : Fin 16)
  /-- DRAIN (R85). -/
  | drain (a : ArrId) (t : Clk)
  /-- OUTPUT_ROW (R117). -/
  | outputRow (a : ArrId) (t : Clk)
  /-- OUTPUT_ROW_WRITE (R120). -/
  | outputRowWrite (a : ArrAccess)
  /-- PREAMBLE_END (R141). -/
  | preambleEnd (a : ArrId)
  /-- BANK_POWER_DOWN (R139). -/
  | bankPowerDown (a : ArrId) (b : Fin 32) (t : Clk)
  /-- BANK_WAKE_DONE (R138). -/
  | bankWakeDone (a : ArrId) (b : Fin 32)
  /-- LATE_WAKE (R140). -/
  | lateWake (a : ArrId) (addr : Nat) (bytes : List Byte)
  /-- ACQUIRE (R143). -/
  | acquire (a : ArrId) (r : RingUse)
  /-- PUBLISH (R143). -/
  | publish (a : ArrId) (r : Fin 6)
  /-- WAIT (R143). -/
  | wait (a : ArrId) (r : RingUse) (n : Fin 16)
  /-- RELEASE (R143). -/
  | release (a : ArrId) (r : Fin 6)
  /-- NOP (R169). -/
  | nop (a : ArrId) (v : VInstr)
  /-- ADD (R169). -/
  | add (a : ArrId) (v : VInstr)
  /-- SUB (R169). -/
  | sub (a : ArrId) (v : VInstr)
  /-- MUL (R169). -/
  | mul (a : ArrId) (v : VInstr)
  /-- FMA (R169). -/
  | fma (a : ArrId) (v : VInstr)
  /-- MAX (R66). -/
  | max (a : ArrId) (v : VInstr)
  /-- MIN (R66). -/
  | min (a : ArrId) (v : VInstr)
  /-- MAXNUM (R66). -/
  | maxnum (a : ArrId) (v : VInstr)
  /-- MINNUM (R66). -/
  | minnum (a : ArrId) (v : VInstr)
  /-- CMP (R169). -/
  | cmp (a : ArrId) (v : VInstr)
  /-- SEL (R169). -/
  | sel (a : ArrId) (v : VInstr)
  /-- SIGN (R169). -/
  | sign (a : ArrId) (v : VInstr)
  /-- CVT (R169). -/
  | cvt (a : ArrId) (v : VInstr)
  /-- LOGIC (R169). -/
  | logic (a : ArrId) (v : VInstr)
  /-- EXP2 (R170). -/
  | exp2 (a : ArrId) (v : VInstr)
  /-- LOG2 (R170). -/
  | log2 (a : ArrId) (v : VInstr)
  /-- RCP (R170). -/
  | rcp (a : ArrId) (v : VInstr)
  /-- RSQRT (R170). -/
  | rsqrt (a : ArrId) (v : VInstr)
  /-- SIGM (R170). -/
  | sigm (a : ArrId) (v : VInstr)
  /-- TANH (R170). -/
  | tanh (a : ArrId) (v : VInstr)
  /-- EXPD (R174). -/
  | expd (a : ArrId) (v : VInstr)
  /-- ROPE (R178). -/
  | rope (a : ArrId) (v : VInstr)
  /-- QUANT (R172). -/
  | quant (a : ArrId) (v : VInstr)
  /-- RED (R171). -/
  | red (a : ArrId) (v : VInstr)
  /-- TOPK (R173). -/
  | topk (a : ArrId) (v : VInstr)
  /-- PSUM (R126). -/
  | psum (a : ArrId) (v : VAccess)
  /-- EXPSORT (R186). -/
  | expsort (a : ArrId) (v : VAccess)
  /-- LD (R133). -/
  | ld (a : ArrId) (v : VAccess)
  /-- ST (R133). -/
  | st (a : ArrId) (v : VAccess)
  /-- CLD (R135). -/
  | cld (a : ArrId) (v : VAccess)
  /-- CACHE_FILL (R135). -/
  | cacheFill (a : ArrAccess)
  /-- RSTAT (R171). -/
  | rstat (a : ArrId) (v : VInstr)
  /-- MPOS (R181). -/
  | mpos (a : ArrId) (v : VInstr)
  /-- MCMD (R183). -/
  | mcmd (a : ArrId) (v : VInstr)
  /-- BARINC (R169). -/
  | barinc (a : ArrId) (v : VInstr)
  /-- MGEN_LOAD (R181). -/
  | mgenLoad (slot : Fin 8)
  /-- READ (R148). -/
  | read (fe : FeId) (slot : Fin 64)
  /-- WRITE (R148). -/
  | write (fe : FeId) (slot : Fin 64)
  /-- BURST (R150). -/
  | burst (fe : FeId) (slot : Fin 64) (use : BurstUse)
  /-- FAULT_RESUME (R155). -/
  | faultResume (fe : FeId) (slot : Fin 64)
  /-- DESCRIPTOR_COMPLETE (R152). -/
  | descriptorComplete (fe : FeId) (slot : Fin 64)
  /-- WORK_ITEM_COMPLETE (R221). -/
  | workItemComplete (item : Nat)
  /-- ROLE_MSG (R211). -/
  | roleMsg (m : RoleMsg)
  /-- ROLE_ACK (R329). -/
  | roleAck (msgId : Nat)
  /-- STALE_ROLE (R211). -/
  | staleRole (msgId : Nat) (role : BitVec 24) (epoch : BitVec 16)
  /-- CHUNK_COMMIT (R374). -/
  | chunkCommit (i : Fin 4096)
  /-- ROUND_SAMPLE (R265). -/
  | roundSample (round : Nat)
  /-- ROUND_COMMIT (R262). -/
  | roundCommit (round : Nat)
  /-- STALL_LIMIT (R376). -/
  | stallLimit (i : Fin 4096)
  /-- QUERY_DEVICE (R353). -/
  | queryDevice (m : Mbox) (p : List Byte)
  /-- CREATE_QP (R355). -/
  | createQp (m : Mbox) (p : List Byte)
  /-- DELETE_QP (R362). -/
  | deleteQp (m : Mbox) (p : List Byte)
  /-- CANCEL (R237). -/
  | cancel (m : Mbox) (p : List Byte)
  /-- QUERY_REQUEST (R353). -/
  | queryRequest (m : Mbox) (p : List Byte)
  /-- EXPORT (R285). -/
  | exportBundle (m : Mbox) (p : List Byte)
  /-- PARK (R285). -/
  | park (m : Mbox) (p : List Byte)
  /-- LIFT (R291). -/
  | lift (m : Mbox) (p : List Byte)
  /-- RELEASE_REQUEST (R235). -/
  | releaseRequest (m : Mbox) (p : List Byte)
  /-- LD_STATUS (R353). -/
  | ldStatus (m : Mbox) (p : List Byte)
  /-- RESET_SELF (R384). -/
  | resetSelf (m : Mbox) (p : List Byte)
  /-- PROVISION_KEY (R439). -/
  | provisionKey (m : Mbox) (p : List Byte) (session : Option Nat)
  /-- SET_WINDOW (R347). -/
  | setWindow (m : Mbox) (p : List Byte)
  /-- LOAD_IMAGE (R204). -/
  | loadImage (m : Mbox) (p : List Byte) (src : List (Nat × Byte))
  /-- UNLOAD_IMAGE (R353). -/
  | unloadImage (m : Mbox) (p : List Byte)
  /-- LOAD_ADAPTER (R257). -/
  | loadAdapter (m : Mbox) (p : List Byte) (src : List (Nat × Byte))
  /-- RETIRE_ADAPTER (R353). -/
  | retireAdapter (m : Mbox) (p : List Byte)
  /-- LOAD_LP (R255). -/
  | loadLp (m : Mbox) (p : List Byte) (src : List (Nat × Byte))
  /-- UNLOAD_LP (R255). -/
  | unloadLp (m : Mbox) (p : List Byte)
  /-- SET_ROLE (R210). -/
  | setRole (m : Mbox) (p : List Byte)
  /-- SET_CAP (R406). -/
  | setCap (m : Mbox) (p : List Byte)
  /-- RESET_TENANT (R384). -/
  | resetTenant (m : Mbox) (p : List Byte)
  /-- START_RECOVERY (R303). -/
  | startRecovery (m : Mbox) (p : List Byte)
  /-- RESTART (R421). -/
  | restart (m : Mbox) (p : List Byte)
  /-- GET_LOG (R392). -/
  | getLog (m : Mbox) (p : List Byte)
  /-- SET_SLD_SPAN (R343). -/
  | setSldSpan (m : Mbox) (p : List Byte)
  /-- READ_REG (R492). -/
  | readReg (m : Mbox) (p : List Byte)
  /-- WRITE_REG (R492). -/
  | writeReg (m : Mbox) (p : List Byte)
  /-- BACKGROUND_COMMAND_COMPLETE (R348). -/
  | backgroundCommandComplete (m : Mbox)
  /-- IDENTIFY_MEMORY_DEVICE (R346). -/
  | identifyMemoryDevice (m : Mbox)
  /-- GET_EVENT_RECORDS (R349). -/
  | getEventRecords (m : Mbox)
  /-- CLEAR_EVENT_RECORDS (R349). -/
  | clearEventRecords (m : Mbox) (upTo : Nat)
  /-- GET_EVENT_INTERRUPT_POLICY (R349). -/
  | getEventInterruptPolicy (m : Mbox)
  /-- SET_EVENT_INTERRUPT_POLICY (R349). -/
  | setEventInterruptPolicy (m : Mbox) (policy : BitVec 32)
  /-- GET_SUPPORTED_LOGS (R349). -/
  | getSupportedLogs (m : Mbox)
  /-- GET_CXL_LOG (R349). -/
  | getCxlLog (m : Mbox)
  /-- GET_HEALTH_INFO (R349). -/
  | getHealthInfo (m : Mbox)
  /-- GET_TIMESTAMP (R349). -/
  | getTimestamp (m : Mbox)
  /-- SET_TIMESTAMP (R349). -/
  | setTimestamp (m : Mbox) (ns : BitVec 64)
  /-- GET_FW_INFO (R367). -/
  | getFwInfo (m : Mbox)
  /-- TRANSFER_FW (R367). -/
  | transferFw (m : Mbox) (action : Nat) (offset : Nat) (data : List Byte) (slot : Nat)
  /-- ACTIVATE_FW (R460). -/
  | activateFw (m : Mbox) (action : Nat)
  /-- GET_LD_INFO (R340). -/
  | getLdInfo (m : Mbox)
  /-- GET_LD_ALLOCATIONS (R340). -/
  | getLdAllocations (m : Mbox)
  /-- SET_LD_ALLOCATIONS (R347). -/
  | setLdAllocations (m : Mbox) (start : Nat) (units : List Nat)
  /-- HDM_DECODER_COMMIT (R346). -/
  | hdmDecoderCommit (ld : LdId) (dec : Fin 2) (ways : Nat) (base : Nat) (size : Nat)
  /-- COMPLETION_VECTOR (R364). -/
  | completionVector (q : Fin 128)
  /-- COAL_TIMER (R364). -/
  | coalTimer (q : Fin 128)
  /-- QCFG_WRITE (R356). -/
  | qcfgWrite (q : Fin 128) (val : Reg64)
  /-- LD_RQT_WRITE (R231). -/
  | ldRqtWrite (ld : LdId) (val : Reg64)
  /-- LD_POOL_LIMIT_WRITE (R248). -/
  | ldPoolLimitWrite (ld : LdId) (val : Reg64)
  /-- SPDM_REQUEST (R444). -/
  | spdmRequest (port : SpdmPort) (req : SpdmReq)
  /-- IDE_KM (R365). -/
  | ideKm (session : Option Nat) (keys : IdeKeys)
  /-- IDE_FAIL (R393). -/
  | ideFail
  /-- TABLE_ACCESS (R366). -/
  | tableAccess (m : Mbox)
  /-- DOE_DISCOVERY (R340). -/
  | doeDiscovery (m : Mbox)
  /-- ENTDAA (R478). -/
  | entdaa (addr : BitVec 7)
  /-- MCTP_CONTROL (R478). -/
  | mctpControl (cmd : BitVec 8)
  /-- PLDM_REQUEST (R478). -/
  | pldmRequest (sensor : PldmSensor)
  /-- IN_BAND_INTERRUPT (R478). -/
  | inBandInterrupt (cause : IbiCause)
  /-- BUNDLE_WRITTEN (R288). -/
  | bundleWritten (i : Fin 4096)
  /-- BUNDLE_WRITE_FAILED (R290). -/
  | bundleWriteFailed (i : Fin 4096)
  /-- LIFT_HEADER_READ (R291). -/
  | liftHeaderRead (i : Fin 4096) (h : LiftHeader)
  /-- LIFT_BLOCK_READ (R292). -/
  | liftBlockRead (i : Fin 4096) (b : LiftBlock)
  /-- LIFT_RESOW_BOOKING (R293). -/
  | liftResowBooking (i : Fin 4096)
  /-- JOURNAL_BATCH_DONE (R368). -/
  | journalBatchDone (error : Bool)
  /-- JRNL_TAIL_WRITE (R298). -/
  | jrnlTailWrite (val : Reg64)
  /-- RECOVER_LD (R303). -/
  | recoverLd (ld : LdId) (batches : List (List Byte))
  /-- PORT_ENABLE (R309). -/
  | portEnable (p : PortId)
  /-- PORT_DISABLE (R309). -/
  | portDisable (p : PortId)
  /-- PARTNER_DETECTED (R309). -/
  | partnerDetected (p : PortId)
  /-- LANES_LOCKED (R310). -/
  | lanesLocked (p : PortId) (lanes : BitVec 4)
  /-- EQUALISE_TIMEOUT (R309). -/
  | equaliseTimeout (p : PortId) (lanes : BitVec 4)
  /-- ALIGN_DONE (R309). -/
  | alignDone (p : PortId)
  /-- PARAM_EXCHANGED (R309). -/
  | paramExchanged (p : PortId) (node : NodeId) (bootId : BitVec 32)
  /-- RETRAIN (R309). -/
  | retrain (p : PortId) (cause : RetrainCause)
  /-- LANE_RETIRE (R311). -/
  | laneRetire (p : PortId) (lane : Fin 4) (cause : LaneCause)
  /-- FRAME_RECEIVED (R314). -/
  | frameReceived (p : PortId) (f : Frame)
  /-- FRAME_RESEND_TIMEOUT (R314). -/
  | frameResendTimeout (p : PortId)
  /-- ACK_REPORT (R314). -/
  | ackReport (p : PortId)
  /-- ROUTE_WRITE (R317). -/
  | routeWrite (idx : Fin 1024) (val : Reg64)
  /-- REGION_WRITE (R326). -/
  | regionWrite (i : Fin 512) (reg : Fin 4) (val : Reg64)
  /-- HELLO (R318). -/
  | hello (h : HelloMsg)
  /-- HELLO_ACK (R318). -/
  | helloAck (h : HelloMsg)
  /-- HELLO_RETRY (R318). -/
  | helloRetry (n : NodeId)
  /-- BYE (R318). -/
  | bye (n : NodeId) (b : ByeMsg)
  /-- KEEPALIVE (R318). -/
  | keepalive (n : NodeId) (m : KeepaliveMsg)
  /-- PEER_SUSPECT (R318). -/
  | peerSuspect (n : NodeId)
  /-- PEER_DOWN (R319). -/
  | peerDown (n : NodeId)
  /-- FLOW_OPEN (R320). -/
  | flowOpen (m : FlowMsg)
  /-- FLOW_ACCEPT (R320). -/
  | flowAccept (m : FlowMsg)
  /-- FLOW_REFUSE (R320). -/
  | flowRefuse (m : FlowMsg)
  /-- WRITE_PACKET (R323). -/
  | writePacket (k : Packet)
  /-- READ_REQ (R323). -/
  | readReq (k : Packet)
  /-- READ_RESP (R321). -/
  | readResp (k : Packet)
  /-- ATOMIC_REQ (R322). -/
  | atomicReq (k : Packet)
  /-- ATOMIC_RESP (R322). -/
  | atomicResp (k : Packet)
  /-- ACK (R324). -/
  | ack (k : Packet) (cumPsn : BitVec 32) (credits : BitVec 16)
  /-- NACK (R327). -/
  | nack (k : Packet) (nackPsn : BitVec 32) (code : BitVec 8)
  /-- RETRANSMIT_TIMEOUT (R324). -/
  | retransmitTimeout (n : NodeId) (ctx : Fin 17) (flow : Fin 16)
  /-- NOTIFY (R330). -/
  | notify (m : NotifyMsg)
  /-- SYNC (R332). -/
  | sync (n : NodeId) (furrow : Nat) (inWindow : Nat) (txTime : Int) (rxTime : Int)
  /-- SYNC_JOIN (R331). -/
  | syncJoin (n : NodeId)
  /-- DELAY_REQ (R331). -/
  | delayReq (n : NodeId) (rxTime : Int) (txTime : Int)
  /-- DELAY_RESP (R331). -/
  | delayResp (n : NodeId) (t1 : Int) (t2 : Int) (t3 : Int) (t4 : Int)
  /-- BOOK_QUERY (R333). -/
  | bookQuery (n : NodeId) (job : BitVec 18) (gangW : Nat) (gangs : Nat) (first : Nat) (last : Nat)
  /-- BOOK_REPLY (R333). -/
  | bookReply (n : NodeId) (job : BitVec 18) (free : List Nat)
  /-- BOOK_COMMIT (R333). -/
  | bookCommit (n : NodeId) (job : BitVec 18) (i : Fin 4096) (chain : List Nat)
  /-- BOOK_ACK (R333). -/
  | bookAck (n : NodeId) (job : BitVec 18) (ok : Bool)
  /-- POWER_STATUS (R336). -/
  | powerStatus (n : NodeId) (shard : Nat) (capW : Nat) (lendMax : Nat) (waitShare : Nat)
  /-- POWER_GRANT (R337). -/
  | powerGrant (lender : NodeId) (borrower : NodeId) (watts : Nat) (window : Nat)
  /-- PARITY_ERROR (R371). -/
  | parityError (st : ParityStruct)
  /-- SCRUB_READ (R372). -/
  | scrubRead (line : Nat) (ecc : EccResult)
  /-- WATCHDOG (R381). -/
  | watchdog (c : Fin 4)
  /-- ARRAY_RESET (R386). -/
  | arrayReset (a : ArrId) (ownError : Bool)
  /-- ARRAY_TEST_DONE (R386). -/
  | arrayTestDone (a : ArrId) (pass : Bool)
  /-- FEN_DIE_RESET (R387). -/
  | fenDieReset (die : Fin 4)
  /-- DEVICE_HALT (R388). -/
  | deviceHalt (source : BitVec 8) (code : BitVec 16)
  /-- PC_RETIRE (R389). -/
  | pcRetire (pc : Fin 640)
  /-- REDIRECT_COPY_DONE (R391). -/
  | redirectCopyDone (slot : Fin 2)
  /-- FLT_INJECT (R394). -/
  | fltInject (val : Reg64)
  /-- TELEMETRY_SAMPLE (R400). -/
  | telemetrySample (rails : List RailSample)
  /-- CAP_LOOP (R410). -/
  | capLoop (withheld : Nat)
  /-- ENERGY_INTERVAL (R422). -/
  | energyInterval (act : Activity)
  /-- AVS_TRIM (R398). -/
  | avsTrim (lower : Bool)
  /-- CURRENT_LIMIT (R411). -/
  | currentLimit
  /-- DROOP_DETECT (R412). -/
  | droopDetect
  /-- DROOP_END (R412). -/
  | droopEnd (extraPeriods : Nat)
  /-- BROWNOUT_WARN (R413). -/
  | brownoutWarn
  /-- BROWNOUT_CLEAR (R413). -/
  | brownoutClear
  /-- SUPPLY_RESET (R413). -/
  | supplyReset
  /-- SENSOR_READ (R417). -/
  | sensorRead (temps : Temps)
  /-- FLOW_FAIL (R476): FLOW_FAIL_N has been low for 500 ns, or is high again. -/
  | flowFail (low : Bool)
  /-- OP_RAISE_PREPARE (R409). -/
  | opRaisePrepare
  /-- PWR_CFG_WRITE (R397). -/
  | pwrCfgWrite (val : Reg64)
  /-- COMMIT (R432). -/
  | commit
  /-- COMMIT_DONE (R432). -/
  | commitDone
  /-- REVOKE (R432). -/
  | revoke (mask : BitVec 4)
  /-- FENCE_REQ (R446). -/
  | fenceReq
  /-- FENCE_DONE (R446). -/
  | fenceDone
  /-- SEC_KEY_CLEAR (R447). -/
  | secKeyClear (mask : BitVec 16)
  /-- DOMAIN_KEY_LOCK (R438). -/
  | domainKeyLock
  /-- BYPASS (R448). -/
  | bypass
  /-- IDCODE (R480). -/
  | idcode
  /-- SAMPLE_PRELOAD (R448). -/
  | samplePreload
  /-- EXTEST (R448). -/
  | extest
  /-- CLAMP (R448). -/
  | clamp
  /-- HIGHZ (R448). -/
  | highz
  /-- IKB_CHAL (R449). -/
  | ikbChal
  /-- IKB_UNLOCK (R450). -/
  | ikbUnlock (bits : Nat) (signed rest : List Byte)
  /-- DAP_ACCESS (R448). -/
  | dapAccess
  /-- PWRGOOD_RISE (R455). -/
  | pwrgoodRise (boot : BootPath)
  /-- PWRGOOD_FALL (R456). -/
  | pwrgoodFall
  /-- PERST_ASSERT (R456). -/
  | perstAssert
  /-- PERST_DEASSERT (R454). -/
  | perstDeassert (mldEn : Bool) (rsvStrap : BitVec 2) (partner : LinkPartner) (boot : BootPath)
  /-- BOOT_ROM_START (R427). -/
  | bootRomStart
  /-- POWER_UP_BIST_DONE (R464). -/
  | powerUpBistDone (findings : List BistFinding)
  /-- BIST_SELF_RESTART (R465). -/
  | bistSelfRestart
  /-- GO (R466). -/
  | go (val : Reg64)
  /-- BIST_TEST_DONE (R466). -/
  | bistTestDone (res : ArrayTest)
  /-- FLOW_WAIT_END (R465). -/
  | flowWaitEnd
  /-- CURRENT_LIMIT_RISE (R411). -/
  | currentLimitRise
  /-- STACKS_LEAVE_SELF_REFRESH (R387). -/
  | stacksLeaveSelfRefresh (die : Fin 4)
  deriving DecidableEq, Repr

end Sys2Proof
end

