-- ==== Sys2Proof/Machine/State.lean ====
section
/-! DEFINITION. The state of the Ikiba 7240 as plain data: every register, table, queue, buffer, counter and pin that
spec/ gives the device, `State.reset`, and the two reason types. Each structure's docstring names the rules of spec/
that give its fields. INVENTORY.md lists them one by one with their reset values. -/

namespace Sys2Proof.Machine

/-- Faults: the model raises none. Every behaviour the spec calls a fault is an effect on the state (a fault record, a
stop, a halt), so every meaning answers a next state. The one constructor is raised by nobody; it keeps the type
inhabited. Safe. -/
inductive Fault where
  | neverRaised
  deriving DecidableEq, Repr

/-- Refusals. `notModelled` is raised by an arm of `exec` for a command without a meaning: no arm of this model does.
Safe. -/
inductive Refusal where
  | notModelled (mnemonic : String)
  deriving DecidableEq, Repr

/-- The two parts (R3). -/
inductive Part where
  | ikb7240 | ikb7236
  deriving DecidableEq, Repr

/-- What is fused into one part (R396, R397, R425, R478) and how many arrays it shipped with (R4). -/
structure Fuses where
  part       : Part
  serial     : BitVec 32
  arrays     : BitVec 64            -- shipped enable mask (R4, R5)
  vtable     : List (BitVec 64)     -- VTABLE[op] (R396)
  vref       : List (BitVec 64)     -- VREF[op] (R397)
  svn        : Nat                  -- blown bits of SVN_FUSE (R425)
  keyRevoke  : BitVec 4
  keyHash    : List (List Byte)     -- KEY_HASH[0–3]
  debugHash  : List Byte            -- DEBUG_KEY_HASH
  uds        : List Byte            -- unique device secret
  deviceCert : List Byte            -- DEVICEID_CERT, 2 KiB
  fuseOk     : Bool                 -- the fuse code checks (R427 step 1)
  deriving DecidableEq, Repr

/-- Owner tags of 64 KiB frames (R32). -/
inductive Tag where
  | reserve | image | window (t : Nat) | pool (t : Nat) | free
  deriving DecidableEq, Repr

/-- A binding of a work item, resolved (R202): the space it lies in and its base address. -/
structure Binding where
  kind : Nat
  base : Nat
  deriving DecidableEq, Repr

/-- The fields of a tile descriptor (R98). -/
structure TileDesc where
  aFmt : Nat := 0
  bFmt : Nat := 0
  aScl : Nat := 0
  bScl : Nat := 0
  outFmt : Nat := 0
  mpass : Nat := 0
  sat : Bool := false
  blk16 : Bool := false
  elemsM1 : Nat := 0
  promo : Nat := 0
  gangW : Nat := 0
  gangMode : Nat := 0
  holdMode : Nat := 0
  accBase : Nat := 0
  cont : Bool := false
  drain : Bool := false
  shift : Nat := 0
  tailRows : Nat := 0
  kSteps : Nat := 0
  rowValid : Nat := 0
  maskSrc : Nat := 0
  maskFill : Bool := false
  fuse : Nat := 0
  outBase : Nat := 0
  feedBase : Nat := 0
  feedMStride : Nat := 0
  feedKStride : Nat := 0
  holdCStride : Nat := 0
  holdKStride : Nat := 0
  holdBase : Nat := 0
  maskBase : Nat := 0
  outMStride : Nat := 0
  holdRStride : Nat := 0
  bSclBase : Nat := 0
  aSclMStride : Nat := 0
  aSclBase : Nat := 0
  tsAEn : Bool := false
  tsBEn : Bool := false
  bSclCStride : Nat := 0
  tscaleA : Lane32 := 0
  tscaleB : Lane32 := 0
  reserved : Bool := false          -- some reserved field is not 0
  deriving DecidableEq, Repr

/-- A 32-element segment of an operand with its block scales, as element codes (R76, R79). -/
structure Segment where
  elems  : List Nat
  scales : List Nat
  deriving DecidableEq, Repr

/-- A row's active held buffer: the load it was filled by, that load's tile and step, and the segment of each of the 64
columns (R76, R77). -/
structure HeldBuf where
  seq  : Nat := 0                   -- number of the load within its work item
  tile : Nat := 0
  step : Nat                        -- running step index over all passes
  cols : List Segment
  deriving DecidableEq, Repr

/-- A held load on its way down the grid (R76, R77): what it read, once, when it began, for each row that swaps to it later. -/
structure HeldLoad where
  seq    : Nat
  tile   : Nat
  step   : Nat
  rows   : List (List Segment)      -- one list of 64 segments for all rows, or one per row in cell mode
  ready  : Nat                      -- clock at which row 0's inactive buffer is complete
  swapAt : Option Nat := none       -- clock of row 0's swap to it
  deriving DecidableEq, Repr

/-- An entry of a feeder queue (R79): the issue clock of the tile that takes it, counted from 0, the segments with their
elements, and the clock at which the row issues it, once its issue is decided. -/
structure FeedEntry where
  tile : Nat
  at_  : Nat
  segs : List (Nat × Segment)
  out  : Option Nat := none
  deriving DecidableEq, Repr

/-- A logical row's feeder: the next issue clock of the tile in progress that it reads for, and its queue of up to 16 entries (R79). -/
structure Feeder where
  next : Nat := 0
  q    : List FeedEntry := []
  deriving DecidableEq, Repr

/-- One row's part of an issued step, waiting in the pipeline for its chunk update (R80, R83). `held` is taken from the
row's active buffer at the clock the row itself issues, so it is absent until the row has swapped to the step. -/
structure RowStep where
  row   : Nat
  elem  : Nat
  step  : Nat                       -- k within the pass
  pass  : Nat                       -- pass number minus 1
  gstep : Nat                       -- step index over all passes
  tile  : Nat
  issue : Nat                       -- the row's first issue clock of the step, clocks from the tick
  fed   : Segment
  held  : Option (List Segment)     -- one segment per column
  desc  : TileDesc
  deriving DecidableEq, Repr

/-- A tile in an array: descriptor, index within its work item, issue clocks made, and the clocks that decide what may
follow (R77, R100). -/
structure TileRun where
  desc     : TileDesc
  idx      : Nat
  start    : Nat                    -- clock at which it started
  begun    : Nat := 0               -- segments whose held load has begun
  issued   : Nat := 0               -- issue clocks of row 0 made
  swap     : Nat := 0               -- clock of row 0's latest swap
  last     : Nat := 0               -- last_issue of R101, once every issue clock is made
  deriving DecidableEq, Repr

/-- A tile whose issue has ended and whose drain is due or running (R84, R85). -/
structure DrainRun where
  desc    : TileDesc
  idx     : Nat
  due     : Nat                     -- drain_start of R101
  started : Option Nat              -- clock of the drain's begin
  nextRow : Nat := 0
  deriving DecidableEq, Repr

/-- States of an accumulator entry number (R115, ACC_STATE of R128). -/
inductive EntState where
  | free | active | held | draining | invalid
  deriving DecidableEq, Repr

/-- One accumulator entry of one cell: an FP32 or INT32 total and an FP20 chunk in its FP32 container, each possibly
empty (R49, R108). -/
structure AccCell where
  total : Option (BitVec 32) := none
  chunk : Option (BitVec 32) := none
  deriving DecidableEq, Repr

/-- One accumulator entry of a row's 64 cells; entries whose cells are all empty are not listed. -/
structure AccRow where
  row   : Nat
  ent   : Nat
  cells : List AccCell
  deriving DecidableEq, Repr

/-- An output row in the output stage, waiting for its scratchpad write (R120, R132). -/
structure OutRow where
  m     : Nat
  addr  : Nat
  bytes : List Byte
  stats : List (Option Lane32)      -- ROWMAX, ROWSUM, ROWSQ where FUSE selects them
  tile  : Nat
  clk   : Nat                       -- clock at which the row issues its write
  last  : Bool                      -- last row of its tile
  deriving DecidableEq, Repr

/-- One entry of the row-statistics buffer (R119). -/
structure RowStat where
  max : Lane32
  sum : Lane32
  sq  : Lane32
  tag : Option Nat                  -- tile index; none when unwritten
  deriving DecidableEq, Repr

/-- States of a scratchpad bank (R138). -/
inductive BankPower where
  | on | sleep | waking | off
  deriving DecidableEq, Repr

/-- One scratchpad bank: its power state, accepted and unperformed writes (R139), whether the work item in force uses
it, and whether a power-down was requested at the tick. -/
structure Bank where
  power   : BankPower := .off
  pending : List (Nat × Byte) := [] -- (byte of the bank, value), oldest first
  booked  : Bool := false
  pdReq   : Bool := false
  deriving DecidableEq, Repr

/-- A ring (R142, R143): configuration of the work item, and the head and tail counters. -/
structure Ring where
  enable : Bool := false
  base   : Nat := 0
  slotSize : Nat := 0
  slots  : Nat := 0
  head   : Nat := 0
  tail   : Nat := 0
  filled : Nat := 0                 -- bytes moved into (IN) or out of (OUT) the current slot by the engine
  claimed : Bool := false           -- the producer holds position tail
  filledUp : Nat := 0               -- positions from tail on that are filled and wait for their last writes to be performed
  waitP  : Option (Nat × Nat) := none          -- the producer is stalled: its unit, the last clock counted
  waitC  : Option (Nat × Nat × Nat) := none    -- the consumer is stalled on head + n: n, its unit, the last clock counted
  deriving DecidableEq, Repr

/-- A slot table entry of the work item on the array, with its epochs (R207, R208). -/
structure SlotRun where
  base     : Nat
  size     : Nat
  producer : Nat
  consumer : Nat
  reads    : Nat
  fillEp   : Nat := 0
  drainEp  : Nat := 0
  written  : Nat := 0
  readB    : Nat := 0
  deriving DecidableEq, Repr

/-- A line of the scratchpad's cache mode (R135): its owner, line address and bytes, with its last use. -/
structure CacheLine where
  owner : Nat                       -- LD, or 16 + image handle
  line  : Nat
  bytes : List Byte
  use   : Nat
  deriving DecidableEq, Repr

/-- A cached load waiting for its fills (R135, R165). -/
structure CldRun where
  instr : VInstr
  at_   : Nat                       -- its issue clock
  owner : Nat                       -- LD, or 16 + image handle
  addr  : Nat
  data  : List Byte := []           -- bytes of the 2 KiB already read
  deriving DecidableEq, Repr

/-- A mask command queued for an array (R183): `no` counts the array's commands, `next` is the next row to deliver. -/
structure MaskCmd where
  mode : Nat
  qshift : Nat
  slot : Nat                        -- physical MGEN slot
  k0 : Nat
  q0 : Nat
  no : Nat
  at_ : Nat                         -- clock of the command
  next : Nat := 0
  deriving DecidableEq, Repr

/-- Array states (ARR_STATE, R104) and engine-like states of the vector engine (R188). -/
inductive ArrState where
  | idle | running | stalled | draining | fallow
  deriving DecidableEq, Repr

inductive VeState where
  | idle | running | held | fallow
  deriving DecidableEq, Repr

/-- Thermal, and test state of one array beside its data path: its sluice limits (R402), temperature (R416), reset
history (R386) and test state (R466, R467). -/
structure ArrCare where
  thermal  : Nat := 8               -- thermal sluice (R417)
  temp     : Nat := 0
  tickTemp : Nat := 0               -- the reading at the last tick (R219)
  testing  : Bool := false          -- under the test of R386 or R466
  disturbed : Bool := false         -- a droop or a brownout warning fell into the attempt that runs (R458)
  reruns   : Nat := 0               -- times that the test was run again after such an attempt (R458)
  resetAt  : Option Nat := none     -- furrow in which a reset began
  resets   : List Nat := []         -- furrows of resets
  errors   : List Nat := []         -- furrows of errors of R371
  retired  : Bool := false
  hot      : Nat := 0               -- readings at or above 100 °C since the last step down (R417)
  calm     : Nat := 0               -- readings below 97 °C since the last step up
  throttled : Bool := false         -- throttled at some time in this furrow
  deriving DecidableEq, Repr

/-- One MAC array with its scratchpad, rings and vector engine (R72–R128, R129–R145, R163). -/
structure ArrayUnit where
  st       : ArrState := .fallow
  item     : Option Nat := none               -- work item of the array, by its id in State.items
  tiles    : List TileDesc := []              -- descriptors still to start
  tileNo   : Nat := 0                         -- index of the next tile
  cur      : Option TileRun := none
  drains   : List DrainRun := []
  act      : List (Option HeldBuf) := List.replicate 16 none   -- active held buffers per row
  loads    : List HeldLoad := []                   -- held loads that some row has not yet swapped to, oldest first
  loadNo   : Nat := 0                              -- held loads begun in the work item
  feeders  : Vector Feeder 16 := Vector.replicate 16 {}        -- feeder queues of the logical rows (R79)
  pipe     : List RowStep := []
  ent      : Vector EntState 16 := Vector.replicate 16 .free
  entTile  : List (Nat × Nat × Nat × Nat) := []    -- (entry, holding tile, E, n)
  lastHeld : Option Nat := none                    -- latest tile with DRAIN = 0 of the work item
  acc      : List AccRow := []
  outq     : List OutRow := []
  outAt    : Nat := 0                              -- first clock in which the output stage takes another row (R84)
  stats    : List (Nat × RowStat) := []
  maskq    : List MaskCmd := []
  maskBuf  : List (Nat × Nat × Nat) := []          -- (command number, row, mask word), at most 256 words (R184)
  maskAt   : Nat := 0                              -- quarter clock from which the next word may be delivered (R184)
  maskNo   : Nat := 0                              -- mask commands issued in the work item
  maskUsed : Nat := 0                              -- command of the next masked tile that drains
  maskRows : List Nat := []                        -- output rows of each MASK_SRC 2 tile of the work item, in tile order
  spad     : List Host.Cell := []                  -- software banks by software address, unlisted bytes read 0
  swBanks  : Nat := 32
  cacheBanks : Nat := 0
  banks    : Vector Bank 32 := Vector.replicate 32 {}
  rings    : Vector Ring 6 := Vector.replicate 6 {}
  slots    : List SlotRun := []
  cache    : List CacheLine := []
  cld      : Option CldRun := none
  preamble : Bool := false                         -- the preamble of R141 is running
  portq    : List (Nat × List Byte) := []          -- bursts that wait at the inbound port: (ring, bytes)
  ve       : VeState := .fallow
  vpos     : Nat := 0                              -- instructions of the work item's stream executed
  vlen     : Nat := 0                              -- instructions in the stream
  veClk    : Nat := 0                              -- issue clock of the last instruction (R164)
  vregs    : Vector (Vector Lane32 512) 32 := Vector.replicate 32 (Vector.replicate 512 0)
  care     : ArrCare := {}
  deriving DecidableEq, Repr

/-- States of a descriptor's progress record (R151). -/
inductive DescState where
  | queued | waiting | setup | running | ringStall | faulted | done | discarded
  deriving DecidableEq, Repr

/-- A fetch descriptor's fields (R148) and its progress record (R151). -/
structure Desc where
  op      : Nat := 0
  space   : Nat := 0
  ndim    : Nat := 1
  indexMode : Nat := 0
  indexDim : Nat := 0
  indexW  : Bool := false
  indexMem : Bool := false
  hint    : Nat := 0
  fence   : Bool := false
  endB    : Bool := false
  array   : Nat := 0
  ring    : Nat := 0
  baseSel : Nat := 0
  signalBar : Nat := 0xFF
  waitBar : Nat := 0xFF
  waitVal : Nat := 0
  base    : Nat := 0
  counts  : List Nat := []          -- COUNT1–COUNT4
  len0    : Nat := 1
  strides : List Int := []          -- STRIDE1–STRIDE4
  indexBase : Nat := 0
  seq     : Nat := 0
  deriving DecidableEq, Repr

/-- A READ_REQ of a descriptor (R321): its OP_ID, whether it reads the entry of a list, the address, the bytes asked for and those that
have come. -/
structure RaileRead where
  op   : Nat
  list : Bool
  addr : Nat
  len  : Nat
  data : List Byte := []
  deriving DecidableEq, Repr

/-- A WRITE of a descriptor that its target has not acknowledged (R319, R323). -/
structure RaileWrite where
  op   : Nat
  addr : Nat
  data : List Byte
  pos  : List Nat := [0, 0, 0, 0, 0]   -- the descriptor's positions before it
  delivered : Nat := 0
  deriving DecidableEq, Repr

/-- A descriptor in one of an engine's 64 slots (R146, R151). -/
structure DescRun where
  desc  : Desc
  item  : Nat                       -- work item id; device work has ids of State.ops
  order : Nat                       -- place in the engine's list order
  st    : DescState := .queued
  code  : Nat := 0
  pos   : List Nat := [0, 0, 0, 0, 0]   -- POS0–POS4
  delivered : Nat := 0
  faultAddr : Nat := 0
  stallAt : Option Nat := none      -- clock up to which its ring stall is counted (R162)
  ntf : Option (NodeId × BitVec 24 × Nat) := none   -- node, role and barrier of the region's NOTIFY (R330)
  ntfMsg : Option Nat := none       -- its message, until acknowledged
  notified : Bool := false          -- NOTIFY acknowledged
  rd : List RaileRead := []         -- what it asks of another node, until used (R321)
  wr : List RaileWrite := []        -- what it has sent to another node, until acknowledged (R323)
  src : Option Nat := none          -- its place in the leader's scratchpad, until the engine has read it there (R147)
  setAt : Nat := 0                  -- clock at which its setup began (R160)
  deriving DecidableEq, Repr

/-- An unresolved fault of a fetch engine (R154, R162): of the descriptor in a slot, or of a cache-mode fill. -/
structure FeFault where
  fill : Bool
  slot : Nat
  code : Nat
  ld   : Nat
  rqt  : Nat
  addr : Nat
  deriving DecidableEq, Repr

/-- One fetch engine (R146): its slots, the descriptors of its lists that wait for a slot, and its unresolved faults, oldest first. -/
structure FetchUnit where
  fallow : Bool := true
  slots  : List (Nat × DescRun) := []
  waitq  : List DescRun := []
  orderNo : Nat := 0
  faults : List FeFault := []
  deriving DecidableEq, Repr

/-- A line present in a mere cache slice (R158, R159). -/
structure MereLine where
  line : Nat
  keep : Bool
  way  : Nat
  deriving DecidableEq, Repr

/-- A mere cache slice: lines present, the tree pseudo-LRU bits per set, and KEEP_WAYS in force (R159). -/
structure MereSlice where
  lines : List MereLine := []
  plru  : List (Nat × Nat) := []
  keepWays : Nat := 8
  allocates : Bool := true          -- false once it has more failing rows than spares (R462)
  deriving DecidableEq, Repr

/-- A mask-generator slot (R179, R181). -/
structure MgenSlot where
  busy   : Option Nat := none       -- entry that holds the slot
  tree   : Bool := false
  tokens : Nat := 0
  prefixLen : Nat := 0              -- L
  window : Nat := 0                 -- W
  loaded : Bool := false
  parents : List Nat := []
  size   : List Nat := []
  pre    : List Nat := []
  depth  : List Nat := []
  deriving DecidableEq, Repr

/-- A work item of the current furrow (R201, R218, R219). -/
structure ItemRun where
  id       : Nat
  rqt      : Nat                    -- entry; a round's items name its first seat
  round    : Option Nat             -- generation round
  recIdx   : Nat                    -- record index within WORK_ITEMS
  image    : Nat
  step     : Nat
  gang     : Nat                    -- gang place within the step
  number   : Nat                    -- WORK_ITEM
  layer    : Nat
  leader   : Nat
  width    : Nat
  mode     : Nat
  declared : Nat
  flags    : Nat
  mgenSlot : Option Nat
  mgenBind : Nat := 0               -- MGEN_BIND, the binding that the slot serves
  barMap   : List Nat               -- physical counter of each barrier number
  engines  : List Nat               -- physical engine of each engine slot
  binds    : List Binding
  arrived  : List Nat               -- barrier increments held for it (R330)
  done     : Bool := false
  tilesDone : Nat := 0
  sticky   : Nat := 0               -- OVF, NAN_LOST, INT_SAT, SCALE_OVF, SCALE_UFL, NAN (R58, R124)
  stops    : Nat := 0               -- stop count (R375)
  halted   : Nat := 0               -- 0 running; else why it stopped before its tick: 1 schedule fault, 2 error of R371,
                                    -- 3 uncountable stop of R376
  haltCause : Nat := 0              -- cause code of R227 charged for the stop
  point    : Option (Nat × Nat × Nat) := none      -- kind and place of a schedule fault in this run
  lastPoint : Option (Nat × Nat × Nat) := none     -- the same of the run before
  failStatus : Nat := 0             -- completion status with which the request fails at the tick
  deriving DecidableEq, Repr

/-- A work item to be replayed (R222), with its stop count and the point of its last schedule fault (R209). -/
structure Replay where
  recIdx : Nat
  gang  : Nat
  step  : Nat
  stops : Nat
  point : Option (Nat × Nat × Nat)  -- kind, where, where
  deriving DecidableEq, Repr

/-- A loaded image (R198, R353): its frames in order, its length, its digest and whether it is a weight image. -/
structure Image where
  frames  : List Nat
  length  : Nat
  digest  : List Byte
  weight  : Bool
  damaged : Bool := false
  refs    : List (Nat × Nat × Nat × Nat) := []   -- WEIGHT_REFS: handle, LOCAL, OFFSET, LENGTH (R498)
  ready   : Bool := true            -- its background load has completed
  deriving DecidableEq, Repr

inductive SlotState where
  | empty | loading | ready | retiring
  deriving DecidableEq, Repr

/-- An adapter slot (R256, R257). -/
structure Adapter where
  st      : SlotState := .empty
  id      : Nat := 0
  version : Nat := 0
  handle  : Nat := 0
  frames  : List Nat := []
  damaged : Bool := false
  deriving DecidableEq, Repr

/-- A learned-prefix slot (R255, R286). -/
structure LearnedPrefix where
  st     : SlotState := .empty
  handle : Nat := 0
  len    : Nat := 0
  frames : List Nat := []
  digest : List Byte := []
  damaged : Bool := false
  deriving DecidableEq, Repr

/-- Request states (R233). -/
inductive RqState where
  | free | queued | admitted | running | generating | parking | parked | lifting | complete | cancelled
  | failed | failedPartial
  deriving DecidableEq, Repr

/-- One 64-position block of a request (R245, R279). -/
structure Block where
  hash   : List Byte := []
  valid  : Nat := 0
  shared : Bool := false
  lp     : Bool := false
  node   : Option Nat := none
  pages  : List Nat := []           -- TVA per layer; 0 absent
  written : Nat := 0                -- W of R279
  forked : Bool := false
  deriving DecidableEq, Repr

/-- A lane-furrow of the booking calendar (R213, R220). -/
structure LaneFurrow where
  furrow : Nat
  gangW  : Nat
  gangs  : Nat
  barMax : Nat
  feMax  : Nat
  engines : List Nat
  mgen   : Bool := false
  deriving DecidableEq, Repr

/-- Request parameters taken from the RPB (R229). -/
structure Params where
  seed    : List Byte := List.replicate 16 0
  rngBase : BitVec 64 := 0
  invTemp : Lane32 := 0
  topP    : Lane32 := 0
  topK    : Nat := 0
  repPen  : Lane32 := 0
  presPen : Lane32 := 0
  freqPen : Lane32 := 0
  greedy  : Bool := false
  countPrompt : Bool := false
  pxtLookup : Bool := false
  pxtInsert : Bool := false
  maxNew  : Nat := 0
  eos     : List Nat := []
  stops   : List (List Nat) := []
  parents : List Nat := []
  branches : List Nat := []
  raw     : List Byte := []         -- the RPB as read, for the journal (R301)
  deriving DecidableEq, Repr

/-- A request table entry: the fields of R233, and what the device keeps beside it for the request (booked chain,
progress of the chunk, replays, blocks, tokens). -/
structure Entry where
  state    : RqState := .free
  ld       : Nat := 0
  queue    : Nat := 0
  cls      : Nat := 0
  acceptRequote : Bool := false
  retain   : Bool := false
  cancelPending : Bool := false
  late     : Bool := false
  forest   : Bool := false
  draft    : Bool := false
  image    : Nat := 0
  adapterSlot : Option Nat := none
  lpSlot   : Option Nat := none
  adapterId : Nat := 0xFFFF
  plan     : Nat := 0
  tag      : Nat := 0
  tSubmit  : Nat := 0
  ttft     : Nat := 0
  tbt      : Nat := 0
  quote    : Nat := 0
  committed : Nat := 0
  booked   : Nat := 0
  seedRng  : Params := {}
  energy   : Nat := 0
  rpb      : Nat := 0
  pendingTok : Option Nat := none
  genLeft  : Nat := 0
  tbtMiss  : Nat := 0
  tFirst   : Nat := 0
  tLast    : Nat := 0
  tailQuote : Nat := 0
  tbtMax   : Nat := 0
  draftsAccepted : Nat := 0
  prefixHit : Nat := 0
  parent   : Option Nat := none
  lateCause : Nat := 0
  stop     : Nat := 0
  status   : Nat := 0
  targetLen : Nat := 0
  quoteOrig : Nat := 0
  bundle   : Nat := 0
  deriving DecidableEq, Repr

/-- What recovery restores once an entry's cache is back (R303): its state, lengths, sampler parameters, and the tokens
that its counts table counts beyond its bundle. -/
structure Recover where
  state     : RqState
  committed : Nat
  pending   : Option Nat
  genLeft   : Nat
  params    : Option Params         -- none where only its bundle holds them
  draft     : Bool
  addTok    : List Nat
  deriving DecidableEq, Repr

/-- What the device keeps beside an entry (R213, R216, R222, R239, R245, R251, R269, R285). -/
structure Work where
  tokens   : List Nat := []         -- input tokens of the latest submission
  history  : List Nat := []         -- token of each position from the learned prefix up
  tail     : List Nat := []         -- tokens streamed in the tail
  drafts   : List Nat := []         -- drafts for the positions after COMMITTED (R265)
  counted  : Nat := 0               -- input tokens counted under COUNT_PROMPT (R269)
  counts   : List (Nat × Nat) := [] -- counts table, unlisted ids 0 (R269)
  blocks   : List Block := []
  hits     : List Nat := []         -- nodes referenced by the lookup
  copySrc  : Option (Nat × Nat) := none   -- source node and run j (R251)
  chain    : List LaneFurrow := []
  chunkLens : List Nat := []        -- positions of the chunks still to run
  stepNo   : Nat := 0               -- next step of the current chunk
  copying  : Bool := false          -- the copy step is still to run
  splitting : Bool := false         -- the split step is still to run
  special  : Nat := 0               -- step of the device sown in this furrow: 1 copy, 2 split
  stepDone : List Nat := []         -- gangs of the current step that completed
  replays  : List Replay := []
  reserveUsed : Nat := 0
  stallFurrows : Nat := 0           -- consecutive furrows of the same stall (R376)
  stallKey : Nat × Nat := (0, 0)    -- its fault code and address, or 256 + the barrier waited for
  stallLast : Nat := 0              -- its latest furrow
  poisoned : Bool := false
  booking  : Nat := 0               -- frames booked and not yet mapped
  seq      : Nat := 0               -- SEQ of the next record (R272)
  generated : Nat := 0
  tFirstSet : Bool := false
  place    : Bool := false          -- holds a completion place (R361)
  releaseReq : Bool := false        -- RELEASE waits for the headland
  endAt    : Nat := 0               -- furrow of the event that ended the request
  cancelLate : Bool := false        -- its cancel waits for the following headland (R224)
  freeLate : Bool := false          -- its page release waits for the following headland (R224)
  freedPages : Bool := false        -- park pages to release at the headland
  gone     : List Block := []       -- blocks of a park whose pages the headland releases (R288)
  leftState : RqState := .free      -- the state a park left
  resow    : List (Nat × Nat) := [] -- runs still to re-sow (first position, length)
  pairOp   : Nat := 0               -- B of the pair under which it was booked (R226)
  pairK    : Nat := 8
  geoGen   : Nat := 0
  moveCause : Nat := 0              -- cause recorded for deferrals and replays (R219, R223)
  changed  : Bool := false          -- changed since the last written batch (R299)
  streamed : List Nat := []         -- tokens streamed since the previous PROGRESS
  subFirst : Nat := 0               -- JSEQ of its first SUBMIT record; 0 none
  subLast  : Nat := 0               -- JSEQ of its latest SUBMIT record
  bndLast  : Nat := 0               -- JSEQ of its latest BUNDLE record
  recover  : Option Recover := none -- what recovery still has to restore
  deriving DecidableEq, Repr

/-- What the samplers chose for one seat of a round (R265): streamed tokens, drafts accepted, drafts fed, and whether a
position had no candidate (R270). -/
structure SeatOut where
  entry    : Nat
  toks     : List Nat
  accepted : Nat
  fed      : Nat
  noCand   : Bool
  bad      : Nat := 0               -- what it reads is poisoned (R380): 1 the counts table, 2 the work area
  deriving DecidableEq, Repr

/-- A generation round of the calendar (R262). -/
structure Round where
  id     : Nat
  image  : Nat
  adapter : Nat                     -- adapter version key: slot, or 0xFF
  start  : Nat
  rp     : Nat
  seats  : List Nat                 -- entries
  lanes  : List LaneFurrow
  stepNo : Nat := 0
  stepDone : List Nat := []
  replays : List Replay := []
  sampled : Bool := false
  done   : Bool := false            -- last step's work items completed
  outcome : List SeatOut := []
  usedReserve : Bool := false
  pairB : Nat := 0                  -- B and sluice of the pair under which it was booked, and GEO_GEN (R226)
  pairK : Nat := 8
  geoGen : Nat := 0
  moveCause : Nat := 0              -- cause recorded for its deferrals and replays (R219, R223)
  unbooked : Bool := false          -- no furrows were found for it (R226)
  deriving DecidableEq, Repr

/-- A prefix-tree node (R250). -/
structure Node where
  idx    : Nat
  hash   : List Byte
  ld     : Nat
  image  : Nat
  adapterId : Nat
  adapterVer : Nat
  lpSlot : Nat
  parent : Option Nat
  refs   : Nat
  lastUse : Nat
  tokens : List Nat
  pages  : List Nat
  forked : Bool
  firstChild  : Option Nat := none
  nextSibling : Option Nat := none
  hashNext    : Option Nat := none
  desc   : Nat := 0                 -- DESC, TVA of its block descriptor
  deriving DecidableEq, Repr

/-- One KV page (R245, R247, R279). -/
structure Page where
  tva  : Nat
  log2 : Nat := 16                  -- size, 2^PAGE_LOG2 of its image
  ld   : Nat
  refs : Nat
  deriving DecidableEq, Repr

/-- A queue pair and the admission state of a submission queue (R241, R242, R355, R358, R360, R364). -/
structure Queue where
  pair    : Bool := false
  slot    : Nat := 0
  vector  : Nat := 0
  sqLog2  : Nat := 4
  cqLog2  : Nat := 4
  coalRecords : Nat := 0
  coalUs  : Nat := 0
  sqTva   : Nat := 0
  cqTva   : Nat := 0
  sqHead  : Nat := 0
  sqTail  : Nat := 0
  cqHead  : Nat := 0
  written : Nat := 0
  announced : Nat := 0              -- records already announced
  complNew : Bool := false          -- a completion record is not yet announced
  timerOn : Bool := false
  deficit : Nat := 0
  waiting : List Nat := []          -- QUEUED entries, oldest first
  deriving DecidableEq, Repr

/-- A record (R273, R274) that waits in the overflow of its LD (R361). -/
structure OverRec where
  queue : Nat
  bytes : List Byte
  compl : Bool                      -- a completion record
  place : Bool                      -- it occupies a completion place
  deriving DecidableEq, Repr

/-- One tenant logical device (R32, R39, R344, R358, R384, R439). -/
structure Tenant where
  window  : List Nat := []          -- window table: DPA unit (2 MiB) of each LD-offset unit
  tva     : List (Nat × Nat) := []  -- device-managed 64 KiB pages: (TVA page, frame)
  material : Option (List Byte) := none
  keyGen  : Nat := 0
  overflow : List OverRec := []
  places  : Nat := 0                -- completion places taken
  doorbells : List (Option Nat) := List.replicate 8 none
  dbErr   : List Bool := List.replicate 8 false
  resetting : Bool := false         -- between steps 1 and 4 of R384
  resetNodes : List Nat := []       -- prefix-tree nodes released at the following headland
  resetAck : List Mbox := []
  nextTva : Nat := 0                -- next KV page address to allocate
  hdm     : List (Option (Nat × Nat)) := [none, none]
  hdmErr  : List Bool := [false, false]
  events  : List (List Byte) := []
  deriving DecidableEq, Repr

/-- A bundle operation in flight (R285–R294). -/
structure BundleOp where
  entry : Nat
  kind  : Nat                       -- 0 export, 1 park, 2 lift
  addr  : Nat
  len   : Nat
  bundleId : BitVec 64
  committed : Nat
  requote : Bool := false
  pxtInsert : Bool := false
  deadline : Nat := 0               -- RQT_TIME of the deadline; 0 none
  isNew : Bool := false
  header : List Byte := []
  table : List (Nat × Nat × Nat × Nat) := []   -- block, VALID, BFLAGS, DATA_OFS
  stateRec : List Byte := []
  tags  : List Byte := []           -- tag list of the bundle read
  toks  : List (Nat × List Nat) := []          -- tokens of the blocks read
  seen  : List Nat := []            -- blocks already decided
  resow : List Nat := []
  stage : List Nat := []            -- POOL frames that stage the state record (R285)
  stallAt : Option Nat := none      -- RQT_TIME at which its first write was stopped (R290)
  headerOk : Bool := false
  rawTable : List Byte := []        -- block table of the bundle read, as it stands there (R284)
  begun : Bool := false             -- its first 64 B have been written (R287)
  startAt : Nat := 0
  deriving DecidableEq, Repr

/-- A role of the role table (R210), with a change pending for the next tick. -/
structure Role where
  id     : BitVec 24
  holder : NodeId
  epoch  : BitVec 16
  next   : Option (Option NodeId) := none     -- some none: deletion
  live   : Bool := true             -- false until the tick that creates it
  deriving DecidableEq, Repr

/-- A role message that its sender keeps until it is accepted (R211). -/
structure SentMsg where
  id   : Nat
  role : BitVec 24
  srcRole : BitVec 24
  notify : Option (Nat × Nat)       -- furrow and barrier of a NOTIFY (R330)
  body : List Byte
  node : Option NodeId := none      -- the region's node, where a NOTIFY names one (R330)
  waits : Bool := false             -- no flow to its node is open, or none acknowledged it (R318)
  stale : Bool := false
  deriving DecidableEq, Repr

/-- Port states (R309, R339). -/
inductive PortState where
  | disabled | detect | equalise | align | param | active | fallow
  deriving DecidableEq, Repr

/-- A frame body on its way (R312, R315): its virtual channel, FIRST_OFS and bytes. -/
structure TxBody where
  vc    : Bool
  first : Nat
  bytes : List Byte
  deriving DecidableEq, Repr

/-- One Raile port (R306–R315). -/
structure Port where
  st       : PortState := .disabled
  lanesUp  : BitVec 4 := 0
  locked   : BitVec 4 := 0
  lockFails : List Nat := [0, 0, 0, 0]
  peerNode : NodeId := 0
  trained  : Bool := false          -- a training has begun before
  rxSeq    : BitVec 12 := 0         -- next expected FSEQ
  rxAny    : Bool := false          -- a frame has been accepted since the sequence began
  rxNak    : Bool := false          -- a discard has been answered with NAK
  rxCount  : Nat := 0               -- frames accepted since the last ACK report
  txSeq    : BitVec 12 := 0
  replay   : List (BitVec 12 × TxBody) := []   -- replay buffer, oldest first
  resends  : Nat := 0               -- resend rounds without progress
  credD    : Nat := 256
  credC    : Nat := 32
  rxFreeD  : Nat := 0               -- buffers freed since the last report
  rxFreeC  : Nat := 0
  txD      : List (Bool × Byte) := []   -- byte stream of VC 0 that waits, a packet's first byte marked
  txC      : List (Bool × Byte) := []   -- byte stream of VC 1
  deriving DecidableEq, Repr

/-- Peer states (R318). -/
inductive PeerState where
  | unknown | joining | up | suspect | down
  deriving DecidableEq, Repr

structure Peer where
  st     : PeerState := .unknown
  bootId : BitVec 32 := 0
  rttNs  : Nat := 0
  far    : Bool := false
  nonce  : List Byte := []          -- nonce of the HELLO sent
  deriving DecidableEq, Repr

/-- A packet that waits for a credit (R321, R324). -/
structure TxPacket where
  ty     : Nat
  flags  : Nat
  len    : Nat
  addr   : Nat
  opId   : Nat
  data   : List Byte
  deriving DecidableEq, Repr

/-- A transport flow (R320–R324): both directions' sequence numbers, credits and what awaits acknowledgement. -/
structure Flow where
  node : NodeId
  ctx  : Nat
  flow : Nat
  initiator : Bool
  port : Nat
  keyEpoch : BitVec 16
  nonceI : List Byte := []
  nonceR : List Byte := []
  opened : Bool := false
  rxPsn : Nat := 0                  -- next PSN to apply
  txPsn : Nat := 0
  credits : Nat := 64
  unacked : List (Nat × List Byte) := []      -- packets as sent, by PSN
  waitq : List TxPacket := []
  timeouts : Nat := 0
  replies : Nat := 0                -- ACKs and NACKs sent, for their IVs (R328)
  refused : List (Nat × Nat) := []  -- PSNs answered with NACK, and its code (R327)
  txBytes : Nat := 0                -- bytes that transfers have put on the flow (R320)
  deriving DecidableEq, Repr

/-- An atomic of the control complex that waits for its response (R319, R322). -/
structure AtomicOp where
  node : NodeId
  opId : BitVec 32
  result : Option (BitVec 64) := none
  lost : Bool := false
  denied : Bool := false            -- its target answered NACK (R327)
  deriving DecidableEq, Repr

/-- A NOTIFY increment held for a coming furrow (R330). -/
structure HeldNotify where
  furrow : Nat
  role : BitVec 24
  bar : Nat
  deriving DecidableEq, Repr

/-- Furrow time over Raile (R331, R332). -/
structure TimeSync where
  leader   : NodeId := 0            -- in force
  followers : List NodeId := []
  offset   : Int := 0
  delay    : Int := 0
  lastOffset : Option Int := none
  rate     : Int := 0               -- 1/16 periods per furrow
  fracAcc  : Int := 0
  moved    : Int := 0               -- periods by which the phase part has moved ticks since the last SYNC (R332)
  goodTicks : Nat := 0
  badTicks : Nat := 0
  missed   : Nat := 0
  synced   : Bool := false          -- a SYNC arrived since the last tick
  inWindowOk : Bool := false
  deriving DecidableEq, Repr

/-- A joint booking attempt of a context-parallel job (R333). -/
structure Joint where
  job : BitVec 18
  entry : Nat
  plan : Nat
  first : Nat                       -- furrow of the attempt
  waiting : List NodeId             -- nodes whose answer is still to come
  free : List (NodeId × List Nat)   -- furrows that each shard has answered
  chain : List LaneFurrow := []     -- the chain committed; empty while replies are collected
  cause : Nat := 0                  -- why a rebooking moves it (R226)
  deriving DecidableEq, Repr

/-- A power grant for a later window (R336, R337). -/
structure Grant where
  window : Nat
  lent : Nat
  borrowed : Nat
  peer : NodeId
  seen : Bool := false              -- its contact was found lost at a headland
  lost : Bool := false              -- its peer or the leader has become DOWN (R337)
  unaligned : Bool := false         -- ALIGNED has cleared
  deriving DecidableEq, Repr

/-- A member's power status, as its credit leader holds it (R335, R336). -/
structure Member where
  node : NodeId
  shard : Nat
  cap : Nat
  lendMax : Nat
  waitShare : Nat
  deriving DecidableEq, Repr

/-- Stop causes (R419). -/
inductive StopCause where
  | none | flow | trip | supply
  deriving DecidableEq, Repr

/-- A pending window pair (R406): its effective cap, and whether the change came in the last furrow of a window (R224). -/
structure PendPair where
  op   : Nat
  k    : Nat
  effW : Nat
  late : Bool
  deriving DecidableEq, Repr

/-- The pair of a change with IMMEDIATE (R407): its cause of R227, and whether it lowers the cap. -/
structure ImmPair where
  op : Nat
  k  : Nat
  cause : Nat
  lowers : Bool
  deriving DecidableEq, Repr

/-- The power unit (R395–R424). -/
structure PowerUnit where
  ownerW   : Nat := 1400            -- PWR_CAP.OWNER_W
  baseW    : Nat := 1400            -- owner cap in force
  planSrc  : Nat := 0               -- PLAN_SRC in force
  limitK   : Nat := 8               -- SLUICE_LIMIT in force
  effW     : Nat := 1400            -- effective cap in force
  pend     : Option PendPair := none
  imm      : Option ImmPair := none -- pair of a change with IMMEDIATE not yet applied
  immOn    : Nat := 0               -- cause of a change with IMMEDIATE applied in this window
  op       : Nat := 3               -- operating point running now
  wop      : Nat := 3               -- window operating point (booking)
  wsluice  : Nat := 8
  raiseTo  : Option Nat := none     -- operating point of a raise not yet booked
  raised   : Bool := false          -- the raise has taken place; WOP follows at the next headland
  vddSet   : Nat := 0               -- VDD_ARR setpoint, mV
  vddOp    : Nat := 3               -- operating point whose voltage it is
  trim     : Nat := 0               -- AVS trim, mV
  trimAt   : Option Nat := none     -- RQT_TIME of its last step (R398)
  vddArr   : Nat := 0               -- last VDD_ARR telemetry, mV
  droopAt  : Option Nat := none     -- RQT_TIME at which a detector last fired
  droop    : Bool := false
  brownout : Bool := false
  capLim   : Nat := 8
  curLim   : Nat := 8
  broLim   : Nat := 8
  samples  : List Nat := []         -- package power of the last 10 samples, mW, newest first
  lastRail : List (Rail × Nat × Nat) := []
  misses   : List (Rail × Nat) := []
  capCalm  : Nat := 0               -- 100 µs intervals at or below 97 %
  floorFor : Nat := 0               -- intervals above the cap at 1/8 and OP5
  carry    : Nat := 0               -- nJ remainder
  thermOp5 : Bool := false
  hotStack : Bool := false          -- a stack reads above 95 °C
  stopAt   : Nat := 0               -- RQT_TIME of the stop in force
  asleep   : Bool := false          -- the HBM stacks are in self-refresh (R419)
  missed   : Bool := false          -- a stop since the last headland that was not held (R421)
  meter    : Activity := {}         -- activity of the interval so far (R422)
  meterAt  : Nat := 0               -- RQT_TIME at which the interval began
  sensed   : Bool := false          -- the sensors have been read since the reset
  deriving DecidableEq, Repr

/-- The tick unit (R190–R197). -/
structure TickUnit where
  furrow   : Nat := 0
  window   : Nat := 0
  inWindow : Nat := 0
  started  : Bool := false          -- the first tick has taken place
  syncMode : Nat := 0               -- in force
  lenM1    : Nat := 3               -- FURROW_LEN − 1 in force
  windowM1 : Nat := 63
  margin   : Nat := 12
  numSet   : Option Nat := none
  raileNum : Option Nat := none     -- furrow number of the leader's SYNC
  goodTicks : Nat := 0
  goodAt   : Nat := 0               -- the tick that the last pulse was measured against (R194)
  atTick   : Bool := false          -- the commits of a tick are being made (R224, R236)
  headPulse : Bool := false
  lengthen : Nat := 0               -- periods to add to the current furrow
  adjust   : Int := 0               -- steering of the next tick, periods (R332)
  tickRef  : Bool := true           -- TICK_REF present
  pcieRef  : Bool := true
  refBackMs : Nat := 0
  rqtTime  : Nat := 0               -- RQT_TIME (R234)
  lastTick : Nat := 0               -- RQT_TIME of the last tick
  headDone : Bool := false          -- HEADLAND has run for the coming tick
  geoMask  : Nat := 0               -- GEO_ARRAYS as it stood at the tick (R224, R390)
  geoNum   : Nat := 0               -- GEO_GEN as it stood at the tick
  nextNum  : Option Nat := none     -- number of the coming furrow, where the headland has adopted one (R196)
  nextWin  : Option Nat := none     -- number of the window that it starts
  deriving DecidableEq, Repr

/-- A fault record (R392). -/
structure FaultRec where
  cls    : Nat
  domain : Nat
  source : Nat
  unit   : Nat
  code   : Nat
  fseq   : Nat
  furrow : Nat
  clk    : Nat
  ld     : Nat := 0xFF
  count  : Nat := 1
  rqt    : Nat := 0xFFFF
  workItem : Nat := 0
  layer  : Nat := 0
  tile   : Nat := 0
  addr   : Nat := 0
  detail : Nat := 0
  bootId : BitVec 32 := 0
  deriving DecidableEq, Repr

/-- An error of a pseudo-channel (R389): corrected bursts, or the line that could not be corrected. -/
structure PcErr where
  pc   : Nat
  time : Nat                        -- RQT_TIME
  line : Option Nat
  n    : Nat
  deriving DecidableEq, Repr

/-- Fault handling (R381, R386–R392). -/
structure FaultUnit where
  log      : List FaultRec := []    -- the ring of 4,096 records, oldest first
  readUpTo : Nat := 0               -- FSEQ below which a read has reached
  restarts : List (Nat × Nat) := [] -- (core, furrow)
  dieReset : List (Nat × Nat) := [] -- (die, RQT_TIME)
  dieDown  : List Nat := []         -- dies in reset
  eventPolicy : List (Mbox × BitVec 32) := []
  ownerEvents : List (List Byte) := []
  injected : List (Nat × Nat) := [] -- 32 B bursts of HBM that hold an injected error, with its KIND (R394)
  corrupt  : List (Nat × Nat) := [] -- on-chip structures (SOURCE, UNIT) that hold a write which FLT_INJECT corrupted (R394)
  pcErrs   : List PcErr := []       -- errors of pseudo-channels within the last 1,000 s (R389)
  copyFrom : List (Nat × Nat) := [] -- redirect slots whose copy runs, with the RQT_TIME at which it began (R391)
  cutCarry : Bool := false          -- the headland's remaining actions carry over (R382)
  deriving DecidableEq, Repr

/-- What the control complex's mailboxes hold: the last return code and output payload, and the background command
(R348). -/
structure MboxState where
  ret  : Nat := 0
  outp : List Byte := []
  bg   : Option (Nat × Nat × Nat) := none     -- background opcode, slot or handle, and a second argument
  bgOp  : Nat := 0                  -- the background command status register: opcode,
  bgPct : Nat := 0                  -- percentage complete,
  bgRet : Nat := 0                  -- return code
  bgOut : List Byte := []           -- output payload of the background command
  bgSrc : Nat × Nat := (0, 0)       -- SRC_KIND of its source, and the source's node
  deriving DecidableEq, Repr

/-- The firmware flow of the boot ROM (R367, R427, R429). -/
structure FwState where
  rom      : Bool := false          -- the boot ROM runs
  dead     : Bool := false          -- the boot ROM halted on a fuse error (R427 step 1)
  running  : Bool := false          -- verified firmware runs
  buffer   : List Byte := []
  open_    : Bool := false          -- a transfer is under way
  verified : Option (List Byte) := none       -- the image that R429 has accepted
  svn      : Nat := 0
  keyIndex : Nat := 0
  revision : List Byte := []
  fwid     : List Byte := []
  code     : List Byte := []        -- the body at its run address in control SRAM
  entry    : Nat := 0               -- where CC1–CC3 start
  released : Bool := false          -- CC0–CC3 run firmware
  waiting  : Bool := false          -- Activate FW waits for the BIST
  deriving DecidableEq, Repr

/-- Security state (R435–R451). -/
structure SecUnit where
  domainKey : List (Option (BitVec 64)) := List.replicate 6 none
  bootId    : BitVec 32 := 0
  jnonce    : BitVec 128 := 0
  challenge : List Byte := []
  debug     : Nat := 0
  bootDebug : Nat := 0              -- debug state in FUSECFG of this boot (R450)
  unlockFails : Nat := 0
  committing : Bool := false
  fencing   : Bool := false
  udsLocked : Bool := false         -- UDS has been read and read-locked (R426)
  cdi0      : Option (List Byte) := none          -- CDI_L0, until step 6 of R427
  deviceKey : Option Nat := none                  -- DeviceID private key, until then
  devicePub : List Byte := []                     -- DeviceID public key
  dds       : Option (List Byte) := none          -- key store: DDS, CDI_L1 and the Alias key (R434, R435)
  cdi1      : Option (List Byte) := none
  aliasKey  : Option Nat := none
  aliasCert : List Byte := []                     -- Alias certificate, in control SRAM
  hbmKeys   : List (Option (List Byte)) := List.replicate 17 none     -- key slots of the memory controllers (R436)
  revoking  : BitVec 4 := 0         -- KEY_REVOKE bits still to be blown (R431)
  sessions  : List (SpdmPort × Nat) := []
  shaking   : List (SpdmPort × Nat) := []         -- sessions between KEY_EXCHANGE and FINISH
  ideKeyed  : Bool := false
  ideKeys   : List Byte := []
  ideSkid   : Bool := false         -- the mode that the host chose (R365)
  ideInsecure : Bool := false
  deriving DecidableEq, Repr

/-- BIST (R457–R470). -/
structure BistUnit where
  records  : List BistFinding := []
  outcomes : List Nat := []
  stopped  : Nat := 0               -- times the power-up BIST was stopped
  unit     : Option Nat := none     -- array of the GO in force
  started  : Bool := false          -- its test has begun
  back     : List Nat := []         -- arrays that passed and return at the next headland
  startAt  : Nat := 0               -- RQT_TIME at which the run began
  deriving DecidableEq, Repr

/-- Pins, links and management port (R341, R472, R478). -/
structure Pins where
  pwrgood : Bool := false
  perstN  : Bool := false
  flowFailN : Bool := true
  thermtripLow : Bool := false
  furrowSync : Nat := 0             -- TICK_REF periods for which FURROW_SYNC was driven at the last tick
  mld     : Bool := false
  hostLink : Bool := false
  sldSpan : Nat := 40
  memEn   : Bool := true            -- CXL.mem is enabled on the link (R340)
  i3cAddr : Option (BitVec 7) := none
  bootPath : Option Bool := none    -- outcome of the boot-path phase, once it has run (R455)
  ibiDue  : List Nat := []          -- payloads of in-band interrupts still to raise (R478)
  tapInstr : BitVec 8 := 0x01
  tapOut  : List Byte := []
  deriving DecidableEq, Repr

/-- What the last host CXL.mem request was answered (R35, R340): data, poison, and the DevLoad field of the response. -/
structure CxlResp where
  bytes : List Byte := []
  poison : Bool := false
  devLoad : BitVec 2 := 0           -- Light Load
  deriving DecidableEq, Repr

/-- An entry of an MSI-X table with its pending bit (R344, R363). -/
structure MsixVec where
  addr : Nat := 0
  data : Nat := 0
  masked : Bool := true
  pending : Bool := false
  deriving DecidableEq, Repr

/-- What a PCIe function holds beside its mailbox: the two writable bits of its Command register, its BARs, MSI-X, and the Command register of its
mailbox (R344, R345, R348, R363, R368). -/
structure FnRegs where
  memSpace : Bool := false
  busMaster : Bool := false
  bars : List Nat := [0, 0, 0, 0]   -- the four words at 0x10 as the host wrote them
  msixOn : Bool := false
  msixMask : Bool := false
  vectors : Vector MsixVec 64 := Vector.replicate 64 {}
  opcode : Nat := 0
  payLen : Nat := 0
  deriving DecidableEq, Repr

/-- A journal record due (R300, R301): type, owner, body in plaintext. -/
structure JRec where
  ty   : Nat
  ld   : Nat
  idx  : Nat
  tag  : Nat
  body : List Byte
  gone : Bool := false              -- its entry has become FREE since (R302)
  deriving DecidableEq, Repr

/-- Journal state beside the registers of R305 (R298–R303). -/
structure Journal where
  mode    : Nat := 0                -- in force
  sizeLog : Nat := 16
  base    : Nat := 0
  due     : List JRec := []         -- records not yet written, in the order of their events
  inFlight : List (JRec × Nat) := [] -- records of the batch being written, with their JSEQs
  busy    : Bool := false           -- a batch is being written
  pendHead : Nat := 0               -- HEAD once its BATCH_END has been written
  pendReq : Nat := 0                -- its REQUIRED_JSEQ
  denied  : Bool := false           -- a write of the batch was denied (R41, R305)
  stale   : Bool := false           -- the ring has changed since the batch was written
  ldsDone : List Nat := []          -- LDs that recovery has finished
  deriving DecidableEq, Repr

/-- Messages the device sends: its transmit queues as one list, oldest first. -/
inductive OutMsg where
  | msix (fn : Mbox) (vector : Nat)
  | ownerEvent (bytes : List Byte)
  | mctp (bytes : List Byte)
  | ibi (payload : BitVec 8)
  | provisionedId (id : BitVec 48)
  | packet (node : NodeId) (ctx : Nat) (flow : Nat) (type : Nat) (psn : Nat) (addr : BitVec 64) (data : List Byte)
  | control (node : NodeId) (code : Nat) (body : List Byte)
  | hello (node : NodeId) (ackB : Bool) (nonce echo : List Byte)
  | frame (p : Nat) (bytes : List Byte) (lanes : List (List Nat))
  | training (p : Nat) (lanes : BitVec 4)
  | furrowSync (periods : Nat)
  | dma (addr : Nat) (bytes : List Byte)
  | doe (port : SpdmPort) (bytes : List Byte)
  | spdm (port : SpdmPort) (code : Nat) (body : List Byte)
  | tap (bytes : List Byte)
  | regulator (mv : Nat)
  deriving DecidableEq, Repr

/-- The state of the block. -/
structure State where
  fuses   : Fuses
  pins    : Pins := {}
  fw      : FwState := {}
  tick    : TickUnit := {}
  regs    : List (Nat × Reg64) := []        -- registers of the owner space that differ from their reset value
  bar2Last : Option Nat := none             -- register of the last 4 B read on the BAR2 path (R491)
  bar2Shadow : BitVec 32 := 0
  regData : Reg64 := 0                      -- what the last register read over BAR2 or of a doorbell page answered
  mem     : List Host.Cell := []            -- HBM by DPA; an unlisted byte reads 0
  poison  : List Nat := []                  -- poisoned lines (DPA div 256)
  tags    : List (Nat × Tag) := []          -- owner tags of frames; an unlisted frame is FREE or RESERVE (R33)
  arrays  : Vector ArrayUnit 64 := Vector.replicate 64 {}
  fes     : Vector FetchUnit 32 := Vector.replicate 32 {}
  bars    : Vector (BitVec 16) 256 := Vector.replicate 256 0
  mere    : Vector MereSlice 4 := Vector.replicate 4 {}
  mgen    : Vector MgenSlot 8 := Vector.replicate 8 {}
  items   : List ItemRun := []
  itemNo  : Nat := 0
  images  : Vector (Option Image) 16 := Vector.replicate 16 none
  adapters : Vector Adapter 32 := Vector.replicate 32 {}
  lps     : Vector LearnedPrefix 64 := Vector.replicate 64 {}
  rqt     : List (Nat × Entry) := []        -- entries that are not FREE, by ascending index
  work    : List (Nat × Work) := []
  rounds  : List Round := []
  roundNo : Nat := 0
  nodes   : List Node := []
  pages   : List Page := []
  queues  : Vector Queue 128 := Vector.replicate 128 {}
  lastServed : Vector Nat 4 := Vector.replicate 4 127
  lds     : Vector Tenant 16 := Vector.replicate 16 {}
  ops     : List BundleOp := []
  roles   : List Role := []
  sent    : List SentMsg := []
  ctlWait : List (NodeId × Nat × List Byte) := []   -- control messages that wait for their peer (R318)
  msgNo   : Nat := 0                        -- messages sent under roles
  lateData : List (Nat × Nat × Nat) := []   -- READ_REQs of ended work items whose data is still to come: node, OP_ID, array (R145)
  rlOps   : Nat := 0                        -- Raile operations that this device has begun, for their OP_ID
  roleIn  : List RoleMsg := []              -- role messages applied, oldest first
  ports   : Vector Port 16 := Vector.replicate 16 {}
  peers   : List (Nat × Peer) := []
  flows   : List Flow := []
  atomics : List AtomicOp := []
  notifies : List HeldNotify := []
  timeSync : TimeSync := {}
  joint   : List Joint := []
  grants  : List Grant := []
  members : List Member := []
  power   : PowerUnit := {}
  temps   : List (Nat × Nat) := []          -- fen sensors (64 + 2n + s) and stacks (80 + n), °C
  faults  : FaultUnit := {}
  mboxes  : List (Mbox × MboxState) := []
  fns     : List (Mbox × FnRegs) := []      -- functions whose registers a host has written
  sec     : SecUnit := {}
  bist    : BistUnit := {}
  jrnl    : Journal := {}
  cxl     : CxlResp := {}
  timestamp : Option (BitVec 64) := none    -- Set Timestamp's value less 10 ns × RQT_TIME at that moment
  out     : List OutMsg := []
  freeCtr : Nat := 0                        -- the MODEL's own: counter of free values drawn
  pending : List Instr := []                -- waiting commands, first in first out
  deriving DecidableEq, Repr

/-- The 48 bytes of a digest written as one number, first byte highest. -/
def digestOf (v : Nat) : List Byte := (List.range 48).map (fun i => BitVec.ofNat 8 (v / 256 ^ (47 - i)))

/-- What the model's part is fused with (notes/assumptions/3.md): an IKB7240 with all its arrays, the example table of
R404 as own and fleet table, no SVN fuse blown and no key revoked. KEY_HASH[k] is the SHA-384 of the P-384 public key of
private key 2, 3, 5 and 7, DEBUG_KEY_HASH that of private key 11. -/
def Fuses.reset : Fuses where
  part := .ikb7240
  serial := 1
  arrays := 0xFFFFFFFFFFFFFFFF
  vtable :=
    [0x80000384006E0320, 0x800002F200640304, 0x8000026F005B02E8, 0x800001F9005302CC, 0x8000018F004C02B0, 0x8000013200460294]
  vref :=
    [0x80000384006E0000, 0x800002F200640000, 0x8000026F005B0000, 0x800001F900530000, 0x8000018F004C0000, 0x8000013200460000]
  svn := 0
  keyRevoke := 0
  keyHash := [0x92281EE8AD74DE8717F3CDC422A1E592C65FE5AA41BD97D1F111F971519BB628B3E28177627669F49D698BB5514578C5,
    0x724B9957582F0A755FA67E1FEBC163DF570EE375B3C866FE2AA156994BD692F9C3425BD40DD1059A7921B8A27DAE21E2,
    0xB6AD1A858CFB19AC6545FDBC7E9B490699F38A899118E50026D23D22DE46A9810E1B99A888199159E05113F3D9488C1C,
    0xD7759D5965E5BC63E87C3CE582BB36D7158DF6F777E3C85FA24E0A3257E5DFBA87102D8C8D17E34EE3D254BEC43DB915].map digestOf
  debugHash := digestOf 0xA73FBFE9D8798F51AEFD9D1EB288EE11F7176EDB123F320E4F3EBEECE08C30FCECAAE04845B6E20B16A64DEDD91FECC8
  uds := List.replicate 32 0x5A
  deviceCert := List.replicate 2048 0
  fuseOk := true

/-- The geometry registers of a part before its power-up BIST (R497): every shipped unit enabled. -/
def geoReset (f : Fuses) : List (Nat × Reg64) :=
  [(0x100108, f.arrays)]
    ++ (List.range 10).map (fun j => (0x100120 + 8 * j, 0xFFFFFFFFFFFFFFFF))
    ++ [(0x100170, 0xFFFFFFFFFFFFFFFF)]

/-- The device after a reset that nothing survives (R452), with its fuses. -/
def State.ofFuses (f : Fuses) : State :=
  { fuses := f, regs := geoReset f, power := { vddSet := (f.vtable.getD 3 0).toNat % 4096 } }

/-- The machine right after reset: rails and PWRGOOD still down, every register at its reset value (R452, R495). -/
def State.reset : State := State.ofFuses Fuses.reset

end Sys2Proof.Machine
end

