-- ==== Sys2Proof/Machine/Bits.lean ====
section
/-! DEFINITION. Bit fields (R12), little-endian byte lists (R13), small list helpers, and the canonical sparse byte
memory (`Host.Cell` lists, addresses strictly rising, no listed byte equal to 0). -/

namespace Sys2Proof.Machine

/-- Bits [hi:lo] of a number. -/
def bits (v hi lo : Nat) : Nat := (v >>> lo) % 2 ^ (hi + 1 - lo)

/-- One bit of a number. -/
def bitAt (v i : Nat) : Bool := v.testBit i

/-- Bits [hi:lo] of a register. -/
def rbits (v : Reg64) (hi lo : Nat) : Nat := bits v.toNat hi lo

/-- A number as a register. -/
def reg (n : Nat) : Reg64 := BitVec.ofNat 64 n

/-- A Boolean as 0 or 1. -/
def b2n (b : Bool) : Nat := if b then 1 else 0

/-- A signed value of `w` bits read from the low bits of `n`. -/
def sx (w n : Nat) : Int := (BitVec.ofNat w n).toInt

/-- `n` bytes of `v`, least significant first (R13). -/
def toLE : (n : Nat) → (v : Nat) → List Byte
  | 0, _ => []
  | n + 1, v => BitVec.ofNat 8 v :: toLE n (v / 256)

/-- The number that bytes hold, least significant first (R13). -/
def ofLE : List Byte → Nat
  | [] => 0
  | b :: bs => b.toNat + 256 * ofLE bs

/-- `len` bytes at an offset of a structure; bytes beyond its end read 0. -/
def slice (bs : List Byte) (off len : Nat) : List Byte :=
  let x := (bs.drop off).take len
  x ++ List.replicate (len - x.length) 0

/-- A little-endian field of a structure. -/
def fld (bs : List Byte) (off len : Nat) : Nat := ofLE (slice bs off len)

/-- Whether `len` bytes at an offset are all 0. -/
def zeroAt (bs : List Byte) (off len : Nat) : Bool := (slice bs off len).all (· == 0)

/-- The bytes of an ASCII text. -/
def ascii (codes : List Nat) : List Byte := codes.map (BitVec.ofNat 8)

/-- Ceiling division. -/
def cdiv (a b : Nat) : Nat := if b = 0 then 0 else (a + b - 1) / b

/-- Number of set bits among the low `n`. -/
def popc : (n : Nat) → (v : Nat) → Nat
  | 0, _ => 0
  | n + 1, v => v % 2 + popc n (v / 2)

/-- The member of a list at an index, or a default. -/
def nthD {α : Type} (d : α) (xs : List α) (i : Nat) : α := (xs[i]?).getD d

/-- A list with the member at an index replaced. -/
def setNth {α : Type} (xs : List α) (i : Nat) (x : α) : List α := xs.set i x

/-- Association lists by a number: the value listed first. -/
def lookupN {α : Type} (k : Nat) : List (Nat × α) → Option α
  | [] => none
  | (k', v) :: r => if k' = k then some v else lookupN k r

/-- An association list, by ascending key, with one key set. -/
def insertN {α : Type} (k : Nat) (v : α) : List (Nat × α) → List (Nat × α)
  | [] => [(k, v)]
  | (k', v') :: r =>
    if k < k' then (k, v) :: (k', v') :: r
    else if k = k' then (k, v) :: r
    else (k', v') :: insertN k v r

/-- An association list without one key. -/
def eraseN {α : Type} (k : Nat) : List (Nat × α) → List (Nat × α)
  | [] => []
  | (k', v') :: r => if k' = k then eraseN k r else (k', v') :: eraseN k r

/-- Insertion of a number into an ascending list without repeats. -/
def addN (k : Nat) : List Nat → List Nat
  | [] => [k]
  | x :: r => if k < x then k :: x :: r else if k = x then x :: r else x :: addN k r

/-- Insertion by an order on keys, later equals after earlier ones (a stable insertion). -/
def insBy {α : Type} (le : α → α → Bool) (x : α) : List α → List α
  | [] => [x]
  | y :: r => if le y x then y :: insBy le x r else x :: y :: r

/-- A stable insertion sort. -/
def sortBy {α : Type} (le : α → α → Bool) (xs : List α) : List α :=
  xs.foldl (fun acc x => insBy le x acc) []

/-- The first member that meets a test, with its index. -/
def findIdxFrom {α : Type} (p : α → Bool) : List α → Nat → Option (Nat × α)
  | [], _ => none
  | x :: r, i => if p x then some (i, x) else findIdxFrom p r (i + 1)

/-- Largest of a list, 0 for none. -/
def maxN (xs : List Nat) : Nat := xs.foldl Nat.max 0

/-- Sum of a list. -/
def sumN (xs : List Nat) : Nat := xs.foldl (· + ·) 0

/-- Bytes compared by value. -/
def bytesEq (a b : List Byte) : Bool := a == b

/-! ### Sparse byte memory -/

/-- One byte of a memory; an unlisted byte reads 0. -/
def cellRead (a : Nat) : List Host.Cell → Byte
  | [] => 0
  | (x, b) :: r => if x = a then b else if a < x then 0 else cellRead a r

/-- One byte written; writing 0 removes the entry, so equal memories are equal lists. -/
def cellWrite (a : Nat) (b : Byte) : List Host.Cell → List Host.Cell
  | [] => if b = 0 then [] else [(a, b)]
  | (x, c) :: r =>
    if a < x then (if b = 0 then (x, c) :: r else (a, b) :: (x, c) :: r)
    else if a = x then (if b = 0 then r else (a, b) :: r)
    else (x, c) :: cellWrite a b r

/-- Bytes written from an address up. -/
def cellWrites (a : Nat) : List Byte → List Host.Cell → List Host.Cell
  | [], m => m
  | b :: bs, m => cellWrites (a + 1) bs (cellWrite a b m)

/-- `n` bytes read from an address up. -/
def cellReads (m : List Host.Cell) (a : Nat) : Nat → List Byte
  | 0 => []
  | n + 1 => cellRead a m :: cellReads m (a + 1) n

/-- Every byte of a range set to 0. -/
def cellClear (a n : Nat) (m : List Host.Cell) : List Host.Cell :=
  m.filter (fun c => !(decide (a ≤ c.1) && decide (c.1 < a + n)))

/-- The canonical form: addresses strictly rising, no listed 0. -/
def memWf : List Host.Cell → Bool
  | [] => true
  | [(_, b)] => b != 0
  | (x, b) :: (y, c) :: r => b != 0 && decide (x < y) && memWf ((y, c) :: r)

end Sys2Proof.Machine
end

