-- ==== Sys2Proof/Machine/Crypto.lean ====
section
/-! DEFINITION. The standard algorithms the spec names: SHA-384 (R198, R249, R255, R291, R433) and AES-128 on one block
(R267). -/

namespace Sys2Proof.Machine

/-- Round constants of SHA-384. -/
def shaK : List Nat :=
  [0x428A2F98D728AE22, 0x7137449123EF65CD, 0xB5C0FBCFEC4D3B2F, 0xE9B5DBA58189DBBC,
   0x3956C25BF348B538, 0x59F111F1B605D019, 0x923F82A4AF194F9B, 0xAB1C5ED5DA6D8118,
   0xD807AA98A3030242, 0x12835B0145706FBE, 0x243185BE4EE4B28C, 0x550C7DC3D5FFB4E2,
   0x72BE5D74F27B896F, 0x80DEB1FE3B1696B1, 0x9BDC06A725C71235, 0xC19BF174CF692694,
   0xE49B69C19EF14AD2, 0xEFBE4786384F25E3, 0x0FC19DC68B8CD5B5, 0x240CA1CC77AC9C65,
   0x2DE92C6F592B0275, 0x4A7484AA6EA6E483, 0x5CB0A9DCBD41FBD4, 0x76F988DA831153B5,
   0x983E5152EE66DFAB, 0xA831C66D2DB43210, 0xB00327C898FB213F, 0xBF597FC7BEEF0EE4,
   0xC6E00BF33DA88FC2, 0xD5A79147930AA725, 0x06CA6351E003826F, 0x142929670A0E6E70,
   0x27B70A8546D22FFC, 0x2E1B21385C26C926, 0x4D2C6DFC5AC42AED, 0x53380D139D95B3DF,
   0x650A73548BAF63DE, 0x766A0ABB3C77B2A8, 0x81C2C92E47EDAEE6, 0x92722C851482353B]
  ++ [0xA2BFE8A14CF10364, 0xA81A664BBC423001, 0xC24B8B70D0F89791, 0xC76C51A30654BE30,
   0xD192E819D6EF5218, 0xD69906245565A910, 0xF40E35855771202A, 0x106AA07032BBD1B8,
   0x19A4C116B8D2D0C8, 0x1E376C085141AB53, 0x2748774CDF8EEB99, 0x34B0BCB5E19B48A8,
   0x391C0CB3C5C95A63, 0x4ED8AA4AE3418ACB, 0x5B9CCA4F7763E373, 0x682E6FF3D6B2B8A3,
   0x748F82EE5DEFB2FC, 0x78A5636F43172F60, 0x84C87814A1F0AB72, 0x8CC702081A6439EC,
   0x90BEFFFA23631E28, 0xA4506CEBDE82BDE9, 0xBEF9A3F7B2C67915, 0xC67178F2E372532B,
   0xCA273ECEEA26619C, 0xD186B8C721C0C207, 0xEADA7DD6CDE0EB1E, 0xF57D4F7FEE6ED178,
   0x06F067AA72176FBA, 0x0A637DC5A2C898A6, 0x113F9804BEF90DAE, 0x1B710B35131C471B,
   0x28DB77F523047D84, 0x32CAAB7B40C72493, 0x3C9EBE0A15C9BEBC, 0x431D67C49C100D4C,
   0x4CC5D4BECB3E42B6, 0x597F299CFC657E2A, 0x5FCB6FAB3AD6FAEC, 0x6C44198C4A475817]

/-- Initial hash value of SHA-384. -/
def shaIv : List Nat :=
  [0xCBBB9D5DC1059ED8, 0x629A292A367CD507, 0x9159015A3070DD17, 0x152FECD8F70E5939,
   0x67332667FFC00B31, 0x8EB44A8768581511, 0xDB0C2E0D64F98FA7, 0x47B5481DBEFA4FA4]

/-- Rotation right of a 64-bit word. -/
def rotr64 (x n : Nat) : Nat := (x >>> n) ||| ((x <<< (64 - n)) % 2 ^ 64)

/-- The next 64 schedule words, from the last 16 (newest first). -/
def shaSched : (n : Nat) → List Nat → List Nat
  | 0, ws => ws
  | n + 1, ws =>
    let w15 := nthD 0 ws 14
    let w2 := nthD 0 ws 1
    let s0 := rotr64 w15 1 ^^^ rotr64 w15 8 ^^^ (w15 >>> 7)
    let s1 := rotr64 w2 19 ^^^ rotr64 w2 61 ^^^ (w2 >>> 6)
    shaSched n (((nthD 0 ws 15 + s0 + nthD 0 ws 6 + s1) % 2 ^ 64) :: ws)

/-- The eight working variables of SHA-384. -/
structure ShaVars where
  a : Nat
  b : Nat
  c : Nat
  d : Nat
  e : Nat
  f : Nat
  g : Nat
  h : Nat
  deriving DecidableEq, Repr

/-- The rounds over constants and schedule words. -/
def shaRounds : List Nat → List Nat → ShaVars → ShaVars
  | k :: ks, w :: ws, v =>
    let s1 := rotr64 v.e 14 ^^^ rotr64 v.e 18 ^^^ rotr64 v.e 41
    let ch := (v.e &&& v.f) ^^^ ((2 ^ 64 - 1 - v.e) &&& v.g)
    let t1 := v.h + s1 + ch + k + w
    let s0 := rotr64 v.a 28 ^^^ rotr64 v.a 34 ^^^ rotr64 v.a 39
    let maj := (v.a &&& v.b) ^^^ (v.a &&& v.c) ^^^ (v.b &&& v.c)
    shaRounds ks ws
      { a := (t1 + s0 + maj) % 2 ^ 64, b := v.a, c := v.b, d := v.c
        e := (v.d + t1) % 2 ^ 64, f := v.e, g := v.f, h := v.g }
  | _, _, v => v

/-- A big-endian number of bytes. -/
def ofBE (bs : List Byte) : Nat := bs.foldl (fun n b => n * 256 + b.toNat) 0

/-- `n` bytes of a number, most significant first. -/
def toBE (n v : Nat) : List Byte := (toLE n v).reverse

/-- Sixteen big-endian words of a block, newest first. -/
def shaWords : (n : Nat) → List Byte → List Nat → List Nat
  | 0, _, ws => ws
  | n + 1, bs, ws => shaWords n (bs.drop 8) (ofBE (bs.take 8) :: ws)

/-- One block of 128 bytes. -/
def shaBlock (hs : List Nat) (bs : List Byte) : List Nat :=
  let v0 : ShaVars :=
    { a := nthD 0 hs 0, b := nthD 0 hs 1, c := nthD 0 hs 2, d := nthD 0 hs 3
      e := nthD 0 hs 4, f := nthD 0 hs 5, g := nthD 0 hs 6, h := nthD 0 hs 7 }
  let v := shaRounds shaK (shaSched 64 (shaWords 16 bs [])).reverse v0
  [(v0.a + v.a) % 2 ^ 64, (v0.b + v.b) % 2 ^ 64, (v0.c + v.c) % 2 ^ 64, (v0.d + v.d) % 2 ^ 64,
   (v0.e + v.e) % 2 ^ 64, (v0.f + v.f) % 2 ^ 64, (v0.g + v.g) % 2 ^ 64, (v0.h + v.h) % 2 ^ 64]

/-- All blocks of a padded message. -/
def shaBlocks : (n : Nat) → List Nat → List Byte → List Nat
  | 0, hs, _ => hs
  | n + 1, hs, bs => shaBlocks n (shaBlock hs (bs.take 128)) (bs.drop 128)

/-- SHA-384 of a byte string. -/
def sha384 (m : List Byte) : List Byte :=
  let z := (239 - m.length % 128) % 128
  let p := m ++ [0x80] ++ List.replicate z 0 ++ toBE 16 (8 * m.length)
  ((shaBlocks (p.length / 128) shaIv p).take 6).flatMap (toBE 8)

/-- Substitution box of AES. -/
def aesSbox : List Nat :=
  [0x63, 0x7C, 0x77, 0x7B, 0xF2, 0x6B, 0x6F, 0xC5, 0x30, 0x01, 0x67, 0x2B, 0xFE, 0xD7, 0xAB, 0x76,
   0xCA, 0x82, 0xC9, 0x7D, 0xFA, 0x59, 0x47, 0xF0, 0xAD, 0xD4, 0xA2, 0xAF, 0x9C, 0xA4, 0x72, 0xC0,
   0xB7, 0xFD, 0x93, 0x26, 0x36, 0x3F, 0xF7, 0xCC]
  ++ [0x34, 0xA5, 0xE5, 0xF1, 0x71, 0xD8, 0x31, 0x15, 0x04, 0xC7, 0x23, 0xC3, 0x18, 0x96, 0x05, 0x9A,
   0x07, 0x12, 0x80, 0xE2, 0xEB, 0x27, 0xB2, 0x75, 0x09, 0x83, 0x2C, 0x1A, 0x1B, 0x6E, 0x5A, 0xA0,
   0x52, 0x3B, 0xD6, 0xB3, 0x29, 0xE3, 0x2F, 0x84]
  ++ [0x53, 0xD1, 0x00, 0xED, 0x20, 0xFC, 0xB1, 0x5B, 0x6A, 0xCB, 0xBE, 0x39, 0x4A, 0x4C, 0x58, 0xCF,
   0xD0, 0xEF, 0xAA, 0xFB, 0x43, 0x4D, 0x33, 0x85, 0x45, 0xF9, 0x02, 0x7F, 0x50, 0x3C, 0x9F, 0xA8,
   0x51, 0xA3, 0x40, 0x8F, 0x92, 0x9D, 0x38, 0xF5]
  ++ [0xBC, 0xB6, 0xDA, 0x21, 0x10, 0xFF, 0xF3, 0xD2, 0xCD, 0x0C, 0x13, 0xEC, 0x5F, 0x97, 0x44, 0x17,
   0xC4, 0xA7, 0x7E, 0x3D, 0x64, 0x5D, 0x19, 0x73, 0x60, 0x81, 0x4F, 0xDC, 0x22, 0x2A, 0x90, 0x88,
   0x46, 0xEE, 0xB8, 0x14, 0xDE, 0x5E, 0x0B, 0xDB]
  ++ [0xE0, 0x32, 0x3A, 0x0A, 0x49, 0x06, 0x24, 0x5C, 0xC2, 0xD3, 0xAC, 0x62, 0x91, 0x95, 0xE4, 0x79,
   0xE7, 0xC8, 0x37, 0x6D, 0x8D, 0xD5, 0x4E, 0xA9, 0x6C, 0x56, 0xF4, 0xEA, 0x65, 0x7A, 0xAE, 0x08,
   0xBA, 0x78, 0x25, 0x2E, 0x1C, 0xA6, 0xB4, 0xC6]
  ++ [0xE8, 0xDD, 0x74, 0x1F, 0x4B, 0xBD, 0x8B, 0x8A, 0x70, 0x3E, 0xB5, 0x66, 0x48, 0x03, 0xF6, 0x0E,
   0x61, 0x35, 0x57, 0xB9, 0x86, 0xC1, 0x1D, 0x9E, 0xE1, 0xF8, 0x98, 0x11, 0x69, 0xD9, 0x8E, 0x94,
   0x9B, 0x1E, 0x87, 0xE9, 0xCE, 0x55, 0x28, 0xDF]
  ++ [0x8C, 0xA1, 0x89, 0x0D, 0xBF, 0xE6, 0x42, 0x68, 0x41, 0x99, 0x2D, 0x0F, 0xB0, 0x54, 0xBB, 0x16]

/-- Multiplication by x in the field of AES. -/
def aesX (b : Nat) : Nat := if b < 128 then 2 * b else (2 * b) % 256 ^^^ 0x1B

/-- A byte substituted. -/
def aesSub (b : Nat) : Nat := nthD 0 aesSbox b

/-- One column mixed. -/
def aesMix (a b c d : Nat) : List Nat :=
  [aesX a ^^^ (aesX b ^^^ b) ^^^ c ^^^ d, a ^^^ aesX b ^^^ (aesX c ^^^ c) ^^^ d,
   a ^^^ b ^^^ aesX c ^^^ (aesX d ^^^ d), (aesX a ^^^ a) ^^^ b ^^^ c ^^^ aesX d]

/-- Sixteen bytes with the rows shifted, column by column. -/
def aesShift (s : List Nat) : List Nat := [0, 5, 10, 15, 4, 9, 14, 3, 8, 13, 2, 7, 12, 1, 6, 11].map (nthD 0 s)

/-- Two byte lists added in the field. -/
def aesAdd (a b : List Nat) : List Nat := List.zipWith (· ^^^ ·) a b

/-- The next round key. -/
def aesNextKey (rc : Nat) (k : List Nat) : List Nat :=
  let w (i : Nat) : List Nat := (k.drop (4 * i)).take 4
  let t := [aesSub (nthD 0 k 13) ^^^ rc, aesSub (nthD 0 k 14), aesSub (nthD 0 k 15), aesSub (nthD 0 k 12)]
  let w0 := aesAdd (w 0) t
  let w1 := aesAdd (w 1) w0
  let w2 := aesAdd (w 2) w1
  w0 ++ w1 ++ w2 ++ aesAdd (w 3) w2

/-- The columns of a state mixed. -/
def aesMixAll (s : List Nat) : List Nat :=
  [0, 4, 8, 12].flatMap (fun i => aesMix (nthD 0 s i) (nthD 0 s (i + 1)) (nthD 0 s (i + 2)) (nthD 0 s (i + 3)))

/-- The rounds after the first key addition; `n` rounds are left. -/
def aesRounds : (n rc : Nat) → List Nat → List Nat → List Nat
  | 0, _, _, s => s
  | n + 1, rc, k, s =>
    let k' := aesNextKey rc k
    let t := aesShift (s.map aesSub)
    aesRounds n (aesX rc) k' (aesAdd (if n = 0 then t else aesMixAll t) k')

/-- AES-128 of one block of 16 bytes. -/
def aes128 (key block : List Byte) : List Byte :=
  let k := key.map BitVec.toNat
  (aesRounds 10 1 k (aesAdd (block.map BitVec.toNat) k)).map (BitVec.ofNat 8)

end Sys2Proof.Machine
end

