-- ==== Sys2Proof/Machine/Seal.lean ====
section
/-! DEFINITION. Keyed functions of 14_security.md (R433, R436, R437, R441): HMAC and HKDF over SHA-384, AES-256,
AES-256-GCM as bundles (R284), journal records (R300) and flows (R328) use it, and AES-256-XTS as HBM uses it. -/

namespace Sys2Proof.Machine

/-- Bytes added bit by bit. -/
def xorBytes (a b : List Byte) : List Byte := List.zipWith (· ^^^ ·) a b

/-- HMAC-SHA-384 (R433). -/
def hmac384 (key m : List Byte) : List Byte :=
  let k0 := if 128 < key.length then sha384 key else key
  let k := k0 ++ List.replicate (128 - k0.length) 0
  sha384 (xorBytes k (List.replicate 128 0x5C) ++ sha384 (xorBytes k (List.replicate 128 0x36) ++ m))

/-- Blocks of the expansion of HKDF. -/
def hkdfBlocks (prk info : List Byte) : (n i : Nat) → (t acc : List Byte) → List Byte
  | 0, _, _, acc => acc
  | n + 1, i, t, acc =>
    let t' := hmac384 prk (t ++ info ++ toLE 1 i)
    hkdfBlocks prk info n (i + 1) t' (acc ++ t')

/-- kdf(k, label, ctx) of R433: HKDF-SHA-384 with an empty salt. -/
def kdf (k label ctx : List Byte) (len : Nat) : List Byte :=
  let prk := hmac384 (List.replicate 48 0) k
  (hkdfBlocks prk (label ++ ctx) (cdiv len 48) 1 [] []).take len

/-- A word of four bytes rotated and substituted. -/
def aesWord (rot : Bool) (w : List Nat) : List Nat :=
  (if rot then w.drop 1 ++ w.take 1 else w).map aesSub

/-- Words of the AES-256 key schedule, newest first; `i` is the number of the next word. -/
def aes256Words : (n i rc : Nat) → List (List Nat) → List (List Nat)
  | 0, _, _, ws => ws
  | n + 1, i, rc, ws =>
    let prev := nthD [] ws 0
    let t :=
      if i % 8 = 0 then aesAdd (aesWord true prev) [rc, 0, 0, 0]
      else if i % 8 = 4 then aesWord false prev
      else prev
    aes256Words n (i + 1) (if i % 8 = 0 then aesX rc else rc) (aesAdd (nthD [] ws 7) t :: ws)

/-- The fifteen round keys of AES-256. -/
def aes256Keys (key : List Byte) : List (List Nat) :=
  let k := key.map BitVec.toNat
  let first := (List.range 8).map (fun i => (k.drop (4 * i)).take 4)
  let ws := (aes256Words 52 8 1 first.reverse).reverse
  (List.range 15).map (fun r => ((ws.drop (4 * r)).take 4).flatten)

/-- Rounds with the round keys given. -/
def aesKeyed : List (List Nat) → List Nat → List Nat
  | [], s => s
  | [k], s => aesAdd (aesShift (s.map aesSub)) k
  | k :: ks, s => aesKeyed ks (aesAdd (aesMixAll (aesShift (s.map aesSub))) k)

/-- AES-256 of one block under its round keys. -/
def aes256 (keys : List (List Nat)) (block : List Byte) : List Byte :=
  match keys with
  | k :: ks => (aesKeyed ks (aesAdd (block.map BitVec.toNat) k)).map (BitVec.ofNat 8)
  | [] => block

/-- The inverse of the substitution box. -/
def aesInvSub (b : Nat) : Nat := aesSbox.findIdx (· == b)

/-- Sixteen bytes with the rows shifted back. -/
def aesUnshift (s : List Nat) : List Nat := [0, 13, 10, 7, 4, 1, 14, 11, 8, 5, 2, 15, 12, 9, 6, 3].map (nthD 0 s)

/-- One column mixed back: the mixing of AES after its columns are multiplied by the square that undoes three of its four turns. -/
def aesUnmix (a b c d : Nat) : List Nat :=
  let u := aesX (aesX (a ^^^ c))
  let v := aesX (aesX (b ^^^ d))
  aesMix (a ^^^ u) (b ^^^ v) (c ^^^ u) (d ^^^ v)

/-- The columns of a state mixed back. -/
def aesUnmixAll (s : List Nat) : List Nat :=
  [0, 4, 8, 12].flatMap (fun i => aesUnmix (nthD 0 s i) (nthD 0 s (i + 1)) (nthD 0 s (i + 2)) (nthD 0 s (i + 3)))

/-- Rounds of decryption with the round keys given, the last one first. -/
def aesUnkeyed : List (List Nat) → List Nat → List Nat
  | [], s => s
  | [k], s => aesAdd ((aesUnshift s).map aesInvSub) k
  | k :: ks, s => aesUnkeyed ks (aesUnmixAll (aesAdd ((aesUnshift s).map aesInvSub) k))

/-- Decryption of one block under the round keys of encryption. -/
def aes256Inv (keys : List (List Nat)) (block : List Byte) : List Byte :=
  match keys.reverse with
  | k :: ks => (aesUnkeyed ks (aesAdd (block.map BitVec.toNat) k)).map (BitVec.ofNat 8)
  | [] => block

/-- The next tweak of XTS: the product with the field's generator, byte 0 least significant. -/
def xtsNext (t : Nat) : Nat := if 2 ^ 127 ≤ t then ((2 * t) % 2 ^ 128) ^^^ 0x87 else 2 * t

/-- The blocks of a data unit through a cipher under its tweak. -/
def xtsBlocks (f : List Byte → List Byte) : (n t : Nat) → List Byte → List Byte
  | 0, _, _ => []
  | n + 1, t, bs =>
    let w := toLE 16 t
    xorBytes (f (xorBytes (slice bs 0 16) w)) w ++ xtsBlocks f n (xtsNext t) (bs.drop 16)

/-- AES-256-XTS of one 256 B line (R441): Key1 and Key2 are the halves of the slot's 64 B key, the tweak the line number. -/
def xtsSeal (key : List Byte) (line : Nat) (bs : List Byte) : List Byte :=
  xtsBlocks (aes256 (aes256Keys (slice key 0 32))) 16 (ofLE (aes256 (aes256Keys (slice key 32 32)) (toLE 16 line))) bs

/-- The line that a ciphertext reads as under a key (R441). -/
def xtsOpen (key : List Byte) (line : Nat) (bs : List Byte) : List Byte :=
  xtsBlocks (aes256Inv (aes256Keys (slice key 0 32))) 16 (ofLE (aes256 (aes256Keys (slice key 32 32)) (toLE 16 line))) bs

/-- Product in the field of GCM; bit 127 of a number is the first bit of its block. -/
def gfMul : (n : Nat) → (z v x : Nat) → Nat
  | 0, z, _, _ => z
  | n + 1, z, v, x =>
    gfMul n (if x.testBit n then z ^^^ v else z) (if v % 2 = 1 then (v / 2) ^^^ (0xE1 * 2 ^ 120) else v / 2) x

/-- The hash of GCM over whole blocks. -/
def ghash (h : Nat) : (n : Nat) → List Byte → Nat → Nat
  | 0, _, y => y
  | n + 1, bs, y =>
    ghash h n (bs.drop 16) (gfMul 128 0 h (y ^^^ ofBE (slice bs 0 16)))

/-- Bytes padded with zeros to a multiple of 16. -/
def pad16 (bs : List Byte) : List Byte := bs ++ List.replicate ((16 - bs.length % 16) % 16) 0

/-- The key stream from counter `c` on. -/
def ctrStream (keys : List (List Nat)) (iv : List Byte) : (n c : Nat) → List Byte
  | 0, _ => []
  | n + 1, c => aes256 keys (iv ++ toBE 4 c) ++ ctrStream keys iv n (c + 1)

/-- Text under the key stream of GCM. -/
def gcmText (keys : List (List Nat)) (iv text : List Byte) : List Byte :=
  xorBytes text (ctrStream keys iv (cdiv text.length 16) 2)

/-- The tag of GCM. -/
def gcmTag (keys : List (List Nat)) (iv aad ct : List Byte) : List Byte :=
  let h := ofBE (aes256 keys (List.replicate 16 0))
  let x := pad16 aad ++ pad16 ct ++ toBE 8 (8 * aad.length) ++ toBE 8 (8 * ct.length)
  xorBytes (toBE 16 (ghash h (x.length / 16) x 0)) (aes256 keys (iv ++ toBE 4 1))

/-- AES-256-GCM sealing with a 12-byte IV: ciphertext and tag. -/
def gcmSeal (key iv aad pt : List Byte) : List Byte × List Byte :=
  let ks := aes256Keys key
  let ct := gcmText ks iv pt
  (ct, gcmTag ks iv aad ct)

/-- AES-256-GCM opening: the plaintext, and whether the tag verifies. -/
def gcmOpen (key iv aad ct tag : List Byte) : List Byte × Bool :=
  let ks := aes256Keys key
  (gcmText ks iv ct, gcmTag ks iv aad ct == tag)

/-! ### Labels (R436, R437) -/

/-- "IKB bundle". -/
def lblBundle : List Byte := ascii [73, 75, 66, 32, 98, 117, 110, 100, 108, 101]
/-- "IKB journal". -/
def lblJournal : List Byte := ascii [73, 75, 66, 32, 106, 111, 117, 114, 110, 97, 108]
/-- "IKB journal dev". -/
def lblJournalDev : List Byte := lblJournal ++ ascii [32, 100, 101, 118]
/-- "IKB raile". -/
def lblRaile : List Byte := ascii [73, 75, 66, 32, 114, 97, 105, 108, 101]
/-- "IKB data". -/
def lblData : List Byte := ascii [73, 75, 66, 32, 100, 97, 116, 97]
/-- "IKB DeviceID". -/
def lblDeviceId : List Byte := ascii [73, 75, 66, 32, 68, 101, 118, 105, 99, 101, 73, 68]
/-- "IKB Alias". -/
def lblAlias : List Byte := ascii [73, 75, 66, 32, 65, 108, 105, 97, 115]
/-- "IKB link". -/
def lblLink : List Byte := ascii [73, 75, 66, 32, 108, 105, 110, 107]
/-- "IKB hello". -/
def lblHello : List Byte := ascii [73, 75, 66, 32, 104, 101, 108, 108, 111]

/-- "IKB hbm". -/
def lblHbm : List Byte := ascii [73, 75, 66, 32, 104, 98, 109]

/-- "IKB flow". -/
def lblFlow : List Byte := ascii [73, 75, 66, 32, 102, 108, 111, 119]

/-- Bundle key of a tenant (R436). -/
def bundleKey (material : List Byte) : List Byte := kdf material lblBundle [] 32
/-- Journal key of a tenant under a journal nonce (R436). -/
def journalKey (material : List Byte) (jnonce : List Byte) : List Byte := kdf material lblJournal jnonce 32

end Sys2Proof.Machine
end

