-- ==== Sys2Proof/Machine/Curve.lean ====
section
/-! DEFINITION. P-384 (R428, R433, R434, R449): arithmetic on the curve, keys from secrets, and the verification of ECDSA signatures. -/

namespace Sys2Proof.Machine

/-- The field's prime. -/
def curveP : Nat := 2 ^ 384 - 2 ^ 128 - 2 ^ 96 + 2 ^ 32 - 1
/-- The order n of the base point. -/
def curveN : Nat := 0xFFFFFFFFFFFFFFFFFFFFFFFFFFFFFFFFFFFFFFFFFFFFFFFFC7634D81F4372DDF581A0DB248B0A77AECEC196ACCC52973
/-- The coefficient b; a is −3. -/
def curveB : Nat := 0xB3312FA7E23EE7E4988E056BE3F82D19181D9C6EFE8141120314088F5013875AC656398D8A2ED19D2A85C8EDD3EC2AEF
/-- The base point's coordinates. -/
def curveGx : Nat := 0xAA87CA22BE8B05378EB1C71EF320AD746E1D3B628BA79B9859F741E082542A385502F25DBF55296C3A545E3872760AB7
def curveGy : Nat := 0x3617DE4A96262C6F5D9E98BF9292DC29F8F41DBD289A147CE9DA3113B5F0B8C00A60B1CE1D7E819D7A431D7C90EA0E5F

/-- A point in Jacobian coordinates; `z` is 0 at infinity. -/
structure CurvePoint where
  x : Nat
  y : Nat
  z : Nat
  deriving DecidableEq, Repr

/-- Product and difference in the field. -/
def cmul (a b : Nat) : Nat := a * b % curveP
def csub (a b : Nat) : Nat := (a + (curveP - b % curveP)) % curveP

/-- A power modulo `m`, over the exponent's low `n` bits. -/
def powMod (m b e : Nat) : (n acc : Nat) → Nat
  | 0, acc => acc
  | n + 1, acc => powMod m b e n (if e.testBit n then acc * acc % m * b % m else acc * acc % m)

/-- Inverse modulo a prime of 384 bits. -/
def invMod (m a : Nat) : Nat := powMod m (a % m) (m - 2) 384 1

/-- A point doubled. -/
def ptDouble (p : CurvePoint) : CurvePoint :=
  let d := cmul p.z p.z
  let g := cmul p.y p.y
  let b := cmul p.x g
  let a := cmul 3 (cmul (csub p.x d) (p.x + d))
  let x := csub (cmul a a) (8 * b)
  let yz := p.y + p.z
  { x := x, y := csub (cmul a (csub (4 * b) x)) (8 * cmul g g), z := csub (cmul yz yz) (g + d) }

/-- Two points added. -/
def ptAdd (p q : CurvePoint) : CurvePoint :=
  if p.z = 0 then q
  else if q.z = 0 then p
  else
    let zp := cmul p.z p.z
    let zq := cmul q.z q.z
    let u1 := cmul p.x zq
    let u2 := cmul q.x zp
    let s1 := cmul p.y (cmul q.z zq)
    let s2 := cmul q.y (cmul p.z zp)
    if u1 = u2 then (if s1 = s2 then ptDouble p else { x := 1, y := 1, z := 0 })
    else
      let h := csub u2 u1
      let r := csub s2 s1
      let h2 := cmul h h
      let h3 := cmul h h2
      let v := cmul u1 h2
      let x := csub (csub (cmul r r) h3) (2 * v)
      { x := x, y := csub (cmul r (csub v x)) (cmul s1 h3), z := cmul h (cmul p.z q.z) }

/-- A multiple of a point, over the low `n` bits of the factor. -/
def ptMul (p : CurvePoint) (k : Nat) : (n : Nat) → CurvePoint → CurvePoint
  | 0, acc => acc
  | n + 1, acc =>
    let d := ptDouble acc
    ptMul p k n (if k.testBit n then ptAdd d p else d)

/-- `k` times a point. -/
def ptTimes (k : Nat) (p : CurvePoint) : CurvePoint := ptMul p k 384 { x := 1, y := 1, z := 0 }

/-- The base point. -/
def curveG : CurvePoint := { x := curveGx, y := curveGy, z := 1 }

/-- Affine coordinates of a point that is not at infinity. -/
def ptAffine (p : CurvePoint) : Nat × Nat :=
  let i := invMod curveP p.z
  let i2 := cmul i i
  (cmul p.x i2, cmul p.y (cmul i i2))

/-- Whether coordinates lie on the curve. -/
def onCurve (x y : Nat) : Bool :=
  decide (x < curveP) && decide (y < curveP) && cmul y y == (cmul x (cmul x x) + csub curveB (3 * x)) % curveP

/-- The private key that R433 derives from a secret. -/
def privateKey (secret label : List Byte) : Nat := ofBE (hmac384 secret label) % (curveN - 1) + 1

/-- The public key of a private key, uncompressed: 0x04, X, Y (R428). -/
def publicKey (d : Nat) : List Byte :=
  let a := ptAffine (ptTimes d curveG)
  0x04 :: (toBE 48 a.1 ++ toBE 48 a.2)

/-- ECDSA P-384 over a SHA-384 digest: whether `sig`, r then s, verifies under an uncompressed public key (R428, R449). -/
def ecdsaOk (pub digest sig : List Byte) : Bool :=
  let x := ofBE (slice pub 1 48)
  let y := ofBE (slice pub 49 48)
  let r := ofBE (slice sig 0 48)
  let w := ofBE (slice sig 48 48)
  let e := ofBE digest
  if pub.headD 0 != 0x04 || !onCurve x y || r == 0 || w == 0 || decide (curveN ≤ r) || decide (curveN ≤ w) then false
  else
    let i := invMod curveN w
    let p := ptAdd (ptTimes (e * i % curveN) curveG) (ptTimes (r * i % curveN) { x := x, y := y, z := 1 })
    p.z != 0 && (ptAffine p).1 % curveN == r

end Sys2Proof.Machine
end

