-- ==== Sys2Proof/Config.lean ====
section
/-! DEFINITION. What the spec leaves to chance or leaves open, as constants without a body: nothing in Lean can prove a
value of one, so a statement about a result that rests on one holds for every value. Each is applied to
`State.freeCtr`, a counter that a draw advances (notes/assumptions/4.md). -/

namespace Sys2Proof

/-- A draw of the device's generator, or an open 64-bit value (R427, R443, R449). -/
opaque Config.freeReg : Nat → Reg64

/-- Bytes of a draw of the generator: draw number and byte index (R300, R320, R443, R449). -/
opaque Config.freeByte : Nat → Nat → Byte

/-- An open lane of a vector register: draw number and lane (R169, R170, R172). -/
opaque Config.freeLane : Nat → Nat → Lane32

/-- Roles that the role table holds (R353 names its being full; the spec gives no size). -/
opaque Config.roleTableSize : Nat

/-- The row groups that a drill image declares for its layers (R185): tokens, choices, experts, E, gang width and groups of each. The
tables of an image give the declaration no place (notes/assumptions/15.md). -/
opaque Config.rowGroups : List Byte → List (Nat × Nat × Nat × Nat × Nat × Nat)

/-- Which rows of a tile a partial chunk uses: image, work-item record, tile of the record and tokens of the chunk, to ROW_VALID bits [15:0]
and a TAIL_ROWS value [19:16] (R232). How a chunk's tokens lie in its tiles is the drill image's (notes/assumptions/75.md). -/
opaque Config.usedRows : Nat → Nat → Nat → Nat → BitVec 20

/-- The scratchpad list of an engine slot of a work item (R147): record bytes and slot, to its address in the scratchpad of the gang's
leader and its number of descriptors. No table says how a record names such a list (notes/assumptions/67.md). -/
opaque Config.scratchList : List Byte → Nat → Option (Nat × Nat)

/-- The window W of the mask generator slots that a drill image's chunks use (R179, R182), from its header. No field of the image says
it (notes/assumptions/81.md). -/
opaque Config.maskWindow : List Byte → Nat

/-- The place of a job's partial buffer for a slice at its holder (R202): job and slice, to an offset. No rule says it
(notes/assumptions/4.md). -/
opaque Config.partialAt : Nat → Nat → Nat

/-- How far the copy of a retired pseudo-channel has come (R391): slot and time since it began, to lines copied. It runs on idle bandwidth
(notes/assumptions/84.md). -/
opaque Config.copyCursor : Nat → Nat → Nat

/-- Bits [19:1] of a codeword's control field: a fixed alignment pattern (R307), whose value is not given. -/
opaque Config.alignPattern : Nat

/-- Zimetum's MIPI manufacturer code, bits [47:33] of the I3C provisioned ID (R478), whose value is not given. -/
opaque Config.mipiCode : Nat

/-- Bytes of the SHA-384 of the boot ROM (R434, R445): the ROM's contents are not given. -/
opaque Config.romByte : Nat → Byte

/-- The Zimetum root certificate, and the Alias certificate by the Alias public key, FWID and SVN (R434, R444): X.509, whose bytes and
signature no rule gives (notes/assumptions/91.md). -/
opaque Config.rootCert : List Byte
opaque Config.aliasCert : List Byte → List Byte → Nat → List Byte

/-- DRAFTS_ACCEPTED of a request that recovery rebuilds, by its RPB and the tokens that it has had: R296 makes it that of an
uninterrupted run, and no journal record holds it (notes/assumptions/76.md). -/
opaque Config.draftsOf : List Byte → List Nat → Nat

end Sys2Proof
end

