-- ==== Sys2Proof/Machine/Regs.lean ====
section
/-! DEFINITION. The stored registers of the owner space (17_register_map.md and the register tables R104, R128, R162,
R188, R189, R228, R277, R305, R339, R394, R424, R451, R470, R496): block bases (R488), reset values, access masks
(R15), and the one pair of operations that reads and writes the stored part. Fields that mirror the block's structured
state are computed by Machine/RegView.lean; writes with an effect of their own are in Machine/RegWrite.lean. -/

namespace Sys2Proof.Machine

/-- Register of ARRAY[a] (R104, R128). -/
def arrReg (a off : Nat) : Nat := 0x400000 + a * 0x10000 + off
/-- Register of FETCH[m] (R162). -/
def feReg (m off : Nat) : Nat := 0x800000 + m * 0x4000 + off
/-- Scratchpad register of array `a` (R162). -/
def spReg (a off : Nat) : Nat := feReg (a / 2) (0x2000 + 0x800 * (a % 2) + off)
/-- Register of ring `q` of array `a` (R162). -/
def ringReg (a q off : Nat) : Nat := spReg a (0x100 + 0x40 * q + off)
/-- Register of the mere cache slice of fen die `n` (R162). -/
def mcReg (n off : Nat) : Nat := feReg (8 * n) (0x3000 + off)
/-- Register of VE[a] (R188). -/
def veReg (a off : Nat) : Nat := 0x108000 + a * 0x100 + off
/-- Register of MGEN (R189). -/
def mgenReg (off : Nat) : Nat := 0x10C000 + off
/-- Register of bundles and the journal (R305). -/
def bndReg (off : Nat) : Nat := 0x10D000 + off
/-- GLOBAL register (R496). -/
def glbReg (off : Nat) : Nat := 0x100000 + off
/-- FURROW register (R228). -/
def furReg (off : Nat) : Nat := 0x200000 + off
/-- RQT register (R276). -/
def rqtReg (off : Nat) : Nat := 0xA00000 + off
/-- POWER register (R424). -/
def pwrReg (off : Nat) : Nat := 0xC00000 + off
/-- FAULT register (R394). -/
def fltReg (off : Nat) : Nat := 0xD00000 + off
/-- RAILE[p] register (R338). -/
def rlReg (p off : Nat) : Nat := 0xE00000 + p * 0x10000 + off
/-- SECURITY register (R451). -/
def secReg (off : Nat) : Nat := 0x1000000 + off
/-- BIST register (R470). -/
def bistReg (off : Nat) : Nat := 0x1100000 + off
/-- QCFG[q] (R276). -/
def qcfgOff (q : Nat) : Nat := rqtReg (0x101000 + q * 0x10)
/-- LD_RQT[t] (R276). -/
def ldRqtOff (t : Nat) : Nat := rqtReg (0x102000 + t * 0x20)
/-- LD_POOL_LIMIT[t] (R276). -/
def ldPoolOff (t : Nat) : Nat := rqtReg (0x102008 + t * 0x20)
/-- Register `r` of region `i` (R338). -/
def rgnOff (i r : Nat) : Nat := rlReg 0 (0x4000 + 0x20 * i + 8 * r)
/-- ROUTE register of node `n` (R338). -/
def routeOff (n : Nat) : Nat := rlReg 0 (0x2000 + 8 * (n / 4))

/-- The block an offset lies in, by number, with the offset within the block and its index (R488): 0 GLOBAL, 1 FURROW,
2 ARRAY, 3 FETCH, 4 RQT, 5 POWER, 6 FAULT, 7 RAILE, 8 SECURITY, 9 BIST; none outside every block. -/
def blockOf (o : Nat) : Option (Nat × Nat × Nat) :=
  if 0x100000 ≤ o ∧ o < 0x110000 then some (0, 0, o - 0x100000)
  else if 0x200000 ≤ o ∧ o < 0x201000 then some (1, 0, o - 0x200000)
  else if 0x400000 ≤ o ∧ o < 0x800000 then some (2, (o - 0x400000) / 0x10000, o % 0x10000)
  else if 0x800000 ≤ o ∧ o < 0x880000 then some (3, (o - 0x800000) / 0x4000, o % 0x4000)
  else if 0xA00000 ≤ o ∧ o < 0xC00000 then some (4, 0, o - 0xA00000)
  else if 0xC00000 ≤ o ∧ o < 0xC01000 then some (5, 0, o - 0xC00000)
  else if 0xD00000 ≤ o ∧ o < 0xD01000 then some (6, 0, o - 0xD00000)
  else if 0xE00000 ≤ o ∧ o < 0xF00000 then some (7, (o - 0xE00000) / 0x10000, o % 0x10000)
  else if 0x1000000 ≤ o ∧ o < 0x1001000 then some (8, 0, o - 0x1000000)
  else if 0x1100000 ≤ o ∧ o < 0x1104000 then some (9, 0, o - 0x1100000)
  else none

/-- Bits [hi:lo] set. -/
def mask (hi lo : Nat) : Nat := (2 ^ (hi + 1 - lo) - 1) * 2 ^ lo

/-- Access masks of a register: bits that store what is written (RW), bits cleared by 1 (W1C) and bits set by 1 (W1S).
Every other bit is RO, WO or reserved and keeps its value (R15, R16). -/
structure Access where
  rw  : Nat := 0
  w1c : Nat := 0
  w1s : Nat := 0
  deriving DecidableEq, Repr

/-- Access masks by offset (R15). Registers whose writes have an effect beyond their bits are listed with those bits
too; Machine/RegWrite.lean adds the effect. -/
def regAccess (o : Nat) : Access :=
  match blockOf o with
  | some (0, _, r) =>
    if r = 0x008 then { w1c := 3 }
    else if r = 0xD000 then { rw := mask 7 0 }
    else if r = 0xD008 then { rw := mask 63 12 }
    else if r = 0xD018 then { rw := mask 63 0 }
    else if r = 0xD030 then { w1c := 3 }
    else if r = 0xD038 then { rw := mask 15 0 }
    else {}
  | some (1, _, r) =>
    if r = 0x000 then { rw := mask 47 32 + mask 12 8 + mask 1 0 }
    else if r = 0x018 then { w1c := mask 3 2 }
    else if r = 0x060 then { w1c := 1 }
    else {}
  | some (2, _, r) =>
    if r = 0x008 then { rw := mask 8 8 + mask 3 0 }
    else if r = 0x140 then { w1c := 1 }
    else if r = 0x148 then { w1c := 3 }
    else {}
  | some (3, m, r) =>
    if r = 0x010 then { w1c := 1 }
    else if r = 0x3000 ∧ m % 8 = 0 then { rw := mask 3 0 }
    else {}
  | some (4, _, r) =>
    if r = 0x100000 then { rw := mask 47 40 + mask 31 0 }
    else if 0x101000 ≤ r ∧ r < 0x101800 ∧ r % 16 = 0 then { rw := mask 16 10 + mask 7 0 }
    else if 0x102000 ≤ r ∧ r < 0x102200 ∧ r % 32 = 0 then { rw := mask 15 14 + mask 12 0 }
    else if 0x102000 ≤ r ∧ r < 0x102200 ∧ r % 32 = 8 then { rw := mask 31 0 }
    else {}
  | some (5, _, r) =>
    if r = 0x000 then { rw := mask 15 0 }
    else if r = 0x008 then { rw := mask 15 8 + mask 5 0 }
    else if r = 0x010 then { w1c := mask 5 5 + 1 }
    else {}
  | some (6, _, r) =>
    if r = 0x000 then { rw := mask 47 32 + 1 }
    else if r = 0x008 then { w1c := 2 }
    else if r = 0x080 then { rw := mask 63 40 + mask 2 0 }
    else {}
  | some (7, p, r) =>
    if r = 0x000 then { rw := mask 2 0 }
    else if r = 0x008 then { w1c := 8 }
    else if p ≠ 0 then {}
    else if r = 0x1000 then { rw := mask 11 0 }
    else if r = 0x1008 then { rw := mask 47 0 }
    else if r = 0x1010 then { rw := mask 11 0 }
    else if r = 0x1020 then { rw := mask 39 15 + mask 7 0 }
    else if r = 0x1030 then { w1c := 3 }
    else if 0x2000 ≤ r ∧ r < 0x4000 ∧ r % 8 = 0 then { rw := mask 63 0 }
    else if 0x4000 ≤ r ∧ r < 0x8000 then
      if r % 32 = 0 then { rw := mask 51 21 }
      else if r % 32 = 8 then { rw := mask 30 0 }
      else if r % 32 = 16 then { rw := mask 52 21 }
      else if r % 32 = 24 then { rw := mask 63 20 + mask 7 3 + 1 }
      else {}
    else {}
  | some (8, _, r) =>
    if r = 0x008 then { w1c := mask 2 1, w1s := mask 11 8 + 1 }
    else if r = 0x028 then { w1s := 2 }
    else {}
  | some (9, _, r) =>
    if r = 0x000 then { w1c := mask 5 5 }
    else if r = 0x008 then { rw := mask 63 58 + mask 42 40, w1s := 1 }
    else {}
  | _ => {}

/-- Reset values of the stored registers that are not 0 (R495 and the register tables). -/
def regReset (o : Nat) : Nat :=
  match blockOf o with
  | some (0, _, r) =>
    if r = 0xD000 then 16 * 4
    else if r = 0xD038 then 100
    else if 0x8000 ≤ r ∧ r < 0xC000 ∧ r % 0x100 = 0 then 4
    else 0
  | some (1, _, r) =>
    if r = 0x000 then 12 * 2 ^ 40 + 63 * 2 ^ 32 + 3 * 2 ^ 8 else 0
  | some (3, m, r) => if r = 0x3000 ∧ m % 8 = 0 then 8 else 0
  | some (4, _, r) =>
    if r = 0x100000 then 64 * 2 ^ 40 + 8192
    else if 0x101000 ≤ r ∧ r < 0x101800 ∧ r % 16 = 0 then 3 * 2 ^ 10 + 1
    else if 0x102000 ≤ r ∧ r < 0x102200 ∧ r % 32 = 0 then 256
    else 0
  | some (5, _, r) =>
    if r = 0x000 then 1400 * 2 ^ 32 + 1400
    else if r = 0x008 then 24 * 2 ^ 8 + 16 + 8
    else 0
  | some (6, _, r) => if r = 0x000 then 2000 * 2 ^ 32 + 1 else 0
  | some (7, p, r) => if p = 0 ∧ r = 0x1008 then 2000 * 2 ^ 32 + 500 * 2 ^ 16 + 50 else 0
  | some (8, _, r) => if r = 0x010 then 2 else 0
  | some (9, _, r) => if r = 0x000 then 1 * 2 ^ 12 else 0
  | _ => 0

/-- A stored register's value. -/
def regGet (s : State) (o : Nat) : Nat :=
  match lookupN o s.regs with
  | some v => v.toNat
  | none => regReset o

/-- A stored register set; a register at its reset value is not listed, so equal register files are equal data. -/
def regSet (s : State) (o : Nat) (v : Nat) : State :=
  { s with regs :=
      if reg v = reg (regReset o) then eraseN o s.regs else insertN o (reg v) s.regs }

/-- A counter raised by `n`, wrapping at two to the 64 (R494). -/
def regBump (s : State) (o n : Nat) : State := if n = 0 then s else regSet s o ((regGet s o + n) % 2 ^ 64)

/-- A field of a stored register. -/
def regField (s : State) (o hi lo : Nat) : Nat := bits (regGet s o) hi lo

/-- A number with bits [hi:lo] replaced. -/
def putBits (old hi lo v : Nat) : Nat := old - bits old hi lo * 2 ^ lo + (v % 2 ^ (hi + 1 - lo)) * 2 ^ lo

/-- A field of a stored register set. -/
def regPut (s : State) (o hi lo v : Nat) : State := regSet s o (putBits (regGet s o) hi lo v)

/-- A flag of a stored register set to 1. -/
def regFlag (s : State) (o bit : Nat) : State := regPut s o bit bit 1

/-- The value a register stores after a write under its access masks (R15, R16). -/
def accessWrite (a : Access) (old new : Nat) : Nat :=
  let n := new % 2 ^ 64
  ((old &&& (mask 63 0 ^^^ a.rw)) ||| (n &&& a.rw)) &&& (mask 63 0 ^^^ (n &&& a.w1c)) ||| (n &&& a.w1s)

/-- Canonical form of the register file: offsets strictly rising, no entry at its reset value. -/
def regsWf : List (Nat × Reg64) → Bool
  | [] => true
  | [(o, v)] => v != reg (regReset o)
  | (o, v) :: (p, w) :: r => v != reg (regReset o) && decide (o < p) && regsWf ((p, w) :: r)

end Sys2Proof.Machine
end

