-- ==== Sys2Proof/Machine/Ops.lean ====
section
/-! DEFINITION. The named operations that several commands share: the units of the state, HBM and its addresses
(R30 to R34, R39), work items and their stop (R103, R116, R156, R209), the fault log (R392), and messages sent. -/

namespace Sys2Proof.Machine

/-! ### Units -/

/-- An array with its scratchpad and vector engine. -/
def arr (s : State) (a : ArrId) : ArrayUnit := s.arrays[a]
/-- An array replaced. -/
def setArr (s : State) (a : ArrId) (u : ArrayUnit) : State := { s with arrays := s.arrays.set a u }
/-- A fetch engine. -/
def fe (s : State) (f : FeId) : FetchUnit := s.fes[f]
/-- A fetch engine replaced. -/
def setFe (s : State) (f : FeId) (u : FetchUnit) : State := { s with fes := s.fes.set f u }
/-- A tenant logical device. -/
def ten (s : State) (t : LdId) : Tenant := s.lds[t]
/-- A tenant logical device replaced. -/
def setTen (s : State) (t : LdId) (u : Tenant) : State := { s with lds := s.lds.set t u }
/-- A submission queue with its pair. -/
def que (s : State) (q : Fin 128) : Queue := s.queues[q]
/-- A queue replaced. -/
def setQue (s : State) (q : Fin 128) (u : Queue) : State := { s with queues := s.queues.set q u }
/-- A Raile port. -/
def port (s : State) (p : PortId) : Port := s.ports[p]
/-- A Raile port replaced. -/
def setPort (s : State) (p : PortId) (u : Port) : State := { s with ports := s.ports.set p u }
/-- A number as an array identifier. -/
def arrId (n : Nat) : ArrId := Fin.ofNat 64 n
/-- A number as an engine identifier. -/
def feId (n : Nat) : FeId := Fin.ofNat 32 n
/-- A number as a tenant LD. -/
def ldId (n : Nat) : LdId := Fin.ofNat 16 n
/-- A number as a queue. -/
def queId (n : Nat) : Fin 128 := Fin.ofNat 128 n

/-- A change made to every array in turn, lowest number first. -/
def forArrays (s : State) (f : State → ArrId → State) : State := (List.finRange 64).foldl f s
/-- A change made to every engine in turn. -/
def forFes (s : State) (f : State → FeId → State) : State := (List.finRange 32).foldl f s
/-- A change made to the descriptors in every engine's slots. -/
def mapDescs (s : State) (g : DescRun → DescRun) : State :=
  forFes s (fun s f => setFe s f { fe s f with slots := (fe s f).slots.map (fun x => (x.1, g x.2)) })
/-- A change made to every tenant LD in turn. -/
def forLds (s : State) (f : State → LdId → State) : State := (List.finRange 16).foldl f s

/-- A message appended to those the device has sent. -/
def send (s : State) (m : OutMsg) : State := { s with out := s.out ++ [m] }

/-- A free 64-bit value: nothing in the model fixes it. -/
def drawReg (s : State) : Reg64 := Config.freeReg s.freeCtr
/-- `n` free bytes. -/
def drawBytes (s : State) (n : Nat) : List Byte := (List.range n).map (Config.freeByte s.freeCtr)
/-- The counter of free values advanced. -/
def tickFree (s : State) : State := { s with freeCtr := s.freeCtr + 1 }

/-! ### Part and addresses -/

/-- HBM capacity in bytes (R30). -/
def hbmCap (s : State) : Nat := match s.fuses.part with
  | .ikb7240 => 640 * 2 ^ 30
  | .ikb7236 => 480 * 2 ^ 30

/-- First frame of the RESERVE region (R33). -/
def reserveFrame (s : State) : Nat := (hbmCap s - 16 * 2 ^ 30) / 65536

/-- Owner tag of a frame (R32): listed, else RESERVE at the top and FREE below. -/
def frameTag (s : State) (f : Nat) : Tag :=
  match lookupN f s.tags with
  | some t => t
  | none => if reserveFrame s ≤ f then .reserve else .free

/-- The tag an unlisted frame has. -/
def tagDefault (s : State) (f : Nat) : Tag := if reserveFrame s ≤ f then .reserve else .free

/-- A frame's tag in the list; the default tag is not listed. -/
def markTag (s : State) (f : Nat) (t : Tag) : State :=
  { s with tags := if t = tagDefault s f then eraseN f s.tags else insertN f t s.tags }

/-! ### Memory encryption (R32, R436, R441) -/

/-- The key slot that an owner tag selects (R32, R436). -/
def tagSlot : Tag → Nat
  | .window t => t
  | .pool t => t
  | _ => 16

/-- The device data secret in its key store (R434, R435); none before the boot ROM has derived it, or once it has been cleared. -/
def ddsOf (s : State) : List Byte := s.sec.dds.getD []

/-- The HBM key of a slot as R436 derives it: from DDS, and for a tenant's slot from its key material too. -/
def deriveHbm (s : State) (slot : Nat) (material : List Byte) : List Byte :=
  kdf (ddsOf s ++ material) lblHbm (toLE 1 slot ++ toLE 4 s.sec.bootId.toNat) 64

/-- A key slot of the memory controllers loaded or cleared (R435). -/
def setHbmKey (s : State) (slot : Nat) (k : Option (List Byte)) : State :=
  { s with sec := { s.sec with hbmKeys := s.sec.hbmKeys.set slot k } }

/-- The HBM key in a slot. A slot without a key, cleared or not yet derived, is taken to hold zeros
(DESIGN CHOICE, notes/assumptions/65.md). -/
def slotKey (s : State) (slot : Nat) : List Byte := (nthD none s.sec.hbmKeys slot).getD (List.replicate 64 0)

/-- What the HBM stacks hold of a line: its bytes under AES-256-XTS with the key of its frame's slot, the line number as tweak. -/
def lineCipher (s : State) (line : Nat) : List Byte :=
  xtsSeal (slotKey s (tagSlot (frameTag s (line / 256)))) line (cellReads s.mem (line * 256) 256)

/-- A line read under another key than the one it was written under (R441). -/
def rekeyLine (old new : List Byte) (m : List Host.Cell) (line : Nat) : List Host.Cell :=
  cellWrites (line * 256) (xtsOpen new line (xtsSeal old line (cellReads m (line * 256) 256))) m

/-- The 256 lines of a frame as they read once its slot, or its slot's key, has changed. -/
def rekeyFrame (old new : List Byte) (s : State) (f : Nat) : State :=
  { s with mem := if old = new then s.mem else ((List.range 256).map (f * 256 + ·)).foldl (rekeyLine old new) s.mem }

/-- A frame's tag set: where the tag selects another slot, the frame's lines read under the wrong key from then on (R441). -/
def setTag (s : State) (f : Nat) (t : Tag) : State :=
  let a := tagSlot (frameTag s f)
  if a = tagSlot t then markTag s f t else rekeyFrame (slotKey s a) (slotKey s (tagSlot t)) (markTag s f t) f

/-- Bytes of HBM set to 0 (R34). -/
def memClear (s : State) (a n : Nat) : State :=
  { s with
    mem := cellClear a n s.mem
    poison := s.poison.filter (fun l => !(decide (a ≤ l * 256) && decide (l * 256 + 256 ≤ a + n))) }

/-- Frame numbers tagged with one tag. -/
def framesOf (s : State) (t : Tag) : List Nat := (s.tags.filter (fun p => p.2 == t)).map (·.1)

/-- Frames of POOL(t), mapped (R248). -/
def poolUsed (s : State) (t : Nat) : Nat := (framesOf s (.pool t)).length

/-- The lowest `n` FREE frames from frame `f` up, among the frames below the RESERVE region, by a bounded search. -/
def freeFrames (s : State) : (fuel n f : Nat) → List Nat
  | 0, _, _ => []
  | fuel + 1, n, f =>
    if n = 0 ∨ reserveFrame s ≤ f then []
    else if frameTag s f = .free then f :: freeFrames s fuel (n - 1) (f + 1)
    else freeFrames s fuel n (f + 1)

/-- The lowest `n` FREE frames. At most as many frames as are listed can be passed over. -/
def takeFree (s : State) (n : Nat) : List Nat := freeFrames s (n + s.tags.length) n 0

/-- How many frames below the RESERVE region are FREE. -/
def freeCount (s : State) : Nat := reserveFrame s - (s.tags.filter (fun p => p.1 < reserveFrame s)).length

/-- The fen die that owns a DPA (R31). -/
def dpaDie (a : Nat) : Nat := (a / 256) % 20 / 5

/-- Global pseudo-channel number of a DPA (R31). -/
def dpaPc (a : Nat) : Nat := (a / 256) % 20 * 32 + (a / 256) / 20 % 32

/-- The next write to the on-chip structure that FLT_INJECT names has been made (R394): ARM is cleared by hardware, and the structure
holds a corrupted write until the error is detected (notes/assumptions/83.md). -/
def disarm (s : State) (source unit : Nat) : State :=
  let v := regGet s (fltReg 0x080)
  if bitAt v 0 ∧ bits v 47 40 = source ∧ bits v 63 48 = unit then
    let s := regPut s (fltReg 0x080) 0 0 0
    if bits v 2 1 = 3 then s else { s with faults := { s.faults with corrupt := s.faults.corrupt ++ [(source, unit)] } }
  else s

/-- Writes through the mere cache slices (R23, R158), one for each line given by a DPA: MC_WR of each slice counts its own, a line that
is present is updated, and none is allocated. -/
def slicesWrote (s : State) (ps : List Nat) : State :=
  (List.range 4).foldl (fun s d =>
    let n := (ps.filter (fun p => dpaDie p == d)).length
    if n = 0 then s else disarm (regBump s (mcReg d 0x18) n) 6 d) s

/-- The pseudo-channel whose lines a redirect slot holds (R391). -/
def slotPc (s : State) (r : Nat) : Option Nat :=
  let v := regGet s (fltReg 0x018)
  if bitAt v (16 * r + 15) then some (bits v (16 * r + 9) (16 * r)) else none

/-- The line of the redirect area that holds line `l` of a slot's pseudo-channel: the `l`-th, in DPA order, of the slot's half that lies
on none of the pseudo-channels given (R391). The pseudo-channels of lines repeat after 640 lines (R31). -/
def redirLine (s : State) (r l : Nat) (bad : List (Option Nat)) : Nat :=
  let base := hbmCap s / 256 - 2 ^ 24 + r * 2 ^ 23
  let good := (List.range 640).filter (fun k => !bad.contains (some (dpaPc ((base + k) * 256))))
  base + 640 * (l / good.length) + nthD 0 good (l % good.length)

/-- Whether a slot's copy has passed a line of its pseudo-channel (R391): the cursor of a copy that runs is open. -/
def slotCopied (s : State) (r l : Nat) : Bool :=
  bitAt (regGet s (fltReg 0x018)) (16 * r + 14)
  || (match s.faults.copyFrom.find? (fun x => x.1 == r) with
      | some x => decide (l < Config.copyCursor r (s.tick.rqtTime - x.2))
      | none => false)

/-- The line of HBM that holds the data of a DPA (R391): its own, or a line of the redirect area. While a second retirement copies slot 0
again, a line that the copy has not reached stands where the first copy put it. -/
def physLine (s : State) (dpa : Nat) : Nat :=
  let l := dpa / 256 / 640
  if slotPc s 0 = some (dpaPc dpa) then
    if slotCopied s 0 l then redirLine s 0 l [slotPc s 0, slotPc s 1]
    else if (slotPc s 1).isSome then redirLine s 0 l [slotPc s 0] else dpa / 256
  else if slotPc s 1 = some (dpaPc dpa) ∧ slotCopied s 1 l then redirLine s 1 l [slotPc s 0, slotPc s 1]
  else dpa / 256

/-- The pseudo-channel that serves a DPA. -/
def physPc (s : State) (dpa : Nat) : Nat := dpaPc (physLine s dpa * 256)

/-- A write of `n` bytes within a line that reached HBM (R394): an armed injection into its pseudo-channel corrupts its first burst, and
a burst that it covers whole holds no older error. -/
def hbmWrote (s : State) (x : Nat × Nat) : State :=
  let v := regGet s (fltReg 0x080)
  let hit := bitAt v 0 && bits v 47 40 == 7 && bits v 63 48 == physPc s x.1
  let covers (b : Nat) : Bool := decide (x.1 ≤ 32 * b) && decide (32 * b + 32 ≤ x.1 + x.2)
  if !hit ∧ !(s.faults.injected.any (fun y => covers y.1)) then s
  else
    let rest := s.faults.injected.filter (fun y => !covers y.1)
    let err := hit && decide (bits v 2 1 = 1 ∨ bits v 2 1 = 2)
    let s := { s with faults := { s.faults with
      injected := if err then rest.filter (fun y => y.1 != x.1 / 32) ++ [(x.1 / 32, bits v 2 1)] else rest } }
    if hit then regPut s (fltReg 0x080) 0 0 0 else s

/-- The pieces, each within a line, of `n` bytes at a DPA. -/
def memPieces (a n : Nat) : List (Nat × Nat) :=
  if n = 0 then []
  else (List.range (cdiv (a % 256 + n) 256)).map (fun k =>
    let x := if k = 0 then a else a / 256 * 256 + 256 * k
    (x, Nat.min (a + n) (x / 256 * 256 + 256) - x))

/-- Writes of pieces of lines by any source (R23): through the slices that own the lines, to the memory controllers. -/
def piecesWrote (s : State) (ps : List (Nat × Nat)) : State := ps.foldl hbmWrote (slicesWrote s (ps.map (·.1)))

/-- A frame given to a tenant or an image: zeros (R34; notes/assumptions/35.md) written under its new tag, through the slices that own
its lines (R23, R441). -/
def giveFrame (s : State) (f : Nat) (t : Tag) : State :=
  piecesWrote (memClear (markTag s f t) (f * 65536) 65536) (memPieces (f * 65536) 65536)

/-- A tenant's key material replaced (R439, R447): its frames read under another key from then on (R441). -/
def setMaterial (s : State) (t : LdId) (m : Option (List Byte)) (gen : Nat) (frames : List Nat) : State :=
  let n := setHbmKey (setTen s t { ten s t with material := m, keyGen := gen }) t.val (m.map (deriveHbm s t.val))
  frames.foldl (rekeyFrame (slotKey s t.val) (slotKey n t.val)) n

/-- HBM bytes at a DPA. -/
def memReads (s : State) (a n : Nat) : List Byte := cellReads s.mem a n

/-- HBM bytes written. -/
def memWrites (s : State) (a : Nat) (bs : List Byte) : State := { s with mem := cellWrites a bs s.mem }

/-- Bytes written at a DPA by the device, through the slices of their lines (R23). -/
def memStore (s : State) (a : Nat) (bs : List Byte) : State := piecesWrote (memWrites s a bs) (memPieces a bs.length)

/-- Whether a range of DPA meets a poisoned line. -/
def poisoned (s : State) (a n : Nat) : Bool :=
  s.poison.any (fun l => decide (l * 256 < a + n) && decide (a < l * 256 + 256))

/-- Line index within its pseudo-channel of a DPA (R31). -/
def dpaPcLine (a : Nat) : Nat := (a / 256) / 20 / 32

/-- Translation of an LD offset through the window table (R35, R347). -/
def windowDpa (s : State) (t : LdId) (off : Nat) : Option Nat :=
  match (ten s t).window[off / 2 ^ 21]? with
  | some u => some (u * 2 ^ 21 + off % 2 ^ 21)
  | none => none

/-- First TVA of the learned-prefix aliases (R244). -/
def lpAlias : Nat := 0xFF0000000000

/-- DPA behind a learned-prefix alias: the slot's pages in IMAGE frames (R244, R255). -/
def aliasDpa (s : State) (v : Nat) : Option Nat :=
  let l := s.lps[Fin.ofNat 64 ((v - lpAlias) / 2 ^ 32)]
  if l.st = .ready ∧ (v - lpAlias) / 2 ^ 32 < 64 then
    (l.frames[v % 2 ^ 32 / 65536]?).map (fun f => f * 65536 + v % 65536)
  else none

/-- Translation of a TVA (R39, R244). -/
def tvaDpa (s : State) (t : LdId) (v : Nat) : Option Nat :=
  if 2 ^ 48 ≤ v then none
  else if v < 2 ^ 47 then windowDpa s t v
  else if lpAlias ≤ v then aliasDpa s v
  else match lookupN (v / 65536) (ten s t).tva with
    | some f => some (f * 65536 + v % 65536)
    | none => none

/-- One byte at a TVA, none where it is unmapped. -/
def tvaByte (s : State) (t : LdId) (v : Nat) : Option Byte := (tvaDpa s t v).map (fun a => cellRead a s.mem)

/-- Whether every byte of a TVA range is mapped, by its pages. -/
def tvaMapped (s : State) (t : LdId) (v n : Nat) : Bool :=
  (List.range ((v % 65536 + n + 65535) / 65536)).all (fun i => (tvaDpa s t ((v / 65536 + i) * 65536)).isSome)

/-- Bytes at a TVA; an unmapped byte reads 0 (callers check `tvaMapped` first). -/
def tvaReads (s : State) (t : LdId) (v : Nat) : Nat → List Byte
  | 0 => []
  | n + 1 => ((tvaByte s t v).getD 0) :: tvaReads s t (v + 1) n

/-- Whether a TVA range meets a poisoned line. -/
def tvaPoisoned (s : State) (t : LdId) (v n : Nat) : Bool :=
  decide (0 < n) && (List.range (n / 256 + 2)).any (fun i =>
    let x := if i * 256 < n then v + i * 256 else v + n - 1
    match tvaDpa s t x with
    | some a => poisoned s a 1
    | none => false)

/-- Bytes written at a TVA; a byte at an unmapped page is not written. -/
def tvaWrites (s : State) (t : LdId) (v : Nat) : List Byte → State
  | [] => s
  | b :: bs =>
    let s1 := match tvaDpa s t v with
      | some a => { s with mem := cellWrite a b s.mem }
      | none => s
    tvaWrites s1 t (v + 1) bs

/-! ### Geometry (R497), from the stored register of GLOBAL -/

/-- GEO_ARRAYS: the arrays enabled and not retired. -/
def geoArrays (s : State) : Nat := regGet s (glbReg 0x108)
/-- Whether an array is enabled. -/
def arrEnabled (s : State) (a : Nat) : Bool := bitAt (geoArrays s) a
/-- Whether a pseudo-channel is enabled (GEO_PC). -/
def pcEnabled (s : State) (pc : Nat) : Bool := bitAt (regGet s (glbReg (0x120 + 8 * (pc / 64)))) (pc % 64)
/-- Whether a Raile lane is enabled (GEO_LANES). -/
def laneEnabled (s : State) (p l : Nat) : Bool := bitAt (regGet s (glbReg 0x170)) (4 * p + l)
/-- Bit `b` of a stored register cleared. -/
def regClearBit (s : State) (o b : Nat) : State := regPut s o b b 0
/-- One geometry update: GEO_GEN rises by one (R497). -/
def geoBump (s : State) : State := regBump s (glbReg 0x100) 1

/-! ### Clock and numbers -/

/-- Frequency of an operating point in MHz (R395). -/
def opMhz (op : Nat) : Nat := nthD 700 [1400, 1260, 1120, 980, 840, 700] op

/-- Current furrow number (R191). -/
def curFurrow (s : State) : Nat := s.tick.furrow

/-- Clocks since the tick, from TICK_REF periods of 10 ns (R8, R190). -/
def nowClk (s : State) : Nat := (s.tick.rqtTime - s.tick.lastTick) * opMhz s.power.op / 100

/-- FLT_STATUS.HALTED (R388). -/
def halted (s : State) : Bool := regField s (fltReg 0x008) 0 0 == 1

/-! ### Messages to the host (R363, R393) -/

/-- Out of device reset: powered, PERST_N high (R452, R453). -/
def alive (s : State) : Bool := s.pins.pwrgood && s.pins.perstN

/-- The host link is up and secure enough to carry traffic (R367, R393, R475). -/
def hostUp (s : State) : Bool := alive s && s.pins.hostLink && !s.sec.ideInsecure

/-- What a function holds beside its mailbox. -/
def fnOf (s : State) (fn : Mbox) : FnRegs := ((s.fns.find? (fun p => p.1 == fn)).map (·.2)).getD {}

/-- A function's registers replaced. -/
def setFn (s : State) (fn : Mbox) (x : FnRegs) : State :=
  { s with fns :=
      if s.fns.any (fun p => p.1 == fn) then s.fns.map (fun p => if p.1 = fn then (fn, x) else p) else s.fns ++ [(fn, x)] }

/-- Whether the owner has set Bus Master Enable (R368). -/
def busMaster (s : State) : Bool := (fnOf s .owner).busMaster

/-- Whether a function can send the message of a vector now (R363, R393): MSI-X is enabled, neither the function nor the vector is
masked, and the link carries traffic. -/
def vectorOpen (s : State) (fn : Mbox) (v : Nat) : Bool :=
  let f := fnOf s fn
  hostUp s && f.msixOn && !f.msixMask && !(f.vectors[Fin.ofNat 64 v]).masked

/-- A vector's pending bit set or cleared. -/
def setPending (s : State) (fn : Mbox) (v : Nat) (b : Bool) : State :=
  let f := fnOf s fn
  setFn s fn { f with vectors := f.vectors.set (Fin.ofNat 64 v) { f.vectors[Fin.ofNat 64 v] with pending := b } }

/-- A vector of a function is sent, or waits in its pending bit (R363; notes/assumptions/89.md). -/
def sendMsix (s : State) (fn : Mbox) (v : Nat) : State :=
  if vectorOpen s fn v then send s (.msix fn v) else setPending s fn v true

/-- Vectors whose cause to wait has gone are sent, lowest first (R363). -/
def flushMsix (s : State) (fn : Mbox) : State :=
  (List.range 64).foldl (fun s v =>
    if ((fnOf s fn).vectors[Fin.ofNat 64 v]).pending && vectorOpen s fn v then send (setPending s fn v false) (.msix fn v) else s) s

/-! ### The fault log (R373, R392, R393) -/

/-- A record's 64 bytes (R392). -/
def faultBytes (r : FaultRec) : List Byte :=
  toLE 1 1 ++ toLE 1 r.cls ++ toLE 1 r.domain ++ toLE 1 r.source ++ toLE 2 r.unit ++ toLE 2 r.code
  ++ toLE 8 r.fseq ++ toLE 8 r.furrow ++ toLE 4 r.clk ++ toLE 1 r.ld ++ toLE 1 r.count ++ toLE 2 r.rqt
  ++ toLE 4 r.workItem ++ toLE 2 r.layer ++ toLE 2 r.tile ++ toLE 8 r.addr ++ toLE 8 r.detail
  ++ toLE 4 r.bootId.toNat ++ toLE 4 0

/-- Whether two records merge: CORRECTED, same SOURCE, UNIT and CODE, one furrow (R392). -/
def faultMerges (r x : FaultRec) : Bool :=
  r.cls == 0 && x.cls == 0 && r.source == x.source && r.unit == x.unit && r.code == x.code && r.furrow == x.furrow

/-- The first record that merges with `r` counts one more, saturating at 255. -/
def mergeInto (r : FaultRec) : List FaultRec → List FaultRec
  | [] => []
  | x :: xs => if faultMerges r x then { x with count := Nat.min 255 (x.count + 1) } :: xs else x :: mergeInto r xs

/-- Whether a mailbox's event interrupt policy asks for a message: any log's mode is MSI (R349). -/
def policyOn (s : State) (m : Mbox) : Bool :=
  match s.faults.eventPolicy.find? (fun p => p.1 == m) with
  | some (_, v) => (List.range 4).any (fun i => bits v.toNat (8 * i + 1) (8 * i) == 1)
  | none => false

/-- An event record given to the owner (R393). -/
def ownerEvent (s : State) (bs : List Byte) : State :=
  let s := { s with faults := { s.faults with ownerEvents := s.faults.ownerEvents ++ [bs] } }
  if policyOn s .owner then sendMsix s .owner 0 else s

/-- An event record given to a tenant LD (R393). -/
def tenantEvent (s : State) (t : LdId) (bs : List Byte) : State :=
  let u := ten s t
  let s := setTen s t { u with events := u.events ++ [bs] }
  if policyOn s (.tenant t) then sendMsix s (.tenant t) 0 else s

/-- A General Media Event for an LD's window (R349, R393): given to the LD, and to the owner, who receives all events. -/
def mediaEvent (s : State) (t : LdId) (off : Nat) : State :=
  let bs := toLE 8 (off / 256 * 256)
  tenantEvent (ownerEvent s bs) t bs

/-- An in-band interrupt due, by its payload (R478). -/
def raiseIbi (s : State) (payload : Nat) : State := { s with pins := { s.pins with ibiDue := s.pins.ibiDue ++ [payload] } }

/-- One error detected in a furrow logged: its class counter, and a record in the ring of 4,096, merged where R392 says (R373, R392). -/
def logFaultIn (s : State) (furrow : Nat) (r0 : FaultRec) : State :=
  let r : FaultRec :=
    { r0 with furrow := furrow, bootId := s.sec.bootId, fseq := regGet s (fltReg 0x010) }
  let s := regBump s (fltReg (0x020 + 8 * r.cls)) 1
  if s.faults.log.any (faultMerges r) then
    { s with faults := { s.faults with log := mergeInto r s.faults.log } }
  else
    let full := decide (4096 ≤ s.faults.log.length)
    let lost := match s.faults.log with
      | x :: _ => full && decide (s.faults.readUpTo ≤ x.fseq)
      | [] => false
    let log := (if full then s.faults.log.drop 1 else s.faults.log) ++ [r]
    let s := { s with faults := { s.faults with log := log } }
    let s := regBump s (fltReg 0x010) 1
    let s := if lost then regFlag s (fltReg 0x008) 1 else s
    let s := ownerEvent s (faultBytes r)
    let s := if r.cls = 4 then raiseIbi s 3 else s
    if r.cls = 4 ∨ r.cls = 5 then send s (.mctp (faultBytes r)) else s

/-- One error of the furrow in progress logged. -/
def logFault (s : State) (r : FaultRec) : State := logFaultIn s (curFurrow s) r

/-- An error logged by class, source, unit and code. -/
def logAt (s : State) (cls domain source unit code : Nat) : State :=
  logFault s { cls := cls, domain := domain, source := source, unit := unit, code := code, fseq := 0, furrow := 0, clk := nowClk s }

/-! ### Work items -/

/-- The work item with an id. -/
def itemOf (s : State) (id : Nat) : Option ItemRun := s.items.find? (fun w => w.id == id)

/-- A work item replaced, by id. -/
def setItem (s : State) (w : ItemRun) : State :=
  { s with items := s.items.map (fun x => if x.id = w.id then w else x) }

/-- The work item of an array. -/
def arrItem (s : State) (a : ArrId) : Option ItemRun :=
  match (arr s a).item with
  | some id => itemOf s id
  | none => none

/-- The arrays of a work item's gang, the leader first (R94). -/
def gangArrays (w : ItemRun) : List ArrId := (List.range w.width).map (fun i => arrId (w.leader + i))

/-- Sticky bits added to a work item (R58, R124). -/
def stickItem (s : State) (id : Option Nat) (e : Nat) : State :=
  if e = 0 then s
  else match id with
    | none => s
    | some i => match itemOf s i with
      | some w => setItem s { w with sticky := w.sticky ||| e }
      | none => s

/-- An array whose work item is cut (R103, R115): issue stops, the pipeline is discarded, and every accumulator entry is INVALID. -/
def cutArray (u : ArrayUnit) : ArrayUnit :=
  { u with
    st := if u.st = .fallow then .fallow else .idle
    tiles := []
    cur := none
    drains := []
    act := List.replicate 16 none
    loads := []
    feeders := Vector.replicate 16 {}
    pipe := []
    ent := Vector.replicate 16 .invalid
    entTile := []
    acc := []
    outq := []
    maskq := []
    cld := none
    ve := if u.ve = .fallow then .fallow else .idle }

/-- Descriptor states that count as outstanding (R146). -/
def descLive (d : DescRun) : Bool := !(d.st == .done || d.st == .discarded)

/-- Whether a descriptor has not started (R156): no setup yet. -/
def descUnstarted (d : DescRun) : Bool := d.st == .queued || d.st == .waiting

/-- A work item's descriptors on one engine discarded, each counting in FE_ABANDON: after a cut those that had not started (R156), after
a cancellation every outstanding one (R157). -/
def discardOn (every : Bool) (id : Nat) (s : State) (f : FeId) : State :=
  let u := fe s f
  let gone (d : DescRun) : Bool := d.item == id && (if every then descLive d else descUnstarted d)
  let n := (u.slots.filter (fun p => gone p.2)).length + (u.waitq.filter (fun d => d.item == id)).length
  let slots := u.slots.map (fun p => if gone p.2 then (p.1, { p.2 with st := .discarded }) else p)
  if u.slots = slots ∧ u.waitq.all (fun d => d.item != id) then s
  else regBump (setFe s f { u with slots := slots, waitq := u.waitq.filter (fun d => d.item != id) })
    (feReg f.val 0x48) n

/-- The mask generator slot of an entry is free again (R179). -/
def freeMgen (s : State) (i : Nat) : State :=
  { s with mgen := s.mgen.map (fun m => if m.busy = some i then { m with busy := none, loaded := false } else m) }

/-- A work item's descriptors discarded on every engine. -/
def discardDescs (s : State) (every : Bool) (id : Nat) : State := forFes s (discardOn every id)

/-- Clocks that a stall counts when it is met again, or has ended, in clock `t`: `last` is the clock counted last (R162). -/
def stallClks (last : Option Nat) (t : Nat) (still : Bool) : Nat :=
  match last with
  | none => b2n still
  | some l => if still then t - l else t - l - 1

/-- The array of a descriptor's ring: ARRAY counts from the leader of the work item's gang (notes/assumptions/17.md). -/
def descArr (w : ItemRun) (d : Desc) : ArrId := arrId (w.leader + d.array % (if w.width = 0 then 1 else w.width))

/-- The stalls of an array's own units on its rings end, at a cut or at the tick: their clocks count in RING_PSTALL and RING_CSTALL
(R143, R162). -/
def countWaits (s : State) (a : ArrId) : State :=
  let t := nowClk s
  let u := arr s a
  if u.rings.all (fun g => g.waitP.isNone && g.waitC.isNone) then s
  else
    let clks (x : Option Nat) : Nat := match x with
      | some l => stallClks (some l) t false
      | none => 0
    let s := (List.finRange 6).foldl (fun s q =>
      regBump (regBump s (ringReg a.val q.val 0x10) (clks ((u.rings[q]).waitP.map (·.2))))
        (ringReg a.val q.val 0x18) (clks ((u.rings[q]).waitC.map (·.2.2)))) s
    setArr s a { u with rings := u.rings.map (fun g => { g with waitP := none, waitC := none }) }

/-- The ring stall counter of a descriptor's engine: RING_PSTALL for an inbound ring, RING_CSTALL for an outbound one (R143, R162). -/
def stallReg (w : ItemRun) (d : Desc) : Nat := ringReg (descArr w d).val d.ring (if d.op = 0 then 0x10 else 0x18)

/-- The ring stalls of the descriptors that `p` names end, on one engine: their clocks count (R162). -/
def countStallsOn (p : DescRun → Bool) (s : State) (f : FeId) : State :=
  let on (x : Nat × DescRun) : Bool := p x.2 && x.2.stallAt.isSome
  let u := fe s f
  let s := (u.slots.filter on).foldl (fun s x => match itemOf s x.2.item with
    | some w => regBump s (stallReg w x.2.desc) (stallClks x.2.stallAt (nowClk s) false)
    | none => s) s
  setFe s f { u with slots := u.slots.map (fun x => if on x then (x.1, { x.2 with stallAt := none }) else x) }

/-- A work item stopped with the effects of a cut (R103, R116, R156): every array of its gang, and its descriptors. -/
def cutItem (s : State) (w : ItemRun) : State :=
  let s := forFes ((gangArrays w).foldl countWaits s) (countStallsOn (fun d => d.item == w.id))
  let s := (gangArrays w).foldl (fun s a => setArr s a (cutArray (arr s a))) s
  discardDescs s false w.id

/-- The request table entry of a work item, as the fault records name it. -/
def entryOf (s : State) (i : Nat) : Entry := (lookupN i s.rqt).getD {}

/-- The owner of a work item as records name it: LD of its entry. -/
def itemLd (s : State) (w : ItemRun) : Nat := (entryOf s w.rqt).ld

/-- PWR_STATUS.STOPPED (R419). -/
def stopped (s : State) : Bool := regField s (pwrReg 0x010) 7 7 == 1

/-- A valid NaN trap record of an array copied into the fault log at a tick, and the trap armed again: VALID and OVERRUN are cleared
(R124, R128, R392). It is copied while the furrow's work items still stand, so that WORK_ITEM has the stop count. -/
def copyTrap (s : State) (a : ArrId) : State :=
  if regField s (arrReg a.val 0x148) 0 0 = 0 then s
  else
    let item := regGet s (arrReg a.val 0x150)
    let time := regGet s (arrReg a.val 0x160)
    let at_ := curFurrow s - (curFurrow s + 2 ^ 32 - bits time 63 32) % 2 ^ 32
    let stops := ((s.items.find? (fun w =>
      decide (w.rqt = bits item 63 52) && decide (w.number % 2 ^ 20 = bits item 19 0))).map (·.stops)).getD 0
    let s := logFaultIn s at_
      { cls := 0, domain := 0, source := 0x04, unit := a.val, code := 0x0008, fseq := 0, furrow := 0, clk := bits time 31 0
        ld := (entryOf s (bits item 63 52)).ld, rqt := bits item 63 52, workItem := bits item 19 0 + stops * 2 ^ 20
        layer := bits item 51 36, tile := bits item 35 20, detail := regGet s (arrReg a.val 0x158) }
    regPut s (arrReg a.val 0x148) 1 0 0

/-- A running work item stopped before its tick for a countable or uncountable reason; `halted` and the stop count tell
the tick what to do (R209, R371, R375, R376). -/
def haltItem (s : State) (w : ItemRun) (why cause : Nat) (pt : Option (Nat × Nat × Nat)) : State :=
  let w' := { w with
    halted := why, haltCause := cause, point := pt
    stops := if why = 3 then w.stops else w.stops + 1
    failStatus := if why = 1 ∧ pt.isSome ∧ pt = w.lastPoint then 0x0200 else w.failStatus }
  let s := cutItem (setItem s w') w'
  regBump s (furReg 0x030) 1

/-- Whether a schedule fault repeats the fault of the run before at the same place (R116, R209). -/
def repeats (w : ItemRun) (pt : Nat × Nat × Nat) : Bool := w.lastPoint == some pt

/-- A schedule fault (R209): counted, the work item stopped for one replay; a repeat fails the request at the tick. -/
def schedFault (s : State) (w : ItemRun) (pt : Nat × Nat × Nat) (tile detail clk unit : Nat) : State :=
  let s := regBump s (furReg 0x040) 1
  let s := haltItem s w 1 0 (some pt)
  logFault s
    { cls := if repeats w pt then 2 else 1, domain := 0, source := 0x0F, unit := unit, code := 0x0009, fseq := 0
      furrow := 0, clk := clk, ld := itemLd s w, rqt := w.rqt
      workItem := w.number % 2 ^ 20 + (w.stops + 1) * 2 ^ 20, layer := w.layer, tile := tile, detail := detail }


/-! ### Activity (R422) -/

/-- A bearer's activity raised. -/
def meterAdd (b : Bearer) (n : Nat) (xs : List (Bearer × Nat)) : List (Bearer × Nat) :=
  if xs.any (fun x => x.1 == b) then xs.map (fun x => if x.1 = b then (b, x.2 + n) else x) else xs ++ [(b, n)]

/-- Bytes moved in the memory system counted. -/
def meterMem (s : State) (b : Bearer) (n : Nat) : State :=
  { s with power := { s.power with meter := { s.power.meter with memBytes := meterAdd b n s.power.meter.memBytes } } }

/-- Bytes of Raile and CXL counted. -/
def meterSer (s : State) (b : Bearer) (n : Nat) : State :=
  { s with power := { s.power with meter := { s.power.meter with serBytes := meterAdd b n s.power.meter.serBytes } } }

/-- CXL.mem bytes of an LD's window. -/
def meterWindow (s : State) (t : LdId) (n : Nat) : State := meterSer (meterMem s (.ld t) n) (.ld t) n

/-- Raile bytes of a flow context; those of context 16 are the device's. -/
def meterCtx (s : State) (ctx n : Nat) : State := if ctx < 16 then meterSer s (.ld (ldId ctx)) n else s

/-! ### The queue -/

/-- What passes while no command waits: one TICK_REF period, counted in RQT_TIME from device reset while a reference is
present (R190, R234). -/
def idle (s : State) : State :=
  if s.pins.pwrgood && s.pins.perstN && (s.tick.tickRef || s.tick.pcieRef) then
    { s with tick := { s.tick with rqtTime := s.tick.rqtTime + 1 } }
  else s

end Sys2Proof.Machine
end

