-- ==== Sys2Proof/Machine/Cap.lean ====
section
/-! DEFINITION. The cap and its pair (13_power_thermal.md, R396, R397, R403 to R408): planning figures, reserves, choose_pair and
cap changes. -/

namespace Sys2Proof.Machine

/-- What a pair is chosen from: the owner cap, PLAN_SRC and SLUICE_LIMIT (R397, R404, R405). -/
structure CapCfg where
  owner : Nat
  src   : Nat
  limit : Nat
  deriving DecidableEq, Repr

/-- What the owner has asked for. -/
def capAsked (s : State) : CapCfg :=
  { owner := s.power.ownerW, src := regField s (pwrReg 0x008) 5 5, limit := regField s (pwrReg 0x008) 3 0 }

/-- What is in force. -/
def capInForce (s : State) : CapCfg := { owner := s.power.baseW, src := s.power.planSrc, limit := s.power.limitK }

/-- P_STATIC_W and P_DYN_W of an operating point in the table that PLAN_SRC selects (R396, R397). -/
def planFigures (s : State) (src op : Nat) : Nat × Nat :=
  let v := nthD 0 (if src = 1 then s.fuses.vtable else s.fuses.vref) op
  (rbits v 27 16, rbits v 43 32)

/-- VOLT_MV of an operating point (R396). -/
def voltOf (s : State) (op : Nat) : Nat := rbits (nthD 0 s.fuses.vtable op) 11 0

/-- The VDD_ARR setpoint moved: told to the regulator (R409, R479). -/
def setVdd (s : State) (mv : Nat) : State :=
  if s.power.vddSet = mv then s else send { s with power := { s.power with vddSet := mv } } (.regulator mv)

/-- VOLT_MV of an operating point less the trim in force, never below 660 mV (R396, R398). -/
def trimmed (s : State) (op : Nat) : Nat := Nat.max (voltOf s op - s.power.trim) (Nat.min 660 (voltOf s op))

/-- The setpoint moved to that of an operating point. -/
def setVddOp (s : State) (op : Nat) : State := setVdd { s with power := { s.power with vddOp := op } } (trimmed s op)

/-- The AVS trim taken back (R398, R458): VDD_ARR returns to the untrimmed setpoint, but for a stop. -/
def dropTrim (s : State) : State :=
  if s.power.trim = 0 then s
  else
    let s := { s with power := { s.power with trim := 0 } }
    if stopped s then s else setVddOp s s.power.vddOp

/-- L of R403: the link reserve. -/
def linkW (s : State) : Nat :=
  40 + 8 * ((List.range 16).filter (fun p => regField s (rlReg p 0x000) 0 0 == 1)).length

/-- M of R403: 20 stacks and 4 fen dies, on both parts (R3, R497). -/
def memW : Nat := 14 * 20 + 10 * 4

/-- C of R403: the compute budget of an effective cap. -/
def computeW (s : State) (cap : Nat) : Int := (cap : Int) - linkW s - memW

/-- A pair with its score and eight times its power (R404). -/
structure PairScore where
  op : Nat
  k  : Nat
  score : Nat
  p8 : Nat
  deriving DecidableEq, Repr

/-- Whether a candidate beats the best pair so far (R404). -/
def betterPair (best : Option PairScore) (c : PairScore) : Bool :=
  match best with
  | none => true
  | some b => decide (b.score < c.score) || (b.score == c.score && decide (c.p8 < b.p8))

/-- The pairs that choose_pair tries, in its order: an operating point from 0 and a sluice from 1 to SLUICE_LIMIT (R404, R405);
only OP5 while a die sensor reads 105 °C (R417). -/
def pairList (s : State) (limit : Nat) : List (Nat × Nat) :=
  ((List.range 6).filter (fun op => !s.power.thermOp5 || op == 5)).flatMap (fun op => (List.range limit).map (fun k => (op, k + 1)))

/-- choose_pair of R404 for an effective cap: operating point, sluice, effective cap, and whether the floor raised it. -/
def choosePair (s : State) (q : CapCfg) (cap : Nat) : Nat × Nat × Nat × Bool :=
  let c8 := 8 * computeW s cap
  let best := (pairList s q.limit).foldl (fun (best : Option PairScore) x =>
    let f := planFigures s q.src x.1
    let c : PairScore := { op := x.1, k := x.2, score := opMhz x.1 * x.2, p8 := 8 * f.1 + x.2 * f.2 }
    if decide ((c.p8 : Int) ≤ c8) && betterPair best c then some c else best) none
  match best with
  | some b => (b.op, b.k, cap, false)
  | none =>
    let f := planFigures s q.src 5
    (5, 1, cdiv (8 * (linkW s + memW) + 8 * f.1 + f.2) 8, true)

/-- A cap within 500 to 1,600 W (R403). -/
def clampCap (w : Nat) : Nat := Nat.min 1600 (Nat.max 500 w)

/-- Watts lent and borrowed in a window by the grants that are held for it (R337). -/
def creditsFor (s : State) (window : Nat) : Nat × Nat :=
  let gs := s.grants.filter (fun g => g.window == window)
  (sumN (gs.map (·.lent)), sumN (gs.map (·.borrowed)))

/-- The effective cap of an owner cap in a window, before choose_pair (R337, R403). -/
def cappedAt (s : State) (owner window : Nat) : Nat :=
  let c := creditsFor s window
  clampCap (owner + c.2 - c.1)

/-- CAP_FLOOR set where choose_pair took the floor (R404). -/
def floorFlag (s : State) (floor : Bool) : State := if floor then regFlag s (pwrReg 0x010) 0 else s

/-- Whether a change that arrives now applies at the headland after the coming one: it came in the last furrow of a window
(R224). -/
def lateChange (s : State) : Bool := s.tick.started && s.tick.inWindow == s.tick.windowM1

/-- The same for what the device itself brings about: a commit in the clock of the tick of the window's last furrow is late too (R224). -/
def lateNow (s : State) : Bool :=
  lateChange s || (s.tick.started && s.tick.atTick && s.tick.inWindow + 1 == s.tick.windowM1)

/-- The pending pair of what the owner has asked for, with the credits of the window that it begins, shown (R406). -/
def pendPair (s : State) (late : Bool) : State :=
  let window := s.tick.window + (if late then 2 else 1)
  let c := choosePair s (capAsked s) (cappedAt s s.power.ownerW window)
  let s := floorFlag s c.2.2.2
  { s with power := { s.power with pend := some { op := c.1, k := c.2.1, effW := c.2.2.1, late := late } } }

/-- A cap change without IMMEDIATE (R406). A later change replaces it; one that arrives during a stop waits for the first headland after
the restart only (R408). -/
def capChange (s : State) : State := pendPair s (lateChange s && regField s (pwrReg 0x010) 7 7 == 0)

/-- A cap change with IMMEDIATE (R407): it replaces any pending change, its cap is in force at once for the cap loop, and its
pair waits for the first tick that permits a frequency change. -/
def capNow (s : State) : State :=
  let q := capAsked s
  let c := choosePair s q (cappedAt s q.owner s.tick.window)
  let s := floorFlag s c.2.2.2
  { s with power := { s.power with
      baseW := q.owner
      planSrc := q.src
      limitK := q.limit
      effW := c.2.2.1
      pend := none
      imm := some { op := c.1, k := c.2.1, cause := 2, lowers := decide (c.2.2.1 < s.power.effW) } } }

/-- OP5 applied as under R407 (R417): the cap in force and a pending change stay, the pending pair chosen anew. -/
def capThermal (s : State) : State :=
  let c := choosePair s (capInForce s) (cappedAt s s.power.baseW s.tick.window)
  let s := floorFlag s c.2.2.2
  let s := match s.power.pend with
    | some q => pendPair s q.late
    | none => s
  { s with power := { s.power with effW := c.2.2.1, imm := some { op := c.1, k := c.2.1, cause := 4, lowers := true } } }

/-- Number of the furrow that the coming tick starts (R192, R195, R196). -/
def comingFurrow (s : State) : Nat := s.tick.nextNum.getD (if s.tick.started then s.tick.furrow + 1 else 0)

/-- The pair against which furrow `g` is booked (R406, R407, R409, R215): before the coming headland the lesser of the pairs in
force and pending, and from it on the pending pair, with the operating point in force where it would raise. `b` gives B of an
operating point. -/
def pairAt (s : State) (b : Nat → Nat) (g : Nat) : Nat × Nat :=
  let lesser (x y : Nat × Nat) : Nat × Nat :=
    if b y.1 * y.2 < b x.1 * x.2 then y else if b y.1 * y.2 = b x.1 * x.2 ∧ y.2 < x.2 then y else x
  let cur : Nat × Nat := match s.power.imm with
    | some x => if s.power.wop ≤ x.op then lesser (s.power.wop, s.power.wsluice) (x.op, x.k) else (s.power.wop, s.power.wsluice)
    | none => (s.power.wop, s.power.wsluice)
  match s.power.pend with
  | none => cur
  | some q =>
    let next := if s.tick.headDone then comingFurrow s else s.tick.furrow + (s.tick.windowM1 + 1 - s.tick.inWindow)
    let head := next + (if q.late then s.tick.windowM1 + 1 else 0)
    if g < head then lesser cur (q.op, q.k) else (Nat.max s.power.wop q.op, q.k)

end Sys2Proof.Machine
end

