-- ==== Sys2Proof/Machine/Float.lean ====
section
/-! DEFINITION. Number formats (02_number_formats.md): codes of R43, layouts R45 to R50, packing R51, the FP20 rounding
R52, products and sums R53, conversions R54 to R59, block scales R60 to R65, maximum and minimum R66, and the
multi-pass split R67. Values are exact dyadic numbers; every rounding the spec names is one function here. -/

namespace Sys2Proof.Machine

/-- A value as arithmetic sees it: NaN, an infinity, or sign and magnitude m times two to the e; zeros keep a sign. -/
inductive Num where
  | nan
  | inf (neg : Bool)
  | fin (neg : Bool) (m : Nat) (e : Int)
  deriving DecidableEq, Repr

/-- Counted events (R58), and NaNs that arose (R122). -/
structure Ev where
  ovf : Nat := 0
  nanLost : Nat := 0
  intSat : Nat := 0
  scaleOvf : Nat := 0
  scaleUfl : Nat := 0
  nan : Nat := 0
  deriving DecidableEq, Repr

/-- Events added. -/
def evAdd (a b : Ev) : Ev :=
  { ovf := a.ovf + b.ovf, nanLost := a.nanLost + b.nanLost, intSat := a.intSat + b.intSat
    scaleOvf := a.scaleOvf + b.scaleOvf, scaleUfl := a.scaleUfl + b.scaleUfl, nan := a.nan + b.nan }

/-- The sticky bits of a work item for some events (R58, R124): OVF bit 0, NAN_LOST 1, INT_SAT 2, SCALE_OVF 3,
SCALE_UFL 4, NAN 5. -/
def evSticky (e : Ev) : Nat :=
  b2n (e.ovf != 0) + 2 * b2n (e.nanLost != 0) + 4 * b2n (e.intSat != 0) + 8 * b2n (e.scaleOvf != 0)
    + 16 * b2n (e.scaleUfl != 0) + 32 * b2n (e.nan != 0)

/-- Position of the leading one plus one; 0 for 0. -/
def bitLen (n : Nat) : Nat := if n = 0 then 0 else Nat.log2 n + 1

/-- `m` divided by two to the `sh`, to nearest, ties to even. -/
def rneShift (m sh : Nat) : Nat :=
  if sh = 0 then m
  else
    let q := m / 2 ^ sh
    let r := m % 2 ^ sh
    let half := 2 ^ (sh - 1)
    if r > half then q + 1 else if r = half then q + q % 2 else q

/-- The multiple count of two to the `q` nearest to m times two to the e, ties to even. -/
def roundAt (m : Nat) (e q : Int) : Nat :=
  if q ≤ e then m * 2 ^ (e - q).toNat else rneShift m (q - e).toNat

/-- Rounding to `p` significant bits with no unit below two to the `qmin`: count and unit exponent. -/
def roundSig (p : Nat) (qmin : Option Int) (m : Nat) (e : Int) : Nat × Int :=
  let q0 := e + (bitLen m : Int) - (p : Int)
  let q := match qmin with
    | none => q0
    | some l => if q0 < l then l else q0
  (roundAt m e q, q)

/-- Whether m times two to the e is at least two to the k. -/
def geePow (m : Nat) (e k : Int) : Bool := m != 0 && decide (e + (bitLen m : Int) - 1 ≥ k)

/-- A floating-point layout of R45: exponent bits, fraction bits, bias, infinities, and its NaN kind (0 none, 1 the
exponent all ones with a fraction, 2 all ones only). -/
structure FFmt where
  eb : Nat
  mb : Nat
  bias : Nat
  hasInf : Bool
  nanKind : Nat
  maxFin : Nat                      -- encoding of the largest finite magnitude
  cnan : Nat                        -- canonical NaN (R48)
  deriving DecidableEq, Repr

/-- FP32. -/
def ffFp32 : FFmt := ⟨8, 23, 127, true, 1, 0x7F7FFFFF, 0x7FC00000⟩
/-- BF16. -/
def ffBf16 : FFmt := ⟨8, 7, 127, true, 1, 0x7F7F, 0x7FC0⟩
/-- FP16. -/
def ffFp16 : FFmt := ⟨5, 10, 15, true, 1, 0x7BFF, 0x7E00⟩
/-- E4M3. -/
def ffE4m3 : FFmt := ⟨4, 3, 7, false, 2, 0x7E, 0x7F⟩
/-- E5M2. -/
def ffE5m2 : FFmt := ⟨5, 2, 15, true, 1, 0x7B, 0x7E⟩
/-- E3M2. -/
def ffE3m2 : FFmt := ⟨3, 2, 3, false, 0, 0x1F, 0⟩
/-- E2M3. -/
def ffE2m3 : FFmt := ⟨2, 3, 1, false, 0, 0x1F, 0⟩
/-- E2M1. -/
def ffE2m1 : FFmt := ⟨2, 1, 1, false, 0, 0x7, 0⟩

/-- The layout of a format code that is a signed float kept in its own width (R43, R45); FP20 stands in an FP32
container (R49). -/
def ffOf (code : Nat) : Option FFmt :=
  match code with
  | 0x1 => some ffFp32
  | 0x2 => some ffBf16
  | 0x3 => some ffFp16
  | 0x4 => some ffFp32
  | 0x5 => some ffE4m3
  | 0x6 => some ffE5m2
  | 0x7 => some ffE3m2
  | 0x8 => some ffE2m3
  | 0x9 => some ffE2m1
  | _ => none

/-- Width of an element in memory, in bits (R43). -/
def fmtBits (code : Nat) : Nat :=
  match code with
  | 0x1 => 32 | 0x2 => 16 | 0x3 => 16 | 0x4 => 32 | 0x5 => 8 | 0x6 => 8 | 0x7 => 6 | 0x8 => 6
  | 0x9 => 4 | 0xA => 32 | 0xB => 8 | 0xC => 4 | 0xD => 8 | 0xE => 8 | 0xF => 16 | _ => 0

/-- Integer formats (R50). -/
def isInt (code : Nat) : Bool := code == 0xA || code == 0xB || code == 0xC || code == 0xF

/-- Value of an encoding of a layout (R46). -/
def decodeFF (f : FFmt) (v : Nat) : Num :=
  let neg := bitAt v (f.eb + f.mb)
  let ex := bits v (f.eb + f.mb - 1) f.mb
  let fr := v % 2 ^ f.mb
  let ones := 2 ^ f.eb - 1
  if ex = ones ∧ f.nanKind = 1 then (if fr = 0 then .inf neg else .nan)
  else if f.nanKind = 2 ∧ ex = ones ∧ fr = 2 ^ f.mb - 1 then .nan
  else if ex = 0 then .fin neg fr (1 - (f.bias : Int) - f.mb)
  else .fin neg (2 ^ f.mb + fr) ((ex : Int) - f.bias - f.mb)

/-- Value of a UE4M3 byte (R47): bit 7 is ignored. -/
def decodeUe4m3 (v : Nat) : Num :=
  match decodeFF ffE4m3 (v % 128) with
  | .nan => .nan
  | .inf _ => .inf false
  | .fin _ m e => .fin false m e

/-- Value of a UE8M0 byte (R46). -/
def decodeUe8m0 (v : Nat) : Num := if v % 256 = 0xFF then .nan else .fin false 1 ((v % 256 : Nat) - 127)

/-- Value of an integer. -/
def numOfInt (i : Int) : Num := .fin (decide (i < 0)) i.natAbs 0

/-- Value of an element of any format code (R46 to R50); code 0 has no values and reads 0. -/
def decodeNum (code v : Nat) : Num :=
  match code with
  | 0xA => numOfInt (sx 32 v)
  | 0xB => numOfInt (sx 8 v)
  | 0xC => numOfInt (sx 4 v)
  | 0xF => numOfInt (sx 16 v)
  | 0xD => decodeUe4m3 v
  | 0xE => decodeUe8m0 v
  | 0x4 =>
    match decodeFF ffFp32 v with
    | .fin neg m e => if bits v 30 23 = 0 then .fin neg 0 0 else .fin neg m e
    | n => n
  | c => match ffOf c with
    | some f => decodeFF f v
    | none => .fin false 0 0

/-- The sign bit of a layout. -/
def signBit (f : FFmt) (neg : Bool) : Nat := if neg then 2 ^ (f.eb + f.mb) else 0

/-- The encoding of an infinity of a layout that has them. -/
def infCode (f : FFmt) : Nat := (2 ^ f.eb - 1) * 2 ^ f.mb

/-- The magnitude encoding of a rounded count and unit; none where it exceeds the largest finite value. -/
def encodeMag (f : FFmt) (n : Nat) (q : Int) : Option Nat :=
  let l := bitLen n
  let top := q + (l : Int) - 1                     -- floor of log2 of the magnitude
  let emin := 1 - (f.bias : Int)
  if n = 0 then some 0
  else
    let code :=
      if top < emin then n * 2 ^ (q - (emin - f.mb)).toNat
      else
        let fr := roundAt n q (top - f.mb) - 2 ^ f.mb
        (top + f.bias).toNat * 2 ^ f.mb + fr
    if code ≤ f.maxFin then some code else none

/-- Conversion to a floating-point layout (R54, R55). -/
def convFF (f : FFmt) (sat : Bool) (x : Num) : Nat × Ev :=
  match x with
  | .nan =>
    if f.nanKind = 0 then (0, { nanLost := 1 }) else (f.cnan, {})
  | .inf neg =>
    if f.hasInf then (signBit f neg + infCode f, {})
    else if f.nanKind = 2 ∧ ¬ sat then (f.cnan, {})
    else (signBit f neg + f.maxFin, {})
  | .fin neg m e =>
    if m = 0 then (signBit f neg, {})
    else
      let r := roundSig (f.mb + 1) (some (1 - (f.bias : Int) - f.mb)) m e
      match encodeMag f r.1 r.2 with
      | some c => (signBit f neg + c, {})
      | none =>
        let big :=
          if f.nanKind = 0 ∨ sat then signBit f neg + f.maxFin
          else if f.hasInf then signBit f neg + infCode f
          else f.cnan
        (big, { ovf := 1 })

/-- Rounding to FP20 (R52), as a value. -/
def fp20 (x : Num) : Num :=
  match x with
  | .nan => .nan
  | .inf neg => .inf neg
  | .fin neg m e =>
    if m = 0 then .fin neg 0 0
    else
      let r := roundSig 12 none m e
      if geePow r.1 r.2 128 then .inf neg
      else if geePow r.1 r.2 (-126) then .fin neg r.1 r.2
      else .fin neg 0 0

/-- The FP32 encoding nearest to a value, ties to even, subnormals kept (R54, R65). There is no SAT for FP32. -/
def fp32Enc (x : Num) : Lane32 := BitVec.ofNat 32 (convFF ffFp32 false x).1

/-- Value of an FP32 lane. -/
def fp32Val (v : Lane32) : Num := decodeFF ffFp32 v.toNat

/-- The FP20 encoding of a value in its FP32 container (R49). -/
def fp20Enc (x : Num) : Lane32 := fp32Enc (fp20 x)

/-- Exact product (R53); the sign of a product is the exclusive or of the signs, also for zeros. -/
def numMul (a b : Num) : Num :=
  match a, b with
  | .nan, _ => .nan
  | _, .nan => .nan
  | .inf s, .inf t => .inf (xor s t)
  | .inf s, .fin t m _ => if m = 0 then .nan else .inf (xor s t)
  | .fin s m _, .inf t => if m = 0 then .nan else .inf (xor s t)
  | .fin s m e, .fin t n f => .fin (xor s t) (m * n) (e + f)

/-- A finite value as an integer count of two to the `q`, for `q` not above its exponent. -/
def scaledInt (neg : Bool) (m : Nat) (e q : Int) : Int :=
  let v : Int := (m * 2 ^ (e - q).toNat : Nat)
  if neg then -v else v

/-- Exact sum (R53). -/
def numAdd (a b : Num) : Num :=
  match a, b with
  | .nan, _ => .nan
  | _, .nan => .nan
  | .inf s, .inf t => if s = t then .inf s else .nan
  | .inf s, .fin _ _ _ => .inf s
  | .fin _ _ _, .inf t => .inf t
  | .fin s m e, .fin t n f =>
    if m = 0 ∧ n = 0 then .fin (s && t) 0 0
    else if m = 0 then .fin t n f
    else if n = 0 then .fin s m e
    else
      let q := if e ≤ f then e else f
      let v := scaledInt s m e q + scaledInt t n f q
      if v = 0 then .fin false 0 0 else .fin (decide (v < 0)) v.natAbs q

/-- Negation of the sign bit; NaN stays NaN. -/
def numNeg (a : Num) : Num :=
  match a with
  | .nan => .nan
  | .inf s => .inf (!s)
  | .fin s m e => .fin (!s) m e

/-- Whether a value is NaN. -/
def isNan (a : Num) : Bool := match a with
  | .nan => true
  | _ => false

/-- Whether a value is a zero. -/
def isZero (a : Num) : Bool := match a with
  | .fin _ m _ => m == 0
  | _ => false

/-- Whether a value is an infinity. -/
def isInfN (a : Num) : Bool := match a with
  | .inf _ => true
  | _ => false

/-- The sign of a value; NaN has sign 0 (R48). -/
def numNegB (a : Num) : Bool := match a with
  | .nan => false
  | .inf s => s
  | .fin s _ _ => s

/-- Order of two values that are not NaN, zeros equal. -/
def numCmp (a b : Num) : Ordering :=
  match a, b with
  | .inf s, .inf t => if s = t then .eq else if s then .lt else .gt
  | .inf s, _ => if s then .lt else .gt
  | _, .inf t => if t then .gt else .lt
  | .fin s m e, .fin t n f =>
    let q := if e ≤ f then e else f
    compare (scaledInt s m e q) (scaledInt t n f q)
  | _, _ => .eq

/-- IEEE binary32 product (R65). -/
def fmul (a b : Lane32) : Lane32 := fp32Enc (numMul (fp32Val a) (fp32Val b))

/-- IEEE binary32 sum. -/
def fadd (a b : Lane32) : Lane32 := fp32Enc (numAdd (fp32Val a) (fp32Val b))

/-- IEEE binary32 difference. -/
def fsub (a b : Lane32) : Lane32 := fp32Enc (numAdd (fp32Val a) (numNeg (fp32Val b)))

/-- IEEE binary32 fused multiply-add with one rounding. -/
def ffma (a b c : Lane32) : Lane32 :=
  fp32Enc (numAdd (numMul (fp32Val a) (fp32Val b)) (fp32Val c))

/-- The canonical NaN of FP32 (R48). -/
def nan32 : Lane32 := 0x7FC00000#32

/-- The end of an integer range. -/
def intMax (w : Nat) : Int := 2 ^ (w - 1) - 1

/-- The low end of an integer range. -/
def intMin (w : Nat) : Int := - 2 ^ (w - 1)

/-- Clamp to a range of `w` bits, with whether it changed the value. -/
def clampInt (w : Nat) (i : Int) : Int × Bool :=
  if i > intMax w then (intMax w, true) else if i < intMin w then (intMin w, true) else (i, false)

/-- The two's-complement encoding of an integer in `w` bits. -/
def intEnc (w : Nat) (i : Int) : Nat := (BitVec.ofInt w i).toNat

/-- Conversion to an integer format of `w` bits (R56). -/
def convInt (w : Nat) (x : Num) : Nat × Ev :=
  match x with
  | .nan => (0, { nanLost := 1 })
  | .inf neg => (intEnc w (if neg then intMin w else intMax w), { intSat := 1 })
  | .fin neg m e =>
    let n : Int := (roundAt m e 0 : Nat)
    let i := if neg then -n else n
    let c := clampInt w i
    (intEnc w c.1, if c.2 then { intSat := 1 } else {})

/-- Conversion to UE8M0 (R59). -/
def convUe8m0 (x : Num) : Nat :=
  match x with
  | .nan => 0xFF
  | .inf _ => 0xFE
  | .fin _ m e =>
    if m = 0 then 0
    else
      let k := 127 + (e + (bitLen m : Int) - 1)
      if k < 0 then 0 else if k > 254 then 254 else k.toNat

/-- Conversion to UE4M3 (R59): the magnitude, always saturating at 448. -/
def convUe4m3 (x : Num) : Nat × Ev :=
  match x with
  | .nan => (0x7F, {})
  | .inf _ => (0x7E, {})
  | .fin _ m e => convFF ffE4m3 true (.fin false m e)

/-- Conversion of a value to an element of any format code, with its events (R54 to R59). -/
def convTo (code : Nat) (sat : Bool) (x : Num) : Nat × Ev :=
  match code with
  | 0x4 =>
    let y := fp20 x
    let o := match x, y with
      | .fin _ _ _, .inf _ => 1
      | _, _ => 0
    ((fp32Enc y).toNat, { ovf := o })
  | 0xA => convInt 32 x
  | 0xB => convInt 8 x
  | 0xC => convInt 4 x
  | 0xF => convInt 16 x
  | 0xD => convUe4m3 x
  | 0xE => (convUe8m0 x, {})
  | c => match ffOf c with
    | some f => convFF f sat x
    | none => (0, {})

/-- The scaled block sum (R63): `S` an FP20 value, the scales' values; an absent scale is 1. -/
def scaleBlock (S sa sb : Num) : Num × Ev :=
  if isNan sa || isNan sb || isNan S then (.nan, {})
  else match S with
    | .nan => (.nan, {})
    | .inf neg => if isZero sa || isZero sb then (.nan, {}) else (.inf neg, {})
    | .fin neg m e =>
      if m = 0 || isZero sa || isZero sb then (.fin neg 0 0, {})
      else match numMul (numMul (.fin neg m e) sa) sb with
        | .fin _ n f =>
          let r := roundSig 12 none n f
          if geePow r.1 r.2 128 then (.inf neg, { scaleOvf := 1 })
          else if geePow r.1 r.2 (-126) then (.fin neg r.1 r.2, {})
          else (.fin neg 0 0, { scaleUfl := 1 })
        | y => (y, {})

/-- The value of a scale of a scale-format code; 0 is an absent scale, 1 (R62, R63). -/
def decodeScale (code v : Nat) : Num := if code = 0 then .fin false 1 0 else decodeNum code v

/-- MAX and MIN (R66): NaN propagates. -/
def numMax (a b : Num) : Num :=
  if isNan a || isNan b then .nan
  else match numCmp a b with
    | .lt => b
    | .gt => a
    | .eq => if numNegB a then b else a

/-- MIN (R66). -/
def numMin (a b : Num) : Num :=
  if isNan a || isNan b then .nan
  else match numCmp a b with
    | .lt => a
    | .gt => b
    | .eq => if numNegB a then a else b

/-- MAXNUM (R66): a number wins over NaN. -/
def numMaxNum (a b : Num) : Num :=
  if isNan a then b else if isNan b then a else numMax a b

/-- MINNUM (R66). -/
def numMinNum (a b : Num) : Num :=
  if isNan a then b else if isNan b then a else numMin a b

/-- The multi-pass split (R67) of an FP32 value into BF16 parts, as BF16 codes. -/
def splitHi (v : Nat) : Nat :=
  match decodeFF ffFp32 v with
  | .nan => 0x7FC0
  | .inf neg => signBit ffBf16 neg + infCode ffBf16
  | .fin neg m e =>
    let h := (convFF ffBf16 false (.fin neg m e)).1
    if h % 2 ^ 15 = infCode ffBf16 then signBit ffBf16 neg + 0x7F7F else h

/-- The low part of the split (R67). -/
def splitLo (v : Nat) : Nat :=
  match decodeFF ffFp32 v with
  | .nan => 0
  | .inf _ => 0
  | x => (convFF ffBf16 false (numAdd x (numNeg (decodeFF ffBf16 (splitHi v))))).1

/-- Element `i` of a packed run of elements of a format code (R51), from its bytes. -/
def elemAt (code : Nat) (bs : List Byte) (i : Nat) : Nat :=
  match fmtBits code with
  | 4 => bits (fld bs (i / 2) 1) (4 * (i % 2) + 3) (4 * (i % 2))
  | 6 => bits (fld bs (3 * (i / 4)) 3) (6 * (i % 4) + 5) (6 * (i % 4))
  | 8 => fld bs i 1
  | 16 => fld bs (2 * i) 2
  | 32 => fld bs (4 * i) 4
  | _ => 0

/-- Bytes that `n` packed elements take (R51). -/
def packedBytes (code n : Nat) : Nat := cdiv (n * fmtBits code) 8

/-- Elements as one number, element 0 in the low bits. -/
def packNat (w : Nat) : List Nat → Nat
  | [] => 0
  | x :: r => x % 2 ^ w + 2 ^ w * packNat w r

/-- A run of elements packed into bytes (R51). -/
def packElems (code : Nat) (xs : List Nat) : List Byte :=
  toLE (packedBytes code xs.length) (packNat (fmtBits code) xs)

end Sys2Proof.Machine
end

