-- ==== Sys2Proof/Machine/Spad.lean ====
section
/-! DEFINITION. The scratchpad (05_scratchpad_fetch.md): software space and banks (R129), bank power (R138 to R140), the
preamble (R141), rings (R142 to R145), the slot checker (R207, R208), and the commands PREAMBLE_END, BANK_POWER_DOWN,
BANK_WAKE_DONE, LATE_WAKE, ACQUIRE, PUBLISH, WAIT and RELEASE. -/

namespace Sys2Proof.Machine

/-- Bytes of the software space (R129). -/
def swBytes (u : ArrayUnit) : Nat := u.swBanks * 65536

/-- Bank of a software address (R129). -/
def bankOf (u : ArrayUnit) (a : Nat) : Fin 32 := Fin.ofNat 32 ((a / 64) % u.swBanks)

/-- Byte of its bank that a software address names: row times 64, and the byte of the row (R129). -/
def bankByte (u : ArrayUnit) (a : Nat) : Nat := a / (64 * u.swBanks) * 64 + a % 64

/-- The software address of a byte of a software bank (R129). -/
def bankAddr (u : ArrayUnit) (k o : Nat) : Nat := (o / 64 * u.swBanks + k) * 64 + o % 64

/-- Bytes of the software space; a byte nothing has written since the work item started reads 0. -/
def spadReads (u : ArrayUnit) (a n : Nat) : List Byte := cellReads u.spad a n

/-- A little-endian number in the software space. -/
def spadNum (u : ArrayUnit) (a n : Nat) : Nat := ofLE (spadReads u a n)

/-- One byte written: performed in an ON bank, kept pending while the bank wakes, and waking a bank in SLEEP first,
which is one late wake (R138, R140). A bank that is OFF belongs to a fallow array and takes nothing. -/
def spadPutByte (r : ArrayUnit × Nat) (a : Nat) (b : Byte) : ArrayUnit × Nat :=
  let u := r.1
  let k := bankOf u a
  let bank := u.banks[k]
  match bank.power with
  | .on => ({ u with spad := cellWrite a b u.spad }, r.2)
  | .waking => ({ u with banks := u.banks.set k { bank with pending := bank.pending ++ [(bankByte u a, b)] } }, r.2)
  | .sleep =>
    ({ u with banks := u.banks.set k { bank with power := .waking, pending := bank.pending ++ [(bankByte u a, b)] } }, r.2 + 1)
  | .off => (u, r.2)

/-- Bytes written from a software address up, with the late wakes they caused. -/
def spadPut : (r : ArrayUnit × Nat) → (a : Nat) → List Byte → ArrayUnit × Nat
  | r, _, [] => r
  | r, a, b :: bs => spadPut (spadPutByte r a b) (a + 1) bs

/-- A write of the array's own units into its scratchpad, late wakes counted in SP_LATE_WAKE (R140). -/
def spadStore (s : State) (a : ArrId) (addr : Nat) (bs : List Byte) : State :=
  let r := spadPut (arr s a, 0) addr bs
  disarm (regBump (setArr s a r.1) (spReg a.val 0x10) r.2) 2 a.val

/-! ### The slot checker -/

/-- Units as the checker names them: 0 feeders, 1 held load port, 2 output stage, 3 vector engine, 4 outbound rings (the
UNIT codes of SLOT_FAULT, R228), 5 inbound rings. -/
def slotProducer (p : Nat) : Nat := if p = 0 then 2 else 3
/-- The consumer code of R207 as a checker unit. -/
def slotConsumer (c : Nat) : Nat := if c = 0 then 0 else if c = 1 then 1 else if c = 2 then 3 else 4

/-- What the checker finds of one access to one slot: the kind of a fault, or the slot after the access (R208). -/
def slotTouch (e : SlotRun) (unit : Nat) (wr : Bool) (n : Nat) : Except Nat SlotRun :=
  let filling := e.fillEp == e.drainEp
  if wr then
    if unit = slotProducer e.producer then
      if !filling then .error 1
      else
        let w := e.written + n
        if e.size ≤ w then .ok { e with fillEp := (e.fillEp + 1) % 256, written := 0, readB := 0 }
        else .ok { e with written := w }
    else if unit = slotConsumer e.consumer then .ok e
    else .error 2
  else if unit = slotConsumer e.consumer then
    if filling then .error 0
    else
      let r := e.readB + n
      if e.size * e.reads ≤ r then .ok { e with drainEp := (e.drainEp + 1) % 256, written := 0, readB := 0 }
      else .ok { e with readB := r }
  else if filling ∧ unit ≠ slotProducer e.producer then .error 2
  else .ok e

/-- Bytes that two ranges share. -/
def overlap (a n b m : Nat) : Nat := Nat.min (a + n) (b + m) - Nat.max a b

/-- A slot fault: slot index, kind, and the slot's epochs; `point` is where it lies when no slot is concerned (an RSTAT entry, a mask
word), so that a replay that faults there again is seen to (R208, R209). -/
structure SlotHit where
  slot : Nat
  kind : Nat
  fill : Nat
  drain : Nat
  point : Option (Nat × Nat) := none
  deriving DecidableEq, Repr

/-- The checker over all slots of the work item, in index order: the first fault, or the slots after the access. -/
def slotScan (unit : Nat) (wr : Bool) (a n : Nat) : (i : Nat) → List SlotRun → Except SlotHit (List SlotRun)
  | _, [] => .ok []
  | i, e :: r =>
    let k := overlap a n e.base e.size
    if k = 0 then
      match slotScan unit wr a n (i + 1) r with
      | .ok r' => .ok (e :: r')
      | .error h => .error h
    else match slotTouch e unit wr k with
      | .error kind => .error { slot := i, kind := kind, fill := e.fillEp, drain := e.drainEp }
      | .ok e' =>
        match slotScan unit wr a n (i + 1) r with
        | .ok r' => .ok (e' :: r')
        | .error h => .error h

/-- One access checked on an array. -/
def slotCheck (u : ArrayUnit) (unit : Nat) (wr : Bool) (a n : Nat) : Except SlotHit ArrayUnit :=
  match slotScan unit wr a n 0 u.slots with
  | .ok sl => .ok { u with slots := sl }
  | .error h => .error h

/-- Several accesses checked in order. -/
def slotChecks (unit : Nat) (wr : Bool) : (u : ArrayUnit) → List (Nat × Nat) → Except SlotHit ArrayUnit
  | u, [] => .ok u
  | u, (a, n) :: r => match slotCheck u unit wr a n with
    | .ok u' => slotChecks unit wr u' r
    | .error h => .error h

/-- A slot fault on an array: SLOT_FAULT and SLOT_FAULT_WHERE take the first since VALID was clear, and the work item
stops as a schedule fault whose point is the slot and its fill epoch (R208, R209, R228). -/
def slotFault (s : State) (a : ArrId) (h : SlotHit) (unit clk tile : Nat) : State :=
  match arrItem s a with
  | none => s
  | some w =>
    let pt := match h.point with
      | some p => (10 + h.kind, p.1, p.2)
      | none => (10 + h.kind, h.slot, h.fill)
    let v := a.val * 2 ^ 58 + (h.slot % 64) * 2 ^ 52 + h.fill * 2 ^ 44 + h.drain * 2 ^ 36 + h.kind * 2 ^ 34
      + unit * 2 ^ 31 + b2n (repeats w pt) * 2 + 1
    let s := if regField s (furReg 0x060) 0 0 = 1 then s
      else regSet (regSet s (furReg 0x060) v) (furReg 0x068)
        ((w.rqt % 4096) * 2 ^ 52 + (w.number % 2 ^ 20) * 2 ^ 32 + clk % 2 ^ 32)
    schedFault s w pt tile v clk a.val

/-! ### Rings -/

/-- Positions that the producer has filled: those published, and those whose last writes are still pending (R143). -/
def ringTop (r : Ring) : Nat := r.tail + r.filledUp

/-- Whether a ring is full (R143). -/
def ringFull (r : Ring) : Bool := decide (r.slots ≤ ringTop r - r.head)

/-- Software address of a position's slot (R143). -/
def ringSlotAddr (r : Ring) (p : Nat) : Nat := r.base + (p % (if r.slots = 0 then 1 else r.slots)) * r.slotSize

/-- The ranges of the software space that the next `n` bytes of a ring lie in, from a position with `filled` bytes passed:
one range per slot (R143). -/
def piecesFrom (r : Ring) : (fuel p filled n : Nat) → List (Nat × Nat)
  | 0, _, _, _ => []
  | fuel + 1, p, filled, n =>
    let m := Nat.min n (r.slotSize - filled)
    (ringSlotAddr r p + filled, m) :: (if n ≤ m then [] else piecesFrom r fuel (p + 1) 0 (n - m))

/-- The same for any count of bytes. -/
def ringPieces (r : Ring) (p filled n : Nat) : List (Nat × Nat) := piecesFrom r (n + 1) p filled n

/-- Bytes that an inbound ring can still take. -/
def ringRoom (r : Ring) : Nat := (r.slots - (ringTop r - r.head)) * r.slotSize - r.filled

/-- A ring of an array replaced. -/
def setRing (u : ArrayUnit) (q : Fin 6) (r : Ring) : ArrayUnit := { u with rings := u.rings.set q r }

/-- Bytes that wait at the port for one ring (R141). -/
def portWaiting (u : ArrayUnit) (q : Nat) : Nat :=
  sumN ((u.portq.filter (fun p => p.1 == q)).map (fun p => p.2.length))

/-- Whether a write into a range of the software space is accepted and not yet performed (R139). -/
def writePending (u : ArrayUnit) (a n : Nat) : Bool :=
  (List.finRange 32).any (fun k => (u.banks[k]).pending.any (fun p =>
    decide (k.val < u.swBanks) && decide (a ≤ bankAddr u k.val p.1) && decide (bankAddr u k.val p.1 < a + n)))

/-- Filled positions published in order, as far as their last writes are performed (R143), at most `fuel` of them. -/
def publishRing (u : ArrayUnit) : (fuel : Nat) → Ring → Ring
  | 0, g => g
  | fuel + 1, g =>
    if g.filledUp = 0 ∨ writePending u (ringSlotAddr g g.tail) g.slotSize then g
    else publishRing u fuel { g with tail := g.tail + 1, filledUp := g.filledUp - 1 }

/-- The position that a producer fills is full: it is published as soon as its writes are performed (R143). What an engine has taken
out of the head slot of an outbound ring stays taken. -/
def ringFilled (u : ArrayUnit) (q : Fin 6) : ArrayUnit :=
  let g := u.rings[q]
  let g := { g with filledUp := g.filledUp + 1, filled := if q.val < 4 then 0 else g.filled, claimed := false }
  setRing u q (publishRing u g.filledUp g)

/-- Every ring of an array published as far as its writes are performed. -/
def publishAll (u : ArrayUnit) : ArrayUnit := { u with rings := u.rings.map (fun g => publishRing u g.filledUp g) }

/-- Bytes delivered to an inbound ring, one after the other: each goes to the slot of the position being filled, and a slot that
has its last byte is published once the byte is written (R143, R147). -/
def ringFeed : (r : ArrayUnit × Nat) → (q : Fin 6) → List Byte → ArrayUnit × Nat
  | r, _, [] => r
  | (u, n), q, b :: bs =>
    let g := u.rings[q]
    let x := spadPutByte (u, n) (ringSlotAddr g (ringTop g) + g.filled) b
    let f := g.filled + 1
    let v := if f = g.slotSize then ringFilled x.1 q else setRing x.1 q { g with filled := f, claimed := true }
    ringFeed (v, x.2) q bs

/-- Bytes delivered to an array's inbound ring; in the preamble they wait at the port (R141). Slots that a foreign unit
may not write fault (R208). -/
def ringDeliver (s : State) (a : ArrId) (q : Fin 6) (bs : List Byte) : State :=
  let u := arr s a
  if u.preamble then setArr s a { u with portq := u.portq ++ [(q.val, bs)] }
  else
    let g := u.rings[q]
    match slotChecks 5 true u (ringPieces g (ringTop g) g.filled bs.length) with
    | .error h => slotFault s a h 5 (nowClk s) 0
    | .ok u =>
      let r := ringFeed (u, 0) q bs
      regBump (setArr s a r.1) (spReg a.val 0x10) r.2

/-- A bank turned ON, with the writes that waited for it performed in their order (R138 to R141). A write into a bank that is no
software bank of the work item in force is performed where nothing of the software space shows it (notes/assumptions/35.md). -/
def wakeBank (u : ArrayUnit) (b : Fin 32) : ArrayUnit :=
  let k := u.banks[b]
  let spad := if b.val < u.swBanks then k.pending.foldl (fun m p => cellWrite (bankAddr u b.val p.1) p.2 m) u.spad else u.spad
  publishAll { u with spad := spad, banks := u.banks.set b { k with power := .on, pending := [] } }

/-- PREAMBLE_END (R141): the 320 clk of the preamble are over, and with them the 280 clk wakes of the tick (R138, R139), so that every
bank that the work item uses is ON with its earlier writes performed; accesses may begin, and bursts that waited at the port are
written. -/
def execPreambleEnd (a : ArrId) (s : State) : Host.Outcome State Fault Refusal :=
  let u := arr s a
  if u.preamble then
    let v := (List.finRange 32).foldl (fun v b =>
      if (v.banks[b]).booked && (v.banks[b]).power == .waking then wakeBank v b else v) u
    let s := setArr s a { v with preamble := false, portq := [] }
    .next (u.portq.foldl (fun s p => ringDeliver s a (Fin.ofNat 6 p.1) p.2) s)
  else .next s

/-- BANK_POWER_DOWN (R139): a bank whose power-down was requested at the tick enters SLEEP once its pending writes are
performed, or at 256 clk in any case, which counts one in SP_PD_TIMEOUT when writes are pending. -/
def execBankPowerDown (a : ArrId) (b : Fin 32) (t : Clk) (s : State) : Host.Outcome State Fault Refusal :=
  let u := arr s a
  let k := u.banks[b]
  if k.pdReq && (k.power == .on || k.power == .waking) && (k.pending.isEmpty || decide (256 ≤ t)) then
    let s := setArr s a { u with banks := u.banks.set b { k with power := .sleep, pdReq := false } }
    .next (regBump s (spReg a.val 0x18) (b2n (!k.pending.isEmpty)))
  else .next s

/-- BANK_WAKE_DONE (R138, R140): a waking bank turns ON and performs the writes that waited for it. A bank that entered SLEEP with
writes pending has been woken by them: its data is never dropped, and the wake counts one in SP_LATE_WAKE. -/
def execBankWakeDone (a : ArrId) (b : Fin 32) (s : State) : Host.Outcome State Fault Refusal :=
  let u := arr s a
  let k := u.banks[b]
  if k.power = .waking then .next (setArr s a (wakeBank u b))
  else if k.power = .sleep ∧ !k.pending.isEmpty then .next (regBump (setArr s a (wakeBank u b)) (spReg a.val 0x10) 1)
  else .next s

/-- Whether some byte of a range lies in a bank in SLEEP. -/
def meetsSleep (u : ArrayUnit) (addr n : Nat) : Bool :=
  (List.range n).any (fun i => (u.banks[bankOf u (addr + i)]).power == .sleep)

/-- LATE_WAKE (R140): a write that reaches a bank in SLEEP wakes it and is performed after the wake. -/
def execLateWake (a : ArrId) (addr : Nat) (bs : List Byte) (s : State) : Host.Outcome State Fault Refusal :=
  let u := arr s a
  if meetsSleep u addr bs.length && decide (addr + bs.length ≤ swBytes u) then .next (spadStore s a addr bs)
  else .next s

/-- ACQUIRE (R143): the producer claims the next position, or stalls while the ring is full; the clocks of the stall count in
RING_PSTALL. -/
def execAcquire (a : ArrId) (r : RingUse) (s : State) : Host.Outcome State Fault Refusal :=
  let u := arr s a
  let g := u.rings[r.ring]
  let full := ringFull g
  let n := stallClks (g.waitP.map (·.2)) r.clk full
  let g' := if full then { g with waitP := some (r.unit.val, r.clk) } else { g with claimed := true, waitP := none }
  let u := { u with veClk := if r.unit = 3 then u.veClk + n else u.veClk }
  if !g.enable then .next s else .next (regBump (setArr s a (setRing u r.ring g')) (ringReg a.val r.ring.val 0x10) n)

/-- PUBLISH (R143): the claimed position is published, tail rises by one, once the slot's last write is performed. -/
def execPublish (a : ArrId) (q : Fin 6) (s : State) : Host.Outcome State Fault Refusal :=
  let u := arr s a
  let g := u.rings[q]
  if g.enable && g.claimed then .next (setArr s a (ringFilled u q)) else .next s

/-- WAIT (R143): position head + n must be published; until then the consumer stalls, and the clocks of the stall count in
RING_CSTALL. -/
def execWait (a : ArrId) (r : RingUse) (n : Fin 16) (s : State) : Host.Outcome State Fault Refusal :=
  let u := arr s a
  let g := u.rings[r.ring]
  let there := decide (g.head + n.val < g.tail)
  let k := stallClks (g.waitC.map (·.2.2)) r.clk (!there)
  let g' := { g with waitC := if there then none else some (n.val, r.unit.val, r.clk) }
  let u := { u with veClk := if r.unit = 3 then u.veClk + k else u.veClk }
  if !g.enable then .next s else .next (regBump (setArr s a (setRing u r.ring g')) (ringReg a.val r.ring.val 0x18) k)

/-- Whether a unit of an array is stalled on a ring, by an ACQUIRE or a WAIT (R143). -/
def unitStalled (u : ArrayUnit) (unit : Nat) : Bool :=
  u.rings.any (fun g => (g.waitP.any (fun w => w.1 == unit)) || (g.waitC.any (fun w => w.2.1 == unit)))

/-- RELEASE (R143): head rises by one; the slot may be filled again. -/
def execRelease (a : ArrId) (q : Fin 6) (s : State) : Host.Outcome State Fault Refusal :=
  let u := arr s a
  let g := u.rings[q]
  if g.enable && decide (g.head < g.tail) then .next (setArr s a (setRing u q { g with head := g.head + 1 }))
  else .next s

/-- The end of a work item on an array's rings (R145): positions published and not released are abandoned, each one
counted, and the rings stop. -/
def abandonRings (s : State) (a : ArrId) : State :=
  let u := arr s a
  let s := (List.finRange 6).foldl (fun s q =>
    let g := u.rings[q]
    regBump s (ringReg a.val q.val 0x20) (g.tail - g.head)) s
  setArr s a { u with rings := u.rings.map (fun g => { g with enable := false, head := g.tail, filledUp := 0, waitP := none, waitC := none }) }

/-- What an array's work item leaves behind is abandoned: the bytes that wait at its port count in SP_ABANDON_BYTES, and its rings stop
(R145). -/
def abandonArray (s : State) (a : ArrId) : State :=
  let s := abandonRings (regBump s (spReg a.val 0x38) (sumN ((arr s a).portq.map (fun p => p.2.length)))) a
  setArr s a { arr s a with portq := [] }

end Sys2Proof.Machine
end

