-- ==== Sys2Proof/Machine/Mac.lean ====
section
/-! DEFINITION. MAC arrays and accumulation (03_mac_arrays.md, 04_accumulation.md): the tile descriptor and its legality
(R98, R99), rates (R69 to R74), held load and swap (R76 to R78), feeding and issue (R79 to R82), pipeline and drain
(R83 to R86), masks (R90 to R92), gangs (R94 to R97), the adder tree (R105 to R107), chunk and promotion (R108 to R112),
entry states (R113 to R116), the output stage (R117 to R121), the NaN trap (R122 to R124), and the commands TILE_START,
STEP_ISSUE, HELD_SWAP, CHUNK_UPDATE, DRAIN, OUTPUT_ROW and OUTPUT_ROW_WRITE. -/

namespace Sys2Proof.Machine

/-! ### The tile descriptor -/

/-- A tile descriptor from its 64 bytes (R98). -/
def parseTile (bs : List Byte) : TileDesc :=
  let w (i : Nat) : Nat := fld bs (8 * i) 8
  { aFmt := bits (w 0) 63 60, bFmt := bits (w 0) 59 56, aScl := bits (w 0) 55 52, bScl := bits (w 0) 51 48
    outFmt := bits (w 0) 47 44, mpass := bits (w 0) 43 42, sat := bitAt (w 0) 41, blk16 := bitAt (w 0) 40
    elemsM1 := bits (w 0) 39 36, promo := bits (w 0) 35 32, gangW := bits (w 0) 31 30
    gangMode := bits (w 0) 29 29, holdMode := bits (w 0) 28 28, accBase := bits (w 0) 27 24
    cont := bitAt (w 0) 23, drain := bitAt (w 0) 22, shift := bits (w 0) 21 20, tailRows := bits (w 0) 19 16
    kSteps := bits (w 0) 15 0
    rowValid := bits (w 1) 63 48, maskSrc := bits (w 1) 47 46, maskFill := bitAt (w 1) 45, fuse := bits (w 1) 44 42
    outBase := bits (w 1) 41 21, feedBase := bits (w 1) 20 0
    feedMStride := bits (w 2) 41 21, feedKStride := bits (w 2) 20 0
    holdCStride := bits (w 3) 62 42, holdKStride := bits (w 3) 41 21, holdBase := bits (w 3) 20 0
    maskBase := bits (w 4) 62 42, outMStride := bits (w 4) 41 21, holdRStride := bits (w 4) 20 0
    bSclBase := bits (w 5) 62 42, aSclMStride := bits (w 5) 41 21, aSclBase := bits (w 5) 20 0
    tsAEn := bitAt (w 6) 22, tsBEn := bitAt (w 6) 21, bSclCStride := bits (w 6) 20 0
    tscaleA := BitVec.ofNat 32 (bits (w 7) 63 32), tscaleB := BitVec.ofNat 32 (bits (w 7) 31 0)
    reserved := !(bits (w 2) 63 42 == 0 && bits (w 3) 63 63 == 0 && bits (w 4) 63 63 == 0
      && bits (w 5) 63 63 == 0 && bits (w 6) 63 23 == 0) }

/-- E, output elements per cell (R73). -/
def tileE (d : TileDesc) : Nat := d.elemsM1 + 1

/-- n, accumulator entries per element (R99, R113). -/
def tileN (d : TileDesc) : Nat := if d.mpass = 3 then 2 else 1

/-- Passes over the reduction length (R67, R101). -/
def tilePasses (d : TileDesc) : Nat := Nat.max d.mpass 1

/-- Issue clocks per step of one element, doubled: 1 in the 4- and 6-bit class, else twice the clocks (R74). -/
def fmtRate (code : Nat) : Nat :=
  match code with
  | 0x1 => 32
  | 0x2 => 4
  | 0x3 => 4
  | 0x5 => 2
  | 0x6 => 2
  | 0xB => 2
  | _ => 1

/-- The rate class of a tile: the slower operand's, and the 16-bit class in multi-pass modes (R70, R74). -/
def tileRate (d : TileDesc) : Nat :=
  if d.mpass ≠ 0 then 4 else Nat.max (fmtRate d.aFmt) (fmtRate d.bFmt)

/-- step_clk of R101. -/
def stepClk (d : TileDesc) : Nat := cdiv (tileE d * tileRate d) 2

/-- Whether the elements meet block scales, and the block size (R60 to R62); 0 is unscaled. -/
def tileBlk (d : TileDesc) : Nat :=
  if d.aScl = 0 ∧ d.bScl = 0 then 0
  else if d.aScl = 0xD ∨ d.bScl = 0xD ∨ d.blk16 then 16 else 32

/-- Scale bytes of one segment: b of R79. -/
def sclBytes (d : TileDesc) : Nat := if tileBlk d = 16 then 2 else if tileBlk d = 32 then 1 else 0

/-- Bytes of one 32-element segment of a format. -/
def segBytes (code : Nat) : Nat := 4 * fmtBits code

/-- hold_clk of R76 and R101; 1 in shift mode (R78). -/
def holdClk (d : TileDesc) : Nat :=
  if d.shift ≠ 0 then 1
  else
    let s := if d.bScl = 0 then 0 else sclBytes d
    cdiv ((if d.holdMode = 0 then 64 else 1024) * (segBytes d.bFmt + s)) 512

/-- per_step of R101. -/
def perStep (d : TileDesc) : Nat := Nat.max (stepClk d) (holdClk d)

/-- Steps over all passes. -/
def tileSteps (d : TileDesc) : Nat := d.kSteps * tilePasses d

/-- Whether cell row `r` is fed for element `e` (R90). -/
def rowFed (d : TileDesc) (r e : Nat) : Bool :=
  bitAt d.rowValid r && (decide (e ≠ d.elemsM1) || decide (r < (if d.tailRows = 0 then 16 else d.tailRows)))

/-- Output rows that are fed, ascending. -/
def fedRows (d : TileDesc) : List Nat := (List.range (16 * tileE d)).filter (fun m => rowFed d (m % 16) (m / 16))

/-- Array operand formats (R43). -/
def isOperand (c : Nat) : Bool :=
  c == 1 || c == 2 || c == 3 || c == 5 || c == 6 || c == 7 || c == 8 || c == 9 || c == 0xB || c == 0xC

/-- Array output formats (R43). -/
def isOutput (c : Nat) : Bool := 1 ≤ c && c ≤ 0xC || c == 0xF

/-- Element formats of the native layout (R60). -/
def isNativeElem (c : Nat) : Bool := c == 5 || c == 7 || c == 8 || c == 9

/-- Element formats of the compatibility layout (R61). -/
def isCompatElem (c : Nat) : Bool := c == 5 || c == 6 || c == 7 || c == 8 || c == 9

/-- One operand's scale field against its element format (R60, R61). -/
def sclOk (fmt scl : Nat) : Bool :=
  scl == 0 || (scl == 0xD && isNativeElem fmt) || (scl == 0xE && isCompatElem fmt)

/-- Ends of the byte ranges that a tile reads or writes (R99): feed, output, hold, scales and mask. -/
def tileEnds (d : TileDesc) : List Nat :=
  let k := d.kSteps - 1
  let b := sclBytes d
  let mtop := maxN (fedRows d)
  let some_ := !(fedRows d).isEmpty
  (if some_ then [d.feedBase + mtop * d.feedMStride + k * d.feedKStride + segBytes d.aFmt] else [])
  ++ (if some_ && d.drain then [d.outBase + mtop * d.outMStride + packedBytes d.outFmt 64] else [])
  ++ (if d.shift ≠ 0 then [d.holdBase + (63 + k) * d.holdKStride + segBytes d.bFmt]
      else [d.holdBase + k * d.holdKStride + 63 * d.holdCStride
        + (if d.holdMode = 1 then 15 * d.holdRStride else 0) + segBytes d.bFmt])
  ++ (if d.aScl ≠ 0 ∧ some_ then [d.aSclBase + mtop * d.aSclMStride + k * b + b] else [])
  ++ (if d.bScl ≠ 0 then [d.bSclBase + 63 * d.bSclCStride + k * b + b] else [])
  ++ (if d.maskSrc = 1 ∧ some_ ∧ d.drain then [d.maskBase + mtop * 8 + 8] else [])

/-- Addresses and strides that must be multiples of 8 B (R99). -/
def tileAligned (d : TileDesc) : Bool :=
  ([d.outBase, d.feedBase, d.feedMStride, d.feedKStride, d.holdCStride, d.holdKStride, d.holdBase, d.maskBase
    , d.outMStride, d.bSclBase, d.aSclMStride, d.aSclBase, d.bSclCStride]
    ++ (if d.holdMode = 1 then [d.holdRStride] else [])).all (fun x => x % 8 == 0)

/-- Legality of a tile descriptor (R99), for a gang width code and a software space. -/
def tileLegal (d : TileDesc) (gangW : Nat) (space : Nat) : Bool :=
  let ne := tileN d * tileE d
  isOperand d.aFmt && isOperand d.bFmt && (isInt d.aFmt == isInt d.bFmt)
  && sclOk d.aFmt d.aScl && sclOk d.bFmt d.bScl
  && (d.aScl == 0 || d.bScl == 0 || d.aScl == d.bScl)
  && (!(d.aScl == 0xD || d.bScl == 0xD) || d.blk16)
  && (d.mpass == 0 || (d.aFmt == 1 && d.bFmt == 1))
  && isOutput d.outFmt
  && decide (1 ≤ d.promo) && decide (d.promo ≤ 8) && decide (1 ≤ d.kSteps)
  && decide (ne ≤ 16) && (d.accBase % ne == 0)
  && (d.gangW == gangW) && (d.shift == 0 || (d.holdMode == 0 && d.gangMode == 0))
  && tileAligned d && (tileEnds d).all (fun x => decide (x ≤ space))
  && decide (d.gangW ≠ 3) && decide (d.shift ≠ 3) && decide (d.maskSrc ≠ 3)
  && !d.reserved

/-- Entry numbers that a tile names (R113). The table of R99 lets ACC_BASE + n × E exceed 16; the numbers then wrap round modulo 16
(DESIGN CHOICE, notes/assumptions/58.md). -/
def tileEntries (d : TileDesc) : List Nat := (List.range (tileN d * tileE d)).map (fun i => (d.accBase + i) % 16)

/-- Bit set of some entry numbers. -/
def entMask (es : List Nat) : Nat := sumN (es.map (fun j => 2 ^ j))

/-- State of an entry number. -/
def entAt (u : ArrayUnit) (j : Nat) : EntState := u.ent[Fin.ofNat 16 j]

/-- Entry numbers set to one state. -/
def setEnts (u : ArrayUnit) (es : List Nat) (st : EntState) : ArrayUnit :=
  { u with ent := es.foldl (fun v j => v.set (Fin.ofNat 16 j) st) u.ent }

/-- The tile that holds an entry, with its E and n. -/
def holderOf (u : ArrayUnit) (j : Nat) : Option (Nat × Nat × Nat) := (u.entTile.find? (fun p => p.1 == j)).map (·.2)

/-- Whether a tile with CONT = 1 names exactly the range that the latest held tile holds, with the same E and n
(R115). -/
def contOk (u : ArrayUnit) (d : TileDesc) : Bool :=
  let es := tileEntries d
  match u.lastHeld with
  | none => false
  | some l =>
    es.all (fun j => entAt u j == .held && holderOf u j == some (l, tileE d, tileN d))
    && ((u.entTile.filter (fun p => p.2.1 == l)).all (fun p => es.contains p.1))

/-- Ownership of the entries a tile names (R115, R116): 0 legal, 1 DISCARD_HELD, 2 CONT_MISMATCH, 4 it waits for a
drain. -/
def ownKind (u : ArrayUnit) (d : TileDesc) : Nat :=
  let es := tileEntries d
  if es.any (fun j => entAt u j == .draining) then 4
  else if d.cont then (if contOk u d then 0 else 2)
  else if es.any (fun j => entAt u j == .held) then 1
  else 0

/-! ### Operands -/

/-- A segment's elements and scales from the scratchpad (R79, R98). -/
def readSeg (u : ArrayUnit) (fmt a nscl sa : Nat) : Segment :=
  let bs := spadReads u a (segBytes fmt)
  { elems := (List.range 32).map (elemAt fmt bs)
    scales := (spadReads u sa nscl).map (·.toNat) }

/-- The fed segment of output row m, step k (R79). -/
def feedSeg (u : ArrayUnit) (d : TileDesc) (m k : Nat) : Segment :=
  let b := if d.aScl = 0 then 0 else sclBytes d
  readSeg u d.aFmt (d.feedBase + m * d.feedMStride + k * d.feedKStride) b (d.aSclBase + m * d.aSclMStride + k * b)

/-- Byte ranges that the feeders read for output row m, step k. -/
def feedRanges (d : TileDesc) (m k : Nat) : List (Nat × Nat) :=
  let b := if d.aScl = 0 then 0 else sclBytes d
  (d.feedBase + m * d.feedMStride + k * d.feedKStride, segBytes d.aFmt)
  :: (if b = 0 then [] else [(d.aSclBase + m * d.aSclMStride + k * b, b)])

/-- Address of the held segment of row r, column c, step k (R78, R98). -/
def holdAddr (d : TileDesc) (r c k : Nat) : Nat :=
  if d.shift = 1 then d.holdBase + (k + c) * d.holdKStride
  else if d.shift = 2 then d.holdBase + (k + 63 - c) * d.holdKStride
  else d.holdBase + k * d.holdKStride + c * d.holdCStride + (if d.holdMode = 1 then r * d.holdRStride else 0)

/-- The held segments of a row for step k, one per column. -/
def holdRow (u : ArrayUnit) (d : TileDesc) (r k : Nat) : List Segment :=
  let b := if d.bScl = 0 then 0 else sclBytes d
  (List.range 64).map (fun c => readSeg u d.bFmt (holdAddr d r c k) b (d.bSclBase + c * d.bSclCStride + k * b))

/-- A shift at a step boundary (R78): every column takes its neighbour's elements and the edge column the next stream segment. The
scales are those that R98 gives column c and step k, read anew; that they do not move with their segments is the model's reading
(DESIGN CHOICE, notes/assumptions/59.md). -/
def shiftRow (u : ArrayUnit) (d : TileDesc) (k : Nat) (old : List Segment) : List Segment :=
  let b := if d.bScl = 0 then 0 else sclBytes d
  let new := readSeg u d.bFmt (d.holdBase + (63 + k) * d.holdKStride) 0 0
  let moved := if d.shift = 1 then old.drop 1 ++ [new] else new :: old.take 63
  moved.zipIdx.map (fun x => { x.1 with scales := (spadReads u (d.bSclBase + x.2 * d.bSclCStride + k * b) b).map (·.toNat) })

/-- Whether a step's held segments are the shifted ones of the step before (R78): every step of a pass but its first. -/
def shifts (d : TileDesc) (gstep : Nat) : Bool := decide (d.shift ≠ 0) && decide (gstep % (Nat.max d.kSteps 1) ≠ 0)

/-- What the load of step `gstep` puts into the rows: one list of segments for all rows, or one per row in cell mode (R76). `old` is
what the load before put into them. -/
def loadRows (u : ArrayUnit) (d : TileDesc) (gstep : Nat) (old : List Segment) : List (List Segment) :=
  let k := gstep % (Nat.max d.kSteps 1)
  if shifts d gstep then [shiftRow u d k old]
  else if d.holdMode = 1 then (List.range 16).map (fun r => holdRow u d r k)
  else [holdRow u d 0 k]

/-- Byte ranges that the held load reads for a step: per column, and per row in cell mode. In shift mode a boundary
reads one segment (R78). -/
def holdRanges (d : TileDesc) (gstep : Nat) : List (Nat × Nat) :=
  let k := gstep % (Nat.max d.kSteps 1)
  let b := if d.bScl = 0 then 0 else sclBytes d
  let scl := fun c => if b = 0 then [] else [(d.bSclBase + c * d.bSclCStride + k * b, b)]
  if shifts d gstep then (d.holdBase + (63 + k) * d.holdKStride, segBytes d.bFmt) :: (List.range 64).flatMap scl
  else if d.holdMode = 1 then
    (List.range 16).flatMap (fun r => (List.range 64).map (fun c => (holdAddr d r c k, segBytes d.bFmt)))
      ++ (List.range 64).flatMap scl
  else (List.range 64).flatMap (fun c => (holdAddr d 0 c k, segBytes d.bFmt) :: scl c)

/-- Value of an element in one pass of a multi-pass mode (R67): part 0 the value itself, 1 hi, 2 lo. -/
def passVal (fmt part v : Nat) : Num :=
  if part = 1 then decodeFF ffBf16 (splitHi v)
  else if part = 2 then decodeFF ffBf16 (splitLo v)
  else decodeNum fmt v

/-- Parts of the fed and held operand in pass `p`, counted from 0 (R67). -/
def passParts (mpass p : Nat) : Nat × Nat :=
  if mpass = 0 then (0, 0) else if p = 0 then (1, 1) else if p = 1 then (2, 1) else (1, 2)

/-- Entry of element `e` in pass `p` (R68, R113). -/
def passEntry (d : TileDesc) (e p : Nat) : Nat := (d.accBase + tileN d * e + (if d.mpass = 3 ∧ 0 < p then 1 else 0)) % 16

/-! ### The adder tree -/

/-- Where a NaN arose: stage, lane, level and operand side (R122, R123), with the clock after the first issue clock. -/
structure NanAt where
  stage : Nat
  lane  : Nat
  level : Nat
  side  : Nat
  deriving DecidableEq, Repr

/-- Detection clock of a stage, after the step's first issue clock (R122). -/
def nanDelay (stage : Nat) : Nat := if stage ≤ 1 then 5 else if stage ≤ 3 then 8 else 9

/-- One level of the tree: node j adds nodes 2j and 2j + 1, each rounded by fp20, with the NaNs that arise (R106). -/
def treeLevel (level : Nat) : (j : Nat) → List Num → List Num × List NanAt
  | j, x :: y :: r =>
    let v := fp20 (numAdd x y)
    let rest := treeLevel level (j + 1) r
    let n := if isNan v && !isNan x && !isNan y then
      [{ stage := 2, lane := j * 2 ^ level, level := level, side := 0 : NanAt }] else []
    (v :: rest.1, n ++ rest.2)
  | _, [x] => ([x], [])
  | _, [] => ([], [])

/-- The rounded products of the lanes, with the NaNs that arise (R53, R105, R122). -/
def laneProducts : (i : Nat) → List Num → List Num → List Num × List NanAt
  | i, a :: as, b :: bs =>
    let p := fp20 (numMul a b)
    let rest := laneProducts (i + 1) as bs
    let n :=
      if isNan a || isNan b then [{ stage := 0, lane := i, level := 0, side := b2n (isNan a) + 2 * b2n (isNan b) : NanAt }]
      else if isNan p then [{ stage := 1, lane := i, level := 0, side := 0 : NanAt }] else []
    (p :: rest.1, n ++ rest.2)
  | _, _, _ => ([], [])

/-- A scaled node (R63), with its events and the NaN it raises. -/
def scaleNode (lane : Nat) (S sa sb : Num) : Num × List NanAt × Ev :=
  let r := scaleBlock S sa sb
  let n :=
    if isNan sa || isNan sb then
      [{ stage := 3, lane := lane, level := 0, side := b2n (isNan sa) + 2 * b2n (isNan sb) : NanAt }]
    else if isNan r.1 && !isNan S then
      [{ stage := 3, lane := lane, level := 0, side := b2n (isZero sa) + 2 * b2n (isZero sb) : NanAt }] else []
  (r.1, n, r.2)

/-- One step of a floating-point cell (R106): tree result, NaNs and events. -/
def cellStep (blk : Nat) (a b sa sb : List Num) : Num × List NanAt × Ev :=
  let one := Num.fin false 1 0
  let p := laneProducts 0 a b
  let l1 := treeLevel 1 0 p.1
  let l2 := treeLevel 2 0 l1.1
  let l3 := treeLevel 3 0 l2.1
  let l4 := treeLevel 4 0 l3.1
  let s0 := if blk = 16 then scaleNode 0 (nthD one l4.1 0) (nthD one sa 0) (nthD one sb 0)
    else (nthD one l4.1 0, [], {})
  let s1 := if blk = 16 then scaleNode 16 (nthD one l4.1 1) (nthD one sa 1) (nthD one sb 1)
    else (nthD one l4.1 1, [], {})
  let l5 := treeLevel 5 0 [s0.1, s1.1]
  let s2 := if blk = 32 then scaleNode 0 (nthD one l5.1 0) (nthD one sa 0) (nthD one sb 0)
    else (nthD one l5.1 0, [], {})
  (s2.1, p.2 ++ l1.2 ++ l2.2 ++ l3.2 ++ l4.2 ++ s0.2.1 ++ s1.2.1 ++ l5.2 ++ s2.2.1,
    evAdd (evAdd s0.2.2 s1.2.2) s2.2.2)

/-- The value of an integer code. -/
def intVal (fmt v : Nat) : Int := sx (fmtBits fmt) v

/-- One step of an integer cell: exact (R107). -/
def intStep (fa fb : Nat) : List Nat → List Nat → Int
  | a :: as, b :: bs => intVal fa a * intVal fb b + intStep fa fb as bs
  | _, _ => 0

/-! ### Accumulation -/

/-- promote of R109: the cell after, and whether a NaN arose. -/
def promote (c : AccCell) : AccCell × Bool :=
  match c.chunk, c.total with
  | none, _ => (c, false)
  | some k, none => ({ total := some k, chunk := none }, false)
  | some k, some t =>
    let v := fadd t k
    ({ total := some v, chunk := none }, isNan (fp32Val v) && !isNan (fp32Val t) && !isNan (fp32Val k))

/-- accumulate of R109 without its promotion: the cell after, and whether a NaN arose. -/
def chunkAdd (c : AccCell) (t : Num) : AccCell × Bool :=
  match c.chunk with
  | none => ({ c with chunk := some (fp32Enc t) }, false)
  | some k =>
    let v := fp20 (numAdd (fp32Val k) t)
    ({ c with chunk := some (fp32Enc v) }, isNan v && !isNan (fp32Val k) && !isNan t)

/-- The integer accumulation of R112: the cell after, and whether it clamped. -/
def intAdd (c : AccCell) (t : Int) : AccCell × Bool :=
  let r := clampInt 32 ((c.total.getD 0).toInt + t)
  ({ total := some (BitVec.ofInt 32 r.1), chunk := none }, r.2)

/-- The cells of a row's entry. -/
def accCells (u : ArrayUnit) (row ent : Nat) : List AccCell :=
  match u.acc.find? (fun x => x.row == row && x.ent == ent) with
  | some x => x.cells
  | none => List.replicate 64 {}

/-- The cells of a row's entry replaced. -/
def setAcc (u : ArrayUnit) (row ent : Nat) (cs : List AccCell) : ArrayUnit :=
  let rest := u.acc.filter (fun x => !(x.row == row && x.ent == ent))
  { u with acc := if cs.all (· == ({} : AccCell)) then rest
      else sortBy (fun x y => decide (x.row * 16 + x.ent ≤ y.row * 16 + y.ent)) (rest ++ [{ row := row, ent := ent, cells := cs }]) }

/-- Entries emptied: total and chunk. -/
def clearAcc (u : ArrayUnit) (es : List Nat) : ArrayUnit :=
  { u with acc := u.acc.filter (fun x => !es.contains x.ent) }

/-- Chunks of entries emptied, totals kept (R115). -/
def clearChunks (u : ArrayUnit) (es : List Nat) : ArrayUnit :=
  { u with acc := u.acc.map (fun x => if es.contains x.ent then { x with cells := x.cells.map (fun c => { c with chunk := none }) } else x) }

/-! ### The NaN trap -/

/-- One NaN as the trap orders it (R123): clock, logical row, column, and where it arose. -/
structure NanEvent where
  clk  : Nat
  row  : Nat
  col  : Nat
  at_  : NanAt
  step : Nat
  m    : Nat
  pass : Nat
  tile : Nat
  deriving DecidableEq, Repr

/-- The trap's order key (R123). -/
def nanKey (x : NanEvent) : List Nat := [x.clk, x.row, x.col, x.at_.lane, x.at_.stage]

/-- Lexicographic order. -/
def lexLt : List Nat → List Nat → Bool
  | a :: as, b :: bs => decide (a < b) || (a == b && lexLt as bs)
  | _, _ => false

/-- The least event by the trap's order. -/
def nanFirst : List NanEvent → Option NanEvent
  | [] => none
  | x :: r => match nanFirst r with
    | none => some x
    | some y => if lexLt (nanKey y) (nanKey x) then some y else some x

/-- NT_WHERE of an event (R128). For the stages of the output side STEP, LANE, PASS, LEVEL and OPSIDE read 0 (R123). -/
def ntWhere (x : NanEvent) : Nat :=
  let o := decide (6 ≤ x.at_.stage)
  let z := fun (n : Nat) => if o then 0 else n
  z (x.step % 65536) * 2 ^ 48 + (x.m % 256) * 2 ^ 40 + x.col * 2 ^ 34 + z x.at_.lane * 2 ^ 29 + z x.pass * 2 ^ 27
    + z x.at_.level * 2 ^ 24 + z x.at_.side * 2 ^ 22 + x.at_.stage * 2 ^ 19

/-- NaNs that arose in an array: counted, made sticky, and the first recorded while VALID is clear; commands that run
in another order than the clocks of their events still leave the record of the earliest clock (R122 to R124). Of several that
arise in the clock of the recorded one, the others set OVERRUN; of two with one key, such as those of elements 2i and 2i + 1 of a 4 or
6 bit class, the one whose update comes first is recorded (DESIGN CHOICE, notes/assumptions/60.md). -/
def nanTrap (s : State) (a : ArrId) (es : List NanEvent) : State :=
  match nanFirst es with
  | none => s
  | some x =>
    let w := (arrItem s a).getD { id := 0, rqt := 0, round := none, recIdx := 0, image := 0, step := 0, gang := 0, number := 0, layer := 0, leader := 0, width := 1, mode := 0, declared := 0, flags := 0, mgenSlot := none, barMap := [], engines := [], binds := [], arrived := [] }
    let st := arrReg a.val 0x148
    let valid := regField s st 0 0 = 1
    let time := regGet s (arrReg a.val 0x160)
    let old := regGet s (arrReg a.val 0x158)
    let fur := curFurrow s % 2 ^ 32
    let earlier := bits time 63 32 = fur ∧
      lexLt (nanKey x) [bits time 31 0, bits old 47 40 % 16, bits old 39 34, bits old 33 29, bits old 21 19]
    let s := regBump s (arrReg a.val 0x128) es.length
    let s := stickItem s (arr s a).item 32
    let s := if valid ∨ 1 < es.length then regFlag s st 1 else s
    if valid ∧ ¬ earlier then s
    else
      let s := regFlag s st 0
      let s := regSet s (arrReg a.val 0x150)
        ((w.rqt % 4096) * 2 ^ 52 + (w.layer % 65536) * 2 ^ 36 + (x.tile % 65536) * 2 ^ 20 + w.number % 2 ^ 20)
      let s := regSet s (arrReg a.val 0x158) (ntWhere x)
      regSet s (arrReg a.val 0x160) (fur * 2 ^ 32 + x.clk % 2 ^ 32)

/-- Conversion and scale events counted in an array's output stage (R121). -/
def countOs (s : State) (a : ArrId) (e : Ev) : State :=
  let s := regBump s (arrReg a.val 0x100) e.ovf
  let s := regBump s (arrReg a.val 0x108) e.nanLost
  let s := regBump s (arrReg a.val 0x110) e.intSat
  let s := regBump s (arrReg a.val 0x118) e.scaleOvf
  let s := regBump s (arrReg a.val 0x120) e.scaleUfl
  stickItem s (arr s a).item (evSticky e)

/-! ### TILE_START -/

/-- A tile-ownership fault or an illegal descriptor: ACC_FAULT, then a schedule fault at the tile's index (R99, R116,
R128). In a gang it is the leader's ACC_FAULT that takes the record (DESIGN CHOICE, notes/assumptions/61.md). -/
def accFault (s : State) (a : ArrId) (w : ItemRun) (kind tile held ents clk : Nat) : State :=
  let pt := (kind, tile, 0)
  let v := (tile % 65536) * 2 ^ 48 + held * 2 ^ 32 + ents * 2 ^ 16 + kind * 4 + b2n (repeats w pt) * 2 + 1
  schedFault (regSet s (arrReg a.val 0x140) v) w pt tile v clk a.val

/-- The tile that holds the first held entry among some, 0xFFFF if none (R128). Where several tiles hold the entries it is that of the
lowest one (DESIGN CHOICE, notes/assumptions/98.md). -/
def heldTile (u : ArrayUnit) (es : List Nat) : Nat :=
  match es.find? (fun j => entAt u j == .held) with
  | some j => match holderOf u j with
    | some h => h.1 % 65536
    | none => 0xFFFF
  | none => 0xFFFF

/-- The array whose scratchpad and held load port serve member `a` (R95, R96). -/
def holdSource (w : ItemRun) (d : TileDesc) (a : ArrId) : ArrId := if d.gangMode = 1 then a else arrId w.leader
/-- The array whose scratchpad and feeders serve member `a`. -/
def feedSource (w : ItemRun) (d : TileDesc) (a : ArrId) : ArrId := if d.gangMode = 1 then arrId w.leader else a
/-- The arrays whose held load ports read for a tile (R95, R96). -/
def holdSources (w : ItemRun) (d : TileDesc) : List ArrId := if d.gangMode = 1 then gangArrays w else [arrId w.leader]
/-- The arrays whose feeders read for a tile. -/
def feedSources (w : ItemRun) (d : TileDesc) : List ArrId := if d.gangMode = 1 then [arrId w.leader] else gangArrays w

/-- The same reads of one unit checked on several arrays (R208): the state with their slots advanced, or the first hit. -/
def gangChecks (unit : Nat) (rs : List (Nat × Nat)) (as : List ArrId) (s : State) : Except (ArrId × SlotHit) State :=
  as.foldl (fun (acc : Except (ArrId × SlotHit) State) b =>
    match acc with
    | .error h => .error h
    | .ok s => match slotChecks unit false (arr s b) rs with
      | .ok v => .ok (setArr s b v)
      | .error h => .error (b, h)) (.ok s)

/-- A held load begins in an array at clock `t`, its bytes read from `src`; rows swap to it in turn (R77). -/
def beginLoad (src u : ArrayUnit) (d : TileDesc) (tile gstep t : Nat) (old : List Segment) : ArrayUnit :=
  { u with
    loads := u.loads ++ [{ seq := u.loadNo + 1, tile := tile, step := gstep, rows := loadRows src d gstep old, ready := t + holdClk d }]
    loadNo := u.loadNo + 1 }

/-! #### Feeders -/

/-- Elements issued in issue clock `w` of a step: two in the 4- and 6-bit class, one in its first clock in the others
(R74). -/
def issueElems (d : TileDesc) (w : Nat) : List Nat :=
  let e := tileRate d
  if e = 1 then [2 * w, 2 * w + 1].filter (fun x => decide (x < tileE d))
  else if (2 * w) % e = 0 then [2 * w / e] else []

/-- Issue clocks of a tile. -/
def tileIssues (d : TileDesc) : Nat := tileSteps d * stepClk d

/-- The elements for which row `r` is fed in issue clock `n` of a tile (R79, R90). -/
def rowTakes (d : TileDesc) (r n : Nat) : List Nat := (issueElems d (n % stepClk d)).filter (fun e => rowFed d r e)

/-- The next `m` issue clocks from `n` on in which row `r` takes an entry. -/
def entriesFrom (d : TileDesc) (r n m : Nat) : List Nat :=
  (((List.range (17 * stepClk d)).map (n + ·)).filter (fun x => decide (x < tileIssues d) && !(rowTakes d r x).isEmpty)).take m

/-- The entry of row `r` for issue clock `n`: what the feeder reads from the scratchpad (R79). -/
def feedEntry (u : ArrayUnit) (d : TileDesc) (tile r n : Nat) : FeedEntry :=
  { tile := tile, at_ := n, segs := (rowTakes d r n).map (fun e => (e, feedSeg u d (16 * e + r) (n / stepClk d % Nat.max d.kSteps 1))) }

/-- The issue clocks that row `r`'s feeder reads for in clock `t`: as far ahead as its queue of 16 allows, entries that have
been issued by then having left it (R79). -/
def feederReads (u : ArrayUnit) (d : TileDesc) (t r : Nat) : List Nat :=
  let f := u.feeders[Fin.ofNat 16 r]
  entriesFrom d r f.next (16 - (f.q.filter (fun e => match e.out with | some o => decide (t < o) | none => true)).length)

/-- Row `r`'s feeder after its reads of clock `t`. -/
def feederAfter (u : ArrayUnit) (d : TileDesc) (tile t r : Nat) : Feeder :=
  let f := u.feeders[Fin.ofNat 16 r]
  let ns := feederReads u d t r
  { next := match ns.getLast? with | some n => n + 1 | none => f.next
    q := f.q.filter (fun e => match e.out with | some o => decide (t < o) | none => true) ++ ns.map (feedEntry u d tile r) }

/-- One array's feeders read in clock `t`, the rows in `lost` having lost their bank accesses (R131); the slot checker sees each
read (R208). -/
def feedOn (d : TileDesc) (tile t : Nat) (lost : List Nat) (u : ArrayUnit) : Except SlotHit ArrayUnit :=
  let rows := (List.range 16).filter (fun r => !lost.contains r)
  let ranges := rows.flatMap (fun r => (feederReads u d t r).flatMap (fun n =>
    (rowTakes d r n).flatMap (fun e => feedRanges d (16 * e + r) (n / stepClk d % Nat.max d.kSteps 1))))
  match slotChecks 0 false u ranges with
  | .error h => .error h
  | .ok v => .ok { v with feeders := Vector.ofFn (fun r => if lost.contains r.val then u.feeders[r] else feederAfter u d tile t r.val) }

/-- The feeders of every array that feeds a tile read in clock `t`; `lost` names the (member, row) pairs that lost their accesses,
and a member whose feeders a ring stalls reads nothing (R79, R143). -/
def feedGang (w : ItemRun) (d : TileDesc) (tile t : Nat) (lost : List (Nat × Nat)) (s : State) : Except (ArrId × SlotHit) State :=
  (feedSources w d).foldl (fun (acc : Except (ArrId × SlotHit) State) b =>
    match acc with
    | .error h => .error h
    | .ok s =>
      if unitStalled (arr s b) 0 then .ok s
      else match feedOn d tile t ((lost.filter (fun p => p.1 == b.val - w.leader)).map (·.2)) (arr s b) with
        | .ok v => .ok (setArr s b v)
        | .error h => .error (b, h)) (.ok s)

/-- Whether a feeder queue holds the entry for issue clock `n` of a tile. -/
def queueHas (f : Feeder) (tile n : Nat) : Bool := f.q.any (fun e => e.tile == tile && e.at_ == n)

/-- Whether every row of an array that takes an entry in issue clock `n` has it in its queue (R81). -/
def rowsQueued (u : ArrayUnit) (d : TileDesc) (tile n : Nat) : Bool :=
  (List.finRange 16).all (fun r => (rowTakes d r.val n).isEmpty || queueHas u.feeders[r] tile n)

/-- The entries of issue clock `n` leave their queues as the rows issue them, row r in clock `t` + r (R80). -/
def takeEntries (tile n t : Nat) (u : ArrayUnit) : ArrayUnit :=
  { u with feeders := Vector.ofFn (fun r =>
      let f := u.feeders[r]
      { f with q := f.q.map (fun e => if e.tile = tile ∧ e.at_ = n then { e with out := some (t + r.val) } else e) }) }

/-! #### The start -/

/-- The state of an array between issues (R104): DRAINING while its issue is complete and a drain is in progress, IDLE when nothing of
its work item is left to issue or drain. -/
def restUnit (u : ArrayUnit) : ArrayUnit :=
  let issuing : Bool := match u.cur with
    | some c => decide (c.issued < tileIssues c.desc)
    | none => false
  if issuing ∨ u.st = .fallow then u
  else if u.drains.any (fun x => x.started.isSome) then { u with st := .draining }
  else if u.tiles.isEmpty ∧ u.drains.isEmpty then { u with st := .idle }
  else { u with st := .running }

/-- Whether the next held load of the tile may begin in a member: segments remain, and row 0's swap to the segment before freed the
inactive buffer (R77). -/
def loadDue (u : ArrayUnit) (c : TileRun) : Bool :=
  decide (c.begun < tileSteps c.desc) && (c.begun == 0 || (match (u.act[0]?).join with
    | some h => h.tile == c.idx && h.step + 1 == c.begun
    | none => false))

/-- The next held load of the tile begins in one member at clock `t`. -/
def beginOn (w : ItemRun) (t : Nat) (s : State) (b : ArrId) : State :=
  let u := arr s b
  match u.cur with
  | none => s
  | some c =>
    let old := if c.begun = 0 then [] else match (u.act[0]?).join with
      | some h => h.cols
      | none => []
    setArr s b
      (beginLoad (arr s (holdSource w c.desc b)) { u with cur := some { c with begun := c.begun + 1 } } c.desc c.idx c.begun t old)

/-- The gang's next held load begins at clock `t` where it is due, unless a ring stalls a held load port that serves the gang: then it
waits (R77, R97, R143). -/
def beginGang (w : ItemRun) (a : ArrId) (t : Nat) (s : State) : Except (ArrId × SlotHit) State :=
  match (arr s a).cur with
  | none => .ok s
  | some c =>
    if loadDue (arr s a) c && !(holdSources w c.desc).any (fun b => unitStalled (arr s b) 1) then
      match gangChecks 1 (holdRanges c.desc c.begun) (holdSources w c.desc) s with
      | .error h => .error h
      | .ok v => .ok ((gangArrays w).foldl (beginOn w t) v)
    else .ok s

/-- One member starts a tile: its entries become ACTIVE, and its feeders turn to the tile: they read ahead within the tile and no
further (R79, R100, R115; DESIGN CHOICE, notes/assumptions/80.md). A tile with CONT = 1 keeps the totals; the chunks of its entries are empty once the held tile's last steps have left the
pipeline, before any step of this tile (R110). -/
def startOn (d : TileDesc) (t : Nat) (s : State) (a : ArrId) : State :=
  let u := arr s a
  let es := tileEntries d
  let u := if d.cont then u else clearAcc u es
  let u := setEnts u es .active
  let u := { u with
    st := .running
    entTile := (u.entTile.filter (fun p => !es.contains p.1)) ++ es.map (fun j => (j, u.tileNo, tileE d, tileN d))
    tiles := u.tiles.drop 1
    tileNo := u.tileNo + 1
    feeders := u.feeders.map (fun f => { f with next := 0 })
    cur := some { desc := d, idx := u.tileNo, start := t } }
  setArr s a u

/-- Whether the previous tile lets the next one start at clock `t`: its last issue is made (R100). -/
def prevDone (u : ArrayUnit) (t : Nat) : Bool :=
  match u.cur with
  | none => true
  | some c => decide (tileIssues c.desc ≤ c.issued) && decide (c.last < t)

/-- Whether an entry that a tile names is still being drained in some array of the gang (R100). -/
def gangDrains (s : State) (w : ItemRun) (d : TileDesc) : Bool :=
  (gangArrays w).any (fun b => (tileEntries d).any (fun j => entAt (arr s b) j == .draining))

/-- TILE_START (R100): the gang whose leader is `a` starts its next tile at clock `t`: the held load of its first segment and the
reads of its feeders begin. The start waits while an entry it names is being drained; an illegal descriptor or ownership is a
schedule fault (R99, R116). -/
def execTileStart (a : ArrId) (t : Clk) (s : State) : Host.Outcome State Fault Refusal :=
  let u := arr s a
  match arrItem s a, u.tiles with
  | some w, d :: _ =>
    if w.leader ≠ a.val ∨ w.halted ≠ 0 ∨ u.st = .fallow ∨ u.preamble ∨ prevDone u t = false then .next s
    else if ¬ tileLegal d (if w.width = 4 then 2 else w.width - 1) (swBytes u) then
      .next (accFault s a w 3 u.tileNo 0xFFFF 0 t)
    else if gangDrains s w d then .next s
    else
      let k := ownKind u d
      if k ≠ 0 then .next (accFault s a w k u.tileNo (heldTile u (tileEntries d)) (entMask (tileEntries d)) t)
      else match beginGang w a t ((gangArrays w).foldl (startOn d t) s) with
        | .error (b, h) => .next (slotFault s b h 1 t u.tileNo)
        | .ok n =>
          match feedGang w d u.tileNo t [] n with
          | .error (b, h) => .next (slotFault n b h 0 t u.tileNo)
          | .ok n => .next n
  | _, _ => .next s

/-! ### HELD_SWAP -/

/-- The load that a row swaps to next: the oldest one after the row's own (R77). -/
def nextLoad (u : ArrayUnit) (row : Nat) : Option HeldLoad :=
  let done := match (u.act[row]?).join with
    | some h => h.seq
    | none => 0
  u.loads.find? (fun l => decide (done < l.seq))

/-- The segments that a load holds for a row. -/
def loadCols (l : HeldLoad) (row : Nat) : List Segment := if l.rows.length = 1 then l.rows.headD [] else nthD [] l.rows row

/-- One row of one member swaps to its next load: the steps of the row that wait for it take their held segments, and a load that
every row has swapped to is dropped (R77). -/
def swapOn (row t : Nat) (s : State) (a : ArrId) : State :=
  let u := arr s a
  match nextLoad u row with
  | none => s
  | some l =>
    let h : HeldBuf := { seq := l.seq, tile := l.tile, step := l.step, cols := loadCols l row }
    let act := u.act.set row (some h)
    let v := { u with
      act := act
      loads := (u.loads.map (fun x => if x.seq = l.seq ∧ row = 0 then { x with swapAt := some t } else x)).filter
        (fun x => act.any (fun y => match y with | some y => decide (y.seq < x.seq) | none => true))
      pipe := u.pipe.map (fun p =>
        if p.row = row ∧ p.tile = l.tile ∧ p.gstep = l.step then { p with held := some h.cols } else p)
      cur := if row = 0 then u.cur.map (fun c => { c with swap := t }) else u.cur }
    setArr s a v

/-- Whether row 0 of every member of a gang has its load of the step complete at clock `t` (R77, R97). -/
def gangReady (s : State) (w : ItemRun) (l : HeldLoad) (t : Nat) : Bool :=
  (gangArrays w).all (fun b => match nextLoad (arr s b) 0 with
    | some x => x.tile == l.tile && x.step == l.step && decide (x.ready ≤ t)
    | none => false)

/-- HELD_SWAP (R77): row `row` of the gang led by `a` swaps at clock `t`. Row 0 swaps at a step boundary once the load of every
member is complete, and the load of the next segment begins (R97); row r swaps r clocks after row 0 (R80). -/
def execHeldSwap (a : ArrId) (row : Fin 16) (t : Clk) (s : State) : Host.Outcome State Fault Refusal :=
  let u := arr s a
  match arrItem s a, u.cur, nextLoad u row.val with
  | some w, some c, some l =>
    if w.leader ≠ a.val ∨ w.halted ≠ 0 ∨ u.st = .fallow then .next s
    else if row.val = 0 then
      if l.tile = c.idx ∧ c.issued = l.step * stepClk c.desc ∧ gangReady s w l t then
        let n := (gangArrays w).foldl (swapOn 0 t) s
        match beginGang w a t n with
        | .error (b, f) => .next (slotFault n b f 1 t c.idx)
        | .ok n => .next n
      else .next s
    else match l.swapAt with
      | some t0 => if t0 + row.val ≤ t then .next ((gangArrays w).foldl (swapOn row.val t) s) else .next s
      | none => .next s
  | _, _, _ => .next s

/-! ### STEP_ISSUE -/

/-- Whether the sluice at k of 8 permits clock `t` (R401). -/
def sluicePermits (k t : Nat) : Bool := decide ((t % 8 + 1) * k / 8 > (t % 8) * k / 8)

/-- Effective sluice of one array (R402). -/
def arrSluice (s : State) (a : ArrId) : Nat :=
  Nat.min (Nat.min s.power.wsluice s.power.capLim)
    (Nat.min (Nat.min s.power.curLim s.power.broLim) (arr s a).care.thermal)

/-- Effective sluice of a gang (R97, R402). -/
def gangSluice (s : State) (w : ItemRun) : Nat := (gangArrays w).foldl (fun k a => Nat.min k (arrSluice s a)) 8

/-- The steps that one issue clock sends down a member's rows: only fed rows (R80, R90), with the segments of the feeders' entries. -/
def issueRows (feed u : ArrayUnit) (c : TileRun) (t : Nat) (j : Nat) : List RowStep :=
  let d := c.desc
  (List.finRange 16).flatMap (fun r =>
    match feed.feeders[r].q.find? (fun e => e.tile == c.idx && e.at_ == c.issued) with
    | none => []
    | some e => e.segs.map (fun x =>
      { row := r.val, elem := x.1, step := j % d.kSteps, pass := j / d.kSteps, gstep := j, tile := c.idx, issue := t + r.val
        fed := x.2
        held := match (u.act[r.val]?).join with
          | some h => if h.tile = c.idx ∧ h.step = j then some h.cols else none
          | none => none
        desc := d }))

/-- Rows that one issue clock leaves unfed (R104). -/
def gatedRows (d : TileDesc) (es : List Nat) : Nat :=
  sumN (es.map (fun e => ((List.range 16).filter (fun r => !rowFed d r e)).length))

/-- One member issues: the pipeline takes the rows' steps, and after row 0's last issue the entries become HELD or
DRAINING (R81, R115). -/
def issueOn (w : ItemRun) (t j : Nat) (es : List Nat) (s : State) (a : ArrId) : State :=
  let u := arr s a
  match u.cur with
  | none => s
  | some c =>
    let d := c.desc
    let rows := issueRows (arr s (feedSource w d a)) u c t j
    let n := c.issued + 1
    let done := n = tileIssues d
    let last := Nat.max t (c.swap + holdClk d - 1)
    let c' := { c with issued := n, last := if done then last else c.last }
    let ent := tileEntries d
    let u1 := { u with st := .running, pipe := u.pipe ++ rows, cur := some c' }
    let u2 :=
      if ¬ done then u1
      else if d.drain then
        restUnit { setEnts u1 ent .draining with drains := u1.drains ++ [{ desc := d, idx := c.idx, due := last + 25, started := none }] }
      else restUnit { setEnts u1 ent .held with lastHeld := some c.idx }
    let s := setArr s a u2
    let s := regBump s (arrReg a.val 0x20) 1
    regBump s (arrReg a.val 0x38) (gatedRows d es)

/-- Bank accesses that lose clock `t` (R131): each counts in SP_CONFLICT of the array whose scratchpad it reads, and where the port that
serves a member loses one, or a ring stalls it (R143), the member's load in progress takes a clock more. -/
def loseAccess (w : ItemRun) (d : TileDesc) (t : Nat) (lost : List (Nat × Nat)) (heldLost : List Nat) (s : State) (i : Nat) : State :=
  let b := arrId (w.leader + i)
  let n := if b ∈ feedSources w d then (lost.filter (fun p => p.1 == i)).length else 0
  let h := if b ∈ holdSources w d then heldLost.count i else 0
  let u := arr s b
  let src := holdSource w d b
  let slow := heldLost.contains (src.val - w.leader) || unitStalled (arr s src) 1
  let late (l : HeldLoad) : HeldLoad := if slow ∧ t < l.ready then { l with ready := l.ready + 1 } else l
  regBump (setArr s b { u with loads := u.loads.map late }) (spReg b.val 0x20) (n + h)

/-- Whether row 0 of every member of a gang holds the segment of a step (R81, R97). -/
def gangHolds (s : State) (w : ItemRun) (tile j : Nat) : Bool :=
  (gangArrays w).all (fun b => match ((arr s b).act[0]?).join with
    | some h => decide (h.tile = tile) && decide (h.step = j)
    | none => false)

/-- STEP_ISSUE (R81): one issue decision of row 0 of the gang led by `a`, in clock `t`; `lost` names what
loses a bank access in it (R131). The clocks before the tile's first held load
is complete are no decisions: R101 counts them in the tile's own schedule (DESIGN CHOICE, notes/assumptions/64.md). A clock that
the sluice withholds counts in neither stall counter; a missing entry, or feeders that a ring stalls, count in ARR_FEED_STALL, a
missing held segment, or a held load that a ring stalls, in ARR_HOLD_STALL, of every member (R97, R143). -/
def execStepIssue (a : ArrId) (t : Clk) (lost : StepLost) (s : State) : Host.Outcome State Fault Refusal :=
  let u := arr s a
  match arrItem s a, u.cur with
  | some w, some c =>
    let d := c.desc
    if w.leader ≠ a.val ∨ w.halted ≠ 0 ∨ u.st = .fallow ∨ tileIssues d ≤ c.issued ∨ t < c.start then .next s
    else
      let feeders := (lost.feeders.map (fun p => (p.1.val, p.2.val))).filter (fun p => decide (p.1 < w.width))
      let s := (List.range w.width).foldl (loseAccess w d t feeders (lost.held.map (·.val))) s
      match beginGang w a t s with
      | .error (b, h) => .next (slotFault s b h 1 t c.idx)
      | .ok s =>
      match feedGang w d c.idx t feeders s with
      | .error (b, h) => .next (slotFault s b h 0 t c.idx)
      | .ok s =>
        if c.issued = 0 ∧ t < c.start + holdClk d then .next s
        else if ¬ sluicePermits (gangSluice s w) t then
          .next ((gangArrays w).foldl (fun s b => setArr s b { arr s b with st := .stalled }) s)
        else
          let j := c.issued / stepClk d
          let held : Bool := gangHolds s w c.idx j && !(holdSources w d).any (fun b => unitStalled (arr s b) 1)
          let queued := (feedSources w d).all (fun b => rowsQueued (arr s b) d c.idx c.issued && !unitStalled (arr s b) 0)
          if !(held && queued) then
            .next ((gangArrays w).foldl (fun s b =>
              let s := setArr s b { arr s b with st := .stalled }
              let s := regBump s (arrReg b.val 0x28) (b2n (!queued))
              regBump s (arrReg b.val 0x30) (b2n (!held))) s)
          else
            let s := (gangArrays w).foldl (issueOn w t j (issueElems d (c.issued % stepClk d))) s
            .next ((feedSources w d).foldl (fun s b => setArr s b (takeEntries c.idx c.issued t (arr s b))) s)
  | _, _ => .next s

/-! ### CHUNK_UPDATE -/

/-- The oldest step of a row that has its held segments, and the pipeline without it. -/
def takeRow (row : Nat) : List RowStep → Option (RowStep × List RowStep)
  | [] => none
  | p :: r =>
    if p.row = row then (if p.held.isSome then some (p, r) else none)
    else match takeRow row r with
      | some (q, r') => some (q, p :: r')
      | none => none

/-- What a cell's update gives: the cell, the NaNs that arose, and the events. -/
structure CellOut where
  cell : AccCell
  nans : List NanAt
  ev   : Ev
  deriving DecidableEq, Repr

/-- One cell's update by one step (R106, R109, R110, R112): `last` is whether the step ends its pass. -/
def updateCell (p : RowStep) (last : Bool) (c : AccCell) (h : Segment) : CellOut :=
  let d := p.desc
  if isInt d.aFmt then
    let r := intAdd c (intStep d.aFmt d.bFmt p.fed.elems h.elems)
    { cell := r.1, nans := [], ev := if r.2 then { intSat := 1 } else {} }
  else
    let parts := passParts d.mpass p.pass
    let sc := fun (fmt : Nat) (xs : List Nat) => if fmt = 0 then [Num.fin false 1 0, Num.fin false 1 0] else xs.map (decodeScale fmt)
    let r := cellStep (tileBlk d) (p.fed.elems.map (passVal d.aFmt parts.1)) (h.elems.map (passVal d.bFmt parts.2))
      (sc d.aScl p.fed.scales) (sc d.bScl h.scales)
    let x := chunkAdd c r.1
    let y := if (p.step + 1) % d.promo = 0 ∨ last then promote x.1 else (x.1, false)
    { cell := y.1
      nans := r.2.1 ++ (if x.2 then [{ stage := 4, lane := 0, level := 0, side := 0 : NanAt }] else [])
        ++ (if y.2 then [{ stage := 5, lane := 0, level := 0, side := 0 : NanAt }] else [])
      ev := r.2.2 }

/-- The updates of a row's cells, column 0 first. -/
def updateCells (p : RowStep) (last : Bool) (cs : List AccCell) (hs : List Segment) : List CellOut :=
  (cs.zip hs).map (fun x => updateCell p last x.1 x.2)

/-- Events of a row's cells added. -/
def evSum (xs : List CellOut) : Ev := xs.foldl (fun e x => evAdd e x.ev) {}

/-- The trap events of a row's cells (R122, R123). A NaN that is fed enters the arithmetic of each of the row's 64 cells and so arises
once in each of them (DESIGN CHOICE, notes/assumptions/60.md). -/
def rowNans (p : RowStep) : (col : Nat) → List CellOut → List NanEvent
  | _, [] => []
  | col, x :: r =>
    x.nans.map (fun n =>
      { clk := p.issue + nanDelay n.stage, row := p.row, col := col, at_ := n, step := p.step, m := 16 * p.elem + p.row
        pass := if p.desc.mpass = 0 then 0 else p.pass, tile := p.tile : NanEvent })
    ++ rowNans p (col + 1) r

/-- CHUNK_UPDATE (R109): the oldest step of row `row` enters the chunk register of its element in each of the row's 64
cells, and is promoted when the interval or the pass ends. -/
def execChunkUpdate (a : ArrId) (row : Fin 16) (s : State) : Host.Outcome State Fault Refusal :=
  let u := arr s a
  match takeRow row.val u.pipe with
  | none => .next s
  | some (p, rest) =>
    let ent := passEntry p.desc p.elem p.pass
    let outs := updateCells p (decide (p.step + 1 = p.desc.kSteps)) (accCells u row.val ent) (p.held.getD [])
    let s := setArr s a (setAcc { u with pipe := rest } row.val ent (outs.map (·.cell)))
    let s := countOs s a (evSum outs)
    .next (nanTrap s a (rowNans p 0 outs))

/-! ### DRAIN, OUTPUT_ROW and OUTPUT_ROW_WRITE -/

/-- DRAIN (R85): the oldest tile whose issue has ended and whose drain has not begun begins it, once its drain clock has come and no
step of it is in the pipeline, whatever other tile drains. -/
def execDrain (a : ArrId) (t : Clk) (s : State) : Host.Outcome State Fault Refusal :=
  let u := arr s a
  match findIdxFrom (fun x => x.started.isNone) u.drains 0 with
  | some (i, x) =>
    if x.due ≤ t ∧ u.pipe.all (fun p => p.tile != x.idx) then
      .next (setArr s a (restUnit { u with drains := u.drains.set i { x with started := some t } }))
    else .next s
  | none => .next s

/-- T of a tile (R65), in FP32; none where no operand carries a tensor scale. The compatibility layout has none (R61): an enable bit of
such an operand is legal under R99 and its scale stands as 1.0 (DESIGN CHOICE, notes/assumptions/62.md). -/
def tensorT (d : TileDesc) : Option Lane32 :=
  let ea := d.tsAEn && d.aScl != 0xE
  let eb := d.tsBEn && d.bScl != 0xE
  if ea || eb then some (fmul (if ea then d.tscaleA else 0x3F800000#32) (if eb then d.tscaleB else 0x3F800000#32)) else none

/-- The mask word of output row m: all ones without a mask (R92); none where the mask buffer lacks the word. -/
def maskWord (u : ArrayUnit) (d : TileDesc) (m : Nat) : Option Nat :=
  if d.maskSrc = 1 then some (spadNum u (d.maskBase + 8 * m) 8)
  else if d.maskSrc = 2 then
    (u.maskBuf.find? (fun x => x.1 == u.maskUsed && x.2.1 == m)).map (·.2.2)
  else some (2 ^ 64 - 1)

/-- What the output stage makes of one element (R117): the code, stat_in, events, and the NaN stages. -/
structure OutElem where
  code : Nat
  stat : Lane32
  ev   : Ev
  nans : List Nat
  deriving DecidableEq, Repr

/-- output_element of R117; a masked element never counts OVF (R121). -/
def outputElement (d : TileDesc) (T : Option Lane32) (kept : Bool) (e0 e1 : AccCell) : OutElem :=
  if isInt d.aFmt then
    let v0 : Int := (e0.total.getD 0).toInt
    let v : Int := if kept then v0 else if d.maskFill then -2147483648 else 0
    let o := convTo d.outFmt d.sat (numOfInt v)
    { code := o.1, stat := fp32Enc (numOfInt v), ev := if kept then o.2 else { o.2 with ovf := 0 }, nans := [] }
  else
    let t0 := e0.total.getD 0
    let v1 := if d.mpass = 3 then fadd t0 (e1.total.getD 0) else t0
    let n6 := decide (d.mpass = 3) && isNan (fp32Val v1) && !isNan (fp32Val t0) && !isNan (fp32Val (e1.total.getD 0))
    let v2 := match T with
      | some x => fmul v1 x
      | none => v1
    let n7 := match T with
      | some x => isNan (fp32Val v2) && !isNan (fp32Val v1) && !isNan (fp32Val x)
      | none => false
    let v3 : Lane32 := if kept then v2 else if d.maskFill then 0xFF800000#32 else 0
    let o := if d.outFmt = 1 then (v3.toNat, ({} : Ev)) else convTo d.outFmt d.sat (fp32Val v3)
    { code := o.1, stat := v3, ev := if kept then o.2 else { o.2 with ovf := 0 }, nans := (if n6 then [6] else []) ++ (if n7 then [7] else []) }

/-- A pairwise tree of fp32_rne additions, by halving levels (R118). -/
def sumLevel : List Lane32 → List Lane32
  | x :: y :: r => fadd x y :: sumLevel r
  | r => r

/-- The tree over at most two to the `n` values. -/
def treeSum : (n : Nat) → List Lane32 → Lane32
  | 0, xs => nthD 0 xs 0
  | n + 1, xs => treeSum n (sumLevel xs)

/-- Maximum of a row under R66. -/
def rowMax : List Lane32 → Lane32
  | [] => 0
  | [x] => fp32Enc (fp32Val x)
  | x :: r => fp32Enc (numMax (fp32Val x) (fp32Val (rowMax r)))

/-- The statistics that FUSE selects (R118). -/
def rowStats (fuse : Nat) (xs : List Lane32) : List (Option Lane32) :=
  [ if bitAt fuse 0 then some (rowMax xs) else none
  , if bitAt fuse 1 then some (treeSum 6 xs) else none
  , if bitAt fuse 2 then some (treeSum 6 (xs.map (fun x => fmul x x))) else none ]

/-- The trap events of an output row (R123). -/
def outNans (d : TileDesc) (tile m t : Nat) : (col : Nat) → List OutElem → List NanEvent
  | _, [] => []
  | col, x :: r =>
    x.nans.map (fun g =>
      { clk := t, row := m % 16, col := col, at_ := { stage := g, lane := 0, level := 0, side := 0 }, step := 0, m := m
        pass := 0, tile := tile : NanEvent }) ++ outNans d tile m t (col + 1) r

/-- The NaN that arises in forming T, at the tile's first fed row (R123); integer tiles form none (R117, R122). -/
def tensorNan (d : TileDesc) (tile m t : Nat) : List NanEvent :=
  match tensorT d with
  | some x =>
    if !isInt d.aFmt ∧ isNan (fp32Val x) ∧ (fedRows d).head? = some m then
      [{ clk := t, row := m % 16, col := 0, at_ := { stage := 7, lane := 0, level := 0, side := 0 }, step := 0, m := m
         pass := 0, tile := tile : NanEvent }]
    else []
  | none => []

/-- Visible key test of R182 for a query token t and a key, in a slot: mode 0 causal, 1 tree, 2 prefix keys. -/
def maskVisible (g : MgenSlot) (mode t key : Nat) : Bool :=
  let pos := fun (i : Nat) => g.prefixLen + (if g.tree then nthD 0 g.depth i else i)
  if mode = 2 then
    decide (t < g.tokens) && decide (key < g.prefixLen) && (g.window == 0 || decide (pos t < key + g.window))
  else
    decide (t < g.tokens) && decide (key < g.tokens)
    && (if mode = 1 then
          decide (nthD 0 g.pre key ≤ nthD 0 g.pre t) && decide (nthD 0 g.pre t < nthD 0 g.pre key + nthD 0 g.size key)
        else decide (key ≤ t))
    && (g.window == 0 || decide (pos t < pos key + g.window))

/-- The mask word of output row m for a command (R92, R182, R183). -/
def maskWordOf (g : MgenSlot) (c : MaskCmd) (m : Nat) : Nat :=
  sumN ((List.range 64).map (fun col => if maskVisible g c.mode (c.q0 + m / 2 ^ c.qshift) (c.k0 + col) then 2 ^ col else 0))

/-- MGEN fills an array's mask buffer up to clock `t` in command order, from 40 clk after a command, at 4 words a clock and while the
buffer holds fewer than 256 (R184), with the words delivered; each step delivers one word or ends a command. -/
def fillMasksN (mg : Vector MgenSlot 8) (t : Nat) : (fuel : Nat) → ArrayUnit → ArrayUnit × Nat
  | 0, u => (u, 0)
  | f + 1, u =>
    match u.maskq with
    | [] => (u, 0)
    | c :: rest =>
      let q := Nat.max u.maskAt (4 * (c.at_ + 40))
      if nthD 0 u.maskRows c.no ≤ c.next then fillMasksN mg t f { u with maskq := rest }
      else if 256 ≤ u.maskBuf.length ∨ 4 * t + 3 < q then (u, 0)
      else
        let w := maskWordOf mg[Fin.ofNat 8 c.slot] c c.next
        let r := fillMasksN mg t f { u with
          maskAt := q + 1, maskBuf := u.maskBuf ++ [(c.no, c.next, w)], maskq := { c with next := c.next + 1 } :: rest }
        (r.1, r.2 + 1)

/-- MGEN fills what is due and what there is room for. -/
def fillMasks (mg : Vector MgenSlot 8) (t : Nat) (u : ArrayUnit) : ArrayUnit × Nat := fillMasksN mg t (258 + u.maskq.length) u

/-- The first command from number `n` on whose tile has output rows: a tile that is not drained takes its command and no words
(DESIGN CHOICE, notes/assumptions/72.md). -/
def nextMask (rows : List Nat) (n : Nat) : Nat := n + ((rows.drop n).takeWhile (· == 0)).length

/-- After output row m, the entries of its element are FREE when all 16 rows have reached the output stage, and the
drain ends with the tile's last row (R115). -/
def afterRow (u0 : ArrayUnit) (x : DrainRun) (m t : Nat) : ArrayUnit :=
  let u := if x.desc.maskSrc = 2 then
      { u0 with
        maskBuf := u0.maskBuf.filter (fun y => !(y.1 == u0.maskUsed && y.2.1 == m))
        maskAt := if 256 ≤ u0.maskBuf.length then Nat.max u0.maskAt (4 * t) else u0.maskAt
        maskUsed := if m + 1 = 16 * tileE x.desc then nextMask u0.maskRows (u0.maskUsed + 1) else u0.maskUsed }
    else u0
  let d := x.desc
  let n := tileN d
  let es := (List.range n).map (fun i => (d.accBase + n * (m / 16) + i) % 16)
  let u1 := if m % 16 = 15 then
      { setEnts (clearAcc u es) es .free with entTile := u.entTile.filter (fun p => !es.contains p.1) }
    else u
  let drains := if m + 1 = 16 * tileE d then u1.drains.drop 1 else u1.drains.set 0 { x with nextRow := m + 1 }
  (restUnit { u1 with drains := drains, outAt := t + 1 })

/-- OUTPUT_ROW (R117): the next output row of the oldest tile that drains reaches the output stage at clock `t`, 12 clk after its drain
began for row 0 and one row a clock (R84). Where two drains would send rows in the same clock, those of the later tile follow the
last row of the earlier one (DESIGN CHOICE, notes/assumptions/63.md). A row that is not fed produces nothing. A mask word that is absent is a slot fault of kind UNFILLED_READ (R184, R208). -/
def execOutputRow (a : ArrId) (t : Clk) (s : State) : Host.Outcome State Fault Refusal :=
  match (arr s a).drains with
  | x :: _ =>
    match x.started with
    | none => .next s
    | some t0 =>
      let d := x.desc
      let m := x.nextRow
      if t < t0 + 12 + m ∨ t < (arr s a).outAt ∨ 8 ≤ (arr s a).outq.length then .next s
      else
        let r := fillMasks s.mgen t (arr s a)
        let u := r.1
        let s := regBump (setArr s a u) (mgenReg 0x10) r.2
        if ¬ rowFed d (m % 16) (m / 16) then .next (setArr s a (afterRow u x m t))
        else
          let checked := if d.maskSrc = 1 then slotCheck u 2 false (d.maskBase + 8 * m) 8 else .ok u
          match checked, maskWord u d m with
          | .error h, _ => .next (slotFault s a h 2 t x.idx)
          | .ok _, none =>
            .next (slotFault (tickFree (regBump s (mgenReg 0x18) 1)) a
              { slot := (drawReg s).toNat % 64, kind := 0, fill := (drawReg s).toNat / 64 % 256, drain := (drawReg s).toNat / 2 ^ 14 % 256
                point := some (64, x.idx * 256 + m) } 2 t x.idx)
          | .ok u, some mw =>
            let T := tensorT d
            let c0 := accCells u (m % 16) (passEntry d (m / 16) 0)
            let c1 := accCells u (m % 16) (passEntry d (m / 16) 1)
            let outs := (List.range 64).map (fun c => outputElement d T (bitAt mw c) (nthD {} c0 c) (nthD {} c1 c))
            let row : OutRow :=
              { m := m, addr := d.outBase + m * d.outMStride, bytes := packElems d.outFmt (outs.map (·.code))
                stats := rowStats d.fuse (outs.map (·.stat)), tile := x.idx, clk := t + 4
                last := decide ((fedRows d).getLast? = some m) }
            let s := setArr s a (afterRow { u with outq := u.outq ++ [row] } x m t)
            let s := countOs s a (outs.foldl (fun e o => evAdd e o.ev) {})
            .next (nanTrap s a (tensorNan d x.idx m t ++ outNans d x.idx m t 0 outs))
  | [] => .next s

/-- The statistics entry of output row m after a row is written: unselected statistics keep their values (R119). -/
def statAfter (old : RowStat) (row : OutRow) : RowStat :=
  { max := (row.stats[0]?).join.getD old.max
    sum := (row.stats[1]?).join.getD old.sum
    sq := (row.stats[2]?).join.getD old.sq
    tag := some row.tile }

/-- OUTPUT_ROW_WRITE (R120): the oldest row of the output stage is written to the scratchpad, and its statistics entry
is written (R119); the bank accesses that it lost count in SP_CONFLICT (R131). -/
def execOutputRowWrite (x : ArrAccess) (s : State) : Host.Outcome State Fault Refusal :=
  let a := x.arr
  let u := arr s a
  match u.outq with
  | [] => .next s
  | row :: rest =>
    match slotCheck u 2 true row.addr row.bytes.length with
    | .error h => .next (slotFault s a h 2 row.clk row.tile)
    | .ok u =>
      let old := (lookupN row.m u.stats).getD { max := 0, sum := 0, sq := 0, tag := none }
      let s := setArr s a { u with outq := rest, stats := insertN row.m (statAfter old row) u.stats }
      let s := spadStore s a row.addr row.bytes
      .next (regBump (regBump s (arrReg a.val 0x130) 1) (spReg a.val 0x20) x.lost)

end Sys2Proof.Machine
end

