-- ==== Sys2Proof/Machine/Special.lean ====
section
/-! DEFINITION. The special functions of R170, each the exact value rounded once to FP32. RCP and RSQRT are integer
arithmetic with a sticky bit. The transcendental ones are enclosed in fixed point with 320 fraction bits and an error
far below 2 to the minus 300; the computed value is rounded, which gives the rounding of the exact one because no exact
value lies that close to a midpoint of FP32 (notes/assumptions/11.md). -/

namespace Sys2Proof.Machine

/-- 1 in fixed point. -/
def fxOne : Nat := 2 ^ 320
/-- pi in fixed point. -/
def fxPi : Nat := 6710401180212168915155840974220003240804194089427148950727106424351713218671805380099500388914039
/-- The natural logarithm of 2 in fixed point. -/
def fxLn2 : Nat := 1480553391661173448385607439722553250922680800745876974795605978609098082859138712941075737848984
/-- The exponential series from term `k` on. -/
def expTail : (fuel k t term : Nat) → Nat
  | 0, _, _, _ => 0
  | f + 1, k, t, term => term + expTail f (k + 1) t (term * t / (fxOne * (k + 1)))

/-- e to the t, for t below 1. -/
def expFx (t : Nat) : Nat := expTail 90 0 t fxOne

/-- The inverse hyperbolic tangent series from term `k` on. -/
def atanhTail : (fuel k w2 term : Nat) → Nat
  | 0, _, _, _ => 0
  | f + 1, k, w2, term => term / (2 * k + 1) + atanhTail f (k + 1) w2 (term * w2 / fxOne)

/-- Twice the inverse hyperbolic tangent of w, for w up to 1/3: the logarithm of (1 + w) / (1 - w). -/
def lnRatio (w : Nat) : Nat := 2 * atanhTail 110 0 (w * w / fxOne) w

/-- The FP32 value nearest to a magnitude in fixed point. -/
def fxRound (neg : Bool) (v : Nat) : Lane32 := fp32Enc (.fin neg v (-320))

/-- A finite magnitude in fixed point; exact for every FP32 value. -/
def fxOf (m : Nat) (e : Int) : Nat :=
  if 0 ≤ e + 320 then m * 2 ^ (e + 320).toNat else m / 2 ^ (-(e + 320)).toNat

/-- A number compared with an integer. -/
def geInt (x : Num) (i : Int) : Bool := numCmp x (numOfInt i) != .lt

/-- EXP2 (R170). -/
def sfExp2 (x : Num) : Lane32 :=
  match x with
  | .nan => nan32
  | .inf neg => if neg then 0 else 0x7F800000#32
  | .fin neg m e =>
    if geInt x 128 then 0x7F800000#32
    else if !geInt x (-200) then 0
    else
      let v := fxOf m e
      let n : Int := ((v / fxOne : Nat) : Int)
      let r := v % fxOne
      let up : Int := if r = 0 then 0 else 1
      let k : Int := if neg then -(n + up) else n
      let f := if neg then (if r = 0 then 0 else fxOne - r) else r
      if f = 0 then fp32Enc (.fin false 1 k)
      else fp32Enc (.fin false (expFx (f * fxLn2 / fxOne)) (k - 320))

/-- LOG2 (R170). -/
def sfLog2 (x : Num) : Lane32 :=
  match x with
  | .nan => nan32
  | .inf neg => if neg then nan32 else 0x7F800000#32
  | .fin neg m e =>
    if m = 0 then 0xFF800000#32
    else if neg then nan32
    else
      let l := bitLen m
      let k : Int := e + (l : Int) - 1
      let top := 2 ^ (l - 1)
      if m = top then fp32Enc (numOfInt k)
      else
        let w := (m - top) * fxOne / (m + top)
        let v : Int := k * fxOne + ((lnRatio w * fxOne / fxLn2 : Nat) : Int)
        fxRound (decide (v < 0)) v.natAbs

/-- RCP (R170): the quotient with a sticky bit, rounded once. -/
def sfRcp (x : Num) : Lane32 :=
  match x with
  | .nan => nan32
  | .inf neg => if neg then 0x80000000#32 else 0
  | .fin neg m e =>
    if m = 0 then (if neg then 0xFF800000#32 else 0x7F800000#32)
    else
      let k := bitLen m + 60
      let q := 2 ^ k / m
      let sticky := if q * m = 2 ^ k then 0 else 1
      fp32Enc (.fin neg (2 * q + sticky) (-e - (k : Int) - 1))

/-- The integer square root, bit by bit from bit `k` down. -/
def isqrtFrom : (k n r : Nat) → Nat
  | 0, n, r => if (r + 1) * (r + 1) ≤ n then r + 1 else r
  | k + 1, n, r =>
    let c := r + 2 ^ (k + 1)
    isqrtFrom k n (if c * c ≤ n then c else r)

/-- The integer square root. -/
def isqrt (n : Nat) : Nat := isqrtFrom (bitLen n / 2 + 1) n 0

/-- RSQRT (R170): the root of the quotient with a sticky bit, rounded once. -/
def sfRsqrt (x : Num) : Lane32 :=
  match x with
  | .nan => nan32
  | .inf neg => if neg then nan32 else 0
  | .fin neg m e =>
    if m = 0 then (if neg then 0xFF800000#32 else 0x7F800000#32)
    else if neg then nan32
    else
      let odd := e % 2 ≠ 0
      let m' := if odd then 2 * m else m
      let e' := if odd then e - 1 else e
      let k := bitLen m' + 60
      let q := isqrt (2 ^ (2 * k) / m')
      let sticky := if q * q * m' = 2 ^ (2 * k) then 0 else 1
      fp32Enc (.fin false (2 * q + sticky) (-(e' / 2) - (k : Int) - 1))

/-- e to the minus a, for a magnitude a below 400, in fixed point. -/
def expNegFx (m : Nat) (e : Int) : Nat :=
  let a := fxOf m e
  (fxOne * fxOne / expFx (a % fxLn2)) / 2 ^ (a / fxLn2)

/-- SIGM (R170). -/
def sfSigm (x : Num) : Lane32 :=
  match x with
  | .nan => nan32
  | .inf neg => if neg then 0 else 0x3F800000#32
  | .fin neg m e =>
    if geInt x 200 then 0x3F800000#32
    else if !geInt x (-200) then 0
    else
      let v := expNegFx m e
      fxRound false ((if neg then v else fxOne) * fxOne / (fxOne + v))

/-- TANH (R170). Up to 2 to the minus 13 the exact value lies within half an ulp of x. -/
def sfTanh (x : Num) : Lane32 :=
  match x with
  | .nan => nan32
  | .inf neg => if neg then 0xBF800000#32 else 0x3F800000#32
  | .fin neg m e =>
    let a := Num.fin false m e
    if numCmp a (.fin false 1 (-13)) != .gt then fp32Enc x
    else if geInt a 60 then (if neg then 0xBF800000#32 else 0x3F800000#32)
    else
      let v := expNegFx m (e + 1)
      fxRound neg ((fxOne - v) * fxOne / (fxOne + v))

/-- The sine and cosine series together: the sums of the odd and even terms with alternating signs. -/
def trigTail : (fuel k t term : Nat) → Int × Int
  | 0, _, _, _ => (0, 0)
  | f + 1, k, t, term =>
    let r := trigTail f (k + 1) t (term * t / (fxOne * (k + 1)))
    let v : Int := if k / 2 % 2 = 0 then (term : Int) else -(term : Int)
    if k % 2 = 0 then (r.1, r.2 + v) else (r.1 + v, r.2)

/-- Sine and cosine of 2 pi times p over 2 to the 32 (R170, R178), each rounded once; where the exact value is 0, 1 or
-1 that value, zeros positive. -/
def sfSinCos (p : Nat) : Lane32 × Lane32 :=
  let q := p / 2 ^ 30 % 4
  let r := p % 2 ^ 30
  let one : Int := fxOne
  let sc : Int × Int := if r = 0 then (0, one) else trigTail 100 0 (r * (2 * fxPi) / 2 ^ 32) fxOne
  let s := sc.1
  let c := sc.2
  let out : Int × Int := if q = 0 then (s, c) else if q = 1 then (c, -s) else if q = 2 then (-s, -c) else (-c, s)
  (fxRound (decide (out.1 < 0)) out.1.natAbs, fxRound (decide (out.2 < 0)) out.2.natAbs)

end Sys2Proof.Machine
end

