-- ==== Sys2Proof/Machine/Vector.lean ====
section
/-! DEFINITION. The vector engine (06_vector_attention.md, R163 to R187) and the mask generator's loads: one meaning per
vector instruction but CLD, which stands with the memory paths in Machine/Fetch.lean. Registers are 512 lanes of 32
bits; a command executes the next instruction of the array's stream, whose operands are read and whose results are
written in one step, since the loader refuses a stream that reads or writes a register in flight (R164). -/

namespace Sys2Proof.Machine

/-- A vector register's value. -/
abbrev VReg := Vector Lane32 512

/-- A register of an array's vector engine. -/
def vget (u : ArrayUnit) (r : Fin 32) : VReg := u.vregs[r]

/-- A register from a function of its lanes. -/
def vmk (f : Nat → Lane32) : VReg := Vector.ofFn (fun i => f i.val)

/-- A lane; beyond the register 0. -/
def lane (v : VReg) (i : Nat) : Lane32 := if h : i < 512 then v[i] else 0

/-- The second source: a register or the broadcast immediate (R168). -/
def srcB (u : ArrayUnit) (v : VInstr) : VReg :=
  if v.bimm then Vector.replicate 512 (v.ext.setWidth 32) else vget u v.vb

/-- What an instruction does: its register writes, counted events, special-function results, and issue interval. -/
structure VOut where
  writes : List (Fin 32 × VReg) := []
  ev     : Ev := {}
  sf     : Nat := 0
  issue  : Nat := 1
  deriving DecidableEq, Repr

/-- An array's next instruction may issue: its stream has one, its engine runs a work item that is not stopped, the preamble has ended,
and no ring operation holds the engine (R141, R143, R164). -/
def veReady (s : State) (a : ArrId) : Bool :=
  (arr s a).ve == .running && !(arr s a).preamble && decide ((arr s a).vpos < (arr s a).vlen) && !unitStalled (arr s a) 3
    && (match arrItem s a with
        | some w => w.halted == 0
        | none => false)

/-- Registers written in order. -/
def vwrites (rs : Vector VReg 32) (ws : List (Fin 32 × VReg)) : Vector VReg 32 :=
  ws.foldl (fun m w => m.set w.1 w.2) rs

/-- The engine after an issued instruction: registers, stream position, and the counters of R188. After the last instruction of its
stream it is IDLE (notes/assumptions/71.md). -/
def vfinish (s : State) (a : ArrId) (v : VInstr) (o : VOut) : State :=
  let u := arr s a
  let s := setArr s a { u with
    vregs := vwrites u.vregs o.writes
    vpos := u.vpos + 1
    ve := if u.vpos + 1 = u.vlen then .idle else u.ve
    veClk := u.veClk + v.gap.toNat + o.issue }
  let s := regBump s (veReg a.val 0x08) 1
  let s := regBump s (veReg a.val 0x10) o.sf
  let s := regBump s (veReg a.val 0x28) o.ev.ovf
  let s := regBump s (veReg a.val 0x30) o.ev.nanLost
  let s := regBump s (veReg a.val 0x38) o.ev.intSat
  let s := regBump s (veReg a.val 0x40) o.ev.nan
  let s := if o.writes.isEmpty then s else disarm s 3 a.val
  stickItem s u.item (evSticky o.ev)

/-- The clock at which the next instruction issues (R164). -/
def veIssueClk (u : ArrayUnit) (v : VInstr) : Nat := u.veClk + v.gap.toNat

/-- An instruction whose form the manual does not permit reaches the engine: a schedule fault (R44, R209) at the
instruction's place in the stream. -/
def vIllegal (s : State) (a : ArrId) (v : VInstr) : State :=
  match arrItem s a with
  | some w => schedFault s w (20, (arr s a).vpos, 0) 0 0 (veIssueClk (arr s a) v) a.val
  | none => s

/-- The frame of every instruction: nothing while the engine may not issue, a schedule fault on a form that is not
permitted, else the instruction's effect. -/
def vRun (s : State) (a : ArrId) (v : VInstr) (legal : Bool) (o : ArrayUnit → VOut) : Host.Outcome State Fault Refusal :=
  if !veReady s a then .next s
  else if !legal then .next (vIllegal s a v)
  else .next (vfinish s a v (o (arr s a)))

/-! ### Lane arithmetic -/

/-- Events of a list of lane results. -/
def evList (xs : List (Lane32 × Ev)) : Ev := xs.foldl (fun e x => evAdd e x.2) {}

/-- A register and the events of a lane-wise operation. -/
def vlanes (f : Nat → Lane32 × Ev) : VReg × Ev :=
  (vmk (fun i => (f i).1), evList ((List.range 512).map f))

/-- An FP32 result with the NaN that arises, from inputs of which none is NaN (R122, R166). -/
def fpOut (r : Lane32) (ins : List Lane32) : Lane32 × Ev :=
  (r, if isNan (fp32Val r) && ins.all (fun x => !isNan (fp32Val x)) then { nan := 1 } else {})

/-- An INT32 result clamped, with INT_SAT (R166). -/
def intOut (i : Int) : Lane32 × Ev :=
  let c := clampInt 32 i
  (BitVec.ofInt 32 c.1, if c.2 then { intSat := 1 } else {})

/-- A BF16 result rounded once (R167). -/
def bfOut (sat : Bool) (r : Num) (ins : List Num) : Nat × Ev :=
  let c := convFF ffBf16 sat r
  (c.1, evAdd c.2 (if isNan r && ins.all (fun x => !isNan x) then { nan := 1 } else {}))

/-- The two BF16 elements of a lane (R167). -/
def bfHalves (x : Lane32) : Num × Num := (decodeFF ffBf16 (x.toNat % 65536), decodeFF ffBf16 (x.toNat / 65536))

/-- A lane of packed BF16 results from an exact operation on its elements; the lane counts one NaN, whichever of them it arises in
(R166). -/
def bfLane (sat : Bool) (f : Num → Num → Num → Num) (used : Nat) (x y z : Lane32) : Lane32 × Ev :=
  let a := bfHalves x
  let b := bfHalves y
  let c := bfHalves z
  let ins := fun (p q r : Num) => [p, q, r].take used
  let lo := bfOut sat (f a.1 b.1 c.1) (ins a.1 b.1 c.1)
  let hi := bfOut sat (f a.2 b.2 c.2) (ins a.2 b.2 c.2)
  let ev := evAdd lo.2 hi.2
  (BitVec.ofNat 32 (hi.1 * 65536 + lo.1), { ev with nan := Nat.min 1 ev.nan })

/-- One lane of a three-source arithmetic operation: exact on values, rounded once in FP32 or BF16, saturating in INT32
(R166, R167). `used` is how many sources it reads. -/
def arithLane (v : VInstr) (used : Nat) (f : Num → Num → Num → Num) (g : Int → Int → Int) (x y z : Lane32) : Lane32 × Ev :=
  if v.dt = 1 then fpOut (fp32Enc (f (fp32Val x) (fp32Val y) (fp32Val z))) ([x, y, z].take used)
  else if v.dt = 2 then bfLane v.sat f used x y z
  else intOut (g x.toInt y.toInt)

/-- A lane-wise arithmetic instruction. -/
def arithOut (v : VInstr) (used : Nat) (f : Num → Num → Num → Num) (g : Int → Int → Int) (u : ArrayUnit) : VOut :=
  let a := vget u v.va
  let b := srcB u v
  let c := vget u v.vc
  let r := vlanes (fun i => arithLane v used f g (lane a i) (lane b i) (lane c i))
  { writes := [(v.vd, r.1)], ev := r.2 }

/-- Whether DT is one of some codes. -/
def dtIn (v : VInstr) (cs : List Nat) : Bool := cs.contains v.dt.toNat

/-- NOP (R169): nothing but its place in the stream. -/
def execNop (a : ArrId) (v : VInstr) (s : State) : Host.Outcome State Fault Refusal :=
  vRun s a v true (fun _ => {})

/-- ADD (R166, R169): VA + VB. -/
def execAdd (a : ArrId) (v : VInstr) (s : State) : Host.Outcome State Fault Refusal :=
  vRun s a v (dtIn v [1, 2, 0xA]) (arithOut v 2 (fun x y _ => numAdd x y) (· + ·))

/-- SUB (R169): VA - VB. -/
def execSub (a : ArrId) (v : VInstr) (s : State) : Host.Outcome State Fault Refusal :=
  vRun s a v (dtIn v [1, 2, 0xA]) (arithOut v 2 (fun x y _ => numAdd x (numNeg y)) (· - ·))

/-- MUL (R169): VA times VB. -/
def execMul (a : ArrId) (v : VInstr) (s : State) : Host.Outcome State Fault Refusal :=
  vRun s a v (dtIn v [1, 2, 0xA]) (arithOut v 2 (fun x y _ => numMul x y) (· * ·))

/-- FMA (R166, R169): VA times VB plus VC, rounded once. -/
def execFma (a : ArrId) (v : VInstr) (s : State) : Host.Outcome State Fault Refusal :=
  vRun s a v (dtIn v [1, 2]) (arithOut v 3 (fun x y z => numAdd (numMul x y) z) (fun x _ => x))

/-- MAX (R66, R169). -/
def execMax (a : ArrId) (v : VInstr) (s : State) : Host.Outcome State Fault Refusal :=
  vRun s a v (dtIn v [1, 2, 0xA]) (arithOut v 2 (fun x y _ => numMax x y) (fun x y => if x < y then y else x))

/-- MIN (R66, R169). -/
def execMin (a : ArrId) (v : VInstr) (s : State) : Host.Outcome State Fault Refusal :=
  vRun s a v (dtIn v [1, 2, 0xA]) (arithOut v 2 (fun x y _ => numMin x y) (fun x y => if x < y then x else y))

/-- MAXNUM (R66, R169). -/
def execMaxnum (a : ArrId) (v : VInstr) (s : State) : Host.Outcome State Fault Refusal :=
  vRun s a v (dtIn v [1, 2]) (arithOut v 2 (fun x y _ => numMaxNum x y) (fun x _ => x))

/-- MINNUM (R66, R169). -/
def execMinnum (a : ArrId) (v : VInstr) (s : State) : Host.Outcome State Fault Refusal :=
  vRun s a v (dtIn v [1, 2]) (arithOut v 2 (fun x y _ => numMinNum x y) (fun x _ => x))

/-- Comparison of one lane (R169): AUX 0 LT, 1 LE, 2 EQ, 3 NE; NaN gives 0, but 1 for NE. -/
def cmpLane (v : VInstr) (x y : Lane32) : Lane32 :=
  let k := v.aux.toNat % 4
  let o := if v.dt = 1 then numCmp (fp32Val x) (fp32Val y) else compare x.toInt y.toInt
  let un := decide (v.dt = 1) && (isNan (fp32Val x) || isNan (fp32Val y))
  let r :=
    if un then decide (k = 3)
    else if k = 0 then o == .lt
    else if k = 1 then o != .gt
    else if k = 2 then o == .eq
    else o != .eq
  if r then 1 else 0

/-- CMP (R169). -/
def execCmp (a : ArrId) (v : VInstr) (s : State) : Host.Outcome State Fault Refusal :=
  vRun s a v (dtIn v [1, 0xA]) (fun u =>
    { writes := [(v.vd, vmk (fun i => cmpLane v (lane (vget u v.va) i) (lane (srcB u v) i)))] })

/-- Formats in the vector engine column of R43. -/
def isVecFmt (c : Nat) : Bool := decide (1 ≤ c) && decide (c ≤ 15) && c != 4

/-- SEL (R43, R169): VA where VC is not 0, else VB, bits copied. -/
def execSel (a : ArrId) (v : VInstr) (s : State) : Host.Outcome State Fault Refusal :=
  vRun s a v (isVecFmt v.dt.toNat) (fun u =>
    { writes := [(v.vd, vmk (fun i =>
        if lane (vget u v.vc) i ≠ 0 then lane (vget u v.va) i else lane (srcB u v) i))] })

/-- The sign operations of one lane (R169): a NaN gives the canonical NaN. -/
def signLane (neg : Bool) (x : Lane32) : Lane32 :=
  if isNan (fp32Val x) then nan32
  else if neg then x ^^^ 0x80000000#32 else x &&& 0x7FFFFFFF#32

/-- SIGN (R169): AUX bit 0 selects ABS or NEG. -/
def execSign (a : ArrId) (v : VInstr) (s : State) : Host.Outcome State Fault Refusal :=
  vRun s a v (dtIn v [1]) (fun u =>
    { writes := [(v.vd, vmk (fun i => signLane (v.aux.getLsbD 0) (lane (vget u v.va) i)))] })

/-! ### Packed elements in registers -/

/-- A register as one number, lane 0 in the low bits. -/
def regNat (v : VReg) : Nat := packNat 32 (v.toList.map (·.toNat))

/-- A register from one number. -/
def natReg (n : Nat) : VReg := vmk (fun i => BitVec.ofNat 32 (n / 2 ^ (32 * i)))

/-- Element `i` of a format packed in a register (R168). -/
def regElem (code n i : Nat) : Nat := n / 2 ^ (fmtBits code * i) % 2 ^ fmtBits code

/-- Lanes of the destination in which a NaN arises when elements are converted to format `e` (R122, R166): a NaN from a source that is
none, as an overflow of E4M3 gives (R55). -/
def cvtNans (e : Nat) (rs : List (Num × Nat)) : Nat :=
  ((rs.zipIdx.filter (fun x => isNan (decodeNum e x.1.2) && !isNan x.1.1)).map (fun x => x.2 * fmtBits e / 32)).dedup.length

/-- CVT (R54 to R59, R168, R169): as many elements as both formats have in a register are converted; the remaining bits
are 0. -/
def execCvt (a : ArrId) (v : VInstr) (s : State) : Host.Outcome State Fault Refusal :=
  let d := v.dt.toNat
  let e := v.dt2.toNat
  vRun s a v (isVecFmt d && isVecFmt e) (fun u =>
    let n := regNat (vget u v.va)
    let count := Nat.min (16384 / fmtBits d) (16384 / fmtBits e)
    let xs := (List.range count).map (fun i => decodeNum d (regElem d n i))
    let rs := xs.map (convTo e v.sat)
    let ev : Ev := rs.foldl (fun x r => evAdd x r.2) {}
    { writes := [(v.vd, natReg (packNat (fmtBits e) (rs.map (·.1))))]
      ev := { ev with nan := ev.nan + cvtNans e (xs.zip (rs.map (·.1))) } })

/-- LOGIC of one lane (R169). -/
def logicLane (k : Nat) (x y : Lane32) : Lane32 :=
  let sh := y.toNat % 32
  match k with
  | 0 => x &&& y
  | 1 => x ||| y
  | 2 => x ^^^ y
  | 3 => x <<< sh
  | 4 => x >>> sh
  | _ => x.sshiftRight sh

/-- LOGIC (R169). -/
def execLogic (a : ArrId) (v : VInstr) (s : State) : Host.Outcome State Fault Refusal :=
  let k := v.aux.toNat % 8
  vRun s a v (dtIn v [0xA] && decide (k ≤ 5)) (fun u =>
    { writes := [(v.vd, vmk (fun i => logicLane k (lane (vget u v.va) i) (lane (srcB u v) i)))] })

/-! ### Special functions -/

/-- A special function on every lane (R170). -/
def sfOut (f : Num → Lane32) (v : VInstr) (u : ArrayUnit) : VOut :=
  let a := vget u v.va
  let r := vlanes (fun i => fpOut (f (fp32Val (lane a i))) [lane a i])
  { writes := [(v.vd, r.1)], ev := r.2, sf := 512, issue := 2 }

/-- EXP2 (R170). -/
def execExp2 (a : ArrId) (v : VInstr) (s : State) : Host.Outcome State Fault Refusal :=
  vRun s a v (dtIn v [1]) (sfOut sfExp2 v)

/-- LOG2 (R170). -/
def execLog2 (a : ArrId) (v : VInstr) (s : State) : Host.Outcome State Fault Refusal :=
  vRun s a v (dtIn v [1]) (sfOut sfLog2 v)

/-- RCP (R170). -/
def execRcp (a : ArrId) (v : VInstr) (s : State) : Host.Outcome State Fault Refusal :=
  vRun s a v (dtIn v [1]) (sfOut sfRcp v)

/-- RSQRT (R170). -/
def execRsqrt (a : ArrId) (v : VInstr) (s : State) : Host.Outcome State Fault Refusal :=
  vRun s a v (dtIn v [1]) (sfOut sfRsqrt v)

/-- SIGM (R170). -/
def execSigm (a : ArrId) (v : VInstr) (s : State) : Host.Outcome State Fault Refusal :=
  vRun s a v (dtIn v [1]) (sfOut sfSigm v)

/-- TANH (R170). -/
def execTanh (a : ArrId) (v : VInstr) (s : State) : Host.Outcome State Fault Refusal :=
  vRun s a v (dtIn v [1]) (sfOut sfTanh v)

/-- The guarded exponent of R174. -/
def expdLane (x m : Lane32) : Lane32 :=
  if isNan (fp32Val x) || isNan (fp32Val m) then nan32
  else if x = 0xFF800000#32 then 0
  else sfExp2 (fp32Val (fsub x m))

/-- Whether the guarded exponent evaluates EXP2. -/
def expdUses (x m : Lane32) : Bool :=
  !(isNan (fp32Val x) || isNan (fp32Val m)) && decide (x ≠ 0xFF800000#32)

/-- EXPD (R174). -/
def execExpd (a : ArrId) (v : VInstr) (s : State) : Host.Outcome State Fault Refusal :=
  vRun s a v (dtIn v [1]) (fun u =>
    let x := vget u v.va
    let m := srcB u v
    let r := vlanes (fun i => fpOut (expdLane (lane x i) (lane m i)) [lane x i, lane m i])
    { writes := [(v.vd, r.1)], ev := r.2
      sf := ((List.range 512).filter (fun i => expdUses (lane x i) (lane m i))).length, issue := 2 })

/-- The two results of a rotation (R178): x0, x1, position and frequency. -/
def ropePair (x0 x1 p f : Lane32) : (Lane32 × Ev) × (Lane32 × Ev) :=
  let cs := sfSinCos (p.toNat * f.toNat % 2 ^ 32)
  let sn := fp32Val cs.1
  let co := fp32Val cs.2
  let a := fp32Val x0
  let b := fp32Val x1
  (fpOut (fp32Enc (numAdd (numMul a co) (numNeg (numMul b sn)))) [x0, x1],
   fpOut (fp32Enc (numAdd (numMul a sn) (numMul b co))) [x0, x1])

/-- ROPE (R178): rotation of lane pairs within segments; position and frequency come from the pair's first lane. -/
def execRope (a : ArrId) (v : VInstr) (s : State) : Host.Outcome State Fault Refusal :=
  let seg := v.seg.toNat
  vRun s a v (dtIn v [1] && decide (1 ≤ seg) && decide (seg ≤ 9)) (fun u =>
    let x := vget u v.va
    let p := srcB u v
    let f := vget u v.vc
    let half := 2 ^ (seg - 1)
    let first := fun (i : Nat) => if v.aux.getLsbD 0 then (if i % 2 ^ seg < half then i else i - half) else i / 2 * 2
    let second := fun (i : Nat) => if v.aux.getLsbD 0 then first i + half else first i + 1
    let out := fun (i : Nat) =>
      let j := first i
      let r := ropePair (lane x j) (lane x (second i)) (lane p j) (lane f j)
      if i = j then r.1 else r.2
    let r := vlanes out
    { writes := [(v.vd, r.1)], ev := r.2, sf := 512, issue := 2 })

/-! ### QUANT, RED, TOPK, PSUM -/

/-- emax of an element format (R172). -/
def quantEmax (c : Nat) : Nat := if c = 5 then 8 else if c = 6 then 15 else if c = 7 then 4 else 2

/-- kinv of an element format (R172): 1 over the largest finite value, rounded to FP32. -/
def quantKinv (c : Nat) : Lane32 :=
  if c = 5 then sfRcp (numOfInt 448) else if c = 7 then sfRcp (numOfInt 28)
  else if c = 8 then sfRcp (.fin false 15 (-1)) else sfRcp (numOfInt 6)

/-- The magnitude of a lane, NaN kept. -/
def absNum (x : Lane32) : Num := match fp32Val x with
  | .nan => .nan
  | .inf _ => .inf false
  | .fin _ m e => .fin false m e

/-- MAX over the magnitudes of a block (R66). -/
def amaxOf : List Lane32 → Num
  | [] => .fin false 0 0
  | [x] => absNum x
  | x :: r => numMax (absNum x) (amaxOf r)

/-- quant_block of R172: element codes, scale byte, events, and special-function results. -/
def quantBlock (native : Bool) (dt2 : Nat) (xs us : List Lane32) : List Nat × Nat × Ev × Nat :=
  let ys := (xs.zip us).map (fun p => fpOut (fmul p.1 p.2) [p.1, p.2])
  let y := ys.map (·.1)
  let amax := amaxOf y
  let e0 := evList ys
  let conv := fun (zs : List Num) =>
    let rs := zs.map (convTo dt2 true)
    (rs.map (·.1), rs.foldl (fun e r => evAdd e r.2) ({} : Ev))
  if native then
    let sc := convUe4m3 (fp32Val (fp32Enc (numMul amax (fp32Val (quantKinv dt2)))))
    if sc.1 = 0 then
      let r := conv (y.map (fun x => Num.fin (numNegB (fp32Val x)) 0 0))
      (r.1, sc.1, evAdd e0 (evAdd sc.2 r.2), 0)
    else
      let rc := sfRcp (decodeUe4m3 sc.1)
      let ts := y.map (fun x => fpOut (fmul x rc) [x, rc])
      let r := conv (ts.map (fun t => fp32Val t.1))
      (r.1, sc.1, evAdd e0 (evAdd sc.2 (evAdd (evList ts) r.2)), 1)
  else
    let sc := convUe8m0 (fp32Val (fp32Enc (numMul amax (.fin false 1 (-(quantEmax dt2 : Int))))))
    if sc = 0xFF then
      let r := conv (y.map (fun _ => Num.nan))
      (r.1, sc, evAdd e0 r.2, 0)
    else
      let r := conv (y.map (fun x => fp32Val (fp32Enc (numMul (fp32Val x) (.fin false 1 (127 - (sc : Int)))))))
      (r.1, sc, evAdd e0 r.2, 0)

/-- Element formats that QUANT writes, by scale format (R172). -/
def quantOk (v : VInstr) : Bool :=
  let c := v.dt2.toNat
  let k := v.aux.toNat % 16
  ((k == 0xD && (c == 5 || c == 7 || c == 8 || c == 9)) || (k == 0xE && decide (5 ≤ c) && decide (c ≤ 9)))
    && (v.seg == 4 || v.seg == 5) && isVecFmt v.dt.toNat && decide (v.vd ≠ 31)

/-- Elements of VA that QUANT takes, as FP32 values: all that the register holds in format DT (R168), as far as the multiplier and the
destination reach (DESIGN CHOICE for a DT other than FP32, notes/assumptions/70.md). -/
def quantSource (u : ArrayUnit) (v : VInstr) : List Lane32 :=
  if v.dt = 1 then (vget u v.va).toList
  else
    let d := v.dt.toNat
    let k := Nat.min (16384 / fmtBits d) (if v.bimm then 16384 / fmtBits v.dt2.toNat else 512)
    (List.range k).map (fun i => fp32Enc (decodeNum d (regElem d (regNat (vget u v.va)) i)))

/-- The multiplier of each element: the lanes of VB, or the immediate (R172). -/
def quantScale (u : ArrayUnit) (v : VInstr) (k : Nat) : List Lane32 :=
  if v.bimm then List.replicate k (v.ext.setWidth 32) else (vget u v.vb).toList

/-- QUANT (R168, R172): elements to VD, scale bytes to V(D + 1), both packed from lane 0. -/
def execQuant (a : ArrId) (v : VInstr) (s : State) : Host.Outcome State Fault Refusal :=
  vRun s a v (quantOk v) (fun u =>
    let n := 2 ^ v.seg.toNat
    let x := quantSource u v
    let b := quantScale u v x.length
    let blocks := (List.range (x.length / n)).map (fun i =>
      quantBlock (v.aux.toNat % 16 == 0xD) v.dt2.toNat ((x.drop (i * n)).take n) ((b.drop (i * n)).take n))
    { writes := [ (v.vd, natReg (packNat (fmtBits v.dt2.toNat) (blocks.flatMap (·.1))))
                , (v.vd + 1, natReg (packNat 8 (blocks.map (·.2.1)))) ]
      ev := blocks.foldl (fun e q => evAdd e q.2.2.1) {}
      sf := sumN (blocks.map (·.2.2.2)), issue := 2 })

/-- One level of a reduction tree, with its events (R171). -/
def redLevel (int : Bool) : List Lane32 → List Lane32 × Ev
  | x :: y :: r =>
    let n := if int then intOut (x.toInt + y.toInt) else fpOut (fadd x y) [x, y]
    let t := redLevel int r
    (n.1 :: t.1, evAdd n.2 t.2)
  | r => (r, {})

/-- The tree of R171 over at most two to the `n` values. -/
def redTree (int : Bool) : (n : Nat) → List Lane32 → Lane32 × Ev
  | 0, xs => (nthD 0 xs 0, {})
  | n + 1, xs =>
    let l := redLevel int xs
    let r := redTree int n l.1
    (r.1, evAdd l.2 r.2)

/-- A fold by a binary choice, first value first. -/
def foldPick (f : Lane32 → Lane32 → Lane32) : List Lane32 → Lane32
  | [] => 0
  | x :: r => r.foldl f x

/-- One segment reduced (R171): 0 SUM, 1 MAX, 2 MIN, 3 SUMSQ. -/
def redSegment (int : Bool) (kind seg : Nat) (xs : List Lane32) : Lane32 × Ev :=
  if kind = 0 then redTree int seg xs
  else if kind = 3 then
    let sq := xs.map (fun x => if int then intOut (x.toInt * x.toInt) else fpOut (fmul x x) [x])
    let r := redTree int seg (sq.map (·.1))
    (r.1, evAdd (evList sq) r.2)
  else if int then
    (foldPick (fun p q => if kind = 1 then (if p.toInt < q.toInt then q else p) else (if q.toInt < p.toInt then q else p)) xs, {})
  else
    (foldPick (fun p q => fp32Enc (if kind = 1 then numMax (fp32Val p) (fp32Val q) else numMin (fp32Val p) (fp32Val q))) xs, {})

/-- RED (R171): every lane of a segment receives the segment's reduction. -/
def execRed (a : ArrId) (v : VInstr) (s : State) : Host.Outcome State Fault Refusal :=
  let seg := v.seg.toNat
  vRun s a v (dtIn v [1, 0xA] && decide (1 ≤ seg) && decide (seg ≤ 9)) (fun u =>
    let x := (vget u v.va).toList
    let rs := (List.range (512 / 2 ^ seg)).map (fun i =>
      redSegment (decide (v.dt = 0xA)) (v.aux.toNat % 4) seg ((x.drop (i * 2 ^ seg)).take (2 ^ seg)))
    { writes := [(v.vd, vmk (fun i => (nthD (0, {}) rs (i / 2 ^ seg)).1))]
      ev := evList rs, issue := 2 })

/-- The rank order of R173: whether lane value x at offset i ranks above y at j. -/
def topkAbove (p q : Nat × Lane32) : Bool :=
  let x := fp32Val p.2
  let y := fp32Val q.2
  if isNan x && isNan y then decide (p.1 < q.1)
  else if isNan x then true
  else if isNan y then false
  else match numCmp x y with
    | .gt => true
    | .lt => false
    | .eq => decide (p.1 < q.1)

/-- TOPK (R173). -/
def execTopk (a : ArrId) (v : VInstr) (s : State) : Host.Outcome State Fault Refusal :=
  let seg := v.seg.toNat
  let k := v.aux.toNat % 32
  vRun s a v (dtIn v [1] && decide (seg ≤ 9) && decide (1 ≤ k) && decide (k ≤ 16) && decide (k ≤ 2 ^ seg) && decide (v.vd ≠ 31)) (fun u =>
    let x := (vget u v.va).toList
    let n := 2 ^ seg
    let segs := (List.range (512 / n)).map (fun i =>
      (sortBy (fun p q => !topkAbove q p) ((List.range n).zip ((x.drop (i * n)).take n))).take k)
    let val := fun (i : Nat) => match (nthD [] segs (i / n))[i % n]? with
      | some p => if isNan (fp32Val p.2) then nan32 else p.2
      | none => 0xFF800000#32
    let idx := fun (i : Nat) => match (nthD [] segs (i / n))[i % n]? with
      | some p => BitVec.ofNat 32 p.1
      | none => 0xFFFFFFFF#32
    { writes := [(v.vd, vmk val), (v.vd + 1, vmk idx)], issue := 4 })

/-! ### Access forms -/

/-- The byte ranges of an access form in the order of the bytes moved (R133), or none for a form that is reserved,
misaligned or reaches beyond the software space. At most 2 KiB moves: of a strided form that asks for more, the rows that fit whole
move (DESIGN CHOICE, notes/assumptions/69.md). -/
def formRanges (u : ArrayUnit) (w : Nat) : Option (List (Nat × Nat)) :=
  let base := bits w 20 0
  let stride := bits w 41 21
  let len := (bits w 51 44 + 1) * 8
  let rows := bits w 59 52 + 1
  let es := 2 ^ bits w 61 60
  let rs :=
    match bits w 63 62 with
    | 0 => [(base, len)]
    | 1 => (List.range (Nat.min rows (2048 / len))).map (fun i => (base + i * stride, len))
    | _ => (List.range 32).map (fun i => (base + i * stride, 32 * es))
  if bits w 63 62 = 3 ∨ (bits w 63 62 = 2 ∧ bits w 61 60 = 3) ∨ base % 8 ≠ 0 then none
  else if rs.all (fun r => decide (r.1 + r.2 ≤ swBytes u)) then some rs else none

/-- Elements of a byte list, `n` bytes each, as byte lists. -/
def chunksOf (n : Nat) : (count : Nat) → List Byte → List (List Byte)
  | 0, _ => []
  | c + 1, bs => bs.take n :: chunksOf n c (bs.drop n)

/-- A 32 × 32 block of elements with rows and columns exchanged. -/
def transpose32 (es : Nat) (bs : List Byte) : List Byte :=
  let el := chunksOf es 1024 (bs ++ List.replicate (1024 * es - bs.length) 0)
  (List.range 1024).flatMap (fun i => nthD [] el (i % 32 * 32 + i / 32))

/-- Bytes that a load form delivers (R133), at most 2 KiB. -/
def formLoad (u : ArrayUnit) (w : Nat) (rs : List (Nat × Nat)) : List Byte :=
  let bs := rs.flatMap (fun r => spadReads u r.1 r.2)
  (if bits w 63 62 = 2 then transpose32 (2 ^ bits w 61 60) bs else bs).take 2048

/-- The ranges that a store form writes: those of the form, and of a transposed 32-bit block the first 64 B of each row,
since one access moves at most 2 KiB (R133; notes/assumptions/10.md). -/
def storeForm (w : Nat) (rs : List (Nat × Nat)) : List (Nat × Nat) :=
  if bits w 63 62 = 2 ∧ bits w 61 60 = 2 then rs.map (fun r => (r.1, 64)) else rs

/-- The bytes that a store form writes from a register's 2 KiB, in the order of its ranges. -/
def formStore (w : Nat) (bs : List Byte) : List Byte :=
  if bits w 63 62 = 2 then
    (if bits w 61 60 = 2 then
      (List.range 512).flatMap (fun i => slice bs (4 * (i % 16 * 32 + i / 16)) 4)
    else transpose32 (2 ^ bits w 61 60) bs)
  else bs

/-- Bank rows of 64 B that a byte range touches, by bank. -/
def rangeBanks (u : ArrayUnit) (r : Nat × Nat) : List Nat :=
  (List.range ((r.1 + r.2 + 63) / 64 - r.1 / 64)).map (fun i => (r.1 / 64 + i) % u.swBanks)

/-- Clocks of an access form without conflict (R133, R134). -/
def formClks (u : ArrayUnit) (w : Nat) (rs : List (Nat × Nat)) : Nat :=
  let bk := rs.flatMap (rangeBanks u)
  let busiest := maxN ((List.range 32).map (fun b => bk.count b))
  if bits w 63 62 = 2 then Nat.max (2 * 2 ^ bits w 61 60) busiest else Nat.max 1 busiest

/-- The lanes of a list of bytes. -/
def bytesLanes (bs : List Byte) (i : Nat) : Lane32 := BitVec.ofNat 32 (fld bs (4 * i) 4)

/-- The clocks in which an access of the vector engine lost bank arbitration (R131, R165), `lost` naming for each the bank accesses that
lost beyond one: counted in VE_SP_STALL and SP_CONFLICT, and every later instruction is that much later. -/
def vHeld (s : State) (a : ArrId) (lost : List (Fin 32)) : State :=
  let u := arr s a
  let s := setArr s a { u with veClk := u.veClk + lost.length }
  regBump (regBump s (veReg a.val 0x18) lost.length) (spReg a.val 0x20) (sumN (lost.map (fun n => n.val + 1)))

/-- A checked access of the vector engine: legality of the form, the slot checker, then the effect (R133, R165, R208). -/
def vAccess (s : State) (a : ArrId) (v : VInstr) (wr : Bool) (lost : List (Fin 32))
    (f : State → ArrayUnit → List (Nat × Nat) → State) : Host.Outcome State Fault Refusal :=
  if !veReady s a then .next s
  else if !isVecFmt v.dt.toNat then .next (vIllegal s a v)
  else match formRanges (arr s a) v.ext.toNat with
    | none => .next (vIllegal s a v)
    | some rs => match slotChecks 3 wr (arr s a) (if wr then storeForm v.ext.toNat rs else rs) with
      | .error h => .next (slotFault s a h 3 (veIssueClk (arr s a) v) 0)
      | .ok u => .next (f (vHeld (setArr s a u) a lost) u rs)

/-- PSUM (R126, R169): VD = fp32_rne(VD + partial); lanes for which the form moves no partial hold free values. -/
def execPsum (a : ArrId) (x : VAccess) (s : State) : Host.Outcome State Fault Refusal :=
  let v := x.instr
  if v.dt ≠ 1 then (if veReady s a then .next (vIllegal s a v) else .next s)
  else vAccess s a v false x.lost (fun s u rs =>
    let bs := formLoad u v.ext.toNat rs
    let d := vget u v.vd
    let r := vlanes (fun i =>
      if 4 * i + 4 ≤ bs.length then fpOut (fadd (lane d i) (bytesLanes bs i)) [lane d i, bytesLanes bs i]
      else (Config.freeLane s.freeCtr i, {}))
    tickFree (vfinish s a v { writes := [(v.vd, r.1)], ev := r.2, issue := formClks u v.ext.toNat rs }))

/-- LD (R133, R169): VD from the scratchpad; lanes that the form does not reach hold free values. -/
def execLd (a : ArrId) (x : VAccess) (s : State) : Host.Outcome State Fault Refusal :=
  let v := x.instr
  vAccess s a v false x.lost (fun s u rs =>
    let bs := formLoad u v.ext.toNat rs
    let r := vmk (fun i => if 4 * i + 4 ≤ bs.length then bytesLanes bs i else Config.freeLane s.freeCtr i)
    tickFree (vfinish s a v { writes := [(v.vd, r)], issue := formClks u v.ext.toNat rs }))

/-- Bytes written over ranges in order. -/
def storeRanges (a : ArrId) : (s : State) → List (Nat × Nat) → List Byte → State
  | s, [], _ => s
  | s, (x, n) :: r, bs => storeRanges a (spadStore s a x (bs.take n)) r (bs.drop n)

/-- ST (R133, R169): VA to the scratchpad. -/
def execSt (a : ArrId) (x : VAccess) (s : State) : Host.Outcome State Fault Refusal :=
  let v := x.instr
  vAccess s a v true x.lost (fun s u rs =>
    let bs := formStore v.ext.toNat ((vget u v.va).toList.flatMap (fun x => toLE 4 x.toNat))
    let s := storeRanges a s (storeForm v.ext.toNat rs) bs
    vfinish s a v { issue := formClks u v.ext.toNat rs })

/-! ### EXPSORT -/

/-- Pairs (token, rank) of one expert, in token order (R186). -/
def expertRows (ids : List Int) (k e : Nat) : List Nat :=
  (List.range ids.length).filter (fun i => nthD (-1) ids i == (e : Int)) |>.map (fun i => i / k * k + i % k)

/-- Rows padded to whole groups with the sentinel. -/
def padRows (r : Nat) (xs : List Nat) : List Nat := xs ++ List.replicate (cdiv xs.length r * r - xs.length) 0xFFFFFFFF

/-- EXPSORT (R186): gather, scatter, pointer and count lists from the parameter block at EXT[20:0]. -/
def execExpsort (a : ArrId) (x : VAccess) (s : State) : Host.Outcome State Fault Refusal :=
  let v := x.instr
  if !veReady s a then .next s
  else
    let u := arr s a
    let p := spadReads u (bits v.ext.toNat 20 0) 64
    let t := fld p 4 4
    let k := fld p 8 1
    let nexp := fld p 0x0A 2
    let r := fld p 0x0C 4
    let nt := fld p 0x10 4
    let idsA := fld p 0 4
    let ga := fld p 0x14 4
    let sc := fld p 0x18 4
    let pt := fld p 0x1C 4
    let co := fld p 0x20 4
    let ok := decide (v.dt = 0xA) && decide (1 ≤ t) && decide (t ≤ 65536) && decide (1 ≤ k) && decide (k ≤ 16)
      && decide (1 ≤ nexp) && decide (nexp ≤ 256) && decide (16 ≤ r) && decide (r ≤ 1024) && decide (bitLen r = bitLen (r - 1) + 1)
      && fld p 0x28 8 != 0
    let reads := [(bits v.ext.toNat 20 0, 64), (idsA, 4 * t * k)]
    let writes := [(ga, 4 * nt * r), (sc, 4 * nt * r), (pt, 8 * nt), (co, 8 * nexp)]
    if !(ok && (reads ++ writes).all (fun x => decide (x.1 + x.2 ≤ swBytes u))) then .next (vIllegal s a v)
    else match slotChecks 3 false u reads with
      | .error h => .next (slotFault s a h 3 (veIssueClk u v) 0)
      | .ok u1 => match slotChecks 3 true u1 writes with
        | .error h => .next (slotFault s a h 3 (veIssueClk u v) 0)
        | .ok u2 =>
          let ids := (List.range (t * k)).map (fun i => sx 32 (spadNum u (idsA + 4 * i) 4))
          let rows := (List.range nexp).map (fun e => expertRows ids k e)
          let padded := (rows.flatMap (padRows r) ++ List.replicate (nt * r) 0xFFFFFFFF).take (nt * r)
          let groups := rows.map (fun x => cdiv x.length r)
          let owner := ((List.range nexp).flatMap (fun e => List.replicate (nthD 0 groups e) (e + 1)) ++ List.replicate nt 0).take nt
          let firsts := (List.range nexp).map (fun e => sumN (groups.take e))
          let bad := (ids.filter (fun i => decide (i < 0) || decide ((nexp : Int) ≤ i))).length
          let s := vHeld (setArr s a u2) a x.lost
          let s := spadStore s a ga (padded.flatMap (fun x => toLE 4 (if x = 0xFFFFFFFF then x else x / k)))
          let s := spadStore s a sc (padded.flatMap (toLE 4))
          let s := spadStore s a pt (owner.flatMap (fun e =>
            toLE 8 (if e = 0 then 0 else fld p 0x28 8 + (e - 1) * fld p 0x30 8)))
          let s := spadStore s a co ((List.range nexp).flatMap (fun e =>
            toLE 4 (nthD [] rows e).length ++ toLE 4 (nthD 0 firsts e)))
          let s := regBump s (veReg a.val 0x38) bad
          .next (vfinish s a v { issue := 2 * cdiv (t * k) 64 + cdiv (nt * r) 128 + 64 })

/-! ### RSTAT, MPOS, MCMD, BARINC, MGEN_LOAD -/

/-- The statistic of an entry (R171). -/
def statOf (k : Nat) (x : RowStat) : Lane32 := if k = 0 then x.max else if k = 1 then x.sum else x.sq

/-- RSTAT (R119, R171): row statistics; an entry unwritten, mistagged or beyond row 255 is a slot fault of kind
UNFILLED_READ, whose slot fields the spec does not state. -/
def execRstat (a : ArrId) (v : VInstr) (s : State) : Host.Outcome State Fault Refusal :=
  if !veReady s a then .next s
  else
    let u := arr s a
    let e := v.ext.toNat
    let n := bits e 32 24
    let m0 := bits e 23 16
    let k := v.aux.toNat % 4
    if v.dt ≠ 1 ∨ n = 0 ∨ 256 < n ∨ k = 3 then .next (vIllegal s a v)
    else
      let ok := (List.range n).all (fun i =>
        decide (m0 + i ≤ 255) && (match lookupN (m0 + i) u.stats with
          | some x => x.tag == some (bits e 15 0)
          | none => false))
      if ok then
        .next (vfinish s a v
          { writes := [(v.vd, vmk (fun i => if i < n then (match lookupN (m0 + i) u.stats with
              | some x => statOf k x
              | none => 0) else 0))] })
      else
        let d := (drawReg s).toNat
        .next (slotFault (tickFree s) a { slot := d % 64, kind := 0, fill := d / 64 % 256, drain := d / 2 ^ 14 % 256, point := some (65, u.vpos) } 3
          (veIssueClk u v) (bits e 15 0))

/-- The physical slot behind a slot binding of an array's work item (R181, R183): its MGEN_BIND names one; another binding names none
(notes/assumptions/72.md). -/
def itemMgen (s : State) (a : ArrId) (b : Nat) : Option (Fin 8) :=
  match arrItem s a with
  | some w => if w.mgenBind = b then w.mgenSlot.map (Fin.ofNat 8) else none
  | none => none

/-- MPOS (R181): positions of the tokens from EXT[23:0] up, 0 beyond the chunk; EXT[26:24] names the binding. -/
def execMpos (a : ArrId) (v : VInstr) (s : State) : Host.Outcome State Fault Refusal :=
  match itemMgen s a (bits v.ext.toNat 26 24) with
  | none => if veReady s a then .next (vIllegal s a v) else .next s
  | some g =>
    let m := s.mgen[g]
    let t0 := bits v.ext.toNat 23 0
    vRun s a v (dtIn v [0xA]) (fun _ =>
      { writes := [(v.vd, vmk (fun i =>
          if t0 + i < m.tokens then
            BitVec.ofNat 32 (m.prefixLen + (if m.tree then nthD 0 m.depth (t0 + i) else t0 + i))
          else 0))]
        issue := 2 })

/-- MCMD (R183, R184): the command joins the array's queue; its words are due from 40 clk after it. -/
def execMcmd (a : ArrId) (v : VInstr) (s : State) : Host.Outcome State Fault Refusal :=
  let e := v.ext.toNat
  match itemMgen s a (bits e 55 53) with
  | none => if veReady s a then .next (vIllegal s a v) else .next s
  | some g =>
    if !veReady s a then .next s
    else if bits e 63 62 = 3 then .next (vIllegal s a v)
    else
      let u := arr s a
      let c : MaskCmd := { mode := bits e 63 62, qshift := bits e 60 58, slot := g.val, k0 := bits e 47 24
                           q0 := bits e 23 0, no := u.maskNo, at_ := veIssueClk u v }
      let r := fillMasks s.mgen (veIssueClk u v) { u with maskq := u.maskq ++ [c], maskNo := u.maskNo + 1 }
      let s := regBump (setArr s a r.1) (mgenReg 0x10) r.2
      .next (vfinish s a v {})

/-- A barrier counter raised by one, 16 bits (R153). -/
def barInc (s : State) (b : Nat) : State :=
  let i : Fin 256 := Fin.ofNat 256 b
  { s with bars := s.bars.set i (s.bars[i] + 1) }

/-- A work item's barrier number raised by one; a number it does not have names no counter. -/
def itemBarInc (s : State) (w : ItemRun) (n : Nat) : State :=
  match w.barMap[n]? with
  | some b => barInc s b
  | none => s

/-- BARINC (R153, R169): barrier AUX[7:0] of the work item rises by one. -/
def execBarinc (a : ArrId) (v : VInstr) (s : State) : Host.Outcome State Fault Refusal :=
  if !veReady s a then .next s
  else match arrItem s a with
    | some w => .next (itemBarInc (vfinish s a v {}) w (v.aux.toNat % 256))
    | none => .next s

/-- The first pass of R181: sizes, from the last token down. -/
def treeSizes (par : List Nat) : (t : Nat) → List Nat → List Nat
  | 0, sz => sz
  | t + 1, sz =>
    let p := nthD 0xFFFFFFFF par t
    treeSizes par t (if p = 0xFFFFFFFF then sz else sz.set p (nthD 0 sz p + nthD 0 sz t))

/-- The second pass of R181 from token `t` on: preorder numbers, cursors and depths. -/
def treePre (par size : List Nat) : (fuel t root : Nat) → (pre cur depth : List Nat) → List Nat × List Nat
  | 0, _, _, pre, _, depth => (pre, depth)
  | f + 1, t, root, pre, cur, depth =>
    let p := nthD 0xFFFFFFFF par t
    let n := if p = 0xFFFFFFFF then root else nthD 0 cur p
    let d := if p = 0xFFFFFFFF then 0 else nthD 0 depth p + 1
    let root' := if p = 0xFFFFFFFF then root + nthD 0 size t else root
    let cur' := if p = 0xFFFFFFFF then cur else cur.set p (nthD 0 cur p + nthD 0 size t)
    treePre par size f (t + 1) root' (pre ++ [n]) (cur' ++ [n + 1]) (depth ++ [d])

/-- MGEN_LOAD (R181): a held tree slot is loaded from its parent list in two passes. -/
def execMgenLoad (g : Fin 8) (s : State) : Host.Outcome State Fault Refusal :=
  let m := s.mgen[g]
  if m.busy.isSome ∧ m.tree ∧ !m.loaded then
    let n := m.parents.length
    let size := treeSizes m.parents n (List.replicate n 1)
    let pd := treePre m.parents size n 0 0 [] [] []
    .next (regBump { s with mgen := s.mgen.set g { m with size := size, pre := pd.1, depth := pd.2, tokens := n, loaded := true } }
      (mgenReg 0x08) 1)
  else .next s

end Sys2Proof.Machine
end

