-- ==== Sys2Proof/Machine/Image.lean ====
section
/-! DEFINITION. Drill images (07_furrows.md, R198 to R204, R207, R498, R499; R260): the IMAGE offset space, the records of
an image, and the loader's checks with their reasons (R354). -/

namespace Sys2Proof.Machine

/-! ### The IMAGE offset space -/

/-- IMAGE offset at which adapter slot `n` begins (notes/assumptions/12.md). -/
def adapterBase (n : Nat) : Nat := 2 ^ 62 + n * 2 ^ 48
/-- IMAGE offset at which learned-prefix slot `n` begins (notes/assumptions/12.md). -/
def lpBase (n : Nat) : Nat := 2 ^ 63 + n * 2 ^ 48

/-- DPA of an offset into a list of frames. -/
def framesDpa (fs : List Nat) (off : Nat) : Option Nat := (fs[off / 65536]?).map (fun f => f * 65536 + off % 65536)

/-- The image a handle names. -/
def imageOf (s : State) (h : Nat) : Option Image := if h < 16 then s.images[Fin.ofNat 16 h] else none

/-- DPA of an offset within an image's own bytes. -/
def imageOwn (s : State) (h off : Nat) : Option Nat :=
  match imageOf s h with
  | some m => if off < m.length then framesDpa m.frames off else none
  | none => none

/-- DPA of an IMAGE offset: the image's own bytes, a range of WEIGHT_REFS (R498), an adapter slot or a learned-prefix slot
(R202); none beyond the image's extent (R155). -/
def imageDpa (s : State) (h off : Nat) : Option Nat :=
  if 2 ^ 63 ≤ off then framesDpa (s.lps[Fin.ofNat 64 ((off - 2 ^ 63) / 2 ^ 48)]).frames (off % 2 ^ 48)
  else if 2 ^ 62 ≤ off then framesDpa (s.adapters[Fin.ofNat 32 ((off - 2 ^ 62) / 2 ^ 48)]).frames (off % 2 ^ 48)
  else match imageOf s h with
    | none => none
    | some m =>
      if off < m.length then framesDpa m.frames off
      else match m.refs.find? (fun r => decide (r.2.1 ≤ off) && decide (off < r.2.1 + r.2.2.2)) with
        | some r => imageOwn s r.1 (r.2.2.1 + (off - r.2.1))
        | none => none

/-- Bytes at an IMAGE offset; a byte beyond the extent reads 0 (callers check the extent). -/
def imageReads (s : State) (h off : Nat) : Nat → List Byte
  | 0 => []
  | n + 1 =>
    (match imageDpa s h off with
      | some a => cellRead a s.mem
      | none => 0) :: imageReads s h (off + 1) n

/-! ### Records -/

/-- A directory entry's place (R199). -/
structure Sec where
  off : Nat
  len : Nat
  count : Nat
  deriving DecidableEq, Repr

/-- Bytes of an image by offset and length. -/
abbrev Rd := Nat → Nat → List Byte

/-- A loaded image's bytes. -/
def imgRd (s : State) (h : Nat) : Rd := fun off n => imageReads s h off n

/-- A number in an image. -/
def rdNum (rd : Rd) (off n : Nat) : Nat := ofLE (rd off n)

/-- The section of one type. -/
def secOf (rd : Rd) (ty : Nat) : Option Sec :=
  let n := Nat.min 64 (rdNum rd 0x48 4)
  let d := rdNum rd 0x50 8
  ((List.range n).find? (fun i => rdNum rd (d + 32 * i) 4 == ty)).map (fun i =>
    { off := rdNum rd (d + 32 * i + 8) 8, len := rdNum rd (d + 32 * i + 16) 8, count := rdNum rd (d + 32 * i + 24) 4 })

/-- Offset and counts of a section that may be absent. -/
def secD (rd : Rd) (ty : Nat) : Sec := (secOf rd ty).getD { off := 0, len := 0, count := 0 }

/-- A work-item record (R201). -/
structure WorkRec where
  number : Nat
  layer : Nat
  gangW : Nat
  mode : Nat
  swCode : Nat
  cacheCode : Nat
  declared : Nat
  flags : Nat
  nFe : Nat
  nBar : Nat
  nSlots : Nat
  mgenBind : Nat
  tileCount : Nat
  tileList : Nat
  vstream : Nat
  vsLen : Nat
  slotTable : Nat
  fetch : List Nat
  rings : List Nat
  binds : List (Nat × Nat × Nat)
  feLoad : List Nat
  reserved : Bool
  deriving DecidableEq, Repr

/-- A record's 512 bytes. -/
def parseWork (b : List Byte) : WorkRec :=
  { number := fld b 0 4 % 2 ^ 20, layer := fld b 4 2, gangW := fld b 6 1 % 4, mode := fld b 6 1 / 4 % 2
    swCode := fld b 7 1 % 4, cacheCode := fld b 7 1 / 4 % 4, declared := fld b 8 4, flags := fld b 12 4
    nFe := fld b 16 1, nBar := fld b 17 1, nSlots := fld b 18 1, mgenBind := fld b 19 1
    tileCount := fld b 20 4, tileList := fld b 24 8, vstream := fld b 32 8, vsLen := fld b 40 4
    slotTable := fld b 48 8
    fetch := (List.range 8).map (fun i => fld b (0x38 + 8 * i) 8)
    rings := (List.range 6).map (fun i => fld b (0x78 + 8 * i) 8)
    binds := (List.range 15).map (fun i => (fld b (0xA8 + 16 * i) 2, fld b (0xAA + 16 * i) 6, fld b (0xB0 + 16 * i) 8))
    feLoad := (List.range 8).map (fun i => fld b (0x198 + 4 * i) 4)
    reserved := !(fld b 0 4 / 2 ^ 20 == 0 && fld b 6 1 / 8 == 0 && fld b 7 1 / 16 == 0 && zeroAt b 0x2C 4
      && zeroAt b 0x1B8 72 && fld b 12 4 / 8 == 0) }

/-- Work-item record `i` of an image. -/
def workRec (rd : Rd) (i : Nat) : WorkRec := parseWork (rd ((secD rd 4).off + 512 * i) 512)

/-- Gang width of a code (R98): 1, 2 or 4. -/
def gangWidth (code : Nat) : Nat := 2 ^ code

/-- A furrow plan (R203). -/
structure Plan where
  chunkTokens : Nat
  ctxMax : Nat
  gangW : Nat
  gangs : Nat
  steps : Nat
  stepD : Nat
  stepList : Nat
  barMax : Nat
  feSlots : Nat
  feMax : Nat
  reserved : Bool
  deriving DecidableEq, Repr

/-- A plan header's 64 bytes. -/
def parsePlan (b : List Byte) : Plan :=
  { chunkTokens := fld b 0 4, ctxMax := fld b 4 4, gangW := fld b 8 1, gangs := fld b 9 1, steps := fld b 12 4
    stepD := fld b 16 4, stepList := fld b 20 8, barMax := fld b 28 2, feSlots := fld b 30 2, feMax := fld b 32 4
    reserved := !(zeroAt b 10 2 && zeroAt b 36 28) }

/-- Plan `i` of an image. -/
def planRec (rd : Rd) (i : Nat) : Plan := parsePlan (rd ((secD rd 8).off + 64 * i) 64)

/-- The work-item indices of step `k` of a plan, one per gang place (R203). STEP_LIST counts from the section's first
byte (notes/assumptions/13.md). -/
def stepItems (rd : Rd) (p : Plan) (k : Nat) : List Nat :=
  (List.range p.gangs).map (fun g => rdNum rd ((secD rd 8).off + p.stepList + 4 * (k * p.gangs + g)) 4)

/-- MODEL_INFO (R260). -/
structure ModelInfo where
  vocab : Nat
  layers : Nat
  pageLog2 : Nat
  seedHeads : Nat
  ctxLimit : Nat
  genPlan : Nat
  genBatch : Nat
  eos : List Nat
  cowMin : Nat
  logitsOfs : Nat
  draftsOfs : Nat
  reserved : Bool
  deriving DecidableEq, Repr

/-- MODEL_INFO of an image. -/
def modelInfo (rd : Rd) : ModelInfo :=
  let b := rd (secD rd 0xB).off 256
  { vocab := fld b 0 4, layers := fld b 4 2, pageLog2 := fld b 6 1, seedHeads := fld b 7 1, ctxLimit := fld b 8 4
    genPlan := fld b 12 2, genBatch := fld b 14 2, eos := (List.range 4).map (fun i => fld b (16 + 4 * i) 4)
    cowMin := fld b 32 2, logitsOfs := fld b 0x24 4, draftsOfs := fld b 0x28 4
    reserved := !(zeroAt b 0x22 2 && zeroAt b 0x2C 212) }

/-- A fetch descriptor's first 96 bytes (R148); the progress record is ignored on read. The walk of R149
takes INDEX_MODE 1 and 2 apart, so that 3 walks as 0. -/
def parseDesc (b : List Byte) : Desc :=
  let w := fld b 0 8
  { op := bits w 63 62, space := bits w 61 60, ndim := bits w 59 57, indexMode := if bits w 56 55 = 3 then 0 else bits w 56 55
    indexDim := bits w 54 52, indexW := bitAt w 51, indexMem := bitAt w 50, hint := bits w 49 48
    fence := bitAt w 47, endB := bitAt w 46, array := bits w 45 40, ring := bits w 39 37, baseSel := bits w 36 33
    signalBar := bits w 31 24, waitBar := bits w 23 16, waitVal := bits w 15 0
    base := fld b 8 8, counts := [fld b 0x14 4, fld b 0x18 4, fld b 0x1C 4, fld b 0x20 4], len0 := fld b 0x10 4
    strides := (List.range 4).map (fun i => sx 64 (fld b (0x28 + 8 * i) 8))
    indexBase := fld b 0x48 8, seq := fld b 0x50 4 }

/-- Every list offset that a record of the image names, ascending. -/
def listOffsets (rd : Rd) : List Nat :=
  ((List.range (secD rd 4).count).flatMap (fun i =>
    let r := workRec rd i
    (List.range 8).filterMap (fun e => let o := nthD 0 r.fetch e; if e < r.nFe ∧ o ≠ 0 then some o else none))).foldl
      (fun l o => addN o l) []

/-- The descriptors of the list at an offset: up to the next offset that a record names, or the section's end
(notes/assumptions/14.md). -/
def fetchList (rd : Rd) (o : Nat) : List Desc :=
  let sc := secD rd 6
  let stop := ((listOffsets rd).find? (fun x => decide (o < x))).getD sc.len
  (List.range ((Nat.min stop sc.len - o) / 128)).map (fun i => parseDesc (rd (sc.off + o + 128 * i) 128))

/-- The fields of one vector instruction with its opcode (R168). -/
def parseV (b : List Byte) : Nat × VInstr :=
  let w := fld b 0 8
  (bits w 63 56,
    { dt := BitVec.ofNat 4 (bits w 55 52), dt2 := BitVec.ofNat 4 (bits w 51 48), sat := bitAt w 47
      seg := BitVec.ofNat 4 (bits w 46 43), vd := Fin.ofNat 32 (bits w 42 38), va := Fin.ofNat 32 (bits w 37 33)
      vb := Fin.ofNat 32 (bits w 32 28), vc := Fin.ofNat 32 (bits w 27 23), bimm := bitAt w 22
      gap := BitVec.ofNat 10 (bits w 21 12), aux := BitVec.ofNat 12 (bits w 11 0), ext := BitVec.ofNat 64 (fld b 8 8) })

/-- A tensor record's element base by TENSOR_ID (R200, R202). -/
def tensorBase (rd : Rd) (id : Nat) : Option Nat :=
  let sc := secD rd 1
  ((List.range sc.count).find? (fun i => rdNum rd (sc.off + 64 * i) 4 == id)).map (fun i => rdNum rd (sc.off + 64 * i + 16) 8)

/-! ### Minima (R499) -/

/-- Clocks at OP0 of the budgets of R161 and R325 for a descriptor. -/
def descBudget (d : Desc) : Nat := if d.space = 2 then 4200 else if d.op = 0 then 588 else 280

/-- Count of dimension `k` of a descriptor, 1 at or above NDIM (R148). -/
def dimCount (d : Desc) (k : Nat) : Nat := if k < d.ndim then nthD 1 d.counts (k - 1) else 1

/-- Runs of a descriptor, skipped ones included. -/
def descRuns (d : Desc) : Nat := dimCount d 1 * dimCount d 2 * dimCount d 3 * dimCount d 4

/-- Engine time of a list (R499). -/
def engineTime (ds : List Desc) : Nat :=
  96 + (match ds with
        | d :: _ => descBudget d
        | [] => 0)
    + sumN (ds.map (fun d => Nat.max (descRuns d * Nat.max (cdiv d.len0 512) 4) 32))

/-- Span of a tile list from clock `c`, with the latest end so far (R101, R499). -/
def tilesSpan : (c fin : Nat) → List TileDesc → Nat
  | _, fin, [] => fin
  | c, fin, d :: ds =>
    let last := c + holdClk d + tileSteps d * perStep d - 1
    let upd := last + 24
    let fin' := if d.drain then upd + 1 + 12 + 16 * tileE d - 1 + 5 else upd + 1
    tilesSpan (last + 1) (Nat.max fin fin') ds

/-- Issue interval and latency of a vector opcode (R169), for the software space of `banks` banks. The interval of EXPSORT depends on
its parameters, which lie in the scratchpad: the least that they allow counts, T and K 1, R 16 and NT 1 (R186). -/
def vTiming (banks : Nat) (x : Nat × VInstr) : Nat × Nat :=
  let u : ArrayUnit := { swBanks := banks }
  let form := match formRanges u x.2.ext.toNat with
    | some rs => formClks u x.2.ext.toNat rs
    | none => 1
  match x.1 with
  | 0x01 => (1, 4) | 0x02 => (1, 4) | 0x03 => (1, 4) | 0x04 => (1, 5)
  | 0x05 => (1, 2) | 0x06 => (1, 2) | 0x07 => (1, 2) | 0x08 => (1, 2) | 0x09 => (1, 2) | 0x0A => (1, 2) | 0x0B => (1, 2)
  | 0x0C => (1, 4) | 0x0D => (1, 2)
  | 0x10 => (2, 12) | 0x11 => (2, 12) | 0x12 => (2, 12) | 0x13 => (2, 12) | 0x14 => (2, 12) | 0x15 => (2, 12)
  | 0x16 => (2, 14) | 0x17 => (2, 14) | 0x18 => (2, 16) | 0x20 => (2, 14) | 0x21 => (4, 32)
  | 0x22 => (form, 4) | 0x23 => (67, 71) | 0x30 => (form, 4) | 0x31 => (form, 0) | 0x32 => (596, 596)
  | 0x33 => (1, 2) | 0x34 => (2, 40)
  | _ => (1, 0)

/-- Time of a vector stream (R499). -/
def streamTime (banks : Nat) (xs : List (Nat × VInstr)) : Nat :=
  sumN (xs.map (fun x => x.2.gap.toNat + (vTiming banks x).1))
    + (match xs.getLast? with
       | some x => (vTiming banks x).2
       | none => 0)

/-- Software banks of a code (R162). -/
def swBanksOf (c : Nat) : Nat := 8 * (c + 1)
/-- Cache banks of a code (R162). -/
def cacheBanksOf (c : Nat) : Nat := if c = 1 then 8 else if c = 2 then 16 else 0

/-- Tile descriptors of a record. -/
def recTiles (rd : Rd) (r : WorkRec) : List TileDesc :=
  (List.range r.tileCount).map (fun i => parseTile (rd ((secD rd 5).off + r.tileList + 64 * i) 64))

/-- Vector stream of a record. -/
def recStream (rd : Rd) (r : WorkRec) : List (Nat × VInstr) :=
  (List.range r.vsLen).map (fun i => parseV (rd ((secD rd 7).off + r.vstream + 16 * i) 16))

/-- Fetch lists of a record's used engine slots. -/
def recLists (rd : Rd) (r : WorkRec) : List (List Desc) :=
  (List.range r.nFe).map (fun e => let o := nthD 0 r.fetch e; if o = 0 then [] else fetchList rd o)

/-- declared_min of R499. -/
def declaredMin (rd : Rd) (r : WorkRec) : Nat :=
  let fes := maxN ((recLists rd r).map (fun l => if l.isEmpty then 0 else engineTime l))
  let vec := if r.vsLen = 0 then 0 else streamTime (swBanksOf r.swCode) (recStream rd r)
  320 + Nat.max (tilesSpan 0 0 (recTiles rd r)) (Nat.max vec fes)

/-! ### The loader's checks (R204, R354) -/

/-- Whether every directory entry lies in the image, has a defined type and a type of its own. -/
def dirOk (rd : Rd) (len n d : Nat) : Bool :=
  let tys := (List.range n).map (fun i => rdNum rd (d + 32 * i) 4)
  decide (d + 32 * n ≤ len)
  && tys.all (fun t => decide (1 ≤ t) && decide (t ≤ 0xB))
  && decide tys.Nodup
  && (List.range n).all (fun i => decide (rdNum rd (d + 32 * i + 8) 8 + rdNum rd (d + 32 * i + 16) 8 ≤ len)
      && rdNum rd (d + 32 * i + 4) 4 == 0 && rdNum rd (d + 32 * i + 28) 4 == 0)

/-- Whether the directory makes a weight image (R199). -/
def weightOnly (rd : Rd) : Bool :=
  (List.range (rdNum rd 0x48 4)).all (fun i => let t := rdNum rd (rdNum rd 0x50 8 + 32 * i) 4; t == 1 || t == 2)

/-- The part's stepping as STEPPING_MIN orders it: letter, then digit ("B1", R2). -/
def partStepping : Nat := 0x42 * 256 + 0x31

/-- Check 0x01: header, directory and stepping. -/
def headerOk (rd : Rd) (len : Nat) : Bool :=
  decide (256 ≤ len) && rd 0 8 == ascii [0x49, 0x4B, 0x42, 0x44, 0x52, 0x49, 0x4C, 0x4C]
  && rdNum rd 8 4 == 0x10000
  && decide (rdNum rd 12 1 * 256 + rdNum rd 13 1 ≤ partStepping)
  && rdNum rd 14 2 == 0 && rdNum rd 16 8 == len
  && decide (1 ≤ rdNum rd 0x48 4) && decide (rdNum rd 0x48 4 ≤ 64) && rdNum rd 0x4C 4 == 0
  && (rd 0x58 168).all (· == 0)
  && dirOk rd len (rdNum rd 0x48 4) (rdNum rd 0x50 8)
  && (weightOnly rd
      || ([1, 4, 5, 8, 0xB].all (fun t => (secOf rd t).isSome) && ((secOf rd 2).isSome || (secOf rd 3).isSome)))

/-- Check 0x02: the digest, with its own field taken as zero. -/
def digestOk (bs : List Byte) : Bool :=
  sha384 (bs.take 0x18 ++ List.replicate 48 0 ++ bs.drop 0x48) == slice bs 0x18 48

/-- Whether a ring configuration lies in its ranges (R162), unused when ENABLE is 0. -/
def ringCfgOk (v q : Nat) : Bool :=
  v == 0 || (bits v 63 34 == 0 && bits v 15 12 == 0 && bits v 7 2 == 0 && bits v 1 1 == (if q < 4 then 0 else 1)
    && (bits v 0 0 == 0 || (decide (2 ≤ bits v 11 8) && decide (bits v 11 8 ≤ 15))))

/-- Base and end of a used ring. -/
def ringSpan (v : Nat) : Option (Nat × Nat) :=
  if bitAt v 0 then
    let b := bits v 33 25 * 4096
    some (b, b + (bits v 11 8 + 1) * ((bits v 24 16 + 1) * 4096))
  else none

/-- A slot entry's fields in range (R207). -/
def slotOk (b : List Byte) : Bool :=
  decide (fld b 0 4 < 2 ^ 21) && fld b 0 4 % 64 == 0 && fld b 4 4 % 64 == 0 && decide (0 < fld b 4 4)
  && decide (fld b 4 4 ≤ 2 ^ 21) && decide (fld b 8 1 ≤ 1) && decide (fld b 9 1 ≤ 3) && decide (1 ≤ fld b 10 2)
  && zeroAt b 12 4

/-- Slot entries of a record. -/
def recSlots (rd : Rd) (r : WorkRec) : List (List Byte) :=
  (List.range r.nSlots).map (fun i => rd ((secD rd 0xA).off + r.slotTable + 16 * i) 16)

/-- A work-item record's fields in range, and its lists inside their sections (R201, R204). -/
def workOk (rd : Rd) (r : WorkRec) : Bool :=
  !r.reserved && decide (r.gangW ≤ 2) && decide (r.cacheCode ≤ 2)
  && decide (swBanksOf r.swCode + cacheBanksOf r.cacheCode ≤ 32)
  && decide (1 ≤ r.nFe) && decide (r.nFe ≤ 8) && decide (r.nBar ≤ 32) && decide (r.nSlots ≤ 64)
  && decide (r.mgenBind ≤ 7)
  && decide (r.tileList + 64 * r.tileCount ≤ (secD rd 5).len)
  && decide (r.vstream + 16 * r.vsLen ≤ (secD rd 7).len)
  && decide (r.slotTable + 16 * r.nSlots ≤ (secD rd 0xA).len)
  && (List.range 8).all (fun e => let o := nthD 0 r.fetch e
      if e < r.nFe then o == 0 || (o % 128 == 0 && decide (o + 128 ≤ (secD rd 6).len))
      else o == 0 && nthD 0 r.feLoad e == 0)
  && (List.range 6).all (fun q => ringCfgOk (nthD 0 r.rings q) q)
  && (r.rings.filterMap ringSpan).all (fun x => decide (x.2 ≤ swBanksOf r.swCode * 65536))
  && r.binds.all (fun b => decide (b.1 ≤ 8) && (b.1 != 4 || (tensorBase rd b.2.1).isSome))
  && (recSlots rd r).all slotOk

/-- Whether no two ranges of a list overlap. -/
def disjointRanges : List (Nat × Nat) → Bool
  | [] => true
  | r :: rs => rs.all (fun q => decide (r.2 ≤ q.1) || decide (q.2 ≤ r.1)) && disjointRanges rs

/-- The WEIGHT_REFS records of an image: handle, LOCAL, OFFSET, LENGTH. -/
def weightRefs (rd : Rd) : List (Nat × Nat × Nat × Nat) :=
  let sc := secD rd 3
  (List.range sc.count).map (fun i =>
    let o := sc.off + 96 * i
    (rdNum rd o 2, rdNum rd (o + 8) 8, rdNum rd (o + 16) 8, rdNum rd (o + 24) 8))

/-- A WEIGHT_REFS record's fields in range (R498). -/
def refFieldsOk (rd : Rd) (len i : Nat) : Bool :=
  let o := (secD rd 3).off + 96 * i
  let (_, loc, off, _) := nthD (0, 0, 0, 0) (weightRefs rd) i
  loc % 65536 == 0 && off % 65536 == 0 && decide ((len + 65535) / 65536 * 65536 ≤ loc)
  && zeroAt (rd o 96) 2 6 && zeroAt (rd o 96) 0x50 16

/-- Whether an IMAGE offset names a byte of WEIGHTS or of a range of WEIGHT_REFS (R199, R200, R498). -/
def weightByte (rd : Rd) (x : Nat) : Bool :=
  (decide ((secD rd 2).off ≤ x) && decide (x < (secD rd 2).off + (secD rd 2).len))
  || (weightRefs rd).any (fun r => decide (r.2.1 ≤ x) && decide (x < r.2.1 + r.2.2.2))

/-- A tensor record in range (R200), its scale layout one that R60 or R61 gives its format (R44), its bases at bytes that the image holds
or refers to. -/
def tensorOk (rd : Rd) (b : List Byte) : Bool :=
  decide (1 ≤ fld b 4 1) && decide (fld b 4 1 ≤ 15) && (fld b 5 1 == 0 || fld b 5 1 == 0xD || fld b 5 1 == 0xE)
  && sclOk (fld b 4 1) (fld b 5 1) && (fld b 5 1 != 0xD || fld b 6 1 == 16)
  && (fld b 6 1 == 16 || fld b 6 1 == 32) && decide (1 ≤ fld b 7 1) && decide (fld b 7 1 ≤ 4)
  && zeroAt b 12 4 && zeroAt b 0x30 16
  && weightByte rd (fld b 0x10 8) && (if fld b 5 1 = 0 then zeroAt b 0x18 8 else weightByte rd (fld b 0x18 8))

/-- Order sequences in range (R125, R126, R199): a 16-bit count from 1 to 256, then as many slice indices below it (notes/assumptions/13.md). -/
def ordersOk (rd : Rd) (sc : Sec) : (n o : Nat) → Bool
  | 0, _ => true
  | n + 1, o =>
    let k := rdNum rd (sc.off + o) 2
    decide (1 ≤ k) && decide (k ≤ 256) && decide (o + 2 + 2 * k ≤ sc.len) && (List.range k).all (fun j => decide (rdNum rd (sc.off + o + 2 + 2 * j) 2 < k))
      && ordersOk rd sc n (o + 2 + 2 * k)

/-- A plan's header and step records in range (R203). -/
def planOk (rd : Rd) (p : Plan) : Bool :=
  !p.reserved && decide (p.gangW ≤ 2) && decide (1 ≤ p.gangs) && decide (p.gangs ≤ 32)
  && decide (p.stepList + 4 * p.gangs * p.steps ≤ (secD rd 8).len)
  && (List.range p.steps).all (fun k => (stepItems rd p k).all (fun i => i == 0xFFFFFFFF || decide (i < (secD rd 4).count)))

/-- MODEL_INFO in range (R260). -/
def modelOk (rd : Rd) : Bool :=
  let m := modelInfo rd
  !m.reserved && decide (1 ≤ m.vocab) && decide (m.vocab ≤ 262144) && decide (1 ≤ m.layers) && decide (m.layers ≤ 256)
  && decide (14 ≤ m.pageLog2) && decide (m.pageLog2 ≤ 19) && decide (m.seedHeads ≤ 4) && decide (m.ctxLimit < 2 ^ 24)
  && (m.genPlan == 0xFFFF || decide (m.genPlan < (secD rd 8).count))
  && decide (1 ≤ m.genBatch) && decide (m.genBatch ≤ 256)
  && decide (1 ≤ m.cowMin) && decide (m.cowMin ≤ 63) && decide (0xC0000000 ≤ m.logitsOfs)

/-- Record sizes of the section types whose records have a size. -/
def recSize (ty : Nat) : Nat :=
  match ty with
  | 1 => 64 | 3 => 96 | 4 => 512 | 5 => 64 | 6 => 128 | 7 => 16 | 8 => 64 | 0xA => 16 | 0xB => 256 | _ => 0

/-- Every work-item record of an image. -/
def allWorks (rd : Rd) : List WorkRec := (List.range (secD rd 4).count).map (workRec rd)
/-- Every plan of an image. -/
def allPlans (rd : Rd) : List Plan := (List.range (secD rd 8).count).map (planRec rd)

/-- Check 0x0B: fields, offsets, indices and counts. -/
def rangesOk (rd : Rd) (len : Nat) : Bool :=
  (List.range 12).all (fun t => decide (recSize t * (secD rd t).count ≤ (secD rd t).len) || recSize t == 0)
  && (List.range (secD rd 1).count).all (fun i => tensorOk rd (rd ((secD rd 1).off + 64 * i) 64))
  && (List.range (weightRefs rd).length).all (refFieldsOk rd len)
  && disjointRanges ((weightRefs rd).map (fun r => (r.2.1, r.2.1 + r.2.2.2)))
  && ordersOk rd (secD rd 9) (secD rd 9).count 0
  && (weightOnly rd || (decide ((secD rd 0xB).len = 256) && modelOk rd && (allWorks rd).all (workOk rd)
      && (allPlans rd).all (planOk rd)))

/-- Check 0x03 of one record against the loaded images (R498). -/
def refOk (s : State) (rd : Rd) (i : Nat) : Bool :=
  let o := (secD rd 3).off + 96 * i
  let (h, _, off, n) := nthD (0, 0, 0, 0) (weightRefs rd) i
  match imageOf s h with
  | none => false
  | some m => m.ready && decide (off + n ≤ m.length) && sha384 (imageReads s h off n) == rd (o + 32) 48

/-- Check 0x04: tile descriptors (R44, R99). -/
def tilesOk (rd : Rd) (r : WorkRec) : Bool :=
  (recTiles rd r).all (fun d => tileLegal d r.gangW (swBanksOf r.swCode * 65536))

/-- Whether an opcode is defined, with the formats it takes (R43, R44, R167 to R169, R172). -/
def vFormOk (x : Nat × VInstr) : Bool :=
  let dt := x.2.dt.toNat
  let op := x.1
  if op = 0x00 ∨ op = 0x35 ∨ op = 0x38 then true
  else if op = 0x0A ∨ op = 0x30 ∨ op = 0x31 ∨ op = 0x32 then isVecFmt dt
  else if op = 0x01 ∨ op = 0x02 ∨ op = 0x03 ∨ op = 0x05 ∨ op = 0x06 then dt == 1 || dt == 2 || dt == 0xA
  else if op = 0x04 ∨ op = 0x07 ∨ op = 0x08 then dt == 1 || dt == 2
  else if op = 0x09 ∨ op = 0x20 then dt == 1 || dt == 0xA
  else if op = 0x0C then isVecFmt dt && isVecFmt x.2.dt2.toNat
  else if op = 0x0D ∨ op = 0x23 ∨ op = 0x34 then dt == 0xA
  else if op = 0x18 then quantOk x.2
  else if op = 0x21 then dt == 1 && decide (x.2.vd.val ≠ 31)
  else if op = 0x0B ∨ (0x10 ≤ op ∧ op ≤ 0x17) ∨ op = 0x22 ∨ op = 0x33 then dt == 1
  else false

/-- Registers an instruction reads. -/
def vReads (x : Nat × VInstr) : List Nat :=
  let b := if x.2.bimm then [] else [x.2.vb.val]
  let op := x.1
  if op = 0x04 ∨ op = 0x0A ∨ op = 0x17 then [x.2.va.val, x.2.vc.val] ++ b
  else if (0x01 ≤ op ∧ op ≤ 0x09) ∨ op = 0x0D ∨ op = 0x16 ∨ op = 0x18 then x.2.va.val :: b
  else if (0x0B ≤ op ∧ op ≤ 0x15) ∨ op = 0x20 ∨ op = 0x21 ∨ op = 0x31 then [x.2.va.val]
  else if op = 0x22 then [x.2.vd.val]
  else []

/-- Registers an instruction writes. -/
def vWrites (x : Nat × VInstr) : List Nat :=
  let op := x.1
  if op = 0x18 ∨ op = 0x21 then [x.2.vd.val, x.2.vd.val + 1]
  else if op = 0x00 ∨ op = 0x23 ∨ op = 0x31 ∨ op = 0x35 ∨ op = 0x38 then []
  else [x.2.vd.val]

/-- Whether no instruction names a register while an earlier write to it is in flight (R164). `fly` lists registers with
the clock of their write. -/
def vHazardFree (banks : Nat) : (c : Nat) → (fly : List (Nat × Nat)) → List (Nat × VInstr) → Bool
  | _, _, [] => true
  | c, fly, x :: xs =>
    let t := c + x.2.gap.toNat
    let tm := vTiming banks x
    (vReads x ++ vWrites x).all (fun r => fly.all (fun f => f.1 != r || decide (f.2 ≤ t)))
      && vHazardFree banks (t + tm.1) ((vWrites x).map (fun r => (r, t + tm.2)) ++ fly) xs

/-- Check 0x05: vector streams. -/
def streamOk (rd : Rd) (r : WorkRec) : Bool :=
  (recStream rd r).all vFormOk && vHazardFree (swBanksOf r.swCode) 0 [] (recStream rd r)

/-- NT of R185 for tokens, choices, experts and rows of a group: the least number of groups. -/
def minGroups (t k x r : Nat) : Nat := (t * k + Nat.min x (t * k) * (r - 1)) / r

/-- Check 0x07: every declared row-group count is at least that of R185, with R = 16 × E × gang width. An image without EXPSORT routes no
experts and declares none. -/
def groupsOk (bs : List Byte) (rd : Rd) (works : List WorkRec) : Bool :=
  works.all (fun w => (recStream rd w).all (fun x => x.1 != 0x23))
  || (Config.rowGroups bs).all (fun (t, k, x, e, w, nt) => decide (minGroups t k x (16 * e * w) ≤ nt))

/-- Check 0x08: rings and slots of a record (R142, R204, R207). -/
def spansOk (rd : Rd) (r : WorkRec) : Bool :=
  let sl := (recSlots rd r).map (fun b => (fld b 0 4, fld b 0 4 + fld b 4 4))
  disjointRanges (r.rings.filterMap ringSpan ++ sl)

/-- Check 0x09: declared counts and engine loads (R499). -/
def minimaOk (rd : Rd) (r : WorkRec) : Bool :=
  decide (declaredMin rd r ≤ r.declared)
  && (List.range r.nFe).all (fun e =>
      let l := nthD [] (recLists rd r) e
      l.isEmpty || decide (engineTime l ≤ nthD 0 r.feLoad e))

/-- Check 0x0A of a plan (R203, R204). -/
def planFits (rd : Rd) (p : Plan) : Bool :=
  decide (p.barMax ≤ 256) && decide (p.feMax ≤ p.stepD) && decide (p.gangs * gangWidth p.gangW ≤ 64)
  && (List.range p.steps).all (fun k =>
      let ws := ((stepItems rd p k).filter (· != 0xFFFFFFFF)).map (workRec rd)
      ws.all (fun w => decide (w.declared ≤ p.stepD) && w.feLoad.all (fun x => decide (x ≤ p.feMax)))
      && decide (sumN (ws.map (·.nBar)) ≤ p.barMax) && decide (sumN (ws.map (·.nFe)) ≤ p.feSlots))

/-- The first failing check as REASON (R354), 0 when the image loads. -/
def imageReason (s : State) (bs : List Byte) (len : Nat) : Nat :=
  let rd : Rd := slice bs
  let works := if weightOnly rd then [] else allWorks rd
  let plans := if weightOnly rd then [] else allPlans rd
  if !headerOk rd len then 0x01
  else if !digestOk bs then 0x02
  else if !rangesOk rd len then 0x0B
  else if !(List.range (weightRefs rd).length).all (refOk s rd) then 0x03
  else if !works.all (tilesOk rd) then 0x04
  else if !works.all (streamOk rd) then 0x05
  else if !works.all (fun r => (recLists rd r).all (fun l => l.all (fun d => d.space != 3))) then 0x06
  else if !groupsOk bs rd works then 0x07
  else if !works.all (spansOk rd) then 0x08
  else if !works.all (minimaOk rd) then 0x09
  else if !plans.all (planFits rd) then 0x0A
  else 0

end Sys2Proof.Machine
end

