-- ==== Sys2Proof/Machine/Access.lean ====
section
/-! DEFINITION. Accesses to memory on behalf of tenants: demand mapping of pool frames (R155, R248), read-only pages (R247),
the region table and its checks (R326, R327), the mere cache (R158, R159), and poisoned data (R380). -/

namespace Sys2Proof.Machine

/-! ### The page pool -/

/-- Frames booked by an LD's requests and not yet mapped (LD_POOL_BOOKED, R248). -/
def poolBooked (s : State) (t : Nat) : Nat :=
  sumN (s.work.map (fun p => if (entryOf s p.1).ld = t ∧ (entryOf s p.1).state ≠ .free then p.2.booking else 0))

/-- Frames booked by every LD. -/
def allBooked (s : State) : Nat := sumN (s.work.map (fun p => if (entryOf s p.1).state = .free then 0 else p.2.booking))

/-- LD_POOL_LIMIT of an LD. -/
def poolLimit (s : State) (t : Nat) : Nat := regField s (ldPoolOff t) 31 0

/-- What the device keeps beside an entry. -/
def workOf (s : State) (i : Nat) : Work := (lookupN i s.work).getD {}
/-- The same, replaced. -/
def setWork (s : State) (i : Nat) (w : Work) : State := { s with work := insertN i w s.work }
/-- An entry replaced. -/
def setEntry (s : State) (i : Nat) (e : Entry) : State :=
  { s with rqt := if e.state = .free then eraseN i s.rqt else insertN i e s.rqt }

/-- The first cause of R227 that affected a request. -/
def noteCause (s : State) (i c : Nat) : State :=
  let w := workOf s i
  if w.moveCause = 0 then setWork s i { w with moveCause := c } else s

/-- The same for every request that a work item serves: its own, or the seats of its round. -/
def noteItem (s : State) (w : ItemRun) (c : Nat) : State :=
  match w.round with
  | none => noteCause s w.rqt c
  | some n => match s.rounds.find? (fun r => r.id == n) with
    | some r => r.seats.foldl (fun s i => noteCause s i c) s
    | none => s

/-- One page of the device-managed half mapped for a tenant (R155): from the request's booked frames while any remain,
otherwise from FREE frames that nobody has booked, within the LD's limit; none is NO_FRAME. -/
def mapPage (s : State) (t : LdId) (entry : Option Nat) (v : Nat) : Option State :=
  let booked := match entry with
    | some i => decide (0 < (workOf s i).booking)
    | none => false
  match takeFree s 1 with
  | [] => none
  | f :: _ =>
    if booked || (decide (allBooked s < freeCount s) && decide (poolUsed s t.val + poolBooked s t.val < poolLimit s t.val)) then
      let s := giveFrame s f (.pool t.val)
      let s := setTen s t { ten s t with tva := insertN (v / 65536) f (ten s t).tva }
      match entry with
      | some i => if booked then some (setWork s i { workOf s i with booking := (workOf s i).booking - 1 }) else some s
      | none => some s
    else none

/-- Every unmapped page of a device-managed range mapped in turn, none where one cannot be. -/
def mapRange (s : State) (t : LdId) (entry : Option Nat) (v : Nat) : (pages : Nat) → Option State
  | 0 => some s
  | n + 1 =>
    let s' := if (tvaDpa s t v).isSome then some s else mapPage s t entry v
    match s' with
    | none => none
    | some s' => mapRange s' t entry (v / 65536 * 65536 + 65536) n


/-- A page released: its frames go back to FREE (R34, R247). -/
def unmapRange (s : State) (t : LdId) (v bytes : Nat) : State :=
  (List.range (cdiv bytes 65536)).foldl (fun s i =>
    match lookupN (v / 65536 + i) (ten s t).tva with
    | some f => setTen (setTag s f .free) t { ten s t with tva := eraseN (v / 65536 + i) (ten s t).tva }
    | none => s) s

/-- Whether a node of the prefix tree holds a page. -/
def nodeHolds (s : State) (t tva : Nat) : Bool := s.nodes.any (fun n => n.ld == t && n.pages.contains tva)

/-- Whether a write at a TVA meets a read-only page: a shared page, a page that a node holds, or a learned-prefix alias
(R247, R255). -/
def tvaReadOnly (s : State) (t : LdId) (v n : Nat) : Bool :=
  decide (lpAlias ≤ v)
  || s.pages.any (fun p => p.ld == t.val && decide (p.tva < v + n) && decide (v < p.tva + 2 ^ p.log2)
      && (decide (1 < p.refs) || nodeHolds s t.val p.tva))

/-! ### Regions -/

/-- RL_NODE. -/
def ownNode (s : State) : Nat := regField s (rlReg 0 0x1000) 11 0

/-- Register `r` of region `i`. -/
def rgn (s : State) (i r : Nat) : Nat := regGet s (rgnOff i r)
/-- First offset of a region. -/
def rgnBase (s : State) (i : Nat) : Nat := bits (rgn s i 0) 51 21 * 2 ^ 21
/-- Bytes of a region. -/
def rgnSize (s : State) (i : Nat) : Nat := bits (rgn s i 1) 30 0 * 2 ^ 21
/-- Whether a region entry is in use. -/
def rgnValid (s : State) (i : Nat) : Bool := bitAt (rgn s i 3) 0
/-- LD of a region. -/
def rgnLd (s : State) (i : Nat) : Nat := bits (rgn s i 2) 52 48
/-- First TVA of a region. -/
def rgnTva (s : State) (i : Nat) : Nat := bits (rgn s i 2) 47 21 * 2 ^ 21

/-- The valid region that contains an offset. -/
def rgnFind (s : State) (off : Nat) : Option Nat :=
  ((s.regs.filter (fun p => decide (rgnOff 0 0 ≤ p.1) && decide (p.1 < rgnOff 512 0))).map
    (fun p => (p.1 - rgnOff 0 0) / 32)).find? (fun i =>
      rgnValid s i && decide (rgnBase s i ≤ off) && decide (off < rgnBase s i + rgnSize s i))

/-- Accesses as the permission check names them. -/
inductive RailOp where
  | rd | wr | atomic
  deriving DecidableEq, Repr

/-- Permission bit of an access (R339). -/
def railBit : RailOp → Nat
  | .rd => 3
  | .wr => 4
  | .atomic => 5

/-- Checks 2 to 6 of R327 and the region's TVA, or the NACK code. -/
def rgnCheck (s : State) (op : RailOp) (ctx src off n : Nat) : Except Nat (LdId × Nat) :=
  match rgnFind s off with
  | none => .error 2
  | some i =>
    let c := rgn s i 3
    if ctx ≠ rgnLd s i ∨ 16 ≤ rgnLd s i then .error 3
    else if !bitAt c 7 ∧ src ≠ bits c 31 20 then .error 4
    else if !bitAt c (railBit op) then .error 5
    else if rgnBase s i + rgnSize s i < off + n then .error 6
    else .ok (ldId (rgnLd s i), rgnTva s i + (off - rgnBase s i))

/-- Check 7 of R327: translation, mapping device-managed pages from the LD's free frames, and no write to a read-only
page. -/
def rgnTranslate (s : State) (op : RailOp) (t : LdId) (v n : Nat) : Except Nat State :=
  if op ≠ .rd ∧ tvaReadOnly s t v n then .error 5
  else if tvaMapped s t v n then .ok s
  else if v < 2 ^ 47 ∨ lpAlias ≤ v then .error 8
  else match mapRange s t none v ((v % 65536 + n + 65535) / 65536) with
    | some s => .ok s
    | none => .error 7

/-- The checks of R327 from the region on. -/
def railAccess (s : State) (op : RailOp) (ctx src off n : Nat) : Except Nat (State × LdId × Nat) :=
  match rgnCheck s op ctx src off n with
  | .error c => .error c
  | .ok (t, v) => match rgnTranslate s op t v n with
    | .error c => .error c
    | .ok s => .ok (s, t, v)

/-! ### The mere cache -/

/-- Set of a line in its slice: the slice's own lines in ascending address (R31, R158; notes/assumptions/16.md). -/
def mereSet (line : Nat) : Nat := (line / 20 * 5 + line % 20 % 5) % 32768

/-- Leaves below node `i` at depth `d` of the 16-way tree. -/
def plruLeaves (i d : Nat) : List Nat := (List.range (2 ^ (4 - d))).map (fun k => i * 2 ^ (4 - d) + k - 16)

/-- The way that tree pseudo-LRU replaces among the allowed ones: bits point to the older half, and a half without an
allowed way is passed over. -/
def plruPick (ok : Nat → Bool) (t : Nat) : (d : Nat) → (i : Nat) → Nat
  | 0, i => i - 16
  | d + 1, i =>
    let l := 2 * i
    let r := 2 * i + 1
    let lo := (plruLeaves l (4 - d)).any ok
    let ro := (plruLeaves r (4 - d)).any ok
    plruPick ok t d (if lo && (!ro || !bitAt t i) then l else r)

/-- The tree after an access to a way: each bit on the path points to the other half. -/
def plruTouch (way : Nat) (t : Nat) : Nat :=
  [1, 2, 3, 4].foldl (fun t d =>
    let i := (way + 16) / 2 ^ (5 - d)
    let right := (way + 16) / 2 ^ (4 - d) % 2
    putBits t i i (1 - right)) t

/-- The ways of a hint: KEEP ways are the lowest (R159). -/
def hintWays (keepWays hint : Nat) (w : Nat) : Bool := if hint = 1 then decide (w < keepWays) else decide (keepWays ≤ w)

/-- A read of one line by a requester with a hint (R158, R159): a hit, or a miss that allocates as the hint says. -/
def mereRead (s : State) (dpa hint : Nat) : State :=
  let n := dpaDie dpa
  let k : Fin 4 := Fin.ofNat 4 n
  let m := s.mere[k]
  let line := dpa / 256
  let set := mereSet line
  let t := (lookupN set m.plru).getD 0
  match m.lines.find? (fun l => l.line == line) with
  | some l =>
    regBump { s with mere := s.mere.set k { m with plru := insertN set (plruTouch l.way t) m.plru } } (mcReg n 0x08) 1
  | none =>
    let s := regBump s (mcReg n 0x10) 1
    let ok := hintWays m.keepWays hint
    if 2 ≤ hint ∨ !m.allocates ∨ !(List.range 16).any ok then s
    else
      let inSet := m.lines.filter (fun l => mereSet l.line == set)
      let free := (List.range 16).find? (fun w => ok w && inSet.all (fun l => l.way != w))
      let way := free.getD (plruPick ok t 4 1)
      let rest := m.lines.filter (fun l => !(mereSet l.line == set && l.way == way))
      let s := { s with mere := s.mere.set k { m with
        lines := rest ++ [{ line := line, keep := hint == 1, way := way }]
        plru := insertN set (plruTouch way t) m.plru } }
      disarm (regBump s (mcReg n 0x20) (b2n (hint == 1))) 6 n

/-! ### Activity of work items (R422) -/

/-- What bears the energy of a work item: its request, or the seats of its round with the positions that each feeds. -/
def itemBearer (s : State) (w : ItemRun) : Bearer :=
  match w.round.bind (fun n => s.rounds.find? (fun r => r.id == n)) with
  | some r =>
    let heads := (modelInfo (imgRd s r.image)).seedHeads
    .round (r.seats.map (fun i => (i, 1 + (if ((lookupN i s.rqt).map (·.draft)).getD false then heads else 0))))
  | none => .entry w.rqt

/-- The array-clocks of a work item in the interval so far, in hundredths of a clock at the operating point. -/
def meterArrays (s : State) (w : ItemRun) : State :=
  let n := w.width * (s.tick.rqtTime - Nat.max s.tick.lastTick s.power.meterAt) * opMhz s.power.op
  { s with power := { s.power with meter := { s.power.meter with arrClks := meterAdd (itemBearer s w) n s.power.meter.arrClks } } }

/-- Array-clocks of every work item that has not completed (R422). -/
def meterItems (s : State) : State := s.items.foldl (fun s w => if w.done then s else meterArrays s w) s

/-! ### Poison -/

/-- The LD whose window holds a DPA, with the LD offset. -/
def windowOf (s : State) (dpa : Nat) : Option (LdId × Nat) :=
  match frameTag s (dpa / 65536) with
  | .window t =>
    match findIdxFrom (fun u => u == dpa / 2 ^ 21) (ten s (ldId t)).window 0 with
    | some (k, _) => some (ldId t, k * 2 ^ 21 + dpa % 2 ^ 21)
    | none => none
  | _ => none

/-- PC_RETIRE, and the retirement that R389's error counts call for (R389 to R391): the pseudo-channel leaves the geometry table and takes
slot 0, then slot 1, whose copy begins; a second retirement copies slot 0 again. A third is not retired, and PC_SPARES_OUT is set. -/
def retirePc (s : State) (pc : Nat) : State :=
  if !pcEnabled s pc then s
  else
    let o := fltReg 0x018
    let v0 := regField s o 15 15 = 1
    let v1 := regField s o 31 31 = 1
    if v0 ∧ v1 then regFlag s (fltReg 0x008) 3
    else
      let s := if v0 then regPut (regPut (regPut (regPut s o 31 31 1) o 30 30 0) o 25 16 pc) o 14 14 0
        else regPut (regPut (regPut s o 15 15 1) o 14 14 0) o 9 0 pc
      let now := s.tick.rqtTime
      let s := { s with faults := { s.faults with copyFrom := if v0 then [(0, now), (1, now)] else [(0, now)] } }
      logAt (geoBump (regClearBit s (glbReg (0x120 + 8 * (pc / 64))) (pc % 64))) 0 0 0x07 pc 0x000C

/-- An error noted against its pseudo-channel (R389): 8 distinct uncorrectable lines or 4,096 corrected errors within 1,000 s retire
it. -/
def notePcErr (s : State) (pc : Nat) (line : Option Nat) (n : Nat) : State :=
  let now := s.tick.rqtTime
  let es : List PcErr := (s.faults.pcErrs.filter (fun x => decide (now < x.time + 100000000000))) ++ [{ pc := pc, time := now, line := line, n := n }]
  let mine : List PcErr := es.filter (fun x => x.pc == pc)
  let s := { s with faults := { s.faults with pcErrs := es } }
  if 8 ≤ (mine.filterMap (·.line)).eraseDups.length ∨ 4096 ≤ sumN ((mine.filter (fun x => x.line.isNone)).map (·.n)) then
    retirePc s pc
  else s

/-- Bursts of a line corrected (R372, R389): counted, and logged as CORRECTED; the syndrome in DETAIL (R392) is open. -/
def eccCorrect (s : State) (dpa n : Nat) : State :=
  let pc := physPc s dpa
  let v := (drawReg s).toNat
  let s := logFault (regBump (tickFree s) (fltReg 0x050) n)
    { cls := 0, domain := 0, source := 0x07, unit := pc, code := 0x0002, fseq := 0, furrow := 0, clk := nowClk s
      addr := dpa / 256 * 256, detail := v }
  notePcErr s pc none n

/-- A line that cannot be corrected is poisoned (R372, R380, R389, R393): counted once, and an event of the LD whose window it lies in.
`quiet` is whether the reader's own record describes the effect of the error, which belongs to one class only (R373); else it is logged as
CORRECTED. -/
def eccPoison (s : State) (dpa : Nat) (quiet : Bool) : State :=
  let l := dpa / 256
  if s.poison.contains l then s
  else
    let pc := physPc s dpa
    let s := regBump { s with poison := addN l s.poison } (fltReg 0x058) 1
    let v := (drawReg s).toNat
    let s := if quiet then s
      else logFault (tickFree s) { cls := 0, domain := 0, source := 0x07, unit := pc, code := 0x0003, fseq := 0, furrow := 0
                                   clk := nowClk s, addr := l * 256, detail := v }
    let s := notePcErr s pc (some l) 1
    match windowOf s dpa with
    | some (t, off) => mediaEvent s t off
    | none => s

/-- The memory controller's work on a read of a line (R372): bursts with an injected one-symbol error are corrected and written back, a
two-symbol error poisons the line. -/
def hbmRead (quiet : Bool) (s : State) (dpa : Nat) : State :=
  let mine := s.faults.injected.filter (fun x => x.1 / 8 == dpa / 256)
  if mine.isEmpty then s
  else
    let s := { s with faults := { s.faults with injected := s.faults.injected.filter (fun x => x.1 / 8 != dpa / 256) } }
    if mine.all (fun x => x.2 == 1) then eccCorrect s dpa mine.length else eccPoison s dpa quiet

/-! ### Reads and writes of lines, from any source (R23) -/

/-- Whether the slice of a DPA holds its line. -/
def merePresent (s : State) (dpa : Nat) : Bool := (s.mere[Fin.ofNat 4 (dpaDie dpa)]).lines.any (fun l => l.line == dpa / 256)

/-- A line read through the mere cache: a hit is answered by the slice, a miss by the memory controller (R158, R159, R372). -/
def lineRead (hint : Nat) (s : State) (dpa : Nat) : State :=
  let s := if merePresent s dpa then s else hbmRead false s dpa
  mereRead s dpa hint

/-- The same for a reader whose own record tells of poison that it consumes (R373). -/
def workRead (hint : Nat) (s : State) (dpa : Nat) : State :=
  let s := if merePresent s dpa then s else hbmRead true s dpa
  mereRead s dpa hint

/-- Lines of a range of DPA read by the device, with NO_ALLOC (R23). -/
def memTouch (s : State) (a n : Nat) : State := (memPieces a n).foldl (fun s x => workRead 2 s x.1) s

/-- DPA of a byte in each line that a TVA range touches. -/
def tvaLines (s : State) (t : LdId) (v n : Nat) : List Nat :=
  if n = 0 then []
  else (List.range (cdiv (v % 256 + n) 256)).filterMap (fun k => tvaDpa s t (if k = 0 then v else v / 256 * 256 + 256 * k))

/-- A TVA range read by a requester with a hint: what reading its lines does to the state. -/
def tvaTouch (s : State) (t : LdId) (v n hint : Nat) : State := (tvaLines s t v n).foldl (workRead hint) s

/-- The same for a reader outside the device, for whom no record but the memory controller's tells of poison. -/
def peerTouch (s : State) (t : LdId) (v n : Nat) : State := (tvaLines s t v n).foldl (lineRead 2) s

/-- Ranges of a tenant's memory read by the device. -/
def touchAll (s : State) (t : LdId) (rs : List (Nat × Nat)) : State := rs.foldl (fun s r => tvaTouch s t r.1 r.2 2) s

/-- Whether a range among some meets a poisoned line. -/
def anyPoisoned (s : State) (t : LdId) (rs : List (Nat × Nat)) : Bool := rs.any (fun r => tvaPoisoned s t r.1 r.2)

/-- What the serving block and the control complex read of a tenant's memory: no allocation (notes/assumptions/16.md). -/
def devTouch (s : State) (t : LdId) (v n : Nat) : State := tvaTouch s t v n 2

/-- Lines that a write covers whole lose their poison (R372). -/
def unpoison (s : State) (a n : Nat) : State :=
  { s with poison := s.poison.filter (fun l => !(decide (a ≤ l * 256) && decide (l * 256 + 256 ≤ a + n))) }

/-- The pieces, each within a line, of a TVA range, by DPA. -/
def tvaPieces (s : State) (t : LdId) (v n : Nat) : List (Nat × Nat) :=
  (memPieces v n).filterMap (fun x => (tvaDpa s t x.1).map (fun p => (p, x.2)))

/-- Lines of a TVA range that a write covers whole: their poison goes (R372). -/
def tvaUnpoison (s : State) (t : LdId) (v n : Nat) : State :=
  (List.range (n / 256 + 1)).foldl (fun s k =>
    let a := (v + 255) / 256 * 256 + 256 * k
    if v + n < a + 256 then s
    else match tvaDpa s t a with
      | some p => unpoison s p 256
      | none => s) s

/-- Bytes written at a TVA, through the slices of their lines (R23, R158). -/
def tvaStore (s : State) (t : LdId) (v : Nat) (bs : List Byte) : State :=
  piecesWrote (tvaUnpoison (tvaWrites s t v bs) t v bs.length) (tvaPieces s t v bs.length)

/-- The device's own writes into a tenant's device-managed range (R244, R246): pages are mapped on demand first. -/
def devWrite (s : State) (t : LdId) (entry : Option Nat) (v : Nat) (bs : List Byte) : State :=
  match mapRange s t entry v ((v % 65536 + bs.length + 65535) / 65536) with
  | some s => tvaStore s t v bs
  | none => s

/-- The image, adapters and learned prefixes whose frames hold a frame are marked DAMAGED (R380). -/
def damageFrame (s : State) (f : Nat) : State :=
  { s with
    images := s.images.map (fun m => m.map (fun m => if m.frames.contains f then { m with damaged := true } else m))
    adapters := s.adapters.map (fun a => if a.frames.contains f then { a with damaged := true } else a)
    lps := s.lps.map (fun l => if l.frames.contains f then { l with damaged := true } else l) }

/-- An access of the own node that its region table denies (R41, R327): counted as the NACK sent and as the NACK received, with the own
node and the code in RL_LAST_NACK. -/
def ownDenied (s : State) (code : Nat) : State :=
  let o := rlReg 0 0x1030
  let s := regBump (regBump s (rlReg 0 0x1040) 1) (rlReg 0 0x1048) 1
  regPut (regPut (regPut s o 63 52 (ownNode s)) o 47 40 code) o 0 0 1

/-- An access beyond the window (R35, R373, R393): counted, logged as CORRECTED, and an event record of the LD. -/
def windowMiss (s : State) (t : LdId) (off : Nat) : State :=
  let r : FaultRec := { cls := 0, domain := 0, source := 0x0A, unit := 0, code := 0x000E, fseq := regGet s (fltReg 0x010)
                        furrow := curFurrow s, clk := nowClk s, ld := t.val, addr := off, bootId := s.sec.bootId }
  tenantEvent (logFault (regBump s (fltReg (0x100 + 16 * t.val)) 1) r) t (faultBytes r)

/-- Status with which a request that consumed poison at a DPA fails (R379, R380). -/
def poisonStatus (s : State) (dpa : Nat) : Nat := if frameTag s (dpa / 65536) = .image then 0x0204 else 0x0203

end Sys2Proof.Machine
end

