-- ==== Sys2Proof/Machine/Records.lean ====
section
/-! DEFINITION. Request table entries as bytes (R233, R276), the records of requests (R272 to R275), completion queues with
their overflow (R360, R361), and their vectors (R363, R364): COMPLETION_VECTOR, COAL_TIMER, SQ_TAIL and CQ_HEAD (R358). -/

namespace Sys2Proof.Machine

/-- STATE codes (R233). -/
def rqCode : RqState → Nat
  | .free => 0
  | .queued => 1
  | .admitted => 2
  | .running => 3
  | .generating => 4
  | .parking => 5
  | .parked => 6
  | .lifting => 7
  | .complete => 8
  | .cancelled => 9
  | .failed => 10
  | .failedPartial => 11

/-- First TVA of entry `i`'s work area (R244). -/
def workArea (i : Nat) : Nat := 0x800000000000 + i * 2 ^ 32
/-- TVA of entry `i`'s block-descriptor list (R244). -/
def pageList (i : Nat) : Nat := workArea i + 0x40000000
/-- RESERVE address of the line that holds a structure of R380: 1 prefix-tree node, 2 completion overflow of an LD, 3 request shadow,
4 page-pool metadata, 5 booking calendar, 6 role staging, 7 journal staging, 8 firmware copy, 9 translation tables of an LD, with its number
(notes/assumptions/85.md). -/
def reserveLine (s : State) (kind n : Nat) : Nat := hbmCap s - 14 * 2 ^ 30 + kind * 2 ^ 30 + n * 256

/-- RESERVE address of entry `i`'s counts table (notes/assumptions/18.md). -/
def countsAddr (s : State) (i : Nat) : Nat := hbmCap s - 16 * 2 ^ 30 + i * 2 ^ 19

/-- Whether an entry is retained (R235). -/
def retained (e : Entry) : Bool :=
  ((e.state == .complete || e.state == .cancelled) && e.retain) || e.state == .failedPartial

/-- The 256 bytes of an entry (R233). A FREE entry is all zeros (R276). -/
def entryBytes (s : State) (i : Nat) (e : Entry) : List Byte :=
  if e.state = .free then List.replicate 256 0
  else
    let opt (o : Option Nat) (d : Nat) : Nat := o.getD d
    toLE 1 (rqCode e.state) ++ toLE 1 e.ld ++ toLE 1 e.queue
    ++ toLE 1 (e.cls + 4 * b2n e.acceptRequote + 8 * b2n e.retain + 16 * b2n e.cancelPending + 32 * b2n e.late
        + 64 * b2n e.forest + 128 * b2n e.draft)
    ++ toLE 2 e.image ++ toLE 1 (opt e.adapterSlot 0xFF) ++ toLE 1 (opt e.lpSlot 0xFF) ++ toLE 2 e.adapterId
    ++ toLE 2 e.plan ++ toLE 4 e.tag ++ toLE 8 e.tSubmit ++ toLE 4 e.ttft ++ toLE 4 e.tbt ++ toLE 8 e.quote
    ++ toLE 4 e.committed ++ toLE 4 e.booked ++ toLE 8 (pageList i) ++ toLE 8 (countsAddr s i) ++ slice e.seedRng.seed 0 16
    ++ toLE 8 (e.seedRng.rngBase.toNat + e.committed + 1) ++ toLE 8 e.energy ++ toLE 8 e.rpb
    ++ toLE 4 (opt e.pendingTok 0xFFFFFFFF) ++ toLE 2 e.genLeft ++ toLE 2 e.tbtMiss ++ toLE 8 e.tFirst ++ toLE 8 e.tLast
    ++ toLE 8 e.tailQuote ++ toLE 4 e.tbtMax ++ toLE 4 e.draftsAccepted ++ toLE 4 e.prefixHit
    ++ toLE 2 (opt e.parent 0xFFFF) ++ toLE 1 e.lateCause ++ toLE 1 e.stop ++ toLE 2 e.status ++ toLE 2 0
    ++ toLE 4 e.targetLen ++ toLE 8 e.quoteOrig ++ toLE 8 e.bundle ++ toLE 8 (workArea i) ++ List.replicate 72 0

/-- RQT_TIME. -/
def rqtNow (s : State) : Nat := s.tick.rqtTime

/-- Entries of an LD that are not FREE. -/
def ldEntries (s : State) (t : Nat) : List (Nat × Entry) := s.rqt.filter (fun p => p.2.ld == t && p.2.state != .free)

/-- The entry of an LD with a tag (R237). -/
def byTag (s : State) (t tag : Nat) : Option (Nat × Entry) := (ldEntries s t).find? (fun p => p.2.tag == tag)

/-! ### Records -/

/-- A token record (R273), without its phase bit. -/
def tokenRec (i : Nat) (tag pos : Nat) (toks : List Nat) (seq : Nat) : List Byte :=
  toLE 1 1 ++ toLE 1 toks.length ++ toLE 2 i ++ toLE 4 tag ++ toLE 4 pos ++ toLE 4 0
  ++ slice (toks.flatMap (toLE 4)) 0 44 ++ toLE 2 seq ++ toLE 2 0

/-- A duration in µs, saturating at 32 bits (R274). -/
def usOf (t0 t1 : Nat) : Nat := Nat.min ((t1 - t0) / 100) (2 ^ 32 - 1)

/-- A completion record (R274), without its phase bit. -/
def complRec (s : State) (i : Nat) (e : Entry) (w : Work) : List Byte :=
  toLE 1 2 ++ toLE 1 (rqCode e.state) ++ toLE 2 i ++ toLE 4 e.tag ++ toLE 2 e.status ++ toLE 1 e.stop ++ toLE 1 e.lateCause
  ++ toLE 4 e.committed ++ toLE 8 (rqtNow s) ++ toLE 8 e.quoteOrig
  ++ toLE 4 (if w.tFirstSet then usOf e.tSubmit e.tFirst else 0) ++ toLE 4 e.tbtMax ++ toLE 2 e.tbtMiss ++ toLE 2 w.generated
  ++ toLE 4 e.draftsAccepted ++ toLE 8 e.energy ++ toLE 4 e.prefixHit ++ toLE 2 w.seq ++ toLE 2 0

/-- The completion record of a submission that entered no entry, or was refused (R274). -/
def bareRec (s : State) (tag status : Nat) (quote : Option Nat) (idx seq committed : Nat) : List Byte :=
  toLE 1 2 ++ toLE 1 0 ++ toLE 2 idx ++ toLE 4 tag ++ toLE 2 status ++ toLE 1 0 ++ toLE 1 0 ++ toLE 4 committed
  ++ toLE 8 (rqtNow s) ++ toLE 8 (quote.getD (2 ^ 64 - 1)) ++ List.replicate 28 0 ++ toLE 2 seq ++ toLE 2 0

/-! ### Journal records due (R299, R301) -/

/-- A journal record due at the coming headland. -/
def jrnlAdd (s : State) (r : JRec) : State := { s with jrnl := { s.jrnl with due := s.jrnl.due ++ [r] } }

/-- A tenant's journal record of an entry. -/
def jrnlPut (s : State) (i ty : Nat) (body : List Byte) : State :=
  let e := entryOf s i
  jrnlAdd s { ty := ty, ld := e.ld, idx := i, tag := e.tag, body := body }

/-- TOKENS bodies of an input (R301), from token `first` on, at most 4,080 in each. -/
def tokenBodies : (fuel first : Nat) → List Nat → List (List Byte)
  | 0, _, _ => []
  | n + 1, first, ts =>
    if ts.isEmpty then []
    else
      let c := ts.take 4080
      (toLE 4 first ++ toLE 4 c.length ++ toLE 8 0 ++ c.flatMap (toLE 4)) :: tokenBodies n (first + c.length) (ts.drop 4080)

/-- The SUBMIT record of an entry's submission, with its TOKENS records. -/
def jrnlSubmit (s : State) (i : Nat) (cont : Bool) : State :=
  let e := entryOf s i
  let w := workOf s i
  let s := jrnlPut s i 2 (toLE 1 e.queue ++ toLE 1 (b2n cont) ++ toLE 2 0 ++ toLE 4 w.tokens.length ++ toLE 8 0
    ++ slice e.seedRng.raw 0 2432)
  (tokenBodies (w.tokens.length / 4080 + 1) 0 w.tokens).foldl (fun s b => jrnlPut s i 7 b) s

/-- PROGRESS bodies of an entry (R301). -/
def progressBodies (e : Entry) : (fuel : Nat) → List Nat → List (List Byte)
  | 0, _ => []
  | n + 1, ts =>
    let c := ts.take 4064
    let b := toLE 1 (rqCode e.state) ++ toLE 1 e.stop ++ toLE 2 e.status ++ toLE 4 e.committed
      ++ toLE 4 (e.pendingTok.getD 0xFFFFFFFF) ++ toLE 2 e.genLeft ++ toLE 2 0
      ++ toLE 8 (e.seedRng.rngBase.toNat + e.committed + 1) ++ toLE 4 c.length ++ toLE 4 0 ++ c.flatMap (toLE 4)
    if ts.length ≤ 4064 then [b] else b :: progressBodies e n (ts.drop 4064)

/-- Whether an entry is that of a lift into a new entry whose BUNDLE record, its first, is still to come (R301). -/
def unnamedLift (s : State) (i : Nat) : Bool := s.ops.any (fun o => o.entry == i && o.kind == 2 && o.isNew && !o.headerOk)

/-- The PROGRESS records of a changed entry join the records due, and the mark is cleared: at a headland, and before a SUBMIT or BUNDLE
record of the entry, so that the tokens of one come before the other. -/
def flushProgress (s : State) (i : Nat) : State :=
  let w := workOf s i
  if !w.changed ∨ unnamedLift s i then s
  else
    let s := (progressBodies (entryOf s i) (w.streamed.length / 4064 + 1) w.streamed).foldl (fun s b => jrnlPut s i 4 b) s
    setWork s i { workOf s i with changed := false, streamed := [] }

/-- Version of the adapter that an entry is bound to. -/
def adapterVerOf (s : State) (e : Entry) : Nat :=
  match e.adapterSlot with
  | some a => (s.adapters[Fin.ofNat 32 a]).version
  | none => 0

/-- The ADMIT record of an admission or of a new quote. -/
def jrnlAdmit (s : State) (i : Nat) : State :=
  let e := entryOf s i
  jrnlPut s i 3 (toLE 8 e.quoteOrig ++ toLE 8 e.tailQuote ++ toLE 2 e.plan ++ toLE 2 e.adapterId
    ++ toLE 4 (adapterVerOf s e) ++ toLE 1 (e.lpSlot.getD 0xFF) ++ toLE 7 0)

/-- The END record of an entry that becomes FREE, if the journal has or is owed a record of it. -/
def jrnlEnd (s : State) (i : Nat) : State :=
  let e := entryOf s i
  let w := workOf s i
  if w.subFirst ≠ 0 ∨ w.bndLast ≠ 0 ∨ (s.jrnl.due ++ s.jrnl.inFlight.map (·.1)).any (fun r => r.idx == i && r.ty != 6) then
    jrnlPut s i 6 (toLE 1 (rqCode e.state) ++ toLE 1 0 ++ toLE 2 e.status ++ toLE 4 e.committed)
  else s

/-! ### Queues -/

/-- LD of a queue, from QCFG. -/
def queueLd (s : State) (q : Nat) : Nat := regField s (qcfgOff q) 15 12
/-- Whether a queue is enabled. -/
def queueOn (s : State) (q : Nat) : Bool := regField s (qcfgOff q) 16 16 == 1

/-- Whether a completion queue is full (R361). -/
def cqFull (u : Queue) : Bool := decide (2 ^ u.cqLog2 ≤ (u.written + 2 ^ 32 - u.cqHead) % 2 ^ 32)

/-- A record put into its queue at index k mod 2^CQ_LOG2 with its phase bit (R360), with what the vector counts (R364). -/
def putRecord (s : State) (q : Fin 128) (bs : List Byte) (compl : Bool) : State :=
  let u := que s q
  let k := u.written
  let phase := (k / 2 ^ u.cqLog2 + 1) % 2
  let bs := slice bs 0 63 ++ toLE 1 (phase * 128)
  let s := tvaStore s (ldId (queueLd s q.val)) (u.cqTva + k % 2 ^ u.cqLog2 * 64) bs
  setQue s q { u with written := (k + 1) % 2 ^ 32, complNew := u.complNew || compl
                      timerOn := u.timerOn || decide (0 < u.coalUs) }

/-- Whether records of a queue wait in the overflow. -/
def queueWaits (u : Tenant) (q : Nat) : Bool := u.overflow.any (fun r => r.queue == q)

/-- Token places of an LD's overflow that are taken (R361). -/
def tokenPlaces (u : Tenant) : Nat := (u.overflow.filter (fun r => !r.place)).length

/-- Entries of an LD that are not FREE and hold no completion place (R361). -/
def placeless (s : State) (t : Nat) : Nat := ((ldEntries s t).filter (fun p => !(workOf s p.1).place)).length

/-- Whether a token record of a queue can be made now: it enters the queue, or the overflow keeps a place for each entry
without a completion place (R361). -/
def tokenRoom (s : State) (t : LdId) (q : Fin 128) : Bool :=
  let u := que s q
  (u.pair && !cqFull u && !queueWaits (ten s t) q.val)
  || decide (tokenPlaces (ten s t) + 1 + placeless s t.val ≤ 65536 - 4096)

/-- A record written in order: into its queue when it has a pair, room and no earlier record waits, otherwise into the LD's
overflow (R361). `place` is whether the record answers a completion place, which its entry into the queue releases. -/
def postRecord (s : State) (t : LdId) (q : Fin 128) (bs : List Byte) (compl place : Bool) : State :=
  let u := que s q
  if u.pair && !cqFull u && !queueWaits (ten s t) q.val then
    let s := putRecord s q bs compl
    if place then setTen s t { ten s t with places := (ten s t).places - 1 } else s
  else
    let v := ten s t
    let own := compl && !place && decide (v.places < 4096)
    setTen s t { v with overflow := v.overflow ++ [{ queue := q.val, bytes := bs, compl := compl, place := place || own }]
                        places := v.places + b2n own }

/-- The first waiting record of a queue, and the others. -/
def takeOver (q : Nat) : List OverRec → Option (OverRec × List OverRec)
  | [] => none
  | r :: rs => if r.queue = q then some (r, rs)
    else match takeOver q rs with
      | some (x, ys) => some (x, r :: ys)
      | none => none

/-- Waiting records of a queue enter it in order while it has room (R361). -/
def drainOver (s : State) (t : LdId) (q : Fin 128) : (fuel : Nat) → State
  | 0 => s
  | n + 1 =>
    let u := que s q
    if !u.pair ∨ cqFull u then s
    else match takeOver q.val (ten s t).overflow with
      | none => s
      | some (r, rest) =>
        let s := setTen s t { ten s t with overflow := rest, places := (ten s t).places - b2n r.place }
        drainOver (putRecord s q r.bytes r.compl) t q n

/-! ### Vectors -/

/-- The function whose vectors a tenant's queues use: its own in MLD mode, the SLD function otherwise (R363). -/
def ldFn (s : State) (t : Nat) : Mbox := if s.pins.mld then .tenant (ldId t) else .owner

/-- COMPLETION_VECTOR (R364): the vector of a completion queue is sent when COAL_RECORDS records stand unannounced, when any
stands and COAL_RECORDS is 0, or when a completion record is among them. -/
def execCompletionVector (q : Fin 128) (s : State) : Host.Outcome State Fault Refusal :=
  let u := que s q
  let n := (u.written + 2 ^ 32 - u.announced) % 2 ^ 32
  if u.pair && decide (0 < n) && (u.complNew || decide (u.coalRecords ≤ n)) then
    .next (sendMsix (setQue s q { u with announced := u.written, complNew := false, timerOn := false }) (ldFn s (queueLd s q.val)) u.vector)
  else .next s

/-- COAL_TIMER (R364): COAL_US µs after the first record not yet announced, the vector is sent. -/
def execCoalTimer (q : Fin 128) (s : State) : Host.Outcome State Fault Refusal :=
  let u := que s q
  if u.pair && u.timerOn && decide (0 < u.coalUs) && decide (u.written ≠ u.announced) then
    .next (sendMsix (setQue s q { u with announced := u.written, complNew := false, timerOn := false }) (ldFn s (queueLd s q.val)) u.vector)
  else .next s

/-! ### Doorbells -/

/-- A doorbell write rejected (R358): DB_ERR and a queue event on vector 0. -/
def dbReject (s : State) (t : LdId) (slot : Fin 8) : State :=
  sendMsix (setTen s t { ten s t with dbErr := (ten s t).dbErr.set slot.val true }) (ldFn s t.val) 0

/-- The queue bound to a doorbell slot. -/
def slotQueue (s : State) (t : LdId) (slot : Fin 8) : Option (Fin 128) := (nthD none (ten s t).doorbells slot.val).map queId

/-- SQ_TAIL (R358): a count is accepted when it is not below the last accepted one and not more than the queue's length
above SQ_HEAD, modulo 2^32. -/
def execSqTail (ld : LdId) (slot : Fin 8) (val : Reg64) (s : State) : Host.Outcome State Fault Refusal :=
  match slotQueue s ld slot with
  | none => .next (dbReject s ld slot)
  | some q =>
    let u := que s q
    let tail := val.toNat % 2 ^ 32
    let d (x : Nat) : Nat := (x + 2 ^ 32 - u.sqHead) % 2 ^ 32
    if d u.sqTail ≤ d tail ∧ d tail ≤ 2 ^ u.sqLog2 then .next (setQue s q { u with sqTail := tail })
    else .next (dbReject s ld slot)

/-- CQ_HEAD (R358, R361): a count is accepted when it lies between the last accepted one and the records written; waiting
records then enter the queue, unless the overflow is poisoned (R380, R385). -/
def execCqHead (ld : LdId) (slot : Fin 8) (val : Reg64) (s : State) : Host.Outcome State Fault Refusal :=
  match slotQueue s ld slot with
  | none => .next (dbReject s ld slot)
  | some q =>
    let u := que s q
    let head := val.toNat % 2 ^ 32
    let d (x : Nat) : Nat := (x + 2 ^ 32 - u.cqHead) % 2 ^ 32
    if d head ≤ d u.written then
      let s := setQue s q { u with cqHead := head }
      if poisoned s (reserveLine s 2 ld.val) 256 then .next s else
      .next (drainOver s ld q (ten s ld).overflow.length)
    else .next (dbReject s ld slot)

end Sys2Proof.Machine
end

