-- ==== Sys2Proof/Machine/Booking.lean ====
section
/-! DEFINITION. Booking (07_furrows.md, R212 to R217, R220; 08_serving.md, R243, R248, R262, R263): lanes, engines, the proof
of fit, the page pool and the generation tail; the prefix tree (R249 to R254) and the pages and block descriptors that
requests hold (R244 to R247). -/

namespace Sys2Proof.Machine

/-! ### Pages and block descriptors -/

/-- A block with nothing in it. -/
def noBlock : Block := { hash := [] }

/-- MODEL_INFO of an entry's image. -/
def modelOf (s : State) (e : Entry) : ModelInfo := modelInfo (imgRd s e.image)

/-- DSTRIDE (R245). -/
def dstride (layers : Nat) : Nat := (64 + 8 * layers + 63) / 64 * 64

/-- The page of a tenant at a TVA. -/
def pageAt (s : State) (t tva : Nat) : Option Page := s.pages.find? (fun p => p.ld == t && p.tva == tva)

/-- A page's reference count raised (R247). -/
def pageRef (s : State) (t tva : Nat) : State :=
  { s with pages := s.pages.map (fun p => if p.ld = t ∧ p.tva = tva then { p with refs := p.refs + 1 } else p) }

/-- First TVA of the KV pages and node descriptors, and the first behind them (R244). -/
def kvBase : Nat := 0xC00000000000
def kvEnd : Nat := 0xFF0000000000

/-- Frames of a page that no other page and no node descriptor uses lose their mapping (R247): pages below 64 KiB share a frame. -/
def unmapPage (s : State) (t tva log2 : Nat) : State :=
  let lo := tva / 65536 * 65536
  if 16 ≤ log2 then unmapRange s (ldId t) tva (2 ^ log2)
  else if s.pages.any (fun p => p.ld == t && p.tva / 65536 * 65536 == lo) || s.nodes.any (fun n => n.ld == t && n.desc / 65536 * 65536 == lo)
  then s
  else unmapRange s (ldId t) lo 65536

/-- A page's reference count lowered (R247); at 0 it stays until the next headland, or goes at once after an eviction
(R254). -/
def pageDrop (s : State) (t : Nat) (now : Bool) (tva : Nat) : State :=
  match pageAt s t tva with
  | none => s
  | some p =>
    if p.refs ≤ 1 ∧ now then
      unmapPage { s with pages := s.pages.filter (fun x => !(x.ld == t && x.tva == tva)) } t tva p.log2
    else { s with pages := s.pages.map (fun x => if x.ld = t ∧ x.tva = tva then { x with refs := x.refs - 1 } else x) }

/-- Pages without a reference return to the pool (R225 action 3, R247). -/
def reapPages (s : State) : State :=
  (s.pages.filter (fun p => p.refs == 0)).foldl (fun s p =>
    unmapPage { s with pages := s.pages.filter (fun x => !(x.ld == p.ld && x.tva == p.tva)) } p.ld p.tva p.log2) s

/-- What an LD's KV range holds: pages, and the frames of its nodes' descriptors, as first byte and length. -/
def kvHeld (s : State) (t : Nat) : List (Nat × Nat) :=
  (s.pages.filter (fun p => p.ld == t)).map (fun p => (p.tva, 2 ^ p.log2))
  ++ (s.nodes.filter (fun n => n.ld == t)).map (fun n => (n.desc / 65536 * 65536, 65536))

/-- The first free place of `size` bytes, aligned to its size, from `a` up and then from the start of the range (notes/assumptions/19.md). -/
def kvPlace (held : List (Nat × Nat)) (size : Nat) : (fuel a : Nat) → Nat
  | 0, a => a
  | n + 1, a =>
    let a := (a + size - 1) / size * size
    if kvEnd < a + size then kvPlace held size n kvBase
    else match held.find? (fun x => decide (x.1 < a + size) && decide (a < x.1 + x.2)) with
      | some x => kvPlace held size n (x.1 + x.2)
      | none => a

/-- A place of the KV range taken for an LD. -/
def kvTake (s : State) (t : LdId) (size : Nat) : State × Nat :=
  let held := kvHeld s t.val
  let a := kvPlace held size (2 * held.length + 3) (Nat.max kvBase (ten s t).nextTva)
  (setTen s t { ten s t with nextTva := a + size }, a)

/-- New pages for one block of an LD, one per layer, aligned to their size and mapped on demand (R244, R245): a page in a
frame that another keeps mapped is zeroed at once, the others with their frame (R279). -/
def newPages (s : State) (t : LdId) (layers log2 : Nat) : State × List Nat :=
  (List.range layers).foldl (fun (x : State × List Nat) _ =>
    let r := kvTake x.1 t (2 ^ log2)
    let r := if (tvaDpa r.1 t r.2).isSome then (tvaStore r.1 t r.2 (List.replicate (2 ^ log2) 0), r.2) else r
    ({ r.1 with pages := r.1.pages ++ [{ tva := r.2, log2 := log2, ld := t.val, refs := 1 }] }, x.2 ++ [r.2])) (s, [])

/-- A block descriptor's bytes (R245). -/
def blockBytes (b : Nat) (k : Block) : List Byte :=
  slice k.hash 0 16 ++ toLE 4 b ++ toLE 1 k.valid ++ toLE 1 (b2n k.shared + 2 * b2n k.lp + 4 * b2n (k.pages.contains 0))
  ++ toLE 2 k.pages.length ++ toLE 4 (k.node.getD 0xFFFFFFFF) ++ List.replicate 36 0 ++ k.pages.flatMap (toLE 8)

/-- A block of entry `i` written into its work area as block `b`: the descriptor and its row of the layer page table (R244 to R246). -/
def writeRow (s : State) (i b : Nat) (k : Block) : State :=
  let t := ldId (entryOf s i).ld
  let s := devWrite s t (some i) (pageList i + b * dstride k.pages.length) (blockBytes b k)
  (List.range k.pages.length).foldl (fun s l => devWrite s t (some i) (workArea i + (l * 2 ^ 18 + b) * 8) (toLE 8 (nthD 0 k.pages l))) s

/-- Block `b` of entry `i` written. -/
def writeBlock (s : State) (i b : Nat) : State := writeRow s i b (nthD noBlock (workOf s i).blocks b)

/-- Block `b` of entry `i` written as one that has no page (R245, R246). -/
def writeAbsent (s : State) (i b layers : Nat) : State := writeRow s i b { pages := List.replicate layers 0 }

/-- A block of an entry replaced, and written. -/
def putBlock (s : State) (i b : Nat) (k : Block) : State :=
  let w := workOf s i
  let bl := if b < w.blocks.length then w.blocks.set b k
    else w.blocks ++ List.replicate (b - w.blocks.length) noBlock ++ [k]
  writeBlock (setWork s i { w with blocks := bl }) i b

/-- Blocks up to a position exist, new ones with pages of their own. -/
def ensureBlocks (s : State) (i upto : Nat) : State :=
  let e := entryOf s i
  let m := modelOf s e
  (List.range (cdiv upto 64)).foldl (fun s b =>
    let w := workOf s i
    if (nthD noBlock w.blocks b).pages.isEmpty then
      let r := newPages s (ldId e.ld) m.layers m.pageLog2
      putBlock r.1 i b { pages := r.2 }
    else s) s

/-- VALID of every block for a committed length, the changed ones written. -/
def setValid (s : State) (i len : Nat) : State :=
  (List.range (workOf s i).blocks.length).foldl (fun s b =>
    let k := nthD noBlock (workOf s i).blocks b
    let v := Nat.min 64 (len - 64 * b)
    if k.valid = v then s else putBlock s i b { k with valid := v, written := Nat.max k.written v }) s

/-- Positions of an entry that sown work writes, from `lo` up to `up`: the written marks of their blocks rise (R279). -/
def writeMarks (s : State) (i lo up : Nat) : State :=
  let w := workOf s i
  setWork s i { w with blocks := w.blocks.zipIdx.map (fun x =>
    if 64 * x.2 + 64 ≤ lo then x.1 else { x.1 with written := Nat.max x.1.written (Nat.min 64 (up - 64 * x.2)) }) }

/-- The blocks that sown work of an entry writes exist and carry their written marks (R246, R265, R279). -/
def openBlocks (s : State) (i lo up : Nat) : State := writeMarks (ensureBlocks s i up) i lo up

/-- A block of an entry that holds no page any more, written in both structures (R246). -/
def clearBlock (s : State) (i b : Nat) : State :=
  let w := workOf s i
  let n := (nthD noBlock w.blocks b).pages.length
  if n = 0 then s
  else writeBlock (setWork s i { w with blocks := w.blocks.set b { pages := List.replicate n 0 } }) i b

/-- The pages of an entry's blocks from block `b` on are released (R225, R246, R247, R266). -/
def dropBlocks (s : State) (i b : Nat) : State :=
  let e := entryOf s i
  let w := workOf s i
  let s := (List.range (w.blocks.length - b)).foldl (fun s k => clearBlock s i (b + k)) s
  let s := ((w.blocks.drop b).filter (fun k => !k.lp)).foldl (fun s k => k.pages.foldl (fun s a => pageDrop s e.ld false a) s) s
  setWork s i { workOf s i with blocks := (workOf s i).blocks.take b }

/-- References to tree nodes that an entry holds are dropped (R250). -/
def dropNodes (s : State) (ns : List Nat) : State :=
  { s with nodes := s.nodes.map (fun n => { n with refs := n.refs - ns.count n.idx }) }

/-! ### The prefix tree -/

/-- Key of an entry's partition of the tree beside the hash (R249). -/
structure TreeKey where
  ld : Nat
  image : Nat
  adapterId : Nat
  adapterVer : Nat
  lpSlot : Nat
  deriving DecidableEq, Repr

/-- The key under which an entry looks up and inserts. -/
def treeKey (s : State) (e : Entry) : TreeKey :=
  { ld := e.ld, image := e.image, adapterId := e.adapterId
    adapterVer := match e.adapterSlot with
      | some a => (s.adapters[Fin.ofNat 32 a]).version
      | none => 0
    lpSlot := e.lpSlot.getD 0xFF }

/-- Whether a node has a key. -/
def hasKey (k : TreeKey) (n : Node) : Bool :=
  n.ld == k.ld && n.image == k.image && n.adapterId == k.adapterId && n.adapterVer == k.adapterVer && n.lpSlot == k.lpSlot

/-- Hash of a block after a hash (R249). -/
def blockHash (h : List Byte) (toks : List Nat) : List Byte := (sha384 (slice h 0 16 ++ toks.flatMap (toLE 4))).take 16

/-- The blocks that a lookup hits, with the node and hash that it ends on (R251). -/
def lookupHits (s : State) (k : TreeKey) : (n : Nat) → (toks : List Nat) → (parent : Option Nat) → (h : List Byte) →
    List Nat → List Nat × Option Nat × List Nat
  | 0, toks, p, _, acc => (acc, p, toks)
  | n + 1, toks, p, h, acc =>
    let b := toks.take 64
    let h' := blockHash h b
    match s.nodes.find? (fun x => hasKey k x && x.hash == h' && x.parent == p && x.tokens == b) with
    | none => (acc, p, toks)
    | some x => lookupHits s k n (toks.drop 64) (some x.idx) h' (acc ++ [x.idx])

/-- Length of the common run of two token lists. -/
def commonRun : List Nat → List Nat → Nat
  | a :: as, b :: bs => if a = b then commonRun as bs + 1 else 0
  | _, _ => 0

/-- The copy source of a lookup that missed: the child with the longest common run, the lowest index of equals (R251). -/
def copySource (s : State) (k : TreeKey) (p : Option Nat) (toks : List Nat) (cowMin : Nat) : Option (Nat × Nat) :=
  let best := (s.nodes.filter (fun x => hasKey k x && x.parent == p)).foldl (fun (m : Option (Nat × Nat)) x =>
    let j := commonRun x.tokens toks
    match m with
    | none => some (x.idx, j)
    | some (bi, bj) => if bj < j ∨ (bj = j ∧ x.idx < bi) then some (x.idx, j) else some (bi, bj)) none
  match best with
  | some (i, j) => if cowMin ≤ j then some (i, j) else none
  | none => none

/-- Whether a node is evictable (R254). -/
def evictable (s : State) (n : Node) : Bool := n.refs == 0 && s.nodes.all (fun x => x.parent != some n.idx)

/-- Bytes of a node's block descriptor, and of the descriptors of one frame (R245, R250). -/
def descsPerFrame (layers : Nat) : Nat := 65536 / dstride layers

/-- A place for a node's block descriptor in the KV range (R244, R250): the first free one in a frame of descriptors of its LD and image,
or in a new frame (notes/assumptions/19.md). -/
def descPlace (s : State) (t : LdId) (image layers : Nat) : State × Nat :=
  let used := (s.nodes.filter (fun n => n.ld == t.val && n.image == image)).map (·.desc)
  let free := (used.map (fun a => a / 65536 * 65536)).flatMap (fun f =>
    ((List.range (descsPerFrame layers)).map (fun k => f + k * dstride layers)).filter (fun a => !used.contains a))
  match free.head? with
  | some a => (s, a)
  | none => kvTake s t 65536

/-- Bucket of the hash index that a hash belongs to (R250, notes/assumptions/19.md). -/
def bucketOf (h : List Byte) : Nat := fld h 0 4 % 2 ^ 22

/-- A node's links put into the tree (R250): it is its parent's first child, and the head of its bucket. -/
def linkNode (s : State) (n : Node) : State :=
  let first := match n.parent with
    | some p => ((s.nodes.find? (fun x => x.idx == p)).map (·.firstChild)).getD none
    | none => none
  let head := (s.nodes.reverse.find? (fun x => bucketOf x.hash == bucketOf n.hash)).map (·.idx)
  { s with nodes := s.nodes.map (fun x => if n.parent = some x.idx then { x with firstChild := some n.idx } else x)
                    ++ [{ n with nextSibling := first, hashNext := head }] }

/-- A node's links taken out of the tree. -/
def unlinkNode (s : State) (n : Node) : State :=
  let past (l next : Option Nat) : Option Nat := if l = some n.idx then next else l
  { s with nodes := (s.nodes.filter (fun x => x.idx != n.idx)).map (fun x =>
      { x with firstChild := past x.firstChild n.nextSibling, nextSibling := past x.nextSibling n.nextSibling
               hashNext := past x.hashNext n.hashNext }) }

/-- A node leaves the tree; its page references are dropped, and its pages and its descriptor's place go at once (R254). -/
def dropNode (s : State) (n : Node) : State :=
  let s := unlinkNode s n
  let lo := n.desc / 65536 * 65536
  let s := if s.nodes.any (fun x => x.ld == n.ld && x.desc / 65536 * 65536 == lo) || s.pages.any (fun p => p.ld == n.ld && p.tva / 65536 * 65536 == lo)
    then s else unmapRange s (ldId n.ld) lo 65536
  n.pages.foldl (fun s a => pageDrop s n.ld true a) s

/-- A node evicted: counted in PXT_EVICT (R277). -/
def removeNode (s : State) (n : Node) : State := regBump (dropNode s n) (rqtReg 0x100050) 1

/-- The next node to evict of an LD's partition: least LAST_USE, then lowest index (R254). -/
def nextVictim (s : State) (t : Nat) : Option Node :=
  (s.nodes.filter (fun n => n.ld == t && evictable s n)).foldl (fun (m : Option Node) n =>
    match m with
    | none => some n
    | some x => if n.lastUse < x.lastUse ∨ (n.lastUse = x.lastUse ∧ n.idx < x.idx) then some n else some x) none

/-- A node and its descendants leave the tree, whatever REFS holds (R380). -/
def removeSubtree : (fuel : Nat) → State → Nat → State
  | 0, s, _ => s
  | f + 1, s, i =>
    match s.nodes.find? (fun n => n.idx == i) with
    | none => s
    | some n =>
      let s := (s.nodes.filter (fun x => x.parent == some i)).foldl (fun s x => removeSubtree f s x.idx) s
      removeNode s n

/-- Every node keyed on a learned-prefix slot, or on an adapter version, is evicted (R255, R257). -/
def evictWhere (s : State) (p : Node → Bool) : State :=
  (s.nodes.filter p).foldl (fun s n => removeSubtree (s.nodes.length + 1) s n.idx) s

/-- The lowest node index not in use (notes/assumptions/19.md). -/
def freeNode (s : State) : Nat :=
  ((List.range (s.nodes.length + 1)).find? (fun i => s.nodes.all (fun n => n.idx != i))).getD s.nodes.length

/-- A full block becomes a node (R253), unless its key stands under that parent or no node can be had. -/
def insertNode (s : State) (i b : Nat) (parent : Option Nat) (toks : List Nat) : State :=
  let e := entryOf s i
  let k := treeKey s e
  let blk := nthD noBlock (workOf s i).blocks b
  if s.nodes.any (fun x => hasKey k x && x.hash == blk.hash && x.parent == parent) then s
  else
    let full := decide (2 ^ 24 ≤ s.nodes.length)
    let s' := if full then (match nextVictim s e.ld with
      | some n => some (removeNode s n)
      | none => none) else some s
    match s' with
    | none => regBump s (rqtReg 0x100058) 1
    | some s =>
      let idx := freeNode s
      let r := descPlace s (ldId e.ld) k.image blk.pages.length
      let s := linkNode r.1 { idx := idx, hash := blk.hash, ld := k.ld, image := k.image, adapterId := k.adapterId
                              adapterVer := k.adapterVer, lpSlot := k.lpSlot, parent := parent, refs := 1, lastUse := curFurrow s
                              tokens := toks, pages := blk.pages, forked := blk.forked, desc := r.2 }
      let s := blk.pages.foldl (fun s a => pageRef s e.ld a) s
      let blk := { blk with node := some idx, shared := true }
      let s := piecesWrote s [(reserveLine s 1 idx, 256)]
      putBlock (devWrite s (ldId e.ld) none r.2 (blockBytes b blk)) i b blk

/-! ### The booking calendar -/

/-- REPLAY_MARGIN in force, in units of 0.25 % (R212). -/
def marginUnits (s : State) : Nat := s.tick.margin

/-- Furrow length in TICK_REF periods (R190). -/
def furrowPeriods (s : State) : Nat := (s.tick.lenM1 + 1) * 12500

/-- Clocks of a furrow at an operating point (R191). -/
def furrowClks (s : State) (op : Nat) : Nat := (s.tick.lenM1 + 1) * 125 * opMhz op

/-- Booking capacity B of R212. -/
def capacityB (s : State) (op : Nat) : Nat := furrowClks s op * (400 - marginUnits s) / 400

/-- The effective count of a declared count (R212). -/
def effCount (d k : Nat) : Nat := cdiv (d * 8) (if k = 0 then 1 else k)

/-- The window pair against which a furrow is booked (R212, R215, R216): of the windows after the coming headland, the pair as far
as it is set. -/
def pairFor (s : State) (g : Nat) : Nat × Nat := pairAt s (capacityB s) g

/-- B and sluice of the pair under which lane-furrows are booked: that of their last furrow (R226). -/
def pairOfLanes (s : State) (ls : List LaneFurrow) : Nat × Nat :=
  let q := pairFor s (((ls.getLast?).map (·.furrow)).getD s.tick.furrow)
  (capacityB s q.1, q.2)

/-- Every lane-furrow of the calendar (R213, R214, R262). -/
def allLanes (s : State) : List LaneFurrow := s.work.flatMap (fun p => p.2.chain) ++ s.rounds.flatMap (fun r => r.lanes)

/-- Enabled aligned groups of a width (R94), by the geometry table as it stood at the tick: admission uses a new table from the next
furrow (R390), and a headland one that arrived before its window's last furrow (R224). -/
def groupsOf (s : State) (width : Nat) : Nat :=
  ((List.range (64 / width)).filter (fun i => (List.range width).all (fun k => bitAt s.tick.geoMask (i * width + k)))).length

/-- Gangs of a width among lane-furrows. -/
def gangsOf (ls : List LaneFurrow) (width : Nat) : Nat := sumN (ls.map (fun l => if l.gangW = width then l.gangs else 0))

/-- The width test of R213: quads from whole quads, then pairs, then single arrays. -/
def widthsFit (s : State) (ls : List LaneFurrow) : Bool :=
  let n4 := gangsOf ls 4
  let n2 := gangsOf ls 2
  let n1 := gangsOf ls 1
  decide (n4 ≤ groupsOf s 4) && decide (2 * n4 + n2 ≤ groupsOf s 2) && decide (4 * n4 + 2 * n2 + n1 ≤ groupsOf s 1)

/-- Booked load of each engine among lane-furrows (R220). -/
def engineLoads (ls : List LaneFurrow) : List Nat :=
  (List.range 32).map (fun e => sumN (ls.map (fun l => l.engines.count e * l.feMax)))

/-- Load of the engines of one fen die. -/
def dieLoad (loads : List Nat) (d : Nat) : Nat := sumN ((loads.drop (8 * d)).take 8)

/-- The engine that takes the next engine slot: least load, then the fen die with the least load, then the lowest number
(R220). -/
def pickEngine (loads : List Nat) : Nat :=
  let key (e : Nat) : Nat × Nat := (nthD 0 loads e, dieLoad loads (e / 8))
  (List.range 32).foldl (fun b e =>
    if (key e).1 < (key b).1 ∨ ((key e).1 = (key b).1 ∧ (key e).2 < (key b).2) then e else b) 0

/-- Engine slots assigned one at a time; none when an engine would carry more than the capacity. -/
def assignEngines (cap feMax : Nat) : (slots : Nat) → (loads : List Nat) → List Nat → Option (List Nat)
  | 0, loads, acc => if loads.all (fun x => decide (x ≤ cap)) then some acc else none
  | n + 1, loads, acc =>
    let e := pickEngine loads
    assignEngines cap feMax n (loads.set e (nthD 0 loads e + feMax)) (acc ++ [e])

/-- Whether a mask generator slot is busy for a request. -/
def holdsMgen (s : State) (i : Nat) : Bool := s.mgen.toList.any (fun m => m.busy == some i)

/-- Furrows through which booked lane-furrows hold a mask generator slot (R179): from the first of them that uses it, or from now where
`held`, to the last; for good where a held slot has no lane-furrow left (notes/assumptions/74.md). -/
def mgenSpan (held : Bool) (ls : List LaneFurrow) : List (Nat × Nat) :=
  let gs := (ls.filter (·.mgen)).map (·.furrow)
  match gs with
  | [] => if held then [(0, 2 ^ 64)] else []
  | g :: _ => [(if held then 0 else gs.foldl Nat.min g, maxN gs)]

/-- The spans of every chain but that of entry `skip`, and of every round but `skipRound`. -/
def mgenSpans (s : State) (skip skipRound : Option Nat) : List (Nat × Nat) :=
  (s.work.filter (fun p => skip != some p.1)).flatMap (fun p =>
    mgenSpan (holdsMgen s p.1 && (entryOf s p.1).state != .generating) p.2.chain)
  ++ (s.rounds.filter (fun r => skipRound != some r.id)).flatMap (fun r =>
    mgenSpan (r.seats.any (holdsMgen s) && (entryOf s (r.seats.headD 0)).state == .generating) r.lanes)

/-- mgen_slot_free of R216. -/
def slotFree (spans : List (Nat × Nat)) (g : Nat) : Bool :=
  decide ((spans.filter (fun x => decide (x.1 ≤ g) && decide (g ≤ x.2))).length < 8)

/-- Last furrow of the booking calendar (R214, R216). -/
def lastFurrow (s : State) : Nat := s.tick.furrow + 1048575

/-- lane_free and mgen_slot_free of R216 and R220: the lane-furrow that would be booked in furrow `g` of the calendar, if one fits beside
the lanes given; `mgen` holds the spans of the others where the plan uses a mask generator slot. -/
def laneIn (s : State) (lanes : List LaneFurrow) (p : Plan) (mgen : Option (List (Nat × Nat))) (load g : Nat) : Option LaneFurrow :=
  let (op, k) := pairFor s g
  let here := lanes.filter (fun l => l.furrow == g)
  let new : LaneFurrow := { furrow := g, gangW := gangWidth p.gangW, gangs := p.gangs, barMax := p.barMax, feMax := p.feMax
                            engines := [], mgen := mgen.isSome }
  if decide (g ≤ lastFurrow s) && decide (effCount p.stepD k + load ≤ capacityB s op) && widthsFit s (new :: here) && decide (sumN (here.map (·.barMax)) + p.barMax ≤ 256)
      && mgen.all (slotFree · g) then
    (assignEngines (capacityB s op) p.feMax p.feSlots (engineLoads here) []).map (fun es => { new with engines := es })
  else none

/-- Clocks that the next lane-furrow of a chain books for a mask generator's tables (R181): `load` names the place of a tree chunk's
first lane-furrow in the chain, and its clocks. -/
def loadOf (load : Nat × Nat) (acc : List LaneFurrow) : Nat := if acc.length = load.1 then load.2 else 0

/-- A chain of `need` lane-furrows from furrow `g` up, within the horizon (R216). -/
def findChain (s : State) (lanes : List LaneFurrow) (p : Plan) (mgen : Option (List (Nat × Nat))) (load : Nat × Nat) :
    (fuel g need : Nat) → List LaneFurrow → Option (List LaneFurrow)
  | _, _, 0, acc => some acc
  | 0, _, _, _ => none
  | f + 1, g, n + 1, acc =>
    match laneIn s lanes p mgen (loadOf load acc) g with
    | some l => findChain s lanes p mgen load f (g + 1) n (acc ++ [l])
    | none => findChain s lanes p mgen load f (g + 1) (n + 1) acc

/-- Furrows of the calendar's horizon that admission tries (R214, R216). -/
def horizon : Nat := 1048574

/-- Furrows of the calendar from furrow `c` up. -/
def furrowsFrom (s : State) (c : Nat) : Nat := lastFurrow s + 1 - c

/-- RQT_TIME of the tick that starts furrow `g` (R190). -/
def tickTime (s : State) (g : Nat) : Nat := s.tick.lastTick + (g - s.tick.furrow) * furrowPeriods s

/-- Replay reserve of a chain of `n` steps (R213). -/
def reserveOf (s : State) (n : Nat) : Nat := Nat.max 1 (cdiv (marginUnits s * n) 400)

/-- Whether a plan names a work item that uses a mask generator slot. -/
def planMgen (rd : Rd) (p : Plan) : Bool :=
  (List.range p.steps).any (fun k => ((stepItems rd p k).filter (· != 0xFFFFFFFF)).any (fun i => bitAt (workRec rd i).flags 0))

/-- The spans beside which a plan's mask generator slot is booked, where it uses one. -/
def slotsFor (s : State) (rd : Rd) (p : Plan) (skip skipRound : Option Nat) : Option (List (Nat × Nat)) :=
  if planMgen rd p then some (mgenSpans s skip skipRound) else none

/-- Clocks of MGEN load that a tree chunk of `n` tokens books in its first lane-furrow (R181, R216). -/
def treeLoad (rd : Rd) (e : Entry) (p : Plan) (n : Nat) : Nat := if e.forest && planMgen rd p then 2 * n + 1024 else 0

/-- Lengths of the chunks of `n` tokens under a plan, in input order (R232). -/
def chunkSplit (size : Nat) : (fuel n : Nat) → List Nat
  | 0, _ => []
  | f + 1, n => if n = 0 then [] else if n ≤ size then [n] else size :: chunkSplit size f (n - size)

/-- The window pair in force (R212), against which admission tests a plan before it searches furrows (R216). -/
def bookPair (s : State) : Nat × Nat := (s.power.wop, s.power.wsluice)

/-! ### Admission of one request -/

/-- What admission found (R216): the plan, its chunks and chain, and the tick that ends it; or a refusal. -/
inductive Fit where
  | fits (s : State) (plan : Nat) (chunks : List Nat) (chain : List LaneFurrow) (quote : Nat)
  | refuse (s : State) (best : Option Nat) (poolFailed : Bool)

/-- Frames that pool_ok books for an entry (R248): blocks beyond those shared and those held. -/
def poolNeed (s : State) (i : Nat) (e : Entry) : Nat :=
  let m := modelOf s e
  let w := workOf s i
  let h := if e.draft then m.seedHeads else 0
  let held := (w.blocks.filter (fun k => !k.pages.isEmpty)).length
  let lpBlocks := match e.lpSlot with
    | some l => if held = 0 then (s.lps[Fin.ofNat 64 l]).len / 64 else 0
    | none => 0
  let need := cdiv (e.targetLen + e.seedRng.maxNew + h) 64 - w.hits.length - lpBlocks - held
  cdiv (need * m.layers * 2 ^ m.pageLog2 + need * dstride m.layers + need * m.layers * 8) 65536

/-- Whether `frames` more can be booked for an LD (R248). -/
def poolFits (s : State) (t frames : Nat) : Bool :=
  decide (poolUsed s t + poolBooked s t + frames ≤ poolLimit s t) && decide (allBooked s + frames ≤ freeCount s)

/-- pool_ok with its evictions (R248, R254). -/
def poolEvict : (fuel : Nat) → State → (t frames : Nat) → State × Bool
  | 0, s, t, n => (s, poolFits s t n)
  | f + 1, s, t, n =>
    if poolFits s t n then (s, true)
    else match nextVictim s t with
      | none => (s, false)
      | some x => poolEvict f (removeNode s x) t n

/-- The committed length an entry starts from at admission (R252): its length plus the hit blocks. -/
def startLen (s : State) (i : Nat) (e : Entry) : Nat := e.committed + 64 * (workOf s i).hits.length

/-- Tokens still to prefill after the hits and the copy run (R232, R252). -/
def prefillLeft (s : State) (i : Nat) (e : Entry) : Nat :=
  e.targetLen - startLen s i e - (match (workOf s i).copySrc with
    | some (_, j) => j
    | none => 0)

/-- Deadline of R234 less the 2 µs of R243, none when every quote meets it. -/
def deadlineOf (e : Entry) : Option Nat :=
  if e.ttft = 0 then none else some (e.tSubmit + e.ttft * 100 - (if 0 < e.seedRng.maxNew then 200 else 0))

/-- Whether a plan serves prefill under R216: not the generation plan, its CTX_MAX, a forest in one chunk. -/
def planServes (m : ModelInfo) (e : Entry) (idx : Nat) (p : Plan) (start left : Nat) : Bool :=
  let chunks := cdiv left p.chunkTokens
  decide (idx ≠ m.genPlan) && decide (0 < p.chunkTokens) && decide (0 < p.steps)
  && decide (start + (chunks - 1) * p.chunkTokens ≤ p.ctxMax) && (!e.forest || chunks == 1)

/-- `fits` of R216 over the plans from `idx` on. -/
def admitPlans (f : Nat) (i : Nat) (e : Entry) : (n idx : Nat) → State → (best : Option Nat) → (pool : Bool) → Fit
  | 0, _, s, best, pool => .refuse s best pool
  | n + 1, idx, s, best, pool =>
    let rd := imgRd s e.image
    let p := planRec rd idx
    let (op, k) := bookPair s
    let left := prefillLeft s i e
    let start := e.targetLen - left
    let extra := b2n (workOf s i).copySrc.isSome + b2n e.forest
    if !planServes (modelOf s e) e idx p start left ∨ capacityB s op < effCount p.stepD k then
      admitPlans f i e n (idx + 1) s best pool
    else
      let chunks := chunkSplit p.chunkTokens (left + 1) left
      let steps := p.steps * chunks.length + extra
      match findChain s (allLanes s) p (slotsFor s rd p (some i) none) (b2n (workOf s i).copySrc.isSome, treeLoad rd e p left) horizon (f + 2) (steps + reserveOf s steps) [] with
      | none => admitPlans f i e n (idx + 1) s best pool
      | some chain =>
        let r := poolEvict (s.nodes.length + 1) s e.ld (poolNeed s i e)
        if !r.2 then admitPlans f i e n (idx + 1) r.1 best true
        else
          let s := r.1
          let q := ((chain.getLast?).map (·.furrow + 1)).getD f
          let meets := match deadlineOf e with
            | none => true
            | some d => decide (tickTime s q ≤ d)
          if meets || e.acceptRequote then .fits s idx chunks chain q
          else admitPlans f i e n (idx + 1) s (match best with
            | none => some q
            | some b => some (Nat.min b q)) pool

/-! ### The generation tail -/

/-- SAMPLE_CLK of an image (R261). -/
def sampleClk (m : ModelInfo) : Nat := cdiv m.vocab 256 + 64

/-- Key of an entry's rounds: image and adapter slot (R262). -/
def roundKey (e : Entry) : Nat × Nat := (e.image, e.adapterSlot.getD 0xFF)

/-- Seed heads of an entry's seat. -/
def seatHeads (m : ModelInfo) (e : Entry) : Nat := if e.draft then m.seedHeads else 0

/-- R262's conditions on the seats of a round that starts at furrow `g`, in each of its furrows. -/
def seatsFit (s : State) (m : ModelInfo) (p : Plan) (g : Nat) (seats : List Entry) : Bool :=
  let positions := sumN (seats.map (fun e => 1 + seatHeads m e))
  decide (seats.length ≤ m.genBatch)
  && (List.range (p.steps + 1)).all (fun i =>
    decide (effCount p.stepD (pairFor s (g + i)).2 + cdiv positions 4 * sampleClk m ≤ capacityB s (pairFor s (g + i)).1))

/-- Lane-furrows of a new round, if every furrow of it is free (R263). -/
def roundLanes (s : State) (p : Plan) (mgen : Option (List (Nat × Nat))) : (n g : Nat) → List LaneFurrow → Option (List LaneFurrow)
  | 0, _, acc => some acc
  | n + 1, g, acc => match laneIn s (allLanes s) p mgen 0 g with
    | some l => roundLanes s p mgen n (g + 1) (acc ++ [l])
    | none => none

/-- One seat of a tail at furrow `g` (R263): joins the round of its key that starts there, or makes a new one. -/
def bookSeat (s : State) (i : Nat) (e : Entry) (m : ModelInfo) (p : Plan) (rp g : Nat) : Option State :=
  let key := roundKey e
  let mine := s.rounds.filter (fun r => (r.image, r.adapter) == key && !r.done)
  match mine.find? (fun r => r.start == g) with
  | some r =>
    if seatsFit s m p r.start (r.seats.map (entryOf s) ++ [e]) then
      some { s with rounds := s.rounds.map (fun x => if x.id = r.id then { x with seats := x.seats ++ [i] } else x) }
    else none
  | none =>
    if mine.any (fun r => decide (r.start < g + rp) && decide (g < r.start + r.rp)) ∨ !seatsFit s m p g [e] then none
    else match roundLanes s p (slotsFor s (imgRd s e.image) p none none) rp g [] with
      | none => none
      | some ls => some { s with
          rounds := s.rounds ++ [{ id := s.roundNo, image := key.1, adapter := key.2, start := g, rp := rp, seats := [i]
                                   lanes := ls, pairB := capacityB s (pairFor s g).1, pairK := (pairFor s g).2
                                   geoGen := s.tick.geoNum }]
          roundNo := s.roundNo + 1 }

/-- The seats of a tail from a start on, one round after another. -/
def bookSeats (i : Nat) (e : Entry) (m : ModelInfo) (p : Plan) (rp : Nat) : (n g : Nat) → State → Option State
  | 0, _, s => some s
  | n + 1, g, s => match bookSeat s i e m p rp g with
    | some s => bookSeats i e m p rp n (g + rp) s
    | none => none

/-- The search of book_tail (R263), within the calendar: the state with the seats and the tail quote, or FAIL_TBT as true. -/
def tailSearch (s : State) (i : Nat) (e : Entry) (m : ModelInfo) (p : Plan) (rp c need : Nat) :
    (fuel start : Nat) → Except Bool (State × Nat)
  | 0, _ => .error false
  | f + 1, start =>
    if e.tbt ≠ 0 ∧ e.tbt * 100 < (start + rp - c) * furrowPeriods s then .error true
    else match bookSeats i e m p rp need start s with
      | some s' => .ok (s', start + need * rp)
      | none => tailSearch s i e m p rp c need f (start + 1)

/-- book_tail (R263): the state with the tail booked and TAIL_QUOTE, the furrow whose tick ends the tail. -/
def bookTail (s : State) (i : Nat) (e : Entry) (q c : Nat) : Except Bool (State × Nat) :=
  if e.seedRng.maxNew ≤ 1 then .ok (s, q)
  else
    let rd := imgRd s e.image
    let m := modelInfo rd
    let p := planRec rd m.genPlan
    let rp := p.steps + 1
    if e.tbt ≠ 0 ∧ e.tbt * 100 < rp * furrowPeriods s then .error true
    else tailSearch s i e m p rp c (e.seedRng.maxNew - 1) (furrowsFrom s c) c

end Sys2Proof.Machine
end

