-- ==== Sys2Proof/Machine/Net.lean ====
section
/-! DEFINITION. What the Raile fabric sends (10_raile.md): frames on ports (R312 to R315), packets on flows (R320, R321, R324,
R328, R437), control messages (R329, R443), and roles with their messages (R210, R211, R330). -/

namespace Sys2Proof.Machine

/-! ### Frames -/

/-- One bit of the CRC-32 of R313. -/
def crcStep : (n : Nat) → Nat → Nat
  | 0, c => c
  | n + 1, c => crcStep n (if c % 2 = 1 then (c / 2) ^^^ 0xEDB88320 else c / 2)

/-- The CRC-32 of R313. -/
def crc32 (bs : List Byte) : Nat := (bs.foldl (fun c b => crcStep 8 (c ^^^ b.toNat)) 0xFFFFFFFF) ^^^ 0xFFFFFFFF

/-- The 64-bit header of a frame (R312). -/
def frameHeader (fseq ack : BitVec 12) (ackValid nak vc idle : Bool) (first credD credC : Nat) : Nat :=
  fseq.toNat * 2 ^ 52 + ack.toNat * 2 ^ 40 + b2n ackValid * 2 ^ 39 + b2n nak * 2 ^ 38 + b2n vc * 2 ^ 37 + b2n idle * 2 ^ 36
    + (first % 2048) * 2 ^ 25 + (credD % 512) * 2 ^ 16 + (credC % 256) * 2 ^ 8

/-- The 1,280 bytes of a frame (R312, R313). -/
def frameBytes (h : Nat) (body : List Byte) : List Byte :=
  let x := toLE 8 h ++ slice body 0 1268
  x ++ toLE 4 (crc32 x)

/-! ### Codewords (R307) -/

/-- A symbol times the generator of the field of 1,024 elements, x^10 + x^3 + 1. -/
def symX (a : Nat) : Nat := if 512 ≤ a then ((2 * a) % 1024) ^^^ 9 else 2 * a

/-- The product of two symbols, over `n` bits of the second. -/
def symMul : (n : Nat) → (a b : Nat) → Nat
  | 0, _, _ => 0
  | n + 1, a, b => (if b % 2 = 1 then a else 0) ^^^ symMul n (symX a) (b / 2)

/-- The generator polynomial of the code, its highest coefficient (which is 1) left out: the product of x - α^j for j below `n`, highest
power first. -/
def rsGen : (n : Nat) → List Nat × Nat
  | 0 => ([], 1)
  | n + 1 =>
    let r := rsGen n
    (List.zipWith (· ^^^ ·) (r.1 ++ [0]) ((1 :: r.1).map (symMul 10 r.2)), symX r.2)

/-- The thirty parity symbols of a message, highest power first. -/
def rsParity (m : List Nat) : List Nat :=
  let g := (rsGen 30).1
  m.foldl (fun r x =>
    let q := x ^^^ r.headD 0
    List.zipWith (· ^^^ ·) (r.drop 1 ++ [0]) (g.map (symMul 10 q))) (List.replicate 30 0)

/-- The RS(544,514) codeword of 640 bytes and the 20-bit control field, as symbols in order (R307; notes/assumptions/77.md). -/
def codeword (firstB : Bool) (bs : List Byte) : List Nat :=
  let v := ofLE bs + (b2n firstB + 2 * (Config.alignPattern % 2 ^ 19)) * 2 ^ 5120
  let m := (List.range 514).map (fun i => v / 2 ^ (10 * i) % 1024)
  m ++ rsParity m

/-- Active lanes in ascending order. -/
def laneList (up : BitVec 4) : List Nat := (List.range 4).filter up.getLsbD

/-- The lane that carries symbol `i` of a codeword: the i-th active lane taken cyclically (R307). -/
def symbolLane (up : BitVec 4) (i : Nat) : Nat := nthD 0 (laneList up) (i % (laneList up).length)

/-- What each lane carries of a frame's two codewords, symbol by symbol. -/
def frameLanes (up : BitVec 4) (bs : List Byte) : List (List Nat) :=
  let cw := [codeword true (slice bs 0 640), codeword false (slice bs 640 640)]
  (List.range 4).map (fun l => cw.flatMap (fun c => ((List.range 544).filter (fun i => symbolLane up i == l && up.getLsbD l)).map (nthD 0 c)))

/-- A frame sent on a port with the acknowledgement and the credits it reports: counted in RL_TX_BYTES. -/
def sendFrame (s : State) (p : PortId) (fseq : BitVec 12) (nak idle : Bool) (b : TxBody) : State :=
  let u := port s p
  let h := frameHeader fseq (u.rxSeq - 1) u.rxAny nak b.vc idle b.first u.rxFreeD u.rxFreeC
  let s := setPort s p { u with rxFreeD := 0, rxFreeC := 0, rxCount := 0 }
  let bs := frameBytes h b.bytes
  send (regBump s (rlReg p.val 0x10) 1280) (.frame p.val bs (frameLanes u.lanesUp bs))

/-- The body of a frame that carries no packet bytes. -/
def idleBody : TxBody := { vc := false, first := 0x7FF, bytes := [] }

/-- The next body cut from a channel's byte stream: FIRST_OFS is the place of the first packet header in it (R312, R315). -/
def cutBody (vc : Bool) (st : List (Bool × Byte)) : TxBody :=
  let x := st.take 1268
  let i := x.findIdx (·.1)
  { vc := vc, first := if i < x.length then i else 0x7FF, bytes := x.map (·.2) }

/-- The channel whose body is sent next: VC 1 before VC 0, each only against a free buffer (R315). -/
def nextVc (u : Port) : Option Bool :=
  if !u.txC.isEmpty ∧ 0 < u.credC then some true
  else if !u.txD.isEmpty ∧ 0 < u.credD then some false
  else none

/-- Waiting bodies sent while buffers are free and fewer than 256 frames are outstanding (R314, R315). -/
def pumpPort (p : PortId) : (fuel : Nat) → State → State
  | 0, s => s
  | n + 1, s =>
    let u := port s p
    if u.st ≠ .active ∨ 256 ≤ u.replay.length then s
    else match nextVc u with
      | none => s
      | some vc =>
        let fseq := u.txSeq
        let b := cutBody vc (if vc then u.txC else u.txD)
        let u := { u with txC := if vc then u.txC.drop 1268 else u.txC, txD := if vc then u.txD else u.txD.drop 1268
                          txSeq := u.txSeq + 1, replay := u.replay ++ [(fseq, b)]
                          credC := if vc then u.credC - 1 else u.credC
                          credD := if vc then u.credD else u.credD - 1 }
        pumpPort p n (sendFrame (setPort s p u) p fseq false false b)

/-- Bodies that the waiting streams of a port can still fill. -/
def bodiesLeft (u : Port) : Nat := (u.txD.length + u.txC.length) / 1268 + 2

/-- The bytes of a packet put on a port, at the end of its channel's stream. -/
def portSend (s : State) (p : PortId) (vc : Bool) (bs : List Byte) : State :=
  let u := port s p
  let x := bs.zipIdx.map (fun b => (b.2 == 0, b.1))
  let u := if vc then { u with txC := u.txC ++ x } else { u with txD := u.txD ++ x }
  pumpPort p (bodiesLeft u) (setPort s p u)

/-! ### Routes and peers -/

/-- Port mask of a node in the route table (R317); the device's own entry is ignored. -/
def routeMask (s : State) (n : Nat) : Nat :=
  if n = ownNode s then 0 else regGet s (routeOff n) / 2 ^ (16 * (n % 4)) % 2 ^ 16

/-- ACTIVE ports on the route to a node. -/
def routePorts (s : State) (n : Nat) : List PortId :=
  (List.finRange 16).filter (fun p => bitAt (routeMask s n) p.val && (port s p).st == .active)

/-- Whether a path leads to another node (R155, R318): its peer is UP, and its route has an ACTIVE port. -/
def raileReach (s : State) (n : Nat) : Bool := (lookupN n s.peers).any (fun p => p.st == .up) && !(routePorts s n).isEmpty

/-- A node's peer entry (R318). -/
def peerOf (s : State) (n : NodeId) : Peer := (lookupN n.toNat s.peers).getD {}
/-- A peer entry replaced. -/
def setPeer (s : State) (n : NodeId) (p : Peer) : State := { s with peers := insertN n.toNat p s.peers }

/-! ### Keys (R436 to R438) -/

/-- The domain secret: the bytes of SEC_DOMAIN_KEY. -/
def domainSecret (s : State) : List Byte := s.sec.domainKey.flatMap (fun k => toLE 8 ((k.map BitVec.toNat).getD 0))
/-- Device link key. -/
def linkKey (s : State) : List Byte := kdf (domainSecret s) lblLink [] 48
/-- Hello key. -/
def helloKey (s : State) : List Byte := kdf (domainSecret s) lblHello [] 48
/-- SEC_DOMAIN_CTL.LOCK. -/
def domainLocked (s : State) : Bool := regField s (secReg 0x28) 1 1 == 1

/-- Whether the key material of a context is held (R320, R440). -/
def ctxKeyed (s : State) (ctx : Nat) : Bool :=
  if ctx < 16 then (ten s (ldId ctx)).material.isSome else domainLocked s

/-- The key of a flow (R437). -/
def flowKey (s : State) (f : Flow) : List Byte :=
  let k := if f.ctx < 16 then kdf (((ten s (ldId f.ctx)).material).getD []) lblRaile [] 48 else linkKey s
  let own := toLE 2 (ownNode s)
  let other := toLE 2 f.node.toNat
  kdf k lblFlow (f.nonceI ++ f.nonceR ++ (if f.initiator then own ++ other else other ++ own) ++ toLE 1 f.ctx ++ toLE 1 f.flow
    ++ toLE 2 f.keyEpoch.toNat) 32

/-! ### Packets -/

/-- The flow of a node, context and number. -/
def flowOf (s : State) (n : NodeId) (ctx fl : Nat) : Option Flow :=
  s.flows.find? (fun f => f.node == n && f.ctx == ctx && f.flow == fl)

/-- Whether two flows have the same name. -/
def sameFlow (f g : Flow) : Bool := f.node == g.node && f.ctx == g.ctx && f.flow == g.flow

/-- A flow replaced, or added. -/
def setFlow (s : State) (f : Flow) : State :=
  { s with flows :=
      if s.flows.any (sameFlow f) then s.flows.map (fun g => if sameFlow f g then f else g) else s.flows ++ [f] }

/-- The 32-byte header of a packet (R321). -/
def packetHeader (s : State) (f : Flow) (x : TxPacket) (psn : Nat) : List Byte :=
  toLE 1 x.ty ++ toLE 1 x.flags ++ toLE 2 (ownNode s) ++ toLE 2 f.node.toNat ++ toLE 1 f.ctx ++ toLE 1 f.flow ++ toLE 4 psn
    ++ toLE 4 x.len ++ toLE 8 x.addr ++ toLE 4 x.opId ++ toLE 2 f.keyEpoch.toNat ++ toLE 2 0

/-- A packet sealed under its flow's key (R321, R328; notes/assumptions/28.md gives the direction byte). -/
def packetBytes (s : State) (f : Flow) (x : TxPacket) (psn : Nat) : List Byte :=
  let h := packetHeader s f x psn
  let iv := toLE 2 (ownNode s) ++ toLE 1 f.ctx ++ toLE 1 f.flow ++ toLE 4 (b2n (!f.initiator) + (if x.ty = 6 ∨ x.ty = 7 then 2 else 0)) ++ toLE 4 psn
  let r := gcmSeal (flowKey s f) iv h x.data
  h ++ r.1 ++ r.2

/-- The port on which a flow may send: its own, where it is ACTIVE and the route names it (R317, R324). -/
def flowPort (s : State) (f : Flow) : Option PortId := (routePorts s f.node.toNat).find? (fun p => p.val == f.port)

/-- A sealed packet put on a flow's port: CONTROL on VC 1, every other type on VC 0 (R315). -/
def flowBytes (s : State) (f : Flow) (bs : List Byte) : State :=
  match flowPort s f with
  | some p => portSend s p (bs.headD 0 == 8) bs
  | none => s

/-- PSNs from here on are left to the flow's next KEY_EPOCH (R328). -/
def psnLimit : Nat := 2 ^ 31 - 64

/-- Whether a flow's next packet waits: it is not open, has no credit (R324), or its PSNs are used up (R328). -/
def flowStuck (f : Flow) : Bool := !f.opened || f.credits == 0 || decide (psnLimit ≤ f.txPsn)

/-- A packet given the next PSN of a flow and sent. -/
def flowPut (s : State) (f : Flow) (x : TxPacket) : State :=
  let psn := f.txPsn
  let bs := packetBytes s f x psn
  let s := setFlow s { f with txPsn := psn + 1, credits := f.credits - 1, unacked := f.unacked ++ [(psn, bs)]
                              txBytes := f.txBytes + bs.length }
  send (meterCtx (flowBytes s f bs) f.ctx bs.length) (.packet f.node f.ctx f.flow x.ty psn (BitVec.ofNat 64 x.addr) x.data)

/-- A numbered packet sent on a flow, or kept while the flow is stuck (R324). -/
def flowSend (s : State) (f : Flow) (x : TxPacket) : State :=
  if flowStuck f then setFlow s { f with waitq := f.waitq ++ [x] } else flowPut s f x

/-- Waiting packets sent while credits last. -/
def pumpFlow (n : NodeId) (ctx fl : Nat) : (fuel : Nat) → State → State
  | 0, s => s
  | k + 1, s => match flowOf s n ctx fl with
    | none => s
    | some f => match f.waitq with
      | [] => s
      | x :: r => if flowStuck f then s else pumpFlow n ctx fl k (flowSend (setFlow s { f with waitq := r }) { f with waitq := r } x)

/-- An ACK or NACK on a flow, not acknowledged itself: it counts in a sequence of its own, so that no IV is used twice (R328;
notes/assumptions/28.md). -/
def flowReply (s : State) (f : Flow) (ty addr : Nat) : State :=
  let x : TxPacket := { ty := ty, flags := 1, len := 0, addr := addr, opId := 0, data := [] }
  let s := send (flowBytes s f (packetBytes s f x f.replies)) (.packet f.node f.ctx f.flow ty f.replies (BitVec.ofNat 64 addr) [])
  match flowOf s f.node f.ctx f.flow with
  | some g => setFlow s { g with replies := g.replies + 1 }
  | none => s

/-- Control messages that wait for a peer that is not UP (R318): those of roles and of joint booking. Time, power and keep-alive
messages are of their moment only (notes/assumptions/87.md). -/
def ctlWaits (code : Nat) : Bool := (decide (0x10 ≤ code) && decide (code ≤ 0x13)) || (decide (0x30 ≤ code) && decide (code ≤ 0x33))

/-- A control message (R329): on flow 0 of context 16, and among what was sent; without that flow it waits for the peer to be UP. The
messages that open a flow take one of the PSNs that R328 leaves for them. -/
def sendCtl (s : State) (n : NodeId) (code : Nat) (body : List Byte) : State :=
  match flowOf s n 16 0 with
  | none => if ctlWaits code then { s with ctlWait := s.ctlWait ++ [(n, code, body)] } else s
  | some f =>
    let data := toLE 2 code ++ body
    let x : TxPacket := { ty := 8, flags := 1, len := data.length, addr := 0, opId := 0, data := data }
    let s := send s (.control n code body)
    if 5 ≤ code ∧ code ≤ 7 ∧ f.opened ∧ f.credits ≠ 0 ∧ f.txPsn < 2 ^ 31 then flowPut s f x else flowSend s f x

/-- The control messages that waited for a peer, once flow 0 to it is open. -/
def flushCtl (s : State) (n : NodeId) : State :=
  let w := s.ctlWait.filter (fun x => x.1 == n)
  w.foldl (fun s x => sendCtl s n x.2.1 x.2.2) { s with ctlWait := s.ctlWait.filter (fun x => x.1 != n) }

/-! ### Operations at another node (R320 to R322) -/

/-- Body of FLOW_OPEN: context, flow, KEY_EPOCH and the initiator's nonce. -/
def openBody (f : Flow) : List Byte := toLE 1 f.ctx ++ toLE 1 f.flow ++ toLE 2 f.keyEpoch.toNat ++ f.nonceI

/-- A flow that this device opens: it is asked for, and its packets wait for FLOW_ACCEPT. -/
def askFlow (s : State) (f : Flow) : State := sendCtl (setFlow s f) f.node 5 (openBody f)

/-- The lowest flow number that a node and context have free; flow 0 of the device context is the control channel's. -/
def freeFlow (s : State) (n : NodeId) (ctx : Nat) : Option Nat :=
  (List.range 16).find? (fun k => (k != 0 || ctx != 16) && (flowOf s n ctx k).isNone)

/-- A new flow on a port (R320). -/
def openFlow (s : State) (n : NodeId) (ctx p : Nat) : State :=
  match freeFlow s n ctx with
  | none => s
  | some k => askFlow (tickFree s) { node := n, ctx := ctx, flow := k, initiator := true, port := p, keyEpoch := 0, nonceI := drawBytes s 32 }

/-- Flows of a node and context that carry operations. -/
def opFlows (s : State) (n : NodeId) (ctx : Nat) : List Flow :=
  s.flows.filter (fun f => f.node == n && f.ctx == ctx && (f.flow != 0 || f.ctx != 16))

/-- Lanes of the port that a flow sends on, 0 where it can send on none. -/
def flowLanes (s : State) (f : Flow) : Nat := match flowPort s f with
  | some p => (laneList (port s p).lanesUp).length
  | none => 0

/-- The flow on which the next packet goes: among the open ones that can send, the one that has carried least for its port's width, so that
the packets of a transfer spread over the flows in proportion to the widths (R320). -/
def pickFlow (s : State) (n : NodeId) (ctx : Nat) : Option Flow :=
  let fs := opFlows s n ctx
  match (fs.filter (fun f => f.opened && decide (0 < flowLanes s f))) with
  | f :: r => some (r.foldl (fun m g => if g.txBytes * flowLanes s m < m.txBytes * flowLanes s g then g else m) f)
  | [] => (fs.find? (·.opened)) <|> fs.head?

/-- A packet of an operation sent to a node under a context (R320, R321): on one of its flows, which are opened first where there is none,
one for each ACTIVE port of the route. -/
def raileSend (s : State) (n : NodeId) (ctx : Nat) (x : TxPacket) : State :=
  let ps := (routePorts s n.toNat).map (fun p => p.val)
  let s := if (opFlows s n ctx).isEmpty then (if ps.isEmpty then [0] else ps).foldl (fun s p => openFlow s n ctx p) s else s
  match pickFlow s n ctx with
  | some f => flowSend s f x
  | none => s

/-- The OP_ID of the next operation. -/
def nextOp (s : State) : Nat := s.rlOps % 2 ^ 32

/-- An operation begun: its OP_ID is used. -/
def useOp (s : State) : State := { s with rlOps := s.rlOps + 1 }

/-- A node of a Raile global address (R40). -/
def addrNode (a : Nat) : NodeId := BitVec.ofNat 12 (a / 2 ^ 52)

/-- A WRITE packet of at most 4,096 bytes to an address (R321). -/
def sendWrite (s : State) (ctx addr op : Nat) (last : Bool) (bs : List Byte) : State :=
  raileSend s (addrNode addr) ctx { ty := 1, flags := b2n last, len := bs.length, addr := addr, opId := op, data := bs }

/-- The WRITE packets of a longer store, the last one marked (R321). -/
def sendWrites (ctx op : Nat) : (fuel : Nat) → (addr : Nat) → List Byte → State → State
  | 0, _, _, s => s
  | k + 1, addr, bs, s =>
    let r := bs.drop 4096
    let s := sendWrite s ctx addr op r.isEmpty (bs.take 4096)
    if r.isEmpty then s else sendWrites ctx op k (addr + 4096) r s

/-- A READ_REQ (R321). -/
def sendReadReq (s : State) (ctx addr op n : Nat) : State :=
  raileSend s (addrNode addr) ctx { ty := 2, flags := 1, len := n, addr := addr, opId := op, data := [] }

/-- An atomic of the control complex (R322): FADD or CAS at an address of another node. The table has no row for it; firmware is its only
caller (notes/assumptions/78.md). -/
def issueAtomic (s : State) (ctx addr operand compare : Nat) (fadd : Bool) : State :=
  let op := nextOp s
  let s := { useOp s with atomics := s.atomics ++ [{ node := addrNode addr, opId := BitVec.ofNat 32 op }] }
  raileSend s (addrNode addr) ctx { ty := 4, flags := 1 + 2 * b2n fadd, len := 16, addr := addr, opId := op
                                    data := toLE 8 operand ++ toLE 8 compare }

/-- Header and payload of a message that only the hello key authenticates (R321, R443). -/
def plainPacket (src dst code : Nat) (body : List Byte) : List Byte :=
  toLE 1 8 ++ toLE 1 1 ++ toLE 2 src ++ toLE 2 dst ++ toLE 1 16 ++ toLE 1 0 ++ toLE 4 0 ++ toLE 4 (body.length + 2) ++ toLE 8 0 ++ toLE 4 0
    ++ toLE 2 0 ++ toLE 2 0 ++ toLE 2 code ++ body

/-- Its tag (R443): the first 16 bytes of HMAC-SHA-384 under the hello key. -/
def plainTag (s : State) (src dst code : Nat) (body : List Byte) : List Byte :=
  (hmac384 (helloKey s) (plainPacket src dst code body)).take 16

/-- Payload of HELLO, and of HELLO_ACK with the nonce that it echoes. -/
def helloBody (node : Nat) (bootId : Nat) (stepping nonce echo : List Byte) : List Byte :=
  toLE 2 node ++ toLE 4 bootId ++ stepping ++ nonce ++ echo

/-- A message that only the hello key authenticates (R443): HELLO, HELLO_ACK or BYE, on the lowest ACTIVE port of the
route. -/
def sendPlain (s : State) (n : NodeId) (code : Nat) (body : List Byte) : State :=
  match routePorts s n.toNat with
  | [] => s
  | p :: _ =>
    portSend s p true (plainPacket (ownNode s) n.toNat code body ++ plainTag s (ownNode s) n.toNat code body)

/-- HELLO or HELLO_ACK (R318, R443): node identifier, BOOT_ID, stepping, nonce, and the echo of a HELLO_ACK. -/
def sendHello (s : State) (n : NodeId) (ackB : Bool) (nonce echo : List Byte) : State :=
  let body := helloBody (ownNode s) s.sec.bootId.toNat (ascii [0x42, 0x31]) nonce echo
  sendPlain (send s (.hello n ackB nonce echo)) n (if ackB then 2 else 1) body

/-- BYE to a peer (R318, R443): BOOT_ID and a nonce. -/
def sendBye (s : State) (n : NodeId) : State :=
  let body := toLE 4 s.sec.bootId.toNat ++ drawBytes s 32
  sendPlain (send (tickFree s) (.control n 3 body)) n 3 body

/-- BYE to every UP peer. -/
def byeAll (s : State) : State :=
  (s.peers.filter (fun p => p.2.st == .up)).foldl (fun s p => sendBye s (BitVec.ofNat 12 p.1)) s

/-! ### Stops of work -/

/-- Work items of the furrow that still run. -/
def runningItems (s : State) : List ItemRun := s.items.filter (fun w => !w.done && w.halted == 0)

/-- A running work item stopped, if it still runs (R371, R375, R376). -/
def stopItem (s : State) (id why cause : Nat) : State :=
  match itemOf s id with
  | some w => if w.done ∨ w.halted ≠ 0 then s else haltItem s w why cause none
  | none => s

/-- Every running work item stopped without adding to its stop count (R376). -/
def stopAll (s : State) (cause : Nat) : State := (runningItems s).foldl (fun s w => stopItem s w.id 3 cause) s

/-- The running work item on an array. -/
def itemOn (s : State) (a : ArrId) : Option ItemRun := (runningItems s).find? (fun w => (gangArrays w).contains a)

/-- A record of an error charged to a work item. -/
def logItem (s : State) (w : ItemRun) (cls source unit code : Nat) : State :=
  logFault s { cls := cls, domain := 0, source := source, unit := unit, code := code, fseq := 0, furrow := 0, clk := nowClk s
               ld := itemLd s w, rqt := w.rqt, workItem := w.number % 2 ^ 20 + (w.stops + 1) * 2 ^ 20, layer := w.layer }

/-! ### Halt (R388) -/

/-- The device halts (R388): every work item stops, BYE goes to the UP peers, the record goes to the management controller and
the owner, and HALTED is set. -/
def haltDevice (s : State) (source unit code : Nat) : State :=
  if halted s then s
  else
    let s := stopAll s 6
    let s := byeAll s
    let s := logAt (raiseIbi (regFlag s (fltReg 0x008) 0) 2) 4 4 source unit code
    if policyOn s .owner then s else sendMsix s .owner 0

/-- An access inside the device to a reserved DPA (R30): a fault that no smaller domain contains, so the device halts (R388). The code
of its record is open (notes/assumptions/66.md). -/
def reservedDpa (s : State) (unit : Nat) : State := haltDevice (tickFree s) 0x07 unit ((drawReg s).toNat % 65536)

/-! ### Roles -/

/-- A role of the table that exists now. -/
def roleOf (s : State) (id : BitVec 24) : Option Role := s.roles.find? (fun r => r.live && r.id == id)
/-- A role's epoch; 0 where it is unknown. -/
def roleEpoch (s : State) (id : BitVec 24) : BitVec 16 := ((roleOf s id).map (·.epoch)).getD 0

/-- The 8 B role header (R210). -/
def roleHeader (s : State) (role src : BitVec 24) : List Byte :=
  toLE 8 (role.toNat * 2 ^ 40 + (roleEpoch s src).toNat * 2 ^ 24 + (roleEpoch s role).toNat * 2 ^ 8)

/-- The role of the same job that this device holds, under which a work item sends (R333). -/
def ownRole (s : State) (role : BitVec 24) : BitVec 24 :=
  ((s.roles.find? (fun r => r.live && r.holder.toNat == ownNode s && r.id.toNat / 64 == role.toNat / 64)).map (·.id)).getD 0

/-- LD of the region that is bound to a role. -/
def roleLd (s : State) (role : BitVec 24) : Option Nat :=
  (((s.regs.filter (fun p => decide (rgnOff 0 0 ≤ p.1) && decide (p.1 < rgnOff 512 0))).map
    (fun p => (p.1 - rgnOff 0 0) / 32)).find? (fun i =>
      rgnValid s i && bitAt (rgn s i 3) 6 && bits (rgn s i 3) 63 40 == role.toNat)).map (rgnLd s)

/-- The running work item that holds a role in the current furrow (R330): the first XDEV work item of the LD whose region is
bound to it (notes/assumptions/29.md). -/
def roleItem (s : State) (role : BitVec 24) : Option ItemRun :=
  match roleLd s role with
  | none => none
  | some t => s.items.find? (fun w => bitAt w.flags 1 && !w.done && w.halted == 0 && itemLd s w == t)

/-- A NOTIFY that has passed its epochs (R330): the barrier rises, the increment is held for one of the next two furrows, or
it is late. -/
def applyNotify (s : State) (role : BitVec 24) (furrow bar : Nat) : State :=
  let now := curFurrow s
  if furrow = now then
    match roleItem s role with
    | some w => itemBarInc s w bar
    | none => s
  else if furrow = now + 1 ∨ furrow = now + 2 then { s with notifies := s.notifies ++ [⟨furrow, role, bar⟩] }
  else if furrow < now then regBump s (rlReg 0 0x1060) 1
  else s

/-- Descriptors whose NOTIFY a message carried are notified. -/
def markNotified (s : State) (id : Nat) : State :=
  mapDescs s (fun d => if d.ntfMsg = some id then { d with notified := true } else d)

/-- A message is accepted (R211): its record is dropped, and its descriptor is notified. -/
def acceptMsg (s : State) (id : Nat) : State := markNotified { s with sent := s.sent.filter (fun m => m.id != id) } id

/-- A record of a message changed. -/
def mapSent (s : State) (id : Nat) (g : SentMsg → SentMsg) : State :=
  { s with sent := s.sent.map (fun m => if m.id = id then g m else m) }

/-- Where a message goes: to its region's node (R330), else to the holder of its role. -/
def msgNode (s : State) (m : SentMsg) : Option NodeId := m.node <|> (roleOf s m.role).map (·.holder)

/-- Whether flow 0 of the device context to a node is open. -/
def ctlOpen (s : State) (n : NodeId) : Bool := (flowOf s n 16 0).any (·.opened)

/-- A message sent under a role (R211, R329, R330), by its record: to another node once it is UP (R318), or applied here, where only
the roles' existence is left to check (R41). -/
def issueMsg (s : State) (m : SentMsg) : State :=
  match msgNode s m with
  | none => s
  | some n =>
    if n.toNat = ownNode s then
      if (roleOf s m.role).isSome ∧ (roleOf s m.srcRole).isSome then
        acceptMsg (match m.notify with
          | some (f, b) => applyNotify s m.role f b
          | none => s) m.id
      else mapSent (regBump s (furReg 0x48) 1) m.id (fun m => { m with stale := true })
    else if !ctlOpen s n then mapSent s m.id (fun m => { m with waits := true })
    else
      let body := roleHeader s m.role m.srcRole ++ (match m.notify with
        | some (f, b) => toLE 8 f ++ toLE 1 b
        | none => []) ++ m.body
      sendCtl (mapSent s m.id (fun m => { m with waits := false })) n (if m.notify.isSome then 0x13 else 0x10) body

/-- A new message under a role: its record is kept until it is accepted (R211). -/
def sendMsg (s : State) (node : Option NodeId) (role src : BitVec 24) (ntf : Option (Nat × Nat)) (body : List Byte) : State :=
  let m : SentMsg := { id := s.msgNo, role := role, srcRole := src, notify := ntf, body := body, node := node }
  issueMsg { s with sent := s.sent ++ [m], msgNo := s.msgNo + 1 } m

/-- Messages under roles that waited for a peer, once flow 0 to it is open (R318). -/
def flushMsgs (s : State) (n : NodeId) : State :=
  (s.sent.filter (fun m => m.waits && msgNode s m == some n)).foldl issueMsg s

/-! ### The credit leader -/

/-- The credit leader role (R335). -/
def creditRole (s : State) : BitVec 24 := BitVec.ofNat 24 (regField s (rlReg 0 0x1020) 39 16)
/-- RL_PWR.CREDIT_EN. -/
def creditOn (s : State) : Bool := regField s (rlReg 0 0x1020) 15 15 == 1
/-- The node of the credit leader. -/
def creditLeader (s : State) : Option NodeId := (roleOf s (creditRole s)).map (·.holder)

/-- A member of the job whose node becomes DOWN (R337): contact is lost for the grants of which it is the other side, and for every
grant where it is the credit leader. -/
def loseContact (s : State) (n : NodeId) : State :=
  let lead := (creditLeader s).any (· == n)
  { s with grants := s.grants.map (fun g => if lead ∨ g.peer = n then { g with lost := true } else g) }

end Sys2Proof.Machine
end

