-- ==== Sys2Proof/Machine/Joint.lean ====
section
/-! DEFINITION. Joint admission of context-parallel jobs (10_raile.md, R333): which requests are shards of a job, the queries and
the calendar part of an attempt. notes/assumptions/30.md says what ties a request to a job. -/

namespace Sys2Proof.Machine

/-- Whether an image has work items with XDEV set (R201). -/
def xdevImage (s : State) (h : Nat) : Bool := (allWorks (imgRd s h)).any (fun r => bitAt r.flags 1)

/-- The shards of a job: shard number and holder of each role that exists. -/
def jobShards (s : State) (job : Nat) : List (Nat × NodeId) :=
  (s.roles.filter (fun r => r.live && r.id.toNat / 64 == job)).map (fun r => (r.id.toNat % 64, r.holder))

/-- The role of a job under which this device holds a shard, of a job that other devices share. -/
def ownShard (s : State) : Option (BitVec 24) :=
  (s.roles.find? (fun r => r.live && r.holder.toNat == ownNode s
    && (jobShards s (r.id.toNat / 64)).any (fun x => x.2.toNat != ownNode s))).map (·.id)

/-- The job and shard of an entry. -/
def jobOf (s : State) (i : Nat) : Option (Nat × Nat) := match ownShard s with
  | none => none
  | some r => if xdevImage s (entryOf s i).image then some (r.toNat / 64, r.toNat % 64) else none

/-- Gang places of a step that run a work item (R203). -/
def stepGangs (rd : Rd) (p : Plan) (k : Nat) : List Nat :=
  (List.range p.gangs).filter (fun g => nthD 0xFFFFFFFF (stepItems rd p k) g != 0xFFFFFFFF)

/-- Whether every gang of a request's current step has completed and nothing of it waits to be replayed. -/
def stepAllDone (s : State) (i : Nat) : Bool :=
  let e := entryOf s i
  let w := workOf s i
  let rd := imgRd s e.image
  let p := planRec rd e.plan
  w.replays.isEmpty && !(stepGangs rd p w.stepNo).isEmpty && (stepGangs rd p w.stepNo).all (fun g => w.stepDone.contains g)

/-- Lane-furrows that a request's remaining prefill still needs (R213): the steps of its chunks, the copy step and the split step. -/
def stepsLeft (s : State) (i : Nat) : Nat :=
  let e := entryOf s i
  let w := workOf s i
  let p := planRec (imgRd s e.image) e.plan
  b2n w.copying + b2n w.splitting
    + (if w.chunkLens.isEmpty then 0 else p.steps * w.chunkLens.length - w.stepNo - b2n (decide (w.stepNo + 1 = p.steps) && stepAllDone s i))

/-- Whether an entry is one whose booked prefill is under way (R226). -/
def hasPrefill (s : State) (i : Nat) : Bool :=
  let e := entryOf s i
  (e.state == .admitted || e.state == .running || e.state == .lifting) && decide (0 < stepsLeft s i)

/-- The lane-furrow of an entry's chain that loads a tree chunk's tables, and the clocks that it books (R181, R216): of the chain of an
admission, or of one booked anew for a chunk that has not begun. -/
def loadAt (s : State) (i plan : Nat) : Nat × Nat :=
  let e := entryOf s i
  let w := workOf s i
  let rd := imgRd s e.image
  if !hasPrefill s i then (b2n w.copySrc.isSome, treeLoad rd e (planRec rd plan) (prefillLeft s i e))
  else if w.stepNo = 0 ∧ w.stepDone.isEmpty ∧ w.replays.isEmpty then
    (b2n w.copying, treeLoad rd e (planRec rd plan) (w.chunkLens.headD 0))
  else (0, 0)

/-- Reserve lane-furrows for a new chain (R213, R226): those that the old chain still holds, or those of R213 where it holds no more
than its steps need. -/
def reserveNow (s : State) (i : Nat) : Nat :=
  let n := stepsLeft s i
  let left := (workOf s i).chain.length - n
  if left = 0 then reserveOf s n else left

/-- Whether an entry waits for another device to book it: a shard other than 0. -/
def bookedElsewhere (s : State) (i : Nat) : Bool := match jobOf s i with
  | some (_, k) => k != 0
  | none => false

/-- The first plan that serves an entry's prefill, with its chunks and the furrows it needs. -/
def jointPlan (s : State) (i : Nat) : (n idx : Nat) → Option (Nat × List Nat × Nat)
  | 0, _ => none
  | n + 1, idx =>
    let e := entryOf s i
    let p := planRec (imgRd s e.image) idx
    let (op, k) := bookPair s
    let left := prefillLeft s i e
    if !planServes (modelOf s e) e idx p (e.targetLen - left) left ∨ capacityB s op < effCount p.stepD k then jointPlan s i n (idx + 1)
    else
      let chunks := chunkSplit p.chunkTokens (left + 1) left
      let steps := p.steps * chunks.length + b2n (workOf s i).copySrc.isSome + b2n e.forest
      some (idx, chunks, steps + reserveOf s steps)

/-- The plan of an entry of a job. -/
def jointPlanOf (s : State) (i : Nat) : Option (Nat × List Nat × Nat) :=
  jointPlan s i (secD (imgRd s (entryOf s i).image) 8).count 0

/-- The plan, chunks and furrows of a job's request that a joint attempt books: those of its admission, or those that its prefill
still needs at a rebooking (R226, R333). -/
def jointNeed (s : State) (i : Nat) : Option (Nat × List Nat × Nat) :=
  if hasPrefill s i then some ((entryOf s i).plan, (workOf s i).chunkLens, stepsLeft s i + reserveNow s i) else jointPlanOf s i

/-- The lane-furrow of a plan in one furrow, behind those given of its chain, if it fits here. -/
def planLane (s : State) (i plan g : Nat) (acc : List LaneFurrow) : Option LaneFurrow :=
  let rd := imgRd s (entryOf s i).image
  let p := planRec rd plan
  laneIn s (allLanes s) p (slotsFor s rd p (some i) none) (loadOf (loadAt s i plan) acc) g

/-- Lane-furrows of a plan in the first `need` furrows of a list in which it fits. -/
def lanesAmong (s : State) (i plan : Nat) : (need : Nat) → List Nat → List LaneFurrow → Option (List LaneFurrow)
  | 0, _, acc => some acc
  | _ + 1, [], _ => none
  | n + 1, g :: gs, acc => match planLane s i plan g acc with
    | some l => lanesAmong s i plan n gs (acc ++ [l])
    | none => lanesAmong s i plan (n + 1) gs acc

/-- Lane-furrows of a plan in every furrow of a list. -/
def lanesAll (s : State) (i plan : Nat) : List Nat → List LaneFurrow → Option (List LaneFurrow)
  | [], acc => some acc
  | g :: gs, acc => match planLane s i plan g acc with
    | some l => lanesAll s i plan gs (acc ++ [l])
    | none => none

/-- Causes of R226 for a booking that must move, from the pair and geometry under which it was made. -/
def moveWhy (s : State) (b k geo recorded : Nat) : Nat :=
  let nb := capacityB s s.power.wop
  if nb < b ∨ nb * s.power.wsluice < b * k then 3
  else if geo ≠ s.tick.geoNum then 7
  else if recorded = 0 then 8 else recorded

/-- Last furrow of the range that an attempt asks about. -/
def jointLast (first need : Nat) : Nat := first + 16 * need

/-- An attempt begins (R333): the other shards are asked for their free furrows. `why` is the cause of R226 of a rebooking. -/
def jointStart (s : State) (i job f plan need why : Nat) : State :=
  let p := planRec (imgRd s (entryOf s i).image) plan
  let nodes := ((jobShards s job).map (·.2)).filter (fun n => n.toNat != ownNode s)
  let body := toLE 4 job ++ toLE 1 (gangWidth p.gangW) ++ toLE 2 p.gangs ++ toLE 8 (f + 2) ++ toLE 8 (jointLast (f + 2) need)
  let s := { s with joint := s.joint.filter (fun j => j.entry != i) ++
    [{ job := BitVec.ofNat 18 job, entry := i, plan := plan, first := f, waiting := nodes, free := [], cause := why }] }
  nodes.foldl (fun s n => sendCtl s n 0x30 body) s

end Sys2Proof.Machine
end

