-- ==== Sys2Proof/Machine/Serve.lean ====
section
/-! DEFINITION. Serving (08_serving.md): submissions (R229 to R231, R240, R251, R357), admission (R242, R216, R263), the ends
of a request (R235, R237 to R239, R377), and the commands SUBMISSION_READ, ADMISSION_PASS. -/

namespace Sys2Proof.Machine

/-! ### Ends of a request -/

/-- A request is late (R223, R227, R264): LATE_CAUSE keeps the first cause that affected it, else the one given, and
FUR_LATE counts it once. -/
def makeLate (s : State) (i c : Nat) : State :=
  let e := entryOf s i
  let s := noteCause s i c
  let cause := if e.lateCause = 0 then (workOf s i).moveCause else e.lateCause
  let s := setEntry s i { e with late := true, lateCause := cause }
  regBump s (furReg 0x058) (b2n (!e.late))

/-- The seats, lane-furrows and mask generator slot of an entry are released (R263, R377); a round that has not begun and
has no seat left is removed. -/
def releaseBookings (s : State) (i : Nat) : State :=
  let s := { s with
    rounds := (s.rounds.map (fun r => { r with seats := r.seats.filter (· != i) })).filter
      (fun r => !(r.seats.isEmpty && decide (s.tick.furrow < r.start)))
    mgen := s.mgen.map (fun m => if m.busy = some i then { m with busy := none, loaded := false } else m) }
  let w := workOf s i
  setWork s i { w with chain := [], chunkLens := [], stepNo := 0, stepDone := [], replays := [], copying := false
                       splitting := false, booking := 0, special := 0 }

/-- The running work items of an entry are cut (R377, R384), and counted (R222). -/
def cutEntryItems (s : State) (i : Nat) : State :=
  let mine := s.items.filter (fun w => w.rqt == i && w.round.isNone)
  let s := regBump s (furReg 0x030) (mine.filter (fun w => !w.done && w.halted == 0)).length
  let s := mine.foldl cutItem s
  { s with items := s.items.filter (fun w => !(w.rqt == i && w.round.isNone)) }

/-- A record counted: SEQ rises (R272). -/
def bumpSeq (s : State) (i : Nat) : State :=
  let w := workOf s i
  setWork s i { w with seq := (w.seq + 1) % 2 ^ 16 }

/-- The completion record of an entry that ends (R272, R274). -/
def postCompl (s : State) (i : Nat) : State :=
  let e := entryOf s i
  let w := workOf s i
  let s := setWork s i { w with endAt := curFurrow s, changed := true, freeLate := lateNow s }
  let s := postRecord s (ldId e.ld) (queId e.queue) (complRec s i e w) true w.place
  let s := setWork s i { workOf s i with place := false }
  bumpSeq s i

/-- A request ends in a state with a status (R235): bookings released, completion record written. -/
def endRequest (s : State) (i : Nat) (st : RqState) (status : Nat) : State :=
  let s := releaseBookings s i
  let e := entryOf s i
  postCompl (setEntry s i { e with state := st, status := status, booked := 0, cancelPending := false }) i

/-- A request fails (R377, R380): its work is cut, what lies at or beyond COMMITTED is given up, and it ends
FAILED_PARTIAL, or FAILED at length 0. -/
def failQuiet (s : State) (i status : Nat) : State :=
  let s := cutEntryItems s i
  let e := entryOf s i
  let s := dropBlocks s i (cdiv e.committed 64)
  endRequest s i (if 0 < e.committed then .failedPartial else .failed) status

/-- A request fails for an error that no record describes yet: it is logged as REQUEST_FAILED (R373). -/
def failRequest (s : State) (i status code : Nat) : State :=
  let e := entryOf s i
  let s := failQuiet s i status
  logFault s { cls := 2, domain := 0, source := 0x0D, unit := 0, code := code, fseq := 0, furrow := 0, clk := 0, ld := e.ld
               rqt := i }

/-- Work-area pages whose entry is no longer one of the LD (R244, R247): released at a headland. -/
def reapWorkAreas (s : State) (t : LdId) : State :=
  let lo := workArea 0 / 65536
  let hi := workArea 4096 / 65536
  let gone (p : Nat × Nat) : Bool :=
    decide (lo ≤ p.1) && decide (p.1 < hi)
    && (match lookupN ((p.1 - lo) / 65536) s.rqt with
        | some e => e.ld != t.val || e.state == .parked
        | none => true)
  let s' := ((ten s t).tva.filter gone).foldl (fun s p => setTag s p.2 .free) s
  setTen s' t { ten s' t with tva := (ten s t).tva.filter (fun p => !gone p) }

/-- Entries bound to an adapter slot, ADP_REFS (R256). -/
def adpRefs (s : State) (k : Nat) : Nat := (s.rqt.filter (fun p => p.2.state != .free && p.2.adapterSlot == some k)).length

/-- Entries bound to a learned-prefix slot, LP_REFS (R255). -/
def lpRefs (s : State) (k : Nat) : Nat := (s.rqt.filter (fun p => p.2.state != .free && p.2.lpSlot == some k)).length

/-- RETIRING adapter slots without a bound entry become EMPTY (R257): their frames are FREE again and their tree nodes are
evicted. -/
def reapAdapters (s : State) : State :=
  (List.finRange 32).foldl (fun s k =>
    let a := s.adapters[k]
    if a.st = .retiring ∧ adpRefs s k.val = 0 then
      let s := a.frames.foldl (fun s f => setTag s f .free) { s with adapters := s.adapters.set k {} }
      evictWhere s (fun n => n.adapterId == a.id && n.adapterVer == a.version)
    else s) s

/-- The blocks of a park are released at the headland (R288): node and page references, and both structures where the entry has no new
block in their place. -/
def releaseGone (s : State) (i : Nat) : State :=
  let e := entryOf s i
  let w := workOf s i
  let s := dropNodes s (w.gone.filterMap (·.node))
  let s := w.gone.zipIdx.foldl (fun s x =>
    if x.1.pages.isEmpty || !(nthD noBlock w.blocks x.2).pages.isEmpty then s else writeAbsent s i x.2 x.1.pages.length) s
  let s := (w.gone.filter (fun k => !k.lp)).foldl (fun s k => k.pages.foldl (fun s a => pageDrop s e.ld false a) s) s
  setWork s i { workOf s i with gone := [], freedPages := false }

/-- An entry becomes FREE (R235, R276): its pages and references are dropped and the entry is cleared; what nothing
references any more returns to the pool at the next headland. -/
def freeEntry (s : State) (i : Nat) : State :=
  let w := workOf s i
  let s := dropNodes s (w.blocks.filterMap (·.node) ++ w.hits)
  let s := releaseGone (dropBlocks s i 0) i
  let s := releaseBookings s i
  let s := jrnlEnd s i
  let gone (r : JRec) : JRec := if r.idx = i then { r with gone := true } else r
  reapAdapters { s with rqt := eraseN i s.rqt, work := eraseN i s.work
                        jrnl := { s.jrnl with due := s.jrnl.due.map gone, inFlight := s.jrnl.inFlight.map (fun x => (gone x.1, x.2)) } }

/-! ### Submissions -/

/-- One stop sequence of an RPB (R229). -/
def rpbStop (b : List Byte) (i : Nat) : List Nat :=
  (List.range (Nat.min 32 (fld b (0x100 + 136 * i) 4))).map (fun k => fld b (0x104 + 136 * i + 4 * k) 4)

/-- The parameters of an RPB (R229); parents and branches are read beside it. A TOP_K above 256 acts as 256 (DESIGN CHOICE,
notes/assumptions/93.md). -/
def rpbParams (b : List Byte) (parents branches : List Nat) : Params :=
  let f := fld b 5 1
  { seed := slice b 0x20 16, rngBase := BitVec.ofNat 64 (fld b 0x30 8), invTemp := BitVec.ofNat 32 (fld b 0x38 4)
    topP := BitVec.ofNat 32 (fld b 0x3C 4), topK := if fld b 0x40 2 = 0 then 256 else Nat.min 256 (fld b 0x40 2)
    repPen := BitVec.ofNat 32 (fld b 0x44 4), presPen := BitVec.ofNat 32 (fld b 0x48 4), freqPen := BitVec.ofNat 32 (fld b 0x4C 4)
    greedy := bitAt f 6, countPrompt := bitAt f 5, pxtLookup := bitAt f 2, pxtInsert := bitAt f 3, maxNew := fld b 6 2
    eos := ((List.range 8).map (fun k => fld b (0x50 + 4 * k) 4)).filter (· != 0xFFFFFFFF)
    stops := (List.range (Nat.min 16 (fld b 0x42 2))).map (rpbStop b)
    parents := parents, branches := branches, raw := b }

/-- Whether a range can be read whole from a tenant's window (R230). -/
def windowReadable (s : State) (t : LdId) (v n : Nat) : Bool :=
  decide (v + n ≤ 2 ^ 47) && tvaMapped s t v n && !tvaPoisoned s t v n

/-- An unreadable range counted against the LD (R230): poisoned under R380, else as an access beyond the window under R35. -/
def countUnreadable (s : State) (t : LdId) (v n : Nat) : State :=
  if v + n ≤ 2 ^ 47 ∧ tvaMapped s t v n then
    logFault s { cls := 0, domain := 0, source := 0x0D, unit := 0, code := 0x0004, fseq := 0, furrow := 0, clk := nowClk s, ld := t.val, addr := v }
  else windowMiss s t v

/-- A range of a tenant's window read by the serving block (R230): its bytes, or none where it cannot be read whole, which is counted. -/
def readRange (s : State) (t : LdId) (v n : Nat) : State × Option (List Byte) :=
  let s := devTouch s t v n
  if windowReadable s t v n then (s, some (tvaReads s t v n)) else (countUnreadable s t v n, none)

/-- Numbers of 4 bytes, `n` of them. -/
def leWords (n : Nat) (bs : List Byte) : List Nat := (List.range n).map (fun k => fld bs (4 * k) 4)

/-- The input tokens, and for a forest its parents and branches, that an RPB names (R229). -/
def readInputs (s : State) (t : LdId) (r : List Byte) : State × Option (List Nat × List Nat × List Nat) :=
  let n := fld r 0x18 4
  let nb := Nat.min 64 (fld r 0x80 2)
  match readRange s t (fld r 0x10 8) (4 * n) with
  | (s, none) => (s, none)
  | (s, some a) =>
    if !bitAt (fld r 5 1) 4 then (s, some (leWords n a, [], []))
    else match readRange s t (fld r 0x70 8) (4 * n) with
      | (s, none) => (s, none)
      | (s, some b) => match readRange s t (fld r 0x78 8) (4 * nb) with
        | (s, none) => (s, none)
        | (s, some c) => (s, some (leWords n a, leWords n b, leWords nb c))

/-- Tags of the branches that a forest request holds (R259). -/
def branchTags (e : Entry) : List Nat :=
  if e.forest ∧ (e.state = .queued ∨ e.state = .admitted ∨ e.state = .running) then
    (List.range e.seedRng.branches.length).map (fun k => (e.tag + k + 1) % 2 ^ 31)
  else []

/-- Whether a tag is in use by an LD other than by entry `own` (R230, R259). -/
def tagUsed (s : State) (t tag : Nat) (own : Option Nat) : Bool :=
  (ldEntries s t).any (fun p => (p.2.tag == tag && some p.1 != own) || (branchTags p.2).contains tag)

/-- A parent list that R180 accepts. -/
def parentsOk (ps : List Nat) : Bool :=
  decide (ps.length ≤ 32768)
  && (List.range ps.length).all (fun k => nthD 0 ps k == 0xFFFFFFFF || decide (nthD 0 ps k < k))

/-- Whether an FP32 value is finite and above 0. -/
def finitePos (x : Lane32) : Bool :=
  decide (x.toNat / 2 ^ 31 = 0) && decide (x.toNat ≠ 0) && decide (x.toNat / 2 ^ 23 % 256 ≠ 255)

/-- The READY slot of an adapter identifier (R256). -/
def readyAdapter (s : State) (id : Nat) : Option Nat :=
  ((List.finRange 32).find? (fun k => (s.adapters[k]).st == .ready && (s.adapters[k]).id == id)).map (·.val)

/-- Reserved bytes of an RPB. -/
def rpbReserved (b : List Byte) : Bool :=
  zeroAt b 0x82 126 && (List.range 16).all (fun i => zeroAt b (0x184 + 136 * i) 4)

/-- Entries an LD holds or has reserved for branches (R231, R258). -/
def ldHeld (s : State) (t : Nat) : Nat :=
  (ldEntries s t).length
  + sumN ((ldEntries s t).map (fun p =>
      if p.2.forest ∧ (p.2.state = .admitted ∨ p.2.state = .running) then p.2.seedRng.branches.length else 0))

/-- Entries in use over all LDs, with those reserved. -/
def rqtHeld (s : State) : Nat := sumN ((List.range 16).map (ldHeld s))

/-- Whether `n` more entries can be had for an LD (R231, R258). -/
def entriesFree (s : State) (t n : Nat) : Bool :=
  decide (rqtHeld s + n ≤ 4096) && decide (ldHeld s t + n ≤ regField s (ldRqtOff t) 12 0)

/-- The lowest FREE entry (notes/assumptions/19.md). -/
def freeIndex (s : State) : Nat := ((List.range 4096).find? (fun i => (lookupN i s.rqt).isNone)).getD 4096

/-- The loaded drill image a handle names, that can serve (R199, R230). -/
def servesImage (s : State) (h : Nat) : Bool :=
  match imageOf s h with
  | some m => m.ready && !m.weight
  | none => false

/-- The checks of R230 on a submission that was read whole: 0 when valid, else the status. `cont` is the entry that it
continues. -/
def submitStatus (s : State) (t : LdId) (b : List Byte) (tag : Nat) (toks : List Nat) (p : Params) (cont : Option Nat) : Nat :=
  let fl := fld b 5 1
  let ce := match cont with
    | some i => entryOf s i
    | none => {}
  let image := if cont.isSome then ce.image else fld b 0 2
  let m := modelInfo (imgRd s image)
  let lp := fld b 4 1
  let base := if cont.isSome then ce.committed else if lp = 0xFF then 0 else (s.lps[Fin.ofNat 64 lp]).len
  let forest := bitAt fl 4
  let bad :=
    tagUsed s t.val tag cont
    || (cont.isNone && (!servesImage s image
        || (lp != 0xFF && !(decide (lp < 64) && (s.lps[Fin.ofNat 64 lp]).st == .ready && (s.lps[Fin.ofNat 64 lp]).handle == image))))
    || decide (4096 < p.maxNew) || decide (16 < fld b 0x42 2)
    || (List.range (Nat.min 16 (fld b 0x42 2))).any (fun i => fld b (0x100 + 136 * i) 4 == 0 || decide (32 < fld b (0x100 + 136 * i) 4))
    || (toks ++ p.stops.flatten).any (fun x => decide (m.vocab ≤ x))
    || (decide (0 < p.maxNew) && m.genPlan == 0xFFFF)
    || (!p.greedy && (!finitePos p.invTemp || !(finitePos p.topP && decide (p.topP.toNat ≤ 0x3F800000))))
    || !finitePos p.repPen
    || (forest && (decide (0 < p.maxNew) || cont.isSome || !parentsOk p.parents || p.parents.length != toks.length
        || fld b 0x80 2 == 0 || decide (64 < fld b 0x80 2) || p.branches.any (fun x => decide (toks.length ≤ x))
        || (List.range (fld b 0x80 2)).any (fun k => tagUsed s t.val ((tag + k + 1) % 2 ^ 31) none)))
    || decide (m.ctxLimit < base + toks.length + p.maxNew)
    || !rpbReserved b || toks.isEmpty
  if bad then 7
  else if cont.isNone ∧ fld b 2 2 ≠ 0xFFFF ∧ (readyAdapter s (fld b 2 2)).isNone then 8
  else 0

/-- Nodes that a lookup would hit and whose line in RESERVE is poisoned leave the tree with their descendants, so that the lookup counts a
miss (R380): class CORRECTED. -/
def evictPoisoned : (fuel : Nat) → State → TreeKey → (n : Nat) → List Nat → Option Nat → List Byte → State
  | 0, s, _, _, _, _, _ => s
  | f + 1, s, key, n, toks, p, h =>
    match (lookupHits s key n toks p h []).1.find? (fun x => poisoned s (reserveLine s 1 x) 256) with
    | none => s
    | some x => evictPoisoned f (logAt (removeSubtree (s.nodes.length + 1) s x) 0 0 0x0D 0 0x0004) key n toks p h

/-- The lookup of a request that enters QUEUED (R251); `cont` tells a continuation. A copy source is sought for the run after the last
hit, also where that run is only the part of a block (DESIGN CHOICE, notes/assumptions/94.md). -/
def runLookup (s : State) (i : Nat) (cont : Bool) : State :=
  let e := entryOf s i
  let w := workOf s i
  let key := treeKey s e
  let last := nthD noBlock w.blocks (e.committed / 64 - 1)
  let start : Option (Option Nat × List Byte) :=
    if !cont then some (none, List.replicate 16 0)
    else if 0 < e.committed ∧ e.committed % 64 = 0 ∧ last.node.isSome then some (last.node, last.hash)
    else none
  match start with
  | none => s
  | some (p, h) =>
    let n := (w.tokens.length - 1) / 64
    let s := evictPoisoned (s.nodes.length + 1) s key n w.tokens p h
    let r := lookupHits s key n w.tokens p h []
    let s := r.1.foldl (fun s x => memTouch s (reserveLine s 1 x) 256) s
    let rest := (w.tokens.drop (64 * r.1.length)).take (w.tokens.length - 1 - 64 * r.1.length)
    let src := copySource s key r.2.1 rest (modelOf s e).cowMin
    let s := { s with nodes := s.nodes.map (fun x =>
      if r.1.contains x.idx then { x with refs := x.refs + 1, lastUse := curFurrow s } else x) }
    let s := regBump s (rqtReg 0x100038) 1
    let s := regBump s (rqtReg 0x100040) r.1.length
    setWork s i { workOf s i with hits := r.1, copySrc := src }

/-- A valid submission enters QUEUED (R235, R240, R251, R255, R256): a new entry, or the retained entry that it continues,
whose ENERGY and PARENT_INDEX begin anew (DESIGN CHOICE, notes/assumptions/96.md). -/
def enqueue (s : State) (t : LdId) (q : Fin 128) (b : List Byte) (tag rpb : Nat) (toks : List Nat) (p : Params)
    (cont : Option Nat) : State :=
  let fl := fld b 5 1
  let i := cont.getD (freeIndex s)
  let old := entryOf s i
  let s := if cont.isSome then flushProgress s i else s
  let ow := workOf s i
  let lp := if fld b 4 1 = 0xFF then none else some (fld b 4 1)
  let base := match cont with
    | some _ => old.committed
    | none => match lp with
      | some l => (s.lps[Fin.ofNat 64 l]).len
      | none => 0
  let e : Entry :=
    { state := .queued, ld := t.val, queue := q.val, cls := regField s (qcfgOff q.val) 11 10
      acceptRequote := bitAt fl 0, retain := bitAt fl 1, forest := bitAt fl 4, draft := bitAt fl 7
      image := if cont.isSome then old.image else fld b 0 2
      adapterSlot := if cont.isSome then old.adapterSlot else readyAdapter s (fld b 2 2)
      lpSlot := if cont.isSome then old.lpSlot else lp
      adapterId := if cont.isSome then old.adapterId else fld b 2 2
      tag := tag, tSubmit := rqtNow s, ttft := fld b 8 4, tbt := fld b 12 4, committed := base, seedRng := p
      rpb := rpb, genLeft := p.maxNew, targetLen := base + toks.length, energy := 0 }
  let w : Work :=
    { tokens := toks, history := if cont.isSome then ow.history else [], counts := if cont.isSome then ow.counts else []
      blocks := if cont.isSome then ow.blocks else [], place := true, changed := true
      subFirst := ow.subFirst, subLast := ow.subLast, bndLast := ow.bndLast }
  let s := jrnlSubmit (setWork (setEntry s i e) i w) i cont.isSome
  let u := que s q
  let s := setQue s q { u with waiting := u.waiting ++ [i] }
  let s := match cont, lp with
    | none, some l =>
      let lpx := s.lps[Fin.ofNat 64 l]
      let m := modelOf s e
      (List.range (lpx.len / 64)).foldl (fun s b => putBlock s i b
        { shared := true, lp := true, valid := 64
          pages := (List.range m.layers).map (fun k => lpAlias + l * 2 ^ 32 + (b * m.layers + k) * 2 ^ m.pageLog2) }) s
    | _, _ => s
  if p.pxtLookup then runLookup s i cont.isSome else s

/-- Whether the serving block may read a queue's next entry (R356, R359, R384, R388). -/
def mayReadSq (s : State) (q : Fin 128) : Bool :=
  let u := que s q
  let t := ten s (ldId (queueLd s q.val))
  u.pair && queueOn s q.val && u.sqHead != u.sqTail && decide (t.places < 4096) && !t.resetting && t.material.isSome
  && regField s (bndReg 0x030) 2 2 == 0 && regField s (pwrReg 0x010) 7 7 == 0 && regField s (fltReg 0x008) 0 0 == 0
  && s.fw.running

/-- A submission that ends with a completion record and no entry (R230, R231). -/
def answerSub (s : State) (t : LdId) (q : Fin 128) (tag st : Nat) : State := postRecord s t q (bareRec s tag st none 0xFFFF 0 0) true true

/-- A submission whose RPB and inputs have been read (R230, R231, R240, R289): the request enters QUEUED, or its status. -/
def submit (s : State) (t : LdId) (q : Fin 128) (tag rpb : Nat) (r : List Byte) (x : List Nat × List Nat × List Nat) : State :=
  let p := rpbParams r x.2.1 x.2.2
  let isCont := bitAt (fld r 0x1C 4) 31
  let found := byTag s t.val (fld r 0x1C 4 % 2 ^ 31)
  let busy := found.any (fun y => s.ops.any (fun o => o.entry == y.1))
  let cont := match found with
    | some (i, e) => if isCont ∧ retained e ∧ !(workOf s i).releaseReq then some i else none
    | none => none
  if isCont && busy then answerSub s t q tag 0x0103
  else if isCont ∧ cont.isNone then answerSub s t q tag 7
  else
    let st := submitStatus s t r tag x.1 p cont
    if st ≠ 0 then answerSub s t q tag st
    else if cont.isNone ∧ !entriesFree s t.val 1 then answerSub s t q tag 6
    else enqueue s t q r tag rpb x.1 p cont

/-- A submission entry that has been read (R230, R357): its RPB, then what the RPB names. An RPB off a 64 B boundary cannot be read, and is
counted. -/
def readSub (s : State) (t : LdId) (q : Fin 128) (b : List Byte) : State :=
  let tag := fld b 4 4
  let rpb := fld b 8 8
  if fld b 0 1 ≠ 1 ∨ !zeroAt b 1 3 ∨ !zeroAt b 16 112 ∨ 2 ^ 31 ≤ tag then answerSub s t q tag 7
  else if rpb % 64 ≠ 0 then answerSub (windowMiss s t rpb) t q tag 7
  else match readRange s t rpb 2432 with
    | (s, none) => answerSub s t q tag 7
    | (s, some r) => match readInputs s t r with
      | (s, none) => answerSub s t q tag 7
      | (s, some x) => submit s t q tag rpb r x

/-- SUBMISSION_READ (R230, R231, R359): the next entry of a queue is consumed; the request enters QUEUED, or a completion
record says why not. -/
def execSubmissionRead (q : Fin 128) (s : State) : Host.Outcome State Fault Refusal :=
  if !mayReadSq s q then .next s
  else
    let u := que s q
    let t := ldId (queueLd s q.val)
    let at_ := u.sqTva + u.sqHead % 2 ^ u.sqLog2 * 128
    let s := setQue s q { u with sqHead := (u.sqHead + 1) % 2 ^ 32 }
    let s := setTen s t { ten s t with places := (ten s t).places + 1 }
    match readRange s t at_ 128 with
    | (s, none) => .next (answerSub s t q 0xFFFFFFFF 7)
    | (s, some b) => .next (readSub s t q b)

/-! ### Admission -/

/-- Work that uses a damaged image, adapter or learned prefix is refused (R380). -/
def damagedFor (s : State) (e : Entry) : Bool :=
  (match imageOf s e.image with
    | some m => m.damaged
    | none => true)
  || (match e.adapterSlot with
    | some a => (s.adapters[Fin.ofNat 32 a]).damaged
    | none => false)
  || (match e.lpSlot with
    | some l => (s.lps[Fin.ofNat 64 l]).damaged
    | none => false)

/-- REFUSED statuses (R275, R277). -/
def refusedStatus (st : Nat) : Bool := decide (1 ≤ st) && decide (st ≤ 5)

/-- A request refused from QUEUED (R235, R217, R275): FREE with one completion record, prefix references dropped. A
continued entry's cache goes with it. -/
def refuse (s : State) (i status : Nat) (best : Option Nat) : State :=
  let e := entryOf s i
  let w := workOf s i
  let s := regBump s (rqtReg 0x100020) (b2n (refusedStatus status))
  let s := postRecord s (ldId e.ld) (queId e.queue) (bareRec s e.tag status best i w.seq e.committed) true w.place
  freeEntry s i

/-- The hit blocks named in the block list at admission (R251, R252). -/
def shareHits (s : State) (i : Nat) : State :=
  let w := workOf s i
  let b0 := (entryOf s i).committed / 64
  (List.range w.hits.length).foldl (fun s k =>
    match s.nodes.find? (fun n => n.idx == nthD 0 w.hits k) with
    | none => s
    | some n =>
      let s := n.pages.foldl (fun s a => pageRef s n.ld a) s
      putBlock s i (b0 + k) { hash := n.hash, valid := 64, shared := true, node := some n.idx, pages := n.pages
                              written := 64, forked := n.forked }) s

/-- A request admitted (R235, R217, R248, R252); one that recovery resumes keeps its QUOTE_ORIG (R303). -/
def admitEntry (s : State) (i plan : Nat) (chunks : List Nat) (chain : List LaneFurrow) (q tq frames : Nat) : State :=
  let s := shareHits s i
  let e := entryOf s i
  let w := workOf s i
  let hit := 64 * w.hits.length
  let s := setEntry s i { e with state := .admitted, quote := q, quoteOrig := if e.quoteOrig = 0 then q else e.quoteOrig, tailQuote := tq, plan := plan
                                 committed := e.committed + hit, prefixHit := hit
                                 booked := e.targetLen - e.committed - hit }
  let s := setWork s i { w with chain := chain, chunkLens := chunks, stepNo := 0, stepDone := [], replays := []
                                reserveUsed := 0, booking := frames, hits := [], copying := w.copySrc.isSome
                                splitting := e.forest, history := w.history ++ w.tokens.take hit
                                tokens := w.tokens, changed := true
                                pairOp := (pairOfLanes s chain).1, pairK := (pairOfLanes s chain).2
                                geoGen := s.tick.geoNum }
  let s := regBump s (rqtReg 0x100048) (b2n w.copySrc.isSome)
  jrnlAdmit (regBump s (rqtReg 0x100018) 1) i

/-- Admission of a request on this device alone (R216, R243, R263): whether it was admitted. -/
def soloAdmit (s : State) (i f : Nat) : State × Bool :=
  let e := entryOf s i
  let n := (secD (imgRd s e.image) 8).count
  match admitPlans f i e n 0 s none false with
  | .refuse s best pool =>
    (refuse s i (if best.isSome then 1 else if pool then 3 else 2) best, false)
  | .fits s plan chunks chain q =>
    let frames := poolNeed s i e
    let s1 := setWork s i { workOf s i with chain := chain }
    match bookTail s1 i e q q with
    | .error tbt => (refuse s i (if tbt then 5 else 4) (some q), false)
    | .ok (s2, tq) => (admitEntry s2 i plan chunks chain q tq frames, true)

/-- One attempt of admission (R216, R242, R243, R258, R263, R333, R380): whether it was admitted. A job's request begins a
joint attempt where a plan serves it. -/
def tryAdmit (s : State) (i f : Nat) : State × Bool :=
  let e := entryOf s i
  if damagedFor s e then (refuse s i 0x0204 none, false)
  else if e.forest ∧ !entriesFree s e.ld e.seedRng.branches.length then (refuse s i 6 none, false)
  else match jobOf s i with
    | none => soloAdmit s i f
    | some (job, _) => match jointPlanOf s i with
      | none => soloAdmit s i f
      | some (plan, _, need) => (jointStart s i job f plan need 0, false)

/-- A request's cost (R242): its remaining prefill tokens plus MAX_NEW. -/
def admitCost (s : State) (i : Nat) : Nat := prefillLeft s i (entryOf s i) + (entryOf s i).seedRng.maxNew

/-- The eligible head of a queue: its oldest request without CANCEL_PENDING (R242), not while its LD is being reset (R384). -/
def queueHead (s : State) (q : Fin 128) : Option Nat :=
  if (ten s (ldId (queueLd s q.val))).resetting then none
  else (que s q).waiting.find? (fun i => !(entryOf s i).cancelPending && !bookedElsewhere s i)

/-- Requests of one visited queue tried while the deficit and the attempts last. -/
def visitQueue (f admitMax : Nat) (q : Fin 128) : (fuel : Nat) → (attempts : Nat) → State → State × Nat
  | 0, a, s => (s, a)
  | n + 1, a, s =>
    match queueHead s q with
    | none => (s, a)
    | some i =>
      if admitMax ≤ a ∨ (que s q).deficit < admitCost s i then (s, a)
      else
        let cost := admitCost s i
        let u := que s q
        let s := setQue s q { u with waiting := u.waiting.filter (· != i) }
        let r := tryAdmit s i f
        let s := if r.2 then setQue r.1 q { que r.1 q with deficit := (que r.1 q).deficit - cost } else r.1
        visitQueue f admitMax q n (a + 1) s

/-- The next queue of a class with an eligible head after the last served one, in queue number order (R242). -/
def nextQueue (s : State) (cls : Nat) : Option (Fin 128) :=
  let last := s.lastServed[Fin.ofNat 4 cls]
  ((List.range 128).map (fun k => queId (last + 1 + k))).find? (fun q =>
    regField s (qcfgOff q.val) 11 10 == cls && (queueHead s q).isSome)

/-- The visits of one class. -/
def visitClass (f admitMax cls : Nat) : (fuel : Nat) → (attempts : Nat) → State → State × Nat
  | 0, a, s => (s, a)
  | n + 1, a, s =>
    if admitMax ≤ a then (s, a)
    else match nextQueue s cls with
      | none => (s, a)
      | some q =>
        let u := que s q
        let add := regField s (qcfgOff q.val) 7 0 * regField s (rqtReg 0x100000) 31 0
        let s := setQue s q { u with deficit := Nat.min (2 ^ 32 - 1) (u.deficit + add) }
        let r := visitQueue f admitMax q ((que s q).waiting.length + 1) a s
        visitClass f admitMax cls n r.2 { r.1 with lastServed := r.1.lastServed.set (Fin.ofNat 4 cls) q.val }

/-- Whether admission runs: firmware serves, the first tick has passed, and neither a stop, a halt nor a FATAL finding holds
(R195, R388, R420, R464). -/
def admits (s : State) : Bool :=
  s.fw.running && s.tick.started && regField s (pwrReg 0x010) 7 7 == 0 && regField s (fltReg 0x008) 0 0 == 0
  && regField s (bistReg 0) 2 2 == 0

/-- ADMISSION_PASS (R242): the classes in order, each by deficit round robin; a queue without an eligible head loses its
deficit. A queue whose weight times QUANTUM stays below its head's cost is visited again until the deficit suffices; no pass needs more
visits of a class than the fuel, since a visit adds at least 1 to a deficit and a cost is below 2^25. -/
def execAdmissionPass (s : State) : Host.Outcome State Fault Refusal :=
  if !admits s then .next s
  else
    let f := curFurrow s
    let amax := Nat.max 1 (regField s (rqtReg 0x100000) 47 40)
    let fuel := 2 ^ 41
    let r := [0, 1, 2, 3].foldl (fun (x : State × Nat) cls => visitClass f amax cls fuel x.2 x.1) (s, 0)
    .next ((List.finRange 128).foldl (fun s q =>
      if (queueHead s q).isNone ∧ (que s q).deficit ≠ 0 then setQue s q { que s q with deficit := 0 } else s) r.1)

end Sys2Proof.Machine
end

