-- ==== Sys2Proof/Machine/Gen.lean ====
section
/-! DEFINITION. Samplers (R267 to R269), stops (R270), commits of chunks and rounds (R253, R259, R261, R265, R266, R271,
R374): CHUNK_COMMIT, ROUND_SAMPLE and ROUND_COMMIT. -/

namespace Sys2Proof.Machine

/-! ### Sampling -/

/-- An exact quotient by a positive number, rounded once (R268). -/
def fdiv (x y : Lane32) : Lane32 :=
  match fp32Val x, fp32Val y with
  | .fin s m e, .fin _ n f =>
    if n = 0 then nan32
    else
      let k := m * 2 ^ 64
      fp32Enc (.fin s (2 * (k / n) + (if k % n = 0 then 0 else 1)) (e - f - 65))
  | .inf s, _ => fp32Enc (.inf s)
  | _, _ => nan32

/-- An id's count (R269). -/
def countOf (cs : List (Nat × Nat)) (id : Nat) : Nat := (lookupN id cs).getD 0

/-- One more of an id, saturating (R269). -/
def countAdd (cs : List (Nat × Nat)) (id : Nat) : List (Nat × Nat) := insertN id (Nat.min 65535 (countOf cs id + 1)) cs

/-- The draw for position `j` (R267). -/
def drawAt (p : Params) (j : Nat) : Lane32 :=
  let blk := toLE 8 ((p.rngBase.toNat + j) % 2 ^ 64) ++ List.replicate 8 0
  fp32Enc (.fin false (fld (aes128 (slice p.seed 0 16) blk) 0 4 / 256) (-24))

/-- FP32 minus infinity. -/
def negInf : Lane32 := 0xFF800000

/-- A logit after penalties and temperature (R268). -/
def adjusted (p : Params) (cs : List (Nat × Nat)) (id : Nat) (z : Lane32) : Lane32 :=
  let x := if isNan (fp32Val z) then negInf else z
  let c := countOf cs id
  let x := if 0 < c then
      let d := if numCmp (fp32Val x) (.fin false 0 0) == .lt then fmul x p.repPen else fdiv x p.repPen
      fsub d (fadd p.presPen (fmul p.freqPen (fp32Enc (numOfInt c))))
    else x
  if p.greedy then x else fmul x p.invTemp

/-- Rank order of candidates: larger value first, equal values by lower id; a NaN ranks as minus infinity. -/
def ranksAbove (a b : Nat × Lane32) : Bool :=
  match numCmp (fp32Val a.2) (fp32Val b.2) with
  | .gt => true
  | .lt => false
  | .eq => decide (a.1 < b.1)

/-- A candidate kept among the `k` highest of a descending list. -/
def keepTop (k : Nat) (top : List (Nat × Lane32)) (x : Nat × Lane32) : List (Nat × Lane32) :=
  (insBy ranksAbove x top).take k

/-- Running sums of the exponents, each rounded (R268). -/
def runSums : (acc : Lane32) → List Lane32 → List Lane32
  | _, [] => []
  | acc, e :: es => let c := fadd acc e; c :: runSums c es

/-- First index of a list that meets a test, or a default. -/
def firstIdx (d : Nat) (p : Lane32 → Bool) (xs : List Lane32) : Nat := ((findIdxFrom p xs 0).map (·.1)).getD d

/-- FP32 less than. -/
def flt (a b : Lane32) : Bool := numCmp (fp32Val a) (fp32Val b) == .lt

/-- sample of R268: the token, or none without a candidate. -/
def sampleTok (p : Params) (cs : List (Nat × Nat)) (zs : List Lane32) (u : Lane32) : Option Nat :=
  let ys := (List.range zs.length).map (fun id => (id, adjusted p cs id (nthD negInf zs id)))
  let top := (ys.foldl (keepTop p.topK) []).filter (fun c => c.2 != negInf && !isNan (fp32Val c.2))
  match top with
  | [] => none
  | (best, m) :: _ =>
    if p.greedy || m == 0x7F800000 then some best
    else
      let es := top.map (fun c => sfExp2 (fp32Val (fmul (fsub c.2 m) 0x3FB8AA3B)))
      let cum := runSums 0 es
      let lim := fmul p.topP (cum.getLastD 0)
      let r := firstIdx (cum.length - 1) (fun c => !flt c lim) cum
      let t := fmul u (nthD 0 cum r)
      let i := firstIdx r (fun c => flt t c) (cum.take (r + 1))
      some (nthD (0, 0) top i).1

/-- Tokens counted in an entry's counts table, in RESERVE (R23, R269). -/
def countTokens (s : State) (i : Nat) (toks : List Nat) : State :=
  let w := workOf s i
  setWork (piecesWrote s (toks.map (fun x => (countsAddr s i + 2 * x, 2)))) i { w with counts := toks.foldl countAdd w.counts }

/-- Logits of fed position `n` of an entry (R260). -/
def logitsOf (s : State) (i n : Nat) : List Lane32 :=
  let e := entryOf s i
  let m := modelOf s e
  (List.range m.vocab).map (fun id =>
    BitVec.ofNat 32 (ofLE (tvaReads s (ldId e.ld) (workArea i + m.logitsOfs + (n * m.vocab + id) * 4) 4)))

/-- Drafts that the seed heads wrote for fed position `n` of an entry (R260, R265). -/
def draftsOf (s : State) (i n : Nat) : List Nat :=
  let e := entryOf s i
  let m := modelOf s e
  (List.range (seatHeads m e)).map (fun h =>
    ofLE (tvaReads s (ldId e.ld) (workArea i + m.draftsOfs + (n * m.seedHeads + h) * 4) 4))

/-- What a sampler reads of the work area for the first `n` fed positions of an entry (R260). -/
def logitReads (s : State) (i n : Nat) : List (Nat × Nat) :=
  let e := entryOf s i
  let m := modelOf s e
  (workArea i + m.logitsOfs, n * m.vocab * 4)
    :: (if seatHeads m e = 0 then [] else [(workArea i + m.draftsOfs, n * m.seedHeads * 4)])

/-- The lines that a sampler reads for the first `n` fed positions of an entry, and those of its counts table (R23, R269). -/
def touchLogits (s : State) (i n : Nat) : State :=
  let e := entryOf s i
  touchAll (memTouch s (countsAddr s i) (2 * (modelOf s e).vocab)) (ldId e.ld) (logitReads s i n)

/-- What is poisoned of that (R380): 1 the counts table alone, which fails the request, 2 the work area, which fails the chunk or
round. -/
def logitPoison (s : State) (i n : Nat) : Nat :=
  let e := entryOf s i
  if anyPoisoned s (ldId e.ld) (logitReads s i n) then 2
  else if poisoned s (countsAddr s i) (2 * (modelOf s e).vocab) then 1 else 0

/-- NaN logits of one position (SMP_NAN). -/
def nanLogits (zs : List Lane32) : Nat := (zs.filter (fun z => isNan (fp32Val z))).length

/-- Verification of R265 from fed position `n`: tokens streamed, drafts accepted, NaN logits met, no candidate. -/
def verify (s : State) (i : Nat) (p : Params) (pos : Nat) : (fuel n : Nat) → (drafts : List Nat) → (cs : List (Nat × Nat)) →
    List Nat → Nat → Nat → List Nat × Nat × Nat × Bool
  | 0, _, _, _, toks, acc, nans => (toks, acc, nans, false)
  | f + 1, n, ds, cs, toks, acc, nans =>
    let zs := logitsOf s i n
    let nans := nans + nanLogits zs
    match sampleTok p cs zs (drawAt p (pos + n + 1)) with
    | none => (toks, acc, nans, true)
    | some t =>
      match ds with
      | d :: r =>
        if d = t then verify s i p pos f (n + 1) r (countAdd cs t) (toks ++ [t]) (acc + 1) nans
        else (toks ++ [t], acc, nans, false)
      | [] => (toks ++ [t], acc, nans, false)

/-! ### Streams -/

/-- Whether the tail ends with stop sequence `k` (R270). -/
def endsWith (tail q : List Nat) : Bool := decide (q.length ≤ tail.length) && tail.drop (tail.length - q.length) == q

/-- The stop byte of a token that has just been streamed at a position (R270), 0 when none holds. -/
def stopOf (m : ModelInfo) (p : Params) (tail : List Nat) (tok pos : Nat) : Nat :=
  if (m.eos.filter (· != 0xFFFFFFFF)).contains tok ∨ p.eos.contains tok then 0x10
  else match findIdxFrom (fun q => !q.isEmpty && endsWith tail q) p.stops 0 with
    | some (k, _) => 0x20 + k
    | none =>
      if p.maxNew ≤ tail.length then 0x30
      else if m.ctxLimit - 1 ≤ pos then 0x40
      else 0

/-- The tokens of one commit that are streamed, up to the first stop (R270). -/
def untilStop (m : ModelInfo) (p : Params) : (tail : List Nat) → (pos : Nat) → List Nat → List Nat → List Nat × Nat
  | _, _, [], acc => (acc, 0)
  | tail, pos, t :: ts, acc =>
    let tail := tail ++ [t]
    let st := stopOf m p tail t pos
    if st ≠ 0 then (acc ++ [t], st) else untilStop m p tail (pos + 1) ts (acc ++ [t])

/-- Times of a commit that streams tokens (R271). -/
def stampCommit (s : State) (i : Nat) (first : Bool) : State :=
  let e := entryOf s i
  let now := rqtNow s
  let dt := (now - e.tLast) / 100
  let e := if first then { e with tFirst := now, tLast := now }
    else { e with tLast := now, tbtMax := Nat.max e.tbtMax (Nat.min dt (2 ^ 32 - 1))
                  tbtMiss := if e.tbt ≠ 0 ∧ e.tbt * 100 < now - e.tLast then Nat.min 65535 (e.tbtMiss + 1) else e.tbtMiss }
  let s := setEntry s i e
  if first then setWork s i { workOf s i with tFirstSet := true } else s

/-- Hashes of the blocks that a longer committed length has filled, written (R249). -/
def hashBlocks (s : State) (i : Nat) : State :=
  let e := entryOf s i
  let lpBlocks := match e.lpSlot with
    | some l => (s.lps[Fin.ofNat 64 l]).len / 64
    | none => 0
  (List.range (e.committed / 64)).foldl (fun s b =>
    let w := workOf s i
    let k := nthD noBlock w.blocks b
    if b < lpBlocks ∨ !k.hash.isEmpty then s
    else
      let h := if b = lpBlocks then List.replicate 16 0 else (nthD noBlock w.blocks (b - 1)).hash
      putBlock s i b { k with hash := blockHash h ((w.history.drop (64 * (b - lpBlocks))).take 64) }) s

/-- The blocks that have become full since `old` positions were committed, inserted in the tree (R253); `skip` leaves out the FORKED ones (R294). -/
def insertBlocks (s : State) (i old : Nat) (skip : Bool) : State :=
  let e := entryOf s i
  let lpBlocks := match e.lpSlot with
    | some l => (s.lps[Fin.ofNat 64 l]).len / 64
    | none => 0
  (List.range (e.committed / 64)).foldl (fun s b =>
    let w := workOf s i
    let k := nthD noBlock w.blocks b
    let parent := if b = lpBlocks then none else (nthD noBlock w.blocks (b - 1)).node
    if b < lpBlocks ∨ b < old / 64 ∨ (skip && k.forked) ∨ k.node.isSome ∨ (b ≠ lpBlocks ∧ parent.isNone) then s
    else insertNode s i b parent ((w.history.drop (64 * (b - lpBlocks))).take 64)) s

/-- Tokens streamed at positions from `pos` up (R261, R265, R266, R272, R273): the token record, the counts, the pending
token and the committed length; a stop ends the request. `fedTok` is the pending token that the commit has fed. -/
def streamTokens (s : State) (i pos : Nat) (fedTok : Option Nat) (toks : List Nat) (noCand : Bool) : State :=
  let e := entryOf s i
  let w := workOf s i
  let m := modelOf s e
  let r := untilStop m e.seedRng w.tail pos toks []
  let out := r.1
  let stop := if r.2 ≠ 0 then r.2 else if noCand then 0x50 else 0
  if out.isEmpty then
    let s := if fedTok.isNone then stampCommit s i true else s
    (if stop = 0 then s else endRequest (setEntry s i { entryOf s i with stop := stop }) i .complete 0)
  else
    let s := postRecord s (ldId e.ld) (queId e.queue) (tokenRec i e.tag pos out w.seq) false false
    let s := bumpSeq s i
    let w := workOf s i
    let hist := match fedTok with
      | some x => w.history ++ [x] ++ out.dropLast
      | none => w.history
    let s := countTokens (setWork s i { w with history := hist, tail := w.tail ++ out, generated := w.generated + out.length
                                               streamed := w.streamed ++ out, changed := true }) i out
    let s := setEntry s i { entryOf s i with
      committed := pos + out.length - 1, pendingTok := out.getLast?, genLeft := e.genLeft - out.length }
    let s := stampCommit s i fedTok.isNone
    let s := hashBlocks (setValid s i (pos + out.length - 1)) i
    if stop = 0 then s else endRequest (setEntry s i { entryOf s i with stop := stop }) i .complete 0

/-! ### Work items of a chunk or round -/

/-- Gang places of the current step whose work items have completed, with those of earlier furrows. -/
def gangsDone (s : State) (i : Nat) (round : Option Nat) (before : List Nat) : List Nat :=
  before ++ (s.items.filter (fun w => w.done && w.round == round && (round.isSome || w.rqt == i))).map (·.gang)

/-- Whether the current step has run on all its gangs without poison or failure. -/
def stepDoneAll (s : State) (i : Nat) (round : Option Nat) (rd : Rd) (p : Plan) (k : Nat) (before : List Nat) : Bool :=
  (stepGangs rd p k).all (fun g => (gangsDone s i round before).contains g)
  && s.items.all (fun w => !(w.round == round && (round.isSome || w.rqt == i)) || w.failStatus == 0)

/-- Whether a chunk may commit (R374): every work item of every step has completed, the split step of a forest included. -/
def chunkReady (s : State) (i : Nat) : Bool :=
  let e := entryOf s i
  let w := workOf s i
  let rd := imgRd s e.image
  let p := planRec rd e.plan
  e.state == .running && !w.chunkLens.isEmpty && !w.copying
  && (if w.splitting then w.special == 2
      else decide (w.stepNo + 1 = p.steps) && w.replays.isEmpty && stepDoneAll s i none rd p w.stepNo w.stepDone)

/-! ### Forests -/

/-- Status 0x0203 for a request whose committed cache holds a poisoned page (R380): COMMITTED falls to the first position of the lowest
such block, not below the learned prefix, and the nodes that hold the page leave the tree with their descendants. -/
def poisonFall (s : State) (i : Nat) : State :=
  let e := entryOf s i
  let w := workOf s i
  let m := modelOf s e
  let t := ldId e.ld
  let bad := (List.range (cdiv e.committed 64)).filter (fun b =>
    (nthD noBlock w.blocks b).pages.any (fun a => a != 0 && tvaPoisoned s t a (2 ^ m.pageLog2)))
  let lpLen := match e.lpSlot with
    | some l => (s.lps[Fin.ofNat 64 l]).len
    | none => 0
  match bad.head? with
  | none => s
  | some b =>
    let len := Nat.max lpLen (64 * b)
    let pages := (nthD noBlock w.blocks b).pages
    let s := (s.nodes.filter (fun n => n.ld == e.ld && n.pages.any (fun a => pages.contains a))).foldl (fun s n =>
      removeSubtree (s.nodes.length + 1) s n.idx) s
    let s := setWork s i { workOf s i with history := w.history.take (len - lpLen), changed := true }
    setEntry s i { e with committed := Nat.min e.committed len, pendingTok := none }

/-- Tokens of the path to a chunk token, root first. -/
def pathTo (parents : List Nat) : (fuel : Nat) → (u : Nat) → List Nat → List Nat
  | 0, u, acc => u :: acc
  | f + 1, u, acc =>
    let p := nthD 0xFFFFFFFF parents u
    if p = 0xFFFFFFFF then u :: acc else pathTo parents f p (u :: acc)

/-- Ranges of one position's cache entry in some pages (notes/assumptions/20.md). -/
def posRanges (log2 : Nat) (pages : List Nat) (p : Nat) : List (Nat × Nat) := pages.map (fun a => (a + p * (2 ^ log2 / 64), 2 ^ log2 / 64))

/-- One position's cache entry of every layer copied between two lists of pages (R259): position p of a block lies at p
sixty-fourths of the page (notes/assumptions/20.md). -/
def copyPos (s : State) (t : LdId) (i log2 : Nat) (src : List Nat) (sp : Nat) (dst : List Nat) (dp : Nat) : State :=
  let n := 2 ^ log2 / 64
  (List.range dst.length).foldl (fun s l =>
    devWrite s t (some i) (nthD 0 dst l + dp * n) (tvaReads s t (nthD 0 src l + sp * n) n)) s

/-- The block of an entry that holds a position. -/
def blockAt (s : State) (i pos : Nat) : Block := nthD noBlock (workOf s i).blocks (pos / 64)

/-- Positions of the parent that one branch of a forest gathers (R259): the partial block's, then the path's. -/
def branchFrom (s : State) (i k : Nat) : List Nat :=
  let e := entryOf s i
  let u := nthD 0 e.seedRng.branches k
  let path := pathTo e.seedRng.parents u u []
  let full := e.committed / 64
  (List.range (e.committed + path.length - 64 * full)).map (fun j =>
    let pos := 64 * full + j
    if pos < e.committed then pos else e.committed + nthD 0 path (pos - e.committed))

/-- What the split step of a forest reads (R259). -/
def splitReads (s : State) (i : Nat) : List (Nat × Nat) :=
  let e := entryOf s i
  (List.range e.seedRng.branches.length).flatMap (fun k => (branchFrom s i k).flatMap (fun p =>
    posRanges (modelOf s e).pageLog2 (blockAt s i p).pages (p % 64)))

/-- One branch of a forest (R259): a retained child entry with the parent's full blocks shared and the rest gathered. The fields that
R259 does not name are the parent's (DESIGN CHOICE, notes/assumptions/95.md). -/
def makeBranch (s : State) (i : Nat) (toks : List Nat) (k : Nat) : State :=
  let e := entryOf s i
  let w := workOf s i
  let m := modelOf s e
  let u := nthD 0 e.seedRng.branches k
  let path := pathTo e.seedRng.parents u u []
  let len := e.committed + path.length
  let c := freeIndex s
  let t := ldId e.ld
  let full := e.committed / 64
  let pathToks := path.map (fun x => nthD 0 toks x)
  let child : Entry :=
    { e with state := .complete, retain := true, forest := false, status := 0x000A, parent := some i, committed := len
             targetLen := len, booked := 0, tag := (e.tag + k + 1) % 2 ^ 31, prefixHit := 0, cancelPending := false }
  let cw : Work := { history := w.history ++ pathToks, counts := w.counts, changed := true }
  let s := setWork (setEntry s c child) c cw
  let s := piecesWrote s (memPieces (countsAddr s c) (2 * m.vocab))
  let s := if e.seedRng.countPrompt then countTokens s c pathToks else s
  let s := (List.range full).foldl (fun s b =>
    let blk := nthD noBlock w.blocks b
    let s := if blk.lp then s else blk.pages.foldl (fun s a => pageRef s e.ld a) s
    let s := match blk.node with
      | some n => { s with nodes := s.nodes.map (fun x => if x.idx = n then { x with refs := x.refs + 1 } else x) }
      | none => s
    putBlock s c b { blk with shared := true }) s
  let s := ensureBlocks s c len
  let s := (branchFrom s i k).zipIdx.foldl (fun s x =>
    let pos := 64 * full + x.2
    copyPos s t c m.pageLog2 (blockAt s i x.1).pages (x.1 % 64) (blockAt s c pos).pages (pos % 64)) s
  let s := (List.range (cdiv len 64 - full)).foldl (fun s j =>
    putBlock s c (full + j) { nthD noBlock (workOf s c).blocks (full + j) with forked := true }) s
  let s := hashBlocks (setValid s c len) c
  let s := if e.seedRng.pxtInsert then insertBlocks s c 0 false else s
  postCompl s c

/-! ### The commits -/

/-- The late mark of a commit after its quote (R227). -/
def lateCheck (s : State) (i : Nat) : State :=
  let e := entryOf s i
  if e.quoteOrig ≠ 0 ∧ e.quoteOrig < curFurrow s + 1 then makeLate s i (if e.lateCause = 0 then 8 else e.lateCause) else s

/-- The first token of a request with a tail (R261). -/
def firstToken (s : State) (i : Nat) : State :=
  let e := entryOf s i
  let w := workOf s i
  let zs := logitsOf s i 0
  let s := regBump s (rqtReg 0x100080) (nanLogits zs)
  let tok := sampleTok e.seedRng w.counts zs (drawAt e.seedRng e.committed)
  let s := setEntry s i { e with state := .generating }
  let s := setWork s i { w with drafts := draftsOf s i 0 }
  match tok with
  | some x => streamTokens s i e.committed none [x] false
  | none => streamTokens s i e.committed none [] true

/-- The finished work items of an entry's chunk let go. -/
def dropDone (s : State) (i : Nat) : State :=
  { s with items := s.items.filter (fun x => !(x.done && x.round.isNone && x.rqt == i)) }

/-- A chunk commits (R374, R235, R253, R261, R269), unless its split step or its first token would consume poisoned data (R374, R380). -/
def commitChunk (s : State) (i : Nat) : State :=
  let e := entryOf s i
  let w := workOf s i
  let last := decide (w.chunkLens.length ≤ 1)
  if e.cancelPending then
    setWork (dropDone s i) i { w with chunkLens := w.chunkLens.drop 1, stepNo := 0, stepDone := [], splitting := false, special := 0 }
  else if last ∧ 0 < e.seedRng.maxNew ∧ !tokenRoom s (ldId e.ld) (queId e.queue) then makeLate s i 8
  else
  let s := if e.forest then touchAll s (ldId e.ld) (splitReads s i)
    else if last ∧ 0 < e.seedRng.maxNew then touchLogits s i 1 else s
  if e.forest && anyPoisoned s (ldId e.ld) (splitReads s i) || (!e.forest && last && e.seedRng.maxNew != 0 && logitPoison s i 1 != 0) then
    failRequest (poisonFall (dropDone s i) i) i 0x0203 0x0004
  else if e.forest then
    let s := setWork s i { w with chunkLens := [], splitting := false, special := 0 }
    let s := (List.range e.seedRng.branches.length).foldl (fun s k => makeBranch s i w.tokens k) s
    let s := if e.seedRng.countPrompt then countTokens s i w.tokens else s
    let s := stampCommit (dropBlocks s i (cdiv e.committed 64)) i true
    endRequest (lateCheck s i) i .complete 0
  else
    let len := nthD 0 w.chunkLens 0
    let first := e.targetLen - w.tokens.length
    let new := e.committed + len
    let s := setWork (dropDone s i) i { w with
      chunkLens := w.chunkLens.drop 1, stepNo := 0, stepDone := [], changed := true
      history := w.history ++ (w.tokens.drop (e.committed - first)).take len
      counted := new - first }
    let s := if e.seedRng.countPrompt then countTokens s i ((w.tokens.take (new - first)).drop w.counted) else s
    let s := freeMgen s i
    let s := setEntry s i { e with committed := new, booked := e.targetLen - new }
    let s := hashBlocks (setValid (ensureBlocks s i new) i new) i
    let s := if e.seedRng.pxtInsert then insertBlocks s i e.committed false else s
    if !last then s
    else
      let s := setWork s i { workOf s i with chain := [] }
      let s := lateCheck s i
      if e.seedRng.maxNew = 0 then endRequest (stampCommit s i true) i .complete 0
      else firstToken s i

/-- The round with an id. -/
def roundOf (s : State) (n : Nat) : Option Round := s.rounds.find? (fun r => r.id == n)
/-- A round replaced. -/
def setRound (s : State) (r : Round) : State := { s with rounds := s.rounds.map (fun x => if x.id = r.id then r else x) }

/-- The generation plan of a round. -/
def roundPlan (s : State) (r : Round) : Plan :=
  let rd := imgRd s r.image
  planRec rd (modelInfo rd).genPlan

/-- Whether the last step of a round has run (R262). -/
def roundReady (s : State) (r : Round) : Bool :=
  let p := roundPlan s r
  !r.sampled && decide (r.stepNo + 1 = p.steps) && r.replays.isEmpty
  && stepDoneAll s 0 (some r.id) (imgRd s r.image) p r.stepNo r.stepDone

/-- What the samplers choose for one seat (R265). -/
def sampleSeat (s : State) (i : Nat) : SeatOut × Nat :=
  let e := entryOf s i
  let w := workOf s i
  let ds := w.drafts.take (seatHeads (modelOf s e) e)
  let r := verify s i e.seedRng e.committed (ds.length + 1) 0 ds w.counts [] 0 0
  ({ entry := i, toks := r.1, accepted := r.2.1, fed := ds.length, noCand := r.2.2.2 }, r.2.2.1)

/-- The samplers' work for a round (R262, R265): every seat's outcome, and NaN logits counted. -/
def sampleRound (s : State) (r : Round) : State :=
  let mine := r.seats.filter (fun i => (entryOf s i).state == .generating)
  let fed (i : Nat) : Nat := 1 + seatHeads (modelOf s (entryOf s i)) (entryOf s i)
  let s := mine.foldl (fun s i => touchLogits s i (fed i)) s
  let outs := mine.map (fun i => let x := sampleSeat s i; ({ x.1 with bad := logitPoison s i (fed i) }, x.2))
  setRound (regBump s (rqtReg 0x100080) (sumN (outs.map (·.2)))) { r with sampled := true, outcome := outs.map (·.1) }

/-- ROUND_SAMPLE (R262, R265): after the last step's work items complete, the samplers verify the drafts and choose the
tokens of every seat. -/
def execRoundSample (n : Nat) (s : State) : Host.Outcome State Fault Refusal :=
  match roundOf s n with
  | none => .next s
  | some r =>
    if !roundReady s r then .next s
    else
      .next (sampleRound s r)

/-- One seat of a committed round (R237, R262, R265, R361). Every draft that verification accepted counts, also beyond a token that
stops the generation (DESIGN CHOICE, notes/assumptions/97.md). -/
def commitSeat (s : State) (o : SeatOut) : State :=
  let e := entryOf s o.entry
  if e.state ≠ .generating then s
  else
    let s := regBump s (rqtReg 0x100070) o.fed
    if e.cancelPending then s
    else if o.bad = 1 then failRequest s o.entry 0x0203 0x0004
    else if !o.toks.isEmpty ∧ !tokenRoom s (ldId e.ld) (queId e.queue) then makeLate s o.entry 8
    else
    let s := regBump s (rqtReg 0x100078) o.accepted
    let s := setEntry s o.entry { e with draftsAccepted := e.draftsAccepted + o.accepted }
    let s := setWork s o.entry { workOf s o.entry with drafts := draftsOf s o.entry (o.toks.length - 1) }
    let s := ensureBlocks s o.entry (e.committed + o.toks.length)
    streamTokens s o.entry (e.committed + 1) e.pendingTok o.toks o.noCand

/-- A sampled round commits for all its seats (R262, R374), unless one of them consumed poison of its work area: then every seated request
fails (R377, R380). -/
def commitRound (s : State) (r : Round) : State :=
  let s := { s with rounds := s.rounds.filter (fun x => x.id != r.id)
                    items := s.items.filter (fun x => x.round != some r.id) }
  let s := r.seats.foldl freeMgen s
  if r.outcome.any (fun o => o.bad == 2) then
    let mine := r.outcome.filter (fun o => (entryOf s o.entry).state == .generating)
    let s := regBump s (rqtReg 0x100070) (sumN (mine.map (·.fed)))
    mine.zipIdx.foldl (fun s x => if x.2 = 0 then failRequest s x.1.entry 0x0203 0x0004 else failQuiet s x.1.entry 0x0203) s
  else r.outcome.foldl commitSeat (regBump s (rqtReg 0x100068) 1)

/-- ROUND_COMMIT (R262): a sampled round commits at its furrow's tick. -/
def execRoundCommit (n : Nat) (s : State) : Host.Outcome State Fault Refusal :=
  match roundOf s n with
  | some r => if r.sampled then .next (commitRound s r) else .next s
  | none => .next s

/-- STALL_LIMIT (R376): a fetch fault or peer wait that has lasted FLT_CFG.STALL_LIMIT furrows fails the request, and with a seat every
seat of its round (R377). -/
def execStallLimit (i : Fin 4096) (s : State) : Host.Outcome State Fault Refusal :=
  let e := entryOf s i.val
  let w := workOf s i.val
  if (e.state == .running || e.state == .generating) && decide (0 < w.stallFurrows)
      && decide (Nat.max 1 (regField s (fltReg 0) 47 32) ≤ w.stallFurrows) then
    match s.rounds.find? (fun r => e.state == .generating && r.seats.contains i.val && s.items.any (fun x => x.round == some r.id)) with
    | none => .next (failRequest s i.val 0x0202 0x000F)
    | some r =>
      let s := { s with rounds := s.rounds.filter (fun x => x.id != r.id), items := s.items.filter (fun x => x.round != some r.id) }
      let s := failRequest s i.val 0x0202 0x000F
      .next (r.seats.foldl (fun s k => if (entryOf s k).state = .generating then failQuiet s k 0x0202 else s) s)
  else .next s

end Sys2Proof.Machine
end

