-- ==== Sys2Proof/Machine/Mailbox.lean ====
section
/-! DEFINITION. Mailboxes (11_host_cxl.md, R348 to R352): what every Bruah command has in common, its return code and its
RESULT. -/

namespace Sys2Proof.Machine

/-- JRNL_STATUS.RECOVERING (R303). -/
def recovering (s : State) : Bool := regField s (bndReg 0x030) 2 2 == 1

/-- A mailbox's state. -/
def mboxOf (s : State) (m : Mbox) : MboxState := ((s.mboxes.find? (fun p => p.1 == m)).map (·.2)).getD {}

/-- A mailbox's state replaced. -/
def setMbox (s : State) (m : Mbox) (x : MboxState) : State :=
  { s with mboxes :=
      if s.mboxes.any (fun p => p.1 == m) then s.mboxes.map (fun p => if p.1 = m then (m, x) else p)
      else s.mboxes ++ [(m, x)] }

/-- The answer to a command: return code and output payload. -/
def reply (s : State) (m : Mbox) (ret : Nat) (out : List Byte) : State := setMbox s m { mboxOf s m with ret := ret, outp := out }

/-- A mailbox runs one command at a time (R348): a RESET_SELF or RESET_TENANT that is not yet answered holds it (R384). -/
def boxBusy (s : State) (m : Mbox) : Bool := s.lds.toList.any (fun u => u.resetAck.contains m)

/-- Whether a mailbox exists and takes a command: tenant functions in MLD mode, the I3C interface once it has an address (R342, R343,
R369), while an IDE failure does not stop the link (R393). -/
def mboxLive (s : State) (m : Mbox) : Bool := !boxBusy s m && match m with
  | .owner => hostUp s
  | .tenant _ => hostUp s && s.pins.mld
  | .i3c => alive s && s.pins.i3cAddr.isSome

/-- What sets one Bruah command apart from another: whether the owner's, whether it names a tenant in the header's LD byte,
its payload length, and where it is served (R350, R352, R353, R369, R388, R420). -/
structure Cmd where
  owner  : Bool := false
  named  : Bool := false
  len    : Nat := 8
  i3c    : Bool := false
  onStop : Bool := false
  onHalt : Bool := false
  onRec  : Bool := false
  bg     : Bool := false
  deriving DecidableEq, Repr

/-- The gate of R350, R352, R388 and R420: the LD on which the command acts, or its return code and RESULT. `bad` is whether
a reserved field beyond the header is not 0; notes/assumptions/21.md gives the order of the checks. -/
def gate (s : State) (c : Cmd) (m : Mbox) (p : List Byte) (bad : Bool) : Except (Nat × Nat) LdId :=
  let ld := fld p 0 1
  let tenantBox := match m with
    | .tenant _ => true
    | _ => false
  if !s.fw.running then .error (5, 0)
  else if (tenantBox && c.owner) || (m == .i3c && !c.i3c) then .error (3, 0)
  else if p.length ≠ c.len then .error (0x16, 0)
  else if !zeroAt p 1 7 || bad then .error (2, 0)
  else if !tenantBox && (if c.owner && !c.named then ld != 0xFF else decide (16 ≤ ld)) then .error (2, 0)
  else if halted s && !c.onHalt then .error (0, 9)
  else if stopped s && !c.onStop then .error (0, 0x0A)
  else if recovering s && !c.owner && !c.onRec then .error (0, 0x0C)
  else if c.bg && (mboxOf s m).bg.isSome then .error (6, 0)
  else match m with
    | .tenant t => .ok t
    | _ => .ok (ldId ld)

/-- A RESULT with its reserved bytes and the command's data (R350). -/
def bruahOut (result : Nat) (data : List Byte) : List Byte := toLE 2 result ++ toLE 6 0 ++ data

/-- A Bruah command that has arrived: the gate, then its effect with its RESULT and data. -/
def bruahRun (c : Cmd) (m : Mbox) (p : List Byte) (bad : Bool) (s : State)
    (f : LdId → State → State × Nat × List Byte) : Host.Outcome State Fault Refusal :=
  match gate s c m p bad with
  | .error (ret, r) => .next (reply s m ret (if ret = 0 then bruahOut r [] else []))
  | .ok ld =>
    let x := f ld s
    .next (reply x.1 m 0 (bruahOut x.2.1 x.2.2))

/-- A Bruah command of a mailbox, where that takes one. -/
def bruah (c : Cmd) (m : Mbox) (p : List Byte) (bad : Bool) (s : State)
    (f : LdId → State → State × Nat × List Byte) : Host.Outcome State Fault Refusal :=
  if !mboxLive s m then .next s else bruahRun c m p bad s f

/-- A command whose work goes on in the background (R348): what it will answer is kept until it completes,
with where its source lies. -/
def bruahBg (c : Cmd) (m : Mbox) (p : List Byte) (bad : Bool) (from_ : Nat × Nat) (s : State)
    (f : LdId → State → State × Nat × List Byte × (Nat × Nat × Nat)) : Host.Outcome State Fault Refusal :=
  if !mboxLive s m then .next s
  else match gate s { c with bg := true } m p bad with
    | .error (ret, r) => .next (reply s m ret (if ret = 0 then bruahOut r [] else []))
    | .ok ld =>
      let x := f ld s
      let b := mboxOf x.1 m
      .next (setMbox x.1 m { b with ret := 1, outp := [], bg := some x.2.2.2, bgOp := x.2.2.2.1, bgPct := 0, bgRet := 0
                                    bgOut := bruahOut x.2.1 x.2.2.1, bgSrc := from_ })

end Sys2Proof.Machine
end

