-- ==== Sys2Proof/Machine/Bundles.lean ====
section
/-! DEFINITION. Context bundles (09_peat_bundles.md, R279 to R295): EXPORT, PARK, LIFT and the events that end them, and the
commit of re-sown runs beside CHUNK_COMMIT. -/

namespace Sys2Proof.Machine

/-- A length padded to 4 KiB (R280). -/
def up4k (n : Nat) : Nat := cdiv n 4096 * 4096

/-- Bytes padded with zeros to 4 KiB. -/
def pad4k (bs : List Byte) : List Byte := bs ++ List.replicate (up4k bs.length - bs.length) 0

/-- Learned-prefix length of an entry. -/
def lpLenOf (s : State) (e : Entry) : Nat := match e.lpSlot with
  | some l => (s.lps[Fin.ofNat 64 l]).len
  | none => 0

/-- The bundle operation in flight on an entry. -/
def opOf (s : State) (i : Nat) : Option BundleOp := s.ops.find? (fun o => o.entry == i)
/-- The same, replaced. -/
def setOp (s : State) (o : BundleOp) : State := { s with ops := s.ops.map (fun x => if x.entry = o.entry then o else x) }
/-- The same, ended. -/
def dropOp (s : State) (i : Nat) : State := { s with ops := s.ops.filter (fun o => o.entry != i) }

/-- Tenant key material, empty when none is held. -/
def materialOf (s : State) (t : Nat) : List Byte := ((ten s (ldId t)).material).getD []

/-! ### Writing to Raile addresses -/

/-- A write to a Raile global address on behalf of a context (R40, R41): inside the package under the region table when the
address names the device's own node, else WRITE packets of one operation. The answer tells whether the write was not denied. -/
def raileStore (s : State) (ctx addr : Nat) (bs : List Byte) : State × Bool :=
  if addr / 2 ^ 52 = ownNode s then
    match railAccess s .wr ctx (ownNode s) (addr % 2 ^ 52) bs.length with
    | .ok (s, t, v) => (tvaStore s t v bs, true)
    | .error c => (ownDenied s c, false)
  else (sendWrites ctx (nextOp s) (bs.length / 4096 + 1) addr bs (useOp s), true)

/-- Writes in order until one is denied, with the bytes that were written. -/
def raileStores (s : State) (ctx : Nat) : List (Nat × List Byte) → (n : Nat) → State × Bool × Nat
  | [], n => (s, true, n)
  | (a, bs) :: r, n => match raileStore s ctx a bs with
    | (s, true) => raileStores s ctx r (n + bs.length)
    | (s, false) => (s, false, n)

/-- Whether a write to a Raile address can move: to the own node, or to a peer that is UP with an ACTIVE route (R290, R318). -/
def raileOpen (s : State) (addr : Nat) : Bool := addr / 2 ^ 52 == ownNode s || raileReach s (addr / 2 ^ 52)

/-! ### Layout -/

/-- Places of a bundle's sections (R280). -/
structure BundleLay where
  n     : Nat
  tags  : Nat
  state : Nat
  data  : Nat
  deriving DecidableEq, Repr

/-- Places of the sections of a bundle of `n` blocks. -/
def bundleLay (n vocab : Nat) : BundleLay :=
  let tags := 0x1000 + up4k (32 * n)
  let state := tags + up4k (16 * (n + 1))
  { n := n, tags := tags, state := state, data := state + up4k (256 + 2 * vocab) }

/-- DATA_LEN of a block (R282). -/
def dataLen (m : ModelInfo) (pages : Bool) : Nat := 4096 + (if pages then m.layers * 2 ^ m.pageLog2 else 0)

/-- A block table entry (R282). -/
def tableEntry (m : ModelInfo) (x : Nat × Nat × Nat × Nat) : List Byte :=
  toLE 4 x.1 ++ toLE 1 x.2.1 ++ toLE 1 x.2.2.1 ++ toLE 2 0 ++ toLE 8 x.2.2.2 ++ toLE 8 (dataLen m (bitAt x.2.2.1 0)) ++ toLE 8 0

/-- Whether a partial block is dirty (R279). -/
def dirtyBlock (k : Block) (valid : Nat) : Bool := decide (valid < 64) && decide (valid < k.written)

/-- Whether some page of a block meets poison (R380). -/
def blockPoisoned (s : State) (t : LdId) (log2 : Nat) (k : Block) : Bool := k.pages.any (fun a => tvaPoisoned s t a (2 ^ log2))

/-- Carried blocks of an entry as table rows without places: index, VALID, BFLAGS. -/
def carried (s : State) (i : Nat) : List (Nat × Nat × Nat) :=
  let e := entryOf s i
  let m := modelOf s e
  let b0 := lpLenOf s e / 64
  (List.range (cdiv e.committed 64 - b0)).map (fun j =>
    let b := b0 + j
    let k := nthD noBlock (workOf s i).blocks b
    let v := Nat.min 64 (e.committed - 64 * b)
    let pages := !dirtyBlock k v && !blockPoisoned s (ldId e.ld) m.pageLog2 k
    (b, v, b2n pages + 2 * b2n k.forked))

/-- The same with DATA_OFS from a place on. -/
def placeBlocks (m : ModelInfo) : (ofs : Nat) → List (Nat × Nat × Nat) → List (Nat × Nat × Nat × Nat)
  | _, [] => []
  | ofs, x :: r => (x.1, x.2.1, x.2.2, ofs) :: placeBlocks m (ofs + dataLen m (bitAt x.2.2 0)) r

/-- TOTAL_LEN of a bundle with a block table. -/
def totalLen (m : ModelInfo) (data : Nat) (table : List (Nat × Nat × Nat × Nat)) : Nat :=
  match table.getLast? with
  | some x => x.2.2.2 + dataLen m (bitAt x.2.2.1 0)
  | none => data

/-- The state record in plaintext (R283). -/
def stateRecord (s : State) (i : Nat) : List Byte :=
  let e := entryOf s i
  let p := e.seedRng
  let cs := (workOf s i).counts
  toLE 4 (e.pendingTok.getD 0xFFFFFFFF) ++ toLE 4 0 ++ toLE 8 (p.rngBase.toNat + e.committed + 1) ++ slice p.seed 0 16
  ++ toLE 8 p.rngBase.toNat ++ toLE 4 p.invTemp.toNat ++ toLE 4 p.topP.toNat ++ toLE 4 p.repPen.toNat ++ toLE 4 p.presPen.toNat
  ++ toLE 4 p.freqPen.toNat ++ toLE 2 p.topK ++ toLE 1 (b2n p.greedy + 2 * b2n e.draft + 4 * b2n p.countPrompt)
  ++ List.replicate 193 0 ++ (List.range (modelOf s e).vocab).flatMap (fun id => toLE 2 (countOf cs id))

/-- A header (R281) with its digest field as given. -/
def bundleHeader (s : State) (e : Entry) (o : BundleOp) (magic : Bool) (digest : List Byte) : List Byte :=
  let m := modelOf s e
  let lay := bundleLay o.table.length m.vocab
  let lp := lpLenOf s e
  let lpDig := match e.lpSlot with
    | some l => (s.lps[Fin.ofNat 64 l]).digest
    | none => []
  let img := match imageOf s e.image with
    | some x => x.digest
    | none => []
  let fl := b2n (o.kind == 1) + 2 * b2n (fld o.stateRec 0 4 != 0xFFFFFFFF) + 4 * b2n (o.table.any (fun x => bitAt x.2.2.1 1))
  slice ((if magic then ascii [73, 75, 66, 66, 85, 78, 68, 76] else List.replicate 8 0) ++ toLE 4 0x00010000 ++ toLE 4 fl
    ++ toLE 8 o.bundleId.toNat ++ toLE 8 (totalLen m lay.data o.table) ++ slice img 0 48 ++ toLE 2 e.adapterId ++ toLE 2 0
    ++ toLE 4 (adapterVerOf s e) ++ toLE 4 lp ++ toLE 4 o.committed ++ slice lpDig 0 48 ++ toLE 4 (lp / 64)
    ++ toLE 4 o.table.length ++ toLE 2 m.layers ++ toLE 1 m.pageLog2 ++ toLE 1 0 ++ toLE 4 m.vocab ++ toLE 8 0x1000
    ++ toLE 8 lay.tags ++ toLE 8 lay.state ++ toLE 8 lay.data ++ toLE 8 o.startAt ++ toLE 4 e.tag ++ toLE 2 (ownNode s)
    ++ ascii [0x42, 0x31] ++ slice digest 0 48) 0 4096

/-- IV of one sealed part (R284). -/
def bundleIv (id : Nat) (index : Nat) : List Byte := toLE 8 id ++ toLE 4 index

/-- Plaintext of one block's data (R280). -/
def blockData (s : State) (i : Nat) (x : Nat × Nat × Nat × Nat) : List Byte :=
  let e := entryOf s i
  let m := modelOf s e
  let w := workOf s i
  let toks := (w.history.drop (64 * x.1 - lpLenOf s e)).take x.2.1
  let pages := if bitAt x.2.2.1 0 then
      (nthD noBlock w.blocks x.1).pages.flatMap (fun a => tvaReads s (ldId e.ld) a (2 ^ m.pageLog2))
    else []
  slice (toks.flatMap (toLE 4)) 0 4096 ++ pages

/-- The parts of a sealed bundle with their places, in the order in which R287 writes them behind the first 64 B: block data, state
record, block table, tag list and the whole header (R280, R284); and its BUNDLE_DIGEST. -/
def sealBundle (s : State) (i : Nat) (o : BundleOp) : List (Nat × List Byte) × List Byte :=
  let e := entryOf s i
  let m := modelOf s e
  let lay := bundleLay o.table.length m.vocab
  let key := bundleKey (materialOf s e.ld)
  let h := bundleHeader s e o true []
  let hd := sha384 h
  let st := gcmSeal key (bundleIv o.bundleId.toNat 0xFFFFFFFF) hd o.stateRec
  let blocks := o.table.map (fun x =>
    gcmSeal key (bundleIv o.bundleId.toNat x.1) (hd ++ tableEntry m x) (blockData s i x))
  let tags := st.2 ++ blocks.flatMap (·.2)
  let digest := sha384 (h ++ tags)
  let table := o.table.flatMap (tableEntry m)
  ((o.table.zip blocks).map (fun x => (o.addr + x.1.2.2.2, x.2.1))
    ++ [(o.addr + lay.state, slice st.1 0 (lay.data - lay.state)), (o.addr + 0x1000, pad4k table)
      , (o.addr + lay.tags, slice tags 0 (lay.state - lay.tags)), (o.addr, bundleHeader s e o true digest)], digest)

/-- The lines that reading a bundle's pages touches (R23). -/
def touchBundle (s : State) (i : Nat) (o : BundleOp) : State :=
  let e := entryOf s i
  let w := workOf s i
  o.table.foldl (fun s x =>
    if bitAt x.2.2.1 0 then
      (nthD noBlock w.blocks x.1).pages.foldl (fun s a => devTouch s (ldId e.ld) a (2 ^ (modelOf s e).pageLog2)) s
    else s) s

/-! ### Ends of a bundle operation -/

/-- The completion record of a bundle operation (R274, R285): STATUS and COMMITTED as given, the rest the entry's. -/
def bundleRecord (s : State) (i status committed : Nat) (quote : Option Nat) : State :=
  let e := entryOf s i
  let e' := { e with status := status, committed := committed, quoteOrig := quote.getD e.quoteOrig }
  bumpSeq (postRecord s (ldId e.ld) (queId e.queue) (complRec s i e' (workOf s i)) true true) i

/-- The body of a BUNDLE journal record (R301). -/
def bundleBody (o : BundleOp) (queue : Nat) (digest : List Byte) : List Byte :=
  toLE 8 o.addr ++ toLE 8 o.bundleId.toNat ++ toLE 4 o.committed ++ toLE 1 o.kind ++ toLE 1 queue ++ toLE 2 0
  ++ slice digest 0 48

/-- One reference on each page of a bundle's carried blocks, taken or dropped (R285, R288). -/
def snapRefs (s : State) (i : Nat) (o : BundleOp) (take : Bool) : State :=
  let e := entryOf s i
  let w := workOf s i
  o.table.foldl (fun s x =>
    (nthD noBlock w.blocks x.1).pages.foldl (fun s a => if take then pageRef s e.ld a else pageDrop s e.ld false a) s) s

/-- Bundle staging (R285): the state record copied into POOL frames of the tenant, as many as can be had (notes/assumptions/38.md). -/
def stageBundle (s : State) (t : Nat) (o : BundleOp) : State × BundleOp :=
  let fs := takeFree s (cdiv o.stateRec.length 65536)
  let s := fs.foldl (fun s f => giveFrame s f (.pool t)) s
  let s := fs.zipIdx.foldl (fun s x => memStore s (x.1 * 65536) ((o.stateRec.drop (65536 * x.2)).take 65536)) s
  (s, { o with stage := fs })

/-- The staging of a bundle operation that ends is FREE again. -/
def unstage (s : State) (o : BundleOp) : State := o.stage.foldl (fun s f => setTag s f .free) s

/-- A mark that an entry changed since the last batch (R299). -/
def markChanged (s : State) (i : Nat) : State := setWork s i { workOf s i with changed := true }

/-! ### Export and park -/

/-- An export or park ends without its bundle (R290). -/
def abandonBundle (s : State) (i : Nat) (o : BundleOp) (status : Nat) : State :=
  let e := entryOf s i
  let s := unstage (dropOp (snapRefs s i o false) i) o
  let s := if o.kind = 1 then markChanged (setEntry s i { e with state := (workOf s i).leftState, bundle := 0 }) i else s
  bundleRecord s i status o.committed none

/-- Step 1 of R287: the first 64 B of the header, with MAGIC zero. -/
def headStart (s : State) (e : Entry) (o : BundleOp) : List Byte := (bundleHeader s e o false []).take 64

/-- The checks of R285 after acceptance and the snapshot. -/
def startBundle (s : State) (i kind addr region : Nat) : State :=
  let e := entryOf s i
  let m := modelOf s e
  let busy := (opOf s i).isSome
  let rows := carried s i
  let dirtyFork := rows.any (fun x => bitAt x.2.2 1 && !bitAt x.2.2 0)
  let lay := bundleLay rows.length m.vocab
  let table := placeBlocks m lay.data rows
  let total := totalLen m lay.data table
  if busy then bundleRecord s i 0x0103 e.committed none
  else if !retained e || (workOf s i).releaseReq then bundleRecord s i 0x010C e.committed none
  else if dirtyFork then bundleRecord s i 0x0104 e.committed none
  else if region < total then bundleRecord s i 0x0105 e.committed none
  else
    let o : BundleOp :=
      { entry := i, kind := kind, addr := addr, len := total, bundleId := drawReg s, committed := e.committed
        table := table, stateRec := stateRecord s i, startAt := rqtNow s }
    let st := stageBundle (tickFree s) e.ld o
    let o := { st.2 with stallAt := if raileOpen s addr then none else some (rqtNow s) }
    let s := snapRefs { st.1 with ops := st.1.ops ++ [o] } i o true
    let s := if kind = 1 then
        setWork (setEntry s i { e with state := .parking, bundle := addr }) i
          { workOf s i with leftState := e.state, changed := true }
      else s
    if !raileOpen s addr then s
    else
      let r := raileStore s e.ld addr (headStart s e o)
      if r.2 then setOp r.1 { o with begun := true } else abandonBundle r.1 i o 0x0106

/-- EXPORT and PARK as commands (R285, R353). -/
def bundleCmd (kind : Nat) (m : Mbox) (p : List Byte) (s : State) : Host.Outcome State Fault Refusal :=
  let bad := !zeroAt p 0x0C 4
  bruah { len := 0x20 } m p bad s (fun t s =>
    if fld p 0x10 8 % 4096 ≠ 0 then (s, 5, [])
    else match byTag s t.val (fld p 8 4) with
    | none => (s, 3, [])
    | some (i, _) =>
      if 4096 ≤ (ten s t).places then (s, 0x0A, [])
      else
        let s := setTen s t { ten s t with places := (ten s t).places + 1 }
        (startBundle s i kind (fld p 0x10 8) (fld p 0x18 8), 0, []))

/-- EXPORT (R285). -/
def execExportBundle (m : Mbox) (p : List Byte) (s : State) : Host.Outcome State Fault Refusal := bundleCmd 0 m p s
/-- PARK (R285). -/
def execPark (m : Mbox) (p : List Byte) (s : State) : Host.Outcome State Fault Refusal := bundleCmd 1 m p s

/-- A park's entry is PARKED (R288); the next headland releases what it held. -/
def endPark (s : State) (i : Nat) (o : BundleOp) : State :=
  let s := setEntry s i { entryOf s i with state := .parked, bundle := o.addr }
  let w := workOf s i
  markChanged (setWork s i { w with freedPages := true, freeLate := lateNow s, gone := w.blocks, blocks := [] }) i

/-- BUNDLE_WRITTEN (R287, R288): the parts of the sealed bundle reach their places in order, the first 64 B unless they were written at
the command, and the header last; a denied part ends the
operation with MAGIC still zero (R290), and a peer that cannot be reached stalls it. -/
def execBundleWritten (i : Fin 4096) (s : State) : Host.Outcome State Fault Refusal :=
  match opOf s i.val with
  | none => .next s
  | some o =>
    if 2 ≤ o.kind then .next s
    else
      let e := entryOf s i.val
      if !raileOpen s o.addr then
        .next (setOp s { o with stallAt := some (o.stallAt.getD (rqtNow s)) })
      else
        let b := sealBundle s i.val o
        let parts := if o.begun then b.1 else (o.addr, headStart s e o) :: b.1
        let r := raileStores (touchBundle s i.val o) e.ld parts 0
        let s := meterMem (regBump r.1 (bndReg 0x70) r.2.2) (.entry i.val) r.2.2
        if !r.2.1 then .next (abandonBundle s i.val o 0x0106)
        else
          let s := unstage (dropOp (snapRefs s i.val o false) i.val) o
          let s := jrnlPut (flushProgress s i.val) i.val 5 (bundleBody o e.queue b.2)
          if o.kind = 0 then .next (bundleRecord (regBump (markChanged s i.val) (bndReg 0x40) 1) i.val 0x0100 o.committed none)
          else .next (bundleRecord (regBump (endPark s i.val o) (bndReg 0x48) 1) i.val 0x0101 o.committed none)

/-! ### Lift -/

/-- A lift ends without its entry (R291 to R293): FAILED, its pages given up, one completion record. -/
def liftFail (s : State) (i status : Nat) (quote : Option Nat) : State :=
  let e := entryOf s i
  let c := match opOf s i with
    | some o => o.committed
    | none => 0
  let s := cutEntryItems s i
  let s := dropBlocks s i 0
  let s := releaseBookings (dropOp s i) i
  let s := setEntry s i { e with state := .failed, status := status, booked := 0, bundle := 0, committed := 0 }
  let s := setWork s i { workOf s i with endAt := curFurrow s, changed := true, resow := [], recover := none }
  bundleRecord (regBump s (rqtReg 0x100020) (b2n (refusedStatus status))) i status c (some (quote.getD (2 ^ 64 - 1)))

/-- A recovered entry whose cache cannot be restored in full (R303): FAILED_PARTIAL at the longest committed length restored
in ascending block order, re-sown runs among it, or FAILED, with status RESET_LOST. -/
def recoverLost (s : State) (i : Nat) : State :=
  let e := entryOf s i
  let again := match (workOf s i).resow.head? with
    | some r => r.1
    | none => 0
  let seen := match opOf s i with
    | some o => (List.range o.table.length).takeWhile (fun j =>
        let b := (nthD (0, 0, 0, 0) o.table j).1
        o.seen.contains b && (!o.resow.contains b || decide (64 * (b + 1) ≤ again)))
    | none => []
  let c := match opOf s i with
    | some o => if seen.isEmpty then 0 else Nat.min o.committed (64 * ((nthD (0, 0, 0, 0) o.table (seen.length - 1)).1 + 1))
    | none => Nat.max e.committed again
  let s := setEntry (dropOp s i) i { e with committed := c, lateCause := 6 }
  let s := setWork s i { workOf s i with resow := [], recover := none }
  endRequest (dropBlocks s i (cdiv c 64)) i (if 0 < c then .failedPartial else .failed) 0x010B

/-- A lift or a recovery that cannot go on. -/
def liftStop (s : State) (i status : Nat) (quote : Option Nat) : State :=
  if (workOf s i).recover.isSome then recoverLost s i else liftFail s i status quote

/-- A new entry in LIFTING (R291, R353). -/
def liftNew (s : State) (t : LdId) (q tag image lp : Nat) : State × Nat :=
  let i := freeIndex s
  let e : Entry :=
    { state := .lifting, ld := t.val, queue := q, cls := regField s (qcfgOff q) 11 10, retain := true, image := image
      lpSlot := if lp = 0xFF then none else some lp, tag := tag, tSubmit := rqtNow s }
  (setWork (setEntry s i e) i { changed := true }, i)

/-- LIFT (R291, R353): the command's own checks, then the operation starts. -/
def execLift (m : Mbox) (p : List Byte) (s : State) : Host.Outcome State Fault Refusal :=
  let fl := fld p 0x0C 1
  let tag := fld p 8 4
  let isNew := bitAt fl 0
  let bad := decide (8 ≤ fl)
  bruah { len := 0x1D } m p bad s (fun t s =>
    let q := fld p 0x0D 1
    let found := byTag s t.val tag
    let isParked := match found with
      | some (i, e) => e.state == .parked && !(workOf s i).releaseReq
      | none => false
    let inFlight := match found with
      | some (i, _) => (opOf s i).isSome
      | none => false
    if fld p 0x10 8 % 4096 != 0 || (isNew && decide (2 ^ 31 ≤ tag)) then (s, 5, [])
    else if !isNew && !isParked && !inFlight then (s, 3, [])
    else if isNew && tagUsed s t.val tag none then (s, 6, [])
    else if isNew && (decide (128 ≤ q) || queueLd s q != t.val) then (s, 4, [])
    else if 4096 ≤ (ten s t).places then (s, 0x0A, [])
    else
      let s := setTen s t { ten s t with places := (ten s t).places + 1 }
      if !isNew && inFlight then
        (match found with
          | some (i, e) => bundleRecord s i 0x0103 e.committed none
          | none => s, 0, [])
      else if isNew && !entriesFree s t.val 1 then
        (postRecord s t (queId q) (bareRec s tag 6 none 0xFFFF 0 0) true true, 0, [])
      else
        let x := if isNew then liftNew s t q tag (fld p 0x0E 2) (fld p 0x1C 1) else (s, ((found.map (·.1)).getD 0))
        let s := x.1
        let i := x.2
        let us := fld p 0x18 4
        let o : BundleOp :=
          { entry := i, kind := 2, addr := fld p 0x10 8, len := 0, bundleId := 0, committed := 0, requote := bitAt fl 1
            pxtInsert := bitAt fl 2, deadline := if us = 0 then 0 else rqtNow s + us * 100, isNew := isNew, startAt := rqtNow s }
        let s := { s with ops := s.ops ++ [o] }
        let s := setEntry s i { entryOf s i with state := .lifting, bundle := o.addr }
        let s := markChanged s i
        (s, 0, []))

/-- Whether a header's places and lengths agree with R280 (first check of R291). -/
def headerShape (h : List Byte) : Bool :=
  let n := fld h 0x94 4
  let lay := bundleLay n (fld h 0x9C 4)
  slice h 0 8 == ascii [73, 75, 66, 66, 85, 78, 68, 76] && fld h 8 4 == 0x00010000
  && fld h 0xA0 8 == 0x1000 && fld h 0xA8 8 == lay.tags && fld h 0xB0 8 == lay.state && fld h 0xB8 8 == lay.data
  && fld h 0x90 4 == fld h 0x58 4 / 64 && n == cdiv (fld h 0x5C 4) 64 - fld h 0x90 4 && decide (lay.data ≤ fld h 0x18 8)

/-- The block table of a bundle read. -/
def readTable (bs : List Byte) (n : Nat) : List (Nat × Nat × Nat × Nat) :=
  (List.range n).map (fun k =>
    let o := 0x1000 + 32 * k
    (fld bs o 4, fld bs (o + 4) 1, fld bs (o + 5) 1, fld bs (o + 8) 8))

/-- Whether a block table agrees with R282 and the header. -/
def tableShape (bs : List Byte) (m : ModelInfo) (data first committed total : Nat) (table : List (Nat × Nat × Nat × Nat)) : Bool :=
  table == placeBlocks m data (table.map (fun x => (x.1, x.2.1, x.2.2.1)))
  && decide (totalLen m data table ≤ total)
  && (List.range table.length).all (fun k =>
      let x := nthD (0, 0, 0, 0) table k
      x.1 == first + k && x.2.1 == Nat.min 64 (committed - 64 * x.1)
      && fld bs (0x1000 + 32 * k + 16) 8 == dataLen m (bitAt x.2.2.1 0))

/-- The slot that holds an adapter at a version, READY or RETIRING (R291). -/
def adapterAt (s : State) (id ver : Nat) : Option Nat :=
  ((List.finRange 32).find? (fun k =>
    let a := s.adapters[k]
    (a.st == .ready || a.st == .retiring) && a.id == id && a.version == ver)).map (·.val)

/-- The sampler parameters of a state record. -/
def stateParams (st : List Byte) (p : Params) : Params :=
  { p with
    seed := slice st 0x10 16, rngBase := BitVec.ofNat 64 (fld st 0x20 8), invTemp := BitVec.ofNat 32 (fld st 0x28 4)
    topP := BitVec.ofNat 32 (fld st 0x2C 4), repPen := BitVec.ofNat 32 (fld st 0x30 4), presPen := BitVec.ofNat 32 (fld st 0x34 4)
    freqPen := BitVec.ofNat 32 (fld st 0x38 4), topK := fld st 0x3C 2, greedy := bitAt (fld st 0x3E 1) 0
    countPrompt := bitAt (fld st 0x3E 1) 2 }

/-- The counts table of a state record. -/
def stateCounts (st : List Byte) (vocab : Nat) : List (Nat × Nat) :=
  ((List.range vocab).map (fun id => (id, fld st (0x100 + 2 * id) 2))).filter (fun x => x.2 != 0)

/-- The model values with which a header's layout is read: the header's own. -/
def headerModel (h : List Byte) (m : ModelInfo) : ModelInfo :=
  { m with layers := fld h 0x98 2, pageLog2 := fld h 0x9A 1, vocab := fld h 0x9C 4 }

/-- The checks of R291 in order: 0, or the status of the first failure; with the state record in plaintext. -/
def liftChecks (s : State) (e : Entry) (bs : List Byte) (readOk : Bool) : Nat × List Byte :=
  let h := slice bs 0 4096
  let n := fld h 0x94 4
  let vocab := fld h 0x9C 4
  let lay := bundleLay n vocab
  let hz := slice h 0 0xD0 ++ List.replicate 48 0 ++ slice h 0x100 3840
  let tags := slice bs lay.tags (16 * (n + 1))
  let hm := headerModel h (modelOf s e)
  let table := readTable bs n
  if !readOk || !headerShape h || !tableShape bs hm lay.data (fld h 0x90 4) (fld h 0x5C 4) (fld h 0x18 8) table then (0x0107, [])
  else
    let st := gcmOpen (bundleKey (materialOf s e.ld)) (bundleIv (fld h 0x10 8) 0xFFFFFFFF) (sha384 hz)
      (slice bs lay.state (256 + 2 * vocab)) (tags.take 16)
    let m := modelOf s e
    let img := match imageOf s e.image with
      | some x => if x.ready then x.digest else []
      | none => []
    let lpOk := match e.lpSlot with
      | some l =>
        let x := s.lps[Fin.ofNat 64 l]
        decide (l < 64) && x.st == .ready && x.len == fld h 0x58 4 && x.digest == slice h 0x60 48
      | none => false
    if sha384 (hz ++ tags) ≠ slice h 0xD0 48 ∨ !st.2 then (0x0109, [])
    else if img ≠ slice h 0x20 48 ∨ m.layers ≠ hm.layers ∨ m.pageLog2 ≠ hm.pageLog2 ∨ m.vocab ≠ vocab then (0x0108, [])
    else if fld h 0x50 2 ≠ 0xFFFF ∧ (adapterAt s (fld h 0x50 2) (fld h 0x54 4)).isNone then (8, [])
    else if fld h 0x58 4 ≠ 0 ∧ !lpOk then (0x0108, [])
    else (0, st.1)

/-- Frames that pool_ok counts for `need` blocks (R248, R291). -/
def liftFrames (m : ModelInfo) (need : Nat) : Nat :=
  cdiv (need * m.layers * 2 ^ m.pageLog2 + need * dstride m.layers + need * m.layers * 8) 65536

/-- The image and learned-prefix slot of an entry that recovery rebuilt without a SUBMIT record: those with the digests of
its bundle's header (notes/assumptions/24.md). -/
def resolveImage (s : State) (e : Entry) (h : List Byte) : Entry :=
  if e.image ≠ 0xFFFF then e
  else
    let img := (List.finRange 16).find? (fun k => match s.images[k] with
      | some x => x.ready && x.digest == slice h 0x20 48
      | none => false)
    let lp := (List.finRange 64).find? (fun k => (s.lps[k]).st == .ready && (s.lps[k]).digest == slice h 0x60 48)
    { e with image := (img.map (·.val)).getD 0xFFFF, lpSlot := lp.map (·.val) }

/-- Whether a token area is in the form of R280: ids of the vocabulary, zeros at and beyond VALID. -/
def tokenAreaOk (m : ModelInfo) (valid : Nat) (pt : List Byte) : Bool :=
  (List.range valid).all (fun k => decide (fld pt (4 * k) 4 < m.vocab)) && zeroAt pt (4 * valid) (4096 - 4 * valid)

/-- Pages of a lifted block written into new pages (R292). -/
def liftPages (s : State) (i b valid : Nat) (isForked : Bool) (data : List Byte) : State :=
  let e := entryOf s i
  let m := modelOf s e
  let t := ldId e.ld
  let r := newPages s t m.layers m.pageLog2
  let s := (List.range m.layers).foldl (fun s l =>
    devWrite s t (some i) (nthD 0 r.2 l) (slice data (4096 + l * 2 ^ m.pageLog2) (2 ^ m.pageLog2))) r.1
  putBlock s i b { pages := r.2, valid := valid, written := valid, forked := isForked }

/-- The runs of consecutive blocks among an ascending list: first block and count. -/
def blockRuns : List Nat → List (Nat × Nat)
  | [] => []
  | b :: bs => match blockRuns bs with
    | (c, n) :: r => if b + 1 = c then (b, n + 1) :: r else (b, 1) :: (c, n) :: r
    | [] => [(b, 1)]

/-- Runs of blocks as runs of positions below a committed length. -/
def posRuns (committed : Nat) (runs : List (Nat × Nat)) : List (Nat × Nat) :=
  runs.map (fun r => (64 * r.1, Nat.min (64 * (r.1 + r.2)) committed - 64 * r.1))

/-- Chunks (first position, length) of re-sow runs under a chunk size. -/
def resowChunks (size : Nat) (runs : List (Nat × Nat)) : List (Nat × Nat) :=
  runs.flatMap (fun r => (List.range (cdiv r.2 size)).map (fun k => (r.1 + k * size, Nat.min size (r.2 - k * size))))

/-- Tokens of a lifted cache in order of position, from the learned prefix up. -/
def liftTokens (o : BundleOp) : List Nat := o.table.flatMap (fun x => ((lookupN x.1 o.toks).getD []))

/-- States of a request that still runs. -/
def isLive (st : RqState) : Bool := st == .queued || st == .admitted || st == .running || st == .generating

/-- A recovered entry rejoins its queue in the JSEQ order of the SUBMITs (R303): before those submitted after it. -/
def rejoin (s : State) (i : Nat) : State :=
  let q := queId (entryOf s i).queue
  let u := que s q
  let jseq (k : Nat) : Nat := (workOf s k).subLast
  let before (k : Nat) : Bool := jseq k != 0 && decide (jseq k ≤ jseq i)
  setQue s q { u with waiting := u.waiting.takeWhile before ++ i :: u.waiting.dropWhile before }

/-- A recovered entry resumes by its state (R303). -/
def resumeEntry (s : State) (i : Nat) (r : Recover) : State :=
  let e := { entryOf s i with state := r.state, pendingTok := r.pending, genLeft := r.genLeft, committed := r.committed
                              lateCause := if isLive r.state then 6 else (entryOf s i).lateCause, booked := 0
                              seedRng := r.params.getD (entryOf s i).seedRng
                              draft := if r.params.isSome then r.draft else (entryOf s i).draft }
  let w := workOf s i
  let s := setWork (setEntry s i e) i { w with recover := none, changed := true, moveCause := 6, resow := []
                                               counts := r.addTok.foldl countAdd w.counts }
  let requeue (s : State) : State := rejoin (setEntry s i { e with state := .queued, acceptRequote := true }) i
  match r.state with
  | .queued => rejoin s i
  | .admitted => requeue s
  | .running => requeue s
  | .generating =>
    let f := curFurrow s + 2
    match bookTail s i { e with seedRng := { e.seedRng with maxNew := r.genLeft + 1 }, tbt := 0 } f f with
    | .ok (s, tq) => setEntry s i { e with tailQuote := tq }
    | .error _ => s
  | _ => s

/-- A lift whose cache is whole (R294): the entry's fields are the bundle's, or recovery goes on with what it still needs. -/
def finishLift (s : State) (i : Nat) (quote : Option Nat) : State :=
  let e := entryOf s i
  let w := workOf s i
  match w.recover with
  | some r =>
    if r.committed ≤ e.committed then resumeEntry (setValid (dropOp s i) i e.committed) i r
    else dropOp s i
  | none =>
    match opOf s i with
    | none => s
    | some o =>
      let st := o.stateRec
      let s := setEntry s i
        { e with state := .complete, retain := true, committed := o.committed, targetLen := o.committed, booked := 0, bundle := 0
                 pendingTok := if fld st 0 4 = 0xFFFFFFFF then none else some (fld st 0 4), status := 0x0102 }
      let s := dropOp (releaseBookings s i) i
      let s := setWork s i { workOf s i with resow := [], endAt := curFurrow s, changed := true }
      let s := hashBlocks (setValid s i o.committed) i
      let s := if o.pxtInsert then insertBlocks s i 0 true else s
      bundleRecord (regBump s (bndReg 0x50) 1) i 0x0102 o.committed (some (quote.getD (2 ^ 64 - 1)))

/-- What follows once every block of a lift has been read: nothing to re-sow ends the lift (R294). -/
def liftRead (s : State) (i : Nat) : State :=
  match opOf s i with
  | none => s
  | some o =>
    if o.seen.length < o.table.length then s
    else
      let w := workOf s i
      let s := setWork s i { w with history := liftTokens o ++ (w.history.drop (o.committed - fld o.header 0x58 4)) }
      if o.resow.isEmpty then finishLift (setEntry s i { entryOf s i with committed := o.committed }) i none else s

/-- The BUNDLE record of a lift into a new entry (R301), its first: once the header has been read, which holds what it says
(notes/assumptions/38.md). -/
def nameBundle (s : State) (i : Nat) (digest : List Byte) : State :=
  match opOf s i with
  | none => s
  | some o => jrnlPut s i 5 (bundleBody o (entryOf s i).queue digest)

/-- What a lift reads of its bundle: inside the package under the region table where it lies at the own node (R41), else what the peer
has answered; none while no path leads there (R290, R318). -/
def liftSource (s : State) (ctx addr n : Nat) (bs : List Byte) (ok : Bool) : Option (State × List Byte × Bool) :=
  if addr / 2 ^ 52 = ownNode s then
    match railAccess s .rd ctx (ownNode s) (addr % 2 ^ 52) n with
    | .error c => some (ownDenied s c, [], false)
    | .ok (s, t, v) =>
      let s := devTouch s t v n
      some (s, tvaReads s t v n, !tvaPoisoned s t v n)
  else if ok ∧ !raileReach s (addr / 2 ^ 52) then none
  else some (s, bs, ok)

/-- The first read of a lift: at the own node the header, and the rest up to the first block's data where the header has its form. -/
def liftHead (s : State) (i : Nat) (o : BundleOp) (x : LiftHeader) : Option (State × LiftHeader) :=
  let t := (entryOf s i).ld
  match liftSource s t o.addr 4096 x.bytes x.readOk with
  | none => none
  | some (s1, h, ok) =>
    if o.addr / 2 ^ 52 ≠ ownNode s then some (s1, x)
    else if !ok ∨ !headerShape h then some (s1, { readOk := ok, bytes := h })
    else (liftSource s1 t o.addr (fld h 0xB8 8) [] true).map (fun y => (y.1, { readOk := y.2.2, bytes := y.2.1 }))

/-- The read of a block's data: at the own node the token area, then the whole. -/
def liftData (s : State) (i : Nat) (o : BundleOp) (ofs len : Nat) (x : LiftBlock) : Option (State × LiftBlock) :=
  let t := (entryOf s i).ld
  match liftSource s t (o.addr + ofs) 4096 x.bytes x.tokRead with
  | none => none
  | some (s1, tok, ok) =>
    if o.addr / 2 ^ 52 ≠ ownNode s then some (s1, x)
    else if !ok then some (s1, { x with tokRead := false, pagesRead := false, bytes := [] })
    else (liftSource s1 t (o.addr + ofs) len [] true).map (fun y =>
      (y.1, { x with tokRead := true, pagesRead := y.2.2, bytes := if y.2.2 then y.2.1 else tok }))

/-- LIFT_HEADER_READ (R291): the header, block table, tag list and state record are checked. -/
def execLiftHeaderRead (i : Fin 4096) (x : LiftHeader) (s : State) : Host.Outcome State Fault Refusal :=
  match opOf s i.val with
  | none => .next s
  | some o =>
    if o.kind ≠ 2 ∨ o.headerOk then .next s
    else match liftHead s i.val o x with
    | none => .next s
    | some (s, x) =>
      let e := resolveImage s (entryOf s i.val) x.bytes
      let n := if x.readOk then x.bytes.length else 0
      let s := meterMem (regBump s (bndReg 0x78) n) (.entry i.val) n
      let r := liftChecks s e x.bytes x.readOk
      let h := slice x.bytes 0 4096
      let o := { o with committed := if r.1 = 0 then fld h 0x5C 4 else o.committed }
      let s := setOp s o
      if r.1 ≠ 0 then .next (liftStop s i.val r.1 none)
      else
        let m := modelOf s e
        let n := fld h 0x94 4
        let lay := bundleLay n m.vocab
        let frames := liftFrames m n
        let pool := poolEvict (s.nodes.length + 1) s e.ld frames
        if !pool.2 then .next (liftStop pool.1 i.val 3 none)
        else
          let s := setOp pool.1 { o with header := h, bundleId := BitVec.ofNat 64 (fld h 0x10 8), len := fld h 0x18 8
                                         table := readTable x.bytes n, rawTable := slice x.bytes 0x1000 (32 * n), tags := slice x.bytes lay.tags (16 * (n + 1))
                                         stateRec := r.2, headerOk := true }
          let s := if o.isNew ∧ (workOf s i.val).recover.isNone then nameBundle s i.val (slice h 0xD0 48) else s
          let lp := if fld h 0x58 4 = 0 then none else e.lpSlot
          let s := setEntry s i.val
            { e with adapterId := fld h 0x50 2, adapterSlot := adapterAt s (fld h 0x50 2) (fld h 0x54 4), lpSlot := lp
                     seedRng := stateParams r.2 e.seedRng, draft := bitAt (fld r.2 0x3E 1) 1 }
          let w := workOf s i.val
          let lpBlocks : List Block := match lp with
            | some l => (List.range (fld h 0x58 4 / 64)).map (fun b =>
                { shared := true, lp := true, valid := 64
                  pages := (List.range m.layers).map (fun k => lpAlias + l * 2 ^ 32 + (b * m.layers + k) * 2 ^ m.pageLog2) })
            | none => []
          let s := setWork s i.val { w with booking := frames, counts := stateCounts r.2 m.vocab, blocks := lpBlocks }
          .next (if n = 0 then liftRead s i.val else s)

/-- LIFT_BLOCK_READ (R292): the block is lifted, marked for re-sowing, or the lift ends UNRECOVERABLE. -/
def execLiftBlockRead (i : Fin 4096) (x : LiftBlock) (s : State) : Host.Outcome State Fault Refusal :=
  match opOf s i.val with
  | none => .next s
  | some o =>
    match findIdxFrom (fun r => r.1 == x.index) o.table 0 with
    | none => .next s
    | some (k, row) =>
      if !o.headerOk ∨ o.seen.contains x.index then .next s
      else match liftData s i.val o row.2.2.2 (dataLen (modelOf s (entryOf s i.val)) (bitAt row.2.2.1 0)) x with
      | none => .next s
      | some (s, x) =>
        let e := entryOf s i.val
        let m := modelOf s e
        let hz := slice o.header 0 0xD0 ++ List.replicate 48 0 ++ slice o.header 0x100 3840
        let pages := bitAt row.2.2.1 0
        let isForked := bitAt row.2.2.1 1
        let data := slice x.bytes 0 (dataLen m pages)
        let whole := x.tokRead && (x.pagesRead || !pages)
        let pt := gcmOpen (bundleKey (materialOf s e.ld)) (bundleIv o.bundleId.toNat x.index)
          (sha384 hz ++ slice o.rawTable (32 * k) 32) data (slice o.tags (16 * (k + 1)) 16)
        let n := if whole then data.length else if x.tokRead then 4096 else 0
        let s := meterMem (regBump s (bndReg 0x78) n) (.entry i.val) n
        let s := regBump s (bndReg 0x68) (b2n (whole && !pt.2))
        let o := { o with seen := addN x.index o.seen }
        if whole && pt.2 && pages then
          let s := setOp s { o with toks := insertN x.index ((List.range row.2.1).map (fun j => fld pt.1 (4 * j) 4)) o.toks }
          let s := liftPages s i.val x.index row.2.1 isForked pt.1
          .next (liftRead (regBump s (bndReg 0x58) 1) i.val)
        else if isForked || !x.tokRead || !tokenAreaOk m row.2.1 (slice pt.1 0 4096) then
          .next (liftStop (setOp s o) i.val 0x010A none)
        else
          let toks := (List.range row.2.1).map (fun j => fld pt.1 (4 * j) 4)
          .next (liftRead (setOp s { o with toks := insertN x.index toks o.toks, resow := addN x.index o.resow }) i.val)

/-- Search of the plans for a lift's re-sow chunks (R293): a chain with its chunks and quote, or the earliest quote that
misses the deadline. -/
def resowPlans (s : State) (e : Entry) (requote : Bool) (deadline : Nat) (runs : List (Nat × Nat)) :
    (n idx : Nat) → (best : Option Nat) → Except (Option Nat) (Nat × List (Nat × Nat) × List LaneFurrow × Nat)
  | 0, _, best => .error best
  | n + 1, idx, best =>
    let rd := imgRd s e.image
    let m := modelInfo rd
    let p := planRec rd idx
    let (op, k) := bookPair s
    let chunks := resowChunks p.chunkTokens runs
    let last := ((runs.getLast?).map (·.1)).getD 0
    if idx = m.genPlan ∨ p.chunkTokens = 0 ∨ p.steps = 0 ∨ p.ctxMax < last ∨ capacityB s op < effCount p.stepD k then
      resowPlans s e requote deadline runs n (idx + 1) best
    else
      let steps := p.steps * chunks.length
      match findChain s (allLanes s) p (slotsFor s rd p none none) (0, 0) horizon (curFurrow s + 2) (steps + reserveOf s steps) [] with
      | none => resowPlans s e requote deadline runs n (idx + 1) best
      | some chain =>
        let q := ((chain.getLast?).map (·.furrow + 1)).getD 0
        if deadline = 0 ∨ requote ∨ tickTime s q ≤ deadline then .ok (idx, chunks, chain, q)
        else resowPlans s e requote deadline runs n (idx + 1) (match best with
          | none => some q
          | some b => some (Nat.min b q))

/-- The runs of positions that an entry in LIFTING has to re-sow, with the length that they reach, the deadline and the accept-requote
flag: those of its bundle, or those that recovery adds beyond it (R293, R303). -/
def resowRuns (s : State) (i : Nat) : List (Nat × Nat) × Nat × Nat × Bool :=
  let e := entryOf s i
  match opOf s i, (workOf s i).recover with
  | some o, r => (posRuns o.committed (blockRuns o.resow), o.committed, if r.isSome then 0 else o.deadline, r.isSome || o.requote)
  | none, some r => ([(e.committed, r.committed - e.committed)], r.committed, 0, true)
  | none, none => ([], 0, 0, true)

/-- LIFT_RESOW_BOOKING (R293): once every block has been read, the re-sow runs are booked through admission. -/
def execLiftResowBooking (i : Fin 4096) (s : State) : Host.Outcome State Fault Refusal :=
  let e := entryOf s i.val
  let w := workOf s i.val
  let x := resowRuns s i.val
  let ready := match opOf s i.val with
    | some o => o.kind == 2 && o.headerOk && decide (o.table.length ≤ o.seen.length)
    | none => w.recover.isSome
  if e.state ≠ .lifting ∨ !ready ∨ x.1.isEmpty ∨ !w.resow.isEmpty then .next s
  else
    match resowPlans s e x.2.2.2 x.2.2.1 x.1 (secD (imgRd s e.image) 8).count 0 none with
    | .error best => .next (liftStop s i.val (if best.isSome then 1 else 2) best)
    | .ok (plan, chunks, chain, q) =>
      let s := ensureBlocks s i.val x.2.1
      let s := setEntry s i.val { e with plan := plan, quote := q, quoteOrig := if w.recover.isSome then e.quoteOrig else q
                                         booked := sumN (chunks.map (·.2)) }
      let s := setWork s i.val { workOf s i.val with
        chain := chain, resow := chunks, chunkLens := chunks.map (·.2), stepNo := 0, stepDone := [], replays := []
        reserveUsed := 0, pairOp := (pairOfLanes s chain).1, pairK := (pairOfLanes s chain).2, geoGen := s.tick.geoNum }
      .next (regBump s (bndReg 0x60) (sumN (x.1.map (fun r => cdiv (r.1 + r.2) 64 - r.1 / 64))))

/-- Whether a re-sown run may commit (R293, R374). -/
def resowReady (s : State) (i : Nat) : Bool :=
  let e := entryOf s i
  let w := workOf s i
  let rd := imgRd s e.image
  let p := planRec rd e.plan
  e.state == .lifting && !w.resow.isEmpty && decide (w.stepNo + 1 = p.steps) && w.replays.isEmpty
  && stepDoneAll s i none rd p w.stepNo w.stepDone

/-- A re-sown run commits; the last one ends the lift (R293, R294), late as of R227. -/
def commitResow (s : State) (i : Nat) : State :=
  let e := entryOf s i
  let w := workOf s i
  let s := freeMgen { s with items := s.items.filter (fun x => !(x.done && x.round.isNone && x.rqt == i)) } i
  let s := setWork s i { w with resow := w.resow.drop 1, chunkLens := w.chunkLens.drop 1, stepNo := 0, stepDone := [], changed := true }
  let s := setEntry s i { e with booked := e.booked - nthD 0 w.chunkLens 0 }
  if 1 < w.resow.length then s
  else
    let s := if w.recover.isSome then
        setEntry s i { entryOf s i with committed := match opOf s i, w.recover with
          | some o, _ => o.committed
          | none, some r => r.committed
          | none, none => e.committed }
      else s
    let s := lateCheck (setWork s i { workOf s i with chain := [] }) i
    finishLift s i (some e.quote)

/-- CHUNK_COMMIT (R374): a chunk, or a re-sown run, whose every work item has completed commits; otherwise nothing of it
does. -/
def execChunkCommit (i : Fin 4096) (s : State) : Host.Outcome State Fault Refusal :=
  if chunkReady s i.val then .next (commitChunk s i.val)
  else if resowReady s i.val then .next (commitResow s i.val)
  else .next s

/-- BUNDLE_WRITE_FAILED (R290): a bundle write fault that cannot be resolved, or that has lasted TIMEOUT_MS, ends the operation; a peer
that cannot be reached is waited for until then. -/
def execBundleWriteFailed (i : Fin 4096) (s : State) : Host.Outcome State Fault Refusal :=
  match opOf s i.val with
  | none => .next s
  | some o =>
    let waits : Bool := match o.stallAt with
      | some t => !raileOpen s o.addr && decide (rqtNow s < t + regField s (bndReg 0x38) 15 0 * 100000)
      | none => false
    if o.kind = 2 ∨ waits then .next s else .next (abandonBundle s i.val o 0x0106)

end Sys2Proof.Machine
end

