-- ==== Sys2Proof/Machine/Journal.lean ====
section
/-! DEFINITION. The journal (09_peat_bundles.md, R298 to R304): the batch of a headland, JOURNAL_BATCH_DONE, JRNL_TAIL_WRITE,
START_RECOVERY and RECOVER_LD. -/

namespace Sys2Proof.Machine

/-! ### Writing a batch -/

/-- Bytes of JNONCE. -/
def jnonceBytes (s : State) : List Byte := toLE 16 s.sec.jnonce.toNat

/-- Device journal key (R436). -/
def deviceJournalKey (s : State) : List Byte := kdf (ddsOf s) lblJournalDev [] 32

/-- Length of a record with a body (R300). -/
def recLen (body : List Byte) : Nat := 32 + (pad16 body).length + 16

/-- The header of a record (R300): FURROW is the number of the furrow that the headland begins. -/
def recHeader (s : State) (r : JRec) (jseq : Nat) : List Byte :=
  toLE 1 r.ty ++ toLE 1 r.ld ++ toLE 2 r.idx ++ toLE 4 (recLen r.body) ++ toLE 8 jseq ++ toLE 8 (comingFurrow s) ++ toLE 4 r.tag
  ++ toLE 4 s.sec.bootId.toNat

/-- IV of a record: BOOT_ID, then JSEQ (R300). -/
def recIv (bootId jseq : Nat) : List Byte := toLE 4 bootId ++ toLE 8 jseq

/-- A sealed record (R300): a tenant's body is encrypted under its journal key, a device record is authenticated alone. -/
def sealRec (s : State) (r : JRec) (jseq : Nat) : List Byte :=
  let h := recHeader s r jseq
  let iv := recIv s.sec.bootId.toNat jseq
  let b := pad16 r.body
  if r.ld < 16 then
    let x := gcmSeal (journalKey (materialOf s r.ld) (jnonceBytes s)) iv h b
    h ++ x.1 ++ x.2
  else h ++ b ++ (gcmSeal (deviceJournalKey s) iv h []).2

/-- A device record. -/
def devRec (ty : Nat) (body : List Byte) : JRec := { ty := ty, ld := 16, idx := 0xFFFF, tag := 0, body := body }

/-- A batch as it is built: pieces with their byte counts, the next count and JSEQ, and the bytes of the digest. -/
structure Batch where
  pieces : List (Nat × List Byte) := []
  head   : Nat
  jseq   : Nat
  nrec   : Nat := 0
  bytes  : List Byte := []
  deriving DecidableEq, Repr

/-- A piece of bytes put at the head. -/
def batchPiece (b : Batch) (bs : List Byte) : Batch :=
  { b with pieces := b.pieces ++ [(b.head, bs)], head := b.head + bs.length, bytes := b.bytes ++ bs }

/-- The rest of the ring before a record that does not fit (R298): a PAD record, or zeros where none has room. -/
def batchPad (s : State) (size len : Nat) (b : Batch) : Batch :=
  let gap := size - b.head % size
  if len ≤ gap then b
  else if gap < 48 then batchPiece b (List.replicate gap 0)
  else
    let r := devRec 0 (List.replicate (gap - 48) 0)
    let b' := batchPiece b (sealRec s r b.jseq)
    { b' with jseq := b.jseq + 1, nrec := b.nrec + 1 }

/-- A record put into a batch. -/
def batchRec (s : State) (size : Nat) (r : JRec) (b : Batch) : Batch :=
  let b := batchPad s size (recLen r.body) b
  let b' := batchPiece b (sealRec s r b.jseq)
  { b' with jseq := b.jseq + 1, nrec := b.nrec + 1 }

/-- A batch with its BATCH_BEGIN (R299, R301): a PAD record that BATCH_BEGIN needs before it is no record of the batch. -/
def batchBegin (s : State) (size head jseq : Nat) : Batch :=
  let body (n : Nat) : List Byte := toLE 8 s.tick.window ++ toLE 8 n ++ jnonceBytes s
  let b := { batchPad s size (recLen (body 0)) { head := head, jseq := jseq } with bytes := [], nrec := 0 }
  batchRec s size (devRec 1 (body b.jseq)) b

/-- BATCH_END with its digest (R301). -/
def batchEnd (s : State) (size req : Nat) (b : Batch) : Batch :=
  let body (n : Nat) (d : List Byte) : List Byte := toLE 4 n ++ toLE 4 0 ++ toLE 8 req ++ slice d 0 48
  let b := batchPad s size (recLen (body 0 [])) b
  let r := devRec 0x0F (body (b.nrec + 1) [])
  let digest := sha384 (b.bytes ++ recHeader s r b.jseq)
  batchRec s size (devRec 0x0F (body (b.nrec + 1) digest)) b

/-- What a written record means for its entry's base record (R302); one of an entry that has become FREE means nothing for the next
entry of its index. -/
def noteWritten (s : State) (x : JRec × Nat) : State :=
  if x.1.gone ∨ (lookupN x.1.idx s.rqt).isNone then s
  else
    let w := workOf s x.1.idx
    if x.1.ty = 2 then setWork s x.1.idx { w with subFirst := if w.subFirst = 0 then x.2 else w.subFirst, subLast := x.2 }
    else if x.1.ty = 5 then setWork s x.1.idx { w with bndLast := x.2 }
    else s

/-- The base record of an entry (R302). -/
def baseOf (w : Work) : Option Nat :=
  if w.bndLast = 0 then (if w.subFirst = 0 then none else some w.subFirst)
  else if w.subLast = 0 then some w.bndLast
  else some (Nat.min w.subLast w.bndLast)

/-- REQUIRED_JSEQ (R302); with no entry that has a base record, the JSEQ that follows. -/
def requiredJseq (s : State) (next : Nat) : Nat :=
  ((s.rqt.filterMap (fun p => if p.2.state = .free then none else baseOf (workOf s p.1))).foldl
    (fun (m : Option Nat) x => some (match m with
      | none => x
      | some y => Nat.min x y)) none).getD next

/-- Records taken in order while they fit with BATCH_END: the batch, those written with their JSEQs, and those left. -/
def batchFill (s : State) (size free h0 : Nat) : List JRec → Batch → List (JRec × Nat) → Batch × List (JRec × Nat) × List JRec
  | [], b, acc => (b, acc, [])
  | r :: rs, b, acc =>
    let b' := batchRec s size r b
    if (batchEnd s size 0 b').head - h0 ≤ free then batchFill s size free h0 rs b' (acc ++ [(r, b'.jseq - 1)])
    else (b, acc, r :: rs)

/-- The PROGRESS records of every changed entry join the records due. -/
def gatherProgress (s : State) : State := s.rqt.foldl (fun s p => flushProgress s p.1) s

/-- JRNL_CFG and JRNL_BASE as they take effect at a headland (R298): HEAD and TAIL restart at 0 after a change, and a batch that was
being written to the old ring is carried forward. -/
def adoptJournal (s : State) : State :=
  let mode := regField s (bndReg 0) 1 0
  let size := regField s (bndReg 0) 7 2
  let base := regField s (bndReg 8) 63 12
  if s.jrnl.mode = mode ∧ s.jrnl.sizeLog = size ∧ s.jrnl.base = base then s
  else
    let s := { s with jrnl := { s.jrnl with mode := mode, sizeLog := size, base := base, stale := s.jrnl.busy
                                            due := s.jrnl.inFlight.map (·.1) ++ s.jrnl.due, inFlight := [] } }
    regSet (regSet s (bndReg 0x10) 0) (bndReg 0x18) 0

/-- Whether the journal's destination can be written now: DMA needs SLD mode, Bus Master Enable (R368) and a link that carries traffic
(R393). -/
def jrnlReach (s : State) : Bool :=
  if s.jrnl.mode = 1 then !s.pins.mld && busMaster s && hostUp s else s.jrnl.mode == 2

/-- LD of the own-node region that an offset lies in, under which a journal write or a load's source read at the own node goes through
the checks of R327 (DESIGN CHOICE, notes/assumptions/25.md: no rule gives their CTX; under this one check 3 always passes). -/
def regionCtx (s : State) (addr : Nat) : Nat := match rgnFind s (addr % 2 ^ 52) with
  | some r => rgnLd s r
  | none => 16

/-- One piece of a batch written to the ring; a write that the own region table denies is an error of the batch (R41, R305). -/
def writePiece (s : State) (x : Nat × List Byte) : State :=
  let addr := s.jrnl.base * 4096 + x.1 % 2 ^ s.jrnl.sizeLog
  if s.jrnl.mode = 1 then send s (.dma addr x.2)
  else
    let r := raileStore s (regionCtx s addr) addr x.2
    { r.1 with jrnl := { r.1.jrnl with denied := r.1.jrnl.denied || !r.2 } }

/-- Action 4 of a headland (R225, R299): one batch. Poison in the journal's staging halts the device (R380). -/
def journalBatch (s : State) : State :=
  let s := adoptJournal s
  if poisoned s (reserveLine s 7 0) 256 then haltDevice s 0x0C 0 0x0004
  else if s.jrnl.mode = 0 ∨ s.jrnl.mode = 3 then { gatherProgress s with jrnl := { s.jrnl with due := [] } }
  else if recovering s ∨ s.jrnl.busy ∨ !jrnlReach s then s
  else
    let s := gatherProgress s
    let keep := s.jrnl.due.filter (fun r => decide (16 ≤ r.ld) || (ten s (ldId r.ld)).material.isSome)
    let recs := sortBy (fun a b => decide (a.idx ≤ b.idx)) keep
    let size := 2 ^ s.jrnl.sizeLog
    let head := regGet s (bndReg 0x10)
    let free := size - (head - regGet s (bndReg 0x18))
    let jseq := regGet s (bndReg 0x20)
    let b0 := batchBegin s size head jseq
    let r := batchFill s size free head recs b0 []
    let empty := recs.isEmpty && decide ((batchEnd s size 0 b0).head - head ≤ free)
    if r.2.1.isEmpty ∧ !empty then
      let s := { s with jrnl := { s.jrnl with due := recs } }
      regBump (regFlag s (bndReg 0x30) 0) (bndReg 0x88) 1
    else
      let req := requiredJseq (r.2.1.foldl noteWritten s) (r.1.jseq + 1)
      let b := batchEnd s size req r.1
      let s := b.pieces.foldl writePiece { s with jrnl := { s.jrnl with denied := false } }
      let s := { s with jrnl := { s.jrnl with due := r.2.2, inFlight := r.2.1, busy := true
                                              pendHead := b.head, pendReq := req } }
      let s := regSet s (bndReg 0x20) (b.jseq % 2 ^ 64)
      if r.2.2.isEmpty then s else regBump (regFlag s (bndReg 0x30) 0) (bndReg 0x88) 1

/-- JOURNAL_BATCH_DONE (R368, R298): the BATCH_END write has completed and HEAD moves, or it has faulted and the batch is
carried forward. A batch of a ring that has changed since moves nothing. -/
def execJournalBatchDone (error : Bool) (s : State) : Host.Outcome State Fault Refusal :=
  if !s.jrnl.busy then .next s
  else if s.jrnl.stale then .next { s with jrnl := { s.jrnl with busy := false, stale := false } }
  else if error ∨ s.jrnl.denied then
    .next (regFlag { s with jrnl := { s.jrnl with due := s.jrnl.inFlight.map (·.1) ++ s.jrnl.due, inFlight := [], busy := false, denied := false } }
      (bndReg 0x30) 1)
  else
    let j := s.jrnl
    let s := j.inFlight.foldl noteWritten s
    let s := regSet (regSet s (bndReg 0x10) j.pendHead) (bndReg 0x28) j.pendReq
    let s := regBump { s with jrnl := { j with inFlight := [], busy := false } } (bndReg 0x80) 1
    .next (if s.pins.mld then s else sendMsix s .owner 1)

/-- JRNL_TAIL_WRITE (R298, R305): a value above HEAD is stored as HEAD. -/
def execJrnlTailWrite (val : Reg64) (s : State) : Host.Outcome State Fault Refusal :=
  .next (regSet s (bndReg 0x18) (Nat.min val.toNat (regGet s (bndReg 0x10))))

/-! ### Recovery -/

/-- START_RECOVERY (R303, R353). -/
def execStartRecovery (m : Mbox) (p : List Byte) (s : State) : Host.Outcome State Fault Refusal :=
  bruah { owner := true } m p false s (fun _ s =>
    if regField s (bndReg 0) 1 0 = 0 ∨ recovering s then (s, 9, [])
    else ({ regFlag s (bndReg 0x30) 2 with jrnl := { s.jrnl with ldsDone := [] } }, 0, []))

/-- The records of a batch's bytes, in order: place and bytes of each; zeros before a ring's end are passed over. -/
def splitRecs : (fuel : Nat) → (ofs : Nat) → List Byte → List (Nat × List Byte)
  | 0, _, _ => []
  | n + 1, ofs, bs =>
    let len := fld bs 4 4
    if bs.length < 16 then []
    else if fld bs 0 16 = 0 then splitRecs n (ofs + 16) (bs.drop 16)
    else if len < 48 ∨ bs.length < len then []
    else (ofs, bs.take len) :: splitRecs n (ofs + len) (bs.drop len)

/-- A batch's bytes from its BATCH_BEGIN on: a PAD or zeros before it are no part of it (R298, R301). -/
def fromBegin (bs : List Byte) : List Byte :=
  match (splitRecs (bs.length / 16) 0 bs).find? (fun x => fld x.2 0 1 == 1) with
  | some (o, _) => bs.drop o
  | none => bs

/-- Whether a batch is complete (R299): its BATCH_END, the last record, verifies. -/
def batchComplete (s : State) (batch : List Byte) : Bool :=
  let bs := fromBegin batch
  let rs := splitRecs (bs.length / 16) 0 bs
  match rs.getLast? with
  | none => false
  | some (ofs, r) =>
    let body := (r.drop 32).take (r.length - 48)
    fld r 0 1 == 0x0F && slice body 16 48 == sha384 (bs.take (ofs + 32))
    && (gcmSeal (deviceJournalKey s) (recIv (fld r 0x1C 4) (fld r 8 8)) (r.take 32) []).2 == r.drop (r.length - 16)

/-- A tenant record opened: none where its tag fails. -/
def openRec (material jnonce r : List Byte) : Option (List Byte) :=
  let x := gcmOpen (journalKey material jnonce) (recIv (fld r 0x1C 4) (fld r 8 8)) (r.take 32)
    ((r.drop 32).take (r.length - 48)) (r.drop (r.length - 16))
  if x.2 then some x.1 else none

/-- The image of one entry that recovery builds (R303). `origin` is the position of the first token of `toks`, and `base`
that of the latest submission's input. -/
structure EntryImg where
  idx : Nat
  tag : Nat := 0
  queue : Nat := 0
  jseq : Nat := 0
  rpb : List Byte := []
  first : List Byte := []           -- RPB of the first SUBMIT
  nTok : Nat := 0
  got : Nat := 0
  origin : Nat := 0
  base : Nat := 0
  toks : List Nat := []
  stream : List Nat := []           -- tokens streamed since the latest SUBMIT
  counted : List Nat := []          -- tokens counted since the bundle, but those of the latest input
  from_ : Nat := 0                  -- position from which the latest input's tokens count
  st : Nat := 1
  left : Nat := 0                   -- latest state that no bundle operation holds
  subFirst : Nat := 0
  subLast : Nat := 0
  bndLast : Nat := 0
  stop : Nat := 0
  status : Nat := 0
  committed : Nat := 0
  pending : Nat := 0xFFFFFFFF
  genLeft : Nat := 0
  quote : Nat := 0
  tailQuote : Nat := 0
  plan : Nat := 0
  adapterId : Nat := 0xFFFF
  adapterVer : Nat := 0
  lpSlot : Nat := 0xFF
  bound : Bool := false
  bundle : Option (Nat × Nat × Nat × Nat) := none   -- address, BUNDLE_ID, COMMITTED, KIND
  deriving DecidableEq, Repr

/-- The input tokens of the latest submission that have been committed since the bundle, counted under COUNT_PROMPT (R269, R303). -/
def countedInput (x : EntryImg) : List Nat :=
  if (rpbParams x.rpb [] []).countPrompt then (x.toks.drop (x.from_ - x.origin)).take (Nat.min (x.base + x.nTok) x.committed - x.from_) else []

/-- One record applied to the images (R303). -/
def applyRec (s : State) (ims : List EntryImg) (r body : List Byte) : List EntryImg :=
  let idx := fld r 2 2
  let ty := fld r 0 1
  let old := ims.find? (fun x => x.idx == idx)
  let rest := ims.filter (fun x => x.idx != idx)
  let x : EntryImg := { old.getD { idx := idx } with tag := fld r 0x18 4 }
  let words (ofs n : Nat) : List Nat := (List.range n).map (fun k => fld body (ofs + 4 * k) 4)
  if ty = 2 then
    let rpb := slice body 16 2432
    let cont := bitAt (fld body 1 1) 0
    let lp := fld rpb 4 1
    let origin := if cont then x.origin else if lp = 0xFF then 0 else (s.lps[Fin.ofNat 64 lp]).len
    let base := if cont then x.committed else origin
    let jseq := fld r 8 8
    rest ++ [{ x with queue := fld body 0 1, jseq := fld r 8 8, rpb := rpb, first := if cont then x.first else rpb
                      nTok := fld body 4 4, got := 0, origin := origin, base := base, toks := x.toks.take (base - origin)
                      stream := [], genLeft := fld rpb 6 2, pending := 0xFFFFFFFF, st := 1
                      committed := base, counted := countedInput x ++ x.counted, from_ := base
                      subFirst := if x.subFirst = 0 then jseq else x.subFirst, subLast := jseq }]
  else if old.isNone ∧ ty ≠ 5 then ims
  else if ty = 7 then
    let n := fld body 4 4
    rest ++ [{ x with got := if fld body 0 4 = x.got then x.got + n else x.got, toks := x.toks ++ words 16 n }]
  else if ty = 3 then
    rest ++ [{ x with quote := fld body 0 8, tailQuote := fld body 8 8, plan := fld body 16 2, adapterId := fld body 18 2
                      adapterVer := fld body 20 4, lpSlot := fld body 24 1, bound := true }]
  else if ty = 4 then
    let ts := words 32 (fld body 24 4)
    let st := fld body 0 1
    rest ++ [{ x with st := st, left := if st = 5 ∨ st = 6 ∨ st = 7 then x.left else st, stop := fld body 1 1, status := fld body 2 2, committed := fld body 4 4
                      pending := fld body 8 4, genLeft := fld body 12 2, toks := x.toks ++ ts, stream := x.stream ++ ts
                      counted := x.counted ++ ts }]
  else if ty = 5 then
    let c := fld body 16 4
    rest ++ [{ x with bundle := some (fld body 0 8, fld body 8 8, c, fld body 20 1), origin := c
                      toks := x.toks.drop (c - x.origin), queue := fld body 21 1, jseq := if old.isSome then x.jseq else fld r 8 8
                      st := if fld body 20 1 = 2 then 7 else if old.isSome then x.st else if fld body 20 1 = 1 then 6 else 8
                      committed := if old.isSome then x.committed else c, counted := [], from_ := Nat.max c x.from_
                      bndLast := fld r 8 8 }]
  else if ty = 6 then rest
  else ims

/-- The records of one batch applied for an LD. -/
def applyBatch (s : State) (ld : LdId) (ims : List EntryImg) (batch : List Byte) : List EntryImg :=
  let bs := fromBegin batch
  let rs := splitRecs (bs.length / 16) 0 bs
  let jn := match rs.head? with
    | some (_, r) => slice r (32 + 16) 16
    | none => []
  rs.foldl (fun ims x =>
    if fld x.2 1 1 ≠ ld.val then ims
    else match openRec (materialOf s ld.val) jn x.2 with
      | some b => applyRec s ims x.2 b
      | none => ims) ims

/-- STATE codes of R233 as states. -/
def rqOfCode (c : Nat) : RqState :=
  nthD .free [.free, .queued, .admitted, .running, .generating, .parking, .parked, .lifting, .complete, .cancelled, .failed
              , .failedPartial] c

/-- The retained state that a park left (R303): the latest that the journal shows, or what the status tells. -/
def leftState (code status : Nat) : RqState :=
  if code = 8 ∨ code = 9 ∨ code = 11 then rqOfCode code
  else if status = 9 then .cancelled
  else if status = 0 ∨ status = 0x000A ∨ status = 0x0102 then .complete else .failedPartial

/-- One entry rebuilt from its image (R303). What no record holds is open: the drafts accepted before the reset (notes/assumptions/76.md). -/
def rebuildEntry (s : State) (ld : LdId) (x : EntryImg) : State :=
  let i := x.idx
  let p := rpbParams x.rpb [] []
  let own := if x.rpb.isEmpty then none else some p
  let fl := fld x.rpb 5 1
  let img := if x.first.isEmpty then 0xFFFF else fld x.first 0 2
  let aid := if x.bound then x.adapterId else if x.first.isEmpty then 0xFFFF else fld x.first 2 2
  let slot := if x.bound then adapterAt s aid x.adapterVer else readyAdapter s aid
  let lp := if x.bound then x.lpSlot else if x.first.isEmpty then 0xFF else fld x.first 4 1
  let st := rqOfCode x.st
  let bundleAt := match x.bundle with
    | some b => b.1
    | none => 0
  let e : Entry :=
    { state := .lifting, ld := ld.val, queue := x.queue, cls := regField s (qcfgOff x.queue) 11 10
      acceptRequote := true, retain := bitAt fl 1 || x.rpb.isEmpty, forest := bitAt fl 4, draft := bitAt fl 7, image := img
      adapterSlot := slot, lpSlot := if lp = 0xFF then none else some lp, adapterId := aid, plan := x.plan, tag := x.tag
      tSubmit := rqtNow s, ttft := fld x.rpb 8 4, tbt := fld x.rpb 12 4, quote := x.quote, quoteOrig := x.quote
      tailQuote := x.tailQuote, seedRng := p, genLeft := x.genLeft, stop := x.stop, status := x.status
      targetLen := x.base + x.nTok, bundle := bundleAt, committed := x.origin
      draftsAccepted := Config.draftsOf x.rpb (x.toks ++ x.stream) % 2 ^ 32 }
  let live := st == .queued || st == .admitted || st == .running || st == .generating
  let back : RqState := if st = .parking then leftState x.left x.status
    else if st = .lifting then .complete else st
  let target := match x.bundle with
    | some b => Nat.max x.committed b.2.2.1
    | none => x.committed
  let lpLen := lpLenOf s e
  let w : Work :=
    { tokens := (x.toks.drop (x.base - x.origin)).take x.nTok, counted := x.committed - x.base
      history := List.replicate (x.origin - lpLen) 0 ++ x.toks.take (x.committed - x.origin)
      tail := x.stream, generated := x.stream.length, place := live, changed := true
      subFirst := x.subFirst, subLast := x.subLast, bndLast := x.bndLast
      recover := some { state := back, committed := target, pending := if x.pending = 0xFFFFFFFF then none else some x.pending
                        genLeft := x.genLeft, params := own, draft := bitAt fl 7, addTok := countedInput x ++ x.counted } }
  let s := if live then setTen s ld { ten s ld with places := (ten s ld).places + 1 } else s
  if st = .parked then setWork (setEntry s i { e with state := .parked }) i { w with recover := none, place := false }
  else
    let s := setWork (setEntry s i e) i w
    match x.bundle with
    | some (a, id, _, _) =>
      let isLift := st == .lifting
      let s := if isLift then setWork s i { workOf s i with recover := none } else s
      { s with ops := s.ops ++ [{ entry := i, kind := 2, addr := a, len := 0, bundleId := BitVec.ofNat 64 id, committed := 0
                                  requote := true, startAt := rqtNow s }] }
    | none =>
      if aid ≠ 0xFFFF ∧ slot.isNone then recoverLost s i
      else if target ≤ lpLen then
        resumeEntry (setEntry s i { e with committed := lpLen }) i
          { state := back, committed := lpLen, pending := none, genLeft := x.genLeft, params := own, draft := bitAt fl 7, addTok := [] }
      else
        let frames := liftFrames (modelOf s e) (cdiv target 64 - lpLen / 64)
        let r := poolEvict (s.nodes.length + 1) s ld.val frames
        if r.2 then setWork r.1 i { workOf r.1 i with booking := frames } else recoverLost r.1 i

/-- LDs that have records in the batches. -/
def batchLds (bs : List (List Byte)) : List Nat :=
  bs.foldl (fun acc b => (splitRecs (b.length / 16) 0 b).foldl (fun acc x =>
    if fld x.2 1 1 < 16 then addN (fld x.2 1 1) acc else acc) acc) []

/-- Last JSEQ of the batches. -/
def lastJseq (bs : List (List Byte)) : Nat :=
  bs.foldl (fun m b => (splitRecs (b.length / 16) 0 b).foldl (fun m x => Nat.max m (fld x.2 8 8)) m) 0

/-- Whether bytes stand in a ring at some record's place. -/
def standsIn (ring b : List Byte) : Bool := (List.range (ring.length / 16)).any (fun k => slice ring (16 * k) b.length == b)

/-- Where recovery reads the ring (R303), with what may be taken from it: at the own node what stands in the region (R41), none of it
where the access is denied; at another node or in host memory what was read, once a path leads there (R318, R368). -/
def ringSource (s : State) : Option (State × (List Byte → Bool)) :=
  let a := regField s (bndReg 8) 63 12 * 4096
  let n := 2 ^ regField s (bndReg 0) 7 2
  if regField s (bndReg 0) 1 0 = 1 then
    if !s.pins.mld && busMaster s && hostUp s then some (s, fun _ => true) else none
  else if a / 2 ^ 52 ≠ ownNode s then
    if raileReach s (a / 2 ^ 52) then some (s, fun _ => true) else none
  else match railAccess s .rd (regionCtx s a) (ownNode s) (a % 2 ^ 52) n with
    | .error c => some (ownDenied s c, fun _ => false)
    | .ok (s, t, v) =>
      let s := devTouch s t v n
      some (s, standsIn (tvaReads s t v n))

/-- RECOVER_LD (R303): once an LD's key material is held, its entries are rebuilt from the complete batches; when every LD
with records is done, RECOVERING clears. -/
def execRecoverLd (ld : LdId) (batches : List (List Byte)) (s : State) : Host.Outcome State Fault Refusal :=
  if !recovering s ∨ s.jrnl.ldsDone.contains ld.val then .next s
  else match ringSource s with
  | none => .next s
  | some (s, held) =>
  let good := (batches.filter held).filter (batchComplete s)
  let need := batchLds good
  if need.contains ld.val ∧ (ten s ld).material.isNone then .next s
  else
    let ims := good.foldl (applyBatch s ld) []
    let whole := ims.filter (fun x => x.rpb.isEmpty || x.got == x.nTok)
    let s := (sortBy (fun a b => decide (a.jseq ≤ b.jseq)) whole).foldl (fun s x => rebuildEntry s ld x) s
    let done := addN ld.val s.jrnl.ldsDone
    let s := { s with jrnl := { s.jrnl with ldsDone := done } }
    if need.all (fun t => done.contains t) then
      .next (regPut (regSet s (bndReg 0x20) (lastJseq good + 1)) (bndReg 0x30) 2 2 0)
    else .next s

end Sys2Proof.Machine
end

