-- ==== Sys2Proof/Machine/Domain.lean ====
section
/-! DEFINITION. The tenant reset domain (12_faults_replay.md, R383 to R385; 14_security.md, R447): RESET_SELF, RESET_TENANT, SEC_KEY_CLEAR and
tenant faults. -/

namespace Sys2Proof.Machine

/-- Step 1 of a tenant reset (R384): reading and admission stop, and bundle writes of its entries stop (R289). An entry
whose operation stops keeps the completion place of that operation for its last record. -/
def tenantReset (s : State) (t : LdId) (ack : Option Mbox) : State :=
  let mine := s.ops.filter (fun o => (entryOf s o.entry).ld == t.val)
  let s := mine.foldl (fun s o =>
    let s := unstage (if o.kind = 2 then s else snapRefs s o.entry o false) o
    setWork (dropOp s o.entry) o.entry { workOf s o.entry with place := true }) s
  let u := ten s t
  setTen s t { u with resetting := true, resetAck := u.resetAck ++ ack.toList }

/-- An entry of a reset LD ends (R384 step 3): one completion record of status TENANT_RESET with the state FREE. -/
def resetEntry (s : State) (i : Nat) : State :=
  let s := releaseBookings (cutEntryItems s i) i
  let e := entryOf s i
  let w := workOf s i
  let s := postRecord s (ldId e.ld) (queId e.queue) (complRec s i { e with state := .free, status := 0x000B } w) true w.place
  freeEntry (setEntry s i { e with status := 0x000B }) i

/-- Steps 2 to 4 of a tenant reset, at the tick after it (R384): nothing of the LD runs on, its entries are FREE with one
record each, its flows are gone, vector 0 is sent and the command answers OK. -/
def tenantResetTick (s : State) (t : LdId) : State :=
  if !(ten s t).resetting then s
  else
    let s := (ldEntries s t.val).foldl (fun s p => resetEntry s p.1) s
    let s := { s with flows := s.flows.filter (fun f => f.ctx != t.val)
                      queues := s.queues.map (fun u => { u with waiting := u.waiting.filter (fun i => (lookupN i s.rqt).isSome) }) }
    let u := ten s t
    let s := setTen s t { u with resetting := false, resetAck := []
                                 resetNodes := (s.nodes.filter (fun n => n.ld == t.val)).map (·.idx) }
    let s := sendMsix s (ldFn s t.val) 0
    u.resetAck.foldl (fun s m => reply s m 0 (bruahOut 0 [])) s

/-- Step 5 of a tenant reset, at the headland (R384): the tree partition that the reset found is released, which is no
eviction (R277). -/
def tenantResetHeadland (s : State) (t : LdId) : State :=
  let u := ten s t
  let s := regSet (u.resetNodes.foldl (fun s i => removeSubtree (s.nodes.length + 1) s i) s) (rqtReg 0x100050) (regGet s (rqtReg 0x100050))
  setTen s t { ten s t with resetNodes := [] }

/-- A tenant's keys are cleared (R385, R447). -/
def clearKeys (s : State) (t : LdId) : State :=
  setMaterial s t none 0 (framesOf s (.pool t.val) ++ framesOf s (.window t.val))

/-- A tenant fault (R385): recorded, the keys cleared where a key error caused it, and the domain reset. -/
def tenantFault (s : State) (t : LdId) (source unit code : Nat) (keyErr : Bool) : State :=
  let s := logFault s { cls := 3, domain := 1, source := source, unit := unit, code := code, fseq := 0, furrow := 0
                        clk := nowClk s, ld := t.val }
  tenantReset (if keyErr then clearKeys s t else s) t none

/-- RESET_SELF (R353, R384). The answer comes at the tick (step 4). -/
def resetCmd (c : Cmd) (m : Mbox) (p : List Byte) (s : State) : Host.Outcome State Fault Refusal :=
  if !mboxLive s m then .next s
  else match gate s c m p false with
    | .error (ret, r) => .next (reply s m ret (if ret = 0 then bruahOut r [] else []))
    | .ok t => .next (tenantReset s t (some m))

/-- RESET_SELF (R384). -/
def execResetSelf (m : Mbox) (p : List Byte) (s : State) : Host.Outcome State Fault Refusal := resetCmd {} m p s
/-- RESET_TENANT (R384). -/
def execResetTenant (m : Mbox) (p : List Byte) (s : State) : Host.Outcome State Fault Refusal :=
  resetCmd { owner := true, named := true } m p s

/-- SEC_KEY_CLEAR (R447): each bit resets an LD's domain and clears every key derived from its material. -/
def execSecKeyClear (mask : BitVec 16) (s : State) : Host.Outcome State Fault Refusal :=
  if !alive s then .next s
  else .next (forLds s (fun s t => if mask.getLsbD t.val then tenantReset (clearKeys s t) t none else s))

end Sys2Proof.Machine
end

