-- ==== Sys2Proof/Machine/HostIf.lean ====
section
/-! DEFINITION. The host interface (11_host_cxl.md): queue pairs, requests and status by mailbox, windows, the CXL commands, the fabric
manager's commands, HDM decoders, CXL.mem, queue and LD registers, DOE and IDE. -/

namespace Sys2Proof.Machine

/-! ### Queries -/

/-- PART and STEPPING of the part (R353): "IKB7240 " or "IKB7236 ", then "B1". -/
def partText (s : State) : List Byte :=
  ascii [73, 75, 66, 55, 50] ++ (match s.fuses.part with
    | .ikb7240 => ascii [52, 48]
    | .ikb7236 => ascii [51, 54]) ++ ascii [32]

/-- QUEUES of QUERY_DEVICE: the enabled queues of an LD. -/
def queueMask (s : State) (t : Nat) : Nat :=
  sumN ((List.range 128).map (fun q => if queueOn s q ∧ queueLd s q = t then 2 ^ q else 0))

/-- QUERY_DEVICE (R353). -/
def execQueryDevice (m : Mbox) (p : List Byte) (s : State) : Host.Outcome State Fault Refusal :=
  bruah { i3c := true, onStop := true, onRec := true } m p false s (fun t s =>
    (s, 0, partText s ++ ascii [0x42, 0x31] ++ toLE 2 (ownNode s) ++ toLE 1 (s.tick.lenM1 + 1) ++ toLE 1 (popc 64 (geoArrays s))
      ++ toLE 2 (regField s (ldRqtOff t.val) 12 0) ++ toLE 4 (ten s t).window.length ++ toLE 4 (poolLimit s t.val)
      ++ toLE 16 (queueMask s t.val)))

/-- QUERY_REQUEST (R353): the 256 bytes of the entry. -/
def execQueryRequest (m : Mbox) (p : List Byte) (s : State) : Host.Outcome State Fault Refusal :=
  bruah { len := 0x0C } m p false s (fun t s =>
    match byTag s t.val (fld p 8 4) with
    | some (i, e) => (s, 0, entryBytes s i e)
    | none => (s, 3, []))

/-- LD_STATUS (R353). -/
def execLdStatus (m : Mbox) (p : List Byte) (s : State) : Host.Outcome State Fault Refusal :=
  bruah { onStop := true, onRec := true } m p false s (fun t s =>
    (s, 0, toLE 2 (ldEntries s t.val).length ++ toLE 2 0 ++ toLE 4 (poolUsed s t.val) ++ toLE 4 (poolBooked s t.val) ++ toLE 4 0
      ++ toLE 8 (regGet s (pwrReg (0x200 + 8 * t.val)))))

/-! ### Requests -/

/-- A cancel noted (R237): one that arrives in the window's last furrow waits for the following headland (R224). -/
def noteCancel (s : State) (i : Nat) : State :=
  let e := entryOf s i
  if e.cancelPending then s
  else setEntry (setWork s i { workOf s i with cancelLate := lateChange s }) i { e with cancelPending := true }

/-- CANCEL (R237). -/
def execCancel (m : Mbox) (p : List Byte) (s : State) : Host.Outcome State Fault Refusal :=
  bruah { len := 0x0C } m p false s (fun t s =>
    match byTag s t.val (fld p 8 4) with
    | none => (s, 3, [])
    | some (i, e) =>
      match e.state with
      | .queued => (noteCancel s i, 0, [])
      | .admitted => (noteCancel s i, 0, [])
      | .running => (noteCancel s i, 0, [])
      | .generating => (noteCancel s i, 0, [])
      | .parking => (s, 2, [])
      | .parked => (s, 2, [])
      | .lifting => (s, 2, [])
      | _ => (regBump s (rqtReg 0x100030) 1, 1, []))

/-- RELEASE (R235, R353): a retained or PARKED entry becomes FREE at the next headland. -/
def execReleaseRequest (m : Mbox) (p : List Byte) (s : State) : Host.Outcome State Fault Refusal :=
  bruah { len := 0x0C } m p false s (fun t s =>
    match byTag s t.val (fld p 8 4) with
    | none => (s, 3, [])
    | some (i, e) =>
      if (opOf s i).isSome then (s, 0x0A, [])
      else if retained e || e.state == .parked then (setWork s i { workOf s i with releaseReq := true, freeLate := lateChange s }, 0, [])
      else (s, 9, []))

/-! ### Queue pairs -/

/-- Whether CREATE_QP's parameters keep R353 and R355. -/
def qpParams (s : State) (p : List Byte) : Bool :=
  let v := fld p 9 1
  let sl := fld p 0x0A 1
  let cl := fld p 0x0B 1
  let sq := fld p 0x10 8
  let cq := fld p 0x18 8
  (if s.pins.mld then decide (1 ≤ v) && decide (v ≤ 31) else decide (2 ≤ v) && decide (v ≤ 63))
  && decide (4 ≤ sl) && decide (sl ≤ 16) && decide (4 ≤ cl) && decide (cl ≤ 16)
  && decide (fld p 0x0C 2 ≤ 1024) && decide (fld p 0x0E 2 ≤ 1000) && sq % 4096 == 0 && cq % 4096 == 0
  && decide (sq + 128 * 2 ^ sl ≤ 2 ^ 47) && decide (cq + 64 * 2 ^ cl ≤ 2 ^ 47)
  && (decide (sq + 128 * 2 ^ sl ≤ cq) || decide (cq + 64 * 2 ^ cl ≤ sq))

/-- Doorbell slots of an LD that are free, lowest first. -/
def freeSlot (s : State) (t : LdId) : Option Nat :=
  (List.range 8).find? (fun k => (nthD none (ten s t).doorbells k).isNone)

/-- CREATE_QP (R355). -/
def execCreateQp (m : Mbox) (p : List Byte) (s : State) : Host.Outcome State Fault Refusal :=
  bruah { len := 0x20 } m p false s (fun t s =>
    let q := fld p 8 1
    if 128 ≤ q ∨ queueLd s q ≠ t.val ∨ !queueOn s q then (s, 4, [])
    else if !qpParams s p then (s, 5, [])
    else if (que s (queId q)).pair then (s, 6, [])
    else match freeSlot s t with
      | none => (s, 7, [])
      | some k =>
        let u := que s (queId q)
        let s := tvaStore s t (fld p 0x18 8) (List.replicate (64 * 2 ^ fld p 0x0B 1) 0)
        let s := setQue s (queId q)
          { u with pair := true, slot := k, vector := fld p 9 1, sqLog2 := fld p 0x0A 1, cqLog2 := fld p 0x0B 1
                   coalRecords := fld p 0x0C 2, coalUs := fld p 0x0E 2, sqTva := fld p 0x10 8, cqTva := fld p 0x18 8
                   sqHead := 0, sqTail := 0, cqHead := 0, written := 0, announced := 0, complNew := false, timerOn := false }
        let s := setTen s t { ten s t with doorbells := (ten s t).doorbells.set k (some q), dbErr := (ten s t).dbErr.set k false }
        (drainOver s t (queId q) (ten s t).overflow.length, 0, toLE 1 k))

/-- DELETE_QP (R362). -/
def execDeleteQp (m : Mbox) (p : List Byte) (s : State) : Host.Outcome State Fault Refusal :=
  bruah { len := 9 } m p false s (fun t s =>
    let q := fld p 8 1
    if 128 ≤ q ∨ queueLd s q ≠ t.val ∨ !(que s (queId q)).pair then (s, 4, [])
    else if s.rqt.any (fun x => x.2.state != .free && x.2.queue == q) || queueWaits (ten s t) q then (s, 6, [])
    else
      let k := (que s (queId q)).slot
      let s := setQue s (queId q) { deficit := (que s (queId q)).deficit }
      (setTen s t { ten s t with doorbells := (ten s t).doorbells.set k none, dbErr := (ten s t).dbErr.set k false }, 0, []))

/-! ### Windows -/

/-- Whether the 32 frames of a 2 MiB unit of DPA are FREE. -/
def unitFree (s : State) (u : Nat) : Bool := (List.range 32).all (fun k => frameTag s (32 * u + k) == .free)

/-- The lowest `n` FREE units from unit `u` up. -/
def unitsFrom (s : State) : (fuel n u : Nat) → List Nat
  | 0, _, _ => []
  | f + 1, n, u =>
    if n = 0 ∨ reserveFrame s ≤ 32 * u then []
    else if unitFree s u then u :: unitsFrom s f (n - 1) (u + 1)
    else unitsFrom s f n (u + 1)

/-- An LD's window resized (R347): units are appended at the top, zeroed, or the highest are removed; none where the FREE
frames that nobody has booked cannot hold it. -/
def resizeWindow (s : State) (t : LdId) (units : Nat) : Option State :=
  let w := (ten s t).window
  if units ≤ w.length then
    let s := (w.drop units).foldl (fun s u => (List.range 32).foldl (fun s k => setTag s (32 * u + k) .free) s) s
    some (setTen s t { ten s t with window := w.take units })
  else
    let n := units - w.length
    let new := unitsFrom s (n + s.tags.length) n 0
    if new.length < n ∨ freeCount s < allBooked s + 32 * n then none
    else
      let s := new.foldl (fun s u => (List.range 32).foldl (fun s k => giveFrame s (32 * u + k) (.window t.val)) s) s
      some (setTen s t { ten s t with window := w ++ new })

/-- SET_WINDOW (R347, R353). -/
def execSetWindow (m : Mbox) (p : List Byte) (s : State) : Host.Outcome State Fault Refusal :=
  bruah { owner := true, named := true, len := 0x0C } m p false s (fun t s =>
    match resizeWindow s t (fld p 8 4) with
    | some s => (s, 0, toLE 4 (ten s t).window.length)
    | none => (s, 8, toLE 4 (ten s t).window.length))

/-- SET_SLD_SPAN (R343, R353). -/
def execSetSldSpan (m : Mbox) (p : List Byte) (s : State) : Host.Outcome State Fault Refusal :=
  bruah { owner := true, len := 9 } m p false s (fun _ s =>
    let v := fld p 8 1
    if s.pins.mld ∨ (List.finRange 16).any (fun t => !(ten s t).window.isEmpty) then (s, 9, [])
    else if v < 30 ∨ 40 < v then (s, 5, [])
    else ({ s with pins := { s.pins with sldSpan := v } }, 0, []))

/-! ### CXL-defined commands -/

/-- Whether a CXL-defined command is answered now, and with what code it is turned away (R349, R367): firmware must run (Get
Health Info is served after a FATAL BIST too, R460), an owner's command needs the owner's mailbox, and a stop leaves only Get Health Info
there and over I3C (R420; the code is Busy, notes/assumptions/21.md). `health` is Get Health Info, which I3C serves (R369). -/
def cxlGate (s : State) (m : Mbox) (ownerOnly health : Bool) : Nat :=
  let tenantBox := match m with
    | .tenant _ => true
    | _ => false
  if !s.fw.running && !(health && s.fw.rom && m == .owner && regField s (bistReg 0) 2 2 == 1) then 5
  else if (tenantBox && ownerOnly) || (m == .i3c && !health) then 3
  else if stopped s && !(health && !tenantBox) then 6 else 0

/-- A CXL-defined command: its answer, or the code with which it is turned away. -/
def cxlCmd (s : State) (m : Mbox) (ownerOnly health : Bool) (f : State → State × Nat × List Byte) :
    Host.Outcome State Fault Refusal :=
  if !mboxLive s m then .next s
  else
    let g := cxlGate s m ownerOnly health
    if g ≠ 0 then .next (reply s m g [])
    else
      let x := f s
      .next (reply x.1 m x.2.1 x.2.2)

/-- Window bytes that a mailbox's Identify reports (R346): its LD's window, or every window on the owner's mailbox, each
rounded down to 256 MiB. -/
def identifyBytes (s : State) (m : Mbox) : Nat :=
  let cap (t : LdId) : Nat := (ten s t).window.length / 128
  match m with
  | .tenant t => cap t
  | _ => sumN ((List.finRange 16).map cap)

/-- IDENTIFY_MEMORY_DEVICE (R346, R367). The boot ROM serves it on the owner mailbox. -/
def execIdentifyMemoryDevice (m : Mbox) (s : State) : Host.Outcome State Fault Refusal :=
  if !mboxLive s m then .next s
  else if m = .i3c then .next (reply s m 3 [])
  else if !s.fw.running ∧ !(s.fw.rom && m == .owner) then .next (reply s m 5 [])
  else if s.fw.running ∧ stopped s then .next (reply s m 6 [])
  else
    let n := identifyBytes s m
    .next (reply s m 0 (slice s.fw.revision 0 16 ++ toLE 8 n ++ toLE 8 n ++ toLE 8 0 ++ toLE 8 0 ++ List.replicate 21 0))

/-- Event records of a mailbox (R349, R393). -/
def eventsOf (s : State) : Mbox → List (List Byte)
  | .tenant t => (ten s t).events
  | _ => s.faults.ownerEvents

/-- GET_EVENT_RECORDS (R349). -/
def execGetEventRecords (m : Mbox) (s : State) : Host.Outcome State Fault Refusal :=
  cxlCmd s m false false (fun s => (s, 0, toLE 2 (eventsOf s m).length ++ (eventsOf s m).flatten))

/-- CLEAR_EVENT_RECORDS (R349). -/
def execClearEventRecords (m : Mbox) (upTo : Nat) (s : State) : Host.Outcome State Fault Refusal :=
  cxlCmd s m false false (fun s =>
    (match m with
      | .tenant t => setTen s t { ten s t with events := (ten s t).events.drop upTo }
      | _ => { s with faults := { s.faults with ownerEvents := s.faults.ownerEvents.drop upTo } }, 0, []))

/-- A mailbox's event interrupt policy. -/
def policyOf (s : State) (m : Mbox) : Nat := ((s.faults.eventPolicy.find? (fun x => x.1 == m)).map (·.2.toNat)).getD 0

/-- GET_EVENT_INTERRUPT_POLICY (R349). -/
def execGetEventInterruptPolicy (m : Mbox) (s : State) : Host.Outcome State Fault Refusal :=
  cxlCmd s m false false (fun s => (s, 0, toLE 4 (policyOf s m)))

/-- SET_EVENT_INTERRUPT_POLICY (R349). -/
def execSetEventInterruptPolicy (m : Mbox) (policy : BitVec 32) (s : State) : Host.Outcome State Fault Refusal :=
  cxlCmd s m false false (fun s =>
    ({ s with faults := { s.faults with
        eventPolicy := s.faults.eventPolicy.filter (fun x => x.1 != m) ++ [(m, policy)] } }, 0, []))

/-- Opcodes of the command effects log of a mailbox (R349, R353). -/
def celOpcodes (m : Mbox) : List Nat :=
  let all := [0x4000, 0x0100, 0x0101, 0x0102, 0x0103, 0x0400, 0x0401, 0x4200, 0x0300]
  let bruahT := (List.range 11).map (0xC000 + ·) ++ [0xC020]
  match m with
  | .tenant _ => all ++ bruahT
  | _ => all ++ [0x0301, 0x0200, 0x0201, 0x0202] ++ bruahT ++ (List.range 14).map (0xC100 + ·) ++ [0xC1F0, 0xC1F1]

/-- Identifier of the command effects log (notes/assumptions/26.md). -/
def celUuid : List Byte :=
  ascii [0x0D, 0xA9, 0xC0, 0xB5, 0xBF, 0x41, 0x4B, 0x78, 0x8F, 0x79, 0x96, 0xB1, 0x62, 0x3B, 0x3F, 0x17]

/-- GET_SUPPORTED_LOGS (R349): the command effects log alone. -/
def execGetSupportedLogs (m : Mbox) (s : State) : Host.Outcome State Fault Refusal :=
  cxlCmd s m false false (fun s => (s, 0, toLE 2 1 ++ toLE 6 0 ++ celUuid ++ toLE 4 (4 * (celOpcodes m).length)))

/-- GET_CXL_LOG (R349): the command effects log. -/
def execGetCxlLog (m : Mbox) (s : State) : Host.Outcome State Fault Refusal :=
  cxlCmd s m false false (fun s => (s, 0, (celOpcodes m).flatMap (fun o => toLE 2 o ++ toLE 2 0)))

/-- Junction temperature: the highest die sensor reading (R416). -/
def junction (s : State) : Nat :=
  Nat.max (maxN (s.arrays.toList.map (fun u => u.care.temp))) (maxN ((s.temps.filter (fun p => p.1 < 80)).map (·.2)))

/-- GET_HEALTH_INFO (R349, R369). -/
def execGetHealthInfo (m : Mbox) (s : State) : Host.Outcome State Fault Refusal :=
  cxlCmd s m false true (fun s =>
    (s, 0, toLE 1 (b2n (halted s || regField s (bistReg 0) 2 2 == 1) * 4) ++ toLE 1 0 ++ toLE 1 0 ++ toLE 1 0xFF
      ++ toLE 2 (junction s) ++ toLE 4 0 ++ toLE 4 (regGet s (fltReg 0x50)) ++ toLE 4 0))

/-- The timestamp now, in ns: what Set Timestamp gave, and the time since (R349); 0 while never set. -/
def timestampNow (s : State) : Nat := match s.timestamp with
  | some t => (t.toNat + 10 * rqtNow s) % 2 ^ 64
  | none => 0

/-- GET_TIMESTAMP (R349). -/
def execGetTimestamp (m : Mbox) (s : State) : Host.Outcome State Fault Refusal :=
  cxlCmd s m false false (fun s => (s, 0, toLE 8 (timestampNow s)))

/-- SET_TIMESTAMP (R349), the owner's. -/
def execSetTimestamp (m : Mbox) (ns : BitVec 64) (s : State) : Host.Outcome State Fault Refusal :=
  cxlCmd s m true false (fun s => ({ s with timestamp := some (ns - BitVec.ofNat 64 (10 * rqtNow s)) }, 0, []))

/-! ### The fabric manager's commands (R340, R347, R447) -/

/-- GET_LD_INFO (R340): memory size and LD count of the MLD. -/
def execGetLdInfo (m : Mbox) (s : State) : Host.Outcome State Fault Refusal :=
  cxlCmd s m true false (fun s => if s.pins.mld then (s, 0, toLE 8 (hbmCap s) ++ toLE 2 16) else (s, 3, []))

/-- GET_LD_ALLOCATIONS (R340): the windows in units of 256 MiB, range 1 only. -/
def execGetLdAllocations (m : Mbox) (s : State) : Host.Outcome State Fault Refusal :=
  cxlCmd s m true false (fun s =>
    if s.pins.mld then
      (s, 0, toLE 1 16 ++ toLE 1 0 ++ toLE 1 16 ++ toLE 1 0
        ++ (List.finRange 16).flatMap (fun t => toLE 8 ((ten s t).window.length / 128) ++ toLE 8 0))
    else (s, 3, []))

/-- Windows of successive LDs resized; none where one cannot be. -/
def resizeAll (s : State) : (t : Nat) → List Nat → Option State
  | _, [] => some s
  | t, u :: us => if 16 ≤ t then none else match resizeWindow s (ldId t) (128 * u) with
    | some s => resizeAll s (t + 1) us
    | none => none

/-- SET_LD_ALLOCATIONS (R347, R447): an LD left without capacity loses its keys and its domain is reset. -/
def execSetLdAllocations (m : Mbox) (start : Nat) (units : List Nat) (s : State) : Host.Outcome State Fault Refusal :=
  cxlCmd s m true false (fun s =>
    if !s.pins.mld then (s, 3, [])
    else match resizeAll s start units with
      | none => (s, 2, [])
      | some s' =>
        let gone := (List.range units.length).filter (fun k => nthD 0 units k == 0 && !(ten s (ldId (start + k))).window.isEmpty)
        (gone.foldl (fun s k => tenantReset (clearKeys s (ldId (start + k))) (ldId (start + k)) none) s', 0, []))

/-! ### HDM decoders and CXL.mem -/

/-- HDM_DECODER_COMMIT (R346): only 1 way commits. -/
def execHdmDecoderCommit (ld : LdId) (dec : Fin 2) (ways base size : Nat) (s : State) : Host.Outcome State Fault Refusal :=
  if !alive s then .next s
  else
    let u := ten s ld
    if ways = 1 then
      .next (setTen s ld { u with hdm := u.hdm.set dec.val (some (base, size)), hdmErr := u.hdmErr.set dec.val false })
    else .next (setTen s ld { u with hdmErr := u.hdmErr.set dec.val true })

/-- The LD offset to which an LD's HDM decoders map a host physical address (R346): the first maps from 0 up, the second from where
the first ends; none where neither maps it. -/
def hdmOffset (u : Tenant) (hpa : Nat) : Option Nat :=
  let range (k : Nat) : Nat × Nat := (nthD none u.hdm k).getD (0, 0)
  let a := range 0
  let b := range 1
  if a.1 ≤ hpa ∧ hpa < a.1 + a.2 then some (hpa - a.1)
  else if b.1 ≤ hpa ∧ hpa < b.1 + b.2 then some (a.2 + (hpa - b.1))
  else none

/-- The LD and LD offset of a host address (R342, R343, R346); none where no decoder maps it or the device runs in the other mode. The
SLD decodes with LD 0's decoders, and its offsets beyond the sixteen windows lie beyond LD 15's (notes/assumptions/90.md). -/
def hostTarget (s : State) : HostAddr → Option (LdId × Nat)
  | .ld t hpa => if s.pins.mld then (hdmOffset (ten s t) hpa).map (fun o => (t, o)) else none
  | .sld hpa =>
    if s.pins.mld then none
    else (hdmOffset (ten s 0) hpa).map (fun o =>
      let t := Nat.min 15 (o / 2 ^ s.pins.sldSpan)
      (ldId t, o - t * 2 ^ s.pins.sldSpan))

/-- Whether CXL.mem is answered (R340, R393): on a link that carries traffic, and on which it is enabled. -/
def cxlUp (s : State) : Bool := hostUp s && s.pins.memEn

/-- Whether CXL.mem reaches HBM at all: not in HALTED, not during a stop (R388, R420). -/
def memOpen (s : State) : Bool := !halted s && !stopped s

/-- The poison answer of a read. -/
def cxlPoison (s : State) : State := { s with cxl := { poison := true } }

/-- CXL_MEM_READ (R23, R35, R159, R340, R380, R440): window data through the mere cache with NO_ALLOC, or poison. MemInv is answered
without data, and MemSpecRd has no effect. -/
def execCxlMemRead (addr : HostAddr) (req : MemRead) (s : State) : Host.Outcome State Fault Refusal :=
  if !cxlUp s ∨ req.kind = .memSpecRd then .next s
  else match hostTarget s addr with
    | none => .next s
    | some (t, off) =>
      if !memOpen s then .next (cxlPoison s)
      else match windowDpa s t off, windowDpa s t (off + req.len - 1) with
        | some _, some _ =>
          if req.kind = .memInv then .next { s with cxl := {} }
          else
            let s := meterWindow (peerTouch s t off req.len) t req.len
            if (ten s t).material.isNone then .next (cxlPoison s)
            else if tvaPoisoned s t off req.len then
              .next (cxlPoison (mediaEvent (regBump s (fltReg (0x108 + 16 * t.val)) 1) t off))
            else .next { s with cxl := { bytes := tvaReads s t off req.len } }
        | _, _ => .next (cxlPoison (windowMiss s t off))

/-- The bytes of a request with data stored at an LD offset: all of them, or those that MemWrPtl enables. -/
def memWrStore (s : State) (t : LdId) (off : Nat) (req : MemWrite) : State :=
  match req.enables with
  | none => tvaStore s t off req.bytes
  | some es => (List.range req.bytes.length).foldl (fun s k =>
      if nthD false es k then tvaStore s t (off + k) [nthD 0 req.bytes k] else s) s

/-- CXL_MEM_WRITE (R23, R35, R340, R372, R440): the bytes reach the window, or are discarded; the completion carries no data. -/
def execCxlMemWrite (addr : HostAddr) (req : MemWrite) (s : State) : Host.Outcome State Fault Refusal :=
  if !cxlUp s then .next s
  else match hostTarget s addr with
    | none => .next s
    | some (t, off) =>
      let s := { s with cxl := {} }
      if !memOpen s then .next s
      else match windowDpa s t off, windowDpa s t (off + req.bytes.length - 1) with
        | some _, some _ => .next (if (ten s t).material.isNone then s else memWrStore (meterWindow s t req.bytes.length) t off req)
        | _, _ => .next (windowMiss s t off)

/-! ### Queue and LD registers -/

/-- QCFG_WRITE (R277, R356). -/
def execQcfgWrite (q : Fin 128) (val : Reg64) (s : State) : Host.Outcome State Fault Refusal :=
  if !alive s then .next s
  else
    let v := val.toNat
    let o := qcfgOff q.val
    let named := s.rqt.any (fun x => x.2.state != .free && x.2.queue == q.val)
    let fixed := queueOn s q.val || (que s q).pair || named
    let ld := if fixed then queueLd s q.val else bits v 15 12
    let cls := Nat.max (bits v 11 10) (regField s (ldRqtOff ld) 15 14)
    let weight := Nat.max 1 (bits v 7 0)
    .next (regSet s o (bits v 16 16 * 2 ^ 16 + ld * 2 ^ 12 + cls * 2 ^ 10 + weight))

/-- LD_RQT_WRITE (R231, R241, R277): RQT_LIMIT stops at 4,096, and the LD's queues hold no class below MIN_CLASS. -/
def execLdRqtWrite (ld : LdId) (val : Reg64) (s : State) : Host.Outcome State Fault Refusal :=
  if !alive s then .next s
  else
    let v := val.toNat
    let mc := bits v 15 14
    let s := regSet s (ldRqtOff ld.val) (mc * 2 ^ 14 + Nat.min 4096 (bits v 12 0))
    .next ((List.range 128).foldl (fun s q =>
      if queueLd s q = ld.val ∧ regField s (qcfgOff q) 11 10 < mc then regPut s (qcfgOff q) 11 10 mc else s) s)

/-- LD_POOL_LIMIT_WRITE (R248). -/
def execLdPoolLimitWrite (ld : LdId) (val : Reg64) (s : State) : Host.Outcome State Fault Refusal :=
  if !alive s then .next s else .next (regSet s (ldPoolOff ld.val) (bits val.toNat 31 0))

/-! ### DOE and IDE -/

/-- Whether a function's DOE mailbox exists. -/
def doeLive (s : State) : Mbox → Bool
  | .owner => alive s && s.pins.hostLink
  | .tenant _ => alive s && s.pins.hostLink && s.pins.mld
  | .i3c => false

/-- TABLE_ACCESS (R366): a CDAT with one DSMAS over the window and two DSLBIS, 700 ns and 55 GB/s each way. -/
def execTableAccess (m : Mbox) (s : State) : Host.Outcome State Fault Refusal :=
  if !doeLive s m then .next s
  else
    let size := match m with
      | .tenant t => (ten s t).window.length * 2 ^ 21
      | _ => 16 * 2 ^ s.pins.sldSpan
    let dslbis (ty unit v : Nat) : List Byte :=
      toLE 1 1 ++ toLE 1 0 ++ toLE 2 24 ++ toLE 1 0 ++ toLE 1 0 ++ toLE 1 ty ++ toLE 1 0 ++ toLE 8 unit ++ toLE 2 v ++ toLE 6 0
    let cdat := toLE 1 0 ++ toLE 1 0 ++ toLE 2 24 ++ toLE 1 0 ++ toLE 3 0 ++ toLE 8 0 ++ toLE 8 size
      ++ dslbis 1 1000 700 ++ dslbis 4 1000 55 ++ dslbis 5 1000 55
    .next (send s (.doe (.doe m) cdat))

/-- DOE_DISCOVERY (R340): Discovery, CMA-SPDM, secured CMA-SPDM, CXL Table Access. -/
def execDoeDiscovery (m : Mbox) (s : State) : Host.Outcome State Fault Refusal :=
  if !doeLive s m then .next s
  else .next (send s (.doe (.doe m)
    ((toLE 2 1 ++ toLE 1 0) ++ (toLE 2 1 ++ toLE 1 1) ++ (toLE 2 1 ++ toLE 1 2) ++ (toLE 2 0x1E98 ++ toLE 1 2))))

/-- The messages that an insecure link held back are sent (R363, R393). -/
def flushAll (s : State) : State := s.fns.foldl (fun s p => flushMsix s p.1) s

/-- IDE_KM (R365, R442): inside an SPDM session of the port's function the keys are installed with the mode that the host chose, and an
insecure link is keyed again. -/
def execIdeKm (session : Option Nat) (keys : IdeKeys) (s : State) : Host.Outcome State Fault Refusal :=
  match session with
  | some n =>
    if alive s && s.sec.sessions.any (fun x => x.2 == n && (match x.1 with
        | .doe _ => true
        | .i3c => false)) then
      .next (flushAll { s with sec := { s.sec with ideKeyed := true, ideKeys := keys.keys, ideSkid := keys.skid, ideInsecure := false } })
    else .next s
  | none => .next s

/-- IDE_FAIL (R365, R393): the link is insecure and its traffic but DOE stops; logged as DEVICE_FAULT with DOMAIN 0. -/
def execIdeFail (s : State) : Host.Outcome State Fault Refusal :=
  if !alive s ∨ !s.sec.ideKeyed then .next s
  else
    let s := { s with sec := { s.sec with ideInsecure := true, ideKeyed := false } }
    .next (logFault s { cls := 4, domain := 0, source := 0x0A, unit := 0, code := 0x000D, fseq := 0, furrow := 0, clk := nowClk s })

/-! ### Background completion -/

/-- What a completed load makes visible: an image, an adapter slot with its predecessor RETIRING (R257), or a
learned-prefix slot with its digest (R286). -/
def finishLoad (s : State) (op a : Nat) : State :=
  if op = 0xC101 then
    { s with images := s.images.set (Fin.ofNat 16 a) ((s.images[Fin.ofNat 16 a]).map (fun x => { x with ready := true })) }
  else if op = 0xC103 then
    let x := s.adapters[Fin.ofNat 32 a]
    let old := s.adapters.map (fun y => if y.st = .ready ∧ y.id = x.id then { y with st := .retiring } else y)
    reapAdapters { s with adapters := old.set (Fin.ofNat 32 a) { x with st := .ready } }
  else if op = 0xC105 then
    let l := s.lps[Fin.ofNat 64 a]
    let m := modelInfo (imgRd s l.handle)
    let n := l.len / 64 * m.layers * 2 ^ m.pageLog2
    let parts := (List.range (cdiv n 65536)).map (fun k => (nthD 0 l.frames k * 65536, Nat.min 65536 (n - 65536 * k)))
    let s := parts.foldl (fun s x => memTouch s x.1 x.2) s
    let s := (parts.filter (fun x => poisoned s x.1 x.2)).foldl (fun s x => damageFrame s (x.1 / 65536)) s
    let l := s.lps[Fin.ofNat 64 a]
    let bs := parts.flatMap (fun x => memReads s x.1 x.2)
    { s with lps := s.lps.set (Fin.ofNat 64 a) { l with st := .ready, digest := sha384 bs } }
  else s

/-- Whether a load still waits for its source (R318, R368): a node to which no path leads, or host memory without Bus Master Enable. -/
def srcWaits (s : State) (x : Nat × Nat) : Bool :=
  (x.1 == 1 && x.2 != ownNode s && !raileReach s x.2) || (x.1 == 2 && !(busMaster s && hostUp s))

/-- BACKGROUND_COMMAND_COMPLETE (R348, R363): the background command status register reports the outcome, and vector 0 of the function is sent. An Activate FW in the
background completes with the power-up BIST (R460). -/
def execBackgroundCommandComplete (m : Mbox) (s : State) : Host.Outcome State Fault Refusal :=
  let b := mboxOf s m
  match b.bg with
  | none => .next s
  | some (op, a, ok) =>
    if op = 0x0202 ∨ (ok = 1 ∧ srcWaits s b.bgSrc) then .next s
    else
    let s := if ok = 1 then finishLoad s op a else s
    .next (sendMsix (setMbox s m { mboxOf s m with bg := none, bgPct := 100 }) m 0)

end Sys2Proof.Machine
end

