-- ==== Sys2Proof/Machine/Fetch.lean ====
section
/-! DEFINITION. The fetch engines (05_scratchpad_fetch.md, R146 to R157, R160): READ, WRITE, BURST, FAULT_RESUME,
DESCRIPTOR_COMPLETE, and the cache mode's CLD and CACHE_FILL (R135, R136, R165). -/

namespace Sys2Proof.Machine

/-! ### Descriptors in their slots -/

/-- The descriptor in a slot. -/
def slotDesc (s : State) (f : FeId) (k : Fin 64) : Option DescRun := lookupN k.val (fe s f).slots

/-- A slot's descriptor replaced. -/
def setSlot (s : State) (f : FeId) (k : Fin 64) (d : DescRun) : State :=
  setFe s f { fe s f with slots := insertN k.val d (fe s f).slots }

/-- The ring of a descriptor; 6 and 7 are reserved and name none. -/
def descRing (d : Desc) : Option (Fin 6) := if h : d.ring < 6 then some ⟨d.ring, h⟩ else none

/-- The tenant of a work item's transfers. -/
def itemTenant (s : State) (w : ItemRun) : LdId := ldId (itemLd s w)

/-- Whether every run of a descriptor has been moved: the outermost position has passed its count, or a used count is 0
(R148, R149). -/
def descMoved (d : DescRun) : Bool := descRuns d.desc == 0 || decide (dimCount d.desc 4 ≤ nthD 0 d.pos 4)

/-- Carry from dimension `k` outward after a run has ended. -/
def posCarry (d : Desc) : (n k : Nat) → List Nat → List Nat
  | 0, _, p => p
  | n + 1, k, p =>
    let v := nthD 0 p k + 1
    if v < dimCount d k ∨ k = 4 then p.set k v else posCarry d n (k + 1) (p.set k 0)

/-- Positions after `n` more bytes of the current run. -/
def posAdd (d : Desc) (p : List Nat) (n : Nat) : List Nat :=
  if nthD 0 p 0 + n < d.len0 then p.set 0 (nthD 0 p 0 + n) else posCarry d 4 1 (p.set 0 0)

/-- A descriptor's clocks of data (R160). -/
def descClks (d : Desc) : Nat := descRuns d * Nat.max (cdiv d.len0 512) 4

/-- Whether the barrier that a descriptor waits for has its value (R153). -/
def barrierMet (s : State) (w : ItemRun) (d : Desc) : Bool :=
  d.waitBar == 0xFF
  || (match w.barMap[d.waitBar]? with
      | some b => decide (d.waitVal ≤ (s.bars[Fin.ofNat 256 b]).toNat)
      | none => false)

/-- Whether a descriptor is in its setup of 96 clk (R160). -/
def inSetup (s : State) (d : DescRun) : Bool := d.st == .setup && decide (nowClk s < d.setAt + 96)

/-- Whether FENCE and WAIT_BAR permit a descriptor's setup, with the starts of its list in order and at most three
setups at once (R147, R148, R153, R160). -/
def mayStart (s : State) (f : FeId) (w : ItemRun) (d : DescRun) : Bool :=
  let u := fe s f
  let mine := (u.slots.map (·.2)).filter (fun x => x.item == d.item && decide (x.order < d.order))
  mine.all (fun x => !descUnstarted x)
  && (!d.desc.fence || mine.all (fun x => x.st == .done))
  && barrierMet s w d.desc
  && decide (((u.slots.map (·.2)).filter (inSetup s)).length < 3)

/-- Whether the bytes of a ring are a descriptor's turn (R147): every earlier descriptor of its list that serves the ring has moved
its last burst, and published or released the last slot where it has END. -/
def ringTurn (s : State) (f : FeId) (d : DescRun) : Bool :=
  (fe s f).slots.all (fun p =>
    let x := p.2
    !(x.item == d.item && decide (x.order < d.order) && x.desc.array == d.desc.array && x.desc.ring == d.desc.ring && descLive x)
    || (descMoved x && !x.desc.endB))

/-! ### Faults -/

/-- FE_FAULT and FE_FAULT_ADDR hold the oldest unresolved fault of an engine (R162). -/
def showFault (s : State) (f : FeId) : State :=
  match (fe s f).faults with
  | [] => regPut s (feReg f.val 0x10) 0 0 0
  | x :: _ =>
    regSet (regSet s (feReg f.val 0x10)
      (x.code * 2 ^ 56 + x.slot * 2 ^ 50 + (x.ld % 32) * 2 ^ 45 + (x.rqt % 4096) * 2 ^ 33 + 1))
      (feReg f.val 0x18) x.addr

/-- A fault raised on an engine (R154, R162): counted in FE_FAULT_CNT, and shown when it is the oldest. -/
def raiseFault (s : State) (f : FeId) (x : FeFault) : State :=
  let u := fe s f
  showFault (regBump (setFe s f { u with faults := u.faults ++ [x] }) (feReg f.val 0x40) 1) f

/-- The fault of a slot changed, or resolved where nothing takes its place. -/
def slotFaults (s : State) (f : FeId) (k : Fin 64) (g : FeFault → Option FeFault) : State :=
  let u := fe s f
  let one (x : FeFault) : Option FeFault := if !x.fill ∧ x.slot = k.val then g x else some x
  showFault (setFe s f { u with faults := u.faults.filterMap one }) f

/-- DETAIL of a fault record of an engine (R392): the fault code in bits [7:0], and the descriptor's SEQ (R148) above it in bits [63:32]
(notes/assumptions/67.md). -/
def faultDetail (d : DescRun) : Nat := d.desc.seq % 2 ^ 32 * 2 ^ 32 + d.code

/-- Whether a fault code can be resolved at all (R155). -/
def resolvable (code : Nat) : Bool := code == 1 || code == 7

/-- A fault of a work item's transfers that cannot be resolved: the request fails at the tick (R155, R377, R380). -/
def failFetch (s : State) (f : FeId) (w : ItemRun) (addr detail status : Nat) : State :=
  let s := setItem s { w with failStatus := if w.failStatus = 0 then status else w.failStatus }
  logFault s { cls := 2, domain := 0, source := 0x05, unit := f.val, code := 0x000A, fseq := 0, furrow := 0
               clk := nowClk s, ld := itemLd s w, rqt := w.rqt, workItem := w.number % 2 ^ 20 + w.stops * 2 ^ 20
               layer := w.layer, addr := addr, detail := detail }

/-- A descriptor stopped at a burst boundary by a fault (R154): its positions stand in the progress record, the fault is raised, or takes
the place of the one that the descriptor already has, it affects the request (R227), and one that cannot be resolved fails it. -/
def descFault (s : State) (f : FeId) (k : Fin 64) (w : ItemRun) (d : DescRun) (code addr : Nat) (status : Nat) : State :=
  let d' := { d with st := .faulted, code := code, faultAddr := addr }
  let s := setSlot s f k d'
  let s :=
    if d.st = .faulted then slotFaults s f k (fun x => some { x with code := code, addr := addr })
    else raiseFault s f { fill := false, slot := k.val, code := code, ld := itemLd s w, rqt := w.rqt, addr := addr }
  let s := noteItem s w 1
  if resolvable code then s else failFetch s f w addr (faultDetail d') status

/-! ### Addresses -/

/-- What the walk finds for the current run (R149). -/
inductive RunAt where
  | skip
  | addr (a : Nat)
  | fault (code a : Nat)
  deriving DecidableEq, Repr

/-- Base address of a binding (R148, R202). -/
def bindBase (w : ItemRun) (sel : Nat) : Nat := if sel = 0 then 0 else ((w.binds[sel - 1]?).map (·.base)).getD 0

/-- Bytes of an index or pointer list, in the scratchpad of the ring's array or in SPACE (R148); the code of the access
where it fails. A list in Raile memory is that of the own node here. -/
def listBytes (s : State) (w : ItemRun) (d : Desc) (off n : Nat) : Except Nat (List Byte) :=
  if !d.indexMem then .ok (spadReads (arr s (descArr w d)) (d.indexBase % 2 ^ 21 + off) n)
  else
    let a := d.indexBase + off
    if d.space = 1 then
      match imageDpa s w.image a, imageDpa s w.image (a + n - 1) with
      | some p, some _ => if poisoned s p n then .error 8 else .ok (imageReads s w.image a n)
      | _, _ => .error 5
    else if d.space = 0 then
      let t := itemTenant s w
      if !tvaMapped s t a n then .error (if a < 2 ^ 47 then 2 else 1)
      else if tvaPoisoned s t a n then .error 8
      else .ok (tvaReads s t a n)
    else match railAccess s .rd (itemLd s w) (ownNode s) (a % 2 ^ 52) n with
      | .ok (s', t, v) => if tvaPoisoned s' t v n then .error 8 else .ok (tvaReads s' t v n)
      | .error _ => .error 6

/-- term(k, i) summed over the dimensions (R149), with the dimension that a list drives left out. -/
def walkOff (d : Desc) (pos : List Nat) : Int :=
  ((List.range 4).map (fun j =>
    if d.indexMode ≠ 0 ∧ d.indexDim = j + 1 then 0 else (nthD 0 pos (j + 1) : Int) * nthD 0 d.strides j)).foldl (· + ·) 0

/-- A sum as a 64-bit address. -/
def addr64 (x : Int) : Nat := (x % 2 ^ 64).toNat

/-- The current run of a walk from a binding's base with its list entries read by `list`: its address with the byte offset, a skipped run, or the
fault of its list entry (R149, R155). -/
def walkRun (bind : Nat) (d : Desc) (pos : List Nat) (list : Nat → Nat → Except Nat (List Byte)) : RunAt :=
  let base : Int := (bind + d.base : Nat)
  let off := walkOff d pos + (nthD 0 pos 0 : Int)
  let i := nthD 0 pos d.indexDim
  match d.indexMode with
  | 0 => .addr (addr64 (base + off))
  | 1 =>
    let n := if d.indexW then 4 else 2
    match list (i * n) n with
    | .error c => .fault c (d.indexBase + i * n)
    | .ok bs =>
      let x := ofLE bs
      if x = 2 ^ (8 * n) - 1 then .skip
      else .addr (addr64 (base + off + (x : Int) * nthD 0 d.strides (d.indexDim - 1)))
  | _ =>
    match list (i * 8) 8 with
    | .error c => .fault c (d.indexBase + i * 8)
    | .ok bs => if ofLE bs = 0 then .skip else .addr (addr64 (off + (ofLE bs : Int)))

/-- The current run of a walk whose list, if it has one, is within the package. -/
def runAt (s : State) (w : ItemRun) (d : Desc) (pos : List Nat) : RunAt := walkRun (bindBase w d.baseSel) d pos (listBytes s w d)

/-- Whether a descriptor's list lies at another Raile node. -/
def listRemote (s : State) (d : Desc) : Bool :=
  d.indexMode != 0 && d.indexMem && d.space == 2 && d.indexBase / 2 ^ 52 != ownNode s

/-- Bytes of one list entry (R149). -/
def entryLen (d : Desc) : Nat := if d.indexMode = 2 then 8 else if d.indexW then 4 else 2

/-- What a descriptor has asked of another node: the entry of its list, or its data. -/
def asked (d : DescRun) (list : Bool) : Option RaileRead := d.rd.find? (fun r => r.list == list)

/-- The current run of a descriptor; an entry of a list at another node is the one that was read there (notes/assumptions/57.md). -/
def runOf (s : State) (w : ItemRun) (d : DescRun) : RunAt :=
  if listRemote s d.desc then walkRun (bindBase w d.desc.baseSel) d.desc d.pos (fun _ n => .ok (((asked d true).map (fun r => slice r.data 0 n)).getD []))
  else runAt s w d.desc d.pos

/-- The step of a descriptor that needs `n` bytes of another node (R155, R318, R321): none once they have come. Else it waits for them,
asks for them, or stalls where no path leads to the node. -/
def needRemote (s : State) (f : FeId) (k : Fin 64) (w : ItemRun) (d : DescRun) (list : Bool) (a n : Nat) : Option State :=
  let here : Bool := match asked d list with
    | some r => decide (n ≤ r.data.length)
    | none => false
  if here then none
  else if !raileReach s (a / 2 ^ 52) then some (descFault s f k w d 7 a 0x0202)
  else if (asked d list).isSome then some s
  else
    let op := nextOp s
    let s := sendReadReq (useOp s) (itemLd s w) a op n
    some (setSlot s f k { d with rd := d.rd ++ [{ op := op, list := list, addr := a, len := n }] })

/-- The step of a descriptor whose list lies at another node while the entry of its run is not there. -/
def needEntry (s : State) (f : FeId) (k : Fin 64) (w : ItemRun) (d : DescRun) : Option State :=
  if listRemote s d.desc then
    let n := entryLen d.desc
    needRemote s f k w d true (d.desc.indexBase + nthD 0 d.pos d.desc.indexDim * n) n
  else none

/-- DPA of a list entry in the image or in tenant memory, for its poison. -/
def listDpa (s : State) (w : ItemRun) (d : Desc) (a : Nat) : Option Nat :=
  if !d.indexMem then none
  else if d.space = 1 then imageDpa s w.image a
  else if d.space = 0 then tvaDpa s (itemTenant s w) a else none

/-- A descriptor whose list entry failed (R155): poison in frames of an image, by whatever address it was read, marks it DAMAGED and fails
the request with IMAGE_DAMAGED (R379, R380). -/
def listFault (s : State) (f : FeId) (k : Fin 64) (w : ItemRun) (d : DescRun) (code a : Nat) : State :=
  if code ≠ 8 then descFault s f k w d code a 0x0202
  else match (listDpa s w d.desc a).filter (fun p => frameTag s (p / 65536) == .image) with
    | some p => descFault (damageFrame s (p / 65536)) f k w d code a 0x0204
    | none => descFault s f k w d code a 0x0203

/-- Bytes of the burst at an address: to the next 64 B boundary or the end of the run (R150). -/
def burstLen (d : Desc) (pos : List Nat) (a : Nat) : Nat := Nat.min (64 - a % 64) (d.len0 - nthD 0 pos 0)

/-- A place in memory that a burst was translated to, or the fault of R155 with the status of R379 it leads to. -/
inductive Xlate where
  | tva (s : State) (t : LdId) (v : Nat)
  | image
  | remote
  | denied (nack : Nat)
  | bad (code status : Nat)

/-- Translation and checks of one burst (R154, R155, R327, R41): another node checks it itself, the own node passes its region table. -/
def xlate (s : State) (w : ItemRun) (d : Desc) (wr : Bool) (a n : Nat) : Xlate :=
  let t := itemTenant s w
  match d.space with
  | 0 =>
    if 2 ^ 48 < a + n then .bad 2 0x0202
    else if wr && tvaReadOnly s t a n then .bad 3 0x0202
    else if tvaMapped s t a n then .tva s t a
    else if a < 2 ^ 47 ∨ lpAlias ≤ a then .bad 2 0x0202
    else .bad 1 0x0202
  | 1 =>
    if wr then .bad 3 0x0202
    else if (imageDpa s w.image a).isSome ∧ (imageDpa s w.image (a + n - 1)).isSome then .image
    else .bad 5 0x0202
  | 2 =>
    if a / 2 ^ 52 = ownNode s then
      match railAccess s (if wr then .wr else .rd) (itemLd s w) (ownNode s) (a % 2 ^ 52) n with
      | .ok (s', t', v) => .tva s' t' v
      | .error c => .denied c
    else .remote
  | _ => .bad 9 0x0202

/-- DPA of the first byte of a translated burst, for the mere cache. -/
def xlateDpa (s : State) (w : ItemRun) (a : Nat) : Xlate → Option Nat
  | .tva _ t v => tvaDpa s t v
  | .image => imageDpa s w.image a
  | _ => none

/-- Zero bytes for a burst. -/
def zeros (n : Nat) : List Byte := List.replicate n 0

/-! ### Reading a line -/

/-- What reading the list entry of the current run does to the state, once for each run: the lines that hold it are read with the
descriptor's hint (R23, R159), and an own-node list passes its region table, which may map pages or deny (R41). -/
def listTouch (s : State) (w : ItemRun) (d : Desc) (pos : List Nat) : State :=
  if d.indexMode = 0 ∨ !d.indexMem ∨ listRemote s d ∨ nthD 0 pos 0 ≠ 0 then s
  else
    let n := entryLen d
    let a := d.indexBase + nthD 0 pos d.indexDim * n
    if d.space = 1 then
      match imageDpa s w.image a with
      | some p => workRead d.hint s p
      | none => s
    else if d.space = 0 then tvaTouch s (itemTenant s w) a n d.hint
    else match railAccess s .rd (itemLd s w) (ownNode s) (a % 2 ^ 52) n with
      | .ok (s', t, v) => tvaTouch s' t v n d.hint
      | .error c => ownDenied s c

/-- One line read for an engine (R158, R159, R372): a slice that holds it answers, else the memory controller, whose error the burst's
answer may report. -/
def burstRead (s : State) (hint p : Nat) (e : BurstEnv) : State :=
  if merePresent s p then mereRead s p hint
  else match e with
    | .eccCorrected => mereRead (eccCorrect s p 1) p hint
    | .eccUncorrectable => mereRead (eccPoison s p true) p hint
    | _ => workRead hint s p

/-! ### Moving a burst -/

/-- A ring's engine stalls: the clocks count in RING_PSTALL for an inbound ring and in RING_CSTALL for an outbound one (R143, R162). -/
def ringStall (s : State) (f : FeId) (k : Fin 64) (w : ItemRun) (d : DescRun) : State :=
  let n := stallClks d.stallAt (nowClk s) true
  let s := setSlot s f k { d with st := .ringStall, stallAt := some (nowClk s) }
  regBump s (stallReg w d.desc) n

/-- The clocks of a stall that ends, up to the clock in which the burst moves. -/
def stallEnd (s : State) (w : ItemRun) (d : DescRun) : State :=
  regBump s (stallReg w d.desc) (stallClks d.stallAt (nowClk s) false)

/-- A descriptor after `n` bytes moved: bytes of another node that it has used are gone, the entry of its list at the end of its run. -/
def descAdvance (d : DescRun) (n : Nat) : DescRun :=
  let pos := posAdd d.desc d.pos n
  { d with st := .running, code := 0, pos := pos, delivered := d.delivered + n, stallAt := none
           rd := if nthD 0 pos 0 = 0 then [] else d.rd.filter (·.list) }

/-- Bytes of a READ burst delivered to the ring, with the progress and FE_BYTES_RD (R150, R151, R162). -/
def readDeliver (s : State) (f : FeId) (k : Fin 64) (w : ItemRun) (d : DescRun) (q : Fin 6) (bs : List Byte) : State :=
  let s := setSlot (stallEnd s w d) f k (descAdvance d bs.length)
  ringDeliver (meterMem (regBump s (feReg f.val 0x20) bs.length) (itemBearer s w) bs.length) (descArr w d.desc) q bs

/-- A READ burst that finds no room: while the preamble holds deliveries back it waits on the port, which is no ring stall (R141, R144);
after it the ring stalls the engine. -/
def readWaits (s : State) (f : FeId) (k : Fin 64) (w : ItemRun) (d : DescRun) : State :=
  if (arr s (descArr w d.desc)).preamble then s else ringStall s f k w d

/-- Whether an inbound ring has room for `n` bytes beside those that wait at the port. -/
def ringTakes (u : ArrayUnit) (q : Fin 6) (n : Nat) : Bool :=
  (u.rings[q]).enable && decide (portWaiting u q.val + n ≤ ringRoom (u.rings[q]))

/-- Bytes published in an outbound ring and not yet consumed. -/
def ringHolds (g : Ring) : Nat := (g.tail - g.head) * g.slotSize - g.filled

/-- Bytes taken from an outbound ring, a slot that has given its last byte being released (R143). -/
def ringTake : (u : ArrayUnit) → (q : Fin 6) → (n : Nat) → ArrayUnit × List Byte
  | u, _, 0 => (u, [])
  | u, q, n + 1 =>
    let g := u.rings[q]
    let b := cellRead (ringSlotAddr g g.head + g.filled) u.spad
    let g' := if g.filled + 1 = g.slotSize then { g with head := g.head + 1, filled := 0 } else { g with filled := g.filled + 1 }
    let r := ringTake (setRing u q g') q n
    (r.1, b :: r.2)

/-- Lines of an array's cache that its own write touches are dropped (R136). -/
def cacheDrop (u : ArrayUnit) (owner a n : Nat) : ArrayUnit :=
  { u with cache := u.cache.filter (fun c =>
      !(c.owner == owner && decide (c.line * 256 < a + n) && decide (a < c.line * 256 + 256))) }

/-- One READ burst (R150, R154): a skipped run delivers zeros, 64 B at a time, an error-free read delivers its bytes, poison and every
failed check stop the descriptor, another node is asked for its bytes (R321), and a reserved DPA is a device fault (R30). -/
def readBurst (s : State) (f : FeId) (k : Fin 64) (w : ItemRun) (d : DescRun) (q : Fin 6) (env : BurstEnv) : State :=
  let u := arr s (descArr w d.desc)
  let s1 := listTouch s w d.desc d.pos
  match runOf s1 w d with
  | .fault c a => listFault s1 f k w d c a
  | .skip =>
    let n := Nat.min 64 (d.desc.len0 - nthD 0 d.pos 0)
    if ringTakes u q n then readDeliver s1 f k w d q (zeros n) else readWaits s f k w d
  | .addr a =>
    let n := burstLen d.desc d.pos a
    if !ringTakes u q n then readWaits s f k w d
    else
      let x := xlate s1 w d.desc false a n
      match x with
      | .bad c st => descFault s1 f k w d c a st
      | .denied c => descFault (ownDenied s1 c) f k w d 6 a 0x0202
      | .remote => (needRemote s1 f k w d false a n).getD
          (readDeliver s1 f k w d q (((asked d false).map (fun r => r.data.take n)).getD []))
      | _ =>
        let s2 := match x with
          | .tva s' _ _ => s'
          | _ => s1
        match xlateDpa s2 w a x with
        | none => descFault s2 f k w d 2 a 0x0202
        | some p =>
          if hbmCap s2 ≤ p then reservedDpa s2 (dpaPc p)
          else
            let s3 := burstRead s2 d.desc.hint p env
            if poisoned s3 p n then
              let s3 := if frameTag s3 (p / 65536) = .image then damageFrame s3 (p / 65536) else s3
              descFault s3 f k w d 8 a (poisonStatus s3 p)
            else readDeliver s3 f k w d q (memReads s3 p n)

/-- The NOTIFY that a WRITE burst's region asks for (R330): read from the own region table, or what the target says. -/
def burstNotify (s : State) (d : Desc) (a : Nat) (env : BurstEnv) : Option (NodeId × BitVec 24 × Nat) :=
  if d.space ≠ 2 then none
  else if a / 2 ^ 52 = ownNode s then
    match rgnFind s (a % 2 ^ 52) with
    | some i => if bitAt (rgn s i 3) 6 then some (addrNode a, BitVec.ofNat 24 (bits (rgn s i 3) 63 40), bits (rgn s i 3) 39 32) else none
    | none => none
  else match env with
    | .notify role bar => some (addrNode a, role, bar)
    | _ => none

/-- Bytes of a WRITE burst taken from the ring through the slot checker and stored (R150, R208). -/
def writeTake (s : State) (f : FeId) (k : Fin 64) (w : ItemRun) (d : DescRun) (q : Fin 6) (ntf : Option (NodeId × BitVec 24 × Nat)) (n : Nat)
    (store : State → List Byte → State) : State :=
  let a0 := descArr w d.desc
  let g := (arr s a0).rings[q]
  match slotChecks 4 false (arr s a0) (ringPieces g g.head g.filled n) with
  | .error h => slotFault s a0 h 4 (nowClk s) 0
  | .ok u =>
    let r := ringTake u q n
    store (setSlot (setArr (stallEnd s w d) a0 r.1) f k (descAdvance { d with ntf := ntf <|> d.ntf } n)) r.2

/-- Bytes of a WRITE burst go to another node in a packet of their own, kept with the progress before it until it is acknowledged
(R154, R319, R321, R323). -/
def writeRemote (s : State) (f : FeId) (k : Fin 64) (w : ItemRun) (old : DescRun) (a : Nat) (bs : List Byte) : State :=
  let op := nextOp s
  let s := useOp s
  let s := match slotDesc s f k with
    | some d => setSlot s f k { d with wr := d.wr ++ [{ op := op, addr := a, data := bs, pos := old.pos, delivered := old.delivered }] }
    | none => s
  sendWrite s (itemLd s w) a op true bs

/-- One WRITE burst (R150): the bytes leave the ring through the slot checker and the mere cache accepts them, whole or not
at all; bytes for another node leave in a packet while a path leads to it (R318). -/
def writeBurst (s : State) (f : FeId) (k : Fin 64) (w : ItemRun) (d : DescRun) (q : Fin 6) (env : BurstEnv) : State :=
  let a0 := descArr w d.desc
  let g := (arr s a0).rings[q]
  let stall (n : Nat) : Bool := !g.enable || decide (ringHolds g < n)
  let s1 := listTouch s w d.desc d.pos
  match runOf s1 w d with
  | .fault c a => listFault s1 f k w d c a
  | .skip =>
    let n := Nat.min 64 (d.desc.len0 - nthD 0 d.pos 0)
    if stall n then ringStall s f k w d else writeTake s1 f k w d q none n (fun s _ => s)
  | .addr a =>
    let n := burstLen d.desc d.pos a
    let ntf := burstNotify s1 d.desc a env
    if stall n then ringStall s f k w d
    else match xlate s1 w d.desc true a n with
      | .bad c st => descFault s1 f k w d c a st
      | .denied c => descFault (ownDenied s1 c) f k w d 6 a 0x0202
      | .tva s' t v =>
        match (tvaLines s' t v n).find? (fun p => decide (hbmCap s' ≤ p)) with
        | some p => reservedDpa s' (dpaPc p)
        | none =>
          writeTake s' f k w d q ntf n (fun s bs =>
            let s := meterMem (regBump (tvaStore s t v bs) (feReg f.val 0x28) n) (itemBearer s w) n
            setArr s a0 (cacheDrop (arr s a0) t.val v n))
      | _ =>
        if raileReach s1 (a / 2 ^ 52) then writeTake s1 f k w d q ntf n (fun s bs => writeRemote (meterMem s (itemBearer s w) n) f k w d a bs)
        else descFault s1 f k w d 7 a 0x0202

/-! ### The commands -/

/-- A descriptor of a list in the scratchpad of the gang's leader, as the engine reads it there when its setup may begin (R147). -/
def readList (s : State) (w : ItemRun) (d : DescRun) : DescRun :=
  match d.src with
  | some p => { d with desc := parseDesc (spadReads (arr s (arrId w.leader)) p 128) }
  | none => d

/-- A descriptor's setup (R147, R148, R153, R160), for READ and WRITE: nothing while FENCE or WAIT_BAR holds it back, and
FE_SHORT counts one below the efficient size. A descriptor that names RESERVE is refused (R155). -/
def startDesc (op : Nat) (f : FeId) (k : Fin 64) (s : State) : State :=
  match slotDesc s f k with
  | none => s
  | some d0 =>
    match itemOf s d0.item with
    | none => s
    | some w =>
      let d := readList s w d0
      if d.desc.op ≠ op ∨ !descUnstarted d ∨ w.halted ≠ 0 then s
      else if !mayStart s f w d then setSlot s f k { d0 with st := .waiting }
      else if d.desc.space = 3 then descFault s f k w d 9 d.desc.base 0x0202
      else disarm (regBump (setSlot s f k { d with st := .setup, setAt := nowClk s })
        (feReg f.val 0x38) (b2n (decide (descClks d.desc < 32)))) 5 f.val

/-- READ (R148): a descriptor that moves memory into an inbound ring starts its setup. -/
def execRead (f : FeId) (k : Fin 64) (s : State) : Host.Outcome State Fault Refusal := .next (startDesc 0 f k s)

/-- WRITE (R148): a descriptor that moves an outbound ring to memory starts its setup. -/
def execWrite (f : FeId) (k : Fin 64) (s : State) : Host.Outcome State Fault Refusal := .next (startDesc 1 f k s)

/-- Descriptor states in which a burst may move. -/
def descActive (d : DescRun) : Bool := d.st == .setup || d.st == .running || d.st == .ringStall

/-- The bank accesses that a ring lost in a burst that moved (R131). -/
def burstLost (f : FeId) (k : Fin 64) (w : ItemRun) (d : DescRun) (lost : Nat) (s : State) : State :=
  if ((slotDesc s f k).map (·.delivered)).getD d.delivered = d.delivered then s
  else regBump s (spReg (descArr w d.desc).val 0x20) lost

/-- BURST (R147, R150): the next burst of a started descriptor whose turn it is at its ring. -/
def execBurst (f : FeId) (k : Fin 64) (use : BurstUse) (s : State) : Host.Outcome State Fault Refusal :=
  match slotDesc s f k with
  | none => .next s
  | some d =>
    match itemOf s d.item, descRing d.desc with
    | some w, some q =>
      if !descActive d ∨ descMoved d ∨ w.halted ≠ 0 ∨ !ringTurn s f d then .next s
      else if (needEntry s f k w d).isSome then .next ((needEntry s f k w d).getD s)
      else if d.desc.op = 0 then (if q.val < 4 then .next (burstLost f k w d use.lost (readBurst s f k w d q use.env)) else .next s)
      else if q.val < 4 then .next s else .next (burstLost f k w d use.lost (writeBurst s f k w d q use.env))
    | _, _ => .next s

/-- FAULT_RESUME (R154, R155): a POOL_UNMAPPED fault maps a frame and the descriptor resumes from its progress record, or
turns into NO_FRAME; a RAILE_UNREACHABLE fault resumes once the peer is UP with an ACTIVE route. -/
def execFaultResume (f : FeId) (k : Fin 64) (s : State) : Host.Outcome State Fault Refusal :=
  match slotDesc s f k with
  | none => .next s
  | some d =>
    match itemOf s d.item with
    | none => .next s
    | some w =>
      if d.st ≠ .faulted then .next s
      else if d.code = 1 then
        match mapPage s (itemTenant s w) (some w.rqt) d.faultAddr with
        | some s => .next (slotFaults (setSlot s f k { d with st := .running, code := 0 }) f k (fun _ => none))
        | none => .next (descFault s f k w d 4 d.faultAddr 0x0202)
      else if d.code = 7 then
        if raileReach s (d.faultAddr / 2 ^ 52) then
          .next (slotFaults (setSlot s f k { d with st := .running, code := 0 }) f k (fun _ => none))
        else .next s
      else .next s

/-- The slots of an engine after one has become free: the oldest descriptor that waits takes it (R146). -/
def refill (u : FetchUnit) (k : Nat) : FetchUnit :=
  match u.waitq with
  | [] => u
  | d :: r => { u with slots := insertN k d u.slots, waitq := r }

/-- The last slot of a ring at the end of a descriptor with END (R148): published for a READ once its writes are performed, released for
a WRITE. -/
def endRing (u : ArrayUnit) (d : Desc) (q : Fin 6) : ArrayUnit :=
  let g := u.rings[q]
  if !d.endB ∨ g.filled = 0 then u
  else if d.op = 0 then ringFilled u q
  else setRing u q { g with head := g.head + 1, filled := 0 }

/-- Whether a descriptor's NOTIFY is still to be acknowledged (R330). -/
def notifyOpen (d : DescRun) : Bool := d.ntf.isSome && !d.notified

/-- The NOTIFY of a descriptor is sent to its region's node, once (R330); inside the package it applies at once (R41). -/
def askNotify (s : State) (f : FeId) (k : Fin 64) (d : DescRun) : State :=
  match d.ntf, d.ntfMsg with
  | some (n, role, bar), none =>
    sendMsg (setSlot s f k { d with ntfMsg := some s.msgNo }) (some n) role (ownRole s role) (some (curFurrow s, bar)) []
  | _, _ => s

/-- A descriptor whose WRITE packets are not all acknowledged: it waits, or stalls where no path leads to their node (R318). -/
def awaitAcks (s : State) (f : FeId) (k : Fin 64) (w : ItemRun) (d : DescRun) : State :=
  match d.wr.find? (fun x => !raileReach s (x.addr / 2 ^ 52)) with
  | some x => descFault s f k w d 7 x.addr 0x0202
  | none => s

/-- DESCRIPTOR_COMPLETE (R152, R153): once its last burst has moved, a descriptor publishes or releases its last slot under
END, counts in FE_DESC_DONE, signals its barrier and leaves its slot to the next of the lists. A READ into a ring whose
bytes still wait at the port is not complete, nor is a WRITE with a packet that its target has not acknowledged (R323), which stalls
while no path leads there (R318). A WRITE into a region with NOTIFY completes when its NOTIFY has been acknowledged (R330). -/
def execDescriptorComplete (f : FeId) (k : Fin 64) (s : State) : Host.Outcome State Fault Refusal :=
  match slotDesc s f k with
  | none => .next s
  | some d =>
    match itemOf s d.item, descRing d.desc with
    | some w, some q =>
      let a := descArr w d.desc
      if !descActive d ∨ !descMoved d ∨ w.halted ≠ 0 ∨ portWaiting (arr s a) q.val ≠ 0 then .next s
      else if !d.wr.isEmpty then .next (awaitAcks s f k w d)
      else
        let s := if notifyOpen d then askNotify s f k d else s
        let d := (slotDesc s f k).getD d
        if notifyOpen d then .next s
        else
        let s := setArr s a (endRing (arr s a) d.desc q)
        let s := setSlot s f k { d with st := .done }
        let s := regBump s (feReg f.val 0x30) 1
        let s := if d.desc.signalBar = 0xFF then s else itemBarInc s w d.desc.signalBar
        .next (setFe s f (refill (fe s f) k.val))
    | _, _ => .next s

/-! ### Cache mode -/

/-- Set of a line in a cache of `banks` banks: the line address modulo the number of sets. R135 gives that number only (DESIGN CHOICE,
notes/assumptions/68.md). -/
def cacheSet (banks line : Nat) : Nat := line % (banks * 32)

/-- A line installed, the least recently used of a full set leaving (R135). -/
def cachePut (u : ArrayUnit) (owner line : Nat) (bs : List Byte) : ArrayUnit :=
  let same := u.cache.filter (fun c => cacheSet u.cacheBanks c.line == cacheSet u.cacheBanks line)
  let now := maxN (u.cache.map (·.use)) + 1
  let oldest := (same.foldl (fun m c => match m with
    | none => some c.use
    | some x => some (Nat.min x c.use)) none).getD 0
  let keep := if 8 ≤ same.length then
      u.cache.filter (fun c => !(cacheSet u.cacheBanks c.line == cacheSet u.cacheBanks line && c.use == oldest))
    else u.cache
  { u with cache := keep ++ [{ owner := owner, line := line, bytes := bs, use := now }] }

/-- The line of a cache, marked used. -/
def cacheHit (u : ArrayUnit) (owner line : Nat) : Option (ArrayUnit × List Byte) :=
  match u.cache.find? (fun c => c.owner == owner && c.line == line) with
  | none => none
  | some c =>
    let now := maxN (u.cache.map (·.use)) + 1
    some ({ u with cache := u.cache.map (fun x => if x.owner = owner ∧ x.line = line then { x with use := now } else x) }, c.bytes)

/-- Bytes of a cached load collected while its next lines are present: the array, the load and the hits. -/
def cldHits : (n : Nat) → ArrayUnit → CldRun → Nat → ArrayUnit × CldRun × Nat
  | 0, u, c, h => (u, c, h)
  | n + 1, u, c, h =>
    if 2048 ≤ c.data.length then (u, c, h)
    else match cacheHit u c.owner ((c.addr + c.data.length) / 256) with
      | none => (u, c, h)
      | some (u, bs) => cldHits n u { c with data := c.data ++ bs } (h + 1)

/-- The clocks a cached load occupies the engine: the read-miss budget at the operating point plus 8 (R8, R161, R165). -/
def cldClks (s : State) : Nat := cdiv (420 * opMhz s.power.op) 1000 + 8

/-- A cached load goes on: its hits are counted, and it ends in VD or waits for the next fill, which is a miss
(R135, R162, R165). The clocks that it takes beyond its budget count in VE_CLD_STALL. -/
def cldGo (s : State) (a : ArrId) (u : ArrayUnit) (c : CldRun) : State :=
  let r := cldHits 8 u c 0
  let s := regBump s (spReg a.val 0x28) r.2.2
  if 2048 ≤ r.2.1.data.length then
    let u := { r.1 with cld := none, ve := .running }
    let late := nowClk s - (c.at_ + cldClks s)
    vfinish (regBump (setArr s a u) (veReg a.val 0x20) late) a c.instr
      { writes := [(c.instr.vd, vmk (bytesLanes (r.2.1.data.take 2048)))], issue := cldClks s + late }
  else
    regBump (setArr s a { r.1 with cld := some r.2.1, ve := .held }) (spReg a.val 0x30) 1

/-- CLD (R135, R165): eight lines are looked up in the array's cache banks; a miss holds the engine until CACHE_FILL has
brought the line. A cached load without cache banks, off a line boundary, or with a DT that names no format of the vector engine
(R43) is illegal. Bank accesses that it loses delay it (R131). -/
def execCld (a : ArrId) (x : VAccess) (s : State) : Host.Outcome State Fault Refusal :=
  let v := x.instr
  if !veReady s a then .next s
  else if (arr s a).cacheBanks = 0 ∨ v.ext.toNat % 256 ≠ 0 ∨ isVecFmt v.dt.toNat = false then .next (vIllegal s a v)
  else match arrItem s a with
    | none => .next s
    | some w =>
      let owner := if bitAt v.aux.toNat 0 then 16 + w.image else itemLd s w
      let s := vHeld s a x.lost
      let u := arr s a
      .next (cldGo s a u { instr := v, at_ := veIssueClk u v, owner := owner, addr := v.ext.toNat })

/-- The DPA of a cached line under its owner (R135), or the code of the check that fails (R155). -/
def fillDpa (s : State) (owner a : Nat) : Except Nat Nat :=
  if 16 ≤ owner then
    match imageDpa s (owner - 16) a with
    | some p => .ok p
    | none => .error 5
  else match tvaDpa s (ldId owner) a with
    | some p => .ok p
    | none => .error (if a < 2 ^ 47 ∨ lpAlias ≤ a ∨ 2 ^ 48 ≤ a then 2 else 1)

/-- The fetch engine that sowing names for a work item's cache-mode fills (R135): its first. -/
def fillEngine (w : ItemRun) : FeId := feId (w.engines.headD 0)

/-- A fault of a cache-mode fill raised on its engine (R135, R154). A fill has no descriptor slot, so SLOT is open
(notes/assumptions/67.md). -/
def raiseFill (s : State) (w : ItemRun) (code addr : Nat) : State :=
  let v := (drawReg s).toNat
  noteItem (raiseFault (tickFree s) (fillEngine w)
    { fill := true, slot := v % 64, code := code, ld := itemLd s w, rqt := w.rqt, addr := addr }) w 1

/-- A fill's fault that cannot be resolved fails the request (R155). A fill has no descriptor, so SEQ is open
(notes/assumptions/67.md). -/
def fillFailed (s : State) (w : ItemRun) (code addr status : Nat) : State :=
  failFetch (tickFree s) (fillEngine w) w addr ((drawReg s).toNat % 2 ^ 32 * 2 ^ 32 + code) status

/-- A fault of a cache-mode fill that cannot be resolved (R135, R154, R155). -/
def fillFault (s : State) (w : ItemRun) (code addr status : Nat) : State :=
  fillFailed (raiseFill s w code addr) w code addr status

/-- The fault of a work item's fill that waits for a frame: its engine's, until it is resolved. -/
def fillWaits (w : ItemRun) (addr : Nat) (x : FeFault) : Bool := x.fill && x.code == 1 && x.rqt == w.rqt && x.addr == addr

/-- The fault of a fill changed, or resolved where nothing takes its place. -/
def fillFaults (s : State) (w : ItemRun) (addr : Nat) (g : FeFault → Option FeFault) : State :=
  let f := fillEngine w
  let one (x : FeFault) : Option FeFault := if fillWaits w addr x then g x else some x
  showFault (setFe s f { fe s f with faults := (fe s f).faults.filterMap one }) f

/-- The line of a fill read with ALLOC (R159), installed, and the load goes on. -/
def fillLine (s : State) (a : ArrId) (w : ItemRun) (c : CldRun) (la p lost : Nat) : State :=
  if hbmCap s ≤ p then reservedDpa s (dpaPc p)
  else
    let s := workRead 0 s p
    if poisoned s p 256 then
      let s := if frameTag s (p / 65536) = .image then damageFrame s (p / 65536) else s
      fillFault s w 8 la (poisonStatus s p)
    else
      let bs := memReads s p 256
      let s := regBump s (spReg a.val 0x20) lost
      cldGo s a (cachePut (arr s a) c.owner (la / 256) bs) { c with data := c.data ++ bs }

/-- CACHE_FILL (R135): the missed line arrives through the checks of a fetch descriptor of the work item, is installed, and
the load goes on, its bank accesses that lost counted (R131). POOL_UNMAPPED is a fault of its engine, which the next CACHE_FILL
resolves with a frame, or turns into NO_FRAME; a fault that cannot be resolved fails the request at the tick (R154, R155). -/
def execCacheFill (x : ArrAccess) (s : State) : Host.Outcome State Fault Refusal :=
  let a := x.arr
  match (arr s a).cld, arrItem s a with
  | some c, some w =>
    let la := (c.addr + c.data.length) / 256 * 256
    if w.halted ≠ 0 ∨ w.failStatus ≠ 0 then .next s
    else match fillDpa s c.owner la with
      | .ok p => .next (fillLine (fillFaults s w la (fun _ => none)) a w c la p x.lost)
      | .error 1 =>
        if !(fe s (fillEngine w)).faults.any (fillWaits w la) then .next (raiseFill s w 1 la)
        else match mapPage s (ldId c.owner) (some w.rqt) la with
          | none => .next (fillFailed (fillFaults s w la (fun x => some { x with code := 4 })) w 4 la 0x0202)
          | some s =>
            let s := fillFaults s w la (fun _ => none)
            match fillDpa s c.owner la with
            | .ok p => .next (fillLine s a w c la p x.lost)
            | .error k => .next (fillFault s w k la 0x0202)
      | .error k => .next (fillFault s w k la 0x0202)
  | _, _ => .next s

end Sys2Proof.Machine
end

