-- ==== Sys2Proof/Machine/Ports.lean ====
section
/-! DEFINITION. Raile ports and the link layer (10_raile.md, R306 to R315), nodes, routes and peers (R316 to R319), and the
loss of a RAILE_REF (R475). -/

namespace Sys2Proof.Machine

/-- Whether Raile ports carry anything: out of reset, in neither a stop nor a halt (R388, R419). -/
def raileLive (s : State) : Bool := alive s && !stopped s && !halted s

/-! ### Flows after a change of ports or peers -/

/-- Packets without acknowledgement sent again on a flow's port with the same bytes (R324), counted in RL_RETX; a flow that cannot send
waits. -/
def resendFlow (s : State) (f : Flow) : State :=
  if (flowPort s f).isNone then s
  else f.unacked.foldl (fun s x => flowBytes s f x.2) (regBump s (rlReg 0 0x1050) f.unacked.length)

/-- A flow moves to another ACTIVE port of its route, or waits where there is none (R324). -/
def moveFlow (s : State) (f : Flow) : State :=
  match (routePorts s f.node.toNat).find? (fun p => p.val != f.port) with
  | none => s
  | some p =>
    let f := { f with port := p.val }
    resendFlow (setFlow s f) f

/-- The flows of a port that has left ACTIVE move (R309, R324). -/
def moveFlows (s : State) (p : PortId) : State := (s.flows.filter (fun f => f.port == p.val)).foldl moveFlow s

/-- A WRITE of a descriptor sent again to a peer that is UP again (R319), unless it still waits on a flow. -/
def rewrite (s : State) (ctx : Nat) (n : NodeId) (x : RaileWrite) : State :=
  if addrNode x.addr = n ∧ !(s.flows.any (fun f => f.waitq.any (fun p => p.ty == 1 && p.opId == x.op))) then
    sendWrite s ctx x.addr x.op true x.data
  else s

/-- Bursts of descriptors that the peer did not acknowledge are sent again on new flows (R319). -/
def resumeWrites (s : State) (n : NodeId) : State :=
  forFes s (fun s f => (fe s f).slots.foldl (fun s x => match itemOf s x.2.item with
    | some w => x.2.wr.foldl (fun s y => rewrite s (itemLd s w) n y) s
    | none => s) s)

/-- Flow 0 of the device context with a peer that is UP (R318, R437); the flows that this device still asks for are asked for on it, and
fetch work goes on (R319). -/
def openDeviceFlow (s : State) (n : NodeId) (initiator : Bool) (nI nR : List Byte) : State :=
  let p := ((routePorts s n.toNat).head?.map (·.val)).getD 0
  let s := setFlow s { node := n, ctx := 16, flow := 0, initiator := initiator, port := p, keyEpoch := 0, nonceI := nI, nonceR := nR
                       opened := true }
  let s := (s.flows.filter (fun f => f.node == n && !f.opened)).foldl askFlow s
  resumeWrites (flushMsgs (flushCtl s n) n) n

/-- A HELLO to a node: its peer entry is JOINING (R318). -/
def joinPeer (s : State) (n : NodeId) : State :=
  let nonce := drawBytes s 32
  let s := setPeer (tickFree s) n { peerOf s n with st := .joining, nonce := nonce }
  sendHello s n false nonce []

/-- Nodes with a route register that names them through a port, beside the device itself. -/
def routedNodes (s : State) : List NodeId :=
  ((s.regs.filter (fun r => decide (routeOff 0 ≤ r.1) && decide (r.1 < routeOff 4096))).flatMap (fun r =>
    (List.range 4).map (fun j => 4 * ((r.1 - routeOff 0) / 8) + j))).filterMap (fun n =>
      if routeMask s n ≠ 0 then some (BitVec.ofNat 12 n) else none)

/-- Peers UNKNOWN whose route has an ACTIVE port become JOINING (R318). -/
def joinRouted (s : State) : State :=
  (routedNodes s).foldl (fun s n =>
    if (peerOf s n).st = .unknown ∧ !(routePorts s n.toNat).isEmpty then joinPeer s n else s) s

/-- Reads of a descriptor that a peer has not answered are forgotten: its next burst asks again (R319). -/
def forgetReads (n : NodeId) (d : DescRun) : DescRun :=
  { d with rd := d.rd.filter (fun r => !(addrNode r.addr == n && decide (r.data.length < r.len))) }

/-- What a peer's becoming DOWN does (R319): its open flows are closed, fetch engines stand at their progress records, messages
under roles that are not accepted wait for it, and atomics without a reply complete as lost. -/
def closePeer (s : State) (n : NodeId) : State :=
  let s := mapDescs s (forgetReads n)
  { s with flows := s.flows.filter (fun f => f.node != n || !f.opened)
           sent := s.sent.map (fun m => if msgNode s m = some n then { m with waits := true } else m)
           atomics := s.atomics.map (fun a => if a.node = n ∧ a.result.isNone then { a with lost := true } else a) }

/-- A peer becomes DOWN (R318, R319): counted. -/
def peerDownTo (s : State) (n : NodeId) (st : PeerState) : State :=
  let p := peerOf s n
  closePeer (loseContact (regBump (setPeer s n { p with st := st }) (rlReg 0 0x1058) 1) n) n

/-- A valid packet from a node: a SUSPECT peer is UP and its flows resume by retransmission (R318, R324). -/
def heardFrom (s : State) (n : NodeId) : State :=
  let p := peerOf s n
  if p.st = .suspect then
    let s := setPeer s n { p with st := .up }
    (s.flows.filter (fun f => f.node == n)).foldl resendFlow s
  else s

/-! ### Training -/

/-- Lanes of a port that are not retired. -/
def portLanes (s : State) (p : PortId) : BitVec 4 := BitVec.ofNat 4 (regGet s (glbReg 0x170) / 2 ^ (4 * p.val))

/-- A training begins (R309): DETECT, or FALLOW where every lane is retired. -/
def startTraining (s : State) (p : PortId) : State :=
  let u := port s p
  let l := portLanes s p
  if l = 0 then setPort s p { u with st := .fallow }
  else
    let s := if u.trained then regBump s (rlReg p.val 0x40) 1 else s
    send (setPort s p { u with st := .detect, trained := true, locked := 0, lanesUp := 0 }) (.training p.val l)

/-- PORT_ENABLE (R309). During a stop or a halt the port stays DISABLED with ENABLE set (R419, R421). -/
def execPortEnable (p : PortId) (s : State) : Host.Outcome State Fault Refusal :=
  if !alive s then .next s
  else
    let s := regPut s (rlReg p.val 0) 0 0 1
    if (port s p).st = .disabled ∧ raileLive s then .next (startTraining s p) else .next s

/-- A port stops: DISABLED, or FALLOW where every lane is retired; what it held of the link is gone. -/
def stopPort (s : State) (p : PortId) : State :=
  let u := port s p
  setPort s p { st := if portLanes s p = 0 then .fallow else .disabled, lockFails := u.lockFails, trained := u.trained
                peerNode := u.peerNode }

/-- PORT_DISABLE (R309, R318): BYE to the UP peers that only this port reached, and the port is DISABLED. -/
def execPortDisable (p : PortId) (s : State) : Host.Outcome State Fault Refusal :=
  if !alive s then .next s
  else
    let s := regPut s (rlReg p.val 0) 0 0 0
    let only := (s.peers.filter (fun x => x.2.st == .up && routePorts s x.1 == [p])).map (fun x => BitVec.ofNat 12 x.1)
    let s := only.foldl sendBye s
    .next (moveFlows (stopPort s p) p)

/-- PARTNER_DETECTED (R309, R438): no port leaves DETECT while LOCK is clear. -/
def execPartnerDetected (p : PortId) (s : State) : Host.Outcome State Fault Refusal :=
  let u := port s p
  if u.st = .detect ∧ domainLocked s then .next (setPort s p { u with st := .equalise, locked := 0 }) else .next s

/-- The lanes of the widest width that have all locked (R307, R310). -/
def chooseLanes (locked : BitVec 4) (maxWidth : Nat) : BitVec 4 :=
  let has (m : BitVec 4) : Bool := locked &&& m == m
  if maxWidth = 0 ∧ has 0xF then 0xF
  else if maxWidth ≤ 1 ∧ has 0x3 then 0x3
  else if maxWidth ≤ 1 ∧ has 0xC then 0xC
  else if has 1 then 1
  else if has 2 then 2
  else if has 4 then 4
  else locked

/-- The port enters ALIGN with the lanes that R310 chooses. -/
def toAlign (s : State) (p : PortId) (locked : BitVec 4) : State :=
  setPort s p { port s p with st := .align, locked := locked, lanesUp := chooseLanes locked (regField s (rlReg p.val 0) 2 1) }

/-- A lane retired (R311, R390): it leaves the geometry table, with a record and an event; a port without a lane is FALLOW. -/
def retireLane (s : State) (p : PortId) (l : Nat) : State :=
  if !laneEnabled s p.val l then s
  else
    let s := geoBump (regClearBit s (glbReg 0x170) (4 * p.val + l))
    let s := logFault s { cls := 0, domain := 0, source := 0x09, unit := 4 * p.val + l, code := 0x000C, fseq := 0, furrow := 0
                          clk := nowClk s }
    if portLanes s p = 0 then moveFlows (setPort s p { port s p with st := .fallow, lanesUp := 0 }) p else s

/-- Lanes that failed to lock in a training in which another lane locked, counted; three trainings in a row retire a lane
(R311). -/
def countLocks (s : State) (p : PortId) (locked : BitVec 4) : State :=
  let u := port s p
  if locked = 0 then s
  else
    let fails := (List.range 4).map (fun l => if locked.getLsbD l then 0 else nthD 0 u.lockFails l + 1)
    let s := setPort s p { u with lockFails := fails }
    (List.range 4).foldl (fun s l => if 3 ≤ nthD 0 fails l then retireLane s p l else s) s

/-- LANES_LOCKED (R309, R310): the locked lanes; ALIGN once every lane that is not retired has locked. -/
def execLanesLocked (p : PortId) (lanes : BitVec 4) (s : State) : Host.Outcome State Fault Refusal :=
  let u := port s p
  if u.st ≠ .equalise then .next s
  else
    let l := (u.locked ||| lanes) &&& portLanes s p
    if l = portLanes s p then .next (toAlign (countLocks s p l) p l) else .next (setPort s p { u with locked := l })

/-- EQUALISE_TIMEOUT (R309, R311): ALIGN with the lanes locked, or DETECT again. -/
def execEqualiseTimeout (p : PortId) (lanes : BitVec 4) (s : State) : Host.Outcome State Fault Refusal :=
  let u := port s p
  if u.st ≠ .equalise then .next s
  else
    let l := (u.locked ||| lanes) &&& portLanes s p
    if l = 0 then .next (startTraining s p) else .next (toAlign (countLocks s p l) p l)

/-- ALIGN_DONE (R309). -/
def execAlignDone (p : PortId) (s : State) : Host.Outcome State Fault Refusal :=
  let u := port s p
  if u.st = .align then .next (setPort s p { u with st := .param }) else .next s

/-- PARAM_EXCHANGED (R309, R318): ACTIVE with the frame sequence at 0 and every buffer free, or DISABLED with LOOPBACK. -/
def execParamExchanged (p : PortId) (node : NodeId) (bootId : BitVec 32) (s : State) : Host.Outcome State Fault Refusal :=
  let u := port s p
  if u.st ≠ .param then .next s
  else if node.toNat = ownNode s then
    .next (regFlag (setPort s p { u with st := .disabled, lanesUp := 0, peerNode := node }) (rlReg p.val 8) 3)
  else
    let u := { u with st := .active, peerNode := node, rxSeq := 0, rxAny := false, rxNak := false, rxCount := 0, txSeq := 0, replay := []
                      resends := 0, credD := 256, credC := 32, rxFreeD := 0, rxFreeC := 0 }
    let s := setPort s p u
    let s := if (peerOf s node).st = .up ∧ (peerOf s node).bootId ≠ bootId then peerDownTo s node .unknown else s
    .next (joinRouted s)

/-- A port leaves ACTIVE for EQUALISE (R309): its flows move. -/
def retrainPort (s : State) (p : PortId) : State :=
  let u := port s p
  if u.st ≠ .active then s
  else
    let s := regBump s (rlReg p.val 0x40) 1
    moveFlows (setPort s p { u with st := .equalise, locked := 0, lanesUp := 0, resends := 0, txD := [], txC := [], replay := [] }) p

/-- RETRAIN (R309, R314): eight resend rounds without progress, a lane retired, a reference lost or a fen die reset. -/
def execRetrain (p : PortId) (cause : RetrainCause) (s : State) : Host.Outcome State Fault Refusal :=
  if cause = .resendRounds ∧ (port s p).resends < 8 then .next s else .next (retrainPort s p)

/-- LANE_RETIRE (R311): the lane is retired until the next device reset, and an ACTIVE port retrains. -/
def execLaneRetire (p : PortId) (lane : Fin 4) (cause : LaneCause) (s : State) : Host.Outcome State Fault Refusal :=
  if !alive s ∨ !laneEnabled s p.val lane.val then .next s
  else if cause = .lockFailures ∧ nthD 0 (port s p).lockFails lane.val < 3 then .next s
  else .next (retrainPort (retireLane s p lane.val) p)

/-- RAILE_REF_LOST (R475): the four ports of the die leave ACTIVE. -/
def execRaileRefLost (die : Fin 4) (s : State) : Host.Outcome State Fault Refusal :=
  if !alive s then .next s
  else .next ((List.range 4).foldl (fun s k => retrainPort s (Fin.ofNat 16 (4 * die.val + k))) s)

/-! ### Frames received -/

/-- Whether a frame number is acknowledged by `ack`: at most 256 frames are outstanding (R314). -/
def ackedBy (ack fseq : BitVec 12) : Bool := decide ((ack - fseq).toNat < 2048)

/-- Outstanding frames sent again in order (R314), counted in RL_RESEND. -/
def resendFrames (s : State) (p : PortId) : State :=
  let u := port s p
  let s := regBump (setPort s p { u with resends := u.resends + 1 }) (rlReg p.val 0x38) u.replay.length
  u.replay.foldl (fun s x => sendFrame s p x.1 false false x.2) s

/-- The acknowledgement and credits of a frame applied (R314, R315). -/
def frameAck (s : State) (p : PortId) (f : Frame) : State :=
  let u := port s p
  let left := if f.ackValid then u.replay.filter (fun x => !ackedBy f.ackSeq x.1) else u.replay
  let u := { u with replay := left, resends := if left.length < u.replay.length then 0 else u.resends
                    credD := u.credD + f.credD.toNat, credC := u.credC + f.credC.toNat }
  let s := setPort s p u
  let s := if f.nak ∧ !left.isEmpty then resendFrames s p else s
  pumpPort p (bodiesLeft u) s

/-- The acknowledgement report of a receiver (R314): an IDLE frame with the last accepted number and the credits. -/
def ackFrame (s : State) (p : PortId) (nak : Bool) : State := sendFrame s p (port s p).txSeq nak true idleBody

/-- Whether the decoder corrects a codeword: at most 15 of its symbols are in error (R308). -/
def correctable (errs : List (Fin 544)) : Bool := decide (errs.eraseDups.length ≤ 15)

/-- Symbols that the decoder corrected in a frame, by place in their codeword. -/
def correctedSyms (f : Frame) : List Nat := (f.errors.filter correctable).flatMap (fun e => e.eraseDups.map (·.val))

/-- Counters of what the decoder found in a frame (R308, R339): codewords corrected and not correctable, CRC errors, and each corrected
symbol against the lane that carried it. -/
def countFrame (s : State) (p : PortId) (f : Frame) : State :=
  let up := (port s p).lanesUp
  let s := regBump s (rlReg p.val 0x18) 1280
  let s := regBump s (rlReg p.val 0x20) (f.errors.filter (fun e => correctable e && !e.isEmpty)).length
  let s := regBump s (rlReg p.val 0x28) (f.errors.filter (fun e => !correctable e)).length
  let s := regBump s (rlReg p.val 0x30) (b2n (!f.crcOk))
  (List.range 4).foldl (fun s l =>
    regBump s (rlReg p.val (0x48 + 8 * l)) ((correctedSyms f).filter (fun i => symbolLane up i == l)).length) s

/-- FRAME_RECEIVED (R308, R312 to R315): a frame is accepted in sequence; every other one is discarded, the first with a
NAK. Its packets reach the block as the commands of their own. -/
def execFrameReceived (p : PortId) (f : Frame) (s : State) : Host.Outcome State Fault Refusal :=
  if (port s p).st ≠ .active then .next s
  else
    let s := countFrame s p f
    let u := port s p
    let whole := f.crcOk && f.errors.all correctable
    if whole && f.idle then .next (frameAck s p f)
    else if whole && f.fseq == u.rxSeq then
      let u := { u with rxSeq := u.rxSeq + 1, rxAny := true, rxNak := false, rxCount := u.rxCount + 1
                        rxFreeD := if f.vc then u.rxFreeD else u.rxFreeD + 1
                        rxFreeC := if f.vc then u.rxFreeC + 1 else u.rxFreeC }
      let s := frameAck (setPort s p u) p f
      if 32 ≤ (port s p).rxCount then .next (ackFrame s p false) else .next s
    else if u.rxNak then .next s
    else .next (ackFrame (setPort s p { u with rxNak := true }) p true)

/-- FRAME_RESEND_TIMEOUT (R314): the oldest frame has waited 20 µs. -/
def execFrameResendTimeout (p : PortId) (s : State) : Host.Outcome State Fault Refusal :=
  let u := port s p
  if u.st ≠ .active ∨ u.replay.isEmpty then .next s else .next (resendFrames s p)

/-- ACK_REPORT (R314): the report due every 32 frames or 1 µs. -/
def execAckReport (p : PortId) (s : State) : Host.Outcome State Fault Refusal :=
  if (port s p).st ≠ .active then .next s else .next (ackFrame s p false)

/-! ### Routes and regions -/

/-- Flows whose route no longer names their port move to one that it names (R317, R324). -/
def rerouteFlows (s : State) : State :=
  (s.flows.filter (fun f => !bitAt (routeMask s f.node.toNat) f.port)).foldl moveFlow s

/-- ROUTE_WRITE (R317, R318): the masks of four nodes, for packets sent from now on. A peer whose route is emptied is UNKNOWN after
DOWN; one whose route gains an ACTIVE port is joined. -/
def execRouteWrite (idx : Fin 1024) (val : Reg64) (s : State) : Host.Outcome State Fault Refusal :=
  if !alive s then .next s
  else
    let before := (List.range 4).map (fun j => routeMask s (4 * idx.val + j))
    let s := regSet s (routeOff (4 * idx.val)) val.toNat
    let s := (List.range 4).foldl (fun s j =>
      let n := BitVec.ofNat 12 (4 * idx.val + j)
      if nthD 0 before j ≠ 0 ∧ routeMask s n.toNat = 0 ∧ (peerOf s n).st ≠ .unknown then peerDownTo s n .unknown else s) s
    .next (joinRouted (rerouteFlows s))

/-- Whether region `i` overlaps another valid region (R326). -/
def rgnOverlaps (s : State) (i : Nat) : Bool :=
  ((s.regs.filter (fun p => decide (rgnOff 0 0 ≤ p.1) && decide (p.1 < rgnOff 512 0))).map
    (fun p => (p.1 - rgnOff 0 0) / 32)).any (fun j =>
      j != i && rgnValid s j && decide (rgnBase s i < rgnBase s j + rgnSize s j) && decide (rgnBase s j < rgnBase s i + rgnSize s i))

/-- REGION_WRITE (R326, R339): a write that makes two valid entries overlap leaves the new entry invalid and sets RGN_ERR. -/
def execRegionWrite (i : Fin 512) (r : Fin 4) (val : Reg64) (s : State) : Host.Outcome State Fault Refusal :=
  if !alive s then .next s
  else
    let o := rgnOff i.val r.val
    let s := regSet s o (accessWrite (regAccess o) (regGet s o) val.toNat)
    if rgnValid s i.val ∧ rgnOverlaps s i.val then
      .next (regFlag (regClearBit s (rgnOff i.val 3) 0) (rlReg 0 0x1030) 1)
    else .next s

/-! ### Peers -/

/-- A packet that fails its tag: dropped and counted (R443). -/
def tagFail (s : State) : State := regBump s (rlReg 0 0x1038) 1

/-- Whether the tag of a HELLO (code 1) or a HELLO_ACK (code 2) verifies under the hello key (R443). -/
def helloTagOk (s : State) (code : Nat) (h : HelloMsg) : Bool :=
  h.tag == plainTag s h.node.toNat (ownNode s) code
    (helloBody h.node.toNat h.bootId.toNat h.stepping h.nonce (if code = 2 then h.echo else []))

/-- HELLO (R318, R443): answered with HELLO_ACK; a JOINING peer is UP, an UNKNOWN one JOINING, and a DOWN one UP on new
flows. A peer that says HELLO under a new BOOT_ID starts again. -/
def execHello (h : HelloMsg) (s : State) : Host.Outcome State Fault Refusal :=
  if !raileLive s ∨ h.node.toNat = ownNode s then .next s
  else if !helloTagOk s 1 h then .next (tagFail s)
  else
    let p := peerOf s h.node
    match p.st with
    | .unknown => .next (joinPeer s h.node)
    | _ =>
      let mine := drawBytes s 32
      let s := tickFree s
      let fresh := p.st = .joining ∨ p.st = .down ∨ p.bootId ≠ h.bootId
      let s := if fresh then
          let s := closePeer s h.node
          openDeviceFlow (setPeer s h.node { p with st := .up, bootId := h.bootId }) h.node false h.nonce mine
        else heardFrom s h.node
      .next (sendHello s h.node true mine h.nonce)

/-- HELLO_ACK (R318, R443): an echo of the nonce sent makes a JOINING peer UP. -/
def execHelloAck (h : HelloMsg) (s : State) : Host.Outcome State Fault Refusal :=
  if !raileLive s then .next s
  else if !helloTagOk s 2 h then .next (tagFail s)
  else
    let p := peerOf s h.node
    if p.st = .joining ∧ h.echo = p.nonce then
      .next (openDeviceFlow (setPeer s h.node { p with st := .up, bootId := h.bootId }) h.node true p.nonce h.nonce)
    else .next s

/-- HELLO_RETRY (R318): 10 ms without a reply take a JOINING peer to UNKNOWN; 100 ms later HELLO is tried again while a route
exists. -/
def execHelloRetry (n : NodeId) (s : State) : Host.Outcome State Fault Refusal :=
  if !raileLive s then .next s
  else
    let p := peerOf s n
    match p.st with
    | .joining => .next (setPeer s n { p with st := .unknown })
    | .unknown => if (routePorts s n.toNat).isEmpty then .next s else .next (joinPeer s n)
    | _ => .next s

/-- Whether the tag of a BYE verifies (R443). -/
def byeTagOk (s : State) (n : NodeId) (b : ByeMsg) : Bool :=
  b.tag == plainTag s n.toNat (ownNode s) 3 (toLE 4 b.bootId.toNat ++ b.nonce)

/-- BYE (R318): the peer is DOWN. -/
def execBye (n : NodeId) (b : ByeMsg) (s : State) : Host.Outcome State Fault Refusal :=
  if !raileLive s then .next s
  else if !byeTagOk s n b then .next (tagFail s)
  else if (peerOf s n).st = .up ∨ (peerOf s n).st = .suspect then .next (peerDownTo s n .down) else .next s

/-- KEEPALIVE (R318, R325, R329): sent to an UP peer with a stamp, a peer's own echoed with both stamps, or the echo of one sent, with
the round-trip time. -/
def execKeepalive (n : NodeId) (m : KeepaliveMsg) (s : State) : Host.Outcome State Fault Refusal :=
  if !raileLive s then .next s
  else
    match m with
    | .due => if (peerOf s n).st = .up then .next (sendCtl s n 4 (toLE 8 (rqtNow s))) else .next s
    | .asked stamp =>
      let s := heardFrom s n
      if (peerOf s n).st = .up then .next (sendCtl s n 4 (toLE 8 stamp.toNat ++ toLE 8 (rqtNow s))) else .next s
    | .echoed r =>
      if (peerOf s n).st = .up ∨ (peerOf s n).st = .suspect then
        let s := heardFrom s n
        .next (setPeer s n { peerOf s n with rttNs := Nat.min 65535 r, far := decide (regField s (rlReg 0 0x1008) 47 32 < r) })
      else .next s

/-- PEER_SUSPECT (R318). -/
def execPeerSuspect (n : NodeId) (s : State) : Host.Outcome State Fault Refusal :=
  let p := peerOf s n
  if p.st = .up then .next (setPeer s n { p with st := .suspect }) else .next s

/-- PEER_DOWN (R318, R319): 10 ms in SUSPECT. -/
def execPeerDown (n : NodeId) (s : State) : Host.Outcome State Fault Refusal :=
  if (peerOf s n).st = .suspect then .next (peerDownTo s n .down) else .next s

end Sys2Proof.Machine
end

