-- ==== Sys2Proof/Machine/Faults.lean ====
section
/-! DEFINITION. Errors, resets and degraded operation (12_faults_replay.md, R370 to R372, R381 to R394): PARITY_ERROR, SCRUB_READ,
WATCHDOG, the array and fen-die resets, DEVICE_HALT, retirements, FLT_INJECT and GET_LOG. -/

namespace Sys2Proof.Machine

/-! ### Halt -/

/-- DEVICE_HALT (R388). -/
def execDeviceHalt (source : BitVec 8) (code : BitVec 16) (s : State) : Host.Outcome State Fault Refusal :=
  if !alive s then .next s else .next (haltDevice s source.toNat 0 code.toNat)

/-! ### Arrays -/

/-- An array's own storage cleared (R383, R386, R468): scratchpad and vector registers zero, accumulator entries FREE, rings
disabled, every bank OFF with nothing pending. -/
def clearArray (u : ArrayUnit) : ArrayUnit := { st := u.st, ve := u.ve, care := u.care }

/-- An array retired (R6, R389, R390): fallow for good, out of the geometry table, with a record and an event. -/
def retireArray (s : State) (a : ArrId) : State :=
  if !arrEnabled s a.val then s
  else
    let u := arr s a
    let s := setArr s a { u with st := .fallow, ve := .fallow, care := { u.care with retired := true, testing := false } }
    logAt (geoBump (regClearBit s (glbReg 0x108) a.val)) 0 0 0x01 a.val 0x000C

/-- Entries of a list of furrows within `n` of the current one. -/
def within (now n : Nat) (xs : List Nat) : List Nat := xs.filter (fun f => decide (now < f + n))

/-- An array reset (R386): fallow at once, its work stopped, its storage cleared and its test begun; a third reset within
4,096 furrows retires it. `own` is whether the work item's own error triggered the reset. -/
def resetArray (s : State) (a : ArrId) (own : Bool) : State :=
  if !arrEnabled s a.val ∨ (arr s a).care.testing then s
  else
    let s := match itemOn s a with
      | some w => stopItem s w.id (if own then 2 else 3) 6
      | none => s
    let s := abandonArray s a
    let now := curFurrow s
    let u := arr s a
    let resets := within now 4096 (u.care.resets ++ [now])
    let care := { u.care with testing := true, disturbed := false, reruns := 0, resetAt := some now, resets := resets, errors := [] }
    let s := setArr s a (clearArray { u with st := .fallow, ve := .fallow, item := none, care := care })
    let s := logAt (dropTrim s) 4 2 0x01 a.val 0x0001
    if 3 ≤ resets.length then retireArray s a else s

/-- ARRAY_RESET (R386): a firmware request after a failed check, or an error that calls for it. -/
def execArrayReset (a : ArrId) (ownError : Bool) (s : State) : Host.Outcome State Fault Refusal :=
  if !alive s then .next s else .next (resetArray s a ownError)

/-- An attempt of an array's test that a droop or a brownout warning disturbed is discarded and run again, up to three times; when the
third such run is disturbed too, the array is treated as failing (R458, notes/assumptions/92.md). -/
def runAgain (s : State) (a : ArrId) : Option State :=
  let u := arr s a
  if u.care.disturbed ∧ u.care.reruns < 3 then
    some (setArr s a { u with care := { u.care with disturbed := false, reruns := u.care.reruns + 1 } })
  else none

/-- ARRAY_TEST_DONE (R386, R458, R467): after a pass the array rejoins sowing at the second tick after its reset began, outside
OP1 to OP3 with its full test pending; a failure retires it. -/
def execArrayTestDone (a : ArrId) (pass : Bool) (s : State) : Host.Outcome State Fault Refusal :=
  let u := arr s a
  if !alive s ∨ !u.care.testing ∨ u.care.resetAt.isNone then .next s
  else match runAgain s a with
  | some s => .next s
  | none =>
    if !pass ∨ u.care.disturbed then .next (retireArray s a)
    else
    let s := setArr s a { u with care := { u.care with testing := false } }
    if 1 ≤ s.power.op ∧ s.power.op ≤ 3 then .next s else .next (regFlag s (bistReg 0x20) a.val)

/-- An error of R371 in an array's own storage: its work item is stopped across its gang, and the second error within 64
furrows resets the array instead (R386), which is the error's class (R373). -/
def arrayError (s : State) (a : ArrId) (source : Nat) : State :=
  let now := curFurrow s
  let u := arr s a
  let errs := within now 64 (u.care.errors ++ [now])
  let s := setArr s a { u with care := { u.care with errors := errs } }
  if 2 ≤ errs.length then resetArray s a true
  else match itemOn s a with
    | some w => stopItem (logItem s w 1 source a.val 0x0001) w.id 2 0
    | none => logAt s 1 0 source a.val 0x0001

/-! ### The control complex -/

/-- A core restarts (R382): CORRECTED, or a halt on a third restart within 64 furrows, when all four cores restart at once, or when the
firmware copy that the code is reloaded from is poisoned (R380). In the last furrow of a window the headland's actions carry over. -/
def restartCore (s : State) (c : Fin 4) (code : Nat) : State :=
  let now := curFurrow s
  let rs := (s.faults.restarts.filter (fun r => decide (now < r.2 + 64))) ++ [(c.val, now)]
  let s := { s with faults := { s.faults with restarts := rs } }
  let together := (List.range 4).all (fun k => rs.any (fun r => r.1 == k && r.2 == now))
  if 3 ≤ rs.length ∨ together ∨ poisoned s (reserveLine s 8 0) 256 then haltDevice s 0x0B c.val code
  else
    let s := logAt (regFlag (regBump s (fltReg 0x070) 1) (fltReg 0x008) 2) 0 0 0x0B c.val code
    if s.tick.inWindow = s.tick.windowM1 ∧ !s.tick.headDone then { s with faults := { s.faults with cutCarry := true } } else s

/-- WATCHDOG (R381, R382). -/
def execWatchdog (c : Fin 4) (s : State) : Host.Outcome State Fault Refusal :=
  if !alive s ∨ halted s then .next s else .next (restartCore s c 0x0007)

/-! ### Fen dies -/

/-- A fen die reset (R387): every work item is cut with cause RESET, the die's slice and engines start empty and its ports
retrain. FD0, or a second reset of a die within 1 s, halts the device. -/
def resetDie (s : State) (die : Fin 4) (code : Nat) : State :=
  let now := rqtNow s
  if halted s then s
  else if die = 0 ∨ s.faults.dieReset.any (fun r => r.1 == die.val && decide (now < r.2 + 100000000)) then
    haltDevice s 0x08 die.val code
  else
    let s := stopAll s 6
    let s := { s with
      faults := { s.faults with
        dieReset := s.faults.dieReset.filter (fun r => r.1 != die.val) ++ [(die.val, now)]
        dieDown := addN die.val s.faults.dieDown }
      mere := s.mere.set die { s.mere[die] with lines := [], plru := [] } }
    let s := (List.range 8).foldl (fun s k =>
      showFault (setFe s (feId (8 * die.val + k)) { fe s (feId (8 * die.val + k)) with slots := [], waitq := [], faults := [] })
        (feId (8 * die.val + k))) s
    let s := (List.range 4).foldl (fun s k => retrainPort s (Fin.ofNat 16 (4 * die.val + k))) s
    logAt s 4 3 0x08 die.val code

/-- FEN_DIE_RESET (R387). -/
def execFenDieReset (die : Fin 4) (s : State) : Host.Outcome State Fault Refusal :=
  if !alive s then .next s else .next (resetDie s die 0x0006)

/-- STACKS_LEAVE_SELF_REFRESH (R387): work may resume at the next tick. -/
def execStacksLeaveSelfRefresh (die : Fin 4) (s : State) : Host.Outcome State Fault Refusal :=
  .next { s with faults := { s.faults with dieDown := s.faults.dieDown.filter (· != die.val) } }

/-! ### Parity -/

/-- A parity error of a structure that one work item uses: the item is stopped. -/
def itemError (s : State) (id source : Nat) : State := match itemOf s id with
  | some w => stopItem (logItem s w 1 source w.leader 0x0001) id 2 0
  | none => s

/-- An error of R371 noted in an array (R386). -/
def noteError (s : State) (a : ArrId) : State :=
  let u := arr s a
  setArr s a { u with care := { u.care with errors := within (curFurrow s) 64 (u.care.errors ++ [curFurrow s]) } }

/-- A parity error of the slot epochs or ring pointers of a work item's arrays (R371): the item is stopped, and an array's second error
within 64 furrows resets it (R386). -/
def counterError (s : State) (id : Nat) : State :=
  match itemOf s id with
  | some w =>
    let s := (gangArrays w).foldl noteError s
    let again := (gangArrays w).filter (fun a => decide (2 ≤ (arr s a).care.errors.length))
    if again.isEmpty then itemError s id 0x02 else again.foldl (fun s a => resetArray s a true) s
  | none => s

/-- A corrupted write is detected (R394). -/
def found (s : State) (source unit : Nat) : State :=
  { s with faults := { s.faults with corrupt := s.faults.corrupt.filter (fun x => x != (source, unit)) } }

/-- PARITY_ERROR (R371): each structure's row. Counted in PARITY_ERR, but for the retry of a die-to-die link. -/
def execParityError (x : ParityStruct) (s : State) : Host.Outcome State Fault Refusal :=
  if !alive s ∨ halted s then .next s
  else
    let p := regBump s (fltReg 0x068) 1
    match x with
    | .arrayStore a => .next (arrayError p a 0x01)
    | .spad a => .next (arrayError (found p 2 a.val) a 0x02)
    | .vectorRegs a => .next (arrayError (found p 3 a.val) a 0x03)
    | .beat id => .next (itemError p id 0x01)
    | .mereCache die line =>
      let p := found p 6 die.val
      let m := p.mere[die]
      .next (logAt { p with mere := p.mere.set die { m with lines := m.lines.filter (fun l => l.line != line) } } 0 0 0x06 die.val 0x0001)
    | .feTranslation f => .next (logAt (found p 5 f.val) 0 0 0x05 f.val 0x0001)
    | .feSlots f =>
      let p := found p 5 f.val
      let u := fe p f
      let ids := ((u.slots.map (·.2.item)) ++ (u.waitq.map (·.item))).eraseDups
      .next (logAt (ids.foldl (fun s id => stopItem s id 2 0) p) 1 0 0x05 f.val 0x0001)
    | .itemCounters id => .next (counterError p id)
    | .repairMap a => .next (resetArray p a true)
    | .rqtEntry i ok => if ok && !poisoned p (reserveLine p 3 i.val) 256 then .next (logAt p 0 0 0x0D i.val 0x0001) else .next (haltDevice p 0x0D i.val 0x0001)
    | .roleTable => .next (haltDevice p 0x0C 0 0x0001)
    | .tickUnit => .next (haltDevice p 0x11 0 0x0001)
    | .tenantKey t => .next (tenantFault p t 0x0E t.val 0x0001 true)
    | .deviceKey => .next (haltDevice p 0x0E 16 0x0001)
    | .core c => .next (restartCore p c 0x0001)
    | .controlSram c => .next (restartCore p c 0x0001)
    | .firmwareCopy => .next (haltDevice p 0x0B 0 0x0001)
    | .d2dRetry die => .next (logAt (regBump s (fltReg 0x078) 1) 0 0 0x08 die.val 0x0005)
    | .d2dLost die => .next (resetDie s die 0x0006)

/-! ### HBM -/

/-- SCRUB_READ (R372): one line read in idle cycles, corrected or poisoned. A line beyond the HBM capacity is reserved (R30). -/
def execScrubRead (line : Nat) (ecc : EccResult) (s : State) : Host.Outcome State Fault Refusal :=
  if !alive s ∨ regField s (fltReg 0) 0 0 = 0 ∨ s.power.asleep ∨ s.faults.dieDown.contains (dpaPc (line * 256) / 160) then .next s
  else if hbmCap s ≤ line * 256 then .next (reservedDpa s (dpaPc (line * 256)))
  else
    let s := hbmRead false (regBump s (fltReg 0x060) 1) (line * 256)
    match ecc with
    | .clean => .next s
    | .corrected n => .next (eccCorrect s (line * 256) n)
    | .uncorrectable => .next (eccPoison s (line * 256) false)

/-- PC_RETIRE (R389 to R391): a pseudo-channel that meets its condition is retired. -/
def execPcRetire (pc : Fin 640) (s : State) : Host.Outcome State Fault Refusal :=
  if !alive s then .next s else .next (retirePc s pc.val)

/-- REDIRECT_COPY_DONE (R391): every line of the slot's pseudo-channel has been read and copied, one that could not be corrected
poisoned. -/
def execRedirectCopyDone (slot : Fin 2) (s : State) : Host.Outcome State Fault Refusal :=
  match slotPc s slot.val with
  | none => .next s
  | some pc =>
    let old := (s.faults.injected.map (fun x => x.1 / 8)).eraseDups.filter (fun l => dpaPc (l * 256) == pc)
    let s := old.foldl (fun s l => hbmRead false s (l * 256)) s
    let s := { s with faults := { s.faults with copyFrom := s.faults.copyFrom.filter (fun x => x.1 != slot.val) } }
    .next (regFlag s (fltReg 0x018) (16 * slot.val + 14))

/-- FLT_INJECT (R394): a SOURCE that is not accepted is not stored, the other fields are (notes/assumptions/83.md). -/
def execFltInject (val : Reg64) (s : State) : Host.Outcome State Fault Refusal :=
  let v := val.toNat
  let o := fltReg 0x080
  if !alive s then .next s
  else
    let src := if [2, 3, 5, 6, 7].contains (bits v 47 40) then bits v 47 40 else regField s o 47 40
    .next (regSet s o (accessWrite (regAccess o) (regGet s o) (putBits v 47 40 src)))

/-! ### The log -/

/-- Bytes of the fault log from an offset on (R392): a record that is not held reads with TYPE 0. -/
def logBytes (s : State) (off len : Nat) : List Byte :=
  let r (k : Nat) : List Byte := match s.faults.log.find? (fun x => x.fseq == k) with
    | some x => faultBytes x
    | none => List.replicate 64 0
  slice ((List.range (len / 64 + 2)).flatMap (fun j => r (off / 64 + j))) (off % 64) len

/-- GET_LOG (R353, R392, R393): LOG 0 is the fault log, LOG 1 the event log. -/
def execGetLog (m : Mbox) (p : List Byte) (s : State) : Host.Outcome State Fault Refusal :=
  bruah { owner := true, len := 0x1C, i3c := true, onStop := true, onHalt := true } m p (!zeroAt p 9 7) s (fun _ s =>
    let off := fld p 0x10 8
    let len := fld p 0x18 4
    if 1 < fld p 8 1 ∨ len = 0 ∨ 4088 < len then (s, 5, [])
    else if fld p 8 1 = 0 then
      let seen := Nat.min (regGet s (fltReg 0x010)) ((off + len) / 64)
      ({ s with faults := { s.faults with readUpTo := Nat.max s.faults.readUpTo seen } }, 0, logBytes s off len)
    else (s, 0, slice s.faults.ownerEvents.flatten off len))

end Sys2Proof.Machine
end

