-- ==== Sys2Proof/Machine/Power.lean ====
section
/-! DEFINITION. Power, droop and thermal control (13_power_thermal.md, R395 to R424, and R476, R477): the window pair at headlands and
ticks, SET_CAP, the loops between headlands, sensors, stops and RESTART, and energy accounting. -/

namespace Sys2Proof.Machine

/-! ### Setpoint and pair -/

/-- RAISE_HELD (R409) after a change of the pair. -/
def showRaise (s : State) : State := regPut s (pwrReg 0x010) 4 4 (b2n s.power.raiseTo.isSome)

/-- A change with IMMEDIATE affects every request whose work is booked (R227). -/
def noteBooked (s : State) (c : Nat) : State :=
  s.rqt.foldl (fun s p =>
    if !(workOf s p.1).chain.isEmpty ∨ s.rounds.any (fun r => r.seats.contains p.1) then noteCause s p.1 c else s) s

/-- The window pair chosen at a headland (R225 action 2, R404, R406, R409) for the window that it begins: a raise of the last window
that has taken place is booked first, then what is in force gives the new pair. What the owner asked for in the window's last furrow waits
(R224); a change with IMMEDIATE that no tick has applied yet lands here, with its cause (R227). -/
def headlandPair (s : State) : State :=
  let s := match s.power.imm with
    | some x => if x.cause = 2 then noteBooked s 2 else s
    | none => s
  let p := s.power
  let wop := match p.raiseTo with
    | some t => if p.raised then t else p.wop
    | none => p.wop
  let late := match p.pend with
    | some q => q.late
    | none => false
  let q := if late then capInForce s else capAsked s
  let c := choosePair s q (cappedAt s q.owner (s.tick.window + 1))
  let lower := decide (wop ≤ c.1)
  let s := floorFlag s c.2.2.2
  showRaise { s with power := { p with
    baseW := q.owner
    planSrc := q.src
    limitK := q.limit
    effW := c.2.2.1
    pend := if late then p.pend else none
    imm := none
    immOn := 0
    wsluice := c.2.1
    wop := if lower then c.1 else wop
    raiseTo := if lower then none else some c.1
    raised := !lower && p.op == c.1 } }

/-- Whether a frequency change is permitted at an RQT_TIME (R409, R414): no detector within 2 µs, no droop, no warning. -/
def changeAllowed (s : State) (now : Nat) : Bool :=
  !s.power.droop && !s.power.brownout && (match s.power.droopAt with
    | some t => decide (t + 200 ≤ now)
    | none => true)

/-- Whether VDD_ARR telemetry is within 10 mV of an operating point's setpoint (R409). -/
def vddReady (s : State) (op : Nat) : Bool :=
  s.power.vddSet == trimmed s op && decide (s.power.vddArr ≤ trimmed s op + 10) && decide (trimmed s op ≤ s.power.vddArr + 10)

/-- The frequency switched to an operating point at a tick, or the change deferred (R409): a raise needs its voltage, and after a
lowering the voltage follows. -/
def switchOp (s : State) (now op : Nat) : State × Bool :=
  if s.power.op = op then (s, true)
  else if !changeAllowed s now ∨ (op < s.power.op ∧ !vddReady s op) then (regBump s (pwrReg 0x058) 1, false)
  else
    let up := decide (op < s.power.op)
    let s := { s with power := { s.power with op := op } }
    (if up then s else setVddOp s op, true)

/-- What a tick does to the pair (R407, R409): the pair of a change with IMMEDIATE first, else the operating point that booking
asks for. -/
def tickPair (s : State) (now : Nat) : State :=
  if stopped s then s
  else match s.power.imm with
    | some x =>
      if !changeAllowed s now ∨ (x.op < s.power.op ∧ !vddReady s x.op) then regBump s (pwrReg 0x058) 1
      else
        let lower := decide (s.power.wop ≤ x.op)
        let s := (switchOp s now x.op).1
        let s := if x.cause = 2 then noteBooked s 2 else s
        showRaise { s with power := { s.power with
          imm := none
          immOn := if x.lowers then x.cause else 0
          wsluice := x.k
          wop := if lower then x.op else s.power.wop
          raiseTo := if lower then none else some x.op
          raised := !lower } }
    | none => match s.power.raiseTo with
      | some t =>
        if s.power.raised then s
        else if s.power.op ≠ s.power.wop ∧ s.power.op ≠ t then (switchOp s now s.power.wop).1
        else
          let r := switchOp s now t
          { r.1 with power := { r.1.power with raised := r.2 } }
      | none => (switchOp s now s.power.wop).1

/-- OP_RAISE_PREPARE (R409): the regulator is set to the voltage of the raise that the coming tick makes. -/
def execOpRaisePrepare (s : State) : Host.Outcome State Fault Refusal :=
  let target := match s.power.imm with
    | some x => some x.op
    | none => if s.power.raised then none else s.power.raiseTo
  match target with
  | some t => if t < s.power.op ∧ alive s ∧ !stopped s then .next (setVddOp s t) else .next s
  | none => .next s

/-! ### Owner writes -/

/-- The owner cap set (R406, R407, R408): a change during a stop, or before the first tick, waits for a headland. -/
def setOwnerCap (s : State) (w : Nat) (immediate : Bool) : State :=
  let s := { s with power := { s.power with ownerW := clampCap w } }
  if immediate ∧ !stopped s ∧ s.tick.started then capNow s else capChange s

/-- The effective cap that the latest change implies (R406). -/
def impliedCap (s : State) : Nat := match s.power.pend with
  | some q => q.effW
  | none => s.power.effW

/-- SET_CAP (R353, R406 to R408, R420). -/
def execSetCap (m : Mbox) (p : List Byte) (s : State) : Host.Outcome State Fault Refusal :=
  bruah { owner := true, len := 0x0B, i3c := true, onStop := true } m p (bits (fld p 0x0A 1) 7 1 != 0) s (fun _ s =>
    let w := fld p 8 2
    if w < 500 ∨ 1600 < w then (s, 5, [])
    else
      let s := setOwnerCap s w (bitAt (fld p 0x0A 1) 0)
      (s, 0, toLE 2 (impliedCap s)))

/-- PWR_CFG as stored: DROOP_MV at least 12 and SLUICE_LIMIT within 1 to 8 (R424). -/
def pwrCfgStored (old new : Nat) : Nat :=
  let v := accessWrite (regAccess (pwrReg 0x008)) old new
  let v := putBits v 15 8 (Nat.max 12 (bits v 15 8))
  putBits v 3 0 (Nat.max 1 (Nat.min 8 (bits v 3 0)))

/-- PWR_CFG_WRITE (R397, R398, R405): a change of PLAN_SRC or SLUICE_LIMIT acts as a cap change; without AVS_EN nothing is
trimmed. -/
def execPwrCfgWrite (val : Reg64) (s : State) : Host.Outcome State Fault Refusal :=
  if !alive s then .next s
  else
    let old := regGet s (pwrReg 0x008)
    let new := pwrCfgStored old val.toNat
    let s := regSet s (pwrReg 0x008) new
    let s := if bitAt new 4 then s else dropTrim s
    if bits old 3 0 ≠ bits new 3 0 ∨ bitAt old 5 ≠ bitAt new 5 then .next (capChange s) else .next s

/-! ### Telemetry and loops -/

/-- A record of the power unit (R415). -/
def logPower (s : State) (cls unit code : Nat) : State := logAt s cls 4 0x10 unit code

/-- The rails in the order of R399. -/
def rails : List Rail := [.arr, .ctl, .fen, .d2d, .ser, .serh, .hbm, .hbmq, .vpp, .io]

/-- Limit of a rail in mA, and its nominal voltage in mV (R399); VDD_ARR's is its setpoint. -/
def railLimit (s : State) : Rail → Nat × Nat
  | .arr => (s.power.vddSet, 1400000)
  | .ctl => (750, 140000)
  | .fen => (750, 180000)
  | .d2d => (750, 60000)
  | .ser => (750, 90000)
  | .serh => (1200, 30000)
  | .hbm => (1100, 200000)
  | .hbmq => (400, 220000)
  | .vpp => (1800, 20000)
  | .io => (1800, 2000)

/-- A value kept by rail. -/
def railGet {α : Type} (d : α) (r : Rail) (xs : List (Rail × α)) : α := ((xs.find? (fun x => x.1 == r)).map (·.2)).getD d

/-- A value kept by rail, replaced. -/
def railSet {α : Type} (r : Rail) (v : α) (xs : List (Rail × α)) : List (Rail × α) := xs.filter (fun x => x.1 != r) ++ [(r, v)]

/-- One rail of a sample (R400): its value, or a miss. -/
def sampleRail (xs : List RailSample) (s : State) (r : Rail) : State :=
  match (xs.find? (fun x => x.rail == r)).bind (·.value) with
  | some v =>
    { s with power := { s.power with lastRail := railSet r v s.power.lastRail, misses := railSet r 0 s.power.misses } }
  | none =>
    let n := railGet 0 r s.power.misses + 1
    regBump { s with power := { s.power with misses := railSet r n s.power.misses } } (pwrReg 0x068) 1

/-- Power of a rail in mW: the last values, or the rail's limit after 10 misses (R400). -/
def railMw (s : State) (r : Rail) : Nat :=
  let v := if 10 ≤ railGet 0 r s.power.misses then railLimit s r else railGet (0, 0) r s.power.lastRail
  v.1 * v.2 / 1000

/-- TELEMETRY_SAMPLE (R400): each rail is read; package power joins the last 10 samples, and TELEM_LOST follows the misses. -/
def execTelemetrySample (xs : List RailSample) (s : State) : Host.Outcome State Fault Refusal :=
  if !alive s then .next s
  else
    let was := rails.any (fun r => decide (10 ≤ railGet 0 r s.power.misses))
    let s := rails.foldl (sampleRail xs) s
    let lost := rails.any (fun r => decide (10 ≤ railGet 0 r s.power.misses))
    let samples := ((sumN (rails.map (railMw s))) :: s.power.samples).take 10
    let s := { s with power := { s.power with samples := samples, vddArr := (railGet (0, 0) .arr s.power.lastRail).1 } }
    let s := regPut s (pwrReg 0x028) 15 0 (sumN samples / (1000 * samples.length))
    if lost ∧ !was then .next (logPower (regFlag s (pwrReg 0x010) 5) 0 0 0x15)
    else if lost then .next (regFlag s (pwrReg 0x010) 5)
    else if was then .next (regPut s (pwrReg 0x010) 5 5 0)
    else .next s

/-- The average of package power exceeds `pct` percent of the effective cap (R410). -/
def aboveCap (s : State) (pct : Nat) : Bool :=
  decide (pct * s.power.effW * 1000 * s.power.samples.length < 100 * sumN s.power.samples)

/-- CAP_LOOP (R410): one 100 µs interval, with the clocks that the limit withheld in it. -/
def execCapLoop (withheld : Nat) (s : State) : Host.Outcome State Fault Refusal :=
  if !alive s then .next s
  else
    let s := regBump s (pwrReg 0x040) withheld
    let p := s.power
    if aboveCap s 100 then
      let atFloor := decide (p.capLim ≤ 1) && p.op == 5
      let n := if atFloor then p.floorFor + 1 else 0
      let s := { s with power := { p with capLim := Nat.max 1 (p.capLim - 1), capCalm := 0, floorFor := n } }
      if n = 100 then .next (logPower (regFlag s (pwrReg 0x010) 0) 0 0 0x14) else .next s
    else
      let calm := if aboveCap s 97 then 0 else p.capCalm + 1
      let lim := if 10 ≤ calm then Nat.min 8 (p.capLim + 1) else p.capLim
      .next { s with power := { p with capLim := lim, capCalm := Nat.min 10 calm, floorFor := 0 } }

/-- CURRENT_LIMIT (R411). -/
def execCurrentLimit (s : State) : Host.Outcome State Fault Refusal :=
  if !alive s then .next s
  else
    let s := { s with power := { s.power with curLim := Nat.max 1 (s.power.curLim / 2) } }
    .next (logPower (regBump s (pwrReg 0x048) 1) 0 0 0x12)

/-- CURRENT_LIMIT_RISE (R411). -/
def execCurrentLimitRise (s : State) : Host.Outcome State Fault Refusal :=
  if !alive s then .next s else .next { s with power := { s.power with curLim := Nat.min 8 (s.power.curLim + 1) } }

/-- A droop or a brownout warning while tests run (R458): the attempt of every array under test is to be discarded. -/
def disturbTests (s : State) : State :=
  forArrays s (fun s a =>
    let u := arr s a
    if u.care.testing then setArr s a { u with care := { u.care with disturbed := true } } else s)

/-- DROOP_DETECT (R412): the clock period doubles. A test that runs is disturbed (R458). -/
def execDroopDetect (s : State) : Host.Outcome State Fault Refusal :=
  if !alive s then .next s
  else
    let s := disturbTests s
    .next (regFlag { s with power := { s.power with droop := true, droopAt := some (rqtNow s) } } (pwrReg 0x010) 1)

/-- DROOP_END (R412): the clock returns to normal; PWR_STRETCH counts the extra nominal periods. -/
def execDroopEnd (extra : Nat) (s : State) : Host.Outcome State Fault Refusal :=
  if !s.power.droop then .next s
  else .next (regPut (regBump { s with power := { s.power with droop := false } } (pwrReg 0x038) extra) (pwrReg 0x010) 1 1 0)

/-- BROWNOUT_WARN (R413), during a stop too. A test that runs is disturbed (R458). -/
def execBrownoutWarn (s : State) : Host.Outcome State Fault Refusal :=
  if !alive s ∨ s.power.brownout then .next s
  else
    let s := disturbTests { s with power := { s.power with brownout := true, broLim := 1 } }
    .next (logPower (regBump (regFlag s (pwrReg 0x010) 2) (pwrReg 0x050) 1) 0 0 0x11)

/-- The end of a warning (R413, R414). -/
def clearBrownout (s : State) : State :=
  regPut { s with power := { s.power with brownout := false, broLim := 8 } } (pwrReg 0x010) 2 2 0

/-- BROWNOUT_CLEAR (R413). -/
def execBrownoutClear (s : State) : Host.Outcome State Fault Refusal :=
  if s.power.brownout then .next (clearBrownout s) else .next s

/-- Whether a test runs (R458): a BIST run, or the test of an array reset. -/
def anyTest (s : State) : Bool :=
  regField s (bistReg 0) 1 1 == 1 || (List.finRange 64).any (fun a => (arr s a).care.testing && !s.bist.back.contains a.val)

/-- AVS_TRIM (R398): one step of 5 mV, at most one per 100 µs and never within 2 µs of a droop. The trim is held at 0 while a test
runs (R458). -/
def execAvsTrim (lower : Bool) (s : State) : Host.Outcome State Fault Refusal :=
  let t := s.power.trim
  let near := s.power.droop || (match s.power.droopAt with
    | some d => decide (rqtNow s < d + 200)
    | none => false)
  let soon : Bool := match s.power.trimAt with
    | some d => decide (rqtNow s < d + 10000)
    | none => false
  if !alive s ∨ stopped s ∨ regField s (pwrReg 0x008) 4 4 = 0 ∨ anyTest s ∨ near ∨ soon then .next s
  else
    let t' := if lower then (if t + 5 ≤ 30 ∧ 660 + t + 5 ≤ voltOf s s.power.vddOp then t + 5 else t) else t - 5
    if t' = t then .next s
    else
      let s := { s with power := { s.power with trim := t', trimAt := some (rqtNow s) } }
      .next (setVddOp s s.power.vddOp)

/-! ### Stops -/

/-- STOP_CAUSE codes (R424). -/
def stopCode : StopCause → Nat
  | .none => 0
  | .flow => 1
  | .trip => 2
  | .supply => 3

/-- Activate FW completes in the background with its failure (R348, R460). -/
def failActivate (s : State) : State :=
  if !s.fw.waiting then s
  else
    let b := mboxOf s .owner
    let s := { s with fw := { s.fw with waiting := false } }
    sendMsix (setMbox s .owner { b with bg := none, bgPct := 100, bgRet := 0x000C }) .owner 0

/-- What a stop does to the power-up BIST (R465): its tests end, to run again after the stop; the third stop ends it with FATAL
set. -/
def stopBist (s : State) : State :=
  if regField s (bistReg 0) 15 12 ≠ 2 then s
  else
    let n := s.bist.stopped + 1
    let s := { s with bist := { s.bist with stopped := n } }
    if n < 3 then s else failActivate (regSet s (bistReg 0) (putBits (regGet s (bistReg 0)) 15 0 5))

/-- A stop (R419): running work is cut with cause STOP and adds nothing to its stop count, BYE goes to the peers, the ports become
DISABLED, the stacks go into self-refresh and VDD_ARR falls to 600 mV. A later cause is only logged; of causes within one TICK_REF period FLOW comes before TRIP
before SUPPLY (R477). -/
def stopDevice (s : State) (c : StopCause) : State :=
  let s := if c = .trip then { regFlag s (pwrReg 0x010) 6 with pins := { s.pins with thermtripLow := true } } else s
  let s := if stopped s then
      if s.power.stopAt = rqtNow s ∧ stopCode c < regField s (pwrReg 0x010) 9 8 then regPut s (pwrReg 0x010) 9 8 (stopCode c) else s
    else
      let s := regPut (regFlag s (pwrReg 0x010) 7) (pwrReg 0x010) 9 8 (stopCode c)
      let s := stopAll s 5
      let s := byeAll s
      let s := (List.range 16).foldl (fun s k => stopPort s (Fin.ofNat 16 k)) s
      let s := raiseIbi (stopBist s) 1
      setVdd { s with power := { s.power with stopAt := rqtNow s, asleep := true, missed := true } } 600
  logPower s 5 0 0x10

/-- SUPPLY_RESET (R413, R414). -/
def execSupplyReset (s : State) : Host.Outcome State Fault Refusal :=
  if !alive s then .next s else .next (stopDevice (if s.power.brownout then clearBrownout s else s) .supply)

/-- FLOW_FAIL (R476, R477): low for 500 ns stops the device once firmware runs; before, BIST waits (R465). High again, a stop stays
in force. -/
def execFlowFail (low : Bool) (s : State) : Host.Outcome State Fault Refusal :=
  if !s.pins.pwrgood then .next s
  else
    let was := s.pins.flowFailN
    let s := { s with pins := { s.pins with flowFailN := !low } }
    let s := if low ∧ regField s (bistReg 0) 1 1 = 1 then regFlag s (bistReg 0) 3 else s
    if low ∧ was ∧ alive s ∧ s.fw.running then .next (stopDevice s .flow) else .next s

/-- Temperatures of every die sensor: arrays, then two per fen die (R416). -/
def dieTemps (s : State) : List Nat :=
  (List.range 64).map (fun a => (arr s (arrId a)).care.temp) ++ (List.range 8).map (fun k => (lookupN (64 + k) s.temps).getD 0)

/-- Temperatures of the stacks (R416). -/
def stackTemps (s : State) : List Nat := (List.range 20).map (fun k => (lookupN (80 + k) s.temps).getD 0)

/-- Whether RESTART may leave the stop (R421). -/
def mayRestart (s : State) : Bool :=
  s.pins.flowFailN && (dieTemps s).all (fun t => decide (t ≤ 85)) && (stackTemps s).all (fun t => decide (t ≤ 85))
  && decide (s.power.vddArr * 50 ≤ s.power.vddSet * 51) && decide (s.power.vddSet * 49 ≤ s.power.vddArr * 50)

/-- The end of a stop (R421): THERMTRIP_N released, VDD_ARR at the window pair's voltage, the stacks awake, the enabled ports train. The
operating point changes at a tick, as ever (R409). -/
def leaveStop (s : State) : State :=
  let s := { regPut (regPut s (pwrReg 0x010) 6 6 0) (pwrReg 0x010) 7 7 0 with pins := { s.pins with thermtripLow := false } }
  let s := setVddOp { s with power := { s.power with raised := false, asleep := false } } s.power.wop
  (List.range 16).foldl (fun s k =>
    if regField s (rlReg k 0) 0 0 = 1 ∧ raileLive s ∧ (port s (Fin.ofNat 16 k)).st = .disabled then startTraining s (Fin.ofNat 16 k)
    else s) s

/-- RESTART (R353, R421). -/
def execRestart (m : Mbox) (p : List Byte) (s : State) : Host.Outcome State Fault Refusal :=
  bruah { owner := true, i3c := true, onStop := true } m p false s (fun _ s =>
    if !stopped s then (s, 9, [])
    else if !mayRestart s then (s, 0x0A, [])
    else (leaveStop s, 0, []))

/-! ### Sensors -/

/-- One array's thermal sluice after a reading of its sensor, 10 µs after the one before (R417): a step down at the first reading of
100 °C and then every 100 µs, a step up after each 1 ms below 97 °C. -/
def thermalStep (c : ArrCare) : ArrCare :=
  if 100 ≤ c.temp then
    let down := c.hot % 10 == 0
    let k := if down then Nat.max 1 (c.thermal - 1) else c.thermal
    { c with thermal := k, hot := c.hot + 1, calm := 0, throttled := true }
  else if c.temp < 97 ∧ c.thermal < 8 then
    if c.calm + 1 = 100 then { c with thermal := c.thermal + 1, hot := 0, calm := 0, throttled := true }
    else { c with hot := 0, calm := c.calm + 1, throttled := true }
  else { c with hot := 0, calm := 0, throttled := c.throttled || decide (c.thermal < 8) }

/-- A reading taken by every array in turn; the first throttling of an array is recorded (R415, R417). -/
def thermalArray (s : State) (a : ArrId) : State :=
  let u := arr s a
  let c := thermalStep u.care
  let s := setArr s a { u with care := c }
  if u.care.thermal = 8 ∧ c.thermal < 8 then logPower s 0 a.val 0x13 else s

/-- Whether any thermal sluice is below 8/8. -/
def throttledNow (s : State) : Bool := (List.range 64).any (fun a => decide ((arr s (arrId a)).care.thermal < 8))

/-- PWR_STATUS.THROTTLE after a reading. -/
def showThrottle (s : State) : State := regPut s (pwrReg 0x010) 3 3 (b2n (throttledNow s))

/-- A die sensor at 105 °C (R417): every array at 1/8 and OP5 applied as under R407; below it the pairs are free again at the next
choice. -/
def thermalOp5 (s : State) (hot : Bool) : State :=
  let was := s.power.thermOp5
  let s := { s with power := { s.power with thermOp5 := hot } }
  if !hot then s
  else
    let s := forArrays s (fun s a =>
      setArr s a { arr s a with care := { (arr s a).care with thermal := 1, calm := 0, throttled := true } })
    if was then s else logPower (capThermal s) 0 64 0x13

/-- Thermal throttling affects the requests whose work runs on a throttled array, or beside a hot stack (R227, R417, R418). -/
def noteThermal (s : State) : State :=
  s.items.foldl (fun s w =>
    if s.power.hotStack ∨ (gangArrays w).any (fun a => (arr s a).care.throttled) then noteItem s w 4 else s) s

/-- The readings stored. -/
def storeTemps (s : State) (t : Temps) : State :=
  let s := t.arrays.foldl (fun s x => setArr s x.1 { arr s x.1 with care := { (arr s x.1).care with temp := x.2 } }) s
  let tm := t.fen.foldl (fun m x => insertN (64 + 2 * x.1.1.val + x.1.2.val) x.2 m) s.temps
  { s with temps := t.hbm.foldl (fun m x => insertN (80 + x.1.val) x.2 m) tm, power := { s.power with sensed := true } }

/-- PWR_TEMP_MAX: the hottest die sensor, the lowest number of equals (R424). -/
def hottest (s : State) : Nat × Nat :=
  match findIdxFrom (fun t => t == maxN (dieTemps s)) (dieTemps s) 0 with
  | some (i, t) => (i, t)
  | none => (0, 0)

/-- SENSOR_READ (R416 to R418): one reading of the die sensors, every 10 µs, and of the stacks named. -/
def execSensorRead (t : Temps) (s : State) : Host.Outcome State Fault Refusal :=
  if !alive s then .next s
  else
    let s := storeTemps s t
    let h := hottest s
    let s := regPut (regPut s (pwrReg 0x030) 7 0 h.2) (pwrReg 0x030) 15 8 h.1
    let s := forArrays s thermalArray
    let s := thermalOp5 s (decide (105 ≤ h.2))
    let s := { s with power := { s.power with hotStack := (stackTemps s).any (fun x => decide (95 < x)) } }
    let s := noteThermal (showThrottle (if throttledNow s then regBump s (pwrReg 0x060) 10 else s))
    if (115 ≤ h.2 ∨ (stackTemps s).any (fun x => decide (105 ≤ x))) ∧ s.pins.thermtripLow = false then .next (stopDevice s .trip)
    else .next s

/-! ### Energy -/

/-- µJ charged to a request, its queue and its LD (R423). -/
def chargeEntry (s : State) (i uj : Nat) : State :=
  match lookupN i s.rqt with
  | none => s
  | some e =>
    let s := setEntry s i { e with energy := e.energy + uj }
    regBump (regBump s (pwrReg (0x400 + 8 * e.queue)) uj) (pwrReg (0x200 + 8 * e.ld)) uj

/-- µJ of a bearer's share, with what could be charged to an account (R422, R423). A round's share is split by the positions each
seat fed. -/
def chargeBearer (s : State) (b : Bearer) (uj : Nat) : State × Nat :=
  match b with
  | .entry i => if (lookupN i s.rqt).isSome then (chargeEntry s i uj, uj) else (s, 0)
  | .round seats =>
    let n := sumN (seats.map (·.2))
    seats.foldl (fun (x : State × Nat) seat =>
      let part := if n = 0 then 0 else uj * seat.2 / n
      if (lookupN seat.1 x.1.rqt).isSome then (chargeEntry x.1 seat.1 part, x.2 + part) else x) (s, 0)
  | .ld t => (regBump s (pwrReg (0x200 + 8 * t.val)) uj, uj)
  | .device => (s, 0)

/-- The energy of a group of rails, in nJ, shared in proportion to an activity: shares in whole µJ, rounded down (R422). -/
def shareEnergy (nj : Nat) (act : List (Bearer × Nat)) (x : State × Nat) : State × Nat :=
  let n := sumN (act.map (·.2))
  act.foldl (fun (x : State × Nat) b =>
    let r := chargeBearer x.1 b.1 (if n = 0 then 0 else nj * b.2 / n / 1000)
    (r.1, x.2 + r.2)) x

/-- Energy of a rail in 100 µs, in nJ (R422), from its last values (R400). -/
def railNj (s : State) (r : Rail) : Nat :=
  let v := railGet (0, 0) r s.power.lastRail
  v.1 * v.2 / 10

/-- ENERGY_INTERVAL (R422, R423): what the block has counted in the interval, with what the activity monitors saw beside it
(notes/assumptions/99.md), bears the energy; every remainder goes to the device account. -/
def execEnergyInterval (act : Activity) (s : State) : Host.Outcome State Fault Refusal :=
  if !alive s then .next s
  else
    let s := meterItems s
    let m := s.power.meter
    let s := { s with power := { s.power with meter := {}, meterAt := rqtNow s } }
    let sum (rs : List Rail) := sumN (rs.map (railNj s))
    let total := sum rails + s.power.carry
    let x := shareEnergy (sum [.arr]) (m.arrClks ++ act.arrClks) (s, 0)
    let x := shareEnergy (sum [.fen, .d2d, .hbm, .hbmq, .vpp]) (m.memBytes ++ act.memBytes) x
    let x := shareEnergy (sum [.ser, .serh]) (m.serBytes ++ act.serBytes) x
    let s := { x.1 with power := { x.1.power with carry := total % 1000 } }
    .next (regBump (regBump s (pwrReg 0x078) (total / 1000)) (pwrReg 0x070) (total / 1000 - x.2))

end Sys2Proof.Machine
end

