-- ==== Sys2Proof/Machine/Security.lean ====
section
/-! DEFINITION. Identity, attestation, keys and debug (14_security.md; 16_package_signals.md, R478, R480): SPDM, PROVISION_KEY, the rollback
counter, fences, the boundary-scan port and the management port. -/

namespace Sys2Proof.Machine

/-! ### Tenant key material -/

/-- Every frame of an LD's window zeroed through the slices, its poison cleared (R23, R439). -/
def zeroWindow (s : State) (t : LdId) : State :=
  (ten s t).window.foldl (fun s u =>
    piecesWrote (memClear s (u * 2 ^ 21) (2 ^ 21)) (memPieces (u * 2 ^ 21) (2 ^ 21))) s

/-- Key material installed (R436, R439). -/
def installKey (s : State) (t : LdId) (gen : Nat) (material : List Byte) : State :=
  zeroWindow (setMaterial s t (some material) gen (framesOf s (.pool t.val))) t

/-- Whether a command comes inside a secured session on its own function's DOE mailbox (R366, R439): a tenant's function, or the one
function of an SLD. -/
def secured (s : State) (m : Mbox) (session : Option Nat) : Bool :=
  let own : Bool := match m with
    | .tenant _ => s.pins.mld
    | .owner => !s.pins.mld
    | .i3c => false
  match session with
  | some n => doeLive s m && own && s.sec.sessions.contains (.doe m, n)
  | none => false

/-- What PROVISION_KEY does to an LD (R439). -/
def provision (p : List Byte) (t : LdId) (s : State) : State × Nat × List Byte :=
  let gen := fld p 8 4
  let mat := slice p 0x10 64
  let u := ten s t
  let done (s : State) : State × Nat × List Byte := (regBump s (secReg 0x098) 1, 0, toLE 4 (ten s t).keyGen)
  match u.material with
  | none => if gen = 0 then (s, 9, toLE 4 u.keyGen) else done (installKey s t gen mat)
  | some old =>
    if gen ≠ 0 ∧ gen = u.keyGen ∧ bytesEq mat old then done s
    else if u.keyGen < gen ∧ (ldEntries s t.val).isEmpty then done (installKey s t gen mat)
    else (s, 9, toLE 4 u.keyGen)

/-- PROVISION_KEY (R350, R353, R366, R439): it comes over the function's DOE mailbox, which an IDE failure does not stop (R393); in the
mailbox itself it is Unsupported. -/
def execProvisionKey (m : Mbox) (p : List Byte) (session : Option Nat) (s : State) : Host.Outcome State Fault Refusal :=
  let c : Cmd := { len := 0x50, onRec := true }
  let bad := !zeroAt p 0x0C 4
  if secured s m session then bruahRun c m p bad s (provision p)
  else if mboxLive s m && s.fw.running then .next (reply s m 3 [])
  else bruah c m p bad s (provision p)

/-- DOMAIN_KEY_LOCK (R438). -/
def execDomainKeyLock (s : State) : Host.Outcome State Fault Refusal :=
  if !alive s then .next s else .next (regFlag s (secReg 0x028) 1)

/-! ### Rollback counter and key revocation -/

/-- COMMIT (R432): a commit begins. -/
def execCommit (s : State) : Host.Outcome State Fault Refusal :=
  if !alive s ∨ !s.fw.running then .next s
  else .next { regFlag s (secReg 0x008) 0 with sec := { s.sec with committing := true } }

/-- COMMIT_DONE (R432): the fuse's value is the running image's SVN, where that is above it. -/
def execCommitDone (s : State) : Host.Outcome State Fault Refusal :=
  if !s.sec.committing then .next s
  else
    let s := regFlag (regPut s (secReg 0x008) 0 0 0) (secReg 0x008) 1
    .next { s with sec := { s.sec with committing := false }, fuses := { s.fuses with svn := Nat.max s.fuses.svn s.fw.svn } }

/-- The lowest KEY_REVOKE bit still to be blown, blown (R431): one in each furrow (notes/assumptions/91.md). -/
def blowRevoke (s : State) : State :=
  match (List.range 4).find? (fun k => s.sec.revoking.getLsbD k) with
  | some k =>
    let b : BitVec 4 := BitVec.ofNat 4 (2 ^ k)
    { s with fuses := { s.fuses with keyRevoke := s.fuses.keyRevoke ||| b }, sec := { s.sec with revoking := s.sec.revoking &&& ~~~b } }
  | none => s

/-- REVOKE (R431, R432): each bit below the running image's key index is blown, one at a time; any other sets COMMIT_ERR. -/
def execRevoke (mask : BitVec 4) (s : State) : Host.Outcome State Fault Refusal :=
  if !alive s ∨ !s.fw.running then .next s
  else
    let ok : BitVec 4 := BitVec.ofNat 4 (2 ^ s.fw.keyIndex - 1)
    let s' := blowRevoke { s with sec := { s.sec with revoking := s.sec.revoking ||| (mask &&& ok &&& ~~~s.fuses.keyRevoke) } }
    if mask &&& ~~~ok = 0 then .next s' else .next (regFlag s' (secReg 0x008) 2)

/-! ### Fences -/

/-- FENCE_REQ (R446). -/
def execFenceReq (s : State) : Host.Outcome State Fault Refusal :=
  if !alive s then .next s
  else .next { regPut s (secReg 0x010) 1 1 0 with sec := { s.sec with fencing := true } }

/-- FENCE_DONE (R446): every access that passed its check before the request has completed. -/
def execFenceDone (s : State) : Host.Outcome State Fault Refusal :=
  if !s.sec.fencing then .next s
  else .next { regFlag s (secReg 0x010) 1 with sec := { s.sec with fencing := false } }

/-! ### Attestation -/

/-- FUSECFG (R434). -/
def fuseCfg (s : State) : Nat := s.sec.bootDebug % 4 + (if s.fuses.keyRevoke = 0 then 0 else 4)

/-- What index 5 covers for one LD (R445): window size, RQT_LIMIT, MIN_CLASS, LD_POOL_LIMIT and QCFG of its queues, 8 bytes each
(notes/assumptions/32.md). -/
def ldConfig (s : State) (t : Nat) : List Byte :=
  toLE 8 (ten s (ldId t)).window.length ++ toLE 8 (regField s (ldRqtOff t) 12 0) ++ toLE 8 (regField s (ldRqtOff t) 15 14)
    ++ toLE 8 (regField s (ldPoolOff t) 31 0)
    ++ ((List.range 128).filter (fun q => queueLd s q == t)).flatMap (fun q => toLE 8 (regGet s (qcfgOff q)))

/-- A measurement block (R445), none where it is absent. -/
def measurement (s : State) (port : SpdmPort) (i : Nat) : Option (List Byte) :=
  if i = 1 then some ((List.range 48).map Config.romByte)
  else if i = 2 then some (sha384 (toLE 1 (fuseCfg s) ++ toLE 1 s.fuses.svn ++ toLE 1 s.fw.keyIndex))
  else if i = 3 then some s.fw.fwid
  else if i = 4 then some (sha384 (toLE 4 s.fw.svn ++ s.fw.revision))
  else if i = 5 then
    match port with
    | .doe (.tenant t) => some (sha384 (ldConfig s t.val))
    | _ => some (sha384 ((List.range 16).flatMap (ldConfig s)))
  else if 16 ≤ i ∧ i < 32 then (s.images[Fin.ofNat 16 (i - 16)]).map (·.digest)
  else none

/-- Measurement blocks of a request: one by its index, or all of them (index 0xFF). -/
def measurementBlocks (s : State) (port : SpdmPort) (i : Nat) : List Byte :=
  let one (k : Nat) : List Byte := match measurement s port k with
    | some d => toLE 1 k ++ d
    | none => []
  if i = 0xFF then (List.range 32).flatMap one else one i

/-- Whether a port serves SPDM (R366, R369, R444): its key comes with the firmware. -/
def spdmLive (s : State) : SpdmPort → Bool
  | .doe fn => doeLive s fn && s.sec.aliasKey.isSome
  | .i3c => mboxLive s .i3c && s.sec.aliasKey.isSome

/-- An SPDM response sent. -/
def spdmSend (s : State) (port : SpdmPort) (code : Nat) (body : List Byte) : State := send s (.spdm port code body)

/-- SPDM ERROR (R444). -/
def spdmError (s : State) (port : SpdmPort) (e : Nat) : State := spdmSend s port 0x7F (toLE 1 e)

/-- A response that carries a signature of the Alias key: its 96 bytes are free (R444). -/
def spdmSigned (s : State) (port : SpdmPort) (code : Nat) (body : List Byte) : State :=
  spdmSend (tickFree s) port code (body ++ drawBytes s 96)

/-- The lowest session number that a port does not hold. -/
def freeSession (s : State) (port : SpdmPort) : Nat :=
  ((List.range 4).find? (fun n => !(s.sec.sessions ++ s.sec.shaking).contains (port, n))).getD 4

/-- The certificates of slot 0 (R444): root, DeviceID, Alias. -/
def certChain (s : State) : List Byte := Config.rootCert ++ s.fuses.deviceCert ++ s.sec.aliasCert

/-- SPDM_REQUEST (R444, R445): SPDM 1.2 without PSK, certificate slot 0 only, at most four sessions a port. The codes of messages,
capabilities and algorithms are those of SPDM 1.2 (notes/assumptions/26.md). -/
def execSpdmRequest (port : SpdmPort) (req : SpdmReq) (s : State) : Host.Outcome State Fault Refusal :=
  if !spdmLive s port then .next s
  else match req with
    | .getVersion => .next (spdmSend s port 0x04 (toLE 2 0x1200))
    | .getCapabilities => .next (spdmSend s port 0x61 (toLE 4 0x22D6))
    | .negotiateAlgorithms => .next (spdmSend s port 0x63 (toLE 4 0x80 ++ toLE 4 2 ++ toLE 2 0x10 ++ toLE 2 2))
    | .getDigests => .next (spdmSend s port 0x01 (toLE 1 1 ++ sha384 (certChain s)))
    | .getCertificate slot =>
      if slot ≠ 0 then .next (spdmError s port 1) else .next (spdmSend s port 0x02 (certChain s))
    | .challenge nonce => .next (spdmSigned s port 0x03 nonce)
    | .getMeasurements i =>
      if i = 0 then .next (spdmSend s port 0x60 (toLE 1 ((List.range 32).filter (fun k => (measurement s port k).isSome)).length))
      else if i ≠ 0xFF ∧ (measurement s port i).isNone then .next (spdmError s port 1)
      else .next (spdmSigned s port 0x60 (measurementBlocks s port i))
    | .keyExchange =>
      let n := freeSession s port
      if 4 ≤ n then .next (spdmError s port 0x0A)
      else .next (spdmSigned { s with sec := { s.sec with shaking := s.sec.shaking ++ [(port, n)] } } port 0x64 (toLE 2 n))
    | .finish n =>
      if s.sec.shaking.contains (port, n) then
        .next (spdmSend { s with sec := { s.sec with
          shaking := s.sec.shaking.filter (fun x => x != (port, n)), sessions := s.sec.sessions ++ [(port, n)] } } port 0x65 [])
      else .next (spdmError s port 1)
    | .heartbeat n =>
      if s.sec.sessions.contains (port, n) then .next (spdmSend s port 0x68 []) else .next (spdmError s port 1)
    | .endSession n =>
      if s.sec.sessions.contains (port, n) then
        .next (spdmSend { s with sec := { s.sec with sessions := s.sec.sessions.filter (fun x => x != (port, n)) } } port 0x6C [])
      else .next (spdmError s port 1)
    | .pskExchange => .next (spdmError s port 7)

/-! ### The management port -/

/-- The provisioned ID of the port (R478): the manufacturer's code, bit 32 clear, and the part's serial number. -/
def provisionedId (s : State) : BitVec 48 := BitVec.ofNat 48 (Config.mipiCode % 2 ^ 15 * 2 ^ 33 + s.fuses.serial.toNat)

/-- ENTDAA (R478): the port answers its provisioned ID and takes its dynamic address, where the boot path passed (R455). -/
def execEntdaa (addr : BitVec 7) (s : State) : Host.Outcome State Fault Refusal :=
  if s.pins.pwrgood ∧ s.pins.bootPath = some true then
    .next (send { s with pins := { s.pins with i3cAddr := some addr } } (.provisionedId (provisionedId s)))
  else .next s

/-- MCTP_CONTROL (R478): answered with completion code 0. -/
def execMctpControl (cmd : BitVec 8) (s : State) : Host.Outcome State Fault Refusal :=
  if !mboxLive s .i3c then .next s else .next (send s (.mctp [0, cmd, 0]))

/-- Reading of a PLDM sensor (R478). -/
def pldmReading (s : State) : PldmSensor → Nat
  | .pkgPower => regField s (pwrReg 0x028) 15 0
  | .junction => junction s
  | .hottestStack => maxN (stackTemps s)
  | .effectiveCap => s.power.effW
  | .totalEnergy => regGet s (pwrReg 0x078)
  | .stopState => regField s (pwrReg 0x010) 9 7

/-- PLDM_REQUEST (R478). -/
def execPldmRequest (sensor : PldmSensor) (s : State) : Host.Outcome State Fault Refusal :=
  if !mboxLive s .i3c then .next s else .next (send s (.mctp (1 :: toLE 8 (pldmReading s sensor))))

/-- IN_BAND_INTERRUPT (R478): raised once for each stop, halt and DEVICE_FAULT record. -/
def execInBandInterrupt (cause : IbiCause) (s : State) : Host.Outcome State Fault Refusal :=
  let n := match cause with
    | .stop => 1
    | .halt => 2
    | .faultRecord => 3
  if mboxLive s .i3c ∧ s.pins.ibiDue.contains n then
    .next (send { s with pins := { s.pins with ibiDue := s.pins.ibiDue.erase n } } (.ibi (BitVec.ofNat 8 n)))
  else .next s

/-! ### The boundary-scan port -/

/-- An instruction loaded into the TAP (R448), and the data register that it puts on the scan path. -/
def tapLoad (s : State) (instr : BitVec 8) (data : List Byte) : State :=
  { s with pins := { s.pins with tapInstr := instr, tapOut := data } }

/-- An instruction that the current state does not permit loads as BYPASS (R448). -/
def tapIf (s : State) (ok : Bool) (instr : BitVec 8) : Host.Outcome State Fault Refusal :=
  .next (tapLoad s (if ok then instr else 0xFF) [])

/-- BYPASS (R448). -/
def execBypass (s : State) : Host.Outcome State Fault Refusal := tapIf s true 0xFF

/-- The IDCODE of R480 at stepping B1. -/
def idcode (s : State) : Nat := match s.fuses.part with
  | .ikb7240 => 0x57240D9B
  | .ikb7236 => 0x57236D9B

/-- IDCODE (R448, R480). -/
def execIdcode (s : State) : Host.Outcome State Fault Refusal :=
  .next (send (tapLoad s 0x01 (toLE 4 (idcode s))) (.tap (toLE 4 (idcode s))))

/-- SAMPLE/PRELOAD (R448). -/
def execSamplePreload (s : State) : Host.Outcome State Fault Refusal := tapIf s true 0x02

/-- EXTEST (R448): while PERST_N is asserted. -/
def execExtest (s : State) : Host.Outcome State Fault Refusal := tapIf s (!s.pins.perstN) 0x00

/-- CLAMP (R448): while PERST_N is asserted. -/
def execClamp (s : State) : Host.Outcome State Fault Refusal := tapIf s (!s.pins.perstN) 0x03

/-- HIGHZ (R448): while PERST_N is asserted. -/
def execHighz (s : State) : Host.Outcome State Fault Refusal := tapIf s (!s.pins.perstN) 0x04

/-- IKB_CHAL (R448): the 32 bytes of the challenge are shifted out. -/
def execIkbChal (s : State) : Host.Outcome State Fault Refusal :=
  let c := slice s.sec.challenge 0 32
  .next (send (tapLoad s 0x40 c) (.tap c))

/-- DAP_ACCESS (R448): in debug state 1 or 2. -/
def execDapAccess (s : State) : Host.Outcome State Fault Refusal := tapIf s (s.sec.debug == 1 || s.sec.debug == 2) 0x42

/-- "IKBDBGUN" (R449). -/
def debugMagic : List Byte := ascii [73, 75, 66, 68, 66, 71, 85, 78]

/-- The conditions of R449 on an unlock token, but the length of its shift. Its identity is the DeviceID public key of this boot. -/
def tokenOk (s : State) (tok : List Byte) : Bool :=
  let level := fld tok 0x58 1
  bytesEq (slice tok 0 8) debugMagic && !s.sec.devicePub.isEmpty && bytesEq (slice tok 8 48) (sha384 s.sec.devicePub)
    && bytesEq (slice tok 0x38 32) s.sec.challenge
    && (level == 1 || level == 2) && zeroAt tok 0x59 7 && zeroAt tok 0xC1 15 && zeroAt tok 0x130 16
    && bytesEq (sha384 (slice tok 0x60 97)) s.fuses.debugHash
    && ecdsaOk (slice tok 0x60 97) (sha384 (slice tok 0 0xD0)) (slice tok 0xD0 96)

/-- A new challenge drawn (R449). -/
def newChallenge (s : State) : State := tickFree { s with sec := { s.sec with challenge := drawBytes s 32 } }

/-- R450 steps 1 to 3: work stops with the effects of a cut, every key store is cleared, and the scratchpads, mere cache slices,
control SRAM and request table are zeroed. HBM keeps its ciphertext, whose keys are gone. -/
def wipe (s : State) : State :=
  let s := (runningItems s).foldl (fun s w => cutItem (setItem (regBump s (furReg 0x030) 1) { w with halted := 3, haltCause := 6 }) w) s
  let s := forLds s (fun s t => setTen s t { window := (ten s t).window })
  { s with
    arrays := s.arrays.map (fun u => { clearArray u with banks := u.banks.map (fun b => { b with pending := [] }) })
    mere := s.mere.map (fun m => { m with lines := [], plru := [] })
    items := []
    images := Vector.replicate 16 none
    adapters := Vector.replicate 32 {}
    lps := Vector.replicate 64 {}
    rqt := []
    work := []
    rounds := []
    nodes := []
    pages := []
    queues := Vector.replicate 128 {}
    ops := []
    roles := []
    sent := []
    ctlWait := []
    lateData := []
    roleIn := []
    joint := []
    grants := []
    members := []
    notifies := []
    jrnl := {}
    fw := { s.fw with code := [], buffer := [], verified := none }
    sec := { s.sec with
      domainKey := List.replicate 6 none, cdi0 := none, deviceKey := none, dds := none, cdi1 := none, aliasKey := none, aliasCert := []
      hbmKeys := List.replicate 17 none, sessions := [], shaking := [], ideKeyed := false
      ideKeys := [], jnonce := 0 } }

/-- IKB_UNLOCK (R449, R450): the shift's length in bits, the signed bytes of the token and the rest of it; refused after eight failures.
Every attempt draws a new challenge. -/
def execIkbUnlock (bits : Nat) (signed rest : List Byte) (s : State) : Host.Outcome State Fault Refusal :=
  let token := signed ++ rest
  if 8 ≤ s.sec.unlockFails ∨ !alive s then tapIf s (!decide (8 ≤ s.sec.unlockFails)) 0x41
  else
    let s := tapLoad s 0x41 []
    if bits = 2560 ∧ token.length = 320 ∧ tokenOk s token then
      let s := haltDevice (newChallenge (wipe s)) 0x0E 0 0
      .next { s with sec := { s.sec with debug := fld token 0x58 1 } }
    else
      let s := newChallenge { s with sec := { s.sec with unlockFails := s.sec.unlockFails + 1 } }
      .next (regBump s (secReg 0x090) 1)

end Sys2Proof.Machine
end

