-- ==== Sys2Proof/Machine/Bringup.lean ====
section
/-! DEFINITION. Power-up, firmware and BIST (15_bringup_bist.md; 14_security.md, R427 to R431; 11_host_cxl.md, R367; 16_package_signals.md, R476, R477). -/

namespace Sys2Proof.Machine

/-! ### Resets -/

/-- Everything on the device cleared (R383, R452): the fuses, the pins that the tray drives and a latched THERMTRIP_N remain. The
MODEL's own queue, message list and counter of free values stand outside the device. -/
def deviceReset (s : State) : State :=
  let s' := State.ofFuses s.fuses
  let s' := { s' with
    pins := { pwrgood := s.pins.pwrgood, perstN := s.pins.perstN, flowFailN := s.pins.flowFailN
              thermtripLow := s.pins.thermtripLow, i3cAddr := s.pins.i3cAddr, tapInstr := s.pins.tapInstr }
    out := s.out
    freeCtr := s.freeCtr
    pending := s.pending }
  if s.pins.thermtripLow then regFlag s' (pwrReg 0x010) 6 else s'

/-- A commit that a reset cuts short leaves the bits already blown: a free number of those it had to blow (R431). -/
def cutCommit (s : State) : State :=
  if s.sec.committing ∧ s.fuses.svn < s.fw.svn then
    tickFree { s with fuses := { s.fuses with svn := s.fuses.svn + (drawReg s).toNat % (s.fw.svn - s.fuses.svn + 1) } }
  else s

/-- PWRGOOD_RISE (R453, R455): the boot-path phase runs. -/
def execPwrgoodRise (boot : BootPath) (s : State) : Host.Outcome State Fault Refusal :=
  if s.pins.pwrgood then .next s
  else .next { s with pins := { s.pins with pwrgood := true, bootPath := some (boot.sramOk && boot.d2dOk) } }

/-- PWRGOOD_FALL (R456, R476, R477): a loss of power. THERMTRIP_N is released, and no I3C address is kept. -/
def execPwrgoodFall (s : State) : Host.Outcome State Fault Refusal :=
  if !s.pins.pwrgood then .next s
  else
    let s := cutCommit s
    .next (deviceReset { s with pins := { s.pins with pwrgood := false, thermtripLow := false, i3cAddr := none } })

/-- PERST_ASSERT (R456): work stops as in a halt, with BYE to the UP peers, and the device is reset. A debug state shows in FUSECFG
of the next boot (R450). -/
def execPerstAssert (s : State) : Host.Outcome State Fault Refusal :=
  if !s.pins.perstN then .next s
  else if !s.pins.pwrgood then .next { s with pins := { s.pins with perstN := false } }
  else
    let s := cutCommit (byeAll s)
    let r := deviceReset { s with pins := { s.pins with perstN := false } }
    .next { r with sec := { r.sec with bootDebug := s.sec.debug } }

/-- PERST_DEASSERT (R340, R341, R454, R456): the straps are sampled, the link's partner decides the mode and whether CXL.mem is enabled,
and the boot-path phase runs again after a reset. A reserved strap sampled as 1 sets FATAL. -/
def execPerstDeassert (mldEn : Bool) (rsvStrap : BitVec 2) (partner : LinkPartner) (boot : BootPath) (s : State) :
    Host.Outcome State Fault Refusal :=
  if s.pins.perstN then .next s
  else if !s.pins.pwrgood then
    .next { s with pins := { s.pins with perstN := true, mld := mldEn && partner == .mldSwitch, memEn := partner != .rcd } }
  else
    let path := match s.pins.bootPath with
      | some b => b
      | none => boot.sramOk && boot.d2dOk
    let s := { s with pins := { s.pins with perstN := true, mld := mldEn && partner == .mldSwitch, memEn := partner != .rcd, bootPath := some path } }
    let s := regSet s (bistReg 0x018) (b2n mldEn + 2 * rsvStrap.toNat)
    .next (if rsvStrap = 0 then s else regFlag s (bistReg 0) 2)

/-! ### Boot ROM and firmware -/

/-- UDS as the boot ROM reads it: once per boot (R426). -/
def readUds (s : State) : Option (List Byte) := if s.sec.udsLocked then none else some s.fuses.uds

/-- The layer-0 secrets, the DeviceID key and DDS derived from UDS, which is locked from then on (R426, R434). -/
def deriveLayer0 (s : State) : State :=
  match readUds s with
  | none => s
  | some uds =>
    let c := hmac384 uds ((List.range 48).map Config.romByte ++ toLE 1 (fuseCfg s))
    let d := privateKey c lblDeviceId
    { s with sec := { s.sec with
        udsLocked := true, cdi0 := some c, deviceKey := some d, devicePub := publicKey d, dds := some (hmac384 uds lblData) } }

/-- BOOT_ROM_START (R427 steps 1 to 4, R449, R455, R457, R477): the boot ROM starts once PERST_N is high and the boot path has passed,
and not while THERMTRIP_N stays low. It checks the fuse code, derives the layer-0 secrets, draws BOOT_ID, JNONCE and the challenge, and
trains the host link; the power-up BIST begins beside it. -/
def execBootRomStart (s : State) : Host.Outcome State Fault Refusal :=
  if !alive s ∨ s.pins.bootPath ≠ some true ∨ s.fw.rom ∨ s.fw.running ∨ s.fw.dead then .next s
  else if s.pins.thermtripLow ∧ !(s.power.sensed && (dieTemps s).all (fun t => decide (t ≤ 85))) then .next s
  else
    let s := regPut { s with pins := { s.pins with thermtripLow := false, hostLink := true } } (pwrReg 0x010) 6 6 0
    if !s.fuses.fuseOk then .next { s with fw := { s.fw with dead := true } }
    else
      let s := deriveLayer0 s
      let s := tickFree { s with sec := { s.sec with bootId := BitVec.ofNat 32 (drawReg s).toNat } }
      let s := setHbmKey s 16 (some (deriveHbm s 16 []))
      let s := tickFree { s with sec := { s.sec with jnonce := BitVec.ofNat 128 (ofLE (drawBytes s 16)) } }
      let s := newChallenge s
      let s := { s with
        fw := { s.fw with rom := true }
        bist := { s.bist with startAt := rqtNow s } }
      let v := putBits (regGet s (bistReg 0)) 15 12 2
      let s := regSet s (bistReg 0) (putBits (putBits v 1 1 1) 3 3 (b2n (!s.pins.flowFailN)))
      .next (regBump s (bistReg 0x030) 1)

/-- GET_FW_INFO (R349, R367): one slot, online activation; the running revision in slot 1. -/
def execGetFwInfo (m : Mbox) (s : State) : Host.Outcome State Fault Refusal :=
  if !mboxLive s m then .next s
  else if m ≠ .owner then .next (reply s m (if s.fw.running ∨ m = .i3c then 3 else 5) [])
  else if !s.fw.running ∧ !s.fw.rom then .next (reply s m 5 [])
  else if s.fw.running ∧ stopped s then .next (reply s m 6 [])
  else
    let rev := if s.fw.running then slice s.fw.revision 0 16 else List.replicate 16 0
    .next (reply s m 0 (toLE 1 1 ++ toLE 1 (b2n s.fw.running) ++ toLE 1 1 ++ List.replicate 13 0 ++ rev ++ List.replicate 48 0))

/-- "IKBBRUAH" (R428). -/
def fwMagic : List Byte := ascii [73, 75, 66, 66, 82, 85, 65, 72]

/-- The checks of R429 in order: 0 where all pass, else the number of the first that fails. -/
def fwCheck (s : State) (b : List Byte) : Nat :=
  let len := fld b 0x18 8
  let key := fld b 0x0E 1
  let svn := fld b 0x10 4
  if !(bytesEq (slice b 0 8) fwMagic && fld b 8 4 == 0x00010000 && b.length == 512 + len && len % 128 == 0 && decide (len ≤ 2 ^ 22)
      && decide (fld b 0x0C 1 * 256 + fld b 0x0D 1 ≤ 0x4231) && zeroAt b 0x0F 1 && zeroAt b 0xC1 63 && zeroAt b 0x160 160) then 1
  else if 4 ≤ key ∨ s.fuses.keyRevoke.getLsbD key ∨ !bytesEq (sha384 (slice b 0x60 97)) (nthD [] s.fuses.keyHash key) then 2
  else if !ecdsaOk (slice b 0x60 97) (sha384 (slice b 0 0x100)) (slice b 0x100 96) then 3
  else if !bytesEq (sha384 (b.drop 512)) (slice b 0x30 48) then 4
  else if svn < s.fuses.svn ∨ 64 < svn then 5
  else 0

/-- The end of a transfer (R367, R429): the image is verified. -/
def endTransfer (s : State) (b : List Byte) : State × Nat :=
  let n := fwCheck s b
  let s := { s with fw := { s.fw with open_ := false, buffer := [] } }
  if n = 0 then ({ s with fw := { s.fw with verified := some b } }, 0)
  else (regBump (regPut { s with fw := { s.fw with verified := none } } (secReg 0x000) 15 12 n) (secReg 0x088) 1, 0x000A)

/-- TRANSFER_FW (R367, R430): full (0), initiate (1), continue (2), end (3) or abort (4), with offsets in 128 B units. What ends a transfer
names the one slot (notes/assumptions/21.md). -/
def execTransferFw (m : Mbox) (action offset : Nat) (data : List Byte) (slot : Nat) (s : State) :
    Host.Outcome State Fault Refusal :=
  if !mboxLive s m then .next s
  else if s.fw.running ∨ m = .i3c then .next (reply s m 3 [])
  else if m ≠ .owner ∨ !s.fw.rom then .next (reply s m 5 [])
  else if (mboxOf s m).bg.isSome then .next (reply s m 6 [])
  else
    let f := s.fw
    let inOrder := f.open_ && offset * 128 == f.buffer.length
    if action = 0 then
      if offset ≠ 0 then .next (reply s m 9 [])
      else if slot ≠ 1 then .next (reply s m 0x000B [])
      else
        let r := endTransfer s data
        .next (reply r.1 m r.2 [])
    else if action = 1 then
      if offset ≠ 0 then .next (reply s m 9 [])
      else .next (reply { s with fw := { f with open_ := true, buffer := data, verified := none } } m 0 [])
    else if action = 2 then
      if !inOrder then .next (reply s m 9 [])
      else .next (reply { s with fw := { f with buffer := f.buffer ++ data } } m 0 [])
    else if action = 3 then
      if !inOrder then .next (reply s m 9 [])
      else if slot ≠ 1 then .next (reply s m 0x000B [])
      else
        let r := endTransfer s (f.buffer ++ data)
        .next (reply r.1 m r.2 [])
    else if action = 4 then .next (reply { s with fw := { f with open_ := false, buffer := [] } } m 0 [])
    else .next (reply s m 2 [])

/-- The layer-1 secrets of an image, its Alias key and certificate; CDI_L0 and the DeviceID private key are erased (R427 step 6, R434). -/
def deriveLayer1 (s : State) (fwid : List Byte) (svn : Nat) : State :=
  let c := hmac384 (s.sec.cdi0.getD []) (fwid ++ toLE 4 svn)
  let d := privateKey c lblAlias
  { s with sec := { s.sec with
      cdi1 := some c, aliasKey := some d, aliasCert := Config.aliasCert (publicKey d) fwid svn, cdi0 := none, deviceKey := none } }

/-- The verified image starts (R427 steps 6 and 7, R434, R381, R477, R497): the layer-1 secrets are derived, the image is copied into
RESERVE and its body to its run address, CC0 to CC3 run from ENTRY, GEO_GEN reads 1, and a FLOW_FAIL_N that is low stops the device before
any admission. -/
def startFirmware (s : State) : State :=
  match s.fw.verified with
  | none => s
  | some b =>
    let fwid := sha384 b
    let svn := fld b 0x10 4
    let s := memStore (deriveLayer1 s fwid svn) (reserveLine s 8 0) b
    let s := { s with
      fw := { s.fw with
        rom := false, running := true, waiting := false, svn := svn, keyIndex := fld b 0x0E 1, revision := slice b 0x20 16, fwid := fwid
        code := b.drop 512, entry := fld b 0x14 4, released := true } }
    let s := regSet s (glbReg 0x100) 1
    if !s.pins.flowFailN ∧ !stopped s then stopDevice s .flow else s

/-- ACTIVATE_FW (R367, R430, R460): the online action starts the verified image, in the background while the power-up BIST
runs, and with its failure after a FATAL finding. -/
def execActivateFw (m : Mbox) (action : Nat) (s : State) : Host.Outcome State Fault Refusal :=
  if !mboxLive s m then .next s
  else if s.fw.running ∨ m = .i3c then .next (reply s m 3 [])
  else if m ≠ .owner ∨ !s.fw.rom then .next (reply s m 5 [])
  else if (mboxOf s m).bg.isSome then .next (reply s m 6 [])
  else if action ≠ 0 then .next (reply s m 2 [])
  else if s.fw.verified.isNone then .next (reply s m 0x000B [])
  else if regField s (bistReg 0) 0 0 = 0 then
    let b := mboxOf s m
    .next (setMbox { s with fw := { s.fw with waiting := true } } m { b with ret := 1, outp := [], bg := some (0x0202, 0, 0), bgOp := 0x0202, bgPct := 0, bgRet := 0 })
  else if regField s (bistReg 0) 2 2 = 1 then .next (reply s m 0x000C [])
  else .next (reply (startFirmware s) m 0 [])

/-! ### BIST -/

/-- Distinct members of a list, in order. -/
def distinct (xs : List Nat) : List Nat := xs.foldl (fun acc x => if acc.contains x then acc else acc ++ [x]) []

/-- Findings of an array's physical rows (R457, R461). -/
def rowFindings (fs : List BistFinding) (a : Nat) : List BistFinding :=
  fs.filter (fun f => (f.test == 1 || f.test == 2) && f.source == 1 && f.unit.toNat == a)

/-- Spare-row repair of an array (R461): none retires it; else the row repaired, if any. -/
def rowRepair (fs : List BistFinding) (a : Nat) : Option (Option Nat) :=
  let xs := rowFindings fs a
  match distinct (xs.map (fun f => f.struct.toNat)) with
  | [] => some none
  | [p] => if xs.any (·.drain) then none else if p = 16 then some none
    else if p ≤ 15 ∧ xs.all (·.retestOk) then some (some p) else none
  | _ => none

/-- Spare rows of an SRAM structure (R462), by SOURCE. -/
def spareRows (source : Nat) : Nat := if source = 2 then 8 else if source = 6 then 4 else 2

/-- Whether the structure of an MBIST finding has more failing rows than spares (R462); an array's vector registers and buffers
count together. -/
def sramOver (fs : List BistFinding) (f : BistFinding) : Bool :=
  decide (spareRows f.source.toNat <
    (fs.filter (fun g => g.test == 2 && g.source == f.source && g.unit == f.unit && (f.source == 3 || g.struct == f.struct))).length)

/-- Pseudo-channels that training or repair could not save, in order (R463). -/
def badPcs (fs : List BistFinding) : List Nat :=
  distinct ((fs.filter (fun f => f.test == 3 && !f.retestOk)).map (fun f => f.unit.toNat))

/-- Outcome of a finding (R457, R461 to R463): 0 repaired, 1 retired, 2 fatal, 3 degraded. -/
def findingOutcome (fs : List BistFinding) (f : BistFinding) : Nat :=
  let src := f.source.toNat
  match f.test.toNat with
  | 1 => if src = 1 then b2n (rowRepair fs f.unit.toNat).isNone else if src = 3 then 1 else 2
  | 2 =>
    if src = 1 then b2n (rowRepair fs f.unit.toNat).isNone
    else if !sramOver fs f then 0
    else if src = 2 ∨ src = 3 then 1 else if src = 6 then 3 else 2
  | 3 => if f.retestOk then 0 else if (badPcs fs).take 2 |>.contains f.unit.toNat then 1 else 2
  | 4 => if src = 9 then 1 else 2
  | 5 =>
    if src = 1 then 1
    else if 2 ≤ (distinct ((fs.filter (fun g => g.test == 5 && g.source != 1 && g.unit.toNat / 2 == f.unit.toNat / 2)).map
      (fun g => g.unit.toNat))).length then 2 else 3
  | 6 => 2
  | 7 => 1
  | 8 => 1
  | _ => 0

/-- Records of a run (R469): one for each failing structure, and a second for one that fails again after its repair, up to 256. -/
def bistRecords (fs : List BistFinding) : List (BistFinding × Nat) :=
  (fs.flatMap (fun f =>
    let o := findingOutcome fs f
    if f.source = 1 ∧ (f.test = 1 ∨ f.test = 2) ∧ !f.retestOk ∧ o = 1 then [(f, 0), (f, 1)] else [(f, o)])).take 256

/-- The records and counts of a run shown (R469, R470). -/
def showRun (s : State) (fs : List BistFinding) : State :=
  let rs := bistRecords fs
  let s := { s with bist := { s.bist with records := rs.map (·.1), outcomes := rs.map (·.2) } }
  let s := regPut s (bistReg 0) 63 48 rs.length
  regSet s (bistReg 0x028) ((rqtNow s - s.bist.startAt) / 100)

/-- Arrays that findings retire: those with a row, bank, register, sensor or droop detector that fails (R457, R461, R462). -/
def badArrays (fs : List BistFinding) : List Nat :=
  (List.range 64).filter (fun a => fs.any (fun f =>
    f.unit.toNat == a && findingOutcome fs f == 1 && (f.source == 1 || f.source == 2 || f.source == 3) && f.test != 3 && f.test != 8))

/-- Lanes that findings retire: those of a failing port PLL, and those that fail loopback (R457). -/
def badLanes (fs : List BistFinding) : List Nat :=
  (List.range 64).filter (fun l => fs.any (fun f =>
    (f.test == 8 && f.unit.toNat == l) || (f.test == 4 && f.source == 9 && f.unit.toNat / 4 == l / 4)))

/-- Spare SRAM rows that findings take into use (R462, R470). -/
def rowsUsed (fs : List BistFinding) : Nat := (fs.filter (fun f => f.test == 2 && f.source != 1 && !sramOver fs f)).length

/-- ARR_REPAIR of an array after its repair (R461). -/
def writeRepair (s : State) (fs : List BistFinding) (a : Nat) : State :=
  match rowRepair fs a with
  | some (some p) => regSet s (arrReg a 0x008) (0x100 + p)
  | _ => s

/-- BIST_SUMMARY.ARR_REPAIRED: the arrays with SPARE_EN set (R470). -/
def showRepaired (s : State) : State :=
  regPut s (bistReg 0x010) 63 56 ((List.range 64).filter (fun a => regField s (arrReg a 0x008) 8 8 == 1)).length

/-- A pseudo-channel retired by the power-up BIST takes the next redirect slot, done at once (R463). -/
def bistPc (s : State) (pc : Nat) : State :=
  let o := fltReg 0x018
  let s := if regField s o 15 15 = 1 then regPut (regPut (regPut s o 31 31 1) o 30 30 1) o 25 16 pc
    else regPut (regPut (regPut s o 15 15 1) o 14 14 1) o 9 0 pc
  regClearBit s (glbReg (0x120 + 8 * (pc / 64))) (pc % 64)

/-- A unit that passed its test enters service (R457, R468): its banks go from OFF to ON and come up zeroed,
and the rest of its storage and its NaN trap are clear. -/
def enterService (s : State) (a : ArrId) : State :=
  let u := arr s a
  if !arrEnabled s a.val then s
  else
    setArr (regPut s (arrReg a.val 0x148) 1 0 0) a
      { clearArray u with st := .idle, ve := .idle, banks := Vector.replicate 32 { power := .on } }

/-- What the findings of the power-up BIST change (R461 to R464): repairs, retirements in the geometry table, the summary. -/
def applyFindings (s : State) (fs : List BistFinding) : State :=
  let s := (List.range 64).foldl (fun s a => writeRepair s fs a) s
  let bad := badArrays fs
  let s := bad.foldl (fun s a =>
    let u := arr s (arrId a)
    regClearBit (setArr s (arrId a) { u with care := { u.care with retired := true } }) (glbReg 0x108) a) s
  let pcs := (badPcs fs).take 2
  let s := pcs.foldl bistPc s
  let lanes := badLanes fs
  let s := lanes.foldl (fun s l => regClearBit s (glbReg 0x170) l) s
  let s := (List.finRange 16).foldl (fun s p => if portLanes s p = 0 then stopPort s p else s) s
  let s := { s with mere := Vector.ofFn (fun (d : Fin 4) =>
    if fs.any (fun f => f.test == 2 && f.source == 6 && f.unit.toNat == d.val && sramOver fs f) then { (s.mere[d]) with allocates := false }
    else s.mere[d]) }
  let s := forArrays s enterService
  let s := forFes s (fun s f => setFe s f { fe s f with fallow := false })
  let ppr := sumN ((fs.filter (fun f => f.test == 3 && f.retestOk)).map (fun f => f.value.toNat))
  let o := bistReg 0x010
  let s := regPut (regPut (regPut s o 55 48 bad.length) o 47 40 pcs.length) o 39 32 lanes.length
  showRepaired (regPut (regPut s o 31 16 (rowsUsed fs)) o 15 0 ppr)

/-- POWER_UP_BIST_DONE (R457 to R464, R460): the run ends, not during a stop or while it waits for coolant. A waiting Activate FW
starts its image, or completes with its failure. -/
def execPowerUpBistDone (findings : List BistFinding) (s : State) : Host.Outcome State Fault Refusal :=
  if !alive s ∨ stopped s ∨ regField s (bistReg 0) 15 12 ≠ 2 ∨ regField s (bistReg 0) 3 3 = 1 then .next s
  else
    let fatal := findings.any (fun f => findingOutcome findings f == 2)
    let s := showRun (applyFindings s findings) findings
    let v := putBits (putBits (putBits (regGet s (bistReg 0)) 15 12 0) 1 1 0) 0 0 1
    let s := regSet s (bistReg 0) (if fatal then putBits v 2 2 1 else v)
    if !s.fw.waiting then .next s
    else if regField s (bistReg 0) 2 2 = 1 then .next (failActivate s)
    else
      let b := mboxOf s .owner
      .next (startFirmware (sendMsix (setMbox s .owner { b with bg := none, bgPct := 100, bgRet := 0 }) .owner 0))

/-- BIST_SELF_RESTART (R465): before firmware runs, the device leaves a stop by itself once the conditions of R421 have held for 1 s,
with a STOPPED record; the tests then run again. -/
def execBistSelfRestart (s : State) : Host.Outcome State Fault Refusal :=
  if !alive s ∨ s.fw.running ∨ !stopped s ∨ !mayRestart s then .next s else .next (logPower (leaveStop s) 5 0 0x10)

/-- FLOW_WAIT_END (R465): FLOW_FAIL_N has been high for 1 ms. -/
def execFlowWaitEnd (s : State) : Host.Outcome State Fault Refusal :=
  if s.pins.flowFailN ∧ regField s (bistReg 0) 3 3 = 1 then .next (regPut s (bistReg 0) 3 3 0) else .next s

/-- GO (R466): a write of BIST_CMD. A GO while a test runs, or for an array that is fallow or not enabled, is ignored and sets
CMD_ERR. The test begins at the next headland. -/
def execGo (val : Reg64) (s : State) : Host.Outcome State Fault Refusal :=
  let v := val.toNat
  let o := bistReg 0x008
  let a := bits v 63 58
  if !alive s then .next s
  else if !bitAt v 0 then .next (regSet s o (accessWrite (regAccess o) (regGet s o) v))
  else if s.bist.unit.isSome ∨ regField s (bistReg 0) 1 1 = 1 ∨ !arrEnabled s a ∨ (arr s (arrId a)).st = .fallow then
    .next (regFlag s (bistReg 0) 5)
  else
    let s := regSet s o (accessWrite (regAccess o) (regGet s o) v)
    .next { s with bist := { s.bist with unit := some a, started := false } }

/-- The test of an array begins at a headland (R458, R466, R467): the array is fallow and leaves the geometry table, and the AVS trim is
held at 0. -/
def beginTest (s : State) (a : Nat) : State :=
  let u := arr s (arrId a)
  let s := setArr s (arrId a) (clearArray { u with st := .fallow, ve := .fallow, item := none, care := { u.care with testing := true, disturbed := false, reruns := 0 } })
  let s := dropTrim (geoBump (regClearBit s (glbReg 0x108) a))
  let s := { s with bist := { s.bist with unit := some a, started := true, records := [], outcomes := []
                                          startAt := rqtNow s } }
  let v := putBits (putBits (putBits (regGet s (bistReg 0)) 63 48 0) 1 1 1) 3 3 (b2n (!s.pins.flowFailN))
  regBump (regSet s (bistReg 0) v) (bistReg 0x030) 1

/-- Whether tests may run at an operating point (R458, R466). -/
def inRange (op : Nat) : Bool := op == 1 || op == 2 || op == 3

/-- PHASE and RANGE_WAIT of the test in force (R466, R470). -/
def showPhase (s : State) : State :=
  if !(s.bist.unit.isSome && s.bist.started) then s
  else
    let ok := inRange s.power.wop
    regPut (regPut s (bistReg 0) 15 12 (if ok then 3 else 4)) (bistReg 0) 4 4 (b2n (!ok))

/-- What a headland does for tests (R466, R467): a tested array returns to the table, a GO begins, or a pending full test does where
the operating point lies in range. -/
def headlandBist (s : State) : State :=
  let s := s.bist.back.foldl (fun s a =>
    let s := regSet s (glbReg 0x108) (regGet s (glbReg 0x108) ||| 2 ^ a)
    let u := arr s (arrId a)
    geoBump (enterService (setArr s (arrId a) { u with care := { u.care with testing := false } }) (arrId a))) s
  let s := { s with bist := { s.bist with back := [] } }
  let s := match s.bist.unit with
    | some a =>
      if !s.bist.started then
        if arrEnabled s a then beginTest s a
        else regPut { s with bist := { s.bist with unit := none } } (bistReg 0x008) 0 0 0
      else s
    | none => s
  let due := (List.range 64).find? (fun a => bitAt (regGet s (bistReg 0x020)) a && arrEnabled s a)
  let s := match s.bist.unit, due with
    | none, some a => if inRange s.power.wop then beginTest (regPut s (bistReg 0x020) a a 0) a else s
    | _, _ => s
  showPhase s

/-- BIST_TEST_DONE (R458, R466, R468, R469): a pass, with or without a new repair, returns the array at the next headland; a failure
retires it. -/
def execBistTestDone (res : ArrayTest) (s : State) : Host.Outcome State Fault Refusal :=
  match s.bist.unit with
  | none => .next s
  | some a =>
    if !alive s ∨ stopped s ∨ !s.bist.started ∨ !inRange s.power.wop ∨ regField s (bistReg 0) 3 3 = 1 then .next s
    else match runAgain s (arrId a) with
    | some s => .next s
    | none =>
      let s := showRun s res.findings
      let s := regPut (regSet s (bistReg 0) (putBits (putBits (regGet s (bistReg 0)) 15 12 0) 1 1 0)) (bistReg 0x008) 0 0 0
      let o := bistReg 0x010
      let s := regPut s o 31 16 (regField s o 31 16 + rowsUsed res.findings)
      if res.pass ∧ !(arr s (arrId a)).care.disturbed then
        let s := match res.faultRow with
          | some p => regSet s (arrReg a 0x008) (0x100 + p.val)
          | none => s
        .next (showRepaired { s with bist := { s.bist with unit := none, started := false, back := s.bist.back ++ [a] } })
      else
        let u := arr s (arrId a)
        let s := setArr s (arrId a) { u with care := { u.care with retired := true, testing := false } }
        let s := { s with bist := { s.bist with unit := none, started := false } }
        .next (logAt (regPut s o 55 48 (regField s o 55 48 + 1)) 0 0 0x01 a 0x000C)

end Sys2Proof.Machine
end

