-- ==== Sys2Proof/Machine/Flows.lean ====
section
/-! DEFINITION. Transport flows and packets (10_raile.md, R320 to R328), NOTIFY (R330), and roles (R210, R211, R329). -/

namespace Sys2Proof.Machine

/-! ### Flows -/

/-- Body of FLOW_ACCEPT and FLOW_REFUSE: context, flow, KEY_EPOCH, nonce. -/
def flowBody (m : FlowMsg) (nonce : List Byte) : List Byte :=
  toLE 1 m.ctx.val ++ toLE 1 m.flow.val ++ toLE 2 m.keyEpoch.toNat ++ nonce

/-- Whether a peer can be talked to: UP, or SUSPECT and just heard. -/
def peerUp (s : State) (n : NodeId) : Bool := (peerOf s n).st == .up

/-- FLOW_OPEN (R320, R328, R440): without key material for the context it is refused; otherwise the flow is open with
sequence numbers at 0 and 64 credits, under a nonce of each end. -/
def execFlowOpen (m : FlowMsg) (s : State) : Host.Outcome State Fault Refusal :=
  let s := if raileLive s then heardFrom s m.node else s
  if !raileLive s ∨ !peerUp s m.node then .next s
  else if !ctxKeyed s m.ctx.val then .next (sendCtl s m.node 7 (flowBody m []))
  else
    let nonce := drawBytes s 32
    let wait := ((flowOf s m.node m.ctx.val m.flow.val).map (·.waitq)).getD []
    let s := setFlow (tickFree s) { node := m.node, ctx := m.ctx.val, flow := m.flow.val, initiator := false, port := m.port.val
                                    keyEpoch := m.keyEpoch, nonceI := m.nonce, nonceR := nonce, opened := true, waitq := wait }
    .next (pumpFlow m.node m.ctx.val m.flow.val wait.length (sendCtl s m.node 6 (flowBody m nonce)))

/-- FLOW_ACCEPT (R320, R328): the flow that this device asked for is open. -/
def execFlowAccept (m : FlowMsg) (s : State) : Host.Outcome State Fault Refusal :=
  let s := if raileLive s then heardFrom s m.node else s
  if !raileLive s ∨ !peerUp s m.node then .next s
  else match flowOf s m.node m.ctx.val m.flow.val with
    | some f =>
      if f.opened ∨ !f.initiator then .next s
      else
        let s := setFlow s { f with opened := true, nonceR := m.nonce, keyEpoch := m.keyEpoch, rxPsn := 0, txPsn := 0, replies := 0, credits := 64, unacked := [], refused := [] }
        .next (pumpFlow m.node m.ctx.val m.flow.val f.waitq.length s)
    | none => .next s

/-- Whether a descriptor waits for an answer from a node. -/
def waitsFor (d : DescRun) (n : NodeId) : Bool :=
  d.wr.any (fun x => addrNode x.addr == n) || d.rd.any (fun r => addrNode r.addr == n && decide (r.data.length < r.len))

/-- Whether a descriptor is moving Raile data of a context to or from a node. -/
def descTo (s : State) (d : DescRun) (n : NodeId) (ctx : Nat) : Bool :=
  d.desc.space == 2 && descLive d && d.st != .queued && d.st != .faulted
  && (match itemOf s d.item with
    | some w => itemLd s w == ctx && (waitsFor d n || match runOf s w d with
        | .addr a => a / 2 ^ 52 == n.toNat
        | _ => false)
    | none => false)

/-- The operations of a context to a node fail with RAILE_DENIED (R155, R320). -/
def denyOps (s : State) (n : NodeId) (ctx : Nat) : State :=
  forFes s (fun s f =>
    ((fe s f).slots.filter (fun x => descTo s x.2 n ctx)).foldl (fun s x =>
      match itemOf s x.2.item with
      | some w => descFault s f (Fin.ofNat 64 x.1) w x.2 6 (match runOf s w x.2 with
          | .addr a => a
          | _ => 0) 0x0202
      | none => s) s)

/-- FLOW_REFUSE (R320): the flow does not open, and the initiator's operations fail with RAILE_DENIED. -/
def execFlowRefuse (m : FlowMsg) (s : State) : Host.Outcome State Fault Refusal :=
  let s := if raileLive s then heardFrom s m.node else s
  if !raileLive s ∨ !peerUp s m.node then .next s
  else
    let s := { s with flows := s.flows.filter (fun f => !(f.node == m.node && f.ctx == m.ctx.val && f.flow == m.flow.val && !f.opened)) }
    .next (denyOps s m.node m.ctx.val)

/-! ### Requests at a target -/

/-- A packet's place in its flow, after the check of its tag: the flow with the state, or what is answered (R323, R327). -/
inductive RxPacket where
  | drop (s : State)
  | again (s : State) (f : Flow)
  | fresh (s : State) (f : Flow)

/-- The open flow of a packet. -/
def rxFlow (s : State) (k : Packet) : Option Flow :=
  match flowOf s k.src k.ctx.val k.flow.val with
  | some f => if f.opened ∧ f.keyEpoch = k.keyEpoch ∧ k.dst.toNat = ownNode s then some f else none
  | none => none

/-- A NACK sent (R327), counted. -/
def sendNack (s : State) (f : Flow) (psn code : Nat) : State :=
  flowReply (regBump s (rlReg 0 0x1040) 1) f 7 (psn % 2 ^ 32 + code * 2 ^ 32)

/-- A packet refused (R327): its code is kept for its retransmission, and a NACK is sent. At most 64 packets of a flow are unanswered
(R320). -/
def refusePacket (s : State) (f : Flow) (psn code : Nat) : State :=
  let f := { f with refused := f.refused.filter (fun x => decide (psn < x.1 + 64)) ++ [(psn, code)] }
  sendNack (setFlow s f) f psn code

/-- An ACK sent (R324): everything before the next expected PSN, and one credit for the packet just taken. -/
def sendAck (s : State) (f : Flow) (credits : Nat) : State :=
  flowReply s f 6 ((f.rxPsn + 2 ^ 32 - 1) % 2 ^ 32 + credits * 2 ^ 32)

/-- A packet whose PSN was taken before: answered again as it was, with ACK or NACK (R323, R327). -/
def answerAgain (s : State) (f : Flow) (psn : Nat) : State :=
  match f.refused.find? (fun x => x.1 == psn) with
  | some x => sendNack s f psn x.2
  | none => sendAck s f 0

/-- The tag and the sequence number of a packet (R323, R327 check 1). -/
def rxCheck (s : State) (k : Packet) : RxPacket :=
  if !raileLive s then .drop s
  else match rxFlow s k with
    | none => .drop s
    | some f =>
      if !k.tagOk then .drop (sendNack (tagFail s) f k.psn.toNat 1)
      else
        let s := meterCtx (heardFrom s k.src) k.ctx.val (32 + k.payload.length)
        if k.psn.toNat < f.rxPsn then .again s f
        else if k.psn.toNat = f.rxPsn then .fresh (setFlow s { f with rxPsn := f.rxPsn + 1 }) { f with rxPsn := f.rxPsn + 1 }
        else .drop s

/-- Checks 2 to 7 of R327 for a request at a global address. -/
def rxAccess (s : State) (op : RailOp) (k : Packet) (n : Nat) : Except Nat (State × LdId × Nat) :=
  if k.addr.toNat / 2 ^ 52 ≠ ownNode s then .error 2
  else railAccess s op k.ctx.val k.src.toNat (k.addr.toNat % 2 ^ 52) n

/-- Bytes of a write by a peer reach memory through the slices of their lines (R23, R323). -/
def peerWrite (s : State) (t : LdId) (v : Nat) (bs : List Byte) : State := tvaStore s t v bs

/-- WRITE_PACKET (R323, R327): applied once, in PSN order, then acknowledged. -/
def execWritePacket (k : Packet) (s : State) : Host.Outcome State Fault Refusal :=
  match rxCheck s k with
  | .drop s => .next s
  | .again s f => .next (answerAgain s f k.psn.toNat)
  | .fresh s f =>
    match rxAccess s .wr k k.payload.length with
    | .error c => .next (refusePacket s f k.psn.toNat c)
    | .ok (s, t, v) => .next (sendAck (peerWrite s t v k.payload) f 1)

/-- Bytes read for a peer, with NO_ALLOC (R159); what a poisoned line reads as is open (notes/assumptions/31.md). -/
def peerRead (s : State) (t : LdId) (v n : Nat) : State × List Byte :=
  let s := peerTouch s t v n
  if tvaPoisoned s t v n then (tickFree s, drawBytes s n) else (s, tvaReads s t v n)

/-- The READ_RESP packets of a request: 4,096 bytes each, the last marked (R321). -/
def sendResp (n : NodeId) (ctx fl psn opId : Nat) : (fuel : Nat) → List Byte → State → State
  | 0, _, s => s
  | k + 1, bs, s => match flowOf s n ctx fl with
    | none => s
    | some f =>
      let d := bs.take 4096
      let r := bs.drop 4096
      let s := flowSend s f { ty := 3, flags := b2n r.isEmpty, len := d.length, addr := psn, opId := opId, data := d }
      if r.isEmpty then s else sendResp n ctx fl psn opId k r s

/-- READ_REQ (R321, R323, R327): answered after every earlier write of its flow. -/
def execReadReq (k : Packet) (s : State) : Host.Outcome State Fault Refusal :=
  match rxCheck s k with
  | .drop s => .next s
  | .again s f => .next (answerAgain s f k.psn.toNat)
  | .fresh s f =>
    match rxAccess s .rd k k.len with
    | .error c => .next (refusePacket s f k.psn.toNat c)
    | .ok (s, t, v) =>
      let r := peerRead s t v k.len
      let s := sendResp k.src k.ctx.val k.flow.val k.psn.toNat k.opId.toNat (k.len / 4096 + 1) r.2 r.1
      .next (sendAck s f 1)

/-- Bytes that have come for a read of a descriptor, known by its OP_ID (R321). -/
def takeData (n : NodeId) (op : Nat) (bs : List Byte) (d : DescRun) : DescRun :=
  { d with rd := d.rd.map (fun r => if r.op = op ∧ addrNode r.addr = n then { r with data := r.data ++ bs } else r) }

/-- Data for a work item that ended at a tick before it came: discarded, and its bytes count in SP_ABANDON_BYTES (R145). -/
def dropLate (s : State) (n : NodeId) (op len : Nat) (last : Bool) : State :=
  let on (x : Nat × Nat × Nat) : Bool := x.1 == n.toNat && x.2.1 == op
  match s.lateData.find? on with
  | none => s
  | some x =>
    let s := regBump s (spReg x.2.2 0x38) len
    if last then { s with lateData := s.lateData.filter (fun y => !on y) } else s

/-- READ_RESP (R321): read data arrives at the initiator in its order and is acknowledged. The next burst of the descriptor that asked for
it delivers it to its ring, unless its work item has ended (R145). -/
def execReadResp (k : Packet) (s : State) : Host.Outcome State Fault Refusal :=
  match rxCheck s k with
  | .drop s => .next s
  | .again s f => .next (answerAgain s f k.psn.toNat)
  | .fresh s f =>
    let s := dropLate s k.src k.opId.toNat k.payload.length k.last
    .next (sendAck (mapDescs s (takeData k.src k.opId.toNat k.payload)) f 1)

/-- The new value of a word under an atomic (R322). -/
def atomicNew (fadd : Bool) (old operand compare : Nat) : Nat :=
  if fadd then (old + operand) % 2 ^ 64 else if old = compare then operand else old

/-- Checks 2 to 7 of R327 for an atomic: a word that is not aligned fails with the bounds, after the checks before them
(notes/assumptions/88.md). -/
def atomicAccess (s : State) (k : Packet) : Except Nat (State × LdId × Nat) :=
  let off := k.addr.toNat % 2 ^ 52
  if k.addr.toNat / 2 ^ 52 = ownNode s ∧ off % 8 ≠ 0 then
    match rgnCheck s .atomic k.ctx.val k.src.toNat off 8 with
    | .error c => .error c
    | .ok _ => .error 6
  else rxAccess s .atomic k 8

/-- ATOMIC_REQ (R322, R323, R327): FADD or CAS on an aligned word; the old value is returned. -/
def execAtomicReq (k : Packet) (s : State) : Host.Outcome State Fault Refusal :=
  match rxCheck s k with
  | .drop s => .next s
  | .again s f => .next (answerAgain s f k.psn.toNat)
  | .fresh s f =>
    match atomicAccess s k with
    | .error c => .next (refusePacket s f k.psn.toNat c)
    | .ok (s, t, v) =>
      let r := peerRead s t v 8
      let old := ofLE r.2
      let s := peerWrite r.1 t v (toLE 8 (atomicNew k.fadd old (fld k.payload 0 8) (fld k.payload 8 8)))
      let s := sendAck s f 1
      .next (match flowOf s k.src k.ctx.val k.flow.val with
        | some f => flowSend s f { ty := 5, flags := 1, len := 8, addr := k.psn.toNat, opId := k.opId.toNat, data := toLE 8 old }
        | none => s)

/-- ATOMIC_RESP (R322): the old value completes the control complex's atomic. -/
def execAtomicResp (k : Packet) (s : State) : Host.Outcome State Fault Refusal :=
  match rxCheck s k with
  | .drop s => .next s
  | .again s f => .next (answerAgain s f k.psn.toNat)
  | .fresh s f =>
    let v := BitVec.ofNat 64 (fld k.payload 0 8)
    let s := { s with atomics := s.atomics.map (fun a =>
      if a.node = k.src ∧ a.opId = k.opId ∧ !a.lost then { a with result := some v } else a) }
    .next (sendAck s f 1)

/-! ### Answers at an initiator -/

/-- The flow of an acknowledgement whose tag verifies. -/
def ackFlow (s : State) (k : Packet) : Option Flow := if raileLive s ∧ k.tagOk then rxFlow s k else none

/-- The WRITE of a sent packet, by the OP_ID in its header (R321). -/
def writeOp (bs : List Byte) : Option Nat := if bs.headD 0 = 1 then some (fld bs 0x18 4) else none

/-- WRITEs of descriptors to a node that are acknowledged (R323). -/
def takeAcks (n : NodeId) (ops : List Nat) (d : DescRun) : DescRun :=
  { d with wr := d.wr.filter (fun x => !(addrNode x.addr == n && ops.contains x.op)) }

/-- Acknowledged WRITEs of descriptors (R323): their bytes are written, and count in FE_BYTES_WR (R162). -/
def ackWrites (s : State) (n : NodeId) (ops : List Nat) : State :=
  let s := forFes s (fun s f => regBump s (feReg f.val 0x28)
    (sumN ((fe s f).slots.map (fun x => sumN ((x.2.wr.filter (fun y => addrNode y.addr == n && ops.contains y.op)).map (·.data.length))))))
  mapDescs s (takeAcks n ops)

/-- A flow whose PSNs are used up is opened again under a new KEY_EPOCH once every packet is acknowledged (R328). -/
def renewFlow (s : State) (n : NodeId) (ctx fl : Nat) : State :=
  match flowOf s n ctx fl with
  | some f =>
    if f.opened ∧ (psnLimit ≤ f.txPsn ∨ psnLimit ≤ f.replies) ∧ f.unacked.isEmpty then
      let nonce := drawBytes s 32
      let s := sendCtl (tickFree s) n 5 (openBody { f with keyEpoch := f.keyEpoch + 1, nonceI := nonce })
      let f := (flowOf s n ctx fl).getD f
      setFlow s { f with opened := false, initiator := true, keyEpoch := f.keyEpoch + 1, nonceI := nonce }
    else s
  | none => s

/-- ACK (R324): acknowledged packets are dropped from the retry list, WRITEs that they carried are complete (R323), and credits return. -/
def execAck (k : Packet) (cumPsn : BitVec 32) (credits : BitVec 16) (s : State) : Host.Outcome State Fault Refusal :=
  match ackFlow s k with
  | none => if raileLive s ∧ !k.tagOk ∧ (rxFlow s k).isSome then .next (tagFail s) else .next s
  | some f =>
    let left := f.unacked.filter (fun x => decide (cumPsn.toNat < x.1))
    let done := f.unacked.filter (fun x => decide (x.1 ≤ cumPsn.toNat))
    let f := { f with unacked := left, credits := f.credits + credits.toNat
                      timeouts := if left.length < f.unacked.length then 0 else f.timeouts }
    let s := ackWrites (heardFrom (setFlow s f) k.src) k.src (done.filterMap (fun x => writeOp x.2))
    .next (renewFlow (pumpFlow k.src k.ctx.val k.flow.val f.waitq.length s) k.src k.ctx.val k.flow.val)

/-- Whether a descriptor waits for the answer to an operation at a node. -/
def holdsOp (d : DescRun) (n : NodeId) (op : Nat) : Bool :=
  descLive d && d.st != .faulted
    && (d.wr.any (fun x => addrNode x.addr == n && x.op == op)
      || d.rd.any (fun r => addrNode r.addr == n && r.op == op && decide (r.data.length < r.len)))

/-- A descriptor at the burst boundary before a WRITE that its target refused (R154). -/
def beforeWrite (d : DescRun) (n : NodeId) (op : Nat) : DescRun :=
  match d.wr.find? (fun x => addrNode x.addr == n && x.op == op) with
  | some x => { d with pos := x.pos, delivered := x.delivered, wr := d.wr.filter (fun y => !(addrNode y.addr == n && y.op == op)) }
  | none => d

/-- An operation that its target denied: its descriptor faults with RAILE_DENIED (R155, R327). -/
def denyOp (s : State) (n : NodeId) (op addr : Nat) : State :=
  forFes s (fun s f => ((fe s f).slots.filter (fun x => holdsOp x.2 n op)).foldl (fun s x =>
    match itemOf s x.2.item with
    | some w => descFault s f (Fin.ofNat 64 x.1) w (beforeWrite x.2 n op) 6 addr 0x0202
    | none => s) s)

/-- The packet that a NACK names, at its initiator: a WRITE, READ_REQ or ATOMIC_REQ (R327). -/
def denySent (s : State) (n : NodeId) (bs : List Byte) : State :=
  let op := fld bs 0x18 4
  let s := denyOp s n op (fld bs 0x10 8)
  { s with atomics := s.atomics.map (fun a => if bs.headD 0 = 4 ∧ a.node = n ∧ a.opId.toNat = op then { a with denied := true } else a) }

/-- NACK (R327): the packet is answered, RL_LAST_NACK holds its node and code, and its operation fails with RAILE_DENIED. -/
def execNack (k : Packet) (nackPsn : BitVec 32) (code : BitVec 8) (s : State) : Host.Outcome State Fault Refusal :=
  match ackFlow s k with
  | none => if raileLive s ∧ !k.tagOk ∧ (rxFlow s k).isSome then .next (tagFail s) else .next s
  | some f =>
    let sent := f.unacked.filter (fun x => x.1 == nackPsn.toNat)
    let s := setFlow s { f with unacked := f.unacked.filter (fun x => x.1 != nackPsn.toNat), credits := f.credits + 1 }
    let s := heardFrom (regBump s (rlReg 0 0x1048) 1) k.src
    let s := renewFlow (sent.foldl (fun s x => denySent s k.src x.2) s) k.src k.ctx.val k.flow.val
    let o := rlReg 0 0x1030
    .next (regPut (regPut (regPut s o 63 52 k.src.toNat) o 47 40 code.toNat) o 0 0 1)

/-- RETRANSMIT_TIMEOUT (R324): the oldest packet and every later one are sent again; after two timeouts in a row the flow
moves to another ACTIVE port. -/
def execRetransmitTimeout (n : NodeId) (ctx : Fin 17) (fl : Fin 16) (s : State) : Host.Outcome State Fault Refusal :=
  match flowOf s n ctx.val fl.val with
  | none => .next s
  | some f =>
    if !raileLive s ∨ f.unacked.isEmpty then .next s
    else
      let f := { f with timeouts := f.timeouts + 1 }
      if (2 ≤ f.timeouts ∨ (flowPort s f).isNone) ∧ (routePorts s n.toNat).any (fun p => p.val != f.port) then
        let f := { f with timeouts := 0 }
        .next (moveFlow (setFlow s f) f)
      else .next (resendFlow (setFlow s f) f)

/-! ### Roles and NOTIFY -/

/-- Whether both epochs of a message agree with the role table (R211). -/
def epochsAgree (s : State) (role src : BitVec 24) (srcEpoch dstEpoch : BitVec 16) : Bool :=
  (roleOf s role).isSome && (roleOf s src).isSome && roleEpoch s role == dstEpoch && roleEpoch s src == srcEpoch

/-- A message dropped for its epochs (R211): STALE_ROLE with the current epochs, counted. -/
def dropStale (s : State) (n : NodeId) (id : Nat) (role src : BitVec 24) : State :=
  sendCtl (regBump s (furReg 0x48) 1) n 0x12 (toLE 4 id ++ roleHeader s role src)

/-- ROLE_MSG (R211, R329): checked, applied and acknowledged, or dropped with STALE_ROLE. -/
def execRoleMsg (m : RoleMsg) (s : State) : Host.Outcome State Fault Refusal :=
  let s := if raileLive s then heardFrom s m.sender else s
  if !raileLive s ∨ !peerUp s m.sender then .next s
  else if epochsAgree s m.role m.srcRole m.srcEpoch m.dstEpoch then
    .next (sendCtl { s with roleIn := s.roleIn ++ [m] } m.sender 0x11 (toLE 4 m.msgId))
  else .next (dropStale s m.sender m.msgId m.role m.srcRole)

/-- NOTIFY (R330): checked under R211, then applied, held or dropped by its furrow, and acknowledged. -/
def execNotify (m : NotifyMsg) (s : State) : Host.Outcome State Fault Refusal :=
  let s := if raileLive s then heardFrom s m.sender else s
  if !raileLive s ∨ !peerUp s m.sender then .next s
  else if epochsAgree s m.role m.srcRole m.srcEpoch m.dstEpoch then
    .next (sendCtl (applyNotify s m.role m.furrow m.bar) m.sender 0x11 (toLE 4 m.msgId))
  else .next (dropStale s m.sender m.msgId m.role m.srcRole)

/-- A message's answer comes from the holder of its role: a valid packet from that node (R318). -/
def heardRole (s : State) (msgId : Nat) : State :=
  match (s.sent.find? (fun m => m.id == msgId)).bind (msgNode s) with
  | some n => if raileLive s then heardFrom s n else s
  | none => s

/-- ROLE_ACK (R211, R329): the receiver has applied the message, and its record is dropped. -/
def execRoleAck (msgId : Nat) (s : State) : Host.Outcome State Fault Refusal :=
  let s := heardRole s msgId
  if s.sent.any (fun m => m.id == msgId) then .next (acceptMsg s msgId) else .next s

/-- STALE_ROLE (R211): the message is issued again at the next tick. -/
def execStaleRole (msgId : Nat) (role : BitVec 24) (_epoch : BitVec 16) (s : State) : Host.Outcome State Fault Refusal :=
  let s := heardRole s msgId
  .next { s with sent := s.sent.map (fun m => if m.id = msgId ∧ m.role = role then { m with stale := true } else m) }

/-- Role changes and messages after STALE_ROLE at a tick (R210, R211): each changed role has its new holder and the next
epoch; a stale message goes to the current holder, or its record is dropped with its role. -/
def rolesAtTick (s : State) : State :=
  let turn (r : Role) : Option Role := match r.next with
    | none => some r
    | some none => none
    | some (some n) => some { r with holder := n, epoch := r.epoch + 1, next := none, live := true }
  let s := { s with roles := s.roles.filterMap turn }
  let stale := s.sent.filter (·.stale)
  let s := { s with sent := (s.sent.filter (fun m => !m.stale || (roleOf s m.role).isSome)).map (fun m =>
    if m.stale then { m with stale := false, node := none } else m) }
  stale.foldl (fun s m => issueMsg s { m with node := none }) s

/-- SET_ROLE (R210, R353): a role has its holder, or is deleted, from the next tick on under the next epoch. -/
def execSetRole (m : Mbox) (p : List Byte) (s : State) : Host.Outcome State Fault Refusal :=
  bruah { owner := true, len := 0x0F } m p (!zeroAt p 0x0B 1 || decide (2 ≤ fld p 0x0E 1) || decide (4096 ≤ fld p 0x0C 2)) s (fun _ s =>
    let id := BitVec.ofNat 24 (fld p 8 4)
    let holder := BitVec.ofNat 12 (fld p 0x0C 2)
    let del := bitAt (fld p 0x0E 1) 0
    match s.roles.find? (fun r => r.id == id) with
    | some r =>
      let r' := { r with next := some (if del then none else some holder) }
      ({ s with roles := s.roles.map (fun x => if x.id = id then r' else x) }, 0, toLE 2 (r.epoch + 1).toNat)
    | none =>
      if del then (s, 0, toLE 2 0)
      else if Config.roleTableSize ≤ s.roles.length then (s, 8, toLE 2 0)
      else ({ s with roles := s.roles ++ [{ id := id, holder := holder, epoch := 0, next := some (some holder), live := false }] }
        , 0, toLE 2 1))

end Sys2Proof.Machine
end

