-- ==== Sys2Proof/Machine/Shards.lean ====
section
/-! DEFINITION. Furrow time over Raile (10_raile.md, R331, R332), joint booking (R333) and power credits (R335 to R337). -/

namespace Sys2Proof.Machine

/-! ### Time -/

/-- Whether this device is the time leader of SYNC_MODE 3 (R331). -/
def timeLeader (s : State) : Bool := s.tick.syncMode == 3 && s.timeSync.leader.toNat == ownNode s

/-- Whether a node is the time leader that this device follows. -/
def followsNode (s : State) (n : NodeId) : Bool :=
  s.tick.syncMode == 3 && s.timeSync.leader == n && n.toNat != ownNode s

/-- RL_TIME_OFS shows the offset and the delay (R331, R339). -/
def showTime (s : State) : State :=
  let o := rlReg 0 0x1018
  regSet s o ((BitVec.ofInt 32 s.timeSync.delay).toNat * 2 ^ 32 + (BitVec.ofInt 32 s.timeSync.offset).toNat)

/-- A number held within bounds. -/
def clampI (lo hi x : Int) : Int := max lo (min hi x)

/-- SYNC (R331, R332): the offset from the leader, the rate correction within 320 ppm, and the phase: one period toward zero
within 16 periods, and beyond them a furrow lengthened to the leader's next tick with the rate correction kept. The rate is what the
offset changed by beside the follower's own phase moves (notes/assumptions/34.md). Times are in sixteenths of a period. -/
def execSync (n : NodeId) (furrow inWindow : Nat) (txTime rxTime : Int) (s : State) : Host.Outcome State Fault Refusal :=
  if !raileLive s ∨ !followsNode s n then .next s
  else
    let s := heardFrom s n
    let x := s.timeSync
    let ofs := rxTime - txTime - x.delay
    let lim : Int := 64 * ((s.tick.lenM1 : Int) + 1)
    let far := decide (256 < ofs) || decide (ofs < -256)
    let rate := match far, x.lastOffset with
      | false, some l => clampI (-lim) lim (x.rate + (ofs - l) + 16 * x.moved)
      | _, _ => x.rate
    let len : Int := furrowPeriods s
    let s := { s with
      timeSync := { x with offset := ofs, lastOffset := if far then none else some ofs, rate := rate, moved := 0, synced := true
                           inWindowOk := decide (inWindow = s.tick.inWindow) }
      tick := { s.tick with raileNum := some furrow
                            adjust := if far then 0 else clampI (-1) 1 (ofs.tdiv 16)
                            lengthen := if far then ((ofs.tdiv 16) % len).toNat else s.tick.lengthen } }
    .next (showTime s)

/-- SYNC_JOIN (R331): the leader sends SYNC to the follower from now on. -/
def execSyncJoin (n : NodeId) (s : State) : Host.Outcome State Fault Refusal :=
  let s := if raileLive s then heardFrom s n else s
  if !raileLive s ∨ !timeLeader s ∨ s.timeSync.followers.contains n then .next s
  else .next { s with timeSync := { s.timeSync with followers := s.timeSync.followers ++ [n] } }

/-- DELAY_REQ (R331): the leader answers with the times at which the request arrived and the answer leaves. -/
def execDelayReq (n : NodeId) (rxTime txTime : Int) (s : State) : Host.Outcome State Fault Refusal :=
  let s := if raileLive s then heardFrom s n else s
  if !raileLive s ∨ !timeLeader s then .next s
  else .next (sendCtl s n 0x22 (toLE 8 (BitVec.ofInt 64 rxTime).toNat ++ toLE 8 (BitVec.ofInt 64 txTime).toNat))

/-- DELAY_RESP (R331): the one-way delay. -/
def execDelayResp (n : NodeId) (t1 t2 t3 t4 : Int) (s : State) : Host.Outcome State Fault Refusal :=
  if !raileLive s ∨ !followsNode s n then .next s
  else
    let s := heardFrom s n
    .next (showTime { s with timeSync := { s.timeSync with delay := ((t4 - t1) - (t3 - t2)) / 2 } })

/-! ### Joint booking -/

/-- Gang width code of a width. -/
def widthCode (w : Nat) : Nat := if w = 4 then 2 else if w = 2 then 1 else 0

/-- Furrows of a range in which lane_free holds here for the request of a job that this device holds (R213, R216, R220), its own old
chain apart; where it holds none yet, those with groups enough of the width asked for. -/
def freeFurrows (s : State) (job width gangs first last : Nat) : List Nat :=
  let fs := (List.range (last + 1 - first)).map (first + ·)
  match s.rqt.find? (fun p => (p.2.state == .queued || hasPrefill s p.1) && (jobOf s p.1).map (·.1) == some job) with
  | none => fs.filter (fun g => decide (g ≤ lastFurrow s)
      && widthsFit s ({ furrow := g, gangW := width, gangs := gangs, barMax := 0, feMax := 0, engines := [] }
        :: (allLanes s).filter (fun l => l.furrow == g)))
  | some (i, _) => match jointNeed s i with
    | none => []
    | some (plan, _, _) =>
      let s := setWork s i { workOf s i with chain := [] }
      fs.filter (fun g => (planLane s i plan g []).isSome)

/-- BOOK_QUERY (R333): the furrows of a range that are free here. -/
def execBookQuery (n : NodeId) (job : BitVec 18) (gangW gangs first last : Nat) (s : State) : Host.Outcome State Fault Refusal :=
  let s := if raileLive s then heardFrom s n else s
  if !raileLive s ∨ !peerUp s n then .next s
  else .next (sendCtl s n 0x31 (toLE 4 job.toNat ++ (freeFurrows s job.toNat gangW gangs first last).flatMap (toLE 8)))

/-- An attempt ends without success (R333): its reservations here are released, the other shards are told by an empty chain,
and the request waits again at the front of its queue; one whose prefill is under way keeps no booking and is late (R226). -/
def jointFail (s : State) (j : Joint) : State :=
  let s := { s with joint := s.joint.filter (fun x => x.entry != j.entry) }
  let e := entryOf s j.entry
  let s := if e.state = .queued then
      let u := que s (queId e.queue)
      setQue (setWork s j.entry { workOf s j.entry with chain := [] }) (queId e.queue)
        { u with waiting := j.entry :: u.waiting.filter (· != j.entry) }
    else if hasPrefill s j.entry then makeLate (setWork s j.entry { workOf s j.entry with chain := [] }) j.entry j.cause
    else s
  if j.chain.isEmpty then s
  else (j.free.map (·.1)).foldl (fun s n => sendCtl s n 0x32 (toLE 4 j.job.toNat)) s

/-- A joint attempt with every reply: the first furrows free on every device are reserved here and committed to every shard,
or the attempt fails. -/
def jointCommit (s : State) (j : Joint) : State :=
  match jointNeed s j.entry with
  | none => jointFail s j
  | some (_, _, need) =>
    let last := jointLast (j.first + 2) need
    let gs := ((List.range (last + 1 - (j.first + 2))).map (j.first + 2 + ·)).filter (fun g => j.free.all (fun x => x.2.contains g))
    match lanesAmong (setWork s j.entry { workOf s j.entry with chain := [] }) j.entry j.plan need gs [] with
    | none => jointFail s j
    | some chain =>
      let nodes := j.free.map (·.1)
      let j' := { j with chain := chain, waiting := nodes }
      let s := setWork s j.entry { workOf s j.entry with chain := chain }
      let s := { s with joint := s.joint.map (fun x => if x.entry = j.entry then j' else x) }
      nodes.foldl (fun s n => sendCtl s n 0x32 (toLE 4 j.job.toNat ++ (chain.map (·.furrow)).flatMap (toLE 8))) s

/-- BOOK_REPLY (R333). -/
def execBookReply (n : NodeId) (job : BitVec 18) (free : List Nat) (s : State) : Host.Outcome State Fault Refusal :=
  let s := if raileLive s then heardFrom s n else s
  match s.joint.find? (fun j => j.job == job && j.chain.isEmpty && j.waiting.contains n) with
  | none => .next s
  | some j =>
    let j' := { j with waiting := j.waiting.erase n, free := j.free ++ [(n, free)] }
    let s := { s with joint := s.joint.map (fun x => if x.entry = j.entry then j' else x) }
    if (entryOf s j.entry).state ≠ .queued ∧ !hasPrefill s j.entry then .next (jointFail s j')
    else if j'.waiting.isEmpty then .next (jointCommit s j') else .next s

/-- Whether a quote is met, or another is accepted (R216, R243). -/
def quoteServes (s : State) (i q : Nat) : Bool :=
  (entryOf s i).acceptRequote || (match deadlineOf (entryOf s i) with
    | none => true
    | some d => decide (tickTime s q ≤ d))

/-- A QUEUED entry admitted under a chain that is agreed (R216, R235, R263); a failing test of admission refuses it. -/
def chainAdmit (s : State) (i plan : Nat) (chunks : List Nat) (chain : List LaneFurrow) : State × Bool :=
  let e := entryOf s i
  let q := ((chain.getLast?).map (·.furrow + 1)).getD (curFurrow s)
  let r := poolEvict (s.nodes.length + 1) s e.ld (poolNeed s i e)
  if !r.2 then (refuse r.1 i 3 none, false)
  else if !quoteServes r.1 i q then (refuse r.1 i 1 (some q), false)
  else
    let s1 := setWork r.1 i { workOf r.1 i with chain := chain }
    match bookTail s1 i e q q with
    | .error tbt => (refuse r.1 i (if tbt then 5 else 4) (some q), false)
    | .ok (s2, tq) => (admitEntry s2 i plan chunks chain q tq (poolNeed s i e), true)

/-- A new chain of a request whose prefill is under way (R226, R333): a chain that ends after the quote gives a new quote, and the
request is late with the cause given unless one was recorded before. -/
def takeChain (s : State) (i : Nat) (chain : List LaneFurrow) (cause : Nat) : State :=
  let q := ((chain.getLast?).map (·.furrow + 1)).getD (curFurrow s)
  let pr := pairOfLanes s chain
  let s := setWork s i { workOf s i with chain := chain, pairOp := pr.1, pairK := pr.2, geoGen := s.tick.geoNum }
  let e := entryOf s i
  if q ≤ e.quote then s else jrnlAdmit (makeLate (setEntry s i { e with quote := q }) i cause) i

/-- BOOK_COMMIT (R333): the shard reserves the chain's furrows for its request, which is admitted, and answers. An empty
chain releases what an attempt reserved. -/
def execBookCommit (n : NodeId) (job : BitVec 18) (i : Fin 4096) (chain : List Nat) (s : State) : Host.Outcome State Fault Refusal :=
  let s := if raileLive s then heardFrom s n else s
  if !raileLive s ∨ !peerUp s n then .next s
  else
    let e := entryOf s i.val
    let answer (s : State) (ok : Bool) : State := sendCtl s n 0x33 (toLE 4 job.toNat ++ toLE 1 (b2n ok))
    if chain.isEmpty then
      if e.state = .admitted then
        let s := setEntry (releaseBookings s i.val) i.val { e with state := .queued, quote := 0, quoteOrig := 0, tailQuote := 0 }
        let s := setWork s i.val { workOf s i.val with chain := [], chunkLens := [], booking := 0 }
        let u := que s (queId e.queue)
        .next (setQue s (queId e.queue) { u with waiting := i.val :: u.waiting.filter (· != i.val) })
      else .next s
    else if hasPrefill s i.val then
      let w := workOf s i.val
      let why := moveWhy s w.pairOp w.pairK w.geoGen w.moveCause
      let s := setWork s i.val { workOf s i.val with chain := [] }
      match lanesAll s i.val e.plan chain [] with
      | none => .next (answer s false)
      | some ls => .next (answer (takeChain s i.val ls why) true)
    else if e.state ≠ .queued then .next (answer s false)
    else match jointPlanOf s i.val with
      | none => .next (answer s false)
      | some (plan, chunks, _) => match lanesAll s i.val plan chain [] with
        | none => .next (answer s false)
        | some ls =>
          let u := que s (queId e.queue)
          let s := setQue s (queId e.queue) { u with waiting := u.waiting.filter (· != i.val) }
          let r := chainAdmit s i.val plan chunks ls
          .next (answer r.1 r.2)

/-- A rebooking of a job's request held here that another shard asks for (R226, R333; notes/assumptions/30.md). -/
def askedAnew (s : State) (job : Nat) : State :=
  match s.rqt.find? (fun p => hasPrefill s p.1 && jobOf s p.1 == some (job, 0)) with
  | none => s
  | some (i, e) =>
    let w := workOf s i
    jointStart s i job s.tick.furrow e.plan (stepsLeft s i + reserveNow s i) (moveWhy s w.pairOp w.pairK w.geoGen w.moveCause)

/-- BOOK_ACK (R333): with every shard's reservation made the request is admitted; a failure, here or there, releases the attempt, and
one that answers no attempt asks for a rebooking. -/
def execBookAck (n : NodeId) (job : BitVec 18) (ok : Bool) (s : State) : Host.Outcome State Fault Refusal :=
  let s := if raileLive s then heardFrom s n else s
  match s.joint.find? (fun j => j.job == job && !j.chain.isEmpty && j.waiting.contains n) with
  | none => .next (if ok then s else askedAnew s job.toNat)
  | some j =>
    if !ok ∨ ((entryOf s j.entry).state ≠ .queued ∧ !hasPrefill s j.entry) then .next (jointFail s j)
    else
      let j' := { j with waiting := j.waiting.erase n }
      if !j'.waiting.isEmpty then .next { s with joint := s.joint.map (fun x => if x.entry = j.entry then j' else x) }
      else
        let s := { s with joint := s.joint.filter (fun x => x.entry != j.entry) }
        if hasPrefill s j.entry then .next (takeChain s j.entry j.chain j.cause)
        else match jointPlanOf s j.entry with
        | none => .next s
        | some (_, chunks, _) =>
          let r := chainAdmit s j.entry j.plan chunks j.chain
          .next (if r.2 then r.1 else (j.free.map (·.1)).foldl (fun s n => sendCtl s n 0x32 (toLE 4 j.job.toNat)) r.1)

/-! ### Power credits -/

/-- Watts that a lender may give (R335, R336): LEND_MAX percent of its cap in whole 5 W, never below 500 W. -/
def lendable (m : Member) : Nat := Nat.min (m.cap * m.lendMax / 100) (m.cap - 500) / 5 * 5

/-- One unit of 5 W after another from one lender to the borrowers in turn (R336): grants as (lender, borrower, watts). -/
def lendUnits (l : Member) : (n : Nat) → List (Member × Nat) → List (NodeId × NodeId × Nat) → List (Member × Nat) × List (NodeId × NodeId × Nat)
  | 0, bs, g => (bs, g)
  | n + 1, bs, g =>
    match bs.find? (fun b => decide (b.1.cap + b.2 + 5 ≤ 1600)) with
    | none => (bs, g)
    | some b =>
      let bs' := bs.filter (fun x => x.1.node != b.1.node) ++ [(b.1, b.2 + 5)]
      let g' := if g.any (fun x => x.1 == l.node && x.2.1 == b.1.node) then
          g.map (fun x => if x.1 = l.node ∧ x.2.1 = b.1.node then (x.1, x.2.1, x.2.2 + 5) else x)
        else g ++ [(l.node, b.1.node, 5)]
      lendUnits l n bs' g'

/-- The grants of R336. -/
def grantsOf (ms : List Member) : List (NodeId × NodeId × Nat) :=
  let before (a b : Member) : Bool := decide (b.waitShare < a.waitShare) || (a.waitShare == b.waitShare && decide (a.shard ≤ b.shard))
  let after (a b : Member) : Bool := decide (a.waitShare < b.waitShare) || (a.waitShare == b.waitShare && decide (a.shard ≤ b.shard))
  let lenders := sortBy before (ms.filter (fun m => decide (256 ≤ m.waitShare)))
  let borrowers := (sortBy after (ms.filter (fun m => decide (m.waitShare < 64)))).map (fun m => (m, 0))
  (lenders.foldl (fun acc l => lendUnits l (lendable l / 5) acc.1 acc.2) (borrowers, [])).2

/-- Whether a node, or the credit leader, is DOWN. -/
def contactLost (s : State) (n : NodeId) : Bool :=
  (peerOf s n).st == .down || (creditLeader s).any (fun l => l.toNat != ownNode s && (peerOf s l).st == .down)

/-- A grant taken by a member (R337): a cap change without IMMEDIATE (R406) once it is for the coming window. -/
def takeGrant (s : State) (lender borrower : NodeId) (watts window : Nat) : State :=
  let own := ownNode s
  if !creditOn s then s
  else
    let s := if lender.toNat = own then
        { s with grants := s.grants ++ [{ window := window, lent := watts, borrowed := 0, peer := borrower, lost := contactLost s borrower }] } else s
    let s := if borrower.toNat = own then
        { s with grants := s.grants ++ [{ window := window, lent := 0, borrowed := watts, peer := lender, lost := contactLost s lender }] } else s
    if (lender.toNat = own ∨ borrower.toNat = own) ∧ window = s.tick.window + (if lateChange s then 2 else 1) then capChange s else s

/-- A grant sent to its two members, or taken here. -/
def sendGrant (s : State) (g : NodeId × NodeId × Nat) (window : Nat) : State :=
  let body := toLE 2 g.1.toNat ++ toLE 2 g.2.1.toNat ++ toLE 2 g.2.2 ++ toLE 8 window
  [g.1, g.2.1].foldl (fun s n => if n.toNat = ownNode s then s else sendCtl s n 0x41 body) (takeGrant s g.1 g.2.1 g.2.2 window)

/-- POWER_STATUS taken by the credit leader (R336): once every member of the job has reported, the grants for `window`, the
one after next, are computed and sent. -/
def takeStatus (s : State) (m : Member) (window : Nat) : State :=
  let ms := s.members.filter (fun x => x.node != m.node) ++ [m]
  let nodes := (jobShards s ((creditRole s).toNat / 64)).map (·.2)
  if nodes.all (fun n => ms.any (fun x => x.node == n)) then
    (grantsOf ms).foldl (fun s g => sendGrant s g window) { s with members := [] }
  else { s with members := ms }

/-- POWER_STATUS (R335, R336). -/
def execPowerStatus (n : NodeId) (shard capW lendMax waitShare : Nat) (s : State) : Host.Outcome State Fault Refusal :=
  let s := if raileLive s then heardFrom s n else s
  if !raileLive s ∨ !((creditLeader s).map BitVec.toNat == some (ownNode s)) then .next s
  else .next (takeStatus s { node := n, shard := shard, cap := capW, lendMax := lendMax, waitShare := waitShare }
    (s.tick.window + (if s.tick.headDone then 2 else 1)))

/-- POWER_GRANT (R337): it comes from the leader of the credit role. -/
def execPowerGrant (lender borrower : NodeId) (watts window : Nat) (s : State) : Host.Outcome State Fault Refusal :=
  if !raileLive s then .next s
  else
    let s := match creditLeader s with
      | some n => heardFrom s n
      | none => s
    .next (takeGrant s lender borrower watts window)

end Sys2Proof.Machine
end

