-- ==== Sys2Proof/Machine/Work.lean ====
section
/-! DEFINITION. The end of a furrow (07_furrows.md, R221 to R223; 12_faults_replay.md, R374 to R380; 08_serving.md, R252, R264): commits
that are due, cuts, replays, failures, and WORK_ITEM_COMPLETE. -/

namespace Sys2Proof.Machine

/-! ### Completion of a work item -/

/-- Descriptors of a work item, on every engine, in slots or waiting for one. -/
def descsOf (s : State) (id : Nat) : List DescRun :=
  (List.finRange 32).flatMap (fun f =>
    ((fe s f).slots.map (·.2) ++ (fe s f).waitq).filter (fun d => d.item == id))

/-- Whether an array of a gang has run all its tiles and its vector stream. -/
def arrayDone (u : ArrayUnit) : Bool :=
  u.tiles.isEmpty && u.drains.isEmpty && u.pipe.isEmpty && u.outq.isEmpty && u.cld.isNone && !u.preamble && u.vpos == u.vlen
  && (match u.cur with
      | none => true
      | some c => decide (tileSteps c.desc * stepClk c.desc ≤ c.issued))

/-- Whether a work item has completed its tiles, vector streams and transfers (R221). -/
def itemComplete (s : State) (w : ItemRun) : Bool :=
  (gangArrays w).all (fun a => arrayDone (arr s a)) && (descsOf s w.id).all (fun d => d.st == .done)

/-- WORK_ITEM_COMPLETE (R221): a work item completes before its tick, and its arrays go idle. -/
def execWorkItemComplete (item : Nat) (s : State) : Host.Outcome State Fault Refusal :=
  match itemOf s item with
  | none => .next s
  | some w =>
    if w.done ∨ w.halted ≠ 0 ∨ w.failStatus ≠ 0 ∨ !itemComplete s w then .next s
    else
      let s := setItem (meterArrays s w) { w with done := true }
      .next ((gangArrays w).foldl (fun s a =>
        let u := arr s a
        setArr s a { u with
          st := if u.st = .fallow then .fallow else .idle
          ve := if u.ve = .fallow then .fallow else .idle
          cur := none }) s)

/-! ### Failures -/

/-- A request fails at the tick with a status of R275 or R379 (R377, R380); a lift or recovery whose re-sowing fails ends as one
(R235, R293). `code` is that of its record, 0 where the error has one already: it belongs to one class only (R373). -/
def failWith (s : State) (i status code : Nat) : State :=
  if (entryOf s i).state = .lifting then liftStop (cutEntryItems s i) i status none
  else
    let s := if status = 0x0203 then poisonFall s i else s
    if code = 0 then failQuiet s i status else failRequest s i status code

/-! ### Cuts -/

/-- The cause of R227 of a work item that only ran out of time (R376): a power-cap change in force at once, thermal throttling, or
none. -/
def elasticCause (s : State) (w : ItemRun) : Nat :=
  let hot := if s.power.hotStack ∨ (gangArrays w).any (fun a => (arr s a).care.throttled) then 4 else 0
  match s.power.imm with
  | some x => if x.lowers then x.cause else hot
  | none => hot

/-- Whether a descriptor still waits for another device: a NOTIFY without its acknowledgement, or a barrier below its value that none of
the work item's own descriptors signals (notes/assumptions/86.md). -/
def descWaits (s : State) (w : ItemRun) (ds : List DescRun) (d : DescRun) : Bool :=
  notifyOpen d && d.ntfMsg.isSome
  || (descUnstarted d && !barrierMet s w d.desc && ds.all (fun x => x.desc.signalBar != d.desc.waitBar))

/-- Why a work item that still runs at the tick did not complete: the cause of R227 that R376 charges, 0 for elastic time, and
the fault of R154, or the peer's barrier, that it waits for. -/
def cutCause (s : State) (w : ItemRun) : Nat × Option (Nat × Nat) :=
  let ds := descsOf s w.id
  match ds.find? (fun d => d.st == .faulted), ds.find? (descWaits s w ds) with
  | some d, _ => (1, some (d.code, d.faultAddr))
  | none, some d =>
    if bitAt w.flags 1 then (9, some (256 + d.desc.waitBar, 0)) else (elasticCause s w, none)
  | none, none => (elasticCause s w, none)

/-- A work item's stop count after this furrow, the cause charged, and what it waited for (R375, R376). -/
def itemStop (s : State) (w : ItemRun) : Nat × Nat × Option (Nat × Nat) :=
  if w.halted ≠ 0 then (w.stops, w.haltCause, none)
  else
    let c := cutCause s w
    (if c.1 = 0 then w.stops + 1 else w.stops, c.1, c.2)

/-- Whether the coming tick is a headland (R192, R195). -/
def headlandDue (s : State) : Bool := !s.tick.started || decide (s.tick.windowM1 ≤ s.tick.inWindow)

/-- Whether the work of a work item ends with this headland because its request is cancelled (R157, R225). -/
def cancelledItem (s : State) (w : ItemRun) : Bool :=
  (entryOf s w.rqt).cancelPending && !(workOf s w.rqt).cancelLate && w.round.isNone && headlandDue s

/-- The first engine with a faulted descriptor of a work item. -/
def faultedOn (s : State) (id : Nat) : Option (FeId × DescRun) :=
  (List.finRange 32).findSome? (fun f =>
    (((fe s f).slots.map (·.2)).find? (fun d => d.item == id && d.st == .faulted)).map (fun d => (f, d)))

/-- A work item that still runs is cut at the tick (R221, R222), or its outstanding descriptors are discarded with a cancellation (R157); a fetch fault that lasts to the tick is an error of class REPLAYED
(R373). -/
def cutAtTick (s : State) (w : ItemRun) : State :=
  if w.halted ≠ 0 then s
  else
    let s := match faultedOn s w.id with
      | some (f, d) => logFault s { cls := 1, domain := 0, source := 0x05, unit := f.val, code := 0x000A, fseq := 0, furrow := 0, clk := nowClk s
                                    ld := itemLd s w, rqt := w.rqt, workItem := w.number % 2 ^ 20 + w.stops * 2 ^ 20, layer := w.layer
                                    addr := d.faultAddr, detail := faultDetail d }
      | none => s
    let s := if cancelledItem s w then discardDescs s true w.id else s
    cutItem (regBump s (furReg 0x030) 1) w

/-- The replay of a work item that did not complete (R222). It carries the point of the last schedule fault, which a stop for another
reason in between leaves as it was (R378). -/
def replayOf (s : State) (w : ItemRun) : Replay :=
  { recIdx := w.recIdx, gang := w.gang, step := w.step, stops := (itemStop s w).1,
    point := if w.point.isSome then w.point else w.lastPoint }

/-- What a furrow leaves of some work items of one chunk or round: gangs that completed, replays, causes, what one waited for, the
status with which the chunk or round fails, 0 for none, and whether the error has its record. -/
structure Left where
  done    : List Nat
  replays : List Replay
  causes  : List Nat
  waits   : Option (Nat × Nat)
  fails   : Nat
  logged  : Bool
  deriving DecidableEq, Repr

/-- The same, of the work items of a list (R374 to R378). -/
def leftOf (s : State) (ws : List ItemRun) : Left :=
  let un := ws.filter (fun w => !w.done)
  let stops := un.map (itemStop s)
  let st := ((ws.map (·.failStatus)).find? (· != 0)).getD 0
  { done := (ws.filter (·.done)).map (·.gang), replays := un.map (replayOf s)
    causes := (stops.map (fun x => x.2.1)).filter (· != 0), waits := stops.findSome? (fun x => x.2.2), logged := st != 0
    fails := if st ≠ 0 then st else if stops.any (fun x => decide (3 ≤ x.1)) then 0x0201 else 0 }

/-- Furrows that a stall may last (R376, R394). -/
def stallLimit (s : State) : Nat := Nat.max 1 (regField s (fltReg 0) 47 32)

/-- Causes and the stall count of one request after a furrow in which its work ran: a stall counts the furrows that the same fault or
wait has lasted without a gap (R376). -/
def chargeLeft (s : State) (i : Nat) (l : Left) : State :=
  let s := l.causes.foldl (fun s c => noteCause s i c) s
  let w := workOf s i
  match l.waits with
  | none => setWork s i { w with stallFurrows := 0 }
  | some k => setWork s i { w with
      stallFurrows := if w.stallKey = k ∧ w.stallLast + 1 = curFurrow s then w.stallFurrows + 1 else 1
      stallKey := k, stallLast := curFurrow s }

/-! ### The copy step -/

/-- The copy step at its tick (R252): the source block's pages are copied into pages of the request, and the run counts as committed.
A source that has left the tree since gives nothing, and its run joins the first chunk. A commit for a request under cancel is refused (R237), and
the chunk fails, its source leaving the tree, where a page of it is poisoned (R374, R380). -/
def copyStep (s : State) (i : Nat) : State :=
  let e := entryOf s i
  let w := workOf s i
  let m := modelOf s e
  let t := ldId e.ld
  let first := e.targetLen - w.tokens.length
  let s := setWork s i { w with copying := false, copySrc := none, special := 0 }
  match w.copySrc with
  | none => s
  | some (n, j) =>
    if e.cancelPending then s
    else
    let run := (w.tokens.drop (e.committed - first)).take j
    match s.nodes.find? (fun x => x.idx == n && x.tokens.take j == run) with
    | none => setWork s i { workOf s i with chunkLens := match w.chunkLens with
        | c :: r => (c + j) :: r
        | [] => [] }
    | some x =>
      let rs := x.pages.map (fun a => (a, 2 ^ m.pageLog2))
      let s := touchAll s t rs
      if anyPoisoned s t rs then
        let bad := s.nodes.filter (fun y => y.ld == e.ld && y.pages.any (fun a => x.pages.contains a && tvaPoisoned s t a (2 ^ m.pageLog2)))
        failWith (bad.foldl (fun s y => removeSubtree (s.nodes.length + 1) s y.idx) s) i 0x0203 0x0004
      else
      let s := ensureBlocks s i (e.committed + j)
      let dst := (nthD noBlock (workOf s i).blocks (e.committed / 64)).pages
      let s := (List.range dst.length).foldl (fun s l =>
        devWrite s t (some i) (nthD 0 dst l) (tvaReads s t (nthD 0 x.pages l) (2 ^ m.pageLog2))) s
      let s := setEntry s i { e with committed := e.committed + j, prefixHit := e.prefixHit + j, booked := e.booked - j }
      let s := setWork s i { workOf s i with history := w.history ++ run, changed := true }
      let s := setValid s i (e.committed + j)
      let b := e.committed / 64
      putBlock s i b { nthD noBlock (workOf s i).blocks b with written := 64, forked := x.forked }

/-! ### Settling -/

/-- The work items of an entry's chunk in this furrow. -/
def entryItems (s : State) (i : Nat) : List ItemRun := s.items.filter (fun w => w.round.isNone && w.rqt == i)

/-- One entry at the tick that ends a furrow (R221 to R223, R374 to R377): what did not complete is cut and kept for replay, or the
request fails. -/
def settleEntry (s : State) (i : Nat) : State :=
  let ws := entryItems s i
  let s := if (workOf s i).special = 0 then s else setWork s i { workOf s i with special := 0 }
  if ws.isEmpty then s
  else
    let l := leftOf s ws
    let s := (ws.filter (fun w => !w.done)).foldl cutAtTick s
    let s := { s with items := s.items.filter (fun w => !(w.round.isNone && w.rqt == i)) }
    let s := chargeLeft s i l
    if l.fails ≠ 0 then failWith s i l.fails (if l.logged then 0 else 0x000B)
    else if l.waits.isSome ∧ stallLimit s ≤ (workOf s i).stallFurrows then failWith s i 0x0202 0x000F
    else
      let w := workOf s i
      let s := setWork s i { w with stepDone := w.stepDone ++ l.done, replays := w.replays ++ l.replays }
      let p := planRec (imgRd s (entryOf s i).image) (entryOf s i).plan
      if stepAllDone s i ∧ w.stepNo + 1 < p.steps then setWork s i { workOf s i with stepNo := w.stepNo + 1, stepDone := [] } else s

/-- A round fails, and with it every seated request (R377): one error, with one record (R373). What it fed counts in GEN_DRAFTS (R277). -/
def failRound (s : State) (r : Round) (status code : Nat) : State :=
  let s := { s with rounds := s.rounds.filter (fun x => x.id != r.id) }
  let mine := r.seats.filter (fun i => (entryOf s i).state == .generating)
  let s := regBump s (rqtReg 0x100070) (sumN (mine.map (fun i =>
    Nat.min (workOf s i).drafts.length (seatHeads (modelOf s (entryOf s i)) (entryOf s i)))))
  (mine.zipIdx.foldl (fun s x => failWith s x.1 status (if x.2 = 0 then code else 0)) s)

/-- One round at the tick (R262, R374 to R377): as for an entry; when it fails, every seated request fails. -/
def settleRound (s : State) (r : Round) : State :=
  let ws := s.items.filter (fun w => w.round == some r.id)
  if ws.isEmpty then s
  else
    let l := leftOf s ws
    let s := (ws.filter (fun w => !w.done)).foldl cutAtTick s
    let s := { s with items := s.items.filter (fun w => w.round != some r.id) }
    let s := r.seats.foldl (fun s i => chargeLeft s i l) s
    let stall := l.waits.isSome && r.seats.any (fun i => decide (stallLimit s ≤ (workOf s i).stallFurrows))
    if l.fails ≠ 0 ∨ stall then
      failRound s r (if l.fails ≠ 0 then l.fails else 0x0202) (if l.fails = 0 then 0x000F else if l.logged then 0 else 0x000B)
    else
      let p := roundPlan s r
      let done := r.stepDone ++ l.done
      let all := l.replays.isEmpty && r.replays.isEmpty && (stepGangs (imgRd s r.image) p r.stepNo).all (fun g => done.contains g)
      let r' := { r with
        stepDone := if all && decide (r.stepNo + 1 < p.steps) then [] else done
        stepNo := if all && decide (r.stepNo + 1 < p.steps) then r.stepNo + 1 else r.stepNo
        replays := r.replays ++ l.replays
        moveCause := if r.moveCause = 0 then l.causes.headD 0 else r.moveCause }
      setRound s r'

/-- Lane-furrows moved by a number of furrows. -/
def shiftLanes (n : Nat) (ls : List LaneFurrow) : List LaneFurrow := ls.map (fun l => { l with furrow := l.furrow + n })

/-- A round that has not committed within its furrows (R264): it goes on in the furrows of the next round of its key, and that round
and every later one are delayed by RP furrows, their seats late with cause REPLAY_EXCESS unless another came first. -/
def overrun (s : State) (r : Round) : State :=
  if s.tick.furrow + 1 < r.start + r.rp ∨ !r.lanes.all (fun l => decide (l.furrow ≤ s.tick.furrow)) ∨ r.unbooked then s
  else
    let later := s.rounds.filter (fun x => x.image == r.image && x.adapter == r.adapter && decide (r.start < x.start))
    let next := later.foldl (fun (m : Option Round) x => match m with
      | none => some x
      | some y => if x.start < y.start then some x else some y) none
    match next with
    | none => s
    | some n =>
      let s := setRound s { r with start := n.start, lanes := n.lanes, usedReserve := true }
      let s := later.foldl (fun s x => setRound s { x with start := x.start + r.rp, lanes := shiftLanes r.rp x.lanes }) s
      later.foldl (fun s x => x.seats.foldl (fun s i => makeLate s i 8) s) s

/-- Entries with a commit due at the tick (R252, R374): a copy step, a chunk or a re-sown run. -/
def dueEntries (s : State) : List Nat :=
  (s.rqt.filter (fun p => decide ((workOf s p.1).special = 1) || chunkReady s p.1 || resowReady s p.1)).map (·.1)

/-- Rounds with a commit due at the tick (R262, R374). -/
def dueRounds (s : State) : List Nat := (s.rounds.filter (fun r => r.sampled || roundReady s r)).map (·.id)

/-- One entry's commit at the tick (R236, R252, R374). -/
def tickCommit (s : State) (i : Nat) : State :=
  if (workOf s i).special = 1 then copyStep s i
  else if chunkReady s i then commitChunk s i
  else if resowReady s i then commitResow s i else s

/-- One round's sampling and commit at the tick (R262, R374). -/
def tickRound (s : State) (n : Nat) : State :=
  let s := match roundOf s n with
    | some r => if roundReady s r then sampleRound s r else s
    | none => s
  match roundOf s n with
  | some r => if r.sampled then commitRound s r else s
  | none => s

/-- A request whose remaining lane-furrows are fewer than its remaining steps is late (R223). -/
def lateWhereShort (s : State) (i : Nat) : State :=
  if hasPrefill s i ∧ (workOf s i).chain.length < stepsLeft s i then makeLate s i 8 else s

/-- Work items whose work is done complete with their furrow, commanded or not (R221). -/
def finishItems (s : State) : State :=
  s.items.foldl (fun s w =>
    if !w.done ∧ w.halted = 0 ∧ w.failStatus = 0 ∧ itemComplete s w then setItem s { w with done := true } else s) s

/-- Entries and rounds settled, those that a list names or those that it does not. -/
def settleAll (s : State) (es rs : List Nat) (named : Bool) : State :=
  let s := s.rqt.foldl (fun s p => if es.contains p.1 = named then settleEntry s p.1 else s) s
  s.rounds.foldl (fun s r => match roundOf s r.id with
    | some r => if rs.contains r.id = named then settleRound s r else s
    | none => s) s

/-- The end of the furrow (R221, R236, R384): what did not complete, with its faults, then the commits, and what a tenant reset
waits for. -/
def settle (s : State) : State :=
  let s := finishItems (meterItems s)
  let es := dueEntries s
  let rs := dueRounds s
  let s := settleAll s es rs false
  let s := es.foldl tickCommit s
  let s := rs.foldl tickRound s
  let s := settleAll s es rs true
  let s := s.rounds.foldl (fun s r => match roundOf s r.id with
    | some r => overrun s r
    | none => s) s
  let s := forLds s tenantResetTick
  { s with items := [] }

end Sys2Proof.Machine
end

