-- ==== Sys2Proof/Machine/Sow.lean ====
section
/-! DEFINITION. Sowing (07_furrows.md, R218 to R220, R222, R223, R202): the furrow's work placed on gangs, bound and started, and what
a tick does to arrays, engines and caches (05_scratchpad_fetch.md, R136 to R145, R153, R159). -/

namespace Sys2Proof.Machine

/-- One work item to place: its owner, its record, and what a replay carries. -/
structure SowItem where
  rqt    : Nat
  round  : Option Nat
  image  : Nat
  recIdx : Nat
  gang   : Nat
  step   : Nat
  stops  : Nat
  point  : Option (Nat × Nat × Nat)
  deriving DecidableEq, Repr

/-- The work of one lane-furrow (R218): items, or a step of the device (1 copy, 2 split). -/
structure SowWork where
  rqt    : Nat
  round  : Option Nat
  image  : Nat
  lane   : LaneFurrow
  special : Nat
  replay : Bool
  items  : List SowItem
  deriving DecidableEq, Repr

/-! ### The furrow's work -/

/-- The work items of a step. -/
def stepSow (s : State) (rqt : Nat) (round : Option Nat) (image : Nat) (p : Plan) (k : Nat) (except : List Nat) : List SowItem :=
  let recs := stepItems (imgRd s image) p k
  (((List.range p.gangs).filter (fun g => !except.contains g)).map (fun g => (g, nthD 0xFFFFFFFF recs g))).filterMap (fun x =>
    if x.2 = 0xFFFFFFFF then none
    else some { rqt := rqt, round := round, image := image, recIdx := x.2, gang := x.1, step := k, stops := 0, point := none })

/-- Work items to replay. -/
def replaySow (rqt : Nat) (round : Option Nat) (image : Nat) (rs : List Replay) : List SowItem :=
  rs.map (fun r => { rqt := rqt, round := round, image := image, recIdx := r.recIdx, gang := r.gang, step := r.step, stops := r.stops
                     point := r.point })

/-- The next work of a request in its lane-furrow (R218, R222): replays first, then the copy step, the next step, or the split step;
none when its chain has finished. -/
def entryWork (s : State) (i : Nat) (lane : LaneFurrow) : Option SowWork :=
  let e := entryOf s i
  let w := workOf s i
  let p := planRec (imgRd s e.image) e.plan
  let base : SowWork := { rqt := i, round := none, image := e.image, lane := lane, special := 0, replay := false, items := [] }
  if !w.replays.isEmpty then some { base with replay := true, items := replaySow i none e.image w.replays }
  else if w.copying then some { base with special := 1 }
  else if w.chunkLens.isEmpty then none
  else if stepAllDone s i ∧ w.stepNo + 1 = p.steps then (if w.splitting then some { base with special := 2 } else none)
  else some { base with items := stepSow s i none e.image p w.stepNo w.stepDone }

/-- The next work of a round in its lane-furrow (R262). A round that begins without a request in GENERATING has none. -/
def roundWork (s : State) (r : Round) (lane : LaneFurrow) : Option SowWork :=
  let p := roundPlan s r
  let base : SowWork :=
    { rqt := r.seats.headD 0, round := some r.id, image := r.image, lane := lane, special := 0, replay := false, items := [] }
  if r.seats.isEmpty then none
  else if !r.replays.isEmpty then some { base with replay := true, items := replaySow (r.seats.headD 0) (some r.id) r.image r.replays }
  else if (stepGangs (imgRd s r.image) p r.stepNo).all (fun g => r.stepDone.contains g) then none
  else some { base with items := stepSow s (r.seats.headD 0) (some r.id) r.image p r.stepNo r.stepDone }

/-- A lane-furrow leaves the calendar. -/
def takeLane (s : State) (i f : Nat) : State :=
  let w := workOf s i
  setWork s i { w with chain := w.chain.filter (fun l => l.furrow != f) }

/-- Entries whose chain holds a lane-furrow of furrow `f`, by class, then earlier quote, then lower index (R218). -/
def laneEntries (s : State) (f : Nat) : List (Nat × LaneFurrow) :=
  let xs := s.rqt.filterMap (fun p => ((workOf s p.1).chain.find? (fun l => l.furrow == f)).map (fun l => (p.1, l)))
  let before (a b : Nat × LaneFurrow) : Bool :=
    let x := entryOf s a.1
    let y := entryOf s b.1
    decide (x.cls < y.cls) || (x.cls == y.cls && (decide (x.quote < y.quote) || (x.quote == y.quote && decide (a.1 ≤ b.1))))
  sortBy before xs

/-- Seats whose request is not in GENERATING when their round begins leave it (notes/assumptions/33.md). -/
def beginRound (s : State) (r : Round) : State :=
  if r.stepNo = 0 ∧ r.stepDone.isEmpty ∧ r.replays.isEmpty then
    setRound s { r with seats := r.seats.filter (fun i => (entryOf s i).state == .generating) }
  else s

/-! ### Deferral -/

/-- A lane-furrow whose work does not run (R219, R223): one of the reserve is used and the cause recorded. -/
def deferWork (s : State) (x : SowWork) (cause : Nat) : State :=
  match x.round with
  | some n => match roundOf s n with
    | none => s
    | some r =>
      let s := setRound s { r with usedReserve := true, moveCause := if r.moveCause = 0 then cause else r.moveCause }
      r.seats.foldl (fun s i => noteCause s i cause) (regBump s (furReg 0x050) (b2n (!r.usedReserve)))
  | none =>
    let s := noteCause s x.rqt cause
    let w := workOf s x.rqt
    let has := decide (stepsLeft s x.rqt ≤ w.chain.length)
    lateWhereShort (regBump (setWork s x.rqt { w with reserveUsed := w.reserveUsed + b2n has }) (furReg 0x050) (b2n has)) x.rqt

/-- Whether alignment permits XDEV work (R197): in FREE and LEADER always, otherwise while ALIGNED. -/
def alignedForXdev (s : State) : Bool :=
  s.tick.syncMode == 0 || s.tick.syncMode == 1 || regField s (furReg 0x018) 0 0 == 1

/-- Base address of a binding (R202); a partial buffer's place at its holder is not stated, and is a free value
of the job and slice (notes/assumptions/4.md). -/
def resolveBind (s : State) (i image : Nat) (b : Nat × Nat × Nat) : Binding :=
  let e := entryOf s i
  let base : Nat := match b.1 with
    | 1 => fld e.seedRng.raw 0x10 8
    | 2 => pageList i
    | 3 => workArea i
    | 4 => (tensorBase (imgRd s image) b.2.1).getD 0
    | 5 => match e.adapterSlot with
      | some a => adapterBase a
      | none => 0
    | 6 => match e.lpSlot with
      | some l => lpBase l
      | none => 0
    | 7 =>
      let job := match jobOf s i with
        | some x => x.1
        | none => 0
      let node := ((roleOf s (BitVec.ofNat 24 (job * 64 + b.2.1))).map (fun r => r.holder.toNat)).getD 0
      node * 2 ^ 52 + Config.partialAt job b.2.1 % 2 ^ 52
    | 8 => countsAddr s i
    | _ => 0
  { kind := b.1, base := if b.1 = 0 then 0 else base + b.2.2 }

/-- Every place of a descriptor's walk at the start of a run (R149). -/
def walkPlaces (d : Desc) : List (List Nat) :=
  (List.range 4).foldl (fun ps j => ps.flatMap (fun p => (List.range (dimCount d (j + 1))).map (fun i => p ++ [i]))) [[0]]

/-- Nodes that a Raile descriptor names (R325): those of its runs, with the list entries that stand in own memory before the work item
runs, and that of its list. -/
def descNodes (s : State) (ld base : Nat) (d : Desc) : List Nat :=
  let here := d.indexMem && d.indexBase / 2 ^ 52 == ownNode s
  let list (off n : Nat) : Except Nat (List Byte) :=
    if !here then .error 0
    else match railAccess s .rd ld (ownNode s) ((d.indexBase + off) % 2 ^ 52) n with
      | .ok (s', t, v) => .ok (tvaReads s' t v n)
      | .error c => .error c
  let far := if d.indexMode = 0 ∨ d.indexMode = 3 ∨ !d.indexMem then [] else [d.indexBase / 2 ^ 52]
  far ++ (walkPlaces d).filterMap (fun pos => match walkRun base d pos list with
    | .addr a => some (a / 2 ^ 52)
    | _ => none)

/-- Whether an XDEV work item addresses a FAR peer (R325), by the nodes that its Raile descriptors name. -/
def namesFar (s : State) (x : SowItem) : Bool :=
  let rd := imgRd s x.image
  let r := workRec rd x.recIdx
  let binds := r.binds.map (resolveBind s x.rqt x.image)
  bitAt r.flags 1 && (recLists rd r).any (fun ds => ds.any (fun d =>
    d.space == 2 && (descNodes s (entryOf s x.rqt).ld (if d.baseSel = 0 then 0 else ((binds[d.baseSel - 1]?).map (·.base)).getD 0) d).any
      (fun n => (peerOf s (BitVec.ofNat 12 n)).far)))

/-- The cause for which work is not placed in this furrow, 0 for none (R197, R218, R325, R387, R407, R420). -/
def holdCause (s : State) (x : SowWork) : Nat :=
  let rd := imgRd s x.image
  if stopped s then 5
  else if !s.faults.dieDown.isEmpty then 6
  else if x.items.any (fun it => bitAt (workRec rd it.recIdx).flags 1 && (!alignedForXdev s || namesFar s it)) then 9
  else if s.power.immOn ≠ 0 ∧ capacityB s s.power.wop < effCount (maxN (x.items.map (fun it => (workRec rd it.recIdx).declared))) s.power.wsluice then
    s.power.immOn
  else 0

/-! ### Placement -/

/-- Arrays that sowing may use (R218). -/
def freeArrays (s : State) : List Nat :=
  (List.range 64).filter (fun a => arrEnabled s a && (arr s (arrId a)).st != .fallow)

/-- Temperature of a group's hottest array at the previous tick. -/
def groupTemp (s : State) (l width : Nat) : Nat := maxN ((List.range width).map (fun i => (arr s (arrId (l + i))).care.tickTemp))

/-- coolest_free_group of R219: the leader of the free aligned group whose hottest array is coolest, the lowest number of equals. -/
def coolestGroup (s : State) (free : List Nat) (width : Nat) : Option Nat :=
  let gs := ((List.range (64 / width)).map (· * width)).filter (fun l => (List.range width).all (fun i => free.contains (l + i)))
  gs.foldl (fun (m : Option Nat) l => match m with
    | none => some l
    | some b => if groupTemp s l width < groupTemp s b width then some l else some b) none

/-- What placement has done so far: arrays still free, placed items (work number, item, leader), works that found no group. -/
structure Placing where
  free : List Nat
  put  : List (Nat × SowItem × Nat)
  fail : List Nat
  deriving DecidableEq, Repr

/-- Gang width of a work item's record (R201). -/
def itemWidth (s : State) (it : SowItem) : Nat := gangWidth (workRec (imgRd s it.image) it.recIdx).gangW

/-- One item placed, or its work marked. -/
def placeItem (s : State) (n width : Nat) (p : Placing) (it : SowItem) : Placing :=
  if itemWidth s it ≠ width then p
  else match coolestGroup s p.free width with
    | none => { p with fail := n :: p.fail }
    | some l => { p with free := p.free.filter (fun a => decide (a < l) || decide (l + width ≤ a)), put := p.put ++ [(n, it, l)] }

/-- Placement of R218: widths 4, 2 and 1, each over the works in their order. -/
def placeAll (s : State) (free : List Nat) (works : List (Nat × SowWork)) : Placing :=
  [4, 2, 1].foldl (fun p width => works.foldl (fun p x => x.2.items.foldl (placeItem s x.1 width) p) p)
    { free := free, put := [], fail := [] }

/-! ### Binding and start -/

/-- A mask generator slot for an entry's chunk (R179, R219): the one it holds, or the lowest free one, with the chunk's values: L is
the committed length at its start, or the first position of a re-sown run (R293), W is open (notes/assumptions/81.md), and a forest
loads its whole parent list (notes/assumptions/82.md). -/
def bindMgen (s : State) (i tokens : Nat) : State × Option Nat :=
  match (List.range 8).find? (fun g => (s.mgen[Fin.ofNat 8 g]).busy == some i) with
  | some g => (s, some g)
  | none =>
    match (List.range 8).find? (fun g => (s.mgen[Fin.ofNat 8 g]).busy.isNone) with
    | none => (s, none)
    | some g =>
      let e := entryOf s i
      let first := ((workOf s i).resow.head?.map (·.1)).getD e.committed
      let m : MgenSlot := { busy := some i, tree := e.forest, tokens := tokens, prefixLen := first, loaded := false
                            window := Config.maskWindow (imgRd s e.image 0 256)
                            parents := if e.forest then e.seedRng.parents else [] }
      ({ s with mgen := s.mgen.set (Fin.ofNat 8 g) m }, some g)

/-- Ring `q` as a work item's record configures it, head and tail at 0 (R142, R162). -/
def ringOf (v : Nat) : Ring :=
  { enable := bitAt v 0, base := bits v 33 25 * 4096, slotSize := (bits v 24 16 + 1) * 4096, slots := bits v 11 8 + 1 }

/-- A slot table entry at the tick (R207, R208). -/
def slotRunOf (b : List Byte) : SlotRun :=
  { base := fld b 0 4, size := fld b 4 4, producer := fld b 8 1, consumer := fld b 9 1, reads := fld b 10 2 }

/-- The bank powers of an array at a tick (R138, R139): booked banks wake, the others are asked to power down. -/
def tickBanks (u : ArrayUnit) (booked : Nat → Bool) : Vector Bank 32 :=
  Vector.ofFn (fun k =>
    let b := u.banks[k]
    if booked k.val then
      { power := if b.power = .sleep then .waking else b.power, pending := b.pending, booked := true, pdReq := false }
    else { b with booked := false, pdReq := b.power == .on || b.power == .waking })

/-- Entry numbers at the end of a work item on an array (R115): HELD entries are FREE again. -/
def endEnts (u : ArrayUnit) : Vector EntState 16 := u.ent.map (fun e => if e = .held then .free else if e = .free then .free else .invalid)

/-- An array at the tick that ends its work item (R115, R136, R139, R145): rings abandoned, bytes that wait at the port discarded,
caches invalid, and every bank asked to power down. -/
def tickArray (s : State) (a : ArrId) : State :=
  if (arr s a).st = .fallow then s
  else
    let s := abandonArray s a
    let u := arr s a
    setArr s a { u with
      st := .idle
      ve := .idle
      item := none
      tiles := []
      cur := none
      drains := []
      pipe := []
      ent := endEnts u
      entTile := []
      acc := []
      outq := []
      maskq := []
      cache := []
      cld := none
      preamble := false
      banks := tickBanks u (fun _ => false) }

/-- The tokens of a partial chunk that a work item runs (R232), none where the chunk is whole. -/
def partTokens (s : State) (w : ItemRun) : Option Nat :=
  let n := nthD 0 (workOf s w.rqt).chunkLens 0
  if w.round.isNone ∧ n < (planRec (imgRd s w.image) (entryOf s w.rqt).plan).chunkTokens then some n else none

/-- A tile of a partial chunk with its unused rows cleared (R90, R232). -/
def partTile (image recIdx k n : Nat) (d : TileDesc) : TileDesc :=
  let u := (Config.usedRows image recIdx k n).toNat
  let rows (x : Nat) : Nat := if x = 0 then 16 else x
  { d with rowValid := d.rowValid &&& (u % 2 ^ 16), tailRows := Nat.min (rows d.tailRows) (rows (u / 2 ^ 16)) % 16 }

/-- The tiles that a work item runs (R232). -/
def itemTiles (s : State) (id : Nat) (rd : Rd) (r : WorkRec) : List TileDesc :=
  match itemOf s id with
  | none => recTiles rd r
  | some w => match partTokens s w with
    | none => recTiles rd r
    | some n => (recTiles rd r).zipIdx.map (fun x => partTile w.image w.recIdx x.2 n x.1)

/-- One array of a gang as its work item starts (R115, R137, R139, R141, R142, R163, R164, R184, R207). -/
def startArray (s : State) (id : Nat) (rd : Rd) (r : WorkRec) (a : ArrId) : State :=
  let u := arr s a
  let tiles := itemTiles s id rd r
  let sw := swBanksOf r.swCode
  let cb := cacheBanksOf r.cacheCode
  let rows := (tiles.filter (fun d => d.maskSrc == 2)).map (fun d => if d.drain then 16 * tileE d else 0)
  setArr s a { u with
    st := .running
    item := some id
    tiles := tiles
    tileNo := 0
    cur := none
    drains := []
    act := List.replicate 16 none
    loads := []
    loadNo := 0
    feeders := Vector.replicate 16 {}
    pipe := []
    ent := Vector.replicate 16 .free
    entTile := []
    lastHeld := none
    acc := []
    outq := []
    outAt := 0
    stats := u.stats.map (fun p => (p.1, { p.2 with tag := none }))
    maskq := []
    maskBuf := []
    maskNo := 0
    maskAt := 0
    maskUsed := nextMask rows 0
    maskRows := rows
    spad := []
    swBanks := sw
    cacheBanks := cb
    banks := tickBanks u (fun k => decide (k < sw) || decide (32 - cb ≤ k))
    rings := Vector.ofFn (fun q => ringOf (nthD 0 r.rings q.val))
    slots := (recSlots rd r).map slotRunOf
    cache := []
    cld := none
    preamble := true
    portq := []
    ve := if r.vsLen = 0 then .idle else .running
    vpos := 0
    vlen := r.vsLen
    veClk := 320
    vregs := Vector.replicate 32 (Vector.replicate 512 0) }

/-- Descriptors of a list put behind those of an engine (R146, R147). -/
def queueList (s : State) (id : Nat) (f : FeId) (ds : List Desc) : State :=
  let u := fe s f
  setFe s f { u with
    waitq := u.waitq ++ ds.zipIdx.map (fun x => { desc := x.1, item := id, order := u.orderNo + x.2 : DescRun })
    orderNo := u.orderNo + ds.length }

/-- The 64 slots of an engine filled from its waiting descriptors (R146). -/
def fillSlots (u : FetchUnit) : FetchUnit :=
  { u with slots := u.waitq.take 64 |>.zipIdx.map (fun x => (x.2, x.1)), waitq := u.waitq.drop 64 }

/-- Whether a work item's prefill chunk uses a mask generator slot, which it holds from its first work item on (R179). -/
def chunkMgen (s : State) (it : SowItem) : Bool :=
  it.round.isNone && planMgen (imgRd s it.image) (planRec (imgRd s it.image) (entryOf s it.rqt).plan)

/-- Tokens of the chunk that a work item belongs to, or of its round's first seat. -/
def itemTokens (s : State) (it : SowItem) : Nat :=
  let e := entryOf s it.rqt
  if it.round.isSome then 1 + seatHeads (modelOf s e) e else nthD 0 (workOf s it.rqt).chunkLens 0

/-- The descriptors of a list in the scratchpad of the gang's leader (R147): each is read there when it starts (log 67). -/
def queueScratch (s : State) (id : Nat) (f : FeId) (at_ n : Nat) : State :=
  let u := fe s f
  setFe s f { u with
    waitq := u.waitq ++ (List.range n).map (fun i => { desc := {}, item := id, order := u.orderNo + i, src := some (at_ + 128 * i) : DescRun })
    orderNo := u.orderNo + n }

/-- The parts of an image that a work item starts from, as offset and length (R201, R219): its record, tile list, vector stream, slot
table and fetch lists. -/
def recParts (rd : Rd) (i : Nat) (r : WorkRec) : List (Nat × Nat) :=
  [((secD rd 4).off + 512 * i, 512), ((secD rd 5).off + r.tileList, 64 * r.tileCount), ((secD rd 7).off + r.vstream, 16 * r.vsLen)
  , ((secD rd 0xA).off + r.slotTable, 16 * r.nSlots)]
  ++ ((List.range r.nFe).filter (fun e => nthD 0 r.fetch e != 0)).map (fun e =>
    ((secD rd 6).off + nthD 0 r.fetch e, 128 * (fetchList rd (nthD 0 r.fetch e)).length))

/-- DPA of a byte in each line of a range of an image. -/
def imageLines (s : State) (h off n : Nat) : List Nat := (memPieces off n).filterMap (fun x => imageDpa s h x.1)

/-- A range of an image read by the device, through the slices (R23). -/
def imageTouch (s : State) (h off n : Nat) : State := (imageLines s h off n).foldl (workRead 2) s

/-- The poisoned lines of a range of an image. -/
def imageBad (s : State) (h off n : Nat) : List Nat := (imageLines s h off n).filter (fun p => poisoned s p 1)

/-- A placed work item bound and started (R219): `engines` are its engines, `bar` the first free barrier counter. What it starts from is
read from the image's frames; poison there damages the image and fails the request (R370, R380). -/
def startItem (s : State) (it : SowItem) (leader : Nat) (engines : List Nat) (bar : Nat) : State :=
  let rd := imgRd s it.image
  let r := workRec rd it.recIdx
  let mg := if bitAt r.flags 0 || chunkMgen s it then bindMgen s it.rqt (itemTokens s it) else (s, none)
  let s := mg.1
  let id := s.itemNo
  let w : ItemRun :=
    { id := id, rqt := it.rqt, round := it.round, recIdx := it.recIdx, image := it.image, step := it.step, gang := it.gang
      number := r.number, layer := r.layer, leader := leader, width := gangWidth r.gangW, mode := r.mode, declared := r.declared
      flags := r.flags, mgenSlot := if bitAt r.flags 0 then mg.2 else none, mgenBind := r.mgenBind, barMap := (List.range r.nBar).map (bar + ·), engines := engines
      binds := r.binds.map (resolveBind s it.rqt it.image), arrived := [], stops := it.stops, lastPoint := it.point }
  let parts := recParts rd it.recIdx r
  let s := parts.foldl (fun s x => imageTouch s it.image x.1 x.2) s
  let bad := parts.flatMap (fun x => imageBad s it.image x.1 x.2)
  if !bad.isEmpty then
    let w := { w with halted := 3, failStatus := 0x0204 }
    logItem { bad.foldl (fun s p => damageFrame s (p / 65536)) s with items := s.items ++ [w], itemNo := id + 1 } w 2 0x0F leader 0x0004
  else
  let s := { s with items := s.items ++ [w], itemNo := id + 1 }
  let s := (gangArrays w).foldl (fun s a => startArray s id rd r a) s
  ((recLists rd r).zip engines).zipIdx.foldl (fun s x =>
    match Config.scratchList (rd ((secD rd 4).off + 512 * it.recIdx) 512) x.2 with
    | some p => if x.1.1.isEmpty then queueScratch s id (feId x.1.2) p.1 p.2 else queueList s id (feId x.1.2) x.1.1
    | none => queueList s id (feId x.1.2) x.1.1) s

/-- Placed items of one work in their order, with the engines of its lane-furrow in order (R219). -/
def startWork (put : List (Nat × SowItem × Nat)) (acc : State × Nat) (x : Nat × SowWork) : State × Nat :=
  let mine := x.2.items.filterMap (fun it => (put.find? (fun q => q.1 == x.1 && q.2.1 == it)).map (fun q => (it, q.2.2)))
  let r := mine.foldl (fun (a : State × Nat × List Nat) y =>
    let rec_ := workRec (imgRd a.1 y.1.image) y.1.recIdx
    (startItem a.1 y.1 y.2 (a.2.2.take rec_.nFe) a.2.1, a.2.1 + rec_.nBar, a.2.2.drop rec_.nFe)) (acc.1, acc.2, x.2.lane.engines)
  (r.1, r.2.1)

/-- The blocks that sown work writes are in both structures before it runs (R246, R265, R279): a chunk's positions, a re-sown run's, or
each seat's pending token and drafts. -/
def openWork (s : State) (x : SowWork) : State :=
  match x.round with
  | some n => match roundOf s n with
    | none => s
    | some r => r.seats.foldl (fun s i =>
        let e := entryOf s i
        if e.state = .generating then openBlocks s i e.committed (e.committed + 1 + seatHeads (modelOf s e) e) else s) s
  | none =>
    let e := entryOf s x.rqt
    let w := workOf s x.rqt
    if x.special ≠ 0 then s
    else match w.resow with
      | (p, n) :: _ => openBlocks s x.rqt p (p + n)
      | [] => openBlocks s x.rqt e.committed (e.committed + nthD 0 w.chunkLens 0)

/-- What starting a work notes for its request or round (R222, R223, R235): a replay uses one lane-furrow of the reserve. -/
def noteStarted (s : State) (x : SowWork) : State :=
  let s := if x.replay then regBump s (furReg 0x038) x.items.length else s
  match x.round with
  | some n => match roundOf s n with
    | none => s
    | some r =>
      let s := if x.replay ∧ !r.usedReserve then regBump s (furReg 0x050) 1 else s
      setRound s { r with replays := [], usedReserve := r.usedReserve || x.replay }
  | none =>
    let w := workOf s x.rqt
    let has := x.replay && decide (stepsLeft s x.rqt ≤ w.chain.length + 1)
    let s := regBump s (furReg 0x050) (b2n has)
    let s := setWork s x.rqt { w with replays := if x.replay then [] else w.replays, special := x.special
                                      reserveUsed := w.reserveUsed + b2n has }
    let e := entryOf s x.rqt
    if e.state = .admitted then setEntry s x.rqt { e with state := .running } else s

/-- A chain that has finished releases its remaining lane-furrows (R219). -/
def releaseLanes (s : State) (i : Nat) : State := setWork s i { workOf s i with chain := [] }

/-- The works of furrow `f` with the lane-furrows consumed: rounds first, then requests (R218). -/
def gatherWork (s : State) (f : Nat) : State × List SowWork :=
  let rs := s.rounds.filter (fun r => r.lanes.any (fun l => l.furrow == f))
  let s := rs.foldl beginRound s
  let a := rs.foldl (fun (acc : State × List SowWork) r0 =>
    match roundOf acc.1 r0.id, r0.lanes.find? (fun l => l.furrow == f) with
    | some r, some l =>
      let s := setRound acc.1 { r with lanes := r.lanes.filter (fun l => l.furrow != f) }
      if r.seats.isEmpty then ({ s with rounds := s.rounds.filter (fun x => x.id != r.id) }, acc.2)
      else match roundWork s r l with
        | some x => (s, acc.2 ++ [x])
        | none => (s, acc.2)
    | _, _ => acc) (s, [])
  (laneEntries a.1 f).foldl (fun (acc : State × List SowWork) p =>
    let s := takeLane acc.1 p.1 f
    match entryWork s p.1 p.2 with
    | some x => (s, acc.2 ++ [x])
    | none => (releaseLanes s p.1, acc.2)) a

/-- Works of a furrow that find no mask generator slot (R179), by number: a work that holds none takes a free one, in order. -/
def slotless (s : State) (works : List (Nat × SowWork)) : List Nat :=
  let uses (x : SowWork) : Bool := x.items.any (fun it => bitAt (workRec (imgRd s it.image) it.recIdx).flags 0 || chunkMgen s it)
  (works.foldl (fun (acc : Nat × List Nat) x =>
    if !uses x.2 ∨ holdsMgen s x.2.rqt then acc
    else match acc.1 with
      | 0 => (0, acc.2 ++ [x.1])
      | n + 1 => (n, acc.2)) ((s.mgen.toList.filter (·.busy.isNone)).length, [])).2

/-- sow of R218. Work that lacks a group only because an array is under reset is delayed by the reset, else by the geometry table
(R227). Work whose mask generator slot is still held by a chunk that has outrun its chain is deferred (notes/assumptions/74.md). -/
def sow (s : State) (f : Nat) : State :=
  let g := gatherWork s f
  let works := g.2.zipIdx.map (fun x => (x.2, x.1))
  let s := works.foldl (fun s x => if holdCause g.1 x.2 = 0 then s else deferWork s x.2 (holdCause g.1 x.2)) g.1
  let go := works.filter (fun x => holdCause g.1 x.2 == 0)
  let wait := slotless s go
  let s := go.foldl (fun s x => if wait.contains x.1 then deferWork s x.2 8 else s) s
  let go := go.filter (fun x => !wait.contains x.1)
  let p := placeAll s (freeArrays s) go
  let gone := placeAll s ((List.range 64).filter (arrEnabled s)) go
  let s := go.foldl (fun s x => if p.fail.contains x.1 then deferWork s x.2 (if gone.fail.contains x.1 then 7 else 6) else s) s
  let run := go.filter (fun x => !p.fail.contains x.1)
  let s := run.foldl (fun s x => openWork (noteStarted s x.2) x.2) s
  let s := (run.foldl (startWork p.put) (s, 0)).1
  forFes s (fun s f => setFe s f (fillSlots (fe s f)))

/-- What every tick copies or clears before sowing (R136, R145, R153, R159, R371): arrays, barrier counters, engine slots, and the KEEP ways. -/
def tickUnits (s : State) : State :=
  let s := forArrays s tickArray
  let s := forFes s (fun s f => setFe s f { fe s f with slots := [], waitq := [], orderNo := 0, faults := [] })
  let s := forFes s showFault
  { s with
    bars := Vector.replicate 256 0
    mere := Vector.ofFn (fun k => { s.mere[k] with keepWays := regField s (mcReg k.val 0) 3 0 }) }

/-- Increments held for the furrow that begins are applied (R330). -/
def applyHeld (s : State) : State :=
  let f := s.tick.furrow
  let due := s.notifies.filter (fun n => n.furrow == f)
  due.foldl (fun s n => applyNotify s n.role n.furrow n.bar) { s with notifies := s.notifies.filter (fun n => decide (f < n.furrow)) }

end Sys2Proof.Machine
end

