-- ==== Sys2Proof/Machine/Headland.lean ====
section
/-! DEFINITION. Headlands (07_furrows.md, R192, R193, R196, R224 to R226; 10_raile.md, R331, R335 to R337): cancellations, the window
pair with its credits, releases, adopted numbers and lengths, the journal batch and rebooking; HEADLAND. -/

namespace Sys2Proof.Machine

/-! ### Actions 1 and 3 -/

/-- A cancelled request at the headland (R225 action 1, R235, R237). -/
def cancelEntry (s : State) (i : Nat) : State :=
  let e := entryOf s i
  let w := workOf s i
  let s := { s with queues := s.queues.map (fun u => { u with waiting := u.waiting.filter (· != i) })
                    joint := s.joint.filter (fun j => j.entry != i) }
  let s := cutEntryItems s i
  let s := dropNodes s w.hits
  let s := setWork s i { workOf s i with hits := [], copySrc := none }
  let s := dropBlocks s i (cdiv e.committed 64)
  let s := endRequest s i .cancelled 9
  regBump (setWork s i { workOf s i with freeLate := false }) (rqtReg 0x100028) 1

/-- Action 1 of R225, for the cancellations that arrived before the tick of the window's last furrow (R224). -/
def applyCancels (s : State) : State :=
  s.rqt.foldl (fun s p =>
    let e := entryOf s p.1
    if e.cancelPending ∧ !(workOf s p.1).cancelLate ∧ (e.state = .queued ∨ e.state = .admitted ∨ e.state = .running ∨ e.state = .generating) then cancelEntry s p.1
    else s) s

/-- Whether an entry becomes FREE at a headland (R235), its release having arrived in time (R224). -/
def freesAtHeadland (s : State) (i : Nat) : Bool :=
  let e := entryOf s i
  !(workOf s i).freeLate && (((e.state == .complete || e.state == .cancelled) && !e.retain) || e.state == .failed || (workOf s i).releaseReq)

/-- Whether a round that seats a request has begun. -/
def inRound (s : State) (i : Nat) : Bool :=
  s.rounds.any (fun r => r.seats.contains i && !(r.stepNo == 0 && r.stepDone.isEmpty && r.replays.isEmpty))

/-- The pages of one entry that a headland returns (R225 action 3, R266): those of a parked entry, and those that hold rejected entries
only. -/
def returnPages (s : State) (i : Nat) : State :=
  let e := entryOf s i
  let w := workOf s i
  if w.freeLate then s
  else if w.freedPages then
    let s := releaseGone s i
    if e.state = .parked then setWork s i { workOf s i with counts := [] } else s
  else if retained e ∨ (e.state = .generating ∧ !inRound s i) then
    (if w.blocks.length ≤ cdiv e.committed 64 then s else dropBlocks s i (cdiv e.committed 64))
  else s

/-- Action 3 of R225, with step 5 of a tenant reset (R384). -/
def releasePages (s : State) : State :=
  let s := s.rqt.foldl (fun s p => if freesAtHeadland s p.1 then freeEntry s p.1 else returnPages s p.1) s
  let s := forLds s tenantResetHeadland
  let s := reapPages s
  reapAdapters (forLds s reapWorkAreas)

/-! ### Credits (R335 to R337) -/

/-- The grants as the window that begins finds them (R337): borrowed watts are dropped without contact or alignment, and watts lent in
the window that ends stay lent for one more once contact is lost. -/
def headlandGrants (s : State) : State :=
  let now := s.tick.window
  let next := now + 1
  let kept := (s.grants.filter (fun g => decide (next ≤ g.window))).map (fun g =>
    if g.window = next then
      { g with borrowed := if g.lost || g.unaligned || !alignedForXdev s then 0 else g.borrowed, seen := g.lost }
    else g)
  let held := (s.grants.filter (fun g => g.window == now && decide (0 < g.lent) && g.lost && !g.seen)).map (fun g =>
    { g with window := next, borrowed := 0, seen := true
             lent := g.lent - sumN ((kept.filter (fun k => k.window == next && k.peer == g.peer)).map (·.lent)) })
  let s := { s with grants := kept ++ held }
  let c := creditsFor s next
  regSet s (rlReg 0 0x1028) (c.2 * 2 ^ 32 + c.1)

/-! ### Rebooking (R226) -/

/-- Every lane-furrow of the calendar taken back. -/
def clearCalendar (s : State) : State :=
  { s with
    rounds := s.rounds.map (fun r => { r with lanes := [] })
    work := s.work.map (fun p => (p.1, { p.2 with chain := [] })) }

/-- The earliest furrow from `g` up at which a round's remaining furrows and seats fit (R226, R262). -/
def placeRound (s : State) (m : ModelInfo) (p : Plan) (mgen : Option (List (Nat × Nat))) (seats : List Entry) (n : Nat) :
    (fuel g : Nat) → Option (Nat × List LaneFurrow)
  | 0, _ => none
  | f + 1, g =>
    if seatsFit s m p g seats then
      match roundLanes s p mgen n g [] with
      | some ls => some (g, ls)
      | none => placeRound s m p mgen seats n f (g + 1)
    else placeRound s m p mgen seats n f (g + 1)

/-- What the first pass keeps: the delay of each key so far, and whether every tail kept its quote. -/
structure Rebook where
  s      : State
  delays : List ((Nat × Nat) × Nat)
  ok     : Bool

/-- The delay of a key. -/
def delayOf (ds : List ((Nat × Nat) × Nat)) (key : Nat × Nat) : Nat := ((ds.find? (fun x => x.1 == key)).map (·.2)).getD 0

/-- One round rebooked (R226 pass 1): at its old start with the delay of its key, or the earliest later one; its seats are late when
it keeps no booking, and when their tails move past TAIL_QUOTE. -/
def rebookRound (from_ : Nat) (x : Rebook) (r : Round) : Rebook :=
  let s := x.s
  let key := (r.image, r.adapter)
  let rd := imgRd s r.image
  let m := modelInfo rd
  let p := planRec rd m.genPlan
  let begun := !(r.stepNo == 0 && r.stepDone.isEmpty && r.replays.isEmpty)
  let n := p.steps - r.stepNo + (if r.usedReserve then 0 else 1)
  let want := if begun then from_ else Nat.max from_ (r.start + delayOf x.delays key)
  let why := moveWhy s r.pairB r.pairK r.geoGen r.moveCause
  match placeRound s m p (slotsFor s rd p none (some r.id)) (r.seats.map (entryOf s)) n horizon want with
  | none =>
    { x with s := r.seats.foldl (fun s i => makeLate s i why) (setRound s { r with unbooked := true }), ok := false }
  | some (g, ls) =>
    let pr := pairOfLanes s ls
    let s := setRound s { r with unbooked := false, start := g + n - r.rp, lanes := ls, pairB := pr.1, pairK := pr.2, geoGen := s.tick.geoNum }
    let past := r.seats.filter (fun i => decide ((entryOf s i).tailQuote < g + n))
    let s := past.foldl (fun s i =>
      let s := makeLate s i why
      jrnlAdmit (setEntry s i { entryOf s i with tailQuote := g + n }) i) s
    { s := s, ok := x.ok && past.isEmpty
      delays := (key, delayOf x.delays key + (g - want)) :: x.delays }

/-- Rounds whose lane-furrows all passed during a stop are given up with their seats, which are consumed (R421); one that had begun goes
on. -/
def dropPassed (s : State) (from_ : Nat) : State :=
  let begun (r : Round) : Bool := !(r.stepNo == 0 && r.stepDone.isEmpty && r.replays.isEmpty)
  let s' := { s with power := { s.power with missed := false } }
  if !s.power.missed then s'
  else { s' with rounds := s.rounds.filter (fun r => begun r || r.unbooked || r.lanes.any (fun l => decide (from_ ≤ l.furrow))) }

/-- Seats that a request still needs (R263): one for each token after the first, or for each token left in its tail. -/
def seatsNeeded (s : State) (i : Nat) : Nat :=
  let e := entryOf s i
  if e.cancelPending then 0
  else if e.state = .generating then e.genLeft
  else if hasPrefill s i then e.genLeft - 1 else 0

/-- The seats of a request in rounds that would begin before its prefill ends are given up (notes/assumptions/33.md). -/
def dropEarlySeats (s : State) (i : Nat) : State :=
  if !hasPrefill s i then s
  else
    let q := (entryOf s i).quote
    let out (r : Round) : Round := if r.start < q then { r with seats := r.seats.filter (· != i) } else r
    { s with rounds := (s.rounds.map out).filter (fun r => !r.seats.isEmpty) }

/-- The seats that a request lacks, booked after its prefill and its last seat (notes/assumptions/33.md), and whether its tail keeps its
TAIL_QUOTE (R192). -/
def addSeats (from_ : Nat) (s : State) (i : Nat) : State × Bool :=
  let s := dropEarlySeats s i
  let e := entryOf s i
  let n := seatsNeeded s i - (s.rounds.filter (fun r => r.seats.contains i)).length
  if n = 0 then (s, true)
  else
    let rd := imgRd s e.image
    let m := modelInfo rd
    let p := planRec rd m.genPlan
    let rp := p.steps + 1
    let last := maxN ((s.rounds.filter (fun r => r.seats.contains i)).map (fun r => r.start + r.rp))
    let c := Nat.max (Nat.max from_ last) (if hasPrefill s i then e.quote else 0)
    match tailSearch s i { e with tbt := 0 } m p rp 0 n (furrowsFrom s c) c with
    | .error _ => (makeLate s i 8, false)
    | .ok (s, q) =>
      if q ≤ e.tailQuote then (s, true)
      else (jrnlAdmit (makeLate (setEntry s i { entryOf s i with tailQuote := q }) i 8) i, false)

/-- The holder of a job's shard 0 told that this shard's reservation no longer stands, so that it books anew (R333;
notes/assumptions/30.md). -/
def askShard (s : State) (job : Nat) : State :=
  match (jobShards s job).find? (fun x => x.1 == 0) with
  | some x => sendCtl s x.2 0x33 (toLE 4 job ++ toLE 1 0)
  | none => s

/-- One prefill chain rebooked (R226 pass 2): the earliest chain for the remaining steps and reserve, and a new quote where it ends
after the old one. A job's chain keeps its furrows where they still fit, or is booked jointly again (R333), and its request is late
once that attempt's chain ends after the quote or none is found. -/
def rebookChain (from_ : Nat) (old : State) (x : Rebook) (i : Nat) : Rebook :=
  let s := x.s
  let e := entryOf s i
  let w := workOf s i
  let rd := imgRd s e.image
  let p := planRec rd e.plan
  let need := stepsLeft s i + reserveNow old i
  let why := moveWhy s w.pairOp w.pairK w.geoGen w.moveCause
  match jobOf s i with
  | some (job, k) =>
    let was := ((workOf old i).chain.filter (fun l => decide (from_ ≤ l.furrow))).map (·.furrow)
    let keep := if was.isEmpty ∨ was.length < stepsLeft s i then none else lanesAll s i e.plan was []
    match keep with
    | some ls => { x with s := takeChain s i ls why }
    | none => { x with ok := false, s := if k = 0 then jointStart s i job s.tick.furrow e.plan need why else askShard s job }
  | none =>
    match findChain s (allLanes s) p (slotsFor s rd p (some i) none) (loadAt s i e.plan) horizon from_ need [] with
    | none => { x with ok := false, s := makeLate s i why }
    | some ls =>
      let q := ((ls.getLast?).map (·.furrow + 1)).getD 0
      { x with s := takeChain s i ls why, ok := x.ok && decide (q ≤ e.quote) }

/-- The whole rebooking of R226 from furrow `from_` on: rounds, then prefill chains in order of quote, then index. The answer tells
whether every chain kept its quote and every tail its TAIL_QUOTE (R192). -/
def rebook (s : State) (from_ : Nat) : State × Bool :=
  let rs := sortBy (fun (a b : Round) => decide (a.start < b.start) || (a.start == b.start && decide (a.seats.headD 0 ≤ b.seats.headD 0))) s.rounds
  let x := rs.foldl (rebookRound from_) { s := clearCalendar s, delays := [], ok := true }
  let es := (s.rqt.filter (fun p => hasPrefill s p.1)).map (·.1)
  let before (a b : Nat) : Bool :=
    decide ((entryOf s a).quote < (entryOf s b).quote) || ((entryOf s a).quote == (entryOf s b).quote && decide (a ≤ b))
  let x := (sortBy before es).foldl (rebookChain from_ s) x
  (x.s.rqt.map (·.1)).foldl (fun (a : State × Bool) i =>
    let r := addSeats from_ a.1 i
    (r.1, a.2 && r.2)) (x.s, x.ok)

/-! ### Lengths and numbers (R192, R196, R331) -/

/-- FURROW_LEN − 1, WINDOW_LEN − 1 and REPLAY_MARGIN as the owner has written them. -/
def wantedLen (s : State) : Nat × Nat × Nat :=
  (regField s (furReg 0) 12 8, regField s (furReg 0) 39 32, regField s (furReg 0) 47 40)

/-- The same, put in force at the headland: the furrow that ends stays the last one of its window, so the coming tick starts a window
whatever WINDOW_LEN now holds. -/
def withLen (s : State) (x : Nat × Nat × Nat) : State :=
  { s with tick := { s.tick with
      lenM1 := x.1, windowM1 := x.2.1, margin := x.2.2, inWindow := if s.tick.started then x.2.1 else s.tick.inWindow } }

/-- A change of length, window or margin (R192): adopted when the trial rebooking keeps every quote, else held back with LEN_BUSY. -/
def adoptLen (s : State) (from_ : Nat) : State :=
  let x := wantedLen s
  if x = (s.tick.lenM1, s.tick.windowM1, s.tick.margin) then s
  else if (rebook (withLen s x) from_).2 then withLen s x
  else regFlag s (furReg 0x018) 3

/-- A furrow number moved by a difference. -/
def movedBy (d : Int) (n : Nat) : Nat := ((n : Int) + d).toNat

/-- The same for a number whose 0 means none. -/
def movedSet (d : Int) (n : Nat) : Nat := if n = 0 then 0 else movedBy d n

/-- Every furrow number that the device holds, moved by `d`, and every window number by `dw` (R196). -/
def shiftNumbers (s : State) (d dw : Int) : State :=
  let lanes (ls : List LaneFurrow) : List LaneFurrow := ls.map (fun l => { l with furrow := movedBy d l.furrow })
  let notify (m : SentMsg) : SentMsg := match m.notify with
    | some (f, b) => { m with notify := some (movedBy d f, b) }
    | none => m
  { s with
    tick := { s.tick with furrow := movedBy d s.tick.furrow, goodAt := movedBy d s.tick.goodAt, window := movedBy dw s.tick.window }
    rqt := s.rqt.map (fun p => (p.1, { p.2 with
      quote := movedSet d p.2.quote, quoteOrig := movedSet d p.2.quoteOrig, tailQuote := movedSet d p.2.tailQuote }))
    work := s.work.map (fun p => (p.1, { p.2 with chain := lanes p.2.chain, endAt := movedBy d p.2.endAt, stallLast := movedBy d p.2.stallLast }))
    rounds := s.rounds.map (fun r => { r with start := movedBy d r.start, lanes := lanes r.lanes })
    joint := s.joint.map (fun j => { j with
      first := movedBy d j.first, chain := lanes j.chain, free := j.free.map (fun x => (x.1, x.2.map (movedBy d))) })
    notifies := s.notifies.map (fun n => { n with furrow := movedBy d n.furrow })
    sent := s.sent.map notify
    grants := s.grants.map (fun g => { g with window := movedBy dw g.window })
    nodes := s.nodes.map (fun n => { n with lastUse := movedBy d n.lastUse })
    faults := { s.faults with restarts := s.faults.restarts.map (fun r => (r.1, movedBy d r.2)) }
    arrays := s.arrays.map (fun u => { u with care := { u.care with
      resetAt := u.care.resetAt.map (movedBy d), resets := u.care.resets.map (movedBy d), errors := u.care.errors.map (movedBy d) } }) }

/-- The number that the coming headland adopts, if any (R194, R196, R331): the owner's, rounded down to a multiple of WINDOW_LEN, or
that which the leader's SYNC of this furrow implies. -/
def adoptedNumber (s : State) : Option Nat :=
  let len := s.tick.windowM1 + 1
  match s.tick.numSet with
  | some n => some (n / len * len)
  | none => match s.tick.raileNum with
    | some n => if s.tick.syncMode = 3 ∧ s.timeSync.synced ∧ (n + 1) % len = 0 ∧ n + 1 ≠ comingFurrow s then some (n + 1) else none
    | none => none

/-- A furrow number adopted at the headland (R196): every number moves with it, and each entry whose quote changed number has an
ADMIT record in the headland's batch. -/
def adoptNumber (s : State) : State :=
  match adoptedNumber s with
  | none => s
  | some n =>
    let d : Int := (n : Int) - comingFurrow s
    let win := n / (s.tick.windowM1 + 1)
    let next := if s.tick.started then s.tick.window + 1 else 0
    let s := shiftNumbers s d ((win : Int) - next)
    let s := { s with tick := { s.tick with nextNum := some n, nextWin := some win, numSet := none } }
    if d = 0 then s
    else s.rqt.foldl (fun s p =>
      if p.2.quoteOrig = 0 then s else setWork (jrnlAdmit s p.1) p.1 { workOf (jrnlAdmit s p.1) p.1 with changed := true }) s

/-! ### Modes -/

/-- ALIGNED set or cleared (R194, R197, R331); a borrower notes for its next headland that it has cleared (R337). -/
def setAligned (s : State) (on : Bool) : State :=
  let s := regPut s (furReg 0x018) 0 0 (b2n on)
  if on then s else { s with grants := s.grants.map (fun g => { g with unaligned := true }) }

/-- SYNC_MODE and the time leader as a headland puts them in force (R193, R331): a follower joins its leader and measures its delay;
a change starts alignment afresh. The leader is aligned with itself. -/
def adoptSync (s : State) : State :=
  let mode := regField s (furReg 0) 1 0
  let leader := BitVec.ofNat 12 (regField s (rlReg 0 0x1010) 11 0)
  let changed := mode != s.tick.syncMode || (mode == 3 && leader != s.timeSync.leader)
  let own := leader.toNat == ownNode s
  let s := if changed then
      let s := { s with tick := { s.tick with syncMode := mode, goodTicks := 0, headPulse := false, raileNum := none }
                        timeSync := { leader := leader } }
      setAligned s (mode == 3 && own)
    else s
  if mode = 3 ∧ !own then
    let s := if changed then sendCtl s leader 0x23 [] else s
    sendCtl s leader 0x21 (toLE 8 (s.tick.rqtTime * 16))
  else s

/-- The return to TICK_REF (R197): at the first headland after 1 ms of its edges. -/
def adoptRef (s : State) : State :=
  if !s.tick.tickRef ∧ 0 < s.tick.refBackMs then
    regPut { s with tick := { s.tick with tickRef := true, refBackMs := 0 } } (furReg 0x018) 1 1 0
  else s

/-- POWER_STATUS of this member at a headland (R335), sent to the credit leader or taken here. -/
def sendStatus (s : State) (waitShare : Nat) : State :=
  if !creditOn s then s
  else match creditLeader s with
    | none => s
    | some n =>
      let shard := match ownShard s with
        | some r => r.toNat % 64
        | none => 0
      let wait := Nat.min 1024 waitShare
      let lend := regField s (rlReg 0 0x1020) 7 0
      if n.toNat = ownNode s then
        takeStatus s { node := n, shard := shard, cap := s.power.ownerW, lendMax := lend, waitShare := wait } (s.tick.window + 2)
      else sendCtl s n 0x40 (toLE 2 s.power.ownerW ++ toLE 2 wait ++ toLE 1 lend ++ toLE 1 shard)

/-! ### HEADLAND -/

/-- Cancellations and releases that this headland did not take are those of the next (R224). -/
def clearLate (s : State) : State :=
  { s with work := s.work.map (fun p => (p.1, { p.2 with cancelLate := false, freeLate := false })) }

/-- The actions of R225 with what else a headland puts in force, before the tick that starts its window. Held during a stop (R420); after
a restart of a core the actions of R225 carry over (R382), and a halted device has none, but SYNC_MODE and the furrow number take
effect (R228). -/
def headlandActions (s : State) (waitShare : Nat) : State :=
  let s := adoptRef s
  if s.faults.cutCarry ∨ halted s then adoptSync (adoptNumber { s with faults := { s.faults with cutCarry := false } })
  else if stopped s then s
  else
    let s := applyCancels s
    let s := headlandPair (headlandGrants s)
    let s := releasePages s
    let s := adoptLen s (comingFurrow s)
    let s := adoptNumber s
    let s := journalBatch s
    let s := (rebook (dropPassed s (comingFurrow s)) (comingFurrow s)).1
    headlandBist (sendStatus (adoptSync s) waitShare)

/-- RQT_TIME of the coming tick (R190, R194, R332). -/
def nextTick (s : State) : Nat :=
  if !s.tick.started then s.tick.rqtTime
  else
    let whole := (s.timeSync.fracAcc + s.timeSync.rate).fdiv 16
    Nat.max s.tick.rqtTime
      (((s.tick.lastTick + furrowPeriods s + s.tick.lengthen : Nat) : Int) + s.tick.adjust + whole).toNat

/-- Whether the tick unit runs (R195, R475): firmware runs, and a reference is present. -/
def ticking (s : State) : Bool := alive s && s.fw.running && (s.tick.tickRef || s.tick.pcieRef)

/-- Reads of another node, on one engine, whose data has not all come at the end of their furrow (R145). -/
def lateReads (s : State) (f : FeId) : List (Nat × Nat × Nat) :=
  (fe s f).slots.flatMap (fun x => match itemOf s x.2.item with
    | some w => (x.2.rd.filter (fun r => !r.list && decide (r.data.length < r.len))).map (fun r =>
        ((addrNode r.addr).toNat, r.op, (descArr w x.2.desc).val))
    | none => [])

/-- What the end of the furrow takes from its work items while they stand: NaN trap records (R124), the clocks of ring stalls that the
tick ends (R162), and the reads whose data will come late (R145). -/
def leaveFurrow (s : State) : State :=
  let s := forArrays s copyTrap
  let s := forFes (forArrays s countWaits) (countStallsOn (fun _ => true))
  { s with lateData := s.lateData ++ (List.finRange 32).flatMap (lateReads s) }

/-- The end of the furrow with, at the end of a window, the headland's actions. -/
def endFurrow (s : State) (waitShare : Nat) : State :=
  let s := leaveFurrow { s with tick := { s.tick with rqtTime := nextTick s } }
  let s := if halted s then { s with items := [] } else settle { s with tick := { s.tick with atTick := true } }
  let s := { s with tick := { s.tick with atTick := false } }
  if headlandDue s then clearLate (headlandActions s waitShare) else s

/-- HEADLAND (R224, R225): at the end of a window's last furrow the device commits what is due and performs the headland's actions;
the tick that follows starts the window. -/
def execHeadland (waitShare : Nat) (s : State) : Host.Outcome State Fault Refusal :=
  if !ticking s ∨ !headlandDue s ∨ s.tick.headDone then .next s
  else
    let s := endFurrow s waitShare
    .next { s with tick := { s.tick with headDone := true } }

end Sys2Proof.Machine
end

