-- ==== Sys2Proof/Machine/Furrow.lean ====
section
/-! DEFINITION. Ticks (07_furrows.md, R190 to R197, R218; 10_raile.md, R331, R332; 16_package_signals.md, R475): TICK, FUR_NUM_SET,
FURROW_SYNC_PULSE, TICK_REF_LOST and PCIE_REF_LOST. -/

namespace Sys2Proof.Machine

/-- The numbers of the furrow that a tick starts (R192, R195, R196), at the time that the coming tick has: window and place in the
window, the remainder of the rate correction (R332), and what held for the furrow before only. -/
def beginFurrow (s : State) : State :=
  let t := s.tick
  let head := headlandDue s
  let win := if head then t.nextWin.getD (if t.started then t.window + 1 else 0) else t.window
  { s with
    tick := { t with
      furrow := comingFurrow s
      window := win
      inWindow := if head then 0 else t.inWindow + 1
      started := true
      lastTick := t.rqtTime
      lengthen := 0
      adjust := 0
      raileNum := none
      headDone := false
      geoMask := geoArrays s
      geoNum := regGet s (glbReg 0x100)
      nextNum := none
      nextWin := none }
    timeSync := { s.timeSync with moved := s.timeSync.moved + t.adjust, fracAcc := if t.started then (s.timeSync.fracAcc + s.timeSync.rate).fmod 16 else s.timeSync.fracAcc }
    power := { s.power with pend := if head then s.power.pend.map (fun q => { q with late := false }) else s.power.pend } }

/-- FURROW_SYNC at a tick (R193): driven for 2 periods, or 4 at a headland, in LEADER mode only. -/
def drivePulse (s : State) : State :=
  let n := if s.tick.inWindow = 0 then 4 else 2
  if s.tick.syncMode = 1 then send { s with pins := { s.pins with furrowSync := n } } (.furrowSync n)
  else { s with pins := { s.pins with furrowSync := 0 } }

/-- SYNC from the time leader to its followers at a tick (R331). -/
def leadTime (s : State) : State :=
  if !timeLeader s then s
  else s.timeSync.followers.foldl (fun s n =>
    sendCtl s n 0x20 (toLE 8 s.tick.furrow ++ toLE 1 s.tick.inWindow ++ toLE 8 (s.tick.rqtTime * 16))) s

/-- Alignment of a follower over Raile at a tick (R331): set after three ticks within two periods with IN_WINDOW agreeing; cleared after
three outside them, or when SYNC is missing for three furrows. -/
def followTime (s : State) : State :=
  let x := s.timeSync
  if s.tick.syncMode ≠ 3 ∨ x.leader.toNat = ownNode s then s
  else
    let close := decide (-32 ≤ x.offset) && decide (x.offset ≤ 32)
    let good := x.synced && close && x.inWindowOk
    let bad := x.synced && !close
    let x := { x with
      goodTicks := if good then x.goodTicks + 1 else 0
      badTicks := if bad then x.badTicks + 1 else 0
      missed := if x.synced then 0 else x.missed + 1
      synced := false }
    let s := { s with timeSync := x }
    if 3 ≤ x.badTicks ∨ 3 ≤ x.missed then setAligned s false
    else if 3 ≤ x.goodTicks ∧ s.tick.tickRef then setAligned s true
    else s

/-- Arrays that rejoin sowing at the second tick after their reset began, once their test has passed (R386). -/
def rejoinArrays (s : State) : State :=
  forArrays s (fun s a =>
    let u := arr s a
    match u.care.resetAt with
    | some f =>
      if f + 2 ≤ s.tick.furrow ∧ !u.care.testing ∧ arrEnabled s a.val then
        let s := enterService s a
        setArr s a { arr s a with care := { (arr s a).care with resetAt := none } }
      else s
    | none => s)

/-- The array temperatures that the next tick's sowing compares (R219). -/
def keepTemps (s : State) : State :=
  forArrays s (fun s a => setArr s a { arr s a with care := { (arr s a).care with tickTemp := (arr s a).care.temp } })

/-- Whether each array is throttled as its furrow begins (R376, R417). -/
def markThrottled (s : State) : State :=
  forArrays s (fun s a => setArr s a { arr s a with care := { (arr s a).care with throttled := decide ((arr s a).care.thermal < 8) } })

/-- Poison in RESERVE that a tick's work consumes (R380, R385): the page-pool metadata, the booking calendar and the role staging halt the
device; translation tables, and an overflow with records that wait, are their LD's own (notes/assumptions/85.md). -/
def reserveFaults (s : State) : State :=
  if s.poison.isEmpty then s
  else if [4, 5, 6].any (fun k => poisoned s (reserveLine s k 0) 256) then haltDevice s 0x0C 0 0x0004
  else forLds s (fun s t =>
    let u := ten s t
    if !u.resetting ∧ ((!u.overflow.isEmpty ∧ poisoned s (reserveLine s 2 t.val) 256)
        ∨ (!u.tva.isEmpty ∧ poisoned s (reserveLine s 9 t.val) 256)) then tenantFault s t 0x0D t.val 0x0004 false
    else s)

/-- The furrow's work (R218), with late requests noted first (R223) and held increments applied once its work items exist (R330).
A halted device sows nothing (R388). -/
def startFurrow (s : State) : State :=
  let s := rolesAtTick s
  let s := regPut s (fltReg 0x008) 2 2 0
  let s := markThrottled (rejoinArrays (tickUnits s))
  let s := reserveFaults s
  let s := if halted s then s
    else
      let s := s.rqt.foldl (fun s p => lateWhereShort s p.1) s
      noteThermal (sow s s.tick.furrow)
  applyHeld (keepTemps s)

/-- TICK (R190 to R193, R218, R221): the furrow in progress ends, with the headland's actions where one is due and HEADLAND has not
performed them, and the next furrow begins: its number, its operating point (R409), its roles (R210), its pulse, and its work. -/
def execTick (waitShare : Nat) (s : State) : Host.Outcome State Fault Refusal :=
  if !ticking s then .next s
  else
    let s := if s.tick.headDone then s else endFurrow s waitShare
    let s := blowRevoke (beginFurrow s)
    let s := tickPair s s.tick.rqtTime
    .next (drivePulse (leadTime (followTime (startFurrow s))))

/-- FUR_NUM_SET (R194, R195): the number that the next headland adopts. -/
def execFurNumSet (val : Reg64) (s : State) : Host.Outcome State Fault Refusal :=
  if !hostUp s then .next s else .next { s with tick := { s.tick with numSet := some val.toNat } }

/-- FURROW_SYNC_PULSE (R194): `offset` is the own tick's offset from the pulse and `wide` tells a headland pulse. Three ticks within one
period, one after another, and a headland pulse at the own headland align a follower; one that is not aligned lengthens its furrow to
the next pulse, and its window to the leader's (notes/assumptions/34.md). -/
def execFurrowSyncPulse (offset : Int) (wide : Bool) (s : State) : Host.Outcome State Fault Refusal :=
  if !ticking s ∨ !s.tick.started ∨ !s.tick.tickRef ∨ s.tick.syncMode ≠ 2 then .next s
  else
    let s := regSet s (furReg 0x020) (BitVec.ofInt 16 offset).toNat
    let close := decide (-1 ≤ offset) && decide (offset ≤ 1)
    let aligned := regField s (furReg 0x018) 0 0 == 1
    let at_ := if 0 < offset then s.tick.furrow + 1 else s.tick.furrow
    let good := if !close then 0
      else if s.tick.goodTicks = 0 then 1
      else if s.tick.goodAt = at_ then s.tick.goodTicks
      else if s.tick.goodAt + 1 = at_ then s.tick.goodTicks + 1 else 1
    let head := wide && (if 0 < offset then headlandDue s else s.tick.inWindow == 0)
    let s := { s with tick := { s.tick with goodTicks := good, goodAt := at_, headPulse := close && (s.tick.headPulse || head) } }
    let s := if aligned then s
      else
        { s with tick := { s.tick with
            lengthen := ((-offset) % (furrowPeriods s : Int)).toNat
            inWindow := if wide then 0 else s.tick.inWindow } }
    .next (if !aligned ∧ 3 ≤ good ∧ s.tick.headPulse then setAligned s true else s)

/-- TICK_REF_LOST (R197, R475): holdover on the PCIe reference, or a halt where that is lost too. With `lost` false the edges of
TICK_REF have lasted 1 ms, and the next headland returns to it. -/
def execTickRefLost (lost : Bool) (s : State) : Host.Outcome State Fault Refusal :=
  if !alive s then .next s
  else if !lost then
    .next (if s.tick.tickRef then s else { s with tick := { s.tick with refBackMs := 1 } })
  else if !s.tick.tickRef then .next { s with tick := { s.tick with refBackMs := 0 } }
  else
    let s := { s with tick := { s.tick with tickRef := false, refBackMs := 0, goodTicks := 0, headPulse := false } }
    if !s.tick.pcieRef then .next (haltDevice s 0x11 0 0x0016)
    else
      let s := regFlag (regFlag s (furReg 0x018) 1) (furReg 0x018) 2
      .next (logAt (setAligned s false) 0 0 0x11 0 0x0016)

/-- PCIE_REF_LOST (R475): the host link goes down, and in holdover the device halts. -/
def execPcieRefLost (s : State) : Host.Outcome State Fault Refusal :=
  if !alive s ∨ !s.tick.pcieRef then .next s
  else
    let s := { s with
      tick := { s.tick with pcieRef := false }
      pins := { s.pins with hostLink := false } }
    .next (if s.tick.tickRef then s else haltDevice s 0x11 0 0x0016)

end Sys2Proof.Machine
end

