-- ==== Sys2Proof/Machine/Loads.lean ====
section
/-! DEFINITION. The loads (R198, R204, R255 to R257, R348, R353, R354): images, adapters and learned prefixes. -/

namespace Sys2Proof.Machine

/-- `n` bytes from offset `p` of bytes listed by ascending offset; an unlisted byte is 0. -/
def denseFrom (p : Nat) : (n : Nat) → List (Nat × Byte) → List Byte
  | 0, _ => []
  | n + 1, [] => 0 :: denseFrom (p + 1) n []
  | n + 1, (k, b) :: r => if k = p then b :: denseFrom (p + 1) n r else 0 :: denseFrom (p + 1) n ((k, b) :: r)

/-- The source of a load (R353): its kind, LD, address and length. -/
structure LoadSrc where
  kind : Nat
  ld   : Nat
  addr : Nat
  len  : Nat
  deriving DecidableEq, Repr

/-- The 24 bytes of a source in a payload. -/
def loadSrc (p : List Byte) (o : Nat) : LoadSrc :=
  { kind := fld p o 1, ld := fld p (o + 1) 1, addr := fld p (o + 8) 8, len := fld p (o + 16) 8 }

/-- Reserved bytes of a source. -/
def srcReserved (p : List Byte) (o : Nat) : Bool := !zeroAt p (o + 2) 6

/-- Bytes of a tenant's memory as a load reads them, unless a line is poisoned (R370). -/
def srcRead (s : State) (t : LdId) (v n : Nat) : State × Option (List Byte) :=
  let s := devTouch s t v n
  (s, if tvaPoisoned s t v n then none else some (tvaReads s t v n))

/-- The bytes of a source with the state after they are read; none where it cannot be read (notes/assumptions/27.md). What
another node or the host answers comes with the command. -/
def srcBytes (s : State) (x : LoadSrc) (src : List (Nat × Byte)) : State × Option (List Byte) :=
  if x.kind = 0 then
    if x.ld < 16 ∧ windowReadable s (ldId x.ld) x.addr x.len then srcRead s (ldId x.ld) x.addr x.len else (s, none)
  else if x.kind = 1 then
    if x.addr / 2 ^ 52 = ownNode s then
      match railAccess s .rd (regionCtx s x.addr) (ownNode s) (x.addr % 2 ^ 52) x.len with
      | .ok (s, t, v) => srcRead s t v x.len
      | .error c => (ownDenied s c, none)
    else (s, some (denseFrom 0 x.len src))
  else if x.kind = 2 ∧ !s.pins.mld then (s, some (denseFrom 0 x.len src))
  else (s, none)

/-- Where a source's bytes come from: its kind and its node. -/
def srcPlace (x : LoadSrc) : Nat × Nat := (x.kind, x.addr / 2 ^ 52)

/-- Whether FREE frames that nobody has booked can hold `n` more (R353). -/
def frameRoom (s : State) (n : Nat) : Bool := decide (allBooked s + n ≤ freeCount s)

/-- Bytes put into IMAGE frames just taken: the frames, and the state with them filled. -/
def fillFrames (s : State) (bs : List Byte) : List Nat × State :=
  let fs := takeFree s (cdiv bs.length 65536)
  let s := fs.foldl (fun s f => giveFrame s f .image) s
  (fs, (List.range fs.length).foldl (fun s k =>
    let a := nthD 0 fs k * 65536
    memStore s a ((bs.drop (65536 * k)).take 65536)) s)

/-- Frames back to FREE. -/
def dropFrames (s : State) (fs : List Nat) : State := fs.foldl (fun s f => setTag s f .free) s

/-- The lowest handle without an image. -/
def freeHandle (s : State) : Option (Fin 16) := (List.finRange 16).find? (fun h => (s.images[h]).isNone)

/-- The effect of LOAD_IMAGE: its state, RESULT and data, and what completes in the background. -/
def loadImage (p : List Byte) (src : List (Nat × Byte)) (s : State) : State × Nat × List Byte × (Nat × Nat × Nat) :=
  match freeHandle s with
  | none => (s, 7, toLE 4 0, (0xC101, 0, 0))
  | some h =>
    let x := loadSrc p 8
    if !frameRoom s (cdiv x.len 65536) then (s, 8, toLE 4 0, (0xC101, 0, 0))
    else match srcBytes s x src with
      | (s, none) => (s, 5, toLE 4 0, (0xC101, 0, 0))
      | (s, some bs) =>
        let r := imageReason s bs x.len
        if r ≠ 0 then (s, 0x0B, toLE 2 0 ++ toLE 2 r, (0xC101, 0, 0))
        else
          let rd : Rd := slice bs
          let y := fillFrames s bs
          let img : Image := { frames := y.1, length := x.len, digest := slice bs 0x18 48, weight := weightOnly rd
                               refs := weightRefs rd, ready := false }
          ({ y.2 with images := y.2.images.set h (some img) }, 0, toLE 2 h.val ++ toLE 2 0, (0xC101, h.val, 1))

/-- LOAD_IMAGE (R204, R353, R354): the image is checked and its bytes enter IMAGE frames, in the background. -/
def execLoadImage (m : Mbox) (p : List Byte) (src : List (Nat × Byte)) (s : State) : Host.Outcome State Fault Refusal :=
  bruahBg { owner := true, len := 0x20 } m p (srcReserved p 8) (srcPlace (loadSrc p 8)) s (fun _ s => loadImage p src s)

/-- Whether anything names an image (R353, R498). -/
def imageInUse (s : State) (h : Nat) : Bool :=
  s.rqt.any (fun x => x.2.state != .free && x.2.image == h)
  || s.adapters.toList.any (fun a => a.st != .empty && a.handle == h)
  || s.lps.toList.any (fun l => l.st != .empty && l.handle == h)
  || s.images.toList.any (fun i => match i with
      | some i => i.refs.any (fun r => r.1 == h)
      | none => false)

/-- UNLOAD_IMAGE (R353): its frames are FREE again. -/
def execUnloadImage (m : Mbox) (p : List Byte) (s : State) : Host.Outcome State Fault Refusal :=
  bruah { owner := true, len := 0x0A } m p false s (fun _ s =>
    let h := fld p 8 2
    match imageOf s h with
    | none => (s, 0, [])
    | some img =>
      if imageInUse s h ∨ !img.ready then (s, 6, [])
      else (dropFrames { s with images := s.images.set (Fin.ofNat 16 h) none } img.frames, 0, []))

/-- Whether a handle names a loaded drill image (R199, R353). -/
def drillHandle (s : State) (h : Nat) : Bool := match imageOf s h with
  | some img => img.ready && !img.weight
  | none => false

/-- The effect of LOAD_ADAPTER. -/
def loadAdapter (p : List Byte) (src : List (Nat × Byte)) (s : State) : State × Nat × List Byte × (Nat × Nat × Nat) :=
  let h := fld p 8 2
  let id := fld p 0x0A 2
  let v := fld p 0x0C 4
  let x := loadSrc p 0x10
  if !drillHandle s h then (s, 5, [0xFF], (0xC103, 0, 0))
  else if s.adapters.toList.any (fun a => (a.st == .loading || a.st == .ready) && a.id == id && a.version == v) then
    (s, 6, [0xFF], (0xC103, 0, 0))
  else match (List.finRange 32).find? (fun k => (s.adapters[k]).st == .empty) with
    | none => (s, 7, [0xFF], (0xC103, 0, 0))
    | some k =>
      if !frameRoom s (cdiv x.len 65536) then (s, 8, [0xFF], (0xC103, 0, 0))
      else match srcBytes s x src with
        | (s, none) => (s, 5, [0xFF], (0xC103, 0, 0))
        | (s, some bs) =>
          let y := fillFrames s bs
          let a : Adapter := { st := .loading, id := id, version := v, handle := h, frames := y.1 }
          ({ y.2 with adapters := y.2.adapters.set k a }, 0, toLE 1 k.val, (0xC103, k.val, 1))

/-- LOAD_ADAPTER (R256, R257, R353): a version loads into an EMPTY slot, in the background. -/
def execLoadAdapter (m : Mbox) (p : List Byte) (src : List (Nat × Byte)) (s : State) : Host.Outcome State Fault Refusal :=
  bruahBg { owner := true, len := 0x28 } m p (srcReserved p 0x10) (srcPlace (loadSrc p 0x10)) s (fun _ s => loadAdapter p src s)

/-- RETIRE_ADAPTER (R257, R353): the READY slot of an identifier becomes RETIRING, and EMPTY once nothing is bound to it. -/
def execRetireAdapter (m : Mbox) (p : List Byte) (s : State) : Host.Outcome State Fault Refusal :=
  bruah { owner := true, len := 0x0A } m p false s (fun _ s =>
    match readyAdapter s (fld p 8 2) with
    | none => (s, 9, [])
    | some k =>
      let a := s.adapters[Fin.ofNat 32 k]
      (reapAdapters { s with adapters := s.adapters.set (Fin.ofNat 32 k) { a with st := .retiring } }, 0, []))

/-- A learned-prefix slot emptied (R255): its frames are FREE and every tree node keyed on it is evicted. -/
def emptyLp (s : State) (k : Fin 64) : State :=
  let l := s.lps[k]
  if l.st = .empty then s
  else
    let s := dropFrames { s with lps := s.lps.set k {} } l.frames
    evictWhere s (fun n => n.lpSlot == k.val && n.image == l.handle)

/-- Bytes of the pages of LEN positions under an image (R255). -/
def lpBytes (s : State) (h len : Nat) : Nat :=
  let m := modelInfo (imgRd s h)
  len / 64 * m.layers * 2 ^ m.pageLog2

/-- The effect of LOAD_LP. -/
def loadLp (p : List Byte) (src : List (Nat × Byte)) (s : State) : State × Nat × List Byte × (Nat × Nat × Nat) :=
  let k := fld p 8 1
  let h := fld p 0x0A 2
  let n := fld p 0x0C 4
  let x := loadSrc p 0x10
  if 64 ≤ k ∨ !drillHandle s h ∨ n % 64 ≠ 0 ∨ n < 64 ∨ 4096 < n ∨ x.len ≠ lpBytes s h n then (s, 5, [], (0xC105, 0, 0))
  else if 0 < lpRefs s k then (s, 6, [], (0xC105, 0, 0))
  else
    let kf : Fin 64 := Fin.ofNat 64 k
    if !frameRoom (emptyLp s kf) (cdiv x.len 65536) then (s, 8, [], (0xC105, 0, 0))
    else match srcBytes s x src with
      | (s, none) => (s, 5, [], (0xC105, 0, 0))
      | (s, some bs) =>
        let y := fillFrames (emptyLp s kf) bs
        ({ y.2 with lps := y.2.lps.set kf { st := .loading, handle := h, len := n, frames := y.1 } }, 0, [], (0xC105, k, 1))

/-- LOAD_LP (R255, R286, R353): the pages of a learned prefix enter IMAGE frames, in the background. -/
def execLoadLp (m : Mbox) (p : List Byte) (src : List (Nat × Byte)) (s : State) : Host.Outcome State Fault Refusal :=
  bruahBg { owner := true, len := 0x28 } m p (srcReserved p 0x10 || !zeroAt p 9 1) (srcPlace (loadSrc p 0x10)) s (fun _ s => loadLp p src s)

/-- UNLOAD_LP (R255, R353); a slot that is LOADING is in use by its load. -/
def execUnloadLp (m : Mbox) (p : List Byte) (s : State) : Host.Outcome State Fault Refusal :=
  bruah { owner := true, len := 9 } m p false s (fun _ s =>
    let k := fld p 8 1
    if 64 ≤ k then (s, 0, [])
    else if 0 < lpRefs s k ∨ (s.lps[Fin.ofNat 64 k]).st = .loading then (s, 6, [])
    else (emptyLp s (Fin.ofNat 64 k), 0, []))

end Sys2Proof.Machine
end

