-- ==== Sys2Proof/Machine/RegView.lean ====
section
/-! DEFINITION. What every register of the owner space reads (17_register_map.md, R486 to R497, and the register tables R104, R128,
R151, R162, R188, R189, R228, R276, R277, R305, R338, R339, R394, R424, R451, R470, R496): fields that show the block's structured state are computed from it,
every other field is stored (Machine/Regs.lean). Write-only fields and reserved offsets read 0 (R15, R490). -/

namespace Sys2Proof.Machine

/-! ### GLOBAL (R188, R189, R496, R497) -/

/-- GLB_ID (R496). -/
def readId (s : State) : Nat :=
  (match s.fuses.part with
    | .ikb7240 => 0x7240
    | .ikb7236 => 0x7236) * 2 ^ 48 + 0x4231 * 2 ^ 32 + s.fuses.serial.toNat

/-- Arrays enabled (R497). -/
def arrayCount (s : State) : Nat := popc 64 (geoArrays s)
/-- Pseudo-channels enabled. -/
def pcCount (s : State) : Nat := sumN ((List.range 10).map (fun j => popc 64 (regGet s (glbReg (0x120 + 8 * j)))))
/-- Raile ports with at least one enabled lane. -/
def portCount (s : State) : Nat := ((List.range 16).filter (fun p => bits (regGet s (glbReg 0x170)) (4 * p + 3) (4 * p) != 0)).length

/-- GEO_COUNTS (R497). -/
def readCounts (s : State) : Nat :=
  arrayCount s * 2 ^ 56 + arrayCount s * 2 ^ 48 + 20 * 2 ^ 40 + (match s.fuses.part with
    | .ikb7240 => 32
    | .ikb7236 => 24) * 2 ^ 32 + pcCount s * 2 ^ 22 + 32 * 2 ^ 16 + 4 * 2 ^ 12 + popc 64 (regGet s (glbReg 0x170)) * 2 ^ 5 + portCount s

/-- Mask of the mere cache slices that allocate (R462, R497). -/
def sliceMask (s : State) : Nat := sumN ((List.finRange 4).map (fun n => b2n (s.mere[n]).allocates * 2 ^ n.val))

/-- GEO_SIZES (R497). -/
def readSizes (s : State) : Nat :=
  2 * arrayCount s * 2 ^ 32 + 128 * popc 4 (sliceMask s) * 2 ^ 16 + (match s.fuses.part with
    | .ikb7240 => 640
    | .ikb7236 => 480)

/-- VE_STATUS.STATE (R188). -/
def veCode : VeState → Nat
  | .idle => 0
  | .running => 1
  | .held => 2
  | .fallow => 4

/-- MGEN_STATUS.SLOT_BUSY (R189). -/
def readMgen (s : State) : Nat := sumN ((List.finRange 8).map (fun g => b2n (s.mgen[g]).busy.isSome * 2 ^ g.val))

/-- A GLOBAL register. -/
def readGlobal (s : State) (r : Nat) : Nat :=
  if r = 0x000 then readId s
  else if r = 0x110 then readCounts s
  else if r = 0x118 then readSizes s
  else if r = 0x178 then sliceMask s * 2 ^ 36 + 0xF * 2 ^ 32 + 0xFFFFFFFF
  else if 0x8000 ≤ r ∧ r < 0xC000 ∧ r % 0x100 = 0 then veCode (arr s (arrId ((r - 0x8000) / 0x100))).ve
  else if r = 0xC000 then readMgen s
  else regGet s (glbReg r)

/-! ### FURROW and ARRAY (R104, R128, R228) -/

/-- FUR_WIN (R195, R228). -/
def readWin (s : State) : Nat :=
  (s.tick.window % 2 ^ 32) * 2 ^ 32 + s.tick.inWindow * 2 ^ 8 + s.power.wop * 2 ^ 4 + s.power.wsluice

/-- A FURROW register. -/
def readFurrow (s : State) (r : Nat) : Nat :=
  if r = 0x008 then s.tick.furrow else if r = 0x010 then readWin s else regGet s (furReg r)

/-- ARR_STATE (R104). -/
def arrCode : ArrState → Nat
  | .idle => 0
  | .running => 1
  | .stalled => 2
  | .draining => 3
  | .fallow => 4

/-- ARR_REPAIR with PAD_MASK (R87, R88, R104): displaced rows do not pad. -/
def readRepair (s : State) (a : Nat) : Nat :=
  let v := regGet s (arrReg a 0x008)
  (if bitAt v 8 then 2 ^ bits v 3 0 - 1 else 0xFFFF) * 2 ^ 16 + bits v 8 8 * 2 ^ 8 + bits v 3 0

/-- ARR_GANG of the current work item (R104). -/
def readGang (s : State) (a : Nat) : Nat := match arrItem s (arrId a) with
  | some w => widthCode w.width * 2 ^ 8 + (w.mode % 2) * 2 ^ 7 + w.leader
  | none => a

/-- Codes of ACC_STATE (R128). -/
def entCode : EntState → Nat
  | .free => 0
  | .active => 1
  | .held => 2
  | .draining => 3
  | .invalid => 4

/-- ACC_STATE (R128). -/
def readAcc (u : ArrayUnit) : Nat := sumN ((List.finRange 16).map (fun j => entCode u.ent[j] * 2 ^ (3 * j.val)))

/-- A register of array `a`. -/
def readArray (s : State) (a r : Nat) : Nat :=
  if r = 0x000 then b2n (arrEnabled s a) * 2 ^ 8 + a
  else if r = 0x008 then readRepair s a
  else if r = 0x010 then arrCode (arr s (arrId a)).st
  else if r = 0x018 then readGang s a
  else if r = 0x138 then readAcc (arr s (arrId a))
  else regGet s (arrReg a r)

/-! ### FETCH (R151, R162) -/

/-- FE_STATUS (R162). -/
def readFeStatus (u : FetchUnit) : Nat :=
  let ds := (u.slots.map (·.2)).filter descLive
  let run := ds.filter (fun d => d.st == .running || d.st == .ringStall)
  let st := if u.fallow then 4 else if ds.any (fun d => d.st == .faulted) || u.faults.any (·.fill) then 3
    else if !run.isEmpty ∧ run.all (fun d => d.st == .ringStall) then 2 else if ds.isEmpty then 0 else 1
  ds.length * 2 ^ 8 + st

/-- STATE of a progress record (R151). -/
def descCode : DescState → Nat
  | .queued => 0
  | .waiting => 1
  | .setup => 2
  | .running => 3
  | .ringStall => 4
  | .faulted => 5
  | .done => 6
  | .discarded => 7

/-- Register `k` of a progress record (R151). -/
def readProgress (s : State) (d : DescRun) (k : Nat) : Nat :=
  let p (i : Nat) : Nat := nthD 0 d.pos i % 2 ^ 32
  if k = 0 then p 1 * 2 ^ 32 + p 0
  else if k = 1 then p 3 * 2 ^ 32 + p 2
  else if k = 2 then (if d.st = .setup ∧ !inSetup s d then 3 else descCode d.st) * 2 ^ 56 + (if d.st = .faulted then d.code else 0) * 2 ^ 48 + p 4
  else d.delivered

/-- SP_PWR codes (R162). -/
def bankCode : BankPower → Nat
  | .on => 0
  | .sleep => 1
  | .waking => 2
  | .off => 3

/-- RING_CFG of ring `q` (R162). -/
def readRingCfg (g : Ring) (q : Nat) : Nat :=
  (g.base / 4096) * 2 ^ 25 + (g.slotSize / 4096 - 1) * 2 ^ 16 + (g.slots - 1) * 2 ^ 8 + b2n (decide (4 ≤ q)) * 2 + b2n g.enable

/-- A scratchpad register of array `a`, by its offset from 0x2000 + 0x800 × j. -/
def readSpad (s : State) (a r : Nat) : Nat :=
  let u := arr s (arrId a)
  if r = 0x000 then (u.cacheBanks / 8) * 4 + (u.swBanks / 8 - 1)
  else if r = 0x008 then sumN ((List.finRange 32).map (fun k => bankCode (u.banks[k]).power * 2 ^ (2 * k.val)))
  else if 0x100 ≤ r ∧ r < 0x280 ∧ r % 0x40 = 0 then readRingCfg (u.rings[Fin.ofNat 6 ((r - 0x100) / 0x40)]) ((r - 0x100) / 0x40)
  else if 0x100 ≤ r ∧ r < 0x280 ∧ r % 0x40 = 8 then
    let g := u.rings[Fin.ofNat 6 ((r - 0x100) / 0x40)]
    (g.tail % 2 ^ 32) * 2 ^ 32 + g.head % 2 ^ 32
  else regGet s (spReg a r)

/-- A register of the FETCH block of engine `m`. -/
def readFetch (s : State) (m r : Nat) : Nat :=
  let u := fe s (feId m)
  if r = 0x000 then (m / 8) * 2 ^ 5 + m
  else if r = 0x008 then readFeStatus u
  else if 0x1000 ≤ r ∧ r < 0x1800 then
    match u.slots.find? (fun x => x.1 == (r - 0x1000) / 0x20) with
    | some x => readProgress s x.2 (r % 0x20 / 8)
    | none => 0
  else if 0x2000 ≤ r ∧ r < 0x3000 then readSpad s (2 * m + (r - 0x2000) / 0x800) (r % 0x800)
  else regGet s (feReg m r)

/-! ### RQT (R276, R277) -/

/-- STATE codes of adapter and learned-prefix slots (R277). -/
def slotCode : SlotState → Nat
  | .empty => 0
  | .loading => 1
  | .ready => 2
  | .retiring => 3

/-- QSTATE of a queue (R277). -/
def readQstate (s : State) (q : Nat) : Nat :=
  Nat.min (que s (queId q)).deficit (2 ^ 32 - 1) * 2 ^ 32 + (s.rqt.filter (fun p => p.2.state == .queued && p.2.queue == q)).length

/-- ADP_SLOT (R277). -/
def readAdapter (s : State) (k : Nat) : Nat :=
  let a := s.adapters[Fin.ofNat 32 k]
  if a.st = .empty then 0 else (a.version % 2 ^ 32) * 2 ^ 32 + a.id * 2 ^ 16 + slotCode a.st

/-- LP_SLOT (R277). -/
def readLp (s : State) (k : Nat) : Nat :=
  let l := s.lps[Fin.ofNat 64 k]
  if l.st = .empty then 0 else l.handle * 2 ^ 48 + (l.len / 64 - 1) * 2 ^ 32 + slotCode l.st

/-- An RQT register. -/
def readRqt (s : State) (r : Nat) : Nat :=
  if r < 0x100000 then fld (entryBytes s (r / 0x100) (entryOf s (r / 0x100))) (r % 0x100) 8
  else if r = 0x100008 then s.tick.rqtTime
  else if r = 0x100010 then (s.rqt.filter (fun p => p.2.state != .free)).length
  else if r = 0x100060 then s.nodes.length
  else if 0x101000 ≤ r ∧ r < 0x101800 ∧ r % 16 = 8 then readQstate s ((r - 0x101000) / 16)
  else if 0x102000 ≤ r ∧ r < 0x102200 ∧ r % 32 = 16 then poolUsed s ((r - 0x102000) / 32)
  else if 0x102000 ≤ r ∧ r < 0x102200 ∧ r % 32 = 24 then poolBooked s ((r - 0x102000) / 32)
  else if 0x103000 ≤ r ∧ r < 0x103200 then
    (if r % 16 = 0 then readAdapter s ((r - 0x103000) / 16) else adpRefs s ((r - 0x103000) / 16))
  else if 0x103400 ≤ r ∧ r < 0x103800 then (if r % 16 = 0 then readLp s ((r - 0x103400) / 16) else lpRefs s ((r - 0x103400) / 16))
  else regGet s (rqtReg r)

/-! ### POWER (R424) -/

/-- PWR_CAP (R424). -/
def readCap (s : State) : Nat :=
  s.power.effW * 2 ^ 32 + ((s.power.pend.map (·.effW)).getD 0) * 2 ^ 16 + s.power.ownerW

/-- NEXT_WOP: the operating point of the pending pair, or of the current pair (R409, R424). -/
def nextWop (s : State) : Nat := match s.power.pend, s.power.imm with
  | some q, _ => q.op
  | none, some i => i.op
  | none, none => s.power.raiseTo.getD s.power.wop

/-- PWR_OP (R424). -/
def readOp (s : State) : Nat := s.power.trim * 2 ^ 24 + s.power.vddSet * 2 ^ 12 + nextWop s * 2 ^ 8 + s.power.op

/-- PWR_RESERVE (R403, R424), once firmware runs. -/
def readReserve (s : State) : Nat :=
  if !s.fw.running then 0 else (computeW s s.power.effW).toNat * 2 ^ 32 + memW * 2 ^ 16 + linkW s

/-- A sensor of the stored temperatures. -/
def sensorTemp (s : State) (k : Nat) : Nat := (lookupN k s.temps).getD 0

/-- Bytes of temperatures, least significant first. -/
def packBytes (xs : List Nat) : Nat := ofLE (xs.map (BitVec.ofNat 8))

/-- A POWER register. -/
def readPower (s : State) (r : Nat) : Nat :=
  if r = 0x000 then readCap s
  else if r = 0x018 then readOp s
  else if r = 0x020 then readReserve s
  else if 0x080 ≤ r ∧ r < 0x0B0 then (nthD 0 s.fuses.vtable ((r - 0x080) / 8)).toNat
  else if 0x0B0 ≤ r ∧ r < 0x0E0 then (nthD 0 s.fuses.vref ((r - 0x0B0) / 8)).toNat
  else if 0x100 ≤ r ∧ r < 0x120 then
    sumN ((List.range 16).map (fun i => (arrSluice s (arrId (16 * ((r - 0x100) / 8) + i)) - 1) * 2 ^ (4 * i)))
  else if 0x140 ≤ r ∧ r < 0x180 then packBytes ((List.range 8).map (fun i => (arr s (arrId (8 * ((r - 0x140) / 8) + i))).care.temp))
  else if r = 0x180 then packBytes ((List.range 8).map (fun i => sensorTemp s (64 + i)))
  else if 0x188 ≤ r ∧ r < 0x1A0 then
    packBytes ((List.range 8).map (fun i =>
      if 8 * ((r - 0x188) / 8) + i < 20 then sensorTemp s (80 + 8 * ((r - 0x188) / 8) + i) else 0))
  else regGet s (pwrReg r)

/-! ### RAILE, SECURITY and BIST (R338, R339, R451, R470) -/

/-- Port STATE codes (R339). -/
def portCode : PortState → Nat
  | .disabled => 0
  | .detect => 1
  | .equalise => 2
  | .align => 3
  | .param => 4
  | .active => 5
  | .fallow => 6

/-- RL_PORT_STATUS (R339). -/
def readPort (s : State) (p : Nat) : Nat :=
  let u := port s (Fin.ofNat 16 p)
  let n := popc 4 u.lanesUp.toNat
  u.peerNode.toNat * 2 ^ 52 + sumN ((List.range 4).map (fun l => b2n (!laneEnabled s p l) * 2 ^ (48 + l))) + u.lanesUp.toNat * 2 ^ 44
    + (if n = 4 then 3 else n) * 2 ^ 36 + regField s (rlReg p 0x008) 3 3 * 2 ^ 3 + portCode u.st

/-- Peer STATE codes (R339). -/
def peerCode : PeerState → Nat
  | .unknown => 0
  | .joining => 1
  | .up => 2
  | .suspect => 3
  | .down => 4

/-- A peer table entry (R339). -/
def readPeer (s : State) (n : Nat) : Nat :=
  let x := peerOf s (BitVec.ofNat 12 n)
  x.bootId.toNat * 2 ^ 32 + Nat.min 65535 x.rttNs * 2 ^ 16 + b2n x.far * 2 ^ 3 + peerCode x.st

/-- A register of RAILE[p]. -/
def readRaile (s : State) (p r : Nat) : Nat :=
  if r = 0x008 then readPort s p
  else if p = 0 ∧ 0x8000 ≤ r then readPeer s ((r - 0x8000) / 8)
  else regGet s (rlReg p r)

/-- SEC_STATUS (R451). -/
def readSecStatus (s : State) : Nat :=
  regField s (secReg 0x000) 15 12 * 2 ^ 12 + (if s.fw.running then s.fw.keyIndex else 0) * 2 ^ 10 + s.sec.debug * 2 ^ 8 + b2n s.fw.running

/-- SEC_ROLLBACK (R432, R451). -/
def readRollback (s : State) : Nat :=
  (if s.fw.running then s.fw.svn else 0) * 2 ^ 56 + s.fuses.svn * 2 ^ 48 + s.fuses.keyRevoke.toNat * 2 ^ 8 + regField s (secReg 0x008) 2 0

/-- A SECURITY register. -/
def readSecurity (s : State) (r : Nat) : Nat :=
  if r = 0x000 then readSecStatus s
  else if r = 0x008 then readRollback s
  else if r = 0x018 then sumN ((List.finRange 16).map (fun t => b2n (ten s t).material.isSome * 2 ^ t.val))
  else if r = 0x028 then regField s (secReg 0x028) 1 1 * 2 + b2n (s.sec.domainKey.all Option.isSome)
  else if 0x060 ≤ r ∧ r < 0x080 then fld s.sec.challenge (r - 0x060) 8
  else if r = 0x080 then s.sec.bootId.toNat
  else if 0x100 ≤ r ∧ r < 0x180 then (ten s (ldId ((r - 0x100) / 8))).keyGen
  else regGet s (secReg r)

/-- Register `k` of a BIST record (R470). -/
def readRecord (s : State) (i k : Nat) : Nat :=
  match s.bist.records[i]? with
  | none => 0
  | some f =>
    if k = 0 then
      f.test.toNat * 2 ^ 56 + f.source.toNat * 2 ^ 48 + f.unit.toNat * 2 ^ 32 + nthD 0 s.bist.outcomes i * 2 ^ 24 + f.struct.toNat * 2 ^ 16
    else if k = 1 then f.address.toNat
    else if k = 2 then f.byteMask.toNat
    else f.firstBit.toNat * 2 ^ 48 + f.nbits.toNat * 2 ^ 32 + f.value.toNat

/-- A BIST register. -/
def readBist (s : State) (r : Nat) : Nat :=
  if 0x100 ≤ r ∧ r < 0x2100 then readRecord s ((r - 0x100) / 0x20) (r % 0x20 / 8) else regGet s (bistReg r)

/-! ### The owner space -/

/-- What a register reads, by its offset in the owner space; 0 at reserved and unimplemented offsets (R15, R489, R490). -/
def regRead (s : State) (o : Nat) : Nat :=
  (match blockOf o with
    | some (0, _, r) => readGlobal s r
    | some (1, _, r) => readFurrow s r
    | some (2, a, r) => readArray s a r
    | some (3, m, r) => readFetch s m r
    | some (4, _, r) => readRqt s r
    | some (5, _, r) => readPower s r
    | some (6, _, r) => regGet s (fltReg r)
    | some (7, p, r) => readRaile s p r
    | some (8, _, r) => readSecurity s r
    | some (9, _, r) => readBist s r
    | _ => 0) % 2 ^ 64

end Sys2Proof.Machine
end

