-- ==== Sys2Proof/Machine/RegWrite.lean ====
section
/-! DEFINITION. Accesses to registers (00_scope.md, R15 to R17; 17_register_map.md, R486 to R493): the effect of a write on each
register, REGISTER_WRITE over BAR2 and the doorbell pages, READ_REG and WRITE_REG. -/

namespace Sys2Proof.Machine

/-- The state that a command's outcome leaves; every command answers a next state. -/
def afterCmd (s : State) : Host.Outcome State Fault Refusal → State
  | .next t => t
  | _ => s

/-- Bits that a write reaches: the whole register, or one half of it (R491). -/
inductive RegPart where
  | whole | low | high
  deriving DecidableEq, Repr

/-- The bits of a part. -/
def partMask : RegPart → Nat
  | .whole => mask 63 0
  | .low => mask 31 0
  | .high => mask 63 32

/-- The 64-bit value that a write of a part amounts to (R491): outside the part RW bits keep their value, and the others are 0. -/
def mergePart (s : State) (o v : Nat) (p : RegPart) : Nat :=
  let m := partMask p
  (v % 2 ^ 64 &&& m) ||| (regRead s o &&& (regAccess o).rw &&& (mask 63 0 ^^^ m))

/-- Whether a write of a part reaches a bit. -/
def reaches (p : RegPart) (b : Nat) : Bool := bitAt (partMask p) b

/-- The stored bits of a register after a write under its access codes (R15, R16). -/
def plainWrite (s : State) (o v : Nat) : State :=
  let a := regAccess o
  if a = {} then s else regSet s o (accessWrite a (regGet s o) v)

/-! ### Registers with a rule of their own -/

/-- FUR_CFG (R228): WINDOW_LEN_M1 at least 7, REPLAY_MARGIN at most 100. -/
def writeFurCfg (s : State) (v : Nat) : State :=
  let v := putBits v 39 32 (Nat.max 7 (bits v 39 32))
  plainWrite s (furReg 0) (putBits v 47 40 (Nat.min 100 (bits v 47 40)))

/-- ARR_REPAIR (R89, R104, R489): written only while the array is fallow, and never on an array that the part does not have. -/
def writeRepairReg (s : State) (a v : Nat) : State :=
  if (arr s (arrId a)).st = .fallow ∧ bitAt s.fuses.arrays.toNat a then showRepaired (plainWrite s (arrReg a 0x008) v) else s

/-- RQT_CFG (R277): 0 is stored as 1. -/
def writeRqtCfg (s : State) (v : Nat) : State :=
  let v := putBits v 47 40 (Nat.max 1 (bits v 47 40))
  plainWrite s (rqtReg 0x100000) (putBits v 31 0 (Nat.max 1 (bits v 31 0)))

/-- RL_PORT_CFG (R309, R310, R339): MAX_WIDTH 3 is stored as 0; a change of ENABLE enables or disables the port. -/
def writePortCfg (s : State) (p : PortId) (v : Nat) : State :=
  let o := rlReg p.val 0x000
  let was := regField s o 0 0
  let s := regPut s o 2 1 (if bits v 2 1 = 3 then 0 else bits v 2 1)
  if was = 0 ∧ bitAt v 0 then afterCmd s (execPortEnable p s)
  else if was = 1 ∧ !bitAt v 0 then afterCmd s (execPortDisable p s)
  else s

/-- RL_NODE (R316): ignored while a port is neither DISABLED nor FALLOW. -/
def writeNode (s : State) (v : Nat) : State :=
  if (List.finRange 16).all (fun p => (port s p).st == .disabled || (port s p).st == .fallow) then plainWrite s (rlReg 0 0x1000) v else s

/-- RL_CFG (R339): SUSPECT_US and RTO_US of 0 are stored as 1. -/
def writeRlCfg (s : State) (v : Nat) : State :=
  let v := putBits v 31 16 (Nat.max 1 (bits v 31 16))
  plainWrite s (rlReg 0 0x1008) (putBits v 15 0 (Nat.max 1 (bits v 15 0)))

/-- SEC_ROLLBACK (R432): flags are cleared, then each bit of REVOKE and COMMIT acts as the command of its name. -/
def writeRollback (s : State) (v : Nat) : State :=
  let s := regSet s (secReg 0x008) (accessWrite { w1c := mask 2 1 } (regGet s (secReg 0x008)) v)
  let s := if bits v 11 8 = 0 then s else afterCmd s (execRevoke (BitVec.ofNat 4 (bits v 11 8)) s)
  if bitAt v 0 then afterCmd s (execCommit s) else s

/-- SEC_DOMAIN_KEY (R438): ignored once LOCK is set. A half that is not written keeps its bytes. -/
def writeDomainKey (s : State) (i v : Nat) (p : RegPart) : State :=
  if domainLocked s then s
  else
    let old := match s.sec.domainKey[i]? with
      | some (some k) => k.toNat
      | _ => 0
    let new := (v &&& partMask p) ||| (old &&& (mask 63 0 ^^^ partMask p))
    { s with sec := { s.sec with domainKey := s.sec.domainKey.set i (some (reg new)) } }

/-- JRNL_CFG (R305, R368): SIZE_LOG2 within 16 to 34; MODE 1 is stored as 0 in MLD mode. -/
def writeJrnlCfg (s : State) (v : Nat) : State :=
  let v := putBits v 7 2 (Nat.min 34 (Nat.max 16 (bits v 7 2)))
  plainWrite s (bndReg 0) (if s.pins.mld ∧ bits v 1 0 = 1 then putBits v 1 0 0 else v)

/-! ### One write -/

/-- A write of a GLOBAL register. -/
def writeGlobal (s : State) (r v : Nat) : State :=
  if r = 0xD000 then writeJrnlCfg s v
  else if r = 0xD018 then afterCmd s (execJrnlTailWrite (reg v) s)
  else if r = 0xD038 then plainWrite s (glbReg r) (Nat.max 1 (bits v 15 0))
  else plainWrite s (glbReg r) v

/-- A write of a FURROW register. -/
def writeFurrow (s : State) (r v : Nat) (p : RegPart) : State :=
  if r = 0x000 then writeFurCfg s v
  else if r = 0x028 then
    let keep := (s.tick.numSet.getD 0) &&& (mask 63 0 ^^^ partMask p)
    { s with tick := { s.tick with numSet := some ((v &&& partMask p) ||| keep) } }
  else plainWrite s (furReg r) v

/-- A write of an RQT register. -/
def writeRqt (s : State) (r v : Nat) : State :=
  if r = 0x100000 then writeRqtCfg s v
  else if 0x101000 ≤ r ∧ r < 0x101800 ∧ r % 16 = 0 then afterCmd s (execQcfgWrite (queId ((r - 0x101000) / 16)) (reg v) s)
  else if 0x102000 ≤ r ∧ r < 0x102200 ∧ r % 32 = 0 then afterCmd s (execLdRqtWrite (ldId ((r - 0x102000) / 32)) (reg v) s)
  else if 0x102000 ≤ r ∧ r < 0x102200 ∧ r % 32 = 8 then afterCmd s (execLdPoolLimitWrite (ldId ((r - 0x102000) / 32)) (reg v) s)
  else plainWrite s (rqtReg r) v

/-- A write of a POWER register. -/
def writePower (s : State) (r v : Nat) (p : RegPart) : State :=
  if r = 0x000 then (if reaches p 0 then setOwnerCap s (bits v 15 0) false else s)
  else if r = 0x008 then afterCmd s (execPwrCfgWrite (reg v) s)
  else plainWrite s (pwrReg r) v

/-- A write of a FAULT register. -/
def writeFault (s : State) (r v : Nat) : State :=
  if r = 0x000 then plainWrite s (fltReg 0) (putBits v 47 32 (Nat.max 1 (bits v 47 32)))
  else if r = 0x080 then afterCmd s (execFltInject (reg v) s)
  else plainWrite s (fltReg r) v

/-- A write of a RAILE register. -/
def writeRaile (s : State) (p r v : Nat) : State :=
  if r = 0x000 then writePortCfg s (Fin.ofNat 16 p) v
  else if p ≠ 0 then plainWrite s (rlReg p r) v
  else if r = 0x1000 then writeNode s v
  else if r = 0x1008 then writeRlCfg s v
  else if r = 0x1020 then plainWrite s (rlReg 0 r) (putBits v 7 0 (Nat.min 25 (bits v 7 0)))
  else if 0x2000 ≤ r ∧ r < 0x4000 then afterCmd s (execRouteWrite (Fin.ofNat 1024 ((r - 0x2000) / 8)) (reg v) s)
  else if 0x4000 ≤ r ∧ r < 0x8000 then
    afterCmd s (execRegionWrite (Fin.ofNat 512 ((r - 0x4000) / 0x20)) (Fin.ofNat 4 (r % 0x20 / 8)) (reg v) s)
  else plainWrite s (rlReg 0 r) v

/-- A write of a SECURITY register. -/
def writeSecurity (s : State) (r v : Nat) (p : RegPart) : State :=
  if r = 0x008 then writeRollback s v
  else if r = 0x010 then (if bitAt v 0 then afterCmd s (execFenceReq s) else s)
  else if r = 0x020 then afterCmd s (execSecKeyClear (BitVec.ofNat 16 (bits v 15 0)) s)
  else if r = 0x028 then (if bitAt v 1 then afterCmd s (execDomainKeyLock s) else s)
  else if 0x030 ≤ r ∧ r < 0x060 then writeDomainKey s ((r - 0x030) / 8) v p
  else plainWrite s (secReg r) v

/-- A write of the register at an offset of the owner space (R15, R16, R489, R490): reserved and unimplemented offsets ignore it. -/
def regWrite (s : State) (o val : Nat) (p : RegPart) : State :=
  let v := mergePart s o val p
  match blockOf o with
  | some (0, _, r) => writeGlobal s r v
  | some (1, _, r) => writeFurrow s r v p
  | some (2, a, r) => if r = 0x008 then writeRepairReg s a v else plainWrite s o v
  | some (3, _, r) => if r = 0x3000 then plainWrite s o (Nat.min 12 (bits v 3 0)) else plainWrite s o v
  | some (4, _, r) => writeRqt s r v
  | some (5, _, r) => writePower s r v p
  | some (6, _, r) => writeFault s r v
  | some (7, n, r) => writeRaile s n r v
  | some (8, _, r) => writeSecurity s r v p
  | some (9, _, r) => if r = 0x008 then afterCmd s (execGo (reg v) s) else plainWrite s o v
  | _ => s

/-! ### REGISTER_WRITE (R15, R486, R490, R491, R358) -/

/-- Whether BAR2 reaches the owner space (R486): SLD mode, and an offset of its 32 MiB. -/
def bar2Open (s : State) (o : Nat) : Bool := hostUp s && !s.pins.mld && decide (o < 0x2000000)

/-- Whether an access has a size and alignment that R491 permits. -/
def sizeOk (o size : Nat) : Bool := (size == 8 && o % 8 == 0) || (size == 4 && o % 4 == 0)

/-- A write over BAR2. -/
def bar2Write (s : State) (o size val : Nat) : State :=
  let s := { s with bar2Last := none }
  if !sizeOk o size then regFlag s (glbReg 0x008) 1
  else if (blockOf o).isNone then regFlag s (glbReg 0x008) 0
  else if size = 8 then regWrite s o val .whole
  else if o % 8 = 0 then regWrite s o val .low
  else regWrite s (o - 4) (val * 2 ^ 32) .high

/-- A read over BAR2: what it answers, and the shadow of its path (R491). -/
def bar2Fetch (s : State) (o size : Nat) : State :=
  let last := s.bar2Last
  let s := { s with bar2Last := none }
  if !sizeOk o size then { regFlag s (glbReg 0x008) 1 with regData := 0 }
  else if (blockOf o).isNone then { regFlag s (glbReg 0x008) 0 with regData := 0 }
  else if size = 8 then { s with regData := reg (regRead s o) }
  else if o % 8 = 0 then
    { s with regData := reg (regRead s o % 2 ^ 32), bar2Last := some o, bar2Shadow := BitVec.ofNat 32 (regRead s o / 2 ^ 32) }
  else if last = some (o - 4) then { s with regData := reg s.bar2Shadow.toNat }
  else { s with regData := reg (regRead s (o - 4) / 2 ^ 32) }

/-- A doorbell write at an offset of its slot (R358): 4 or 8 bytes; only Q_STATUS.DB_ERR is left beside the two doorbells. -/
def bellWrite (s : State) (ld : LdId) (slot : Fin 8) (o size : Nat) (val : Reg64) : State :=
  if size ≠ 4 ∧ size ≠ 8 then s
  else if o = 0x00 then afterCmd s (execSqTail ld slot val s)
  else if o = 0x08 then afterCmd s (execCqHead ld slot val s)
  else if o = 0x18 ∧ bitAt val.toNat 1 then setTen s ld { ten s ld with dbErr := (ten s ld).dbErr.set slot.val false }
  else s

/-- What a register of a doorbell slot reads (R358). -/
def bellRead (s : State) (ld : LdId) (slot : Fin 8) (o : Nat) : Nat :=
  let q := slotQueue s ld slot
  if o = 0x10 then (match q with
    | some q => (que s q).sqHead
    | none => 0)
  else if o = 0x18 then
    let err := b2n (nthD false (ten s ld).dbErr slot.val) * 2
    match q with
    | some q => q.val * 2 ^ 8 + b2n ((ten s ld).overflow.any (fun r => r.queue == q.val)) * 4 + err + 1
    | none => 0xFF * 2 ^ 8 + err
  else 0

/-! ### Configuration space (R345; the codes of the capabilities are CXL 2.0's, notes/assumptions/79.md) -/

/-- The words of one DVSEC: its header with the place of the next one, and its body. -/
def dvsecWords (next id rev field : Nat) (body : List Nat) : List Nat :=
  [0x0023 + 2 ^ 16 + next * 2 ^ 20, 0x1E98 + rev * 2 ^ 16 + (12 + 4 * body.length) * 2 ^ 20, id + field * 2 ^ 16] ++ body

/-- An entry of the Register Locator: a block of BAR0 by its type and 64 KiB offset. -/
def locatorEntry (type off : Nat) : List Nat := [type * 2 ^ 8 + off * 2 ^ 16, 0]

/-- The DVSECs that a function carries from 0x100 on (R345): CXL devices with CXL.io, CXL.mem and two HDM decoders (R340), Flex Bus port,
Register Locator with the component block and the device block of BAR0 (R344), and MLD with 16 LDs on the FM-owned LD. -/
def configDvsecs (s : State) (fn : Mbox) : List Nat :=
  let fm : Bool := s.pins.mld && fn == .owner
  dvsecWords 0x138 0 1 (2 + 4 + 2 * 2 ^ 4) (List.replicate 11 0)
    ++ dvsecWords 0x14C 7 1 (2 + 4 + b2n s.pins.mld * 2 ^ 6) [0, 0]
    ++ dvsecWords (if fm then 0x168 else 0) 8 0 0 (locatorEntry 1 0 ++ locatorEntry 3 1)
    ++ (if fm then dvsecWords 0 9 0 16 [0] else [])

/-- Whether a function exists: the owner's always, a tenant LD's in MLD mode (R342, R343). -/
def fnExists (s : State) (fn : Mbox) : Bool := match fn with
  | .owner => true
  | .tenant _ => s.pins.mld
  | .i3c => false

/-- Whether a function has BARs (R344): each tenant LD function, and the SLD function. -/
def hasBars (s : State) (fn : Mbox) : Bool := match fn with
  | .owner => !s.pins.mld
  | .tenant _ => s.pins.mld
  | .i3c => false

/-- MSI-X vectors of a function (R363): 32 of a tenant LD function, 64 of the SLD function. -/
def fnVectors (fn : Mbox) : Nat := match fn with
  | .tenant _ => 32
  | _ => 64

/-- The words of the header and of the MSI-X capability that the model gives (R344, R363, R368; notes/assumptions/79.md): Command, the
64-bit non-prefetchable BARs of 256 KiB and 32 MiB, and MSI-X with its table and pending bits in BAR0. -/
def headerWord (s : State) (fn : Mbox) (o : Nat) : Option Nat :=
  let f := fnOf s fn
  let mapped := hasBars s fn
  let base (k size : Nat) : Nat := if mapped then nthD 0 f.bars k / size * size + 4 else 0
  if o = 0x04 then some (b2n f.memSpace * 2 + b2n f.busMaster * 4 + 2 ^ 20)
  else if o = 0x10 then some (base 0 (2 ^ 18))
  else if o = 0x14 then some (if mapped then nthD 0 f.bars 1 else 0)
  else if o = 0x18 then some (if fn = .owner then base 2 (2 ^ 25) else 0)
  else if o = 0x1C then some (if fn = .owner ∧ mapped then nthD 0 f.bars 3 else 0)
  else if o = 0x34 then some 0x40
  else if o = 0x40 then some (0x11 + (fnVectors fn - 1) * 2 ^ 16 + b2n f.msixMask * 2 ^ 30 + b2n f.msixOn * 2 ^ 31)
  else if o = 0x44 then some 0x30000
  else if o = 0x48 then some 0x30800
  else none

/-- A 4 B read of configuration space; the remaining words are PCIe's, and open. -/
def configRead (s : State) (fn : Mbox) (o : Nat) : State :=
  if !fnExists s fn then s
  else match (if o < 0x100 then headerWord s fn o else (configDvsecs s fn)[(o - 0x100) / 4]?) with
    | some w => { s with regData := reg w }
    | none => { tickFree s with regData := drawReg s &&& 0xFFFFFFFF }

/-- A 4 B write of configuration space (R344, R363, R368): Memory Space Enable and Bus Master Enable, the BARs, and MSI-X Enable with its
Function Mask. -/
def configWrite (s : State) (fn : Mbox) (o v : Nat) : State :=
  let f := fnOf s fn
  if !fnExists s fn then s
  else if o = 0x04 then setFn s fn { f with memSpace := bitAt v 1, busMaster := bitAt v 2 }
  else if 0x10 ≤ o ∧ o < 0x20 ∧ o % 4 = 0 then setFn s fn { f with bars := f.bars.set ((o - 0x10) / 4) (v % 2 ^ 32) }
  else if o = 0x40 then flushMsix (setFn s fn { f with msixOn := bitAt v 31, msixMask := bitAt v 30 }) fn
  else s

/-! ### BAR0 (R344; the codes and offsets inside its blocks are CXL 2.0's or the model's, notes/assumptions/79.md) -/

/-- The LD whose decoders a function's component registers show. -/
def fnLd : Mbox → LdId
  | .tenant t => t
  | _ => 0

/-- A word of the component registers: the capability header, RAS, HDM decoder and IDE capabilities (R340, R346, R365). -/
def compWord (s : State) (fn : Mbox) (o : Nat) : Nat :=
  let u := ten s (fnLd fn)
  let dec (k r : Nat) : Nat :=
    let x := (nthD none u.hdm k).getD (0, 0)
    if r = 0 then x.1 % 2 ^ 32
    else if r = 4 then x.1 / 2 ^ 32
    else if r = 8 then x.2 % 2 ^ 32
    else if r = 12 then x.2 / 2 ^ 32
    else if r = 16 then b2n (nthD none u.hdm k).isSome * 2 ^ 10 + b2n (nthD false u.hdmErr k) * 2 ^ 11 + 2 ^ 12
    else 0
  let mode := if s.sec.ideInsecure then 4 else if !s.sec.ideKeyed then 0 else if s.sec.ideSkid then 2 else 1
  if o = 0x1000 then 1 + 2 ^ 16 + 2 ^ 20 + 3 * 2 ^ 24
  else if o = 0x1004 then 2 + 2 ^ 16 + 0x100 * 2 ^ 20
  else if o = 0x1008 then 5 + 2 ^ 16 + 0x200 * 2 ^ 20
  else if o = 0x100C then 7 + 2 ^ 16 + 0x300 * 2 ^ 20
  else if o = 0x1200 then 1 + 2 ^ 4
  else if o = 0x1204 then 2
  else if 0x1210 ≤ o ∧ o < 0x1250 then dec ((o - 0x1210) / 0x20) ((o - 0x1210) % 0x20)
  else if o = 0x1300 then 1 + 3 * 2
  else if o = 0x1308 then mode + mode * 2 ^ 4
  else 0

/-- A word of the device registers: the capabilities array, device status, primary mailbox and memory device status (R344, R348). -/
def devRegWord (s : State) (fn : Mbox) (o : Nat) : Nat :=
  let b := mboxOf s fn
  let f := fnOf s fn
  let head (k id off len : Nat) : Nat :=
    if o = k then id + 2 ^ 16 else if o = k + 4 then off else if o = k + 8 then len else 0
  if o = 0 then 2 ^ 16
  else if o = 4 then 3
  else if o < 0x40 then head 0x10 1 0x100 8 + head 0x20 2 0x200 0x1020 + head 0x30 0x4000 0x180 8
  else if o = 0x100 then b2n (!(eventsOf s fn).isEmpty)
  else if o = 0x180 then b2n (halted s || regField s (bistReg 0) 2 2 == 1) + b2n s.fw.dead * 2 + 4 + b2n (s.fw.rom || s.fw.running) * 16
  else if o = 0x200 then 12 + 2 ^ 6
  else if o = 0x204 then b2n (boxBusy s fn) + 4
  else if o = 0x208 then f.opcode % 2 ^ 16 + f.payLen % 2 ^ 16 * 2 ^ 16
  else if o = 0x20C then f.payLen / 2 ^ 16
  else if o = 0x210 then b2n b.bg.isSome
  else if o = 0x214 then b.ret
  else if o = 0x218 then b.bgOp + b.bgPct * 2 ^ 16
  else if o = 0x21C then (if b.bg.isSome then 0 else b.bgRet + fld b.bgOut 0 2 * 2 ^ 16)
  else if 0x220 ≤ o ∧ o < 0x1220 then fld b.outp (o - 0x220) 4
  else 0

/-- A word of the MSI-X table or of the pending bits (R344, R363). -/
def msixWord (s : State) (fn : Mbox) (o : Nat) : Nat :=
  let f := fnOf s fn
  let x := f.vectors[Fin.ofNat 64 (o / 16)]
  if o < 16 * fnVectors fn then
    (if o % 16 = 0 then x.addr % 2 ^ 32 else if o % 16 = 4 then x.addr / 2 ^ 32 else if o % 16 = 8 then x.data else b2n x.masked)
  else if 0x800 ≤ o ∧ o < 0x808 then
    sumN ((List.range 32).map (fun k => b2n (f.vectors[Fin.ofNat 64 ((o - 0x800) * 8 + k)]).pending * 2 ^ k))
  else 0

/-- A write of a word of the MSI-X table: the vector's address, data or mask; a vector that is no longer masked is sent if it waits. -/
def msixWrite (s : State) (fn : Mbox) (o v : Nat) : State :=
  if 16 * fnVectors fn ≤ o then s
  else
    let f := fnOf s fn
    let i : Fin 64 := Fin.ofNat 64 (o / 16)
    let x := f.vectors[i]
    let y : MsixVec :=
      if o % 16 = 0 then { x with addr := x.addr / 2 ^ 32 * 2 ^ 32 + v / 4 * 4 }
      else if o % 16 = 4 then { x with addr := x.addr % 2 ^ 32 + v * 2 ^ 32 }
      else if o % 16 = 8 then { x with data := v }
      else { x with masked := bitAt v 0 }
    flushMsix (setFn s fn { f with vectors := f.vectors.set i y }) fn

/-- The doorbell slot at an offset of a function's pages (R343, R344, R358): one page in MLD mode, sixteen in SLD mode; none where the page
has no slot. -/
def bellAt (fn : Mbox) (o : Nat) : Option (LdId × Fin 8 × Nat) :=
  let page : Option LdId := match fn with
    | .tenant t => if o < 0x1000 then some t else none
    | _ => some (ldId (o / 0x1000))
  match page with
  | some t => if o % 0x1000 < 0x100 then some (t, Fin.ofNat 8 (o % 0x1000 / 0x20), o % 0x20) else none
  | none => none

/-- Opcodes that the table's rows carry to a mailbox. -/
def knownOpcode (op : Nat) : Bool := (celOpcodes .owner ++ [0x5400, 0x5401, 0x5402]).contains op

/-- The mailbox doorbell (R348 to R350): a command of the table arrives as its own row; any other opcode is Unsupported, or Retry Required
before firmware runs. -/
def ringBox (s : State) (fn : Mbox) : State :=
  if boxBusy s fn ∨ knownOpcode (fnOf s fn).opcode then s else reply s fn (if s.fw.running then 3 else 5) []

/-- A write of a word of the device registers: the mailbox's command and its doorbell. -/
def devRegWrite (s : State) (fn : Mbox) (o v : Nat) : State :=
  let f := fnOf s fn
  if o = 0x204 then (if bitAt v 0 then ringBox s fn else s)
  else if o = 0x208 then setFn s fn { f with opcode := v % 2 ^ 16, payLen := f.payLen / 2 ^ 16 * 2 ^ 16 + v / 2 ^ 16 }
  else if o = 0x20C then setFn s fn { f with payLen := f.payLen % 2 ^ 16 + v % 32 * 2 ^ 16 }
  else s

/-- Words of an access: one, or two of 8 B. -/
def twice (size : Nat) (f : Nat → Nat) (o : Nat) : Nat := f o % 2 ^ 32 + (if size = 8 then f (o + 4) % 2 ^ 32 * 2 ^ 32 else 0)

/-- A read of BAR0. -/
def bar0Fetch (s : State) (fn : Mbox) (o size : Nat) : Nat :=
  if o < 0x10000 then twice size (compWord s fn) o
  else if o < 0x20000 then twice size (devRegWord s fn) (o - 0x10000)
  else if o < 0x30000 then (match bellAt fn (o - 0x20000) with
    | some (t, k, r) => bellRead s t k r
    | none => 0)
  else if o < 0x31000 then twice size (msixWord s fn) (o - 0x30000)
  else 0

/-- A write of BAR0. The component registers show what HDM_DECODER_COMMIT and IDE_KM set, and take no other write. -/
def bar0Write (s : State) (fn : Mbox) (o size : Nat) (val : Reg64) : State :=
  let both (f : State → Nat → Nat → State) (o : Nat) : State :=
    let s := f s o (val.toNat % 2 ^ 32)
    if size = 8 then f s (o + 4) (val.toNat / 2 ^ 32) else s
  if o < 0x10000 then s
  else if o < 0x20000 then both (fun s => devRegWrite s fn) (o - 0x10000)
  else if o < 0x30000 then (match bellAt fn (o - 0x20000) with
    | some (t, k, r) => bellWrite s t k r size val
    | none => s)
  else if o < 0x31000 then both (fun s => msixWrite s fn) (o - 0x30000)
  else s

/-- REGISTER_WRITE (R15 to R17, R344, R345, R358, R486 to R491). A register whose write has a row of its own acts as that command. -/
def execRegisterWrite (tgt : RegTarget) (size : Nat) (val : Reg64) (s : State) : Host.Outcome State Fault Refusal :=
  match tgt with
  | .bar2 o => if bar2Open s o then .next (bar2Write s o size val.toNat) else .next s
  | .bar2Read o => if bar2Open s o then .next (bar2Fetch s o size) else .next s
  | .bar0 fn o => if hostUp s && hasBars s fn then .next (bar0Write s fn o size val) else .next s
  | .bar0Read fn o => if hostUp s && hasBars s fn then .next { s with regData := reg (bar0Fetch s fn o size) } else .next s
  | .config fn o => if hostUp s then .next (configRead s fn o) else .next s
  | .configWrite fn o => if hostUp s then .next (configWrite s fn o val.toNat) else .next s

/-! ### READ_REG and WRITE_REG (R353, R460, R490, R492) -/

/-- Offsets of a command's registers. -/
def rangeOffs (o n : Nat) : List Nat := (List.range n).map (fun k => o + 8 * k)

/-- Whether a range is aligned and crosses no unimplemented offset. -/
def rangeOk (o n lo hi : Nat) : Bool :=
  o % 8 == 0 && decide (lo ≤ n) && decide (n ≤ hi) && (rangeOffs o n).all (fun x => (blockOf x).isSome)

/-- Values of a range, in ascending order. -/
def rangeRead (s : State) (o n : Nat) : List Byte := (rangeOffs o n).flatMap (fun x => toLE 8 (regRead s x))

/-- Whether a range lies in the BIST block. -/
def inBist (o n : Nat) : Bool := decide (bistReg 0 ≤ o) && decide (o + 8 * n ≤ bistReg 0x4000)

/-- READ_REG (R353, R490, R492). After a FATAL power-up BIST the boot ROM serves it for the BIST block (R460). -/
def execReadReg (m : Mbox) (p : List Byte) (s : State) : Host.Outcome State Fault Refusal :=
  let o := fld p 8 8
  let n := fld p 0x10 2
  if s.fw.rom ∧ !s.fw.running ∧ m = .owner ∧ regField s (bistReg 0) 2 2 = 1 ∧ mboxLive s m ∧ p.length = 0x12 ∧ inBist o n then
    .next (reply s m 0 (if rangeOk o n 1 511 then bruahOut 0 (rangeRead s o n) else bruahOut 5 []))
  else
    bruah { owner := true, len := 0x12 } m p false s (fun _ s =>
      if rangeOk o n 1 511 then (s, 0, rangeRead s o n) else (s, 5, []))

/-- WRITE_REG (R353, R490, R492): each register in ascending order as one 8 B access, or none of them. -/
def execWriteReg (m : Mbox) (p : List Byte) (s : State) : Host.Outcome State Fault Refusal :=
  let o := fld p 8 8
  let n := fld p 0x10 2
  bruah { owner := true, len := 0x18 + 8 * n } m p (!zeroAt p 0x12 6) s (fun _ s =>
    if rangeOk o n 1 509 then
      ((List.range n).foldl (fun s k => regWrite s (o + 8 * k) (fld p (0x18 + 8 * k) 8) .whole) s, 0, [])
    else (s, 5, []))

end Sys2Proof.Machine
end

