-- ==== Sys2Proof/Machine/Dispatch.lean ====
section
/-! DEFINITION. The meaning of each command, one arm per constructor of `Instr`. -/

namespace Sys2Proof.Machine

def exec (i : Instr) (s : State) : Host.Outcome State Fault Refusal :=
  match i with
  | .registerWrite tgt size val => Sys2Proof.Machine.execRegisterWrite tgt size val s
  | .cxlMemRead addr req => Sys2Proof.Machine.execCxlMemRead addr req s
  | .cxlMemWrite addr req => Sys2Proof.Machine.execCxlMemWrite addr req s
  | .sqTail ld slot val => Sys2Proof.Machine.execSqTail ld slot val s
  | .cqHead ld slot val => Sys2Proof.Machine.execCqHead ld slot val s
  | .submissionRead q => Sys2Proof.Machine.execSubmissionRead q s
  | .tick waitShare => Sys2Proof.Machine.execTick waitShare s
  | .headland waitShare => Sys2Proof.Machine.execHeadland waitShare s
  | .furNumSet val => Sys2Proof.Machine.execFurNumSet val s
  | .furrowSyncPulse offset wide => Sys2Proof.Machine.execFurrowSyncPulse offset wide s
  | .tickRefLost lost => Sys2Proof.Machine.execTickRefLost lost s
  | .pcieRefLost => Sys2Proof.Machine.execPcieRefLost s
  | .raileRefLost die => Sys2Proof.Machine.execRaileRefLost die s
  | .admissionPass => Sys2Proof.Machine.execAdmissionPass s
  | .tileStart a t => Sys2Proof.Machine.execTileStart a t s
  | .stepIssue a t lost => Sys2Proof.Machine.execStepIssue a t lost s
  | .heldSwap a row t => Sys2Proof.Machine.execHeldSwap a row t s
  | .chunkUpdate a row => Sys2Proof.Machine.execChunkUpdate a row s
  | .drain a t => Sys2Proof.Machine.execDrain a t s
  | .outputRow a t => Sys2Proof.Machine.execOutputRow a t s
  | .outputRowWrite a => Sys2Proof.Machine.execOutputRowWrite a s
  | .preambleEnd a => Sys2Proof.Machine.execPreambleEnd a s
  | .bankPowerDown a b t => Sys2Proof.Machine.execBankPowerDown a b t s
  | .bankWakeDone a b => Sys2Proof.Machine.execBankWakeDone a b s
  | .lateWake a addr bytes => Sys2Proof.Machine.execLateWake a addr bytes s
  | .acquire a r => Sys2Proof.Machine.execAcquire a r s
  | .publish a r => Sys2Proof.Machine.execPublish a r s
  | .wait a r n => Sys2Proof.Machine.execWait a r n s
  | .release a r => Sys2Proof.Machine.execRelease a r s
  | .nop a v => Sys2Proof.Machine.execNop a v s
  | .add a v => Sys2Proof.Machine.execAdd a v s
  | .sub a v => Sys2Proof.Machine.execSub a v s
  | .mul a v => Sys2Proof.Machine.execMul a v s
  | .fma a v => Sys2Proof.Machine.execFma a v s
  | .max a v => Sys2Proof.Machine.execMax a v s
  | .min a v => Sys2Proof.Machine.execMin a v s
  | .maxnum a v => Sys2Proof.Machine.execMaxnum a v s
  | .minnum a v => Sys2Proof.Machine.execMinnum a v s
  | .cmp a v => Sys2Proof.Machine.execCmp a v s
  | .sel a v => Sys2Proof.Machine.execSel a v s
  | .sign a v => Sys2Proof.Machine.execSign a v s
  | .cvt a v => Sys2Proof.Machine.execCvt a v s
  | .logic a v => Sys2Proof.Machine.execLogic a v s
  | .exp2 a v => Sys2Proof.Machine.execExp2 a v s
  | .log2 a v => Sys2Proof.Machine.execLog2 a v s
  | .rcp a v => Sys2Proof.Machine.execRcp a v s
  | .rsqrt a v => Sys2Proof.Machine.execRsqrt a v s
  | .sigm a v => Sys2Proof.Machine.execSigm a v s
  | .tanh a v => Sys2Proof.Machine.execTanh a v s
  | .expd a v => Sys2Proof.Machine.execExpd a v s
  | .rope a v => Sys2Proof.Machine.execRope a v s
  | .quant a v => Sys2Proof.Machine.execQuant a v s
  | .red a v => Sys2Proof.Machine.execRed a v s
  | .topk a v => Sys2Proof.Machine.execTopk a v s
  | .psum a v => Sys2Proof.Machine.execPsum a v s
  | .expsort a v => Sys2Proof.Machine.execExpsort a v s
  | .ld a v => Sys2Proof.Machine.execLd a v s
  | .st a v => Sys2Proof.Machine.execSt a v s
  | .cld a v => Sys2Proof.Machine.execCld a v s
  | .cacheFill a => Sys2Proof.Machine.execCacheFill a s
  | .rstat a v => Sys2Proof.Machine.execRstat a v s
  | .mpos a v => Sys2Proof.Machine.execMpos a v s
  | .mcmd a v => Sys2Proof.Machine.execMcmd a v s
  | .barinc a v => Sys2Proof.Machine.execBarinc a v s
  | .mgenLoad slot => Sys2Proof.Machine.execMgenLoad slot s
  | .read fe slot => Sys2Proof.Machine.execRead fe slot s
  | .write fe slot => Sys2Proof.Machine.execWrite fe slot s
  | .burst fe slot env => Sys2Proof.Machine.execBurst fe slot env s
  | .faultResume fe slot => Sys2Proof.Machine.execFaultResume fe slot s
  | .descriptorComplete fe slot => Sys2Proof.Machine.execDescriptorComplete fe slot s
  | .workItemComplete item => Sys2Proof.Machine.execWorkItemComplete item s
  | .roleMsg m => Sys2Proof.Machine.execRoleMsg m s
  | .roleAck msgId => Sys2Proof.Machine.execRoleAck msgId s
  | .staleRole msgId role epoch => Sys2Proof.Machine.execStaleRole msgId role epoch s
  | .chunkCommit i0 => Sys2Proof.Machine.execChunkCommit i0 s
  | .roundSample round => Sys2Proof.Machine.execRoundSample round s
  | .roundCommit round => Sys2Proof.Machine.execRoundCommit round s
  | .stallLimit i0 => Sys2Proof.Machine.execStallLimit i0 s
  | .queryDevice m p => Sys2Proof.Machine.execQueryDevice m p s
  | .createQp m p => Sys2Proof.Machine.execCreateQp m p s
  | .deleteQp m p => Sys2Proof.Machine.execDeleteQp m p s
  | .cancel m p => Sys2Proof.Machine.execCancel m p s
  | .queryRequest m p => Sys2Proof.Machine.execQueryRequest m p s
  | .exportBundle m p => Sys2Proof.Machine.execExportBundle m p s
  | .park m p => Sys2Proof.Machine.execPark m p s
  | .lift m p => Sys2Proof.Machine.execLift m p s
  | .releaseRequest m p => Sys2Proof.Machine.execReleaseRequest m p s
  | .ldStatus m p => Sys2Proof.Machine.execLdStatus m p s
  | .resetSelf m p => Sys2Proof.Machine.execResetSelf m p s
  | .provisionKey m p session => Sys2Proof.Machine.execProvisionKey m p session s
  | .setWindow m p => Sys2Proof.Machine.execSetWindow m p s
  | .loadImage m p src => Sys2Proof.Machine.execLoadImage m p src s
  | .unloadImage m p => Sys2Proof.Machine.execUnloadImage m p s
  | .loadAdapter m p src => Sys2Proof.Machine.execLoadAdapter m p src s
  | .retireAdapter m p => Sys2Proof.Machine.execRetireAdapter m p s
  | .loadLp m p src => Sys2Proof.Machine.execLoadLp m p src s
  | .unloadLp m p => Sys2Proof.Machine.execUnloadLp m p s
  | .setRole m p => Sys2Proof.Machine.execSetRole m p s
  | .setCap m p => Sys2Proof.Machine.execSetCap m p s
  | .resetTenant m p => Sys2Proof.Machine.execResetTenant m p s
  | .startRecovery m p => Sys2Proof.Machine.execStartRecovery m p s
  | .restart m p => Sys2Proof.Machine.execRestart m p s
  | .getLog m p => Sys2Proof.Machine.execGetLog m p s
  | .setSldSpan m p => Sys2Proof.Machine.execSetSldSpan m p s
  | .readReg m p => Sys2Proof.Machine.execReadReg m p s
  | .writeReg m p => Sys2Proof.Machine.execWriteReg m p s
  | .backgroundCommandComplete m => Sys2Proof.Machine.execBackgroundCommandComplete m s
  | .identifyMemoryDevice m => Sys2Proof.Machine.execIdentifyMemoryDevice m s
  | .getEventRecords m => Sys2Proof.Machine.execGetEventRecords m s
  | .clearEventRecords m upTo => Sys2Proof.Machine.execClearEventRecords m upTo s
  | .getEventInterruptPolicy m => Sys2Proof.Machine.execGetEventInterruptPolicy m s
  | .setEventInterruptPolicy m policy => Sys2Proof.Machine.execSetEventInterruptPolicy m policy s
  | .getSupportedLogs m => Sys2Proof.Machine.execGetSupportedLogs m s
  | .getCxlLog m => Sys2Proof.Machine.execGetCxlLog m s
  | .getHealthInfo m => Sys2Proof.Machine.execGetHealthInfo m s
  | .getTimestamp m => Sys2Proof.Machine.execGetTimestamp m s
  | .setTimestamp m ns => Sys2Proof.Machine.execSetTimestamp m ns s
  | .getFwInfo m => Sys2Proof.Machine.execGetFwInfo m s
  | .transferFw m action offset data slot => Sys2Proof.Machine.execTransferFw m action offset data slot s
  | .activateFw m action => Sys2Proof.Machine.execActivateFw m action s
  | .getLdInfo m => Sys2Proof.Machine.execGetLdInfo m s
  | .getLdAllocations m => Sys2Proof.Machine.execGetLdAllocations m s
  | .setLdAllocations m start units => Sys2Proof.Machine.execSetLdAllocations m start units s
  | .hdmDecoderCommit ld dec ways base size => Sys2Proof.Machine.execHdmDecoderCommit ld dec ways base size s
  | .completionVector q => Sys2Proof.Machine.execCompletionVector q s
  | .coalTimer q => Sys2Proof.Machine.execCoalTimer q s
  | .qcfgWrite q val => Sys2Proof.Machine.execQcfgWrite q val s
  | .ldRqtWrite ld val => Sys2Proof.Machine.execLdRqtWrite ld val s
  | .ldPoolLimitWrite ld val => Sys2Proof.Machine.execLdPoolLimitWrite ld val s
  | .spdmRequest port req => Sys2Proof.Machine.execSpdmRequest port req s
  | .ideKm session keys => Sys2Proof.Machine.execIdeKm session keys s
  | .ideFail => Sys2Proof.Machine.execIdeFail s
  | .tableAccess m => Sys2Proof.Machine.execTableAccess m s
  | .doeDiscovery m => Sys2Proof.Machine.execDoeDiscovery m s
  | .entdaa addr => Sys2Proof.Machine.execEntdaa addr s
  | .mctpControl cmd => Sys2Proof.Machine.execMctpControl cmd s
  | .pldmRequest sensor => Sys2Proof.Machine.execPldmRequest sensor s
  | .inBandInterrupt cause => Sys2Proof.Machine.execInBandInterrupt cause s
  | .bundleWritten i0 => Sys2Proof.Machine.execBundleWritten i0 s
  | .bundleWriteFailed i0 => Sys2Proof.Machine.execBundleWriteFailed i0 s
  | .liftHeaderRead i0 h => Sys2Proof.Machine.execLiftHeaderRead i0 h s
  | .liftBlockRead i0 b => Sys2Proof.Machine.execLiftBlockRead i0 b s
  | .liftResowBooking i0 => Sys2Proof.Machine.execLiftResowBooking i0 s
  | .journalBatchDone error => Sys2Proof.Machine.execJournalBatchDone error s
  | .jrnlTailWrite val => Sys2Proof.Machine.execJrnlTailWrite val s
  | .recoverLd ld batches => Sys2Proof.Machine.execRecoverLd ld batches s
  | .portEnable p => Sys2Proof.Machine.execPortEnable p s
  | .portDisable p => Sys2Proof.Machine.execPortDisable p s
  | .partnerDetected p => Sys2Proof.Machine.execPartnerDetected p s
  | .lanesLocked p lanes => Sys2Proof.Machine.execLanesLocked p lanes s
  | .equaliseTimeout p lanes => Sys2Proof.Machine.execEqualiseTimeout p lanes s
  | .alignDone p => Sys2Proof.Machine.execAlignDone p s
  | .paramExchanged p node bootId => Sys2Proof.Machine.execParamExchanged p node bootId s
  | .retrain p cause => Sys2Proof.Machine.execRetrain p cause s
  | .laneRetire p lane cause => Sys2Proof.Machine.execLaneRetire p lane cause s
  | .frameReceived p f => Sys2Proof.Machine.execFrameReceived p f s
  | .frameResendTimeout p => Sys2Proof.Machine.execFrameResendTimeout p s
  | .ackReport p => Sys2Proof.Machine.execAckReport p s
  | .routeWrite idx val => Sys2Proof.Machine.execRouteWrite idx val s
  | .regionWrite i0 reg val => Sys2Proof.Machine.execRegionWrite i0 reg val s
  | .hello h => Sys2Proof.Machine.execHello h s
  | .helloAck h => Sys2Proof.Machine.execHelloAck h s
  | .helloRetry n => Sys2Proof.Machine.execHelloRetry n s
  | .bye n b => Sys2Proof.Machine.execBye n b s
  | .keepalive n m => Sys2Proof.Machine.execKeepalive n m s
  | .peerSuspect n => Sys2Proof.Machine.execPeerSuspect n s
  | .peerDown n => Sys2Proof.Machine.execPeerDown n s
  | .flowOpen m => Sys2Proof.Machine.execFlowOpen m s
  | .flowAccept m => Sys2Proof.Machine.execFlowAccept m s
  | .flowRefuse m => Sys2Proof.Machine.execFlowRefuse m s
  | .writePacket k => Sys2Proof.Machine.execWritePacket k s
  | .readReq k => Sys2Proof.Machine.execReadReq k s
  | .readResp k => Sys2Proof.Machine.execReadResp k s
  | .atomicReq k => Sys2Proof.Machine.execAtomicReq k s
  | .atomicResp k => Sys2Proof.Machine.execAtomicResp k s
  | .ack k cumPsn credits => Sys2Proof.Machine.execAck k cumPsn credits s
  | .nack k nackPsn code => Sys2Proof.Machine.execNack k nackPsn code s
  | .retransmitTimeout n ctx flow => Sys2Proof.Machine.execRetransmitTimeout n ctx flow s
  | .notify m => Sys2Proof.Machine.execNotify m s
  | .sync n furrow inWindow txTime rxTime => Sys2Proof.Machine.execSync n furrow inWindow txTime rxTime s
  | .syncJoin n => Sys2Proof.Machine.execSyncJoin n s
  | .delayReq n rxTime txTime => Sys2Proof.Machine.execDelayReq n rxTime txTime s
  | .delayResp n t1 t2 t3 t4 => Sys2Proof.Machine.execDelayResp n t1 t2 t3 t4 s
  | .bookQuery n job gangW gangs first last => Sys2Proof.Machine.execBookQuery n job gangW gangs first last s
  | .bookReply n job free => Sys2Proof.Machine.execBookReply n job free s
  | .bookCommit n job i0 chain => Sys2Proof.Machine.execBookCommit n job i0 chain s
  | .bookAck n job ok => Sys2Proof.Machine.execBookAck n job ok s
  | .powerStatus n shard capW lendMax waitShare => Sys2Proof.Machine.execPowerStatus n shard capW lendMax waitShare s
  | .powerGrant lender borrower watts window => Sys2Proof.Machine.execPowerGrant lender borrower watts window s
  | .parityError st => Sys2Proof.Machine.execParityError st s
  | .scrubRead line ecc => Sys2Proof.Machine.execScrubRead line ecc s
  | .watchdog c => Sys2Proof.Machine.execWatchdog c s
  | .arrayReset a ownError => Sys2Proof.Machine.execArrayReset a ownError s
  | .arrayTestDone a pass => Sys2Proof.Machine.execArrayTestDone a pass s
  | .fenDieReset die => Sys2Proof.Machine.execFenDieReset die s
  | .deviceHalt source code => Sys2Proof.Machine.execDeviceHalt source code s
  | .pcRetire pc => Sys2Proof.Machine.execPcRetire pc s
  | .redirectCopyDone slot => Sys2Proof.Machine.execRedirectCopyDone slot s
  | .fltInject val => Sys2Proof.Machine.execFltInject val s
  | .telemetrySample rails => Sys2Proof.Machine.execTelemetrySample rails s
  | .capLoop withheld => Sys2Proof.Machine.execCapLoop withheld s
  | .energyInterval act => Sys2Proof.Machine.execEnergyInterval act s
  | .avsTrim lower => Sys2Proof.Machine.execAvsTrim lower s
  | .currentLimit => Sys2Proof.Machine.execCurrentLimit s
  | .droopDetect => Sys2Proof.Machine.execDroopDetect s
  | .droopEnd extraPeriods => Sys2Proof.Machine.execDroopEnd extraPeriods s
  | .brownoutWarn => Sys2Proof.Machine.execBrownoutWarn s
  | .brownoutClear => Sys2Proof.Machine.execBrownoutClear s
  | .supplyReset => Sys2Proof.Machine.execSupplyReset s
  | .sensorRead temps => Sys2Proof.Machine.execSensorRead temps s
  | .flowFail low => Sys2Proof.Machine.execFlowFail low s
  | .opRaisePrepare => Sys2Proof.Machine.execOpRaisePrepare s
  | .pwrCfgWrite val => Sys2Proof.Machine.execPwrCfgWrite val s
  | .commit => Sys2Proof.Machine.execCommit s
  | .commitDone => Sys2Proof.Machine.execCommitDone s
  | .revoke mask => Sys2Proof.Machine.execRevoke mask s
  | .fenceReq => Sys2Proof.Machine.execFenceReq s
  | .fenceDone => Sys2Proof.Machine.execFenceDone s
  | .secKeyClear mask => Sys2Proof.Machine.execSecKeyClear mask s
  | .domainKeyLock => Sys2Proof.Machine.execDomainKeyLock s
  | .bypass => Sys2Proof.Machine.execBypass s
  | .idcode => Sys2Proof.Machine.execIdcode s
  | .samplePreload => Sys2Proof.Machine.execSamplePreload s
  | .extest => Sys2Proof.Machine.execExtest s
  | .clamp => Sys2Proof.Machine.execClamp s
  | .highz => Sys2Proof.Machine.execHighz s
  | .ikbChal => Sys2Proof.Machine.execIkbChal s
  | .ikbUnlock bits signed rest => Sys2Proof.Machine.execIkbUnlock bits signed rest s
  | .dapAccess => Sys2Proof.Machine.execDapAccess s
  | .pwrgoodRise boot => Sys2Proof.Machine.execPwrgoodRise boot s
  | .pwrgoodFall => Sys2Proof.Machine.execPwrgoodFall s
  | .perstAssert => Sys2Proof.Machine.execPerstAssert s
  | .perstDeassert mldEn rsvStrap partner boot => Sys2Proof.Machine.execPerstDeassert mldEn rsvStrap partner boot s
  | .bootRomStart => Sys2Proof.Machine.execBootRomStart s
  | .powerUpBistDone findings => Sys2Proof.Machine.execPowerUpBistDone findings s
  | .bistSelfRestart => Sys2Proof.Machine.execBistSelfRestart s
  | .go val => Sys2Proof.Machine.execGo val s
  | .bistTestDone res => Sys2Proof.Machine.execBistTestDone res s
  | .flowWaitEnd => Sys2Proof.Machine.execFlowWaitEnd s
  | .currentLimitRise => Sys2Proof.Machine.execCurrentLimitRise s
  | .stacksLeaveSelfRefresh die => Sys2Proof.Machine.execStacksLeaveSelfRefresh die s

end Sys2Proof.Machine
end

