-- ==== Sys2Proof/Machine/Step.lean ====
section
/-! DEFINITION. One step of the block: the command at the front of the queue, or a period of TICK_REF on an empty
queue. -/

namespace Sys2Proof.Machine

/-- One step (notes/assumptions/1.md): the command at the front runs on the state with the queue's rest; on an empty
queue one period of TICK_REF passes (notes/assumptions/2.md). -/
def step (s : State) : Host.Outcome State Fault Refusal :=
  match s.pending with
  | [] => .next (idle s)
  | c :: r => exec c { s with pending := r }

/-- No row of the opcode table has bits, so no word spells a command and the queue is left as it is. -/
def State.withFetchWord (s : State) (_nbits _w : Nat) : State := s

end Sys2Proof.Machine
end

