-- ==== Sys2Proof/Safety.lean ====
section
/-! DEFINITION. What every step keeps: the canonical forms of the sparse parts of the state (HBM, the register file, owner
tags, the request table), the queue of waiting commands, and the fuses, which only gain blown bits. -/

namespace Sys2Proof.Machine

/-- Keys of an association list strictly rise, so each key has at most one entry. -/
def keysRise {α : Type} : List (Nat × α) → Bool
  | [] => true
  | [_] => true
  | p :: q :: r => decide (p.1 < q.1) && keysRise (q :: r)

/-- The canonical forms: no byte of HBM listed twice or listed with the value of an unlisted byte, no register listed
twice or at its reset value, one owner tag per frame (R32), one entry per index of the request table (R233), and a part
that shipped with some array (R4). -/
structure Inv (s : State) : Prop where
  mem  : memWf s.mem = true
  regs : regsWf s.regs = true
  tags : keysRise s.tags = true
  rqt  : keysRise s.rqt = true
  part : s.fuses.arrays ≠ 0

/-- Fuses after some steps: nothing but SVN_FUSE and KEY_REVOKE differs, and no blown bit of these is lost (R425, R431,
R432). -/
structure FusesGrow (f g : Fuses) : Prop where
  same   : g = { f with svn := g.svn, keyRevoke := g.keyRevoke }
  svn    : f.svn ≤ g.svn
  revoke : f.keyRevoke &&& g.keyRevoke = f.keyRevoke

/-- What the meaning of a command keeps. -/
structure Keeps (s t : State) : Prop where
  inv   : Inv s → Inv t
  queue : t.pending = s.pending
  fuses : FusesGrow s.fuses t.fuses

end Sys2Proof.Machine
end

