-- ==== Sys2Proof/Certificates/Slice0/Obligations.lean ====
section
/-! DEFINITION. Statements about the block for the provers, one definition each, in the order of OBLIGATIONS.json; before
them the frames that several statements share. -/

open Sys2Proof Sys2Proof.Machine

namespace Sys2Proof.Machine

/-! ### Frames -/

/-- Every array but `a` is as it was. -/
def arrsBut (a : ArrId) (s n : State) : Prop := ∀ b, b ≠ a → arr n b = arr s b

/-- Every stored register but the listed ones is as it was. -/
def regsBut (os : List Nat) (s n : State) : Prop := ∀ o, o ∉ os → regGet n o = regGet s o

/-- A counter register has risen by `k`, modulo two to the 64 (R494). -/
def rises (o k : Nat) (s n : State) : Prop := regGet n o = (regGet s o + k) % 2 ^ 64

/-- Every byte of HBM outside `[p, p + k)` reads as before. -/
def memBut (p k : Nat) (s n : State) : Prop := ∀ x, (x < p ∨ p + k ≤ x) → cellRead x n.mem = cellRead x s.mem

/-- Of the fault unit at most the list of structures that hold a corrupted write is longer, where an armed error injection took this
one (R394). -/
def mayCorrupt (s n : State) : Prop :=
  n.faults = { s.faults with corrupt := n.faults.corrupt } ∧ s.faults.corrupt <+: n.faults.corrupt

/-- Whether the next held load of the gang led by `a` begins: it is due, and no ring stalls a port that serves the gang (R77, R97,
R143). -/
def loadBegins (w : ItemRun) (a : ArrId) (s : State) : Bool :=
  match (arr s a).cur with
  | some c => loadDue (arr s a) c && !(holdSources w c.desc).any (fun b => unitStalled (arr s b) 1)
  | none => false

/-- What the issue of a vector instruction that writes the registers `wr` may change (R163, R164, R188): those registers,
the place and clock of the array's stream, after whose last instruction the engine is IDLE, its slots' epochs, the counters of
R188, an armed error injection, the registers `more`, and the sticky bits of work items. -/
def vectorFrameBut (more : List Nat) (a : ArrId) (wr : List (Fin 32)) (s n : State) : Prop :=
  n = { s with arrays := n.arrays, regs := n.regs, items := n.items, faults := n.faults, freeCtr := n.freeCtr } ∧ arrsBut a s n
  ∧ mayCorrupt s n
  ∧ arr n a = { arr s a with
      vregs := (arr n a).vregs, vpos := (arr s a).vpos + 1, veClk := (arr n a).veClk, slots := (arr n a).slots
      ve := if (arr s a).vpos + 1 = (arr s a).vlen then .idle else (arr s a).ve }
  ∧ (∀ r, r ∉ wr → vget (arr n a) r = vget (arr s a) r)
  ∧ rises (veReg a.val 0x08) 1 s n
  ∧ regsBut ([veReg a.val 0x08, veReg a.val 0x10, veReg a.val 0x28, veReg a.val 0x30, veReg a.val 0x38, veReg a.val 0x40,
      fltReg 0x080] ++ more) s n
  ∧ (∀ id, some id ≠ (arr s a).item → itemOf n id = itemOf s id)
  ∧ ∀ id, (itemOf n id).map (fun w => { w with sticky := 0 }) = (itemOf s id).map (fun w => { w with sticky := 0 })

/-- The same for an instruction that no access holds. -/
def vectorFrame (a : ArrId) (wr : List (Fin 32)) (s n : State) : Prop := vectorFrameBut [] a wr s n

/-- The clocks that an access loses to arbitration, each with the accesses that lost in it beyond one, count in VE_SP_STALL and
SP_CONFLICT (R131, R165). -/
def lostClocks (a : ArrId) (lost : List (Fin 32)) (s n : State) : Prop :=
  rises (veReg a.val 0x18) lost.length s n ∧ rises (spReg a.val 0x20) (sumN (lost.map (fun k => k.val + 1))) s n

/-- A form that the manual does not permit is a schedule fault of the array's work item: one is counted in FUR_SCHED_FAULT, and no
lane of any register changes (R44, R209). -/
def formFaults (c : Instr) (s : State) : Prop :=
  ∃ n, exec c s = .next n ∧ rises (furReg 0x040) 1 s n ∧ n.mem = s.mem ∧ ∀ b, (arr n b).vregs = (arr s b).vregs

/-- The tests of admission that a QUEUED entry under an agreed chain must pass: pool space, its deadline, and a tail (R216, R243,
R263). -/
def chainServes (s : State) (i : Nat) (chain : List LaneFurrow) : Prop :=
  let e := entryOf s i
  let q := ((chain.getLast?).map (·.furrow + 1)).getD (curFurrow s)
  let r := poolEvict (s.nodes.length + 1) s e.ld (poolNeed s i e)
  r.2 = true ∧ quoteServes r.1 i q = true
    ∧ ∃ s2 tq, bookTail (setWork r.1 i { workOf r.1 i with chain := chain }) i e q q = .ok (s2, tq)

/-- An entry has been admitted under a plan, a chain and its chunks (R235). -/
def admittedUnder (n : State) (i plan : Nat) (chunks : List Nat) (chain : List LaneFurrow) : Prop :=
  (entryOf n i).state = .admitted ∧ (entryOf n i).plan = plan
    ∧ (entryOf n i).quote = ((chain.getLast?).map (·.furrow + 1)).getD (curFurrow n)
    ∧ (workOf n i).chain = chain ∧ (workOf n i).chunkLens = chunks

/-- An entry has failed because data that it consumed was poisoned (R379, R380). -/
def poisoned0203 (n : State) (i : Nat) : Prop :=
  ((entryOf n i).state = .failedPartial ∨ (entryOf n i).state = .failed) ∧ (entryOf n i).status = 0x0203

/-- The relations of CMP on how two values compare (R169): LT, LE, EQ, NE. -/
def orderHolds (k : Nat) (o : Ordering) : Bool :=
  match k with
  | 0 => o == .lt
  | 1 => o != .gt
  | 2 => o == .eq
  | _ => o != .eq

/-- A vector instruction issues and writes `VD` lane by lane with `f` of its three sources' lanes. -/
def laneResult (c : Instr) (a : ArrId) (v : VInstr) (s : State) (f : Lane32 → Lane32 → Lane32 → Lane32) : Prop :=
  ∃ n, exec c s = .next n ∧ vectorFrame a [v.vd] s n
    ∧ ∀ i, i < 512 → lane (vget (arr n a) v.vd) i
        = f (lane (vget (arr s a) v.va) i) (lane (srcB (arr s a) v) i) (lane (vget (arr s a) v.vc) i)

end Sys2Proof.Machine

/-- One step on a queue that is not empty is `exec` of the command in front, on the state whose queue is the rest
(notes/assumptions/1.md). -/
def Obligations.StepRunsFrontCommand : Prop :=
  ∀ (s : State) (c : Instr) (r : List Instr), s.pending = c :: r → step s = exec c { s with pending := r }

/-- On an empty queue a period of TICK_REF passes: RQT_TIME rises by one from device reset on while a reference is present
(R234; that an empty queue is a period is the model's choice, notes/assumptions/2.md), and nothing else changes. Before the
reset nothing changes at all. -/
def Obligations.IdlePeriodCountsTime : Prop :=
  ∀ s : State, s.pending = [] →
    (s.pins.pwrgood = true → s.pins.perstN = true → (s.tick.tickRef = true ∨ s.tick.pcieRef = true) →
      step s = .next { s with tick := { s.tick with rqtTime := s.tick.rqtTime + 1 } })
    ∧ ((s.pins.pwrgood = false ∨ s.pins.perstN = false) → step s = .next s)

/-- Every command completes in every state: it answers a next state, in which the queue is that of before (the step alone
removes the command in front), and the fuses are as they were but for SVN_FUSE and KEY_REVOKE, of which no blown bit is
lost. -/
def Obligations.EveryCommandCompletes : Prop :=
  ∀ (c : Instr) (s : State), ∃ n, exec c s = .next n ∧ n.pending = s.pending ∧ FusesGrow s.fuses n.fuses

/-- The invariant `Inv` (the canonical forms of HBM, the register file, the owner tags and the request table, and a part
that shipped with some array) is kept by every step, from every state that meets it. -/
def Obligations.StepKeepsInv : Prop :=
  ∀ s n : State, Inv s → step s = .next n → Inv n

/-- The state after reset meets `Inv`, with an empty queue: no work, no entries, every port DISABLED, the lengths of R192 at
their defaults with SYNC_MODE FREE, the window pair of R195, and an owner cap of 1,400 W. -/
def Obligations.ResetMeetsInv : Prop :=
  let r := State.reset
  Inv r ∧ r.pending = [] ∧ r.mem = [] ∧ r.rqt = [] ∧ r.items = [] ∧ r.nodes = [] ∧ r.peers = [] ∧ r.flows = []
  ∧ (∀ p : PortId, (port r p).st = .disabled) ∧ (∀ a : ArrId, (arr r a).item = none) ∧ (∀ q : Fin 128, (que r q).pair = false)
  ∧ r.tick.lenM1 + 1 = 4 ∧ r.tick.windowM1 + 1 = 64 ∧ r.tick.syncMode = 0 ∧ r.tick.started = false
  ∧ r.power.wop = 3 ∧ r.power.wsluice = 8 ∧ r.power.ownerW = 1400 ∧ r.fw.running = false ∧ r.pins.pwrgood = false

/-- The four accesses of a ring, each with the frame that nothing but that ring changes, but for the clock of the vector engine's
stream when it is the unit that waits. ACQUIRE claims a position of a ring that is not full; on a full ring it leaves the
producer stalled in clock `t`, and the clocks of a stall count in RING_PSTALL: the clock in which it is met, and the clocks
since the one counted last when it is met again or has ended. PUBLISH gives the claimed position up: it is published, tail rising
by one, when no earlier position waits and no write into its slot is pending, and waits for its writes otherwise. WAIT succeeds
once position head + n is published, and leaves the consumer stalled otherwise, its clocks counting in RING_CSTALL. RELEASE
raises head by one while a position is published. On a ring that the work item has not set up the four change nothing. -/
def Obligations.RingPositions : Prop :=
  ∀ (a : ArrId) (q : Fin 6) (s : State),
    let u := arr s a
    let g := u.rings[q]
    let changed (n : State) (unit k o : Nat) (g' : Ring) : Prop :=
      n = { s with arrays := n.arrays, regs := n.regs } ∧ arrsBut a s n
      ∧ arr n a = { u with rings := u.rings.set q g', veClk := if unit = 3 then u.veClk + k else u.veClk }
      ∧ rises (ringReg a.val q.val o) k s n ∧ regsBut [ringReg a.val q.val o] s n
    (g.enable = true →
      (∀ (unit : Fin 4) (t : Clk), g.tail + g.filledUp - g.head < g.slots →
        ∃ n, exec (.acquire a ⟨q, unit, t⟩) s = .next n
          ∧ changed n unit.val (match g.waitP with
              | none => 0
              | some w => t - w.2 - 1) 0x10 { g with claimed := true, waitP := none })
      ∧ (∀ (unit : Fin 4) (t : Clk), g.slots ≤ g.tail + g.filledUp - g.head →
        ∃ n, exec (.acquire a ⟨q, unit, t⟩) s = .next n
          ∧ changed n unit.val (match g.waitP with
              | none => 1
              | some w => t - w.2) 0x10 { g with waitP := some (unit.val, t) })
      ∧ (g.claimed = true → ∃ k m, exec (.publish a q) s
            = .next (setArr s a { u with rings := u.rings.set q { g with
                tail := k, filledUp := m, claimed := false, filled := if q.val < 4 then 0 else g.filled } })
          ∧ k + m = g.tail + g.filledUp + 1 ∧ g.tail ≤ k
          ∧ (g.filledUp = 0 → writePending u (ringSlotAddr g g.tail) g.slotSize = false → k = g.tail + 1)
          ∧ (writePending u (ringSlotAddr g g.tail) g.slotSize = true → k = g.tail))
      ∧ (∀ (i : Fin 16) (unit : Fin 4) (t : Clk), g.head + i.val < g.tail →
        ∃ n, exec (.wait a ⟨q, unit, t⟩ i) s = .next n
          ∧ changed n unit.val (match g.waitC with
              | none => 0
              | some w => t - w.2.2 - 1) 0x18 { g with waitC := none })
      ∧ (∀ (i : Fin 16) (unit : Fin 4) (t : Clk), g.tail ≤ g.head + i.val →
        ∃ n, exec (.wait a ⟨q, unit, t⟩ i) s = .next n
          ∧ changed n unit.val (match g.waitC with
              | none => 1
              | some w => t - w.2.2) 0x18 { g with waitC := some (i.val, unit.val, t) })
      ∧ (g.head < g.tail →
        exec (.release a q) s = .next (setArr s a { u with rings := u.rings.set q { g with head := g.head + 1 } })))
    ∧ (g.enable = false → ∀ (i : Fin 16) (unit : Fin 4) (t : Clk), exec (.acquire a ⟨q, unit, t⟩) s = .next s
        ∧ exec (.publish a q) s = .next s ∧ exec (.wait a ⟨q, unit, t⟩ i) s = .next s ∧ exec (.release a q) s = .next s)

/-- Power of the scratchpad's banks. BANK_POWER_DOWN takes a bank whose power-down was requested to SLEEP when no write into it
is pending, and at 256 clk in any case, which counts one in SP_PD_TIMEOUT where writes are pending; before that the bank stays
as it was. BANK_WAKE_DONE turns a waking bank ON and performs the writes that waited for it, in their order, every other byte of
the scratchpad reading as before; a bank that sleeps with writes pending is woken by them too, which counts one in
SP_LATE_WAKE. LATE_WAKE takes a write that meets a bank in SLEEP byte by byte (`spadPut`), each bank it wakes counting one in
SP_LATE_WAKE; one byte for a bank in SLEEP leaves that bank waking with the byte pending, and every byte of the scratchpad as it
was. PREAMBLE_END ends the preamble: the booked banks that wake are ON with their writes performed, bank by bank in their order, and the bursts that waited
at the inbound port are delivered to their rings in their order. -/
def Obligations.ScratchpadBanks : Prop :=
  (
  ∀ (a : ArrId) (b : Fin 32) (s : State),
    let u := arr s a
    let k := u.banks[b]
    let woken (n : State) : Prop := n = { s with arrays := n.arrays, regs := n.regs } ∧ arrsBut a s n
      ∧ arr n a = { u with spad := (arr n a).spad, rings := (arr n a).rings, banks := u.banks.set b { k with power := .on, pending := [] } }
      ∧ (b.val < u.swBanks →
          (arr n a).spad = k.pending.foldl (fun m p => cellWrite (bankAddr u b.val p.1) p.2 m) u.spad)
      ∧ (u.swBanks ≤ b.val → (arr n a).spad = u.spad)
      ∧ (memWf u.spad = true → ∀ x, (∀ p ∈ k.pending, bankAddr u b.val p.1 ≠ x) → cellRead x (arr n a).spad = cellRead x u.spad)
      ∧ ∀ q : Fin 6, ((arr n a).rings[q]).head = (u.rings[q]).head
          ∧ ((arr n a).rings[q]).tail + ((arr n a).rings[q]).filledUp = (u.rings[q]).tail + (u.rings[q]).filledUp
    (∀ t : Clk, k.pdReq = true → (k.power = .on ∨ k.power = .waking) →
      ((k.pending = [] ∨ 256 ≤ t) →
        ∃ n, exec (.bankPowerDown a b t) s = .next n ∧ n = { s with arrays := n.arrays, regs := n.regs } ∧ arrsBut a s n
          ∧ arr n a = { u with banks := u.banks.set b { k with power := .sleep, pdReq := false } }
          ∧ rises (spReg a.val 0x18) (if k.pending = [] then 0 else 1) s n ∧ regsBut [spReg a.val 0x18] s n)
      ∧ (k.pending ≠ [] → t < 256 → exec (.bankPowerDown a b t) s = .next s))
    ∧ (k.power = .waking → ∃ n, exec (.bankWakeDone a b) s = .next n ∧ woken n ∧ n.regs = s.regs)
    ∧ (k.power = .sleep → k.pending ≠ [] → ∃ n, exec (.bankWakeDone a b) s = .next n ∧ woken n
        ∧ rises (spReg a.val 0x10) 1 s n ∧ regsBut [spReg a.val 0x10] s n))
  ∧ (
  ∀ (a : ArrId) (x : Nat) (ds : List Byte) (s : State),
    let u := arr s a
    let b := bankOf u x
    let k := u.banks[b]
    meetsSleep u x ds.length = true → x + ds.length ≤ swBytes u →
      ∃ n, exec (.lateWake a x ds) s = .next n ∧ n = { s with arrays := n.arrays, regs := n.regs, faults := n.faults }
        ∧ arrsBut a s n ∧ mayCorrupt s n
        ∧ arr n a = (spadPut (u, 0) x ds).1 ∧ rises (spReg a.val 0x10) (spadPut (u, 0) x ds).2 s n
        ∧ regsBut [spReg a.val 0x10, fltReg 0x080] s n
        ∧ (∀ d, ds = [d] → (spadPut (u, 0) x ds).2 = 1 ∧
            arr n a = { u with banks := u.banks.set b { k with power := .waking, pending := k.pending ++ [(bankByte u x, d)] } }))
  ∧ (
  ∀ (a : ArrId) (s : State), (arr s a).preamble = true →
    ∃ v : ArrayUnit,
      exec (.preambleEnd a) s = .next ((arr s a).portq.foldl (fun s p => ringDeliver s a (Fin.ofNat 6 p.1) p.2)
        (setArr s a { v with preamble := false, portq := [] }))
      ∧ v = { arr s a with spad := v.spad, rings := v.rings, banks := v.banks }
      ∧ v.spad = (List.finRange 32).foldl (fun m b =>
          let k := (arr s a).banks[b]
          if k.booked = true ∧ k.power = .waking ∧ b.val < (arr s a).swBanks
          then k.pending.foldl (fun m p => cellWrite (bankAddr (arr s a) b.val p.1) p.2 m) m else m) (arr s a).spad
      ∧ (∀ q : Fin 6, (v.rings[q]).head = ((arr s a).rings[q]).head
          ∧ (v.rings[q]).tail + (v.rings[q]).filledUp = ((arr s a).rings[q]).tail + ((arr s a).rings[q]).filledUp)
      ∧ (∀ b : Fin 32, v.banks[b] = (let k := (arr s a).banks[b];
          if k.booked = true ∧ k.power = .waking then { k with power := .on, pending := [] } else k))
      ∧ ((∀ b : Fin 32, ((arr s a).banks[b]).booked = false) →
          v = arr s a ∧ ((arr s a).portq = [] →
            exec (.preambleEnd a) s = .next (setArr s a { arr s a with preamble := false, portq := [] }))))

/-- TILE_START at clock `t` on every array of the gang whose leader is `a`, once the tile before has made its last issue and no
entry that the tile names is being drained: the descriptor leaves the list, the array runs, the named entries are ACTIVE, the
held load of the first segment begins and is complete after the clocks that the descriptor's shape fixes, unless a ring stalls a port
that serves the gang, and the feeders read. A tile that starts anew (CONT = 0) finds its entries empty, and one that goes on keeps the totals. Arrays outside the gang, and
everything beside the arrays, are as they were. While an entry is being drained nothing changes, and a descriptor that R99 does
not permit is a fault that ACC_FAULT records. -/
def Obligations.TileStartsOnGang : Prop :=
  ∀ (a : ArrId) (t : Clk) (s : State) (w : ItemRun) (d : TileDesc) (ds : List TileDesc),
    let u := arr s a
    let legal := tileLegal d (if w.width = 4 then 2 else w.width - 1) (swBytes u)
    arrItem s a = some w → u.tiles = d :: ds → w.leader = a.val → w.width ≤ 64 → 1 ≤ w.width → w.halted = 0 → u.st ≠ .fallow →
    u.preamble = false → prevDone u t = true →
      (∀ v n : State, legal = true → gangDrains s w d = false → ownKind u d = 0 →
        beginGang w a t ((gangArrays w).foldl (startOn d t) s) = .ok v → feedGang w d u.tileNo t [] v = .ok n →
        let begins := decide (0 < tileSteps d) && !(holdSources w d).any (fun b => unitStalled (arr s b) 1)
        exec (.tileStart a t) s = .next n ∧ n = { s with arrays := n.arrays }
        ∧ (∀ b, b ∉ gangArrays w → arr n b = arr s b)
        ∧ ∀ b ∈ gangArrays w, (arr n b).st = .running ∧ (arr n b).tiles = (arr s b).tiles.drop 1
            ∧ (arr n b).tileNo = (arr s b).tileNo + 1
            ∧ (arr n b).cur = some { desc := d, idx := (arr s b).tileNo, start := t, begun := b2n begins }
            ∧ (arr n b).loads = (arr s b).loads ++ (if begins then
                [{ seq := (arr s b).loadNo + 1, tile := (arr s b).tileNo, step := 0
                   rows := loadRows (arr s (holdSource w d b)) d 0 [], ready := t + holdClk d }] else [])
            ∧ (∀ j ∈ tileEntries d, entAt (arr n b) j = .active)
            ∧ (arr n b).acc = (if d.cont = true then (arr s b).acc
                else (arr s b).acc.filter (fun x => !(tileEntries d).contains x.ent))
            ∧ (arr n b).spad = (arr s b).spad ∧ (arr n b).pipe = (arr s b).pipe ∧ (arr n b).vregs = (arr s b).vregs)
      ∧ (legal = true → gangDrains s w d = true → exec (.tileStart a t) s = .next s)
      ∧ (legal = false → exec (.tileStart a t) s = .next (accFault s a w 3 u.tileNo 0xFFFF 0 t))

/-- One clock of STEP_ISSUE on the gang whose leader is `a`. Every bank access of a feeder or a held load port that loses the clock
counts in SP_CONFLICT of the array whose scratchpad it reads; a held load that waited for a stalled ring begins once none stalls it, and
the feeders that lose no access read ahead (`v` is the state after these, as the slot checker lets them). While the
tile's first held load is in progress nothing is issued. A clock that the sluice withholds leaves every array of the gang stalled
and counts in neither stall counter. A clock in which row 0's segment is not in the buffer of some member, or an entry is missing in a feeder's
queue, issues nothing and counts one in ARR_HOLD_STALL or ARR_FEED_STALL of each array. Where both are there each array makes the
issue and the entries leave the queues; the accumulators, the scratchpads and the vector registers are as they were. -/
def Obligations.StepIssueDecision : Prop :=
  ∀ (a : ArrId) (t : Clk) (lost : List (Fin 4 × Fin 16)) (heldLost : List (Fin 4)) (s v0 v : State) (w : ItemRun) (c : TileRun),
    let u := arr s a
    let d := c.desc
    let j := c.issued / stepClk d
    let ls := (lost.map (fun p => (p.1.val, p.2.val))).filter (fun p => decide (p.1 < w.width))
    let hs := heldLost.map (·.val)
    let held : Bool := gangHolds v w c.idx j && !(holdSources w d).any (fun b => unitStalled (arr v b) 1)
    let queued : Bool := (feedSources w d).all (fun b => rowsQueued (arr v b) d c.idx c.issued && !unitStalled (arr v b) 0)
    let waits : Prop := c.issued = 0 ∧ t < c.start + holdClk d
    let c0 : Instr := .stepIssue a t ⟨lost, heldLost⟩
    arrItem s a = some w → u.cur = some c → w.leader = a.val → w.width ≤ 64 → 1 ≤ w.width → w.halted = 0 → u.st ≠ .fallow →
    c.issued < tileSteps d * stepClk d → c.start ≤ t →
    beginGang w a t ((List.range w.width).foldl (loseAccess w d t ls hs) s) = .ok v0 → feedGang w d c.idx t ls v0 = .ok v →
      (v = { s with arrays := v.arrays, regs := v.regs }
        ∧ (∀ i, i < w.width → rises (spReg (arrId (w.leader + i)).val 0x20)
            ((if arrId (w.leader + i) ∈ feedSources w d then (ls.filter (fun p => p.1 == i)).length else 0)
              + (if arrId (w.leader + i) ∈ holdSources w d then hs.count i else 0)) s v)
        ∧ regsBut ((gangArrays w).map (fun b => spReg b.val 0x20)) s v
        ∧ (∀ b, b ∉ gangArrays w → arr v b = arr s b)
        ∧ ∀ b ∈ gangArrays w, (arr v b).act = (arr s b).act ∧ (arr v b).spad = (arr s b).spad
            ∧ (arr v b).cur.map (fun x => { x with begun := 0 }) = (arr s b).cur.map (fun x => { x with begun := 0 }))
      ∧ (waits → exec c0 s = .next v)
      ∧ (¬ waits → sluicePermits (gangSluice v w) t = false →
        ∃ n, exec c0 s = .next n ∧ n = { v with arrays := n.arrays }
          ∧ ∀ b, arr n b = if b ∈ gangArrays w then { arr v b with st := .stalled } else arr v b)
      ∧ (¬ waits → sluicePermits (gangSluice v w) t = true → (held && queued) = false →
          ∃ n, exec c0 s = .next n ∧ n = { v with arrays := n.arrays, regs := n.regs }
            ∧ (∀ b, arr n b = if b ∈ gangArrays w then { arr v b with st := .stalled } else arr v b)
            ∧ (∀ b ∈ gangArrays w, rises (arrReg b.val 0x28) (b2n (!queued)) v n ∧ rises (arrReg b.val 0x30) (b2n (!held)) v n)
            ∧ regsBut ((gangArrays w).flatMap (fun b => [arrReg b.val 0x28, arrReg b.val 0x30])) v n)
      ∧ (¬ waits → sluicePermits (gangSluice v w) t = true → (held && queued) = true →
          ∃ n, exec c0 s = .next n ∧ n = { v with arrays := n.arrays, regs := n.regs }
            ∧ n = (feedSources w d).foldl (fun s b => setArr s b (takeEntries c.idx c.issued t (arr s b)))
                ((gangArrays w).foldl (issueOn w t j (issueElems d (c.issued % stepClk d))) v)
            ∧ (∀ b, b ∉ gangArrays w → arr n b = arr v b)
            ∧ regsBut ((gangArrays w).flatMap (fun b => [arrReg b.val 0x20, arrReg b.val 0x38])) v n
            ∧ ∀ b ∈ gangArrays w, (arr n b).acc = (arr v b).acc ∧ (arr n b).spad = (arr v b).spad ∧ (arr n b).vregs = (arr v b).vregs
                ∧ ∀ c', (arr v b).cur = some c' → rises (arrReg b.val 0x20) 1 v n
                    ∧ ∃ c'', (arr n b).cur = some c'' ∧ c''.issued = c'.issued + 1 ∧ c''.desc = c'.desc)

/-- HELD_SWAP makes the load that comes next for a row its active buffer, on every array of the gang, once its clock has come:
row 0 at its step's boundary when every member's load is complete, row r r clocks after row 0's swap to that load, and not before. The
row's steps in the pipeline that wait for the load's segments take them; with row 0's swap the load of the next segment begins where
one is due and no ring stalls a port that serves the gang, and it is complete after the clocks of the descriptor's shape. Memory, the accumulators and the scratchpads are as they were. -/
def Obligations.HeldBufferSwaps : Prop :=
  ∀ (a : ArrId) (row : Fin 16) (t : Clk) (s : State) (w : ItemRun) (c : TileRun) (l : HeldLoad),
    let u := arr s a
    let m := (gangArrays w).foldl (swapOn 0 t) s
    let swapped (n : State) : Prop := n = { s with arrays := n.arrays } ∧ (∀ b, b ∉ gangArrays w → arr n b = arr s b)
      ∧ ∀ b ∈ gangArrays w, (arr n b).acc = (arr s b).acc ∧ (arr n b).spad = (arr s b).spad
          ∧ ∀ c' l', (arr s b).cur = some c' → nextLoad (arr s b) row.val = some l' →
            (arr n b).act = (arr s b).act.set row.val (some { seq := l'.seq, tile := l'.tile, step := l'.step, cols := loadCols l' row.val })
            ∧ (arr n b).pipe = (arr s b).pipe.map (fun p =>
                if p.row = row.val ∧ p.tile = l'.tile ∧ p.gstep = l'.step then { p with held := some (loadCols l' row.val) } else p)
            ∧ (arr n b).cur = some { c' with
                swap := if row.val = 0 then t else c'.swap
                begun := c'.begun + b2n (row.val == 0 && loadBegins w a m) }
            ∧ (row.val = 0 → loadBegins w a m = true → ∃ x ∈ (arr n b).loads, x.seq = (arr s b).loadNo + 1
                ∧ x.tile = c'.idx ∧ x.step = c'.begun ∧ x.ready = t + holdClk c'.desc ∧ x.swapAt = none)
    arrItem s a = some w → u.cur = some c → nextLoad u row.val = some l → w.leader = a.val → w.width ≤ 64 → 1 ≤ w.width →
    w.halted = 0 → u.st ≠ .fallow →
      (∀ n, row.val = 0 → l.tile = c.idx → c.issued = l.step * stepClk c.desc → gangReady s w l t = true →
        beginGang w a t m = .ok n → exec (.heldSwap a row t) s = .next n ∧ swapped n)
      ∧ (row.val = 0 → (l.tile ≠ c.idx ∨ c.issued ≠ l.step * stepClk c.desc ∨ gangReady s w l t = false) →
          exec (.heldSwap a row t) s = .next s)
      ∧ (∀ t0, row.val ≠ 0 → l.swapAt = some t0 → t0 + row.val ≤ t → ∃ n, exec (.heldSwap a row t) s = .next n ∧ swapped n)
      ∧ (row.val ≠ 0 → (∀ t0, l.swapAt = some t0 → t < t0 + row.val) → exec (.heldSwap a row t) s = .next s)

/-- CHUNK_UPDATE: the oldest step of a row whose held segments are there leaves the pipeline, and each of the row's 64 cells takes
its sum by the rule of one cell (`updateCells`), for the accumulator entry of the step's element and pass. Of the registers only
the array's event counters and its NaN trap change. No other array changes, nor memory, nor the scratchpads. A row without such a
step changes nothing. -/
def Obligations.ChunkUpdateAccumulates : Prop :=
  ∀ (a : ArrId) (row : Fin 16) (s : State),
    let u := arr s a
    (∀ (p : RowStep) (rest : List RowStep), takeRow row.val u.pipe = some (p, rest) →
      let e := passEntry p.desc p.elem p.pass
      ∃ n, exec (.chunkUpdate a row) s = .next n
        ∧ n = { s with arrays := n.arrays, regs := n.regs, items := n.items } ∧ arrsBut a s n
        ∧ arr n a = setAcc { u with pipe := rest } row.val e
            ((updateCells p (decide (p.step + 1 = p.desc.kSteps)) (accCells u row.val e) (p.held.getD [])).map (·.cell))
        ∧ regsBut ([0x100, 0x108, 0x110, 0x118, 0x120, 0x128, 0x148, 0x150, 0x158, 0x160].map (arrReg a.val)) s n)
    ∧ (takeRow row.val u.pipe = none → exec (.chunkUpdate a row) s = .next s)

/-- DRAIN: of the tiles whose issue has ended the oldest whose drain has not begun begins it, once its drain clock has come and no
step of the tile is in the pipeline, and not before. OUTPUT_ROW: an output row that is fed enters the output stage of its array:
its elements are those of `outputElement` under the row's mask word, it carries the address that the descriptor gives the row, and
its scratchpad write follows 4 clk after the row reached the stage; a row that is not fed produces nothing, and the drain moves
on. OUTPUT_ROW_WRITE: the oldest row of the output stage is written to the scratchpad at its own address, as the slot checker lets
it, its statistics are kept, and it leaves the stage. Bytes of the scratchpad outside the row's are as they were, and no other
array changes. -/
def Obligations.DrainsReachScratchpad : Prop :=
  (
  ∀ (a : ArrId) (t : Clk) (s : State) (i : Nat) (x : DrainRun),
    let u := arr s a
    findIdxFrom (fun x => x.started.isNone) u.drains 0 = some (i, x) →
      (x.due ≤ t → (∀ p ∈ u.pipe, p.tile ≠ x.idx) →
        ∃ n, exec (.drain a t) s = .next n ∧ n = { s with arrays := n.arrays } ∧ arrsBut a s n
          ∧ arr n a = { u with drains := u.drains.set i { x with started := some t }, st := (arr n a).st })
      ∧ ((t < x.due ∨ ∃ p ∈ u.pipe, p.tile = x.idx) → exec (.drain a t) s = .next s))
  ∧ (
  ∀ (a : ArrId) (t t0 : Clk) (s : State) (x : DrainRun) (xs : List DrainRun),
    let u := (fillMasks s.mgen t (arr s a)).1
    let d := x.desc
    let m := x.nextRow
    let cells (p : Nat) := accCells u (m % 16) (passEntry d (m / 16) p)
    (arr s a).drains = x :: xs → x.started = some t0 → t0 + 12 + m ≤ t → (arr s a).outAt ≤ t → (arr s a).outq.length < 8 →
      (∀ (u1 : ArrayUnit) (mw : Nat), rowFed d (m % 16) (m / 16) = true →
        (if d.maskSrc = 1 then slotCheck u 2 false (d.maskBase + 8 * m) 8 else .ok u) = .ok u1 → maskWord u d m = some mw →
        ∃ n r, exec (.outputRow a t) s = .next n ∧ n = { s with arrays := n.arrays, regs := n.regs, items := n.items }
          ∧ arrsBut a s n ∧ (arr n a).outq = (arr s a).outq ++ [r] ∧ r.m = m ∧ r.addr = d.outBase + m * d.outMStride ∧ r.clk = t + 4
          ∧ r.bytes = packElems d.outFmt ((List.range 64).map (fun c =>
              (outputElement d (tensorT d) (bitAt mw c) (nthD {} (cells 0) c) (nthD {} (cells 1) c)).code))
          ∧ (arr n a).spad = (arr s a).spad ∧ (arr n a).vregs = (arr s a).vregs)
      ∧ (rowFed d (m % 16) (m / 16) = false →
        ∃ n, exec (.outputRow a t) s = .next n ∧ n = { s with arrays := n.arrays, regs := n.regs } ∧ arrsBut a s n
          ∧ (arr n a).outq = (arr s a).outq ∧ (arr n a).spad = (arr s a).spad
          ∧ (arr n a).drains = (if m + 1 = 16 * tileE d then xs else { x with nextRow := m + 1 } :: xs)))
  ∧ (
  ∀ (a : ArrId) (lost : Nat) (s : State) (r : OutRow) (rest : List OutRow) (u1 : ArrayUnit),
    let u := arr s a
    u.outq = r :: rest → slotCheck u 2 true r.addr r.bytes.length = .ok u1 →
      ∃ n, exec (.outputRowWrite ⟨a, lost⟩) s = .next n ∧ n = { s with arrays := n.arrays, regs := n.regs, faults := n.faults }
        ∧ arrsBut a s n ∧ mayCorrupt s n
        ∧ (arr n a).outq = rest ∧ rises (arrReg a.val 0x130) 1 s n ∧ rises (spReg a.val 0x20) lost s n
        ∧ regsBut [arrReg a.val 0x130, spReg a.val 0x10, spReg a.val 0x20, fltReg 0x080] s n
        ∧ lookupN r.m (arr n a).stats = some (statAfter ((lookupN r.m u.stats).getD { max := 0, sum := 0, sq := 0, tag := none }) r)
        ∧ (memWf u.spad = true → ∀ y, (y < r.addr ∨ r.addr + r.bytes.length ≤ y) →
            cellRead y (arr n a).spad = cellRead y u.spad)
        ∧ (memWf u.spad = true → (∀ b : Fin 32, (u.banks[b]).power = .on) →
            cellReads (arr n a).spad r.addr r.bytes.length = r.bytes))

/-- FP32 arithmetic lane by lane (DT = 1): the exact value of the operation, rounded once. Packed BF16 arithmetic (DT = 2):
each half of a lane on its own, rounded once. INT32 arithmetic (DT = 10) of ADD, SUB, MUL, MAX and MIN: the exact result, clamped
to 32 bits. In a format that it has not each of the eight is a schedule fault. -/
def Obligations.ArithmeticLanes : Prop :=
  (
  ∀ (a : ArrId) (v : VInstr) (s : State), veReady s a = true → v.dt = 1 →
    let op (c : Instr) (f : Machine.Num → Machine.Num → Machine.Num → Machine.Num) : Prop :=
      laneResult c a v s (fun x y z => fp32Enc (f (fp32Val x) (fp32Val y) (fp32Val z)))
    op (.add a v) (fun x y _ => numAdd x y) ∧ op (.sub a v) (fun x y _ => numAdd x (numNeg y))
    ∧ op (.mul a v) (fun x y _ => numMul x y) ∧ op (.fma a v) (fun x y z => numAdd (numMul x y) z)
    ∧ op (.max a v) (fun x y _ => numMax x y) ∧ op (.min a v) (fun x y _ => numMin x y)
    ∧ op (.maxnum a v) (fun x y _ => numMaxNum x y) ∧ op (.minnum a v) (fun x y _ => numMinNum x y))
  ∧ (
  ∀ (a : ArrId) (v : VInstr) (s : State), veReady s a = true → v.dt = 2 →
    let half (f : Machine.Num → Machine.Num → Machine.Num → Machine.Num) (x y z : Nat) : Nat :=
      (convFF ffBf16 v.sat (f (decodeFF ffBf16 x) (decodeFF ffBf16 y) (decodeFF ffBf16 z))).1
    let op (c : Instr) (f : Machine.Num → Machine.Num → Machine.Num → Machine.Num) : Prop :=
      laneResult c a v s (fun x y z => BitVec.ofNat 32
        (half f (x.toNat / 65536) (y.toNat / 65536) (z.toNat / 65536) * 65536
          + half f (x.toNat % 65536) (y.toNat % 65536) (z.toNat % 65536)))
    op (.add a v) (fun x y _ => numAdd x y) ∧ op (.sub a v) (fun x y _ => numAdd x (numNeg y))
    ∧ op (.mul a v) (fun x y _ => numMul x y) ∧ op (.fma a v) (fun x y z => numAdd (numMul x y) z)
    ∧ op (.max a v) (fun x y _ => numMax x y) ∧ op (.min a v) (fun x y _ => numMin x y)
    ∧ op (.maxnum a v) (fun x y _ => numMaxNum x y) ∧ op (.minnum a v) (fun x y _ => numMinNum x y))
  ∧ (
  ∀ (a : ArrId) (v : VInstr) (s : State), veReady s a = true → v.dt = 0xA →
    let op (c : Instr) (g : Int → Int → Int) : Prop :=
      laneResult c a v s (fun x y _ =>
        let r := g x.toInt y.toInt
        BitVec.ofInt 32 (if r < -2147483648 then -2147483648 else if 2147483647 < r then 2147483647 else r))
    op (.add a v) (· + ·) ∧ op (.sub a v) (· - ·) ∧ op (.mul a v) (· * ·)
    ∧ op (.max a v) (fun x y => if x < y then y else x) ∧ op (.min a v) (fun x y => if x < y then x else y))
  ∧ (
  ∀ (a : ArrId) (v : VInstr) (s : State), veReady s a = true → v.dt ≠ 1 → v.dt ≠ 2 →
    (v.dt ≠ 0xA → ∀ c ∈ ([.add a v, .sub a v, .mul a v, .max a v, .min a v] : List Instr), formFaults c s)
    ∧ ∀ c ∈ ([.fma a v, .maxnum a v, .minnum a v] : List Instr), formFaults c s)

/-- Comparison, selection, sign and logic, lane by lane: a comparison answers 1 or 0 and is 0 for a NaN, but 1 under NE; a
selection copies VA's bits where VC is not 0 and VB's elsewhere; ABS clears and NEG inverts the sign bit, but of a NaN,
which becomes the canonical NaN; and the logic operations work on the bits, shifts taking VB modulo 32. The special
functions and the scaled exponential, lane by lane, by the functions of R170 and R174 as Machine/Special.lean computes them
(notes/assumptions/11.md). In a format that it has not each is a schedule fault. While the engine may not issue, no vector
instruction changes anything; a NOP and a BARINC issue on one that may, and write no register. -/
def Obligations.LaneOperations : Prop :=
  (
  ∀ (a : ArrId) (v : VInstr) (s : State), veReady s a = true →
    (v.dt = 0xA → laneResult (.cmp a v) a v s (fun x y _ =>
      if orderHolds (v.aux.toNat % 4) (compare x.toInt y.toInt) then 1 else 0))
    ∧ (v.dt = 1 → laneResult (.cmp a v) a v s (fun x y _ =>
        if isNan (fp32Val x) ∨ isNan (fp32Val y) then (if v.aux.toNat % 4 = 3 then 1 else 0)
        else if orderHolds (v.aux.toNat % 4) (numCmp (fp32Val x) (fp32Val y)) then 1 else 0))
    ∧ (isVecFmt v.dt.toNat = true → laneResult (.sel a v) a v s (fun x y z => if z ≠ 0 then x else y))
    ∧ (v.dt = 1 → laneResult (.sign a v) a v s (fun x _ _ =>
        if isNan (fp32Val x) then nan32 else if v.aux.getLsbD 0 then x ^^^ 0x80000000#32 else x &&& 0x7FFFFFFF#32))
    ∧ (v.dt = 0xA → v.aux.toNat % 8 ≤ 5 → laneResult (.logic a v) a v s (fun x y _ =>
        match v.aux.toNat % 8 with
        | 0 => x &&& y
        | 1 => x ||| y
        | 2 => x ^^^ y
        | 3 => x <<< (y.toNat % 32)
        | 4 => x >>> (y.toNat % 32)
        | _ => x.sshiftRight (y.toNat % 32))))
  ∧ (
  ∀ (a : ArrId) (v : VInstr) (s : State), veReady s a = true → v.dt = 1 →
    laneResult (.exp2 a v) a v s (fun x _ _ => sfExp2 (fp32Val x)) ∧ laneResult (.log2 a v) a v s (fun x _ _ => sfLog2 (fp32Val x))
    ∧ laneResult (.rcp a v) a v s (fun x _ _ => sfRcp (fp32Val x)) ∧ laneResult (.rsqrt a v) a v s (fun x _ _ => sfRsqrt (fp32Val x))
    ∧ laneResult (.sigm a v) a v s (fun x _ _ => sfSigm (fp32Val x)) ∧ laneResult (.tanh a v) a v s (fun x _ _ => sfTanh (fp32Val x))
    ∧ laneResult (.expd a v) a v s (fun x m _ => expdLane x m))
  ∧ (
  ∀ (a : ArrId) (v : VInstr) (s : State),
    (veReady s a = true →
      (v.dt ≠ 1 → ∀ c ∈ ([.sign a v, .exp2 a v, .log2 a v, .rcp a v, .rsqrt a v, .sigm a v, .tanh a v, .expd a v] : List Instr),
        formFaults c s)
      ∧ (v.dt ≠ 1 → v.dt ≠ 0xA → formFaults (.cmp a v) s) ∧ (isVecFmt v.dt.toNat = false → formFaults (.sel a v) s)
      ∧ ((v.dt ≠ 0xA ∨ 5 < v.aux.toNat % 8) → formFaults (.logic a v) s))
    ∧ (veReady s a = false → ∀ lost : List (Fin 32), ∀ c ∈ ([.nop a v, .add a v, .sub a v, .mul a v, .fma a v, .max a v, .min a v
        , .maxnum a v, .minnum a v, .cmp a v, .sel a v, .sign a v, .cvt a v, .logic a v, .exp2 a v, .log2 a v, .rcp a v, .rsqrt a v
        , .sigm a v, .tanh a v, .expd a v, .rope a v, .quant a v, .red a v, .topk a v, .psum a ⟨v, lost⟩, .expsort a ⟨v, lost⟩, .ld a ⟨v, lost⟩
        , .st a ⟨v, lost⟩, .cld a ⟨v, lost⟩, .rstat a v, .mpos a v, .mcmd a v, .barinc a v] : List Instr), exec c s = .next s)
    ∧ (veReady s a = true → ∀ c ∈ ([.nop a v, .barinc a v] : List Instr), ∃ n, exec c s = .next n
        ∧ (arr n a).vregs = (arr s a).vregs ∧ (arr n a).vpos = (arr s a).vpos + 1 ∧ rises (veReg a.val 0x08) 1 s n))

/-- Segments: RED gives every lane of a segment the segment's reduction; TOPK gives the K largest of a segment in order,
with their places, and -Inf and -1 beyond them; ROPE rotates the pairs of a segment, adjacent lanes or lanes half a segment
apart, each pair by the position and the frequency of its first lane. A segment size, rank count or format that the instruction
has not is a schedule fault. An RSTAT of one row brings its sum to lane 0, an MPOS beyond the chunk brings 0, an MCMD that meets a full
buffer waits, and a held tree slot is loaded. -/
def Obligations.SegmentInstructions : Prop :=
  ∀ (a : ArrId) (v : VInstr) (s : State), veReady s a = true →
    let u := arr s a
    let x := vget u v.va
    let w := 2 ^ v.seg.toNat
    let k := v.aux.toNat % 32
    let seg (i : Nat) : List Lane32 := (x.toList.drop (i / w * w)).take w
    let far := v.aux.getLsbD 0
    let first (i : Nat) : Nat := if far then (if i % w < w / 2 then i else i - w / 2) else i / 2 * 2
    (((v.dt = 1 ∨ v.dt = 0xA) ∧ 1 ≤ v.seg.toNat ∧ v.seg.toNat ≤ 9) →
      ∃ n, exec (.red a v) s = .next n ∧ vectorFrame a [v.vd] s n
        ∧ ∀ i, i < 512 → lane (vget (arr n a) v.vd) i
            = (redSegment (decide (v.dt = 0xA)) (v.aux.toNat % 4) v.seg.toNat (seg i)).1)
    ∧ ((v.dt = 1 ∧ v.seg.toNat ≤ 9 ∧ 1 ≤ k ∧ k ≤ 16 ∧ k ≤ w ∧ v.vd ≠ 31) →
      ∃ n, exec (.topk a v) s = .next n ∧ vectorFrame a [v.vd, v.vd + 1] s n
        ∧ ∀ i, i < 512 →
            match ((sortBy (fun p q => !topkAbove q p) ((List.range w).zip (seg i))).take k)[i % w]? with
            | some p => lane (vget (arr n a) v.vd) i = (if isNan (fp32Val p.2) then nan32 else p.2)
                ∧ lane (vget (arr n a) (v.vd + 1)) i = BitVec.ofNat 32 p.1
            | none => lane (vget (arr n a) v.vd) i = 0xFF800000#32 ∧ lane (vget (arr n a) (v.vd + 1)) i = 0xFFFFFFFF#32)
    ∧ ((v.dt = 1 ∧ 1 ≤ v.seg.toNat ∧ v.seg.toNat ≤ 9) →
      ∃ n, exec (.rope a v) s = .next n ∧ vectorFrame a [v.vd] s n
        ∧ ∀ i, i < 512 →
            let j := first i
            let r := ropePair (lane x j) (lane x (if far then j + w / 2 else j + 1)) (lane (srcB u v) j) (lane (vget u v.vc) j)
            lane (vget (arr n a) v.vd) i = (if i = j then r.1 else r.2).1)
    ∧ ((v.dt ≠ 1 ∨ v.seg = 0 ∨ 9 < v.seg.toNat) → formFaults (.rope a v) s)
    ∧ (((v.dt ≠ 1 ∧ v.dt ≠ 0xA) ∨ v.seg = 0 ∨ 9 < v.seg.toNat) → formFaults (.red a v) s)
    ∧ ((v.dt ≠ 1 ∨ 9 < v.seg.toNat ∨ k = 0 ∨ 16 < k ∨ w < k ∨ v.vd = 31) → formFaults (.topk a v) s)
    ∧ ((v.dt = 1 ∧ bits v.ext.toNat 32 24 = 1 ∧ v.aux = 0) → ∀ x, lookupN (bits v.ext.toNat 23 16) u.stats = some x →
        x.tag = some (bits v.ext.toNat 15 0) →
        ∃ n, exec (.rstat a v) s = .next n ∧ vectorFrame a [v.vd] s n
          ∧ ∀ i, i < 512 → lane (vget (arr n a) v.vd) i = if i = 0 then statOf 0 x else 0)
    ∧ (∀ g, itemMgen s a (bits v.ext.toNat 26 24) = some g → v.dt = 0xA → (s.mgen[g]).tokens ≤ bits v.ext.toNat 23 0 →
        ∃ n, exec (.mpos a v) s = .next n ∧ vectorFrame a [v.vd] s n ∧ ∀ i, i < 512 → lane (vget (arr n a) v.vd) i = 0)
    ∧ (∀ g, itemMgen s a (bits v.ext.toNat 55 53) = some g → bits v.ext.toNat 63 62 ≠ 3 → u.maskq = [] → 256 ≤ u.maskBuf.length →
        nthD 0 u.maskRows u.maskNo ≠ 0 →
        ∃ n, exec (.mcmd a v) s = .next n ∧ (arr n a).vregs = u.vregs ∧ (arr n a).maskNo = u.maskNo + 1 ∧ (arr n a).maskq.length = 1
          ∧ (arr n a).maskBuf = u.maskBuf)
    ∧ (∀ g : Fin 8, (s.mgen[g]).busy ≠ none → (s.mgen[g]).tree = true → (s.mgen[g]).loaded = false →
        ∃ n, exec (.mgenLoad g) s = .next n ∧ (n.mgen[g]).loaded = true ∧ (n.mgen[g]).tokens = (s.mgen[g]).parents.length)

/-- Formats: CVT converts as many elements as both formats have in a register, and the remaining bits are 0; QUANT scales
the blocks of its source's elements, writing packed elements to VD and their scale bytes to the register after it (of a source in
another format than FP32 the count of elements is the model's choice, notes/assumptions/70.md). A form that either has not is a
schedule fault. -/
def Obligations.FormatInstructions : Prop :=
  ∀ (a : ArrId) (v : VInstr) (s : State), veReady s a = true →
    let u := arr s a
    let d := v.dt.toNat
    let e := v.dt2.toNat
    let k := Nat.min (16384 / fmtBits d) (16384 / fmtBits e)
    let w := 2 ^ v.seg.toNat
    let x := quantSource u v
    let b := quantScale u v x.length
    let blocks := (List.range (x.length / w)).map (fun i => quantBlock (v.aux.toNat % 16 == 0xD) e
      ((x.drop (i * w)).take w) ((b.drop (i * w)).take w))
    ((isVecFmt d && isVecFmt e) = true →
      ∃ n, exec (.cvt a v) s = .next n ∧ vectorFrame a [v.vd] s n
        ∧ vget (arr n a) v.vd = natReg (packNat (fmtBits e)
            ((List.range k).map (fun i => (convTo e v.sat (decodeNum d (regElem d (regNat (vget u v.va)) i))).1))))
    ∧ ((isVecFmt d && isVecFmt e) = false → formFaults (.cvt a v) s)
    ∧ (quantOk v = true →
      ∃ n, exec (.quant a v) s = .next n ∧ vectorFrame a [v.vd, v.vd + 1] s n
        ∧ vget (arr n a) v.vd = natReg (packNat (fmtBits e) (blocks.flatMap (·.1)))
        ∧ vget (arr n a) (v.vd + 1) = natReg (packNat 8 (blocks.map (·.2.1)))
        ∧ (v.dt = 1 → x = (vget u v.va).toList))
    ∧ (quantOk v = false → formFaults (.quant a v) s)

/-- Accesses of the vector engine to its scratchpad, through the slot checker (`u1` is the array after it): LD brings the
bytes of its form's ranges lane by lane, PSUM adds them to VD rounded once, and ST sends VA's bytes to the ranges; lanes
that a form does not reach hold free values (notes/assumptions/4.md). The clocks that an access loses to arbitration count. A load
changes no byte of the scratchpad, and a store none of HBM. A form that R133 does not permit is a schedule fault. The banks that the
accesses need: one whose power-down is requested sleeps, one that wakes is ON when its wake or the preamble ends, and a write into one
that sleeps wakes it. -/
def Obligations.ScratchpadLoadsAndStores : Prop :=
  (
  ∀ (a : ArrId) (v : VInstr) (lost : List (Fin 32)) (s : State), veReady s a = true →
    (∀ (rs : List (Nat × Nat)) (u1 : ArrayUnit), formRanges (arr s a) v.ext.toNat = some rs →
      (isVecFmt v.dt.toNat = true → slotChecks 3 false (arr s a) rs = .ok u1 →
        ∃ n, exec (.ld a ⟨v, lost⟩) s = .next n ∧ vectorFrameBut [veReg a.val 0x18, spReg a.val 0x20] a [v.vd] s n ∧ lostClocks a lost s n
          ∧ ∀ i, i < 512 → 4 * i + 4 ≤ (formLoad u1 v.ext.toNat rs).length →
              lane (vget (arr n a) v.vd) i = bytesLanes (formLoad u1 v.ext.toNat rs) i)
      ∧ (slotChecks 3 false (arr s a) rs = .ok u1 → v.dt = 1 →
        ∃ n, exec (.psum a ⟨v, lost⟩) s = .next n ∧ vectorFrameBut [veReg a.val 0x18, spReg a.val 0x20] a [v.vd] s n ∧ lostClocks a lost s n
          ∧ ∀ i, i < 512 → 4 * i + 4 ≤ (formLoad u1 v.ext.toNat rs).length →
              lane (vget (arr n a) v.vd) i = fadd (lane (vget u1 v.vd) i) (bytesLanes (formLoad u1 v.ext.toNat rs) i))
      ∧ (isVecFmt v.dt.toNat = true → slotChecks 3 true (arr s a) (storeForm v.ext.toNat rs) = .ok u1 →
        ∃ n, exec (.st a ⟨v, lost⟩) s = .next n ∧ arrsBut a s n
          ∧ n = { s with arrays := n.arrays, regs := n.regs, faults := n.faults } ∧ mayCorrupt s n ∧ lostClocks a lost s n
          ∧ regsBut [veReg a.val 0x08, veReg a.val 0x18, spReg a.val 0x10, spReg a.val 0x20, fltReg 0x080] s n
          ∧ arr n a = { arr (storeRanges a (setArr s a u1) (storeForm v.ext.toNat rs)
              (formStore v.ext.toNat ((vget u1 v.va).toList.flatMap (fun x => toLE 4 x.toNat)))) a with
            vpos := (arr s a).vpos + 1, veClk := (arr n a).veClk
            ve := if (arr s a).vpos + 1 = (arr s a).vlen then .idle else (arr s a).ve }
          ∧ (memWf (arr s a).spad = true → ∀ y, (∀ r ∈ storeForm v.ext.toNat rs, y < r.1 ∨ r.1 + r.2 ≤ y) →
              cellRead y (arr n a).spad = cellRead y (arr s a).spad)))
    ∧ ((formRanges (arr s a) v.ext.toNat = none ∨ isVecFmt v.dt.toNat = false) →
        formFaults (.ld a ⟨v, lost⟩) s ∧ formFaults (.psum a ⟨v, lost⟩) s ∧ formFaults (.st a ⟨v, lost⟩) s)
    ∧ (v.dt ≠ 1 → formFaults (.psum a ⟨v, lost⟩) s))
  ∧ (
  ∀ (a : ArrId) (b : Fin 32) (s : State),
    let u := arr s a
    let k := u.banks[b]
    (∀ t : Clk, k.pdReq = true → k.power = .on → k.pending = [] →
      exec (.bankPowerDown a b t) s = .next (setArr s a { u with banks := u.banks.set b { k with power := .sleep, pdReq := false } }))
    ∧ (k.power = .waking → ∃ n, exec (.bankWakeDone a b) s = .next n ∧ (arr n a).banks = u.banks.set b { k with power := .on, pending := [] })
    ∧ (∀ (x : Nat) (d : Byte), k.power = .sleep → bankOf u x = b → x < swBytes u → ∃ n, exec (.lateWake a x [d]) s = .next n
        ∧ (arr n a).banks = u.banks.set b { k with power := .waking, pending := k.pending ++ [(bankByte u x, d)] })
    ∧ (u.preamble = true → u.portq = [] → ∃ n, exec (.preambleEnd a) s = .next n ∧ (arr n a).preamble = false
        ∧ (k.booked = true → k.power = .waking → ((arr n a).banks[b]).power = .on)))

/-- Tables: RSTAT reads the statistics of the tile its EXT names, 0 beyond its rows, and an entry that the tile did not write is a
schedule fault; MPOS the positions of a chunk's tokens, 0 beyond the
chunk, and MCMD queues a mask command, from which words are delivered as far as the buffer takes them and their clock has come; the
registers beside the destination are as they were. A form that R169 to R183 do not permit is a schedule fault. NOP takes its place in the
stream and changes no register; BARINC does so too and raises the barrier counter that the work item's map gives AUX[7:0].
MGEN loads a held tree slot in two passes: its sizes and its walk come from the parent list, the slot holds as many tokens
as the list names, and the load counts one. -/
def Obligations.TableInstructions : Prop :=
  (
  ∀ (a : ArrId) (v : VInstr) (s : State) (g : Fin 8), veReady s a = true →
    let u := arr s a
    let e := v.ext.toNat
    let k := bits e 32 24
    let m0 := bits e 23 16
    let m := s.mgen[g]
    ((v.dt = 1 ∧ k ≠ 0 ∧ k ≤ 256 ∧ v.aux.toNat % 4 ≠ 3
        ∧ ∀ i, i < k → m0 + i ≤ 255 ∧ ∃ x, lookupN (m0 + i) u.stats = some x ∧ x.tag = some (bits e 15 0)) →
      ∃ n, exec (.rstat a v) s = .next n ∧ vectorFrame a [v.vd] s n
        ∧ ∀ i, i < 512 → (∀ x, i < k → lookupN (m0 + i) u.stats = some x →
            lane (vget (arr n a) v.vd) i = statOf (v.aux.toNat % 4) x) ∧ (k ≤ i → lane (vget (arr n a) v.vd) i = 0))
    ∧ ((v.dt = 1 ∧ k ≠ 0 ∧ k ≤ 256 ∧ v.aux.toNat % 4 ≠ 3
        ∧ ∃ i, i < k ∧ (255 < m0 + i ∨ ∀ x, lookupN (m0 + i) u.stats = some x → x.tag ≠ some (bits e 15 0))) → formFaults (.rstat a v) s)
    ∧ (itemMgen s a (bits e 26 24) = some g → v.dt = 0xA →
      ∃ n, exec (.mpos a v) s = .next n ∧ vectorFrame a [v.vd] s n
        ∧ ∀ i, i < 512 →
            let t := bits e 23 0 + i
            lane (vget (arr n a) v.vd) i
              = if t < m.tokens then BitVec.ofNat 32 (m.prefixLen + (if m.tree then nthD 0 m.depth t else t)) else 0)
    ∧ (itemMgen s a (bits e 55 53) = some g → bits e 63 62 ≠ 3 →
      let c : MaskCmd := { mode := bits e 63 62, qshift := bits e 60 58, slot := g.val, k0 := bits e 47 24
                           q0 := bits e 23 0, no := u.maskNo, at_ := veIssueClk u v }
      let r := fillMasks s.mgen (veIssueClk u v) { u with maskq := u.maskq ++ [c], maskNo := u.maskNo + 1 }
      ∃ n, exec (.mcmd a v) s = .next n ∧ n = { s with arrays := n.arrays, regs := n.regs } ∧ arrsBut a s n
        ∧ arr n a = { r.1 with vpos := u.vpos + 1, veClk := (arr n a).veClk, ve := if u.vpos + 1 = u.vlen then .idle else u.ve }
        ∧ rises (mgenReg 0x10) r.2 s n ∧ rises (veReg a.val 0x08) 1 s n ∧ regsBut [mgenReg 0x10, veReg a.val 0x08] s n
        ∧ (arr n a).vregs = u.vregs ∧ (arr n a).maskNo = u.maskNo + 1
        ∧ (u.maskq = [] → 256 ≤ u.maskBuf.length → nthD 0 u.maskRows u.maskNo ≠ 0 → (arr n a).maskq = [c]))
    ∧ ((v.dt ≠ 1 ∨ k = 0 ∨ 256 < k ∨ v.aux.toNat % 4 = 3) → formFaults (.rstat a v) s)
    ∧ ((itemMgen s a (bits e 26 24) = none ∨ v.dt ≠ 0xA) → formFaults (.mpos a v) s)
    ∧ ((itemMgen s a (bits e 55 53) = none ∨ bits e 63 62 = 3) → formFaults (.mcmd a v) s))
  ∧ (
  ∀ (a : ArrId) (v : VInstr) (s : State) (w : ItemRun), veReady s a = true → arrItem s a = some w →
    (∃ n, exec (.nop a v) s = .next n ∧ vectorFrame a [] s n)
    ∧ (∀ b, w.barMap[v.aux.toNat % 256]? = some b →
        ∃ n, exec (.barinc a v) s = .next n ∧ n = { s with arrays := n.arrays, regs := n.regs, bars := n.bars }
          ∧ arrsBut a s n ∧ (arr n a).vregs = (arr s a).vregs ∧ (arr n a).vpos = (arr s a).vpos + 1
          ∧ n.bars = (barInc s b).bars))
  ∧ (
  ∀ (g : Fin 8) (s : State),
    let m := s.mgen[g]
    m.busy ≠ none → m.tree = true → m.loaded = false →
      ∃ n, exec (.mgenLoad g) s = .next n ∧ n = { s with mgen := n.mgen, regs := n.regs }
        ∧ (∀ h, h ≠ g → n.mgen[h] = s.mgen[h])
        ∧ n.mgen[g] = { m with size := (n.mgen[g]).size, pre := (n.mgen[g]).pre, depth := (n.mgen[g]).depth
                               tokens := m.parents.length, loaded := true }
        ∧ (n.mgen[g]).size = treeSizes m.parents m.parents.length (List.replicate m.parents.length 1)
        ∧ ((n.mgen[g]).pre, (n.mgen[g]).depth) = treePre m.parents (n.mgen[g]).size m.parents.length 0 0 [] [] []
        ∧ rises (mgenReg 0x08) 1 s n ∧ regsBut [mgenReg 0x08] s n)

/-- EXPSORT writes its four lists where the parameter block at EXT[20:0] says, as the slot checker lets it (`u1`, `u2`):
bytes of the scratchpad outside them are as they were, and the counts list, with every bank ON, holds how many of the pairs
each expert has. No vector register changes. -/
def Obligations.ExpertSortWritesLists : Prop :=
  ∀ (a : ArrId) (v : VInstr) (lost : List (Fin 32)) (s : State) (u1 u2 : ArrayUnit),
    let u := arr s a
    let p := spadReads u (bits v.ext.toNat 20 0) 64
    let t := fld p 4 4
    let k := fld p 8 1
    let ne := fld p 0x0A 2
    let r := fld p 0x0C 4
    let nt := fld p 0x10 4
    let reads := [(bits v.ext.toNat 20 0, 64), (fld p 0 4, 4 * t * k)]
    let writes := [(fld p 0x14 4, 4 * nt * r), (fld p 0x18 4, 4 * nt * r), (fld p 0x1C 4, 8 * nt), (fld p 0x20 4, 8 * ne)]
    veReady s a = true → v.dt = 0xA → 1 ≤ t → t ≤ 65536 → 1 ≤ k → k ≤ 16 → 1 ≤ ne → ne ≤ 256 → 16 ≤ r → r ≤ 1024 →
    bitLen r = bitLen (r - 1) + 1 → fld p 0x28 8 ≠ 0 → (∀ x ∈ reads ++ writes, x.1 + x.2 ≤ swBytes u) →
    slotChecks 3 false u reads = .ok u1 → slotChecks 3 true u1 writes = .ok u2 →
      ∃ n, exec (.expsort a ⟨v, lost⟩) s = .next n ∧ arrsBut a s n
        ∧ n = { s with arrays := n.arrays, regs := n.regs, items := n.items, faults := n.faults } ∧ mayCorrupt s n
        ∧ (arr n a).vregs = u.vregs ∧ (arr n a).vpos = u.vpos + 1 ∧ (arr n a).rings = u.rings ∧ (arr n a).acc = u.acc
        ∧ lostClocks a lost s n
        ∧ regsBut [veReg a.val 0x08, veReg a.val 0x18, veReg a.val 0x38, spReg a.val 0x10, spReg a.val 0x20, fltReg 0x080] s n
        ∧ (memWf u.spad = true → ∀ y, (∀ x ∈ writes, y < x.1 ∨ x.1 + x.2 ≤ y) →
            cellRead y (arr n a).spad = cellRead y u.spad)
        ∧ (memWf u.spad = true → (∀ b : Fin 32, (u.banks[b]).power = .on) → ∀ e, e < ne →
            spadNum (arr n a) (fld p 0x20 4 + 8 * e) 4
              = ((List.range (t * k)).filter (fun i => sx 32 (spadNum u (fld p 0 4 + 4 * i) 4) == (e : Int))).length)

/-- CLD on an array with cache banks: with its eight lines present VD takes their bytes lane by lane; otherwise the engine
is HELD with what it has found, and a miss counts. CACHE_FILL brings the missing line from its owner's memory, through the mere
cache, and the load goes on with what is then present. A page that no frame holds is a fault of the engine that the fill uses, which
stands until a later CACHE_FILL finds a frame. The bank accesses that lost count in SP_CONFLICT, and delay a load that begins. Neither changes
a byte of HBM or of the scratchpad's software space. -/
def Obligations.CachedLoads : Prop :=
  ∀ (a : ArrId) (v : VInstr) (lost : List (Fin 32)) (k : Nat) (s : State) (w : ItemRun),
    let u := arr s a
    let uh := { u with veClk := u.veClk + lost.length }
    let owner := if bitAt v.aux.toNat 0 then 16 + w.image else itemLd s w
    let went (n : State) (r : ArrayUnit × CldRun × Nat) : Prop := arrsBut a s n ∧ n.mem = s.mem ∧ (arr n a).spad = u.spad
      ∧ rises (spReg a.val 0x28) r.2.2 s n
      ∧ (2048 ≤ r.2.1.data.length → (arr n a).cld = none ∧ (arr n a).vpos = u.vpos + 1
          ∧ (∀ x, x ≠ r.2.1.instr.vd → vget (arr n a) x = vget u x)
          ∧ vget (arr n a) r.2.1.instr.vd = vmk (bytesLanes (r.2.1.data.take 2048)))
      ∧ (r.2.1.data.length < 2048 → (arr n a).cld = some r.2.1 ∧ (arr n a).ve = .held ∧ (arr n a).vregs = u.vregs
          ∧ (arr n a).vpos = u.vpos ∧ rises (spReg a.val 0x30) 1 s n)
    (veReady s a = true → arrItem s a = some w → u.cacheBanks ≠ 0 → v.ext.toNat % 256 = 0 → isVecFmt v.dt.toNat = true →
      ∃ n, exec (.cld a ⟨v, lost⟩) s = .next n ∧ lostClocks a lost s n
        ∧ went n (cldHits 8 uh { instr := v, at_ := veIssueClk uh v, owner := owner, addr := v.ext.toNat } 0))
    ∧ (∀ c p, u.cld = some c → arrItem s a = some w → w.halted = 0 → w.failStatus = 0 →
        fillDpa s c.owner ((c.addr + c.data.length) / 256 * 256) = .ok p → p < hbmCap s → poisoned (lineRead 0 s p) p 256 = false →
        ∃ n, exec (.cacheFill ⟨a, k⟩) s = .next n ∧ rises (spReg a.val 0x20) k s n
          ∧ went n (cldHits 8 (cachePut u c.owner ((c.addr + c.data.length) / 256) (memReads s p 256))
              { c with data := c.data ++ memReads s p 256 } 0))
    ∧ (∀ c, u.cld = some c → arrItem s a = some w → w.halted = 0 → w.failStatus = 0 →
        let la := (c.addr + c.data.length) / 256 * 256
        fillDpa s c.owner la = .error 1 → (fe s (fillEngine w)).faults.any (fillWaits w la) = false →
        ∃ n, exec (.cacheFill ⟨a, k⟩) s = .next n ∧ n.mem = s.mem ∧ n.arrays = s.arrays
          ∧ rises (feReg (fillEngine w).val 0x40) 1 s n ∧ (fe n (fillEngine w)).faults.any (fillWaits w la) = true)
    ∧ (veReady s a = true → (u.cacheBanks = 0 ∨ v.ext.toNat % 256 ≠ 0 ∨ isVecFmt v.dt.toNat = false) → formFaults (.cld a ⟨v, lost⟩) s)

/-- A descriptor that may start enters its setup, and counts in FE_SHORT when it moves less than the efficient size; one
that FENCE or its barrier holds back waits; one that names the space RESERVE stops with its fault, which counts in FE_FAULT_CNT. The descriptor of a list in a scratchpad is the one
that stands there as its setup may begin. READ and WRITE differ in the side of the move that the descriptor names. No other slot, engine or byte of memory changes. -/
def Obligations.DescriptorsStart : Prop :=
  ∀ (f : FeId) (k : Fin 64) (s : State) (d0 : DescRun) (w : ItemRun),
    let d := readList s w d0
    slotDesc s f k = some d0 → itemOf s d.item = some w → descUnstarted d = true → w.halted = 0 →
      ∀ c : Instr, ((c = .read f k ∧ d.desc.op = 0) ∨ (c = .write f k ∧ d.desc.op = 1)) →
        ∃ n, exec c s = .next n ∧ (∀ g, g ≠ f → fe n g = fe s g) ∧ (∀ j, j ≠ k → slotDesc n f j = slotDesc s f j)
          ∧ n.mem = s.mem ∧ n.arrays = s.arrays
          ∧ (mayStart s f w d = true → d.desc.space ≠ 3 → n = { s with fes := n.fes, regs := n.regs, faults := n.faults } ∧ mayCorrupt s n
              ∧ slotDesc n f k = some { d with st := .setup, setAt := nowClk s }
              ∧ rises (feReg f.val 0x38) (if descClks d.desc < 32 then 1 else 0) s n
              ∧ regsBut [feReg f.val 0x38, fltReg 0x080] s n)
          ∧ (mayStart s f w d = false → n = { s with fes := n.fes } ∧ slotDesc n f k = some { d0 with st := .waiting })
          ∧ (mayStart s f w d = true → d.desc.space = 3 → rises (feReg f.val 0x40) 1 s n
              ∧ slotDesc n f k = some { d with st := .faulted, code := 9, faultAddr := d.desc.base })

/-- One burst of a descriptor whose turn it is at its ring, on memory of the LD that is mapped. READ, with room in the ring and
without an error that cannot be corrected: the bytes of memory at the walk's address go to the ring, or wait at the port in the
preamble; the progress record moves past them, FE_BYTES_RD counts them, and no byte of HBM changes. An uncorrectable error stops
the descriptor with fault 8 at the burst's address. Without room the engine stalls on the ring, its clocks counting in
RING_PSTALL, but in the preamble, when the burst only waits. WRITE, with the bytes in the ring: they leave it, as the slot checker
lets them be read (`u1`), and reach the addresses of the walk; the progress record moves past them and FE_BYTES_WR counts them.
Every byte of HBM but the burst's keeps its value. The bank accesses that the ring lost in a burst that moves count in SP_CONFLICT.
Without the bytes the engine stalls, its clocks counting in RING_CSTALL. -/
def Obligations.BurstsMoveBytes : Prop :=
  ∀ (f : FeId) (k : Fin 64) (env : BurstEnv) (lost : Nat) (s : State) (d : DescRun) (w : ItemRun) (q : Fin 6) (x : Nat),
    let c : Instr := .burst f k ⟨env, lost⟩
    let a := descArr w d.desc
    let u := arr s a
    let g := u.rings[q]
    let t := itemTenant s w
    let len := burstLen d.desc d.pos x
    let s1 := listTouch s w d.desc d.pos
    slotDesc s f k = some d → itemOf s d.item = some w → descRing d.desc = some q → descActive d = true →
    descMoved d = false → w.halted = 0 → ringTurn s f d = true → d.desc.space = 0 → runOf s1 w d = .addr x → x + len ≤ 2 ^ 48 →
      (d.desc.op = 0 → q.val < 4 →
        (∀ p, ringTakes u q len = true → tvaMapped s1 t x len = true → tvaDpa s1 t x = some p → p < hbmCap s1 →
          (poisoned (burstRead s1 d.desc.hint p env) p len = false →
            ∃ n, exec c s = .next n ∧ n.mem = s.mem ∧ (∀ b, b ≠ a → arr n b = arr s b)
              ∧ (1 ≤ len → u.preamble = true → rises (spReg a.val 0x20) lost s n)
              ∧ (u.preamble = true → slotDesc n f k = some (descAdvance d len) ∧ rises (feReg f.val 0x20) len s n
                  ∧ arr n a = { u with portq := u.portq ++ [(q.val, memReads s p len)] })
              ∧ ∀ u1, u.preamble = false → slotChecks 5 true u (ringPieces g (ringTop g) g.filled len) = .ok u1 →
                  slotDesc n f k = some (descAdvance d len) ∧ rises (feReg f.val 0x20) len s n
                  ∧ arr n a = (ringFeed (u1, 0) q (memReads s p len)).1)
          ∧ (env = .eccUncorrectable → 1 ≤ len → merePresent s1 p = false → frameTag s1 (p / 65536) ≠ .image →
            ∃ n, exec c s = .next n ∧ n.mem = s.mem
              ∧ slotDesc n f k = some { d with st := .faulted, code := 8, faultAddr := x }))
        ∧ (ringTakes u q len = false → u.preamble = false →
            ∃ n, exec c s = .next n ∧ slotDesc n f k = some { d with st := .ringStall, stallAt := some (nowClk s) }
              ∧ n = { s with fes := n.fes, regs := n.regs }
              ∧ rises (ringReg a.val d.desc.ring 0x10) (stallClks d.stallAt (nowClk s) true) s n)
        ∧ (ringTakes u q len = false → u.preamble = true → exec c s = .next s))
      ∧ (d.desc.op = 1 → 4 ≤ q.val →
        (∀ u1, Inv s → tvaReadOnly s1 t x len = false → tvaMapped s1 t x len = true → (∀ p ∈ tvaLines s1 t x len, p < hbmCap s1) →
          g.enable = true → len ≤ ringHolds g → slotChecks 4 false (arr s1 a) (ringPieces g g.head g.filled len) = .ok u1 →
          ∃ n, exec c s = .next n ∧ slotDesc n f k = some (descAdvance d len)
            ∧ rises (feReg f.val 0x28) len s n ∧ (1 ≤ len → rises (spReg a.val 0x20) lost s n)
            ∧ n.mem = (tvaWrites s1 t x (ringTake u1 q len).2).mem
            ∧ ((arr n a).rings[q]) = ((ringTake u1 q len).1.rings[q])
            ∧ ∀ y, (∀ i, i < len → tvaDpa s1 t (x + i) ≠ some y) → cellRead y n.mem = cellRead y s.mem)
        ∧ (ringHolds g < len →
            ∃ n, exec c s = .next n ∧ slotDesc n f k = some { d with st := .ringStall, stallAt := some (nowClk s) }
              ∧ n = { s with fes := n.fes, regs := n.regs }
              ∧ rises (ringReg a.val d.desc.ring 0x18) (stallClks d.stallAt (nowClk s) true) s n))

/-- FAULT_RESUME: a POOL_UNMAPPED fault that finds a frame maps it and becomes NO_FRAME where there is none, and a RAILE_UNREACHABLE
fault ends once a path leads to the node and stays until then; the descriptor goes on from its progress record with no fault shown.
A descriptor whose last burst has moved, with nothing of it waiting at the port or for an acknowledgement and no NOTIFY open,
completes: FE_DESC_DONE counts one, the barrier it signals rises, and its slot takes the next descriptor of the engine's lists, if
there is one. One whose packets are not all acknowledged waits while paths lead to their nodes, and one whose NOTIFY another node is to
accept sends it, once. -/
def Obligations.DescriptorsEnd : Prop :=
  (
  ∀ (f : FeId) (k : Fin 64) (s : State) (d : DescRun) (w : ItemRun),
    slotDesc s f k = some d → itemOf s d.item = some w → d.st = .faulted →
      (∀ s1, d.code = 1 → mapPage s (itemTenant s w) (some w.rqt) d.faultAddr = some s1 →
        ∃ n, exec (.faultResume f k) s = .next n ∧ slotDesc n f k = some { d with st := .running, code := 0 } ∧ n.mem = s1.mem
          ∧ (∀ x ∈ (fe n f).faults, x.fill = true ∨ x.slot ≠ k.val))
      ∧ (d.code = 1 → mapPage s (itemTenant s w) (some w.rqt) d.faultAddr = none →
        ∃ n, exec (.faultResume f k) s = .next n ∧ slotDesc n f k = some { d with code := 4 } ∧ n.mem = s.mem)
      ∧ (d.code = 7 → raileReach s (d.faultAddr / 2 ^ 52) = true →
        ∃ n, exec (.faultResume f k) s = .next n ∧ slotDesc n f k = some { d with st := .running, code := 0 }
          ∧ n = { s with fes := n.fes, regs := n.regs })
      ∧ (d.code = 7 → raileReach s (d.faultAddr / 2 ^ 52) = false → exec (.faultResume f k) s = .next s))
  ∧ (
  ∀ (f : FeId) (k : Fin 64) (s : State) (d : DescRun) (w : ItemRun) (q : Fin 6),
    slotDesc s f k = some d → itemOf s d.item = some w → descRing d.desc = some q → descActive d = true → descMoved d = true →
    w.halted = 0 → portWaiting (arr s (descArr w d.desc)) q.val = 0 →
      (d.wr = [] → d.ntf = none →
        ∃ n, exec (.descriptorComplete f k) s = .next n
          ∧ n = { s with arrays := n.arrays, fes := n.fes, regs := n.regs, bars := n.bars }
          ∧ (∀ b, b ≠ descArr w d.desc → arr n b = arr s b) ∧ (d.desc.endB = false → n.arrays = s.arrays)
          ∧ rises (feReg f.val 0x30) 1 s n ∧ regsBut [feReg f.val 0x30] s n
          ∧ ((fe s f).waitq = [] → slotDesc n f k = some { d with st := .done } ∧ (fe n f).waitq = [])
          ∧ (∀ x r, (fe s f).waitq = x :: r → slotDesc n f k = some x ∧ (fe n f).waitq = r)
          ∧ (d.desc.signalBar = 0xFF → n.bars = s.bars)
          ∧ (∀ b, d.desc.signalBar ≠ 0xFF → w.barMap[d.desc.signalBar]? = some b → n.bars = (barInc s b).bars))
      ∧ (d.wr ≠ [] → (∀ x ∈ d.wr, raileReach s (x.addr / 2 ^ 52) = true) → exec (.descriptorComplete f k) s = .next s)
      ∧ (∀ x : NodeId × BitVec 24 × Nat, d.wr = [] → d.ntf = some x → d.notified = false → d.ntfMsg = none → x.1.toNat ≠ ownNode s →
        ∃ n, exec (.descriptorComplete f k) s = .next n ∧ slotDesc n f k = some { d with ntfMsg := some s.msgNo }
          ∧ n.msgNo = s.msgNo + 1 ∧ n.mem = s.mem))

/-- A work item completes before its tick once every array of its gang and every descriptor of it is done: its arrays go
idle, and arrays outside the gang, memory and every request are as they were; its array-clocks in the interval of the energy
accounting are counted. -/
def Obligations.WorkItemCompletes : Prop :=
  ∀ (id : Nat) (s : State) (w : ItemRun), itemOf s id = some w → w.done = false → w.halted = 0 → w.failStatus = 0 →
    itemComplete s w = true → w.width ≤ 64 →
      ∃ n, exec (.workItemComplete id) s = .next n
        ∧ n = { s with items := n.items, arrays := n.arrays, power := (meterArrays s w).power }
        ∧ itemOf n id = some { w with done := true } ∧ (∀ j, j ≠ id → itemOf n j = itemOf s j)
        ∧ (∀ b, b ∉ gangArrays w → arr n b = arr s b)
        ∧ ∀ b ∈ gangArrays w, arr n b = { arr s b with
            cur := none
            st := if (arr s b).st = .fallow then .fallow else .idle
            ve := if (arr s b).ve = .fallow then .fallow else .idle }

/-- A doorbell count is accepted when it does not go back and does not pass what the queue can hold, counting modulo 2^32;
the queue's count is then the value written and nothing else changes. Any other value, and a slot without a queue, sets
DB_ERR of the slot and sends vector 0 of the function, or leaves it in its pending bit. A record that waited for room enters the
completion queue when its count makes room, unless the overflow area cannot be read. A completion queue's vector is sent when COAL_RECORDS records stand
unannounced, or any where a completion record is among them, or when the COAL_US timer of the first has run out; all records
written are announced then. -/
def Obligations.QueueCounts : Prop :=
  (
  ∀ (ld : LdId) (slot : Fin 8) (val : Reg64) (s : State),
    let x := val.toNat % 2 ^ 32
    (slotQueue s ld slot = none →
      exec (.sqTail ld slot val) s = .next (dbReject s ld slot) ∧ exec (.cqHead ld slot val) s = .next (dbReject s ld slot))
    ∧ ∀ q, slotQueue s ld slot = some q →
        let u := que s q
        let above (b y : Nat) : Nat := (y + 2 ^ 32 - b) % 2 ^ 32
        ((above u.sqHead u.sqTail ≤ above u.sqHead x ∧ above u.sqHead x ≤ 2 ^ u.sqLog2) →
          exec (.sqTail ld slot val) s = .next (setQue s q { u with sqTail := x }))
        ∧ (¬ (above u.sqHead u.sqTail ≤ above u.sqHead x ∧ above u.sqHead x ≤ 2 ^ u.sqLog2) →
          exec (.sqTail ld slot val) s = .next (dbReject s ld slot))
        ∧ (above u.cqHead x ≤ above u.cqHead u.written → (ten s ld).overflow = [] →
          exec (.cqHead ld slot val) s = .next (setQue s q { u with cqHead := x }))
        ∧ (∀ w : OverRec, above u.cqHead x ≤ above u.cqHead u.written → (ten s ld).overflow = [w] → w.queue = q.val → u.pair = true →
          cqFull { u with cqHead := x } = false → poisoned s (reserveLine s 2 ld.val) 256 = false →
          exec (.cqHead ld slot val) s = .next (putRecord (setTen (setQue s q { u with cqHead := x }) ld
            { ten s ld with overflow := [], places := (ten s ld).places - b2n w.place }) q w.bytes w.compl))
        ∧ (above u.cqHead u.written < above u.cqHead x → exec (.cqHead ld slot val) s = .next (dbReject s ld slot)))
  ∧ (
  ∀ (q : Fin 128) (s : State),
    let u := que s q
    let k := (u.written + 2 ^ 32 - u.announced) % 2 ^ 32
    let sent := sendMsix (setQue s q { u with announced := u.written, complNew := false, timerOn := false })
      (ldFn s (queueLd s q.val)) u.vector
    u.pair = true →
      (0 < k → (u.complNew = true ∨ u.coalRecords ≤ k) → exec (.completionVector q) s = .next sent)
      ∧ (u.timerOn = true → 0 < u.coalUs → u.written ≠ u.announced → exec (.coalTimer q) s = .next sent))

/-- A submission read consumes exactly one entry of its queue: SQ_HEAD rises by one. A valid one, whose RPB and inputs can be read,
enters QUEUED at its queue's end: a new request takes the lowest free entry, with the tag, image, MAX_NEW and target length that it
names, and a continuation the retained entry that it names, with that entry's image and committed length. One that is not valid
gets a completion record that says why, in its queue or in the LD's overflow: INVALID where its entry, its RPB or its inputs cannot
be read, and otherwise the status of R230. An admission pass admits the one request that waits, when its queue's deficit covers its
cost and a plan, a chain and a tail are found for it: the entry is ADMITTED with the plan and both quotes, its work holds the
chain and the chunks, and one is counted in RQT_ADMITTED. A pass that finds no eligible head in any queue admits nothing and
takes every queue's deficit; while admission is held (firmware, the first tick, a stop, a halt, a FATAL finding) a pass changes
nothing. -/
def Obligations.SubmissionAndAdmission : Prop :=
  (
  ∀ (q : Fin 128) (s : State), mayReadSq s q = true →
    let u := que s q
    let t := ldId (queueLd s q.val)
    let s0 := setQue s q { u with sqHead := (u.sqHead + 1) % 2 ^ 32 }
    let s1 := setTen s0 t { ten s0 t with places := (ten s0 t).places + 1 }
    let rd := readRange s1 t (u.sqTva + u.sqHead % 2 ^ u.sqLog2 * 128) 128
    (∃ n, exec (.submissionRead q) s = .next n ∧ (que n q).sqHead = (u.sqHead + 1) % 2 ^ 32
      ∧ (∀ p, p ≠ q → que n p = que s p)
      ∧ ((∃ i, (que n q).waiting = u.waiting ++ [i] ∧ (entryOf n i).state = .queued ∧ (entryOf n i).ld = t.val)
        ∨ ((que n q).waiting = u.waiting ∧ n.rqt = s.rqt
            ∧ ((que n q).written = (u.written + 1) % 2 ^ 32
                ∨ (ten n t).overflow.length = (ten s t).overflow.length + 1))))
    ∧ (rd.2 = none → exec (.submissionRead q) s = .next (answerSub rd.1 t q 0xFFFFFFFF 7))
    ∧ ∀ b, rd.2 = some b →
      let tag := fld b 4 4
      let headOk := fld b 0 1 = 1 ∧ zeroAt b 1 3 = true ∧ zeroAt b 16 112 = true ∧ tag < 2 ^ 31
      let rr := readRange rd.1 t (fld b 8 8) 2432
      (¬ headOk → exec (.submissionRead q) s = .next (answerSub rd.1 t q tag 7))
      ∧ (headOk → fld b 8 8 % 64 ≠ 0 →
        exec (.submissionRead q) s = .next (answerSub (windowMiss rd.1 t (fld b 8 8)) t q tag 7))
      ∧ (headOk → fld b 8 8 % 64 = 0 → rr.2 = none → exec (.submissionRead q) s = .next (answerSub rr.1 t q tag 7))
      ∧ ∀ r, headOk → fld b 8 8 % 64 = 0 → rr.2 = some r →
        let ri := readInputs rr.1 t r
        let v := ri.1
        (ri.2 = none → exec (.submissionRead q) s = .next (answerSub v t q tag 7))
        ∧ ∀ x, ri.2 = some x →
          let p := rpbParams r x.2.1 x.2.2
          let isCont := bitAt (fld r 0x1C 4) 31
          let queued (n : State) (i : Nat) : Prop := (que n q).waiting = u.waiting ++ [i] ∧ (entryOf n i).state = .queued
            ∧ (entryOf n i).tag = tag ∧ (entryOf n i).ld = t.val ∧ (entryOf n i).queue = q.val ∧ (entryOf n i).genLeft = p.maxNew
            ∧ (workOf n i).tokens = x.1
          (isCont = false →
            (submitStatus v t r tag x.1 p none ≠ 0 →
              exec (.submissionRead q) s = .next (answerSub v t q tag (submitStatus v t r tag x.1 p none)))
            ∧ (submitStatus v t r tag x.1 p none = 0 → entriesFree v t.val 1 = false →
              exec (.submissionRead q) s = .next (answerSub v t q tag 6))
            ∧ (submitStatus v t r tag x.1 p none = 0 → entriesFree v t.val 1 = true → fld r 4 1 = 0xFF →
              ∃ n, exec (.submissionRead q) s = .next n ∧ queued n (freeIndex v) ∧ (entryOf n (freeIndex v)).image = fld r 0 2
                ∧ (entryOf n (freeIndex v)).committed = 0 ∧ (entryOf n (freeIndex v)).targetLen = x.1.length))
          ∧ (∀ i e, isCont = true → byTag v t.val (fld r 0x1C 4 % 2 ^ 31) = some (i, e) → (∀ o ∈ v.ops, o.entry ≠ i) →
            retained e = true → (workOf v i).releaseReq = false → submitStatus v t r tag x.1 p (some i) = 0 →
              ∃ n, exec (.submissionRead q) s = .next n ∧ queued n i ∧ (entryOf n i).image = (entryOf v i).image
                ∧ (entryOf n i).committed = (entryOf v i).committed
                ∧ (entryOf n i).targetLen = (entryOf v i).committed + x.1.length))
  ∧ (
  ∀ s : State,
    (∀ (q : Fin 128) (i plan qt tq : Nat) (chunks : List Nat) (chain : List LaneFurrow) (s1 s2 : State), admits s = true →
      (que s q).waiting = [i] → queueHead s q = some i → (∀ p, p ≠ q → (que s p).waiting = []) →
      let add := regField s (qcfgOff q.val) 7 0 * regField s (rqtReg 0x100000) 31 0
      let d := Nat.min (2 ^ 32 - 1) ((que s q).deficit + add)
      let v := setQue s q { que s q with deficit := d, waiting := [] }
      let e := entryOf s i
      admitCost s i ≤ d → damagedFor v e = false → e.forest = false → jobOf v i = none →
      admitPlans (curFurrow s) i e (secD (imgRd v e.image) 8).count 0 v none false = .fits s1 plan chunks chain qt →
      bookTail (setWork s1 i { workOf s1 i with chain := chain }) i e qt qt = .ok (s2, tq) →
        ∃ n, exec .admissionPass s = .next n ∧ (entryOf n i).state = .admitted ∧ (entryOf n i).plan = plan
          ∧ (entryOf n i).quote = qt ∧ (entryOf n i).tailQuote = tq ∧ (workOf n i).chain = chain ∧ (workOf n i).chunkLens = chunks
          ∧ (que n q).waiting = [] ∧ rises (rqtReg 0x100018) 1 s2 n)
    ∧ (admits s = true → (∀ q, queueHead s q = none) →
      ∃ n, exec .admissionPass s = .next n ∧ n = { s with queues := n.queues } ∧ ∀ q, que n q = { que s q with deficit := 0 })
    ∧ (admits s = false → exec .admissionPass s = .next s))

/-- CANCEL and RELEASE, by the state of the entry that the tag names: an active request is marked for cancelling, once, and whether
the cancel came in the window's last furrow is noted; one in a bundle operation is NOT_CANCELLABLE, one that has ended is
ALREADY_DONE and counts; a retained or PARKED entry without an operation is released at a headland to come, an entry with one is
BUSY, and any other is in BAD_STATE; and a tag that no entry has is NO_SUCH_REQUEST. -/
def Obligations.CancelAndRelease : Prop :=
  ∀ (m : Mbox) (p : List Byte) (s : State) (t : LdId), mboxLive s m = true → gate s { len := 0x0C } m p false = .ok t →
    (byTag s t.val (fld p 8 4) = none →
      exec (.cancel m p) s = .next (reply s m 0 (bruahOut 3 [])) ∧ exec (.releaseRequest m p) s = .next (reply s m 0 (bruahOut 3 [])))
    ∧ ∀ i e, byTag s t.val (fld p 8 4) = some (i, e) →
        ((e.state = .queued ∨ e.state = .admitted ∨ e.state = .running ∨ e.state = .generating) →
          ((entryOf s i).cancelPending = false → exec (.cancel m p) s = .next (reply (setEntry
            (setWork s i { workOf s i with cancelLate := lateChange s }) i { entryOf s i with cancelPending := true }) m 0 (bruahOut 0 [])))
          ∧ ((entryOf s i).cancelPending = true → exec (.cancel m p) s = .next (reply s m 0 (bruahOut 0 []))))
        ∧ ((e.state = .parking ∨ e.state = .parked ∨ e.state = .lifting) →
          exec (.cancel m p) s = .next (reply s m 0 (bruahOut 2 [])))
        ∧ ((e.state = .complete ∨ e.state = .cancelled ∨ e.state = .failed ∨ e.state = .failedPartial) →
          exec (.cancel m p) s = .next (reply (regBump s (rqtReg 0x100030) 1) m 0 (bruahOut 1 [])))
        ∧ (opOf s i = none → (retained e = true ∨ e.state = .parked) →
          exec (.releaseRequest m p) s
            = .next (reply (setWork s i { workOf s i with releaseReq := true, freeLate := lateChange s }) m 0 (bruahOut 0 [])))
        ∧ (opOf s i = none → retained e = false → e.state ≠ .parked →
          exec (.releaseRequest m p) s = .next (reply s m 0 (bruahOut 9 [])))
        ∧ (opOf s i ≠ none → exec (.releaseRequest m p) s = .next (reply s m 0 (bruahOut 0x0A [])))

/-- A chunk whose work items have all completed commits its positions: COMMITTED rises by the chunk's length and the chunk leaves
the list. After the last chunk a request without a tail is COMPLETE, and one with a tail generates, or has met a stop with its first
token; where no token record has room the commit waits and the request is late. A chunk of a request that is being cancelled is
given up without a commit. A forest's chunk completes the request, each branch becoming a retained entry of its own with the
committed length of its path. A last chunk whose logits, or the pages that its split step reads, are poisoned fails the request with
status 0x0203. A re-sown run leaves its list. Rounds: after the last step the samplers choose the tokens of every
seat that generates, and at the tick a sampled round commits, leaves the calendar with its work items and counts one; a seat
streams its tokens up to the first stop, and its committed length rises by as many; one whose samplers met poison fails with status
0x0203, and where that poison stood in the round's logits the round does not count. A fetch fault or peer wait that has lasted
STALL_LIMIT furrows fails the request: it ends FAILED_PARTIAL, or FAILED where no position is committed, with status FETCH_FAULT
(R379) and its bookings released. -/
def Obligations.RequestsCommit : Prop :=
  (
  ∀ (i : Fin 4096) (s : State) (x : Nat) (r : List Nat),
    let e := entryOf s i.val
    let w := workOf s i.val
    let c : Instr := .chunkCommit i
    let room := tokenRoom s (ldId e.ld) (queId e.queue)
    let v := touchAll s (ldId e.ld) (splitReads s i.val)
    let split := anyPoisoned v (ldId e.ld) (splitReads v i.val)
    chunkReady s i.val = true → w.chunkLens = x :: r →
      (e.cancelPending = true → ∃ n, exec c s = .next n ∧ entryOf n i.val = e ∧ (workOf n i.val).chunkLens = r ∧ n.mem = s.mem)
      ∧ (e.cancelPending = false → e.forest = false → r ≠ [] →
        ∃ n, exec c s = .next n ∧ (entryOf n i.val).committed = e.committed + x
          ∧ (entryOf n i.val).booked = e.targetLen - (e.committed + x) ∧ (entryOf n i.val).state = .running
          ∧ (workOf n i.val).chunkLens = r)
      ∧ (e.cancelPending = false → e.forest = false → r = [] → e.seedRng.maxNew = 0 →
        ∃ n, exec c s = .next n ∧ (entryOf n i.val).committed = e.committed + x ∧ (entryOf n i.val).state = .complete
          ∧ (entryOf n i.val).status = 0 ∧ (workOf n i.val).chunkLens = [] ∧ (workOf n i.val).chain = [])
      ∧ (e.cancelPending = false → e.forest = false → r = [] → 0 < e.seedRng.maxNew → room = true →
        logitPoison (touchLogits s i.val 1) i.val 1 ≠ 0 → ∃ n, exec c s = .next n ∧ poisoned0203 n i.val)
      ∧ (e.cancelPending = false → e.forest = true → r = [] → e.seedRng.maxNew = 0 → split = true →
        ∃ n, exec c s = .next n ∧ poisoned0203 n i.val)
      ∧ (e.cancelPending = false → e.forest = false → r = [] → 0 < e.seedRng.maxNew → room = true →
        logitPoison (touchLogits s i.val 1) i.val 1 = 0 →
        ∃ n, exec c s = .next n ∧ (entryOf n i.val).committed = e.committed + x
          ∧ ((entryOf n i.val).state = .generating ∨ (entryOf n i.val).state = .complete)
          ∧ (workOf n i.val).chunkLens = [] ∧ (workOf n i.val).chain = [])
      ∧ (e.cancelPending = false → r = [] → 0 < e.seedRng.maxNew → room = false → exec c s = .next (makeLate s i.val 8))
      ∧ (e.cancelPending = false → e.forest = true → r = [] → e.seedRng.maxNew = 0 → split = false →
        ∃ n, exec c s = .next n ∧ (entryOf n i.val).state = .complete ∧ (entryOf n i.val).committed = e.committed
          ∧ (∀ y, e.seedRng.branches = [y] → (∃ k, k < 4096 ∧ lookupN k s.rqt = none) →
              let z := entryOf n (freeIndex s)
              z.state = .complete ∧ z.retain = true ∧ z.parent = some i.val ∧ z.tag = (e.tag + 1) % 2 ^ 31
              ∧ z.committed = e.committed + (pathTo e.seedRng.parents y y []).length)))
  ∧ (
  ∀ (i : Fin 4096) (s : State) (x y : Nat × Nat) (xs : List (Nat × Nat)),
    let w := workOf s i.val
    chunkReady s i.val = false → resowReady s i.val = true → w.resow = x :: y :: xs →
      ∃ n, exec (.chunkCommit i) s = .next n ∧ (workOf n i.val).resow = y :: xs ∧ (workOf n i.val).stepNo = 0
        ∧ (entryOf n i.val).booked = (entryOf s i.val).booked - nthD 0 w.chunkLens 0 ∧ (entryOf n i.val).state = .lifting
        ∧ n.mem = s.mem)
  ∧ (
  ∀ (k : Nat) (s : State) (r : Round), roundOf s k = some r →
    (roundReady s r = true →
      let mine := r.seats.filter (fun i => (entryOf s i).state == .generating)
      let fed (s : State) (i : Nat) : Nat := 1 + seatHeads (modelOf s (entryOf s i)) (entryOf s i)
      let v := mine.foldl (fun s i => touchLogits s i (fed s i)) s
      let outs := mine.map (sampleSeat v)
      ∃ n, exec (.roundSample k) s = .next n
        ∧ roundOf n k = some { r with
            sampled := true, outcome := (mine.zip outs).map (fun x => { x.2.1 with bad := logitPoison v x.1 (fed v x.1) }) }
        ∧ n.rqt = s.rqt ∧ n.mem = s.mem ∧ n.items = s.items ∧ rises (rqtReg 0x100080) (sumN (outs.map (·.2))) s n)
    ∧ (r.sampled = true → ∃ n, exec (.roundCommit k) s = .next n ∧ roundOf n k = none
        ∧ (∀ w ∈ n.items, w.round ≠ some r.id) ∧ ((∀ o ∈ r.outcome, o.bad ≠ 2) → rises (rqtReg 0x100068) 1 s n)
        ∧ (∀ o, r.outcome = [o] → (o.bad = 1 ∨ o.bad = 2) → (entryOf s o.entry).state = .generating →
          (entryOf s o.entry).cancelPending = false → poisoned0203 n o.entry)
        ∧ ∀ o, r.outcome = [o] → o.bad = 0 → (entryOf s o.entry).state = .generating → (entryOf s o.entry).cancelPending = false →
          tokenRoom s (ldId (entryOf s o.entry).ld) (queId (entryOf s o.entry).queue) = true →
          ∃ j, j ≤ o.toks.length ∧ (o.toks ≠ [] → 1 ≤ j) ∧ (entryOf n o.entry).committed = (entryOf s o.entry).committed + j
            ∧ (entryOf n o.entry).genLeft = (entryOf s o.entry).genLeft - j
            ∧ (entryOf n o.entry).draftsAccepted = (entryOf s o.entry).draftsAccepted + o.accepted
            ∧ ((entryOf n o.entry).state = .generating ∨ (entryOf n o.entry).state = .complete)))
  ∧ (
  ∀ (i : Fin 4096) (s : State),
    let e := entryOf s i.val
    let w := workOf s i.val
    (e.state = .running ∨ e.state = .generating) → 0 < w.stallFurrows →
    Nat.max 1 (regField s (fltReg 0) 47 32) ≤ w.stallFurrows →
      ∃ n, exec (.stallLimit i) s = .next n ∧ (entryOf n i.val).state = (if 0 < e.committed then .failedPartial else .failed)
        ∧ (entryOf n i.val).status = 0x0202 ∧ (workOf n i.val).chain = [] ∧ (workOf n i.val).chunkLens = [])

/-- EXPORT, PARK and LIFT that pass their checks take a completion place and answer OK at once; the operation then goes on. An
export or park of a retained entry without an operation, within the region given and with no FORKED block that is dirty, to an
address of another node, holds its operation, with the address and the length that its blocks need; a park's entry is PARKING.
A lift takes a PARKED entry, or a free one with the tag, queue and image that it names, to LIFTING. A tag that no entry of the LD
has is NO_SUCH_REQUEST for EXPORT and PARK. A bundle whose parts have all been written ends its operation, its bytes counting in
BND_WR_BYTES: an export counts one in BND_EXPORTS and leaves the entry as it was; a park counts one in BND_PARKS and its entry is
PARKED with the bundle's address. The start of the header, with its magic zero, is the first part where it was not written at the
command. A part that is denied, and a write fault that cannot be resolved or has lasted TIMEOUT_MS, end
the operation too, a park's entry returning to the state it left; while the peer cannot be reached before that, the operation
waits. -/
def Obligations.BundleOperations : Prop :=
  (
  ∀ (m : Mbox) (p : List Byte) (s : State) (t : LdId),
    let place := setTen s t { ten s t with places := (ten s t).places + 1 }
    let a := fld p 0x10 8
    mboxLive s m = true → a % 4096 = 0 →
      (∀ i e, gate s { len := 0x20 } m p (!zeroAt p 0x0C 4) = .ok t → byTag s t.val (fld p 8 4) = some (i, e) →
        (ten s t).places < 4096 →
        exec (.exportBundle m p) s = .next (reply (startBundle place i 0 a (fld p 0x18 8)) m 0 (bruahOut 0 []))
        ∧ exec (.park m p) s = .next (reply (startBundle place i 1 a (fld p 0x18 8)) m 0 (bruahOut 0 []))
        ∧ (let e := entryOf s i
           let md := modelOf place e
           let rows := carried place i
           let lay := bundleLay rows.length md.vocab
           let total := totalLen md lay.data (placeBlocks md lay.data rows)
           opOf s i = none → retained e = true → (workOf s i).releaseReq = false →
           rows.any (fun x => bitAt x.2.2 1 && !bitAt x.2.2 0) = false → total ≤ fld p 0x18 8 → a / 2 ^ 52 ≠ ownNode s →
           let holds (n : State) (k : Nat) : Prop := ∃ o, opOf n i = some o ∧ o.kind = k ∧ o.addr = a ∧ o.len = total
             ∧ o.committed = e.committed ∧ n.ops.length = s.ops.length + 1
           (∃ n, exec (.exportBundle m p) s = .next n ∧ holds n 0 ∧ entryOf n i = e)
           ∧ ∃ n, exec (.park m p) s = .next n ∧ holds n 1 ∧ entryOf n i = { e with state := .parking, bundle := a }
               ∧ (workOf n i).leftState = e.state))
      ∧ (gate s { len := 0x20 } m p (!zeroAt p 0x0C 4) = .ok t → byTag s t.val (fld p 8 4) = none →
        exec (.exportBundle m p) s = .next (reply s m 0 (bruahOut 3 [])) ∧ exec (.park m p) s = .next (reply s m 0 (bruahOut 3 [])))
      ∧ (gate s { len := 0x1D } m p (decide (8 ≤ fld p 0x0C 1)) = .ok t → (ten s t).places < 4096 →
        let begun (n : State) (i : Nat) : Prop := (mboxOf n m).ret = 0 ∧ (mboxOf n m).outp = bruahOut 0 []
          ∧ (entryOf n i).state = .lifting ∧ (entryOf n i).bundle = a ∧ (ten n t).places = (ten s t).places + 1
          ∧ n.ops.length = s.ops.length + 1 ∧ ∃ o ∈ n.ops, o.entry = i ∧ o.kind = 2 ∧ o.addr = a ∧ o.headerOk = false
        (∀ i e, bitAt (fld p 0x0C 1) 0 = false → byTag s t.val (fld p 8 4) = some (i, e) → e.state = .parked →
          (workOf s i).releaseReq = false → opOf s i = none → ∃ n, exec (.lift m p) s = .next n ∧ begun n i)
        ∧ (bitAt (fld p 0x0C 1) 0 = true → fld p 8 4 < 2 ^ 31 → tagUsed s t.val (fld p 8 4) none = false → fld p 0x0D 1 < 128 →
          queueLd s (fld p 0x0D 1) = t.val → entriesFree s t.val 1 = true →
          ∃ n, exec (.lift m p) s = .next n ∧ begun n (freeIndex s) ∧ (entryOf n (freeIndex s)).tag = fld p 8 4
            ∧ (entryOf n (freeIndex s)).ld = t.val ∧ (entryOf n (freeIndex s)).queue = fld p 0x0D 1
            ∧ (entryOf n (freeIndex s)).image = fld p 0x0E 2)))
  ∧ (
  ∀ (i : Fin 4096) (s : State) (o : BundleOp), opOf s i.val = some o → o.kind < 2 →
    let w := workOf s i.val
    let parts := (if o.begun then [] else [(o.addr, headStart s (entryOf s i.val) o)]) ++ (sealBundle s i.val o).1
    let r := raileStores (touchBundle s i.val o) (entryOf s i.val).ld parts 0
    let abandoned (n : State) : Prop := opOf n i.val = none ∧ (o.kind = 0 → entryOf n i.val = entryOf s i.val)
      ∧ (o.kind = 1 → w.leftState ≠ .free → (entryOf n i.val).state = w.leftState ∧ (entryOf n i.val).bundle = 0)
    let waits : Prop := raileOpen s o.addr = false ∧ ∃ t0, o.stallAt = some t0
      ∧ rqtNow s < t0 + regField s (bndReg 0x38) 15 0 * 100000
    (raileOpen s o.addr = true → r.2.1 = true → ∃ n, exec (.bundleWritten i) s = .next n ∧ opOf n i.val = none
      ∧ rises (bndReg 0x70) r.2.2 s n
      ∧ (o.kind = 0 → entryOf n i.val = entryOf s i.val ∧ rises (bndReg 0x40) 1 s n)
      ∧ (o.kind = 1 → (entryOf n i.val).state = .parked ∧ (entryOf n i.val).bundle = o.addr ∧ rises (bndReg 0x48) 1 s n))
    ∧ (raileOpen s o.addr = true → r.2.1 = false → ∃ n, exec (.bundleWritten i) s = .next n ∧ abandoned n)
    ∧ (raileOpen s o.addr = false →
      exec (.bundleWritten i) s = .next (setOp s { o with stallAt := some (o.stallAt.getD (rqtNow s)) }))
    ∧ (¬ waits → ∃ n, exec (.bundleWriteFailed i) s = .next n ∧ abandoned n)
    ∧ (waits → exec (.bundleWriteFailed i) s = .next s))

/-- Lifting, with what the node of the bundle answers, or, at the own node, with what stands in memory under the region table
(`s0` and `x` after the read); nothing changes while no path leads there. A header that passes the checks of R291 is held by the operation with its block table, and the lift's frames are booked;
one that names no block ends the lift at once, and one that fails a check stops it. A block that reads whole and verifies is lifted
into new pages, counts one in BND_BLK_LIFTED and is decided; one that does not, is not FORKED and has its tokens is marked for
re-sowing; a block that is decided is not decided again. The last block ends a lift that has nothing to re-sow: the entry is
COMPLETE with the bundle's committed length. Once every block of a lift has been read, or recovery needs more than the bundle had,
the re-sow runs are booked like an admission: the entry holds the plan and the quote, its work the chain and the runs, and
BND_BLK_RESOWN counts their blocks; where no plan serves them the lift stops. -/
def Obligations.LiftsAndResowing : Prop :=
  (
  ∀ (i : Fin 4096) (s : State) (o : BundleOp), opOf s i.val = some o → o.kind = 2 →
    (∀ y : LiftHeader, o.headerOk = false → liftHead s i.val o y = none → exec (.liftHeaderRead i y) s = .next s)
    ∧ (∀ (y : LiftBlock) (k : Nat) (row : Nat × Nat × Nat × Nat), o.headerOk = true →
        findIdxFrom (fun r => r.1 == y.index) o.table 0 = some (k, row) →
        liftData s i.val o row.2.2.2 (dataLen (modelOf s (entryOf s i.val)) (bitAt row.2.2.1 0)) y = none →
        exec (.liftBlockRead i y) s = .next s)
    ∧ (∀ (y x : LiftHeader) (s0 : State), liftHead s i.val o y = some (s0, x) → o.headerOk = false → (entryOf s i.val).state = .lifting →
      let e := resolveImage s0 (entryOf s0 i.val) x.bytes
      let n0 := if x.readOk then x.bytes.length else 0
      let s1 := meterMem (regBump s0 (bndReg 0x78) n0) (.entry i.val) n0
      let r := liftChecks s1 e x.bytes x.readOk
      let h := slice x.bytes 0 4096
      let s2 := setOp s1 { o with committed := fld h 0x5C 4 }
      let fr := liftFrames (modelOf s2 e) (fld h 0x94 4)
      (r.1 ≠ 0 → exec (.liftHeaderRead i y) s = .next (liftStop (setOp s1 o) i.val r.1 none))
      ∧ (r.1 = 0 → (poolEvict (s2.nodes.length + 1) s2 e.ld fr).2 = true → fld h 0x94 4 ≠ 0 →
        ∃ n o', exec (.liftHeaderRead i y) s = .next n ∧ opOf n i.val = some o' ∧ o'.headerOk = true ∧ o'.header = h
          ∧ o'.committed = fld h 0x5C 4 ∧ o'.len = fld h 0x18 8 ∧ o'.table = readTable x.bytes (fld h 0x94 4)
          ∧ (entryOf n i.val).adapterId = fld h 0x50 2 ∧ (workOf n i.val).booking = fr)
      ∧ (r.1 = 0 → (poolEvict (s2.nodes.length + 1) s2 e.ld fr).2 = true → fld h 0x94 4 = 0 → o.resow = [] →
        (workOf s i.val).recover = none →
        ∃ n, exec (.liftHeaderRead i y) s = .next n ∧ opOf n i.val = none ∧ (entryOf n i.val).state = .complete
          ∧ (entryOf n i.val).committed = fld h 0x5C 4))
    ∧ (∀ (y x : LiftBlock) (s0 : State) (k : Nat) (row : Nat × Nat × Nat × Nat), o.headerOk = true →
        findIdxFrom (fun r => r.1 == y.index) o.table 0 = some (k, row) →
        liftData s i.val o row.2.2.2 (dataLen (modelOf s (entryOf s i.val)) (bitAt row.2.2.1 0)) y = some (s0, x) →
        let e := entryOf s0 i.val
        let md := modelOf s0 e
        let pages := bitAt row.2.2.1 0
        let hz := slice o.header 0 0xD0 ++ List.replicate 48 0 ++ slice o.header 0x100 3840
        let pt := gcmOpen (bundleKey (materialOf s0 e.ld)) (bundleIv o.bundleId.toNat x.index)
          (sha384 hz ++ slice o.rawTable (32 * k) 32) (slice x.bytes 0 (dataLen md pages)) (slice o.tags (16 * (k + 1)) 16)
        let lifted : Prop := pages = true ∧ x.tokRead = true ∧ x.pagesRead = true ∧ pt.2 = true
        (o.seen.contains y.index = true → exec (.liftBlockRead i y) s = .next s)
        ∧ (o.seen.contains y.index = false → lifted → o.seen.length + 1 < o.table.length →
            ∃ n o', exec (.liftBlockRead i y) s = .next n ∧ opOf n i.val = some o' ∧ o'.seen = addN x.index o.seen
              ∧ o'.resow = o.resow ∧ rises (bndReg 0x58) 1 s n
              ∧ (nthD noBlock (workOf n i.val).blocks x.index).valid = row.2.1
              ∧ (nthD noBlock (workOf n i.val).blocks x.index).forked = bitAt row.2.2.1 1)
        ∧ (o.seen.contains y.index = false → lifted → o.seen.length + 1 = o.table.length → o.resow = [] →
            (workOf s i.val).recover = none →
            ∃ n, exec (.liftBlockRead i y) s = .next n ∧ opOf n i.val = none ∧ (entryOf n i.val).state = .complete
              ∧ (entryOf n i.val).committed = o.committed)
        ∧ (o.seen.contains y.index = false → ¬ lifted → bitAt row.2.2.1 1 = false → x.tokRead = true →
            tokenAreaOk md row.2.1 (slice pt.1 0 4096) = true → o.seen.length + 1 < o.table.length →
            ∃ n o', exec (.liftBlockRead i y) s = .next n ∧ opOf n i.val = some o' ∧ o'.seen = addN x.index o.seen
              ∧ o'.resow = addN x.index o.resow ∧ n.mem = s.mem)))
  ∧ (
  ∀ (i : Fin 4096) (s : State),
    let e := entryOf s i.val
    let x := resowRuns s i.val
    let r := resowPlans s e x.2.2.2 x.2.2.1 x.1 (secD (imgRd s e.image) 8).count 0 none
    ((∃ o, opOf s i.val = some o ∧ o.kind = 2 ∧ o.headerOk = true ∧ o.table.length ≤ o.seen.length)
      ∨ (opOf s i.val = none ∧ (workOf s i.val).recover.isSome = true)) →
    e.state = .lifting → x.1 ≠ [] → (workOf s i.val).resow = [] →
      (∀ plan chunks chain q, r = .ok (plan, chunks, chain, q) →
        ∃ n, exec (.liftResowBooking i) s = .next n ∧ (entryOf n i.val).plan = plan ∧ (entryOf n i.val).quote = q
          ∧ (entryOf n i.val).booked = sumN (chunks.map (·.2)) ∧ (workOf n i.val).chain = chain ∧ (workOf n i.val).resow = chunks
          ∧ (workOf n i.val).chunkLens = chunks.map (·.2)
          ∧ rises (bndReg 0x60) (sumN (x.1.map (fun r => cdiv (r.1 + r.2) 64 - r.1 / 64))) s n)
      ∧ (∀ best, r = .error best →
        exec (.liftResowBooking i) s = .next (liftStop s i.val (if best.isSome then 1 else 2) best)))

/-- The journal: a batch whose BATCH_END is written moves HEAD and REQUIRED_JSEQ, counts one, and raises vector 1 of the owner's
function in an SLD, or leaves it in its pending bit; one that faulted, or that the own region table denied, is carried forward whole, in front of what has come since, and HEAD stays; one of a ring that
has changed since moves nothing. TAIL takes what is written, but never more than HEAD. Recovery: START_RECOVERY sets RECOVERING
while the journal is on, and answers BAD_STATE while it is off or a recovery runs. An LD whose key material is held has its entries
rebuilt, in the order of their records, from the complete batches, and is done; an LD without records is done at once; when no LD's
records remain RECOVERING clears, and the next record takes the sequence number after the last. Nothing is rebuilt for an LD that waits
for its material, and where the ring cannot be reached nothing changes (`s0` is the state after the ring was read, `there` what stood
in it). -/
def Obligations.JournalAndRecovery : Prop :=
  (
  ∀ s : State,
    (s.jrnl.busy = true → s.jrnl.stale = false →
      (s.jrnl.denied = false → ∃ n, exec (.journalBatchDone false) s = .next n ∧ regGet n (bndReg 0x10) = s.jrnl.pendHead % 2 ^ 64
        ∧ regGet n (bndReg 0x28) = s.jrnl.pendReq % 2 ^ 64 ∧ rises (bndReg 0x80) 1 s n
        ∧ regsBut [bndReg 0x10, bndReg 0x28, bndReg 0x80] s n ∧ n.jrnl = { s.jrnl with inFlight := [], busy := false }
        ∧ n.mem = s.mem ∧ n.out = s.out ++ (if s.pins.mld = true ∨ vectorOpen s .owner 1 = false then [] else [.msix .owner 1])
        ∧ n.fns = (if s.pins.mld = true ∨ vectorOpen s .owner 1 = true then s.fns else (setPending s .owner 1 true).fns))
      ∧ (∀ error : Bool, error = true ∨ s.jrnl.denied = true → ∃ n, exec (.journalBatchDone error) s = .next n ∧ regField n (bndReg 0x30) 1 1 = 1 ∧ regsBut [bndReg 0x30] s n
        ∧ n = { s with regs := n.regs, jrnl := n.jrnl }
        ∧ n.jrnl = { s.jrnl with due := s.jrnl.inFlight.map (·.1) ++ s.jrnl.due, inFlight := [], busy := false, denied := false }))
    ∧ (s.jrnl.busy = true → s.jrnl.stale = true → ∀ error : Bool,
        exec (.journalBatchDone error) s = .next { s with jrnl := { s.jrnl with busy := false, stale := false } })
    ∧ ∀ val : Reg64, ∃ n, exec (.jrnlTailWrite val) s = .next n ∧ n = { s with regs := n.regs }
        ∧ regGet n (bndReg 0x18) = Nat.min val.toNat (regGet s (bndReg 0x10)) ∧ regsBut [bndReg 0x18] s n)
  ∧ (
  ∀ (s : State),
    (∀ (m : Mbox) (p : List Byte) (t : LdId), mboxLive s m = true → gate s { owner := true } m p false = .ok t →
      (regField s (bndReg 0) 1 0 ≠ 0 → recovering s = false →
        ∃ n, exec (.startRecovery m p) s = .next n ∧ recovering n = true ∧ n.jrnl = { s.jrnl with ldsDone := [] }
          ∧ (mboxOf n m).ret = 0 ∧ (mboxOf n m).outp = bruahOut 0 []
          ∧ n = { s with regs := n.regs, jrnl := n.jrnl, mboxes := n.mboxes } ∧ regsBut [bndReg 0x30] s n)
      ∧ ((regField s (bndReg 0) 1 0 = 0 ∨ recovering s = true) →
        exec (.startRecovery m p) s = .next (reply s m 0 (bruahOut 9 []))))
    ∧ (∀ (ld : LdId) (batches : List (List Byte)), (recovering s = false ∨ s.jrnl.ldsDone.contains ld.val = true ∨ ringSource s = none) →
        exec (.recoverLd ld batches) s = .next s)
    ∧ (∀ (ld : LdId) (batches : List (List Byte)) (s0 : State) (there : List Byte → Bool), recovering s = true →
        s.jrnl.ldsDone.contains ld.val = false → ringSource s = some (s0, there) →
        let good := (batches.filter there).filter (batchComplete s0)
        let whole := (good.foldl (applyBatch s0 ld) []).filter (fun x => x.rpb.isEmpty || x.got == x.nTok)
        let v := (sortBy (fun a b => decide (a.jseq ≤ b.jseq)) whole).foldl (fun s x => rebuildEntry s ld x) s0
        let done := addN ld.val v.jrnl.ldsDone
        let held := (ten s0 ld).material.isSome = true ∨ (batchLds good).contains ld.val = false
        (held → (batchLds good).all (fun t => done.contains t) = true →
          ∃ n, exec (.recoverLd ld batches) s = .next n ∧ recovering n = false ∧ n.jrnl = { v.jrnl with ldsDone := done }
            ∧ regGet n (bndReg 0x20) = (lastJseq good + 1) % 2 ^ 64 ∧ n.rqt = v.rqt ∧ n.work = v.work ∧ n.ops = v.ops
            ∧ (whole = [] → n.rqt = s.rqt ∧ regsBut [bndReg 0x20, bndReg 0x30] s0 n))
        ∧ (held → (batchLds good).all (fun t => done.contains t) = false →
          exec (.recoverLd ld batches) s = .next { v with jrnl := { v.jrnl with ldsDone := done } })
        ∧ (¬ held → exec (.recoverLd ld batches) s = .next s0)))

/-- The states of a port's training: PORT_ENABLE and PORT_DISABLE begin and end it, and store ENABLE,
which is all that PORT_ENABLE does of a port that is not DISABLED, and during a stop or a halt; a partner takes DETECT
to EQUALISE while the domain key is locked, and not while LOCK is clear; the last lane to lock, or the time-out with at
least one lane locked, leads to ALIGN, a time-out without a lane back to DETECT; ALIGN leads to PARAM; and the parameter
exchange to ACTIVE with the frame sequence at 0, or to DISABLED with LOOPBACK where the partner is the device itself. -/
def Obligations.PortTraining : Prop :=
  ∀ (p : PortId) (s : State),
    let u := port s p
    let lanes := portLanes s p
    (raileLive s = true → u.st = .disabled → lanes ≠ 0 →
      ∃ n, exec (.portEnable p) s = .next n ∧ (port n p).st = .detect ∧ regField n (rlReg p.val 0) 0 0 = 1
        ∧ ∀ q, q ≠ p → port n q = port s q)
    ∧ (alive s = true → (u.st ≠ .disabled ∨ raileLive s = false) →
      exec (.portEnable p) s = .next (regPut s (rlReg p.val 0) 0 0 1))
    ∧ (alive s = true →
      ∃ n, exec (.portDisable p) s = .next n ∧ (port n p).st = (if lanes = 0 then .fallow else .disabled)
        ∧ regField n (rlReg p.val 0) 0 0 = 0)
    ∧ (u.st = .detect → domainLocked s = true →
      exec (.partnerDetected p) s = .next (setPort s p { u with st := .equalise, locked := 0 }))
    ∧ (u.st = .detect → domainLocked s = false → exec (.partnerDetected p) s = .next s)
    ∧ (∀ l : BitVec 4, u.st = .equalise → (u.locked ||| l) &&& lanes ≠ lanes →
      exec (.lanesLocked p l) s = .next (setPort s p { u with locked := (u.locked ||| l) &&& lanes }))
    ∧ (∀ l : BitVec 4, u.st = .equalise → (u.locked ||| l) &&& lanes = lanes →
      ∃ n, exec (.lanesLocked p l) s = .next n ∧ (port n p).st = .align ∧ (port n p).locked = lanes)
    ∧ (∀ l : BitVec 4, u.st = .equalise → (u.locked ||| l) &&& lanes ≠ 0 →
      ∃ n, exec (.equaliseTimeout p l) s = .next n ∧ (port n p).st = .align ∧ (port n p).locked = (u.locked ||| l) &&& lanes)
    ∧ (∀ l : BitVec 4, u.st = .equalise → (u.locked ||| l) &&& lanes = 0 → lanes ≠ 0 →
      ∃ n, exec (.equaliseTimeout p l) s = .next n ∧ (port n p).st = .detect)
    ∧ (u.st = .align → exec (.alignDone p) s = .next (setPort s p { u with st := .param }))
    ∧ (∀ (k : NodeId) (b : BitVec 32), u.st = .param → k.toNat ≠ ownNode s →
      ∃ n, exec (.paramExchanged p k b) s = .next n ∧ (port n p).st = .active ∧ (port n p).rxSeq = 0 ∧ (port n p).peerNode = k)
    ∧ (∀ (k : NodeId) (b : BitVec 32), u.st = .param → k.toNat = ownNode s →
      ∃ n, exec (.paramExchanged p k b) s = .next n ∧ (port n p).st = .disabled ∧ regField n (rlReg p.val 8) 3 3 = 1)

/-- A port leaves ACTIVE: RETRAIN takes it to EQUALISE without a lane up and counts one in its trainings; a retired lane
leaves the geometry table, whose GEO_GEN rises by one; and a fen die that loses its reference takes its ACTIVE ports to
EQUALISE and leaves the other dies' ports as they were. Frames: a frame whose CRC passed and whose codewords can all be corrected is
whole; one in sequence is accepted and the next number is expected; every other one is discarded and the number stays, and the bytes,
the corrected and uncorrectable codewords and the CRC errors count. What a whole frame acknowledges leaves the replay buffer. A resend
round sends every frame that waits for its acknowledgement again and counts them; a report is an IDLE frame with the last accepted
number. -/
def Obligations.PortsAndFrames : Prop :=
  (
  ∀ (s : State),
    (∀ (p : PortId) (c : RetrainCause), (port s p).st = .active → (c ≠ .resendRounds ∨ 8 ≤ (port s p).resends) →
      ∃ n, exec (.retrain p c) s = .next n ∧ (port n p).st = .equalise ∧ (port n p).lanesUp = 0 ∧ rises (rlReg p.val 0x40) 1 s n)
    ∧ (∀ (p : PortId) (l : Fin 4) (c : LaneCause), alive s = true → laneEnabled s p.val l.val = true →
        (c ≠ .lockFailures ∨ 3 ≤ nthD 0 (port s p).lockFails l.val) →
        ∃ n, exec (.laneRetire p l c) s = .next n ∧ laneEnabled n p.val l.val = false ∧ rises (glbReg 0x100) 1 s n
          ∧ (port n p).st ≠ .active)
    ∧ (∀ die : Fin 4, alive s = true →
        ∃ n, exec (.raileRefLost die) s = .next n ∧ ∀ q : PortId,
          (port n q).st = if q.val / 4 = die.val ∧ (port s q).st = .active then .equalise else (port s q).st))
  ∧ (
  ∀ (p : PortId) (s : State),
    let u := port s p
    u.st = .active →
      (∀ f : Frame,
        let whole := f.crcOk && f.errors.all correctable
        ∃ n, exec (.frameReceived p f) s = .next n ∧ (port n p).st = .active
          ∧ (port n p).rxSeq = (if whole = true ∧ f.idle = false ∧ f.fseq = u.rxSeq then u.rxSeq + 1 else u.rxSeq)
          ∧ rises (rlReg p.val 0x18) 1280 s n ∧ rises (rlReg p.val 0x30) (if f.crcOk then 0 else 1) s n
          ∧ rises (rlReg p.val 0x20) (f.errors.filter (fun e => correctable e && !e.isEmpty)).length s n
          ∧ rises (rlReg p.val 0x28) (f.errors.filter (fun e => !correctable e)).length s n
          ∧ (whole = true → (f.idle = true ∨ f.fseq = u.rxSeq) → u.txD = [] → u.txC = [] →
              (port n p).replay = (if f.ackValid then u.replay.filter (fun x => !ackedBy f.ackSeq x.1) else u.replay)
              ∧ (port n p).credD = u.credD + f.credD.toNat ∧ (port n p).credC = u.credC + f.credC.toNat))
      ∧ (u.replay ≠ [] →
        ∃ n, exec (.frameResendTimeout p) s = .next n ∧ (port n p).resends = u.resends + 1 ∧ (port n p).replay = u.replay
          ∧ rises (rlReg p.val 0x38) u.replay.length s n ∧ n.out.length = s.out.length + u.replay.length)
      ∧ exec (.ackReport p) s = .next (sendFrame s p u.txSeq false true idleBody))

/-- The states of a peer: a HELLO that authenticates makes an UNKNOWN peer JOINING and any other one UP, a HELLO_ACK that
echoes the nonce makes a JOINING peer UP; without a reply a JOINING peer is UNKNOWN, and an UNKNOWN one with a route tries
again; BYE and the end of SUSPECT make a peer DOWN, which closes its open flows and counts one. A message that does not
authenticate only counts. KEEPALIVE: one that is due is sent with the time, one that arrives is echoed with its stamp and the time,
and an echo gives the round-trip time, which tells whether the peer is FAR; a SUSPECT peer that is heard is UP. -/
def Obligations.PeerStates : Prop :=
  ∀ (s : State) (k : NodeId),
    let x := peerOf s k
    let v := heardFrom s k
    (raileLive s = true →
      (∀ h : HelloMsg, h.node = k → k.toNat ≠ ownNode s → helloTagOk s 1 h = true →
        ∃ n, exec (.hello h) s = .next n ∧ (peerOf n k).st = (if x.st = .unknown then .joining else .up))
      ∧ (let counted (c : Instr) : Prop := ∃ n, exec c s = .next n ∧ n = { s with regs := n.regs } ∧ rises (rlReg 0 0x1038) 1 s n
          ∧ regsBut [rlReg 0 0x1038] s n
        (∀ h : HelloMsg, helloTagOk s 2 h = false → counted (.helloAck h))
        ∧ (∀ h : HelloMsg, helloTagOk s 1 h = false → h.node.toNat ≠ ownNode s → counted (.hello h))
        ∧ ∀ b : ByeMsg, byeTagOk s k b = false → counted (.bye k b))
      ∧ (∀ h : HelloMsg, h.node = k → helloTagOk s 2 h = true → x.st = .joining → h.echo = x.nonce →
        ∃ n, exec (.helloAck h) s = .next n ∧ (peerOf n k).st = .up ∧ (peerOf n k).bootId = h.bootId)
      ∧ (x.st = .joining → exec (.helloRetry k) s = .next (setPeer s k { x with st := .unknown }))
      ∧ (x.st = .unknown → routePorts s k.toNat ≠ [] →
        ∃ n, exec (.helloRetry k) s = .next n ∧ (peerOf n k).st = .joining ∧ (peerOf n k).nonce = drawBytes s 32)
      ∧ (∀ b : ByeMsg, (x.st = .up ∨ x.st = .suspect) → byeTagOk s k b = true →
        ∃ n, exec (.bye k b) s = .next n ∧ (peerOf n k).st = .down ∧ (∀ f ∈ n.flows, f.node = k → f.opened = false)
          ∧ rises (rlReg 0 0x1058) 1 s n)
      ∧ ((x.st = .up ∨ x.st = .suspect) → (peerOf v k).st = .up
        ∧ (∀ r : Nat, exec (.keepalive k (.echoed r)) s = .next (setPeer v k { peerOf v k with
            rttNs := Nat.min 65535 r, far := decide (regField v (rlReg 0 0x1008) 47 32 < r) }))
        ∧ ∀ stamp : BitVec 64,
          exec (.keepalive k (.asked stamp)) s = .next (sendCtl v k 4 (toLE 8 stamp.toNat ++ toLE 8 (rqtNow v))))
      ∧ (x.st = .up → exec (.keepalive k .due) s = .next (sendCtl s k 4 (toLE 8 (rqtNow s)))))
    ∧ (x.st = .up → exec (.peerSuspect k) s = .next (setPeer s k { x with st := .suspect }))
    ∧ (x.st = .suspect →
        ∃ n, exec (.peerDown k) s = .next n ∧ (peerOf n k).st = .down ∧ (∀ f ∈ n.flows, f.node = k → f.opened = false)
          ∧ rises (rlReg 0 0x1058) 1 s n)

/-- Opening a flow with a peer that is UP, or SUSPECT and heard again: FLOW_OPEN for a context whose key material is held opens it with
both ends' nonces, and is refused otherwise; FLOW_ACCEPT opens the flow asked for, with its sequence numbers at 0; FLOW_REFUSE leaves
no unopened flow of that context and number with the peer, and denies what the descriptors of that context had begun with it. -/
def Obligations.FlowsOpen : Prop :=
  ∀ (m : FlowMsg) (s : State), raileLive s = true →
    let v := heardFrom s m.node
    let c := m.ctx.val
    peerUp v m.node = true →
    (ctxKeyed v c = true →
      ∃ n f, exec (.flowOpen m) s = .next n ∧ flowOf n m.node c m.flow.val = some f ∧ f.opened = true
        ∧ f.initiator = false ∧ f.nonceI = m.nonce ∧ f.nonceR = drawBytes v 32 ∧ f.keyEpoch = m.keyEpoch ∧ f.rxPsn = 0)
    ∧ (ctxKeyed v c = false → exec (.flowOpen m) s = .next (sendCtl v m.node 7 (flowBody m [])))
    ∧ (∀ f, flowOf v m.node c m.flow.val = some f → f.opened = false → f.initiator = true →
      (∃ n g, exec (.flowAccept m) s = .next n ∧ flowOf n m.node c m.flow.val = some g ∧ g.opened = true
        ∧ g.nonceR = m.nonce ∧ g.keyEpoch = m.keyEpoch ∧ g.rxPsn = 0)
      ∧ (f.waitq = [] → exec (.flowAccept m) s = .next (setFlow v { f with
          opened := true, nonceR := m.nonce, keyEpoch := m.keyEpoch, rxPsn := 0, txPsn := 0, replies := 0, credits := 64
          unacked := [], refused := [] })))
    ∧ (∃ n, exec (.flowRefuse m) s = .next n
        ∧ n = denyOps { v with flows := v.flows.filter (fun f =>
            !(f.node == m.node && f.ctx == c && f.flow == m.flow.val && !f.opened)) } m.node c
        ∧ ∀ f ∈ n.flows, ¬ (f.node = m.node ∧ f.ctx = c ∧ f.flow = m.flow.val ∧ f.opened = false))

/-- Packets of an open flow are applied once, in PSN order: one whose PSN is the expected one is checked against the region
table, then applied and acknowledged, or refused with a NACK, of which the flow keeps the code; one that comes again is answered as it
was and changes no memory; a write changes only the bytes that it names, and read data joins what has come for the descriptor that asked for it. Atomics: FADD and CAS on an aligned word of the peer's slice. The word
takes the sum, or the new value where the compared one agrees, and an address that is not aligned, but passes the checks before the
bounds, is answered with BOUNDS (notes/assumptions/88.md). -/
def Obligations.PacketsAppliedOnce : Prop :=
  (
  ∀ (k : Packet) (s : State),
    (∀ s1 f, rxCheck s k = .fresh s1 f → f.rxPsn = k.psn.toNat + 1 ∧ s1.mem = s.mem)
    ∧ (∀ s1 f, rxCheck s k = .again s1 f → ∀ c ∈ ([.writePacket k, .readReq k, .readResp k, .atomicReq k, .atomicResp k] : List Instr),
        exec c s = .next (answerAgain s1 f k.psn.toNat) ∧ (answerAgain s1 f k.psn.toNat).mem = s.mem)
    ∧ (∀ s1 f s2 t v, rxCheck s k = .fresh s1 f → rxAccess s1 .wr k k.payload.length = .ok (s2, t, v) → Inv s2 →
        exec (.writePacket k) s = .next (sendAck (peerWrite s2 t v k.payload) f 1)
        ∧ ∀ y, (∀ i, i < k.payload.length → tvaDpa s2 t (v + i) ≠ some y) →
            cellRead y (sendAck (peerWrite s2 t v k.payload) f 1).mem = cellRead y s2.mem)
    ∧ (∀ s1 f c, rxCheck s k = .fresh s1 f → rxAccess s1 .wr k k.payload.length = .error c →
        exec (.writePacket k) s = .next (refusePacket s1 f k.psn.toNat c))
    ∧ (∀ s1 f s2 t v, rxCheck s k = .fresh s1 f → rxAccess s1 .rd k k.len = .ok (s2, t, v) →
        ∃ n, exec (.readReq k) s = .next n ∧ n = sendAck (sendResp k.src k.ctx.val k.flow.val k.psn.toNat k.opId.toNat
          (k.len / 4096 + 1) (peerRead s2 t v k.len).2 (peerRead s2 t v k.len).1) f 1)
    ∧ (∀ s1 f c, rxCheck s k = .fresh s1 f → rxAccess s1 .rd k k.len = .error c →
        exec (.readReq k) s = .next (refusePacket s1 f k.psn.toNat c))
    ∧ (∀ s1 f, rxCheck s k = .fresh s1 f →
        exec (.readResp k) s = .next (sendAck (mapDescs (dropLate s1 k.src k.opId.toNat k.payload.length k.last) (takeData k.src k.opId.toNat k.payload)) f 1))
    ∧ (∀ s1 f, rxCheck s k = .fresh s1 f → ∃ n, exec (.atomicResp k) s = .next n ∧ n.mem = s.mem
        ∧ n.atomics = s1.atomics.map (fun a =>
            if a.node = k.src ∧ a.opId = k.opId ∧ !a.lost then { a with result := some (BitVec.ofNat 64 (fld k.payload 0 8)) } else a)))
  ∧ (
  ∀ (k : Packet) (s s1 : State) (f : Flow), rxCheck s k = .fresh s1 f →
    let off := k.addr.toNat % 2 ^ 52
    (∀ c, (off % 8 = 0 ∨ k.addr.toNat / 2 ^ 52 ≠ ownNode s1) → rxAccess s1 .atomic k 8 = .error c → exec (.atomicReq k) s = .next (refusePacket s1 f k.psn.toNat c))
    ∧ (k.addr.toNat / 2 ^ 52 = ownNode s1 → off % 8 ≠ 0 →
      (∀ c, rgnCheck s1 .atomic k.ctx.val k.src.toNat off 8 = .error c →
        exec (.atomicReq k) s = .next (refusePacket s1 f k.psn.toNat c))
      ∧ (∀ r, rgnCheck s1 .atomic k.ctx.val k.src.toNat off 8 = .ok r →
        exec (.atomicReq k) s = .next (refusePacket s1 f k.psn.toNat 6)))
    ∧ (∀ s2 t v, off % 8 = 0 → rxAccess s1 .atomic k 8 = .ok (s2, t, v) → tvaPoisoned s2 t v 8 = false →
        s2.faults.injected = [] →
        let old := ofLE (tvaReads s2 t v 8)
        let new := if k.fadd then (old + fld k.payload 0 8) % 2 ^ 64 else if old = fld k.payload 8 8 then fld k.payload 0 8 else old
        ∃ n, exec (.atomicReq k) s = .next n ∧ n.mem = (tvaWrites s2 t v (toLE 8 new)).mem))

/-- ACK drops the packets it covers from the retry list, with the WRITEs that they carried complete and counted, and returns credits, with which
waiting packets go; NACK drops the packet it answers, whose operation is denied, returns a credit and leaves its node and code in
RL_LAST_NACK; a time-out counts on the flow and sends what is unacknowledged again, and at the second in a row, or where its port
can no longer send, the flow moves to another ACTIVE port of its route. -/
def Obligations.AcknowledgementsAndTimeouts : Prop :=
  ∀ (s : State) (k : Packet) (f : Flow),
    (∀ (c : BitVec 32) (cr : BitVec 16), ackFlow s k = some f →
      let left := f.unacked.filter (fun x => decide (c.toNat < x.1))
      let done := f.unacked.filter (fun x => decide (x.1 ≤ c.toNat))
      let f' := { f with unacked := left, credits := f.credits + cr.toNat
                         timeouts := if left.length < f.unacked.length then 0 else f.timeouts }
      let v := ackWrites (heardFrom (setFlow s f') k.src) k.src (done.filterMap (fun x => writeOp x.2))
      ∃ n, exec (.ack k c cr) s = .next n
        ∧ n = renewFlow (pumpFlow k.src k.ctx.val k.flow.val f.waitq.length v) k.src k.ctx.val k.flow.val
        ∧ (f.waitq = [] → f.txPsn < psnLimit → f.replies < psnLimit → (peerOf s k.src).st = .up →
            flowOf n k.src k.ctx.val k.flow.val = some f' ∧ n.mem = s.mem ∧ n.out = s.out))
    ∧ (∀ (psn : BitVec 32) (code : BitVec 8), ackFlow s k = some f → (peerOf s k.src).st = .up →
      let f' := { f with unacked := f.unacked.filter (fun x => x.1 != psn.toNat), credits := f.credits + 1 }
      ∃ n, exec (.nack k psn code) s = .next n ∧ regField n (rlReg 0 0x1030) 63 52 = k.src.toNat
        ∧ regField n (rlReg 0 0x1030) 47 40 = code.toNat ∧ regField n (rlReg 0 0x1030) 0 0 = 1 ∧ rises (rlReg 0 0x1048) 1 s n
        ∧ (f.txPsn < psnLimit → f.replies < psnLimit → n.flows = (setFlow s f').flows)
        ∧ n.atomics = s.atomics.map (fun a =>
            if (f.unacked.filter (fun x => x.1 == psn.toNat)).any (fun x =>
              decide (x.2.headD 0 = 4) && decide (a.node = k.src) && decide (a.opId.toNat = fld x.2 0x18 4)) then
              { a with denied := true } else a))
    ∧ (∀ (x : NodeId) (ctx : Fin 17) (fl : Fin 16), flowOf s x ctx.val fl.val = some f → raileLive s = true → f.unacked ≠ [] →
        let others := (routePorts s x.toNat).any (fun p => p.val != f.port)
        ((f.timeouts = 0 ∨ others = false) → ((flowPort s f).isSome = true ∨ others = false) →
          exec (.retransmitTimeout x ctx fl) s
            = .next (resendFlow (setFlow s { f with timeouts := f.timeouts + 1 }) { f with timeouts := f.timeouts + 1 }))
        ∧ ((1 ≤ f.timeouts ∨ (flowPort s f).isNone = true) → others = true →
          exec (.retransmitTimeout x ctx fl) s = .next (moveFlow (setFlow s { f with timeouts := 0 }) { f with timeouts := 0 })))

/-- Messages under a role, from a peer that is UP, or SUSPECT and heard again: one whose epochs agree with the role table is applied
and acknowledged; on a mismatch no part of it is applied, STALE_ROLE is answered and FUR_STALE_ROLE counts one. A NOTIFY of one of
the two furrows to come is held for it, and one of a furrow that is over counts one in RL_NTF_LATE. The sender drops its record when
the message is accepted, and marks it for the next tick when it is stale. -/
def Obligations.RoleMessages : Prop :=
  ∀ (s : State),
    (∀ m : RoleMsg, raileLive s = true →
      let v := heardFrom s m.sender
      peerUp v m.sender = true →
      (epochsAgree v m.role m.srcRole m.srcEpoch m.dstEpoch = true →
        exec (.roleMsg m) s = .next (sendCtl { v with roleIn := v.roleIn ++ [m] } m.sender 0x11 (toLE 4 m.msgId)))
      ∧ (epochsAgree v m.role m.srcRole m.srcEpoch m.dstEpoch = false →
        ∃ n, exec (.roleMsg m) s = .next n ∧ n.roleIn = s.roleIn ∧ rises (furReg 0x48) 1 v n))
    ∧ (∀ m : NotifyMsg, raileLive s = true →
      let v := heardFrom s m.sender
      peerUp v m.sender = true →
      (epochsAgree v m.role m.srcRole m.srcEpoch m.dstEpoch = true →
        exec (.notify m) s = .next (sendCtl (applyNotify v m.role m.furrow m.bar) m.sender 0x11 (toLE 4 m.msgId))
        ∧ ((m.furrow = curFurrow v + 1 ∨ m.furrow = curFurrow v + 2) →
            applyNotify v m.role m.furrow m.bar = { v with notifies := v.notifies ++ [⟨m.furrow, m.role, m.bar⟩] })
        ∧ (m.furrow < curFurrow v → rises (rlReg 0 0x1060) 1 v (applyNotify v m.role m.furrow m.bar)
            ∧ (applyNotify v m.role m.furrow m.bar).bars = v.bars))
      ∧ (epochsAgree v m.role m.srcRole m.srcEpoch m.dstEpoch = false →
        ∃ n, exec (.notify m) s = .next n ∧ n.bars = s.bars ∧ n.notifies = s.notifies ∧ rises (furReg 0x48) 1 v n))
    ∧ (∀ id : Nat, (∃ x ∈ s.sent, x.id = id) →
      ∃ n, exec (.roleAck id) s = .next n ∧ n.sent = s.sent.filter (fun x => x.id != id)
        ∧ n = { heardRole s id with sent := n.sent, fes := n.fes }
        ∧ ∀ f k d, slotDesc (heardRole s id) f k = some d → d.ntfMsg = some id → slotDesc n f k = some { d with notified := true })
    ∧ (∀ (id : Nat) (role : BitVec 24) (e : BitVec 16),
      exec (.staleRole id role e) s = .next { heardRole s id with
        sent := s.sent.map (fun x => if x.id = id ∧ x.role = role then { x with stale := true } else x) })

/-- Furrow time: SYNC from the node that is followed gives the offset, the number of the leader's furrow, and within 16 periods a
correction of one period toward zero and the rate, the change of the offset beside the follower's own moves (notes/assumptions/34.md),
within 320 ppm; beyond them one furrow is lengthened to the leader's next tick and the rate is kept; SYNC_JOIN adds a follower
once; DELAY_REQ is answered with both times; DELAY_RESP gives the one-way delay. RL_TIME_OFS shows offset and delay. -/
def Obligations.FurrowTimeOverRaile : Prop :=
  ∀ (k : NodeId) (s : State), raileLive s = true →
    let v := heardFrom s k
    let shown (n : State) : Prop := regGet n (rlReg 0 0x1018)
      = (BitVec.ofInt 32 n.timeSync.delay).toNat * 2 ^ 32 + (BitVec.ofInt 32 n.timeSync.offset).toNat
    (∀ (fur inW : Nat) (tx rx : Int), followsNode s k = true →
      let ofs := rx - tx - s.timeSync.delay
      let far : Prop := ofs < -256 ∨ 256 < ofs
      let lim : Int := 64 * ((s.tick.lenM1 : Int) + 1)
      ∃ n, exec (.sync k fur inW tx rx) s = .next n ∧ n.timeSync.offset = ofs ∧ n.timeSync.moved = 0
        ∧ n.timeSync.lastOffset = (if far then none else some ofs)
        ∧ n.timeSync.delay = s.timeSync.delay ∧ n.tick.raileNum = some fur ∧ n.timeSync.synced = true ∧ shown n
        ∧ ((s.timeSync.lastOffset = none ∨ far) → n.timeSync.rate = s.timeSync.rate)
        ∧ (∀ l, s.timeSync.lastOffset = some l → ¬ far →
            n.timeSync.rate = max (-lim) (min lim (s.timeSync.rate + (ofs - l) + 16 * s.timeSync.moved)))
        ∧ (-256 ≤ ofs → ofs ≤ 256 →
            n.tick.adjust = (if ofs.tdiv 16 < 0 then -1 else if 0 < ofs.tdiv 16 then 1 else 0) ∧ n.tick.lengthen = s.tick.lengthen)
        ∧ (far → n.tick.adjust = 0 ∧ n.tick.lengthen = ((ofs.tdiv 16) % (furrowPeriods s : Int)).toNat))
    ∧ (timeLeader v = true → s.timeSync.followers.contains k = false →
      exec (.syncJoin k) s = .next { v with timeSync := { v.timeSync with followers := v.timeSync.followers ++ [k] } })
    ∧ (timeLeader v = true → ∀ rx tx : Int,
      exec (.delayReq k rx tx) s = .next (sendCtl v k 0x22 (toLE 8 (BitVec.ofInt 64 rx).toNat ++ toLE 8 (BitVec.ofInt 64 tx).toNat)))
    ∧ (followsNode s k = true → ∀ t1 t2 t3 t4 : Int,
      ∃ n, exec (.delayResp k t1 t2 t3 t4) s = .next n ∧ n.timeSync = { s.timeSync with delay := ((t4 - t1) - (t3 - t2)) / 2 }
        ∧ shown n)

/-- Joint booking: BOOK_QUERY is answered with the furrows that are free here; BOOK_REPLY is kept with its attempt until
every shard has answered, and the last one commits the first furrows that are free everywhere to every shard, reserving them here,
or ends the attempt; BOOK_COMMIT admits a request that waits under the chain given, or gives one whose prefill is under way its new
chain, and answers; for a request that cannot be booked it answers a failure, and one without a chain gives up what the attempt
reserved, the request being QUEUED again; the last good BOOK_ACK admits the request here, and a failed one releases the attempt.
Power credits: the leader of a member keeps its status until every member has reported, and then makes the grants; a lender or
borrower keeps a grant for its window, with whether contact is lost already, and one for the coming window changes its cap. -/
def Obligations.JointBooking : Prop :=
  (
  ∀ (k : NodeId) (job : BitVec 18) (s : State), raileLive s = true →
    let v := heardFrom s k
    let answer (x : State) (ok : Nat) : State := sendCtl x k 0x33 (toLE 4 job.toNat ++ toLE 1 ok)
    (∀ w g a b : Nat, peerUp v k = true → exec (.bookQuery k job w g a b) s
        = .next (sendCtl v k 0x31 (toLE 4 job.toNat ++ (freeFurrows v job.toNat w g a b).flatMap (toLE 8))))
    ∧ (∀ (free : List Nat) (j : Joint),
        v.joint.find? (fun j => j.job == job && j.chain.isEmpty && j.waiting.contains k) = some j →
        let j' := { j with waiting := j.waiting.erase k, free := j.free ++ [(k, free)] }
        let v1 := { v with joint := v.joint.map (fun x => if x.entry = j.entry then j' else x) }
        ((entryOf v j.entry).state = .queued → j'.waiting ≠ [] → exec (.bookReply k job free) s = .next v1)
        ∧ ((entryOf v j.entry).state ≠ .queued → hasPrefill v1 j.entry = false → exec (.bookReply k job free) s = .next (jointFail v1 j'))
        ∧ (∀ plan chunks need chain, (entryOf v j.entry).state = .queued → j'.waiting = [] →
            jointNeed v1 j.entry = some (plan, chunks, need) →
            lanesAmong (setWork v1 j.entry { workOf v1 j.entry with chain := [] }) j.entry j.plan need (((List.range (jointLast (j.first + 2) need + 1 - (j.first + 2))).map
              (j.first + 2 + ·)).filter (fun g => j'.free.all (fun x => x.2.contains g))) [] = some chain →
            ∃ n, exec (.bookReply k job free) s = .next n ∧ (workOf n j.entry).chain = chain
              ∧ n.joint = v.joint.map (fun x => if x.entry = j.entry then { j' with chain := chain, waiting := j'.free.map (·.1) } else x)
              ∧ ∀ y ∈ j'.free, ∃ b, OutMsg.control y.1 0x32 b ∈ n.out ∨ (y.1, 0x32, b) ∈ n.ctlWait))
    ∧ (∀ (i : Fin 4096) (c : Nat) (cs : List Nat), peerUp v k = true →
        let e := entryOf v i.val
        (hasPrefill v i.val = false → e.state ≠ .queued → exec (.bookCommit k job i (c :: cs)) s = .next (answer v 0))
        ∧ (∀ plan chunks need ls, hasPrefill v i.val = false → e.state = .queued → jointPlanOf v i.val = some (plan, chunks, need) →
            lanesAll v i.val plan (c :: cs) [] = some ls →
            let q := queId e.queue
            let v1 := setQue v q { que v q with waiting := (que v q).waiting.filter (· != i.val) }
            chainServes v1 i.val ls →
            ∃ n n1, exec (.bookCommit k job i (c :: cs)) s = .next n ∧ n = answer n1 1 ∧ admittedUnder n1 i.val plan chunks ls)
        ∧ (∀ ls, hasPrefill v i.val = true →
            lanesAll (setWork v i.val { workOf v i.val with chain := [] }) i.val e.plan (c :: cs) [] = some ls →
            ∃ n n1, exec (.bookCommit k job i (c :: cs)) s = .next n ∧ n = answer n1 1 ∧ (workOf n1 i.val).chain = ls
              ∧ (entryOf n1 i.val).plan = e.plan)
        ∧ (e.state = .admitted →
            ∃ n, exec (.bookCommit k job i []) s = .next n ∧ (entryOf n i.val).state = .queued ∧ (workOf n i.val).chain = []
              ∧ (que n (queId e.queue)).waiting.head? = some i.val))
    ∧ (∀ j, v.joint.find? (fun j => j.job == job && !j.chain.isEmpty && j.waiting.contains k) = some j →
        exec (.bookAck k job false) s = .next (jointFail v j)
        ∧ (∀ y ys, (entryOf v j.entry).state = .queued → j.waiting.erase k = y :: ys →
            exec (.bookAck k job true) s = .next { v with joint := v.joint.map (fun x =>
              if x.entry = j.entry then { j with waiting := y :: ys } else x) })
        ∧ (∀ plan chunks need, (entryOf v j.entry).state = .queued → j.waiting.erase k = [] →
            let v1 := { v with joint := v.joint.filter (fun x => x.entry != j.entry) }
            jointPlanOf v1 j.entry = some (plan, chunks, need) → chainServes v1 j.entry j.chain →
            ∃ n, exec (.bookAck k job true) s = .next n ∧ admittedUnder n j.entry j.plan chunks j.chain)))
  ∧ (
  ∀ (s : State), raileLive s = true →
    (∀ (k : NodeId) (sh cap lend ws : Nat),
      let v := heardFrom s k
      let m : Member := { node := k, shard := sh, cap := cap, lendMax := lend, waitShare := ws }
      let ms := v.members.filter (fun x => x.node != k) ++ [m]
      (creditLeader v).map BitVec.toNat = some (ownNode v) →
      let all := ((jobShards v ((creditRole v).toNat / 64)).map (·.2)).all (fun n => ms.any (fun x => x.node == n))
      (all = false → exec (.powerStatus k sh cap lend ws) s = .next { v with members := ms })
      ∧ (all = true → exec (.powerStatus k sh cap lend ws) s
          = .next ((grantsOf ms).foldl (fun s g => sendGrant s g (v.tick.window + (if v.tick.headDone then 2 else 1)))
              { v with members := [] })))
    ∧ (∀ (a b : NodeId) (watts w : Nat),
      let v := ((creditLeader s).map (heardFrom s)).getD s
      exec (.powerGrant a b watts w) s = .next (takeGrant v a b watts w)
      ∧ (creditOn v = false → takeGrant v a b watts w = v)
      ∧ (creditOn v = true → w ≠ v.tick.window + 1 → w ≠ v.tick.window + 2 → (takeGrant v a b watts w)
          = { v with grants := v.grants
                ++ (if a.toNat = ownNode v then [{ window := w, lent := watts, borrowed := 0, peer := b, lost := contactLost v b }] else [])
                ++ (if b.toNat = ownNode v then [{ window := w, lent := 0, borrowed := watts, peer := a, lost := contactLost v a }] else []) })))

/-- The queries answer what the state holds, with RESULT OK, and leave the machine as it was beside the mailbox:
QUERY_DEVICE, LD_STATUS, QUERY_REQUEST of a tag that an entry has (of any other tag NO_SUCH_REQUEST), READ_REG of a range
that the space has, and GET_LOG, of which the fault log alone remembers how far it was read. A command that the gate turns
away answers its code and does nothing else: a command of the owner from a tenant's mailbox is Unsupported, one before
firmware runs answers Retry, and one in HALTED or during a stop that is not served there answers BAD_STATE or BUSY. The queries that
CXL defines answer Success and change nothing but the mailbox. -/
def Obligations.QueriesAnswer : Prop :=
  (
  ∀ (m : Mbox) (p : List Byte) (s : State) (t : LdId), mboxLive s m = true →
    (gate s { i3c := true, onStop := true, onRec := true } m p false = .ok t →
      exec (.queryDevice m p) s = .next (reply s m 0 (bruahOut 0 (partText s ++ ascii [0x42, 0x31] ++ toLE 2 (ownNode s)
        ++ toLE 1 (s.tick.lenM1 + 1) ++ toLE 1 (popc 64 (geoArrays s)) ++ toLE 2 (regField s (ldRqtOff t.val) 12 0)
        ++ toLE 4 (ten s t).window.length ++ toLE 4 (poolLimit s t.val) ++ toLE 16 (queueMask s t.val)))))
    ∧ (gate s { onStop := true, onRec := true } m p false = .ok t →
      exec (.ldStatus m p) s = .next (reply s m 0 (bruahOut 0 (toLE 2 (ldEntries s t.val).length ++ toLE 2 0
        ++ toLE 4 (poolUsed s t.val) ++ toLE 4 (poolBooked s t.val) ++ toLE 4 0 ++ toLE 8 (regGet s (pwrReg (0x200 + 8 * t.val)))))))
    ∧ (gate s { len := 0x0C } m p false = .ok t →
      (∀ i e, byTag s t.val (fld p 8 4) = some (i, e) →
        exec (.queryRequest m p) s = .next (reply s m 0 (bruahOut 0 (entryBytes s i e))))
      ∧ (byTag s t.val (fld p 8 4) = none → exec (.queryRequest m p) s = .next (reply s m 0 (bruahOut 3 []))))
    ∧ (gate s { owner := true, len := 0x12 } m p false = .ok t → s.fw.running = true →
      rangeOk (fld p 8 8) (fld p 0x10 2) 1 511 = true →
      exec (.readReg m p) s = .next (reply s m 0 (bruahOut 0 (rangeRead s (fld p 8 8) (fld p 0x10 2)))))
    ∧ (gate s { owner := true, len := 0x1C, i3c := true, onStop := true, onHalt := true } m p (!zeroAt p 9 7) = .ok t →
      1 ≤ fld p 0x18 4 → fld p 0x18 4 ≤ 4088 →
      (fld p 8 1 = 0 → exec (.getLog m p) s
        = .next (reply { s with faults := { s.faults with
            readUpTo := Nat.max s.faults.readUpTo (Nat.min (regGet s (fltReg 0x010)) ((fld p 0x10 8 + fld p 0x18 4) / 64)) } } m 0
            (bruahOut 0 (logBytes s (fld p 0x10 8) (fld p 0x18 4)))))
      ∧ (fld p 8 1 = 1 → exec (.getLog m p) s
        = .next (reply s m 0 (bruahOut 0 (slice s.faults.ownerEvents.flatten (fld p 0x10 8) (fld p 0x18 4)))))))
  ∧ (
  ∀ (m : Mbox) (p : List Byte) (s : State) (ret r : Nat), mboxLive s m = true →
    (gate s { len := 0x0C } m p false = .error (ret, r) →
      exec (.cancel m p) s = .next (reply s m ret (if ret = 0 then bruahOut r [] else [])))
    ∧ (gate s { owner := true, named := true, len := 0x0C } m p false = .error (ret, r) →
      exec (.setWindow m p) s = .next (reply s m ret (if ret = 0 then bruahOut r [] else [])))
    ∧ (∀ t, m = .tenant t → s.fw.running = true → gate s { owner := true, named := true, len := 0x0C } m p false = .error (3, 0))
    ∧ (s.fw.running = false → gate s { len := 0x0C } m p false = .error (5, 0))
    ∧ (∀ t, m = .tenant t → s.fw.running = true → p.length = 0x0C → zeroAt p 1 7 = true → halted s = true →
        gate s { len := 0x0C } m p false = .error (0, 9))
    ∧ (∀ t, m = .tenant t → s.fw.running = true → p.length = 0x0C → zeroAt p 1 7 = true → halted s = false → stopped s = true →
        gate s { len := 0x0C } m p false = .error (0, 0x0A)))
  ∧ (
  ∀ (m : Mbox) (s : State), mboxLive s m = true → s.fw.running = true → stopped s = false → m ≠ .i3c →
    (∀ c ∈ ([.identifyMemoryDevice m, .getSupportedLogs m, .getCxlLog m, .getHealthInfo m, .getTimestamp m, .getEventRecords m
        , .getEventInterruptPolicy m] : List Instr), ∃ x, exec c s = .next (reply s m 0 x))
    ∧ (m = .owner → s.pins.mld = true → ∀ c ∈ ([.getFwInfo m, .getLdInfo m, .getLdAllocations m] : List Instr),
        ∃ x, exec c s = .next (reply s m 0 x)))

/-- Queue pairs: CREATE_QP on an enabled queue of the LD with parameters that R353 permits binds the lowest free doorbell
slot, zeroes the completion ring and starts every count at 0; DELETE_QP of a pair that nothing uses frees queue and slot. -/
def Obligations.QueuePairsComeAndGo : Prop :=
  ∀ (m : Mbox) (p : List Byte) (s : State) (t : LdId), mboxLive s m = true →
    let q := fld p 8 1
    let u := que s (queId q)
    let v := ten s t
    (∀ k, gate s { len := 0x20 } m p false = .ok t → q < 128 → queueLd s q = t.val → queueOn s q = true → qpParams s p = true →
      u.pair = false → freeSlot s t = some k → v.overflow = [] →
      ∃ n, exec (.createQp m p) s = .next n ∧ (mboxOf n m).outp = bruahOut 0 (toLE 1 k)
        ∧ n.mem = (tvaWrites s t (fld p 0x18 8) (List.replicate (64 * 2 ^ fld p 0x0B 1) 0)).mem
        ∧ (ten n t).doorbells = v.doorbells.set k (some q) ∧ (que n (queId q)).pair = true ∧ (que n (queId q)).slot = k
        ∧ (que n (queId q)).sqHead = 0 ∧ (que n (queId q)).sqTail = 0 ∧ (que n (queId q)).cqHead = 0 ∧ (que n (queId q)).written = 0
        ∧ (que n (queId q)).sqLog2 = fld p 0x0A 1 ∧ (que n (queId q)).sqTva = fld p 0x10 8 ∧ n.rqt = s.rqt)
    ∧ (gate s { len := 9 } m p false = .ok t → q < 128 → queueLd s q = t.val → u.pair = true →
      (∀ x ∈ s.rqt, x.2.state ≠ .free → x.2.queue ≠ q) → queueWaits v q = false →
      exec (.deleteQp m p) s = .next (reply (setTen (setQue s (queId q) { deficit := u.deficit }) t
        { v with doorbells := v.doorbells.set u.slot none, dbErr := v.dbErr.set u.slot false }) m 0 (bruahOut 0 [])))

/-- Owner commands that set a size or a register: SET_WINDOW resizes an LD's window or answers NO_SPACE with the size it
has; SET_SLD_SPAN within 30 to 40 while no window exists; SET_CAP within 500 W to 1,600 W; SET_ROLE gives a role its next
holder and answers its next epoch, a new role taking a place of the role table, and NO_SPACE where it is full; WRITE_REG writes a range in ascending order; and RESTART leaves a stop once it may,
with VDD_ARR at the window pair's voltage and the operating point as it was until a tick. Of the commands that CXL defines, the owner's
Clear Event Records, Set Event Interrupt Policy, Set Timestamp and Set LD Allocations of one window that stays answer Success with what
they set. -/
def Obligations.OwnerCommandsSet : Prop :=
  (
  ∀ (m : Mbox) (p : List Byte) (s : State) (t : LdId), mboxLive s m = true →
    (gate s { owner := true, named := true, len := 0x0C } m p false = .ok t →
      (∀ s1, resizeWindow s t (fld p 8 4) = some s1 → (ten s1 t).window.length = fld p 8 4
        ∧ exec (.setWindow m p) s = .next (reply s1 m 0 (bruahOut 0 (toLE 4 (fld p 8 4)))))
      ∧ (resizeWindow s t (fld p 8 4) = none →
        exec (.setWindow m p) s = .next (reply s m 0 (bruahOut 8 (toLE 4 (ten s t).window.length)))))
    ∧ (gate s { owner := true, len := 9 } m p false = .ok t → s.pins.mld = false → (∀ x, (ten s x).window = []) →
      30 ≤ fld p 8 1 → fld p 8 1 ≤ 40 →
      exec (.setSldSpan m p) s = .next (reply { s with pins := { s.pins with sldSpan := fld p 8 1 } } m 0 (bruahOut 0 [])))
    ∧ (gate s { owner := true, len := 0x0B, i3c := true, onStop := true } m p (bits (fld p 0x0A 1) 7 1 != 0) = .ok t →
      500 ≤ fld p 8 2 → fld p 8 2 ≤ 1600 →
      ∃ n, exec (.setCap m p) s = .next n ∧ n.power.ownerW = fld p 8 2
        ∧ n = reply (setOwnerCap s (fld p 8 2) (bitAt (fld p 0x0A 1) 0)) m 0
            (bruahOut 0 (toLE 2 (impliedCap (setOwnerCap s (fld p 8 2) (bitAt (fld p 0x0A 1) 0)))))
        ∧ n = { s with power := n.power, regs := n.regs, mboxes := n.mboxes })
    ∧ (∀ r, gate s { owner := true, len := 0x0F } m p
        (!zeroAt p 0x0B 1 || decide (2 ≤ fld p 0x0E 1) || decide (4096 ≤ fld p 0x0C 2)) = .ok t →
      s.roles.find? (fun r => r.id == BitVec.ofNat 24 (fld p 8 4)) = some r →
      ∃ n, exec (.setRole m p) s = .next n ∧ (mboxOf n m).outp = bruahOut 0 (toLE 2 (r.epoch + 1).toNat)
        ∧ n.roles = s.roles.map (fun x => if x.id = r.id
            then { r with next := some (if bitAt (fld p 0x0E 1) 0 then none else some (BitVec.ofNat 12 (fld p 0x0C 2))) } else x))
    ∧ (gate s { owner := true, len := 0x0F } m p
        (!zeroAt p 0x0B 1 || decide (2 ≤ fld p 0x0E 1) || decide (4096 ≤ fld p 0x0C 2)) = .ok t →
      s.roles.find? (fun r => r.id == BitVec.ofNat 24 (fld p 8 4)) = none → bitAt (fld p 0x0E 1) 0 = false →
      (s.roles.length < Config.roleTableSize → ∃ n, exec (.setRole m p) s = .next n ∧ (mboxOf n m).outp = bruahOut 0 (toLE 2 1)
        ∧ n.roles = s.roles ++ [{ id := BitVec.ofNat 24 (fld p 8 4), holder := BitVec.ofNat 12 (fld p 0x0C 2), epoch := 0
                                  next := some (some (BitVec.ofNat 12 (fld p 0x0C 2))), live := false }])
      ∧ (Config.roleTableSize ≤ s.roles.length → exec (.setRole m p) s = .next (reply s m 0 (bruahOut 8 (toLE 2 0)))))
    ∧ (gate s { owner := true, len := 0x18 + 8 * fld p 0x10 2 } m p (!zeroAt p 0x12 6) = .ok t →
      rangeOk (fld p 8 8) (fld p 0x10 2) 1 509 = true →
      exec (.writeReg m p) s = .next (reply ((List.range (fld p 0x10 2)).foldl
        (fun s k => regWrite s (fld p 8 8 + 8 * k) (fld p (0x18 + 8 * k) 8) .whole) s) m 0 (bruahOut 0 [])))
    ∧ (gate s { owner := true, i3c := true, onStop := true } m p false = .ok t →
      (stopped s = false → exec (.restart m p) s = .next (reply s m 0 (bruahOut 9 [])))
      ∧ (stopped s = true → mayRestart s = false → exec (.restart m p) s = .next (reply s m 0 (bruahOut 0x0A [])))
      ∧ (stopped s = true → mayRestart s = true → exec (.restart m p) s = .next (reply (leaveStop s) m 0 (bruahOut 0 []))
        ∧ stopped (leaveStop s) = false ∧ (leaveStop s).power.asleep = false ∧ (leaveStop s).power.op = s.power.op
        ∧ (leaveStop s).power.vddSet = trimmed s s.power.wop)))
  ∧ (
  ∀ s : State, mboxLive s .owner = true → s.fw.running = true → stopped s = false →
    (∀ k : Nat, ∃ n, exec (.clearEventRecords .owner k) s = .next n ∧ (mboxOf n .owner).ret = 0
        ∧ n.faults.ownerEvents = s.faults.ownerEvents.drop k)
    ∧ (∀ v : BitVec 32, ∃ n, exec (.setEventInterruptPolicy .owner v) s = .next n ∧ (mboxOf n .owner).ret = 0 ∧ policyOf n .owner = v.toNat)
    ∧ (∀ v : BitVec 64, ∃ n, exec (.setTimestamp .owner v) s = .next n ∧ (mboxOf n .owner).ret = 0
        ∧ n.timestamp = some (v - BitVec.ofNat 64 (10 * rqtNow s)))
    ∧ (∀ (t : LdId) (u : Nat) (s1 : State), s.pins.mld = true → 1 ≤ u → resizeWindow s t (128 * u) = some s1 →
        exec (.setLdAllocations .owner t.val [u]) s = .next (reply s1 .owner 0 [])))

/-- Loads in the background: LOAD_IMAGE of an image that passes the loader's checks, LOAD_ADAPTER of a new version and
LOAD_LP of a prefix of the right length put the source's bytes into frames, answer Background and keep what completes;
nothing else may use the slot's new contents before. BACKGROUND_COMMAND_COMPLETE then ends the background command, sends vector 0
or leaves it in its pending bit, and makes the load READY, but not while the source cannot be reached. Unloading: UNLOAD_IMAGE of an image that nothing names frees its handle and its frames, and one in
use stays; RETIRE_ADAPTER leaves no READY slot of that kind; UNLOAD_LP of a prefix that nothing refers to empties its slot, but not while it loads. -/
def Obligations.LoadsAndUnloads : Prop :=
  (
  ∀ (m : Mbox) (p : List Byte) (src : List (Nat × Byte)) (s : State) (t : LdId), mboxLive s m = true →
    let begun (c : Instr) (v y : State) (op a : Nat) (out : List Byte) : Prop := ∃ n, exec c s = .next n
      ∧ n = { v with mem := n.mem, poison := n.poison, tags := n.tags, images := n.images, adapters := n.adapters, lps := n.lps
                     nodes := n.nodes, mboxes := n.mboxes, freeCtr := n.freeCtr, mere := n.mere, regs := n.regs, faults := n.faults }
      ∧ (mboxOf n m).ret = 1 ∧ (mboxOf n m).bg = some (op, a, 1) ∧ (mboxOf n m).bgOp = op ∧ (mboxOf n m).bgPct = 0
      ∧ (mboxOf n m).bgOut = bruahOut 0 out ∧ n.mem = y.mem
    (∀ h v bs, gate s { owner := true, len := 0x20, bg := true } m p (srcReserved p 8) = .ok t → freeHandle s = some h →
      frameRoom s (cdiv (loadSrc p 8).len 65536) = true → srcBytes s (loadSrc p 8) src = (v, some bs) →
      imageReason v bs (loadSrc p 8).len = 0 →
      begun (.loadImage m p src) v (fillFrames v bs).2 0xC101 h.val (toLE 2 h.val ++ toLE 2 0))
    ∧ (∀ (k : Fin 32) v bs, gate s { owner := true, len := 0x28, bg := true } m p (srcReserved p 0x10) = .ok t →
      drillHandle s (fld p 8 2) = true →
      (∀ a ∈ s.adapters.toList, ¬ ((a.st = .loading ∨ a.st = .ready) ∧ a.id = fld p 0x0A 2 ∧ a.version = fld p 0x0C 4)) →
      (List.finRange 32).find? (fun k => (s.adapters[k]).st == .empty) = some k →
      frameRoom s (cdiv (loadSrc p 0x10).len 65536) = true → srcBytes s (loadSrc p 0x10) src = (v, some bs) →
      begun (.loadAdapter m p src) v (fillFrames v bs).2 0xC103 k.val (toLE 1 k.val))
    ∧ (∀ (k : Fin 64) v bs, gate s { owner := true, len := 0x28, bg := true } m p (srcReserved p 0x10 || !zeroAt p 9 1) = .ok t →
      fld p 8 1 = k.val → (s.lps[k]).st = .empty → drillHandle s (fld p 0x0A 2) = true → fld p 0x0C 4 % 64 = 0 →
      64 ≤ fld p 0x0C 4 → fld p 0x0C 4 ≤ 4096 → (loadSrc p 0x10).len = lpBytes s (fld p 0x0A 2) (fld p 0x0C 4) → lpRefs s k.val = 0 →
      frameRoom s (cdiv (loadSrc p 0x10).len 65536) = true → srcBytes s (loadSrc p 0x10) src = (v, some bs) →
      begun (.loadLp m p src) v (fillFrames v bs).2 0xC105 k.val [])
    ∧ (∀ op a, (mboxOf s m).bg = some (op, a, 1) → srcWaits s (mboxOf s m).bgSrc = true →
      exec (.backgroundCommandComplete m) s = .next s)
    ∧ (∀ op a, (mboxOf s m).bg = some (op, a, 1) → op ≠ 0x0202 → srcWaits s (mboxOf s m).bgSrc = false →
      let v := finishLoad s op a
      ∃ n, exec (.backgroundCommandComplete m) s = .next n ∧ (mboxOf n m) = { mboxOf s m with bg := none, bgPct := 100 }
        ∧ n.out = v.out ++ (if vectorOpen v m 0 = true then [.msix m 0] else [])
        ∧ (op = 0xC101 → ∀ x, s.images[Fin.ofNat 16 a] = some x → n.images[Fin.ofNat 16 a] = some { x with ready := true })
        ∧ (op = 0xC103 → (n.adapters[Fin.ofNat 32 a]).st = .ready)
        ∧ (op = 0xC105 → (n.lps[Fin.ofNat 64 a]).st = .ready))
    ∧ (∀ op a ok, (mboxOf s m).bg = some (op, a, ok) → op ≠ 0x0202 → ok ≠ 1 →
      exec (.backgroundCommandComplete m) s = .next (sendMsix (setMbox s m { mboxOf s m with bg := none, bgPct := 100 }) m 0)))
  ∧ (
  ∀ (m : Mbox) (p : List Byte) (s : State) (t : LdId), mboxLive s m = true →
    (∀ img, gate s { owner := true, len := 0x0A } m p false = .ok t → imageOf s (fld p 8 2) = some img →
      ((imageInUse s (fld p 8 2) = true ∨ img.ready = false) → exec (.unloadImage m p) s = .next (reply s m 0 (bruahOut 6 [])))
      ∧ (imageInUse s (fld p 8 2) = false → img.ready = true →
        ∃ n, exec (.unloadImage m p) s = .next n ∧ n = { s with tags := n.tags, images := n.images, mboxes := n.mboxes }
          ∧ n.images[Fin.ofNat 16 (fld p 8 2)] = none ∧ (mboxOf n m).outp = bruahOut 0 []
          ∧ ∀ f ∈ img.frames, frameTag n f = .free))
    ∧ (∀ k, gate s { owner := true, len := 0x0A } m p false = .ok t →
      (readyAdapter s (fld p 8 2) = none → exec (.retireAdapter m p) s = .next (reply s m 0 (bruahOut 9 [])))
      ∧ (readyAdapter s (fld p 8 2) = some k →
        ∃ n, exec (.retireAdapter m p) s = .next n ∧ (n.adapters[Fin.ofNat 32 k]).st ≠ .ready ∧ (mboxOf n m).outp = bruahOut 0 []
          ∧ n.rqt = s.rqt))
    ∧ (gate s { owner := true, len := 9 } m p false = .ok t → fld p 8 1 < 64 →
      ((lpRefs s (fld p 8 1) ≠ 0 ∨ (s.lps[Fin.ofNat 64 (fld p 8 1)]).st = .loading) → exec (.unloadLp m p) s = .next (reply s m 0 (bruahOut 6 [])))
      ∧ (lpRefs s (fld p 8 1) = 0 → (s.lps[Fin.ofNat 64 (fld p 8 1)]).st ≠ .loading →
        ∃ n, exec (.unloadLp m p) s = .next n ∧ (n.lps[Fin.ofNat 64 (fld p 8 1)]).st = .empty ∧ n.rqt = s.rqt ∧ n.mem = s.mem)))

/-- A tenant's keys and domain: PROVISION_KEY in a secured session installs the material of an LD that has none, under a
generation that is not 0, counts one, and never changes another LD's keys; the same material again is answered and counts, other
material is taken under a higher generation while the LD has no entries, and a lower generation is in BAD_STATE; outside a secured session
of the function's own DOE mailbox it is Unsupported. RESET_SELF, RESET_TENANT and SEC_KEY_CLEAR begin the reset of a domain, the last clearing its keys first. -/
def Obligations.TenantKeysAndReset : Prop :=
  ∀ (m : Mbox) (p : List Byte) (s : State) (t : LdId),
    (∀ k : Option Nat, secured s m k = false → mboxLive s m = true → s.fw.running = true →
      exec (.provisionKey m p k) s = .next (reply s m 3 []))
    ∧ (∀ k : Option Nat, secured s m k = true →
      (gate s { len := 0x50, onRec := true } m p (!zeroAt p 0x0C 4) = .ok t → (ten s t).material = none → fld p 8 4 ≠ 0 →
        ∃ n, exec (.provisionKey m p k) s = .next n ∧ (ten n t).material = some (slice p 0x10 64) ∧ (ten n t).keyGen = fld p 8 4
          ∧ rises (secReg 0x098) 1 s n ∧ ∀ x, x ≠ t → (ten n x).material = (ten s x).material)
      ∧ (∀ old, gate s { len := 0x50, onRec := true } m p (!zeroAt p 0x0C 4) = .ok t → (ten s t).material = some old →
        (fld p 8 4 ≠ 0 → fld p 8 4 = (ten s t).keyGen → bytesEq (slice p 0x10 64) old = true →
          exec (.provisionKey m p k) s
            = .next (reply (regBump s (secReg 0x098) 1) m 0 (bruahOut 0 (toLE 4 (ten s t).keyGen))))
        ∧ ((ten s t).keyGen < fld p 8 4 → ldEntries s t.val = [] →
          ∃ n, exec (.provisionKey m p k) s = .next n ∧ (ten n t).material = some (slice p 0x10 64) ∧ (ten n t).keyGen = fld p 8 4)
        ∧ (fld p 8 4 < (ten s t).keyGen →
          exec (.provisionKey m p k) s = .next (reply s m 0 (bruahOut 9 (toLE 4 (ten s t).keyGen))))))
    ∧ (mboxLive s m = true →
      (gate s {} m p false = .ok t → exec (.resetSelf m p) s = .next (tenantReset s t (some m)))
      ∧ (gate s { owner := true, named := true } m p false = .ok t → exec (.resetTenant m p) s = .next (tenantReset s t (some m)))
      ∧ (ten (tenantReset s t (some m)) t).resetting = true ∧ m ∈ (ten (tenantReset s t (some m)) t).resetAck)
    ∧ (∀ mask : BitVec 16, alive s = true → ∃ n, exec (.secKeyClear mask) s = .next n
        ∧ ∀ x : LdId, (mask.getLsbD x.val = true → (ten n x).material = none ∧ (ten n x).keyGen = 0 ∧ (ten n x).resetting = true)
          ∧ (mask.getLsbD x.val = false → ten n x = ten s x))

/-- CXL-defined commands that read: with firmware running, out of a stop and on a mailbox that has them, each answers Success and leaves
the machine as it was beside the mailbox; during a stop the owner's are Busy (notes/assumptions/21.md), but for Get Health Info; an
owner's command on a tenant's mailbox, and the fabric manager's commands in SLD mode, are Unsupported. Identify answers the revision and
the capacity of the windows, Get Supported Logs and Get Log the command effects log of that mailbox, Get Health Info the health status and the temperature, Get FW Info the one slot, Get LD
Info the memory and the LDs, Get LD Allocations the windows, Get Timestamp what was set plus the time since, Get Event Records the
records of that mailbox, and Get Event Interrupt Policy the policy set. CXL-defined commands that set: Clear Event Records drops the
oldest records of that mailbox, Set Event Interrupt Policy stores the policy, Set Timestamp starts the clock from the value given,
and Set LD Allocations resizes the windows or answers Invalid Input with nothing changed; an LD left without a window has its keys
cleared and its domain reset. -/
def Obligations.CxlCommands : Prop :=
  (
  ∀ (m : Mbox) (s : State), mboxLive s m = true → s.fw.running = true →
    let answers (c : Instr) (x : List Byte) : Prop := exec c s = .next (reply s m 0 x)
    let cap := identifyBytes s m
    ((stopped s = false ∨ ∀ t, m ≠ .tenant t) → answers (.getHealthInfo m) (toLE 1 (b2n (halted s || regField s (bistReg 0) 2 2 == 1) * 4) ++ toLE 1 0 ++ toLE 1 0 ++ toLE 1 0xFF
      ++ toLE 2 (junction s) ++ toLE 4 0 ++ toLE 4 (regGet s (fltReg 0x50)) ++ toLE 4 0))
    ∧ (stopped s = false → m ≠ .i3c →
      answers (.identifyMemoryDevice m) (slice s.fw.revision 0 16 ++ toLE 8 cap ++ toLE 8 cap ++ toLE 8 0 ++ toLE 8 0 ++ List.replicate 21 0)
      ∧ answers (.getSupportedLogs m) (toLE 2 1 ++ toLE 6 0 ++ celUuid ++ toLE 4 (4 * (celOpcodes m).length))
      ∧ answers (.getCxlLog m) ((celOpcodes m).flatMap (fun o => toLE 2 o ++ toLE 2 0))
      ∧ answers (.getEventRecords m) (toLE 2 (eventsOf s m).length ++ (eventsOf s m).flatten)
      ∧ answers (.getEventInterruptPolicy m) (toLE 4 (policyOf s m))
      ∧ answers (.getTimestamp m) (toLE 8 (match s.timestamp with
          | some x => (x.toNat + 10 * rqtNow s) % 2 ^ 64
          | none => 0)))
    ∧ (stopped s = false → m = .owner →
      answers (.getFwInfo m) (toLE 1 1 ++ toLE 1 1 ++ toLE 1 1 ++ List.replicate 13 0 ++ slice s.fw.revision 0 16 ++ List.replicate 48 0)
      ∧ (s.pins.mld = true →
        answers (.getLdAllocations m) (toLE 1 16 ++ toLE 1 0 ++ toLE 1 16 ++ toLE 1 0
          ++ (List.finRange 16).flatMap (fun t => toLE 8 ((ten s t).window.length / 128) ++ toLE 8 0))
        ∧ answers (.getLdInfo m) (toLE 8 (hbmCap s) ++ toLE 2 16)))
    ∧ (stopped s = false → m = .owner → s.pins.mld = false →
      exec (.getLdAllocations m) s = .next (reply s m 3 []) ∧ exec (.getLdInfo m) s = .next (reply s m 3 []))
    ∧ ((∃ t, m = .tenant t) → ∀ (k : Nat) (us : List Nat) (x : BitVec 64), ∀ c ∈ ([.setTimestamp m x, .getFwInfo m, .getLdInfo m
        , .getLdAllocations m, .setLdAllocations m k us] : List Instr), exec c s = .next (reply s m 3 []))
    ∧ (stopped s = true → m = .owner → ∀ (k : Nat) (us : List Nat) (v : BitVec 32) (x : BitVec 64), ∀ c ∈ ([.identifyMemoryDevice m
        , .getSupportedLogs m, .getCxlLog m, .getEventRecords m, .clearEventRecords m k, .getEventInterruptPolicy m
        , .setEventInterruptPolicy m v, .getTimestamp m, .setTimestamp m x, .getFwInfo m, .getLdInfo m, .getLdAllocations m
        , .setLdAllocations m k us] : List Instr), exec c s = .next (reply s m 6 [])))
  ∧ (
  ∀ (m : Mbox) (s : State), mboxLive s m = true → s.fw.running = true → stopped s = false →
    (∀ (t : LdId) (k : Nat), m = .tenant t → exec (.clearEventRecords m k) s
        = .next (reply (setTen s t { ten s t with events := (ten s t).events.drop k }) m 0 []))
    ∧ (∀ k : Nat, m = .owner → exec (.clearEventRecords m k) s
        = .next (reply { s with faults := { s.faults with ownerEvents := s.faults.ownerEvents.drop k } } m 0 []))
    ∧ (∀ v : BitVec 32, m ≠ .i3c → ∃ n, exec (.setEventInterruptPolicy m v) s = .next n ∧ policyOf n m = v.toNat
        ∧ (∀ k, k ≠ m → policyOf n k = policyOf s k)
        ∧ n = { s with faults := { s.faults with eventPolicy := n.faults.eventPolicy }, mboxes := n.mboxes })
    ∧ (∀ v : BitVec 64, m = .owner → ∃ n, exec (.setTimestamp m v) s = .next n ∧ timestampNow n = v.toNat
        ∧ n = { s with timestamp := n.timestamp, mboxes := n.mboxes })
    ∧ (∀ (k : Nat) (us : List Nat), m = .owner → s.pins.mld = true → resizeAll s k us = none →
        exec (.setLdAllocations m k us) s = .next (reply s m 2 []))
    ∧ (∀ (k : Nat) (us : List Nat) (s1 : State), m = .owner → s.pins.mld = true → resizeAll s k us = some s1 →
        ((∀ u ∈ us, 1 ≤ u) → exec (.setLdAllocations m k us) s = .next (reply s1 m 0 []))
        ∧ exec (.setLdAllocations m k us) s = .next (reply (((List.range us.length).filter (fun j =>
            nthD 0 us j == 0 && !(ten s (ldId (k + j))).window.isEmpty)).foldl (fun s j =>
              tenantReset (clearKeys s (ldId (k + j))) (ldId (k + j)) none) s1) m 0 []))
    ∧ (∀ (k : Nat) (us : List Nat), m = .owner → s.pins.mld = false → exec (.setLdAllocations m k us) s = .next (reply s m 3 [])))

/-- Firmware before it runs: a Transfer is kept in order, its end checks the image, a full Transfer does both at once, and an abort
gives up what was kept; a slot that is not the one answers a code of its own and keeps what was sent. Activate starts a verified image
once the power-up BIST has passed, with the layer-1 secrets there and the layer-0 ones erased, waits for it in the background before,
and fails after a FATAL finding; an image that fails its checks is counted and not kept. -/
def Obligations.FirmwareTransfer : Prop :=
  ∀ (s : State), mboxLive s .owner = true → s.fw.running = false → s.fw.rom = true → (mboxOf s .owner).bg = none →
    (∀ (d : List Byte) (k : Nat),
      exec (.transferFw .owner 1 0 d k) s
        = .next (reply { s with fw := { s.fw with open_ := true, buffer := d, verified := none } } .owner 0 []))
    ∧ (∀ (o : Nat) (d : List Byte), s.fw.open_ = true → o * 128 = s.fw.buffer.length →
      (∀ k : Nat, exec (.transferFw .owner 2 o d k) s
        = .next (reply { s with fw := { s.fw with buffer := s.fw.buffer ++ d } } .owner 0 []))
      ∧ (fwCheck s (s.fw.buffer ++ d) ≠ 0 → ∃ n, exec (.transferFw .owner 3 o d 1) s = .next n ∧ n.fw.verified = none
          ∧ (mboxOf n .owner).ret = 0x000A ∧ rises (secReg 0x088) 1 s n)
      ∧ (fwCheck s (s.fw.buffer ++ d) = 0 → ∃ n, exec (.transferFw .owner 3 o d 1) s = .next n
          ∧ n.fw.verified = some (s.fw.buffer ++ d) ∧ (mboxOf n .owner).ret = 0)
      ∧ ∀ k, k ≠ 1 → exec (.transferFw .owner 3 o d k) s = .next (reply s .owner 0x000B []))
    ∧ (∀ (o : Nat) (d : List Byte) (k : Nat), o * 128 ≠ s.fw.buffer.length →
      exec (.transferFw .owner 2 o d k) s = .next (reply s .owner 9 []))
    ∧ (∀ (d : List Byte),
      (fwCheck s d = 0 → ∃ n, exec (.transferFw .owner 0 0 d 1) s = .next n ∧ (mboxOf n .owner).ret = 0 ∧ n.fw.verified = some d)
      ∧ (fwCheck s d ≠ 0 → ∃ n, exec (.transferFw .owner 0 0 d 1) s = .next n ∧ n.fw.verified = none
          ∧ (mboxOf n .owner).ret = 0x000A ∧ rises (secReg 0x088) 1 s n)
      ∧ (∀ k, k ≠ 1 → exec (.transferFw .owner 0 0 d k) s = .next (reply s .owner 0x000B []))
      ∧ ∀ o k : Nat, exec (.transferFw .owner 4 o d k) s
          = .next (reply { s with fw := { s.fw with open_ := false, buffer := [] } } .owner 0 []))
    ∧ (s.fw.verified ≠ none → regField s (bistReg 0) 0 0 = 0 → ∃ n, exec (.activateFw .owner 0) s = .next n ∧ n.fw.waiting = true
        ∧ (mboxOf n .owner).ret = 1 ∧ (mboxOf n .owner).bg = some (0x0202, 0, 0) ∧ n.fw.running = false)
    ∧ (s.fw.verified ≠ none → regField s (bistReg 0) 0 0 = 1 → regField s (bistReg 0) 2 2 = 1 →
      exec (.activateFw .owner 0) s = .next (reply s .owner 0x000C []))
    ∧ (∀ b, s.fw.verified = some b → regField s (bistReg 0) 0 0 = 1 → regField s (bistReg 0) 2 2 = 0 →
      ∃ n, exec (.activateFw .owner 0) s = .next n ∧ n.fw.running = true ∧ n.fw.rom = false ∧ n.fw.code = b.drop 512
        ∧ n.fw.svn = fld b 0x10 4 ∧ n.sec.aliasKey.isSome = true ∧ n.sec.cdi0 = none ∧ n.sec.deviceKey = none
        ∧ regGet n (glbReg 0x100) = 1)

/-- CXL.mem on a window that the LD's HDM decoders map, out of a halt and a stop: a MemRd or MemRdData within the window of a keyed LD
answers the bytes there, a MemWr stores its bytes and a MemWrPtl the enabled ones, and every other byte of HBM is as it was; MemInv is
answered without data, and MemSpecRd changes nothing; without key material a read answers poison and a write stores nothing; beyond the
window a read answers poison, a write stores nothing, and either counts one against the LD and gives it a record of the address.
HDM_DECODER_COMMIT with one way holds the range, and with any other number only the error. -/
def Obligations.WindowAccesses : Prop :=
  (∀ (a : HostAddr) (s : State) (t : LdId) (off : Nat), cxlUp s = true → hostTarget s a = some (t, off) → memOpen s = true →
    (∀ k, exec (.cxlMemRead a ⟨.memSpecRd, k⟩) s = .next s)
    ∧ (∀ k x y, windowDpa s t off = some x → windowDpa s t (off + k - 1) = some y →
        exec (.cxlMemRead a ⟨.memInv, k⟩) s = .next { s with cxl := {} })
    ∧ ((ten s t).material.isSome = true →
      (∀ kd k x y, kd = .memRd ∨ kd = .memRdData → windowDpa s t off = some x → windowDpa s t (off + k - 1) = some y →
        let v := meterWindow (peerTouch s t off k) t k
        v.mem = s.mem ∧ tvaReads v t off k = tvaReads s t off k
        ∧ (tvaPoisoned v t off k = false →
          exec (.cxlMemRead a ⟨kd, k⟩) s = .next { v with cxl := { bytes := tvaReads s t off k, poison := false } })
        ∧ (tvaPoisoned v t off k = true →
          ∃ n, exec (.cxlMemRead a ⟨kd, k⟩) s = .next n ∧ n.cxl = { bytes := [], poison := true } ∧ n.mem = s.mem
            ∧ rises (fltReg (0x108 + 16 * t.val)) 1 s n))
      ∧ (∀ bs x y, windowDpa s t off = some x → windowDpa s t (off + bs.length - 1) = some y → Inv s →
        (∃ n, exec (.cxlMemWrite a ⟨bs, none⟩) s = .next n ∧ n.cxl = {} ∧ n.mem = (tvaWrites s t off bs).mem
          ∧ ∀ z, (∀ i, i < bs.length → tvaDpa s t (off + i) ≠ some z) → cellRead z n.mem = cellRead z s.mem)
        ∧ ∀ es, ∃ n, exec (.cxlMemWrite a ⟨bs, some es⟩) s = .next n ∧ n.cxl = {}
          ∧ n.mem = ((List.range bs.length).foldl
              (fun m i => if nthD false es i then tvaWrites m t (off + i) [nthD 0 bs i] else m) s).mem
          ∧ ∀ z, (∀ i, i < bs.length → nthD false es i = true → tvaDpa s t (off + i) ≠ some z) → cellRead z n.mem = cellRead z s.mem))
    ∧ ((ten s t).material = none →
      (∀ kd k x y, kd = .memRd ∨ kd = .memRdData → windowDpa s t off = some x → windowDpa s t (off + k - 1) = some y →
        ∃ n, exec (.cxlMemRead a ⟨kd, k⟩) s = .next n ∧ n.cxl = { bytes := [], poison := true } ∧ n.mem = s.mem)
      ∧ (∀ w x y, windowDpa s t off = some x → windowDpa s t (off + w.bytes.length - 1) = some y →
        exec (.cxlMemWrite a w) s = .next { s with cxl := {} }))
    ∧ (windowDpa s t off = none →
      let recorded (n : State) : Prop := n.mem = s.mem ∧ rises (fltReg (0x100 + 16 * t.val)) 1 s n ∧ rises (fltReg 0x020) 1 s n
        ∧ ∃ r : FaultRec, r.cls = 0 ∧ r.code = 0x000E ∧ r.ld = t.val ∧ r.addr = off
          ∧ (ten n t).events = (ten s t).events ++ [faultBytes r]
      (∀ kd k, kd ≠ .memSpecRd →
        ∃ n, exec (.cxlMemRead a ⟨kd, k⟩) s = .next n ∧ n.cxl = { bytes := [], poison := true } ∧ recorded n)
      ∧ (∀ w, ∃ n, exec (.cxlMemWrite a w) s = .next n ∧ n.cxl = {} ∧ recorded n)))
  ∧ ∀ (s : State) (t : LdId) (d : Fin 2) (ways base size : Nat), alive s = true →
      exec (.hdmDecoderCommit t d ways base size) s
        = .next (setTen s t (if ways = 1
            then { ten s t with hdm := (ten s t).hdm.set d.val (some (base, size)), hdmErr := (ten s t).hdmErr.set d.val false }
            else { ten s t with hdmErr := (ten s t).hdmErr.set d.val true }))

/-- Owner registers with rules of their own: QCFG keeps WEIGHT at least 1 and the LD of a queue that is on; LD_RQT stops
RQT_LIMIT at 4,096 and holds MIN_CLASS, below which no queue of the LD stays; LD_POOL_LIMIT, a route entry and a region entry that
overlaps none hold what is written; PWR_CFG keeps DROOP_MV at least 12 and SLUICE_LIMIT within 1 to 8; FLT_INJECT stores no SOURCE
that it does not accept, and stores every other field (the model's choice, notes/assumptions/83.md); FUR_NUM_SET waits for the headland. REGISTER_WRITE: a write of 8 bytes over BAR2 stores the
register under its access codes, one of 4 bytes stores that half; a read answers the register, or a half of it; a size or alignment
that R491 forbids, and an offset outside every block, change no register but the error flag. In BAR0 at 0x2_0000, in the LD's own page
in MLD mode and in page t of the SLD function, a doorbell's counts act as their commands, its DB_ERR clears by a write of 1, and its
status is read; a write of a vector's control word masks the vector, or unmasks it and sends what waits; the mailbox doorbell turns an
opcode that no command has away. A word of configuration space is read where a DVSEC holds it, and a write of the Command word sets
Memory Space Enable and Bus Master Enable of its function. -/
def Obligations.RegisterWrites : Prop :=
  ∀ (s : State) (v : Reg64), alive s = true →
    (∀ q : Fin 128, ∃ n, exec (.qcfgWrite q v) s = .next n ∧ n = { s with regs := n.regs }
        ∧ regField n (qcfgOff q.val) 7 0 = Nat.max 1 (bits v.toNat 7 0) ∧ regField n (qcfgOff q.val) 16 16 = bits v.toNat 16 16
        ∧ (queueOn s q.val = true → queueLd n q.val = queueLd s q.val)
        ∧ (queueOn s q.val = false → (que s q).pair = false → (∀ x ∈ s.rqt, x.2.state = .free ∨ x.2.queue ≠ q.val) →
            queueLd n q.val = bits v.toNat 15 12)
        ∧ regsBut [qcfgOff q.val] s n)
    ∧ (∀ ld : LdId, ∃ n, exec (.ldRqtWrite ld v) s = .next n ∧ n = { s with regs := n.regs }
        ∧ regField n (ldRqtOff ld.val) 12 0 = Nat.min 4096 (bits v.toNat 12 0)
        ∧ regField n (ldRqtOff ld.val) 15 14 = bits v.toNat 15 14
        ∧ ∀ q, q < 128 → queueLd s q = ld.val → bits v.toNat 15 14 ≤ regField n (qcfgOff q) 11 10)
    ∧ (∀ ld : LdId, exec (.ldPoolLimitWrite ld v) s = .next (regSet s (ldPoolOff ld.val) (bits v.toNat 31 0)))
    ∧ (∀ i : Fin 1024, ∃ n, exec (.routeWrite i v) s = .next n ∧ regGet n (routeOff (4 * i.val)) = v.toNat)
    ∧ (∀ (i : Fin 512) (r : Fin 4), ∃ n, exec (.regionWrite i r v) s = .next n ∧ n = { s with regs := n.regs }
        ∧ (rgnOverlaps n i.val = true → rgnValid n i.val = false)
        ∧ (rgnOverlaps n i.val = false → regGet n (rgnOff i.val r.val)
            = accessWrite (regAccess (rgnOff i.val r.val)) (regGet s (rgnOff i.val r.val)) v.toNat % 2 ^ 64))
    ∧ (∃ n, exec (.pwrCfgWrite v) s = .next n ∧ regGet n (pwrReg 0x008) = pwrCfgStored (regGet s (pwrReg 0x008)) v.toNat % 2 ^ 64
        ∧ 1 ≤ regField n (pwrReg 0x008) 3 0 ∧ regField n (pwrReg 0x008) 3 0 ≤ 8 ∧ 12 ≤ regField n (pwrReg 0x008) 15 8)
    ∧ (∃ n, exec (.fltInject v) s = .next n ∧ n = { s with regs := n.regs } ∧ regsBut [fltReg 0x080] s n
        ∧ ([2, 3, 5, 6, 7].contains (bits v.toNat 47 40) = true →
            regGet n (fltReg 0x080) = accessWrite (regAccess (fltReg 0x080)) (regGet s (fltReg 0x080)) v.toNat % 2 ^ 64)
        ∧ ([2, 3, 5, 6, 7].contains (bits v.toNat 47 40) = false → regField n (fltReg 0x080) 47 40 = regField s (fltReg 0x080) 47 40)
        ∧ bitAt (regGet n (fltReg 0x080)) 0 = bitAt v.toNat 0 ∧ regField n (fltReg 0x080) 2 1 = bits v.toNat 2 1)
    ∧ (hostUp s = true → exec (.furNumSet v) s = .next { s with tick := { s.tick with numSet := some v.toNat } })
    ∧ (∀ o : Nat, bar2Open s o = true →
        let w := { s with bar2Last := none }
        (∀ k, sizeOk o k = false → exec (.registerWrite (.bar2 o) k v) s = .next (regFlag w (glbReg 0x008) 1)
          ∧ exec (.registerWrite (.bar2Read o) k v) s = .next { regFlag w (glbReg 0x008) 1 with regData := 0 })
        ∧ (∀ k, sizeOk o k = true → blockOf o = none → exec (.registerWrite (.bar2 o) k v) s = .next (regFlag w (glbReg 0x008) 0)
          ∧ exec (.registerWrite (.bar2Read o) k v) s = .next { regFlag w (glbReg 0x008) 0 with regData := 0 })
        ∧ ((blockOf o).isSome = true → o % 8 = 0 →
            exec (.registerWrite (.bar2 o) 8 v) s = .next (regWrite w o v.toNat .whole)
            ∧ exec (.registerWrite (.bar2 o) 4 v) s = .next (regWrite w o v.toNat .low)
            ∧ exec (.registerWrite (.bar2Read o) 8 v) s = .next { w with regData := reg (regRead s o) }
            ∧ exec (.registerWrite (.bar2Read o) 4 v) s = .next { w with
                regData := reg (regRead s o % 2 ^ 32), bar2Last := some o, bar2Shadow := BitVec.ofNat 32 (regRead s o / 2 ^ 32) }
            ∧ ∀ b a r, blockOf o = some (b, a, r) → ((b = 2 ∧ r ≠ 0x008) ∨ (b = 3 ∧ r ≠ 0x3000) ∨ (b = 9 ∧ r ≠ 0x008)) →
                regAccess o ≠ {} → ∃ n, exec (.registerWrite (.bar2 o) 8 v) s = .next n ∧ n = { w with regs := n.regs }
                  ∧ regsBut [o] s n ∧ regGet n o = accessWrite (regAccess o) (regGet s o) (mergePart w o v.toNat .whole) % 2 ^ 64)
        ∧ ((blockOf o).isSome = true → o % 8 = 4 →
            exec (.registerWrite (.bar2 o) 4 v) s = .next (regWrite w (o - 4) (v.toNat * 2 ^ 32) .high)))
    ∧ (∀ (t : LdId) (k : Fin 8) (fn : Mbox) (b z : Nat), hostUp s = true → hasBars s fn = true → (z = 4 ∨ z = 8) →
        (fn = .tenant t ∧ b = 0x20000 + 0x20 * k.val) ∨ (fn = .owner ∧ b = 0x20000 + 0x1000 * t.val + 0x20 * k.val) →
        exec (.registerWrite (.bar0 fn b) z v) s = exec (.sqTail t k v) s
        ∧ exec (.registerWrite (.bar0 fn (b + 8)) z v) s = exec (.cqHead t k v) s
        ∧ (bitAt v.toNat 1 = true → exec (.registerWrite (.bar0 fn (b + 0x18)) z v) s
            = .next (setTen s t { ten s t with dbErr := (ten s t).dbErr.set k.val false }))
        ∧ ∀ o, o < 0x20 → exec (.registerWrite (.bar0Read fn (b + o)) z v) s = .next { s with regData := reg (bellRead s t k o) })
    ∧ (∀ (fn : Mbox), hostUp s = true → hasBars s fn = true →
        (∀ k : Fin 64, k.val < fnVectors fn →
          let f := fnOf s fn
          let x := f.vectors[k]
          exec (.registerWrite (.bar0 fn (0x3000C + 16 * k.val)) 4 v) s
            = .next (flushMsix (setFn s fn { f with vectors := f.vectors.set k { x with masked := bitAt v.toNat 0 } }) fn))
        ∧ (boxBusy s fn = false → knownOpcode (fnOf s fn).opcode = false → bitAt v.toNat 0 = true → s.fw.running = true →
          exec (.registerWrite (.bar0 fn 0x10204) 4 v) s = .next (reply s fn 3 [])))
    ∧ (∀ (fn : Mbox) (z : Nat), hostUp s = true → fnExists s fn = true →
        (∀ o w, 0x100 ≤ o → (configDvsecs s fn)[(o - 0x100) / 4]? = some w →
          exec (.registerWrite (.config fn o) z v) s = .next { s with regData := reg w })
        ∧ exec (.registerWrite (.configWrite fn 0x04) z v) s
            = .next (setFn s fn { fnOf s fn with memSpace := bitAt v.toNat 1, busMaster := bitAt v.toNat 2 }))

/-- SPDM on a port whose Alias key is there: version, capabilities, algorithms, digests, slot 0's chain from the root to the Alias
certificate, a challenge and a measurement are answered; another slot, a measurement index without a value and PSK get an error; a session opens through
KEY_EXCHANGE and FINISH, and END_SESSION closes it. DOE_DISCOVERY and a table access answer on a live DOE mailbox. IDE: keys
from a secured session over DOE make the link secure in the mode that the host chose; IDE_FAIL on a keyed link makes it insecure, so that nothing but DOE is
served, with one DEVICE_FAULT record counted. -/
def Obligations.SpdmAndIde : Prop :=
  (
  ∀ (port : SpdmPort) (s : State), spdmLive s port = true →
    let answers (q : SpdmReq) (code : Nat) : Prop := ∃ n b, exec (.spdmRequest port q) s = .next n ∧ n.out = s.out ++ [.spdm port code b]
      ∧ n = { s with out := n.out, freeCtr := n.freeCtr }
    exec (.spdmRequest port .getVersion) s = .next (spdmSend s port 0x04 (toLE 2 0x1200))
    ∧ exec (.spdmRequest port .getCapabilities) s = .next (spdmSend s port 0x61 (toLE 4 0x22D6))
    ∧ exec (.spdmRequest port .getDigests) s = .next (spdmSend s port 0x01 (toLE 1 1 ++ sha384 (certChain s)))
    ∧ answers .negotiateAlgorithms 0x63
    ∧ exec (.spdmRequest port (.getCertificate 0)) s = .next (spdmSend s port 0x02 (certChain s))
    ∧ certChain s = Config.rootCert ++ s.fuses.deviceCert ++ s.sec.aliasCert
    ∧ (∀ k, k ≠ 0 → exec (.spdmRequest port (.getCertificate k)) s = .next (spdmError s port 1))
    ∧ (∀ x, answers (.challenge x) 0x03 ∧ exec (.spdmRequest port (.challenge x)) s = .next (spdmSigned s port 0x03 x))
    ∧ (∀ i, i ≠ 0 → i ≠ 0xFF → (measurement s port i).isNone = true → exec (.spdmRequest port (.getMeasurements i)) s = .next (spdmError s port 1))
    ∧ (∀ i, i ≠ 0 → (i = 0xFF ∨ (measurement s port i).isSome = true) → answers (.getMeasurements i) 0x60
        ∧ exec (.spdmRequest port (.getMeasurements i)) s = .next (spdmSigned s port 0x60 (measurementBlocks s port i)))
    ∧ exec (.spdmRequest port (.getMeasurements 0)) s = .next (spdmSend s port 0x60
        (toLE 1 ((List.range 32).filter (fun k => (measurement s port k).isSome)).length))
    ∧ exec (.spdmRequest port .pskExchange) s = .next (spdmError s port 7)
    ∧ (freeSession s port < 4 → ∃ n, exec (.spdmRequest port .keyExchange) s = .next n ∧ (port, freeSession s port) ∈ n.sec.shaking)
    ∧ (∀ k, (port, k) ∈ s.sec.shaking → ∃ n, exec (.spdmRequest port (.finish k)) s = .next n ∧ (port, k) ∈ n.sec.sessions
        ∧ (port, k) ∉ n.sec.shaking)
    ∧ (∀ k, (port, k) ∈ s.sec.sessions → answers (.heartbeat k) 0x68
        ∧ ∃ n, exec (.spdmRequest port (.endSession k)) s = .next n ∧ (port, k) ∉ n.sec.sessions)
    ∧ (4 ≤ freeSession s port → exec (.spdmRequest port .keyExchange) s = .next (spdmError s port 0x0A))
    ∧ (∀ k, (port, k) ∉ s.sec.sessions → exec (.spdmRequest port (.heartbeat k)) s = .next (spdmError s port 1)
        ∧ exec (.spdmRequest port (.endSession k)) s = .next (spdmError s port 1)))
  ∧ (
  ∀ (s : State) (fn : Mbox), doeLive s fn = true →
    let size := match fn with
      | .tenant t => (ten s t).window.length * 2 ^ 21
      | _ => 16 * 2 ^ s.pins.sldSpan
    let entry (ty v : Nat) : List Byte :=
      toLE 1 1 ++ toLE 1 0 ++ toLE 2 24 ++ toLE 1 0 ++ toLE 1 0 ++ toLE 1 ty ++ toLE 1 0 ++ toLE 8 1000 ++ toLE 2 v ++ toLE 6 0
    exec (.doeDiscovery fn) s = .next (send s (.doe (.doe fn)
      (toLE 2 1 ++ toLE 1 0 ++ (toLE 2 1 ++ toLE 1 1) ++ (toLE 2 1 ++ toLE 1 2) ++ (toLE 2 0x1E98 ++ toLE 1 2))))
    ∧ exec (.tableAccess fn) s = .next (send s (.doe (.doe fn) (toLE 1 0 ++ toLE 1 0 ++ toLE 2 24 ++ toLE 1 0 ++ toLE 3 0 ++ toLE 8 0
        ++ toLE 8 size ++ entry 1 700 ++ entry 4 55 ++ entry 5 55))))
  ∧ (
  ∀ s : State, alive s = true →
    (∀ (fn : Mbox) (n : Nat) (k : IdeKeys), (.doe fn, n) ∈ s.sec.sessions →
      let v := { s with sec := { s.sec with ideKeyed := true, ideKeys := k.keys, ideSkid := k.skid, ideInsecure := false } }
      exec (.ideKm (some n) k) s = .next (flushAll v) ∧ (flushAll v).sec = v.sec)
    ∧ (∀ k : IdeKeys, exec (.ideKm none k) s = .next s)
    ∧ (s.sec.ideKeyed = true → ∃ n, exec .ideFail s = .next n ∧ n.sec.ideInsecure = true ∧ hostUp n = false
        ∧ rises (fltReg 0x040) 1 s n))

/-- Rollback, revocation and fences: COMMIT_DONE raises SVN_FUSE to the running image's SVN and never lowers it; REVOKE
blows only bits below the running image's key index, the lowest at once and the others one at a time; DOMAIN_KEY_LOCK sets LOCK; a fence clears DONE and the completion of
what was checked before sets it. -/
def Obligations.CommitRevokeAndFence : Prop :=
  ∀ s : State,
    (alive s = true → s.fw.running = true →
      ∃ n, exec .commit s = .next n ∧ n.sec.committing = true ∧ n.fuses = s.fuses ∧ regField n (secReg 0x008) 0 0 = 1)
    ∧ (s.sec.committing = true → ∃ n, exec .commitDone s = .next n ∧ n.fuses = { s.fuses with svn := Nat.max s.fuses.svn s.fw.svn }
        ∧ n.sec.committing = false ∧ regField n (secReg 0x008) 1 0 = 2)
    ∧ (alive s = true → s.fw.running = true → ∀ mask : BitVec 4,
      let low := BitVec.ofNat 4 (2 ^ s.fw.keyIndex - 1)
      let due := s.sec.revoking ||| (mask &&& low &&& ~~~s.fuses.keyRevoke)
      ∃ n, exec (.revoke mask) s = .next n ∧ n.fuses = { s.fuses with keyRevoke := s.fuses.keyRevoke ||| (due &&& -due) }
        ∧ n.sec.revoking = due &&& (due - 1)
        ∧ regField n (secReg 0x008) 2 2 = if mask &&& ~~~low = 0 then regField s (secReg 0x008) 2 2 else 1)
    ∧ (alive s = true → exec .domainKeyLock s = .next (regFlag s (secReg 0x028) 1)
        ∧ regField (regFlag s (secReg 0x028) 1) (secReg 0x028) 1 1 = 1)
    ∧ (alive s = true → ∃ n, exec .fenceReq s = .next n ∧ regField n (secReg 0x010) 1 1 = 0 ∧ n.sec.fencing = true)
    ∧ (s.sec.fencing = true → ∃ n, exec .fenceDone s = .next n ∧ regField n (secReg 0x010) 1 1 = 1 ∧ n.sec.fencing = false)

/-- The TAP: IDCODE and IKB_CHAL shift their value out; EXTEST, CLAMP and HIGHZ load only while PERST_N is asserted and
DAP_ACCESS only in a debug state, each acting as BYPASS otherwise; IKB_UNLOCK with a wrong token counts one and draws a new
challenge, one that is accepted halts the device with every request and every key gone and HBM as it was, and after eight
failures none is checked. -/
def Obligations.TapInstructions : Prop :=
  ∀ s : State,
    exec .idcode s = .next (send (tapLoad s 0x01 (toLE 4 (idcode s))) (.tap (toLE 4 (idcode s))))
    ∧ exec .ikbChal s = .next (send (tapLoad s 0x40 (slice s.sec.challenge 0 32)) (.tap (slice s.sec.challenge 0 32)))
    ∧ exec .bypass s = .next (tapLoad s 0xFF []) ∧ exec .samplePreload s = .next (tapLoad s 0x02 [])
    ∧ exec .extest s = .next (tapLoad s (if s.pins.perstN = true then 0xFF else 0x00) [])
    ∧ exec .clamp s = .next (tapLoad s (if s.pins.perstN = true then 0xFF else 0x03) [])
    ∧ exec .highz s = .next (tapLoad s (if s.pins.perstN = true then 0xFF else 0x04) [])
    ∧ exec .dapAccess s = .next (tapLoad s (if s.sec.debug = 1 ∨ s.sec.debug = 2 then 0x42 else 0xFF) [])
    ∧ (∀ (b : Nat) (head rest : List Byte),
      (8 ≤ s.sec.unlockFails → exec (.ikbUnlock b head rest) s = .next (tapLoad s 0xFF []))
      ∧ (alive s = true → s.sec.unlockFails < 8 → tokenOk s (head ++ rest) = false →
        ∃ n, exec (.ikbUnlock b head rest) s = .next n ∧ n.sec.unlockFails = s.sec.unlockFails + 1 ∧ rises (secReg 0x090) 1 s n
          ∧ n.sec.challenge = drawBytes s 32 ∧ n.sec.debug = s.sec.debug ∧ n.mem = s.mem ∧ n.pins.tapInstr = 0x41)
      ∧ (alive s = true → s.sec.unlockFails < 8 → b = 2560 → (head ++ rest).length = 320 → tokenOk s (head ++ rest) = true →
        ∃ n, exec (.ikbUnlock b head rest) s = .next n ∧ n.sec.debug = fld (head ++ rest) 0x58 1 ∧ n.mem = s.mem ∧ n.rqt = []
          ∧ n.sec.cdi0 = none ∧ n.sec.dds = none ∧ n.sec.aliasKey = none ∧ n.sec.hbmKeys = List.replicate 17 none ∧ halted n = true ∧ n.pins.tapInstr = 0x41))

/-- The sideband port: ENTDAA gives the address once the boot path has passed, and the port answers its provisioned ID, whose low 32
bits are the part's serial number; with the address, a control message and a sensor
reading are answered, and an interrupt that is due is raised once. -/
def Obligations.SidebandPort : Prop :=
  ∀ s : State,
    (∀ a : BitVec 7, s.pins.pwrgood = true → s.pins.bootPath = some true →
      exec (.entdaa a) s = .next (send { s with pins := { s.pins with i3cAddr := some a } } (.provisionedId (provisionedId s)))
      ∧ (provisionedId s).toNat % 2 ^ 32 = s.fuses.serial.toNat ∧ (provisionedId s).getLsbD 32 = false)
    ∧ (mboxLive s .i3c = true →
      (∀ c : BitVec 8, exec (.mctpControl c) s = .next (send s (.mctp [0, c, 0])))
      ∧ (∀ x : PldmSensor, exec (.pldmRequest x) s = .next (send s (.mctp (1 :: toLE 8 (pldmReading s x)))))
      ∧ (∀ c : IbiCause, let k := match c with
            | .stop => 1
            | .halt => 2
            | .faultRecord => 3
          (k ∈ s.pins.ibiDue →
            exec (.inBandInterrupt c) s = .next (send { s with pins := { s.pins with ibiDue := s.pins.ibiDue.erase k } } (.ibi (BitVec.ofNat 8 k))))
          ∧ (k ∉ s.pins.ibiDue → exec (.inBandInterrupt c) s = .next s)))

/-- Restarts of cores in the last 64 furrows. -/
def restartsSince (s : State) : Nat := (s.faults.restarts.filter (fun r => decide (curFurrow s < r.2 + 64))).length

/-- Errors found by the hardware: a parity error counts one in PARITY_ERR, but of a die-to-die link, whose retry counts in its own
counter and whose loss resets the die. One in an array's own storage, a beat, a fetch engine's slots or an item's counters stops the
work item; one of a repair map resets the array; a line of a mere's cache is dropped; what can be restored leaves the work as it was;
a request table entry that cannot be (nor one whose shadow is poisoned), the role table, the tick unit, the device's keys and the
firmware copy halt the device; a tenant's key is cleared and its domain reset. A scrub read counts one, counts what it corrects and poisons a line that cannot be
corrected; neither changes a byte of HBM; stacks in self-refresh are not read; and a line beyond the HBM's capacity is reserved. A watchdog
or a parity error of a core or its SRAM restarts the core, with CC_RESTARTS counting one, and a third restart within 64 furrows halts the
device. Pseudo-channels: the first that
is retired takes redirect slot 0 and the second slot 1, whose copies begin not done; the channel leaves the geometry table, GEO_GEN
rising by one; a third is not retired, and PC_SPARES_OUT is set. A copy that completes sets its slot's DONE. -/
def Obligations.ErrorsDetected : Prop :=
  (
  ∀ s : State, alive s = true →
    (∀ x : ParityStruct, halted s = false → (∀ d, x ≠ .d2dRetry d) → (∀ d, x ≠ .d2dLost d) →
      ∃ n, exec (.parityError x) s = .next n ∧ rises (fltReg 0x068) 1 s n)
    ∧ (∀ (a : ArrId) (w : ItemRun), halted s = false → itemOn s a = some w → itemOf s w.id = some w → w.done = false → w.halted = 0 →
        arrEnabled s a.val = true → (arr s a).care.testing = false →
        ∀ x ∈ ([.arrayStore a, .spad a, .vectorRegs a] : List ParityStruct),
          ∃ n, exec (.parityError x) s = .next n ∧ (itemOf n w.id).map (·.halted) = some 2 ∧ n.mem = s.mem)
    ∧ (∀ (id : Nat) (w : ItemRun), halted s = false → itemOf s id = some w → w.done = false → w.halted = 0 →
        (∃ n, exec (.parityError (.beat id)) s = .next n ∧ (itemOf n id).map (·.halted) = some 2 ∧ n.mem = s.mem)
        ∧ (w.id = id → (∀ a ∈ gangArrays w, itemOn s a = some w ∧ arrEnabled s a.val = true ∧ (arr s a).care.testing = false) →
          ∃ n, exec (.parityError (.itemCounters id)) s = .next n ∧ (itemOf n id).map (·.halted) = some 2 ∧ n.mem = s.mem))
    ∧ (∀ (f : FeId) (k : Fin 64) (d : DescRun) (w : ItemRun), halted s = false → slotDesc s f k = some d → itemOf s d.item = some w →
        w.done = false → w.halted = 0 →
        ∃ n, exec (.parityError (.feSlots f)) s = .next n ∧ (itemOf n d.item).map (·.halted) = some 2 ∧ n.mem = s.mem)
    ∧ (∀ a : ArrId, halted s = false → arrEnabled s a.val = true → (arr s a).care.testing = false →
        ∃ n, exec (.parityError (.repairMap a)) s = .next n ∧ (arr n a).st = .fallow ∧ (arr n a).item = none ∧ n.mem = s.mem)
    ∧ (halted s = false → ∀ x : ParityStruct,
        ((∃ i : Fin 4096, x = .rqtEntry i true ∧ poisoned s (reserveLine s 3 i.val) 256 = false) ∨ ∃ f, x = .feTranslation f) →
        ∃ n, exec (.parityError x) s = .next n ∧ halted n = false ∧ n.items = s.items ∧ n.rqt = s.rqt ∧ n.mem = s.mem)
    ∧ (halted s = false → ∀ x : ParityStruct, (x = .roleTable ∨ x = .tickUnit ∨ x = .deviceKey ∨ x = .firmwareCopy) →
        ∃ n, exec (.parityError x) s = .next n ∧ halted n = true)
    ∧ (∀ t : LdId, halted s = false → ∃ n, exec (.parityError (.tenantKey t)) s = .next n ∧ (ten n t).material = none
        ∧ (ten n t).resetting = true)
    ∧ (∀ (c : Fin 4) (x : ParityStruct), halted s = false → x = .core c ∨ x = .controlSram c → restartsSince s < 2 →
        poisoned s (reserveLine s 8 0) 256 = false →
        ∃ n, exec (.parityError x) s = .next n ∧ rises (fltReg 0x070) 1 s n ∧ halted n = false)
    ∧ (∀ die : Fin 4, halted s = false →
        (∃ n, exec (.parityError (.d2dRetry die)) s = .next n ∧ rises (fltReg 0x078) 1 s n ∧ n.items = s.items ∧ n.mem = s.mem)
        ∧ exec (.parityError (.d2dLost die)) s = exec (.fenDieReset die) s)
    ∧ (∀ (die : Fin 4) (line : Nat), halted s = false → ∃ n, exec (.parityError (.mereCache die line)) s = .next n ∧ n.mem = s.mem
        ∧ (n.mere[die]).lines = (s.mere[die]).lines.filter (fun l => l.line != line))
    ∧ (∀ (i : Fin 4096) (ok : Bool), halted s = false → (ok = false ∨ poisoned s (reserveLine s 3 i.val) 256 = true) →
        ∃ n, exec (.parityError (.rqtEntry i ok)) s = .next n ∧ halted n = true)
    ∧ (∀ (line : Nat) (e : EccResult), regField s (fltReg 0) 0 0 = 1 → s.power.asleep = false →
        s.faults.dieDown.contains (dpaPc (line * 256) / 160) = false → line * 256 < hbmCap s →
        ∃ n, exec (.scrubRead line e) s = .next n ∧ n.mem = s.mem ∧ rises (fltReg 0x060) 1 s n
          ∧ (e = .clean → s.faults.injected = [] → n = regBump s (fltReg 0x060) 1)
          ∧ (∀ k, e = .corrected k → s.faults.injected = [] → rises (fltReg 0x050) k s n ∧ n.poison = s.poison)
          ∧ (e = .uncorrectable → n.poison.contains line = true))
    ∧ (∀ (line : Nat) (e : EccResult), regField s (fltReg 0) 0 0 = 1 → (s.power.asleep = true
          ∨ s.faults.dieDown.contains (dpaPc (line * 256) / 160) = true) → exec (.scrubRead line e) s = .next s)
    ∧ (∀ (line : Nat) (e : EccResult), regField s (fltReg 0) 0 0 = 1 → s.power.asleep = false →
        s.faults.dieDown.contains (dpaPc (line * 256) / 160) = false → hbmCap s ≤ line * 256 → halted s = false →
        ∃ n, exec (.scrubRead line e) s = .next n ∧ halted n = true)
    ∧ (∀ c : Fin 4, halted s = false → restartsSince s < 2 → poisoned s (reserveLine s 8 0) 256 = false →
        ∃ n, exec (.watchdog c) s = .next n ∧ rises (fltReg 0x070) 1 s n ∧ regField n (fltReg 0x008) 2 2 = 1 ∧ n.mem = s.mem)
    ∧ (∀ c : Fin 4, halted s = false → 2 ≤ restartsSince s →
        ∃ n, exec (.watchdog c) s = .next n ∧ halted n = true))
  ∧ (
  ∀ (s : State),
    let o := fltReg 0x018
    (∀ pc : Fin 640, alive s = true → pcEnabled s pc.val = true →
      (regField s o 15 15 = 0 → ∃ n, exec (.pcRetire pc) s = .next n ∧ regField n o 15 15 = 1 ∧ regField n o 14 14 = 0
        ∧ regField n o 9 0 = pc.val ∧ pcEnabled n pc.val = false ∧ rises (glbReg 0x100) 1 s n)
      ∧ (regField s o 15 15 = 1 → regField s o 31 31 = 0 → ∃ n, exec (.pcRetire pc) s = .next n ∧ regField n o 31 31 = 1
        ∧ regField n o 25 16 = pc.val ∧ pcEnabled n pc.val = false ∧ rises (glbReg 0x100) 1 s n)
      ∧ (regField s o 15 15 = 1 → regField s o 31 31 = 1 → exec (.pcRetire pc) s = .next (regFlag s (fltReg 0x008) 3)))
    ∧ (∀ k : Fin 2, regField s o (16 * k.val + 15) (16 * k.val + 15) = 1 →
        ∃ n, exec (.redirectCopyDone k) s = .next n ∧ regField n o (16 * k.val + 14) (16 * k.val + 14) = 1 ∧ n.mem = s.mem
          ∧ (∀ x ∈ n.faults.copyFrom, x.1 ≠ k.val)
          ∧ (s.faults.injected = [] → n = regFlag
              { s with faults := { s.faults with copyFrom := s.faults.copyFrom.filter (fun x => x.1 != k.val) } } o (16 * k.val + 14))))

/-- Resets smaller than the device's: an array that is reset is fallow and its test runs, and a pass lets it join the sowing
again; a fen die's reset empties its engines' lists and its cache and takes its stacks to self-refresh until they leave it;
a halt sets HALTED and stays until the device is reset. Tests in service: GO for an enabled array that is not fallow names
it, the test beginning at a headland; a GO while a test is waiting, or for a fallow array, only sets CMD_ERR. A test that
passes ends the run and keeps its array for the headland, and one that fails retires it. An attempt that a droop or a brownout warning
disturbed is run again, three times at most, and retires the array after that (the model's choice, notes/assumptions/92.md). -/
def Obligations.ArraysAndDiesReset : Prop :=
  (
  ∀ s : State, alive s = true →
    (∀ (a : ArrId) (own : Bool), arrEnabled s a.val = true → (arr s a).care.testing = false →
      ∃ n, exec (.arrayReset a own) s = .next n ∧ (arr n a).st = .fallow ∧ (arr n a).ve = .fallow ∧ (arr n a).item = none ∧ n.mem = s.mem)
    ∧ (∀ (a : ArrId) (pass : Bool), (arr s a).care.testing = true → (arr s a).care.resetAt.isSome = true →
      (arr s a).care.disturbed = true →
      ((arr s a).care.reruns < 3 → exec (.arrayTestDone a pass) s = .next (setArr s a { arr s a with
          care := { (arr s a).care with disturbed := false, reruns := (arr s a).care.reruns + 1 } }))
      ∧ (3 ≤ (arr s a).care.reruns → arrEnabled s a.val = true → ∃ n, exec (.arrayTestDone a pass) s = .next n
          ∧ arrEnabled n a.val = false ∧ (arr n a).care.retired = true))
    ∧ (∀ a : ArrId, (arr s a).care.testing = true → (arr s a).care.resetAt.isSome = true → (arr s a).care.disturbed = false →
      (∃ n, exec (.arrayTestDone a true) s = .next n ∧ (arr n a).care = { (arr s a).care with testing := false } ∧ arrsBut a s n)
      ∧ (arrEnabled s a.val = true → ∃ n, exec (.arrayTestDone a false) s = .next n ∧ arrEnabled n a.val = false
          ∧ (arr n a).care.retired = true ∧ rises (glbReg 0x100) 1 s n))
    ∧ (∀ die : Fin 4, die ≠ 0 → halted s = false → s.faults.dieReset = [] →
      ∃ n, exec (.fenDieReset die) s = .next n ∧ n.faults.dieDown.contains die.val = true ∧ (n.mere[die]).lines = []
        ∧ (∀ k : Fin 8, (fe n (feId (8 * die.val + k.val))).slots = []) ∧ n.mem = s.mem)
    ∧ (∀ die : Fin 4, exec (.stacksLeaveSelfRefresh die) s
        = .next { s with faults := { s.faults with dieDown := s.faults.dieDown.filter (· != die.val) } })
    ∧ (∀ (src : BitVec 8) (code : BitVec 16),
      (halted s = false → ∃ n, exec (.deviceHalt src code) s = .next n ∧ halted n = true ∧ n.mem = s.mem)
      ∧ (halted s = true → exec (.deviceHalt src code) s = .next s)))
  ∧ (
  ∀ (v : Reg64) (s : State), alive s = true →
    let a := bits v.toNat 63 58
    (bitAt v.toNat 0 = true → s.bist.unit = none → regField s (bistReg 0) 1 1 = 0 → arrEnabled s a = true → (arr s (arrId a)).st ≠ .fallow →
      ∃ n, exec (.go v) s = .next n ∧ n.bist.unit = some a ∧ n.bist.started = false ∧ n.arrays = s.arrays)
    ∧ (bitAt v.toNat 0 = true → (s.bist.unit.isSome = true ∨ regField s (bistReg 0) 1 1 = 1 ∨ arrEnabled s a = false
        ∨ (arr s (arrId a)).st = .fallow) →
      exec (.go v) s = .next (regFlag s (bistReg 0) 5))
    ∧ (bitAt v.toNat 0 = false → exec (.go v) s = .next (regSet s (bistReg 0x008)
        (accessWrite (regAccess (bistReg 0x008)) (regGet s (bistReg 0x008)) v.toNat)))
    ∧ (∀ (res : ArrayTest) (k : Nat), s.bist.unit = some k → stopped s = false → s.bist.started = true →
      inRange s.power.wop = true → regField s (bistReg 0) 3 3 = 0 →
      ((arr s (arrId k)).care.disturbed = true → (arr s (arrId k)).care.reruns < 3 → exec (.bistTestDone res) s
        = .next (setArr s (arrId k) { arr s (arrId k) with
            care := { (arr s (arrId k)).care with disturbed := false, reruns := (arr s (arrId k)).care.reruns + 1 } }))
      ∧ (res.pass = true → (arr s (arrId k)).care.disturbed = false →
        ∃ n, exec (.bistTestDone res) s = .next n ∧ k ∈ n.bist.back ∧ n.bist.unit = none
          ∧ n.arrays = s.arrays ∧ ∀ row, res.faultRow = some row → k < 64 → regGet n (arrReg k 0x008) = 0x100 + row.val)
      ∧ ((res.pass = false ∧ (arr s (arrId k)).care.disturbed = false)
            ∨ ((arr s (arrId k)).care.disturbed = true ∧ 3 ≤ (arr s (arrId k)).care.reruns) →
        ∃ n, exec (.bistTestDone res) s = .next n ∧ n.bist.unit = none ∧ (arr n (arrId k)).care.retired = true
          ∧ arrsBut (arrId k) s n)))

/-- Power samples and the cap loop: a sample keeps each rail's reading, or counts its miss, and gives the package power of its rails,
whose average over the last ten PWR_PKG shows; a rail that has missed ten sets TELEM_LOST. An interval above the cap lowers the
loop's limit by one down to 1, and one below 97 % for 1 ms raises it by one up to 8, the withheld clocks counting; the energy of an
interval is shared by the activity that the block has counted and that the command adds (notes/assumptions/99.md), and what remains goes
to the device's account; the operating point's raise sets the regulator before its tick; and a trim moves VDD_ARR by one step, where none
was within 100 µs and no test runs. -/
def Obligations.PowerLoops : Prop :=
  ∀ s : State, alive s = true →
    (∀ xs : List RailSample,
      let v := rails.foldl (sampleRail xs) s
      let samples := (sumN (rails.map (railMw v)) :: s.power.samples).take 10
      ∃ n, exec (.telemetrySample xs) s = .next n ∧ n.power.samples = samples ∧ n.power.capLim = s.power.capLim ∧ n.mem = s.mem
        ∧ regField n (pwrReg 0x028) 15 0 = sumN samples / (1000 * samples.length) % 65536
        ∧ (rails.any (fun r => decide (10 ≤ railGet 0 r v.power.misses)) = true → regField n (pwrReg 0x010) 5 5 = 1)
        ∧ ∀ r p, (xs.find? (fun x => x.rail == r)).bind (·.value) = some p →
            railGet (0, 0) r n.power.lastRail = p ∧ railGet 0 r n.power.misses = 0)
    ∧ (∀ k : Nat, ∃ n, exec (.capLoop k) s = .next n ∧ rises (pwrReg 0x040) k s n
      ∧ (aboveCap s 100 = true → n.power.capLim = Nat.max 1 (s.power.capLim - 1))
      ∧ (aboveCap s 100 = false → aboveCap s 97 = true → n.power.capLim = s.power.capLim)
      ∧ (aboveCap s 97 = false → aboveCap s 100 = false → s.power.capCalm + 1 < 10 → n.power.capLim = s.power.capLim)
      ∧ (aboveCap s 97 = false → aboveCap s 100 = false → 10 ≤ s.power.capCalm + 1 → n.power.capLim = Nat.min 8 (s.power.capLim + 1)))
    ∧ (∀ act : Activity,
      let sum (rs : List Rail) := sumN (rs.map (railNj s))
      let total := sum rails + s.power.carry
      let m := (meterItems s).power.meter
      let v := { meterItems s with power := { (meterItems s).power with meter := {}, meterAt := rqtNow s } }
      let x := shareEnergy (sum [.ser, .serh]) (m.serBytes ++ act.serBytes)
        (shareEnergy (sum [.fen, .d2d, .hbm, .hbmq, .vpp]) (m.memBytes ++ act.memBytes)
          (shareEnergy (sum [.arr]) (m.arrClks ++ act.arrClks) (v, 0)))
      ∃ n, exec (.energyInterval act) s = .next n ∧ n.rqt = x.1.rqt ∧ n.mem = s.mem
        ∧ (∀ t : LdId, regGet n (pwrReg (0x200 + 8 * t.val)) = regGet x.1 (pwrReg (0x200 + 8 * t.val)))
        ∧ rises (pwrReg 0x078) (total / 1000) s n ∧ rises (pwrReg 0x070) (total / 1000 - x.2) s n
        ∧ n.power.carry = total % 1000 ∧ n.power.meter = {} ∧ n.power.meterAt = rqtNow s
        ∧ (m = {} → act = { arrClks := [], memBytes := [], serBytes := [] } → x = (v, 0)))
    ∧ (∀ t, s.power.imm = none → s.power.raised = false → s.power.raiseTo = some t → t < s.power.op → stopped s = false →
      exec .opRaisePrepare s = .next (setVddOp s t) ∧ (setVddOp s t).power.vddSet = trimmed s t)
    ∧ (∀ x, s.power.imm = some x → x.op < s.power.op → stopped s = false →
      exec .opRaisePrepare s = .next (setVddOp s x.op))
    ∧ (∀ lower : Bool, stopped s = false → regField s (pwrReg 0x008) 4 4 = 1 → s.power.droop = false →
      (∀ d, s.power.droopAt = some d → d + 200 ≤ rqtNow s) → (∀ d, s.power.trimAt = some d → d + 10000 ≤ rqtNow s) → anyTest s = false →
      let t := s.power.trim
      ∃ n, exec (.avsTrim lower) s = .next n
        ∧ n.power.trim = (if lower then (if t + 5 ≤ 30 ∧ 660 + t + 5 ≤ voltOf s s.power.vddOp then t + 5 else t) else t - 5)
        ∧ (n.power.trim ≠ t → n.power.vddSet = trimmed n n.power.vddOp) ∧ (n.power.trim = t → n = s)
        ∧ n = { s with power := n.power, out := n.out })

/-- Limits: the current limit halves every array's sluice limit down to 1 and counts, and each calm interval raises it by
one up to 8; a droop sets its flag, disturbs the tests that run, and its end adds the stretched periods; a brown-out warning takes the limit to 1 and
counts, and clearing it returns to 8; a supply that fails, low flow with firmware running and a trip stop the device; and a
reading of cool sensors stops nothing. -/
def Obligations.PowerLimits : Prop :=
  ∀ s : State, alive s = true →
    (∃ n, exec .currentLimit s = .next n ∧ n.power.curLim = Nat.max 1 (s.power.curLim / 2) ∧ rises (pwrReg 0x048) 1 s n)
    ∧ exec .currentLimitRise s = .next { s with power := { s.power with curLim := Nat.min 8 (s.power.curLim + 1) } }
    ∧ (∃ n, exec .droopDetect s = .next n ∧ n.power.droop = true ∧ regField n (pwrReg 0x010) 1 1 = 1
        ∧ ∀ a, (arr s a).care.testing = true → (arr n a).care.disturbed = true)
    ∧ (∀ k, s.power.droop = true → ∃ n, exec (.droopEnd k) s = .next n ∧ n.power.droop = false
        ∧ regField n (pwrReg 0x010) 1 1 = 0 ∧ rises (pwrReg 0x038) k s n)
    ∧ (s.power.brownout = false → ∃ n, exec .brownoutWarn s = .next n ∧ n.power.broLim = 1
        ∧ n.power.brownout = true ∧ regField n (pwrReg 0x010) 2 2 = 1 ∧ rises (pwrReg 0x050) 1 s n)
    ∧ (s.power.brownout = true → ∃ n, exec .brownoutClear s = .next n ∧ n.power.broLim = 8 ∧ n.power.brownout = false
        ∧ regField n (pwrReg 0x010) 2 2 = 0)
    ∧ (∃ n, exec .supplyReset s = .next n ∧ stopped n = true ∧ n.mem = s.mem)
    ∧ (s.fw.running = true → s.pins.flowFailN = true → ∃ n, exec (.flowFail true) s = .next n ∧ stopped n = true ∧ n.pins.flowFailN = false)
    ∧ (∃ n, exec (.flowFail false) s = .next n ∧ n = { s with pins := { s.pins with flowFailN := true } })
    ∧ (∀ t : Temps, ∃ n, exec (.sensorRead t) s = .next n ∧ n.mem = s.mem ∧ n.temps = (storeTemps s t).temps
        ∧ ((∀ x ∈ dieTemps (storeTemps s t), x < 115) → (∀ x ∈ stackTemps (storeTemps s t), x < 105) → stopped n = stopped s))

/-- Power and reset: PWRGOOD's rise runs the boot path; its fall, and PERST_N, reset the device, of which the fuses remain,
less what a commit cut short left open; PERST_N's release samples the straps, and the link's partner decides the mode and whether
CXL.mem is enabled. -/
def Obligations.PowerAndReset : Prop :=
  ∀ s : State,
    (∀ b : BootPath, s.pins.pwrgood = false → exec (.pwrgoodRise b) s
        = .next { s with pins := { s.pins with pwrgood := true, bootPath := some (b.sramOk && b.d2dOk) } })
    ∧ (s.pins.pwrgood = true → s.sec.committing = false →
      ∃ n, exec .pwrgoodFall s = .next n ∧ n.pins.pwrgood = false ∧ n.mem = [] ∧ n.rqt = [] ∧ n.fuses = s.fuses ∧ n.fw = {})
    ∧ (s.pins.pwrgood = true → s.pins.perstN = true → s.sec.committing = false →
      ∃ n, exec .perstAssert s = .next n ∧ n.pins.perstN = false ∧ n.mem = [] ∧ n.rqt = [] ∧ n.fuses = s.fuses ∧ n.fw = {})
    ∧ (s.pins.pwrgood = true → s.sec.committing = true →
      (∃ n, exec .pwrgoodFall s = .next n ∧ n.fuses = (cutCommit s).fuses ∧ n.mem = [])
      ∧ (s.pins.perstN = true → ∃ n, exec .perstAssert s = .next n ∧ n.fuses = (cutCommit (byeAll s)).fuses ∧ n.mem = []))
    ∧ (s.pins.pwrgood = false → s.pins.perstN = true → exec .perstAssert s = .next { s with pins := { s.pins with perstN := false } })
    ∧ (∀ (mld : Bool) (p : LinkPartner) (r : BitVec 2) (b : BootPath), s.pins.perstN = false → s.pins.pwrgood = true →
      ∃ n, exec (.perstDeassert mld r p b) s = .next n ∧ n.pins.perstN = true ∧ (n.pins.mld = true ↔ mld = true ∧ p = .mldSwitch)
        ∧ (n.pins.memEn = true ↔ p ≠ .rcd)
        ∧ regGet n (bistReg 0x018) = b2n mld + 2 * r.toNat ∧ (r ≠ 0 → regField n (bistReg 0) 2 2 = 1))

/-- The boot ROM and the power-up BIST: the ROM starts once, out of reset, derives the layer-0 secrets from UDS, draws its values and begins the BIST; the BIST's
end shows DONE and no RUN, and FATAL where a finding is fatal; an Activate FW that waits
for it starts its image where nothing is FATAL; a stop before firmware ends by itself; and waiting for
coolant ends. -/
def Obligations.BootRuns : Prop :=
  ∀ s : State, alive s = true →
    (s.pins.bootPath = some true → s.fw.rom = false → s.fw.running = false → s.fw.dead = false → s.pins.thermtripLow = false →
      s.fuses.fuseOk = true →
      ∃ n, exec .bootRomStart s = .next n ∧ n.fw.rom = true ∧ n.pins.hostLink = true ∧ n.sec.udsLocked = true
        ∧ (s.sec.udsLocked = false → n.sec.dds = some (hmac384 s.fuses.uds lblData) ∧ n.sec.cdi0.isSome = true
            ∧ n.sec.devicePub = publicKey (privateKey (n.sec.cdi0.getD []) lblDeviceId))
        ∧ regField n (bistReg 0) 1 1 = 1 ∧ regField n (bistReg 0) 15 12 = 2 ∧ rises (bistReg 0x030) 1 s n)
    ∧ (s.fuses.fuseOk = false → s.pins.bootPath = some true → s.fw.rom = false → s.fw.running = false → s.fw.dead = false →
      s.pins.thermtripLow = false → ∃ n, exec .bootRomStart s = .next n ∧ n.fw.dead = true ∧ n.fw.rom = false)
    ∧ (∀ fs : List BistFinding, stopped s = false → regField s (bistReg 0) 15 12 = 2 → regField s (bistReg 0) 3 3 = 0 → s.fw.waiting = false →
      ∃ n, exec (.powerUpBistDone fs) s = .next n ∧ regField n (bistReg 0) 0 0 = 1 ∧ regField n (bistReg 0) 1 1 = 0
        ∧ ((∃ f ∈ fs, findingOutcome fs f = 2) → regField n (bistReg 0) 2 2 = 1))
    ∧ (∀ fs : List BistFinding, stopped s = false → regField s (bistReg 0) 15 12 = 2 → regField s (bistReg 0) 3 3 = 0 → s.fw.waiting = true →
      regField s (bistReg 0) 2 2 = 0 → (∀ f ∈ fs, findingOutcome fs f ≠ 2) → s.fw.verified ≠ none →
      ∃ n, exec (.powerUpBistDone fs) s = .next n ∧ n.fw.running = true ∧ n.fw.waiting = false ∧ regField n (bistReg 0) 0 0 = 1
        ∧ (mboxOf n .owner).bg = none ∧ (mboxOf n .owner).bgRet = 0)
    ∧ (s.fw.running = false → stopped s = true → mayRestart s = true →
      ∃ n, exec .bistSelfRestart s = .next n ∧ stopped n = false)
    ∧ (s.pins.flowFailN = true → regField s (bistReg 0) 3 3 = 1 → exec .flowWaitEnd s = .next (regPut s (bistReg 0) 3 3 0))

/-- The tick begins the furrow that comes and clears the headland's flags; at the window's end the headland performs its
actions once; during a furrow that is not the last one a headland changes nothing, and without a reference neither does.
References: a FURROW_SYNC pulse leaves its offset in FUR_PULSE for a follower that is ticking,
which, while it is not aligned, is lengthened to the next pulse, and is aligned by the third in a row within one period; a TICK_REF that is lost, with
the PCIe reference there, shows holdover; a reference lost after the other halts the device. -/
def Obligations.FurrowsAndReferences : Prop :=
  (
  ∀ (ws : Nat) (s : State),
    (ticking s = true → ∃ n, exec (.tick ws) s = .next n ∧ n.tick.started = true ∧ n.tick.headDone = false
        ∧ n.tick.inWindow = (if headlandDue s then 0 else s.tick.inWindow + 1)
        ∧ (s.tick.numSet = none → s.tick.syncMode ≠ 3 → s.tick.nextNum = none → s.tick.nextWin = none →
            n.tick.furrow = (if s.tick.started then s.tick.furrow + 1 else 0)
            ∧ n.tick.window = (if headlandDue s then (if s.tick.started then s.tick.window + 1 else 0) else s.tick.window)))
    ∧ (ticking s = false → exec (.tick ws) s = .next s ∧ exec (.headland ws) s = .next s)
    ∧ (ticking s = true → headlandDue s = true → s.tick.headDone = false →
        ∃ n, exec (.headland ws) s = .next n ∧ n = { endFurrow s ws with tick := { (endFurrow s ws).tick with headDone := true } })
    ∧ ((headlandDue s = false ∨ s.tick.headDone = true) → exec (.headland ws) s = .next s))
  ∧ (
  ∀ s : State,
    (∀ (x : Int) (wide : Bool), ticking s = true → s.tick.started = true → s.tick.tickRef = true → s.tick.syncMode = 2 →
      ∃ n, exec (.furrowSyncPulse x wide) s = .next n ∧ regGet n (furReg 0x020) = (BitVec.ofInt 16 x).toNat ∧ n.mem = s.mem
        ∧ n.tick.furrow = s.tick.furrow ∧ n.rqt = s.rqt
        ∧ n.tick.lengthen = (if regField s (furReg 0x018) 0 0 = 1 then s.tick.lengthen else ((-x) % (furrowPeriods s : Int)).toNat)
        ∧ ((x < -1 ∨ 1 < x) → n.tick.goodTicks = 0
            ∧ n.tick.inWindow = (if wide ∧ regField s (furReg 0x018) 0 0 = 0 then 0 else s.tick.inWindow))
        ∧ (-1 ≤ x → x ≤ 0 → s.tick.goodTicks = 2 → s.tick.goodAt + 1 = s.tick.furrow → s.tick.headPulse = true →
            regField n (furReg 0x018) 0 0 = 1))
    ∧ (alive s = true → s.tick.tickRef = true → s.tick.pcieRef = true →
      (∃ n, exec (.tickRefLost true) s = .next n ∧ n.tick.tickRef = false ∧ regField n (furReg 0x018) 1 1 = 1 ∧ halted n = halted s)
      ∧ exec .pcieRefLost s = .next { s with tick := { s.tick with pcieRef := false }, pins := { s.pins with hostLink := false } })
    ∧ (alive s = true → s.tick.tickRef = true → s.tick.pcieRef = false → ∃ n, exec (.tickRefLost true) s = .next n ∧ halted n = true)
    ∧ (alive s = true → s.tick.tickRef = false → s.tick.pcieRef = true → ∃ n, exec .pcieRefLost s = .next n ∧ halted n = true)
    ∧ (alive s = true → s.tick.tickRef = true → exec (.tickRefLost false) s = .next s)
    ∧ (alive s = true → s.tick.tickRef = false →
      exec (.tickRefLost true) s = .next { s with tick := { s.tick with refBackMs := 0 } })
    ∧ (alive s = true → s.tick.tickRef = false →
      exec (.tickRefLost false) s = .next { s with tick := { s.tick with refBackMs := 1 } })
)
end

