-- ==== Sys2Proof/Laws/Sparse.lean ====
section
/-! SUPPORT. The canonical forms of the sparse lists (Machine/Bits.lean, Machine/Regs.lean, Safety.lean): every operation on
one keeps its form, and a byte written is the byte read back. -/

namespace Sys2Proof.Machine

/-! ### Ascending keys -/

theorem keysRise_tail {α : Type} {p : Nat × α} {r : List (Nat × α)} (h : keysRise (p :: r) = true) : keysRise r = true := by
  cases r with
  | nil => rfl
  | cons q r => simp [keysRise] at h; exact h.2

/-- The first key lies below every other. -/
theorem keysRise_head {α : Type} {p : Nat × α} {r : List (Nat × α)} (h : keysRise (p :: r) = true) :
    ∀ q ∈ r, p.1 < q.1 := by
  induction r generalizing p with
  | nil => simp
  | cons q r ih =>
    simp [keysRise] at h
    intro x hx
    rcases List.mem_cons.1 hx with rfl | hx
    · exact h.1
    · exact Nat.lt_trans h.1 (ih h.2 x hx)

theorem keysRise_cons {α : Type} {p : Nat × α} {r : List (Nat × α)} (h : ∀ q ∈ r, p.1 < q.1) (hr : keysRise r = true) :
    keysRise (p :: r) = true := by
  cases r with
  | nil => rfl
  | cons q r => simp [keysRise, hr, h q]

theorem eraseN_mem {α : Type} {k : Nat} {m : List (Nat × α)} {q : Nat × α} (h : q ∈ eraseN k m) : q ∈ m := by
  induction m with
  | nil => exact h
  | cons p r ih =>
    unfold eraseN at h
    split at h
    · exact List.mem_cons_of_mem _ (ih h)
    · rcases List.mem_cons.1 h with rfl | h
      · exact List.mem_cons_self
      · exact List.mem_cons_of_mem _ (ih h)

theorem insertN_mem {α : Type} {k : Nat} {v : α} {m : List (Nat × α)} {q : Nat × α} (h : q ∈ insertN k v m) :
    q = (k, v) ∨ q ∈ m := by
  induction m with
  | nil => simpa [insertN] using h
  | cons p r ih =>
    unfold insertN at h
    split at h
    · rcases List.mem_cons.1 h with h | h
      · exact .inl h
      · exact .inr h
    · split at h
      · rcases List.mem_cons.1 h with h | h
        · exact .inl h
        · exact .inr (List.mem_cons_of_mem _ h)
      · rcases List.mem_cons.1 h with h | h
        · exact .inr (by simp [h])
        · rcases ih h with h | h
          · exact .inl h
          · exact .inr (List.mem_cons_of_mem _ h)

theorem keysRise_erase {α : Type} (k : Nat) (m : List (Nat × α)) (h : keysRise m = true) : keysRise (eraseN k m) = true := by
  induction m with
  | nil => rfl
  | cons p r ih =>
    unfold eraseN
    split
    · exact ih (keysRise_tail h)
    · exact keysRise_cons (fun q hq => keysRise_head h q (eraseN_mem hq)) (ih (keysRise_tail h))

theorem keysRise_insert {α : Type} (k : Nat) (v : α) (m : List (Nat × α)) (h : keysRise m = true) :
    keysRise (insertN k v m) = true := by
  induction m with
  | nil => rfl
  | cons p r ih =>
    unfold insertN
    split
    · refine keysRise_cons (fun q hq => ?_) h
      rcases List.mem_cons.1 hq with rfl | hq
      · assumption
      · exact Nat.lt_trans (by assumption) (keysRise_head h q hq)
    · split
      · subst k
        exact keysRise_cons (fun q hq => keysRise_head h q hq) (keysRise_tail h)
      · refine keysRise_cons (fun q hq => ?_) (ih (keysRise_tail h))
        rcases insertN_mem hq with rfl | hq
        · show _ < k
          omega
        · exact keysRise_head h q hq

theorem keysRise_map {α : Type} (f : Nat × α → Nat × α) (hf : ∀ p, (f p).1 = p.1) (m : List (Nat × α))
    (h : keysRise m = true) : keysRise (m.map f) = true := by
  induction m with
  | nil => rfl
  | cons p r ih =>
    refine keysRise_cons (fun q hq => ?_) (ih (keysRise_tail h))
    obtain ⟨x, hx, rfl⟩ := List.mem_map.1 hq
    rw [hf, hf]
    exact keysRise_head h x hx

/-! ### The register file: ascending, and no entry at its reset value -/

theorem regsWf_iff (m : List (Nat × Reg64)) :
    regsWf m = true ↔ keysRise m = true ∧ ∀ p ∈ m, p.2 ≠ reg (regReset p.1) := by
  induction m with
  | nil => simp [regsWf, keysRise]
  | cons p r ih =>
    cases r with
    | nil => obtain ⟨o, v⟩ := p; simp [regsWf, keysRise]
    | cons q r =>
      obtain ⟨o, v⟩ := p
      obtain ⟨o', v'⟩ := q
      simp only [regsWf, keysRise, Bool.and_eq_true, ih, decide_eq_true_eq, bne_iff_ne, List.mem_cons, forall_eq_or_imp]
      tauto

theorem regsWf_erase (k : Nat) (m : List (Nat × Reg64)) (h : regsWf m = true) : regsWf (eraseN k m) = true :=
  (regsWf_iff _).2 ⟨keysRise_erase _ _ ((regsWf_iff _).1 h).1, fun p hp => ((regsWf_iff _).1 h).2 p (eraseN_mem hp)⟩

theorem regsWf_insert (k : Nat) (v : Reg64) (m : List (Nat × Reg64)) (hv : ¬ v = reg (regReset k)) (h : regsWf m = true) :
    regsWf (insertN k v m) = true := by
  refine (regsWf_iff _).2 ⟨keysRise_insert _ _ _ ((regsWf_iff _).1 h).1, fun p hp => ?_⟩
  rcases insertN_mem hp with rfl | hp
  · exact hv
  · exact ((regsWf_iff _).1 h).2 p hp

/-! ### HBM: ascending, and no listed 0 -/

theorem memWf_iff (m : List Host.Cell) : memWf m = true ↔ keysRise m = true ∧ ∀ p ∈ m, p.2 ≠ 0 := by
  induction m with
  | nil => simp [memWf, keysRise]
  | cons p r ih =>
    cases r with
    | nil => obtain ⟨o, v⟩ := p; simp [memWf, keysRise]
    | cons q r =>
      obtain ⟨o, v⟩ := p
      obtain ⟨o', v'⟩ := q
      simp only [memWf, keysRise, Bool.and_eq_true, ih, decide_eq_true_eq, bne_iff_ne, List.mem_cons, forall_eq_or_imp]
      tauto

theorem cellWrite_mem {a : Nat} {b : Byte} {m : List Host.Cell} {q : Host.Cell} (h : q ∈ cellWrite a b m) :
    (q = (a, b) ∧ b ≠ 0) ∨ q ∈ m := by
  induction m with
  | nil =>
    unfold cellWrite at h
    split at h
    · exact .inr h
    · exact .inl ⟨by simpa using h, by assumption⟩
  | cons p r ih =>
    unfold cellWrite at h
    split at h
    · split at h
      · exact .inr h
      · rcases List.mem_cons.1 h with h | h
        · exact .inl ⟨h, by assumption⟩
        · exact .inr h
    · split at h
      · split at h
        · exact .inr (List.mem_cons_of_mem _ h)
        · rcases List.mem_cons.1 h with h | h
          · exact .inl ⟨h, by assumption⟩
          · exact .inr (List.mem_cons_of_mem _ h)
      · rcases List.mem_cons.1 h with h | h
        · exact .inr (by simp [h])
        · rcases ih h with h | h
          · exact .inl h
          · exact .inr (List.mem_cons_of_mem _ h)

theorem keysRise_cellWrite (a : Nat) (b : Byte) (m : List Host.Cell) (h : keysRise m = true) :
    keysRise (cellWrite a b m) = true := by
  induction m with
  | nil => unfold cellWrite; split <;> rfl
  | cons p r ih =>
    unfold cellWrite
    split
    · split
      · exact h
      · refine keysRise_cons (fun q hq => ?_) h
        rcases List.mem_cons.1 hq with rfl | hq
        · assumption
        · exact Nat.lt_trans (by assumption) (keysRise_head h q hq)
    · split
      · split
        · exact keysRise_tail h
        · subst a
          exact keysRise_cons (fun q hq => keysRise_head h q hq) (keysRise_tail h)
      · refine keysRise_cons (fun q hq => ?_) (ih (keysRise_tail h))
        rcases cellWrite_mem hq with ⟨rfl, -⟩ | hq
        · show _ < a
          omega
        · exact keysRise_head h q hq

/-- A byte written keeps the canonical form. -/
theorem memWf_write (a : Nat) (b : Byte) (m : List Host.Cell) (h : memWf m = true) : memWf (cellWrite a b m) = true := by
  refine (memWf_iff _).2 ⟨keysRise_cellWrite _ _ _ ((memWf_iff _).1 h).1, fun p hp => ?_⟩
  rcases cellWrite_mem hp with ⟨rfl, hb⟩ | hp
  · exact hb
  · exact ((memWf_iff _).1 h).2 p hp

/-- Bytes written keep the canonical form. -/
theorem memWf_writes (a : Nat) (bs : List Byte) (m : List Host.Cell) (h : memWf m = true) :
    memWf (cellWrites a bs m) = true := by
  induction bs generalizing a m with
  | nil => exact h
  | cons b bs ih => exact ih _ _ (memWf_write _ _ _ h)

theorem keysRise_filter {α : Type} (f : Nat × α → Bool) (m : List (Nat × α)) (h : keysRise m = true) :
    keysRise (m.filter f) = true := by
  induction m with
  | nil => rfl
  | cons p r ih =>
    rw [List.filter_cons]
    split
    · exact keysRise_cons (fun q hq => keysRise_head h q (List.mem_filter.1 hq).1) (ih (keysRise_tail h))
    · exact ih (keysRise_tail h)

theorem memWf_filter (f : Host.Cell → Bool) (m : List Host.Cell) (h : memWf m = true) : memWf (m.filter f) = true :=
  (memWf_iff _).2 ⟨keysRise_filter _ _ ((memWf_iff _).1 h).1,
    fun p hp => ((memWf_iff _).1 h).2 p (List.mem_filter.1 hp).1⟩

/-! ### What is read back -/

/-- Nothing is listed below the first address. -/
theorem cellRead_below {a : Nat} {m : List Host.Cell} (h : ∀ p ∈ m, a < p.1) : cellRead a m = 0 := by
  cases m with
  | nil => rfl
  | cons p r =>
    obtain ⟨x, c⟩ := p
    have hx : a < x := h (x, c) List.mem_cons_self
    unfold cellRead
    rw [if_neg (by omega), if_pos hx]

/-- A byte written is the byte read, and every other byte reads as before. -/
theorem cellRead_write (a x : Nat) (b : Byte) (m : List Host.Cell) (h : keysRise m = true) :
    cellRead x (cellWrite a b m) = if x = a then b else cellRead x m := by
  induction m with
  | nil =>
    unfold cellWrite
    by_cases hb : b = 0
    · simp [hb, cellRead]
    · rw [if_neg hb]
      unfold cellRead
      by_cases hx : x = a
      · subst hx; simp
      · rw [if_neg (fun e => hx e.symm), if_neg hx]; simp [cellRead]
  | cons p r ih =>
    obtain ⟨y, c⟩ := p
    have hr := ih (keysRise_tail h)
    have hh := keysRise_head h
    have low : ∀ z, z ≤ y → ∀ q ∈ r, z < q.1 := fun z hz q hq => Nat.lt_of_le_of_lt hz (hh q hq)
    unfold cellWrite
    by_cases h1 : a < y
    · rw [if_pos h1]
      by_cases hb : b = 0
      · rw [if_pos hb]
        by_cases hx : x = a
        · rw [if_pos hx, hx, hb]
          simp only [cellRead]
          rw [if_neg (by omega), if_pos h1]
        · rw [if_neg hx]
      · rw [if_neg hb]
        by_cases hx : x = a
        · subst hx; simp [cellRead]
        · rw [if_neg hx]
          conv_lhs => unfold cellRead
          rw [if_neg (fun e => hx e.symm)]
          split
          · simp only [cellRead]
            rw [if_neg (by omega), if_pos (by omega)]
          · rfl
    · rw [if_neg h1]
      by_cases h2 : a = y
      · subst h2
        rw [if_pos rfl]
        by_cases hb : b = 0
        · rw [if_pos hb]
          by_cases hx : x = a
          · subst hx
            rw [if_pos rfl, hb]
            exact cellRead_below (low x (Nat.le_refl _))
          · rw [if_neg hx]
            conv_rhs => unfold cellRead
            rw [if_neg (fun e => hx e.symm)]
            split
            · exact cellRead_below (low x (by omega))
            · rfl
        · rw [if_neg hb]
          by_cases hx : x = a
          · subst hx; simp [cellRead]
          · rw [if_neg hx]
            have hx' : ¬ a = x := fun e => hx e.symm
            simp only [cellRead, if_neg hx']
      · rw [if_neg h2]
        simp only [cellRead]
        by_cases hy : y = x
        · rw [if_pos hy, if_pos hy, if_neg (by omega)]
        · rw [if_neg hy, if_neg hy]
          by_cases hx : x < y
          · rw [if_pos hx, if_pos hx, if_neg (by omega)]
          · rw [if_neg hx, if_neg hx]
            exact hr

/-- What is read of an association list after one key was set. -/
theorem lookupN_insert {α : Type} (k j : Nat) (v : α) (m : List (Nat × α)) (h : keysRise m = true) :
    lookupN j (insertN k v m) = if j = k then some v else lookupN j m := by
  induction m with
  | nil =>
    simp only [insertN, lookupN]
    split <;> split <;> simp_all
  | cons p r ih =>
    obtain ⟨y, c⟩ := p
    have hr := ih (keysRise_tail h)
    have hh := keysRise_head h
    unfold insertN
    by_cases h1 : k < y
    · rw [if_pos h1]
      conv_lhs => unfold lookupN
      by_cases hj : j = k
      · subst hj; simp
      · rw [if_neg (fun e => hj e.symm), if_neg hj]
    · rw [if_neg h1]
      by_cases h2 : k = y
      · subst h2
        rw [if_pos rfl]
        simp only [lookupN]
        by_cases hj : j = k
        · subst hj; simp
        · rw [if_neg (fun e => hj e.symm), if_neg hj, if_neg (fun e => hj e.symm)]
      · rw [if_neg h2]
        simp only [lookupN]
        by_cases hy : y = j
        · rw [if_pos hy, if_pos hy, if_neg (by omega)]
        · rw [if_neg hy, if_neg hy]
          exact hr

/-- What is read of an association list after one key was removed. -/
theorem lookupN_erase {α : Type} (k j : Nat) (m : List (Nat × α)) :
    lookupN j (eraseN k m) = if j = k then none else lookupN j m := by
  induction m with
  | nil => simp [eraseN, lookupN]
  | cons p r ih =>
    obtain ⟨y, c⟩ := p
    unfold eraseN
    by_cases hy : y = k
    · rw [if_pos hy, ih]
      simp only [lookupN]
      by_cases hj : j = k
      · rw [if_pos hj, if_pos hj]
      · rw [if_neg hj, if_neg hj, if_neg (by omega)]
    · rw [if_neg hy]
      simp only [lookupN]
      by_cases hj : y = j
      · rw [if_pos hj, if_pos hj, if_neg (by omega)]
      · rw [if_neg hj, if_neg hj]
        exact ih

theorem regReset_lt (o : Nat) : regReset o < 2 ^ 64 := by
  unfold regReset
  repeat' split
  all_goals omega

/-- A stored register set reads as its value. -/
theorem regGet_set (s : State) (o p v : Nat) (h : regsWf s.regs = true) :
    regGet (regSet s o v) p = if p = o then v % 2 ^ 64 else regGet s p := by
  have hk := ((regsWf_iff _).1 h).1
  have hreg : ∀ n : Nat, (reg n).toNat = n % 2 ^ 64 := fun n => by simp [reg]
  unfold regGet regSet
  simp only
  by_cases hv : reg v = reg (regReset o)
  · rw [if_pos hv, lookupN_erase]
    by_cases hp : p = o
    · subst hp
      rw [if_pos rfl, if_pos rfl]
      have := congrArg BitVec.toNat hv
      rw [hreg, hreg] at this
      have hlt : regReset p < 2 ^ 64 := regReset_lt p
      rw [this, Nat.mod_eq_of_lt hlt]
    · rw [if_neg hp, if_neg hp]
  · rw [if_neg hv, lookupN_insert _ _ _ _ hk]
    by_cases hp : p = o
    · rw [if_pos hp, if_pos hp]
      exact hreg v
    · rw [if_neg hp, if_neg hp]

end Sys2Proof.Machine
end

