-- ==== Sys2Proof/Laws/Keeps.lean ====
section
/-! SUPPORT. `Keeps` (Safety.lean) as a ladder: it is reflexive and transitive, a record update of other fields keeps it, and
the shapes that the meanings are written in (a local definition, a branch, a fold) keep it when their parts do. The lemmas
`<definition>_keeps` of the other files of this folder say it of each definition that changes the state. -/

namespace Sys2Proof.Machine

theorem FusesGrow.refl (f : Fuses) : FusesGrow f f := ⟨rfl, Nat.le_refl _, by simp⟩

theorem FusesGrow.trans {f g h : Fuses} (a : FusesGrow f g) (b : FusesGrow g h) : FusesGrow f h := by
  refine ⟨?_, Nat.le_trans a.svn b.svn, ?_⟩
  · rw [b.same, a.same]
  · have hb := b.revoke
    have ha := a.revoke
    rw [← ha, BitVec.and_assoc, hb]

theorem Keeps.refl (s : State) : Keeps s s := ⟨id, rfl, FusesGrow.refl _⟩

theorem Keeps.trans {s t u : State} (a : Keeps s t) (b : Keeps t u) : Keeps s u :=
  ⟨fun h => b.inv (a.inv h), b.queue.trans a.queue, a.fuses.trans b.fuses⟩

/-- `Keeps` by the fields that it speaks of. -/
structure KeepsF (s0 : State) (f : Fuses) (regs : List (Nat × Reg64)) (mem : List Host.Cell) (tags : List (Nat × Tag))
    (rqt : List (Nat × Entry)) (pending : List Instr) : Prop where
  inv   : Inv s0 → memWf mem = true ∧ regsWf regs = true ∧ keysRise tags = true ∧ keysRise rqt = true ∧ f.arrays ≠ 0
  queue : pending = s0.pending
  fuses : FusesGrow s0.fuses f

/-- A record update is judged by those fields alone. -/
theorem keeps_mk {s0 : State}
    (fuses' : Fuses) (pins' : Pins) (fw' : FwState) (tick' : TickUnit) (regs' : List (Nat × Reg64)) (bar2Last' :
    Option Nat) (bar2Shadow' : BitVec 32) (regData' : Reg64) (mem' : List Host.Cell) (poison' : List Nat) (tags' :
    List (Nat × Tag)) (arrays' : Vector ArrayUnit 64) (fes' : Vector FetchUnit 32) (bars' : Vector (BitVec 16) 256)
    (mere' : Vector MereSlice 4) (mgen' : Vector MgenSlot 8) (items' : List ItemRun) (itemNo' : Nat) (images' : Vector
    (Option Image) 16) (adapters' : Vector Adapter 32) (lps' : Vector LearnedPrefix 64) (rqt' : List (Nat × Entry))
    (work' : List (Nat × Work)) (rounds' : List Round) (roundNo' : Nat) (nodes' : List Node) (pages' : List Page)
    (queues' : Vector Queue 128) (lastServed' : Vector Nat 4) (lds' : Vector Tenant 16) (ops' : List BundleOp) (roles'
    : List Role) (sent' : List SentMsg) (ctlWait' : List (NodeId × Nat × List Byte)) (msgNo' : Nat) (lateData' : List (Nat × Nat × Nat)) (rlOps' : Nat) (roleIn' : List RoleMsg) (ports' : Vector Port 16) (peers' :
    List (Nat × Peer)) (flows' : List Flow) (atomics' : List AtomicOp) (notifies' : List HeldNotify) (timeSync' :
    TimeSync) (joint' : List Joint) (grants' : List Grant) (members' : List Member) (power' : PowerUnit) (temps' :
    List (Nat × Nat)) (faults' : FaultUnit) (mboxes' : List (Mbox × MboxState)) (fns' : List (Mbox × FnRegs)) (sec' : SecUnit) (bist' : BistUnit)
    (jrnl' : Journal) (cxl' : CxlResp) (timestamp' : Option (BitVec 64)) (out' : List OutMsg) (freeCtr' : Nat)
    (pending' : List Instr) :
    Keeps s0 (State.mk
      fuses' pins' fw' tick' regs' bar2Last' bar2Shadow' regData' mem' poison' tags' arrays' fes' bars' mere' mgen'
      items' itemNo' images' adapters' lps' rqt' work' rounds' roundNo' nodes' pages' queues' lastServed' lds' ops'
      roles' sent' ctlWait' msgNo' lateData' rlOps' roleIn' ports' peers' flows' atomics' notifies' timeSync' joint' grants' members' power'
      temps' faults' mboxes' fns' sec' bist' jrnl' cxl' timestamp' out' freeCtr' pending') ↔ KeepsF s0 fuses' regs' mem' tags' rqt' pending' :=
  ⟨fun h => ⟨fun i => ⟨(h.inv i).mem, (h.inv i).regs, (h.inv i).tags, (h.inv i).rqt, (h.inv i).part⟩, h.queue, h.fuses⟩,
    fun h => ⟨fun i => ⟨(h.inv i).1, (h.inv i).2.1, (h.inv i).2.2.1, (h.inv i).2.2.2.1, (h.inv i).2.2.2.2⟩, h.queue, h.fuses⟩⟩

/-- A record update of other fields. -/
theorem keeps_upd {s0 s : State} (h : Keeps s0 s) : KeepsF s0 s.fuses s.regs s.mem s.tags s.rqt s.pending :=
  ⟨fun i => ⟨(h.inv i).mem, (h.inv i).regs, (h.inv i).tags, (h.inv i).rqt, (h.inv i).part⟩, h.queue, h.fuses⟩

theorem FusesGrow.arrays {f g : Fuses} (h : FusesGrow f g) : g.arrays = f.arrays := by rw [h.same]

/-- A record update with the same fuses, or with blown bits added, and with its sparse parts in canonical form. -/
theorem keepsF_of {s0 s : State} {f : Fuses} {regs : List (Nat × Reg64)} {mem : List Host.Cell} {tags : List (Nat × Tag)}
    {rqt : List (Nat × Entry)} {pending : List Instr} (h : Keeps s0 s) (hf : FusesGrow s.fuses f)
    (hr : regsWf s.regs = true → s.fuses.arrays ≠ 0 → regsWf regs = true) (hm : memWf s.mem = true → memWf mem = true)
    (ht : keysRise s.tags = true → keysRise tags = true) (hq : keysRise s.rqt = true → keysRise rqt = true)
    (hp : pending = s.pending) : KeepsF s0 f regs mem tags rqt pending :=
  ⟨fun i => ⟨hm (h.inv i).mem, hr (h.inv i).regs (h.inv i).part, ht (h.inv i).tags, hq (h.inv i).rqt,
    hf.arrays ▸ (h.inv i).part⟩, hp.trans h.queue, h.fuses.trans hf⟩

/-- A state with the same fields that `Keeps` speaks of. -/
theorem keeps_same {s0 s t : State} (h : Keeps s0 s) (hf : t.fuses = s.fuses) (hr : t.regs = s.regs) (hm : t.mem = s.mem)
    (ht : t.tags = s.tags) (hq : t.rqt = s.rqt) (hp : t.pending = s.pending) : Keeps s0 t :=
  ⟨fun i => ⟨hm ▸ (h.inv i).mem, hr ▸ (h.inv i).regs, ht ▸ (h.inv i).tags, hq ▸ (h.inv i).rqt, hf ▸ (h.inv i).part⟩,
    hp.trans h.queue, hf ▸ h.fuses⟩

/-- An answer whose next state, if there is one, keeps. -/
def KeepsOut (s0 : State) : Host.Outcome State Fault Refusal → Prop
  | .next t => Keeps s0 t
  | _ => True

/-- An optional state that keeps where it is present. -/
def KeepsOpt (s0 : State) : Option State → Prop
  | some t => Keeps s0 t
  | none => True

/-- An optional state with more beside it. -/
def KeepsOptP {α : Type} (s0 : State) : Option (State × α) → Prop
  | some t => Keeps s0 t.1
  | none => True

/-- A state or an error. -/
def KeepsEx {ε : Type} (s0 : State) : Except ε State → Prop
  | .ok t => Keeps s0 t
  | .error _ => True

/-- A state with more beside it, or an error. -/
def KeepsExP {ε α : Type} (s0 : State) : Except ε (State × α) → Prop
  | .ok t => Keeps s0 t.1
  | .error _ => True

/-- A state with more beside it. -/
def KeepsP {α : Type} (s0 : State) (p : State × α) : Prop := Keeps s0 p.1

/-- A state with something before it. -/
def KeepsS {α : Type} (s0 : State) (p : α × State) : Prop := Keeps s0 p.2

theorem keepsS_mk {α : Type} {s0 t : State} {x : α} (h : Keeps s0 t) : KeepsS s0 (x, t) := h
theorem keepsS_snd {α : Type} {s0 : State} {p : α × State} (h : KeepsS s0 p) : Keeps s0 p.2 := h
theorem keepsP_mk {α : Type} {s0 t : State} {x : α} (h : Keeps s0 t) : KeepsP s0 (t, x) := h
theorem keepsP_fst {α : Type} {s0 : State} {p : State × α} (h : KeepsP s0 p) : Keeps s0 p.1 := h
theorem keepsOut_next {s0 t : State} (h : Keeps s0 t) : KeepsOut s0 (.next t) := h
theorem keepsOut_fault {s0 : State} (r : Fault) : KeepsOut s0 (.fault r) := trivial
theorem keepsOut_refused {s0 : State} (r : Refusal) : KeepsOut s0 (.refused r) := trivial
theorem keepsOpt_some {s0 t : State} (h : Keeps s0 t) : KeepsOpt s0 (some t) := h
theorem keepsOpt_none {s0 : State} : KeepsOpt s0 none := trivial
theorem keepsOptP_some {α : Type} {s0 : State} {t : State × α} (h : KeepsP s0 t) : KeepsOptP s0 (some t) := h
theorem keepsOptP_none {α : Type} {s0 : State} : KeepsOptP (α := α) s0 none := trivial
theorem keepsEx_ok {ε : Type} {s0 t : State} (h : Keeps s0 t) : KeepsEx (ε := ε) s0 (.ok t) := h
theorem keepsEx_error {ε : Type} {s0 : State} (e : ε) : KeepsEx s0 (.error e) := trivial
theorem keepsExP_ok {ε α : Type} {s0 : State} {t : State × α} (h : KeepsP s0 t) : KeepsExP (ε := ε) s0 (.ok t) := h
theorem keepsExP_error {ε α : Type} {s0 : State} (e : ε) : KeepsExP (α := α) s0 (.error e) := trivial

theorem keeps_of_next {s0 t : State} {o : Host.Outcome State Fault Refusal} (e : o = .next t) (h : KeepsOut s0 o) :
    Keeps s0 t := by subst e; exact h
theorem keeps_of_some {s0 t : State} {o : Option State} (e : o = some t) (h : KeepsOpt s0 o) : Keeps s0 t := by
  subst e; exact h
theorem keeps_of_someP {α : Type} {s0 t : State} {o : Option (State × α)} {x : α} (e : o = some (t, x))
    (h : KeepsOptP s0 o) : Keeps s0 t := by subst e; exact h
theorem keeps_of_ok {ε : Type} {s0 t : State} {o : Except ε State} (e : o = .ok t) (h : KeepsEx s0 o) : Keeps s0 t := by
  subst e; exact h
theorem keeps_of_okP {ε α : Type} {s0 t : State} {o : Except ε (State × α)} {x : α} (e : o = .ok (t, x))
    (h : KeepsExP s0 o) : Keeps s0 t := by subst e; exact h
theorem keeps_of_pair {α : Type} {s0 t : State} {p : State × α} {x : α} (e : p = (t, x)) (h : KeepsP s0 p) :
    Keeps s0 t := by subst e; exact h

theorem keepsEx_inv {ε : Type} {s0 t : State} (h : KeepsEx (ε := ε) s0 (.ok t)) : Keeps s0 t := h
theorem keepsExP_inv {ε α : Type} {s0 t : State} {x : α} (h : KeepsExP (ε := ε) s0 (.ok (t, x))) : Keeps s0 t := h
theorem keepsOpt_inv {s0 t : State} (h : KeepsOpt s0 (some t)) : Keeps s0 t := h
theorem keepsOptP_inv {α : Type} {s0 t : State} {x : α} (h : KeepsOptP s0 (some (t, x))) : Keeps s0 t := h
theorem keepsP_inv {α : Type} {s0 t : State} {x : α} (h : KeepsP s0 (t, x)) : Keeps s0 t := h
theorem keepsOut_inv {s0 t : State} (h : KeepsOut s0 (.next t)) : Keeps s0 t := h

/-- A fact shown once and used after. -/
theorem keeps_cut {P Q : Prop} (h : P) (k : P → Q) : Q := k h

theorem keepsOpt_getD {s0 s : State} {o : Option State} (h : KeepsOpt s0 o) (hs : Keeps s0 s) : Keeps s0 (o.getD s) := by
  cases o with
  | none => exact hs
  | some t => exact h

/-- What stands beside the state may change. -/
theorem keepsOptP_map {α β : Type} {s0 : State} {o : Option (State × α)} (f : State × α → State × β) (h : KeepsOptP s0 o)
    (hf : ∀ p, (f p).1 = p.1) : KeepsOptP s0 (o.map f) := by
  cases o with
  | none => trivial
  | some p =>
    show Keeps s0 (f p).1
    rw [hf]
    exact h

theorem keeps_foldl {α : Type} {s0 s : State} {f : State → α → State} (l : List α) (h : Keeps s0 s)
    (hf : ∀ t x, Keeps s0 t → Keeps s0 (f t x)) : Keeps s0 (l.foldl f s) := by
  induction l generalizing s with
  | nil => exact h
  | cons x r ih => exact ih (hf s x h)

theorem keeps_foldlP {α β : Type} {s0 : State} {p : State × β} {f : State × β → α → State × β} (l : List α)
    (h : KeepsP s0 p) (hf : ∀ t x, KeepsP s0 t → KeepsP s0 (f t x)) : KeepsP s0 (l.foldl f p) := by
  induction l generalizing p with
  | nil => exact h
  | cons x r ih => exact ih (hf p x h)

theorem keeps_foldlE {α ε : Type} {s0 : State} {p : Except ε State} {f : Except ε State → α → Except ε State} (l : List α)
    (h : KeepsEx s0 p) (hf : ∀ t x, KeepsEx s0 t → KeepsEx s0 (f t x)) : KeepsEx s0 (l.foldl f p) := by
  induction l generalizing p with
  | nil => exact h
  | cons x r ih => exact ih (hf p x h)

theorem keeps_foldlO {α : Type} {s0 : State} {p : Option State} {f : Option State → α → Option State} (l : List α)
    (h : KeepsOpt s0 p) (hf : ∀ t x, KeepsOpt s0 t → KeepsOpt s0 (f t x)) : KeepsOpt s0 (l.foldl f p) := by
  induction l generalizing p with
  | nil => exact h
  | cons x r ih => exact ih (hf p x h)

/-- A branch keeps when both of its sides do. -/
theorem keepsOut_ite {s0 : State} {c : Prop} [Decidable c] {a b : Host.Outcome State Fault Refusal} (ha : c → KeepsOut s0 a)
    (hb : ¬ c → KeepsOut s0 b) : KeepsOut s0 (if c then a else b) := by
  split
  · exact ha ‹_›
  · exact hb ‹_›

theorem keeps_ite {s0 : State} {c : Prop} [Decidable c] {a b : State} (ha : c → Keeps s0 a) (hb : ¬ c → Keeps s0 b) :
    Keeps s0 (if c then a else b) := by
  split
  · exact ha ‹_›
  · exact hb ‹_›

theorem keepsP_ite {α : Type} {s0 : State} {c : Prop} [Decidable c] {a b : State × α} (ha : c → KeepsP s0 a)
    (hb : ¬ c → KeepsP s0 b) : KeepsP s0 (if c then a else b) := by
  split
  · exact ha ‹_›
  · exact hb ‹_›

end Sys2Proof.Machine
end

