-- ==== Sys2Proof/Laws/RegsKeeps.lean ====
section
/-! SUPPORT. What the definitions of Machine/Regs.lean keep (Laws/Keeps.lean). -/

namespace Sys2Proof.Machine

theorem regSet_keeps {s0 : State} (s : State) (o v : Nat) (hk : Keeps s0 s) : Keeps s0 (regSet s o v) := by
  refine ⟨fun i => ⟨(hk.inv i).mem, ?_, (hk.inv i).tags, (hk.inv i).rqt, (hk.inv i).part⟩, hk.queue, hk.fuses⟩
  show regsWf (if reg v = reg (regReset o) then eraseN o s.regs else insertN o (reg v) s.regs) = true
  split
  · exact regsWf_erase _ _ (hk.inv i).regs
  · exact regsWf_insert _ _ _ (by assumption) (hk.inv i).regs

theorem regBump_keeps {s0 : State} (s : State) (o n : Nat) (hk : Keeps s0 s) :
    Keeps s0 (regBump s o n) := by
  unfold regBump
  repeat' (first
    | with_reducible assumption
    | with_reducible apply regSet_keeps
    | split)

theorem regPut_keeps {s0 : State} (s : State) (o hi lo v : Nat) (hk : Keeps s0 s) :
    Keeps s0 (regPut s o hi lo v) := by
  unfold regPut
  repeat' (first
    | with_reducible assumption
    | with_reducible apply regSet_keeps)

theorem regFlag_keeps {s0 : State} (s : State) (o bit : Nat) (hk : Keeps s0 s) :
    Keeps s0 (regFlag s o bit) := by
  unfold regFlag
  repeat' (first
    | with_reducible assumption
    | with_reducible apply regPut_keeps)

end Sys2Proof.Machine
end

