-- ==== Sys2Proof/Laws/OpsKeeps.lean ====
section
/-! SUPPORT. What the definitions of Machine/Ops.lean keep (Laws/Keeps.lean). -/

namespace Sys2Proof.Machine

theorem setArr_keeps {s0 : State} (s : State) (a : ArrId) (u : ArrayUnit) (hk : Keeps s0 s) :
    Keeps s0 (setArr s a u) := by
  unfold setArr
  repeat' (first
    | with_reducible assumption
    | (simp -zeta only [↓keeps_mk]; with_reducible refine keeps_upd ?_))

theorem setFe_keeps {s0 : State} (s : State) (f : FeId) (u : FetchUnit) (hk : Keeps s0 s) :
    Keeps s0 (setFe s f u) := by
  unfold setFe
  repeat' (first
    | with_reducible assumption
    | (simp -zeta only [↓keeps_mk]; with_reducible refine keeps_upd ?_))

theorem setTen_keeps {s0 : State} (s : State) (t : LdId) (u : Tenant) (hk : Keeps s0 s) :
    Keeps s0 (setTen s t u) := by
  unfold setTen
  repeat' (first
    | with_reducible assumption
    | (simp -zeta only [↓keeps_mk]; with_reducible refine keeps_upd ?_))

theorem setQue_keeps {s0 : State} (s : State) (q : Fin 128) (u : Queue) (hk : Keeps s0 s) :
    Keeps s0 (setQue s q u) := by
  unfold setQue
  repeat' (first
    | with_reducible assumption
    | (simp -zeta only [↓keeps_mk]; with_reducible refine keeps_upd ?_))

theorem setPort_keeps {s0 : State} (s : State) (p : PortId) (u : Port) (hk : Keeps s0 s) :
    Keeps s0 (setPort s p u) := by
  unfold setPort
  repeat' (first
    | with_reducible assumption
    | (simp -zeta only [↓keeps_mk]; with_reducible refine keeps_upd ?_))

theorem forArrays_keeps {s0 : State} (s : State) (f : State → ArrId → State) (hk : Keeps s0 s)
    (hf : ∀ t x, Keeps s0 t → Keeps s0 (f t x)) : Keeps s0 (forArrays s f) := keeps_foldl _ hk hf

theorem forFes_keeps {s0 : State} (s : State) (f : State → FeId → State) (hk : Keeps s0 s)
    (hf : ∀ t x, Keeps s0 t → Keeps s0 (f t x)) : Keeps s0 (forFes s f) := keeps_foldl _ hk hf

theorem mapDescs_keeps {s0 : State} (s : State) (g : DescRun → DescRun) (hk : Keeps s0 s) :
    Keeps s0 (mapDescs s g) := by
  unfold mapDescs
  repeat' (first
    | with_reducible assumption
    | with_reducible intro _
    | (extract_lets +onlyGivenNames xv; clear_value xv)
    | with_reducible apply forFes_keeps
    | with_reducible apply setFe_keeps)

theorem forLds_keeps {s0 : State} (s : State) (f : State → LdId → State) (hk : Keeps s0 s)
    (hf : ∀ t x, Keeps s0 t → Keeps s0 (f t x)) : Keeps s0 (forLds s f) := keeps_foldl _ hk hf

theorem send_keeps {s0 : State} (s : State) (m : OutMsg) (hk : Keeps s0 s) :
    Keeps s0 (send s m) := by
  unfold send
  repeat' (first
    | with_reducible assumption
    | (simp -zeta only [↓keeps_mk]; with_reducible refine keeps_upd ?_))

theorem tickFree_keeps {s0 : State} (s : State) (hk : Keeps s0 s) :
    Keeps s0 (tickFree s) := by
  unfold tickFree
  repeat' (first
    | with_reducible assumption
    | (simp -zeta only [↓keeps_mk]; with_reducible refine keeps_upd ?_))

theorem markTag_keeps {s0 : State} (s : State) (f : Nat) (t : Tag) (hk : Keeps s0 s) : Keeps s0 (markTag s f t) := by
  refine ⟨fun i => ⟨(hk.inv i).mem, (hk.inv i).regs, ?_, (hk.inv i).rqt, (hk.inv i).part⟩, hk.queue, hk.fuses⟩
  show keysRise (if t = tagDefault s f then eraseN f s.tags else insertN f t s.tags) = true
  split
  · exact keysRise_erase _ _ (hk.inv i).tags
  · exact keysRise_insert _ _ _ (hk.inv i).tags

theorem setHbmKey_keeps {s0 : State} (s : State) (slot : Nat) (k : Option (List Byte)) (hk : Keeps s0 s) :
    Keeps s0 (setHbmKey s slot k) := by
  unfold setHbmKey
  repeat' (first
    | with_reducible assumption
    | (simp -zeta only [↓keeps_mk]; with_reducible refine keeps_upd ?_))

theorem rekeyFrame_keeps {s0 : State} (old new : List Byte) (s : State) (f : Nat) (hk : Keeps s0 s) :
    Keeps s0 (rekeyFrame old new s f) := by
  refine ⟨fun i => ⟨?_, (hk.inv i).regs, (hk.inv i).tags, (hk.inv i).rqt, (hk.inv i).part⟩, hk.queue, hk.fuses⟩
  have hm := (hk.inv i).mem
  show memWf (if old = new then s.mem else ((List.range 256).map (f * 256 + ·)).foldl (rekeyLine old new) s.mem) = true
  split
  · exact hm
  · generalize (List.range 256).map (f * 256 + ·) = ls
    generalize s.mem = m at hm
    clear i hk
    induction ls generalizing m with
    | nil => exact hm
    | cons x r ih => exact ih _ (memWf_writes _ _ _ hm)

theorem setTag_keeps {s0 : State} (s : State) (f : Nat) (t : Tag) (hk : Keeps s0 s) :
    Keeps s0 (setTag s f t) := by
  unfold setTag
  repeat' (first
    | with_reducible assumption
    | (extract_lets +onlyGivenNames xv; clear_value xv)
    | with_reducible apply markTag_keeps
    | with_reducible apply rekeyFrame_keeps
    | split)

theorem memClear_keeps {s0 : State} (s : State) (a n : Nat) (hk : Keeps s0 s) : Keeps s0 (memClear s a n) :=
  ⟨fun i => ⟨memWf_filter _ _ (hk.inv i).mem, (hk.inv i).regs, (hk.inv i).tags, (hk.inv i).rqt, (hk.inv i).part⟩,
    hk.queue, hk.fuses⟩

theorem disarm_keeps {s0 : State} (s : State) (source unit : Nat) (hk : Keeps s0 s) :
    Keeps s0 (disarm s source unit) := by
  unfold disarm
  repeat' (first
    | with_reducible assumption
    | (extract_lets +onlyGivenNames xv; first
      | (refine keeps_cut (P := Keeps s0 xv) ?_ (fun _ => ?_); unfold xv; clear xv; rotate_left; clear_value xv; rotate_left)
      | clear_value xv
      | (unfold xv; clear xv))
    | with_reducible apply regPut_keeps
    | split
    | (simp -zeta only [↓keeps_mk]; with_reducible refine keeps_upd ?_))

theorem slicesWrote_keeps {s0 : State} (s : State) (ps : List Nat) (hk : Keeps s0 s) :
    Keeps s0 (slicesWrote s ps) := by
  unfold slicesWrote
  repeat' (first
    | with_reducible assumption
    | (extract_lets +onlyGivenNames xv; clear_value xv)
    | with_reducible apply disarm_keeps
    | with_reducible apply regBump_keeps
    | with_reducible refine keeps_foldl _ ?_ (fun _ _ _ => ?_)
    | split)

theorem hbmWrote_keeps {s0 : State} (s : State) (x : Nat × Nat) (hk : Keeps s0 s) :
    Keeps s0 (hbmWrote s x) := by
  unfold hbmWrote
  repeat' (first
    | with_reducible assumption
    | with_reducible intro _
    | (extract_lets +onlyGivenNames xv; first
      | (refine keeps_cut (P := Keeps s0 xv) ?_ (fun _ => ?_); unfold xv; clear xv; rotate_left; clear_value xv; rotate_left)
      | clear_value xv
      | (unfold xv; clear xv))
    | with_reducible apply regPut_keeps
    | split
    | with_reducible refine keepsP_fst ?_
    | (simp -zeta only [↓keeps_mk]; with_reducible refine keeps_upd ?_))

theorem piecesWrote_keeps {s0 : State} (s : State) (ps : List (Nat × Nat)) (hk : Keeps s0 s) :
    Keeps s0 (piecesWrote s ps) := by
  unfold piecesWrote
  repeat' (first
    | with_reducible assumption
    | with_reducible apply hbmWrote_keeps
    | with_reducible apply slicesWrote_keeps
    | with_reducible refine keeps_foldl _ ?_ (fun _ _ _ => ?_))

theorem giveFrame_keeps {s0 : State} (s : State) (f : Nat) (t : Tag) (hk : Keeps s0 s) :
    Keeps s0 (giveFrame s f t) := by
  unfold giveFrame
  repeat' (first
    | with_reducible assumption
    | with_reducible apply piecesWrote_keeps
    | with_reducible apply memClear_keeps
    | with_reducible apply markTag_keeps)

theorem setMaterial_keeps {s0 : State} (s : State) (t : LdId) (m : Option (List Byte)) (gen : Nat) (frames : List Nat) (hk : Keeps s0 s) :
    Keeps s0 (setMaterial s t m gen frames) := by
  unfold setMaterial
  repeat' (first
    | with_reducible assumption
    | (extract_lets +onlyGivenNames xv; first
      | (refine keeps_cut (P := Keeps s0 xv) ?_ (fun _ => ?_); unfold xv; clear xv; rotate_left; clear_value xv; rotate_left)
      | clear_value xv
      | (unfold xv; clear xv))
    | with_reducible apply setHbmKey_keeps
    | with_reducible apply setTen_keeps
    | with_reducible apply rekeyFrame_keeps
    | with_reducible refine keeps_foldl _ ?_ (fun _ _ _ => ?_))

theorem memWrites_keeps {s0 : State} (s : State) (a : Nat) (bs : List Byte) (hk : Keeps s0 s) :
    Keeps s0 (memWrites s a bs) :=
  ⟨fun i => ⟨memWf_writes _ _ _ (hk.inv i).mem, (hk.inv i).regs, (hk.inv i).tags, (hk.inv i).rqt, (hk.inv i).part⟩,
    hk.queue, hk.fuses⟩

theorem memStore_keeps {s0 : State} (s : State) (a : Nat) (bs : List Byte) (hk : Keeps s0 s) :
    Keeps s0 (memStore s a bs) := by
  unfold memStore
  repeat' (first
    | with_reducible assumption
    | with_reducible apply piecesWrote_keeps
    | with_reducible apply memWrites_keeps)

theorem tvaWrites_keeps {s0 : State} (s : State) (t : LdId) (v : Nat) (bs : List Byte) (hk : Keeps s0 s) :
    Keeps s0 (tvaWrites s t v bs) := by
  induction bs generalizing s v with
  | nil => exact hk
  | cons b bs ih =>
    unfold tvaWrites
    refine ih _ _ ?_
    split
    · exact memWrites_keeps s _ [b] hk
    · exact hk

theorem regClearBit_keeps {s0 : State} (s : State) (o b : Nat) (hk : Keeps s0 s) :
    Keeps s0 (regClearBit s o b) := by
  unfold regClearBit
  repeat' (first
    | with_reducible assumption
    | with_reducible apply regPut_keeps)

theorem geoBump_keeps {s0 : State} (s : State) (hk : Keeps s0 s) :
    Keeps s0 (geoBump s) := by
  unfold geoBump
  repeat' (first
    | with_reducible assumption
    | with_reducible apply regBump_keeps)

theorem setFn_keeps {s0 : State} (s : State) (fn : Mbox) (x : FnRegs) (hk : Keeps s0 s) :
    Keeps s0 (setFn s fn x) := by
  unfold setFn
  repeat' (first
    | with_reducible assumption
    | with_reducible intro _
    | split
    | with_reducible refine keepsP_fst ?_
    | (simp -zeta only [↓keeps_mk]; with_reducible refine keeps_upd ?_))

theorem setPending_keeps {s0 : State} (s : State) (fn : Mbox) (v : Nat) (b : Bool) (hk : Keeps s0 s) :
    Keeps s0 (setPending s fn v b) := by
  unfold setPending
  repeat' (first
    | with_reducible assumption
    | (extract_lets +onlyGivenNames xv; first
      | (refine keeps_cut (P := Keeps s0 xv) ?_ (fun _ => ?_); unfold xv; clear xv; rotate_left; clear_value xv; rotate_left)
      | clear_value xv
      | (unfold xv; clear xv))
    | with_reducible apply setFn_keeps)

theorem sendMsix_keeps {s0 : State} (s : State) (fn : Mbox) (v : Nat) (hk : Keeps s0 s) :
    Keeps s0 (sendMsix s fn v) := by
  unfold sendMsix
  repeat' (first
    | with_reducible assumption
    | with_reducible apply send_keeps
    | with_reducible apply setPending_keeps
    | split)

theorem flushMsix_keeps {s0 : State} (s : State) (fn : Mbox) (hk : Keeps s0 s) :
    Keeps s0 (flushMsix s fn) := by
  unfold flushMsix
  repeat' (first
    | with_reducible assumption
    | with_reducible intro _
    | with_reducible apply send_keeps
    | with_reducible apply setPending_keeps
    | with_reducible refine keeps_foldl _ ?_ (fun _ _ _ => ?_)
    | with_reducible refine keeps_foldlP _ ?_ (fun _ _ _ => ?_)
    | split)

theorem ownerEvent_keeps {s0 : State} (s : State) (bs : List Byte) (hk : Keeps s0 s) :
    Keeps s0 (ownerEvent s bs) := by
  unfold ownerEvent
  repeat' (first
    | with_reducible assumption
    | (extract_lets +onlyGivenNames xv; first
      | (refine keeps_cut (P := Keeps s0 xv) ?_ (fun _ => ?_); unfold xv; clear xv; rotate_left; clear_value xv; rotate_left)
      | clear_value xv
      | (unfold xv; clear xv))
    | with_reducible apply sendMsix_keeps
    | split
    | (simp -zeta only [↓keeps_mk]; with_reducible refine keeps_upd ?_))

theorem tenantEvent_keeps {s0 : State} (s : State) (t : LdId) (bs : List Byte) (hk : Keeps s0 s) :
    Keeps s0 (tenantEvent s t bs) := by
  unfold tenantEvent
  repeat' (first
    | with_reducible assumption
    | (extract_lets +onlyGivenNames xv; first
      | (refine keeps_cut (P := Keeps s0 xv) ?_ (fun _ => ?_); unfold xv; clear xv; rotate_left; clear_value xv; rotate_left)
      | clear_value xv
      | (unfold xv; clear xv))
    | with_reducible apply setTen_keeps
    | with_reducible apply sendMsix_keeps
    | split)

theorem mediaEvent_keeps {s0 : State} (s : State) (t : LdId) (off : Nat) (hk : Keeps s0 s) :
    Keeps s0 (mediaEvent s t off) := by
  unfold mediaEvent
  repeat' (first
    | with_reducible assumption
    | (extract_lets +onlyGivenNames xv; first
      | (refine keeps_cut (P := Keeps s0 xv) ?_ (fun _ => ?_); unfold xv; clear xv; rotate_left; clear_value xv; rotate_left)
      | clear_value xv
      | (unfold xv; clear xv))
    | with_reducible apply tenantEvent_keeps
    | with_reducible apply ownerEvent_keeps)

theorem raiseIbi_keeps {s0 : State} (s : State) (payload : Nat) (hk : Keeps s0 s) :
    Keeps s0 (raiseIbi s payload) := by
  unfold raiseIbi
  repeat' (first
    | with_reducible assumption
    | (extract_lets +onlyGivenNames xv; clear_value xv)
    | (simp -zeta only [↓keeps_mk]; with_reducible refine keeps_upd ?_))

theorem logFaultIn_keeps {s0 : State} (s : State) (furrow : Nat) (r0 : FaultRec) (hk : Keeps s0 s) :
    Keeps s0 (logFaultIn s furrow r0) := by
  unfold logFaultIn
  repeat' (first
    | with_reducible assumption
    | (extract_lets +onlyGivenNames xv; first
      | (refine keeps_cut (P := Keeps s0 xv) ?_ (fun _ => ?_); unfold xv; clear xv; rotate_left; clear_value xv; rotate_left)
      | clear_value xv)
    | with_reducible apply ownerEvent_keeps
    | with_reducible apply raiseIbi_keeps
    | with_reducible apply regBump_keeps
    | with_reducible apply regFlag_keeps
    | with_reducible apply send_keeps
    | split
    | (simp -zeta only [↓keeps_mk]; with_reducible refine keeps_upd ?_))

theorem logFault_keeps {s0 : State} (s : State) (r : FaultRec) (hk : Keeps s0 s) :
    Keeps s0 (logFault s r) := by
  unfold logFault
  repeat' (first
    | with_reducible assumption
    | with_reducible apply logFaultIn_keeps)

theorem logAt_keeps {s0 : State} (s : State) (cls domain source unit code : Nat) (hk : Keeps s0 s) :
    Keeps s0 (logAt s cls domain source unit code) := by
  unfold logAt
  repeat' (first
    | with_reducible assumption
    | with_reducible apply logFault_keeps)

theorem setItem_keeps {s0 : State} (s : State) (w : ItemRun) (hk : Keeps s0 s) :
    Keeps s0 (setItem s w) := by
  unfold setItem
  repeat' (first
    | with_reducible assumption
    | (simp -zeta only [↓keeps_mk]; with_reducible refine keeps_upd ?_))

theorem stickItem_keeps {s0 : State} (s : State) (id : Option Nat) (e : Nat) (hk : Keeps s0 s) :
    Keeps s0 (stickItem s id e) := by
  unfold stickItem
  repeat' (first
    | with_reducible assumption
    | with_reducible apply setItem_keeps
    | split)

theorem discardOn_keeps {s0 : State} (every : Bool) (id : Nat) (s : State) (f : FeId) (hk : Keeps s0 s) :
    Keeps s0 (discardOn every id s f) := by
  unfold discardOn
  repeat' (first
    | with_reducible assumption
    | (extract_lets +onlyGivenNames xv; clear_value xv)
    | with_reducible apply regBump_keeps
    | with_reducible apply setFe_keeps
    | split)

theorem freeMgen_keeps {s0 : State} (s : State) (i : Nat) (hk : Keeps s0 s) :
    Keeps s0 (freeMgen s i) := by
  unfold freeMgen
  repeat' (first
    | with_reducible assumption
    | with_reducible intro _
    | split
    | (simp -zeta only [↓keeps_mk]; with_reducible refine keeps_upd ?_))

theorem discardDescs_keeps {s0 : State} (s : State) (every : Bool) (id : Nat) (hk : Keeps s0 s) :
    Keeps s0 (discardDescs s every id) := by
  unfold discardDescs
  repeat' (first
    | with_reducible assumption
    | with_reducible intro _
    | with_reducible apply discardOn_keeps
    | with_reducible apply forFes_keeps)

theorem countWaits_keeps {s0 : State} (s : State) (a : ArrId) (hk : Keeps s0 s) :
    Keeps s0 (countWaits s a) := by
  unfold countWaits
  repeat' (first
    | with_reducible assumption
    | with_reducible intro _
    | (extract_lets +onlyGivenNames xv; first
      | (refine keeps_cut (P := Keeps s0 xv) ?_ (fun _ => ?_); unfold xv; clear xv; rotate_left; clear_value xv; rotate_left)
      | (refine keeps_cut (P := KeepsOpt s0 xv) ?_ (fun _ => ?_); unfold xv; clear xv; rotate_left; clear_value xv; rotate_left)
      | clear_value xv
      | (unfold xv; clear xv))
    | with_reducible apply regBump_keeps
    | with_reducible apply setArr_keeps
    | with_reducible refine keeps_foldl _ ?_ (fun _ _ _ => ?_)
    | with_reducible refine keeps_foldlP _ ?_ (fun _ _ _ => ?_)
    | split)

theorem countStallsOn_keeps {s0 : State} (p : DescRun → Bool) (s : State) (f : FeId) (hk : Keeps s0 s) :
    Keeps s0 (countStallsOn p s f) := by
  unfold countStallsOn
  repeat' (first
    | with_reducible assumption
    | with_reducible intro _
    | (extract_lets +onlyGivenNames xv; first
      | (refine keeps_cut (P := Keeps s0 xv) ?_ (fun _ => ?_); unfold xv; clear xv; rotate_left; clear_value xv; rotate_left)
      | (refine keeps_cut (P := KeepsOpt s0 xv) ?_ (fun _ => ?_); unfold xv; clear xv; rotate_left; clear_value xv; rotate_left)
      | clear_value xv
      | (unfold xv; clear xv))
    | with_reducible apply regBump_keeps
    | with_reducible apply setFe_keeps
    | with_reducible refine keeps_foldl _ ?_ (fun _ _ _ => ?_)
    | with_reducible refine keeps_foldlP _ ?_ (fun _ _ _ => ?_)
    | split)

theorem cutItem_keeps {s0 : State} (s : State) (w : ItemRun) (hk : Keeps s0 s) :
    Keeps s0 (cutItem s w) := by
  unfold cutItem
  repeat' (first
    | with_reducible assumption
    | with_reducible intro _
    | (extract_lets +onlyGivenNames xv; first
      | (refine keeps_cut (P := Keeps s0 xv) ?_ (fun _ => ?_); unfold xv; clear xv; rotate_left; clear_value xv; rotate_left)
      | clear_value xv
      | (unfold xv; clear xv))
    | with_reducible apply forFes_keeps
    | with_reducible apply countWaits_keeps
    | with_reducible apply countStallsOn_keeps
    | with_reducible apply setArr_keeps
    | with_reducible apply discardDescs_keeps
    | with_reducible refine keeps_foldl _ ?_ (fun _ _ _ => ?_))

theorem copyTrap_keeps {s0 : State} (s : State) (a : ArrId) (hk : Keeps s0 s) :
    Keeps s0 (copyTrap s a) := by
  unfold copyTrap
  repeat' (first
    | with_reducible assumption
    | (extract_lets +onlyGivenNames xv; first
      | (refine keeps_cut (P := Keeps s0 xv) ?_ (fun _ => ?_); unfold xv; clear xv; rotate_left; clear_value xv; rotate_left)
      | clear_value xv)
    | with_reducible apply logFaultIn_keeps
    | with_reducible apply regPut_keeps
    | split)

theorem haltItem_keeps {s0 : State} (s : State) (w : ItemRun) (why cause : Nat) (pt : Option (Nat × Nat × Nat)) (hk : Keeps s0 s) :
    Keeps s0 (haltItem s w why cause pt) := by
  unfold haltItem
  repeat' (first
    | with_reducible assumption
    | (extract_lets +onlyGivenNames xv; first
      | (refine keeps_cut (P := Keeps s0 xv) ?_ (fun _ => ?_); unfold xv; clear xv; rotate_left; clear_value xv; rotate_left)
      | clear_value xv)
    | with_reducible apply cutItem_keeps
    | with_reducible apply regBump_keeps
    | with_reducible apply setItem_keeps)

theorem schedFault_keeps {s0 : State} (s : State) (w : ItemRun) (pt : Nat × Nat × Nat) (tile detail clk unit : Nat) (hk : Keeps s0 s) :
    Keeps s0 (schedFault s w pt tile detail clk unit) := by
  unfold schedFault
  repeat' (first
    | with_reducible assumption
    | (extract_lets +onlyGivenNames xv; refine keeps_cut (P := Keeps s0 xv) ?_ (fun _ => ?_); unfold xv; clear xv; rotate_left; clear_value xv; rotate_left)
    | with_reducible apply haltItem_keeps
    | with_reducible apply logFault_keeps
    | with_reducible apply regBump_keeps)

theorem meterMem_keeps {s0 : State} (s : State) (b : Bearer) (n : Nat) (hk : Keeps s0 s) :
    Keeps s0 (meterMem s b n) := by
  unfold meterMem
  repeat' (first
    | with_reducible assumption
    | (simp -zeta only [↓keeps_mk]; with_reducible refine keeps_upd ?_))

theorem meterSer_keeps {s0 : State} (s : State) (b : Bearer) (n : Nat) (hk : Keeps s0 s) :
    Keeps s0 (meterSer s b n) := by
  unfold meterSer
  repeat' (first
    | with_reducible assumption
    | (simp -zeta only [↓keeps_mk]; with_reducible refine keeps_upd ?_))

theorem meterWindow_keeps {s0 : State} (s : State) (t : LdId) (n : Nat) (hk : Keeps s0 s) :
    Keeps s0 (meterWindow s t n) := by
  unfold meterWindow
  repeat' (first
    | with_reducible assumption
    | with_reducible apply meterSer_keeps
    | with_reducible apply meterMem_keeps)

theorem meterCtx_keeps {s0 : State} (s : State) (ctx n : Nat) (hk : Keeps s0 s) :
    Keeps s0 (meterCtx s ctx n) := by
  unfold meterCtx
  repeat' (first
    | with_reducible assumption
    | with_reducible apply meterSer_keeps
    | split)

theorem idle_keeps {s0 : State} (s : State) (hk : Keeps s0 s) :
    Keeps s0 (idle s) := by
  unfold idle
  repeat' (first
    | with_reducible assumption
    | (extract_lets +onlyGivenNames xv; clear_value xv)
    | split
    | (simp -zeta only [↓keeps_mk]; with_reducible refine keeps_upd ?_))

end Sys2Proof.Machine
end

