-- ==== Sys2Proof/Laws/SpadKeeps.lean ====
section
/-! SUPPORT. What the definitions of Machine/Spad.lean keep (Laws/Keeps.lean). -/

namespace Sys2Proof.Machine

theorem spadStore_keeps {s0 : State} (s : State) (a : ArrId) (addr : Nat) (bs : List Byte) (hk : Keeps s0 s) :
    Keeps s0 (spadStore s a addr bs) := by
  unfold spadStore
  repeat' (first
    | with_reducible assumption
    | (extract_lets +onlyGivenNames xv; clear_value xv)
    | with_reducible apply disarm_keeps
    | with_reducible apply regBump_keeps
    | with_reducible apply setArr_keeps)

theorem slotFault_keeps {s0 : State} (s : State) (a : ArrId) (h : SlotHit) (unit clk tile : Nat) (hk : Keeps s0 s) :
    Keeps s0 (slotFault s a h unit clk tile) := by
  unfold slotFault
  repeat' (first
    | with_reducible assumption
    | (extract_lets +onlyGivenNames xv; first
      | (refine keeps_cut (P := Keeps s0 xv) ?_ (fun _ => ?_); unfold xv; clear xv; rotate_left; clear_value xv; rotate_left)
      | clear_value xv)
    | with_reducible apply regSet_keeps
    | with_reducible apply schedFault_keeps
    | split)

theorem ringDeliver_keeps {s0 : State} (s : State) (a : ArrId) (q : Fin 6) (bs : List Byte) (hk : Keeps s0 s) :
    Keeps s0 (ringDeliver s a q bs) := by
  unfold ringDeliver
  repeat' (first
    | with_reducible assumption
    | (extract_lets +onlyGivenNames xv; clear_value xv)
    | with_reducible apply regBump_keeps
    | with_reducible apply setArr_keeps
    | with_reducible apply slotFault_keeps
    | split)

theorem execPreambleEnd_keeps {s0 : State} (a : ArrId) (s : State) (hk : Keeps s0 s) :
    KeepsOut s0 (execPreambleEnd a s) := by
  unfold execPreambleEnd
  repeat' (first
    | with_reducible assumption
    | (extract_lets +onlyGivenNames xv; first
      | (refine keeps_cut (P := Keeps s0 xv) ?_ (fun _ => ?_); unfold xv; clear xv; rotate_left; clear_value xv; rotate_left)
      | clear_value xv)
    | with_reducible refine keepsOut_next ?_
    | with_reducible apply ringDeliver_keeps
    | with_reducible apply setArr_keeps
    | with_reducible refine keeps_foldl _ ?_ (fun _ _ _ => ?_)
    | split)

theorem execBankPowerDown_keeps {s0 : State} (a : ArrId) (b : Fin 32) (t : Clk) (s : State) (hk : Keeps s0 s) :
    KeepsOut s0 (execBankPowerDown a b t s) := by
  unfold execBankPowerDown
  repeat' (first
    | with_reducible assumption
    | (extract_lets +onlyGivenNames xv; first
      | (refine keeps_cut (P := Keeps s0 xv) ?_ (fun _ => ?_); unfold xv; clear xv; rotate_left; clear_value xv; rotate_left)
      | clear_value xv)
    | with_reducible refine keepsOut_next ?_
    | with_reducible apply regBump_keeps
    | with_reducible apply setArr_keeps
    | split)

theorem execBankWakeDone_keeps {s0 : State} (a : ArrId) (b : Fin 32) (s : State) (hk : Keeps s0 s) :
    KeepsOut s0 (execBankWakeDone a b s) := by
  unfold execBankWakeDone
  repeat' (first
    | with_reducible assumption
    | (extract_lets +onlyGivenNames xv; clear_value xv)
    | with_reducible refine keepsOut_next ?_
    | with_reducible apply regBump_keeps
    | with_reducible apply setArr_keeps
    | split)

theorem execLateWake_keeps {s0 : State} (a : ArrId) (addr : Nat) (bs : List Byte) (s : State) (hk : Keeps s0 s) :
    KeepsOut s0 (execLateWake a addr bs s) := by
  unfold execLateWake
  repeat' (first
    | with_reducible assumption
    | (extract_lets +onlyGivenNames xv; clear_value xv)
    | with_reducible refine keepsOut_next ?_
    | with_reducible apply spadStore_keeps
    | split)

theorem execAcquire_keeps {s0 : State} (a : ArrId) (r : RingUse) (s : State) (hk : Keeps s0 s) :
    KeepsOut s0 (execAcquire a r s) := by
  unfold execAcquire
  repeat' (first
    | with_reducible assumption
    | (extract_lets +onlyGivenNames xv; clear_value xv)
    | with_reducible refine keepsOut_next ?_
    | with_reducible apply regBump_keeps
    | with_reducible apply setArr_keeps
    | split)

theorem execPublish_keeps {s0 : State} (a : ArrId) (q : Fin 6) (s : State) (hk : Keeps s0 s) :
    KeepsOut s0 (execPublish a q s) := by
  unfold execPublish
  repeat' (first
    | with_reducible assumption
    | (extract_lets +onlyGivenNames xv; clear_value xv)
    | with_reducible refine keepsOut_next ?_
    | with_reducible apply setArr_keeps
    | split)

theorem execWait_keeps {s0 : State} (a : ArrId) (r : RingUse) (n : Fin 16) (s : State) (hk : Keeps s0 s) :
    KeepsOut s0 (execWait a r n s) := by
  unfold execWait
  repeat' (first
    | with_reducible assumption
    | (extract_lets +onlyGivenNames xv; clear_value xv)
    | with_reducible refine keepsOut_next ?_
    | with_reducible apply regBump_keeps
    | with_reducible apply setArr_keeps
    | split)

theorem execRelease_keeps {s0 : State} (a : ArrId) (q : Fin 6) (s : State) (hk : Keeps s0 s) :
    KeepsOut s0 (execRelease a q s) := by
  unfold execRelease
  repeat' (first
    | with_reducible assumption
    | (extract_lets +onlyGivenNames xv; clear_value xv)
    | with_reducible refine keepsOut_next ?_
    | with_reducible apply setArr_keeps
    | split)

theorem abandonRings_keeps {s0 : State} (s : State) (a : ArrId) (hk : Keeps s0 s) :
    Keeps s0 (abandonRings s a) := by
  unfold abandonRings
  repeat' (first
    | with_reducible assumption
    | (extract_lets +onlyGivenNames xv; first
      | (refine keeps_cut (P := Keeps s0 xv) ?_ (fun _ => ?_); unfold xv; clear xv; rotate_left; clear_value xv; rotate_left)
      | clear_value xv)
    | with_reducible apply regBump_keeps
    | with_reducible apply setArr_keeps
    | with_reducible refine keeps_foldl _ ?_ (fun _ _ _ => ?_))

theorem abandonArray_keeps {s0 : State} (s : State) (a : ArrId) (hk : Keeps s0 s) :
    Keeps s0 (abandonArray s a) := by
  unfold abandonArray
  repeat' (first
    | with_reducible assumption
    | with_reducible intro _
    | (extract_lets +onlyGivenNames xv; first
      | (refine keeps_cut (P := Keeps s0 xv) ?_ (fun _ => ?_); unfold xv; clear xv; rotate_left; clear_value xv; rotate_left)
      | clear_value xv
      | (unfold xv; clear xv))
    | with_reducible apply abandonRings_keeps
    | with_reducible apply regBump_keeps
    | with_reducible apply setArr_keeps)

end Sys2Proof.Machine
end

