-- ==== Sys2Proof/Laws/MacKeeps.lean ====
section
/-! SUPPORT. What the definitions of Machine/Mac.lean keep (Laws/Keeps.lean). -/

namespace Sys2Proof.Machine

theorem nanTrap_keeps {s0 : State} (s : State) (a : ArrId) (es : List NanEvent) (hk : Keeps s0 s) :
    Keeps s0 (nanTrap s a es) := by
  unfold nanTrap
  repeat' (first
    | with_reducible assumption
    | (extract_lets +onlyGivenNames xv; first
      | (refine keeps_cut (P := Keeps s0 xv) ?_ (fun _ => ?_); unfold xv; clear xv; rotate_left; clear_value xv; rotate_left)
      | clear_value xv
      | (unfold xv; clear xv))
    | with_reducible apply regBump_keeps
    | with_reducible apply regFlag_keeps
    | with_reducible apply regSet_keeps
    | with_reducible apply stickItem_keeps
    | split)

theorem countOs_keeps {s0 : State} (s : State) (a : ArrId) (e : Ev) (hk : Keeps s0 s) :
    Keeps s0 (countOs s a e) := by
  unfold countOs
  repeat' (first
    | with_reducible assumption
    | (extract_lets +onlyGivenNames xv; refine keeps_cut (P := Keeps s0 xv) ?_ (fun _ => ?_); unfold xv; clear xv; rotate_left; clear_value xv; rotate_left)
    | with_reducible apply regBump_keeps
    | with_reducible apply stickItem_keeps)

theorem accFault_keeps {s0 : State} (s : State) (a : ArrId) (w : ItemRun) (kind tile held ents clk : Nat) (hk : Keeps s0 s) :
    Keeps s0 (accFault s a w kind tile held ents clk) := by
  unfold accFault
  repeat' (first
    | with_reducible assumption
    | (extract_lets +onlyGivenNames xv; clear_value xv)
    | with_reducible apply regSet_keeps
    | with_reducible apply schedFault_keeps)

theorem gangChecks_keeps {s0 : State} (unit : Nat) (rs : List (Nat × Nat)) (as : List ArrId) (s : State) (hk : Keeps s0 s) :
    KeepsEx s0 (gangChecks unit rs as s) := by
  unfold gangChecks
  repeat' (first
    | with_reducible assumption
    | with_reducible refine keepsEx_ok ?_
    | with_reducible exact keepsEx_error _
    | with_reducible apply setArr_keeps
    | with_reducible refine keeps_foldlE _ ?_ (fun _ _ _ => ?_)
    | split
    | with_reducible exact keepsEx_inv (by assumption))

theorem feedGang_keeps {s0 : State} (w : ItemRun) (d : TileDesc) (tile t : Nat) (lost : List (Nat × Nat)) (s : State) (hk : Keeps s0 s) :
    KeepsEx s0 (feedGang w d tile t lost s) := by
  unfold feedGang
  repeat' (first
    | with_reducible assumption
    | with_reducible refine keepsEx_ok ?_
    | with_reducible exact keepsEx_error _
    | with_reducible apply setArr_keeps
    | with_reducible refine keeps_foldlE _ ?_ (fun _ _ _ => ?_)
    | split
    | with_reducible exact keepsEx_inv (by assumption))

theorem beginOn_keeps {s0 : State} (w : ItemRun) (t : Nat) (s : State) (b : ArrId) (hk : Keeps s0 s) :
    Keeps s0 (beginOn w t s b) := by
  unfold beginOn
  repeat' (first
    | with_reducible assumption
    | (extract_lets +onlyGivenNames xv; first
      | (refine keeps_cut (P := Keeps s0 xv) ?_ (fun _ => ?_); unfold xv; clear xv; rotate_left; clear_value xv; rotate_left)
      | (refine keeps_cut (P := KeepsOpt s0 xv) ?_ (fun _ => ?_); unfold xv; clear xv; rotate_left; clear_value xv; rotate_left)
      | clear_value xv
      | (unfold xv; clear xv))
    | with_reducible apply setArr_keeps
    | split)

theorem beginGang_keeps {s0 : State} (w : ItemRun) (a : ArrId) (t : Nat) (s : State) (hk : Keeps s0 s) :
    KeepsEx s0 (beginGang w a t s) := by
  unfold beginGang
  repeat' (first
    | with_reducible assumption
    | with_reducible intro _
    | with_reducible refine keepsEx_ok ?_
    | with_reducible exact keepsEx_error _
    | with_reducible apply gangChecks_keeps
    | with_reducible apply beginOn_keeps
    | with_reducible refine keeps_foldl _ ?_ (fun _ _ _ => ?_)
    | with_reducible refine keeps_foldlP _ ?_ (fun _ _ _ => ?_)
    | with_reducible refine keeps_foldlE _ ?_ (fun _ _ _ => ?_)
    | split
    | with_reducible refine keeps_of_ok (by assumption) ?_)

theorem startOn_keeps {s0 : State} (d : TileDesc) (t : Nat) (s : State) (a : ArrId) (hk : Keeps s0 s) :
    Keeps s0 (startOn d t s a) := by
  unfold startOn
  repeat' (first
    | with_reducible assumption
    | with_reducible intro _
    | (extract_lets +onlyGivenNames xv; first
      | (refine keeps_cut (P := Keeps s0 xv) ?_ (fun _ => ?_); unfold xv; clear xv; rotate_left; clear_value xv; rotate_left)
      | (refine keeps_cut (P := KeepsOpt s0 xv) ?_ (fun _ => ?_); unfold xv; clear xv; rotate_left; clear_value xv; rotate_left)
      | clear_value xv
      | (unfold xv; clear xv))
    | with_reducible apply setArr_keeps)

theorem execTileStart_keeps {s0 : State} (a : ArrId) (t : Clk) (s : State) (hk : Keeps s0 s) :
    KeepsOut s0 (execTileStart a t s) := by
  unfold execTileStart
  repeat' (first
    | with_reducible assumption
    | (extract_lets +onlyGivenNames xv; first
      | (refine keeps_cut (P := Keeps s0 xv) ?_ (fun _ => ?_); unfold xv; clear xv; rotate_left; clear_value xv; rotate_left)
      | (refine keeps_cut (P := KeepsEx s0 xv) ?_ (fun _ => ?_); unfold xv; clear xv; rotate_left; clear_value xv; rotate_left)
      | (refine keeps_cut (P := KeepsOpt s0 xv) ?_ (fun _ => ?_); unfold xv; clear xv; rotate_left; clear_value xv; rotate_left)
      | clear_value xv
      | (unfold xv; clear xv))
    | with_reducible refine keepsEx_ok ?_
    | with_reducible exact keepsEx_error _
    | with_reducible refine keepsOut_next ?_
    | with_reducible exact keepsOut_fault _
    | with_reducible exact keepsOut_refused _
    | with_reducible apply accFault_keeps
    | with_reducible apply beginGang_keeps
    | with_reducible apply startOn_keeps
    | with_reducible apply slotFault_keeps
    | with_reducible apply feedGang_keeps
    | with_reducible refine keeps_foldl _ ?_ (fun _ _ _ => ?_)
    | with_reducible refine keeps_foldlP _ ?_ (fun _ _ _ => ?_)
    | with_reducible refine keeps_foldlE _ ?_ (fun _ _ _ => ?_)
    | split
    | with_reducible refine keeps_of_ok (by assumption) ?_)

theorem swapOn_keeps {s0 : State} (row t : Nat) (s : State) (a : ArrId) (hk : Keeps s0 s) :
    Keeps s0 (swapOn row t s a) := by
  unfold swapOn
  repeat' (first
    | with_reducible assumption
    | with_reducible intro _
    | (extract_lets +onlyGivenNames xv; first
      | (refine keeps_cut (P := Keeps s0 xv) ?_ (fun _ => ?_); unfold xv; clear xv; rotate_left; clear_value xv; rotate_left)
      | (refine keeps_cut (P := KeepsOpt s0 xv) ?_ (fun _ => ?_); unfold xv; clear xv; rotate_left; clear_value xv; rotate_left)
      | clear_value xv
      | (unfold xv; clear xv))
    | with_reducible apply setArr_keeps
    | split)

theorem execHeldSwap_keeps {s0 : State} (a : ArrId) (row : Fin 16) (t : Clk) (s : State) (hk : Keeps s0 s) :
    KeepsOut s0 (execHeldSwap a row t s) := by
  unfold execHeldSwap
  repeat' (first
    | with_reducible assumption
    | (extract_lets +onlyGivenNames xv; first
      | (refine keeps_cut (P := Keeps s0 xv) ?_ (fun _ => ?_); unfold xv; clear xv; rotate_left; clear_value xv; rotate_left)
      | (refine keeps_cut (P := KeepsEx s0 xv) ?_ (fun _ => ?_); unfold xv; clear xv; rotate_left; clear_value xv; rotate_left)
      | (refine keeps_cut (P := KeepsOpt s0 xv) ?_ (fun _ => ?_); unfold xv; clear xv; rotate_left; clear_value xv; rotate_left)
      | clear_value xv
      | (unfold xv; clear xv))
    | with_reducible refine keepsEx_ok ?_
    | with_reducible exact keepsEx_error _
    | with_reducible refine keepsOut_next ?_
    | with_reducible exact keepsOut_fault _
    | with_reducible exact keepsOut_refused _
    | with_reducible apply swapOn_keeps
    | with_reducible apply beginGang_keeps
    | with_reducible apply slotFault_keeps
    | with_reducible refine keeps_foldl _ ?_ (fun _ _ _ => ?_)
    | with_reducible refine keeps_foldlP _ ?_ (fun _ _ _ => ?_)
    | with_reducible refine keeps_foldlE _ ?_ (fun _ _ _ => ?_)
    | split
    | with_reducible refine keeps_of_ok (by assumption) ?_)

theorem issueOn_keeps {s0 : State} (w : ItemRun) (t j : Nat) (es : List Nat) (s : State) (a : ArrId) (hk : Keeps s0 s) :
    Keeps s0 (issueOn w t j es s a) := by
  unfold issueOn
  repeat' (first
    | with_reducible assumption
    | (extract_lets +onlyGivenNames xv; first
      | (refine keeps_cut (P := Keeps s0 xv) ?_ (fun _ => ?_); unfold xv; clear xv; rotate_left; clear_value xv; rotate_left)
      | clear_value xv
      | (unfold xv; clear xv))
    | with_reducible apply regBump_keeps
    | with_reducible apply setArr_keeps
    | split)

theorem loseAccess_keeps {s0 : State} (w : ItemRun) (d : TileDesc) (t : Nat) (lost : List (Nat × Nat)) (heldLost : List Nat) (s : State) (i : Nat) (hk : Keeps s0 s) :
    Keeps s0 (loseAccess w d t lost heldLost s i) := by
  unfold loseAccess
  repeat' (first
    | with_reducible assumption
    | with_reducible intro _
    | (extract_lets +onlyGivenNames xv; first
      | (refine keeps_cut (P := Keeps s0 xv) ?_ (fun _ => ?_); unfold xv; clear xv; rotate_left; clear_value xv; rotate_left)
      | clear_value xv
      | (unfold xv; clear xv))
    | with_reducible apply regBump_keeps
    | with_reducible apply setArr_keeps)

theorem execStepIssue_keeps {s0 : State} (a : ArrId) (t : Clk) (lost : StepLost) (s : State) (hk : Keeps s0 s) :
    KeepsOut s0 (execStepIssue a t lost s) := by
  unfold execStepIssue
  repeat' (first
    | with_reducible assumption
    | with_reducible intro _
    | (extract_lets +onlyGivenNames xv; first
      | (refine keeps_cut (P := Keeps s0 xv) ?_ (fun _ => ?_); unfold xv; clear xv; rotate_left; clear_value xv; rotate_left)
      | (refine keeps_cut (P := KeepsEx s0 xv) ?_ (fun _ => ?_); unfold xv; clear xv; rotate_left; clear_value xv; rotate_left)
      | (refine keeps_cut (P := KeepsOpt s0 xv) ?_ (fun _ => ?_); unfold xv; clear xv; rotate_left; clear_value xv; rotate_left)
      | clear_value xv
      | (unfold xv; clear xv))
    | with_reducible refine keepsEx_ok ?_
    | with_reducible exact keepsEx_error _
    | with_reducible refine keepsOut_next ?_
    | with_reducible exact keepsOut_fault _
    | with_reducible exact keepsOut_refused _
    | with_reducible apply loseAccess_keeps
    | with_reducible apply beginGang_keeps
    | with_reducible apply slotFault_keeps
    | with_reducible apply feedGang_keeps
    | with_reducible apply setArr_keeps
    | with_reducible apply regBump_keeps
    | with_reducible apply issueOn_keeps
    | with_reducible refine keeps_foldl _ ?_ (fun _ _ _ => ?_)
    | with_reducible refine keeps_foldlP _ ?_ (fun _ _ _ => ?_)
    | with_reducible refine keeps_foldlE _ ?_ (fun _ _ _ => ?_)
    | split
    | with_reducible refine keepsP_fst ?_
    | with_reducible refine keeps_of_ok (by assumption) ?_)

theorem execChunkUpdate_keeps {s0 : State} (a : ArrId) (row : Fin 16) (s : State) (hk : Keeps s0 s) :
    KeepsOut s0 (execChunkUpdate a row s) := by
  unfold execChunkUpdate
  repeat' (first
    | with_reducible assumption
    | (extract_lets +onlyGivenNames xv; first
      | (refine keeps_cut (P := Keeps s0 xv) ?_ (fun _ => ?_); unfold xv; clear xv; rotate_left; clear_value xv; rotate_left)
      | clear_value xv)
    | with_reducible refine keepsOut_next ?_
    | with_reducible apply countOs_keeps
    | with_reducible apply nanTrap_keeps
    | with_reducible apply setArr_keeps
    | split)

theorem execDrain_keeps {s0 : State} (a : ArrId) (t : Clk) (s : State) (hk : Keeps s0 s) :
    KeepsOut s0 (execDrain a t s) := by
  unfold execDrain
  repeat' (first
    | with_reducible assumption
    | (extract_lets +onlyGivenNames xv; clear_value xv)
    | with_reducible refine keepsOut_next ?_
    | with_reducible apply setArr_keeps
    | split)

theorem execOutputRow_keeps {s0 : State} (a : ArrId) (t : Clk) (s : State) (hk : Keeps s0 s) :
    KeepsOut s0 (execOutputRow a t s) := by
  unfold execOutputRow
  repeat' (first
    | with_reducible assumption
    | (extract_lets +onlyGivenNames xv; first
      | (refine keeps_cut (P := Keeps s0 xv) ?_ (fun _ => ?_); unfold xv; clear xv; rotate_left; clear_value xv; rotate_left)
      | clear_value xv)
    | with_reducible refine keepsOut_next ?_
    | with_reducible apply countOs_keeps
    | with_reducible apply nanTrap_keeps
    | with_reducible apply regBump_keeps
    | with_reducible apply setArr_keeps
    | with_reducible apply slotFault_keeps
    | with_reducible apply tickFree_keeps
    | split)

theorem execOutputRowWrite_keeps {s0 : State} (x : ArrAccess) (s : State) (hk : Keeps s0 s) :
    KeepsOut s0 (execOutputRowWrite x s) := by
  unfold execOutputRowWrite
  repeat' (first
    | with_reducible assumption
    | (extract_lets +onlyGivenNames xv; first
      | (refine keeps_cut (P := Keeps s0 xv) ?_ (fun _ => ?_); unfold xv; clear xv; rotate_left; clear_value xv; rotate_left)
      | clear_value xv
      | (unfold xv; clear xv))
    | with_reducible refine keepsOut_next ?_
    | with_reducible exact keepsOut_fault _
    | with_reducible exact keepsOut_refused _
    | with_reducible apply slotFault_keeps
    | with_reducible apply setArr_keeps
    | with_reducible apply spadStore_keeps
    | with_reducible apply regBump_keeps
    | with_reducible refine keepsOpt_getD ?_ ?_
    | split)

end Sys2Proof.Machine
end

