-- ==== Sys2Proof/Laws/VectorKeeps.lean ====
section
/-! SUPPORT. What the definitions of Machine/Vector.lean keep (Laws/Keeps.lean). -/

namespace Sys2Proof.Machine

theorem vfinish_keeps {s0 : State} (s : State) (a : ArrId) (v : VInstr) (o : VOut) (hk : Keeps s0 s) :
    Keeps s0 (vfinish s a v o) := by
  unfold vfinish
  repeat' (first
    | with_reducible assumption
    | (extract_lets +onlyGivenNames xv; first
      | (refine keeps_cut (P := Keeps s0 xv) ?_ (fun _ => ?_); unfold xv; clear xv; rotate_left; clear_value xv; rotate_left)
      | clear_value xv)
    | with_reducible apply disarm_keeps
    | with_reducible apply regBump_keeps
    | with_reducible apply setArr_keeps
    | with_reducible apply stickItem_keeps
    | split)

theorem vIllegal_keeps {s0 : State} (s : State) (a : ArrId) (v : VInstr) (hk : Keeps s0 s) :
    Keeps s0 (vIllegal s a v) := by
  unfold vIllegal
  repeat' (first
    | with_reducible assumption
    | with_reducible apply schedFault_keeps
    | split)

theorem vRun_keeps {s0 : State} (s : State) (a : ArrId) (v : VInstr) (legal : Bool) (o : ArrayUnit → VOut) (hk : Keeps s0 s) :
    KeepsOut s0 (vRun s a v legal o) := by
  unfold vRun
  repeat' (first
    | with_reducible assumption
    | with_reducible refine keepsOut_next ?_
    | with_reducible apply vIllegal_keeps
    | with_reducible apply vfinish_keeps
    | split)

theorem execNop_keeps {s0 : State} (a : ArrId) (v : VInstr) (s : State) (hk : Keeps s0 s) :
    KeepsOut s0 (execNop a v s) := by
  unfold execNop
  repeat' (first
    | with_reducible assumption
    | with_reducible apply vRun_keeps)

theorem execAdd_keeps {s0 : State} (a : ArrId) (v : VInstr) (s : State) (hk : Keeps s0 s) :
    KeepsOut s0 (execAdd a v s) := by
  unfold execAdd
  repeat' (first
    | with_reducible assumption
    | with_reducible apply vRun_keeps)

theorem execSub_keeps {s0 : State} (a : ArrId) (v : VInstr) (s : State) (hk : Keeps s0 s) :
    KeepsOut s0 (execSub a v s) := by
  unfold execSub
  repeat' (first
    | with_reducible assumption
    | with_reducible apply vRun_keeps)

theorem execMul_keeps {s0 : State} (a : ArrId) (v : VInstr) (s : State) (hk : Keeps s0 s) :
    KeepsOut s0 (execMul a v s) := by
  unfold execMul
  repeat' (first
    | with_reducible assumption
    | with_reducible apply vRun_keeps)

theorem execFma_keeps {s0 : State} (a : ArrId) (v : VInstr) (s : State) (hk : Keeps s0 s) :
    KeepsOut s0 (execFma a v s) := by
  unfold execFma
  repeat' (first
    | with_reducible assumption
    | with_reducible apply vRun_keeps)

theorem execMax_keeps {s0 : State} (a : ArrId) (v : VInstr) (s : State) (hk : Keeps s0 s) :
    KeepsOut s0 (execMax a v s) := by
  unfold execMax
  repeat' (first
    | with_reducible assumption
    | with_reducible apply vRun_keeps)

theorem execMin_keeps {s0 : State} (a : ArrId) (v : VInstr) (s : State) (hk : Keeps s0 s) :
    KeepsOut s0 (execMin a v s) := by
  unfold execMin
  repeat' (first
    | with_reducible assumption
    | with_reducible apply vRun_keeps)

theorem execMaxnum_keeps {s0 : State} (a : ArrId) (v : VInstr) (s : State) (hk : Keeps s0 s) :
    KeepsOut s0 (execMaxnum a v s) := by
  unfold execMaxnum
  repeat' (first
    | with_reducible assumption
    | with_reducible apply vRun_keeps)

theorem execMinnum_keeps {s0 : State} (a : ArrId) (v : VInstr) (s : State) (hk : Keeps s0 s) :
    KeepsOut s0 (execMinnum a v s) := by
  unfold execMinnum
  repeat' (first
    | with_reducible assumption
    | with_reducible apply vRun_keeps)

theorem execCmp_keeps {s0 : State} (a : ArrId) (v : VInstr) (s : State) (hk : Keeps s0 s) :
    KeepsOut s0 (execCmp a v s) := by
  unfold execCmp
  repeat' (first
    | with_reducible assumption
    | with_reducible apply vRun_keeps)

theorem execSel_keeps {s0 : State} (a : ArrId) (v : VInstr) (s : State) (hk : Keeps s0 s) :
    KeepsOut s0 (execSel a v s) := by
  unfold execSel
  repeat' (first
    | with_reducible assumption
    | with_reducible apply vRun_keeps)

theorem execSign_keeps {s0 : State} (a : ArrId) (v : VInstr) (s : State) (hk : Keeps s0 s) :
    KeepsOut s0 (execSign a v s) := by
  unfold execSign
  repeat' (first
    | with_reducible assumption
    | with_reducible apply vRun_keeps)

theorem execCvt_keeps {s0 : State} (a : ArrId) (v : VInstr) (s : State) (hk : Keeps s0 s) :
    KeepsOut s0 (execCvt a v s) := by
  unfold execCvt
  repeat' (first
    | with_reducible assumption
    | (extract_lets +onlyGivenNames xv; clear_value xv)
    | with_reducible apply vRun_keeps)

theorem execLogic_keeps {s0 : State} (a : ArrId) (v : VInstr) (s : State) (hk : Keeps s0 s) :
    KeepsOut s0 (execLogic a v s) := by
  unfold execLogic
  repeat' (first
    | with_reducible assumption
    | (extract_lets +onlyGivenNames xv; clear_value xv)
    | with_reducible apply vRun_keeps)

theorem execExp2_keeps {s0 : State} (a : ArrId) (v : VInstr) (s : State) (hk : Keeps s0 s) :
    KeepsOut s0 (execExp2 a v s) := by
  unfold execExp2
  repeat' (first
    | with_reducible assumption
    | with_reducible apply vRun_keeps)

theorem execLog2_keeps {s0 : State} (a : ArrId) (v : VInstr) (s : State) (hk : Keeps s0 s) :
    KeepsOut s0 (execLog2 a v s) := by
  unfold execLog2
  repeat' (first
    | with_reducible assumption
    | with_reducible apply vRun_keeps)

theorem execRcp_keeps {s0 : State} (a : ArrId) (v : VInstr) (s : State) (hk : Keeps s0 s) :
    KeepsOut s0 (execRcp a v s) := by
  unfold execRcp
  repeat' (first
    | with_reducible assumption
    | with_reducible apply vRun_keeps)

theorem execRsqrt_keeps {s0 : State} (a : ArrId) (v : VInstr) (s : State) (hk : Keeps s0 s) :
    KeepsOut s0 (execRsqrt a v s) := by
  unfold execRsqrt
  repeat' (first
    | with_reducible assumption
    | with_reducible apply vRun_keeps)

theorem execSigm_keeps {s0 : State} (a : ArrId) (v : VInstr) (s : State) (hk : Keeps s0 s) :
    KeepsOut s0 (execSigm a v s) := by
  unfold execSigm
  repeat' (first
    | with_reducible assumption
    | with_reducible apply vRun_keeps)

theorem execTanh_keeps {s0 : State} (a : ArrId) (v : VInstr) (s : State) (hk : Keeps s0 s) :
    KeepsOut s0 (execTanh a v s) := by
  unfold execTanh
  repeat' (first
    | with_reducible assumption
    | with_reducible apply vRun_keeps)

theorem execExpd_keeps {s0 : State} (a : ArrId) (v : VInstr) (s : State) (hk : Keeps s0 s) :
    KeepsOut s0 (execExpd a v s) := by
  unfold execExpd
  repeat' (first
    | with_reducible assumption
    | with_reducible apply vRun_keeps)

theorem execRope_keeps {s0 : State} (a : ArrId) (v : VInstr) (s : State) (hk : Keeps s0 s) :
    KeepsOut s0 (execRope a v s) := by
  unfold execRope
  repeat' (first
    | with_reducible assumption
    | (extract_lets +onlyGivenNames xv; clear_value xv)
    | with_reducible apply vRun_keeps)

theorem execQuant_keeps {s0 : State} (a : ArrId) (v : VInstr) (s : State) (hk : Keeps s0 s) :
    KeepsOut s0 (execQuant a v s) := by
  unfold execQuant
  repeat' (first
    | with_reducible assumption
    | (extract_lets +onlyGivenNames xv; clear_value xv)
    | with_reducible apply vRun_keeps)

theorem execRed_keeps {s0 : State} (a : ArrId) (v : VInstr) (s : State) (hk : Keeps s0 s) :
    KeepsOut s0 (execRed a v s) := by
  unfold execRed
  repeat' (first
    | with_reducible assumption
    | (extract_lets +onlyGivenNames xv; clear_value xv)
    | with_reducible apply vRun_keeps)

theorem execTopk_keeps {s0 : State} (a : ArrId) (v : VInstr) (s : State) (hk : Keeps s0 s) :
    KeepsOut s0 (execTopk a v s) := by
  unfold execTopk
  repeat' (first
    | with_reducible assumption
    | (extract_lets +onlyGivenNames xv; clear_value xv)
    | with_reducible apply vRun_keeps)

theorem vHeld_keeps {s0 : State} (s : State) (a : ArrId) (lost : List (Fin 32)) (hk : Keeps s0 s) :
    Keeps s0 (vHeld s a lost) := by
  unfold vHeld
  repeat' (first
    | with_reducible assumption
    | (extract_lets +onlyGivenNames xv; first
      | (refine keeps_cut (P := Keeps s0 xv) ?_ (fun _ => ?_); unfold xv; clear xv; rotate_left; clear_value xv; rotate_left)
      | clear_value xv)
    | with_reducible apply regBump_keeps
    | with_reducible apply setArr_keeps)

theorem vAccess_keeps {s0 : State} (s : State) (a : ArrId) (v : VInstr) (wr : Bool) (lost : List (Fin 32)) (f : State → ArrayUnit → List (Nat × Nat) → State) (hk : Keeps s0 s) (hf : ∀ x0 x1 x2, Keeps s0 x0 → Keeps s0 (f x0 x1 x2)) :
    KeepsOut s0 (vAccess s a v wr lost f) := by
  unfold vAccess
  repeat' (first
    | with_reducible assumption
    | with_reducible refine keepsOut_next ?_
    | with_reducible apply hf
    | with_reducible apply setArr_keeps
    | with_reducible apply slotFault_keeps
    | with_reducible apply vHeld_keeps
    | with_reducible apply vIllegal_keeps
    | split)

theorem execPsum_keeps {s0 : State} (a : ArrId) (x : VAccess) (s : State) (hk : Keeps s0 s) :
    KeepsOut s0 (execPsum a x s) := by
  unfold execPsum
  repeat' (first
    | with_reducible assumption
    | with_reducible intro _
    | (extract_lets +onlyGivenNames xv; clear_value xv)
    | with_reducible refine keepsOut_next ?_
    | with_reducible apply tickFree_keeps
    | with_reducible apply vAccess_keeps
    | with_reducible apply vIllegal_keeps
    | with_reducible apply vfinish_keeps
    | split)

theorem execLd_keeps {s0 : State} (a : ArrId) (x : VAccess) (s : State) (hk : Keeps s0 s) :
    KeepsOut s0 (execLd a x s) := by
  unfold execLd
  repeat' (first
    | with_reducible assumption
    | with_reducible intro _
    | (extract_lets +onlyGivenNames xv; clear_value xv)
    | with_reducible apply tickFree_keeps
    | with_reducible apply vAccess_keeps
    | with_reducible apply vfinish_keeps)

theorem storeRanges_keeps {s0 : State} (a : ArrId) (s : State) (xs : List (Nat × Nat)) (bs : List Byte) (hk : Keeps s0 s) :
    Keeps s0 (storeRanges a s xs bs) := by
  induction xs generalizing s bs with
  | nil => exact hk
  | cons x xs ih =>
    unfold storeRanges
    exact ih _ _ (spadStore_keeps _ _ _ _ hk)

theorem execSt_keeps {s0 : State} (a : ArrId) (x : VAccess) (s : State) (hk : Keeps s0 s) :
    KeepsOut s0 (execSt a x s) := by
  unfold execSt
  repeat' (first
    | with_reducible assumption
    | with_reducible intro _
    | (extract_lets +onlyGivenNames xv; first
      | (refine keeps_cut (P := Keeps s0 xv) ?_ (fun _ => ?_); unfold xv; clear xv; rotate_left; clear_value xv; rotate_left)
      | clear_value xv)
    | with_reducible apply storeRanges_keeps
    | with_reducible apply vAccess_keeps
    | with_reducible apply vfinish_keeps)

theorem execExpsort_keeps {s0 : State} (a : ArrId) (x : VAccess) (s : State) (hk : Keeps s0 s) :
    KeepsOut s0 (execExpsort a x s) := by
  unfold execExpsort
  repeat' (first
    | with_reducible assumption
    | (extract_lets +onlyGivenNames xv; first
      | (refine keeps_cut (P := Keeps s0 xv) ?_ (fun _ => ?_); unfold xv; clear xv; rotate_left; clear_value xv; rotate_left)
      | clear_value xv)
    | with_reducible refine keepsOut_next ?_
    | with_reducible apply regBump_keeps
    | with_reducible apply setArr_keeps
    | with_reducible apply slotFault_keeps
    | with_reducible apply spadStore_keeps
    | with_reducible apply vHeld_keeps
    | with_reducible apply vIllegal_keeps
    | with_reducible apply vfinish_keeps
    | split)

theorem execRstat_keeps {s0 : State} (a : ArrId) (v : VInstr) (s : State) (hk : Keeps s0 s) :
    KeepsOut s0 (execRstat a v s) := by
  unfold execRstat
  repeat' (first
    | with_reducible assumption
    | (extract_lets +onlyGivenNames xv; clear_value xv)
    | with_reducible refine keepsOut_next ?_
    | with_reducible apply slotFault_keeps
    | with_reducible apply tickFree_keeps
    | with_reducible apply vIllegal_keeps
    | with_reducible apply vfinish_keeps
    | split)

theorem execMpos_keeps {s0 : State} (a : ArrId) (v : VInstr) (s : State) (hk : Keeps s0 s) :
    KeepsOut s0 (execMpos a v s) := by
  unfold execMpos
  repeat' (first
    | with_reducible assumption
    | (extract_lets +onlyGivenNames xv; clear_value xv)
    | with_reducible refine keepsOut_next ?_
    | with_reducible apply vIllegal_keeps
    | with_reducible apply vRun_keeps
    | split)

theorem execMcmd_keeps {s0 : State} (a : ArrId) (v : VInstr) (s : State) (hk : Keeps s0 s) :
    KeepsOut s0 (execMcmd a v s) := by
  unfold execMcmd
  repeat' (first
    | with_reducible assumption
    | (extract_lets +onlyGivenNames xv; first
      | (refine keeps_cut (P := Keeps s0 xv) ?_ (fun _ => ?_); unfold xv; clear xv; rotate_left; clear_value xv; rotate_left)
      | clear_value xv)
    | with_reducible refine keepsOut_next ?_
    | with_reducible apply regBump_keeps
    | with_reducible apply setArr_keeps
    | with_reducible apply vIllegal_keeps
    | with_reducible apply vfinish_keeps
    | split)

theorem barInc_keeps {s0 : State} (s : State) (b : Nat) (hk : Keeps s0 s) :
    Keeps s0 (barInc s b) := by
  unfold barInc
  repeat' (first
    | with_reducible assumption
    | (extract_lets +onlyGivenNames xv; unfold xv; clear xv)
    | (simp -zeta only [↓keeps_mk]; with_reducible refine keeps_upd ?_))

theorem itemBarInc_keeps {s0 : State} (s : State) (w : ItemRun) (n : Nat) (hk : Keeps s0 s) :
    Keeps s0 (itemBarInc s w n) := by
  unfold itemBarInc
  repeat' (first
    | with_reducible assumption
    | with_reducible apply barInc_keeps
    | split)

theorem execBarinc_keeps {s0 : State} (a : ArrId) (v : VInstr) (s : State) (hk : Keeps s0 s) :
    KeepsOut s0 (execBarinc a v s) := by
  unfold execBarinc
  repeat' (first
    | with_reducible assumption
    | with_reducible refine keepsOut_next ?_
    | with_reducible apply itemBarInc_keeps
    | with_reducible apply vfinish_keeps
    | split)

theorem execMgenLoad_keeps {s0 : State} (g : Fin 8) (s : State) (hk : Keeps s0 s) :
    KeepsOut s0 (execMgenLoad g s) := by
  unfold execMgenLoad
  repeat' (first
    | with_reducible assumption
    | (extract_lets +onlyGivenNames xv; clear_value xv)
    | with_reducible refine keepsOut_next ?_
    | with_reducible apply regBump_keeps
    | split
    | (simp -zeta only [↓keeps_mk]; with_reducible refine keeps_upd ?_))

end Sys2Proof.Machine
end

