-- ==== Sys2Proof/Laws/AccessKeeps.lean ====
section
/-! SUPPORT. What the definitions of Machine/Access.lean keep (Laws/Keeps.lean). -/

namespace Sys2Proof.Machine

theorem setWork_keeps {s0 : State} (s : State) (i : Nat) (w : Work) (hk : Keeps s0 s) :
    Keeps s0 (setWork s i w) := by
  unfold setWork
  repeat' (first
    | with_reducible assumption
    | (simp -zeta only [↓keeps_mk]; with_reducible refine keeps_upd ?_))

theorem setEntry_keeps {s0 : State} (s : State) (i : Nat) (e : Entry) (hk : Keeps s0 s) : Keeps s0 (setEntry s i e) := by
  refine ⟨fun j => ⟨(hk.inv j).mem, (hk.inv j).regs, (hk.inv j).tags, ?_, (hk.inv j).part⟩, hk.queue, hk.fuses⟩
  show keysRise (if e.state = .free then eraseN i s.rqt else insertN i e s.rqt) = true
  split
  · exact keysRise_erase _ _ (hk.inv j).rqt
  · exact keysRise_insert _ _ _ (hk.inv j).rqt

theorem noteCause_keeps {s0 : State} (s : State) (i c : Nat) (hk : Keeps s0 s) :
    Keeps s0 (noteCause s i c) := by
  unfold noteCause
  repeat' (first
    | with_reducible assumption
    | (extract_lets +onlyGivenNames xv; clear_value xv)
    | with_reducible apply setWork_keeps
    | split)

theorem noteItem_keeps {s0 : State} (s : State) (w : ItemRun) (c : Nat) (hk : Keeps s0 s) :
    Keeps s0 (noteItem s w c) := by
  unfold noteItem
  repeat' (first
    | with_reducible assumption
    | with_reducible apply noteCause_keeps
    | with_reducible refine keeps_foldl _ ?_ (fun _ _ _ => ?_)
    | split)

theorem mapPage_keeps {s0 : State} (s : State) (t : LdId) (entry : Option Nat) (v : Nat) (hk : Keeps s0 s) :
    KeepsOpt s0 (mapPage s t entry v) := by
  unfold mapPage
  repeat' (first
    | with_reducible assumption
    | (extract_lets +onlyGivenNames xv; first
      | (refine keeps_cut (P := Keeps s0 xv) ?_ (fun _ => ?_); unfold xv; clear xv; rotate_left; clear_value xv; rotate_left)
      | clear_value xv)
    | with_reducible refine keepsOpt_some ?_
    | with_reducible exact keepsOpt_none
    | with_reducible apply giveFrame_keeps
    | with_reducible apply setTen_keeps
    | with_reducible apply setWork_keeps
    | split)

theorem mapRange_keeps {s0 : State} (s : State) (t : LdId) (entry : Option Nat) (v n : Nat) (hk : Keeps s0 s) :
    KeepsOpt s0 (mapRange s t entry v n) := by
  induction n generalizing s v with
  | zero => exact hk
  | succ n ih =>
    unfold mapRange
    extract_lets s'
    have hs : KeepsOpt s0 s' := by
      unfold s'
      split
      · exact hk
      · exact mapPage_keeps _ _ _ _ hk
    clear_value s'
    split
    · trivial
    · exact ih _ _ hs

theorem unmapRange_keeps {s0 : State} (s : State) (t : LdId) (v bytes : Nat) (hk : Keeps s0 s) :
    Keeps s0 (unmapRange s t v bytes) := by
  unfold unmapRange
  repeat' (first
    | with_reducible assumption
    | (extract_lets +onlyGivenNames xv; clear_value xv)
    | with_reducible apply setTag_keeps
    | with_reducible apply setTen_keeps
    | with_reducible refine keeps_foldl _ ?_ (fun _ _ _ => ?_)
    | split)

theorem rgnTranslate_keeps {s0 : State} (s : State) (op : RailOp) (t : LdId) (v n : Nat) (hk : Keeps s0 s) :
    KeepsEx s0 (rgnTranslate s op t v n) := by
  unfold rgnTranslate
  repeat' (first
    | with_reducible assumption
    | with_reducible refine keepsEx_ok ?_
    | with_reducible exact keepsEx_error _
    | with_reducible apply mapRange_keeps
    | split
    | with_reducible refine keeps_of_some (by assumption) ?_)

theorem railAccess_keeps {s0 : State} (s : State) (op : RailOp) (ctx src off n : Nat) (hk : Keeps s0 s) :
    KeepsExP s0 (railAccess s op ctx src off n) := by
  unfold railAccess
  repeat' (first
    | with_reducible assumption
    | with_reducible refine keepsP_mk ?_
    | with_reducible refine keepsExP_ok ?_
    | with_reducible exact keepsExP_error _
    | with_reducible apply rgnTranslate_keeps
    | split
    | with_reducible refine keeps_of_ok (by assumption) ?_)

theorem mereRead_keeps {s0 : State} (s : State) (dpa hint : Nat) (hk : Keeps s0 s) :
    Keeps s0 (mereRead s dpa hint) := by
  unfold mereRead
  repeat' (first
    | with_reducible assumption
    | (extract_lets +onlyGivenNames xv; first
      | (refine keeps_cut (P := Keeps s0 xv) ?_ (fun _ => ?_); unfold xv; clear xv; rotate_left; clear_value xv; rotate_left)
      | clear_value xv
      | (unfold xv; clear xv))
    | with_reducible apply disarm_keeps
    | with_reducible apply regBump_keeps
    | split
    | (simp -zeta only [↓keeps_mk]; with_reducible refine keeps_upd ?_))

theorem meterArrays_keeps {s0 : State} (s : State) (w : ItemRun) (hk : Keeps s0 s) :
    Keeps s0 (meterArrays s w) := by
  unfold meterArrays
  repeat' (first
    | with_reducible assumption
    | (extract_lets +onlyGivenNames xv; first
      | (refine keeps_cut (P := Keeps s0 xv) ?_ (fun _ => ?_); unfold xv; clear xv; rotate_left; clear_value xv; rotate_left)
      | clear_value xv
      | (unfold xv; clear xv))
    | (simp -zeta only [↓keeps_mk]; with_reducible refine keeps_upd ?_))

theorem meterItems_keeps {s0 : State} (s : State) (hk : Keeps s0 s) :
    Keeps s0 (meterItems s) := by
  unfold meterItems
  repeat' (first
    | with_reducible assumption
    | with_reducible intro _
    | with_reducible apply meterArrays_keeps
    | with_reducible refine keeps_foldl _ ?_ (fun _ _ _ => ?_)
    | with_reducible refine keeps_foldlP _ ?_ (fun _ _ _ => ?_)
    | split)

theorem retirePc_keeps {s0 : State} (s : State) (pc : Nat) (hk : Keeps s0 s) :
    Keeps s0 (retirePc s pc) := by
  unfold retirePc
  repeat' (first
    | with_reducible assumption
    | (extract_lets +onlyGivenNames xv; first
      | (refine keeps_cut (P := Keeps s0 xv) ?_ (fun _ => ?_); unfold xv; clear xv; rotate_left; clear_value xv; rotate_left)
      | clear_value xv
      | (unfold xv; clear xv))
    | with_reducible apply regFlag_keeps
    | with_reducible apply regPut_keeps
    | with_reducible apply logAt_keeps
    | with_reducible apply geoBump_keeps
    | with_reducible apply regClearBit_keeps
    | split
    | (simp -zeta only [↓keeps_mk]; with_reducible refine keeps_upd ?_))

theorem notePcErr_keeps {s0 : State} (s : State) (pc : Nat) (line : Option Nat) (n : Nat) (hk : Keeps s0 s) :
    Keeps s0 (notePcErr s pc line n) := by
  unfold notePcErr
  repeat' (first
    | with_reducible assumption
    | with_reducible intro _
    | (extract_lets +onlyGivenNames xv; first
      | (refine keeps_cut (P := Keeps s0 xv) ?_ (fun _ => ?_); unfold xv; clear xv; rotate_left; clear_value xv; rotate_left)
      | clear_value xv
      | (unfold xv; clear xv))
    | with_reducible apply retirePc_keeps
    | split
    | (simp -zeta only [↓keeps_mk]; with_reducible refine keeps_upd ?_))

theorem eccCorrect_keeps {s0 : State} (s : State) (dpa n : Nat) (hk : Keeps s0 s) :
    Keeps s0 (eccCorrect s dpa n) := by
  unfold eccCorrect
  repeat' (first
    | with_reducible assumption
    | (extract_lets +onlyGivenNames xv; first
      | (refine keeps_cut (P := Keeps s0 xv) ?_ (fun _ => ?_); unfold xv; clear xv; rotate_left; clear_value xv; rotate_left)
      | clear_value xv
      | (unfold xv; clear xv))
    | with_reducible apply logFault_keeps
    | with_reducible apply regBump_keeps
    | with_reducible apply tickFree_keeps
    | with_reducible apply notePcErr_keeps)

theorem eccPoison_keeps {s0 : State} (s : State) (dpa : Nat) (quiet : Bool) (hk : Keeps s0 s) :
    Keeps s0 (eccPoison s dpa quiet) := by
  unfold eccPoison
  repeat' (first
    | with_reducible assumption
    | (extract_lets +onlyGivenNames xv; first
      | (refine keeps_cut (P := Keeps s0 xv) ?_ (fun _ => ?_); unfold xv; clear xv; rotate_left; clear_value xv; rotate_left)
      | (refine keeps_cut (P := KeepsOpt s0 xv) ?_ (fun _ => ?_); unfold xv; clear xv; rotate_left; clear_value xv; rotate_left)
      | clear_value xv
      | (unfold xv; clear xv))
    | with_reducible apply regBump_keeps
    | with_reducible apply logFault_keeps
    | with_reducible apply tickFree_keeps
    | with_reducible apply notePcErr_keeps
    | with_reducible apply mediaEvent_keeps
    | split
    | (simp -zeta only [↓keeps_mk]; with_reducible refine keeps_upd ?_))

theorem hbmRead_keeps {s0 : State} (quiet : Bool) (s : State) (dpa : Nat) (hk : Keeps s0 s) :
    Keeps s0 (hbmRead quiet s dpa) := by
  unfold hbmRead
  repeat' (first
    | with_reducible assumption
    | with_reducible intro _
    | (extract_lets +onlyGivenNames xv; first
      | (refine keeps_cut (P := Keeps s0 xv) ?_ (fun _ => ?_); unfold xv; clear xv; rotate_left; clear_value xv; rotate_left)
      | clear_value xv
      | (unfold xv; clear xv))
    | with_reducible apply eccCorrect_keeps
    | with_reducible apply eccPoison_keeps
    | split
    | with_reducible refine keepsP_fst ?_
    | (simp -zeta only [↓keeps_mk]; with_reducible refine keeps_upd ?_))

theorem lineRead_keeps {s0 : State} (hint : Nat) (s : State) (dpa : Nat) (hk : Keeps s0 s) :
    Keeps s0 (lineRead hint s dpa) := by
  unfold lineRead
  repeat' (first
    | with_reducible assumption
    | (extract_lets +onlyGivenNames xv; first
      | (refine keeps_cut (P := Keeps s0 xv) ?_ (fun _ => ?_); unfold xv; clear xv; rotate_left; clear_value xv; rotate_left)
      | clear_value xv
      | (unfold xv; clear xv))
    | with_reducible apply hbmRead_keeps
    | with_reducible apply mereRead_keeps
    | split)

theorem workRead_keeps {s0 : State} (hint : Nat) (s : State) (dpa : Nat) (hk : Keeps s0 s) :
    Keeps s0 (workRead hint s dpa) := by
  unfold workRead
  repeat' (first
    | with_reducible assumption
    | (extract_lets +onlyGivenNames xv; first
      | (refine keeps_cut (P := Keeps s0 xv) ?_ (fun _ => ?_); unfold xv; clear xv; rotate_left; clear_value xv; rotate_left)
      | clear_value xv
      | (unfold xv; clear xv))
    | with_reducible apply hbmRead_keeps
    | with_reducible apply mereRead_keeps
    | split)

theorem memTouch_keeps {s0 : State} (s : State) (a n : Nat) (hk : Keeps s0 s) :
    Keeps s0 (memTouch s a n) := by
  unfold memTouch
  repeat' (first
    | with_reducible assumption
    | with_reducible intro _
    | with_reducible apply workRead_keeps
    | with_reducible refine keeps_foldl _ ?_ (fun _ _ _ => ?_))

theorem tvaTouch_keeps {s0 : State} (s : State) (t : LdId) (v n hint : Nat) (hk : Keeps s0 s) :
    Keeps s0 (tvaTouch s t v n hint) := by
  unfold tvaTouch
  repeat' (first
    | with_reducible assumption
    | with_reducible apply workRead_keeps
    | with_reducible refine keeps_foldl _ ?_ (fun _ _ _ => ?_))

theorem peerTouch_keeps {s0 : State} (s : State) (t : LdId) (v n : Nat) (hk : Keeps s0 s) :
    Keeps s0 (peerTouch s t v n) := by
  unfold peerTouch
  repeat' (first
    | with_reducible assumption
    | with_reducible apply lineRead_keeps
    | with_reducible refine keeps_foldl _ ?_ (fun _ _ _ => ?_))

theorem touchAll_keeps {s0 : State} (s : State) (t : LdId) (rs : List (Nat × Nat)) (hk : Keeps s0 s) :
    Keeps s0 (touchAll s t rs) := by
  unfold touchAll
  repeat' (first
    | with_reducible assumption
    | with_reducible intro _
    | with_reducible apply tvaTouch_keeps
    | with_reducible refine keeps_foldl _ ?_ (fun _ _ _ => ?_))

theorem devTouch_keeps {s0 : State} (s : State) (t : LdId) (v n : Nat) (hk : Keeps s0 s) :
    Keeps s0 (devTouch s t v n) := by
  unfold devTouch
  repeat' (first
    | with_reducible assumption
    | with_reducible apply tvaTouch_keeps)

theorem unpoison_keeps {s0 : State} (s : State) (a n : Nat) (hk : Keeps s0 s) :
    Keeps s0 (unpoison s a n) := by
  unfold unpoison
  repeat' (first
    | with_reducible assumption
    | (simp -zeta only [↓keeps_mk]; with_reducible refine keeps_upd ?_))

theorem tvaUnpoison_keeps {s0 : State} (s : State) (t : LdId) (v n : Nat) (hk : Keeps s0 s) :
    Keeps s0 (tvaUnpoison s t v n) := by
  unfold tvaUnpoison
  repeat' (first
    | with_reducible assumption
    | (extract_lets +onlyGivenNames xv; clear_value xv)
    | with_reducible apply unpoison_keeps
    | with_reducible refine keeps_foldl _ ?_ (fun _ _ _ => ?_)
    | split)

theorem tvaStore_keeps {s0 : State} (s : State) (t : LdId) (v : Nat) (bs : List Byte) (hk : Keeps s0 s) :
    Keeps s0 (tvaStore s t v bs) := by
  unfold tvaStore
  repeat' (first
    | with_reducible assumption
    | with_reducible apply piecesWrote_keeps
    | with_reducible apply tvaUnpoison_keeps
    | with_reducible apply tvaWrites_keeps)

theorem devWrite_keeps {s0 : State} (s : State) (t : LdId) (entry : Option Nat) (v : Nat) (bs : List Byte) (hk : Keeps s0 s) :
    Keeps s0 (devWrite s t entry v bs) := by
  unfold devWrite
  repeat' (first
    | with_reducible assumption
    | with_reducible apply mapRange_keeps
    | with_reducible apply tvaStore_keeps
    | split
    | with_reducible refine keeps_of_some (by assumption) ?_)

theorem damageFrame_keeps {s0 : State} (s : State) (f : Nat) (hk : Keeps s0 s) :
    Keeps s0 (damageFrame s f) := by
  unfold damageFrame
  repeat' (first
    | with_reducible assumption
    | (simp -zeta only [↓keeps_mk]; with_reducible refine keeps_upd ?_))

theorem ownDenied_keeps {s0 : State} (s : State) (code : Nat) (hk : Keeps s0 s) :
    Keeps s0 (ownDenied s code) := by
  unfold ownDenied
  repeat' (first
    | with_reducible assumption
    | (extract_lets +onlyGivenNames xv; first
      | (refine keeps_cut (P := Keeps s0 xv) ?_ (fun _ => ?_); unfold xv; clear xv; rotate_left; clear_value xv; rotate_left)
      | clear_value xv)
    | with_reducible apply regBump_keeps
    | with_reducible apply regPut_keeps)

theorem windowMiss_keeps {s0 : State} (s : State) (t : LdId) (off : Nat) (hk : Keeps s0 s) :
    Keeps s0 (windowMiss s t off) := by
  unfold windowMiss
  repeat' (first
    | with_reducible assumption
    | (extract_lets +onlyGivenNames xv; clear_value xv)
    | with_reducible apply logFault_keeps
    | with_reducible apply regBump_keeps
    | with_reducible apply tenantEvent_keeps)

end Sys2Proof.Machine
end

