-- ==== Sys2Proof/Laws/CapKeeps.lean ====
section
/-! SUPPORT. What the definitions of Machine/Cap.lean keep (Laws/Keeps.lean). -/

namespace Sys2Proof.Machine

theorem setVdd_keeps {s0 : State} (s : State) (mv : Nat) (hk : Keeps s0 s) :
    Keeps s0 (setVdd s mv) := by
  unfold setVdd
  repeat' (first
    | with_reducible assumption
    | (extract_lets +onlyGivenNames xv; clear_value xv)
    | with_reducible apply send_keeps
    | split
    | (simp -zeta only [↓keeps_mk]; with_reducible refine keeps_upd ?_))

theorem setVddOp_keeps {s0 : State} (s : State) (op : Nat) (hk : Keeps s0 s) :
    Keeps s0 (setVddOp s op) := by
  unfold setVddOp
  repeat' (first
    | with_reducible assumption
    | with_reducible apply setVdd_keeps
    | (simp -zeta only [↓keeps_mk]; with_reducible refine keeps_upd ?_))

theorem dropTrim_keeps {s0 : State} (s : State) (hk : Keeps s0 s) :
    Keeps s0 (dropTrim s) := by
  unfold dropTrim
  repeat' (first
    | with_reducible assumption
    | (extract_lets +onlyGivenNames xv; first
      | (refine keeps_cut (P := Keeps s0 xv) ?_ (fun _ => ?_); unfold xv; clear xv; rotate_left; clear_value xv; rotate_left)
      | clear_value xv
      | (unfold xv; clear xv))
    | with_reducible apply setVddOp_keeps
    | split
    | (simp -zeta only [↓keeps_mk]; with_reducible refine keeps_upd ?_))

theorem floorFlag_keeps {s0 : State} (s : State) (floor : Bool) (hk : Keeps s0 s) :
    Keeps s0 (floorFlag s floor) := by
  unfold floorFlag
  repeat' (first
    | with_reducible assumption
    | with_reducible apply regFlag_keeps
    | split)

theorem pendPair_keeps {s0 : State} (s : State) (late : Bool) (hk : Keeps s0 s) :
    Keeps s0 (pendPair s late) := by
  unfold pendPair
  repeat' (first
    | with_reducible assumption
    | (extract_lets +onlyGivenNames xv; first
      | (refine keeps_cut (P := Keeps s0 xv) ?_ (fun _ => ?_); unfold xv; clear xv; rotate_left; clear_value xv; rotate_left)
      | (refine keeps_cut (P := KeepsOpt s0 xv) ?_ (fun _ => ?_); unfold xv; clear xv; rotate_left; clear_value xv; rotate_left)
      | clear_value xv
      | (unfold xv; clear xv))
    | with_reducible apply floorFlag_keeps
    | split
    | with_reducible refine keepsP_fst ?_
    | (simp -zeta only [↓keeps_mk]; with_reducible refine keeps_upd ?_))

theorem capChange_keeps {s0 : State} (s : State) (hk : Keeps s0 s) :
    Keeps s0 (capChange s) := by
  unfold capChange
  repeat' (first
    | with_reducible assumption
    | with_reducible apply pendPair_keeps)

theorem capNow_keeps {s0 : State} (s : State) (hk : Keeps s0 s) :
    Keeps s0 (capNow s) := by
  unfold capNow
  repeat' (first
    | with_reducible assumption
    | (extract_lets +onlyGivenNames xv; first
      | (refine keeps_cut (P := Keeps s0 xv) ?_ (fun _ => ?_); unfold xv; clear xv; rotate_left; clear_value xv; rotate_left)
      | (refine keeps_cut (P := KeepsOpt s0 xv) ?_ (fun _ => ?_); unfold xv; clear xv; rotate_left; clear_value xv; rotate_left)
      | clear_value xv
      | (unfold xv; clear xv))
    | with_reducible apply floorFlag_keeps
    | with_reducible refine keepsP_fst ?_
    | (simp -zeta only [↓keeps_mk]; with_reducible refine keeps_upd ?_))

theorem capThermal_keeps {s0 : State} (s : State) (hk : Keeps s0 s) :
    Keeps s0 (capThermal s) := by
  unfold capThermal
  repeat' (first
    | with_reducible assumption
    | (extract_lets +onlyGivenNames xv; first
      | (refine keeps_cut (P := Keeps s0 xv) ?_ (fun _ => ?_); unfold xv; clear xv; rotate_left; clear_value xv; rotate_left)
      | (refine keeps_cut (P := KeepsOpt s0 xv) ?_ (fun _ => ?_); unfold xv; clear xv; rotate_left; clear_value xv; rotate_left)
      | clear_value xv
      | (unfold xv; clear xv))
    | with_reducible apply floorFlag_keeps
    | with_reducible apply pendPair_keeps
    | split
    | with_reducible refine keepsP_fst ?_
    | (simp -zeta only [↓keeps_mk]; with_reducible refine keeps_upd ?_))

end Sys2Proof.Machine
end

