-- ==== Sys2Proof/Laws/RecordsKeeps.lean ====
section
/-! SUPPORT. What the definitions of Machine/Records.lean keep (Laws/Keeps.lean). -/

namespace Sys2Proof.Machine

theorem jrnlAdd_keeps {s0 : State} (s : State) (r : JRec) (hk : Keeps s0 s) :
    Keeps s0 (jrnlAdd s r) := by
  unfold jrnlAdd
  repeat' (first
    | with_reducible assumption
    | (extract_lets +onlyGivenNames xv; clear_value xv)
    | (simp -zeta only [↓keeps_mk]; with_reducible refine keeps_upd ?_))

theorem jrnlPut_keeps {s0 : State} (s : State) (i ty : Nat) (body : List Byte) (hk : Keeps s0 s) :
    Keeps s0 (jrnlPut s i ty body) := by
  unfold jrnlPut
  repeat' (first
    | with_reducible assumption
    | (extract_lets +onlyGivenNames xv; clear_value xv)
    | with_reducible apply jrnlAdd_keeps)

theorem jrnlSubmit_keeps {s0 : State} (s : State) (i : Nat) (cont : Bool) (hk : Keeps s0 s) :
    Keeps s0 (jrnlSubmit s i cont) := by
  unfold jrnlSubmit
  repeat' (first
    | with_reducible assumption
    | (extract_lets +onlyGivenNames xv; first
      | (refine keeps_cut (P := Keeps s0 xv) ?_ (fun _ => ?_); unfold xv; clear xv; rotate_left; clear_value xv; rotate_left)
      | clear_value xv)
    | with_reducible apply jrnlPut_keeps
    | with_reducible refine keeps_foldl _ ?_ (fun _ _ _ => ?_))

theorem flushProgress_keeps {s0 : State} (s : State) (i : Nat) (hk : Keeps s0 s) :
    Keeps s0 (flushProgress s i) := by
  unfold flushProgress
  repeat' (first
    | with_reducible assumption
    | (extract_lets +onlyGivenNames xv; first
      | (refine keeps_cut (P := Keeps s0 xv) ?_ (fun _ => ?_); unfold xv; clear xv; rotate_left; clear_value xv; rotate_left)
      | clear_value xv)
    | with_reducible apply jrnlPut_keeps
    | with_reducible apply setWork_keeps
    | with_reducible refine keeps_foldl _ ?_ (fun _ _ _ => ?_)
    | split)

theorem jrnlAdmit_keeps {s0 : State} (s : State) (i : Nat) (hk : Keeps s0 s) :
    Keeps s0 (jrnlAdmit s i) := by
  unfold jrnlAdmit
  repeat' (first
    | with_reducible assumption
    | (extract_lets +onlyGivenNames xv; clear_value xv)
    | with_reducible apply jrnlPut_keeps)

theorem jrnlEnd_keeps {s0 : State} (s : State) (i : Nat) (hk : Keeps s0 s) :
    Keeps s0 (jrnlEnd s i) := by
  unfold jrnlEnd
  repeat' (first
    | with_reducible assumption
    | (extract_lets +onlyGivenNames xv; clear_value xv)
    | with_reducible apply jrnlPut_keeps
    | split)

theorem putRecord_keeps {s0 : State} (s : State) (q : Fin 128) (bs : List Byte) (compl : Bool) (hk : Keeps s0 s) :
    Keeps s0 (putRecord s q bs compl) := by
  unfold putRecord
  repeat' (first
    | with_reducible assumption
    | (extract_lets +onlyGivenNames xv; first
      | (refine keeps_cut (P := Keeps s0 xv) ?_ (fun _ => ?_); unfold xv; clear xv; rotate_left; clear_value xv; rotate_left)
      | clear_value xv)
    | with_reducible apply setQue_keeps
    | with_reducible apply tvaStore_keeps)

theorem postRecord_keeps {s0 : State} (s : State) (t : LdId) (q : Fin 128) (bs : List Byte) (compl place : Bool) (hk : Keeps s0 s) :
    Keeps s0 (postRecord s t q bs compl place) := by
  unfold postRecord
  repeat' (first
    | with_reducible assumption
    | (extract_lets +onlyGivenNames xv; first
      | (refine keeps_cut (P := Keeps s0 xv) ?_ (fun _ => ?_); unfold xv; clear xv; rotate_left; clear_value xv; rotate_left)
      | clear_value xv)
    | with_reducible apply putRecord_keeps
    | with_reducible apply setTen_keeps
    | split)

theorem drainOver_keeps {s0 : State} (s : State) (t : LdId) (q : Fin 128) (n : Nat) (hk : Keeps s0 s) :
    Keeps s0 (drainOver s t q n) := by
  induction n generalizing s with
  | zero => exact hk
  | succ n ih =>
    unfold drainOver
    dsimp only
    split
    · exact hk
    · split
      · exact hk
      · exact ih _ (putRecord_keeps _ _ _ _ (setTen_keeps _ _ _ hk))

theorem execCompletionVector_keeps {s0 : State} (q : Fin 128) (s : State) (hk : Keeps s0 s) :
    KeepsOut s0 (execCompletionVector q s) := by
  unfold execCompletionVector
  repeat' (first
    | with_reducible assumption
    | (extract_lets +onlyGivenNames xv; first
      | (refine keeps_cut (P := Keeps s0 xv) ?_ (fun _ => ?_); unfold xv; clear xv; rotate_left; clear_value xv; rotate_left)
      | clear_value xv
      | (unfold xv; clear xv))
    | with_reducible refine keepsOut_next ?_
    | with_reducible exact keepsOut_fault _
    | with_reducible exact keepsOut_refused _
    | with_reducible apply sendMsix_keeps
    | with_reducible apply setQue_keeps
    | split)

theorem execCoalTimer_keeps {s0 : State} (q : Fin 128) (s : State) (hk : Keeps s0 s) :
    KeepsOut s0 (execCoalTimer q s) := by
  unfold execCoalTimer
  repeat' (first
    | with_reducible assumption
    | (extract_lets +onlyGivenNames xv; first
      | (refine keeps_cut (P := Keeps s0 xv) ?_ (fun _ => ?_); unfold xv; clear xv; rotate_left; clear_value xv; rotate_left)
      | clear_value xv
      | (unfold xv; clear xv))
    | with_reducible refine keepsOut_next ?_
    | with_reducible exact keepsOut_fault _
    | with_reducible exact keepsOut_refused _
    | with_reducible apply sendMsix_keeps
    | with_reducible apply setQue_keeps
    | split)

theorem dbReject_keeps {s0 : State} (s : State) (t : LdId) (slot : Fin 8) (hk : Keeps s0 s) :
    Keeps s0 (dbReject s t slot) := by
  unfold dbReject
  repeat' (first
    | with_reducible assumption
    | with_reducible apply sendMsix_keeps
    | with_reducible apply setTen_keeps)

theorem execSqTail_keeps {s0 : State} (ld : LdId) (slot : Fin 8) (val : Reg64) (s : State) (hk : Keeps s0 s) :
    KeepsOut s0 (execSqTail ld slot val s) := by
  unfold execSqTail
  repeat' (first
    | with_reducible assumption
    | (extract_lets +onlyGivenNames xv; clear_value xv)
    | with_reducible refine keepsOut_next ?_
    | with_reducible apply dbReject_keeps
    | with_reducible apply setQue_keeps
    | split)

theorem execCqHead_keeps {s0 : State} (ld : LdId) (slot : Fin 8) (val : Reg64) (s : State) (hk : Keeps s0 s) :
    KeepsOut s0 (execCqHead ld slot val s) := by
  unfold execCqHead
  repeat' (first
    | with_reducible assumption
    | (extract_lets +onlyGivenNames xv; first
      | (refine keeps_cut (P := Keeps s0 xv) ?_ (fun _ => ?_); unfold xv; clear xv; rotate_left; clear_value xv; rotate_left)
      | clear_value xv)
    | with_reducible refine keepsOut_next ?_
    | with_reducible apply dbReject_keeps
    | with_reducible apply drainOver_keeps
    | with_reducible apply setQue_keeps
    | split)

end Sys2Proof.Machine
end

