-- ==== Sys2Proof/Laws/BookingKeeps.lean ====
section
/-! SUPPORT. What the definitions of Machine/Booking.lean keep (Laws/Keeps.lean). -/

namespace Sys2Proof.Machine

theorem pageRef_keeps {s0 : State} (s : State) (t tva : Nat) (hk : Keeps s0 s) :
    Keeps s0 (pageRef s t tva) := by
  unfold pageRef
  repeat' (first
    | with_reducible assumption
    | (simp -zeta only [↓keeps_mk]; with_reducible refine keeps_upd ?_))

theorem unmapPage_keeps {s0 : State} (s : State) (t tva log2 : Nat) (hk : Keeps s0 s) :
    Keeps s0 (unmapPage s t tva log2) := by
  unfold unmapPage
  repeat' (first
    | with_reducible assumption
    | (extract_lets +onlyGivenNames xv; clear_value xv)
    | with_reducible apply unmapRange_keeps
    | split)

theorem pageDrop_keeps {s0 : State} (s : State) (t : Nat) (now : Bool) (tva : Nat) (hk : Keeps s0 s) :
    Keeps s0 (pageDrop s t now tva) := by
  unfold pageDrop
  repeat' (first
    | with_reducible assumption
    | with_reducible apply unmapPage_keeps
    | split
    | (simp -zeta only [↓keeps_mk]; with_reducible refine keeps_upd ?_))

theorem reapPages_keeps {s0 : State} (s : State) (hk : Keeps s0 s) :
    Keeps s0 (reapPages s) := by
  unfold reapPages
  repeat' (first
    | with_reducible assumption
    | with_reducible apply unmapPage_keeps
    | with_reducible refine keeps_foldl _ ?_ (fun _ _ _ => ?_)
    | (simp -zeta only [↓keeps_mk]; with_reducible refine keeps_upd ?_))

theorem kvTake_keeps {s0 : State} (s : State) (t : LdId) (size : Nat) (hk : Keeps s0 s) :
    KeepsP s0 (kvTake s t size) := by
  unfold kvTake
  repeat' (first
    | with_reducible assumption
    | (extract_lets +onlyGivenNames xv; clear_value xv)
    | with_reducible refine keepsP_mk ?_
    | with_reducible apply setTen_keeps)

theorem newPages_keeps {s0 : State} (s : State) (t : LdId) (layers log2 : Nat) (hk : Keeps s0 s) :
    KeepsP s0 (newPages s t layers log2) := by
  unfold newPages
  refine keeps_foldlP _ hk (fun x _ hx => ?_)
  extract_lets r r'
  have hr : KeepsP s0 r := kvTake_keeps x.1 t (2 ^ log2) hx
  have hr' : Keeps s0 r'.1 := by
    unfold r'
    split
    · exact tvaStore_keeps _ _ _ _ hr
    · exact hr
  clear_value r'
  exact keepsP_mk (keeps_same hr' rfl rfl rfl rfl rfl rfl)

theorem writeRow_keeps {s0 : State} (s : State) (i b : Nat) (k : Block) (hk : Keeps s0 s) :
    Keeps s0 (writeRow s i b k) := by
  unfold writeRow
  repeat' (first
    | with_reducible assumption
    | (extract_lets +onlyGivenNames xv; first
      | (refine keeps_cut (P := Keeps s0 xv) ?_ (fun _ => ?_); unfold xv; clear xv; rotate_left; clear_value xv; rotate_left)
      | clear_value xv)
    | with_reducible apply devWrite_keeps
    | with_reducible refine keeps_foldl _ ?_ (fun _ _ _ => ?_))

theorem writeBlock_keeps {s0 : State} (s : State) (i b : Nat) (hk : Keeps s0 s) :
    Keeps s0 (writeBlock s i b) := by
  unfold writeBlock
  repeat' (first
    | with_reducible assumption
    | with_reducible apply writeRow_keeps)

theorem writeAbsent_keeps {s0 : State} (s : State) (i b layers : Nat) (hk : Keeps s0 s) :
    Keeps s0 (writeAbsent s i b layers) := by
  unfold writeAbsent
  repeat' (first
    | with_reducible assumption
    | with_reducible apply writeRow_keeps)

theorem putBlock_keeps {s0 : State} (s : State) (i b : Nat) (k : Block) (hk : Keeps s0 s) :
    Keeps s0 (putBlock s i b k) := by
  unfold putBlock
  repeat' (first
    | with_reducible assumption
    | (extract_lets +onlyGivenNames xv; clear_value xv)
    | with_reducible apply setWork_keeps
    | with_reducible apply writeBlock_keeps)

theorem ensureBlocks_keeps {s0 : State} (s : State) (i upto : Nat) (hk : Keeps s0 s) : Keeps s0 (ensureBlocks s i upto) := by
  unfold ensureBlocks
  extract_lets e m
  refine keeps_foldl _ hk (fun s b hs => ?_)
  extract_lets w
  split
  · exact putBlock_keeps _ _ _ _ (newPages_keeps s (ldId e.ld) m.layers m.pageLog2 hs)
  · exact hs

theorem setValid_keeps {s0 : State} (s : State) (i len : Nat) (hk : Keeps s0 s) :
    Keeps s0 (setValid s i len) := by
  unfold setValid
  repeat' (first
    | with_reducible assumption
    | (extract_lets +onlyGivenNames xv; clear_value xv)
    | with_reducible apply putBlock_keeps
    | with_reducible refine keeps_foldl _ ?_ (fun _ _ _ => ?_)
    | split)

theorem writeMarks_keeps {s0 : State} (s : State) (i lo up : Nat) (hk : Keeps s0 s) :
    Keeps s0 (writeMarks s i lo up) := by
  unfold writeMarks
  repeat' (first
    | with_reducible assumption
    | (extract_lets +onlyGivenNames xv; clear_value xv)
    | with_reducible apply setWork_keeps)

theorem openBlocks_keeps {s0 : State} (s : State) (i lo up : Nat) (hk : Keeps s0 s) :
    Keeps s0 (openBlocks s i lo up) := by
  unfold openBlocks
  repeat' (first
    | with_reducible assumption
    | with_reducible apply ensureBlocks_keeps
    | with_reducible apply writeMarks_keeps)

theorem clearBlock_keeps {s0 : State} (s : State) (i b : Nat) (hk : Keeps s0 s) :
    Keeps s0 (clearBlock s i b) := by
  unfold clearBlock
  repeat' (first
    | with_reducible assumption
    | (extract_lets +onlyGivenNames xv; clear_value xv)
    | with_reducible apply setWork_keeps
    | with_reducible apply writeBlock_keeps
    | split)

theorem dropBlocks_keeps {s0 : State} (s : State) (i b : Nat) (hk : Keeps s0 s) :
    Keeps s0 (dropBlocks s i b) := by
  unfold dropBlocks
  repeat' (first
    | with_reducible assumption
    | (extract_lets +onlyGivenNames xv; first
      | (refine keeps_cut (P := Keeps s0 xv) ?_ (fun _ => ?_); unfold xv; clear xv; rotate_left; clear_value xv; rotate_left)
      | clear_value xv)
    | with_reducible apply clearBlock_keeps
    | with_reducible apply pageDrop_keeps
    | with_reducible apply setWork_keeps
    | with_reducible refine keeps_foldl _ ?_ (fun _ _ _ => ?_))

theorem dropNodes_keeps {s0 : State} (s : State) (ns : List Nat) (hk : Keeps s0 s) :
    Keeps s0 (dropNodes s ns) := by
  unfold dropNodes
  repeat' (first
    | with_reducible assumption
    | (simp -zeta only [↓keeps_mk]; with_reducible refine keeps_upd ?_))

theorem descPlace_keeps {s0 : State} (s : State) (t : LdId) (image layers : Nat) (hk : Keeps s0 s) :
    KeepsP s0 (descPlace s t image layers) := by
  unfold descPlace
  extract_lets
  split
  · exact hk
  · exact kvTake_keeps _ _ _ hk

theorem linkNode_keeps {s0 : State} (s : State) (n : Node) (hk : Keeps s0 s) :
    Keeps s0 (linkNode s n) := by
  unfold linkNode
  repeat' (first
    | with_reducible assumption
    | (extract_lets +onlyGivenNames xv; clear_value xv)
    | (simp -zeta only [↓keeps_mk]; with_reducible refine keeps_upd ?_))

theorem unlinkNode_keeps {s0 : State} (s : State) (n : Node) (hk : Keeps s0 s) :
    Keeps s0 (unlinkNode s n) := by
  unfold unlinkNode
  repeat' (first
    | with_reducible assumption
    | (extract_lets +onlyGivenNames xv; clear_value xv)
    | (simp -zeta only [↓keeps_mk]; with_reducible refine keeps_upd ?_))

theorem dropNode_keeps {s0 : State} (s : State) (n : Node) (hk : Keeps s0 s) :
    Keeps s0 (dropNode s n) := by
  unfold dropNode
  repeat' (first
    | with_reducible assumption
    | with_reducible intro _
    | (extract_lets +onlyGivenNames xv; first
      | (refine keeps_cut (P := Keeps s0 xv) ?_ (fun _ => ?_); unfold xv; clear xv; rotate_left; clear_value xv; rotate_left)
      | clear_value xv
      | (unfold xv; clear xv))
    | with_reducible apply unlinkNode_keeps
    | with_reducible apply unmapRange_keeps
    | with_reducible apply pageDrop_keeps
    | with_reducible refine keeps_foldl _ ?_ (fun _ _ _ => ?_)
    | with_reducible refine keeps_foldlP _ ?_ (fun _ _ _ => ?_)
    | split)

theorem removeNode_keeps {s0 : State} (s : State) (n : Node) (hk : Keeps s0 s) :
    Keeps s0 (removeNode s n) := by
  unfold removeNode
  repeat' (first
    | with_reducible assumption
    | with_reducible apply regBump_keeps
    | with_reducible apply dropNode_keeps)

theorem removeSubtree_keeps {s0 : State} (n : Nat) (s : State) (i : Nat) (hk : Keeps s0 s) :
    Keeps s0 (removeSubtree n s i) := by
  induction n generalizing s i with
  | zero => exact hk
  | succ n ih =>
    unfold removeSubtree
    split
    · exact hk
    · exact removeNode_keeps _ _ (keeps_foldl _ hk (fun t x ht => ih t x.idx ht))

theorem evictWhere_keeps {s0 : State} (s : State) (p : Node → Bool) (hk : Keeps s0 s) :
    Keeps s0 (evictWhere s p) := by
  unfold evictWhere
  repeat' (first
    | with_reducible assumption
    | with_reducible apply removeSubtree_keeps
    | with_reducible refine keeps_foldl _ ?_ (fun _ _ _ => ?_))

theorem insertNode_keeps {s0 : State} (s : State) (i b : Nat) (parent : Option Nat) (toks : List Nat) (hk : Keeps s0 s) :
    Keeps s0 (insertNode s i b parent toks) := by
  unfold insertNode
  extract_lets +onlyGivenNames e k blk
  split
  · exact hk
  · extract_lets full s'
    have hs : KeepsOpt s0 s' := by
      unfold s'
      split
      · split
        · exact removeNode_keeps _ _ hk
        · trivial
      · exact hk
    clear_value s'
    split
    · exact regBump_keeps _ _ _ hk
    · rename_i s2
      have h2 : Keeps s0 s2 := hs
      extract_lets idx r s3 s4 blk2 s5
      have h3 : Keeps s0 s3 := linkNode_keeps _ _ (descPlace_keeps _ _ _ _ h2)
      have h4 : Keeps s0 s4 := keeps_foldl _ h3 (fun _ _ h => pageRef_keeps _ _ _ h)
      have h5 : Keeps s0 s5 := piecesWrote_keeps _ _ h4
      exact putBlock_keeps _ _ _ _ (devWrite_keeps _ _ _ _ _ h5)

theorem poolEvict_keeps {s0 : State} (k : Nat) (s : State) (t n : Nat) (hk : Keeps s0 s) :
    KeepsP s0 (poolEvict k s t n) := by
  induction k generalizing s with
  | zero => exact hk
  | succ k ih =>
    unfold poolEvict
    split
    · exact hk
    · split
      · exact hk
      · exact ih _ (removeNode_keeps _ _ hk)

/-- The state that a fit answer carries keeps. -/
def KeepsFit (s0 : State) : Fit → Prop
  | .fits s _ _ _ _ => Keeps s0 s
  | .refuse s _ _ => Keeps s0 s

theorem keepsFit_refuse {s0 s : State} {b : Option Nat} {p : Bool} (h : KeepsFit s0 (.refuse s b p)) : Keeps s0 s := h
theorem keepsFit_fits {s0 s : State} {p : Nat} {c : List Nat} {l : List LaneFurrow} {q : Nat}
    (h : KeepsFit s0 (.fits s p c l q)) : Keeps s0 s := h

theorem admitPlans_keeps {s0 : State} (f i : Nat) (e : Entry) (n idx : Nat) (s : State) (best : Option Nat) (pool : Bool)
    (hk : Keeps s0 s) : KeepsFit s0 (admitPlans f i e n idx s best pool) := by
  induction n generalizing s idx best pool with
  | zero => exact hk
  | succ n ih =>
    have h2 := fun a b => poolEvict_keeps (s0 := s0) (s.nodes.length + 1) s a b hk
    simp only [admitPlans]
    repeat' split
    all_goals first
      | exact ih _ _ _ _ hk
      | exact ih _ _ _ _ (h2 _ _)
      | exact h2 _ _

theorem bookSeat_keeps {s0 : State} (s : State) (i : Nat) (e : Entry) (m : ModelInfo) (p : Plan) (rp g : Nat) (hk : Keeps s0 s) :
    KeepsOpt s0 (bookSeat s i e m p rp g) := by
  unfold bookSeat
  repeat' (first
    | with_reducible assumption
    | (extract_lets +onlyGivenNames xv; clear_value xv)
    | with_reducible refine keepsOpt_some ?_
    | with_reducible exact keepsOpt_none
    | split
    | (simp -zeta only [↓keeps_mk]; with_reducible refine keeps_upd ?_))

theorem bookSeats_keeps {s0 : State} (i : Nat) (e : Entry) (m : ModelInfo) (p : Plan) (rp n g : Nat) (s : State)
    (hk : Keeps s0 s) : KeepsOpt s0 (bookSeats i e m p rp n g s) := by
  induction n generalizing s g with
  | zero => exact hk
  | succ n ih =>
    unfold bookSeats
    split
    · exact ih _ _ (keeps_of_some (by assumption) (bookSeat_keeps _ _ _ _ _ _ _ hk))
    · trivial

theorem tailSearch_keeps {s0 : State} (s : State) (i : Nat) (e : Entry) (m : ModelInfo) (p : Plan)
    (rp c need n start : Nat) (hk : Keeps s0 s) : KeepsExP s0 (tailSearch s i e m p rp c need n start) := by
  induction n generalizing start with
  | zero => trivial
  | succ n ih =>
    unfold tailSearch
    split
    · trivial
    · split
      · exact keeps_of_some (by assumption) (bookSeats_keeps _ _ _ _ _ _ _ _ hk)
      · exact ih _

theorem bookTail_keeps {s0 : State} (s : State) (i : Nat) (e : Entry) (q c : Nat) (hk : Keeps s0 s) :
    KeepsExP s0 (bookTail s i e q c) := by
  unfold bookTail
  repeat' (first
    | with_reducible assumption
    | (extract_lets +onlyGivenNames xv; clear_value xv)
    | with_reducible refine keepsP_mk ?_
    | with_reducible refine keepsExP_ok ?_
    | with_reducible exact keepsExP_error _
    | with_reducible apply tailSearch_keeps
    | split)

end Sys2Proof.Machine
end

