-- ==== Sys2Proof/Laws/NetKeeps.lean ====
section
/-! SUPPORT. What the definitions of Machine/Net.lean keep (Laws/Keeps.lean). -/

namespace Sys2Proof.Machine

theorem sendFrame_keeps {s0 : State} (s : State) (p : PortId) (fseq : BitVec 12) (nak idle : Bool) (b : TxBody) (hk : Keeps s0 s) :
    Keeps s0 (sendFrame s p fseq nak idle b) := by
  unfold sendFrame
  repeat' (first
    | with_reducible assumption
    | (extract_lets +onlyGivenNames xv; first
      | (refine keeps_cut (P := Keeps s0 xv) ?_ (fun _ => ?_); unfold xv; clear xv; rotate_left; clear_value xv; rotate_left)
      | clear_value xv)
    | with_reducible apply regBump_keeps
    | with_reducible apply send_keeps
    | with_reducible apply setPort_keeps)

theorem pumpPort_keeps {s0 : State} (p : PortId) (n : Nat) (s : State) (hk : Keeps s0 s) : Keeps s0 (pumpPort p n s) := by
  induction n generalizing s with
  | zero => exact hk
  | succ n ih =>
    unfold pumpPort
    dsimp only
    split
    · exact hk
    · split
      · exact hk
      · exact ih _ (sendFrame_keeps _ _ _ _ _ _ (setPort_keeps _ _ _ hk))

theorem portSend_keeps {s0 : State} (s : State) (p : PortId) (vc : Bool) (bs : List Byte) (hk : Keeps s0 s) :
    Keeps s0 (portSend s p vc bs) := by
  unfold portSend
  repeat' (first
    | with_reducible assumption
    | (extract_lets +onlyGivenNames xv; clear_value xv)
    | with_reducible apply pumpPort_keeps
    | with_reducible apply setPort_keeps)

theorem setPeer_keeps {s0 : State} (s : State) (n : NodeId) (p : Peer) (hk : Keeps s0 s) :
    Keeps s0 (setPeer s n p) := by
  unfold setPeer
  repeat' (first
    | with_reducible assumption
    | (simp -zeta only [↓keeps_mk]; with_reducible refine keeps_upd ?_))

theorem setFlow_keeps {s0 : State} (s : State) (f : Flow) (hk : Keeps s0 s) :
    Keeps s0 (setFlow s f) := by
  unfold setFlow
  repeat' (first
    | with_reducible assumption
    | split
    | (simp -zeta only [↓keeps_mk]; with_reducible refine keeps_upd ?_))

theorem flowBytes_keeps {s0 : State} (s : State) (f : Flow) (bs : List Byte) (hk : Keeps s0 s) :
    Keeps s0 (flowBytes s f bs) := by
  unfold flowBytes
  repeat' (first
    | with_reducible assumption
    | with_reducible apply portSend_keeps
    | split)

theorem flowPut_keeps {s0 : State} (s : State) (f : Flow) (x : TxPacket) (hk : Keeps s0 s) :
    Keeps s0 (flowPut s f x) := by
  unfold flowPut
  repeat' (first
    | with_reducible assumption
    | (extract_lets +onlyGivenNames xv; first
      | (refine keeps_cut (P := Keeps s0 xv) ?_ (fun _ => ?_); unfold xv; clear xv; rotate_left; clear_value xv; rotate_left)
      | clear_value xv
      | (unfold xv; clear xv))
    | with_reducible apply setFlow_keeps
    | with_reducible apply send_keeps
    | with_reducible apply meterCtx_keeps
    | with_reducible apply flowBytes_keeps)

theorem flowSend_keeps {s0 : State} (s : State) (f : Flow) (x : TxPacket) (hk : Keeps s0 s) :
    Keeps s0 (flowSend s f x) := by
  unfold flowSend
  repeat' (first
    | with_reducible assumption
    | with_reducible apply setFlow_keeps
    | with_reducible apply flowPut_keeps
    | split)

theorem pumpFlow_keeps {s0 : State} (n : NodeId) (ctx fl k : Nat) (s : State) (hk : Keeps s0 s) :
    Keeps s0 (pumpFlow n ctx fl k s) := by
  induction k generalizing s with
  | zero => exact hk
  | succ k ih =>
    unfold pumpFlow
    split
    · exact hk
    · split
      · exact hk
      · split
        · exact hk
        · exact ih _ (flowSend_keeps _ _ _ (setFlow_keeps _ _ hk))

theorem flowReply_keeps {s0 : State} (s : State) (f : Flow) (ty addr : Nat) (hk : Keeps s0 s) :
    Keeps s0 (flowReply s f ty addr) := by
  unfold flowReply
  repeat' (first
    | with_reducible assumption
    | (extract_lets +onlyGivenNames xv; first
      | (refine keeps_cut (P := Keeps s0 xv) ?_ (fun _ => ?_); unfold xv; clear xv; rotate_left; clear_value xv; rotate_left)
      | (refine keeps_cut (P := KeepsOpt s0 xv) ?_ (fun _ => ?_); unfold xv; clear xv; rotate_left; clear_value xv; rotate_left)
      | clear_value xv
      | (unfold xv; clear xv))
    | with_reducible apply send_keeps
    | with_reducible apply flowBytes_keeps
    | with_reducible apply setFlow_keeps
    | split)

theorem sendCtl_keeps {s0 : State} (s : State) (n : NodeId) (code : Nat) (body : List Byte) (hk : Keeps s0 s) :
    Keeps s0 (sendCtl s n code body) := by
  unfold sendCtl
  repeat' (first
    | with_reducible assumption
    | (extract_lets +onlyGivenNames xv; first
      | (refine keeps_cut (P := Keeps s0 xv) ?_ (fun _ => ?_); unfold xv; clear xv; rotate_left; clear_value xv; rotate_left)
      | (refine keeps_cut (P := KeepsOpt s0 xv) ?_ (fun _ => ?_); unfold xv; clear xv; rotate_left; clear_value xv; rotate_left)
      | clear_value xv
      | (unfold xv; clear xv))
    | with_reducible apply send_keeps
    | with_reducible apply flowPut_keeps
    | with_reducible apply flowSend_keeps
    | split
    | (simp -zeta only [↓keeps_mk]; with_reducible refine keeps_upd ?_))

theorem flushCtl_keeps {s0 : State} (s : State) (n : NodeId) (hk : Keeps s0 s) :
    Keeps s0 (flushCtl s n) := by
  unfold flushCtl
  repeat' (first
    | with_reducible assumption
    | with_reducible intro _
    | (extract_lets +onlyGivenNames xv; first
      | (refine keeps_cut (P := Keeps s0 xv) ?_ (fun _ => ?_); unfold xv; clear xv; rotate_left; clear_value xv; rotate_left)
      | clear_value xv
      | (unfold xv; clear xv))
    | with_reducible apply sendCtl_keeps
    | with_reducible refine keeps_foldl _ ?_ (fun _ _ _ => ?_)
    | with_reducible refine keeps_foldlP _ ?_ (fun _ _ _ => ?_)
    | with_reducible refine keepsP_fst ?_
    | (simp -zeta only [↓keeps_mk]; with_reducible refine keeps_upd ?_))

theorem askFlow_keeps {s0 : State} (s : State) (f : Flow) (hk : Keeps s0 s) :
    Keeps s0 (askFlow s f) := by
  unfold askFlow
  repeat' (first
    | with_reducible assumption
    | with_reducible apply sendCtl_keeps
    | with_reducible apply setFlow_keeps)

theorem openFlow_keeps {s0 : State} (s : State) (n : NodeId) (ctx p : Nat) (hk : Keeps s0 s) :
    Keeps s0 (openFlow s n ctx p) := by
  unfold openFlow
  repeat' (first
    | with_reducible assumption
    | with_reducible apply askFlow_keeps
    | with_reducible apply tickFree_keeps
    | split)

theorem raileSend_keeps {s0 : State} (s : State) (n : NodeId) (ctx : Nat) (x : TxPacket) (hk : Keeps s0 s) :
    Keeps s0 (raileSend s n ctx x) := by
  unfold raileSend
  repeat' (first
    | with_reducible assumption
    | (extract_lets +onlyGivenNames xv; first
      | (refine keeps_cut (P := Keeps s0 xv) ?_ (fun _ => ?_); unfold xv; clear xv; rotate_left; clear_value xv; rotate_left)
      | clear_value xv)
    | with_reducible apply flowSend_keeps
    | with_reducible apply openFlow_keeps
    | with_reducible refine keeps_foldl _ ?_ (fun _ _ _ => ?_)
    | split)

theorem useOp_keeps {s0 : State} (s : State) (hk : Keeps s0 s) :
    Keeps s0 (useOp s) := by
  unfold useOp
  repeat' (first
    | with_reducible assumption
    | (simp -zeta only [↓keeps_mk]; with_reducible refine keeps_upd ?_))

theorem sendWrite_keeps {s0 : State} (s : State) (ctx addr op : Nat) (last : Bool) (bs : List Byte) (hk : Keeps s0 s) :
    Keeps s0 (sendWrite s ctx addr op last bs) := by
  unfold sendWrite
  repeat' (first
    | with_reducible assumption
    | with_reducible apply raileSend_keeps)

theorem sendWrites_keeps {s0 : State} (ctx op k addr : Nat) (bs : List Byte) (s : State) (hk : Keeps s0 s) :
    Keeps s0 (sendWrites ctx op k addr bs s) := by
  induction k generalizing s addr bs with
  | zero => exact hk
  | succ k ih =>
    unfold sendWrites
    dsimp only
    split
    · exact sendWrite_keeps _ _ _ _ _ _ hk
    · exact ih _ _ _ (sendWrite_keeps _ _ _ _ _ _ hk)

theorem sendReadReq_keeps {s0 : State} (s : State) (ctx addr op n : Nat) (hk : Keeps s0 s) :
    Keeps s0 (sendReadReq s ctx addr op n) := by
  unfold sendReadReq
  repeat' (first
    | with_reducible assumption
    | with_reducible apply raileSend_keeps)

theorem issueAtomic_keeps {s0 : State} (s : State) (ctx addr operand compare : Nat) (fadd : Bool) (hk : Keeps s0 s) :
    Keeps s0 (issueAtomic s ctx addr operand compare fadd) := by
  unfold issueAtomic
  repeat' (first
    | with_reducible assumption
    | (extract_lets +onlyGivenNames xv; first
      | (refine keeps_cut (P := Keeps s0 xv) ?_ (fun _ => ?_); unfold xv; clear xv; rotate_left; clear_value xv; rotate_left)
      | clear_value xv)
    | with_reducible apply raileSend_keeps
    | with_reducible apply useOp_keeps
    | (simp -zeta only [↓keeps_mk]; with_reducible refine keeps_upd ?_))

theorem sendPlain_keeps {s0 : State} (s : State) (n : NodeId) (code : Nat) (body : List Byte) (hk : Keeps s0 s) :
    Keeps s0 (sendPlain s n code body) := by
  unfold sendPlain
  repeat' (first
    | with_reducible assumption
    | (extract_lets +onlyGivenNames xv; clear_value xv)
    | with_reducible apply portSend_keeps
    | split)

theorem sendHello_keeps {s0 : State} (s : State) (n : NodeId) (ackB : Bool) (nonce echo : List Byte) (hk : Keeps s0 s) :
    Keeps s0 (sendHello s n ackB nonce echo) := by
  unfold sendHello
  repeat' (first
    | with_reducible assumption
    | (extract_lets +onlyGivenNames xv; clear_value xv)
    | with_reducible apply send_keeps
    | with_reducible apply sendPlain_keeps)

theorem sendBye_keeps {s0 : State} (s : State) (n : NodeId) (hk : Keeps s0 s) :
    Keeps s0 (sendBye s n) := by
  unfold sendBye
  repeat' (first
    | with_reducible assumption
    | (extract_lets +onlyGivenNames xv; first
      | (refine keeps_cut (P := Keeps s0 xv) ?_ (fun _ => ?_); unfold xv; clear xv; rotate_left; clear_value xv; rotate_left)
      | clear_value xv
      | (unfold xv; clear xv))
    | with_reducible apply sendPlain_keeps
    | with_reducible apply send_keeps
    | with_reducible apply tickFree_keeps)

theorem byeAll_keeps {s0 : State} (s : State) (hk : Keeps s0 s) :
    Keeps s0 (byeAll s) := by
  unfold byeAll
  repeat' (first
    | with_reducible assumption
    | with_reducible apply sendBye_keeps
    | with_reducible refine keeps_foldl _ ?_ (fun _ _ _ => ?_))

theorem stopItem_keeps {s0 : State} (s : State) (id why cause : Nat) (hk : Keeps s0 s) :
    Keeps s0 (stopItem s id why cause) := by
  unfold stopItem
  repeat' (first
    | with_reducible assumption
    | with_reducible apply haltItem_keeps
    | split)

theorem stopAll_keeps {s0 : State} (s : State) (cause : Nat) (hk : Keeps s0 s) :
    Keeps s0 (stopAll s cause) := by
  unfold stopAll
  repeat' (first
    | with_reducible assumption
    | with_reducible apply stopItem_keeps
    | with_reducible refine keeps_foldl _ ?_ (fun _ _ _ => ?_))

theorem logItem_keeps {s0 : State} (s : State) (w : ItemRun) (cls source unit code : Nat) (hk : Keeps s0 s) :
    Keeps s0 (logItem s w cls source unit code) := by
  unfold logItem
  repeat' (first
    | with_reducible assumption
    | with_reducible apply logFault_keeps)

theorem haltDevice_keeps {s0 : State} (s : State) (source unit code : Nat) (hk : Keeps s0 s) :
    Keeps s0 (haltDevice s source unit code) := by
  unfold haltDevice
  repeat' (first
    | with_reducible assumption
    | (extract_lets +onlyGivenNames xv; first
      | (refine keeps_cut (P := Keeps s0 xv) ?_ (fun _ => ?_); unfold xv; clear xv; rotate_left; clear_value xv; rotate_left)
      | clear_value xv
      | (unfold xv; clear xv))
    | with_reducible apply stopAll_keeps
    | with_reducible apply byeAll_keeps
    | with_reducible apply logAt_keeps
    | with_reducible apply raiseIbi_keeps
    | with_reducible apply regFlag_keeps
    | with_reducible apply sendMsix_keeps
    | split)

theorem reservedDpa_keeps {s0 : State} (s : State) (unit : Nat) (hk : Keeps s0 s) :
    Keeps s0 (reservedDpa s unit) := by
  unfold reservedDpa
  repeat' (first
    | with_reducible assumption
    | with_reducible apply haltDevice_keeps
    | with_reducible apply tickFree_keeps)

theorem applyNotify_keeps {s0 : State} (s : State) (role : BitVec 24) (furrow bar : Nat) (hk : Keeps s0 s) :
    Keeps s0 (applyNotify s role furrow bar) := by
  unfold applyNotify
  repeat' (first
    | with_reducible assumption
    | (extract_lets +onlyGivenNames xv; clear_value xv)
    | with_reducible apply itemBarInc_keeps
    | with_reducible apply regBump_keeps
    | split
    | (simp -zeta only [↓keeps_mk]; with_reducible refine keeps_upd ?_))

theorem markNotified_keeps {s0 : State} (s : State) (id : Nat) (hk : Keeps s0 s) :
    Keeps s0 (markNotified s id) := by
  unfold markNotified
  repeat' (first
    | with_reducible assumption
    | with_reducible intro _
    | with_reducible apply mapDescs_keeps)

theorem acceptMsg_keeps {s0 : State} (s : State) (id : Nat) (hk : Keeps s0 s) :
    Keeps s0 (acceptMsg s id) := by
  unfold acceptMsg
  repeat' (first
    | with_reducible assumption
    | with_reducible intro _
    | with_reducible apply markNotified_keeps
    | (simp -zeta only [↓keeps_mk]; with_reducible refine keeps_upd ?_))

theorem mapSent_keeps {s0 : State} (s : State) (id : Nat) (g : SentMsg → SentMsg) (hk : Keeps s0 s) :
    Keeps s0 (mapSent s id g) := by
  unfold mapSent
  repeat' (first
    | with_reducible assumption
    | with_reducible intro _
    | split
    | (simp -zeta only [↓keeps_mk]; with_reducible refine keeps_upd ?_))

theorem issueMsg_keeps {s0 : State} (s : State) (m : SentMsg) (hk : Keeps s0 s) :
    Keeps s0 (issueMsg s m) := by
  unfold issueMsg
  repeat' (first
    | with_reducible assumption
    | with_reducible intro _
    | (extract_lets +onlyGivenNames xv; first
      | (refine keeps_cut (P := Keeps s0 xv) ?_ (fun _ => ?_); unfold xv; clear xv; rotate_left; clear_value xv; rotate_left)
      | (refine keeps_cut (P := KeepsOpt s0 xv) ?_ (fun _ => ?_); unfold xv; clear xv; rotate_left; clear_value xv; rotate_left)
      | clear_value xv
      | (unfold xv; clear xv))
    | with_reducible apply acceptMsg_keeps
    | with_reducible apply applyNotify_keeps
    | with_reducible apply mapSent_keeps
    | with_reducible apply regBump_keeps
    | with_reducible apply sendCtl_keeps
    | split)

theorem sendMsg_keeps {s0 : State} (s : State) (node : Option NodeId) (role src : BitVec 24) (ntf : Option (Nat × Nat)) (body : List Byte) (hk : Keeps s0 s) :
    Keeps s0 (sendMsg s node role src ntf body) := by
  unfold sendMsg
  repeat' (first
    | with_reducible assumption
    | (extract_lets +onlyGivenNames xv; first
      | (refine keeps_cut (P := Keeps s0 xv) ?_ (fun _ => ?_); unfold xv; clear xv; rotate_left; clear_value xv; rotate_left)
      | clear_value xv
      | (unfold xv; clear xv))
    | with_reducible apply issueMsg_keeps
    | (simp -zeta only [↓keeps_mk]; with_reducible refine keeps_upd ?_))

theorem flushMsgs_keeps {s0 : State} (s : State) (n : NodeId) (hk : Keeps s0 s) :
    Keeps s0 (flushMsgs s n) := by
  unfold flushMsgs
  repeat' (first
    | with_reducible assumption
    | with_reducible intro _
    | with_reducible apply issueMsg_keeps
    | with_reducible refine keeps_foldl _ ?_ (fun _ _ _ => ?_))

theorem loseContact_keeps {s0 : State} (s : State) (n : NodeId) (hk : Keeps s0 s) :
    Keeps s0 (loseContact s n) := by
  unfold loseContact
  repeat' (first
    | with_reducible assumption
    | with_reducible intro _
    | (extract_lets +onlyGivenNames xv; first
      | (refine keeps_cut (P := Keeps s0 xv) ?_ (fun _ => ?_); unfold xv; clear xv; rotate_left; clear_value xv; rotate_left)
      | clear_value xv
      | (unfold xv; clear xv))
    | split
    | (simp -zeta only [↓keeps_mk]; with_reducible refine keeps_upd ?_))

end Sys2Proof.Machine
end

