-- ==== Sys2Proof/Laws/JointKeeps.lean ====
section
/-! SUPPORT. What the definitions of Machine/Joint.lean keep (Laws/Keeps.lean). -/

namespace Sys2Proof.Machine

theorem jointStart_keeps {s0 : State} (s : State) (i job f plan need why : Nat) (hk : Keeps s0 s) :
    Keeps s0 (jointStart s i job f plan need why) := by
  unfold jointStart
  repeat' (first
    | with_reducible assumption
    | with_reducible intro _
    | (extract_lets +onlyGivenNames xv; first
      | (refine keeps_cut (P := Keeps s0 xv) ?_ (fun _ => ?_); unfold xv; clear xv; rotate_left; clear_value xv; rotate_left)
      | clear_value xv
      | (unfold xv; clear xv))
    | with_reducible apply sendCtl_keeps
    | with_reducible refine keeps_foldl _ ?_ (fun _ _ _ => ?_)
    | with_reducible refine keeps_foldlP _ ?_ (fun _ _ _ => ?_)
    | (simp -zeta only [↓keeps_mk]; with_reducible refine keeps_upd ?_))

end Sys2Proof.Machine
end

