-- ==== Sys2Proof/Laws/ServeKeeps.lean ====
section
/-! SUPPORT. What the definitions of Machine/Serve.lean keep (Laws/Keeps.lean). -/

namespace Sys2Proof.Machine

theorem makeLate_keeps {s0 : State} (s : State) (i c : Nat) (hk : Keeps s0 s) :
    Keeps s0 (makeLate s i c) := by
  unfold makeLate
  repeat' (first
    | with_reducible assumption
    | (extract_lets +onlyGivenNames xv; first
      | (refine keeps_cut (P := Keeps s0 xv) ?_ (fun _ => ?_); unfold xv; clear xv; rotate_left; clear_value xv; rotate_left)
      | clear_value xv)
    | with_reducible apply noteCause_keeps
    | with_reducible apply regBump_keeps
    | with_reducible apply setEntry_keeps)

theorem releaseBookings_keeps {s0 : State} (s : State) (i : Nat) (hk : Keeps s0 s) :
    Keeps s0 (releaseBookings s i) := by
  unfold releaseBookings
  repeat' (first
    | with_reducible assumption
    | (extract_lets +onlyGivenNames xv; first
      | (refine keeps_cut (P := Keeps s0 xv) ?_ (fun _ => ?_); unfold xv; clear xv; rotate_left; clear_value xv; rotate_left)
      | clear_value xv)
    | with_reducible apply setWork_keeps
    | (simp -zeta only [↓keeps_mk]; with_reducible refine keeps_upd ?_))

theorem cutEntryItems_keeps {s0 : State} (s : State) (i : Nat) (hk : Keeps s0 s) :
    Keeps s0 (cutEntryItems s i) := by
  unfold cutEntryItems
  repeat' (first
    | with_reducible assumption
    | (extract_lets +onlyGivenNames xv; first
      | (refine keeps_cut (P := Keeps s0 xv) ?_ (fun _ => ?_); unfold xv; clear xv; rotate_left; clear_value xv; rotate_left)
      | clear_value xv)
    | with_reducible apply cutItem_keeps
    | with_reducible apply regBump_keeps
    | with_reducible refine keeps_foldl _ ?_ (fun _ _ _ => ?_)
    | (simp -zeta only [↓keeps_mk]; with_reducible refine keeps_upd ?_))

theorem bumpSeq_keeps {s0 : State} (s : State) (i : Nat) (hk : Keeps s0 s) :
    Keeps s0 (bumpSeq s i) := by
  unfold bumpSeq
  repeat' (first
    | with_reducible assumption
    | (extract_lets +onlyGivenNames xv; clear_value xv)
    | with_reducible apply setWork_keeps)

theorem postCompl_keeps {s0 : State} (s : State) (i : Nat) (hk : Keeps s0 s) :
    Keeps s0 (postCompl s i) := by
  unfold postCompl
  repeat' (first
    | with_reducible assumption
    | (extract_lets +onlyGivenNames xv; first
      | (refine keeps_cut (P := Keeps s0 xv) ?_ (fun _ => ?_); unfold xv; clear xv; rotate_left; clear_value xv; rotate_left)
      | clear_value xv)
    | with_reducible apply bumpSeq_keeps
    | with_reducible apply postRecord_keeps
    | with_reducible apply setWork_keeps)

theorem endRequest_keeps {s0 : State} (s : State) (i : Nat) (st : RqState) (status : Nat) (hk : Keeps s0 s) :
    Keeps s0 (endRequest s i st status) := by
  unfold endRequest
  repeat' (first
    | with_reducible assumption
    | (extract_lets +onlyGivenNames xv; first
      | (refine keeps_cut (P := Keeps s0 xv) ?_ (fun _ => ?_); unfold xv; clear xv; rotate_left; clear_value xv; rotate_left)
      | clear_value xv)
    | with_reducible apply postCompl_keeps
    | with_reducible apply releaseBookings_keeps
    | with_reducible apply setEntry_keeps)

theorem failQuiet_keeps {s0 : State} (s : State) (i status : Nat) (hk : Keeps s0 s) :
    Keeps s0 (failQuiet s i status) := by
  unfold failQuiet
  repeat' (first
    | with_reducible assumption
    | (extract_lets +onlyGivenNames xv; first
      | (refine keeps_cut (P := Keeps s0 xv) ?_ (fun _ => ?_); unfold xv; clear xv; rotate_left; clear_value xv; rotate_left)
      | clear_value xv
      | (unfold xv; clear xv))
    | with_reducible apply cutEntryItems_keeps
    | with_reducible apply dropBlocks_keeps
    | with_reducible apply endRequest_keeps)

theorem failRequest_keeps {s0 : State} (s : State) (i status code : Nat) (hk : Keeps s0 s) :
    Keeps s0 (failRequest s i status code) := by
  unfold failRequest
  repeat' (first
    | with_reducible assumption
    | (extract_lets +onlyGivenNames xv; first
      | (refine keeps_cut (P := Keeps s0 xv) ?_ (fun _ => ?_); unfold xv; clear xv; rotate_left; clear_value xv; rotate_left)
      | clear_value xv
      | (unfold xv; clear xv))
    | with_reducible apply failQuiet_keeps
    | with_reducible apply logFault_keeps)

theorem reapWorkAreas_keeps {s0 : State} (s : State) (t : LdId) (hk : Keeps s0 s) :
    Keeps s0 (reapWorkAreas s t) := by
  unfold reapWorkAreas
  repeat' (first
    | with_reducible assumption
    | (extract_lets +onlyGivenNames xv; first
      | (refine keeps_cut (P := Keeps s0 xv) ?_ (fun _ => ?_); unfold xv; clear xv; rotate_left; clear_value xv; rotate_left)
      | clear_value xv)
    | with_reducible apply setTag_keeps
    | with_reducible apply setTen_keeps
    | with_reducible refine keeps_foldl _ ?_ (fun _ _ _ => ?_))

theorem reapAdapters_keeps {s0 : State} (s : State) (hk : Keeps s0 s) :
    Keeps s0 (reapAdapters s) := by
  unfold reapAdapters
  repeat' (first
    | with_reducible assumption
    | (extract_lets +onlyGivenNames xv; first
      | (refine keeps_cut (P := Keeps s0 xv) ?_ (fun _ => ?_); unfold xv; clear xv; rotate_left; clear_value xv; rotate_left)
      | (unfold xv; clear xv))
    | with_reducible apply evictWhere_keeps
    | with_reducible apply setTag_keeps
    | with_reducible refine keeps_foldl _ ?_ (fun _ _ _ => ?_)
    | split
    | (simp -zeta only [↓keeps_mk]; with_reducible refine keeps_upd ?_))

theorem releaseGone_keeps {s0 : State} (s : State) (i : Nat) (hk : Keeps s0 s) :
    Keeps s0 (releaseGone s i) := by
  unfold releaseGone
  repeat' (first
    | with_reducible assumption
    | (extract_lets +onlyGivenNames xv; first
      | (refine keeps_cut (P := Keeps s0 xv) ?_ (fun _ => ?_); unfold xv; clear xv; rotate_left; clear_value xv; rotate_left)
      | clear_value xv)
    | with_reducible apply dropNodes_keeps
    | with_reducible apply pageDrop_keeps
    | with_reducible apply setWork_keeps
    | with_reducible apply writeAbsent_keeps
    | with_reducible refine keeps_foldl _ ?_ (fun _ _ _ => ?_)
    | split)

theorem freeEntry_keeps {s0 : State} (s : State) (i : Nat) (hk : Keeps s0 s) : Keeps s0 (freeEntry s i) := by
  unfold freeEntry
  extract_lets w s1 s2 s3 s4
  have h4 : Keeps s0 s4 :=
    jrnlEnd_keeps _ _ (releaseBookings_keeps _ _ (releaseGone_keeps _ _ (dropBlocks_keeps _ _ _ (dropNodes_keeps _ _ hk))))
  exact reapAdapters_keeps _ ((keeps_mk ..).2 (keepsF_of h4 (FusesGrow.refl _) (fun h _ => h) id id (keysRise_erase _ _) rfl))

theorem countUnreadable_keeps {s0 : State} (s : State) (t : LdId) (v n : Nat) (hk : Keeps s0 s) :
    Keeps s0 (countUnreadable s t v n) := by
  unfold countUnreadable
  repeat' (first
    | with_reducible assumption
    | with_reducible apply logFault_keeps
    | with_reducible apply windowMiss_keeps
    | split)

theorem readRange_keeps {s0 : State} (s : State) (t : LdId) (v n : Nat) (hk : Keeps s0 s) : KeepsP s0 (readRange s t v n) := by
  unfold readRange
  extract_lets s1
  have h1 : Keeps s0 s1 := devTouch_keeps _ _ _ _ hk
  clear_value s1
  split
  · exact keepsP_mk h1
  · exact keepsP_mk (countUnreadable_keeps _ _ _ _ h1)

theorem readInputs_keeps {s0 : State} (s : State) (t : LdId) (r : List Byte) (hk : Keeps s0 s) :
    KeepsP s0 (readInputs s t r) := by
  unfold readInputs
  extract_lets n nb
  have h1 := readRange_keeps s t (fld r 0x10 8) (4 * n) hk
  generalize readRange s t (fld r 0x10 8) (4 * n) = x at h1 ⊢
  obtain ⟨s1, o⟩ := x
  cases o with
  | none => exact h1
  | some a =>
    dsimp only
    split
    · exact h1
    · have h2 := readRange_keeps s1 t (fld r 0x70 8) (4 * n) h1
      generalize readRange s1 t (fld r 0x70 8) (4 * n) = y at h2 ⊢
      obtain ⟨s2, o⟩ := y
      cases o with
      | none => exact h2
      | some b =>
        dsimp only
        have h3 := readRange_keeps s2 t (fld r 0x78 8) (4 * nb) h2
        generalize readRange s2 t (fld r 0x78 8) (4 * nb) = z at h3 ⊢
        obtain ⟨s3, o⟩ := z
        cases o with
        | none => exact h3
        | some c => exact h3

theorem evictPoisoned_keeps {s0 : State} (f : Nat) (s : State) (key : TreeKey) (n : Nat) (toks : List Nat) (p : Option Nat)
    (h : List Byte) (hk : Keeps s0 s) : Keeps s0 (evictPoisoned f s key n toks p h) := by
  induction f generalizing s with
  | zero => exact hk
  | succ f ih =>
    unfold evictPoisoned
    split
    · exact hk
    · exact ih _ (logAt_keeps _ _ _ _ _ _ (removeSubtree_keeps _ _ _ hk))

theorem runLookup_keeps {s0 : State} (s : State) (i : Nat) (cont : Bool) (hk : Keeps s0 s) :
    Keeps s0 (runLookup s i cont) := by
  unfold runLookup
  repeat' (first
    | with_reducible assumption
    | with_reducible intro _
    | (extract_lets +onlyGivenNames xv; first
      | (refine keeps_cut (P := Keeps s0 xv) ?_ (fun _ => ?_); unfold xv; clear xv; rotate_left; clear_value xv; rotate_left)
      | (refine keeps_cut (P := KeepsOpt s0 xv) ?_ (fun _ => ?_); unfold xv; clear xv; rotate_left; clear_value xv; rotate_left)
      | clear_value xv
      | (unfold xv; clear xv))
    | with_reducible apply evictPoisoned_keeps
    | with_reducible apply memTouch_keeps
    | with_reducible apply regBump_keeps
    | with_reducible apply setWork_keeps
    | with_reducible refine keeps_foldl _ ?_ (fun _ _ _ => ?_)
    | with_reducible refine keeps_foldlP _ ?_ (fun _ _ _ => ?_)
    | split
    | with_reducible refine keepsP_fst ?_
    | (simp -zeta only [↓keeps_mk]; with_reducible refine keeps_upd ?_))

theorem enqueue_keeps {s0 : State} (s : State) (t : LdId) (q : Fin 128) (b : List Byte) (tag rpb : Nat) (toks : List Nat) (p : Params) (cont : Option Nat) (hk : Keeps s0 s) :
    Keeps s0 (enqueue s t q b tag rpb toks p cont) := by
  unfold enqueue
  repeat' (first
    | with_reducible assumption
    | (extract_lets +onlyGivenNames xv; first
      | (refine keeps_cut (P := Keeps s0 xv) ?_ (fun _ => ?_); unfold xv; clear xv; rotate_left; clear_value xv; rotate_left)
      | clear_value xv)
    | with_reducible apply flushProgress_keeps
    | with_reducible apply jrnlSubmit_keeps
    | with_reducible apply putBlock_keeps
    | with_reducible apply runLookup_keeps
    | with_reducible apply setEntry_keeps
    | with_reducible apply setQue_keeps
    | with_reducible apply setWork_keeps
    | with_reducible refine keeps_foldl _ ?_ (fun _ _ _ => ?_)
    | split)

theorem answerSub_keeps {s0 : State} (s : State) (t : LdId) (q : Fin 128) (tag st : Nat) (hk : Keeps s0 s) :
    Keeps s0 (answerSub s t q tag st) := by
  unfold answerSub
  repeat' (first
    | with_reducible assumption
    | with_reducible apply postRecord_keeps)

theorem submit_keeps {s0 : State} (s : State) (t : LdId) (q : Fin 128) (tag rpb : Nat) (r : List Byte)
    (x : List Nat × List Nat × List Nat) (hk : Keeps s0 s) : Keeps s0 (submit s t q tag rpb r x) := by
  unfold submit
  extract_lets p isCont found busy cont st
  split
  · exact answerSub_keeps _ _ _ _ _ hk
  · split
    · exact answerSub_keeps _ _ _ _ _ hk
    · split
      · exact answerSub_keeps _ _ _ _ _ hk
      · split
        · exact answerSub_keeps _ _ _ _ _ hk
        · exact enqueue_keeps _ _ _ _ _ _ _ _ _ hk

theorem readSub_keeps {s0 : State} (s : State) (t : LdId) (q : Fin 128) (b : List Byte) (hk : Keeps s0 s) :
    Keeps s0 (readSub s t q b) := by
  unfold readSub
  extract_lets tag rpb
  split
  · exact answerSub_keeps _ _ _ _ _ hk
  · split
    · exact answerSub_keeps _ _ _ _ _ (windowMiss_keeps _ _ _ hk)
    · have h1 := readRange_keeps s t rpb 2432 hk
      generalize readRange s t rpb 2432 = x at h1 ⊢
      obtain ⟨s1, o⟩ := x
      cases o with
      | none => exact answerSub_keeps s1 _ _ _ _ h1
      | some r =>
        dsimp only
        have h2 := readInputs_keeps s1 t r h1
        generalize readInputs s1 t r = y at h2 ⊢
        obtain ⟨s2, o⟩ := y
        cases o with
        | none => exact answerSub_keeps s2 _ _ _ _ h2
        | some x => exact submit_keeps s2 _ _ _ _ _ _ h2

theorem execSubmissionRead_keeps {s0 : State} (q : Fin 128) (s : State) (hk : Keeps s0 s) :
    KeepsOut s0 (execSubmissionRead q s) := by
  unfold execSubmissionRead
  split
  · exact hk
  · extract_lets u t at_ s1 w s2
    have h2 : Keeps s0 s2 := setTen_keeps _ _ _ (setQue_keeps _ _ _ hk)
    clear_value s2
    have h3 := readRange_keeps s2 t at_ 128 h2
    generalize readRange s2 t at_ 128 = x at h3 ⊢
    obtain ⟨s3, o⟩ := x
    cases o with
    | none => exact answerSub_keeps s3 _ _ _ _ h3
    | some b => exact readSub_keeps s3 _ _ _ h3

theorem refuse_keeps {s0 : State} (s : State) (i status : Nat) (best : Option Nat) (hk : Keeps s0 s) :
    Keeps s0 (refuse s i status best) := by
  unfold refuse
  repeat' (first
    | with_reducible assumption
    | (extract_lets +onlyGivenNames xv; first
      | (refine keeps_cut (P := Keeps s0 xv) ?_ (fun _ => ?_); unfold xv; clear xv; rotate_left; clear_value xv; rotate_left)
      | clear_value xv)
    | with_reducible apply freeEntry_keeps
    | with_reducible apply postRecord_keeps
    | with_reducible apply regBump_keeps)

theorem shareHits_keeps {s0 : State} (s : State) (i : Nat) (hk : Keeps s0 s) :
    Keeps s0 (shareHits s i) := by
  unfold shareHits
  repeat' (first
    | with_reducible assumption
    | (extract_lets +onlyGivenNames xv; first
      | (refine keeps_cut (P := Keeps s0 xv) ?_ (fun _ => ?_); unfold xv; clear xv; rotate_left; clear_value xv; rotate_left)
      | clear_value xv)
    | with_reducible apply pageRef_keeps
    | with_reducible apply putBlock_keeps
    | with_reducible refine keeps_foldl _ ?_ (fun _ _ _ => ?_)
    | split)

theorem admitEntry_keeps {s0 : State} (s : State) (i plan : Nat) (chunks : List Nat) (chain : List LaneFurrow) (q tq frames : Nat) (hk : Keeps s0 s) :
    Keeps s0 (admitEntry s i plan chunks chain q tq frames) := by
  unfold admitEntry
  repeat' (first
    | with_reducible assumption
    | (extract_lets +onlyGivenNames xv; first
      | (refine keeps_cut (P := Keeps s0 xv) ?_ (fun _ => ?_); unfold xv; clear xv; rotate_left; clear_value xv; rotate_left)
      | clear_value xv)
    | with_reducible apply jrnlAdmit_keeps
    | with_reducible apply regBump_keeps
    | with_reducible apply setEntry_keeps
    | with_reducible apply setWork_keeps
    | with_reducible apply shareHits_keeps)

theorem soloAdmit_keeps {s0 : State} (s : State) (i f : Nat) (hk : Keeps s0 s) : KeepsP s0 (soloAdmit s i f) := by
  unfold soloAdmit
  extract_lets e n
  have h1 : KeepsFit s0 (admitPlans f i e n 0 s none false) := admitPlans_keeps _ _ _ _ _ _ _ _ hk
  generalize admitPlans f i e n 0 s none false = x at h1 ⊢
  clear_value e n
  cases x with
  | refuse s best pool => exact keepsP_mk (refuse_keeps s i _ best (keepsFit_refuse h1))
  | fits s plan chunks chain q =>
    have h1 := keepsFit_fits h1
    have h2 : Keeps s0 (setWork s i { workOf s i with chain := chain }) := setWork_keeps _ _ _ h1
    dsimp only
    generalize setWork s i { workOf s i with chain := chain } = s2 at h2 ⊢
    have h3 := bookTail_keeps s2 i e q q h2
    generalize bookTail s2 i e q q = y at h3 ⊢
    cases y with
    | error tbt => exact keepsP_mk (refuse_keeps s i _ (some q) h1)
    | ok y => exact keepsP_mk (admitEntry_keeps _ _ _ _ _ _ _ _ h3)

theorem tryAdmit_keeps {s0 : State} (s : State) (i f : Nat) (hk : Keeps s0 s) : KeepsP s0 (tryAdmit s i f) := by
  unfold tryAdmit
  extract_lets e
  clear_value e
  split
  · exact keepsP_mk (refuse_keeps s i _ _ hk)
  · split
    · exact keepsP_mk (refuse_keeps s i _ _ hk)
    · split
      · exact soloAdmit_keeps _ _ _ hk
      · split
        · exact soloAdmit_keeps _ _ _ hk
        · exact keepsP_mk (jointStart_keeps _ _ _ _ _ _ _ hk)

theorem visitQueue_keeps {s0 : State} (f admitMax : Nat) (q : Fin 128) (n a : Nat) (s : State) (hk : Keeps s0 s) :
    KeepsP s0 (visitQueue f admitMax q n a s) := by
  induction n generalizing s a with
  | zero => exact hk
  | succ n ih =>
    unfold visitQueue
    split
    · exact hk
    · split
      · exact hk
      · refine ih _ _ ?_
        split
        · exact setQue_keeps _ _ _ (keepsP_fst (tryAdmit_keeps _ _ _ (setQue_keeps _ _ _ hk)))
        · exact keepsP_fst (tryAdmit_keeps _ _ _ (setQue_keeps _ _ _ hk))

theorem visitClass_keeps {s0 : State} (f admitMax cls n a : Nat) (s : State) (hk : Keeps s0 s) :
    KeepsP s0 (visitClass f admitMax cls n a s) := by
  induction n generalizing s a with
  | zero => exact hk
  | succ n ih =>
    unfold visitClass
    split
    · exact hk
    · split
      · exact hk
      · refine ih _ _ ?_
        exact keeps_same (keepsP_fst (visitQueue_keeps f admitMax _ _ a _ (setQue_keeps _ _ _ hk))) rfl rfl rfl rfl rfl rfl

theorem execAdmissionPass_keeps {s0 : State} (s : State) (hk : Keeps s0 s) : KeepsOut s0 (execAdmissionPass s) := by
  unfold execAdmissionPass
  split
  · exact hk
  · extract_lets f amax fuel r
    have h1 : KeepsP s0 r := keeps_foldlP _ hk (fun t c ht => visitClass_keeps _ _ _ _ _ _ ht)
    clear_value r
    refine keeps_foldl _ h1 (fun t q ht => ?_)
    split
    · exact setQue_keeps _ _ _ ht
    · exact ht

end Sys2Proof.Machine
end

