-- ==== Sys2Proof/Laws/GenKeeps.lean ====
section
/-! SUPPORT. What the definitions of Machine/Gen.lean keep (Laws/Keeps.lean). -/

namespace Sys2Proof.Machine

theorem countTokens_keeps {s0 : State} (s : State) (i : Nat) (toks : List Nat) (hk : Keeps s0 s) :
    Keeps s0 (countTokens s i toks) := by
  unfold countTokens
  repeat' (first
    | with_reducible assumption
    | with_reducible intro _
    | (extract_lets +onlyGivenNames xv; first
      | (refine keeps_cut (P := Keeps s0 xv) ?_ (fun _ => ?_); unfold xv; clear xv; rotate_left; clear_value xv; rotate_left)
      | clear_value xv
      | (unfold xv; clear xv))
    | with_reducible apply setWork_keeps
    | with_reducible apply piecesWrote_keeps)

theorem touchLogits_keeps {s0 : State} (s : State) (i n : Nat) (hk : Keeps s0 s) :
    Keeps s0 (touchLogits s i n) := by
  unfold touchLogits
  repeat' (first
    | with_reducible assumption
    | (extract_lets +onlyGivenNames xv; first
      | (refine keeps_cut (P := Keeps s0 xv) ?_ (fun _ => ?_); unfold xv; clear xv; rotate_left; clear_value xv; rotate_left)
      | clear_value xv
      | (unfold xv; clear xv))
    | with_reducible apply touchAll_keeps
    | with_reducible apply memTouch_keeps)

theorem stampCommit_keeps {s0 : State} (s : State) (i : Nat) (first : Bool) (hk : Keeps s0 s) :
    Keeps s0 (stampCommit s i first) := by
  unfold stampCommit
  repeat' (first
    | with_reducible assumption
    | (extract_lets +onlyGivenNames xv; first
      | (refine keeps_cut (P := Keeps s0 xv) ?_ (fun _ => ?_); unfold xv; clear xv; rotate_left; clear_value xv; rotate_left)
      | clear_value xv)
    | with_reducible apply setEntry_keeps
    | with_reducible apply setWork_keeps
    | split)

theorem hashBlocks_keeps {s0 : State} (s : State) (i : Nat) (hk : Keeps s0 s) :
    Keeps s0 (hashBlocks s i) := by
  unfold hashBlocks
  repeat' (first
    | with_reducible assumption
    | (extract_lets +onlyGivenNames xv; clear_value xv)
    | with_reducible apply putBlock_keeps
    | with_reducible refine keeps_foldl _ ?_ (fun _ _ _ => ?_)
    | split)

theorem insertBlocks_keeps {s0 : State} (s : State) (i old : Nat) (skip : Bool) (hk : Keeps s0 s) :
    Keeps s0 (insertBlocks s i old skip) := by
  unfold insertBlocks
  repeat' (first
    | with_reducible assumption
    | (extract_lets +onlyGivenNames xv; clear_value xv)
    | with_reducible apply insertNode_keeps
    | with_reducible refine keeps_foldl _ ?_ (fun _ _ _ => ?_)
    | split)

theorem streamTokens_keeps {s0 : State} (s : State) (i pos : Nat) (fedTok : Option Nat) (toks : List Nat) (noCand : Bool) (hk : Keeps s0 s) :
    Keeps s0 (streamTokens s i pos fedTok toks noCand) := by
  unfold streamTokens
  repeat' (first
    | with_reducible assumption
    | (extract_lets +onlyGivenNames xv; first
      | (refine keeps_cut (P := Keeps s0 xv) ?_ (fun _ => ?_); unfold xv; clear xv; rotate_left; clear_value xv; rotate_left)
      | (refine keeps_cut (P := KeepsOpt s0 xv) ?_ (fun _ => ?_); unfold xv; clear xv; rotate_left; clear_value xv; rotate_left)
      | clear_value xv
      | (unfold xv; clear xv))
    | with_reducible apply stampCommit_keeps
    | with_reducible apply endRequest_keeps
    | with_reducible apply setEntry_keeps
    | with_reducible apply postRecord_keeps
    | with_reducible apply bumpSeq_keeps
    | with_reducible apply countTokens_keeps
    | with_reducible apply setWork_keeps
    | with_reducible apply hashBlocks_keeps
    | with_reducible apply setValid_keeps
    | split)

theorem poisonFall_keeps {s0 : State} (s : State) (i : Nat) (hk : Keeps s0 s) :
    Keeps s0 (poisonFall s i) := by
  unfold poisonFall
  repeat' (first
    | with_reducible assumption
    | (extract_lets +onlyGivenNames xv; first
      | (refine keeps_cut (P := Keeps s0 xv) ?_ (fun _ => ?_); unfold xv; clear xv; rotate_left; clear_value xv; rotate_left)
      | clear_value xv)
    | with_reducible apply removeSubtree_keeps
    | with_reducible apply setEntry_keeps
    | with_reducible apply setWork_keeps
    | with_reducible refine keeps_foldl _ ?_ (fun _ _ _ => ?_)
    | split)

theorem copyPos_keeps {s0 : State} (s : State) (t : LdId) (i log2 : Nat) (src : List Nat) (sp : Nat) (dst : List Nat) (dp : Nat) (hk : Keeps s0 s) :
    Keeps s0 (copyPos s t i log2 src sp dst dp) := by
  unfold copyPos
  repeat' (first
    | with_reducible assumption
    | (extract_lets +onlyGivenNames xv; clear_value xv)
    | with_reducible apply devTouch_keeps
    | with_reducible apply devWrite_keeps
    | with_reducible refine keeps_foldl _ ?_ (fun _ _ _ => ?_))

theorem makeBranch_keeps {s0 : State} (s : State) (i : Nat) (toks : List Nat) (k : Nat) (hk : Keeps s0 s) :
    Keeps s0 (makeBranch s i toks k) := by
  unfold makeBranch
  repeat' (first
    | with_reducible assumption
    | with_reducible intro _
    | (extract_lets +onlyGivenNames xv; first
      | (refine keeps_cut (P := Keeps s0 xv) ?_ (fun _ => ?_); unfold xv; clear xv; rotate_left; clear_value xv; rotate_left)
      | (refine keeps_cut (P := KeepsOpt s0 xv) ?_ (fun _ => ?_); unfold xv; clear xv; rotate_left; clear_value xv; rotate_left)
      | clear_value xv
      | (unfold xv; clear xv))
    | with_reducible apply setWork_keeps
    | with_reducible apply setEntry_keeps
    | with_reducible apply piecesWrote_keeps
    | with_reducible apply countTokens_keeps
    | with_reducible apply pageRef_keeps
    | with_reducible apply putBlock_keeps
    | with_reducible apply ensureBlocks_keeps
    | with_reducible apply copyPos_keeps
    | with_reducible apply hashBlocks_keeps
    | with_reducible apply setValid_keeps
    | with_reducible apply insertBlocks_keeps
    | with_reducible apply postCompl_keeps
    | with_reducible refine keeps_foldl _ ?_ (fun _ _ _ => ?_)
    | with_reducible refine keeps_foldlP _ ?_ (fun _ _ _ => ?_)
    | split
    | with_reducible refine keepsP_fst ?_
    | (simp -zeta only [↓keeps_mk]; with_reducible refine keeps_upd ?_))

theorem lateCheck_keeps {s0 : State} (s : State) (i : Nat) (hk : Keeps s0 s) :
    Keeps s0 (lateCheck s i) := by
  unfold lateCheck
  repeat' (first
    | with_reducible assumption
    | (extract_lets +onlyGivenNames xv; clear_value xv)
    | with_reducible apply makeLate_keeps
    | split)

theorem firstToken_keeps {s0 : State} (s : State) (i : Nat) (hk : Keeps s0 s) :
    Keeps s0 (firstToken s i) := by
  unfold firstToken
  repeat' (first
    | with_reducible assumption
    | (extract_lets +onlyGivenNames xv; first
      | (refine keeps_cut (P := Keeps s0 xv) ?_ (fun _ => ?_); unfold xv; clear xv; rotate_left; clear_value xv; rotate_left)
      | clear_value xv)
    | with_reducible apply regBump_keeps
    | with_reducible apply setEntry_keeps
    | with_reducible apply setWork_keeps
    | with_reducible apply streamTokens_keeps
    | with_reducible apply touchLogits_keeps
    | split)

theorem dropDone_keeps {s0 : State} (s : State) (i : Nat) (hk : Keeps s0 s) :
    Keeps s0 (dropDone s i) := by
  unfold dropDone
  repeat' (first
    | with_reducible assumption
    | with_reducible intro _
    | (simp -zeta only [↓keeps_mk]; with_reducible refine keeps_upd ?_))

theorem commitChunk_keeps {s0 : State} (s : State) (i : Nat) (hk : Keeps s0 s) :
    Keeps s0 (commitChunk s i) := by
  unfold commitChunk
  repeat' (first
    | with_reducible assumption
    | with_reducible intro _
    | (extract_lets +onlyGivenNames xv; first
      | (refine keeps_cut (P := Keeps s0 xv) ?_ (fun _ => ?_); unfold xv; clear xv; rotate_left; clear_value xv; rotate_left)
      | clear_value xv
      | (unfold xv; clear xv))
    | with_reducible apply setWork_keeps
    | with_reducible apply dropDone_keeps
    | with_reducible apply makeLate_keeps
    | with_reducible apply touchAll_keeps
    | with_reducible apply touchLogits_keeps
    | with_reducible apply failRequest_keeps
    | with_reducible apply poisonFall_keeps
    | with_reducible apply makeBranch_keeps
    | with_reducible apply countTokens_keeps
    | with_reducible apply stampCommit_keeps
    | with_reducible apply dropBlocks_keeps
    | with_reducible apply endRequest_keeps
    | with_reducible apply lateCheck_keeps
    | with_reducible apply freeMgen_keeps
    | with_reducible apply setEntry_keeps
    | with_reducible apply hashBlocks_keeps
    | with_reducible apply setValid_keeps
    | with_reducible apply ensureBlocks_keeps
    | with_reducible apply insertBlocks_keeps
    | with_reducible apply firstToken_keeps
    | with_reducible refine keeps_foldl _ ?_ (fun _ _ _ => ?_)
    | with_reducible refine keeps_foldlP _ ?_ (fun _ _ _ => ?_)
    | split)

theorem setRound_keeps {s0 : State} (s : State) (r : Round) (hk : Keeps s0 s) :
    Keeps s0 (setRound s r) := by
  unfold setRound
  repeat' (first
    | with_reducible assumption
    | (simp -zeta only [↓keeps_mk]; with_reducible refine keeps_upd ?_))

theorem sampleRound_keeps {s0 : State} (s : State) (r : Round) (hk : Keeps s0 s) :
    Keeps s0 (sampleRound s r) := by
  unfold sampleRound
  repeat' (first
    | with_reducible assumption
    | (extract_lets +onlyGivenNames xv; first
      | (refine keeps_cut (P := Keeps s0 xv) ?_ (fun _ => ?_); unfold xv; clear xv; rotate_left; clear_value xv; rotate_left)
      | clear_value xv)
    | with_reducible apply regBump_keeps
    | with_reducible apply setRound_keeps
    | with_reducible apply touchLogits_keeps
    | with_reducible refine keeps_foldl _ ?_ (fun _ _ _ => ?_))

theorem execRoundSample_keeps {s0 : State} (n : Nat) (s : State) (hk : Keeps s0 s) :
    KeepsOut s0 (execRoundSample n s) := by
  unfold execRoundSample
  repeat' (first
    | with_reducible assumption
    | with_reducible refine keepsOut_next ?_
    | with_reducible apply sampleRound_keeps
    | split)

theorem commitSeat_keeps {s0 : State} (s : State) (o : SeatOut) (hk : Keeps s0 s) :
    Keeps s0 (commitSeat s o) := by
  unfold commitSeat
  repeat' (first
    | with_reducible assumption
    | (extract_lets +onlyGivenNames xv; first
      | (refine keeps_cut (P := Keeps s0 xv) ?_ (fun _ => ?_); unfold xv; clear xv; rotate_left; clear_value xv; rotate_left)
      | clear_value xv
      | (unfold xv; clear xv))
    | with_reducible apply regBump_keeps
    | with_reducible apply failRequest_keeps
    | with_reducible apply makeLate_keeps
    | with_reducible apply setEntry_keeps
    | with_reducible apply setWork_keeps
    | with_reducible apply ensureBlocks_keeps
    | with_reducible apply streamTokens_keeps
    | split)

theorem commitRound_keeps {s0 : State} (s : State) (r : Round) (hk : Keeps s0 s) :
    Keeps s0 (commitRound s r) := by
  unfold commitRound
  repeat' (first
    | with_reducible assumption
    | with_reducible intro _
    | (extract_lets +onlyGivenNames xv; first
      | (refine keeps_cut (P := Keeps s0 xv) ?_ (fun _ => ?_); unfold xv; clear xv; rotate_left; clear_value xv; rotate_left)
      | (refine keeps_cut (P := KeepsOpt s0 xv) ?_ (fun _ => ?_); unfold xv; clear xv; rotate_left; clear_value xv; rotate_left)
      | clear_value xv
      | (unfold xv; clear xv))
    | with_reducible apply freeMgen_keeps
    | with_reducible apply regBump_keeps
    | with_reducible apply failRequest_keeps
    | with_reducible apply failQuiet_keeps
    | with_reducible apply commitSeat_keeps
    | with_reducible refine keeps_foldl _ ?_ (fun _ _ _ => ?_)
    | with_reducible refine keeps_foldlP _ ?_ (fun _ _ _ => ?_)
    | split
    | with_reducible refine keepsP_fst ?_
    | (simp -zeta only [↓keeps_mk]; with_reducible refine keeps_upd ?_))

theorem execRoundCommit_keeps {s0 : State} (n : Nat) (s : State) (hk : Keeps s0 s) :
    KeepsOut s0 (execRoundCommit n s) := by
  unfold execRoundCommit
  repeat' (first
    | with_reducible assumption
    | with_reducible refine keepsOut_next ?_
    | with_reducible apply commitRound_keeps
    | split)

theorem execStallLimit_keeps {s0 : State} (i : Fin 4096) (s : State) (hk : Keeps s0 s) :
    KeepsOut s0 (execStallLimit i s) := by
  unfold execStallLimit
  repeat' (first
    | with_reducible assumption
    | with_reducible intro _
    | (extract_lets +onlyGivenNames xv; first
      | (refine keeps_cut (P := Keeps s0 xv) ?_ (fun _ => ?_); unfold xv; clear xv; rotate_left; clear_value xv; rotate_left)
      | (refine keeps_cut (P := KeepsOpt s0 xv) ?_ (fun _ => ?_); unfold xv; clear xv; rotate_left; clear_value xv; rotate_left)
      | clear_value xv
      | (unfold xv; clear xv))
    | with_reducible refine keepsOut_next ?_
    | with_reducible exact keepsOut_fault _
    | with_reducible exact keepsOut_refused _
    | with_reducible apply failRequest_keeps
    | with_reducible apply failQuiet_keeps
    | with_reducible refine keeps_foldl _ ?_ (fun _ _ _ => ?_)
    | with_reducible refine keeps_foldlP _ ?_ (fun _ _ _ => ?_)
    | split
    | (simp -zeta only [↓keeps_mk]; with_reducible refine keeps_upd ?_))

end Sys2Proof.Machine
end

