-- ==== Sys2Proof/Laws/MailboxKeeps.lean ====
section
/-! SUPPORT. What the definitions of Machine/Mailbox.lean keep (Laws/Keeps.lean). -/

namespace Sys2Proof.Machine

theorem setMbox_keeps {s0 : State} (s : State) (m : Mbox) (x : MboxState) (hk : Keeps s0 s) :
    Keeps s0 (setMbox s m x) := by
  unfold setMbox
  repeat' (first
    | with_reducible assumption
    | split
    | (simp -zeta only [↓keeps_mk]; with_reducible refine keeps_upd ?_))

theorem reply_keeps {s0 : State} (s : State) (m : Mbox) (ret : Nat) (out : List Byte) (hk : Keeps s0 s) :
    Keeps s0 (reply s m ret out) := by
  unfold reply
  repeat' (first
    | with_reducible assumption
    | (extract_lets +onlyGivenNames xv; clear_value xv)
    | with_reducible apply setMbox_keeps)

theorem bruahRun_keeps {s0 : State} (c : Cmd) (m : Mbox) (p : List Byte) (bad : Bool) (s : State)
    (f : LdId → State → State × Nat × List Byte) (hk : Keeps s0 s) (hf : ∀ l t, Keeps s0 t → KeepsP s0 (f l t)) :
    KeepsOut s0 (bruahRun c m p bad s f) := by
  unfold bruahRun
  split
  · exact keepsOut_next (reply_keeps _ _ _ _ hk)
  · exact keepsOut_next (reply_keeps _ _ _ _ (keepsP_fst (hf _ _ hk)))

theorem bruah_keeps {s0 : State} (c : Cmd) (m : Mbox) (p : List Byte) (bad : Bool) (s : State)
    (f : LdId → State → State × Nat × List Byte) (hk : Keeps s0 s) (hf : ∀ l t, Keeps s0 t → KeepsP s0 (f l t)) :
    KeepsOut s0 (bruah c m p bad s f) := by
  unfold bruah
  split
  · exact hk
  · exact bruahRun_keeps _ _ _ _ _ _ hk hf

theorem bruahBg_keeps {s0 : State} (c : Cmd) (m : Mbox) (p : List Byte) (bad : Bool) (from_ : Nat × Nat) (s : State)
    (f : LdId → State → State × Nat × List Byte × (Nat × Nat × Nat)) (hk : Keeps s0 s)
    (hf : ∀ l t, Keeps s0 t → KeepsP s0 (f l t)) : KeepsOut s0 (bruahBg c m p bad from_ s f) := by
  unfold bruahBg
  split
  · exact hk
  · split
    · exact keepsOut_next (reply_keeps _ _ _ _ hk)
    · exact keepsOut_next (setMbox_keeps _ _ _ (keepsP_fst (hf _ _ hk)))

end Sys2Proof.Machine
end

