-- ==== Sys2Proof/Laws/BundlesKeeps.lean ====
section
/-! SUPPORT. What the definitions of Machine/Bundles.lean keep (Laws/Keeps.lean). -/

namespace Sys2Proof.Machine

theorem setOp_keeps {s0 : State} (s : State) (o : BundleOp) (hk : Keeps s0 s) :
    Keeps s0 (setOp s o) := by
  unfold setOp
  repeat' (first
    | with_reducible assumption
    | (simp -zeta only [↓keeps_mk]; with_reducible refine keeps_upd ?_))

theorem dropOp_keeps {s0 : State} (s : State) (i : Nat) (hk : Keeps s0 s) :
    Keeps s0 (dropOp s i) := by
  unfold dropOp
  repeat' (first
    | with_reducible assumption
    | (simp -zeta only [↓keeps_mk]; with_reducible refine keeps_upd ?_))

theorem raileStore_keeps {s0 : State} (s : State) (ctx addr : Nat) (bs : List Byte) (hk : Keeps s0 s) :
    KeepsP s0 (raileStore s ctx addr bs) := by
  unfold raileStore
  split
  · split
    · rename_i h
      exact keepsP_mk (tvaStore_keeps _ _ _ _ (keeps_of_okP h (railAccess_keeps s .wr ctx (ownNode s) _ _ hk)))
    · exact keepsP_mk (ownDenied_keeps _ _ hk)
  · exact keepsP_mk (sendWrites_keeps _ _ _ _ _ _ (useOp_keeps _ hk))

theorem raileStores_keeps {s0 : State} (s : State) (ctx : Nat) (xs : List (Nat × List Byte)) (n : Nat) (hk : Keeps s0 s) :
    KeepsP s0 (raileStores s ctx xs n) := by
  induction xs generalizing s n with
  | nil => exact hk
  | cons x xs ih =>
    unfold raileStores
    have h := raileStore_keeps s ctx x.1 x.2 hk
    split <;> rename_i e
    · exact ih _ _ (keeps_of_pair e h)
    · exact keeps_of_pair e h

theorem touchBundle_keeps {s0 : State} (s : State) (i : Nat) (o : BundleOp) (hk : Keeps s0 s) :
    Keeps s0 (touchBundle s i o) := by
  unfold touchBundle
  repeat' (first
    | with_reducible assumption
    | (extract_lets +onlyGivenNames xv; clear_value xv)
    | with_reducible apply devTouch_keeps
    | with_reducible refine keeps_foldl _ ?_ (fun _ _ _ => ?_)
    | split)

theorem bundleRecord_keeps {s0 : State} (s : State) (i status committed : Nat) (quote : Option Nat) (hk : Keeps s0 s) :
    Keeps s0 (bundleRecord s i status committed quote) := by
  unfold bundleRecord
  repeat' (first
    | with_reducible assumption
    | (extract_lets +onlyGivenNames xv; clear_value xv)
    | with_reducible apply bumpSeq_keeps
    | with_reducible apply postRecord_keeps)

theorem snapRefs_keeps {s0 : State} (s : State) (i : Nat) (o : BundleOp) (take : Bool) (hk : Keeps s0 s) :
    Keeps s0 (snapRefs s i o take) := by
  unfold snapRefs
  repeat' (first
    | with_reducible assumption
    | (extract_lets +onlyGivenNames xv; clear_value xv)
    | with_reducible apply pageDrop_keeps
    | with_reducible apply pageRef_keeps
    | with_reducible refine keeps_foldl _ ?_ (fun _ _ _ => ?_)
    | split)

theorem stageBundle_keeps {s0 : State} (s : State) (t : Nat) (o : BundleOp) (hk : Keeps s0 s) :
    KeepsP s0 (stageBundle s t o) := by
  unfold stageBundle
  repeat' (first
    | with_reducible assumption
    | with_reducible intro _
    | (extract_lets +onlyGivenNames xv; first
      | (refine keeps_cut (P := Keeps s0 xv) ?_ (fun _ => ?_); unfold xv; clear xv; rotate_left; clear_value xv; rotate_left)
      | (refine keeps_cut (P := KeepsP s0 xv) ?_ (fun _ => ?_); unfold xv; clear xv; rotate_left; clear_value xv; rotate_left)
      | clear_value xv
      | (unfold xv; clear xv))
    | with_reducible refine keepsP_mk ?_
    | with_reducible apply giveFrame_keeps
    | with_reducible apply memStore_keeps
    | with_reducible refine keeps_foldl _ ?_ (fun _ _ _ => ?_))

theorem unstage_keeps {s0 : State} (s : State) (o : BundleOp) (hk : Keeps s0 s) :
    Keeps s0 (unstage s o) := by
  unfold unstage
  repeat' (first
    | with_reducible assumption
    | with_reducible apply setTag_keeps
    | with_reducible refine keeps_foldl _ ?_ (fun _ _ _ => ?_))

theorem markChanged_keeps {s0 : State} (s : State) (i : Nat) (hk : Keeps s0 s) :
    Keeps s0 (markChanged s i) := by
  unfold markChanged
  repeat' (first
    | with_reducible assumption
    | (extract_lets +onlyGivenNames xv; clear_value xv)
    | with_reducible apply setWork_keeps)

theorem abandonBundle_keeps {s0 : State} (s : State) (i : Nat) (o : BundleOp) (status : Nat) (hk : Keeps s0 s) :
    Keeps s0 (abandonBundle s i o status) := by
  unfold abandonBundle
  repeat' (first
    | with_reducible assumption
    | (extract_lets +onlyGivenNames xv; first
      | (refine keeps_cut (P := Keeps s0 xv) ?_ (fun _ => ?_); unfold xv; clear xv; rotate_left; clear_value xv; rotate_left)
      | clear_value xv)
    | with_reducible apply bundleRecord_keeps
    | with_reducible apply dropOp_keeps
    | with_reducible apply markChanged_keeps
    | with_reducible apply setEntry_keeps
    | with_reducible apply snapRefs_keeps
    | with_reducible apply unstage_keeps
    | split)

theorem keeps_ops {s0 s : State} (x : List BundleOp) (h : Keeps s0 s) : Keeps s0 { s with ops := x } :=
  keeps_same h rfl rfl rfl rfl rfl rfl

theorem startBundle_keeps {s0 : State} (s : State) (i kind addr region : Nat) (hk : Keeps s0 s) :
    Keeps s0 (startBundle s i kind addr region) := by
  unfold startBundle
  extract_lets +onlyGivenNames e m busy rows dirtyFork lay table total
  refine keeps_ite (fun _ => bundleRecord_keeps _ _ _ _ _ hk) (fun _ => keeps_ite (fun _ => bundleRecord_keeps _ _ _ _ _ hk) (fun _ => ?_))
  refine keeps_ite (fun _ => bundleRecord_keeps _ _ _ _ _ hk) (fun _ => keeps_ite (fun _ => bundleRecord_keeps _ _ _ _ _ hk) (fun _ => ?_))
  extract_lets +onlyGivenNames o st srcO o2 srcS s1
  have h0 : Keeps s0 st.1 := keepsP_fst (stageBundle_keeps _ _ _ (tickFree_keeps _ hk))
  have h1 : Keeps s0 s1 := snapRefs_keeps _ _ _ _ (keeps_ops _ h0)
  clear_value s1 o2
  have hI : ∀ e' w', Keeps s0 (if kind = 1 then setWork (setEntry s1 i e') i w' else s1) :=
    fun _ _ => keeps_ite (fun _ => setWork_keeps _ _ _ (setEntry_keeps _ _ _ h1)) (fun _ => h1)
  extract_lets +onlyGivenNames srcW s2
  have h2 : Keeps s0 s2 := hI _ _
  clear_value s2
  refine keeps_ite (fun _ => h2) (fun _ => ?_)
  extract_lets +onlyGivenNames r
  have hr : Keeps s0 r.1 := keepsP_fst (raileStore_keeps _ _ _ _ h2)
  exact keeps_ite (fun _ => setOp_keeps _ _ hr) (fun _ => abandonBundle_keeps _ _ _ _ hr)

theorem bundleCmd_keeps {s0 : State} (kind : Nat) (m : Mbox) (p : List Byte) (s : State) (hk : Keeps s0 s) :
    KeepsOut s0 (bundleCmd kind m p s) := by
  unfold bundleCmd
  extract_lets +onlyGivenNames bad
  refine bruah_keeps _ _ _ _ _ _ hk (fun t u hu => ?_)
  refine keepsP_ite (fun _ => keepsP_mk hu) (fun _ => ?_)
  split
  · exact keepsP_mk hu
  · refine keepsP_ite (fun _ => keepsP_mk hu) (fun _ => ?_)
    exact keepsP_mk (startBundle_keeps _ _ _ _ _ (setTen_keeps _ _ _ hu))

theorem execExportBundle_keeps {s0 : State} (m : Mbox) (p : List Byte) (s : State) (hk : Keeps s0 s) :
    KeepsOut s0 (execExportBundle m p s) := bundleCmd_keeps _ _ _ _ hk

theorem execPark_keeps {s0 : State} (m : Mbox) (p : List Byte) (s : State) (hk : Keeps s0 s) :
    KeepsOut s0 (execPark m p s) := bundleCmd_keeps _ _ _ _ hk

theorem endPark_keeps {s0 : State} (s : State) (i : Nat) (o : BundleOp) (hk : Keeps s0 s) :
    Keeps s0 (endPark s i o) := by
  unfold endPark
  repeat' (first
    | with_reducible assumption
    | (extract_lets +onlyGivenNames xv; first
      | (refine keeps_cut (P := Keeps s0 xv) ?_ (fun _ => ?_); unfold xv; clear xv; rotate_left; clear_value xv; rotate_left)
      | clear_value xv)
    | with_reducible apply markChanged_keeps
    | with_reducible apply setEntry_keeps
    | with_reducible apply setWork_keeps)

theorem execBundleWritten_keeps {s0 : State} (i : Fin 4096) (s : State) (hk : Keeps s0 s) :
    KeepsOut s0 (execBundleWritten i s) := by
  unfold execBundleWritten
  split
  · exact hk
  · rename_i o _
    refine keepsOut_ite (fun _ => hk) (fun _ => ?_)
    extract_lets +onlyGivenNames e
    refine keepsOut_ite (fun _ => keepsOut_next (setOp_keeps _ _ hk)) (fun _ => ?_)
    extract_lets +onlyGivenNames b parts r s1
    have hr : Keeps s0 r.1 := keepsP_fst (raileStores_keeps _ _ _ _ (touchBundle_keeps _ _ _ hk))
    have h1 : Keeps s0 s1 := meterMem_keeps _ _ _ (regBump_keeps _ _ _ hr)
    clear_value s1
    refine keepsOut_ite (fun _ => keepsOut_next (abandonBundle_keeps _ _ _ _ h1)) (fun _ => ?_)
    extract_lets +onlyGivenNames s2 s3
    have h2 : Keeps s0 s2 := unstage_keeps _ _ (dropOp_keeps _ _ (snapRefs_keeps _ _ _ _ h1))
    have h3 : Keeps s0 s3 := jrnlPut_keeps _ _ _ _ (flushProgress_keeps _ _ h2)
    clear_value s3
    refine keepsOut_ite (fun _ => keepsOut_next (bundleRecord_keeps _ _ _ _ _ (regBump_keeps _ _ _ (markChanged_keeps _ _ h3)))) (fun _ => ?_)
    exact keepsOut_next (bundleRecord_keeps _ _ _ _ _ (regBump_keeps _ _ _ (endPark_keeps _ _ _ h3)))

theorem liftFail_keeps {s0 : State} (s : State) (i status : Nat) (quote : Option Nat) (hk : Keeps s0 s) :
    Keeps s0 (liftFail s i status quote) := by
  unfold liftFail
  repeat' (first
    | with_reducible assumption
    | (extract_lets +onlyGivenNames xv; first
      | (refine keeps_cut (P := Keeps s0 xv) ?_ (fun _ => ?_); unfold xv; clear xv; rotate_left; clear_value xv; rotate_left)
      | (refine keeps_cut (P := KeepsOpt s0 xv) ?_ (fun _ => ?_); unfold xv; clear xv; rotate_left; clear_value xv; rotate_left)
      | clear_value xv
      | (unfold xv; clear xv))
    | with_reducible apply cutEntryItems_keeps
    | with_reducible apply dropBlocks_keeps
    | with_reducible apply releaseBookings_keeps
    | with_reducible apply dropOp_keeps
    | with_reducible apply setEntry_keeps
    | with_reducible apply setWork_keeps
    | with_reducible apply bundleRecord_keeps
    | with_reducible apply regBump_keeps)

theorem recoverLost_keeps {s0 : State} (s : State) (i : Nat) (hk : Keeps s0 s) :
    Keeps s0 (recoverLost s i) := by
  unfold recoverLost
  repeat' (first
    | with_reducible assumption
    | (extract_lets +onlyGivenNames xv; first
      | (refine keeps_cut (P := Keeps s0 xv) ?_ (fun _ => ?_); unfold xv; clear xv; rotate_left; clear_value xv; rotate_left)
      | clear_value xv)
    | with_reducible apply dropBlocks_keeps
    | with_reducible apply dropOp_keeps
    | with_reducible apply endRequest_keeps
    | with_reducible apply setEntry_keeps
    | with_reducible apply setWork_keeps)

theorem liftStop_keeps {s0 : State} (s : State) (i status : Nat) (quote : Option Nat) (hk : Keeps s0 s) :
    Keeps s0 (liftStop s i status quote) := by
  unfold liftStop
  repeat' (first
    | with_reducible assumption
    | with_reducible apply liftFail_keeps
    | with_reducible apply recoverLost_keeps
    | split)

theorem liftNew_keeps {s0 : State} (s : State) (t : LdId) (q tag image lp : Nat) (hk : Keeps s0 s) :
    KeepsP s0 (liftNew s t q tag image lp) := by
  unfold liftNew
  repeat' (first
    | with_reducible assumption
    | (extract_lets +onlyGivenNames xv; clear_value xv)
    | with_reducible refine keepsP_mk ?_
    | with_reducible apply setEntry_keeps
    | with_reducible apply setWork_keeps)

theorem execLift_keeps {s0 : State} (m : Mbox) (p : List Byte) (s : State) (hk : Keeps s0 s) :
    KeepsOut s0 (execLift m p s) := by
  unfold execLift
  extract_lets +onlyGivenNames fl tag isNew bad
  refine bruah_keeps _ _ _ _ _ _ hk (fun t u hu => ?_)
  extract_lets +onlyGivenNames q found isParked inFlight
  clear_value isParked inFlight found
  refine keepsP_ite (fun _ => keepsP_mk hu) (fun _ => keepsP_ite (fun _ => keepsP_mk hu) (fun _ => ?_))
  refine keepsP_ite (fun _ => keepsP_mk hu) (fun _ => keepsP_ite (fun _ => keepsP_mk hu) (fun _ => ?_))
  refine keepsP_ite (fun _ => keepsP_mk hu) (fun _ => ?_)
  have hT : ∀ x, Keeps s0 (setTen u t x) := fun x => setTen_keeps _ _ _ hu
  extract_lets +onlyGivenNames src s1
  have h1 : Keeps s0 s1 := hT _
  clear_value s1
  refine keepsP_ite (fun _ => keepsP_mk ?_) (fun _ => keepsP_ite (fun _ => keepsP_mk ?_) (fun _ => ?_))
  · cases found with
    | some x => exact bundleRecord_keeps _ _ _ _ _ h1
    | none => exact h1
  · exact postRecord_keeps _ _ _ _ _ _ h1
  · extract_lets +onlyGivenNames x s2 j us o s3
    have hx : KeepsP s0 x := keepsP_ite (fun _ => liftNew_keeps _ _ _ _ _ _ h1) (fun _ => h1)
    have h3 : Keeps s0 s3 := keeps_same (keepsP_fst hx) rfl rfl rfl rfl rfl rfl
    clear_value s3
    exact keepsP_mk (markChanged_keeps _ _ (setEntry_keeps _ _ _ h3))

theorem liftPages_keeps {s0 : State} (s : State) (i b valid : Nat) (isForked : Bool) (data : List Byte) (hk : Keeps s0 s) :
    Keeps s0 (liftPages s i b valid isForked data) := by
  unfold liftPages
  extract_lets e m t r s1
  have hr : KeepsP s0 r := newPages_keeps _ _ _ _ hk
  clear_value r
  exact putBlock_keeps _ _ _ _ (keeps_foldl _ (keepsP_fst hr) (fun t k ht => devWrite_keeps _ _ _ _ _ ht))

theorem rejoin_keeps {s0 : State} (s : State) (i : Nat) (hk : Keeps s0 s) :
    Keeps s0 (rejoin s i) := by
  unfold rejoin
  repeat' (first
    | with_reducible assumption
    | (extract_lets +onlyGivenNames xv; first
      | (refine keeps_cut (P := Keeps s0 xv) ?_ (fun _ => ?_); unfold xv; clear xv; rotate_left; clear_value xv; rotate_left)
      | clear_value xv
      | (unfold xv; clear xv))
    | with_reducible apply setQue_keeps)

theorem resumeEntry_keeps {s0 : State} (s : State) (i : Nat) (r : Recover) (hk : Keeps s0 s) :
    Keeps s0 (resumeEntry s i r) := by
  unfold resumeEntry
  extract_lets +onlyGivenNames srcE e w s1 requeue
  have h1 : Keeps s0 s1 := setWork_keeps _ _ _ (setEntry_keeps _ _ _ hk)
  have hq : ∀ t, Keeps s0 t → Keeps s0 (requeue t) := fun t h => rejoin_keeps _ _ (setEntry_keeps _ _ _ h)
  clear_value requeue s1
  split
  · exact rejoin_keeps _ _ h1
  · exact hq _ h1
  · exact hq _ h1
  · extract_lets
    split
    · rename_i e2
      exact setEntry_keeps _ _ _ (keeps_of_okP e2 (bookTail_keeps _ _ _ _ _ h1))
    · exact h1
  · exact h1

theorem finishLift_keeps {s0 : State} (s : State) (i : Nat) (quote : Option Nat) (hk : Keeps s0 s) :
    Keeps s0 (finishLift s i quote) := by
  unfold finishLift
  extract_lets +onlyGivenNames e w
  split
  · exact keeps_ite (fun _ => resumeEntry_keeps _ _ _ (setValid_keeps _ _ _ (dropOp_keeps _ _ hk))) (fun _ => dropOp_keeps _ _ hk)
  · split
    · exact hk
    · rename_i o _
      have hE : ∀ e', Keeps s0 (dropOp (releaseBookings (setEntry s i e') i) i) :=
        fun e' => dropOp_keeps _ _ (releaseBookings_keeps _ _ (setEntry_keeps _ _ _ hk))
      extract_lets +onlyGivenNames st s1 s2
      have h2 : Keeps s0 s2 := hE _
      clear_value s2
      have hW : ∀ w', Keeps s0 (hashBlocks (setValid (setWork s2 i w') i o.committed) i) :=
        fun w' => hashBlocks_keeps _ _ (setValid_keeps _ _ _ (setWork_keeps _ _ _ h2))
      extract_lets +onlyGivenNames src s3 s4 s5
      have h4 : Keeps s0 s4 := hW _
      have h5 : Keeps s0 s5 := keeps_ite (fun _ => insertBlocks_keeps _ _ _ _ h4) (fun _ => h4)
      exact bundleRecord_keeps _ _ _ _ _ (regBump_keeps _ _ _ h5)

theorem liftRead_keeps {s0 : State} (s : State) (i : Nat) (hk : Keeps s0 s) : Keeps s0 (liftRead s i) := by
  unfold liftRead
  split
  · exact hk
  · refine keeps_ite (fun _ => hk) (fun _ => ?_)
    extract_lets
    refine keeps_ite (fun _ => finishLift_keeps _ _ _ (setEntry_keeps _ _ _ (setWork_keeps _ _ _ hk))) (fun _ => ?_)
    exact setWork_keeps _ _ _ hk

theorem nameBundle_keeps {s0 : State} (s : State) (i : Nat) (digest : List Byte) (hk : Keeps s0 s) :
    Keeps s0 (nameBundle s i digest) := by
  unfold nameBundle
  repeat' (first
    | with_reducible assumption
    | (extract_lets +onlyGivenNames xv; clear_value xv)
    | with_reducible apply jrnlPut_keeps
    | split)

theorem liftSource_keeps {s0 : State} (s : State) (ctx addr n : Nat) (bs : List Byte) (ok : Bool) (hk : Keeps s0 s) :
    KeepsOptP s0 (liftSource s ctx addr n bs ok) := by
  unfold liftSource
  split
  · split
    · exact ownDenied_keeps _ _ hk
    · rename_i e
      exact devTouch_keeps _ _ _ _ (keeps_of_okP e (railAccess_keeps _ _ _ _ _ _ hk))
  · split
    · trivial
    · exact hk

theorem liftHead_keeps {s0 : State} (s : State) (i : Nat) (o : BundleOp) (x : LiftHeader) (hk : Keeps s0 s) :
    KeepsOptP s0 (liftHead s i o x) := by
  unfold liftHead
  extract_lets t
  split
  · trivial
  · rename_i s1 h ok e
    have h1 : Keeps s0 s1 := keeps_of_someP e (liftSource_keeps _ _ _ _ _ _ hk)
    split
    · exact h1
    · split
      · exact h1
      · exact keepsOptP_map _ (liftSource_keeps _ _ _ _ _ _ h1) (fun _ => rfl)

theorem liftData_keeps {s0 : State} (s : State) (i : Nat) (o : BundleOp) (ofs len : Nat) (x : LiftBlock) (hk : Keeps s0 s) :
    KeepsOptP s0 (liftData s i o ofs len x) := by
  unfold liftData
  extract_lets t
  split
  · trivial
  · rename_i s1 tok ok e
    have h1 : Keeps s0 s1 := keeps_of_someP e (liftSource_keeps _ _ _ _ _ _ hk)
    split
    · exact h1
    · split
      · exact h1
      · exact keepsOptP_map _ (liftSource_keeps _ _ _ _ _ _ h1) (fun _ => rfl)

theorem execLiftHeaderRead_keeps {s0 : State} (i : Fin 4096) (x : LiftHeader) (s : State) (hk : Keeps s0 s) :
    KeepsOut s0 (execLiftHeaderRead i x s) := by
  unfold execLiftHeaderRead
  split
  · exact hk
  · rename_i o _
    refine keepsOut_ite (fun _ => hk) (fun _ => ?_)
    split
    · exact hk
    · rename_i u x e0
      have h0 : Keeps s0 u := keeps_of_someP e0 (liftHead_keeps _ _ _ _ hk)
      extract_lets +onlyGivenNames e n s1
      have h1 : Keeps s0 s1 := meterMem_keeps _ _ _ (regBump_keeps _ _ _ h0)
      clear_value s1
      extract_lets +onlyGivenNames r h o2 s2
      have h2 : Keeps s0 s2 := setOp_keeps _ _ h1
      clear_value s2
      refine keepsOut_ite (fun _ => keepsOut_next (liftStop_keeps _ _ _ _ h2)) (fun _ => ?_)
      extract_lets +onlyGivenNames m n lay frames pool
      have hp : Keeps s0 pool.1 := keepsP_fst (poolEvict_keeps _ _ _ _ h2)
      refine keepsOut_ite (fun _ => keepsOut_next (liftStop_keeps _ _ _ _ hp)) (fun _ => ?_)
      have hO : ∀ o', Keeps s0 (setOp pool.1 o') := fun _ => setOp_keeps _ _ hp
      extract_lets +onlyGivenNames s3 s4
      have h3 : Keeps s0 s3 := hO _
      clear_value s3
      have h4 : Keeps s0 s4 := keeps_ite (fun _ => nameBundle_keeps _ _ _ h3) (fun _ => h3)
      clear_value s4
      have hE : ∀ e' w', Keeps s0 (setWork (setEntry s4 i.val e') i.val w') := fun _ _ => setWork_keeps _ _ _ (setEntry_keeps _ _ _ h4)
      exact keepsOut_next (keeps_ite (fun _ => liftRead_keeps _ _ (hE _ _)) (fun _ => hE _ _))

theorem execLiftBlockRead_keeps {s0 : State} (i : Fin 4096) (x : LiftBlock) (s : State) (hk : Keeps s0 s) :
    KeepsOut s0 (execLiftBlockRead i x s) := by
  unfold execLiftBlockRead
  repeat' (first
    | with_reducible assumption
    | with_reducible intro _
    | (extract_lets +onlyGivenNames xv; first
      | (refine keeps_cut (P := Keeps s0 xv) ?_ (fun _ => ?_); unfold xv; clear xv; rotate_left; clear_value xv; rotate_left)
      | (refine keeps_cut (P := KeepsOptP s0 xv) ?_ (fun _ => ?_); unfold xv; clear xv; rotate_left; clear_value xv; rotate_left)
      | (refine keeps_cut (P := KeepsOpt s0 xv) ?_ (fun _ => ?_); unfold xv; clear xv; rotate_left; clear_value xv; rotate_left)
      | (refine keeps_cut (P := KeepsP s0 xv) ?_ (fun _ => ?_); unfold xv; clear xv; rotate_left; clear_value xv; rotate_left)
      | clear_value xv
      | (unfold xv; clear xv))
    | with_reducible refine keepsOptP_some ?_
    | with_reducible exact keepsOptP_none
    | with_reducible refine keepsOut_next ?_
    | with_reducible exact keepsOut_fault _
    | with_reducible exact keepsOut_refused _
    | with_reducible apply liftData_keeps
    | with_reducible apply meterMem_keeps
    | with_reducible apply regBump_keeps
    | with_reducible apply setOp_keeps
    | with_reducible apply liftPages_keeps
    | with_reducible apply liftRead_keeps
    | with_reducible apply liftStop_keeps
    | split
    | with_reducible refine keepsP_fst ?_
    | with_reducible refine keeps_of_someP (by assumption) ?_)

theorem execLiftResowBooking_keeps {s0 : State} (i : Fin 4096) (s : State) (hk : Keeps s0 s) :
    KeepsOut s0 (execLiftResowBooking i s) := by
  unfold execLiftResowBooking
  repeat' (first
    | with_reducible assumption
    | (extract_lets +onlyGivenNames xv; first
      | (refine keeps_cut (P := Keeps s0 xv) ?_ (fun _ => ?_); unfold xv; clear xv; rotate_left; clear_value xv; rotate_left)
      | clear_value xv)
    | with_reducible refine keepsOut_next ?_
    | with_reducible apply ensureBlocks_keeps
    | with_reducible apply liftStop_keeps
    | with_reducible apply regBump_keeps
    | with_reducible apply setEntry_keeps
    | with_reducible apply setWork_keeps
    | split)

theorem commitResow_keeps {s0 : State} (s : State) (i : Nat) (hk : Keeps s0 s) : Keeps s0 (commitResow s i) := by
  unfold commitResow
  extract_lets +onlyGivenNames e w s1
  have h1 : Keeps s0 s1 := keeps_same hk rfl rfl rfl rfl rfl rfl
  clear_value s1
  have hE : ∀ e' w', Keeps s0 (setEntry (setWork s1 i w') i e') := fun _ _ => setEntry_keeps _ _ _ (setWork_keeps _ _ _ h1)
  extract_lets +onlyGivenNames s2 s3
  have h3 : Keeps s0 s3 := hE _ _
  clear_value s3
  refine keeps_ite (fun _ => h3) (fun _ => ?_)
  have hc : ∀ c, Keeps s0 (if w.recover.isSome then setEntry s3 i { entryOf s3 i with committed := c } else s3) :=
    fun c => keeps_ite (fun _ => setEntry_keeps _ _ _ h3) (fun _ => h3)
  exact finishLift_keeps _ _ _ (lateCheck_keeps _ _ (setWork_keeps _ _ _ (hc _)))

theorem execChunkCommit_keeps {s0 : State} (i : Fin 4096) (s : State) (hk : Keeps s0 s) :
    KeepsOut s0 (execChunkCommit i s) := by
  unfold execChunkCommit
  refine keepsOut_ite (fun _ => keepsOut_next (commitChunk_keeps _ _ hk)) (fun _ => keepsOut_ite (fun _ => ?_) (fun _ => hk))
  exact keepsOut_next (commitResow_keeps _ _ hk)

theorem execBundleWriteFailed_keeps {s0 : State} (i : Fin 4096) (s : State) (hk : Keeps s0 s) :
    KeepsOut s0 (execBundleWriteFailed i s) := by
  unfold execBundleWriteFailed
  repeat' (first
    | with_reducible assumption
    | (extract_lets +onlyGivenNames xv; clear_value xv)
    | with_reducible refine keepsOut_next ?_
    | with_reducible apply abandonBundle_keeps
    | split)

end Sys2Proof.Machine
end

