-- ==== Sys2Proof/Laws/JournalKeeps.lean ====
section
/-! SUPPORT. What the definitions of Machine/Journal.lean keep (Laws/Keeps.lean). -/

namespace Sys2Proof.Machine

theorem noteWritten_keeps {s0 : State} (s : State) (x : JRec × Nat) (hk : Keeps s0 s) :
    Keeps s0 (noteWritten s x) := by
  unfold noteWritten
  repeat' (first
    | with_reducible assumption
    | (extract_lets +onlyGivenNames xv; clear_value xv)
    | with_reducible apply setWork_keeps
    | split)

theorem gatherProgress_keeps {s0 : State} (s : State) (hk : Keeps s0 s) :
    Keeps s0 (gatherProgress s) := by
  unfold gatherProgress
  repeat' (first
    | with_reducible assumption
    | with_reducible apply flushProgress_keeps
    | with_reducible refine keeps_foldl _ ?_ (fun _ _ _ => ?_))

theorem adoptJournal_keeps {s0 : State} (s : State) (hk : Keeps s0 s) :
    Keeps s0 (adoptJournal s) := by
  unfold adoptJournal
  repeat' (first
    | with_reducible assumption
    | (extract_lets +onlyGivenNames xv; first
      | (refine keeps_cut (P := Keeps s0 xv) ?_ (fun _ => ?_); unfold xv; clear xv; rotate_left; clear_value xv; rotate_left)
      | clear_value xv)
    | with_reducible apply regSet_keeps
    | split
    | (simp -zeta only [↓keeps_mk]; with_reducible refine keeps_upd ?_))

theorem writePiece_keeps {s0 : State} (s : State) (x : Nat × List Byte) (hk : Keeps s0 s) : Keeps s0 (writePiece s x) := by
  unfold writePiece
  extract_lets +onlyGivenNames addr
  split
  · exact send_keeps _ _ hk
  · extract_lets +onlyGivenNames r
    have hr : Keeps s0 r.1 := raileStore_keeps _ _ _ _ hk
    clear_value r
    exact keeps_same hr rfl rfl rfl rfl rfl rfl

theorem journalBatch_keeps {s0 : State} (s : State) (hk : Keeps s0 s) :
    Keeps s0 (journalBatch s) := by
  unfold journalBatch
  repeat' (first
    | with_reducible assumption
    | with_reducible intro _
    | (extract_lets +onlyGivenNames xv; first
      | (refine keeps_cut (P := Keeps s0 xv) ?_ (fun _ => ?_); unfold xv; clear xv; rotate_left; clear_value xv; rotate_left)
      | clear_value xv
      | (unfold xv; clear xv))
    | with_reducible apply adoptJournal_keeps
    | with_reducible apply haltDevice_keeps
    | with_reducible apply gatherProgress_keeps
    | with_reducible apply regBump_keeps
    | with_reducible apply regFlag_keeps
    | with_reducible apply noteWritten_keeps
    | with_reducible apply writePiece_keeps
    | with_reducible apply regSet_keeps
    | with_reducible refine keeps_foldl _ ?_ (fun _ _ _ => ?_)
    | with_reducible refine keeps_foldlP _ ?_ (fun _ _ _ => ?_)
    | split
    | with_reducible refine keepsP_fst ?_
    | (simp -zeta only [↓keeps_mk]; with_reducible refine keeps_upd ?_))

theorem execJournalBatchDone_keeps {s0 : State} (error : Bool) (s : State) (hk : Keeps s0 s) :
    KeepsOut s0 (execJournalBatchDone error s) := by
  unfold execJournalBatchDone
  repeat' (first
    | with_reducible assumption
    | (extract_lets +onlyGivenNames xv; first
      | (refine keeps_cut (P := Keeps s0 xv) ?_ (fun _ => ?_); unfold xv; clear xv; rotate_left; clear_value xv; rotate_left)
      | clear_value xv
      | (unfold xv; clear xv))
    | with_reducible refine keepsOut_next ?_
    | with_reducible exact keepsOut_fault _
    | with_reducible exact keepsOut_refused _
    | with_reducible apply regFlag_keeps
    | with_reducible apply noteWritten_keeps
    | with_reducible apply regSet_keeps
    | with_reducible apply regBump_keeps
    | with_reducible apply sendMsix_keeps
    | with_reducible refine keeps_foldl _ ?_ (fun _ _ _ => ?_)
    | with_reducible refine keeps_foldlP _ ?_ (fun _ _ _ => ?_)
    | split
    | with_reducible refine keepsP_fst ?_
    | (simp -zeta only [↓keeps_mk]; with_reducible refine keeps_upd ?_))

theorem execJrnlTailWrite_keeps {s0 : State} (val : Reg64) (s : State) (hk : Keeps s0 s) :
    KeepsOut s0 (execJrnlTailWrite val s) := by
  unfold execJrnlTailWrite
  repeat' (first
    | with_reducible assumption
    | with_reducible refine keepsOut_next ?_
    | with_reducible apply regSet_keeps)

theorem execStartRecovery_keeps {s0 : State} (m : Mbox) (p : List Byte) (s : State) (hk : Keeps s0 s) :
    KeepsOut s0 (execStartRecovery m p s) := by
  unfold execStartRecovery
  refine bruah_keeps _ _ _ _ _ _ hk (fun t u hu => ?_)
  split
  · exact keepsP_mk hu
  · exact keepsP_mk (keeps_same (regFlag_keeps _ _ _ hu) rfl rfl rfl rfl rfl rfl)

theorem rebuildEntry_keeps {s0 : State} (s : State) (ld : LdId) (x : EntryImg) (hk : Keeps s0 s) :
    Keeps s0 (rebuildEntry s ld x) := by
  unfold rebuildEntry
  extract_lets +onlyGivenNames i p own fl img aid slot lp st bundleAt e live back target lpLen w srcT s2 s3
  have h2 : Keeps s0 s2 := keeps_ite (fun _ => setTen_keeps _ _ _ hk) (fun _ => hk)
  have h3 : Keeps s0 s3 := setWork_keeps _ _ _ (setEntry_keeps _ _ _ h2)
  clear_value s2 e w s3
  refine keeps_ite (fun _ => setWork_keeps _ _ _ (setEntry_keeps _ _ _ h2)) (fun _ => ?_)
  split
  · extract_lets +onlyGivenNames isLift srcS s4
    have h4 : Keeps s0 s4 := keeps_ite (fun _ => setWork_keeps _ _ _ h3) (fun _ => h3)
    exact keeps_same h4 rfl rfl rfl rfl rfl rfl
  · refine keeps_ite (fun _ => recoverLost_keeps _ _ h3) (fun _ => keeps_ite (fun _ => resumeEntry_keeps _ _ _ (setEntry_keeps _ _ _ h3)) (fun _ => ?_))
    extract_lets +onlyGivenNames frames r
    have hr : Keeps s0 r.1 := keepsP_fst (poolEvict_keeps _ _ _ _ h3)
    exact keeps_ite (fun _ => setWork_keeps _ _ _ hr) (fun _ => recoverLost_keeps _ _ hr)

theorem ringSource_keeps {s0 : State} (s : State) (hk : Keeps s0 s) : KeepsOptP s0 (ringSource s) := by
  unfold ringSource
  extract_lets a n
  split
  · split
    · exact hk
    · trivial
  · split
    · split
      · exact hk
      · trivial
    · split
      · exact ownDenied_keeps _ _ hk
      · rename_i e
        exact devTouch_keeps _ _ _ _ (keeps_of_okP e (railAccess_keeps _ _ _ _ _ _ hk))

theorem execRecoverLd_keeps {s0 : State} (ld : LdId) (batches : List (List Byte)) (s : State) (hk : Keeps s0 s) :
    KeepsOut s0 (execRecoverLd ld batches s) := by
  unfold execRecoverLd
  refine keepsOut_ite (fun _ => keepsOut_next hk) (fun _ => ?_)
  split
  · exact keepsOut_next hk
  · rename_i u held e0
    have h0 : Keeps s0 u := keeps_of_someP e0 (ringSource_keeps _ hk)
    extract_lets +onlyGivenNames good need
    refine keepsOut_ite (fun _ => keepsOut_next h0) (fun _ => ?_)
    extract_lets +onlyGivenNames ims whole s1 done srcJ s2
    have h1 : Keeps s0 s1 := keeps_foldl _ h0 (fun _ _ h => rebuildEntry_keeps _ _ _ h)
    have h2 : Keeps s0 s2 := keeps_same h1 rfl rfl rfl rfl rfl rfl
    exact keepsOut_ite (fun _ => keepsOut_next (regPut_keeps _ _ _ _ _ (regSet_keeps _ _ _ h2))) (fun _ => keepsOut_next h2)

end Sys2Proof.Machine
end

