-- ==== Sys2Proof/Laws/DomainKeeps.lean ====
section
/-! SUPPORT. What the definitions of Machine/Domain.lean keep (Laws/Keeps.lean). -/

namespace Sys2Proof.Machine

theorem tenantReset_keeps {s0 : State} (s : State) (t : LdId) (ack : Option Mbox) (hk : Keeps s0 s) :
    Keeps s0 (tenantReset s t ack) := by
  unfold tenantReset
  repeat' (first
    | with_reducible assumption
    | (extract_lets +onlyGivenNames xv; first
      | (refine keeps_cut (P := Keeps s0 xv) ?_ (fun _ => ?_); unfold xv; clear xv; rotate_left; clear_value xv; rotate_left)
      | clear_value xv)
    | with_reducible apply dropOp_keeps
    | with_reducible apply setTen_keeps
    | with_reducible apply setWork_keeps
    | with_reducible apply snapRefs_keeps
    | with_reducible apply unstage_keeps
    | with_reducible refine keeps_foldl _ ?_ (fun _ _ _ => ?_)
    | split)

theorem resetEntry_keeps {s0 : State} (s : State) (i : Nat) (hk : Keeps s0 s) :
    Keeps s0 (resetEntry s i) := by
  unfold resetEntry
  repeat' (first
    | with_reducible assumption
    | (extract_lets +onlyGivenNames xv; first
      | (refine keeps_cut (P := Keeps s0 xv) ?_ (fun _ => ?_); unfold xv; clear xv; rotate_left; clear_value xv; rotate_left)
      | clear_value xv)
    | with_reducible apply cutEntryItems_keeps
    | with_reducible apply freeEntry_keeps
    | with_reducible apply postRecord_keeps
    | with_reducible apply releaseBookings_keeps
    | with_reducible apply setEntry_keeps)

theorem tenantResetTick_keeps {s0 : State} (s : State) (t : LdId) (hk : Keeps s0 s) :
    Keeps s0 (tenantResetTick s t) := by
  unfold tenantResetTick
  repeat' (first
    | with_reducible assumption
    | with_reducible intro _
    | (extract_lets +onlyGivenNames xv; first
      | (refine keeps_cut (P := Keeps s0 xv) ?_ (fun _ => ?_); unfold xv; clear xv; rotate_left; clear_value xv; rotate_left)
      | clear_value xv
      | (unfold xv; clear xv))
    | with_reducible apply resetEntry_keeps
    | with_reducible apply setTen_keeps
    | with_reducible apply sendMsix_keeps
    | with_reducible apply reply_keeps
    | with_reducible refine keeps_foldl _ ?_ (fun _ _ _ => ?_)
    | with_reducible refine keeps_foldlP _ ?_ (fun _ _ _ => ?_)
    | split
    | with_reducible refine keepsP_fst ?_
    | (simp -zeta only [↓keeps_mk]; with_reducible refine keeps_upd ?_))

theorem tenantResetHeadland_keeps {s0 : State} (s : State) (t : LdId) (hk : Keeps s0 s) :
    Keeps s0 (tenantResetHeadland s t) := by
  unfold tenantResetHeadland
  repeat' (first
    | with_reducible assumption
    | with_reducible intro _
    | (extract_lets +onlyGivenNames xv; first
      | (refine keeps_cut (P := Keeps s0 xv) ?_ (fun _ => ?_); unfold xv; clear xv; rotate_left; clear_value xv; rotate_left)
      | clear_value xv
      | (unfold xv; clear xv))
    | with_reducible apply regSet_keeps
    | with_reducible apply removeSubtree_keeps
    | with_reducible apply setTen_keeps
    | with_reducible refine keeps_foldl _ ?_ (fun _ _ _ => ?_))

theorem clearKeys_keeps {s0 : State} (s : State) (t : LdId) (hk : Keeps s0 s) :
    Keeps s0 (clearKeys s t) := by
  unfold clearKeys
  repeat' (first
    | with_reducible assumption
    | with_reducible apply setMaterial_keeps)

theorem tenantFault_keeps {s0 : State} (s : State) (t : LdId) (source unit code : Nat) (keyErr : Bool) (hk : Keeps s0 s) :
    Keeps s0 (tenantFault s t source unit code keyErr) := by
  unfold tenantFault
  repeat' (first
    | with_reducible assumption
    | (extract_lets +onlyGivenNames xv; refine keeps_cut (P := Keeps s0 xv) ?_ (fun _ => ?_); unfold xv; clear xv; rotate_left; clear_value xv; rotate_left)
    | with_reducible apply clearKeys_keeps
    | with_reducible apply logFault_keeps
    | with_reducible apply tenantReset_keeps
    | split)

theorem resetCmd_keeps {s0 : State} (c : Cmd) (m : Mbox) (p : List Byte) (s : State) (hk : Keeps s0 s) :
    KeepsOut s0 (resetCmd c m p s) := by
  unfold resetCmd
  repeat' (first
    | with_reducible assumption
    | with_reducible refine keepsOut_next ?_
    | with_reducible apply reply_keeps
    | with_reducible apply tenantReset_keeps
    | split)

theorem execResetSelf_keeps {s0 : State} (m : Mbox) (p : List Byte) (s : State) (hk : Keeps s0 s) :
    KeepsOut s0 (execResetSelf m p s) := by
  unfold execResetSelf
  repeat' (first
    | with_reducible assumption
    | with_reducible apply resetCmd_keeps)

theorem execResetTenant_keeps {s0 : State} (m : Mbox) (p : List Byte) (s : State) (hk : Keeps s0 s) :
    KeepsOut s0 (execResetTenant m p s) := by
  unfold execResetTenant
  repeat' (first
    | with_reducible assumption
    | with_reducible apply resetCmd_keeps)

theorem execSecKeyClear_keeps {s0 : State} (mask : BitVec 16) (s : State) (hk : Keeps s0 s) :
    KeepsOut s0 (execSecKeyClear mask s) := by
  unfold execSecKeyClear
  repeat' (first
    | with_reducible assumption
    | with_reducible intro _
    | with_reducible refine keepsOut_next ?_
    | with_reducible apply clearKeys_keeps
    | with_reducible apply forLds_keeps
    | with_reducible apply tenantReset_keeps
    | split)

end Sys2Proof.Machine
end

