-- ==== Sys2Proof/Laws/FetchKeeps.lean ====
section
/-! SUPPORT. What the definitions of Machine/Fetch.lean keep (Laws/Keeps.lean). -/

namespace Sys2Proof.Machine

/-- The state that a translation carries keeps. -/
def KeepsXl (s0 : State) : Xlate → Prop
  | .tva s _ _ => Keeps s0 s
  | _ => True

theorem keepsXl_tva {s0 s : State} {t : LdId} {v : Nat} (h : Keeps s0 s) : KeepsXl s0 (.tva s t v) := h
theorem keepsXl_bad {s0 : State} (c st : Nat) : KeepsXl s0 (.bad c st) := trivial
theorem keepsXl_image {s0 : State} : KeepsXl s0 .image := trivial
theorem keepsXl_remote {s0 : State} : KeepsXl s0 .remote := trivial
theorem keepsXl_denied {s0 : State} (c : Nat) : KeepsXl s0 (.denied c) := trivial
theorem keeps_of_xlTva {s0 s : State} {t : LdId} {v : Nat} {r : Xlate} (e : r = .tva s t v) (h : KeepsXl s0 r) :
    Keeps s0 s := by subst e; exact h

theorem setSlot_keeps {s0 : State} (s : State) (f : FeId) (k : Fin 64) (d : DescRun) (hk : Keeps s0 s) :
    Keeps s0 (setSlot s f k d) := by
  unfold setSlot
  repeat' (first
    | with_reducible assumption
    | (extract_lets +onlyGivenNames xv; clear_value xv)
    | with_reducible apply setFe_keeps)

theorem showFault_keeps {s0 : State} (s : State) (f : FeId) (hk : Keeps s0 s) :
    Keeps s0 (showFault s f) := by
  unfold showFault
  repeat' (first
    | with_reducible assumption
    | with_reducible apply regPut_keeps
    | with_reducible apply regSet_keeps
    | split)

theorem raiseFault_keeps {s0 : State} (s : State) (f : FeId) (x : FeFault) (hk : Keeps s0 s) :
    Keeps s0 (raiseFault s f x) := by
  unfold raiseFault
  repeat' (first
    | with_reducible assumption
    | (extract_lets +onlyGivenNames xv; clear_value xv)
    | with_reducible apply regBump_keeps
    | with_reducible apply setFe_keeps
    | with_reducible apply showFault_keeps)

theorem slotFaults_keeps {s0 : State} (s : State) (f : FeId) (k : Fin 64) (g : FeFault → Option FeFault) (hk : Keeps s0 s) :
    Keeps s0 (slotFaults s f k g) := by
  unfold slotFaults
  repeat' (first
    | with_reducible assumption
    | (extract_lets +onlyGivenNames xv; clear_value xv)
    | with_reducible apply setFe_keeps
    | with_reducible apply showFault_keeps)

theorem failFetch_keeps {s0 : State} (s : State) (f : FeId) (w : ItemRun) (addr detail status : Nat) (hk : Keeps s0 s) :
    Keeps s0 (failFetch s f w addr detail status) := by
  unfold failFetch
  repeat' (first
    | with_reducible assumption
    | (extract_lets +onlyGivenNames xv; refine keeps_cut (P := Keeps s0 xv) ?_ (fun _ => ?_); unfold xv; clear xv; rotate_left; clear_value xv; rotate_left)
    | with_reducible apply logFault_keeps
    | with_reducible apply setItem_keeps)

theorem descFault_keeps {s0 : State} (s : State) (f : FeId) (k : Fin 64) (w : ItemRun) (d : DescRun) (code addr : Nat) (status : Nat) (hk : Keeps s0 s) :
    Keeps s0 (descFault s f k w d code addr status) := by
  unfold descFault
  repeat' (first
    | with_reducible assumption
    | (extract_lets +onlyGivenNames xv; first
      | (refine keeps_cut (P := Keeps s0 xv) ?_ (fun _ => ?_); unfold xv; clear xv; rotate_left; clear_value xv; rotate_left)
      | clear_value xv)
    | with_reducible apply failFetch_keeps
    | with_reducible apply noteItem_keeps
    | with_reducible apply raiseFault_keeps
    | with_reducible apply setSlot_keeps
    | with_reducible apply slotFaults_keeps
    | split)

theorem needRemote_keeps {s0 : State} (s : State) (f : FeId) (k : Fin 64) (w : ItemRun) (d : DescRun) (list : Bool) (a n : Nat) (hk : Keeps s0 s) :
    KeepsOpt s0 (needRemote s f k w d list a n) := by
  unfold needRemote
  repeat' (first
    | with_reducible assumption
    | (extract_lets +onlyGivenNames xv; first
      | (refine keeps_cut (P := Keeps s0 xv) ?_ (fun _ => ?_); unfold xv; clear xv; rotate_left; clear_value xv; rotate_left)
      | clear_value xv)
    | with_reducible refine keepsOpt_some ?_
    | with_reducible exact keepsOpt_none
    | with_reducible apply descFault_keeps
    | with_reducible apply sendReadReq_keeps
    | with_reducible apply setSlot_keeps
    | with_reducible apply useOp_keeps
    | split)

theorem needEntry_keeps {s0 : State} (s : State) (f : FeId) (k : Fin 64) (w : ItemRun) (d : DescRun) (hk : Keeps s0 s) :
    KeepsOpt s0 (needEntry s f k w d) := by
  unfold needEntry
  repeat' (first
    | with_reducible assumption
    | (extract_lets +onlyGivenNames xv; clear_value xv)
    | with_reducible exact keepsOpt_none
    | with_reducible apply needRemote_keeps
    | split)

theorem listFault_keeps {s0 : State} (s : State) (f : FeId) (k : Fin 64) (w : ItemRun) (d : DescRun) (code a : Nat) (hk : Keeps s0 s) :
    Keeps s0 (listFault s f k w d code a) := by
  unfold listFault
  repeat' (first
    | with_reducible assumption
    | with_reducible intro _
    | with_reducible apply descFault_keeps
    | with_reducible apply damageFrame_keeps
    | split)

theorem xlate_keeps {s0 : State} (s : State) (w : ItemRun) (d : Desc) (wr : Bool) (a n : Nat) (hk : Keeps s0 s) :
    KeepsXl s0 (xlate s w d wr a n) := by
  unfold xlate
  repeat' (first
    | with_reducible assumption
    | (extract_lets +onlyGivenNames xv; clear_value xv)
    | with_reducible refine keepsXl_tva ?_
    | with_reducible exact keepsXl_bad _ _
    | with_reducible exact keepsXl_image
    | with_reducible exact keepsXl_remote
    | with_reducible exact keepsXl_denied _
    | with_reducible apply railAccess_keeps
    | split
    | with_reducible refine keeps_of_okP (by assumption) ?_)

theorem listTouch_keeps {s0 : State} (s : State) (w : ItemRun) (d : Desc) (pos : List Nat) (hk : Keeps s0 s) :
    Keeps s0 (listTouch s w d pos) := by
  unfold listTouch
  repeat' (first
    | with_reducible assumption
    | (extract_lets +onlyGivenNames xv; first
      | (refine keeps_cut (P := Keeps s0 xv) ?_ (fun _ => ?_); unfold xv; clear xv; rotate_left; clear_value xv; rotate_left)
      | (refine keeps_cut (P := KeepsExP s0 xv) ?_ (fun _ => ?_); unfold xv; clear xv; rotate_left; clear_value xv; rotate_left)
      | (refine keeps_cut (P := KeepsOpt s0 xv) ?_ (fun _ => ?_); unfold xv; clear xv; rotate_left; clear_value xv; rotate_left)
      | clear_value xv
      | (unfold xv; clear xv))
    | with_reducible refine keepsExP_ok ?_
    | with_reducible exact keepsExP_error _
    | with_reducible apply workRead_keeps
    | with_reducible apply tvaTouch_keeps
    | with_reducible apply railAccess_keeps
    | with_reducible apply ownDenied_keeps
    | split
    | with_reducible refine keeps_of_okP (by assumption) ?_)

theorem burstRead_keeps {s0 : State} (s : State) (hint p : Nat) (e : BurstEnv) (hk : Keeps s0 s) :
    Keeps s0 (burstRead s hint p e) := by
  unfold burstRead
  repeat' (first
    | with_reducible assumption
    | with_reducible apply mereRead_keeps
    | with_reducible apply eccCorrect_keeps
    | with_reducible apply eccPoison_keeps
    | with_reducible apply workRead_keeps
    | split)

theorem ringStall_keeps {s0 : State} (s : State) (f : FeId) (k : Fin 64) (w : ItemRun) (d : DescRun) (hk : Keeps s0 s) :
    Keeps s0 (ringStall s f k w d) := by
  unfold ringStall
  repeat' (first
    | with_reducible assumption
    | (extract_lets +onlyGivenNames xv; first
      | (refine keeps_cut (P := Keeps s0 xv) ?_ (fun _ => ?_); unfold xv; clear xv; rotate_left; clear_value xv; rotate_left)
      | clear_value xv)
    | with_reducible apply regBump_keeps
    | with_reducible apply setSlot_keeps)

theorem stallEnd_keeps {s0 : State} (s : State) (w : ItemRun) (d : DescRun) (hk : Keeps s0 s) :
    Keeps s0 (stallEnd s w d) := by
  unfold stallEnd
  repeat' (first
    | with_reducible assumption
    | with_reducible apply regBump_keeps)

theorem readDeliver_keeps {s0 : State} (s : State) (f : FeId) (k : Fin 64) (w : ItemRun) (d : DescRun) (q : Fin 6) (bs : List Byte) (hk : Keeps s0 s) :
    Keeps s0 (readDeliver s f k w d q bs) := by
  unfold readDeliver
  repeat' (first
    | with_reducible assumption
    | (extract_lets +onlyGivenNames xv; first
      | (refine keeps_cut (P := Keeps s0 xv) ?_ (fun _ => ?_); unfold xv; clear xv; rotate_left; clear_value xv; rotate_left)
      | clear_value xv
      | (unfold xv; clear xv))
    | with_reducible apply setSlot_keeps
    | with_reducible apply stallEnd_keeps
    | with_reducible apply ringDeliver_keeps
    | with_reducible apply meterMem_keeps
    | with_reducible apply regBump_keeps)

theorem readWaits_keeps {s0 : State} (s : State) (f : FeId) (k : Fin 64) (w : ItemRun) (d : DescRun) (hk : Keeps s0 s) :
    Keeps s0 (readWaits s f k w d) := by
  unfold readWaits
  repeat' (first
    | with_reducible assumption
    | with_reducible apply ringStall_keeps
    | split)

theorem readBurst_keeps {s0 : State} (s : State) (f : FeId) (k : Fin 64) (w : ItemRun) (d : DescRun) (q : Fin 6) (env : BurstEnv)
    (hk : Keeps s0 s) : Keeps s0 (readBurst s f k w d q env) := by
  unfold readBurst
  extract_lets +onlyGivenNames u s1
  have h1 : Keeps s0 s1 := listTouch_keeps _ _ _ _ hk
  split
  · exact listFault_keeps _ _ _ _ _ _ _ h1
  · extract_lets +onlyGivenNames n
    exact keeps_ite (fun _ => readDeliver_keeps _ _ _ _ _ _ _ h1) (fun _ => readWaits_keeps _ _ _ _ _ hk)
  · rename_i a _
    extract_lets +onlyGivenNames n
    refine keeps_ite (fun _ => readWaits_keeps _ _ _ _ _ hk) (fun _ => ?_)
    extract_lets +onlyGivenNames x
    have hx : KeepsXl s0 x := xlate_keeps _ _ _ _ _ _ h1
    have rest : ∀ s2 : State, Keeps s0 s2 → Keeps s0 (match xlateDpa s2 w a x with
        | none => descFault s2 f k w d 2 a 0x0202
        | some p =>
          if hbmCap s2 ≤ p then reservedDpa s2 (dpaPc p)
          else
            let s3 := burstRead s2 d.desc.hint p env
            if poisoned s3 p n then
              let s3 := if frameTag s3 (p / 65536) = .image then damageFrame s3 (p / 65536) else s3
              descFault s3 f k w d 8 a (poisonStatus s3 p)
            else readDeliver s3 f k w d q (memReads s3 p n)) := by
      intro s2 h2
      split
      · exact descFault_keeps _ _ _ _ _ _ _ _ h2
      · rename_i p _
        refine keeps_ite (fun _ => reservedDpa_keeps _ _ h2) (fun _ => ?_)
        extract_lets +onlyGivenNames s3
        have h3 : Keeps s0 s3 := burstRead_keeps _ _ _ _ h2
        refine keeps_ite (fun _ => ?_) (fun _ => readDeliver_keeps _ _ _ _ _ _ _ h3)
        exact descFault_keeps _ _ _ _ _ _ _ _ (keeps_ite (fun _ => damageFrame_keeps _ _ h3) (fun _ => h3))
    clear_value x
    cases x with
    | bad c st => exact descFault_keeps _ _ _ _ _ _ _ _ h1
    | denied c => exact descFault_keeps _ _ _ _ _ _ _ _ (ownDenied_keeps _ _ h1)
    | remote => exact keepsOpt_getD (needRemote_keeps _ _ _ _ _ _ _ _ h1) (readDeliver_keeps _ _ _ _ _ _ _ h1)
    | tva s2 t v => exact rest s2 hx
    | image => exact rest s1 h1

theorem writeTake_keeps {s0 : State} (s : State) (f : FeId) (k : Fin 64) (w : ItemRun) (d : DescRun) (q : Fin 6) (ntf : Option (NodeId × BitVec 24 × Nat)) (n : Nat) (store : State → List Byte → State) (hk : Keeps s0 s) (hf : ∀ x0 x1, Keeps s0 x0 → Keeps s0 (store x0 x1)) :
    Keeps s0 (writeTake s f k w d q ntf n store) := by
  unfold writeTake
  repeat' (first
    | with_reducible assumption
    | (extract_lets +onlyGivenNames xv; first
      | (refine keeps_cut (P := Keeps s0 xv) ?_ (fun _ => ?_); unfold xv; clear xv; rotate_left; clear_value xv; rotate_left)
      | clear_value xv
      | (unfold xv; clear xv))
    | with_reducible apply slotFault_keeps
    | with_reducible apply setSlot_keeps
    | with_reducible apply setArr_keeps
    | with_reducible apply stallEnd_keeps
    | with_reducible apply hf
    | split)

theorem writeRemote_keeps {s0 : State} (s : State) (f : FeId) (k : Fin 64) (w : ItemRun) (old : DescRun) (a : Nat) (bs : List Byte) (hk : Keeps s0 s) :
    Keeps s0 (writeRemote s f k w old a bs) := by
  unfold writeRemote
  repeat' (first
    | with_reducible assumption
    | (extract_lets +onlyGivenNames xv; first
      | (refine keeps_cut (P := Keeps s0 xv) ?_ (fun _ => ?_); unfold xv; clear xv; rotate_left; clear_value xv; rotate_left)
      | (refine keeps_cut (P := KeepsOpt s0 xv) ?_ (fun _ => ?_); unfold xv; clear xv; rotate_left; clear_value xv; rotate_left)
      | clear_value xv
      | (unfold xv; clear xv))
    | with_reducible apply useOp_keeps
    | with_reducible apply setSlot_keeps
    | with_reducible apply sendWrite_keeps
    | split)

theorem writeBurst_keeps {s0 : State} (s : State) (f : FeId) (k : Fin 64) (w : ItemRun) (d : DescRun) (q : Fin 6) (env : BurstEnv) (hk : Keeps s0 s) :
    Keeps s0 (writeBurst s f k w d q env) := by
  unfold writeBurst
  repeat' (first
    | with_reducible assumption
    | with_reducible intro _
    | (extract_lets +onlyGivenNames xv; first
      | (refine keeps_cut (P := Keeps s0 xv) ?_ (fun _ => ?_); unfold xv; clear xv; rotate_left; clear_value xv; rotate_left)
      | (refine keeps_cut (P := KeepsOpt s0 xv) ?_ (fun _ => ?_); unfold xv; clear xv; rotate_left; clear_value xv; rotate_left)
      | clear_value xv
      | (unfold xv; clear xv))
    | with_reducible refine keepsXl_tva ?_
    | with_reducible exact keepsXl_bad _ _
    | with_reducible exact keepsXl_image
    | with_reducible exact keepsXl_remote
    | with_reducible exact keepsXl_denied _
    | with_reducible apply listTouch_keeps
    | with_reducible apply listFault_keeps
    | with_reducible apply ringStall_keeps
    | with_reducible apply writeTake_keeps
    | with_reducible apply xlate_keeps
    | with_reducible apply descFault_keeps
    | with_reducible apply ownDenied_keeps
    | with_reducible apply reservedDpa_keeps
    | with_reducible apply meterMem_keeps
    | with_reducible apply regBump_keeps
    | with_reducible apply tvaStore_keeps
    | with_reducible apply setArr_keeps
    | with_reducible apply writeRemote_keeps
    | split
    | with_reducible refine keeps_of_xlTva (by assumption) ?_)

theorem startDesc_keeps {s0 : State} (op : Nat) (f : FeId) (k : Fin 64) (s : State) (hk : Keeps s0 s) :
    Keeps s0 (startDesc op f k s) := by
  unfold startDesc
  repeat' (first
    | with_reducible assumption
    | (extract_lets +onlyGivenNames xv; first
      | (refine keeps_cut (P := Keeps s0 xv) ?_ (fun _ => ?_); unfold xv; clear xv; rotate_left; clear_value xv; rotate_left)
      | (refine keeps_cut (P := KeepsOpt s0 xv) ?_ (fun _ => ?_); unfold xv; clear xv; rotate_left; clear_value xv; rotate_left)
      | clear_value xv
      | (unfold xv; clear xv))
    | with_reducible apply setSlot_keeps
    | with_reducible apply descFault_keeps
    | with_reducible apply disarm_keeps
    | with_reducible apply regBump_keeps
    | split)

theorem execRead_keeps {s0 : State} (f : FeId) (k : Fin 64) (s : State) (hk : Keeps s0 s) :
    KeepsOut s0 (execRead f k s) := by
  unfold execRead
  repeat' (first
    | with_reducible assumption
    | with_reducible refine keepsOut_next ?_
    | with_reducible apply startDesc_keeps)

theorem execWrite_keeps {s0 : State} (f : FeId) (k : Fin 64) (s : State) (hk : Keeps s0 s) :
    KeepsOut s0 (execWrite f k s) := by
  unfold execWrite
  repeat' (first
    | with_reducible assumption
    | with_reducible refine keepsOut_next ?_
    | with_reducible apply startDesc_keeps)

theorem burstLost_keeps {s0 : State} (f : FeId) (k : Fin 64) (w : ItemRun) (d : DescRun) (lost : Nat) (s : State) (hk : Keeps s0 s) :
    Keeps s0 (burstLost f k w d lost s) := by
  unfold burstLost
  repeat' (first
    | with_reducible assumption
    | with_reducible apply regBump_keeps
    | with_reducible refine keepsOpt_getD ?_ ?_
    | split)

theorem execBurst_keeps {s0 : State} (f : FeId) (k : Fin 64) (use : BurstUse) (s : State) (hk : Keeps s0 s) :
    KeepsOut s0 (execBurst f k use s) := by
  unfold execBurst
  repeat' (first
    | with_reducible assumption
    | with_reducible refine keepsOpt_some ?_
    | with_reducible exact keepsOpt_none
    | with_reducible refine keepsOut_next ?_
    | with_reducible exact keepsOut_fault _
    | with_reducible exact keepsOut_refused _
    | with_reducible apply needEntry_keeps
    | with_reducible apply burstLost_keeps
    | with_reducible apply readBurst_keeps
    | with_reducible apply writeBurst_keeps
    | with_reducible refine keepsOpt_getD ?_ ?_
    | split)

theorem execFaultResume_keeps {s0 : State} (f : FeId) (k : Fin 64) (s : State) (hk : Keeps s0 s) :
    KeepsOut s0 (execFaultResume f k s) := by
  unfold execFaultResume
  repeat' (first
    | with_reducible assumption
    | with_reducible refine keepsOut_next ?_
    | with_reducible apply descFault_keeps
    | with_reducible apply mapPage_keeps
    | with_reducible apply setSlot_keeps
    | with_reducible apply slotFaults_keeps
    | split
    | with_reducible refine keeps_of_some (by assumption) ?_)

theorem askNotify_keeps {s0 : State} (s : State) (f : FeId) (k : Fin 64) (d : DescRun) (hk : Keeps s0 s) :
    Keeps s0 (askNotify s f k d) := by
  unfold askNotify
  repeat' (first
    | with_reducible assumption
    | (extract_lets +onlyGivenNames xv; first
      | (refine keeps_cut (P := Keeps s0 xv) ?_ (fun _ => ?_); unfold xv; clear xv; rotate_left; clear_value xv; rotate_left)
      | clear_value xv)
    | with_reducible apply sendMsg_keeps
    | with_reducible apply setSlot_keeps
    | split)

theorem awaitAcks_keeps {s0 : State} (s : State) (f : FeId) (k : Fin 64) (w : ItemRun) (d : DescRun) (hk : Keeps s0 s) :
    Keeps s0 (awaitAcks s f k w d) := by
  unfold awaitAcks
  repeat' (first
    | with_reducible assumption
    | with_reducible apply descFault_keeps
    | split)

theorem execDescriptorComplete_keeps {s0 : State} (f : FeId) (k : Fin 64) (s : State) (hk : Keeps s0 s) :
    KeepsOut s0 (execDescriptorComplete f k s) := by
  unfold execDescriptorComplete
  repeat' (first
    | with_reducible assumption
    | (extract_lets +onlyGivenNames xv; first
      | (refine keeps_cut (P := Keeps s0 xv) ?_ (fun _ => ?_); unfold xv; clear xv; rotate_left; clear_value xv; rotate_left)
      | clear_value xv)
    | with_reducible refine keepsOut_next ?_
    | with_reducible apply askNotify_keeps
    | with_reducible apply awaitAcks_keeps
    | with_reducible apply itemBarInc_keeps
    | with_reducible apply notifyLocal_keeps
    | with_reducible apply regBump_keeps
    | with_reducible apply setArr_keeps
    | with_reducible apply setFe_keeps
    | with_reducible apply setSlot_keeps
    | split)

theorem cldGo_keeps {s0 : State} (s : State) (a : ArrId) (u : ArrayUnit) (c : CldRun) (hk : Keeps s0 s) :
    Keeps s0 (cldGo s a u c) := by
  unfold cldGo
  repeat' (first
    | with_reducible assumption
    | (extract_lets +onlyGivenNames xv; first
      | (refine keeps_cut (P := Keeps s0 xv) ?_ (fun _ => ?_); unfold xv; clear xv; rotate_left; clear_value xv; rotate_left)
      | clear_value xv)
    | with_reducible apply regBump_keeps
    | with_reducible apply setArr_keeps
    | with_reducible apply vfinish_keeps
    | split)

theorem execCld_keeps {s0 : State} (a : ArrId) (x : VAccess) (s : State) (hk : Keeps s0 s) :
    KeepsOut s0 (execCld a x s) := by
  unfold execCld
  repeat' (first
    | with_reducible assumption
    | (extract_lets +onlyGivenNames xv; first
      | (refine keeps_cut (P := Keeps s0 xv) ?_ (fun _ => ?_); unfold xv; clear xv; rotate_left; clear_value xv; rotate_left)
      | (refine keeps_cut (P := KeepsOpt s0 xv) ?_ (fun _ => ?_); unfold xv; clear xv; rotate_left; clear_value xv; rotate_left)
      | clear_value xv
      | (unfold xv; clear xv))
    | with_reducible refine keepsOut_next ?_
    | with_reducible exact keepsOut_fault _
    | with_reducible exact keepsOut_refused _
    | with_reducible apply vIllegal_keeps
    | with_reducible apply vHeld_keeps
    | with_reducible apply cldGo_keeps
    | split)

theorem raiseFill_keeps {s0 : State} (s : State) (w : ItemRun) (code addr : Nat) (hk : Keeps s0 s) :
    Keeps s0 (raiseFill s w code addr) := by
  unfold raiseFill
  repeat' (first
    | with_reducible assumption
    | (extract_lets +onlyGivenNames xv; first
      | (refine keeps_cut (P := Keeps s0 xv) ?_ (fun _ => ?_); unfold xv; clear xv; rotate_left; clear_value xv; rotate_left)
      | clear_value xv
      | (unfold xv; clear xv))
    | with_reducible apply noteItem_keeps
    | with_reducible apply raiseFault_keeps
    | with_reducible apply tickFree_keeps)

theorem fillFailed_keeps {s0 : State} (s : State) (w : ItemRun) (code addr status : Nat) (hk : Keeps s0 s) :
    Keeps s0 (fillFailed s w code addr status) := by
  unfold fillFailed
  repeat' (first
    | with_reducible assumption
    | with_reducible apply failFetch_keeps
    | with_reducible apply tickFree_keeps)

theorem fillFault_keeps {s0 : State} (s : State) (w : ItemRun) (code addr status : Nat) (hk : Keeps s0 s) :
    Keeps s0 (fillFault s w code addr status) := by
  unfold fillFault
  repeat' (first
    | with_reducible assumption
    | with_reducible apply fillFailed_keeps
    | with_reducible apply raiseFill_keeps)

theorem fillFaults_keeps {s0 : State} (s : State) (w : ItemRun) (addr : Nat) (g : FeFault → Option FeFault) (hk : Keeps s0 s) :
    Keeps s0 (fillFaults s w addr g) := by
  unfold fillFaults
  repeat' (first
    | with_reducible assumption
    | (extract_lets +onlyGivenNames xv; first
      | (refine keeps_cut (P := Keeps s0 xv) ?_ (fun _ => ?_); unfold xv; clear xv; rotate_left; clear_value xv; rotate_left)
      | (refine keeps_cut (P := KeepsOpt s0 xv) ?_ (fun _ => ?_); unfold xv; clear xv; rotate_left; clear_value xv; rotate_left)
      | clear_value xv
      | (unfold xv; clear xv))
    | with_reducible apply showFault_keeps
    | with_reducible apply setFe_keeps)

theorem fillLine_keeps {s0 : State} (s : State) (a : ArrId) (w : ItemRun) (c : CldRun) (la p lost : Nat) (hk : Keeps s0 s) :
    Keeps s0 (fillLine s a w c la p lost) := by
  unfold fillLine
  repeat' (first
    | with_reducible assumption
    | (extract_lets +onlyGivenNames xv; first
      | (refine keeps_cut (P := Keeps s0 xv) ?_ (fun _ => ?_); unfold xv; clear xv; rotate_left; clear_value xv; rotate_left)
      | clear_value xv
      | (unfold xv; clear xv))
    | with_reducible apply reservedDpa_keeps
    | with_reducible apply workRead_keeps
    | with_reducible apply damageFrame_keeps
    | with_reducible apply fillFault_keeps
    | with_reducible apply regBump_keeps
    | with_reducible apply cldGo_keeps
    | split)

theorem execCacheFill_keeps {s0 : State} (x : ArrAccess) (s : State) (hk : Keeps s0 s) :
    KeepsOut s0 (execCacheFill x s) := by
  unfold execCacheFill
  repeat' (first
    | with_reducible assumption
    | with_reducible intro _
    | (extract_lets +onlyGivenNames xv; first
      | (refine keeps_cut (P := Keeps s0 xv) ?_ (fun _ => ?_); unfold xv; clear xv; rotate_left; clear_value xv; rotate_left)
      | (refine keeps_cut (P := KeepsOpt s0 xv) ?_ (fun _ => ?_); unfold xv; clear xv; rotate_left; clear_value xv; rotate_left)
      | clear_value xv
      | (unfold xv; clear xv))
    | with_reducible refine keepsOpt_some ?_
    | with_reducible exact keepsOpt_none
    | with_reducible refine keepsOut_next ?_
    | with_reducible exact keepsOut_fault _
    | with_reducible exact keepsOut_refused _
    | with_reducible apply fillLine_keeps
    | with_reducible apply fillFaults_keeps
    | with_reducible apply raiseFill_keeps
    | with_reducible apply mapPage_keeps
    | with_reducible apply fillFailed_keeps
    | with_reducible apply fillFault_keeps
    | split
    | with_reducible refine keeps_of_some (by assumption) ?_)

end Sys2Proof.Machine
end

