-- ==== Sys2Proof/Laws/HostIfKeeps.lean ====
section
/-! SUPPORT. What the definitions of Machine/HostIf.lean keep (Laws/Keeps.lean). -/

namespace Sys2Proof.Machine

theorem execQueryDevice_keeps {s0 : State} (m : Mbox) (p : List Byte) (s : State) (hk : Keeps s0 s) :
    KeepsOut s0 (execQueryDevice m p s) := by
  unfold execQueryDevice
  repeat' (first
    | with_reducible assumption
    | with_reducible intro _
    | with_reducible refine keepsP_mk ?_
    | with_reducible apply bruah_keeps)

theorem execQueryRequest_keeps {s0 : State} (m : Mbox) (p : List Byte) (s : State) (hk : Keeps s0 s) :
    KeepsOut s0 (execQueryRequest m p s) := by
  unfold execQueryRequest
  refine bruah_keeps _ _ _ _ _ _ hk (fun t u hu => ?_)
  split <;> exact keepsP_mk hu

theorem execLdStatus_keeps {s0 : State} (m : Mbox) (p : List Byte) (s : State) (hk : Keeps s0 s) :
    KeepsOut s0 (execLdStatus m p s) := by
  unfold execLdStatus
  repeat' (first
    | with_reducible assumption
    | with_reducible intro _
    | with_reducible refine keepsP_mk ?_
    | with_reducible apply bruah_keeps)

theorem noteCancel_keeps {s0 : State} (s : State) (i : Nat) (hk : Keeps s0 s) :
    Keeps s0 (noteCancel s i) := by
  unfold noteCancel
  repeat' (first
    | with_reducible assumption
    | (extract_lets +onlyGivenNames xv; clear_value xv)
    | with_reducible apply setEntry_keeps
    | with_reducible apply setWork_keeps
    | split)

theorem execCancel_keeps {s0 : State} (m : Mbox) (p : List Byte) (s : State) (hk : Keeps s0 s) :
    KeepsOut s0 (execCancel m p s) := by
  unfold execCancel
  refine bruah_keeps _ _ _ _ _ _ hk (fun t u hu => ?_)
  split
  · exact keepsP_mk hu
  · split
    all_goals first
      | exact keepsP_mk (noteCancel_keeps _ _ hu)
      | exact keepsP_mk (regBump_keeps _ _ _ hu)
      | exact keepsP_mk hu

theorem execReleaseRequest_keeps {s0 : State} (m : Mbox) (p : List Byte) (s : State) (hk : Keeps s0 s) :
    KeepsOut s0 (execReleaseRequest m p s) := by
  unfold execReleaseRequest
  refine bruah_keeps _ _ _ _ _ _ hk (fun t u hu => ?_)
  split
  · exact keepsP_mk hu
  · split
    · exact keepsP_mk hu
    · split
      · exact keepsP_mk (setWork_keeps _ _ _ hu)
      · exact keepsP_mk hu

theorem execCreateQp_keeps {s0 : State} (m : Mbox) (p : List Byte) (s : State) (hk : Keeps s0 s) :
    KeepsOut s0 (execCreateQp m p s) := by
  unfold execCreateQp
  refine bruah_keeps _ _ _ _ _ _ hk (fun t u hu => ?_)
  extract_lets q
  split
  · exact keepsP_mk hu
  · split
    · exact keepsP_mk hu
    · split
      · exact keepsP_mk hu
      · split
        · exact keepsP_mk hu
        · exact keepsP_mk (drainOver_keeps _ _ _ _ (setTen_keeps _ _ _ (setQue_keeps _ _ _ (tvaStore_keeps _ _ _ _ hu))))

theorem execDeleteQp_keeps {s0 : State} (m : Mbox) (p : List Byte) (s : State) (hk : Keeps s0 s) :
    KeepsOut s0 (execDeleteQp m p s) := by
  unfold execDeleteQp
  refine bruah_keeps _ _ _ _ _ _ hk (fun t u hu => ?_)
  extract_lets q
  split
  · exact keepsP_mk hu
  · split
    · exact keepsP_mk hu
    · exact keepsP_mk (setTen_keeps _ _ _ (setQue_keeps _ _ _ hu))

theorem resizeWindow_keeps {s0 : State} (s : State) (t : LdId) (units : Nat) (hk : Keeps s0 s) :
    KeepsOpt s0 (resizeWindow s t units) := by
  unfold resizeWindow
  repeat' (first
    | with_reducible assumption
    | (extract_lets +onlyGivenNames xv; first
      | (refine keeps_cut (P := Keeps s0 xv) ?_ (fun _ => ?_); unfold xv; clear xv; rotate_left; clear_value xv; rotate_left)
      | clear_value xv)
    | with_reducible refine keepsOpt_some ?_
    | with_reducible exact keepsOpt_none
    | with_reducible apply giveFrame_keeps
    | with_reducible apply setTag_keeps
    | with_reducible apply setTen_keeps
    | with_reducible refine keeps_foldl _ ?_ (fun _ _ _ => ?_)
    | split)

theorem execSetWindow_keeps {s0 : State} (m : Mbox) (p : List Byte) (s : State) (hk : Keeps s0 s) :
    KeepsOut s0 (execSetWindow m p s) := by
  unfold execSetWindow
  refine bruah_keeps _ _ _ _ _ _ hk (fun t u hu => ?_)
  split
  · rename_i e
    exact keepsP_mk (keeps_of_some e (resizeWindow_keeps _ _ _ hu))
  · exact keepsP_mk hu

theorem execSetSldSpan_keeps {s0 : State} (m : Mbox) (p : List Byte) (s : State) (hk : Keeps s0 s) :
    KeepsOut s0 (execSetSldSpan m p s) := by
  unfold execSetSldSpan
  refine bruah_keeps _ _ _ _ _ _ hk (fun t u hu => ?_)
  extract_lets v
  split
  · exact keepsP_mk hu
  · split
    · exact keepsP_mk hu
    · exact keepsP_mk (keeps_same hu rfl rfl rfl rfl rfl rfl)

theorem cxlCmd_keeps {s0 : State} (s : State) (m : Mbox) (ownerOnly health : Bool) (f : State → State × Nat × List Byte)
    (hk : Keeps s0 s) (hf : ∀ u, Keeps s0 u → KeepsP s0 (f u)) : KeepsOut s0 (cxlCmd s m ownerOnly health f) := by
  unfold cxlCmd
  split
  · exact hk
  · extract_lets g
    split
    · exact reply_keeps _ _ _ _ hk
    · exact reply_keeps _ _ _ _ (hf _ hk)

theorem execIdentifyMemoryDevice_keeps {s0 : State} (m : Mbox) (s : State) (hk : Keeps s0 s) :
    KeepsOut s0 (execIdentifyMemoryDevice m s) := by
  unfold execIdentifyMemoryDevice
  repeat' (first
    | with_reducible assumption
    | (extract_lets +onlyGivenNames xv; clear_value xv)
    | with_reducible refine keepsOut_next ?_
    | with_reducible apply reply_keeps
    | split)

theorem execGetEventRecords_keeps {s0 : State} (m : Mbox) (s : State) (hk : Keeps s0 s) :
    KeepsOut s0 (execGetEventRecords m s) := by
  unfold execGetEventRecords
  repeat' (first
    | with_reducible assumption
    | with_reducible intro _
    | with_reducible refine keepsP_mk ?_
    | with_reducible apply cxlCmd_keeps)

theorem execClearEventRecords_keeps {s0 : State} (m : Mbox) (upTo : Nat) (s : State) (hk : Keeps s0 s) :
    KeepsOut s0 (execClearEventRecords m upTo s) := by
  unfold execClearEventRecords
  repeat' (first
    | with_reducible assumption
    | with_reducible intro _
    | (extract_lets +onlyGivenNames xv; clear_value xv)
    | with_reducible refine keepsP_mk ?_
    | with_reducible apply cxlCmd_keeps
    | with_reducible apply setTen_keeps
    | split
    | (simp -zeta only [↓keeps_mk]; with_reducible refine keeps_upd ?_))

theorem execGetEventInterruptPolicy_keeps {s0 : State} (m : Mbox) (s : State) (hk : Keeps s0 s) :
    KeepsOut s0 (execGetEventInterruptPolicy m s) := by
  unfold execGetEventInterruptPolicy
  repeat' (first
    | with_reducible assumption
    | with_reducible intro _
    | with_reducible refine keepsP_mk ?_
    | with_reducible apply cxlCmd_keeps)

theorem execSetEventInterruptPolicy_keeps {s0 : State} (m : Mbox) (policy : BitVec 32) (s : State) (hk : Keeps s0 s) :
    KeepsOut s0 (execSetEventInterruptPolicy m policy s) := by
  unfold execSetEventInterruptPolicy
  repeat' (first
    | with_reducible assumption
    | with_reducible intro _
    | (extract_lets +onlyGivenNames xv; clear_value xv)
    | with_reducible refine keepsP_mk ?_
    | with_reducible apply cxlCmd_keeps
    | (simp -zeta only [↓keeps_mk]; with_reducible refine keeps_upd ?_))

theorem execGetSupportedLogs_keeps {s0 : State} (m : Mbox) (s : State) (hk : Keeps s0 s) :
    KeepsOut s0 (execGetSupportedLogs m s) := by
  unfold execGetSupportedLogs
  repeat' (first
    | with_reducible assumption
    | with_reducible intro _
    | with_reducible refine keepsP_mk ?_
    | with_reducible apply cxlCmd_keeps)

theorem execGetCxlLog_keeps {s0 : State} (m : Mbox) (s : State) (hk : Keeps s0 s) :
    KeepsOut s0 (execGetCxlLog m s) := by
  unfold execGetCxlLog
  repeat' (first
    | with_reducible assumption
    | with_reducible intro _
    | with_reducible refine keepsP_mk ?_
    | with_reducible apply cxlCmd_keeps)

theorem execGetHealthInfo_keeps {s0 : State} (m : Mbox) (s : State) (hk : Keeps s0 s) :
    KeepsOut s0 (execGetHealthInfo m s) := by
  unfold execGetHealthInfo
  repeat' (first
    | with_reducible assumption
    | with_reducible intro _
    | with_reducible refine keepsP_mk ?_
    | with_reducible apply cxlCmd_keeps)

theorem execGetTimestamp_keeps {s0 : State} (m : Mbox) (s : State) (hk : Keeps s0 s) :
    KeepsOut s0 (execGetTimestamp m s) := by
  unfold execGetTimestamp
  repeat' (first
    | with_reducible assumption
    | with_reducible intro _
    | with_reducible refine keepsP_mk ?_
    | with_reducible apply cxlCmd_keeps)

theorem execSetTimestamp_keeps {s0 : State} (m : Mbox) (ns : BitVec 64) (s : State) (hk : Keeps s0 s) :
    KeepsOut s0 (execSetTimestamp m ns s) := by
  unfold execSetTimestamp
  repeat' (first
    | with_reducible assumption
    | with_reducible intro _
    | with_reducible refine keepsP_mk ?_
    | with_reducible apply cxlCmd_keeps
    | (simp -zeta only [↓keeps_mk]; with_reducible refine keeps_upd ?_))

theorem execGetLdInfo_keeps {s0 : State} (m : Mbox) (s : State) (hk : Keeps s0 s) : KeepsOut s0 (execGetLdInfo m s) := by
  unfold execGetLdInfo
  refine cxlCmd_keeps _ _ _ _ _ hk (fun u hu => ?_)
  split <;> exact keepsP_mk hu

theorem execGetLdAllocations_keeps {s0 : State} (m : Mbox) (s : State) (hk : Keeps s0 s) :
    KeepsOut s0 (execGetLdAllocations m s) := by
  unfold execGetLdAllocations
  refine cxlCmd_keeps _ _ _ _ _ hk (fun u hu => ?_)
  split <;> exact keepsP_mk hu

theorem resizeAll_keeps {s0 : State} (s : State) (t : Nat) (us : List Nat) (hk : Keeps s0 s) :
    KeepsOpt s0 (resizeAll s t us) := by
  induction us generalizing s t with
  | nil => exact hk
  | cons u us ih =>
    unfold resizeAll
    split
    · trivial
    · split
      · exact ih _ _ (keeps_of_some (by assumption) (resizeWindow_keeps _ _ _ hk))
      · trivial

theorem execSetLdAllocations_keeps {s0 : State} (m : Mbox) (start : Nat) (units : List Nat) (s : State) (hk : Keeps s0 s) :
    KeepsOut s0 (execSetLdAllocations m start units s) := by
  unfold execSetLdAllocations
  refine cxlCmd_keeps _ _ _ _ _ hk (fun u hu => ?_)
  split
  · exact keepsP_mk hu
  · split
    · exact keepsP_mk hu
    · rename_i e
      exact keepsP_mk (keeps_foldl _ (keeps_of_some e (resizeAll_keeps _ _ _ hu))
        (fun _ _ h => tenantReset_keeps _ _ _ (clearKeys_keeps _ _ h)))

theorem execHdmDecoderCommit_keeps {s0 : State} (ld : LdId) (dec : Fin 2) (ways base size : Nat) (s : State) (hk : Keeps s0 s) :
    KeepsOut s0 (execHdmDecoderCommit ld dec ways base size s) := by
  unfold execHdmDecoderCommit
  repeat' (first
    | with_reducible assumption
    | (extract_lets +onlyGivenNames xv; clear_value xv)
    | with_reducible refine keepsOut_next ?_
    | with_reducible apply setTen_keeps
    | split)

theorem cxlPoison_keeps {s0 : State} (s : State) (hk : Keeps s0 s) :
    Keeps s0 (cxlPoison s) := by
  unfold cxlPoison
  repeat' (first
    | with_reducible assumption
    | (simp -zeta only [↓keeps_mk]; with_reducible refine keeps_upd ?_))

theorem execCxlMemRead_keeps {s0 : State} (addr : HostAddr) (req : MemRead) (s : State) (hk : Keeps s0 s) :
    KeepsOut s0 (execCxlMemRead addr req s) := by
  unfold execCxlMemRead
  repeat' (first
    | with_reducible assumption
    | (extract_lets +onlyGivenNames xv; first
      | (refine keeps_cut (P := Keeps s0 xv) ?_ (fun _ => ?_); unfold xv; clear xv; rotate_left; clear_value xv; rotate_left)
      | (refine keeps_cut (P := KeepsOpt s0 xv) ?_ (fun _ => ?_); unfold xv; clear xv; rotate_left; clear_value xv; rotate_left)
      | clear_value xv
      | (unfold xv; clear xv))
    | with_reducible refine keepsOut_next ?_
    | with_reducible exact keepsOut_fault _
    | with_reducible exact keepsOut_refused _
    | with_reducible apply cxlPoison_keeps
    | with_reducible apply meterWindow_keeps
    | with_reducible apply peerTouch_keeps
    | with_reducible apply mediaEvent_keeps
    | with_reducible apply regBump_keeps
    | with_reducible apply windowMiss_keeps
    | split
    | (simp -zeta only [↓keeps_mk]; with_reducible refine keeps_upd ?_))

theorem memWrStore_keeps {s0 : State} (s : State) (t : LdId) (off : Nat) (req : MemWrite) (hk : Keeps s0 s) :
    Keeps s0 (memWrStore s t off req) := by
  unfold memWrStore
  repeat' (first
    | with_reducible assumption
    | with_reducible intro _
    | with_reducible apply tvaStore_keeps
    | with_reducible refine keeps_foldl _ ?_ (fun _ _ _ => ?_)
    | with_reducible refine keeps_foldlP _ ?_ (fun _ _ _ => ?_)
    | split)

theorem execCxlMemWrite_keeps {s0 : State} (addr : HostAddr) (req : MemWrite) (s : State) (hk : Keeps s0 s) :
    KeepsOut s0 (execCxlMemWrite addr req s) := by
  unfold execCxlMemWrite
  repeat' (first
    | with_reducible assumption
    | (extract_lets +onlyGivenNames xv; first
      | (refine keeps_cut (P := Keeps s0 xv) ?_ (fun _ => ?_); unfold xv; clear xv; rotate_left; clear_value xv; rotate_left)
      | (refine keeps_cut (P := KeepsOpt s0 xv) ?_ (fun _ => ?_); unfold xv; clear xv; rotate_left; clear_value xv; rotate_left)
      | clear_value xv
      | (unfold xv; clear xv))
    | with_reducible refine keepsOut_next ?_
    | with_reducible exact keepsOut_fault _
    | with_reducible exact keepsOut_refused _
    | with_reducible apply memWrStore_keeps
    | with_reducible apply meterWindow_keeps
    | with_reducible apply windowMiss_keeps
    | split
    | (simp -zeta only [↓keeps_mk]; with_reducible refine keeps_upd ?_))

theorem execQcfgWrite_keeps {s0 : State} (q : Fin 128) (val : Reg64) (s : State) (hk : Keeps s0 s) :
    KeepsOut s0 (execQcfgWrite q val s) := by
  unfold execQcfgWrite
  repeat' (first
    | with_reducible assumption
    | (extract_lets +onlyGivenNames xv; clear_value xv)
    | with_reducible refine keepsOut_next ?_
    | with_reducible apply regSet_keeps
    | split)

theorem execLdRqtWrite_keeps {s0 : State} (ld : LdId) (val : Reg64) (s : State) (hk : Keeps s0 s) :
    KeepsOut s0 (execLdRqtWrite ld val s) := by
  unfold execLdRqtWrite
  repeat' (first
    | with_reducible assumption
    | (extract_lets +onlyGivenNames xv; first
      | (refine keeps_cut (P := Keeps s0 xv) ?_ (fun _ => ?_); unfold xv; clear xv; rotate_left; clear_value xv; rotate_left)
      | clear_value xv)
    | with_reducible refine keepsOut_next ?_
    | with_reducible apply regPut_keeps
    | with_reducible apply regSet_keeps
    | with_reducible refine keeps_foldl _ ?_ (fun _ _ _ => ?_)
    | split)

theorem execLdPoolLimitWrite_keeps {s0 : State} (ld : LdId) (val : Reg64) (s : State) (hk : Keeps s0 s) :
    KeepsOut s0 (execLdPoolLimitWrite ld val s) := by
  unfold execLdPoolLimitWrite
  repeat' (first
    | with_reducible assumption
    | with_reducible refine keepsOut_next ?_
    | with_reducible apply regSet_keeps
    | split)

theorem execTableAccess_keeps {s0 : State} (m : Mbox) (s : State) (hk : Keeps s0 s) :
    KeepsOut s0 (execTableAccess m s) := by
  unfold execTableAccess
  repeat' (first
    | with_reducible assumption
    | (extract_lets +onlyGivenNames xv; clear_value xv)
    | with_reducible refine keepsOut_next ?_
    | with_reducible apply send_keeps
    | split)

theorem execDoeDiscovery_keeps {s0 : State} (m : Mbox) (s : State) (hk : Keeps s0 s) :
    KeepsOut s0 (execDoeDiscovery m s) := by
  unfold execDoeDiscovery
  repeat' (first
    | with_reducible assumption
    | with_reducible refine keepsOut_next ?_
    | with_reducible apply send_keeps
    | split)

theorem flushAll_keeps {s0 : State} (s : State) (hk : Keeps s0 s) :
    Keeps s0 (flushAll s) := by
  unfold flushAll
  repeat' (first
    | with_reducible assumption
    | with_reducible intro _
    | with_reducible apply flushMsix_keeps
    | with_reducible refine keeps_foldl _ ?_ (fun _ _ _ => ?_))

theorem execIdeKm_keeps {s0 : State} (session : Option Nat) (keys : IdeKeys) (s : State) (hk : Keeps s0 s) :
    KeepsOut s0 (execIdeKm session keys s) := by
  unfold execIdeKm
  repeat' (first
    | with_reducible assumption
    | with_reducible intro _
    | with_reducible refine keepsOut_next ?_
    | with_reducible exact keepsOut_fault _
    | with_reducible exact keepsOut_refused _
    | with_reducible apply flushAll_keeps
    | split
    | with_reducible refine keepsP_fst ?_
    | (simp -zeta only [↓keeps_mk]; with_reducible refine keeps_upd ?_))

theorem execIdeFail_keeps {s0 : State} (s : State) (hk : Keeps s0 s) :
    KeepsOut s0 (execIdeFail s) := by
  unfold execIdeFail
  repeat' (first
    | with_reducible assumption
    | (extract_lets +onlyGivenNames xv; first
      | (refine keeps_cut (P := Keeps s0 xv) ?_ (fun _ => ?_); unfold xv; clear xv; rotate_left; clear_value xv; rotate_left)
      | clear_value xv)
    | with_reducible refine keepsOut_next ?_
    | with_reducible apply logFault_keeps
    | split
    | (simp -zeta only [↓keeps_mk]; with_reducible refine keeps_upd ?_))

theorem finishLoad_keeps {s0 : State} (s : State) (op a : Nat) (hk : Keeps s0 s) :
    Keeps s0 (finishLoad s op a) := by
  unfold finishLoad
  repeat' (first
    | with_reducible assumption
    | with_reducible intro _
    | (extract_lets +onlyGivenNames xv; first
      | (refine keeps_cut (P := Keeps s0 xv) ?_ (fun _ => ?_); unfold xv; clear xv; rotate_left; clear_value xv; rotate_left)
      | clear_value xv
      | (unfold xv; clear xv))
    | with_reducible apply reapAdapters_keeps
    | with_reducible apply memTouch_keeps
    | with_reducible apply damageFrame_keeps
    | with_reducible refine keeps_foldl _ ?_ (fun _ _ _ => ?_)
    | with_reducible refine keeps_foldlP _ ?_ (fun _ _ _ => ?_)
    | split
    | with_reducible refine keepsP_fst ?_
    | (simp -zeta only [↓keeps_mk]; with_reducible refine keeps_upd ?_))

theorem execBackgroundCommandComplete_keeps {s0 : State} (m : Mbox) (s : State) (hk : Keeps s0 s) :
    KeepsOut s0 (execBackgroundCommandComplete m s) := by
  unfold execBackgroundCommandComplete
  repeat' (first
    | with_reducible assumption
    | (extract_lets +onlyGivenNames xv; first
      | (refine keeps_cut (P := Keeps s0 xv) ?_ (fun _ => ?_); unfold xv; clear xv; rotate_left; clear_value xv; rotate_left)
      | (refine keeps_cut (P := KeepsOpt s0 xv) ?_ (fun _ => ?_); unfold xv; clear xv; rotate_left; clear_value xv; rotate_left)
      | clear_value xv
      | (unfold xv; clear xv))
    | with_reducible refine keepsOut_next ?_
    | with_reducible exact keepsOut_fault _
    | with_reducible exact keepsOut_refused _
    | with_reducible apply finishLoad_keeps
    | with_reducible apply sendMsix_keeps
    | with_reducible apply setMbox_keeps
    | split)

end Sys2Proof.Machine
end

