-- ==== Sys2Proof/Laws/PortsKeeps.lean ====
section
/-! SUPPORT. What the definitions of Machine/Ports.lean keep (Laws/Keeps.lean). -/

namespace Sys2Proof.Machine

theorem resendFlow_keeps {s0 : State} (s : State) (f : Flow) (hk : Keeps s0 s) :
    Keeps s0 (resendFlow s f) := by
  unfold resendFlow
  repeat' (first
    | with_reducible assumption
    | with_reducible apply flowBytes_keeps
    | with_reducible apply regBump_keeps
    | with_reducible refine keeps_foldl _ ?_ (fun _ _ _ => ?_)
    | split)

theorem moveFlow_keeps {s0 : State} (s : State) (f : Flow) (hk : Keeps s0 s) :
    Keeps s0 (moveFlow s f) := by
  unfold moveFlow
  repeat' (first
    | with_reducible assumption
    | (extract_lets +onlyGivenNames xv; clear_value xv)
    | with_reducible apply resendFlow_keeps
    | with_reducible apply setFlow_keeps
    | split)

theorem moveFlows_keeps {s0 : State} (s : State) (p : PortId) (hk : Keeps s0 s) :
    Keeps s0 (moveFlows s p) := by
  unfold moveFlows
  repeat' (first
    | with_reducible assumption
    | with_reducible apply moveFlow_keeps
    | with_reducible refine keeps_foldl _ ?_ (fun _ _ _ => ?_))

theorem rewrite_keeps {s0 : State} (s : State) (ctx : Nat) (n : NodeId) (x : RaileWrite) (hk : Keeps s0 s) :
    Keeps s0 (rewrite s ctx n x) := by
  unfold rewrite
  repeat' (first
    | with_reducible assumption
    | with_reducible apply sendWrite_keeps
    | split)

theorem resumeWrites_keeps {s0 : State} (s : State) (n : NodeId) (hk : Keeps s0 s) :
    Keeps s0 (resumeWrites s n) := by
  unfold resumeWrites
  repeat' (first
    | with_reducible assumption
    | with_reducible intro _
    | with_reducible apply forFes_keeps
    | with_reducible apply rewrite_keeps
    | with_reducible refine keeps_foldl _ ?_ (fun _ _ _ => ?_)
    | split)

theorem openDeviceFlow_keeps {s0 : State} (s : State) (n : NodeId) (initiator : Bool) (nI nR : List Byte) (hk : Keeps s0 s) :
    Keeps s0 (openDeviceFlow s n initiator nI nR) := by
  unfold openDeviceFlow
  repeat' (first
    | with_reducible assumption
    | with_reducible intro _
    | (extract_lets +onlyGivenNames xv; first
      | (refine keeps_cut (P := Keeps s0 xv) ?_ (fun _ => ?_); unfold xv; clear xv; rotate_left; clear_value xv; rotate_left)
      | clear_value xv
      | (unfold xv; clear xv))
    | with_reducible apply setFlow_keeps
    | with_reducible apply askFlow_keeps
    | with_reducible apply resumeWrites_keeps
    | with_reducible apply flushMsgs_keeps
    | with_reducible apply flushCtl_keeps
    | with_reducible refine keeps_foldl _ ?_ (fun _ _ _ => ?_))

theorem joinPeer_keeps {s0 : State} (s : State) (n : NodeId) (hk : Keeps s0 s) :
    Keeps s0 (joinPeer s n) := by
  unfold joinPeer
  repeat' (first
    | with_reducible assumption
    | (extract_lets +onlyGivenNames xv; first
      | (refine keeps_cut (P := Keeps s0 xv) ?_ (fun _ => ?_); unfold xv; clear xv; rotate_left; clear_value xv; rotate_left)
      | clear_value xv)
    | with_reducible apply sendHello_keeps
    | with_reducible apply setPeer_keeps
    | with_reducible apply tickFree_keeps)

theorem joinRouted_keeps {s0 : State} (s : State) (hk : Keeps s0 s) :
    Keeps s0 (joinRouted s) := by
  unfold joinRouted
  repeat' (first
    | with_reducible assumption
    | with_reducible apply joinPeer_keeps
    | with_reducible refine keeps_foldl _ ?_ (fun _ _ _ => ?_)
    | split)

theorem closePeer_keeps {s0 : State} (s : State) (n : NodeId) (hk : Keeps s0 s) :
    Keeps s0 (closePeer s n) := by
  unfold closePeer
  repeat' (first
    | with_reducible assumption
    | (extract_lets +onlyGivenNames xv; refine keeps_cut (P := Keeps s0 xv) ?_ (fun _ => ?_); unfold xv; clear xv; rotate_left; clear_value xv; rotate_left)
    | with_reducible apply mapDescs_keeps
    | (simp -zeta only [↓keeps_mk]; with_reducible refine keeps_upd ?_))

theorem peerDownTo_keeps {s0 : State} (s : State) (n : NodeId) (st : PeerState) (hk : Keeps s0 s) :
    Keeps s0 (peerDownTo s n st) := by
  unfold peerDownTo
  repeat' (first
    | with_reducible assumption
    | (extract_lets +onlyGivenNames xv; first
      | (refine keeps_cut (P := Keeps s0 xv) ?_ (fun _ => ?_); unfold xv; clear xv; rotate_left; clear_value xv; rotate_left)
      | clear_value xv
      | (unfold xv; clear xv))
    | with_reducible apply closePeer_keeps
    | with_reducible apply loseContact_keeps
    | with_reducible apply regBump_keeps
    | with_reducible apply setPeer_keeps)

theorem heardFrom_keeps {s0 : State} (s : State) (n : NodeId) (hk : Keeps s0 s) :
    Keeps s0 (heardFrom s n) := by
  unfold heardFrom
  repeat' (first
    | with_reducible assumption
    | (extract_lets +onlyGivenNames xv; first
      | (refine keeps_cut (P := Keeps s0 xv) ?_ (fun _ => ?_); unfold xv; clear xv; rotate_left; clear_value xv; rotate_left)
      | clear_value xv)
    | with_reducible apply resendFlow_keeps
    | with_reducible apply setPeer_keeps
    | with_reducible refine keeps_foldl _ ?_ (fun _ _ _ => ?_)
    | split)

theorem startTraining_keeps {s0 : State} (s : State) (p : PortId) (hk : Keeps s0 s) :
    Keeps s0 (startTraining s p) := by
  unfold startTraining
  repeat' (first
    | with_reducible assumption
    | (extract_lets +onlyGivenNames xv; first
      | (refine keeps_cut (P := Keeps s0 xv) ?_ (fun _ => ?_); unfold xv; clear xv; rotate_left; clear_value xv; rotate_left)
      | clear_value xv)
    | with_reducible apply regBump_keeps
    | with_reducible apply send_keeps
    | with_reducible apply setPort_keeps
    | split)

theorem execPortEnable_keeps {s0 : State} (p : PortId) (s : State) (hk : Keeps s0 s) :
    KeepsOut s0 (execPortEnable p s) := by
  unfold execPortEnable
  repeat' (first
    | with_reducible assumption
    | (extract_lets +onlyGivenNames xv; refine keeps_cut (P := Keeps s0 xv) ?_ (fun _ => ?_); unfold xv; clear xv; rotate_left; clear_value xv; rotate_left)
    | with_reducible refine keepsOut_next ?_
    | with_reducible apply regPut_keeps
    | with_reducible apply startTraining_keeps
    | split)

theorem stopPort_keeps {s0 : State} (s : State) (p : PortId) (hk : Keeps s0 s) :
    Keeps s0 (stopPort s p) := by
  unfold stopPort
  repeat' (first
    | with_reducible assumption
    | (extract_lets +onlyGivenNames xv; clear_value xv)
    | with_reducible apply setPort_keeps)

theorem execPortDisable_keeps {s0 : State} (p : PortId) (s : State) (hk : Keeps s0 s) :
    KeepsOut s0 (execPortDisable p s) := by
  unfold execPortDisable
  repeat' (first
    | with_reducible assumption
    | (extract_lets +onlyGivenNames xv; first
      | (refine keeps_cut (P := Keeps s0 xv) ?_ (fun _ => ?_); unfold xv; clear xv; rotate_left; clear_value xv; rotate_left)
      | clear_value xv)
    | with_reducible refine keepsOut_next ?_
    | with_reducible apply moveFlows_keeps
    | with_reducible apply regPut_keeps
    | with_reducible apply sendBye_keeps
    | with_reducible apply stopPort_keeps
    | with_reducible refine keeps_foldl _ ?_ (fun _ _ _ => ?_)
    | split)

theorem execPartnerDetected_keeps {s0 : State} (p : PortId) (s : State) (hk : Keeps s0 s) :
    KeepsOut s0 (execPartnerDetected p s) := by
  unfold execPartnerDetected
  repeat' (first
    | with_reducible assumption
    | (extract_lets +onlyGivenNames xv; clear_value xv)
    | with_reducible refine keepsOut_next ?_
    | with_reducible apply setPort_keeps
    | split)

theorem toAlign_keeps {s0 : State} (s : State) (p : PortId) (locked : BitVec 4) (hk : Keeps s0 s) :
    Keeps s0 (toAlign s p locked) := by
  unfold toAlign
  repeat' (first
    | with_reducible assumption
    | (extract_lets +onlyGivenNames xv; clear_value xv)
    | with_reducible apply setPort_keeps)

theorem retireLane_keeps {s0 : State} (s : State) (p : PortId) (l : Nat) (hk : Keeps s0 s) :
    Keeps s0 (retireLane s p l) := by
  unfold retireLane
  repeat' (first
    | with_reducible assumption
    | (extract_lets +onlyGivenNames xv; first
      | (refine keeps_cut (P := Keeps s0 xv) ?_ (fun _ => ?_); unfold xv; clear xv; rotate_left; clear_value xv; rotate_left)
      | clear_value xv)
    | with_reducible apply geoBump_keeps
    | with_reducible apply logFault_keeps
    | with_reducible apply moveFlows_keeps
    | with_reducible apply regClearBit_keeps
    | with_reducible apply setPort_keeps
    | split)

theorem countLocks_keeps {s0 : State} (s : State) (p : PortId) (locked : BitVec 4) (hk : Keeps s0 s) :
    Keeps s0 (countLocks s p locked) := by
  unfold countLocks
  repeat' (first
    | with_reducible assumption
    | (extract_lets +onlyGivenNames xv; first
      | (refine keeps_cut (P := Keeps s0 xv) ?_ (fun _ => ?_); unfold xv; clear xv; rotate_left; clear_value xv; rotate_left)
      | clear_value xv)
    | with_reducible apply retireLane_keeps
    | with_reducible apply setPort_keeps
    | with_reducible refine keeps_foldl _ ?_ (fun _ _ _ => ?_)
    | split)

theorem execLanesLocked_keeps {s0 : State} (p : PortId) (lanes : BitVec 4) (s : State) (hk : Keeps s0 s) :
    KeepsOut s0 (execLanesLocked p lanes s) := by
  unfold execLanesLocked
  repeat' (first
    | with_reducible assumption
    | (extract_lets +onlyGivenNames xv; clear_value xv)
    | with_reducible refine keepsOut_next ?_
    | with_reducible apply countLocks_keeps
    | with_reducible apply setPort_keeps
    | with_reducible apply toAlign_keeps
    | split)

theorem execEqualiseTimeout_keeps {s0 : State} (p : PortId) (lanes : BitVec 4) (s : State) (hk : Keeps s0 s) :
    KeepsOut s0 (execEqualiseTimeout p lanes s) := by
  unfold execEqualiseTimeout
  repeat' (first
    | with_reducible assumption
    | (extract_lets +onlyGivenNames xv; clear_value xv)
    | with_reducible refine keepsOut_next ?_
    | with_reducible apply countLocks_keeps
    | with_reducible apply startTraining_keeps
    | with_reducible apply toAlign_keeps
    | split)

theorem execAlignDone_keeps {s0 : State} (p : PortId) (s : State) (hk : Keeps s0 s) :
    KeepsOut s0 (execAlignDone p s) := by
  unfold execAlignDone
  repeat' (first
    | with_reducible assumption
    | (extract_lets +onlyGivenNames xv; clear_value xv)
    | with_reducible refine keepsOut_next ?_
    | with_reducible apply setPort_keeps
    | split)

theorem execParamExchanged_keeps {s0 : State} (p : PortId) (node : NodeId) (bootId : BitVec 32) (s : State) (hk : Keeps s0 s) :
    KeepsOut s0 (execParamExchanged p node bootId s) := by
  unfold execParamExchanged
  repeat' (first
    | with_reducible assumption
    | (extract_lets +onlyGivenNames xv; first
      | (refine keeps_cut (P := Keeps s0 xv) ?_ (fun _ => ?_); unfold xv; clear xv; rotate_left; clear_value xv; rotate_left)
      | clear_value xv)
    | with_reducible refine keepsOut_next ?_
    | with_reducible apply joinRouted_keeps
    | with_reducible apply peerDownTo_keeps
    | with_reducible apply regFlag_keeps
    | with_reducible apply setPort_keeps
    | split)

theorem retrainPort_keeps {s0 : State} (s : State) (p : PortId) (hk : Keeps s0 s) :
    Keeps s0 (retrainPort s p) := by
  unfold retrainPort
  repeat' (first
    | with_reducible assumption
    | (extract_lets +onlyGivenNames xv; first
      | (refine keeps_cut (P := Keeps s0 xv) ?_ (fun _ => ?_); unfold xv; clear xv; rotate_left; clear_value xv; rotate_left)
      | clear_value xv)
    | with_reducible apply moveFlows_keeps
    | with_reducible apply regBump_keeps
    | with_reducible apply setPort_keeps
    | split)

theorem execRetrain_keeps {s0 : State} (p : PortId) (cause : RetrainCause) (s : State) (hk : Keeps s0 s) :
    KeepsOut s0 (execRetrain p cause s) := by
  unfold execRetrain
  repeat' (first
    | with_reducible assumption
    | with_reducible refine keepsOut_next ?_
    | with_reducible apply retrainPort_keeps
    | split)

theorem execLaneRetire_keeps {s0 : State} (p : PortId) (lane : Fin 4) (cause : LaneCause) (s : State) (hk : Keeps s0 s) :
    KeepsOut s0 (execLaneRetire p lane cause s) := by
  unfold execLaneRetire
  repeat' (first
    | with_reducible assumption
    | with_reducible refine keepsOut_next ?_
    | with_reducible apply retireLane_keeps
    | with_reducible apply retrainPort_keeps
    | split)

theorem execRaileRefLost_keeps {s0 : State} (die : Fin 4) (s : State) (hk : Keeps s0 s) :
    KeepsOut s0 (execRaileRefLost die s) := by
  unfold execRaileRefLost
  repeat' (first
    | with_reducible assumption
    | with_reducible refine keepsOut_next ?_
    | with_reducible apply retrainPort_keeps
    | with_reducible refine keeps_foldl _ ?_ (fun _ _ _ => ?_)
    | split)

theorem resendFrames_keeps {s0 : State} (s : State) (p : PortId) (hk : Keeps s0 s) :
    Keeps s0 (resendFrames s p) := by
  unfold resendFrames
  repeat' (first
    | with_reducible assumption
    | (extract_lets +onlyGivenNames xv; first
      | (refine keeps_cut (P := Keeps s0 xv) ?_ (fun _ => ?_); unfold xv; clear xv; rotate_left; clear_value xv; rotate_left)
      | clear_value xv)
    | with_reducible apply regBump_keeps
    | with_reducible apply sendFrame_keeps
    | with_reducible apply setPort_keeps
    | with_reducible refine keeps_foldl _ ?_ (fun _ _ _ => ?_))

theorem frameAck_keeps {s0 : State} (s : State) (p : PortId) (f : Frame) (hk : Keeps s0 s) :
    Keeps s0 (frameAck s p f) := by
  unfold frameAck
  repeat' (first
    | with_reducible assumption
    | (extract_lets +onlyGivenNames xv; first
      | (refine keeps_cut (P := Keeps s0 xv) ?_ (fun _ => ?_); unfold xv; clear xv; rotate_left; clear_value xv; rotate_left)
      | clear_value xv)
    | with_reducible apply pumpPort_keeps
    | with_reducible apply resendFrames_keeps
    | with_reducible apply setPort_keeps
    | split)

theorem ackFrame_keeps {s0 : State} (s : State) (p : PortId) (nak : Bool) (hk : Keeps s0 s) :
    Keeps s0 (ackFrame s p nak) := by
  unfold ackFrame
  repeat' (first
    | with_reducible assumption
    | with_reducible apply sendFrame_keeps)

theorem countFrame_keeps {s0 : State} (s : State) (p : PortId) (f : Frame) (hk : Keeps s0 s) :
    Keeps s0 (countFrame s p f) := by
  unfold countFrame
  repeat' (first
    | with_reducible assumption
    | (extract_lets +onlyGivenNames xv; first
      | (refine keeps_cut (P := Keeps s0 xv) ?_ (fun _ => ?_); unfold xv; clear xv; rotate_left; clear_value xv; rotate_left)
      | clear_value xv)
    | with_reducible apply regBump_keeps
    | with_reducible refine keeps_foldl _ ?_ (fun _ _ _ => ?_))

theorem execFrameReceived_keeps {s0 : State} (p : PortId) (f : Frame) (s : State) (hk : Keeps s0 s) :
    KeepsOut s0 (execFrameReceived p f s) := by
  unfold execFrameReceived
  repeat' (first
    | with_reducible assumption
    | (extract_lets +onlyGivenNames xv; first
      | (refine keeps_cut (P := Keeps s0 xv) ?_ (fun _ => ?_); unfold xv; clear xv; rotate_left; clear_value xv; rotate_left)
      | clear_value xv)
    | with_reducible refine keepsOut_next ?_
    | with_reducible apply ackFrame_keeps
    | with_reducible apply countFrame_keeps
    | with_reducible apply frameAck_keeps
    | with_reducible apply setPort_keeps
    | split)

theorem execFrameResendTimeout_keeps {s0 : State} (p : PortId) (s : State) (hk : Keeps s0 s) :
    KeepsOut s0 (execFrameResendTimeout p s) := by
  unfold execFrameResendTimeout
  repeat' (first
    | with_reducible assumption
    | (extract_lets +onlyGivenNames xv; clear_value xv)
    | with_reducible refine keepsOut_next ?_
    | with_reducible apply resendFrames_keeps
    | split)

theorem execAckReport_keeps {s0 : State} (p : PortId) (s : State) (hk : Keeps s0 s) :
    KeepsOut s0 (execAckReport p s) := by
  unfold execAckReport
  repeat' (first
    | with_reducible assumption
    | with_reducible refine keepsOut_next ?_
    | with_reducible apply ackFrame_keeps
    | split)

theorem rerouteFlows_keeps {s0 : State} (s : State) (hk : Keeps s0 s) :
    Keeps s0 (rerouteFlows s) := by
  unfold rerouteFlows
  repeat' (first
    | with_reducible assumption
    | with_reducible apply moveFlow_keeps
    | with_reducible refine keeps_foldl _ ?_ (fun _ _ _ => ?_))

theorem execRouteWrite_keeps {s0 : State} (idx : Fin 1024) (val : Reg64) (s : State) (hk : Keeps s0 s) :
    KeepsOut s0 (execRouteWrite idx val s) := by
  unfold execRouteWrite
  repeat' (first
    | with_reducible assumption
    | (extract_lets +onlyGivenNames xv; first
      | (refine keeps_cut (P := Keeps s0 xv) ?_ (fun _ => ?_); unfold xv; clear xv; rotate_left; clear_value xv; rotate_left)
      | clear_value xv)
    | with_reducible refine keepsOut_next ?_
    | with_reducible apply joinRouted_keeps
    | with_reducible apply peerDownTo_keeps
    | with_reducible apply regSet_keeps
    | with_reducible apply rerouteFlows_keeps
    | with_reducible refine keeps_foldl _ ?_ (fun _ _ _ => ?_)
    | split)

theorem execRegionWrite_keeps {s0 : State} (i : Fin 512) (r : Fin 4) (val : Reg64) (s : State) (hk : Keeps s0 s) :
    KeepsOut s0 (execRegionWrite i r val s) := by
  unfold execRegionWrite
  repeat' (first
    | with_reducible assumption
    | (extract_lets +onlyGivenNames xv; first
      | (refine keeps_cut (P := Keeps s0 xv) ?_ (fun _ => ?_); unfold xv; clear xv; rotate_left; clear_value xv; rotate_left)
      | clear_value xv)
    | with_reducible refine keepsOut_next ?_
    | with_reducible apply regClearBit_keeps
    | with_reducible apply regFlag_keeps
    | with_reducible apply regSet_keeps
    | split)

theorem tagFail_keeps {s0 : State} (s : State) (hk : Keeps s0 s) :
    Keeps s0 (tagFail s) := by
  unfold tagFail
  repeat' (first
    | with_reducible assumption
    | with_reducible apply regBump_keeps)

theorem execHello_keeps {s0 : State} (h : HelloMsg) (s : State) (hk : Keeps s0 s) :
    KeepsOut s0 (execHello h s) := by
  unfold execHello
  repeat' (first
    | with_reducible assumption
    | (extract_lets +onlyGivenNames xv; first
      | (refine keeps_cut (P := Keeps s0 xv) ?_ (fun _ => ?_); unfold xv; clear xv; rotate_left; clear_value xv; rotate_left)
      | clear_value xv
      | (unfold xv; clear xv))
    | with_reducible refine keepsOut_next ?_
    | with_reducible apply closePeer_keeps
    | with_reducible apply heardFrom_keeps
    | with_reducible apply joinPeer_keeps
    | with_reducible apply openDeviceFlow_keeps
    | with_reducible apply sendHello_keeps
    | with_reducible apply setPeer_keeps
    | with_reducible apply tagFail_keeps
    | with_reducible apply tickFree_keeps
    | split)

theorem execHelloAck_keeps {s0 : State} (h : HelloMsg) (s : State) (hk : Keeps s0 s) :
    KeepsOut s0 (execHelloAck h s) := by
  unfold execHelloAck
  repeat' (first
    | with_reducible assumption
    | (extract_lets +onlyGivenNames xv; clear_value xv)
    | with_reducible refine keepsOut_next ?_
    | with_reducible apply openDeviceFlow_keeps
    | with_reducible apply setPeer_keeps
    | with_reducible apply tagFail_keeps
    | split)

theorem execHelloRetry_keeps {s0 : State} (n : NodeId) (s : State) (hk : Keeps s0 s) :
    KeepsOut s0 (execHelloRetry n s) := by
  unfold execHelloRetry
  repeat' (first
    | with_reducible assumption
    | (extract_lets +onlyGivenNames xv; clear_value xv)
    | with_reducible refine keepsOut_next ?_
    | with_reducible apply joinPeer_keeps
    | with_reducible apply setPeer_keeps
    | split)

theorem execBye_keeps {s0 : State} (n : NodeId) (b : ByeMsg) (s : State) (hk : Keeps s0 s) :
    KeepsOut s0 (execBye n b s) := by
  unfold execBye
  repeat' (first
    | with_reducible assumption
    | with_reducible refine keepsOut_next ?_
    | with_reducible exact keepsOut_fault _
    | with_reducible exact keepsOut_refused _
    | with_reducible apply tagFail_keeps
    | with_reducible apply peerDownTo_keeps
    | split)

theorem execKeepalive_keeps {s0 : State} (n : NodeId) (m : KeepaliveMsg) (s : State) (hk : Keeps s0 s) :
    KeepsOut s0 (execKeepalive n m s) := by
  unfold execKeepalive
  repeat' (first
    | with_reducible assumption
    | (extract_lets +onlyGivenNames xv; first
      | (refine keeps_cut (P := Keeps s0 xv) ?_ (fun _ => ?_); unfold xv; clear xv; rotate_left; clear_value xv; rotate_left)
      | clear_value xv)
    | with_reducible refine keepsOut_next ?_
    | with_reducible apply heardFrom_keeps
    | with_reducible apply sendCtl_keeps
    | with_reducible apply setPeer_keeps
    | split)

theorem execPeerSuspect_keeps {s0 : State} (n : NodeId) (s : State) (hk : Keeps s0 s) :
    KeepsOut s0 (execPeerSuspect n s) := by
  unfold execPeerSuspect
  repeat' (first
    | with_reducible assumption
    | (extract_lets +onlyGivenNames xv; clear_value xv)
    | with_reducible refine keepsOut_next ?_
    | with_reducible apply setPeer_keeps
    | split)

theorem execPeerDown_keeps {s0 : State} (n : NodeId) (s : State) (hk : Keeps s0 s) :
    KeepsOut s0 (execPeerDown n s) := by
  unfold execPeerDown
  repeat' (first
    | with_reducible assumption
    | with_reducible refine keepsOut_next ?_
    | with_reducible apply peerDownTo_keeps
    | split)

end Sys2Proof.Machine
end

