-- ==== Sys2Proof/Laws/FaultsKeeps.lean ====
section
/-! SUPPORT. What the definitions of Machine/Faults.lean keep (Laws/Keeps.lean). -/

namespace Sys2Proof.Machine

theorem execDeviceHalt_keeps {s0 : State} (source : BitVec 8) (code : BitVec 16) (s : State) (hk : Keeps s0 s) :
    KeepsOut s0 (execDeviceHalt source code s) := by
  unfold execDeviceHalt
  repeat' (first
    | with_reducible assumption
    | with_reducible refine keepsOut_next ?_
    | with_reducible apply haltDevice_keeps
    | split)

theorem retireArray_keeps {s0 : State} (s : State) (a : ArrId) (hk : Keeps s0 s) :
    Keeps s0 (retireArray s a) := by
  unfold retireArray
  repeat' (first
    | with_reducible assumption
    | (extract_lets +onlyGivenNames xv; first
      | (refine keeps_cut (P := Keeps s0 xv) ?_ (fun _ => ?_); unfold xv; clear xv; rotate_left; clear_value xv; rotate_left)
      | clear_value xv)
    | with_reducible apply geoBump_keeps
    | with_reducible apply logAt_keeps
    | with_reducible apply regClearBit_keeps
    | with_reducible apply setArr_keeps
    | split)

theorem resetArray_keeps {s0 : State} (s : State) (a : ArrId) (own : Bool) (hk : Keeps s0 s) :
    Keeps s0 (resetArray s a own) := by
  unfold resetArray
  repeat' (first
    | with_reducible assumption
    | (extract_lets +onlyGivenNames xv; first
      | (refine keeps_cut (P := Keeps s0 xv) ?_ (fun _ => ?_); unfold xv; clear xv; rotate_left; clear_value xv; rotate_left)
      | (refine keeps_cut (P := KeepsOpt s0 xv) ?_ (fun _ => ?_); unfold xv; clear xv; rotate_left; clear_value xv; rotate_left)
      | clear_value xv
      | (unfold xv; clear xv))
    | with_reducible apply stopItem_keeps
    | with_reducible apply abandonArray_keeps
    | with_reducible apply setArr_keeps
    | with_reducible apply logAt_keeps
    | with_reducible apply dropTrim_keeps
    | with_reducible apply retireArray_keeps
    | split)

theorem execArrayReset_keeps {s0 : State} (a : ArrId) (ownError : Bool) (s : State) (hk : Keeps s0 s) :
    KeepsOut s0 (execArrayReset a ownError s) := by
  unfold execArrayReset
  repeat' (first
    | with_reducible assumption
    | with_reducible refine keepsOut_next ?_
    | with_reducible apply resetArray_keeps
    | split)

theorem runAgain_keeps {s0 : State} (s : State) (a : ArrId) (hk : Keeps s0 s) :
    KeepsOpt s0 (runAgain s a) := by
  unfold runAgain
  repeat' (first
    | with_reducible assumption
    | (extract_lets +onlyGivenNames xv; first
      | (refine keeps_cut (P := Keeps s0 xv) ?_ (fun _ => ?_); unfold xv; clear xv; rotate_left; clear_value xv; rotate_left)
      | (refine keeps_cut (P := KeepsOpt s0 xv) ?_ (fun _ => ?_); unfold xv; clear xv; rotate_left; clear_value xv; rotate_left)
      | clear_value xv
      | (unfold xv; clear xv))
    | with_reducible refine keepsOpt_some ?_
    | with_reducible exact keepsOpt_none
    | with_reducible apply setArr_keeps
    | split)

theorem execArrayTestDone_keeps {s0 : State} (a : ArrId) (pass : Bool) (s : State) (hk : Keeps s0 s) :
    KeepsOut s0 (execArrayTestDone a pass s) := by
  unfold execArrayTestDone
  repeat' (first
    | with_reducible assumption
    | (extract_lets +onlyGivenNames xv; first
      | (refine keeps_cut (P := Keeps s0 xv) ?_ (fun _ => ?_); unfold xv; clear xv; rotate_left; clear_value xv; rotate_left)
      | (refine keeps_cut (P := KeepsOpt s0 xv) ?_ (fun _ => ?_); unfold xv; clear xv; rotate_left; clear_value xv; rotate_left)
      | clear_value xv
      | (unfold xv; clear xv))
    | with_reducible refine keepsOpt_some ?_
    | with_reducible exact keepsOpt_none
    | with_reducible refine keepsOut_next ?_
    | with_reducible exact keepsOut_fault _
    | with_reducible exact keepsOut_refused _
    | with_reducible apply runAgain_keeps
    | with_reducible apply retireArray_keeps
    | with_reducible apply setArr_keeps
    | with_reducible apply regFlag_keeps
    | split
    | with_reducible refine keeps_of_some (by assumption) ?_)

theorem arrayError_keeps {s0 : State} (s : State) (a : ArrId) (source : Nat) (hk : Keeps s0 s) :
    Keeps s0 (arrayError s a source) := by
  unfold arrayError
  repeat' (first
    | with_reducible assumption
    | (extract_lets +onlyGivenNames xv; first
      | (refine keeps_cut (P := Keeps s0 xv) ?_ (fun _ => ?_); unfold xv; clear xv; rotate_left; clear_value xv; rotate_left)
      | clear_value xv)
    | with_reducible apply logAt_keeps
    | with_reducible apply logItem_keeps
    | with_reducible apply resetArray_keeps
    | with_reducible apply setArr_keeps
    | with_reducible apply stopItem_keeps
    | split)

theorem restartCore_keeps {s0 : State} (s : State) (c : Fin 4) (code : Nat) (hk : Keeps s0 s) :
    Keeps s0 (restartCore s c code) := by
  unfold restartCore
  repeat' (first
    | with_reducible assumption
    | (extract_lets +onlyGivenNames xv; first
      | (refine keeps_cut (P := Keeps s0 xv) ?_ (fun _ => ?_); unfold xv; clear xv; rotate_left; clear_value xv; rotate_left)
      | clear_value xv)
    | with_reducible apply haltDevice_keeps
    | with_reducible apply logAt_keeps
    | with_reducible apply regBump_keeps
    | with_reducible apply regFlag_keeps
    | split
    | (simp -zeta only [↓keeps_mk]; with_reducible refine keeps_upd ?_))

theorem execWatchdog_keeps {s0 : State} (c : Fin 4) (s : State) (hk : Keeps s0 s) :
    KeepsOut s0 (execWatchdog c s) := by
  unfold execWatchdog
  repeat' (first
    | with_reducible assumption
    | with_reducible refine keepsOut_next ?_
    | with_reducible apply restartCore_keeps
    | split)

theorem resetDie_keeps {s0 : State} (s : State) (die : Fin 4) (code : Nat) (hk : Keeps s0 s) :
    Keeps s0 (resetDie s die code) := by
  unfold resetDie
  repeat' (first
    | with_reducible assumption
    | with_reducible intro _
    | (extract_lets +onlyGivenNames xv; first
      | (refine keeps_cut (P := Keeps s0 xv) ?_ (fun _ => ?_); unfold xv; clear xv; rotate_left; clear_value xv; rotate_left)
      | clear_value xv
      | (unfold xv; clear xv))
    | with_reducible apply haltDevice_keeps
    | with_reducible apply stopAll_keeps
    | with_reducible apply showFault_keeps
    | with_reducible apply setFe_keeps
    | with_reducible apply retrainPort_keeps
    | with_reducible apply logAt_keeps
    | with_reducible refine keeps_foldl _ ?_ (fun _ _ _ => ?_)
    | with_reducible refine keeps_foldlP _ ?_ (fun _ _ _ => ?_)
    | split
    | with_reducible refine keepsP_fst ?_
    | (simp -zeta only [↓keeps_mk]; with_reducible refine keeps_upd ?_))

theorem execFenDieReset_keeps {s0 : State} (die : Fin 4) (s : State) (hk : Keeps s0 s) :
    KeepsOut s0 (execFenDieReset die s) := by
  unfold execFenDieReset
  repeat' (first
    | with_reducible assumption
    | with_reducible refine keepsOut_next ?_
    | with_reducible apply resetDie_keeps
    | split)

theorem execStacksLeaveSelfRefresh_keeps {s0 : State} (die : Fin 4) (s : State) (hk : Keeps s0 s) :
    KeepsOut s0 (execStacksLeaveSelfRefresh die s) := by
  unfold execStacksLeaveSelfRefresh
  repeat' (first
    | with_reducible assumption
    | (extract_lets +onlyGivenNames xv; clear_value xv)
    | with_reducible refine keepsOut_next ?_
    | (simp -zeta only [↓keeps_mk]; with_reducible refine keeps_upd ?_))

theorem itemError_keeps {s0 : State} (s : State) (id source : Nat) (hk : Keeps s0 s) :
    Keeps s0 (itemError s id source) := by
  unfold itemError
  repeat' (first
    | with_reducible assumption
    | with_reducible apply logItem_keeps
    | with_reducible apply stopItem_keeps
    | split)

theorem noteError_keeps {s0 : State} (s : State) (a : ArrId) (hk : Keeps s0 s) :
    Keeps s0 (noteError s a) := by
  unfold noteError
  repeat' (first
    | with_reducible assumption
    | (extract_lets +onlyGivenNames xv; first
      | (refine keeps_cut (P := Keeps s0 xv) ?_ (fun _ => ?_); unfold xv; clear xv; rotate_left; clear_value xv; rotate_left)
      | clear_value xv
      | (unfold xv; clear xv))
    | with_reducible apply setArr_keeps)

theorem counterError_keeps {s0 : State} (s : State) (id : Nat) (hk : Keeps s0 s) :
    Keeps s0 (counterError s id) := by
  unfold counterError
  repeat' (first
    | with_reducible assumption
    | with_reducible intro _
    | (extract_lets +onlyGivenNames xv; first
      | (refine keeps_cut (P := Keeps s0 xv) ?_ (fun _ => ?_); unfold xv; clear xv; rotate_left; clear_value xv; rotate_left)
      | (refine keeps_cut (P := KeepsOpt s0 xv) ?_ (fun _ => ?_); unfold xv; clear xv; rotate_left; clear_value xv; rotate_left)
      | clear_value xv
      | (unfold xv; clear xv))
    | with_reducible apply noteError_keeps
    | with_reducible apply itemError_keeps
    | with_reducible apply resetArray_keeps
    | with_reducible refine keeps_foldl _ ?_ (fun _ _ _ => ?_)
    | with_reducible refine keeps_foldlP _ ?_ (fun _ _ _ => ?_)
    | split)

theorem found_keeps {s0 : State} (s : State) (source unit : Nat) (hk : Keeps s0 s) :
    Keeps s0 (found s source unit) := by
  unfold found
  repeat' (first
    | with_reducible assumption
    | with_reducible intro _
    | (simp -zeta only [↓keeps_mk]; with_reducible refine keeps_upd ?_))

theorem execParityError_keeps {s0 : State} (x : ParityStruct) (s : State) (hk : Keeps s0 s) :
    KeepsOut s0 (execParityError x s) := by
  unfold execParityError
  repeat' (first
    | with_reducible assumption
    | with_reducible intro _
    | (extract_lets +onlyGivenNames xv; first
      | (refine keeps_cut (P := Keeps s0 xv) ?_ (fun _ => ?_); unfold xv; clear xv; rotate_left; clear_value xv; rotate_left)
      | clear_value xv
      | (unfold xv; clear xv))
    | with_reducible refine keepsOut_next ?_
    | with_reducible exact keepsOut_fault _
    | with_reducible exact keepsOut_refused _
    | with_reducible apply regBump_keeps
    | with_reducible apply arrayError_keeps
    | with_reducible apply found_keeps
    | with_reducible apply itemError_keeps
    | with_reducible apply logAt_keeps
    | with_reducible apply stopItem_keeps
    | with_reducible apply counterError_keeps
    | with_reducible apply resetArray_keeps
    | with_reducible apply haltDevice_keeps
    | with_reducible apply tenantFault_keeps
    | with_reducible apply restartCore_keeps
    | with_reducible apply resetDie_keeps
    | with_reducible refine keeps_foldl _ ?_ (fun _ _ _ => ?_)
    | with_reducible refine keeps_foldlP _ ?_ (fun _ _ _ => ?_)
    | split
    | (simp -zeta only [↓keeps_mk]; with_reducible refine keeps_upd ?_))

theorem execScrubRead_keeps {s0 : State} (line : Nat) (ecc : EccResult) (s : State) (hk : Keeps s0 s) :
    KeepsOut s0 (execScrubRead line ecc s) := by
  unfold execScrubRead
  repeat' (first
    | with_reducible assumption
    | (extract_lets +onlyGivenNames xv; refine keeps_cut (P := Keeps s0 xv) ?_ (fun _ => ?_); unfold xv; clear xv; rotate_left; clear_value xv; rotate_left)
    | with_reducible refine keepsOut_next ?_
    | with_reducible apply eccCorrect_keeps
    | with_reducible apply eccPoison_keeps
    | with_reducible apply hbmRead_keeps
    | with_reducible apply regBump_keeps
    | with_reducible apply reservedDpa_keeps
    | split)

theorem execPcRetire_keeps {s0 : State} (pc : Fin 640) (s : State) (hk : Keeps s0 s) :
    KeepsOut s0 (execPcRetire pc s) := by
  unfold execPcRetire
  repeat' (first
    | with_reducible assumption
    | with_reducible refine keepsOut_next ?_
    | with_reducible exact keepsOut_fault _
    | with_reducible exact keepsOut_refused _
    | with_reducible apply retirePc_keeps
    | split)

theorem execRedirectCopyDone_keeps {s0 : State} (slot : Fin 2) (s : State) (hk : Keeps s0 s) :
    KeepsOut s0 (execRedirectCopyDone slot s) := by
  unfold execRedirectCopyDone
  repeat' (first
    | with_reducible assumption
    | with_reducible intro _
    | (extract_lets +onlyGivenNames xv; first
      | (refine keeps_cut (P := Keeps s0 xv) ?_ (fun _ => ?_); unfold xv; clear xv; rotate_left; clear_value xv; rotate_left)
      | (refine keeps_cut (P := KeepsOpt s0 xv) ?_ (fun _ => ?_); unfold xv; clear xv; rotate_left; clear_value xv; rotate_left)
      | clear_value xv
      | (unfold xv; clear xv))
    | with_reducible refine keepsOut_next ?_
    | with_reducible exact keepsOut_fault _
    | with_reducible exact keepsOut_refused _
    | with_reducible apply hbmRead_keeps
    | with_reducible apply regFlag_keeps
    | with_reducible refine keeps_foldl _ ?_ (fun _ _ _ => ?_)
    | with_reducible refine keeps_foldlP _ ?_ (fun _ _ _ => ?_)
    | split
    | with_reducible refine keepsP_fst ?_
    | (simp -zeta only [↓keeps_mk]; with_reducible refine keeps_upd ?_))

theorem execFltInject_keeps {s0 : State} (val : Reg64) (s : State) (hk : Keeps s0 s) :
    KeepsOut s0 (execFltInject val s) := by
  unfold execFltInject
  repeat' (first
    | with_reducible assumption
    | (extract_lets +onlyGivenNames xv; clear_value xv)
    | with_reducible refine keepsOut_next ?_
    | with_reducible apply regSet_keeps
    | split)

theorem execGetLog_keeps {s0 : State} (m : Mbox) (p : List Byte) (s : State) (hk : Keeps s0 s) :
    KeepsOut s0 (execGetLog m p s) := by
  unfold execGetLog
  refine bruah_keeps _ _ _ _ _ _ hk (fun t u hu => ?_)
  extract_lets off len
  split
  · exact keepsP_mk hu
  · split
    · exact keepsP_mk (keeps_same hu rfl rfl rfl rfl rfl rfl)
    · exact keepsP_mk hu

end Sys2Proof.Machine
end

