-- ==== Sys2Proof/Laws/PowerKeeps.lean ====
section
/-! SUPPORT. What the definitions of Machine/Power.lean keep (Laws/Keeps.lean). -/

namespace Sys2Proof.Machine

theorem showRaise_keeps {s0 : State} (s : State) (hk : Keeps s0 s) :
    Keeps s0 (showRaise s) := by
  unfold showRaise
  repeat' (first
    | with_reducible assumption
    | with_reducible apply regPut_keeps)

theorem noteBooked_keeps {s0 : State} (s : State) (c : Nat) (hk : Keeps s0 s) :
    Keeps s0 (noteBooked s c) := by
  unfold noteBooked
  repeat' (first
    | with_reducible assumption
    | with_reducible apply noteCause_keeps
    | with_reducible refine keeps_foldl _ ?_ (fun _ _ _ => ?_)
    | split)

theorem headlandPair_keeps {s0 : State} (s : State) (hk : Keeps s0 s) :
    Keeps s0 (headlandPair s) := by
  unfold headlandPair
  repeat' (first
    | with_reducible assumption
    | (extract_lets +onlyGivenNames xv; first
      | (refine keeps_cut (P := Keeps s0 xv) ?_ (fun _ => ?_); unfold xv; clear xv; rotate_left; clear_value xv; rotate_left)
      | (refine keeps_cut (P := KeepsOpt s0 xv) ?_ (fun _ => ?_); unfold xv; clear xv; rotate_left; clear_value xv; rotate_left)
      | clear_value xv
      | (unfold xv; clear xv))
    | with_reducible apply noteBooked_keeps
    | with_reducible apply floorFlag_keeps
    | with_reducible apply showRaise_keeps
    | split
    | with_reducible refine keepsP_fst ?_
    | (simp -zeta only [↓keeps_mk]; with_reducible refine keeps_upd ?_))

theorem switchOp_keeps {s0 : State} (s : State) (now op : Nat) (hk : Keeps s0 s) :
    KeepsP s0 (switchOp s now op) := by
  unfold switchOp
  repeat' (first
    | with_reducible assumption
    | (extract_lets +onlyGivenNames xv; first
      | (refine keeps_cut (P := Keeps s0 xv) ?_ (fun _ => ?_); unfold xv; clear xv; rotate_left; clear_value xv; rotate_left)
      | (refine keeps_cut (P := KeepsP s0 xv) ?_ (fun _ => ?_); unfold xv; clear xv; rotate_left; clear_value xv; rotate_left)
      | clear_value xv
      | (unfold xv; clear xv))
    | with_reducible refine keepsP_mk ?_
    | with_reducible apply regBump_keeps
    | with_reducible apply setVddOp_keeps
    | split
    | with_reducible refine keepsP_fst ?_
    | with_reducible refine keeps_of_pair (by assumption) ?_
    | (simp -zeta only [↓keeps_mk]; with_reducible refine keeps_upd ?_))

theorem tickPair_keeps {s0 : State} (s : State) (now : Nat) (hk : Keeps s0 s) : Keeps s0 (tickPair s now) := by
  unfold tickPair
  split
  · exact hk
  · split
    · split
      · exact regBump_keeps _ _ _ hk
      · extract_lets _ s1 s2
        have h1 : Keeps s0 s1 := switchOp_keeps s _ _ hk
        have h2 : Keeps s0 s2 := by unfold s2; split; exacts [noteBooked_keeps _ _ h1, h1]
        exact showRaise_keeps _ (keeps_same h2 rfl rfl rfl rfl rfl rfl)
    · split
      · split
        · exact hk
        · split
          · exact switchOp_keeps s _ _ hk
          · exact keeps_same (keepsP_fst (switchOp_keeps s _ _ hk)) rfl rfl rfl rfl rfl rfl
      · exact switchOp_keeps s _ _ hk

theorem execOpRaisePrepare_keeps {s0 : State} (s : State) (hk : Keeps s0 s) :
    KeepsOut s0 (execOpRaisePrepare s) := by
  unfold execOpRaisePrepare
  repeat' (first
    | with_reducible assumption
    | (extract_lets +onlyGivenNames xv; first
      | (refine keeps_cut (P := Keeps s0 xv) ?_ (fun _ => ?_); unfold xv; clear xv; rotate_left; clear_value xv; rotate_left)
      | (refine keeps_cut (P := KeepsOpt s0 xv) ?_ (fun _ => ?_); unfold xv; clear xv; rotate_left; clear_value xv; rotate_left)
      | clear_value xv
      | (unfold xv; clear xv))
    | with_reducible refine keepsOut_next ?_
    | with_reducible exact keepsOut_fault _
    | with_reducible exact keepsOut_refused _
    | with_reducible apply setVddOp_keeps
    | split)

theorem setOwnerCap_keeps {s0 : State} (s : State) (w : Nat) (immediate : Bool) (hk : Keeps s0 s) :
    Keeps s0 (setOwnerCap s w immediate) := by
  unfold setOwnerCap
  repeat' (first
    | with_reducible assumption
    | (extract_lets +onlyGivenNames xv; first
      | (refine keeps_cut (P := Keeps s0 xv) ?_ (fun _ => ?_); unfold xv; clear xv; rotate_left; clear_value xv; rotate_left)
      | clear_value xv)
    | with_reducible apply capChange_keeps
    | with_reducible apply capNow_keeps
    | split
    | (simp -zeta only [↓keeps_mk]; with_reducible refine keeps_upd ?_))

theorem execSetCap_keeps {s0 : State} (m : Mbox) (p : List Byte) (s : State) (hk : Keeps s0 s) :
    KeepsOut s0 (execSetCap m p s) := by
  unfold execSetCap
  refine bruah_keeps _ _ _ _ _ _ hk (fun t u hu => ?_)
  extract_lets
  split
  · exact keepsP_mk hu
  · exact keepsP_mk (setOwnerCap_keeps u _ _ hu)

theorem execPwrCfgWrite_keeps {s0 : State} (val : Reg64) (s : State) (hk : Keeps s0 s) :
    KeepsOut s0 (execPwrCfgWrite val s) := by
  unfold execPwrCfgWrite
  repeat' (first
    | with_reducible assumption
    | (extract_lets +onlyGivenNames xv; first
      | (refine keeps_cut (P := Keeps s0 xv) ?_ (fun _ => ?_); unfold xv; clear xv; rotate_left; clear_value xv; rotate_left)
      | clear_value xv
      | (unfold xv; clear xv))
    | with_reducible refine keepsOut_next ?_
    | with_reducible exact keepsOut_fault _
    | with_reducible exact keepsOut_refused _
    | with_reducible apply regSet_keeps
    | with_reducible apply dropTrim_keeps
    | with_reducible apply capChange_keeps
    | split)

theorem logPower_keeps {s0 : State} (s : State) (cls unit code : Nat) (hk : Keeps s0 s) :
    Keeps s0 (logPower s cls unit code) := by
  unfold logPower
  repeat' (first
    | with_reducible assumption
    | with_reducible apply logAt_keeps)

theorem sampleRail_keeps {s0 : State} (xs : List RailSample) (s : State) (r : Rail) (hk : Keeps s0 s) :
    Keeps s0 (sampleRail xs s r) := by
  unfold sampleRail
  repeat' (first
    | with_reducible assumption
    | (extract_lets +onlyGivenNames xv; clear_value xv)
    | with_reducible apply regBump_keeps
    | split
    | (simp -zeta only [↓keeps_mk]; with_reducible refine keeps_upd ?_))

theorem execTelemetrySample_keeps {s0 : State} (xs : List RailSample) (s : State) (hk : Keeps s0 s) :
    KeepsOut s0 (execTelemetrySample xs s) := by
  unfold execTelemetrySample
  repeat' (first
    | with_reducible assumption
    | (extract_lets +onlyGivenNames xv; first
      | (refine keeps_cut (P := Keeps s0 xv) ?_ (fun _ => ?_); unfold xv; clear xv; rotate_left; clear_value xv; rotate_left)
      | clear_value xv)
    | with_reducible refine keepsOut_next ?_
    | with_reducible apply logPower_keeps
    | with_reducible apply regFlag_keeps
    | with_reducible apply regPut_keeps
    | with_reducible apply sampleRail_keeps
    | with_reducible refine keeps_foldl _ ?_ (fun _ _ _ => ?_)
    | split
    | (simp -zeta only [↓keeps_mk]; with_reducible refine keeps_upd ?_))

theorem execCapLoop_keeps {s0 : State} (withheld : Nat) (s : State) (hk : Keeps s0 s) :
    KeepsOut s0 (execCapLoop withheld s) := by
  unfold execCapLoop
  repeat' (first
    | with_reducible assumption
    | (extract_lets +onlyGivenNames xv; first
      | (refine keeps_cut (P := Keeps s0 xv) ?_ (fun _ => ?_); unfold xv; clear xv; rotate_left; clear_value xv; rotate_left)
      | clear_value xv)
    | with_reducible refine keepsOut_next ?_
    | with_reducible apply logPower_keeps
    | with_reducible apply regBump_keeps
    | with_reducible apply regFlag_keeps
    | split
    | (simp -zeta only [↓keeps_mk]; with_reducible refine keeps_upd ?_))

theorem execCurrentLimit_keeps {s0 : State} (s : State) (hk : Keeps s0 s) :
    KeepsOut s0 (execCurrentLimit s) := by
  unfold execCurrentLimit
  repeat' (first
    | with_reducible assumption
    | (extract_lets +onlyGivenNames xv; first
      | (refine keeps_cut (P := Keeps s0 xv) ?_ (fun _ => ?_); unfold xv; clear xv; rotate_left; clear_value xv; rotate_left)
      | clear_value xv)
    | with_reducible refine keepsOut_next ?_
    | with_reducible apply logPower_keeps
    | with_reducible apply regBump_keeps
    | split
    | (simp -zeta only [↓keeps_mk]; with_reducible refine keeps_upd ?_))

theorem execCurrentLimitRise_keeps {s0 : State} (s : State) (hk : Keeps s0 s) :
    KeepsOut s0 (execCurrentLimitRise s) := by
  unfold execCurrentLimitRise
  repeat' (first
    | with_reducible assumption
    | (extract_lets +onlyGivenNames xv; clear_value xv)
    | with_reducible refine keepsOut_next ?_
    | split
    | (simp -zeta only [↓keeps_mk]; with_reducible refine keeps_upd ?_))

theorem disturbTests_keeps {s0 : State} (s : State) (hk : Keeps s0 s) :
    Keeps s0 (disturbTests s) := by
  unfold disturbTests
  repeat' (first
    | with_reducible assumption
    | with_reducible intro _
    | (extract_lets +onlyGivenNames xv; first
      | (refine keeps_cut (P := Keeps s0 xv) ?_ (fun _ => ?_); unfold xv; clear xv; rotate_left; clear_value xv; rotate_left)
      | clear_value xv
      | (unfold xv; clear xv))
    | with_reducible apply forArrays_keeps
    | with_reducible apply setArr_keeps
    | split)

theorem execDroopDetect_keeps {s0 : State} (s : State) (hk : Keeps s0 s) :
    KeepsOut s0 (execDroopDetect s) := by
  unfold execDroopDetect
  repeat' (first
    | with_reducible assumption
    | (extract_lets +onlyGivenNames xv; first
      | (refine keeps_cut (P := Keeps s0 xv) ?_ (fun _ => ?_); unfold xv; clear xv; rotate_left; clear_value xv; rotate_left)
      | (refine keeps_cut (P := KeepsOpt s0 xv) ?_ (fun _ => ?_); unfold xv; clear xv; rotate_left; clear_value xv; rotate_left)
      | clear_value xv
      | (unfold xv; clear xv))
    | with_reducible refine keepsOut_next ?_
    | with_reducible exact keepsOut_fault _
    | with_reducible exact keepsOut_refused _
    | with_reducible apply disturbTests_keeps
    | with_reducible apply regFlag_keeps
    | split
    | (simp -zeta only [↓keeps_mk]; with_reducible refine keeps_upd ?_))

theorem execDroopEnd_keeps {s0 : State} (extra : Nat) (s : State) (hk : Keeps s0 s) :
    KeepsOut s0 (execDroopEnd extra s) := by
  unfold execDroopEnd
  repeat' (first
    | with_reducible assumption
    | (extract_lets +onlyGivenNames xv; clear_value xv)
    | with_reducible refine keepsOut_next ?_
    | with_reducible apply regBump_keeps
    | with_reducible apply regPut_keeps
    | split
    | (simp -zeta only [↓keeps_mk]; with_reducible refine keeps_upd ?_))

theorem execBrownoutWarn_keeps {s0 : State} (s : State) (hk : Keeps s0 s) :
    KeepsOut s0 (execBrownoutWarn s) := by
  unfold execBrownoutWarn
  repeat' (first
    | with_reducible assumption
    | (extract_lets +onlyGivenNames xv; first
      | (refine keeps_cut (P := Keeps s0 xv) ?_ (fun _ => ?_); unfold xv; clear xv; rotate_left; clear_value xv; rotate_left)
      | clear_value xv
      | (unfold xv; clear xv))
    | with_reducible refine keepsOut_next ?_
    | with_reducible exact keepsOut_fault _
    | with_reducible exact keepsOut_refused _
    | with_reducible apply disturbTests_keeps
    | with_reducible apply logPower_keeps
    | with_reducible apply regBump_keeps
    | with_reducible apply regFlag_keeps
    | split
    | (simp -zeta only [↓keeps_mk]; with_reducible refine keeps_upd ?_))

theorem clearBrownout_keeps {s0 : State} (s : State) (hk : Keeps s0 s) :
    Keeps s0 (clearBrownout s) := by
  unfold clearBrownout
  repeat' (first
    | with_reducible assumption
    | (extract_lets +onlyGivenNames xv; clear_value xv)
    | with_reducible apply regPut_keeps
    | (simp -zeta only [↓keeps_mk]; with_reducible refine keeps_upd ?_))

theorem execBrownoutClear_keeps {s0 : State} (s : State) (hk : Keeps s0 s) :
    KeepsOut s0 (execBrownoutClear s) := by
  unfold execBrownoutClear
  repeat' (first
    | with_reducible assumption
    | with_reducible refine keepsOut_next ?_
    | with_reducible apply clearBrownout_keeps
    | split)

theorem execAvsTrim_keeps {s0 : State} (lower : Bool) (s : State) (hk : Keeps s0 s) :
    KeepsOut s0 (execAvsTrim lower s) := by
  unfold execAvsTrim
  repeat' (first
    | with_reducible assumption
    | (extract_lets +onlyGivenNames xv; first
      | (refine keeps_cut (P := Keeps s0 xv) ?_ (fun _ => ?_); unfold xv; clear xv; rotate_left; clear_value xv; rotate_left)
      | (refine keeps_cut (P := KeepsOpt s0 xv) ?_ (fun _ => ?_); unfold xv; clear xv; rotate_left; clear_value xv; rotate_left)
      | clear_value xv
      | (unfold xv; clear xv))
    | with_reducible refine keepsOut_next ?_
    | with_reducible exact keepsOut_fault _
    | with_reducible exact keepsOut_refused _
    | with_reducible apply setVddOp_keeps
    | split
    | (simp -zeta only [↓keeps_mk]; with_reducible refine keeps_upd ?_))

theorem failActivate_keeps {s0 : State} (s : State) (hk : Keeps s0 s) :
    Keeps s0 (failActivate s) := by
  unfold failActivate
  repeat' (first
    | with_reducible assumption
    | (extract_lets +onlyGivenNames xv; first
      | (refine keeps_cut (P := Keeps s0 xv) ?_ (fun _ => ?_); unfold xv; clear xv; rotate_left; clear_value xv; rotate_left)
      | clear_value xv
      | (unfold xv; clear xv))
    | with_reducible apply sendMsix_keeps
    | with_reducible apply setMbox_keeps
    | split
    | (simp -zeta only [↓keeps_mk]; with_reducible refine keeps_upd ?_))

theorem stopBist_keeps {s0 : State} (s : State) (hk : Keeps s0 s) :
    Keeps s0 (stopBist s) := by
  unfold stopBist
  repeat' (first
    | with_reducible assumption
    | (extract_lets +onlyGivenNames xv; first
      | (refine keeps_cut (P := Keeps s0 xv) ?_ (fun _ => ?_); unfold xv; clear xv; rotate_left; clear_value xv; rotate_left)
      | clear_value xv)
    | with_reducible apply failActivate_keeps
    | with_reducible apply regSet_keeps
    | split
    | (simp -zeta only [↓keeps_mk]; with_reducible refine keeps_upd ?_))

theorem stopDevice_keeps {s0 : State} (s : State) (c : StopCause) (hk : Keeps s0 s) :
    Keeps s0 (stopDevice s c) := by
  unfold stopDevice
  repeat' (first
    | with_reducible assumption
    | (extract_lets +onlyGivenNames xv; first
      | (refine keeps_cut (P := Keeps s0 xv) ?_ (fun _ => ?_); unfold xv; clear xv; rotate_left; clear_value xv; rotate_left)
      | clear_value xv)
    | with_reducible apply byeAll_keeps
    | with_reducible apply logPower_keeps
    | with_reducible apply raiseIbi_keeps
    | with_reducible apply regFlag_keeps
    | with_reducible apply regPut_keeps
    | with_reducible apply setVdd_keeps
    | with_reducible apply stopAll_keeps
    | with_reducible apply stopBist_keeps
    | with_reducible apply stopPort_keeps
    | with_reducible refine keeps_foldl _ ?_ (fun _ _ _ => ?_)
    | split
    | (simp -zeta only [↓keeps_mk]; with_reducible refine keeps_upd ?_))

theorem execSupplyReset_keeps {s0 : State} (s : State) (hk : Keeps s0 s) :
    KeepsOut s0 (execSupplyReset s) := by
  unfold execSupplyReset
  repeat' (first
    | with_reducible assumption
    | with_reducible refine keepsOut_next ?_
    | with_reducible apply clearBrownout_keeps
    | with_reducible apply stopDevice_keeps
    | split)

theorem execFlowFail_keeps {s0 : State} (low : Bool) (s : State) (hk : Keeps s0 s) :
    KeepsOut s0 (execFlowFail low s) := by
  unfold execFlowFail
  repeat' (first
    | with_reducible assumption
    | (extract_lets +onlyGivenNames xv; first
      | (refine keeps_cut (P := Keeps s0 xv) ?_ (fun _ => ?_); unfold xv; clear xv; rotate_left; clear_value xv; rotate_left)
      | clear_value xv)
    | with_reducible refine keepsOut_next ?_
    | with_reducible apply regFlag_keeps
    | with_reducible apply stopDevice_keeps
    | split
    | (simp -zeta only [↓keeps_mk]; with_reducible refine keeps_upd ?_))

theorem leaveStop_keeps {s0 : State} (s : State) (hk : Keeps s0 s) :
    Keeps s0 (leaveStop s) := by
  unfold leaveStop
  repeat' (first
    | with_reducible assumption
    | with_reducible intro _
    | (extract_lets +onlyGivenNames xv; first
      | (refine keeps_cut (P := Keeps s0 xv) ?_ (fun _ => ?_); unfold xv; clear xv; rotate_left; clear_value xv; rotate_left)
      | clear_value xv
      | (unfold xv; clear xv))
    | with_reducible apply regPut_keeps
    | with_reducible apply setVddOp_keeps
    | with_reducible apply startTraining_keeps
    | with_reducible refine keeps_foldl _ ?_ (fun _ _ _ => ?_)
    | with_reducible refine keeps_foldlP _ ?_ (fun _ _ _ => ?_)
    | split
    | (simp -zeta only [↓keeps_mk]; with_reducible refine keeps_upd ?_))

theorem execRestart_keeps {s0 : State} (m : Mbox) (p : List Byte) (s : State) (hk : Keeps s0 s) :
    KeepsOut s0 (execRestart m p s) := by
  unfold execRestart
  refine bruah_keeps _ _ _ _ _ _ hk (fun t u hu => ?_)
  split
  · exact keepsP_mk hu
  · split
    · exact keepsP_mk hu
    · exact keepsP_mk (leaveStop_keeps u hu)

theorem thermalArray_keeps {s0 : State} (s : State) (a : ArrId) (hk : Keeps s0 s) :
    Keeps s0 (thermalArray s a) := by
  unfold thermalArray
  repeat' (first
    | with_reducible assumption
    | (extract_lets +onlyGivenNames xv; first
      | (refine keeps_cut (P := Keeps s0 xv) ?_ (fun _ => ?_); unfold xv; clear xv; rotate_left; clear_value xv; rotate_left)
      | clear_value xv)
    | with_reducible apply logPower_keeps
    | with_reducible apply setArr_keeps
    | split)

theorem showThrottle_keeps {s0 : State} (s : State) (hk : Keeps s0 s) :
    Keeps s0 (showThrottle s) := by
  unfold showThrottle
  repeat' (first
    | with_reducible assumption
    | with_reducible apply regPut_keeps)

theorem thermalOp5_keeps {s0 : State} (s : State) (hot : Bool) (hk : Keeps s0 s) :
    Keeps s0 (thermalOp5 s hot) := by
  unfold thermalOp5
  repeat' (first
    | with_reducible assumption
    | with_reducible intro _
    | (extract_lets +onlyGivenNames xv; first
      | (refine keeps_cut (P := Keeps s0 xv) ?_ (fun _ => ?_); unfold xv; clear xv; rotate_left; clear_value xv; rotate_left)
      | clear_value xv
      | (unfold xv; clear xv))
    | with_reducible apply forArrays_keeps
    | with_reducible apply setArr_keeps
    | with_reducible apply logPower_keeps
    | with_reducible apply capThermal_keeps
    | split
    | (simp -zeta only [↓keeps_mk]; with_reducible refine keeps_upd ?_))

theorem noteThermal_keeps {s0 : State} (s : State) (hk : Keeps s0 s) :
    Keeps s0 (noteThermal s) := by
  unfold noteThermal
  repeat' (first
    | with_reducible assumption
    | with_reducible apply noteItem_keeps
    | with_reducible refine keeps_foldl _ ?_ (fun _ _ _ => ?_)
    | split)

theorem storeTemps_keeps {s0 : State} (s : State) (t : Temps) (hk : Keeps s0 s) :
    Keeps s0 (storeTemps s t) := by
  unfold storeTemps
  repeat' (first
    | with_reducible assumption
    | (extract_lets +onlyGivenNames xv; first
      | (refine keeps_cut (P := Keeps s0 xv) ?_ (fun _ => ?_); unfold xv; clear xv; rotate_left; clear_value xv; rotate_left)
      | clear_value xv)
    | with_reducible apply setArr_keeps
    | with_reducible refine keeps_foldl _ ?_ (fun _ _ _ => ?_)
    | (simp -zeta only [↓keeps_mk]; with_reducible refine keeps_upd ?_))

theorem execSensorRead_keeps {s0 : State} (t : Temps) (s : State) (hk : Keeps s0 s) :
    KeepsOut s0 (execSensorRead t s) := by
  unfold execSensorRead
  repeat' (first
    | with_reducible assumption
    | with_reducible intro _
    | (extract_lets +onlyGivenNames xv; first
      | (refine keeps_cut (P := Keeps s0 xv) ?_ (fun _ => ?_); unfold xv; clear xv; rotate_left; clear_value xv; rotate_left)
      | clear_value xv)
    | with_reducible refine keepsOut_next ?_
    | with_reducible apply forArrays_keeps
    | with_reducible apply noteThermal_keeps
    | with_reducible apply regBump_keeps
    | with_reducible apply regPut_keeps
    | with_reducible apply showThrottle_keeps
    | with_reducible apply stopDevice_keeps
    | with_reducible apply storeTemps_keeps
    | with_reducible apply thermalArray_keeps
    | with_reducible apply thermalOp5_keeps
    | split
    | (simp -zeta only [↓keeps_mk]; with_reducible refine keeps_upd ?_))

theorem chargeEntry_keeps {s0 : State} (s : State) (i uj : Nat) (hk : Keeps s0 s) :
    Keeps s0 (chargeEntry s i uj) := by
  unfold chargeEntry
  repeat' (first
    | with_reducible assumption
    | (extract_lets +onlyGivenNames xv; refine keeps_cut (P := Keeps s0 xv) ?_ (fun _ => ?_); unfold xv; clear xv; rotate_left; clear_value xv; rotate_left)
    | with_reducible apply regBump_keeps
    | with_reducible apply setEntry_keeps
    | split)

theorem chargeBearer_keeps {s0 : State} (s : State) (b : Bearer) (uj : Nat) (hk : Keeps s0 s) :
    KeepsP s0 (chargeBearer s b uj) := by
  unfold chargeBearer
  split
  · split
    · exact chargeEntry_keeps s _ _ hk
    · exact hk
  · refine keeps_foldlP _ hk (fun t x ht => ?_)
    extract_lets
    split
    · exact chargeEntry_keeps _ _ _ ht
    · exact ht
  · exact regBump_keeps _ _ _ hk
  · exact hk

theorem shareEnergy_keeps {s0 : State} (nj : Nat) (act : List (Bearer × Nat)) (x : State × Nat) (hk : KeepsP s0 x) :
    KeepsP s0 (shareEnergy nj act x) :=
  keeps_foldlP _ hk (fun _ _ ht => chargeBearer_keeps _ _ _ ht)

theorem execEnergyInterval_keeps {s0 : State} (act : Activity) (s : State) (hk : Keeps s0 s) :
    KeepsOut s0 (execEnergyInterval act s) := by
  unfold execEnergyInterval
  split
  · exact hk
  · extract_lets +onlyGivenNames u m
    have hu : Keeps s0 u := meterItems_keeps _ hk
    clear_value u
    have h : KeepsP s0 (({ u with power := { u.power with meter := {}, meterAt := rqtNow u } } : State), (0 : Nat)) :=
      keeps_same hu rfl rfl rfl rfl rfl rfl
    exact regBump_keeps _ _ _ (regBump_keeps _ _ _ (keeps_same (keepsP_fst (shareEnergy_keeps _ _ _
      (shareEnergy_keeps _ _ _ (shareEnergy_keeps _ _ _ h)))) rfl rfl rfl rfl rfl rfl))

end Sys2Proof.Machine
end

