-- ==== Sys2Proof/Laws/SecurityKeeps.lean ====
section
/-! SUPPORT. What the definitions of Machine/Security.lean keep (Laws/Keeps.lean). -/

namespace Sys2Proof.Machine

theorem zeroWindow_keeps {s0 : State} (s : State) (t : LdId) (hk : Keeps s0 s) :
    Keeps s0 (zeroWindow s t) := by
  unfold zeroWindow
  repeat' (first
    | with_reducible assumption
    | with_reducible intro _
    | with_reducible apply piecesWrote_keeps
    | with_reducible apply memClear_keeps
    | with_reducible refine keeps_foldl _ ?_ (fun _ _ _ => ?_))

theorem installKey_keeps {s0 : State} (s : State) (t : LdId) (gen : Nat) (material : List Byte) (hk : Keeps s0 s) :
    Keeps s0 (installKey s t gen material) := by
  unfold installKey
  repeat' (first
    | with_reducible assumption
    | with_reducible apply setMaterial_keeps
    | with_reducible apply zeroWindow_keeps)

theorem provision_keeps {s0 : State} (p : List Byte) (t : LdId) (s : State) (hk : Keeps s0 s) : KeepsP s0 (provision p t s) := by
  unfold provision
  have hd : ∀ v, Keeps s0 v → KeepsP s0 (regBump v (secReg 0x098) 1, (0 : Nat), toLE 4 (ten v t).keyGen) :=
    fun v h => keepsP_mk (regBump_keeps _ _ _ h)
  extract_lets gen mat x done
  split
  · split
    · exact keepsP_mk hk
    · exact hd _ (installKey_keeps _ _ _ _ hk)
  · split
    · exact hd _ hk
    · split
      · exact hd _ (installKey_keeps _ _ _ _ hk)
      · exact keepsP_mk hk

theorem execProvisionKey_keeps {s0 : State} (m : Mbox) (p : List Byte) (session : Option Nat) (s : State) (hk : Keeps s0 s) :
    KeepsOut s0 (execProvisionKey m p session s) := by
  unfold execProvisionKey
  extract_lets c bad
  split
  · exact bruahRun_keeps _ _ _ _ _ _ hk (fun _ _ h => provision_keeps _ _ _ h)
  · split
    · exact keepsOut_next (reply_keeps _ _ _ _ hk)
    · exact bruah_keeps _ _ _ _ _ _ hk (fun _ _ h => provision_keeps _ _ _ h)

theorem execDomainKeyLock_keeps {s0 : State} (s : State) (hk : Keeps s0 s) :
    KeepsOut s0 (execDomainKeyLock s) := by
  unfold execDomainKeyLock
  repeat' (first
    | with_reducible assumption
    | with_reducible refine keepsOut_next ?_
    | with_reducible apply regFlag_keeps
    | split)

theorem execCommit_keeps {s0 : State} (s : State) (hk : Keeps s0 s) :
    KeepsOut s0 (execCommit s) := by
  unfold execCommit
  repeat' (first
    | with_reducible assumption
    | (extract_lets +onlyGivenNames xv; first
      | (refine keeps_cut (P := Keeps s0 xv) ?_ (fun _ => ?_); unfold xv; clear xv; rotate_left; clear_value xv; rotate_left)
      | clear_value xv)
    | with_reducible refine keepsOut_next ?_
    | with_reducible apply regFlag_keeps
    | split
    | (simp -zeta only [↓keeps_mk]; with_reducible refine keeps_upd ?_))

theorem execCommitDone_keeps {s0 : State} (s : State) (hk : Keeps s0 s) : KeepsOut s0 (execCommitDone s) := by
  unfold execCommitDone
  split
  · exact hk
  · exact (keeps_mk ..).2 (keepsF_of (regFlag_keeps _ _ _ (regPut_keeps _ _ _ _ _ hk))
      ⟨rfl, Nat.le_max_left _ _, BitVec.and_self⟩ (fun h _ => h) id id id rfl)

theorem blowRevoke_keeps {s0 : State} (s : State) (hk : Keeps s0 s) : Keeps s0 (blowRevoke s) := by
  unfold blowRevoke
  split
  · refine (keeps_mk ..).2 (keepsF_of hk ⟨rfl, Nat.le_refl _, ?_⟩ (fun h _ => h) id id id rfl)
    ext i hi
    simp only [BitVec.getElem_and, BitVec.getElem_or]
    cases s.fuses.keyRevoke[i] <;> rfl
  · exact hk

theorem execRevoke_keeps {s0 : State} (mask : BitVec 4) (s : State) (hk : Keeps s0 s) :
    KeepsOut s0 (execRevoke mask s) := by
  unfold execRevoke
  repeat' (first
    | with_reducible assumption
    | (extract_lets +onlyGivenNames xv; first
      | (refine keeps_cut (P := Keeps s0 xv) ?_ (fun _ => ?_); unfold xv; clear xv; rotate_left; clear_value xv; rotate_left)
      | clear_value xv
      | (unfold xv; clear xv))
    | with_reducible refine keepsOut_next ?_
    | with_reducible exact keepsOut_fault _
    | with_reducible exact keepsOut_refused _
    | with_reducible apply blowRevoke_keeps
    | with_reducible apply regFlag_keeps
    | split
    | (simp -zeta only [↓keeps_mk]; with_reducible refine keeps_upd ?_))

theorem execFenceReq_keeps {s0 : State} (s : State) (hk : Keeps s0 s) :
    KeepsOut s0 (execFenceReq s) := by
  unfold execFenceReq
  repeat' (first
    | with_reducible assumption
    | (extract_lets +onlyGivenNames xv; first
      | (refine keeps_cut (P := Keeps s0 xv) ?_ (fun _ => ?_); unfold xv; clear xv; rotate_left; clear_value xv; rotate_left)
      | clear_value xv)
    | with_reducible refine keepsOut_next ?_
    | with_reducible apply regPut_keeps
    | split
    | (simp -zeta only [↓keeps_mk]; with_reducible refine keeps_upd ?_))

theorem execFenceDone_keeps {s0 : State} (s : State) (hk : Keeps s0 s) :
    KeepsOut s0 (execFenceDone s) := by
  unfold execFenceDone
  repeat' (first
    | with_reducible assumption
    | (extract_lets +onlyGivenNames xv; first
      | (refine keeps_cut (P := Keeps s0 xv) ?_ (fun _ => ?_); unfold xv; clear xv; rotate_left; clear_value xv; rotate_left)
      | clear_value xv)
    | with_reducible refine keepsOut_next ?_
    | with_reducible apply regFlag_keeps
    | split
    | (simp -zeta only [↓keeps_mk]; with_reducible refine keeps_upd ?_))

theorem spdmSend_keeps {s0 : State} (s : State) (port : SpdmPort) (code : Nat) (body : List Byte) (hk : Keeps s0 s) :
    Keeps s0 (spdmSend s port code body) := by
  unfold spdmSend
  repeat' (first
    | with_reducible assumption
    | with_reducible apply send_keeps)

theorem spdmError_keeps {s0 : State} (s : State) (port : SpdmPort) (e : Nat) (hk : Keeps s0 s) :
    Keeps s0 (spdmError s port e) := by
  unfold spdmError
  repeat' (first
    | with_reducible assumption
    | with_reducible apply spdmSend_keeps)

theorem spdmSigned_keeps {s0 : State} (s : State) (port : SpdmPort) (code : Nat) (body : List Byte) (hk : Keeps s0 s) :
    Keeps s0 (spdmSigned s port code body) := by
  unfold spdmSigned
  repeat' (first
    | with_reducible assumption
    | with_reducible apply spdmSend_keeps
    | with_reducible apply tickFree_keeps)

theorem execSpdmRequest_keeps {s0 : State} (port : SpdmPort) (req : SpdmReq) (s : State) (hk : Keeps s0 s) :
    KeepsOut s0 (execSpdmRequest port req s) := by
  unfold execSpdmRequest
  repeat' (first
    | with_reducible assumption
    | (extract_lets +onlyGivenNames xv; clear_value xv)
    | with_reducible refine keepsOut_next ?_
    | with_reducible apply spdmError_keeps
    | with_reducible apply spdmSend_keeps
    | with_reducible apply spdmSigned_keeps
    | with_reducible apply tickFree_keeps
    | split
    | (simp -zeta only [↓keeps_mk]; with_reducible refine keeps_upd ?_))

theorem execEntdaa_keeps {s0 : State} (addr : BitVec 7) (s : State) (hk : Keeps s0 s) :
    KeepsOut s0 (execEntdaa addr s) := by
  unfold execEntdaa
  repeat' (first
    | with_reducible assumption
    | (extract_lets +onlyGivenNames xv; clear_value xv)
    | with_reducible refine keepsOut_next ?_
    | with_reducible apply send_keeps
    | split
    | (simp -zeta only [↓keeps_mk]; with_reducible refine keeps_upd ?_))

theorem execMctpControl_keeps {s0 : State} (cmd : BitVec 8) (s : State) (hk : Keeps s0 s) :
    KeepsOut s0 (execMctpControl cmd s) := by
  unfold execMctpControl
  repeat' (first
    | with_reducible assumption
    | with_reducible refine keepsOut_next ?_
    | with_reducible apply send_keeps
    | split)

theorem execPldmRequest_keeps {s0 : State} (sensor : PldmSensor) (s : State) (hk : Keeps s0 s) :
    KeepsOut s0 (execPldmRequest sensor s) := by
  unfold execPldmRequest
  repeat' (first
    | with_reducible assumption
    | with_reducible refine keepsOut_next ?_
    | with_reducible apply send_keeps
    | split)

theorem execInBandInterrupt_keeps {s0 : State} (cause : IbiCause) (s : State) (hk : Keeps s0 s) :
    KeepsOut s0 (execInBandInterrupt cause s) := by
  unfold execInBandInterrupt
  repeat' (first
    | with_reducible assumption
    | (extract_lets +onlyGivenNames xv; clear_value xv)
    | with_reducible refine keepsOut_next ?_
    | with_reducible apply send_keeps
    | split
    | (simp -zeta only [↓keeps_mk]; with_reducible refine keeps_upd ?_))

theorem tapLoad_keeps {s0 : State} (s : State) (instr : BitVec 8) (data : List Byte) (hk : Keeps s0 s) :
    Keeps s0 (tapLoad s instr data) := by
  unfold tapLoad
  repeat' (first
    | with_reducible assumption
    | (extract_lets +onlyGivenNames xv; clear_value xv)
    | (simp -zeta only [↓keeps_mk]; with_reducible refine keeps_upd ?_))

theorem tapIf_keeps {s0 : State} (s : State) (ok : Bool) (instr : BitVec 8) (hk : Keeps s0 s) :
    KeepsOut s0 (tapIf s ok instr) := by
  unfold tapIf
  repeat' (first
    | with_reducible assumption
    | with_reducible refine keepsOut_next ?_
    | with_reducible apply tapLoad_keeps)

theorem execBypass_keeps {s0 : State} (s : State) (hk : Keeps s0 s) :
    KeepsOut s0 (execBypass s) := by
  unfold execBypass
  repeat' (first
    | with_reducible assumption
    | with_reducible apply tapIf_keeps)

theorem execIdcode_keeps {s0 : State} (s : State) (hk : Keeps s0 s) :
    KeepsOut s0 (execIdcode s) := by
  unfold execIdcode
  repeat' (first
    | with_reducible assumption
    | with_reducible refine keepsOut_next ?_
    | with_reducible apply send_keeps
    | with_reducible apply tapLoad_keeps)

theorem execSamplePreload_keeps {s0 : State} (s : State) (hk : Keeps s0 s) :
    KeepsOut s0 (execSamplePreload s) := by
  unfold execSamplePreload
  repeat' (first
    | with_reducible assumption
    | with_reducible apply tapIf_keeps)

theorem execExtest_keeps {s0 : State} (s : State) (hk : Keeps s0 s) :
    KeepsOut s0 (execExtest s) := by
  unfold execExtest
  repeat' (first
    | with_reducible assumption
    | with_reducible apply tapIf_keeps)

theorem execClamp_keeps {s0 : State} (s : State) (hk : Keeps s0 s) :
    KeepsOut s0 (execClamp s) := by
  unfold execClamp
  repeat' (first
    | with_reducible assumption
    | with_reducible apply tapIf_keeps)

theorem execHighz_keeps {s0 : State} (s : State) (hk : Keeps s0 s) :
    KeepsOut s0 (execHighz s) := by
  unfold execHighz
  repeat' (first
    | with_reducible assumption
    | with_reducible apply tapIf_keeps)

theorem execIkbChal_keeps {s0 : State} (s : State) (hk : Keeps s0 s) :
    KeepsOut s0 (execIkbChal s) := by
  unfold execIkbChal
  repeat' (first
    | with_reducible assumption
    | (extract_lets +onlyGivenNames xv; clear_value xv)
    | with_reducible refine keepsOut_next ?_
    | with_reducible apply send_keeps
    | with_reducible apply tapLoad_keeps)

theorem execDapAccess_keeps {s0 : State} (s : State) (hk : Keeps s0 s) :
    KeepsOut s0 (execDapAccess s) := by
  unfold execDapAccess
  repeat' (first
    | with_reducible assumption
    | with_reducible apply tapIf_keeps)

theorem newChallenge_keeps {s0 : State} (s : State) (hk : Keeps s0 s) :
    Keeps s0 (newChallenge s) := by
  unfold newChallenge
  repeat' (first
    | with_reducible assumption
    | (extract_lets +onlyGivenNames xv; clear_value xv)
    | with_reducible apply tickFree_keeps
    | (simp -zeta only [↓keeps_mk]; with_reducible refine keeps_upd ?_))

theorem wipe_keeps {s0 : State} (s : State) (hk : Keeps s0 s) : Keeps s0 (wipe s) := by
  unfold wipe
  extract_lets s1 s2
  have h1 : Keeps s0 s1 := keeps_foldl _ hk (fun t w ht => cutItem_keeps _ _ (setItem_keeps _ _ (regBump_keeps _ _ _ ht)))
  have h2 : Keeps s0 s2 := forLds_keeps _ _ h1 (fun t x ht => setTen_keeps _ _ _ ht)
  exact (keeps_mk ..).2 (keepsF_of h2 (FusesGrow.refl _) (fun h _ => h) id id (fun _ => rfl) rfl)

theorem execIkbUnlock_keeps {s0 : State} (bits : Nat) (signed rest : List Byte) (s : State) (hk : Keeps s0 s) :
    KeepsOut s0 (execIkbUnlock bits signed rest s) := by
  unfold execIkbUnlock
  repeat' (first
    | with_reducible assumption
    | (extract_lets +onlyGivenNames xv; first
      | (refine keeps_cut (P := Keeps s0 xv) ?_ (fun _ => ?_); unfold xv; clear xv; rotate_left; clear_value xv; rotate_left)
      | (refine keeps_cut (P := KeepsOut s0 xv) ?_ (fun _ => ?_); unfold xv; clear xv; rotate_left; clear_value xv; rotate_left)
      | clear_value xv
      | (unfold xv; clear xv))
    | with_reducible refine keepsOut_next ?_
    | with_reducible exact keepsOut_fault _
    | with_reducible exact keepsOut_refused _
    | with_reducible apply tapIf_keeps
    | with_reducible apply tapLoad_keeps
    | with_reducible apply haltDevice_keeps
    | with_reducible apply newChallenge_keeps
    | with_reducible apply wipe_keeps
    | with_reducible apply regBump_keeps
    | split
    | (simp -zeta only [↓keeps_mk]; with_reducible refine keeps_upd ?_))

end Sys2Proof.Machine
end

