-- ==== Sys2Proof/Laws/BringupKeeps.lean ====
section
/-! SUPPORT. What the definitions of Machine/Bringup.lean keep (Laws/Keeps.lean). -/

namespace Sys2Proof.Machine

theorem regsWf_geo (f : Fuses) (h : f.arrays ≠ 0) : regsWf (geoReset f) = true := by
  refine (regsWf_iff _).2 ⟨by simp [geoReset, List.range, List.range.loop, keysRise], ?_⟩
  intro p hp
  have h0 : ∀ q ∈ (geoReset f).map (·.1), reg (regReset q) = 0 := by
    have e : (geoReset f).map (·.1) = (geoReset { f with arrays := 1 }).map (·.1) := by
      simp [geoReset, List.map_append, List.map_map, Function.comp_def]
    rw [e]
    simp only [geoReset, List.range, List.range.loop]
    decide +kernel
  rw [h0 p.1 (List.mem_map_of_mem hp)]
  simp only [geoReset, List.mem_append, List.mem_singleton, List.mem_map] at hp
  rcases hp with (rfl | ⟨j, -, rfl⟩) | rfl
  · exact h
  · show (0xFFFFFFFFFFFFFFFF : Reg64) ≠ 0
    decide
  · show (0xFFFFFFFFFFFFFFFF : Reg64) ≠ 0
    decide

theorem ofFuses_inv (f : Fuses) (h : f.arrays ≠ 0) : Inv (State.ofFuses f) :=
  ⟨rfl, regsWf_geo f h, rfl, rfl, h⟩

theorem deviceReset_keeps {s0 : State} (s : State) (hk : Keeps s0 s) : Keeps s0 (deviceReset s) := by
  unfold deviceReset
  extract_lets s1 s2
  have h2 : Keeps s0 s2 := (keeps_mk ..).2 (keepsF_of hk (FusesGrow.refl _)
    (fun _ h => (ofFuses_inv s.fuses h).regs) (fun _ => rfl) (fun _ => rfl) (fun _ => rfl) rfl)
  split
  · exact regFlag_keeps _ _ _ h2
  · exact h2

theorem cutCommit_keeps {s0 : State} (s : State) (hk : Keeps s0 s) : Keeps s0 (cutCommit s) := by
  unfold cutCommit
  split
  · refine tickFree_keeps _ ((keeps_mk ..).2 (keepsF_of hk ⟨rfl, Nat.le_add_right _ _, BitVec.and_self⟩ (fun h _ => h) id id id rfl))
  · exact hk

theorem execPwrgoodRise_keeps {s0 : State} (boot : BootPath) (s : State) (hk : Keeps s0 s) :
    KeepsOut s0 (execPwrgoodRise boot s) := by
  unfold execPwrgoodRise
  repeat' (first
    | with_reducible assumption
    | (extract_lets +onlyGivenNames xv; clear_value xv)
    | with_reducible refine keepsOut_next ?_
    | split
    | (simp -zeta only [↓keeps_mk]; with_reducible refine keeps_upd ?_))

theorem execPwrgoodFall_keeps {s0 : State} (s : State) (hk : Keeps s0 s) :
    KeepsOut s0 (execPwrgoodFall s) := by
  unfold execPwrgoodFall
  repeat' (first
    | with_reducible assumption
    | (extract_lets +onlyGivenNames xv; first
      | (refine keeps_cut (P := Keeps s0 xv) ?_ (fun _ => ?_); unfold xv; clear xv; rotate_left; clear_value xv; rotate_left)
      | clear_value xv)
    | with_reducible refine keepsOut_next ?_
    | with_reducible apply cutCommit_keeps
    | with_reducible apply deviceReset_keeps
    | split
    | (simp -zeta only [↓keeps_mk]; with_reducible refine keeps_upd ?_))

theorem execPerstAssert_keeps {s0 : State} (s : State) (hk : Keeps s0 s) :
    KeepsOut s0 (execPerstAssert s) := by
  unfold execPerstAssert
  repeat' (first
    | with_reducible assumption
    | (extract_lets +onlyGivenNames xv; first
      | (refine keeps_cut (P := Keeps s0 xv) ?_ (fun _ => ?_); unfold xv; clear xv; rotate_left; clear_value xv; rotate_left)
      | clear_value xv)
    | with_reducible refine keepsOut_next ?_
    | with_reducible apply byeAll_keeps
    | with_reducible apply cutCommit_keeps
    | with_reducible apply deviceReset_keeps
    | split
    | (simp -zeta only [↓keeps_mk]; with_reducible refine keeps_upd ?_))

theorem execPerstDeassert_keeps {s0 : State} (mldEn : Bool) (rsvStrap : BitVec 2) (partner : LinkPartner) (boot : BootPath) (s : State) (hk : Keeps s0 s) :
    KeepsOut s0 (execPerstDeassert mldEn rsvStrap partner boot s) := by
  unfold execPerstDeassert
  repeat' (first
    | with_reducible assumption
    | (extract_lets +onlyGivenNames xv; first
      | (refine keeps_cut (P := Keeps s0 xv) ?_ (fun _ => ?_); unfold xv; clear xv; rotate_left; clear_value xv; rotate_left)
      | (refine keeps_cut (P := KeepsOpt s0 xv) ?_ (fun _ => ?_); unfold xv; clear xv; rotate_left; clear_value xv; rotate_left)
      | clear_value xv
      | (unfold xv; clear xv))
    | with_reducible refine keepsOut_next ?_
    | with_reducible exact keepsOut_fault _
    | with_reducible exact keepsOut_refused _
    | with_reducible apply regSet_keeps
    | with_reducible apply regFlag_keeps
    | split
    | (simp -zeta only [↓keeps_mk]; with_reducible refine keeps_upd ?_))

theorem deriveLayer0_keeps {s0 : State} (s : State) (hk : Keeps s0 s) :
    Keeps s0 (deriveLayer0 s) := by
  unfold deriveLayer0
  repeat' (first
    | with_reducible assumption
    | (extract_lets +onlyGivenNames xv; first
      | (refine keeps_cut (P := Keeps s0 xv) ?_ (fun _ => ?_); unfold xv; clear xv; rotate_left; clear_value xv; rotate_left)
      | (refine keeps_cut (P := KeepsOpt s0 xv) ?_ (fun _ => ?_); unfold xv; clear xv; rotate_left; clear_value xv; rotate_left)
      | clear_value xv
      | (unfold xv; clear xv))
    | split
    | (simp -zeta only [↓keeps_mk]; with_reducible refine keeps_upd ?_))

theorem execBootRomStart_keeps {s0 : State} (s : State) (hk : Keeps s0 s) :
    KeepsOut s0 (execBootRomStart s) := by
  unfold execBootRomStart
  repeat' (first
    | with_reducible assumption
    | with_reducible intro _
    | (extract_lets +onlyGivenNames xv; first
      | (refine keeps_cut (P := Keeps s0 xv) ?_ (fun _ => ?_); unfold xv; clear xv; rotate_left; clear_value xv; rotate_left)
      | (refine keeps_cut (P := KeepsOpt s0 xv) ?_ (fun _ => ?_); unfold xv; clear xv; rotate_left; clear_value xv; rotate_left)
      | clear_value xv
      | (unfold xv; clear xv))
    | with_reducible refine keepsOut_next ?_
    | with_reducible exact keepsOut_fault _
    | with_reducible exact keepsOut_refused _
    | with_reducible apply regPut_keeps
    | with_reducible apply deriveLayer0_keeps
    | with_reducible apply tickFree_keeps
    | with_reducible apply setHbmKey_keeps
    | with_reducible apply newChallenge_keeps
    | with_reducible apply regSet_keeps
    | with_reducible apply regBump_keeps
    | split
    | (simp -zeta only [↓keeps_mk]; with_reducible refine keeps_upd ?_))

theorem execGetFwInfo_keeps {s0 : State} (m : Mbox) (s : State) (hk : Keeps s0 s) :
    KeepsOut s0 (execGetFwInfo m s) := by
  unfold execGetFwInfo
  repeat' (first
    | with_reducible assumption
    | (extract_lets +onlyGivenNames xv; clear_value xv)
    | with_reducible refine keepsOut_next ?_
    | with_reducible apply reply_keeps
    | split)

theorem endTransfer_keeps {s0 : State} (s : State) (b : List Byte) (hk : Keeps s0 s) :
    KeepsP s0 (endTransfer s b) := by
  unfold endTransfer
  repeat' (first
    | with_reducible assumption
    | (extract_lets +onlyGivenNames xv; first
      | (refine keeps_cut (P := Keeps s0 xv) ?_ (fun _ => ?_); unfold xv; clear xv; rotate_left; clear_value xv; rotate_left)
      | (refine keeps_cut (P := KeepsOpt s0 xv) ?_ (fun _ => ?_); unfold xv; clear xv; rotate_left; clear_value xv; rotate_left)
      | clear_value xv
      | (unfold xv; clear xv))
    | with_reducible refine keepsP_mk ?_
    | with_reducible apply regBump_keeps
    | with_reducible apply regPut_keeps
    | split
    | with_reducible refine keepsP_fst ?_
    | with_reducible refine keeps_of_pair (by assumption) ?_
    | (simp -zeta only [↓keeps_mk]; with_reducible refine keeps_upd ?_))

theorem execTransferFw_keeps {s0 : State} (m : Mbox) (action offset : Nat) (data : List Byte) (slot : Nat) (s : State)
    (hk : Keeps s0 s) : KeepsOut s0 (execTransferFw m action offset data slot s) := by
  unfold execTransferFw
  extract_lets f inOrder
  repeat' (refine keepsOut_ite (fun _ => ?_) (fun _ => ?_))
  all_goals refine keepsOut_next ?_
  all_goals first
    | exact hk
    | exact reply_keeps _ _ _ _ hk
    | exact reply_keeps _ _ _ _ (keepsP_fst (endTransfer_keeps _ _ hk))
    | exact reply_keeps _ _ _ _ (keeps_same hk rfl rfl rfl rfl rfl rfl)

theorem deriveLayer1_keeps {s0 : State} (s : State) (fwid : List Byte) (svn : Nat) (hk : Keeps s0 s) :
    Keeps s0 (deriveLayer1 s fwid svn) := by
  unfold deriveLayer1
  repeat' (first
    | with_reducible assumption
    | (extract_lets +onlyGivenNames xv; first
      | (refine keeps_cut (P := Keeps s0 xv) ?_ (fun _ => ?_); unfold xv; clear xv; rotate_left; clear_value xv; rotate_left)
      | (refine keeps_cut (P := KeepsOpt s0 xv) ?_ (fun _ => ?_); unfold xv; clear xv; rotate_left; clear_value xv; rotate_left)
      | clear_value xv
      | (unfold xv; clear xv))
    | with_reducible refine keepsOpt_getD ?_ ?_
    | (simp -zeta only [↓keeps_mk]; with_reducible refine keeps_upd ?_))

theorem startFirmware_keeps {s0 : State} (s : State) (hk : Keeps s0 s) :
    Keeps s0 (startFirmware s) := by
  unfold startFirmware
  repeat' (first
    | with_reducible assumption
    | (extract_lets +onlyGivenNames xv; first
      | (refine keeps_cut (P := Keeps s0 xv) ?_ (fun _ => ?_); unfold xv; clear xv; rotate_left; clear_value xv; rotate_left)
      | (refine keeps_cut (P := KeepsOpt s0 xv) ?_ (fun _ => ?_); unfold xv; clear xv; rotate_left; clear_value xv; rotate_left)
      | clear_value xv
      | (unfold xv; clear xv))
    | with_reducible apply memStore_keeps
    | with_reducible apply deriveLayer1_keeps
    | with_reducible apply regSet_keeps
    | with_reducible apply stopDevice_keeps
    | split
    | (simp -zeta only [↓keeps_mk]; with_reducible refine keeps_upd ?_))

theorem execActivateFw_keeps {s0 : State} (m : Mbox) (action : Nat) (s : State) (hk : Keeps s0 s) :
    KeepsOut s0 (execActivateFw m action s) := by
  unfold execActivateFw
  repeat' (first
    | with_reducible assumption
    | (extract_lets +onlyGivenNames xv; clear_value xv)
    | with_reducible refine keepsOut_next ?_
    | with_reducible apply reply_keeps
    | with_reducible apply setMbox_keeps
    | with_reducible apply startFirmware_keeps
    | split
    | (simp -zeta only [↓keeps_mk]; with_reducible refine keeps_upd ?_))

theorem showRun_keeps {s0 : State} (s : State) (fs : List BistFinding) (hk : Keeps s0 s) :
    Keeps s0 (showRun s fs) := by
  unfold showRun
  repeat' (first
    | with_reducible assumption
    | (extract_lets +onlyGivenNames xv; first
      | (refine keeps_cut (P := Keeps s0 xv) ?_ (fun _ => ?_); unfold xv; clear xv; rotate_left; clear_value xv; rotate_left)
      | clear_value xv)
    | with_reducible apply regPut_keeps
    | with_reducible apply regSet_keeps
    | (simp -zeta only [↓keeps_mk]; with_reducible refine keeps_upd ?_))

theorem writeRepair_keeps {s0 : State} (s : State) (fs : List BistFinding) (a : Nat) (hk : Keeps s0 s) :
    Keeps s0 (writeRepair s fs a) := by
  unfold writeRepair
  repeat' (first
    | with_reducible assumption
    | with_reducible apply regSet_keeps
    | split)

theorem showRepaired_keeps {s0 : State} (s : State) (hk : Keeps s0 s) :
    Keeps s0 (showRepaired s) := by
  unfold showRepaired
  repeat' (first
    | with_reducible assumption
    | with_reducible apply regPut_keeps)

theorem bistPc_keeps {s0 : State} (s : State) (pc : Nat) (hk : Keeps s0 s) :
    Keeps s0 (bistPc s pc) := by
  unfold bistPc
  repeat' (first
    | with_reducible assumption
    | (extract_lets +onlyGivenNames xv; first
      | (refine keeps_cut (P := Keeps s0 xv) ?_ (fun _ => ?_); unfold xv; clear xv; rotate_left; clear_value xv; rotate_left)
      | clear_value xv)
    | with_reducible apply regClearBit_keeps
    | with_reducible apply regPut_keeps
    | split)

theorem enterService_keeps {s0 : State} (s : State) (a : ArrId) (hk : Keeps s0 s) :
    Keeps s0 (enterService s a) := by
  unfold enterService
  repeat' (first
    | with_reducible assumption
    | (extract_lets +onlyGivenNames xv; first
      | (refine keeps_cut (P := Keeps s0 xv) ?_ (fun _ => ?_); unfold xv; clear xv; rotate_left; clear_value xv; rotate_left)
      | clear_value xv
      | (unfold xv; clear xv))
    | with_reducible apply setArr_keeps
    | with_reducible apply regPut_keeps
    | with_reducible apply idle_keeps
    | split)

theorem applyFindings_keeps {s0 : State} (s : State) (fs : List BistFinding) (hk : Keeps s0 s) :
    Keeps s0 (applyFindings s fs) := by
  unfold applyFindings
  repeat' (first
    | with_reducible assumption
    | with_reducible intro _
    | (extract_lets +onlyGivenNames xv; first
      | (refine keeps_cut (P := Keeps s0 xv) ?_ (fun _ => ?_); unfold xv; clear xv; rotate_left; clear_value xv; rotate_left)
      | clear_value xv)
    | with_reducible apply bistPc_keeps
    | with_reducible apply enterService_keeps
    | with_reducible apply forArrays_keeps
    | with_reducible apply forFes_keeps
    | with_reducible apply regClearBit_keeps
    | with_reducible apply regPut_keeps
    | with_reducible apply setArr_keeps
    | with_reducible apply setFe_keeps
    | with_reducible apply showRepaired_keeps
    | with_reducible apply stopPort_keeps
    | with_reducible apply writeRepair_keeps
    | with_reducible refine keeps_foldl _ ?_ (fun _ _ _ => ?_)
    | split
    | (simp -zeta only [↓keeps_mk]; with_reducible refine keeps_upd ?_))

theorem execPowerUpBistDone_keeps {s0 : State} (findings : List BistFinding) (s : State) (hk : Keeps s0 s) :
    KeepsOut s0 (execPowerUpBistDone findings s) := by
  unfold execPowerUpBistDone
  repeat' (first
    | with_reducible assumption
    | with_reducible intro _
    | (extract_lets +onlyGivenNames xv; first
      | (refine keeps_cut (P := Keeps s0 xv) ?_ (fun _ => ?_); unfold xv; clear xv; rotate_left; clear_value xv; rotate_left)
      | clear_value xv
      | (unfold xv; clear xv))
    | with_reducible refine keepsOut_next ?_
    | with_reducible exact keepsOut_fault _
    | with_reducible exact keepsOut_refused _
    | with_reducible apply showRun_keeps
    | with_reducible apply applyFindings_keeps
    | with_reducible apply regSet_keeps
    | with_reducible apply failActivate_keeps
    | with_reducible apply startFirmware_keeps
    | with_reducible apply sendMsix_keeps
    | with_reducible apply setMbox_keeps
    | split)

theorem execBistSelfRestart_keeps {s0 : State} (s : State) (hk : Keeps s0 s) :
    KeepsOut s0 (execBistSelfRestart s) := by
  unfold execBistSelfRestart
  repeat' (first
    | with_reducible assumption
    | with_reducible refine keepsOut_next ?_
    | with_reducible apply leaveStop_keeps
    | with_reducible apply logPower_keeps
    | split)

theorem execFlowWaitEnd_keeps {s0 : State} (s : State) (hk : Keeps s0 s) :
    KeepsOut s0 (execFlowWaitEnd s) := by
  unfold execFlowWaitEnd
  repeat' (first
    | with_reducible assumption
    | with_reducible refine keepsOut_next ?_
    | with_reducible apply regPut_keeps
    | split)

theorem execGo_keeps {s0 : State} (val : Reg64) (s : State) (hk : Keeps s0 s) :
    KeepsOut s0 (execGo val s) := by
  unfold execGo
  repeat' (first
    | with_reducible assumption
    | (extract_lets +onlyGivenNames xv; first
      | (refine keeps_cut (P := Keeps s0 xv) ?_ (fun _ => ?_); unfold xv; clear xv; rotate_left; clear_value xv; rotate_left)
      | clear_value xv)
    | with_reducible refine keepsOut_next ?_
    | with_reducible apply regFlag_keeps
    | with_reducible apply regSet_keeps
    | split
    | (simp -zeta only [↓keeps_mk]; with_reducible refine keeps_upd ?_))

theorem beginTest_keeps {s0 : State} (s : State) (a : Nat) (hk : Keeps s0 s) :
    Keeps s0 (beginTest s a) := by
  unfold beginTest
  repeat' (first
    | with_reducible assumption
    | (extract_lets +onlyGivenNames xv; first
      | (refine keeps_cut (P := Keeps s0 xv) ?_ (fun _ => ?_); unfold xv; clear xv; rotate_left; clear_value xv; rotate_left)
      | (refine keeps_cut (P := KeepsOpt s0 xv) ?_ (fun _ => ?_); unfold xv; clear xv; rotate_left; clear_value xv; rotate_left)
      | clear_value xv
      | (unfold xv; clear xv))
    | with_reducible apply setArr_keeps
    | with_reducible apply dropTrim_keeps
    | with_reducible apply geoBump_keeps
    | with_reducible apply regClearBit_keeps
    | with_reducible apply regBump_keeps
    | with_reducible apply regSet_keeps
    | (simp -zeta only [↓keeps_mk]; with_reducible refine keeps_upd ?_))

theorem showPhase_keeps {s0 : State} (s : State) (hk : Keeps s0 s) :
    Keeps s0 (showPhase s) := by
  unfold showPhase
  repeat' (first
    | with_reducible assumption
    | (extract_lets +onlyGivenNames xv; clear_value xv)
    | with_reducible apply regPut_keeps
    | split)

theorem headlandBist_keeps {s0 : State} (s : State) (hk : Keeps s0 s) :
    Keeps s0 (headlandBist s) := by
  unfold headlandBist
  repeat' (first
    | with_reducible assumption
    | with_reducible intro _
    | (extract_lets +onlyGivenNames xv; first
      | (refine keeps_cut (P := Keeps s0 xv) ?_ (fun _ => ?_); unfold xv; clear xv; rotate_left; clear_value xv; rotate_left)
      | (refine keeps_cut (P := KeepsOpt s0 xv) ?_ (fun _ => ?_); unfold xv; clear xv; rotate_left; clear_value xv; rotate_left)
      | clear_value xv
      | (unfold xv; clear xv))
    | with_reducible apply regSet_keeps
    | with_reducible apply geoBump_keeps
    | with_reducible apply enterService_keeps
    | with_reducible apply setArr_keeps
    | with_reducible apply beginTest_keeps
    | with_reducible apply regPut_keeps
    | with_reducible apply showPhase_keeps
    | with_reducible refine keeps_foldl _ ?_ (fun _ _ _ => ?_)
    | with_reducible refine keeps_foldlP _ ?_ (fun _ _ _ => ?_)
    | split
    | (simp -zeta only [↓keeps_mk]; with_reducible refine keeps_upd ?_))

theorem execBistTestDone_keeps {s0 : State} (res : ArrayTest) (s : State) (hk : Keeps s0 s) :
    KeepsOut s0 (execBistTestDone res s) := by
  unfold execBistTestDone
  repeat' (first
    | with_reducible assumption
    | (extract_lets +onlyGivenNames xv; first
      | (refine keeps_cut (P := Keeps s0 xv) ?_ (fun _ => ?_); unfold xv; clear xv; rotate_left; clear_value xv; rotate_left)
      | (refine keeps_cut (P := KeepsOpt s0 xv) ?_ (fun _ => ?_); unfold xv; clear xv; rotate_left; clear_value xv; rotate_left)
      | clear_value xv
      | (unfold xv; clear xv))
    | with_reducible refine keepsOpt_some ?_
    | with_reducible exact keepsOpt_none
    | with_reducible refine keepsOut_next ?_
    | with_reducible exact keepsOut_fault _
    | with_reducible exact keepsOut_refused _
    | with_reducible apply runAgain_keeps
    | with_reducible apply showRun_keeps
    | with_reducible apply regPut_keeps
    | with_reducible apply regSet_keeps
    | with_reducible apply showRepaired_keeps
    | with_reducible apply setArr_keeps
    | with_reducible apply logAt_keeps
    | split
    | with_reducible refine keeps_of_some (by assumption) ?_
    | (simp -zeta only [↓keeps_mk]; with_reducible refine keeps_upd ?_))

end Sys2Proof.Machine
end

