-- ==== Sys2Proof/Laws/FlowsKeeps.lean ====
section
/-! SUPPORT. What the definitions of Machine/Flows.lean keep (Laws/Keeps.lean). -/

namespace Sys2Proof.Machine

/-- The state that a checked packet carries keeps. -/
def KeepsRx (s0 : State) : RxPacket → Prop
  | .drop s => Keeps s0 s
  | .again s _ => Keeps s0 s
  | .fresh s _ => Keeps s0 s

theorem keepsRx_drop {s0 s : State} (h : Keeps s0 s) : KeepsRx s0 (.drop s) := h
theorem keepsRx_again {s0 s : State} {f : Flow} (h : Keeps s0 s) : KeepsRx s0 (.again s f) := h
theorem keepsRx_fresh {s0 s : State} {f : Flow} (h : Keeps s0 s) : KeepsRx s0 (.fresh s f) := h
theorem keeps_of_rxDrop {s0 s : State} {r : RxPacket} (e : r = .drop s) (h : KeepsRx s0 r) : Keeps s0 s := by
  subst e; exact h
theorem keeps_of_rxAgain {s0 s : State} {f : Flow} {r : RxPacket} (e : r = .again s f) (h : KeepsRx s0 r) :
    Keeps s0 s := by subst e; exact h
theorem keeps_of_rxFresh {s0 s : State} {f : Flow} {r : RxPacket} (e : r = .fresh s f) (h : KeepsRx s0 r) :
    Keeps s0 s := by subst e; exact h

theorem execFlowOpen_keeps {s0 : State} (m : FlowMsg) (s : State) (hk : Keeps s0 s) :
    KeepsOut s0 (execFlowOpen m s) := by
  unfold execFlowOpen
  repeat' (first
    | with_reducible assumption
    | (extract_lets +onlyGivenNames xv; first
      | (refine keeps_cut (P := Keeps s0 xv) ?_ (fun _ => ?_); unfold xv; clear xv; rotate_left; clear_value xv; rotate_left)
      | clear_value xv)
    | with_reducible refine keepsOut_next ?_
    | with_reducible apply heardFrom_keeps
    | with_reducible apply pumpFlow_keeps
    | with_reducible apply sendCtl_keeps
    | with_reducible apply setFlow_keeps
    | with_reducible apply tickFree_keeps
    | split)

theorem execFlowAccept_keeps {s0 : State} (m : FlowMsg) (s : State) (hk : Keeps s0 s) :
    KeepsOut s0 (execFlowAccept m s) := by
  unfold execFlowAccept
  repeat' (first
    | with_reducible assumption
    | (extract_lets +onlyGivenNames xv; refine keeps_cut (P := Keeps s0 xv) ?_ (fun _ => ?_); unfold xv; clear xv; rotate_left; clear_value xv; rotate_left)
    | with_reducible refine keepsOut_next ?_
    | with_reducible apply heardFrom_keeps
    | with_reducible apply pumpFlow_keeps
    | with_reducible apply setFlow_keeps
    | split)

theorem denyOps_keeps {s0 : State} (s : State) (n : NodeId) (ctx : Nat) (hk : Keeps s0 s) :
    Keeps s0 (denyOps s n ctx) := by
  unfold denyOps
  repeat' (first
    | with_reducible assumption
    | with_reducible intro _
    | with_reducible apply descFault_keeps
    | with_reducible apply forFes_keeps
    | with_reducible refine keeps_foldl _ ?_ (fun _ _ _ => ?_)
    | split)

theorem execFlowRefuse_keeps {s0 : State} (m : FlowMsg) (s : State) (hk : Keeps s0 s) :
    KeepsOut s0 (execFlowRefuse m s) := by
  unfold execFlowRefuse
  repeat' (first
    | with_reducible assumption
    | (extract_lets +onlyGivenNames xv; refine keeps_cut (P := Keeps s0 xv) ?_ (fun _ => ?_); unfold xv; clear xv; rotate_left; clear_value xv; rotate_left)
    | with_reducible refine keepsOut_next ?_
    | with_reducible apply denyOps_keeps
    | with_reducible apply heardFrom_keeps
    | split
    | (simp -zeta only [↓keeps_mk]; with_reducible refine keeps_upd ?_))

theorem sendNack_keeps {s0 : State} (s : State) (f : Flow) (psn code : Nat) (hk : Keeps s0 s) :
    Keeps s0 (sendNack s f psn code) := by
  unfold sendNack
  repeat' (first
    | with_reducible assumption
    | with_reducible apply flowReply_keeps
    | with_reducible apply regBump_keeps)

theorem refusePacket_keeps {s0 : State} (s : State) (f : Flow) (psn code : Nat) (hk : Keeps s0 s) :
    Keeps s0 (refusePacket s f psn code) := by
  unfold refusePacket
  repeat' (first
    | with_reducible assumption
    | with_reducible intro _
    | (extract_lets +onlyGivenNames xv; first
      | (refine keeps_cut (P := Keeps s0 xv) ?_ (fun _ => ?_); unfold xv; clear xv; rotate_left; clear_value xv; rotate_left)
      | clear_value xv
      | (unfold xv; clear xv))
    | with_reducible apply sendNack_keeps
    | with_reducible apply setFlow_keeps)

theorem sendAck_keeps {s0 : State} (s : State) (f : Flow) (credits : Nat) (hk : Keeps s0 s) :
    Keeps s0 (sendAck s f credits) := by
  unfold sendAck
  repeat' (first
    | with_reducible assumption
    | with_reducible apply flowReply_keeps)

theorem answerAgain_keeps {s0 : State} (s : State) (f : Flow) (psn : Nat) (hk : Keeps s0 s) :
    Keeps s0 (answerAgain s f psn) := by
  unfold answerAgain
  repeat' (first
    | with_reducible assumption
    | with_reducible intro _
    | with_reducible apply sendNack_keeps
    | with_reducible apply sendAck_keeps
    | split)

theorem rxCheck_keeps {s0 : State} (s : State) (k : Packet) (hk : Keeps s0 s) :
    KeepsRx s0 (rxCheck s k) := by
  unfold rxCheck
  repeat' (first
    | with_reducible assumption
    | (extract_lets +onlyGivenNames xv; first
      | (refine keeps_cut (P := Keeps s0 xv) ?_ (fun _ => ?_); unfold xv; clear xv; rotate_left; clear_value xv; rotate_left)
      | (refine keeps_cut (P := KeepsOpt s0 xv) ?_ (fun _ => ?_); unfold xv; clear xv; rotate_left; clear_value xv; rotate_left)
      | clear_value xv
      | (unfold xv; clear xv))
    | with_reducible refine keepsRx_drop ?_
    | with_reducible refine keepsRx_again ?_
    | with_reducible refine keepsRx_fresh ?_
    | with_reducible apply sendNack_keeps
    | with_reducible apply tagFail_keeps
    | with_reducible apply meterCtx_keeps
    | with_reducible apply heardFrom_keeps
    | with_reducible apply setFlow_keeps
    | split)

theorem rxAccess_keeps {s0 : State} (s : State) (op : RailOp) (k : Packet) (n : Nat) (hk : Keeps s0 s) :
    KeepsExP s0 (rxAccess s op k n) := by
  unfold rxAccess
  repeat' (first
    | with_reducible assumption
    | with_reducible exact keepsExP_error _
    | with_reducible apply railAccess_keeps
    | split)

theorem peerWrite_keeps {s0 : State} (s : State) (t : LdId) (v : Nat) (bs : List Byte) (hk : Keeps s0 s) :
    Keeps s0 (peerWrite s t v bs) := by
  unfold peerWrite
  repeat' (first
    | with_reducible assumption
    | with_reducible apply tvaStore_keeps)

theorem execWritePacket_keeps {s0 : State} (k : Packet) (s : State) (hk : Keeps s0 s) :
    KeepsOut s0 (execWritePacket k s) := by
  unfold execWritePacket
  repeat' (first
    | with_reducible assumption
    | with_reducible refine keepsExP_ok ?_
    | with_reducible exact keepsExP_error _
    | with_reducible refine keepsOut_next ?_
    | with_reducible exact keepsOut_fault _
    | with_reducible exact keepsOut_refused _
    | with_reducible refine keepsRx_drop ?_
    | with_reducible refine keepsRx_again ?_
    | with_reducible refine keepsRx_fresh ?_
    | with_reducible apply rxCheck_keeps
    | with_reducible apply answerAgain_keeps
    | with_reducible apply rxAccess_keeps
    | with_reducible apply refusePacket_keeps
    | with_reducible apply sendAck_keeps
    | with_reducible apply peerWrite_keeps
    | split
    | with_reducible refine keeps_of_okP (by assumption) ?_
    | with_reducible refine keeps_of_rxDrop (by assumption) ?_
    | with_reducible refine keeps_of_rxAgain (by assumption) ?_
    | with_reducible refine keeps_of_rxFresh (by assumption) ?_)

theorem peerRead_keeps {s0 : State} (s : State) (t : LdId) (v n : Nat) (hk : Keeps s0 s) :
    KeepsP s0 (peerRead s t v n) := by
  unfold peerRead
  repeat' (first
    | with_reducible assumption
    | (extract_lets +onlyGivenNames xv; first
      | (refine keeps_cut (P := Keeps s0 xv) ?_ (fun _ => ?_); unfold xv; clear xv; rotate_left; clear_value xv; rotate_left)
      | (refine keeps_cut (P := KeepsP s0 xv) ?_ (fun _ => ?_); unfold xv; clear xv; rotate_left; clear_value xv; rotate_left)
      | clear_value xv
      | (unfold xv; clear xv))
    | with_reducible refine keepsP_mk ?_
    | with_reducible apply peerTouch_keeps
    | with_reducible apply tickFree_keeps
    | split)

theorem sendResp_keeps {s0 : State} (n : NodeId) (ctx fl psn opId k : Nat) (bs : List Byte) (s : State) (hk : Keeps s0 s) :
    Keeps s0 (sendResp n ctx fl psn opId k bs s) := by
  induction k generalizing s bs with
  | zero => exact hk
  | succ k ih =>
    unfold sendResp
    split
    · exact hk
    · dsimp only
      split
      · exact flowSend_keeps _ _ _ hk
      · exact ih _ _ (flowSend_keeps _ _ _ hk)

theorem execReadReq_keeps {s0 : State} (k : Packet) (s : State) (hk : Keeps s0 s) : KeepsOut s0 (execReadReq k s) := by
  have hr := rxCheck_keeps (s0 := s0) s k hk
  unfold execReadReq
  split
  · rename_i e; exact keepsOut_next (keeps_of_rxDrop e hr)
  · rename_i e; exact keepsOut_next (answerAgain_keeps _ _ _ (keeps_of_rxAgain e hr))
  · rename_i s1 f e
    have h1 := keeps_of_rxFresh e hr
    split
    · exact keepsOut_next (refusePacket_keeps _ _ _ _ h1)
    · rename_i e2
      have h2 := keeps_of_okP e2 (rxAccess_keeps _ _ _ _ h1)
      exact keepsOut_next (sendAck_keeps _ _ _ (sendResp_keeps _ _ _ _ _ _ _ _ (keepsP_fst (peerRead_keeps _ _ _ _ h2))))

theorem dropLate_keeps {s0 : State} (s : State) (n : NodeId) (op len : Nat) (last : Bool) (hk : Keeps s0 s) :
    Keeps s0 (dropLate s n op len last) := by
  unfold dropLate
  repeat' (first
    | with_reducible assumption
    | with_reducible intro _
    | (extract_lets +onlyGivenNames xv; first
      | (refine keeps_cut (P := Keeps s0 xv) ?_ (fun _ => ?_); unfold xv; clear xv; rotate_left; clear_value xv; rotate_left)
      | (refine keeps_cut (P := KeepsOpt s0 xv) ?_ (fun _ => ?_); unfold xv; clear xv; rotate_left; clear_value xv; rotate_left)
      | clear_value xv
      | (unfold xv; clear xv))
    | with_reducible apply regBump_keeps
    | split
    | with_reducible refine keepsP_fst ?_
    | (simp -zeta only [↓keeps_mk]; with_reducible refine keeps_upd ?_))

theorem execReadResp_keeps {s0 : State} (k : Packet) (s : State) (hk : Keeps s0 s) :
    KeepsOut s0 (execReadResp k s) := by
  unfold execReadResp
  repeat' (first
    | with_reducible assumption
    | (extract_lets +onlyGivenNames xv; first
      | (refine keeps_cut (P := Keeps s0 xv) ?_ (fun _ => ?_); unfold xv; clear xv; rotate_left; clear_value xv; rotate_left)
      | clear_value xv
      | (unfold xv; clear xv))
    | with_reducible refine keepsOut_next ?_
    | with_reducible exact keepsOut_fault _
    | with_reducible exact keepsOut_refused _
    | with_reducible refine keepsRx_drop ?_
    | with_reducible refine keepsRx_again ?_
    | with_reducible refine keepsRx_fresh ?_
    | with_reducible apply rxCheck_keeps
    | with_reducible apply answerAgain_keeps
    | with_reducible apply dropLate_keeps
    | with_reducible apply sendAck_keeps
    | with_reducible apply mapDescs_keeps
    | split
    | with_reducible refine keeps_of_rxDrop (by assumption) ?_
    | with_reducible refine keeps_of_rxAgain (by assumption) ?_
    | with_reducible refine keeps_of_rxFresh (by assumption) ?_)

theorem atomicAccess_keeps {s0 : State} (s : State) (k : Packet) (hk : Keeps s0 s) :
    KeepsExP s0 (atomicAccess s k) := by
  unfold atomicAccess
  repeat' (first
    | with_reducible assumption
    | (extract_lets +onlyGivenNames xv; first
      | (refine keeps_cut (P := Keeps s0 xv) ?_ (fun _ => ?_); unfold xv; clear xv; rotate_left; clear_value xv; rotate_left)
      | (refine keeps_cut (P := KeepsExP s0 xv) ?_ (fun _ => ?_); unfold xv; clear xv; rotate_left; clear_value xv; rotate_left)
      | clear_value xv
      | (unfold xv; clear xv))
    | with_reducible refine keepsExP_ok ?_
    | with_reducible exact keepsExP_error _
    | with_reducible apply rxAccess_keeps
    | split)

theorem execAtomicReq_keeps {s0 : State} (k : Packet) (s : State) (hk : Keeps s0 s) : KeepsOut s0 (execAtomicReq k s) := by
  have hr := rxCheck_keeps (s0 := s0) s k hk
  unfold execAtomicReq
  split
  · rename_i e; exact keepsOut_next (keeps_of_rxDrop e hr)
  · rename_i e; exact keepsOut_next (answerAgain_keeps _ _ _ (keeps_of_rxAgain e hr))
  · rename_i s1 f e
    have h1 := keeps_of_rxFresh e hr
    have ha := atomicAccess_keeps (s0 := s0) s1 k h1
    split
    · exact keepsOut_next (refusePacket_keeps _ _ _ _ h1)
    · rename_i s2 t v e2
      have h2 := keeps_of_okP e2 ha
      extract_lets r old s3 s4
      refine keepsOut_next ?_
      have h4 : Keeps s0 s4 := sendAck_keeps _ _ _ (peerWrite_keeps _ _ _ _ (keepsP_fst (peerRead_keeps _ _ _ _ h2)))
      split
      · exact flowSend_keeps _ _ _ h4
      · exact h4

theorem execAtomicResp_keeps {s0 : State} (k : Packet) (s : State) (hk : Keeps s0 s) :
    KeepsOut s0 (execAtomicResp k s) := by
  unfold execAtomicResp
  repeat' (first
    | with_reducible assumption
    | with_reducible intro _
    | (extract_lets +onlyGivenNames xv; first
      | (refine keeps_cut (P := Keeps s0 xv) ?_ (fun _ => ?_); unfold xv; clear xv; rotate_left; clear_value xv; rotate_left)
      | (refine keeps_cut (P := KeepsOpt s0 xv) ?_ (fun _ => ?_); unfold xv; clear xv; rotate_left; clear_value xv; rotate_left)
      | clear_value xv
      | (unfold xv; clear xv))
    | with_reducible refine keepsOut_next ?_
    | with_reducible exact keepsOut_fault _
    | with_reducible exact keepsOut_refused _
    | with_reducible refine keepsRx_drop ?_
    | with_reducible refine keepsRx_again ?_
    | with_reducible refine keepsRx_fresh ?_
    | with_reducible apply rxCheck_keeps
    | with_reducible apply answerAgain_keeps
    | with_reducible apply sendAck_keeps
    | split
    | with_reducible refine keeps_of_rxDrop (by assumption) ?_
    | with_reducible refine keeps_of_rxAgain (by assumption) ?_
    | with_reducible refine keeps_of_rxFresh (by assumption) ?_
    | (simp -zeta only [↓keeps_mk]; with_reducible refine keeps_upd ?_))

theorem ackWrites_keeps {s0 : State} (s : State) (n : NodeId) (ops : List Nat) (hk : Keeps s0 s) :
    Keeps s0 (ackWrites s n ops) := by
  unfold ackWrites
  repeat' (first
    | with_reducible assumption
    | with_reducible intro _
    | (extract_lets +onlyGivenNames xv; first
      | (refine keeps_cut (P := Keeps s0 xv) ?_ (fun _ => ?_); unfold xv; clear xv; rotate_left; clear_value xv; rotate_left)
      | clear_value xv
      | (unfold xv; clear xv))
    | with_reducible apply forFes_keeps
    | with_reducible apply regBump_keeps
    | with_reducible apply mapDescs_keeps)

theorem renewFlow_keeps {s0 : State} (s : State) (n : NodeId) (ctx fl : Nat) (hk : Keeps s0 s) :
    Keeps s0 (renewFlow s n ctx fl) := by
  unfold renewFlow
  repeat' (first
    | with_reducible assumption
    | (extract_lets +onlyGivenNames xv; refine keeps_cut (P := Keeps s0 xv) ?_ (fun _ => ?_); unfold xv; clear xv; rotate_left; clear_value xv; rotate_left)
    | with_reducible apply sendCtl_keeps
    | with_reducible apply setFlow_keeps
    | with_reducible apply tickFree_keeps
    | split)

theorem execAck_keeps {s0 : State} (k : Packet) (cumPsn : BitVec 32) (credits : BitVec 16) (s : State) (hk : Keeps s0 s) :
    KeepsOut s0 (execAck k cumPsn credits s) := by
  unfold execAck
  repeat' (first
    | with_reducible assumption
    | with_reducible intro _
    | (extract_lets +onlyGivenNames xv; first
      | (refine keeps_cut (P := Keeps s0 xv) ?_ (fun _ => ?_); unfold xv; clear xv; rotate_left; clear_value xv; rotate_left)
      | (refine keeps_cut (P := KeepsOpt s0 xv) ?_ (fun _ => ?_); unfold xv; clear xv; rotate_left; clear_value xv; rotate_left)
      | clear_value xv
      | (unfold xv; clear xv))
    | with_reducible refine keepsOut_next ?_
    | with_reducible exact keepsOut_fault _
    | with_reducible exact keepsOut_refused _
    | with_reducible apply tagFail_keeps
    | with_reducible apply ackWrites_keeps
    | with_reducible apply heardFrom_keeps
    | with_reducible apply setFlow_keeps
    | with_reducible apply renewFlow_keeps
    | with_reducible apply pumpFlow_keeps
    | split)

theorem denyOp_keeps {s0 : State} (s : State) (n : NodeId) (op addr : Nat) (hk : Keeps s0 s) :
    Keeps s0 (denyOp s n op addr) := by
  unfold denyOp
  repeat' (first
    | with_reducible assumption
    | with_reducible intro _
    | with_reducible apply descFault_keeps
    | with_reducible apply forFes_keeps
    | with_reducible refine keeps_foldl _ ?_ (fun _ _ _ => ?_)
    | split)

theorem denySent_keeps {s0 : State} (s : State) (n : NodeId) (bs : List Byte) (hk : Keeps s0 s) :
    Keeps s0 (denySent s n bs) := by
  unfold denySent
  repeat' (first
    | with_reducible assumption
    | (extract_lets +onlyGivenNames xv; first
      | (refine keeps_cut (P := Keeps s0 xv) ?_ (fun _ => ?_); unfold xv; clear xv; rotate_left; clear_value xv; rotate_left)
      | clear_value xv)
    | with_reducible apply denyOp_keeps
    | (simp -zeta only [↓keeps_mk]; with_reducible refine keeps_upd ?_))

theorem execNack_keeps {s0 : State} (k : Packet) (nackPsn : BitVec 32) (code : BitVec 8) (s : State) (hk : Keeps s0 s) :
    KeepsOut s0 (execNack k nackPsn code s) := by
  unfold execNack
  repeat' (first
    | with_reducible assumption
    | with_reducible intro _
    | (extract_lets +onlyGivenNames xv; first
      | (refine keeps_cut (P := Keeps s0 xv) ?_ (fun _ => ?_); unfold xv; clear xv; rotate_left; clear_value xv; rotate_left)
      | (refine keeps_cut (P := KeepsOpt s0 xv) ?_ (fun _ => ?_); unfold xv; clear xv; rotate_left; clear_value xv; rotate_left)
      | clear_value xv
      | (unfold xv; clear xv))
    | with_reducible refine keepsOut_next ?_
    | with_reducible exact keepsOut_fault _
    | with_reducible exact keepsOut_refused _
    | with_reducible apply tagFail_keeps
    | with_reducible apply setFlow_keeps
    | with_reducible apply heardFrom_keeps
    | with_reducible apply regBump_keeps
    | with_reducible apply renewFlow_keeps
    | with_reducible apply denySent_keeps
    | with_reducible apply regPut_keeps
    | with_reducible refine keeps_foldl _ ?_ (fun _ _ _ => ?_)
    | with_reducible refine keeps_foldlP _ ?_ (fun _ _ _ => ?_)
    | split)

theorem execRetransmitTimeout_keeps {s0 : State} (n : NodeId) (ctx : Fin 17) (fl : Fin 16) (s : State) (hk : Keeps s0 s) :
    KeepsOut s0 (execRetransmitTimeout n ctx fl s) := by
  unfold execRetransmitTimeout
  repeat' (first
    | with_reducible assumption
    | (extract_lets +onlyGivenNames xv; first
      | clear_value xv
      | (unfold xv; clear xv))
    | with_reducible refine keepsOut_next ?_
    | with_reducible apply moveFlow_keeps
    | with_reducible apply resendFlow_keeps
    | with_reducible apply setFlow_keeps
    | split)

theorem dropStale_keeps {s0 : State} (s : State) (n : NodeId) (id : Nat) (role src : BitVec 24) (hk : Keeps s0 s) :
    Keeps s0 (dropStale s n id role src) := by
  unfold dropStale
  repeat' (first
    | with_reducible assumption
    | with_reducible apply regBump_keeps
    | with_reducible apply sendCtl_keeps)

theorem execRoleMsg_keeps {s0 : State} (m : RoleMsg) (s : State) (hk : Keeps s0 s) :
    KeepsOut s0 (execRoleMsg m s) := by
  unfold execRoleMsg
  repeat' (first
    | with_reducible assumption
    | (extract_lets +onlyGivenNames xv; refine keeps_cut (P := Keeps s0 xv) ?_ (fun _ => ?_); unfold xv; clear xv; rotate_left; clear_value xv; rotate_left)
    | with_reducible refine keepsOut_next ?_
    | with_reducible apply dropStale_keeps
    | with_reducible apply heardFrom_keeps
    | with_reducible apply sendCtl_keeps
    | split
    | (simp -zeta only [↓keeps_mk]; with_reducible refine keeps_upd ?_))

theorem execNotify_keeps {s0 : State} (m : NotifyMsg) (s : State) (hk : Keeps s0 s) :
    KeepsOut s0 (execNotify m s) := by
  unfold execNotify
  repeat' (first
    | with_reducible assumption
    | (extract_lets +onlyGivenNames xv; refine keeps_cut (P := Keeps s0 xv) ?_ (fun _ => ?_); unfold xv; clear xv; rotate_left; clear_value xv; rotate_left)
    | with_reducible refine keepsOut_next ?_
    | with_reducible apply applyNotify_keeps
    | with_reducible apply dropStale_keeps
    | with_reducible apply heardFrom_keeps
    | with_reducible apply sendCtl_keeps
    | split)

theorem heardRole_keeps {s0 : State} (s : State) (msgId : Nat) (hk : Keeps s0 s) :
    Keeps s0 (heardRole s msgId) := by
  unfold heardRole
  repeat' (first
    | with_reducible assumption
    | with_reducible apply heardFrom_keeps
    | split)

theorem execRoleAck_keeps {s0 : State} (msgId : Nat) (s : State) (hk : Keeps s0 s) :
    KeepsOut s0 (execRoleAck msgId s) := by
  unfold execRoleAck
  repeat' (first
    | with_reducible assumption
    | with_reducible intro _
    | (extract_lets +onlyGivenNames xv; first
      | (refine keeps_cut (P := Keeps s0 xv) ?_ (fun _ => ?_); unfold xv; clear xv; rotate_left; clear_value xv; rotate_left)
      | clear_value xv
      | (unfold xv; clear xv))
    | with_reducible refine keepsOut_next ?_
    | with_reducible exact keepsOut_fault _
    | with_reducible exact keepsOut_refused _
    | with_reducible apply heardRole_keeps
    | with_reducible apply acceptMsg_keeps
    | split)

theorem execStaleRole_keeps {s0 : State} (msgId : Nat) (role : BitVec 24) (_epoch : BitVec 16) (s : State) (hk : Keeps s0 s) :
    KeepsOut s0 (execStaleRole msgId role _epoch s) := by
  unfold execStaleRole
  repeat' (first
    | with_reducible assumption
    | (extract_lets +onlyGivenNames xv; refine keeps_cut (P := Keeps s0 xv) ?_ (fun _ => ?_); unfold xv; clear xv; rotate_left; clear_value xv; rotate_left)
    | with_reducible refine keepsOut_next ?_
    | with_reducible apply heardRole_keeps
    | (simp -zeta only [↓keeps_mk]; with_reducible refine keeps_upd ?_))

theorem rolesAtTick_keeps {s0 : State} (s : State) (hk : Keeps s0 s) :
    Keeps s0 (rolesAtTick s) := by
  unfold rolesAtTick
  repeat' (first
    | with_reducible assumption
    | (extract_lets +onlyGivenNames xv; first
      | (refine keeps_cut (P := Keeps s0 xv) ?_ (fun _ => ?_); unfold xv; clear xv; rotate_left; clear_value xv; rotate_left)
      | clear_value xv)
    | with_reducible apply issueMsg_keeps
    | with_reducible refine keeps_foldl _ ?_ (fun _ _ _ => ?_)
    | (simp -zeta only [↓keeps_mk]; with_reducible refine keeps_upd ?_))

theorem execSetRole_keeps {s0 : State} (m : Mbox) (p : List Byte) (s : State) (hk : Keeps s0 s) :
    KeepsOut s0 (execSetRole m p s) := by
  unfold execSetRole
  refine bruah_keeps _ _ _ _ _ _ hk (fun t u hu => ?_)
  extract_lets id holder del
  split
  · exact keepsP_mk (keeps_same hu rfl rfl rfl rfl rfl rfl)
  · refine keepsP_ite (fun _ => ?_) (fun _ => ?_)
    · exact keepsP_mk hu
    · refine keepsP_ite (fun _ => ?_) (fun _ => ?_)
      · exact keepsP_mk hu
      · exact keepsP_mk (keeps_same hu rfl rfl rfl rfl rfl rfl)

end Sys2Proof.Machine
end

