-- ==== Sys2Proof/Laws/ShardsKeeps.lean ====
section
/-! SUPPORT. What the definitions of Machine/Shards.lean keep (Laws/Keeps.lean). -/

namespace Sys2Proof.Machine

theorem showTime_keeps {s0 : State} (s : State) (hk : Keeps s0 s) :
    Keeps s0 (showTime s) := by
  unfold showTime
  repeat' (first
    | with_reducible assumption
    | (extract_lets +onlyGivenNames xv; clear_value xv)
    | with_reducible apply regSet_keeps)

theorem execSync_keeps {s0 : State} (n : NodeId) (furrow inWindow : Nat) (txTime rxTime : Int) (s : State) (hk : Keeps s0 s) :
    KeepsOut s0 (execSync n furrow inWindow txTime rxTime s) := by
  unfold execSync
  repeat' (first
    | with_reducible assumption
    | (extract_lets +onlyGivenNames xv; first
      | (refine keeps_cut (P := Keeps s0 xv) ?_ (fun _ => ?_); unfold xv; clear xv; rotate_left; clear_value xv; rotate_left)
      | clear_value xv)
    | with_reducible refine keepsOut_next ?_
    | with_reducible apply heardFrom_keeps
    | with_reducible apply showTime_keeps
    | split
    | (simp -zeta only [↓keeps_mk]; with_reducible refine keeps_upd ?_))

theorem execSyncJoin_keeps {s0 : State} (n : NodeId) (s : State) (hk : Keeps s0 s) :
    KeepsOut s0 (execSyncJoin n s) := by
  unfold execSyncJoin
  repeat' (first
    | with_reducible assumption
    | (extract_lets +onlyGivenNames xv; first
      | (refine keeps_cut (P := Keeps s0 xv) ?_ (fun _ => ?_); unfold xv; clear xv; rotate_left; clear_value xv; rotate_left)
      | clear_value xv)
    | with_reducible refine keepsOut_next ?_
    | with_reducible apply heardFrom_keeps
    | split
    | (simp -zeta only [↓keeps_mk]; with_reducible refine keeps_upd ?_))

theorem execDelayReq_keeps {s0 : State} (n : NodeId) (rxTime txTime : Int) (s : State) (hk : Keeps s0 s) :
    KeepsOut s0 (execDelayReq n rxTime txTime s) := by
  unfold execDelayReq
  repeat' (first
    | with_reducible assumption
    | (extract_lets +onlyGivenNames xv; refine keeps_cut (P := Keeps s0 xv) ?_ (fun _ => ?_); unfold xv; clear xv; rotate_left; clear_value xv; rotate_left)
    | with_reducible refine keepsOut_next ?_
    | with_reducible apply heardFrom_keeps
    | with_reducible apply sendCtl_keeps
    | split)

theorem execDelayResp_keeps {s0 : State} (n : NodeId) (t1 t2 t3 t4 : Int) (s : State) (hk : Keeps s0 s) :
    KeepsOut s0 (execDelayResp n t1 t2 t3 t4 s) := by
  unfold execDelayResp
  repeat' (first
    | with_reducible assumption
    | (extract_lets +onlyGivenNames xv; first
      | (refine keeps_cut (P := Keeps s0 xv) ?_ (fun _ => ?_); unfold xv; clear xv; rotate_left; clear_value xv; rotate_left)
      | clear_value xv)
    | with_reducible refine keepsOut_next ?_
    | with_reducible apply heardFrom_keeps
    | with_reducible apply showTime_keeps
    | split
    | (simp -zeta only [↓keeps_mk]; with_reducible refine keeps_upd ?_))

theorem execBookQuery_keeps {s0 : State} (n : NodeId) (job : BitVec 18) (gangW gangs first last : Nat) (s : State) (hk : Keeps s0 s) :
    KeepsOut s0 (execBookQuery n job gangW gangs first last s) := by
  unfold execBookQuery
  repeat' (first
    | with_reducible assumption
    | (extract_lets +onlyGivenNames xv; refine keeps_cut (P := Keeps s0 xv) ?_ (fun _ => ?_); unfold xv; clear xv; rotate_left; clear_value xv; rotate_left)
    | with_reducible refine keepsOut_next ?_
    | with_reducible apply heardFrom_keeps
    | with_reducible apply sendCtl_keeps
    | split)

theorem jointFail_keeps {s0 : State} (s : State) (j : Joint) (hk : Keeps s0 s) :
    Keeps s0 (jointFail s j) := by
  unfold jointFail
  repeat' (first
    | with_reducible assumption
    | with_reducible intro _
    | (extract_lets +onlyGivenNames xv; first
      | (refine keeps_cut (P := Keeps s0 xv) ?_ (fun _ => ?_); unfold xv; clear xv; rotate_left; clear_value xv; rotate_left)
      | clear_value xv
      | (unfold xv; clear xv))
    | with_reducible apply setQue_keeps
    | with_reducible apply setWork_keeps
    | with_reducible apply makeLate_keeps
    | with_reducible apply sendCtl_keeps
    | with_reducible refine keeps_foldl _ ?_ (fun _ _ _ => ?_)
    | with_reducible refine keeps_foldlP _ ?_ (fun _ _ _ => ?_)
    | split
    | with_reducible refine keepsP_fst ?_
    | (simp -zeta only [↓keeps_mk]; with_reducible refine keeps_upd ?_))

theorem jointCommit_keeps {s0 : State} (s : State) (j : Joint) (hk : Keeps s0 s) :
    Keeps s0 (jointCommit s j) := by
  unfold jointCommit
  repeat' (first
    | with_reducible assumption
    | (extract_lets +onlyGivenNames xv; first
      | (refine keeps_cut (P := Keeps s0 xv) ?_ (fun _ => ?_); unfold xv; clear xv; rotate_left; clear_value xv; rotate_left)
      | clear_value xv)
    | with_reducible apply jointFail_keeps
    | with_reducible apply sendCtl_keeps
    | with_reducible apply setWork_keeps
    | with_reducible refine keeps_foldl _ ?_ (fun _ _ _ => ?_)
    | split
    | (simp -zeta only [↓keeps_mk]; with_reducible refine keeps_upd ?_))

theorem execBookReply_keeps {s0 : State} (n : NodeId) (job : BitVec 18) (free : List Nat) (s : State) (hk : Keeps s0 s) :
    KeepsOut s0 (execBookReply n job free s) := by
  unfold execBookReply
  repeat' (first
    | with_reducible assumption
    | (extract_lets +onlyGivenNames xv; first
      | (refine keeps_cut (P := Keeps s0 xv) ?_ (fun _ => ?_); unfold xv; clear xv; rotate_left; clear_value xv; rotate_left)
      | clear_value xv)
    | with_reducible refine keepsOut_next ?_
    | with_reducible apply heardFrom_keeps
    | with_reducible apply jointCommit_keeps
    | with_reducible apply jointFail_keeps
    | split
    | (simp -zeta only [↓keeps_mk]; with_reducible refine keeps_upd ?_))

theorem chainAdmit_keeps {s0 : State} (s : State) (i plan : Nat) (chunks : List Nat) (chain : List LaneFurrow) (hk : Keeps s0 s) :
    KeepsP s0 (chainAdmit s i plan chunks chain) := by
  unfold chainAdmit
  extract_lets +onlyGivenNames e q r
  have hr : Keeps s0 r.1 := keepsP_fst (poolEvict_keeps _ _ _ _ hk)
  refine keepsP_ite (fun _ => keepsP_mk (refuse_keeps _ _ _ _ hr)) (fun _ => ?_)
  refine keepsP_ite (fun _ => keepsP_mk (refuse_keeps _ _ _ _ hr)) (fun _ => ?_)
  extract_lets
  split
  · exact keepsP_mk (refuse_keeps _ _ _ _ hr)
  · rename_i e2
    exact keepsP_mk (admitEntry_keeps _ _ _ _ _ _ _ _ (keeps_of_okP e2 (bookTail_keeps _ _ _ _ _ (setWork_keeps _ _ _ hr))))

theorem takeChain_keeps {s0 : State} (s : State) (i : Nat) (chain : List LaneFurrow) (cause : Nat) (hk : Keeps s0 s) :
    Keeps s0 (takeChain s i chain cause) := by
  unfold takeChain
  repeat' (first
    | with_reducible assumption
    | (extract_lets +onlyGivenNames xv; first
      | (refine keeps_cut (P := Keeps s0 xv) ?_ (fun _ => ?_); unfold xv; clear xv; rotate_left; clear_value xv; rotate_left)
      | clear_value xv)
    | with_reducible apply jrnlAdmit_keeps
    | with_reducible apply makeLate_keeps
    | with_reducible apply setEntry_keeps
    | with_reducible apply setWork_keeps
    | split)

theorem execBookCommit_keeps {s0 : State} (n : NodeId) (job : BitVec 18) (i : Fin 4096) (chain : List Nat) (s : State)
    (hk : Keeps s0 s) : KeepsOut s0 (execBookCommit n job i chain s) := by
  unfold execBookCommit
  extract_lets +onlyGivenNames s1 e answer
  have h1 : Keeps s0 s1 := keeps_ite (fun _ => heardFrom_keeps _ _ hk) (fun _ => hk)
  have ha : ∀ t ok, Keeps s0 t → Keeps s0 (answer t ok) := fun t ok h => sendCtl_keeps _ _ _ _ h
  clear_value answer
  refine keepsOut_ite (fun _ => h1) (fun _ => keepsOut_ite (fun _ => ?_) (fun _ => keepsOut_ite (fun _ => ?_) (fun _ => ?_)))
  · refine keepsOut_ite (fun _ => ?_) (fun _ => h1)
    exact keepsOut_next (setQue_keeps _ _ _ (setWork_keeps _ _ _ (setEntry_keeps _ _ _ (releaseBookings_keeps _ _ h1))))
  · have h2 : ∀ w, Keeps s0 (setWork s1 i.val w) := fun w => setWork_keeps _ _ _ h1
    have h3 := h2 { workOf s1 i.val with chain := [] }
    extract_lets
    split
    · exact keepsOut_next (ha _ _ h3)
    · exact keepsOut_next (ha _ _ (takeChain_keeps _ _ _ _ h3))
  · refine keepsOut_ite (fun _ => keepsOut_next (ha _ _ h1)) (fun _ => ?_)
    split
    · exact keepsOut_next (ha _ _ h1)
    · split
      · exact keepsOut_next (ha _ _ h1)
      · exact keepsOut_next (ha _ _ (keepsP_fst (chainAdmit_keeps _ _ _ _ _ (setQue_keeps _ _ _ h1))))

theorem askedAnew_keeps {s0 : State} (s : State) (job : Nat) (hk : Keeps s0 s) :
    Keeps s0 (askedAnew s job) := by
  unfold askedAnew
  repeat' (first
    | with_reducible assumption
    | with_reducible intro _
    | (extract_lets +onlyGivenNames xv; first
      | (refine keeps_cut (P := Keeps s0 xv) ?_ (fun _ => ?_); unfold xv; clear xv; rotate_left; clear_value xv; rotate_left)
      | (refine keeps_cut (P := KeepsOpt s0 xv) ?_ (fun _ => ?_); unfold xv; clear xv; rotate_left; clear_value xv; rotate_left)
      | clear_value xv
      | (unfold xv; clear xv))
    | with_reducible apply jointStart_keeps
    | split)

theorem execBookAck_keeps {s0 : State} (n : NodeId) (job : BitVec 18) (ok : Bool) (s : State) (hk : Keeps s0 s) :
    KeepsOut s0 (execBookAck n job ok s) := by
  unfold execBookAck
  extract_lets +onlyGivenNames s1
  have h1 : Keeps s0 s1 := keeps_ite (fun _ => heardFrom_keeps _ _ hk) (fun _ => hk)
  split
  · exact keepsOut_next (keeps_ite (fun _ => h1) (fun _ => askedAnew_keeps _ _ h1))
  · refine keepsOut_ite (fun _ => keepsOut_next (jointFail_keeps _ _ h1)) (fun _ => ?_)
    extract_lets +onlyGivenNames j'
    refine keepsOut_ite (fun _ => keepsOut_next (keeps_same h1 rfl rfl rfl rfl rfl rfl)) (fun _ => ?_)
    extract_lets +onlyGivenNames s2
    have h2 : Keeps s0 s2 := keeps_same h1 rfl rfl rfl rfl rfl rfl
    refine keepsOut_ite (fun _ => keepsOut_next (takeChain_keeps _ _ _ _ h2)) (fun _ => ?_)
    split
    · exact h2
    · extract_lets +onlyGivenNames r
      have hr : Keeps s0 r.1 := keepsP_fst (chainAdmit_keeps _ _ _ _ _ h2)
      clear_value r
      exact keepsOut_next (keeps_ite (fun _ => hr) (fun _ => keeps_foldl _ hr (fun _ _ h => sendCtl_keeps _ _ _ _ h)))

theorem takeGrant_keeps {s0 : State} (s : State) (lender borrower : NodeId) (watts window : Nat) (hk : Keeps s0 s) :
    Keeps s0 (takeGrant s lender borrower watts window) := by
  unfold takeGrant
  repeat' (first
    | with_reducible assumption
    | (extract_lets +onlyGivenNames xv; first
      | (refine keeps_cut (P := Keeps s0 xv) ?_ (fun _ => ?_); unfold xv; clear xv; rotate_left; clear_value xv; rotate_left)
      | clear_value xv)
    | with_reducible apply capChange_keeps
    | split
    | (simp -zeta only [↓keeps_mk]; with_reducible refine keeps_upd ?_))

theorem sendGrant_keeps {s0 : State} (s : State) (g : NodeId × NodeId × Nat) (window : Nat) (hk : Keeps s0 s) :
    Keeps s0 (sendGrant s g window) := by
  unfold sendGrant
  repeat' (first
    | with_reducible assumption
    | (extract_lets +onlyGivenNames xv; clear_value xv)
    | with_reducible apply sendCtl_keeps
    | with_reducible apply takeGrant_keeps
    | with_reducible refine keeps_foldl _ ?_ (fun _ _ _ => ?_)
    | split)

theorem takeStatus_keeps {s0 : State} (s : State) (m : Member) (window : Nat) (hk : Keeps s0 s) :
    Keeps s0 (takeStatus s m window) := by
  unfold takeStatus
  repeat' (first
    | with_reducible assumption
    | with_reducible intro _
    | (extract_lets +onlyGivenNames xv; first
      | (refine keeps_cut (P := Keeps s0 xv) ?_ (fun _ => ?_); unfold xv; clear xv; rotate_left; clear_value xv; rotate_left)
      | clear_value xv
      | (unfold xv; clear xv))
    | with_reducible apply sendGrant_keeps
    | with_reducible refine keeps_foldl _ ?_ (fun _ _ _ => ?_)
    | with_reducible refine keeps_foldlP _ ?_ (fun _ _ _ => ?_)
    | split
    | (simp -zeta only [↓keeps_mk]; with_reducible refine keeps_upd ?_))

theorem execPowerStatus_keeps {s0 : State} (n : NodeId) (shard capW lendMax waitShare : Nat) (s : State) (hk : Keeps s0 s) :
    KeepsOut s0 (execPowerStatus n shard capW lendMax waitShare s) := by
  unfold execPowerStatus
  repeat' (first
    | with_reducible assumption
    | (extract_lets +onlyGivenNames xv; first
      | (refine keeps_cut (P := Keeps s0 xv) ?_ (fun _ => ?_); unfold xv; clear xv; rotate_left; clear_value xv; rotate_left)
      | (refine keeps_cut (P := KeepsOpt s0 xv) ?_ (fun _ => ?_); unfold xv; clear xv; rotate_left; clear_value xv; rotate_left)
      | clear_value xv
      | (unfold xv; clear xv))
    | with_reducible refine keepsOut_next ?_
    | with_reducible exact keepsOut_fault _
    | with_reducible exact keepsOut_refused _
    | with_reducible apply heardFrom_keeps
    | with_reducible apply takeStatus_keeps
    | split)

theorem execPowerGrant_keeps {s0 : State} (lender borrower : NodeId) (watts window : Nat) (s : State) (hk : Keeps s0 s) :
    KeepsOut s0 (execPowerGrant lender borrower watts window s) := by
  unfold execPowerGrant
  repeat' (first
    | with_reducible assumption
    | (extract_lets +onlyGivenNames xv; refine keeps_cut (P := Keeps s0 xv) ?_ (fun _ => ?_); unfold xv; clear xv; rotate_left; clear_value xv; rotate_left)
    | with_reducible refine keepsOut_next ?_
    | with_reducible apply heardFrom_keeps
    | with_reducible apply takeGrant_keeps
    | split)

end Sys2Proof.Machine
end

