-- ==== Sys2Proof/Laws/WorkKeeps.lean ====
section
/-! SUPPORT. What the definitions of Machine/Work.lean keep (Laws/Keeps.lean). -/

namespace Sys2Proof.Machine

theorem execWorkItemComplete_keeps {s0 : State} (item : Nat) (s : State) (hk : Keeps s0 s) :
    KeepsOut s0 (execWorkItemComplete item s) := by
  unfold execWorkItemComplete
  repeat' (first
    | with_reducible assumption
    | with_reducible intro _
    | (extract_lets +onlyGivenNames xv; first
      | (refine keeps_cut (P := Keeps s0 xv) ?_ (fun _ => ?_); unfold xv; clear xv; rotate_left; clear_value xv; rotate_left)
      | (refine keeps_cut (P := KeepsOpt s0 xv) ?_ (fun _ => ?_); unfold xv; clear xv; rotate_left; clear_value xv; rotate_left)
      | clear_value xv
      | (unfold xv; clear xv))
    | with_reducible refine keepsOut_next ?_
    | with_reducible exact keepsOut_fault _
    | with_reducible exact keepsOut_refused _
    | with_reducible apply setItem_keeps
    | with_reducible apply meterArrays_keeps
    | with_reducible apply setArr_keeps
    | with_reducible apply idle_keeps
    | with_reducible refine keeps_foldl _ ?_ (fun _ _ _ => ?_)
    | with_reducible refine keeps_foldlP _ ?_ (fun _ _ _ => ?_)
    | split)

theorem failWith_keeps {s0 : State} (s : State) (i status code : Nat) (hk : Keeps s0 s) :
    Keeps s0 (failWith s i status code) := by
  unfold failWith
  repeat' (first
    | with_reducible assumption
    | (extract_lets +onlyGivenNames xv; first
      | (refine keeps_cut (P := Keeps s0 xv) ?_ (fun _ => ?_); unfold xv; clear xv; rotate_left; clear_value xv; rotate_left)
      | clear_value xv
      | (unfold xv; clear xv))
    | with_reducible apply liftStop_keeps
    | with_reducible apply cutEntryItems_keeps
    | with_reducible apply poisonFall_keeps
    | with_reducible apply failQuiet_keeps
    | with_reducible apply failRequest_keeps
    | split)

theorem cutAtTick_keeps {s0 : State} (s : State) (w : ItemRun) (hk : Keeps s0 s) :
    Keeps s0 (cutAtTick s w) := by
  unfold cutAtTick
  repeat' (first
    | with_reducible assumption
    | (extract_lets +onlyGivenNames xv; refine keeps_cut (P := Keeps s0 xv) ?_ (fun _ => ?_); unfold xv; clear xv; rotate_left; clear_value xv; rotate_left)
    | with_reducible apply cutItem_keeps
    | with_reducible apply discardDescs_keeps
    | with_reducible apply logFault_keeps
    | with_reducible apply regBump_keeps
    | split)

theorem chargeLeft_keeps {s0 : State} (s : State) (i : Nat) (l : Left) (hk : Keeps s0 s) :
    Keeps s0 (chargeLeft s i l) := by
  unfold chargeLeft
  repeat' (first
    | with_reducible assumption
    | with_reducible intro _
    | (extract_lets +onlyGivenNames xv; first
      | (refine keeps_cut (P := Keeps s0 xv) ?_ (fun _ => ?_); unfold xv; clear xv; rotate_left; clear_value xv; rotate_left)
      | (refine keeps_cut (P := KeepsOpt s0 xv) ?_ (fun _ => ?_); unfold xv; clear xv; rotate_left; clear_value xv; rotate_left)
      | clear_value xv
      | (unfold xv; clear xv))
    | with_reducible apply noteCause_keeps
    | with_reducible apply setWork_keeps
    | with_reducible refine keeps_foldl _ ?_ (fun _ _ _ => ?_)
    | with_reducible refine keeps_foldlP _ ?_ (fun _ _ _ => ?_)
    | split)

theorem copyStep_keeps {s0 : State} (s : State) (i : Nat) (hk : Keeps s0 s) :
    Keeps s0 (copyStep s i) := by
  unfold copyStep
  repeat' (first
    | with_reducible assumption
    | with_reducible intro _
    | (extract_lets +onlyGivenNames xv; first
      | (refine keeps_cut (P := Keeps s0 xv) ?_ (fun _ => ?_); unfold xv; clear xv; rotate_left; clear_value xv; rotate_left)
      | (refine keeps_cut (P := KeepsOpt s0 xv) ?_ (fun _ => ?_); unfold xv; clear xv; rotate_left; clear_value xv; rotate_left)
      | clear_value xv
      | (unfold xv; clear xv))
    | with_reducible apply setWork_keeps
    | with_reducible apply touchAll_keeps
    | with_reducible apply failWith_keeps
    | with_reducible apply removeSubtree_keeps
    | with_reducible apply ensureBlocks_keeps
    | with_reducible apply devWrite_keeps
    | with_reducible apply setEntry_keeps
    | with_reducible apply setValid_keeps
    | with_reducible apply putBlock_keeps
    | with_reducible refine keeps_foldl _ ?_ (fun _ _ _ => ?_)
    | with_reducible refine keeps_foldlP _ ?_ (fun _ _ _ => ?_)
    | split)

theorem settleEntry_keeps {s0 : State} (s : State) (i : Nat) (hk : Keeps s0 s) :
    Keeps s0 (settleEntry s i) := by
  unfold settleEntry
  repeat' (first
    | with_reducible assumption
    | (extract_lets +onlyGivenNames xv; first
      | (refine keeps_cut (P := Keeps s0 xv) ?_ (fun _ => ?_); unfold xv; clear xv; rotate_left; clear_value xv; rotate_left)
      | clear_value xv)
    | with_reducible apply chargeLeft_keeps
    | with_reducible apply cutAtTick_keeps
    | with_reducible apply failWith_keeps
    | with_reducible apply setWork_keeps
    | with_reducible refine keeps_foldl _ ?_ (fun _ _ _ => ?_)
    | split
    | (simp -zeta only [↓keeps_mk]; with_reducible refine keeps_upd ?_))

theorem failRound_keeps {s0 : State} (s : State) (r : Round) (status code : Nat) (hk : Keeps s0 s) :
    Keeps s0 (failRound s r status code) := by
  unfold failRound
  repeat' (first
    | with_reducible assumption
    | with_reducible intro _
    | (extract_lets +onlyGivenNames xv; first
      | (refine keeps_cut (P := Keeps s0 xv) ?_ (fun _ => ?_); unfold xv; clear xv; rotate_left; clear_value xv; rotate_left)
      | clear_value xv
      | (unfold xv; clear xv))
    | with_reducible apply regBump_keeps
    | with_reducible apply failWith_keeps
    | with_reducible refine keeps_foldl _ ?_ (fun _ _ _ => ?_)
    | with_reducible refine keeps_foldlP _ ?_ (fun _ _ _ => ?_)
    | split
    | with_reducible refine keepsP_fst ?_
    | (simp -zeta only [↓keeps_mk]; with_reducible refine keeps_upd ?_))

theorem settleRound_keeps {s0 : State} (s : State) (r : Round) (hk : Keeps s0 s) :
    Keeps s0 (settleRound s r) := by
  unfold settleRound
  repeat' (first
    | with_reducible assumption
    | with_reducible intro _
    | (extract_lets +onlyGivenNames xv; first
      | (refine keeps_cut (P := Keeps s0 xv) ?_ (fun _ => ?_); unfold xv; clear xv; rotate_left; clear_value xv; rotate_left)
      | (refine keeps_cut (P := KeepsOpt s0 xv) ?_ (fun _ => ?_); unfold xv; clear xv; rotate_left; clear_value xv; rotate_left)
      | clear_value xv
      | (unfold xv; clear xv))
    | with_reducible apply cutAtTick_keeps
    | with_reducible apply chargeLeft_keeps
    | with_reducible apply failRound_keeps
    | with_reducible apply setRound_keeps
    | with_reducible refine keeps_foldl _ ?_ (fun _ _ _ => ?_)
    | with_reducible refine keeps_foldlP _ ?_ (fun _ _ _ => ?_)
    | split
    | (simp -zeta only [↓keeps_mk]; with_reducible refine keeps_upd ?_))

theorem overrun_keeps {s0 : State} (s : State) (r : Round) (hk : Keeps s0 s) :
    Keeps s0 (overrun s r) := by
  unfold overrun
  repeat' (first
    | with_reducible assumption
    | (extract_lets +onlyGivenNames xv; first
      | (refine keeps_cut (P := Keeps s0 xv) ?_ (fun _ => ?_); unfold xv; clear xv; rotate_left; clear_value xv; rotate_left)
      | clear_value xv)
    | with_reducible apply makeLate_keeps
    | with_reducible apply setRound_keeps
    | with_reducible refine keeps_foldl _ ?_ (fun _ _ _ => ?_)
    | split)

theorem tickCommit_keeps {s0 : State} (s : State) (i : Nat) (hk : Keeps s0 s) : Keeps s0 (tickCommit s i) := by
  unfold tickCommit
  exact keeps_ite (fun _ => copyStep_keeps _ _ hk) (fun _ => keeps_ite (fun _ => commitChunk_keeps _ _ hk)
    (fun _ => keeps_ite (fun _ => commitResow_keeps _ _ hk) (fun _ => hk)))

theorem tickRound_keeps {s0 : State} (s : State) (n : Nat) (hk : Keeps s0 s) : Keeps s0 (tickRound s n) := by
  unfold tickRound
  extract_lets s1
  have h1 : Keeps s0 s1 := by
    unfold s1
    split
    · split
      · exact sampleRound_keeps _ _ hk
      · exact hk
    · exact hk
  clear_value s1
  split
  · split
    · exact commitRound_keeps _ _ h1
    · exact h1
  · exact h1

theorem lateWhereShort_keeps {s0 : State} (s : State) (i : Nat) (hk : Keeps s0 s) :
    Keeps s0 (lateWhereShort s i) := by
  unfold lateWhereShort
  repeat' (first
    | with_reducible assumption
    | with_reducible apply makeLate_keeps
    | split)

theorem finishItems_keeps {s0 : State} (s : State) (hk : Keeps s0 s) :
    Keeps s0 (finishItems s) := by
  unfold finishItems
  repeat' (first
    | with_reducible assumption
    | with_reducible apply setItem_keeps
    | with_reducible refine keeps_foldl _ ?_ (fun _ _ _ => ?_)
    | split)

theorem settleAll_keeps {s0 : State} (s : State) (es rs : List Nat) (named : Bool) (hk : Keeps s0 s) :
    Keeps s0 (settleAll s es rs named) := by
  unfold settleAll
  extract_lets s1
  have h1 : Keeps s0 s1 := keeps_foldl _ hk (fun t p ht => by
    split
    · exact settleEntry_keeps _ _ ht
    · exact ht)
  clear_value s1
  refine keeps_foldl _ h1 (fun t p ht => ?_)
  split
  · split
    · exact settleRound_keeps _ _ ht
    · exact ht
  · exact ht

theorem settle_keeps {s0 : State} (s : State) (hk : Keeps s0 s) :
    Keeps s0 (settle s) := by
  unfold settle
  repeat' (first
    | with_reducible assumption
    | with_reducible intro _
    | (extract_lets +onlyGivenNames xv; first
      | (refine keeps_cut (P := Keeps s0 xv) ?_ (fun _ => ?_); unfold xv; clear xv; rotate_left; clear_value xv; rotate_left)
      | (refine keeps_cut (P := KeepsOpt s0 xv) ?_ (fun _ => ?_); unfold xv; clear xv; rotate_left; clear_value xv; rotate_left)
      | clear_value xv
      | (unfold xv; clear xv))
    | with_reducible apply finishItems_keeps
    | with_reducible apply meterItems_keeps
    | with_reducible apply settleAll_keeps
    | with_reducible apply tickCommit_keeps
    | with_reducible apply tickRound_keeps
    | with_reducible apply overrun_keeps
    | with_reducible apply forLds_keeps
    | with_reducible apply tenantResetTick_keeps
    | with_reducible refine keeps_foldl _ ?_ (fun _ _ _ => ?_)
    | with_reducible refine keeps_foldlP _ ?_ (fun _ _ _ => ?_)
    | split
    | (simp -zeta only [↓keeps_mk]; with_reducible refine keeps_upd ?_))

end Sys2Proof.Machine
end

