-- ==== Sys2Proof/Laws/SowKeeps.lean ====
section
/-! SUPPORT. What the definitions of Machine/Sow.lean keep (Laws/Keeps.lean). -/

namespace Sys2Proof.Machine

theorem takeLane_keeps {s0 : State} (s : State) (i f : Nat) (hk : Keeps s0 s) :
    Keeps s0 (takeLane s i f) := by
  unfold takeLane
  repeat' (first
    | with_reducible assumption
    | (extract_lets +onlyGivenNames xv; clear_value xv)
    | with_reducible apply setWork_keeps)

theorem beginRound_keeps {s0 : State} (s : State) (r : Round) (hk : Keeps s0 s) :
    Keeps s0 (beginRound s r) := by
  unfold beginRound
  repeat' (first
    | with_reducible assumption
    | with_reducible apply setRound_keeps
    | split)

theorem deferWork_keeps {s0 : State} (s : State) (x : SowWork) (cause : Nat) (hk : Keeps s0 s) :
    Keeps s0 (deferWork s x cause) := by
  unfold deferWork
  repeat' (first
    | with_reducible assumption
    | (extract_lets +onlyGivenNames xv; first
      | (refine keeps_cut (P := Keeps s0 xv) ?_ (fun _ => ?_); unfold xv; clear xv; rotate_left; clear_value xv; rotate_left)
      | clear_value xv)
    | with_reducible apply lateWhereShort_keeps
    | with_reducible apply noteCause_keeps
    | with_reducible apply regBump_keeps
    | with_reducible apply setRound_keeps
    | with_reducible apply setWork_keeps
    | with_reducible refine keeps_foldl _ ?_ (fun _ _ _ => ?_)
    | split)

theorem bindMgen_keeps {s0 : State} (s : State) (i tokens : Nat) (hk : Keeps s0 s) : KeepsP s0 (bindMgen s i tokens) := by
  unfold bindMgen
  split
  · exact keepsP_mk hk
  · split
    · exact keepsP_mk hk
    · exact keepsP_mk (keeps_same hk rfl rfl rfl rfl rfl rfl)

theorem tickArray_keeps {s0 : State} (s : State) (a : ArrId) (hk : Keeps s0 s) :
    Keeps s0 (tickArray s a) := by
  unfold tickArray
  repeat' (first
    | with_reducible assumption
    | with_reducible intro _
    | (extract_lets +onlyGivenNames xv; first
      | (refine keeps_cut (P := Keeps s0 xv) ?_ (fun _ => ?_); unfold xv; clear xv; rotate_left; clear_value xv; rotate_left)
      | clear_value xv
      | (unfold xv; clear xv))
    | with_reducible apply abandonArray_keeps
    | with_reducible apply setArr_keeps
    | with_reducible apply idle_keeps
    | split)

theorem startArray_keeps {s0 : State} (s : State) (id : Nat) (rd : Rd) (r : WorkRec) (a : ArrId) (hk : Keeps s0 s) :
    Keeps s0 (startArray s id rd r a) := by
  unfold startArray
  repeat' (first
    | with_reducible assumption
    | (extract_lets +onlyGivenNames xv; clear_value xv)
    | with_reducible apply setArr_keeps)

theorem queueList_keeps {s0 : State} (s : State) (id : Nat) (f : FeId) (ds : List Desc) (hk : Keeps s0 s) :
    Keeps s0 (queueList s id f ds) := by
  unfold queueList
  repeat' (first
    | with_reducible assumption
    | (extract_lets +onlyGivenNames xv; clear_value xv)
    | with_reducible apply setFe_keeps)

theorem queueScratch_keeps {s0 : State} (s : State) (id : Nat) (f : FeId) (at_ n : Nat) (hk : Keeps s0 s) :
    Keeps s0 (queueScratch s id f at_ n) := by
  unfold queueScratch
  repeat' (first
    | with_reducible assumption
    | with_reducible intro _
    | (extract_lets +onlyGivenNames xv; first
      | (refine keeps_cut (P := Keeps s0 xv) ?_ (fun _ => ?_); unfold xv; clear xv; rotate_left; clear_value xv; rotate_left)
      | (refine keeps_cut (P := KeepsOpt s0 xv) ?_ (fun _ => ?_); unfold xv; clear xv; rotate_left; clear_value xv; rotate_left)
      | clear_value xv
      | (unfold xv; clear xv))
    | with_reducible apply setFe_keeps)

theorem imageTouch_keeps {s0 : State} (s : State) (h off n : Nat) (hk : Keeps s0 s) :
    Keeps s0 (imageTouch s h off n) := by
  unfold imageTouch
  repeat' (first
    | with_reducible assumption
    | with_reducible apply workRead_keeps
    | with_reducible refine keeps_foldl _ ?_ (fun _ _ _ => ?_))

theorem startItem_keeps {s0 : State} (s : State) (it : SowItem) (leader : Nat) (engines : List Nat) (bar : Nat)
    (hk : Keeps s0 s) : Keeps s0 (startItem s it leader engines bar) := by
  unfold startItem
  extract_lets +onlyGivenNames rd r mg s1 id w parts s2 bad
  have hm : KeepsP s0 mg := keepsP_ite (fun _ => bindMgen_keeps _ _ _ hk) (fun _ => keepsP_mk hk)
  have h1 : Keeps s0 s1 := keepsP_fst hm
  have h2 : Keeps s0 s2 := keeps_foldl _ h1 (fun _ _ h => imageTouch_keeps _ _ _ _ h)
  clear_value s2 w
  refine keeps_ite (fun _ => ?_) (fun _ => ?_)
  · exact logItem_keeps _ _ _ _ _ _
      (keeps_same (keeps_foldl bad h2 (fun _ p h => damageFrame_keeps _ (p / 65536) h)) rfl rfl rfl rfl rfl rfl)
  · extract_lets +onlyGivenNames s3 s4
    have h3 : Keeps s0 s3 := keeps_same h2 rfl rfl rfl rfl rfl rfl
    have h4 : Keeps s0 s4 := keeps_foldl _ h3 (fun _ _ h => startArray_keeps _ _ _ _ _ h)
    clear_value s4
    refine keeps_foldl _ h4 (fun _ _ h => ?_)
    split
    · exact keeps_ite (fun _ => queueScratch_keeps _ _ _ _ _ h) (fun _ => queueList_keeps _ _ _ _ h)
    · exact queueList_keeps _ _ _ _ h

theorem startWork_keeps {s0 : State} (put : List (Nat × SowItem × Nat)) (acc : State × Nat) (x : Nat × SowWork)
    (hk : KeepsP s0 acc) : KeepsP s0 (startWork put acc x) := by
  unfold startWork
  extract_lets +onlyGivenNames mine r
  have hr : KeepsP s0 r := keeps_foldlP _ (keepsP_mk (keepsP_fst hk)) (fun _ _ h => by
    exact keepsP_mk (startItem_keeps _ _ _ _ _ (keepsP_fst h)))
  exact keepsP_mk (keepsP_fst hr)

theorem openWork_keeps {s0 : State} (s : State) (x : SowWork) (hk : Keeps s0 s) :
    Keeps s0 (openWork s x) := by
  unfold openWork
  repeat' (first
    | with_reducible assumption
    | (extract_lets +onlyGivenNames xv; clear_value xv)
    | with_reducible apply openBlocks_keeps
    | with_reducible refine keeps_foldl _ ?_ (fun _ _ _ => ?_)
    | split)

theorem noteStarted_keeps {s0 : State} (s : State) (x : SowWork) (hk : Keeps s0 s) :
    Keeps s0 (noteStarted s x) := by
  unfold noteStarted
  repeat' (first
    | with_reducible assumption
    | (extract_lets +onlyGivenNames xv; first
      | (refine keeps_cut (P := Keeps s0 xv) ?_ (fun _ => ?_); unfold xv; clear xv; rotate_left; clear_value xv; rotate_left)
      | clear_value xv)
    | with_reducible apply regBump_keeps
    | with_reducible apply setEntry_keeps
    | with_reducible apply setRound_keeps
    | with_reducible apply setWork_keeps
    | split)

theorem releaseLanes_keeps {s0 : State} (s : State) (i : Nat) (hk : Keeps s0 s) :
    Keeps s0 (releaseLanes s i) := by
  unfold releaseLanes
  repeat' (first
    | with_reducible assumption
    | (extract_lets +onlyGivenNames xv; clear_value xv)
    | with_reducible apply setWork_keeps)

theorem gatherWork_keeps {s0 : State} (s : State) (f : Nat) (hk : Keeps s0 s) : KeepsP s0 (gatherWork s f) := by
  unfold gatherWork
  extract_lets +onlyGivenNames rs s1 a
  have h1 : Keeps s0 s1 := keeps_foldl _ hk (fun _ _ h => beginRound_keeps _ _ h)
  have ha : KeepsP s0 a := keeps_foldlP _ (keepsP_mk h1) (fun acc _ h => by
    split
    · rename_i r l _ _
      have h2 := setRound_keeps _ { r with lanes := r.lanes.filter (fun l => l.furrow != f) } (keepsP_fst h)
      refine keepsP_ite (fun _ => keepsP_mk (keeps_same h2 rfl rfl rfl rfl rfl rfl)) (fun _ => ?_)
      split
      · exact keepsP_mk h2
      · exact keepsP_mk h2
    · exact h)
  refine keeps_foldlP _ ha (fun acc p h => ?_)
  have h2 := takeLane_keeps _ p.1 f (keepsP_fst h)
  extract_lets +onlyGivenNames s2
  split
  · exact keepsP_mk h2
  · exact keepsP_mk (releaseLanes_keeps _ _ h2)

theorem sow_keeps {s0 : State} (s : State) (f : Nat) (hk : Keeps s0 s) : Keeps s0 (sow s f) := by
  unfold sow
  extract_lets +onlyGivenNames g works s1 go wait s2 go2 p gone s3 run s4 s5
  have hg : KeepsP s0 g := gatherWork_keeps _ _ hk
  have h1 : Keeps s0 s1 := keeps_foldl _ (keepsP_fst hg) (fun _ _ h => keeps_ite (fun _ => h) (fun _ => deferWork_keeps _ _ _ h))
  have h2 : Keeps s0 s2 := keeps_foldl _ h1 (fun _ _ h => keeps_ite (fun _ => deferWork_keeps _ _ _ h) (fun _ => h))
  have h3 : Keeps s0 s3 := keeps_foldl _ h2 (fun _ _ h => keeps_ite (fun _ => deferWork_keeps _ _ _ h) (fun _ => h))
  have h4 : Keeps s0 s4 := keeps_foldl _ h3 (fun _ _ h => openWork_keeps _ _ (noteStarted_keeps _ _ h))
  have h5 : Keeps s0 s5 := keepsP_fst (keeps_foldlP _ (keepsP_mk h4) (fun _ _ h => startWork_keeps _ _ _ h))
  exact forFes_keeps _ _ h5 (fun _ _ h => setFe_keeps _ _ _ h)

theorem tickUnits_keeps {s0 : State} (s : State) (hk : Keeps s0 s) :
    Keeps s0 (tickUnits s) := by
  unfold tickUnits
  repeat' (first
    | with_reducible assumption
    | with_reducible intro _
    | (extract_lets +onlyGivenNames xv; first
      | (refine keeps_cut (P := Keeps s0 xv) ?_ (fun _ => ?_); unfold xv; clear xv; rotate_left; clear_value xv; rotate_left)
      | clear_value xv)
    | with_reducible apply copyTrap_keeps
    | with_reducible apply forArrays_keeps
    | with_reducible apply forFes_keeps
    | with_reducible apply setFe_keeps
    | with_reducible apply showFault_keeps
    | with_reducible apply tickArray_keeps
    | (simp -zeta only [↓keeps_mk]; with_reducible refine keeps_upd ?_))

theorem applyHeld_keeps {s0 : State} (s : State) (hk : Keeps s0 s) :
    Keeps s0 (applyHeld s) := by
  unfold applyHeld
  repeat' (first
    | with_reducible assumption
    | (extract_lets +onlyGivenNames xv; clear_value xv)
    | with_reducible apply applyNotify_keeps
    | with_reducible refine keeps_foldl _ ?_ (fun _ _ _ => ?_)
    | (simp -zeta only [↓keeps_mk]; with_reducible refine keeps_upd ?_))

end Sys2Proof.Machine
end

