-- ==== Sys2Proof/Laws/HeadlandKeeps.lean ====
section
/-! SUPPORT. What the definitions of Machine/Headland.lean keep (Laws/Keeps.lean). -/

namespace Sys2Proof.Machine

/-- The state that a rebooking carries keeps. -/
def KeepsRb (s0 : State) (x : Rebook) : Prop := Keeps s0 x.s

theorem keepsRb_mk {s0 s : State} {d : List ((Nat × Nat) × Nat)} {b : Bool} (h : Keeps s0 s) :
    KeepsRb s0 { s := s, delays := d, ok := b } := h
theorem keepsRb_s {s0 : State} {x : Rebook} (h : KeepsRb s0 x) : Keeps s0 x.s := h
theorem keeps_foldlRb {α : Type} {s0 : State} {p : Rebook} {f : Rebook → α → Rebook} (l : List α)
    (h : KeepsRb s0 p) (hf : ∀ t x, KeepsRb s0 t → KeepsRb s0 (f t x)) : KeepsRb s0 (l.foldl f p) := by
  induction l generalizing p with
  | nil => exact h
  | cons x r ih => exact ih (hf p x h)

theorem cancelEntry_keeps {s0 : State} (s : State) (i : Nat) (hk : Keeps s0 s) :
    Keeps s0 (cancelEntry s i) := by
  unfold cancelEntry
  repeat' (first
    | with_reducible assumption
    | (extract_lets +onlyGivenNames xv; first
      | (refine keeps_cut (P := Keeps s0 xv) ?_ (fun _ => ?_); unfold xv; clear xv; rotate_left; clear_value xv; rotate_left)
      | clear_value xv)
    | with_reducible apply cutEntryItems_keeps
    | with_reducible apply dropBlocks_keeps
    | with_reducible apply dropNodes_keeps
    | with_reducible apply endRequest_keeps
    | with_reducible apply regBump_keeps
    | with_reducible apply setWork_keeps
    | (simp -zeta only [↓keeps_mk]; with_reducible refine keeps_upd ?_))

theorem applyCancels_keeps {s0 : State} (s : State) (hk : Keeps s0 s) :
    Keeps s0 (applyCancels s) := by
  unfold applyCancels
  repeat' (first
    | with_reducible assumption
    | (extract_lets +onlyGivenNames xv; clear_value xv)
    | with_reducible apply cancelEntry_keeps
    | with_reducible refine keeps_foldl _ ?_ (fun _ _ _ => ?_)
    | split)

theorem returnPages_keeps {s0 : State} (s : State) (i : Nat) (hk : Keeps s0 s) :
    Keeps s0 (returnPages s i) := by
  unfold returnPages
  repeat' (first
    | with_reducible assumption
    | (extract_lets +onlyGivenNames xv; first
      | (refine keeps_cut (P := Keeps s0 xv) ?_ (fun _ => ?_); unfold xv; clear xv; rotate_left; clear_value xv; rotate_left)
      | clear_value xv)
    | with_reducible apply dropBlocks_keeps
    | with_reducible apply releaseGone_keeps
    | with_reducible apply setWork_keeps
    | split)

theorem releasePages_keeps {s0 : State} (s : State) (hk : Keeps s0 s) :
    Keeps s0 (releasePages s) := by
  unfold releasePages
  repeat' (first
    | with_reducible assumption
    | with_reducible intro _
    | (extract_lets +onlyGivenNames xv; refine keeps_cut (P := Keeps s0 xv) ?_ (fun _ => ?_); unfold xv; clear xv; rotate_left; clear_value xv; rotate_left)
    | with_reducible apply forLds_keeps
    | with_reducible apply freeEntry_keeps
    | with_reducible apply reapAdapters_keeps
    | with_reducible apply reapPages_keeps
    | with_reducible apply reapWorkAreas_keeps
    | with_reducible apply returnPages_keeps
    | with_reducible apply tenantResetHeadland_keeps
    | with_reducible refine keeps_foldl _ ?_ (fun _ _ _ => ?_)
    | split)

theorem headlandGrants_keeps {s0 : State} (s : State) (hk : Keeps s0 s) :
    Keeps s0 (headlandGrants s) := by
  unfold headlandGrants
  repeat' (first
    | with_reducible assumption
    | (extract_lets +onlyGivenNames xv; first
      | (refine keeps_cut (P := Keeps s0 xv) ?_ (fun _ => ?_); unfold xv; clear xv; rotate_left; clear_value xv; rotate_left)
      | clear_value xv)
    | with_reducible apply regSet_keeps
    | (simp -zeta only [↓keeps_mk]; with_reducible refine keeps_upd ?_))

theorem clearCalendar_keeps {s0 : State} (s : State) (hk : Keeps s0 s) :
    Keeps s0 (clearCalendar s) := by
  unfold clearCalendar
  repeat' (first
    | with_reducible assumption
    | (simp -zeta only [↓keeps_mk]; with_reducible refine keeps_upd ?_))

theorem rebookRound_keeps {s0 : State} (f : Nat) (x : Rebook) (r : Round) (hk : KeepsRb s0 x) :
    KeepsRb s0 (rebookRound f x r) := by
  unfold rebookRound
  extract_lets +onlyGivenNames s key rd m p begun n want why
  have h : Keeps s0 s := keepsRb_s hk
  clear_value s
  split
  · exact keepsRb_mk (keeps_foldl _ (setRound_keeps _ _ h) (fun _ _ h => makeLate_keeps _ _ _ h))
  · extract_lets +onlyGivenNames pr s1 past s2
    have h1 : Keeps s0 s1 := setRound_keeps _ _ h
    clear_value s1
    refine keepsRb_mk (keeps_foldl _ h1 (fun t i ht => ?_))
    exact jrnlAdmit_keeps _ _ (setEntry_keeps _ _ _ (makeLate_keeps _ _ _ ht))

theorem dropPassed_keeps {s0 : State} (s : State) (from_ : Nat) (hk : Keeps s0 s) :
    Keeps s0 (dropPassed s from_) := by
  unfold dropPassed
  repeat' (first
    | with_reducible assumption
    | with_reducible intro _
    | (extract_lets +onlyGivenNames xv; first
      | (refine keeps_cut (P := Keeps s0 xv) ?_ (fun _ => ?_); unfold xv; clear xv; rotate_left; clear_value xv; rotate_left)
      | clear_value xv
      | (unfold xv; clear xv))
    | split
    | (simp -zeta only [↓keeps_mk]; with_reducible refine keeps_upd ?_))

theorem dropEarlySeats_keeps {s0 : State} (s : State) (i : Nat) (hk : Keeps s0 s) :
    Keeps s0 (dropEarlySeats s i) := by
  unfold dropEarlySeats
  repeat' (first
    | with_reducible assumption
    | (extract_lets +onlyGivenNames xv; clear_value xv)
    | split
    | (simp -zeta only [↓keeps_mk]; with_reducible refine keeps_upd ?_))

theorem addSeats_keeps {s0 : State} (f : Nat) (s : State) (i : Nat) (hk : Keeps s0 s) : KeepsP s0 (addSeats f s i) := by
  unfold addSeats
  extract_lets +onlyGivenNames s1 e n
  have h1 : Keeps s0 s1 := dropEarlySeats_keeps _ _ hk
  clear_value s1 e n
  refine keepsP_ite (fun _ => keepsP_mk h1) (fun _ => ?_)
  extract_lets +onlyGivenNames rd m p rp last c
  clear_value rd m p rp last c
  have ht := fun e => tailSearch_keeps (s0 := s0) s1 i e m p rp 0 n (furrowsFrom s1 c) c h1
  split
  · exact keepsP_mk (makeLate_keeps _ _ _ h1)
  · rename_i t q ht2
    have h2 : Keeps s0 t := keeps_of_okP ht2 (ht _)
    refine keepsP_ite (fun _ => keepsP_mk h2) (fun _ => keepsP_mk ?_)
    exact jrnlAdmit_keeps _ _ (makeLate_keeps _ _ _ (setEntry_keeps _ _ _ h2))

theorem askShard_keeps {s0 : State} (s : State) (job : Nat) (hk : Keeps s0 s) :
    Keeps s0 (askShard s job) := by
  unfold askShard
  repeat' (first
    | with_reducible assumption
    | with_reducible intro _
    | with_reducible apply sendCtl_keeps
    | split)

theorem rebookChain_keeps {s0 : State} (f : Nat) (old : State) (x : Rebook) (i : Nat) (hk : KeepsRb s0 x) :
    KeepsRb s0 (rebookChain f old x i) := by
  unfold rebookChain
  extract_lets +onlyGivenNames s e w rd p need why
  have h : Keeps s0 s := keepsRb_s hk
  clear_value s
  split
  · extract_lets +onlyGivenNames was keep
    clear_value keep
    split
    · exact keepsRb_mk (takeChain_keeps _ _ _ _ h)
    · exact keepsRb_mk (keeps_ite (fun _ => jointStart_keeps _ _ _ _ _ _ _ h) (fun _ => askShard_keeps _ _ h))
  · split
    · exact keepsRb_mk (makeLate_keeps _ _ _ h)
    · exact keepsRb_mk (takeChain_keeps _ _ _ _ h)

theorem rebook_keeps {s0 : State} (s : State) (f : Nat) (hk : Keeps s0 s) : KeepsP s0 (rebook s f) := by
  unfold rebook
  extract_lets +onlyGivenNames rs x es before y
  have hx : KeepsRb s0 x := keeps_foldlRb _ (keepsRb_mk (clearCalendar_keeps _ hk)) (fun _ _ h => rebookRound_keeps _ _ _ h)
  have hy : KeepsRb s0 y := keeps_foldlRb _ hx (fun _ _ h => rebookChain_keeps _ _ _ _ h)
  refine keeps_foldlP _ (keepsP_mk (keepsRb_s hy)) (fun a i h => ?_)
  exact keepsP_mk (keepsP_fst (addSeats_keeps _ _ _ (keepsP_fst h)))

theorem withLen_keeps {s0 : State} (s : State) (x : Nat × Nat × Nat) (hk : Keeps s0 s) :
    Keeps s0 (withLen s x) := by
  unfold withLen
  repeat' (first
    | with_reducible assumption
    | (extract_lets +onlyGivenNames xv; clear_value xv)
    | split
    | (simp -zeta only [↓keeps_mk]; with_reducible refine keeps_upd ?_))

theorem adoptLen_keeps {s0 : State} (s : State) (f : Nat) (hk : Keeps s0 s) : Keeps s0 (adoptLen s f) := by
  unfold adoptLen
  exact keeps_ite (fun _ => hk) (fun _ => keeps_ite (fun _ => withLen_keeps _ _ hk) (fun _ => regFlag_keeps _ _ _ hk))

theorem shiftNumbers_keeps {s0 : State} (s : State) (d dw : Int) (hk : Keeps s0 s) : Keeps s0 (shiftNumbers s d dw) := by
  unfold shiftNumbers
  extract_lets +onlyGivenNames lanes notify
  refine (keeps_mk ..).2 (keepsF_of hk (FusesGrow.refl _) (fun h _ => h) id id (fun h => ?_) rfl)
  refine keysRise_map _ ?_ _ h
  exact fun _ => rfl

theorem adoptNumber_keeps {s0 : State} (s : State) (hk : Keeps s0 s) : Keeps s0 (adoptNumber s) := by
  unfold adoptNumber
  split
  · exact hk
  · extract_lets +onlyGivenNames d win next s1 srcT s2
    have h1 : Keeps s0 s1 := shiftNumbers_keeps _ _ _ hk
    clear_value s1
    have h2 : Keeps s0 s2 := keeps_same h1 rfl rfl rfl rfl rfl rfl
    clear_value s2
    refine keeps_ite (fun _ => h2) (fun _ => keeps_foldl _ h2 (fun _ _ h => keeps_ite (fun _ => h) (fun _ => ?_)))
    exact setWork_keeps _ _ _ (jrnlAdmit_keeps _ _ h)

theorem setAligned_keeps {s0 : State} (s : State) (on : Bool) (hk : Keeps s0 s) :
    Keeps s0 (setAligned s on) := by
  unfold setAligned
  repeat' (first
    | with_reducible assumption
    | with_reducible intro _
    | (extract_lets +onlyGivenNames xv; first
      | (refine keeps_cut (P := Keeps s0 xv) ?_ (fun _ => ?_); unfold xv; clear xv; rotate_left; clear_value xv; rotate_left)
      | clear_value xv
      | (unfold xv; clear xv))
    | with_reducible apply regPut_keeps
    | split
    | (simp -zeta only [↓keeps_mk]; with_reducible refine keeps_upd ?_))

theorem adoptSync_keeps {s0 : State} (s : State) (hk : Keeps s0 s) :
    Keeps s0 (adoptSync s) := by
  unfold adoptSync
  repeat' (first
    | with_reducible assumption
    | (extract_lets +onlyGivenNames xv; first
      | (refine keeps_cut (P := Keeps s0 xv) ?_ (fun _ => ?_); unfold xv; clear xv; rotate_left; clear_value xv; rotate_left)
      | clear_value xv)
    | with_reducible apply sendCtl_keeps
    | with_reducible apply setAligned_keeps
    | split
    | (simp -zeta only [↓keeps_mk]; with_reducible refine keeps_upd ?_))

theorem adoptRef_keeps {s0 : State} (s : State) (hk : Keeps s0 s) :
    Keeps s0 (adoptRef s) := by
  unfold adoptRef
  repeat' (first
    | with_reducible assumption
    | (extract_lets +onlyGivenNames xv; clear_value xv)
    | with_reducible apply regPut_keeps
    | split
    | (simp -zeta only [↓keeps_mk]; with_reducible refine keeps_upd ?_))

theorem sendStatus_keeps {s0 : State} (s : State) (waitShare : Nat) (hk : Keeps s0 s) :
    Keeps s0 (sendStatus s waitShare) := by
  unfold sendStatus
  repeat' (first
    | with_reducible assumption
    | (extract_lets +onlyGivenNames xv; clear_value xv)
    | with_reducible apply sendCtl_keeps
    | with_reducible apply takeStatus_keeps
    | split)

theorem clearLate_keeps {s0 : State} (s : State) (hk : Keeps s0 s) :
    Keeps s0 (clearLate s) := by
  unfold clearLate
  repeat' (first
    | with_reducible assumption
    | (simp -zeta only [↓keeps_mk]; with_reducible refine keeps_upd ?_))

theorem headlandActions_keeps {s0 : State} (s : State) (w : Nat) (hk : Keeps s0 s) : Keeps s0 (headlandActions s w) := by
  unfold headlandActions
  extract_lets +onlyGivenNames s1
  have h1 : Keeps s0 s1 := adoptRef_keeps _ hk
  clear_value s1
  refine keeps_ite (fun _ => adoptSync_keeps _ (adoptNumber_keeps _ (keeps_same h1 rfl rfl rfl rfl rfl rfl)))
    (fun _ => keeps_ite (fun _ => h1) (fun _ => ?_))
  extract_lets +onlyGivenNames s2 s3 s4 s5 s6 s7 s8
  have h3 : Keeps s0 s3 := headlandPair_keeps _ (headlandGrants_keeps _ (applyCancels_keeps _ h1))
  have h4 : Keeps s0 s4 := releasePages_keeps _ h3
  have h7 : Keeps s0 s7 := journalBatch_keeps _ (adoptNumber_keeps _ (adoptLen_keeps _ _ h4))
  have h8 : Keeps s0 s8 := keepsP_fst (rebook_keeps _ _ (dropPassed_keeps _ _ h7))
  exact headlandBist_keeps _ (sendStatus_keeps _ _ (adoptSync_keeps _ h8))

theorem leaveFurrow_keeps {s0 : State} (s : State) (hk : Keeps s0 s) :
    Keeps s0 (leaveFurrow s) := by
  unfold leaveFurrow
  repeat' (first
    | with_reducible assumption
    | with_reducible intro _
    | (extract_lets +onlyGivenNames xv; first
      | (refine keeps_cut (P := Keeps s0 xv) ?_ (fun _ => ?_); unfold xv; clear xv; rotate_left; clear_value xv; rotate_left)
      | clear_value xv
      | (unfold xv; clear xv))
    | with_reducible apply forArrays_keeps
    | with_reducible apply copyTrap_keeps
    | with_reducible apply forFes_keeps
    | with_reducible apply countWaits_keeps
    | with_reducible apply countStallsOn_keeps
    | (simp -zeta only [↓keeps_mk]; with_reducible refine keeps_upd ?_))

theorem endFurrow_keeps {s0 : State} (s : State) (waitShare : Nat) (hk : Keeps s0 s) :
    Keeps s0 (endFurrow s waitShare) := by
  unfold endFurrow
  repeat' (first
    | with_reducible assumption
    | (extract_lets +onlyGivenNames xv; first
      | (refine keeps_cut (P := Keeps s0 xv) ?_ (fun _ => ?_); unfold xv; clear xv; rotate_left; clear_value xv; rotate_left)
      | clear_value xv
      | (unfold xv; clear xv))
    | with_reducible apply leaveFurrow_keeps
    | with_reducible apply settle_keeps
    | with_reducible apply clearLate_keeps
    | with_reducible apply headlandActions_keeps
    | split
    | (simp -zeta only [↓keeps_mk]; with_reducible refine keeps_upd ?_))

theorem execHeadland_keeps {s0 : State} (w : Nat) (s : State) (hk : Keeps s0 s) : KeepsOut s0 (execHeadland w s) := by
  unfold execHeadland
  refine keepsOut_ite (fun _ => keepsOut_next hk) (fun _ => ?_)
  extract_lets +onlyGivenNames s1
  have h1 : Keeps s0 s1 := endFurrow_keeps _ _ hk
  clear_value s1
  exact keepsOut_next (keeps_same h1 rfl rfl rfl rfl rfl rfl)

end Sys2Proof.Machine
end

