-- ==== Sys2Proof/Laws/FurrowKeeps.lean ====
section
/-! SUPPORT. What the definitions of Machine/Furrow.lean keep (Laws/Keeps.lean). -/

namespace Sys2Proof.Machine

theorem beginFurrow_keeps {s0 : State} (s : State) (hk : Keeps s0 s) :
    Keeps s0 (beginFurrow s) := by
  unfold beginFurrow
  repeat' (first
    | with_reducible assumption
    | (extract_lets +onlyGivenNames xv; clear_value xv)
    | split
    | (simp -zeta only [↓keeps_mk]; with_reducible refine keeps_upd ?_))

theorem drivePulse_keeps {s0 : State} (s : State) (hk : Keeps s0 s) :
    Keeps s0 (drivePulse s) := by
  unfold drivePulse
  repeat' (first
    | with_reducible assumption
    | (extract_lets +onlyGivenNames xv; clear_value xv)
    | with_reducible apply send_keeps
    | split
    | (simp -zeta only [↓keeps_mk]; with_reducible refine keeps_upd ?_))

theorem leadTime_keeps {s0 : State} (s : State) (hk : Keeps s0 s) :
    Keeps s0 (leadTime s) := by
  unfold leadTime
  repeat' (first
    | with_reducible assumption
    | with_reducible apply sendCtl_keeps
    | with_reducible refine keeps_foldl _ ?_ (fun _ _ _ => ?_)
    | split)

theorem followTime_keeps {s0 : State} (s : State) (hk : Keeps s0 s) :
    Keeps s0 (followTime s) := by
  unfold followTime
  repeat' (first
    | with_reducible assumption
    | (extract_lets +onlyGivenNames xv; unfold xv; clear xv)
    | with_reducible apply setAligned_keeps
    | split
    | (simp -zeta only [↓keeps_mk]; with_reducible refine keeps_upd ?_))

theorem rejoinArrays_keeps {s0 : State} (s : State) (hk : Keeps s0 s) :
    Keeps s0 (rejoinArrays s) := by
  unfold rejoinArrays
  repeat' (first
    | with_reducible assumption
    | with_reducible intro _
    | (extract_lets +onlyGivenNames xv; first
      | (refine keeps_cut (P := Keeps s0 xv) ?_ (fun _ => ?_); unfold xv; clear xv; rotate_left; clear_value xv; rotate_left)
      | clear_value xv)
    | with_reducible apply enterService_keeps
    | with_reducible apply forArrays_keeps
    | with_reducible apply setArr_keeps
    | split)

theorem keepTemps_keeps {s0 : State} (s : State) (hk : Keeps s0 s) :
    Keeps s0 (keepTemps s) := by
  unfold keepTemps
  repeat' (first
    | with_reducible assumption
    | with_reducible intro _
    | (extract_lets +onlyGivenNames xv; clear_value xv)
    | with_reducible apply forArrays_keeps
    | with_reducible apply setArr_keeps)

theorem markThrottled_keeps {s0 : State} (s : State) (hk : Keeps s0 s) :
    Keeps s0 (markThrottled s) := by
  unfold markThrottled
  repeat' (first
    | with_reducible assumption
    | with_reducible intro _
    | (extract_lets +onlyGivenNames xv; clear_value xv)
    | with_reducible apply forArrays_keeps
    | with_reducible apply setArr_keeps)

theorem reserveFaults_keeps {s0 : State} (s : State) (hk : Keeps s0 s) :
    Keeps s0 (reserveFaults s) := by
  unfold reserveFaults
  repeat' (first
    | with_reducible assumption
    | with_reducible intro _
    | (extract_lets +onlyGivenNames xv; first
      | (refine keeps_cut (P := Keeps s0 xv) ?_ (fun _ => ?_); unfold xv; clear xv; rotate_left; clear_value xv; rotate_left)
      | clear_value xv
      | (unfold xv; clear xv))
    | with_reducible apply haltDevice_keeps
    | with_reducible apply forLds_keeps
    | with_reducible apply tenantFault_keeps
    | split)

theorem startFurrow_keeps {s0 : State} (s : State) (hk : Keeps s0 s) :
    Keeps s0 (startFurrow s) := by
  unfold startFurrow
  repeat' (first
    | with_reducible assumption
    | with_reducible intro _
    | (extract_lets +onlyGivenNames xv; first
      | (refine keeps_cut (P := Keeps s0 xv) ?_ (fun _ => ?_); unfold xv; clear xv; rotate_left; clear_value xv; rotate_left)
      | clear_value xv
      | (unfold xv; clear xv))
    | with_reducible apply rolesAtTick_keeps
    | with_reducible apply regPut_keeps
    | with_reducible apply markThrottled_keeps
    | with_reducible apply rejoinArrays_keeps
    | with_reducible apply tickUnits_keeps
    | with_reducible apply reserveFaults_keeps
    | with_reducible apply lateWhereShort_keeps
    | with_reducible apply noteThermal_keeps
    | with_reducible apply sow_keeps
    | with_reducible apply applyHeld_keeps
    | with_reducible apply keepTemps_keeps
    | with_reducible refine keeps_foldl _ ?_ (fun _ _ _ => ?_)
    | with_reducible refine keeps_foldlP _ ?_ (fun _ _ _ => ?_)
    | split)

theorem execTick_keeps {s0 : State} (waitShare : Nat) (s : State) (hk : Keeps s0 s) :
    KeepsOut s0 (execTick waitShare s) := by
  unfold execTick
  repeat' (first
    | with_reducible assumption
    | (extract_lets +onlyGivenNames xv; first
      | (refine keeps_cut (P := Keeps s0 xv) ?_ (fun _ => ?_); unfold xv; clear xv; rotate_left; clear_value xv; rotate_left)
      | clear_value xv
      | (unfold xv; clear xv))
    | with_reducible refine keepsOut_next ?_
    | with_reducible exact keepsOut_fault _
    | with_reducible exact keepsOut_refused _
    | with_reducible apply endFurrow_keeps
    | with_reducible apply blowRevoke_keeps
    | with_reducible apply beginFurrow_keeps
    | with_reducible apply tickPair_keeps
    | with_reducible apply drivePulse_keeps
    | with_reducible apply leadTime_keeps
    | with_reducible apply followTime_keeps
    | with_reducible apply startFurrow_keeps
    | split)

theorem execFurNumSet_keeps {s0 : State} (val : Reg64) (s : State) (hk : Keeps s0 s) :
    KeepsOut s0 (execFurNumSet val s) := by
  unfold execFurNumSet
  repeat' (first
    | with_reducible assumption
    | (extract_lets +onlyGivenNames xv; clear_value xv)
    | with_reducible refine keepsOut_next ?_
    | split
    | (simp -zeta only [↓keeps_mk]; with_reducible refine keeps_upd ?_))

theorem execFurrowSyncPulse_keeps {s0 : State} (offset : Int) (wide : Bool) (s : State) (hk : Keeps s0 s) :
    KeepsOut s0 (execFurrowSyncPulse offset wide s) := by
  unfold execFurrowSyncPulse
  refine keepsOut_ite (fun _ => keepsOut_next hk) (fun _ => ?_)
  extract_lets +onlyGivenNames s1 close aligned at_ good head srcT s2 srcU s3
  have h1 : Keeps s0 s1 := regSet_keeps _ _ _ hk
  have h2 : Keeps s0 s2 := keeps_same h1 rfl rfl rfl rfl rfl rfl
  have h3 : Keeps s0 s3 := keeps_ite (fun _ => h2) (fun _ => keeps_same h2 rfl rfl rfl rfl rfl rfl)
  exact keepsOut_next (keeps_ite (fun _ => setAligned_keeps _ _ h3) (fun _ => h3))

theorem execTickRefLost_keeps {s0 : State} (lost : Bool) (s : State) (hk : Keeps s0 s) :
    KeepsOut s0 (execTickRefLost lost s) := by
  unfold execTickRefLost
  repeat' (first
    | with_reducible assumption
    | (extract_lets +onlyGivenNames xv; first
      | (refine keeps_cut (P := Keeps s0 xv) ?_ (fun _ => ?_); unfold xv; clear xv; rotate_left; clear_value xv; rotate_left)
      | clear_value xv)
    | with_reducible refine keepsOut_next ?_
    | with_reducible apply haltDevice_keeps
    | with_reducible apply logAt_keeps
    | with_reducible apply regFlag_keeps
    | with_reducible apply setAligned_keeps
    | split
    | (simp -zeta only [↓keeps_mk]; with_reducible refine keeps_upd ?_))

theorem execPcieRefLost_keeps {s0 : State} (s : State) (hk : Keeps s0 s) :
    KeepsOut s0 (execPcieRefLost s) := by
  unfold execPcieRefLost
  repeat' (first
    | with_reducible assumption
    | (extract_lets +onlyGivenNames xv; first
      | (refine keeps_cut (P := Keeps s0 xv) ?_ (fun _ => ?_); unfold xv; clear xv; rotate_left; clear_value xv; rotate_left)
      | clear_value xv)
    | with_reducible refine keepsOut_next ?_
    | with_reducible apply haltDevice_keeps
    | split
    | (simp -zeta only [↓keeps_mk]; with_reducible refine keeps_upd ?_))

end Sys2Proof.Machine
end

