-- ==== Sys2Proof/Laws/LoadsKeeps.lean ====
section
/-! SUPPORT. What the definitions of Machine/Loads.lean keep (Laws/Keeps.lean). -/

namespace Sys2Proof.Machine

theorem srcRead_keeps {s0 : State} (s : State) (t : LdId) (v n : Nat) (hk : Keeps s0 s) : KeepsP s0 (srcRead s t v n) :=
  devTouch_keeps _ _ _ _ hk

theorem srcBytes_keeps {s0 : State} (s : State) (x : LoadSrc) (src : List (Nat × Byte)) (hk : Keeps s0 s) :
    KeepsP s0 (srcBytes s x src) := by
  unfold srcBytes
  refine keepsP_ite (fun _ => keepsP_ite (fun _ => srcRead_keeps _ _ _ _ hk) (fun _ => hk)) (fun _ => keepsP_ite (fun _ => ?_) (fun _ => ?_))
  · refine keepsP_ite (fun _ => ?_) (fun _ => hk)
    split
    · rename_i e
      exact srcRead_keeps _ _ _ _ (keeps_of_okP e (railAccess_keeps _ _ _ _ _ _ hk))
    · exact ownDenied_keeps _ _ hk
  · exact keepsP_ite (fun _ => hk) (fun _ => hk)

theorem fillFrames_keeps {s0 : State} (s : State) (bs : List Byte) (hk : Keeps s0 s) :
    KeepsS s0 (fillFrames s bs) := by
  unfold fillFrames
  repeat' (first
    | with_reducible assumption
    | with_reducible intro _
    | (extract_lets +onlyGivenNames xv; first
      | (refine keeps_cut (P := Keeps s0 xv) ?_ (fun _ => ?_); unfold xv; clear xv; rotate_left; clear_value xv; rotate_left)
      | clear_value xv
      | (unfold xv; clear xv))
    | with_reducible refine keepsS_mk ?_
    | with_reducible apply giveFrame_keeps
    | with_reducible apply memStore_keeps
    | with_reducible refine keeps_foldl _ ?_ (fun _ _ _ => ?_))

theorem dropFrames_keeps {s0 : State} (s : State) (fs : List Nat) (hk : Keeps s0 s) :
    Keeps s0 (dropFrames s fs) := by
  unfold dropFrames
  repeat' (first
    | with_reducible assumption
    | with_reducible apply setTag_keeps
    | with_reducible refine keeps_foldl _ ?_ (fun _ _ _ => ?_))

theorem loadImage_keeps {s0 : State} (p : List Byte) (src : List (Nat × Byte)) (s : State) (hk : Keeps s0 s) :
    KeepsP s0 (loadImage p src s) := by
  unfold loadImage
  split
  · exact keepsP_mk hk
  · extract_lets +onlyGivenNames x
    refine keepsP_ite (fun _ => keepsP_mk hk) (fun _ => ?_)
    split
    · rename_i e
      exact keepsP_mk (keeps_of_pair e (srcBytes_keeps _ _ _ hk))
    · rename_i e
      have h1 := keeps_of_pair e (srcBytes_keeps _ _ _ hk)
      extract_lets +onlyGivenNames r
      refine keepsP_ite (fun _ => keepsP_mk h1) (fun _ => ?_)
      exact keepsP_mk (keeps_same (keepsS_snd (fillFrames_keeps _ _ h1)) rfl rfl rfl rfl rfl rfl)

theorem execLoadImage_keeps {s0 : State} (m : Mbox) (p : List Byte) (src : List (Nat × Byte)) (s : State) (hk : Keeps s0 s) :
    KeepsOut s0 (execLoadImage m p src s) :=
  bruahBg_keeps _ _ _ _ _ _ _ hk (fun _ _ hu => loadImage_keeps _ _ _ hu)

theorem execUnloadImage_keeps {s0 : State} (m : Mbox) (p : List Byte) (s : State) (hk : Keeps s0 s) :
    KeepsOut s0 (execUnloadImage m p s) := by
  unfold execUnloadImage
  refine bruah_keeps _ _ _ _ _ _ hk (fun t u hu => ?_)
  extract_lets h
  split
  · exact keepsP_mk hu
  · refine keepsP_ite (fun _ => keepsP_mk hu) (fun _ => ?_)
    exact keepsP_mk (dropFrames_keeps _ _ (keeps_same hu rfl rfl rfl rfl rfl rfl))

theorem loadAdapter_keeps {s0 : State} (p : List Byte) (src : List (Nat × Byte)) (s : State) (hk : Keeps s0 s) :
    KeepsP s0 (loadAdapter p src s) := by
  unfold loadAdapter
  extract_lets +onlyGivenNames _ _ _ x
  refine keepsP_ite (fun _ => keepsP_mk hk) (fun _ => keepsP_ite (fun _ => keepsP_mk hk) (fun _ => ?_))
  split
  · exact keepsP_mk hk
  · refine keepsP_ite (fun _ => keepsP_mk hk) (fun _ => ?_)
    split
    · rename_i e
      exact keepsP_mk (keeps_of_pair e (srcBytes_keeps _ _ _ hk))
    · rename_i e
      have h1 := keeps_of_pair e (srcBytes_keeps _ _ _ hk)
      exact keepsP_mk (keeps_same (keepsS_snd (fillFrames_keeps _ _ h1)) rfl rfl rfl rfl rfl rfl)

theorem execLoadAdapter_keeps {s0 : State} (m : Mbox) (p : List Byte) (src : List (Nat × Byte)) (s : State) (hk : Keeps s0 s) :
    KeepsOut s0 (execLoadAdapter m p src s) :=
  bruahBg_keeps _ _ _ _ _ _ _ hk (fun _ _ hu => loadAdapter_keeps _ _ _ hu)

theorem execRetireAdapter_keeps {s0 : State} (m : Mbox) (p : List Byte) (s : State) (hk : Keeps s0 s) :
    KeepsOut s0 (execRetireAdapter m p s) := by
  unfold execRetireAdapter
  refine bruah_keeps _ _ _ _ _ _ hk (fun t u hu => ?_)
  split
  · exact keepsP_mk hu
  · exact keepsP_mk (reapAdapters_keeps _ (keeps_same hu rfl rfl rfl rfl rfl rfl))

theorem emptyLp_keeps {s0 : State} (s : State) (k : Fin 64) (hk : Keeps s0 s) :
    Keeps s0 (emptyLp s k) := by
  unfold emptyLp
  repeat' (first
    | with_reducible assumption
    | (extract_lets +onlyGivenNames xv; first
      | (refine keeps_cut (P := Keeps s0 xv) ?_ (fun _ => ?_); unfold xv; clear xv; rotate_left; clear_value xv; rotate_left)
      | clear_value xv)
    | with_reducible apply dropFrames_keeps
    | with_reducible apply evictWhere_keeps
    | split
    | (simp -zeta only [↓keeps_mk]; with_reducible refine keeps_upd ?_))

theorem loadLp_keeps {s0 : State} (p : List Byte) (src : List (Nat × Byte)) (s : State) (hk : Keeps s0 s) :
    KeepsP s0 (loadLp p src s) := by
  unfold loadLp
  extract_lets +onlyGivenNames k h n x
  refine keepsP_ite (fun _ => keepsP_mk hk) (fun _ => keepsP_ite (fun _ => keepsP_mk hk) (fun _ => ?_))
  extract_lets +onlyGivenNames kf
  refine keepsP_ite (fun _ => keepsP_mk hk) (fun _ => ?_)
  split
  · rename_i e
    exact keepsP_mk (keeps_of_pair e (srcBytes_keeps _ _ _ hk))
  · rename_i e
    have h1 := keeps_of_pair e (srcBytes_keeps _ _ _ hk)
    exact keepsP_mk (keeps_same (keepsS_snd (fillFrames_keeps _ _ (emptyLp_keeps _ _ h1))) rfl rfl rfl rfl rfl rfl)

theorem execLoadLp_keeps {s0 : State} (m : Mbox) (p : List Byte) (src : List (Nat × Byte)) (s : State) (hk : Keeps s0 s) :
    KeepsOut s0 (execLoadLp m p src s) :=
  bruahBg_keeps _ _ _ _ _ _ _ hk (fun _ _ hu => loadLp_keeps _ _ _ hu)

theorem execUnloadLp_keeps {s0 : State} (m : Mbox) (p : List Byte) (s : State) (hk : Keeps s0 s) :
    KeepsOut s0 (execUnloadLp m p s) := by
  unfold execUnloadLp
  refine bruah_keeps _ _ _ _ _ _ hk (fun t u hu => ?_)
  extract_lets k
  refine keepsP_ite (fun _ => keepsP_mk hu) (fun _ => keepsP_ite (fun _ => keepsP_mk hu) (fun _ => ?_))
  exact keepsP_mk (emptyLp_keeps _ _ hu)

end Sys2Proof.Machine
end

