-- ==== Sys2Proof/Laws/Lookup.lean ====
section
/-! SUPPORT. What was put into an association list, or into a register, is what is read of it; nothing else changes. -/

namespace Sys2Proof.Machine

theorem lookupN_insertN {α : Type} (k p : Nat) (v : α) :
    ∀ l : List (Nat × α), lookupN p (insertN k v l) = if p = k then some v else lookupN p l
  | [] => by simp [insertN, lookupN, eq_comm]
  | (x, y) :: r => by
    have ih := lookupN_insertN k p v r
    unfold insertN; split
    · by_cases h : p = k
      · subst h; simp [lookupN]
      · simp [lookupN, h, Ne.symm h]
    · split
      · by_cases h : p = k
        · subst h; simp [lookupN]
        · rename_i h1 h2; subst h2; simp [lookupN, h, Ne.symm h]
      · by_cases h : p = k
        · subst h; rename_i h1 h2; simp [lookupN, ih, Ne.symm h2]
        · simp [lookupN, ih, h]

theorem lookupN_eraseN {α : Type} (k p : Nat) :
    ∀ l : List (Nat × α), lookupN p (eraseN k l) = if p = k then none else lookupN p l
  | [] => by simp [eraseN, lookupN]
  | (x, y) :: r => by
    have ih := lookupN_eraseN k p r
    unfold eraseN; split
    · rename_i h; subst h; rw [ih]; by_cases h : p = x <;> simp [h, lookupN, eq_comm]
    · by_cases h : p = k
      · subst h; simp_all [lookupN]
      · simp [lookupN, ih, h]

theorem regGet_lt (s : State) (o : Nat) : regGet s o < 2 ^ 64 := by
  unfold regGet; split
  · exact BitVec.isLt _
  · exact regReset_lt _

/-- A register that was set reads as its value modulo two to the 64; every other register reads as before. -/
theorem regGet_regSet (s : State) (o p v : Nat) : regGet (regSet s o v) p = if p = o then v % 2 ^ 64 else regGet s p := by
  have hreg : ∀ n : Nat, (reg n).toNat = n % 2 ^ 64 := fun n => by simp [reg]
  unfold regGet regSet
  by_cases h : reg v = reg (regReset o)
  · simp only [if_pos h, lookupN_eraseN]
    by_cases hp : p = o
    · subst hp; simp only [if_true]; rw [← hreg v, h, hreg, Nat.mod_eq_of_lt (regReset_lt _)]
    · simp [hp]
  · simp only [if_neg h, lookupN_insertN]
    by_cases hp : p = o
    · subst hp; simp [hreg]
    · simp [hp]

/-- A counter rises modulo two to the 64; every other register reads as before. -/
theorem regGet_regBump (s : State) (o n p : Nat) :
    regGet (regBump s o n) p = if p = o then (regGet s o + n) % 2 ^ 64 else regGet s p := by
  unfold regBump
  split
  · subst n; split
    · subst p; rw [Nat.add_zero, Nat.mod_eq_of_lt (regGet_lt _ _)]
    · rfl
  · rw [regGet_regSet, Nat.mod_mod]

/-- A counter's rise changes the register file alone. -/
theorem regBump_eq (s : State) (o n : Nat) : regBump s o n = { s with regs := (regBump s o n).regs } := by
  unfold regBump; split <;> rfl

end Sys2Proof.Machine
end

