-- ==== Sys2Proof/Laws/RegWriteKeeps.lean ====
section
/-! SUPPORT. What the definitions of Machine/RegWrite.lean keep (Laws/Keeps.lean). -/

namespace Sys2Proof.Machine

theorem afterCmd_keeps {s0 : State} (s : State) (o : Host.Outcome State Fault Refusal) (hk : Keeps s0 s)
    (ho : KeepsOut s0 o) : Keeps s0 (afterCmd s o) := by
  cases o with
  | next t => exact ho
  | fault r => exact hk
  | refused r => exact hk

theorem plainWrite_keeps {s0 : State} (s : State) (o v : Nat) (hk : Keeps s0 s) :
    Keeps s0 (plainWrite s o v) := by
  unfold plainWrite
  repeat' (first
    | with_reducible assumption
    | (extract_lets +onlyGivenNames xv; clear_value xv)
    | with_reducible apply regSet_keeps
    | split)

theorem writeFurCfg_keeps {s0 : State} (s : State) (v : Nat) (hk : Keeps s0 s) :
    Keeps s0 (writeFurCfg s v) := by
  unfold writeFurCfg
  repeat' (first
    | with_reducible assumption
    | (extract_lets +onlyGivenNames xv; clear_value xv)
    | with_reducible apply plainWrite_keeps)

theorem writeRepairReg_keeps {s0 : State} (s : State) (a v : Nat) (hk : Keeps s0 s) :
    Keeps s0 (writeRepairReg s a v) := by
  unfold writeRepairReg
  repeat' (first
    | with_reducible assumption
    | with_reducible apply plainWrite_keeps
    | with_reducible apply showRepaired_keeps
    | split)

theorem writeRqtCfg_keeps {s0 : State} (s : State) (v : Nat) (hk : Keeps s0 s) :
    Keeps s0 (writeRqtCfg s v) := by
  unfold writeRqtCfg
  repeat' (first
    | with_reducible assumption
    | (extract_lets +onlyGivenNames xv; clear_value xv)
    | with_reducible apply plainWrite_keeps)

theorem writePortCfg_keeps {s0 : State} (s : State) (p : PortId) (v : Nat) (hk : Keeps s0 s) :
    Keeps s0 (writePortCfg s p v) := by
  unfold writePortCfg
  repeat' (first
    | with_reducible assumption
    | (extract_lets +onlyGivenNames xv; first
      | (refine keeps_cut (P := Keeps s0 xv) ?_ (fun _ => ?_); unfold xv; clear xv; rotate_left; clear_value xv; rotate_left)
      | clear_value xv)
    | with_reducible apply afterCmd_keeps
    | with_reducible apply execPortDisable_keeps
    | with_reducible apply execPortEnable_keeps
    | with_reducible apply regPut_keeps
    | split)

theorem writeNode_keeps {s0 : State} (s : State) (v : Nat) (hk : Keeps s0 s) :
    Keeps s0 (writeNode s v) := by
  unfold writeNode
  repeat' (first
    | with_reducible assumption
    | with_reducible apply plainWrite_keeps
    | split)

theorem writeRlCfg_keeps {s0 : State} (s : State) (v : Nat) (hk : Keeps s0 s) :
    Keeps s0 (writeRlCfg s v) := by
  unfold writeRlCfg
  repeat' (first
    | with_reducible assumption
    | (extract_lets +onlyGivenNames xv; clear_value xv)
    | with_reducible apply plainWrite_keeps)

theorem writeRollback_keeps {s0 : State} (s : State) (v : Nat) (hk : Keeps s0 s) : Keeps s0 (writeRollback s v) := by
  unfold writeRollback
  extract_lets +onlyGivenNames s1 s2
  have h1 : Keeps s0 s1 := regSet_keeps _ _ _ hk
  have h2 : Keeps s0 s2 := keeps_ite (fun _ => h1) (fun _ => afterCmd_keeps _ _ h1 (execRevoke_keeps _ _ h1))
  exact keeps_ite (fun _ => afterCmd_keeps _ _ h2 (execCommit_keeps _ h2)) (fun _ => h2)

theorem writeDomainKey_keeps {s0 : State} (s : State) (i v : Nat) (p : RegPart) (hk : Keeps s0 s) :
    Keeps s0 (writeDomainKey s i v p) := by
  unfold writeDomainKey
  repeat' (first
    | with_reducible assumption
    | (extract_lets +onlyGivenNames xv; clear_value xv)
    | split
    | (simp -zeta only [↓keeps_mk]; with_reducible refine keeps_upd ?_))

theorem writeJrnlCfg_keeps {s0 : State} (s : State) (v : Nat) (hk : Keeps s0 s) :
    Keeps s0 (writeJrnlCfg s v) := by
  unfold writeJrnlCfg
  repeat' (first
    | with_reducible assumption
    | (extract_lets +onlyGivenNames xv; clear_value xv)
    | with_reducible apply plainWrite_keeps)

theorem writeGlobal_keeps {s0 : State} (s : State) (r v : Nat) (hk : Keeps s0 s) :
    Keeps s0 (writeGlobal s r v) := by
  unfold writeGlobal
  repeat' (first
    | with_reducible assumption
    | with_reducible apply afterCmd_keeps
    | with_reducible apply execJrnlTailWrite_keeps
    | with_reducible apply plainWrite_keeps
    | with_reducible apply writeJrnlCfg_keeps
    | split)

theorem writeFurrow_keeps {s0 : State} (s : State) (r v : Nat) (p : RegPart) (hk : Keeps s0 s) :
    Keeps s0 (writeFurrow s r v p) := by
  unfold writeFurrow
  repeat' (first
    | with_reducible assumption
    | (extract_lets +onlyGivenNames xv; clear_value xv)
    | with_reducible apply plainWrite_keeps
    | with_reducible apply writeFurCfg_keeps
    | split
    | (simp -zeta only [↓keeps_mk]; with_reducible refine keeps_upd ?_))

theorem writeRqt_keeps {s0 : State} (s : State) (r v : Nat) (hk : Keeps s0 s) :
    Keeps s0 (writeRqt s r v) := by
  unfold writeRqt
  repeat' (first
    | with_reducible assumption
    | with_reducible apply afterCmd_keeps
    | with_reducible apply execLdPoolLimitWrite_keeps
    | with_reducible apply execLdRqtWrite_keeps
    | with_reducible apply execQcfgWrite_keeps
    | with_reducible apply plainWrite_keeps
    | with_reducible apply writeRqtCfg_keeps
    | split)

theorem writePower_keeps {s0 : State} (s : State) (r v : Nat) (p : RegPart) (hk : Keeps s0 s) :
    Keeps s0 (writePower s r v p) := by
  unfold writePower
  repeat' (first
    | with_reducible assumption
    | with_reducible apply afterCmd_keeps
    | with_reducible apply execPwrCfgWrite_keeps
    | with_reducible apply plainWrite_keeps
    | with_reducible apply setOwnerCap_keeps
    | split)

theorem writeFault_keeps {s0 : State} (s : State) (r v : Nat) (hk : Keeps s0 s) :
    Keeps s0 (writeFault s r v) := by
  unfold writeFault
  repeat' (first
    | with_reducible assumption
    | with_reducible apply afterCmd_keeps
    | with_reducible apply execFltInject_keeps
    | with_reducible apply plainWrite_keeps
    | split)

theorem writeRaile_keeps {s0 : State} (s : State) (p r v : Nat) (hk : Keeps s0 s) :
    Keeps s0 (writeRaile s p r v) := by
  unfold writeRaile
  repeat' (first
    | with_reducible assumption
    | with_reducible apply afterCmd_keeps
    | with_reducible apply execRegionWrite_keeps
    | with_reducible apply execRouteWrite_keeps
    | with_reducible apply plainWrite_keeps
    | with_reducible apply writeNode_keeps
    | with_reducible apply writePortCfg_keeps
    | with_reducible apply writeRlCfg_keeps
    | split)

theorem writeSecurity_keeps {s0 : State} (s : State) (r v : Nat) (p : RegPart) (hk : Keeps s0 s) :
    Keeps s0 (writeSecurity s r v p) := by
  unfold writeSecurity
  refine keeps_ite (fun _ => writeRollback_keeps _ _ hk) (fun _ => keeps_ite (fun _ => ?_) (fun _ => ?_))
  · exact keeps_ite (fun _ => afterCmd_keeps _ _ hk (execFenceReq_keeps _ hk)) (fun _ => hk)
  · refine keeps_ite (fun _ => afterCmd_keeps _ _ hk (execSecKeyClear_keeps _ _ hk)) (fun _ => keeps_ite (fun _ => ?_) (fun _ => ?_))
    · exact keeps_ite (fun _ => afterCmd_keeps _ _ hk (execDomainKeyLock_keeps _ hk)) (fun _ => hk)
    · exact keeps_ite (fun _ => writeDomainKey_keeps _ _ _ _ hk) (fun _ => plainWrite_keeps _ _ _ hk)

theorem regWrite_keeps {s0 : State} (s : State) (o val : Nat) (p : RegPart) (hk : Keeps s0 s) : Keeps s0 (regWrite s o val p) := by
  unfold regWrite
  extract_lets +onlyGivenNames v
  split
  · exact writeGlobal_keeps _ _ _ hk
  · exact writeFurrow_keeps _ _ _ _ hk
  · exact keeps_ite (fun _ => writeRepairReg_keeps _ _ _ hk) (fun _ => plainWrite_keeps _ _ _ hk)
  · exact keeps_ite (fun _ => plainWrite_keeps _ _ _ hk) (fun _ => plainWrite_keeps _ _ _ hk)
  · exact writeRqt_keeps _ _ _ hk
  · exact writePower_keeps _ _ _ _ hk
  · exact writeFault_keeps _ _ _ hk
  · exact writeRaile_keeps _ _ _ _ hk
  · exact writeSecurity_keeps _ _ _ _ hk
  · exact keeps_ite (fun _ => afterCmd_keeps _ _ hk (execGo_keeps _ _ hk)) (fun _ => plainWrite_keeps _ _ _ hk)
  · exact hk

theorem bar2Write_keeps {s0 : State} (s : State) (o size val : Nat) (hk : Keeps s0 s) : Keeps s0 (bar2Write s o size val) := by
  unfold bar2Write
  extract_lets +onlyGivenNames s1
  have h1 : Keeps s0 s1 := keeps_same hk rfl rfl rfl rfl rfl rfl
  refine keeps_ite (fun _ => regFlag_keeps _ _ _ h1) (fun _ => keeps_ite (fun _ => regFlag_keeps _ _ _ h1) (fun _ => ?_))
  exact keeps_ite (fun _ => regWrite_keeps _ _ _ _ h1) (fun _ => keeps_ite (fun _ => regWrite_keeps _ _ _ _ h1)
    (fun _ => regWrite_keeps _ _ _ _ h1))

theorem bar2Fetch_keeps {s0 : State} (s : State) (o size : Nat) (hk : Keeps s0 s) :
    Keeps s0 (bar2Fetch s o size) := by
  unfold bar2Fetch
  repeat' (first
    | with_reducible assumption
    | (extract_lets +onlyGivenNames xv; first
      | (refine keeps_cut (P := Keeps s0 xv) ?_ (fun _ => ?_); unfold xv; clear xv; rotate_left; clear_value xv; rotate_left)
      | clear_value xv)
    | with_reducible apply regFlag_keeps
    | split
    | (simp -zeta only [↓keeps_mk]; with_reducible refine keeps_upd ?_))

theorem bellWrite_keeps {s0 : State} (s : State) (ld : LdId) (slot : Fin 8) (o size : Nat) (val : Reg64) (hk : Keeps s0 s) :
    Keeps s0 (bellWrite s ld slot o size val) := by
  unfold bellWrite
  repeat' (first
    | with_reducible assumption
    | (extract_lets +onlyGivenNames xv; clear_value xv)
    | with_reducible apply afterCmd_keeps
    | with_reducible apply execCqHead_keeps
    | with_reducible apply execSqTail_keeps
    | with_reducible apply setTen_keeps
    | split)

theorem configRead_keeps {s0 : State} (s : State) (fn : Mbox) (o : Nat) (hk : Keeps s0 s) :
    Keeps s0 (configRead s fn o) := by
  unfold configRead
  repeat' (first
    | with_reducible assumption
    | (extract_lets +onlyGivenNames xv; refine keeps_cut (P := Keeps s0 xv) ?_ (fun _ => ?_); unfold xv; clear xv; rotate_left; clear_value xv; rotate_left)
    | with_reducible apply tickFree_keeps
    | split
    | (simp -zeta only [↓keeps_mk]; with_reducible refine keeps_upd ?_))

theorem configWrite_keeps {s0 : State} (s : State) (fn : Mbox) (o v : Nat) (hk : Keeps s0 s) :
    Keeps s0 (configWrite s fn o v) := by
  unfold configWrite
  repeat' (first
    | with_reducible assumption
    | (extract_lets +onlyGivenNames xv; first
      | (refine keeps_cut (P := Keeps s0 xv) ?_ (fun _ => ?_); unfold xv; clear xv; rotate_left; clear_value xv; rotate_left)
      | clear_value xv
      | (unfold xv; clear xv))
    | with_reducible apply setFn_keeps
    | with_reducible apply flushMsix_keeps
    | split)

theorem msixWrite_keeps {s0 : State} (s : State) (fn : Mbox) (o v : Nat) (hk : Keeps s0 s) :
    Keeps s0 (msixWrite s fn o v) := by
  unfold msixWrite
  repeat' (first
    | with_reducible assumption
    | (extract_lets +onlyGivenNames xv; first
      | (refine keeps_cut (P := Keeps s0 xv) ?_ (fun _ => ?_); unfold xv; clear xv; rotate_left; clear_value xv; rotate_left)
      | clear_value xv
      | (unfold xv; clear xv))
    | with_reducible apply flushMsix_keeps
    | with_reducible apply setFn_keeps
    | split)

theorem ringBox_keeps {s0 : State} (s : State) (fn : Mbox) (hk : Keeps s0 s) :
    Keeps s0 (ringBox s fn) := by
  unfold ringBox
  repeat' (first
    | with_reducible assumption
    | with_reducible apply reply_keeps
    | split)

theorem devRegWrite_keeps {s0 : State} (s : State) (fn : Mbox) (o v : Nat) (hk : Keeps s0 s) :
    Keeps s0 (devRegWrite s fn o v) := by
  unfold devRegWrite
  repeat' (first
    | with_reducible assumption
    | (extract_lets +onlyGivenNames xv; first
      | (refine keeps_cut (P := Keeps s0 xv) ?_ (fun _ => ?_); unfold xv; clear xv; rotate_left; clear_value xv; rotate_left)
      | clear_value xv
      | (unfold xv; clear xv))
    | with_reducible apply ringBox_keeps
    | with_reducible apply setFn_keeps
    | split)

theorem bar0Write_keeps {s0 : State} (s : State) (fn : Mbox) (o size : Nat) (val : Reg64) (hk : Keeps s0 s) :
    Keeps s0 (bar0Write s fn o size val) := by
  unfold bar0Write
  extract_lets +onlyGivenNames both
  have hb : ∀ (f : State → Nat → Nat → State) (o : Nat), (∀ t p v, Keeps s0 t → Keeps s0 (f t p v)) → Keeps s0 (both f o) := by
    intro f o hf
    unfold both
    extract_lets +onlyGivenNames s1
    exact keeps_ite (fun _ => hf _ _ _ (hf _ _ _ hk)) (fun _ => hf _ _ _ hk)
  clear_value both
  refine keeps_ite (fun _ => hk) (fun _ => keeps_ite (fun _ => hb _ _ (fun _ _ _ h => devRegWrite_keeps _ _ _ _ h))
    (fun _ => keeps_ite (fun _ => ?_) (fun _ => keeps_ite (fun _ => hb _ _ (fun _ _ _ h => msixWrite_keeps _ _ _ _ h)) (fun _ => hk))))
  split
  · exact bellWrite_keeps _ _ _ _ _ _ hk
  · exact hk

theorem execRegisterWrite_keeps {s0 : State} (tgt : RegTarget) (size : Nat) (val : Reg64) (s : State) (hk : Keeps s0 s) :
    KeepsOut s0 (execRegisterWrite tgt size val s) := by
  unfold execRegisterWrite
  repeat' (first
    | with_reducible assumption
    | with_reducible refine keepsOut_next ?_
    | with_reducible exact keepsOut_fault _
    | with_reducible exact keepsOut_refused _
    | with_reducible apply bar2Write_keeps
    | with_reducible apply bar2Fetch_keeps
    | with_reducible apply bar0Write_keeps
    | with_reducible apply configRead_keeps
    | with_reducible apply configWrite_keeps
    | split
    | (simp -zeta only [↓keeps_mk]; with_reducible refine keeps_upd ?_))

theorem execReadReg_keeps {s0 : State} (m : Mbox) (p : List Byte) (s : State) (hk : Keeps s0 s) :
    KeepsOut s0 (execReadReg m p s) := by
  unfold execReadReg
  extract_lets +onlyGivenNames o n
  refine keepsOut_ite (fun _ => keepsOut_next (reply_keeps _ _ _ _ hk)) (fun _ => ?_)
  refine bruah_keeps _ _ _ _ _ _ hk (fun t u hu => ?_)
  exact keepsP_ite (fun _ => keepsP_mk hu) (fun _ => keepsP_mk hu)

theorem execWriteReg_keeps {s0 : State} (m : Mbox) (p : List Byte) (s : State) (hk : Keeps s0 s) :
    KeepsOut s0 (execWriteReg m p s) := by
  unfold execWriteReg
  extract_lets +onlyGivenNames o n
  refine bruah_keeps _ _ _ _ _ _ hk (fun t u hu => ?_)
  exact keepsP_ite (fun _ => keepsP_mk (keeps_foldl _ hu (fun _ _ h => regWrite_keeps _ _ _ _ h))) (fun _ => keepsP_mk hu)

end Sys2Proof.Machine
end

