-- ==== Sys2Proof/Laws/State.lean ====
section
/-! SUPPORT. What each named update of the state leaves as it was, field by field, and that a unit that was set is read
back. -/

namespace Sys2Proof.Machine

/-! ### setArr -/

@[simp] theorem setArr_fuses (s : State) (a : ArrId) (u : ArrayUnit) : (setArr s a u).fuses = s.fuses := rfl
@[simp] theorem setArr_pins (s : State) (a : ArrId) (u : ArrayUnit) : (setArr s a u).pins = s.pins := rfl
@[simp] theorem setArr_fw (s : State) (a : ArrId) (u : ArrayUnit) : (setArr s a u).fw = s.fw := rfl
@[simp] theorem setArr_tick (s : State) (a : ArrId) (u : ArrayUnit) : (setArr s a u).tick = s.tick := rfl
@[simp] theorem setArr_regs (s : State) (a : ArrId) (u : ArrayUnit) : (setArr s a u).regs = s.regs := rfl
@[simp] theorem setArr_bar2Last (s : State) (a : ArrId) (u : ArrayUnit) : (setArr s a u).bar2Last = s.bar2Last := rfl
@[simp] theorem setArr_bar2Shadow (s : State) (a : ArrId) (u : ArrayUnit) : (setArr s a u).bar2Shadow = s.bar2Shadow := rfl
@[simp] theorem setArr_regData (s : State) (a : ArrId) (u : ArrayUnit) : (setArr s a u).regData = s.regData := rfl
@[simp] theorem setArr_mem (s : State) (a : ArrId) (u : ArrayUnit) : (setArr s a u).mem = s.mem := rfl
@[simp] theorem setArr_poison (s : State) (a : ArrId) (u : ArrayUnit) : (setArr s a u).poison = s.poison := rfl
@[simp] theorem setArr_tags (s : State) (a : ArrId) (u : ArrayUnit) : (setArr s a u).tags = s.tags := rfl
@[simp] theorem setArr_fes (s : State) (a : ArrId) (u : ArrayUnit) : (setArr s a u).fes = s.fes := rfl
@[simp] theorem setArr_bars (s : State) (a : ArrId) (u : ArrayUnit) : (setArr s a u).bars = s.bars := rfl
@[simp] theorem setArr_mere (s : State) (a : ArrId) (u : ArrayUnit) : (setArr s a u).mere = s.mere := rfl
@[simp] theorem setArr_mgen (s : State) (a : ArrId) (u : ArrayUnit) : (setArr s a u).mgen = s.mgen := rfl
@[simp] theorem setArr_items (s : State) (a : ArrId) (u : ArrayUnit) : (setArr s a u).items = s.items := rfl
@[simp] theorem setArr_itemNo (s : State) (a : ArrId) (u : ArrayUnit) : (setArr s a u).itemNo = s.itemNo := rfl
@[simp] theorem setArr_images (s : State) (a : ArrId) (u : ArrayUnit) : (setArr s a u).images = s.images := rfl
@[simp] theorem setArr_adapters (s : State) (a : ArrId) (u : ArrayUnit) : (setArr s a u).adapters = s.adapters := rfl
@[simp] theorem setArr_lps (s : State) (a : ArrId) (u : ArrayUnit) : (setArr s a u).lps = s.lps := rfl
@[simp] theorem setArr_rqt (s : State) (a : ArrId) (u : ArrayUnit) : (setArr s a u).rqt = s.rqt := rfl
@[simp] theorem setArr_work (s : State) (a : ArrId) (u : ArrayUnit) : (setArr s a u).work = s.work := rfl
@[simp] theorem setArr_rounds (s : State) (a : ArrId) (u : ArrayUnit) : (setArr s a u).rounds = s.rounds := rfl
@[simp] theorem setArr_roundNo (s : State) (a : ArrId) (u : ArrayUnit) : (setArr s a u).roundNo = s.roundNo := rfl
@[simp] theorem setArr_nodes (s : State) (a : ArrId) (u : ArrayUnit) : (setArr s a u).nodes = s.nodes := rfl
@[simp] theorem setArr_pages (s : State) (a : ArrId) (u : ArrayUnit) : (setArr s a u).pages = s.pages := rfl
@[simp] theorem setArr_queues (s : State) (a : ArrId) (u : ArrayUnit) : (setArr s a u).queues = s.queues := rfl
@[simp] theorem setArr_lastServed (s : State) (a : ArrId) (u : ArrayUnit) : (setArr s a u).lastServed = s.lastServed := rfl
@[simp] theorem setArr_lds (s : State) (a : ArrId) (u : ArrayUnit) : (setArr s a u).lds = s.lds := rfl
@[simp] theorem setArr_ops (s : State) (a : ArrId) (u : ArrayUnit) : (setArr s a u).ops = s.ops := rfl
@[simp] theorem setArr_roles (s : State) (a : ArrId) (u : ArrayUnit) : (setArr s a u).roles = s.roles := rfl
@[simp] theorem setArr_sent (s : State) (a : ArrId) (u : ArrayUnit) : (setArr s a u).sent = s.sent := rfl
@[simp] theorem setArr_msgNo (s : State) (a : ArrId) (u : ArrayUnit) : (setArr s a u).msgNo = s.msgNo := rfl
@[simp] theorem setArr_ctlWait (s : State) (a : ArrId) (u : ArrayUnit) : (setArr s a u).ctlWait = s.ctlWait := rfl
@[simp] theorem setArr_lateData (s : State) (a : ArrId) (u : ArrayUnit) : (setArr s a u).lateData = s.lateData := rfl
@[simp] theorem setArr_rlOps (s : State) (a : ArrId) (u : ArrayUnit) : (setArr s a u).rlOps = s.rlOps := rfl
@[simp] theorem setArr_roleIn (s : State) (a : ArrId) (u : ArrayUnit) : (setArr s a u).roleIn = s.roleIn := rfl
@[simp] theorem setArr_ports (s : State) (a : ArrId) (u : ArrayUnit) : (setArr s a u).ports = s.ports := rfl
@[simp] theorem setArr_peers (s : State) (a : ArrId) (u : ArrayUnit) : (setArr s a u).peers = s.peers := rfl
@[simp] theorem setArr_flows (s : State) (a : ArrId) (u : ArrayUnit) : (setArr s a u).flows = s.flows := rfl
@[simp] theorem setArr_atomics (s : State) (a : ArrId) (u : ArrayUnit) : (setArr s a u).atomics = s.atomics := rfl
@[simp] theorem setArr_notifies (s : State) (a : ArrId) (u : ArrayUnit) : (setArr s a u).notifies = s.notifies := rfl
@[simp] theorem setArr_timeSync (s : State) (a : ArrId) (u : ArrayUnit) : (setArr s a u).timeSync = s.timeSync := rfl
@[simp] theorem setArr_joint (s : State) (a : ArrId) (u : ArrayUnit) : (setArr s a u).joint = s.joint := rfl
@[simp] theorem setArr_grants (s : State) (a : ArrId) (u : ArrayUnit) : (setArr s a u).grants = s.grants := rfl
@[simp] theorem setArr_members (s : State) (a : ArrId) (u : ArrayUnit) : (setArr s a u).members = s.members := rfl
@[simp] theorem setArr_power (s : State) (a : ArrId) (u : ArrayUnit) : (setArr s a u).power = s.power := rfl
@[simp] theorem setArr_temps (s : State) (a : ArrId) (u : ArrayUnit) : (setArr s a u).temps = s.temps := rfl
@[simp] theorem setArr_faults (s : State) (a : ArrId) (u : ArrayUnit) : (setArr s a u).faults = s.faults := rfl
@[simp] theorem setArr_mboxes (s : State) (a : ArrId) (u : ArrayUnit) : (setArr s a u).mboxes = s.mboxes := rfl
@[simp] theorem setArr_fns (s : State) (a : ArrId) (u : ArrayUnit) : (setArr s a u).fns = s.fns := rfl
@[simp] theorem setArr_sec (s : State) (a : ArrId) (u : ArrayUnit) : (setArr s a u).sec = s.sec := rfl
@[simp] theorem setArr_bist (s : State) (a : ArrId) (u : ArrayUnit) : (setArr s a u).bist = s.bist := rfl
@[simp] theorem setArr_jrnl (s : State) (a : ArrId) (u : ArrayUnit) : (setArr s a u).jrnl = s.jrnl := rfl
@[simp] theorem setArr_cxl (s : State) (a : ArrId) (u : ArrayUnit) : (setArr s a u).cxl = s.cxl := rfl
@[simp] theorem setArr_timestamp (s : State) (a : ArrId) (u : ArrayUnit) : (setArr s a u).timestamp = s.timestamp := rfl
@[simp] theorem setArr_out (s : State) (a : ArrId) (u : ArrayUnit) : (setArr s a u).out = s.out := rfl
@[simp] theorem setArr_freeCtr (s : State) (a : ArrId) (u : ArrayUnit) : (setArr s a u).freeCtr = s.freeCtr := rfl
@[simp] theorem setArr_pending (s : State) (a : ArrId) (u : ArrayUnit) : (setArr s a u).pending = s.pending := rfl

/-! ### setFe -/

@[simp] theorem setFe_fuses (s : State) (f : FeId) (u : FetchUnit) : (setFe s f u).fuses = s.fuses := rfl
@[simp] theorem setFe_pins (s : State) (f : FeId) (u : FetchUnit) : (setFe s f u).pins = s.pins := rfl
@[simp] theorem setFe_fw (s : State) (f : FeId) (u : FetchUnit) : (setFe s f u).fw = s.fw := rfl
@[simp] theorem setFe_tick (s : State) (f : FeId) (u : FetchUnit) : (setFe s f u).tick = s.tick := rfl
@[simp] theorem setFe_regs (s : State) (f : FeId) (u : FetchUnit) : (setFe s f u).regs = s.regs := rfl
@[simp] theorem setFe_bar2Last (s : State) (f : FeId) (u : FetchUnit) : (setFe s f u).bar2Last = s.bar2Last := rfl
@[simp] theorem setFe_bar2Shadow (s : State) (f : FeId) (u : FetchUnit) : (setFe s f u).bar2Shadow = s.bar2Shadow := rfl
@[simp] theorem setFe_regData (s : State) (f : FeId) (u : FetchUnit) : (setFe s f u).regData = s.regData := rfl
@[simp] theorem setFe_mem (s : State) (f : FeId) (u : FetchUnit) : (setFe s f u).mem = s.mem := rfl
@[simp] theorem setFe_poison (s : State) (f : FeId) (u : FetchUnit) : (setFe s f u).poison = s.poison := rfl
@[simp] theorem setFe_tags (s : State) (f : FeId) (u : FetchUnit) : (setFe s f u).tags = s.tags := rfl
@[simp] theorem setFe_arrays (s : State) (f : FeId) (u : FetchUnit) : (setFe s f u).arrays = s.arrays := rfl
@[simp] theorem setFe_bars (s : State) (f : FeId) (u : FetchUnit) : (setFe s f u).bars = s.bars := rfl
@[simp] theorem setFe_mere (s : State) (f : FeId) (u : FetchUnit) : (setFe s f u).mere = s.mere := rfl
@[simp] theorem setFe_mgen (s : State) (f : FeId) (u : FetchUnit) : (setFe s f u).mgen = s.mgen := rfl
@[simp] theorem setFe_items (s : State) (f : FeId) (u : FetchUnit) : (setFe s f u).items = s.items := rfl
@[simp] theorem setFe_itemNo (s : State) (f : FeId) (u : FetchUnit) : (setFe s f u).itemNo = s.itemNo := rfl
@[simp] theorem setFe_images (s : State) (f : FeId) (u : FetchUnit) : (setFe s f u).images = s.images := rfl
@[simp] theorem setFe_adapters (s : State) (f : FeId) (u : FetchUnit) : (setFe s f u).adapters = s.adapters := rfl
@[simp] theorem setFe_lps (s : State) (f : FeId) (u : FetchUnit) : (setFe s f u).lps = s.lps := rfl
@[simp] theorem setFe_rqt (s : State) (f : FeId) (u : FetchUnit) : (setFe s f u).rqt = s.rqt := rfl
@[simp] theorem setFe_work (s : State) (f : FeId) (u : FetchUnit) : (setFe s f u).work = s.work := rfl
@[simp] theorem setFe_rounds (s : State) (f : FeId) (u : FetchUnit) : (setFe s f u).rounds = s.rounds := rfl
@[simp] theorem setFe_roundNo (s : State) (f : FeId) (u : FetchUnit) : (setFe s f u).roundNo = s.roundNo := rfl
@[simp] theorem setFe_nodes (s : State) (f : FeId) (u : FetchUnit) : (setFe s f u).nodes = s.nodes := rfl
@[simp] theorem setFe_pages (s : State) (f : FeId) (u : FetchUnit) : (setFe s f u).pages = s.pages := rfl
@[simp] theorem setFe_queues (s : State) (f : FeId) (u : FetchUnit) : (setFe s f u).queues = s.queues := rfl
@[simp] theorem setFe_lastServed (s : State) (f : FeId) (u : FetchUnit) : (setFe s f u).lastServed = s.lastServed := rfl
@[simp] theorem setFe_lds (s : State) (f : FeId) (u : FetchUnit) : (setFe s f u).lds = s.lds := rfl
@[simp] theorem setFe_ops (s : State) (f : FeId) (u : FetchUnit) : (setFe s f u).ops = s.ops := rfl
@[simp] theorem setFe_roles (s : State) (f : FeId) (u : FetchUnit) : (setFe s f u).roles = s.roles := rfl
@[simp] theorem setFe_sent (s : State) (f : FeId) (u : FetchUnit) : (setFe s f u).sent = s.sent := rfl
@[simp] theorem setFe_msgNo (s : State) (f : FeId) (u : FetchUnit) : (setFe s f u).msgNo = s.msgNo := rfl
@[simp] theorem setFe_ctlWait (s : State) (f : FeId) (u : FetchUnit) : (setFe s f u).ctlWait = s.ctlWait := rfl
@[simp] theorem setFe_lateData (s : State) (f : FeId) (u : FetchUnit) : (setFe s f u).lateData = s.lateData := rfl
@[simp] theorem setFe_rlOps (s : State) (f : FeId) (u : FetchUnit) : (setFe s f u).rlOps = s.rlOps := rfl
@[simp] theorem setFe_roleIn (s : State) (f : FeId) (u : FetchUnit) : (setFe s f u).roleIn = s.roleIn := rfl
@[simp] theorem setFe_ports (s : State) (f : FeId) (u : FetchUnit) : (setFe s f u).ports = s.ports := rfl
@[simp] theorem setFe_peers (s : State) (f : FeId) (u : FetchUnit) : (setFe s f u).peers = s.peers := rfl
@[simp] theorem setFe_flows (s : State) (f : FeId) (u : FetchUnit) : (setFe s f u).flows = s.flows := rfl
@[simp] theorem setFe_atomics (s : State) (f : FeId) (u : FetchUnit) : (setFe s f u).atomics = s.atomics := rfl
@[simp] theorem setFe_notifies (s : State) (f : FeId) (u : FetchUnit) : (setFe s f u).notifies = s.notifies := rfl
@[simp] theorem setFe_timeSync (s : State) (f : FeId) (u : FetchUnit) : (setFe s f u).timeSync = s.timeSync := rfl
@[simp] theorem setFe_joint (s : State) (f : FeId) (u : FetchUnit) : (setFe s f u).joint = s.joint := rfl
@[simp] theorem setFe_grants (s : State) (f : FeId) (u : FetchUnit) : (setFe s f u).grants = s.grants := rfl
@[simp] theorem setFe_members (s : State) (f : FeId) (u : FetchUnit) : (setFe s f u).members = s.members := rfl
@[simp] theorem setFe_power (s : State) (f : FeId) (u : FetchUnit) : (setFe s f u).power = s.power := rfl
@[simp] theorem setFe_temps (s : State) (f : FeId) (u : FetchUnit) : (setFe s f u).temps = s.temps := rfl
@[simp] theorem setFe_faults (s : State) (f : FeId) (u : FetchUnit) : (setFe s f u).faults = s.faults := rfl
@[simp] theorem setFe_mboxes (s : State) (f : FeId) (u : FetchUnit) : (setFe s f u).mboxes = s.mboxes := rfl
@[simp] theorem setFe_fns (s : State) (f : FeId) (u : FetchUnit) : (setFe s f u).fns = s.fns := rfl
@[simp] theorem setFe_sec (s : State) (f : FeId) (u : FetchUnit) : (setFe s f u).sec = s.sec := rfl
@[simp] theorem setFe_bist (s : State) (f : FeId) (u : FetchUnit) : (setFe s f u).bist = s.bist := rfl
@[simp] theorem setFe_jrnl (s : State) (f : FeId) (u : FetchUnit) : (setFe s f u).jrnl = s.jrnl := rfl
@[simp] theorem setFe_cxl (s : State) (f : FeId) (u : FetchUnit) : (setFe s f u).cxl = s.cxl := rfl
@[simp] theorem setFe_timestamp (s : State) (f : FeId) (u : FetchUnit) : (setFe s f u).timestamp = s.timestamp := rfl
@[simp] theorem setFe_out (s : State) (f : FeId) (u : FetchUnit) : (setFe s f u).out = s.out := rfl
@[simp] theorem setFe_freeCtr (s : State) (f : FeId) (u : FetchUnit) : (setFe s f u).freeCtr = s.freeCtr := rfl
@[simp] theorem setFe_pending (s : State) (f : FeId) (u : FetchUnit) : (setFe s f u).pending = s.pending := rfl

/-! ### setTen -/

@[simp] theorem setTen_fuses (s : State) (t : LdId) (u : Tenant) : (setTen s t u).fuses = s.fuses := rfl
@[simp] theorem setTen_pins (s : State) (t : LdId) (u : Tenant) : (setTen s t u).pins = s.pins := rfl
@[simp] theorem setTen_fw (s : State) (t : LdId) (u : Tenant) : (setTen s t u).fw = s.fw := rfl
@[simp] theorem setTen_tick (s : State) (t : LdId) (u : Tenant) : (setTen s t u).tick = s.tick := rfl
@[simp] theorem setTen_regs (s : State) (t : LdId) (u : Tenant) : (setTen s t u).regs = s.regs := rfl
@[simp] theorem setTen_bar2Last (s : State) (t : LdId) (u : Tenant) : (setTen s t u).bar2Last = s.bar2Last := rfl
@[simp] theorem setTen_bar2Shadow (s : State) (t : LdId) (u : Tenant) : (setTen s t u).bar2Shadow = s.bar2Shadow := rfl
@[simp] theorem setTen_regData (s : State) (t : LdId) (u : Tenant) : (setTen s t u).regData = s.regData := rfl
@[simp] theorem setTen_mem (s : State) (t : LdId) (u : Tenant) : (setTen s t u).mem = s.mem := rfl
@[simp] theorem setTen_poison (s : State) (t : LdId) (u : Tenant) : (setTen s t u).poison = s.poison := rfl
@[simp] theorem setTen_tags (s : State) (t : LdId) (u : Tenant) : (setTen s t u).tags = s.tags := rfl
@[simp] theorem setTen_arrays (s : State) (t : LdId) (u : Tenant) : (setTen s t u).arrays = s.arrays := rfl
@[simp] theorem setTen_fes (s : State) (t : LdId) (u : Tenant) : (setTen s t u).fes = s.fes := rfl
@[simp] theorem setTen_bars (s : State) (t : LdId) (u : Tenant) : (setTen s t u).bars = s.bars := rfl
@[simp] theorem setTen_mere (s : State) (t : LdId) (u : Tenant) : (setTen s t u).mere = s.mere := rfl
@[simp] theorem setTen_mgen (s : State) (t : LdId) (u : Tenant) : (setTen s t u).mgen = s.mgen := rfl
@[simp] theorem setTen_items (s : State) (t : LdId) (u : Tenant) : (setTen s t u).items = s.items := rfl
@[simp] theorem setTen_itemNo (s : State) (t : LdId) (u : Tenant) : (setTen s t u).itemNo = s.itemNo := rfl
@[simp] theorem setTen_images (s : State) (t : LdId) (u : Tenant) : (setTen s t u).images = s.images := rfl
@[simp] theorem setTen_adapters (s : State) (t : LdId) (u : Tenant) : (setTen s t u).adapters = s.adapters := rfl
@[simp] theorem setTen_lps (s : State) (t : LdId) (u : Tenant) : (setTen s t u).lps = s.lps := rfl
@[simp] theorem setTen_rqt (s : State) (t : LdId) (u : Tenant) : (setTen s t u).rqt = s.rqt := rfl
@[simp] theorem setTen_work (s : State) (t : LdId) (u : Tenant) : (setTen s t u).work = s.work := rfl
@[simp] theorem setTen_rounds (s : State) (t : LdId) (u : Tenant) : (setTen s t u).rounds = s.rounds := rfl
@[simp] theorem setTen_roundNo (s : State) (t : LdId) (u : Tenant) : (setTen s t u).roundNo = s.roundNo := rfl
@[simp] theorem setTen_nodes (s : State) (t : LdId) (u : Tenant) : (setTen s t u).nodes = s.nodes := rfl
@[simp] theorem setTen_pages (s : State) (t : LdId) (u : Tenant) : (setTen s t u).pages = s.pages := rfl
@[simp] theorem setTen_queues (s : State) (t : LdId) (u : Tenant) : (setTen s t u).queues = s.queues := rfl
@[simp] theorem setTen_lastServed (s : State) (t : LdId) (u : Tenant) : (setTen s t u).lastServed = s.lastServed := rfl
@[simp] theorem setTen_ops (s : State) (t : LdId) (u : Tenant) : (setTen s t u).ops = s.ops := rfl
@[simp] theorem setTen_roles (s : State) (t : LdId) (u : Tenant) : (setTen s t u).roles = s.roles := rfl
@[simp] theorem setTen_sent (s : State) (t : LdId) (u : Tenant) : (setTen s t u).sent = s.sent := rfl
@[simp] theorem setTen_msgNo (s : State) (t : LdId) (u : Tenant) : (setTen s t u).msgNo = s.msgNo := rfl
@[simp] theorem setTen_ctlWait (s : State) (t : LdId) (u : Tenant) : (setTen s t u).ctlWait = s.ctlWait := rfl
@[simp] theorem setTen_lateData (s : State) (t : LdId) (u : Tenant) : (setTen s t u).lateData = s.lateData := rfl
@[simp] theorem setTen_rlOps (s : State) (t : LdId) (u : Tenant) : (setTen s t u).rlOps = s.rlOps := rfl
@[simp] theorem setTen_roleIn (s : State) (t : LdId) (u : Tenant) : (setTen s t u).roleIn = s.roleIn := rfl
@[simp] theorem setTen_ports (s : State) (t : LdId) (u : Tenant) : (setTen s t u).ports = s.ports := rfl
@[simp] theorem setTen_peers (s : State) (t : LdId) (u : Tenant) : (setTen s t u).peers = s.peers := rfl
@[simp] theorem setTen_flows (s : State) (t : LdId) (u : Tenant) : (setTen s t u).flows = s.flows := rfl
@[simp] theorem setTen_atomics (s : State) (t : LdId) (u : Tenant) : (setTen s t u).atomics = s.atomics := rfl
@[simp] theorem setTen_notifies (s : State) (t : LdId) (u : Tenant) : (setTen s t u).notifies = s.notifies := rfl
@[simp] theorem setTen_timeSync (s : State) (t : LdId) (u : Tenant) : (setTen s t u).timeSync = s.timeSync := rfl
@[simp] theorem setTen_joint (s : State) (t : LdId) (u : Tenant) : (setTen s t u).joint = s.joint := rfl
@[simp] theorem setTen_grants (s : State) (t : LdId) (u : Tenant) : (setTen s t u).grants = s.grants := rfl
@[simp] theorem setTen_members (s : State) (t : LdId) (u : Tenant) : (setTen s t u).members = s.members := rfl
@[simp] theorem setTen_power (s : State) (t : LdId) (u : Tenant) : (setTen s t u).power = s.power := rfl
@[simp] theorem setTen_temps (s : State) (t : LdId) (u : Tenant) : (setTen s t u).temps = s.temps := rfl
@[simp] theorem setTen_faults (s : State) (t : LdId) (u : Tenant) : (setTen s t u).faults = s.faults := rfl
@[simp] theorem setTen_mboxes (s : State) (t : LdId) (u : Tenant) : (setTen s t u).mboxes = s.mboxes := rfl
@[simp] theorem setTen_fns (s : State) (t : LdId) (u : Tenant) : (setTen s t u).fns = s.fns := rfl
@[simp] theorem setTen_sec (s : State) (t : LdId) (u : Tenant) : (setTen s t u).sec = s.sec := rfl
@[simp] theorem setTen_bist (s : State) (t : LdId) (u : Tenant) : (setTen s t u).bist = s.bist := rfl
@[simp] theorem setTen_jrnl (s : State) (t : LdId) (u : Tenant) : (setTen s t u).jrnl = s.jrnl := rfl
@[simp] theorem setTen_cxl (s : State) (t : LdId) (u : Tenant) : (setTen s t u).cxl = s.cxl := rfl
@[simp] theorem setTen_timestamp (s : State) (t : LdId) (u : Tenant) : (setTen s t u).timestamp = s.timestamp := rfl
@[simp] theorem setTen_out (s : State) (t : LdId) (u : Tenant) : (setTen s t u).out = s.out := rfl
@[simp] theorem setTen_freeCtr (s : State) (t : LdId) (u : Tenant) : (setTen s t u).freeCtr = s.freeCtr := rfl
@[simp] theorem setTen_pending (s : State) (t : LdId) (u : Tenant) : (setTen s t u).pending = s.pending := rfl

/-! ### setQue -/

@[simp] theorem setQue_fuses (s : State) (q : Fin 128) (u : Queue) : (setQue s q u).fuses = s.fuses := rfl
@[simp] theorem setQue_pins (s : State) (q : Fin 128) (u : Queue) : (setQue s q u).pins = s.pins := rfl
@[simp] theorem setQue_fw (s : State) (q : Fin 128) (u : Queue) : (setQue s q u).fw = s.fw := rfl
@[simp] theorem setQue_tick (s : State) (q : Fin 128) (u : Queue) : (setQue s q u).tick = s.tick := rfl
@[simp] theorem setQue_regs (s : State) (q : Fin 128) (u : Queue) : (setQue s q u).regs = s.regs := rfl
@[simp] theorem setQue_bar2Last (s : State) (q : Fin 128) (u : Queue) : (setQue s q u).bar2Last = s.bar2Last := rfl
@[simp] theorem setQue_bar2Shadow (s : State) (q : Fin 128) (u : Queue) : (setQue s q u).bar2Shadow = s.bar2Shadow := rfl
@[simp] theorem setQue_regData (s : State) (q : Fin 128) (u : Queue) : (setQue s q u).regData = s.regData := rfl
@[simp] theorem setQue_mem (s : State) (q : Fin 128) (u : Queue) : (setQue s q u).mem = s.mem := rfl
@[simp] theorem setQue_poison (s : State) (q : Fin 128) (u : Queue) : (setQue s q u).poison = s.poison := rfl
@[simp] theorem setQue_tags (s : State) (q : Fin 128) (u : Queue) : (setQue s q u).tags = s.tags := rfl
@[simp] theorem setQue_arrays (s : State) (q : Fin 128) (u : Queue) : (setQue s q u).arrays = s.arrays := rfl
@[simp] theorem setQue_fes (s : State) (q : Fin 128) (u : Queue) : (setQue s q u).fes = s.fes := rfl
@[simp] theorem setQue_bars (s : State) (q : Fin 128) (u : Queue) : (setQue s q u).bars = s.bars := rfl
@[simp] theorem setQue_mere (s : State) (q : Fin 128) (u : Queue) : (setQue s q u).mere = s.mere := rfl
@[simp] theorem setQue_mgen (s : State) (q : Fin 128) (u : Queue) : (setQue s q u).mgen = s.mgen := rfl
@[simp] theorem setQue_items (s : State) (q : Fin 128) (u : Queue) : (setQue s q u).items = s.items := rfl
@[simp] theorem setQue_itemNo (s : State) (q : Fin 128) (u : Queue) : (setQue s q u).itemNo = s.itemNo := rfl
@[simp] theorem setQue_images (s : State) (q : Fin 128) (u : Queue) : (setQue s q u).images = s.images := rfl
@[simp] theorem setQue_adapters (s : State) (q : Fin 128) (u : Queue) : (setQue s q u).adapters = s.adapters := rfl
@[simp] theorem setQue_lps (s : State) (q : Fin 128) (u : Queue) : (setQue s q u).lps = s.lps := rfl
@[simp] theorem setQue_rqt (s : State) (q : Fin 128) (u : Queue) : (setQue s q u).rqt = s.rqt := rfl
@[simp] theorem setQue_work (s : State) (q : Fin 128) (u : Queue) : (setQue s q u).work = s.work := rfl
@[simp] theorem setQue_rounds (s : State) (q : Fin 128) (u : Queue) : (setQue s q u).rounds = s.rounds := rfl
@[simp] theorem setQue_roundNo (s : State) (q : Fin 128) (u : Queue) : (setQue s q u).roundNo = s.roundNo := rfl
@[simp] theorem setQue_nodes (s : State) (q : Fin 128) (u : Queue) : (setQue s q u).nodes = s.nodes := rfl
@[simp] theorem setQue_pages (s : State) (q : Fin 128) (u : Queue) : (setQue s q u).pages = s.pages := rfl
@[simp] theorem setQue_lastServed (s : State) (q : Fin 128) (u : Queue) : (setQue s q u).lastServed = s.lastServed := rfl
@[simp] theorem setQue_lds (s : State) (q : Fin 128) (u : Queue) : (setQue s q u).lds = s.lds := rfl
@[simp] theorem setQue_ops (s : State) (q : Fin 128) (u : Queue) : (setQue s q u).ops = s.ops := rfl
@[simp] theorem setQue_roles (s : State) (q : Fin 128) (u : Queue) : (setQue s q u).roles = s.roles := rfl
@[simp] theorem setQue_sent (s : State) (q : Fin 128) (u : Queue) : (setQue s q u).sent = s.sent := rfl
@[simp] theorem setQue_msgNo (s : State) (q : Fin 128) (u : Queue) : (setQue s q u).msgNo = s.msgNo := rfl
@[simp] theorem setQue_ctlWait (s : State) (q : Fin 128) (u : Queue) : (setQue s q u).ctlWait = s.ctlWait := rfl
@[simp] theorem setQue_lateData (s : State) (q : Fin 128) (u : Queue) : (setQue s q u).lateData = s.lateData := rfl
@[simp] theorem setQue_rlOps (s : State) (q : Fin 128) (u : Queue) : (setQue s q u).rlOps = s.rlOps := rfl
@[simp] theorem setQue_roleIn (s : State) (q : Fin 128) (u : Queue) : (setQue s q u).roleIn = s.roleIn := rfl
@[simp] theorem setQue_ports (s : State) (q : Fin 128) (u : Queue) : (setQue s q u).ports = s.ports := rfl
@[simp] theorem setQue_peers (s : State) (q : Fin 128) (u : Queue) : (setQue s q u).peers = s.peers := rfl
@[simp] theorem setQue_flows (s : State) (q : Fin 128) (u : Queue) : (setQue s q u).flows = s.flows := rfl
@[simp] theorem setQue_atomics (s : State) (q : Fin 128) (u : Queue) : (setQue s q u).atomics = s.atomics := rfl
@[simp] theorem setQue_notifies (s : State) (q : Fin 128) (u : Queue) : (setQue s q u).notifies = s.notifies := rfl
@[simp] theorem setQue_timeSync (s : State) (q : Fin 128) (u : Queue) : (setQue s q u).timeSync = s.timeSync := rfl
@[simp] theorem setQue_joint (s : State) (q : Fin 128) (u : Queue) : (setQue s q u).joint = s.joint := rfl
@[simp] theorem setQue_grants (s : State) (q : Fin 128) (u : Queue) : (setQue s q u).grants = s.grants := rfl
@[simp] theorem setQue_members (s : State) (q : Fin 128) (u : Queue) : (setQue s q u).members = s.members := rfl
@[simp] theorem setQue_power (s : State) (q : Fin 128) (u : Queue) : (setQue s q u).power = s.power := rfl
@[simp] theorem setQue_temps (s : State) (q : Fin 128) (u : Queue) : (setQue s q u).temps = s.temps := rfl
@[simp] theorem setQue_faults (s : State) (q : Fin 128) (u : Queue) : (setQue s q u).faults = s.faults := rfl
@[simp] theorem setQue_mboxes (s : State) (q : Fin 128) (u : Queue) : (setQue s q u).mboxes = s.mboxes := rfl
@[simp] theorem setQue_fns (s : State) (q : Fin 128) (u : Queue) : (setQue s q u).fns = s.fns := rfl
@[simp] theorem setQue_sec (s : State) (q : Fin 128) (u : Queue) : (setQue s q u).sec = s.sec := rfl
@[simp] theorem setQue_bist (s : State) (q : Fin 128) (u : Queue) : (setQue s q u).bist = s.bist := rfl
@[simp] theorem setQue_jrnl (s : State) (q : Fin 128) (u : Queue) : (setQue s q u).jrnl = s.jrnl := rfl
@[simp] theorem setQue_cxl (s : State) (q : Fin 128) (u : Queue) : (setQue s q u).cxl = s.cxl := rfl
@[simp] theorem setQue_timestamp (s : State) (q : Fin 128) (u : Queue) : (setQue s q u).timestamp = s.timestamp := rfl
@[simp] theorem setQue_out (s : State) (q : Fin 128) (u : Queue) : (setQue s q u).out = s.out := rfl
@[simp] theorem setQue_freeCtr (s : State) (q : Fin 128) (u : Queue) : (setQue s q u).freeCtr = s.freeCtr := rfl
@[simp] theorem setQue_pending (s : State) (q : Fin 128) (u : Queue) : (setQue s q u).pending = s.pending := rfl

/-! ### setPort -/

@[simp] theorem setPort_fuses (s : State) (p : PortId) (u : Port) : (setPort s p u).fuses = s.fuses := rfl
@[simp] theorem setPort_pins (s : State) (p : PortId) (u : Port) : (setPort s p u).pins = s.pins := rfl
@[simp] theorem setPort_fw (s : State) (p : PortId) (u : Port) : (setPort s p u).fw = s.fw := rfl
@[simp] theorem setPort_tick (s : State) (p : PortId) (u : Port) : (setPort s p u).tick = s.tick := rfl
@[simp] theorem setPort_regs (s : State) (p : PortId) (u : Port) : (setPort s p u).regs = s.regs := rfl
@[simp] theorem setPort_bar2Last (s : State) (p : PortId) (u : Port) : (setPort s p u).bar2Last = s.bar2Last := rfl
@[simp] theorem setPort_bar2Shadow (s : State) (p : PortId) (u : Port) : (setPort s p u).bar2Shadow = s.bar2Shadow := rfl
@[simp] theorem setPort_regData (s : State) (p : PortId) (u : Port) : (setPort s p u).regData = s.regData := rfl
@[simp] theorem setPort_mem (s : State) (p : PortId) (u : Port) : (setPort s p u).mem = s.mem := rfl
@[simp] theorem setPort_poison (s : State) (p : PortId) (u : Port) : (setPort s p u).poison = s.poison := rfl
@[simp] theorem setPort_tags (s : State) (p : PortId) (u : Port) : (setPort s p u).tags = s.tags := rfl
@[simp] theorem setPort_arrays (s : State) (p : PortId) (u : Port) : (setPort s p u).arrays = s.arrays := rfl
@[simp] theorem setPort_fes (s : State) (p : PortId) (u : Port) : (setPort s p u).fes = s.fes := rfl
@[simp] theorem setPort_bars (s : State) (p : PortId) (u : Port) : (setPort s p u).bars = s.bars := rfl
@[simp] theorem setPort_mere (s : State) (p : PortId) (u : Port) : (setPort s p u).mere = s.mere := rfl
@[simp] theorem setPort_mgen (s : State) (p : PortId) (u : Port) : (setPort s p u).mgen = s.mgen := rfl
@[simp] theorem setPort_items (s : State) (p : PortId) (u : Port) : (setPort s p u).items = s.items := rfl
@[simp] theorem setPort_itemNo (s : State) (p : PortId) (u : Port) : (setPort s p u).itemNo = s.itemNo := rfl
@[simp] theorem setPort_images (s : State) (p : PortId) (u : Port) : (setPort s p u).images = s.images := rfl
@[simp] theorem setPort_adapters (s : State) (p : PortId) (u : Port) : (setPort s p u).adapters = s.adapters := rfl
@[simp] theorem setPort_lps (s : State) (p : PortId) (u : Port) : (setPort s p u).lps = s.lps := rfl
@[simp] theorem setPort_rqt (s : State) (p : PortId) (u : Port) : (setPort s p u).rqt = s.rqt := rfl
@[simp] theorem setPort_work (s : State) (p : PortId) (u : Port) : (setPort s p u).work = s.work := rfl
@[simp] theorem setPort_rounds (s : State) (p : PortId) (u : Port) : (setPort s p u).rounds = s.rounds := rfl
@[simp] theorem setPort_roundNo (s : State) (p : PortId) (u : Port) : (setPort s p u).roundNo = s.roundNo := rfl
@[simp] theorem setPort_nodes (s : State) (p : PortId) (u : Port) : (setPort s p u).nodes = s.nodes := rfl
@[simp] theorem setPort_pages (s : State) (p : PortId) (u : Port) : (setPort s p u).pages = s.pages := rfl
@[simp] theorem setPort_queues (s : State) (p : PortId) (u : Port) : (setPort s p u).queues = s.queues := rfl
@[simp] theorem setPort_lastServed (s : State) (p : PortId) (u : Port) : (setPort s p u).lastServed = s.lastServed := rfl
@[simp] theorem setPort_lds (s : State) (p : PortId) (u : Port) : (setPort s p u).lds = s.lds := rfl
@[simp] theorem setPort_ops (s : State) (p : PortId) (u : Port) : (setPort s p u).ops = s.ops := rfl
@[simp] theorem setPort_roles (s : State) (p : PortId) (u : Port) : (setPort s p u).roles = s.roles := rfl
@[simp] theorem setPort_sent (s : State) (p : PortId) (u : Port) : (setPort s p u).sent = s.sent := rfl
@[simp] theorem setPort_msgNo (s : State) (p : PortId) (u : Port) : (setPort s p u).msgNo = s.msgNo := rfl
@[simp] theorem setPort_ctlWait (s : State) (p : PortId) (u : Port) : (setPort s p u).ctlWait = s.ctlWait := rfl
@[simp] theorem setPort_lateData (s : State) (p : PortId) (u : Port) : (setPort s p u).lateData = s.lateData := rfl
@[simp] theorem setPort_rlOps (s : State) (p : PortId) (u : Port) : (setPort s p u).rlOps = s.rlOps := rfl
@[simp] theorem setPort_roleIn (s : State) (p : PortId) (u : Port) : (setPort s p u).roleIn = s.roleIn := rfl
@[simp] theorem setPort_peers (s : State) (p : PortId) (u : Port) : (setPort s p u).peers = s.peers := rfl
@[simp] theorem setPort_flows (s : State) (p : PortId) (u : Port) : (setPort s p u).flows = s.flows := rfl
@[simp] theorem setPort_atomics (s : State) (p : PortId) (u : Port) : (setPort s p u).atomics = s.atomics := rfl
@[simp] theorem setPort_notifies (s : State) (p : PortId) (u : Port) : (setPort s p u).notifies = s.notifies := rfl
@[simp] theorem setPort_timeSync (s : State) (p : PortId) (u : Port) : (setPort s p u).timeSync = s.timeSync := rfl
@[simp] theorem setPort_joint (s : State) (p : PortId) (u : Port) : (setPort s p u).joint = s.joint := rfl
@[simp] theorem setPort_grants (s : State) (p : PortId) (u : Port) : (setPort s p u).grants = s.grants := rfl
@[simp] theorem setPort_members (s : State) (p : PortId) (u : Port) : (setPort s p u).members = s.members := rfl
@[simp] theorem setPort_power (s : State) (p : PortId) (u : Port) : (setPort s p u).power = s.power := rfl
@[simp] theorem setPort_temps (s : State) (p : PortId) (u : Port) : (setPort s p u).temps = s.temps := rfl
@[simp] theorem setPort_faults (s : State) (p : PortId) (u : Port) : (setPort s p u).faults = s.faults := rfl
@[simp] theorem setPort_mboxes (s : State) (p : PortId) (u : Port) : (setPort s p u).mboxes = s.mboxes := rfl
@[simp] theorem setPort_fns (s : State) (p : PortId) (u : Port) : (setPort s p u).fns = s.fns := rfl
@[simp] theorem setPort_sec (s : State) (p : PortId) (u : Port) : (setPort s p u).sec = s.sec := rfl
@[simp] theorem setPort_bist (s : State) (p : PortId) (u : Port) : (setPort s p u).bist = s.bist := rfl
@[simp] theorem setPort_jrnl (s : State) (p : PortId) (u : Port) : (setPort s p u).jrnl = s.jrnl := rfl
@[simp] theorem setPort_cxl (s : State) (p : PortId) (u : Port) : (setPort s p u).cxl = s.cxl := rfl
@[simp] theorem setPort_timestamp (s : State) (p : PortId) (u : Port) : (setPort s p u).timestamp = s.timestamp := rfl
@[simp] theorem setPort_out (s : State) (p : PortId) (u : Port) : (setPort s p u).out = s.out := rfl
@[simp] theorem setPort_freeCtr (s : State) (p : PortId) (u : Port) : (setPort s p u).freeCtr = s.freeCtr := rfl
@[simp] theorem setPort_pending (s : State) (p : PortId) (u : Port) : (setPort s p u).pending = s.pending := rfl

/-! ### send -/

@[simp] theorem send_fuses (s : State) (m : OutMsg) : (send s m).fuses = s.fuses := rfl
@[simp] theorem send_pins (s : State) (m : OutMsg) : (send s m).pins = s.pins := rfl
@[simp] theorem send_fw (s : State) (m : OutMsg) : (send s m).fw = s.fw := rfl
@[simp] theorem send_tick (s : State) (m : OutMsg) : (send s m).tick = s.tick := rfl
@[simp] theorem send_regs (s : State) (m : OutMsg) : (send s m).regs = s.regs := rfl
@[simp] theorem send_bar2Last (s : State) (m : OutMsg) : (send s m).bar2Last = s.bar2Last := rfl
@[simp] theorem send_bar2Shadow (s : State) (m : OutMsg) : (send s m).bar2Shadow = s.bar2Shadow := rfl
@[simp] theorem send_regData (s : State) (m : OutMsg) : (send s m).regData = s.regData := rfl
@[simp] theorem send_mem (s : State) (m : OutMsg) : (send s m).mem = s.mem := rfl
@[simp] theorem send_poison (s : State) (m : OutMsg) : (send s m).poison = s.poison := rfl
@[simp] theorem send_tags (s : State) (m : OutMsg) : (send s m).tags = s.tags := rfl
@[simp] theorem send_arrays (s : State) (m : OutMsg) : (send s m).arrays = s.arrays := rfl
@[simp] theorem send_fes (s : State) (m : OutMsg) : (send s m).fes = s.fes := rfl
@[simp] theorem send_bars (s : State) (m : OutMsg) : (send s m).bars = s.bars := rfl
@[simp] theorem send_mere (s : State) (m : OutMsg) : (send s m).mere = s.mere := rfl
@[simp] theorem send_mgen (s : State) (m : OutMsg) : (send s m).mgen = s.mgen := rfl
@[simp] theorem send_items (s : State) (m : OutMsg) : (send s m).items = s.items := rfl
@[simp] theorem send_itemNo (s : State) (m : OutMsg) : (send s m).itemNo = s.itemNo := rfl
@[simp] theorem send_images (s : State) (m : OutMsg) : (send s m).images = s.images := rfl
@[simp] theorem send_adapters (s : State) (m : OutMsg) : (send s m).adapters = s.adapters := rfl
@[simp] theorem send_lps (s : State) (m : OutMsg) : (send s m).lps = s.lps := rfl
@[simp] theorem send_rqt (s : State) (m : OutMsg) : (send s m).rqt = s.rqt := rfl
@[simp] theorem send_work (s : State) (m : OutMsg) : (send s m).work = s.work := rfl
@[simp] theorem send_rounds (s : State) (m : OutMsg) : (send s m).rounds = s.rounds := rfl
@[simp] theorem send_roundNo (s : State) (m : OutMsg) : (send s m).roundNo = s.roundNo := rfl
@[simp] theorem send_nodes (s : State) (m : OutMsg) : (send s m).nodes = s.nodes := rfl
@[simp] theorem send_pages (s : State) (m : OutMsg) : (send s m).pages = s.pages := rfl
@[simp] theorem send_queues (s : State) (m : OutMsg) : (send s m).queues = s.queues := rfl
@[simp] theorem send_lastServed (s : State) (m : OutMsg) : (send s m).lastServed = s.lastServed := rfl
@[simp] theorem send_lds (s : State) (m : OutMsg) : (send s m).lds = s.lds := rfl
@[simp] theorem send_ops (s : State) (m : OutMsg) : (send s m).ops = s.ops := rfl
@[simp] theorem send_roles (s : State) (m : OutMsg) : (send s m).roles = s.roles := rfl
@[simp] theorem send_sent (s : State) (m : OutMsg) : (send s m).sent = s.sent := rfl
@[simp] theorem send_msgNo (s : State) (m : OutMsg) : (send s m).msgNo = s.msgNo := rfl
@[simp] theorem send_ctlWait (s : State) (m : OutMsg) : (send s m).ctlWait = s.ctlWait := rfl
@[simp] theorem send_lateData (s : State) (m : OutMsg) : (send s m).lateData = s.lateData := rfl
@[simp] theorem send_rlOps (s : State) (m : OutMsg) : (send s m).rlOps = s.rlOps := rfl
@[simp] theorem send_roleIn (s : State) (m : OutMsg) : (send s m).roleIn = s.roleIn := rfl
@[simp] theorem send_ports (s : State) (m : OutMsg) : (send s m).ports = s.ports := rfl
@[simp] theorem send_peers (s : State) (m : OutMsg) : (send s m).peers = s.peers := rfl
@[simp] theorem send_flows (s : State) (m : OutMsg) : (send s m).flows = s.flows := rfl
@[simp] theorem send_atomics (s : State) (m : OutMsg) : (send s m).atomics = s.atomics := rfl
@[simp] theorem send_notifies (s : State) (m : OutMsg) : (send s m).notifies = s.notifies := rfl
@[simp] theorem send_timeSync (s : State) (m : OutMsg) : (send s m).timeSync = s.timeSync := rfl
@[simp] theorem send_joint (s : State) (m : OutMsg) : (send s m).joint = s.joint := rfl
@[simp] theorem send_grants (s : State) (m : OutMsg) : (send s m).grants = s.grants := rfl
@[simp] theorem send_members (s : State) (m : OutMsg) : (send s m).members = s.members := rfl
@[simp] theorem send_power (s : State) (m : OutMsg) : (send s m).power = s.power := rfl
@[simp] theorem send_temps (s : State) (m : OutMsg) : (send s m).temps = s.temps := rfl
@[simp] theorem send_faults (s : State) (m : OutMsg) : (send s m).faults = s.faults := rfl
@[simp] theorem send_mboxes (s : State) (m : OutMsg) : (send s m).mboxes = s.mboxes := rfl
@[simp] theorem send_fns (s : State) (m : OutMsg) : (send s m).fns = s.fns := rfl
@[simp] theorem send_sec (s : State) (m : OutMsg) : (send s m).sec = s.sec := rfl
@[simp] theorem send_bist (s : State) (m : OutMsg) : (send s m).bist = s.bist := rfl
@[simp] theorem send_jrnl (s : State) (m : OutMsg) : (send s m).jrnl = s.jrnl := rfl
@[simp] theorem send_cxl (s : State) (m : OutMsg) : (send s m).cxl = s.cxl := rfl
@[simp] theorem send_timestamp (s : State) (m : OutMsg) : (send s m).timestamp = s.timestamp := rfl
@[simp] theorem send_freeCtr (s : State) (m : OutMsg) : (send s m).freeCtr = s.freeCtr := rfl
@[simp] theorem send_pending (s : State) (m : OutMsg) : (send s m).pending = s.pending := rfl

/-! ### tickFree -/

@[simp] theorem tickFree_fuses (s : State) : (tickFree s).fuses = s.fuses := rfl
@[simp] theorem tickFree_pins (s : State) : (tickFree s).pins = s.pins := rfl
@[simp] theorem tickFree_fw (s : State) : (tickFree s).fw = s.fw := rfl
@[simp] theorem tickFree_tick (s : State) : (tickFree s).tick = s.tick := rfl
@[simp] theorem tickFree_regs (s : State) : (tickFree s).regs = s.regs := rfl
@[simp] theorem tickFree_bar2Last (s : State) : (tickFree s).bar2Last = s.bar2Last := rfl
@[simp] theorem tickFree_bar2Shadow (s : State) : (tickFree s).bar2Shadow = s.bar2Shadow := rfl
@[simp] theorem tickFree_regData (s : State) : (tickFree s).regData = s.regData := rfl
@[simp] theorem tickFree_mem (s : State) : (tickFree s).mem = s.mem := rfl
@[simp] theorem tickFree_poison (s : State) : (tickFree s).poison = s.poison := rfl
@[simp] theorem tickFree_tags (s : State) : (tickFree s).tags = s.tags := rfl
@[simp] theorem tickFree_arrays (s : State) : (tickFree s).arrays = s.arrays := rfl
@[simp] theorem tickFree_fes (s : State) : (tickFree s).fes = s.fes := rfl
@[simp] theorem tickFree_bars (s : State) : (tickFree s).bars = s.bars := rfl
@[simp] theorem tickFree_mere (s : State) : (tickFree s).mere = s.mere := rfl
@[simp] theorem tickFree_mgen (s : State) : (tickFree s).mgen = s.mgen := rfl
@[simp] theorem tickFree_items (s : State) : (tickFree s).items = s.items := rfl
@[simp] theorem tickFree_itemNo (s : State) : (tickFree s).itemNo = s.itemNo := rfl
@[simp] theorem tickFree_images (s : State) : (tickFree s).images = s.images := rfl
@[simp] theorem tickFree_adapters (s : State) : (tickFree s).adapters = s.adapters := rfl
@[simp] theorem tickFree_lps (s : State) : (tickFree s).lps = s.lps := rfl
@[simp] theorem tickFree_rqt (s : State) : (tickFree s).rqt = s.rqt := rfl
@[simp] theorem tickFree_work (s : State) : (tickFree s).work = s.work := rfl
@[simp] theorem tickFree_rounds (s : State) : (tickFree s).rounds = s.rounds := rfl
@[simp] theorem tickFree_roundNo (s : State) : (tickFree s).roundNo = s.roundNo := rfl
@[simp] theorem tickFree_nodes (s : State) : (tickFree s).nodes = s.nodes := rfl
@[simp] theorem tickFree_pages (s : State) : (tickFree s).pages = s.pages := rfl
@[simp] theorem tickFree_queues (s : State) : (tickFree s).queues = s.queues := rfl
@[simp] theorem tickFree_lastServed (s : State) : (tickFree s).lastServed = s.lastServed := rfl
@[simp] theorem tickFree_lds (s : State) : (tickFree s).lds = s.lds := rfl
@[simp] theorem tickFree_ops (s : State) : (tickFree s).ops = s.ops := rfl
@[simp] theorem tickFree_roles (s : State) : (tickFree s).roles = s.roles := rfl
@[simp] theorem tickFree_sent (s : State) : (tickFree s).sent = s.sent := rfl
@[simp] theorem tickFree_msgNo (s : State) : (tickFree s).msgNo = s.msgNo := rfl
@[simp] theorem tickFree_ctlWait (s : State) : (tickFree s).ctlWait = s.ctlWait := rfl
@[simp] theorem tickFree_lateData (s : State) : (tickFree s).lateData = s.lateData := rfl
@[simp] theorem tickFree_rlOps (s : State) : (tickFree s).rlOps = s.rlOps := rfl
@[simp] theorem tickFree_roleIn (s : State) : (tickFree s).roleIn = s.roleIn := rfl
@[simp] theorem tickFree_ports (s : State) : (tickFree s).ports = s.ports := rfl
@[simp] theorem tickFree_peers (s : State) : (tickFree s).peers = s.peers := rfl
@[simp] theorem tickFree_flows (s : State) : (tickFree s).flows = s.flows := rfl
@[simp] theorem tickFree_atomics (s : State) : (tickFree s).atomics = s.atomics := rfl
@[simp] theorem tickFree_notifies (s : State) : (tickFree s).notifies = s.notifies := rfl
@[simp] theorem tickFree_timeSync (s : State) : (tickFree s).timeSync = s.timeSync := rfl
@[simp] theorem tickFree_joint (s : State) : (tickFree s).joint = s.joint := rfl
@[simp] theorem tickFree_grants (s : State) : (tickFree s).grants = s.grants := rfl
@[simp] theorem tickFree_members (s : State) : (tickFree s).members = s.members := rfl
@[simp] theorem tickFree_power (s : State) : (tickFree s).power = s.power := rfl
@[simp] theorem tickFree_temps (s : State) : (tickFree s).temps = s.temps := rfl
@[simp] theorem tickFree_faults (s : State) : (tickFree s).faults = s.faults := rfl
@[simp] theorem tickFree_mboxes (s : State) : (tickFree s).mboxes = s.mboxes := rfl
@[simp] theorem tickFree_fns (s : State) : (tickFree s).fns = s.fns := rfl
@[simp] theorem tickFree_sec (s : State) : (tickFree s).sec = s.sec := rfl
@[simp] theorem tickFree_bist (s : State) : (tickFree s).bist = s.bist := rfl
@[simp] theorem tickFree_jrnl (s : State) : (tickFree s).jrnl = s.jrnl := rfl
@[simp] theorem tickFree_cxl (s : State) : (tickFree s).cxl = s.cxl := rfl
@[simp] theorem tickFree_timestamp (s : State) : (tickFree s).timestamp = s.timestamp := rfl
@[simp] theorem tickFree_out (s : State) : (tickFree s).out = s.out := rfl
@[simp] theorem tickFree_pending (s : State) : (tickFree s).pending = s.pending := rfl

/-! ### markTag -/

@[simp] theorem markTag_fuses (s : State) (f : Nat) (t : Tag) : (markTag s f t).fuses = s.fuses := rfl
@[simp] theorem markTag_pins (s : State) (f : Nat) (t : Tag) : (markTag s f t).pins = s.pins := rfl
@[simp] theorem markTag_fw (s : State) (f : Nat) (t : Tag) : (markTag s f t).fw = s.fw := rfl
@[simp] theorem markTag_tick (s : State) (f : Nat) (t : Tag) : (markTag s f t).tick = s.tick := rfl
@[simp] theorem markTag_regs (s : State) (f : Nat) (t : Tag) : (markTag s f t).regs = s.regs := rfl
@[simp] theorem markTag_bar2Last (s : State) (f : Nat) (t : Tag) : (markTag s f t).bar2Last = s.bar2Last := rfl
@[simp] theorem markTag_bar2Shadow (s : State) (f : Nat) (t : Tag) : (markTag s f t).bar2Shadow = s.bar2Shadow := rfl
@[simp] theorem markTag_regData (s : State) (f : Nat) (t : Tag) : (markTag s f t).regData = s.regData := rfl
@[simp] theorem markTag_mem (s : State) (f : Nat) (t : Tag) : (markTag s f t).mem = s.mem := rfl
@[simp] theorem markTag_poison (s : State) (f : Nat) (t : Tag) : (markTag s f t).poison = s.poison := rfl
@[simp] theorem markTag_arrays (s : State) (f : Nat) (t : Tag) : (markTag s f t).arrays = s.arrays := rfl
@[simp] theorem markTag_fes (s : State) (f : Nat) (t : Tag) : (markTag s f t).fes = s.fes := rfl
@[simp] theorem markTag_bars (s : State) (f : Nat) (t : Tag) : (markTag s f t).bars = s.bars := rfl
@[simp] theorem markTag_mere (s : State) (f : Nat) (t : Tag) : (markTag s f t).mere = s.mere := rfl
@[simp] theorem markTag_mgen (s : State) (f : Nat) (t : Tag) : (markTag s f t).mgen = s.mgen := rfl
@[simp] theorem markTag_items (s : State) (f : Nat) (t : Tag) : (markTag s f t).items = s.items := rfl
@[simp] theorem markTag_itemNo (s : State) (f : Nat) (t : Tag) : (markTag s f t).itemNo = s.itemNo := rfl
@[simp] theorem markTag_images (s : State) (f : Nat) (t : Tag) : (markTag s f t).images = s.images := rfl
@[simp] theorem markTag_adapters (s : State) (f : Nat) (t : Tag) : (markTag s f t).adapters = s.adapters := rfl
@[simp] theorem markTag_lps (s : State) (f : Nat) (t : Tag) : (markTag s f t).lps = s.lps := rfl
@[simp] theorem markTag_rqt (s : State) (f : Nat) (t : Tag) : (markTag s f t).rqt = s.rqt := rfl
@[simp] theorem markTag_work (s : State) (f : Nat) (t : Tag) : (markTag s f t).work = s.work := rfl
@[simp] theorem markTag_rounds (s : State) (f : Nat) (t : Tag) : (markTag s f t).rounds = s.rounds := rfl
@[simp] theorem markTag_roundNo (s : State) (f : Nat) (t : Tag) : (markTag s f t).roundNo = s.roundNo := rfl
@[simp] theorem markTag_nodes (s : State) (f : Nat) (t : Tag) : (markTag s f t).nodes = s.nodes := rfl
@[simp] theorem markTag_pages (s : State) (f : Nat) (t : Tag) : (markTag s f t).pages = s.pages := rfl
@[simp] theorem markTag_queues (s : State) (f : Nat) (t : Tag) : (markTag s f t).queues = s.queues := rfl
@[simp] theorem markTag_lastServed (s : State) (f : Nat) (t : Tag) : (markTag s f t).lastServed = s.lastServed := rfl
@[simp] theorem markTag_lds (s : State) (f : Nat) (t : Tag) : (markTag s f t).lds = s.lds := rfl
@[simp] theorem markTag_ops (s : State) (f : Nat) (t : Tag) : (markTag s f t).ops = s.ops := rfl
@[simp] theorem markTag_roles (s : State) (f : Nat) (t : Tag) : (markTag s f t).roles = s.roles := rfl
@[simp] theorem markTag_sent (s : State) (f : Nat) (t : Tag) : (markTag s f t).sent = s.sent := rfl
@[simp] theorem markTag_msgNo (s : State) (f : Nat) (t : Tag) : (markTag s f t).msgNo = s.msgNo := rfl
@[simp] theorem markTag_ctlWait (s : State) (f : Nat) (t : Tag) : (markTag s f t).ctlWait = s.ctlWait := rfl
@[simp] theorem markTag_lateData (s : State) (f : Nat) (t : Tag) : (markTag s f t).lateData = s.lateData := rfl
@[simp] theorem markTag_rlOps (s : State) (f : Nat) (t : Tag) : (markTag s f t).rlOps = s.rlOps := rfl
@[simp] theorem markTag_roleIn (s : State) (f : Nat) (t : Tag) : (markTag s f t).roleIn = s.roleIn := rfl
@[simp] theorem markTag_ports (s : State) (f : Nat) (t : Tag) : (markTag s f t).ports = s.ports := rfl
@[simp] theorem markTag_peers (s : State) (f : Nat) (t : Tag) : (markTag s f t).peers = s.peers := rfl
@[simp] theorem markTag_flows (s : State) (f : Nat) (t : Tag) : (markTag s f t).flows = s.flows := rfl
@[simp] theorem markTag_atomics (s : State) (f : Nat) (t : Tag) : (markTag s f t).atomics = s.atomics := rfl
@[simp] theorem markTag_notifies (s : State) (f : Nat) (t : Tag) : (markTag s f t).notifies = s.notifies := rfl
@[simp] theorem markTag_timeSync (s : State) (f : Nat) (t : Tag) : (markTag s f t).timeSync = s.timeSync := rfl
@[simp] theorem markTag_joint (s : State) (f : Nat) (t : Tag) : (markTag s f t).joint = s.joint := rfl
@[simp] theorem markTag_grants (s : State) (f : Nat) (t : Tag) : (markTag s f t).grants = s.grants := rfl
@[simp] theorem markTag_members (s : State) (f : Nat) (t : Tag) : (markTag s f t).members = s.members := rfl
@[simp] theorem markTag_power (s : State) (f : Nat) (t : Tag) : (markTag s f t).power = s.power := rfl
@[simp] theorem markTag_temps (s : State) (f : Nat) (t : Tag) : (markTag s f t).temps = s.temps := rfl
@[simp] theorem markTag_faults (s : State) (f : Nat) (t : Tag) : (markTag s f t).faults = s.faults := rfl
@[simp] theorem markTag_mboxes (s : State) (f : Nat) (t : Tag) : (markTag s f t).mboxes = s.mboxes := rfl
@[simp] theorem markTag_fns (s : State) (f : Nat) (t : Tag) : (markTag s f t).fns = s.fns := rfl
@[simp] theorem markTag_sec (s : State) (f : Nat) (t : Tag) : (markTag s f t).sec = s.sec := rfl
@[simp] theorem markTag_bist (s : State) (f : Nat) (t : Tag) : (markTag s f t).bist = s.bist := rfl
@[simp] theorem markTag_jrnl (s : State) (f : Nat) (t : Tag) : (markTag s f t).jrnl = s.jrnl := rfl
@[simp] theorem markTag_cxl (s : State) (f : Nat) (t : Tag) : (markTag s f t).cxl = s.cxl := rfl
@[simp] theorem markTag_timestamp (s : State) (f : Nat) (t : Tag) : (markTag s f t).timestamp = s.timestamp := rfl
@[simp] theorem markTag_out (s : State) (f : Nat) (t : Tag) : (markTag s f t).out = s.out := rfl
@[simp] theorem markTag_freeCtr (s : State) (f : Nat) (t : Tag) : (markTag s f t).freeCtr = s.freeCtr := rfl
@[simp] theorem markTag_pending (s : State) (f : Nat) (t : Tag) : (markTag s f t).pending = s.pending := rfl

/-! ### memClear -/

@[simp] theorem memClear_fuses (s : State) (a n : Nat) : (memClear s a n).fuses = s.fuses := rfl
@[simp] theorem memClear_pins (s : State) (a n : Nat) : (memClear s a n).pins = s.pins := rfl
@[simp] theorem memClear_fw (s : State) (a n : Nat) : (memClear s a n).fw = s.fw := rfl
@[simp] theorem memClear_tick (s : State) (a n : Nat) : (memClear s a n).tick = s.tick := rfl
@[simp] theorem memClear_regs (s : State) (a n : Nat) : (memClear s a n).regs = s.regs := rfl
@[simp] theorem memClear_bar2Last (s : State) (a n : Nat) : (memClear s a n).bar2Last = s.bar2Last := rfl
@[simp] theorem memClear_bar2Shadow (s : State) (a n : Nat) : (memClear s a n).bar2Shadow = s.bar2Shadow := rfl
@[simp] theorem memClear_regData (s : State) (a n : Nat) : (memClear s a n).regData = s.regData := rfl
@[simp] theorem memClear_tags (s : State) (a n : Nat) : (memClear s a n).tags = s.tags := rfl
@[simp] theorem memClear_arrays (s : State) (a n : Nat) : (memClear s a n).arrays = s.arrays := rfl
@[simp] theorem memClear_fes (s : State) (a n : Nat) : (memClear s a n).fes = s.fes := rfl
@[simp] theorem memClear_bars (s : State) (a n : Nat) : (memClear s a n).bars = s.bars := rfl
@[simp] theorem memClear_mere (s : State) (a n : Nat) : (memClear s a n).mere = s.mere := rfl
@[simp] theorem memClear_mgen (s : State) (a n : Nat) : (memClear s a n).mgen = s.mgen := rfl
@[simp] theorem memClear_items (s : State) (a n : Nat) : (memClear s a n).items = s.items := rfl
@[simp] theorem memClear_itemNo (s : State) (a n : Nat) : (memClear s a n).itemNo = s.itemNo := rfl
@[simp] theorem memClear_images (s : State) (a n : Nat) : (memClear s a n).images = s.images := rfl
@[simp] theorem memClear_adapters (s : State) (a n : Nat) : (memClear s a n).adapters = s.adapters := rfl
@[simp] theorem memClear_lps (s : State) (a n : Nat) : (memClear s a n).lps = s.lps := rfl
@[simp] theorem memClear_rqt (s : State) (a n : Nat) : (memClear s a n).rqt = s.rqt := rfl
@[simp] theorem memClear_work (s : State) (a n : Nat) : (memClear s a n).work = s.work := rfl
@[simp] theorem memClear_rounds (s : State) (a n : Nat) : (memClear s a n).rounds = s.rounds := rfl
@[simp] theorem memClear_roundNo (s : State) (a n : Nat) : (memClear s a n).roundNo = s.roundNo := rfl
@[simp] theorem memClear_nodes (s : State) (a n : Nat) : (memClear s a n).nodes = s.nodes := rfl
@[simp] theorem memClear_pages (s : State) (a n : Nat) : (memClear s a n).pages = s.pages := rfl
@[simp] theorem memClear_queues (s : State) (a n : Nat) : (memClear s a n).queues = s.queues := rfl
@[simp] theorem memClear_lastServed (s : State) (a n : Nat) : (memClear s a n).lastServed = s.lastServed := rfl
@[simp] theorem memClear_lds (s : State) (a n : Nat) : (memClear s a n).lds = s.lds := rfl
@[simp] theorem memClear_ops (s : State) (a n : Nat) : (memClear s a n).ops = s.ops := rfl
@[simp] theorem memClear_roles (s : State) (a n : Nat) : (memClear s a n).roles = s.roles := rfl
@[simp] theorem memClear_sent (s : State) (a n : Nat) : (memClear s a n).sent = s.sent := rfl
@[simp] theorem memClear_msgNo (s : State) (a n : Nat) : (memClear s a n).msgNo = s.msgNo := rfl
@[simp] theorem memClear_ctlWait (s : State) (a n : Nat) : (memClear s a n).ctlWait = s.ctlWait := rfl
@[simp] theorem memClear_lateData (s : State) (a n : Nat) : (memClear s a n).lateData = s.lateData := rfl
@[simp] theorem memClear_rlOps (s : State) (a n : Nat) : (memClear s a n).rlOps = s.rlOps := rfl
@[simp] theorem memClear_roleIn (s : State) (a n : Nat) : (memClear s a n).roleIn = s.roleIn := rfl
@[simp] theorem memClear_ports (s : State) (a n : Nat) : (memClear s a n).ports = s.ports := rfl
@[simp] theorem memClear_peers (s : State) (a n : Nat) : (memClear s a n).peers = s.peers := rfl
@[simp] theorem memClear_flows (s : State) (a n : Nat) : (memClear s a n).flows = s.flows := rfl
@[simp] theorem memClear_atomics (s : State) (a n : Nat) : (memClear s a n).atomics = s.atomics := rfl
@[simp] theorem memClear_notifies (s : State) (a n : Nat) : (memClear s a n).notifies = s.notifies := rfl
@[simp] theorem memClear_timeSync (s : State) (a n : Nat) : (memClear s a n).timeSync = s.timeSync := rfl
@[simp] theorem memClear_joint (s : State) (a n : Nat) : (memClear s a n).joint = s.joint := rfl
@[simp] theorem memClear_grants (s : State) (a n : Nat) : (memClear s a n).grants = s.grants := rfl
@[simp] theorem memClear_members (s : State) (a n : Nat) : (memClear s a n).members = s.members := rfl
@[simp] theorem memClear_power (s : State) (a n : Nat) : (memClear s a n).power = s.power := rfl
@[simp] theorem memClear_temps (s : State) (a n : Nat) : (memClear s a n).temps = s.temps := rfl
@[simp] theorem memClear_faults (s : State) (a n : Nat) : (memClear s a n).faults = s.faults := rfl
@[simp] theorem memClear_mboxes (s : State) (a n : Nat) : (memClear s a n).mboxes = s.mboxes := rfl
@[simp] theorem memClear_fns (s : State) (a n : Nat) : (memClear s a n).fns = s.fns := rfl
@[simp] theorem memClear_sec (s : State) (a n : Nat) : (memClear s a n).sec = s.sec := rfl
@[simp] theorem memClear_bist (s : State) (a n : Nat) : (memClear s a n).bist = s.bist := rfl
@[simp] theorem memClear_jrnl (s : State) (a n : Nat) : (memClear s a n).jrnl = s.jrnl := rfl
@[simp] theorem memClear_cxl (s : State) (a n : Nat) : (memClear s a n).cxl = s.cxl := rfl
@[simp] theorem memClear_timestamp (s : State) (a n : Nat) : (memClear s a n).timestamp = s.timestamp := rfl
@[simp] theorem memClear_out (s : State) (a n : Nat) : (memClear s a n).out = s.out := rfl
@[simp] theorem memClear_freeCtr (s : State) (a n : Nat) : (memClear s a n).freeCtr = s.freeCtr := rfl
@[simp] theorem memClear_pending (s : State) (a n : Nat) : (memClear s a n).pending = s.pending := rfl

/-! ### memWrites -/

@[simp] theorem memWrites_fuses (s : State) (a : Nat) (bs : List Byte) : (memWrites s a bs).fuses = s.fuses := rfl
@[simp] theorem memWrites_pins (s : State) (a : Nat) (bs : List Byte) : (memWrites s a bs).pins = s.pins := rfl
@[simp] theorem memWrites_fw (s : State) (a : Nat) (bs : List Byte) : (memWrites s a bs).fw = s.fw := rfl
@[simp] theorem memWrites_tick (s : State) (a : Nat) (bs : List Byte) : (memWrites s a bs).tick = s.tick := rfl
@[simp] theorem memWrites_regs (s : State) (a : Nat) (bs : List Byte) : (memWrites s a bs).regs = s.regs := rfl
@[simp] theorem memWrites_bar2Last (s : State) (a : Nat) (bs : List Byte) : (memWrites s a bs).bar2Last = s.bar2Last := rfl
@[simp] theorem memWrites_bar2Shadow (s : State) (a : Nat) (bs : List Byte) : (memWrites s a bs).bar2Shadow = s.bar2Shadow := rfl
@[simp] theorem memWrites_regData (s : State) (a : Nat) (bs : List Byte) : (memWrites s a bs).regData = s.regData := rfl
@[simp] theorem memWrites_poison (s : State) (a : Nat) (bs : List Byte) : (memWrites s a bs).poison = s.poison := rfl
@[simp] theorem memWrites_tags (s : State) (a : Nat) (bs : List Byte) : (memWrites s a bs).tags = s.tags := rfl
@[simp] theorem memWrites_arrays (s : State) (a : Nat) (bs : List Byte) : (memWrites s a bs).arrays = s.arrays := rfl
@[simp] theorem memWrites_fes (s : State) (a : Nat) (bs : List Byte) : (memWrites s a bs).fes = s.fes := rfl
@[simp] theorem memWrites_bars (s : State) (a : Nat) (bs : List Byte) : (memWrites s a bs).bars = s.bars := rfl
@[simp] theorem memWrites_mere (s : State) (a : Nat) (bs : List Byte) : (memWrites s a bs).mere = s.mere := rfl
@[simp] theorem memWrites_mgen (s : State) (a : Nat) (bs : List Byte) : (memWrites s a bs).mgen = s.mgen := rfl
@[simp] theorem memWrites_items (s : State) (a : Nat) (bs : List Byte) : (memWrites s a bs).items = s.items := rfl
@[simp] theorem memWrites_itemNo (s : State) (a : Nat) (bs : List Byte) : (memWrites s a bs).itemNo = s.itemNo := rfl
@[simp] theorem memWrites_images (s : State) (a : Nat) (bs : List Byte) : (memWrites s a bs).images = s.images := rfl
@[simp] theorem memWrites_adapters (s : State) (a : Nat) (bs : List Byte) : (memWrites s a bs).adapters = s.adapters := rfl
@[simp] theorem memWrites_lps (s : State) (a : Nat) (bs : List Byte) : (memWrites s a bs).lps = s.lps := rfl
@[simp] theorem memWrites_rqt (s : State) (a : Nat) (bs : List Byte) : (memWrites s a bs).rqt = s.rqt := rfl
@[simp] theorem memWrites_work (s : State) (a : Nat) (bs : List Byte) : (memWrites s a bs).work = s.work := rfl
@[simp] theorem memWrites_rounds (s : State) (a : Nat) (bs : List Byte) : (memWrites s a bs).rounds = s.rounds := rfl
@[simp] theorem memWrites_roundNo (s : State) (a : Nat) (bs : List Byte) : (memWrites s a bs).roundNo = s.roundNo := rfl
@[simp] theorem memWrites_nodes (s : State) (a : Nat) (bs : List Byte) : (memWrites s a bs).nodes = s.nodes := rfl
@[simp] theorem memWrites_pages (s : State) (a : Nat) (bs : List Byte) : (memWrites s a bs).pages = s.pages := rfl
@[simp] theorem memWrites_queues (s : State) (a : Nat) (bs : List Byte) : (memWrites s a bs).queues = s.queues := rfl
@[simp] theorem memWrites_lastServed (s : State) (a : Nat) (bs : List Byte) : (memWrites s a bs).lastServed = s.lastServed := rfl
@[simp] theorem memWrites_lds (s : State) (a : Nat) (bs : List Byte) : (memWrites s a bs).lds = s.lds := rfl
@[simp] theorem memWrites_ops (s : State) (a : Nat) (bs : List Byte) : (memWrites s a bs).ops = s.ops := rfl
@[simp] theorem memWrites_roles (s : State) (a : Nat) (bs : List Byte) : (memWrites s a bs).roles = s.roles := rfl
@[simp] theorem memWrites_sent (s : State) (a : Nat) (bs : List Byte) : (memWrites s a bs).sent = s.sent := rfl
@[simp] theorem memWrites_msgNo (s : State) (a : Nat) (bs : List Byte) : (memWrites s a bs).msgNo = s.msgNo := rfl
@[simp] theorem memWrites_ctlWait (s : State) (a : Nat) (bs : List Byte) : (memWrites s a bs).ctlWait = s.ctlWait := rfl
@[simp] theorem memWrites_lateData (s : State) (a : Nat) (bs : List Byte) : (memWrites s a bs).lateData = s.lateData := rfl
@[simp] theorem memWrites_rlOps (s : State) (a : Nat) (bs : List Byte) : (memWrites s a bs).rlOps = s.rlOps := rfl
@[simp] theorem memWrites_roleIn (s : State) (a : Nat) (bs : List Byte) : (memWrites s a bs).roleIn = s.roleIn := rfl
@[simp] theorem memWrites_ports (s : State) (a : Nat) (bs : List Byte) : (memWrites s a bs).ports = s.ports := rfl
@[simp] theorem memWrites_peers (s : State) (a : Nat) (bs : List Byte) : (memWrites s a bs).peers = s.peers := rfl
@[simp] theorem memWrites_flows (s : State) (a : Nat) (bs : List Byte) : (memWrites s a bs).flows = s.flows := rfl
@[simp] theorem memWrites_atomics (s : State) (a : Nat) (bs : List Byte) : (memWrites s a bs).atomics = s.atomics := rfl
@[simp] theorem memWrites_notifies (s : State) (a : Nat) (bs : List Byte) : (memWrites s a bs).notifies = s.notifies := rfl
@[simp] theorem memWrites_timeSync (s : State) (a : Nat) (bs : List Byte) : (memWrites s a bs).timeSync = s.timeSync := rfl
@[simp] theorem memWrites_joint (s : State) (a : Nat) (bs : List Byte) : (memWrites s a bs).joint = s.joint := rfl
@[simp] theorem memWrites_grants (s : State) (a : Nat) (bs : List Byte) : (memWrites s a bs).grants = s.grants := rfl
@[simp] theorem memWrites_members (s : State) (a : Nat) (bs : List Byte) : (memWrites s a bs).members = s.members := rfl
@[simp] theorem memWrites_power (s : State) (a : Nat) (bs : List Byte) : (memWrites s a bs).power = s.power := rfl
@[simp] theorem memWrites_temps (s : State) (a : Nat) (bs : List Byte) : (memWrites s a bs).temps = s.temps := rfl
@[simp] theorem memWrites_faults (s : State) (a : Nat) (bs : List Byte) : (memWrites s a bs).faults = s.faults := rfl
@[simp] theorem memWrites_mboxes (s : State) (a : Nat) (bs : List Byte) : (memWrites s a bs).mboxes = s.mboxes := rfl
@[simp] theorem memWrites_fns (s : State) (a : Nat) (bs : List Byte) : (memWrites s a bs).fns = s.fns := rfl
@[simp] theorem memWrites_sec (s : State) (a : Nat) (bs : List Byte) : (memWrites s a bs).sec = s.sec := rfl
@[simp] theorem memWrites_bist (s : State) (a : Nat) (bs : List Byte) : (memWrites s a bs).bist = s.bist := rfl
@[simp] theorem memWrites_jrnl (s : State) (a : Nat) (bs : List Byte) : (memWrites s a bs).jrnl = s.jrnl := rfl
@[simp] theorem memWrites_cxl (s : State) (a : Nat) (bs : List Byte) : (memWrites s a bs).cxl = s.cxl := rfl
@[simp] theorem memWrites_timestamp (s : State) (a : Nat) (bs : List Byte) : (memWrites s a bs).timestamp = s.timestamp := rfl
@[simp] theorem memWrites_out (s : State) (a : Nat) (bs : List Byte) : (memWrites s a bs).out = s.out := rfl
@[simp] theorem memWrites_freeCtr (s : State) (a : Nat) (bs : List Byte) : (memWrites s a bs).freeCtr = s.freeCtr := rfl
@[simp] theorem memWrites_pending (s : State) (a : Nat) (bs : List Byte) : (memWrites s a bs).pending = s.pending := rfl

/-! ### setItem -/

@[simp] theorem setItem_fuses (s : State) (w : ItemRun) : (setItem s w).fuses = s.fuses := rfl
@[simp] theorem setItem_pins (s : State) (w : ItemRun) : (setItem s w).pins = s.pins := rfl
@[simp] theorem setItem_fw (s : State) (w : ItemRun) : (setItem s w).fw = s.fw := rfl
@[simp] theorem setItem_tick (s : State) (w : ItemRun) : (setItem s w).tick = s.tick := rfl
@[simp] theorem setItem_regs (s : State) (w : ItemRun) : (setItem s w).regs = s.regs := rfl
@[simp] theorem setItem_bar2Last (s : State) (w : ItemRun) : (setItem s w).bar2Last = s.bar2Last := rfl
@[simp] theorem setItem_bar2Shadow (s : State) (w : ItemRun) : (setItem s w).bar2Shadow = s.bar2Shadow := rfl
@[simp] theorem setItem_regData (s : State) (w : ItemRun) : (setItem s w).regData = s.regData := rfl
@[simp] theorem setItem_mem (s : State) (w : ItemRun) : (setItem s w).mem = s.mem := rfl
@[simp] theorem setItem_poison (s : State) (w : ItemRun) : (setItem s w).poison = s.poison := rfl
@[simp] theorem setItem_tags (s : State) (w : ItemRun) : (setItem s w).tags = s.tags := rfl
@[simp] theorem setItem_arrays (s : State) (w : ItemRun) : (setItem s w).arrays = s.arrays := rfl
@[simp] theorem setItem_fes (s : State) (w : ItemRun) : (setItem s w).fes = s.fes := rfl
@[simp] theorem setItem_bars (s : State) (w : ItemRun) : (setItem s w).bars = s.bars := rfl
@[simp] theorem setItem_mere (s : State) (w : ItemRun) : (setItem s w).mere = s.mere := rfl
@[simp] theorem setItem_mgen (s : State) (w : ItemRun) : (setItem s w).mgen = s.mgen := rfl
@[simp] theorem setItem_itemNo (s : State) (w : ItemRun) : (setItem s w).itemNo = s.itemNo := rfl
@[simp] theorem setItem_images (s : State) (w : ItemRun) : (setItem s w).images = s.images := rfl
@[simp] theorem setItem_adapters (s : State) (w : ItemRun) : (setItem s w).adapters = s.adapters := rfl
@[simp] theorem setItem_lps (s : State) (w : ItemRun) : (setItem s w).lps = s.lps := rfl
@[simp] theorem setItem_rqt (s : State) (w : ItemRun) : (setItem s w).rqt = s.rqt := rfl
@[simp] theorem setItem_work (s : State) (w : ItemRun) : (setItem s w).work = s.work := rfl
@[simp] theorem setItem_rounds (s : State) (w : ItemRun) : (setItem s w).rounds = s.rounds := rfl
@[simp] theorem setItem_roundNo (s : State) (w : ItemRun) : (setItem s w).roundNo = s.roundNo := rfl
@[simp] theorem setItem_nodes (s : State) (w : ItemRun) : (setItem s w).nodes = s.nodes := rfl
@[simp] theorem setItem_pages (s : State) (w : ItemRun) : (setItem s w).pages = s.pages := rfl
@[simp] theorem setItem_queues (s : State) (w : ItemRun) : (setItem s w).queues = s.queues := rfl
@[simp] theorem setItem_lastServed (s : State) (w : ItemRun) : (setItem s w).lastServed = s.lastServed := rfl
@[simp] theorem setItem_lds (s : State) (w : ItemRun) : (setItem s w).lds = s.lds := rfl
@[simp] theorem setItem_ops (s : State) (w : ItemRun) : (setItem s w).ops = s.ops := rfl
@[simp] theorem setItem_roles (s : State) (w : ItemRun) : (setItem s w).roles = s.roles := rfl
@[simp] theorem setItem_sent (s : State) (w : ItemRun) : (setItem s w).sent = s.sent := rfl
@[simp] theorem setItem_msgNo (s : State) (w : ItemRun) : (setItem s w).msgNo = s.msgNo := rfl
@[simp] theorem setItem_ctlWait (s : State) (w : ItemRun) : (setItem s w).ctlWait = s.ctlWait := rfl
@[simp] theorem setItem_lateData (s : State) (w : ItemRun) : (setItem s w).lateData = s.lateData := rfl
@[simp] theorem setItem_rlOps (s : State) (w : ItemRun) : (setItem s w).rlOps = s.rlOps := rfl
@[simp] theorem setItem_roleIn (s : State) (w : ItemRun) : (setItem s w).roleIn = s.roleIn := rfl
@[simp] theorem setItem_ports (s : State) (w : ItemRun) : (setItem s w).ports = s.ports := rfl
@[simp] theorem setItem_peers (s : State) (w : ItemRun) : (setItem s w).peers = s.peers := rfl
@[simp] theorem setItem_flows (s : State) (w : ItemRun) : (setItem s w).flows = s.flows := rfl
@[simp] theorem setItem_atomics (s : State) (w : ItemRun) : (setItem s w).atomics = s.atomics := rfl
@[simp] theorem setItem_notifies (s : State) (w : ItemRun) : (setItem s w).notifies = s.notifies := rfl
@[simp] theorem setItem_timeSync (s : State) (w : ItemRun) : (setItem s w).timeSync = s.timeSync := rfl
@[simp] theorem setItem_joint (s : State) (w : ItemRun) : (setItem s w).joint = s.joint := rfl
@[simp] theorem setItem_grants (s : State) (w : ItemRun) : (setItem s w).grants = s.grants := rfl
@[simp] theorem setItem_members (s : State) (w : ItemRun) : (setItem s w).members = s.members := rfl
@[simp] theorem setItem_power (s : State) (w : ItemRun) : (setItem s w).power = s.power := rfl
@[simp] theorem setItem_temps (s : State) (w : ItemRun) : (setItem s w).temps = s.temps := rfl
@[simp] theorem setItem_faults (s : State) (w : ItemRun) : (setItem s w).faults = s.faults := rfl
@[simp] theorem setItem_mboxes (s : State) (w : ItemRun) : (setItem s w).mboxes = s.mboxes := rfl
@[simp] theorem setItem_fns (s : State) (w : ItemRun) : (setItem s w).fns = s.fns := rfl
@[simp] theorem setItem_sec (s : State) (w : ItemRun) : (setItem s w).sec = s.sec := rfl
@[simp] theorem setItem_bist (s : State) (w : ItemRun) : (setItem s w).bist = s.bist := rfl
@[simp] theorem setItem_jrnl (s : State) (w : ItemRun) : (setItem s w).jrnl = s.jrnl := rfl
@[simp] theorem setItem_cxl (s : State) (w : ItemRun) : (setItem s w).cxl = s.cxl := rfl
@[simp] theorem setItem_timestamp (s : State) (w : ItemRun) : (setItem s w).timestamp = s.timestamp := rfl
@[simp] theorem setItem_out (s : State) (w : ItemRun) : (setItem s w).out = s.out := rfl
@[simp] theorem setItem_freeCtr (s : State) (w : ItemRun) : (setItem s w).freeCtr = s.freeCtr := rfl
@[simp] theorem setItem_pending (s : State) (w : ItemRun) : (setItem s w).pending = s.pending := rfl

/-! ### setWork -/

@[simp] theorem setWork_fuses (s : State) (i : Nat) (w : Work) : (setWork s i w).fuses = s.fuses := rfl
@[simp] theorem setWork_pins (s : State) (i : Nat) (w : Work) : (setWork s i w).pins = s.pins := rfl
@[simp] theorem setWork_fw (s : State) (i : Nat) (w : Work) : (setWork s i w).fw = s.fw := rfl
@[simp] theorem setWork_tick (s : State) (i : Nat) (w : Work) : (setWork s i w).tick = s.tick := rfl
@[simp] theorem setWork_regs (s : State) (i : Nat) (w : Work) : (setWork s i w).regs = s.regs := rfl
@[simp] theorem setWork_bar2Last (s : State) (i : Nat) (w : Work) : (setWork s i w).bar2Last = s.bar2Last := rfl
@[simp] theorem setWork_bar2Shadow (s : State) (i : Nat) (w : Work) : (setWork s i w).bar2Shadow = s.bar2Shadow := rfl
@[simp] theorem setWork_regData (s : State) (i : Nat) (w : Work) : (setWork s i w).regData = s.regData := rfl
@[simp] theorem setWork_mem (s : State) (i : Nat) (w : Work) : (setWork s i w).mem = s.mem := rfl
@[simp] theorem setWork_poison (s : State) (i : Nat) (w : Work) : (setWork s i w).poison = s.poison := rfl
@[simp] theorem setWork_tags (s : State) (i : Nat) (w : Work) : (setWork s i w).tags = s.tags := rfl
@[simp] theorem setWork_arrays (s : State) (i : Nat) (w : Work) : (setWork s i w).arrays = s.arrays := rfl
@[simp] theorem setWork_fes (s : State) (i : Nat) (w : Work) : (setWork s i w).fes = s.fes := rfl
@[simp] theorem setWork_bars (s : State) (i : Nat) (w : Work) : (setWork s i w).bars = s.bars := rfl
@[simp] theorem setWork_mere (s : State) (i : Nat) (w : Work) : (setWork s i w).mere = s.mere := rfl
@[simp] theorem setWork_mgen (s : State) (i : Nat) (w : Work) : (setWork s i w).mgen = s.mgen := rfl
@[simp] theorem setWork_items (s : State) (i : Nat) (w : Work) : (setWork s i w).items = s.items := rfl
@[simp] theorem setWork_itemNo (s : State) (i : Nat) (w : Work) : (setWork s i w).itemNo = s.itemNo := rfl
@[simp] theorem setWork_images (s : State) (i : Nat) (w : Work) : (setWork s i w).images = s.images := rfl
@[simp] theorem setWork_adapters (s : State) (i : Nat) (w : Work) : (setWork s i w).adapters = s.adapters := rfl
@[simp] theorem setWork_lps (s : State) (i : Nat) (w : Work) : (setWork s i w).lps = s.lps := rfl
@[simp] theorem setWork_rqt (s : State) (i : Nat) (w : Work) : (setWork s i w).rqt = s.rqt := rfl
@[simp] theorem setWork_rounds (s : State) (i : Nat) (w : Work) : (setWork s i w).rounds = s.rounds := rfl
@[simp] theorem setWork_roundNo (s : State) (i : Nat) (w : Work) : (setWork s i w).roundNo = s.roundNo := rfl
@[simp] theorem setWork_nodes (s : State) (i : Nat) (w : Work) : (setWork s i w).nodes = s.nodes := rfl
@[simp] theorem setWork_pages (s : State) (i : Nat) (w : Work) : (setWork s i w).pages = s.pages := rfl
@[simp] theorem setWork_queues (s : State) (i : Nat) (w : Work) : (setWork s i w).queues = s.queues := rfl
@[simp] theorem setWork_lastServed (s : State) (i : Nat) (w : Work) : (setWork s i w).lastServed = s.lastServed := rfl
@[simp] theorem setWork_lds (s : State) (i : Nat) (w : Work) : (setWork s i w).lds = s.lds := rfl
@[simp] theorem setWork_ops (s : State) (i : Nat) (w : Work) : (setWork s i w).ops = s.ops := rfl
@[simp] theorem setWork_roles (s : State) (i : Nat) (w : Work) : (setWork s i w).roles = s.roles := rfl
@[simp] theorem setWork_sent (s : State) (i : Nat) (w : Work) : (setWork s i w).sent = s.sent := rfl
@[simp] theorem setWork_msgNo (s : State) (i : Nat) (w : Work) : (setWork s i w).msgNo = s.msgNo := rfl
@[simp] theorem setWork_ctlWait (s : State) (i : Nat) (w : Work) : (setWork s i w).ctlWait = s.ctlWait := rfl
@[simp] theorem setWork_lateData (s : State) (i : Nat) (w : Work) : (setWork s i w).lateData = s.lateData := rfl
@[simp] theorem setWork_rlOps (s : State) (i : Nat) (w : Work) : (setWork s i w).rlOps = s.rlOps := rfl
@[simp] theorem setWork_roleIn (s : State) (i : Nat) (w : Work) : (setWork s i w).roleIn = s.roleIn := rfl
@[simp] theorem setWork_ports (s : State) (i : Nat) (w : Work) : (setWork s i w).ports = s.ports := rfl
@[simp] theorem setWork_peers (s : State) (i : Nat) (w : Work) : (setWork s i w).peers = s.peers := rfl
@[simp] theorem setWork_flows (s : State) (i : Nat) (w : Work) : (setWork s i w).flows = s.flows := rfl
@[simp] theorem setWork_atomics (s : State) (i : Nat) (w : Work) : (setWork s i w).atomics = s.atomics := rfl
@[simp] theorem setWork_notifies (s : State) (i : Nat) (w : Work) : (setWork s i w).notifies = s.notifies := rfl
@[simp] theorem setWork_timeSync (s : State) (i : Nat) (w : Work) : (setWork s i w).timeSync = s.timeSync := rfl
@[simp] theorem setWork_joint (s : State) (i : Nat) (w : Work) : (setWork s i w).joint = s.joint := rfl
@[simp] theorem setWork_grants (s : State) (i : Nat) (w : Work) : (setWork s i w).grants = s.grants := rfl
@[simp] theorem setWork_members (s : State) (i : Nat) (w : Work) : (setWork s i w).members = s.members := rfl
@[simp] theorem setWork_power (s : State) (i : Nat) (w : Work) : (setWork s i w).power = s.power := rfl
@[simp] theorem setWork_temps (s : State) (i : Nat) (w : Work) : (setWork s i w).temps = s.temps := rfl
@[simp] theorem setWork_faults (s : State) (i : Nat) (w : Work) : (setWork s i w).faults = s.faults := rfl
@[simp] theorem setWork_mboxes (s : State) (i : Nat) (w : Work) : (setWork s i w).mboxes = s.mboxes := rfl
@[simp] theorem setWork_fns (s : State) (i : Nat) (w : Work) : (setWork s i w).fns = s.fns := rfl
@[simp] theorem setWork_sec (s : State) (i : Nat) (w : Work) : (setWork s i w).sec = s.sec := rfl
@[simp] theorem setWork_bist (s : State) (i : Nat) (w : Work) : (setWork s i w).bist = s.bist := rfl
@[simp] theorem setWork_jrnl (s : State) (i : Nat) (w : Work) : (setWork s i w).jrnl = s.jrnl := rfl
@[simp] theorem setWork_cxl (s : State) (i : Nat) (w : Work) : (setWork s i w).cxl = s.cxl := rfl
@[simp] theorem setWork_timestamp (s : State) (i : Nat) (w : Work) : (setWork s i w).timestamp = s.timestamp := rfl
@[simp] theorem setWork_out (s : State) (i : Nat) (w : Work) : (setWork s i w).out = s.out := rfl
@[simp] theorem setWork_freeCtr (s : State) (i : Nat) (w : Work) : (setWork s i w).freeCtr = s.freeCtr := rfl
@[simp] theorem setWork_pending (s : State) (i : Nat) (w : Work) : (setWork s i w).pending = s.pending := rfl

/-! ### setEntry -/

@[simp] theorem setEntry_fuses (s : State) (i : Nat) (e : Entry) : (setEntry s i e).fuses = s.fuses := rfl
@[simp] theorem setEntry_pins (s : State) (i : Nat) (e : Entry) : (setEntry s i e).pins = s.pins := rfl
@[simp] theorem setEntry_fw (s : State) (i : Nat) (e : Entry) : (setEntry s i e).fw = s.fw := rfl
@[simp] theorem setEntry_tick (s : State) (i : Nat) (e : Entry) : (setEntry s i e).tick = s.tick := rfl
@[simp] theorem setEntry_regs (s : State) (i : Nat) (e : Entry) : (setEntry s i e).regs = s.regs := rfl
@[simp] theorem setEntry_bar2Last (s : State) (i : Nat) (e : Entry) : (setEntry s i e).bar2Last = s.bar2Last := rfl
@[simp] theorem setEntry_bar2Shadow (s : State) (i : Nat) (e : Entry) : (setEntry s i e).bar2Shadow = s.bar2Shadow := rfl
@[simp] theorem setEntry_regData (s : State) (i : Nat) (e : Entry) : (setEntry s i e).regData = s.regData := rfl
@[simp] theorem setEntry_mem (s : State) (i : Nat) (e : Entry) : (setEntry s i e).mem = s.mem := rfl
@[simp] theorem setEntry_poison (s : State) (i : Nat) (e : Entry) : (setEntry s i e).poison = s.poison := rfl
@[simp] theorem setEntry_tags (s : State) (i : Nat) (e : Entry) : (setEntry s i e).tags = s.tags := rfl
@[simp] theorem setEntry_arrays (s : State) (i : Nat) (e : Entry) : (setEntry s i e).arrays = s.arrays := rfl
@[simp] theorem setEntry_fes (s : State) (i : Nat) (e : Entry) : (setEntry s i e).fes = s.fes := rfl
@[simp] theorem setEntry_bars (s : State) (i : Nat) (e : Entry) : (setEntry s i e).bars = s.bars := rfl
@[simp] theorem setEntry_mere (s : State) (i : Nat) (e : Entry) : (setEntry s i e).mere = s.mere := rfl
@[simp] theorem setEntry_mgen (s : State) (i : Nat) (e : Entry) : (setEntry s i e).mgen = s.mgen := rfl
@[simp] theorem setEntry_items (s : State) (i : Nat) (e : Entry) : (setEntry s i e).items = s.items := rfl
@[simp] theorem setEntry_itemNo (s : State) (i : Nat) (e : Entry) : (setEntry s i e).itemNo = s.itemNo := rfl
@[simp] theorem setEntry_images (s : State) (i : Nat) (e : Entry) : (setEntry s i e).images = s.images := rfl
@[simp] theorem setEntry_adapters (s : State) (i : Nat) (e : Entry) : (setEntry s i e).adapters = s.adapters := rfl
@[simp] theorem setEntry_lps (s : State) (i : Nat) (e : Entry) : (setEntry s i e).lps = s.lps := rfl
@[simp] theorem setEntry_work (s : State) (i : Nat) (e : Entry) : (setEntry s i e).work = s.work := rfl
@[simp] theorem setEntry_rounds (s : State) (i : Nat) (e : Entry) : (setEntry s i e).rounds = s.rounds := rfl
@[simp] theorem setEntry_roundNo (s : State) (i : Nat) (e : Entry) : (setEntry s i e).roundNo = s.roundNo := rfl
@[simp] theorem setEntry_nodes (s : State) (i : Nat) (e : Entry) : (setEntry s i e).nodes = s.nodes := rfl
@[simp] theorem setEntry_pages (s : State) (i : Nat) (e : Entry) : (setEntry s i e).pages = s.pages := rfl
@[simp] theorem setEntry_queues (s : State) (i : Nat) (e : Entry) : (setEntry s i e).queues = s.queues := rfl
@[simp] theorem setEntry_lastServed (s : State) (i : Nat) (e : Entry) : (setEntry s i e).lastServed = s.lastServed := rfl
@[simp] theorem setEntry_lds (s : State) (i : Nat) (e : Entry) : (setEntry s i e).lds = s.lds := rfl
@[simp] theorem setEntry_ops (s : State) (i : Nat) (e : Entry) : (setEntry s i e).ops = s.ops := rfl
@[simp] theorem setEntry_roles (s : State) (i : Nat) (e : Entry) : (setEntry s i e).roles = s.roles := rfl
@[simp] theorem setEntry_sent (s : State) (i : Nat) (e : Entry) : (setEntry s i e).sent = s.sent := rfl
@[simp] theorem setEntry_msgNo (s : State) (i : Nat) (e : Entry) : (setEntry s i e).msgNo = s.msgNo := rfl
@[simp] theorem setEntry_ctlWait (s : State) (i : Nat) (e : Entry) : (setEntry s i e).ctlWait = s.ctlWait := rfl
@[simp] theorem setEntry_lateData (s : State) (i : Nat) (e : Entry) : (setEntry s i e).lateData = s.lateData := rfl
@[simp] theorem setEntry_rlOps (s : State) (i : Nat) (e : Entry) : (setEntry s i e).rlOps = s.rlOps := rfl
@[simp] theorem setEntry_roleIn (s : State) (i : Nat) (e : Entry) : (setEntry s i e).roleIn = s.roleIn := rfl
@[simp] theorem setEntry_ports (s : State) (i : Nat) (e : Entry) : (setEntry s i e).ports = s.ports := rfl
@[simp] theorem setEntry_peers (s : State) (i : Nat) (e : Entry) : (setEntry s i e).peers = s.peers := rfl
@[simp] theorem setEntry_flows (s : State) (i : Nat) (e : Entry) : (setEntry s i e).flows = s.flows := rfl
@[simp] theorem setEntry_atomics (s : State) (i : Nat) (e : Entry) : (setEntry s i e).atomics = s.atomics := rfl
@[simp] theorem setEntry_notifies (s : State) (i : Nat) (e : Entry) : (setEntry s i e).notifies = s.notifies := rfl
@[simp] theorem setEntry_timeSync (s : State) (i : Nat) (e : Entry) : (setEntry s i e).timeSync = s.timeSync := rfl
@[simp] theorem setEntry_joint (s : State) (i : Nat) (e : Entry) : (setEntry s i e).joint = s.joint := rfl
@[simp] theorem setEntry_grants (s : State) (i : Nat) (e : Entry) : (setEntry s i e).grants = s.grants := rfl
@[simp] theorem setEntry_members (s : State) (i : Nat) (e : Entry) : (setEntry s i e).members = s.members := rfl
@[simp] theorem setEntry_power (s : State) (i : Nat) (e : Entry) : (setEntry s i e).power = s.power := rfl
@[simp] theorem setEntry_temps (s : State) (i : Nat) (e : Entry) : (setEntry s i e).temps = s.temps := rfl
@[simp] theorem setEntry_faults (s : State) (i : Nat) (e : Entry) : (setEntry s i e).faults = s.faults := rfl
@[simp] theorem setEntry_mboxes (s : State) (i : Nat) (e : Entry) : (setEntry s i e).mboxes = s.mboxes := rfl
@[simp] theorem setEntry_fns (s : State) (i : Nat) (e : Entry) : (setEntry s i e).fns = s.fns := rfl
@[simp] theorem setEntry_sec (s : State) (i : Nat) (e : Entry) : (setEntry s i e).sec = s.sec := rfl
@[simp] theorem setEntry_bist (s : State) (i : Nat) (e : Entry) : (setEntry s i e).bist = s.bist := rfl
@[simp] theorem setEntry_jrnl (s : State) (i : Nat) (e : Entry) : (setEntry s i e).jrnl = s.jrnl := rfl
@[simp] theorem setEntry_cxl (s : State) (i : Nat) (e : Entry) : (setEntry s i e).cxl = s.cxl := rfl
@[simp] theorem setEntry_timestamp (s : State) (i : Nat) (e : Entry) : (setEntry s i e).timestamp = s.timestamp := rfl
@[simp] theorem setEntry_out (s : State) (i : Nat) (e : Entry) : (setEntry s i e).out = s.out := rfl
@[simp] theorem setEntry_freeCtr (s : State) (i : Nat) (e : Entry) : (setEntry s i e).freeCtr = s.freeCtr := rfl
@[simp] theorem setEntry_pending (s : State) (i : Nat) (e : Entry) : (setEntry s i e).pending = s.pending := rfl

/-! ### raiseIbi -/

@[simp] theorem raiseIbi_fuses (s : State) (n : Nat) : (raiseIbi s n).fuses = s.fuses := rfl
@[simp] theorem raiseIbi_fw (s : State) (n : Nat) : (raiseIbi s n).fw = s.fw := rfl
@[simp] theorem raiseIbi_tick (s : State) (n : Nat) : (raiseIbi s n).tick = s.tick := rfl
@[simp] theorem raiseIbi_regs (s : State) (n : Nat) : (raiseIbi s n).regs = s.regs := rfl
@[simp] theorem raiseIbi_bar2Last (s : State) (n : Nat) : (raiseIbi s n).bar2Last = s.bar2Last := rfl
@[simp] theorem raiseIbi_bar2Shadow (s : State) (n : Nat) : (raiseIbi s n).bar2Shadow = s.bar2Shadow := rfl
@[simp] theorem raiseIbi_regData (s : State) (n : Nat) : (raiseIbi s n).regData = s.regData := rfl
@[simp] theorem raiseIbi_mem (s : State) (n : Nat) : (raiseIbi s n).mem = s.mem := rfl
@[simp] theorem raiseIbi_poison (s : State) (n : Nat) : (raiseIbi s n).poison = s.poison := rfl
@[simp] theorem raiseIbi_tags (s : State) (n : Nat) : (raiseIbi s n).tags = s.tags := rfl
@[simp] theorem raiseIbi_arrays (s : State) (n : Nat) : (raiseIbi s n).arrays = s.arrays := rfl
@[simp] theorem raiseIbi_fes (s : State) (n : Nat) : (raiseIbi s n).fes = s.fes := rfl
@[simp] theorem raiseIbi_bars (s : State) (n : Nat) : (raiseIbi s n).bars = s.bars := rfl
@[simp] theorem raiseIbi_mere (s : State) (n : Nat) : (raiseIbi s n).mere = s.mere := rfl
@[simp] theorem raiseIbi_mgen (s : State) (n : Nat) : (raiseIbi s n).mgen = s.mgen := rfl
@[simp] theorem raiseIbi_items (s : State) (n : Nat) : (raiseIbi s n).items = s.items := rfl
@[simp] theorem raiseIbi_itemNo (s : State) (n : Nat) : (raiseIbi s n).itemNo = s.itemNo := rfl
@[simp] theorem raiseIbi_images (s : State) (n : Nat) : (raiseIbi s n).images = s.images := rfl
@[simp] theorem raiseIbi_adapters (s : State) (n : Nat) : (raiseIbi s n).adapters = s.adapters := rfl
@[simp] theorem raiseIbi_lps (s : State) (n : Nat) : (raiseIbi s n).lps = s.lps := rfl
@[simp] theorem raiseIbi_rqt (s : State) (n : Nat) : (raiseIbi s n).rqt = s.rqt := rfl
@[simp] theorem raiseIbi_work (s : State) (n : Nat) : (raiseIbi s n).work = s.work := rfl
@[simp] theorem raiseIbi_rounds (s : State) (n : Nat) : (raiseIbi s n).rounds = s.rounds := rfl
@[simp] theorem raiseIbi_roundNo (s : State) (n : Nat) : (raiseIbi s n).roundNo = s.roundNo := rfl
@[simp] theorem raiseIbi_nodes (s : State) (n : Nat) : (raiseIbi s n).nodes = s.nodes := rfl
@[simp] theorem raiseIbi_pages (s : State) (n : Nat) : (raiseIbi s n).pages = s.pages := rfl
@[simp] theorem raiseIbi_queues (s : State) (n : Nat) : (raiseIbi s n).queues = s.queues := rfl
@[simp] theorem raiseIbi_lastServed (s : State) (n : Nat) : (raiseIbi s n).lastServed = s.lastServed := rfl
@[simp] theorem raiseIbi_lds (s : State) (n : Nat) : (raiseIbi s n).lds = s.lds := rfl
@[simp] theorem raiseIbi_ops (s : State) (n : Nat) : (raiseIbi s n).ops = s.ops := rfl
@[simp] theorem raiseIbi_roles (s : State) (n : Nat) : (raiseIbi s n).roles = s.roles := rfl
@[simp] theorem raiseIbi_sent (s : State) (n : Nat) : (raiseIbi s n).sent = s.sent := rfl
@[simp] theorem raiseIbi_msgNo (s : State) (n : Nat) : (raiseIbi s n).msgNo = s.msgNo := rfl
@[simp] theorem raiseIbi_ctlWait (s : State) (n : Nat) : (raiseIbi s n).ctlWait = s.ctlWait := rfl
@[simp] theorem raiseIbi_lateData (s : State) (n : Nat) : (raiseIbi s n).lateData = s.lateData := rfl
@[simp] theorem raiseIbi_rlOps (s : State) (n : Nat) : (raiseIbi s n).rlOps = s.rlOps := rfl
@[simp] theorem raiseIbi_roleIn (s : State) (n : Nat) : (raiseIbi s n).roleIn = s.roleIn := rfl
@[simp] theorem raiseIbi_ports (s : State) (n : Nat) : (raiseIbi s n).ports = s.ports := rfl
@[simp] theorem raiseIbi_peers (s : State) (n : Nat) : (raiseIbi s n).peers = s.peers := rfl
@[simp] theorem raiseIbi_flows (s : State) (n : Nat) : (raiseIbi s n).flows = s.flows := rfl
@[simp] theorem raiseIbi_atomics (s : State) (n : Nat) : (raiseIbi s n).atomics = s.atomics := rfl
@[simp] theorem raiseIbi_notifies (s : State) (n : Nat) : (raiseIbi s n).notifies = s.notifies := rfl
@[simp] theorem raiseIbi_timeSync (s : State) (n : Nat) : (raiseIbi s n).timeSync = s.timeSync := rfl
@[simp] theorem raiseIbi_joint (s : State) (n : Nat) : (raiseIbi s n).joint = s.joint := rfl
@[simp] theorem raiseIbi_grants (s : State) (n : Nat) : (raiseIbi s n).grants = s.grants := rfl
@[simp] theorem raiseIbi_members (s : State) (n : Nat) : (raiseIbi s n).members = s.members := rfl
@[simp] theorem raiseIbi_power (s : State) (n : Nat) : (raiseIbi s n).power = s.power := rfl
@[simp] theorem raiseIbi_temps (s : State) (n : Nat) : (raiseIbi s n).temps = s.temps := rfl
@[simp] theorem raiseIbi_faults (s : State) (n : Nat) : (raiseIbi s n).faults = s.faults := rfl
@[simp] theorem raiseIbi_mboxes (s : State) (n : Nat) : (raiseIbi s n).mboxes = s.mboxes := rfl
@[simp] theorem raiseIbi_fns (s : State) (n : Nat) : (raiseIbi s n).fns = s.fns := rfl
@[simp] theorem raiseIbi_sec (s : State) (n : Nat) : (raiseIbi s n).sec = s.sec := rfl
@[simp] theorem raiseIbi_bist (s : State) (n : Nat) : (raiseIbi s n).bist = s.bist := rfl
@[simp] theorem raiseIbi_jrnl (s : State) (n : Nat) : (raiseIbi s n).jrnl = s.jrnl := rfl
@[simp] theorem raiseIbi_cxl (s : State) (n : Nat) : (raiseIbi s n).cxl = s.cxl := rfl
@[simp] theorem raiseIbi_timestamp (s : State) (n : Nat) : (raiseIbi s n).timestamp = s.timestamp := rfl
@[simp] theorem raiseIbi_out (s : State) (n : Nat) : (raiseIbi s n).out = s.out := rfl
@[simp] theorem raiseIbi_freeCtr (s : State) (n : Nat) : (raiseIbi s n).freeCtr = s.freeCtr := rfl
@[simp] theorem raiseIbi_pending (s : State) (n : Nat) : (raiseIbi s n).pending = s.pending := rfl

/-! ### regSet -/

@[simp] theorem regSet_fuses (s : State) (o v : Nat) : (regSet s o v).fuses = s.fuses := rfl
@[simp] theorem regSet_pins (s : State) (o v : Nat) : (regSet s o v).pins = s.pins := rfl
@[simp] theorem regSet_fw (s : State) (o v : Nat) : (regSet s o v).fw = s.fw := rfl
@[simp] theorem regSet_tick (s : State) (o v : Nat) : (regSet s o v).tick = s.tick := rfl
@[simp] theorem regSet_bar2Last (s : State) (o v : Nat) : (regSet s o v).bar2Last = s.bar2Last := rfl
@[simp] theorem regSet_bar2Shadow (s : State) (o v : Nat) : (regSet s o v).bar2Shadow = s.bar2Shadow := rfl
@[simp] theorem regSet_regData (s : State) (o v : Nat) : (regSet s o v).regData = s.regData := rfl
@[simp] theorem regSet_mem (s : State) (o v : Nat) : (regSet s o v).mem = s.mem := rfl
@[simp] theorem regSet_poison (s : State) (o v : Nat) : (regSet s o v).poison = s.poison := rfl
@[simp] theorem regSet_tags (s : State) (o v : Nat) : (regSet s o v).tags = s.tags := rfl
@[simp] theorem regSet_arrays (s : State) (o v : Nat) : (regSet s o v).arrays = s.arrays := rfl
@[simp] theorem regSet_fes (s : State) (o v : Nat) : (regSet s o v).fes = s.fes := rfl
@[simp] theorem regSet_bars (s : State) (o v : Nat) : (regSet s o v).bars = s.bars := rfl
@[simp] theorem regSet_mere (s : State) (o v : Nat) : (regSet s o v).mere = s.mere := rfl
@[simp] theorem regSet_mgen (s : State) (o v : Nat) : (regSet s o v).mgen = s.mgen := rfl
@[simp] theorem regSet_items (s : State) (o v : Nat) : (regSet s o v).items = s.items := rfl
@[simp] theorem regSet_itemNo (s : State) (o v : Nat) : (regSet s o v).itemNo = s.itemNo := rfl
@[simp] theorem regSet_images (s : State) (o v : Nat) : (regSet s o v).images = s.images := rfl
@[simp] theorem regSet_adapters (s : State) (o v : Nat) : (regSet s o v).adapters = s.adapters := rfl
@[simp] theorem regSet_lps (s : State) (o v : Nat) : (regSet s o v).lps = s.lps := rfl
@[simp] theorem regSet_rqt (s : State) (o v : Nat) : (regSet s o v).rqt = s.rqt := rfl
@[simp] theorem regSet_work (s : State) (o v : Nat) : (regSet s o v).work = s.work := rfl
@[simp] theorem regSet_rounds (s : State) (o v : Nat) : (regSet s o v).rounds = s.rounds := rfl
@[simp] theorem regSet_roundNo (s : State) (o v : Nat) : (regSet s o v).roundNo = s.roundNo := rfl
@[simp] theorem regSet_nodes (s : State) (o v : Nat) : (regSet s o v).nodes = s.nodes := rfl
@[simp] theorem regSet_pages (s : State) (o v : Nat) : (regSet s o v).pages = s.pages := rfl
@[simp] theorem regSet_queues (s : State) (o v : Nat) : (regSet s o v).queues = s.queues := rfl
@[simp] theorem regSet_lastServed (s : State) (o v : Nat) : (regSet s o v).lastServed = s.lastServed := rfl
@[simp] theorem regSet_lds (s : State) (o v : Nat) : (regSet s o v).lds = s.lds := rfl
@[simp] theorem regSet_ops (s : State) (o v : Nat) : (regSet s o v).ops = s.ops := rfl
@[simp] theorem regSet_roles (s : State) (o v : Nat) : (regSet s o v).roles = s.roles := rfl
@[simp] theorem regSet_sent (s : State) (o v : Nat) : (regSet s o v).sent = s.sent := rfl
@[simp] theorem regSet_msgNo (s : State) (o v : Nat) : (regSet s o v).msgNo = s.msgNo := rfl
@[simp] theorem regSet_ctlWait (s : State) (o v : Nat) : (regSet s o v).ctlWait = s.ctlWait := rfl
@[simp] theorem regSet_lateData (s : State) (o v : Nat) : (regSet s o v).lateData = s.lateData := rfl
@[simp] theorem regSet_rlOps (s : State) (o v : Nat) : (regSet s o v).rlOps = s.rlOps := rfl
@[simp] theorem regSet_roleIn (s : State) (o v : Nat) : (regSet s o v).roleIn = s.roleIn := rfl
@[simp] theorem regSet_ports (s : State) (o v : Nat) : (regSet s o v).ports = s.ports := rfl
@[simp] theorem regSet_peers (s : State) (o v : Nat) : (regSet s o v).peers = s.peers := rfl
@[simp] theorem regSet_flows (s : State) (o v : Nat) : (regSet s o v).flows = s.flows := rfl
@[simp] theorem regSet_atomics (s : State) (o v : Nat) : (regSet s o v).atomics = s.atomics := rfl
@[simp] theorem regSet_notifies (s : State) (o v : Nat) : (regSet s o v).notifies = s.notifies := rfl
@[simp] theorem regSet_timeSync (s : State) (o v : Nat) : (regSet s o v).timeSync = s.timeSync := rfl
@[simp] theorem regSet_joint (s : State) (o v : Nat) : (regSet s o v).joint = s.joint := rfl
@[simp] theorem regSet_grants (s : State) (o v : Nat) : (regSet s o v).grants = s.grants := rfl
@[simp] theorem regSet_members (s : State) (o v : Nat) : (regSet s o v).members = s.members := rfl
@[simp] theorem regSet_power (s : State) (o v : Nat) : (regSet s o v).power = s.power := rfl
@[simp] theorem regSet_temps (s : State) (o v : Nat) : (regSet s o v).temps = s.temps := rfl
@[simp] theorem regSet_faults (s : State) (o v : Nat) : (regSet s o v).faults = s.faults := rfl
@[simp] theorem regSet_mboxes (s : State) (o v : Nat) : (regSet s o v).mboxes = s.mboxes := rfl
@[simp] theorem regSet_fns (s : State) (o v : Nat) : (regSet s o v).fns = s.fns := rfl
@[simp] theorem regSet_sec (s : State) (o v : Nat) : (regSet s o v).sec = s.sec := rfl
@[simp] theorem regSet_bist (s : State) (o v : Nat) : (regSet s o v).bist = s.bist := rfl
@[simp] theorem regSet_jrnl (s : State) (o v : Nat) : (regSet s o v).jrnl = s.jrnl := rfl
@[simp] theorem regSet_cxl (s : State) (o v : Nat) : (regSet s o v).cxl = s.cxl := rfl
@[simp] theorem regSet_timestamp (s : State) (o v : Nat) : (regSet s o v).timestamp = s.timestamp := rfl
@[simp] theorem regSet_out (s : State) (o v : Nat) : (regSet s o v).out = s.out := rfl
@[simp] theorem regSet_freeCtr (s : State) (o v : Nat) : (regSet s o v).freeCtr = s.freeCtr := rfl
@[simp] theorem regSet_pending (s : State) (o v : Nat) : (regSet s o v).pending = s.pending := rfl

/-! ### regPut -/

@[simp] theorem regPut_fuses (s : State) (o hi lo v : Nat) : (regPut s o hi lo v).fuses = s.fuses := rfl
@[simp] theorem regPut_pins (s : State) (o hi lo v : Nat) : (regPut s o hi lo v).pins = s.pins := rfl
@[simp] theorem regPut_fw (s : State) (o hi lo v : Nat) : (regPut s o hi lo v).fw = s.fw := rfl
@[simp] theorem regPut_tick (s : State) (o hi lo v : Nat) : (regPut s o hi lo v).tick = s.tick := rfl
@[simp] theorem regPut_bar2Last (s : State) (o hi lo v : Nat) : (regPut s o hi lo v).bar2Last = s.bar2Last := rfl
@[simp] theorem regPut_bar2Shadow (s : State) (o hi lo v : Nat) : (regPut s o hi lo v).bar2Shadow = s.bar2Shadow := rfl
@[simp] theorem regPut_regData (s : State) (o hi lo v : Nat) : (regPut s o hi lo v).regData = s.regData := rfl
@[simp] theorem regPut_mem (s : State) (o hi lo v : Nat) : (regPut s o hi lo v).mem = s.mem := rfl
@[simp] theorem regPut_poison (s : State) (o hi lo v : Nat) : (regPut s o hi lo v).poison = s.poison := rfl
@[simp] theorem regPut_tags (s : State) (o hi lo v : Nat) : (regPut s o hi lo v).tags = s.tags := rfl
@[simp] theorem regPut_arrays (s : State) (o hi lo v : Nat) : (regPut s o hi lo v).arrays = s.arrays := rfl
@[simp] theorem regPut_fes (s : State) (o hi lo v : Nat) : (regPut s o hi lo v).fes = s.fes := rfl
@[simp] theorem regPut_bars (s : State) (o hi lo v : Nat) : (regPut s o hi lo v).bars = s.bars := rfl
@[simp] theorem regPut_mere (s : State) (o hi lo v : Nat) : (regPut s o hi lo v).mere = s.mere := rfl
@[simp] theorem regPut_mgen (s : State) (o hi lo v : Nat) : (regPut s o hi lo v).mgen = s.mgen := rfl
@[simp] theorem regPut_items (s : State) (o hi lo v : Nat) : (regPut s o hi lo v).items = s.items := rfl
@[simp] theorem regPut_itemNo (s : State) (o hi lo v : Nat) : (regPut s o hi lo v).itemNo = s.itemNo := rfl
@[simp] theorem regPut_images (s : State) (o hi lo v : Nat) : (regPut s o hi lo v).images = s.images := rfl
@[simp] theorem regPut_adapters (s : State) (o hi lo v : Nat) : (regPut s o hi lo v).adapters = s.adapters := rfl
@[simp] theorem regPut_lps (s : State) (o hi lo v : Nat) : (regPut s o hi lo v).lps = s.lps := rfl
@[simp] theorem regPut_rqt (s : State) (o hi lo v : Nat) : (regPut s o hi lo v).rqt = s.rqt := rfl
@[simp] theorem regPut_work (s : State) (o hi lo v : Nat) : (regPut s o hi lo v).work = s.work := rfl
@[simp] theorem regPut_rounds (s : State) (o hi lo v : Nat) : (regPut s o hi lo v).rounds = s.rounds := rfl
@[simp] theorem regPut_roundNo (s : State) (o hi lo v : Nat) : (regPut s o hi lo v).roundNo = s.roundNo := rfl
@[simp] theorem regPut_nodes (s : State) (o hi lo v : Nat) : (regPut s o hi lo v).nodes = s.nodes := rfl
@[simp] theorem regPut_pages (s : State) (o hi lo v : Nat) : (regPut s o hi lo v).pages = s.pages := rfl
@[simp] theorem regPut_queues (s : State) (o hi lo v : Nat) : (regPut s o hi lo v).queues = s.queues := rfl
@[simp] theorem regPut_lastServed (s : State) (o hi lo v : Nat) : (regPut s o hi lo v).lastServed = s.lastServed := rfl
@[simp] theorem regPut_lds (s : State) (o hi lo v : Nat) : (regPut s o hi lo v).lds = s.lds := rfl
@[simp] theorem regPut_ops (s : State) (o hi lo v : Nat) : (regPut s o hi lo v).ops = s.ops := rfl
@[simp] theorem regPut_roles (s : State) (o hi lo v : Nat) : (regPut s o hi lo v).roles = s.roles := rfl
@[simp] theorem regPut_sent (s : State) (o hi lo v : Nat) : (regPut s o hi lo v).sent = s.sent := rfl
@[simp] theorem regPut_msgNo (s : State) (o hi lo v : Nat) : (regPut s o hi lo v).msgNo = s.msgNo := rfl
@[simp] theorem regPut_ctlWait (s : State) (o hi lo v : Nat) : (regPut s o hi lo v).ctlWait = s.ctlWait := rfl
@[simp] theorem regPut_lateData (s : State) (o hi lo v : Nat) : (regPut s o hi lo v).lateData = s.lateData := rfl
@[simp] theorem regPut_rlOps (s : State) (o hi lo v : Nat) : (regPut s o hi lo v).rlOps = s.rlOps := rfl
@[simp] theorem regPut_roleIn (s : State) (o hi lo v : Nat) : (regPut s o hi lo v).roleIn = s.roleIn := rfl
@[simp] theorem regPut_ports (s : State) (o hi lo v : Nat) : (regPut s o hi lo v).ports = s.ports := rfl
@[simp] theorem regPut_peers (s : State) (o hi lo v : Nat) : (regPut s o hi lo v).peers = s.peers := rfl
@[simp] theorem regPut_flows (s : State) (o hi lo v : Nat) : (regPut s o hi lo v).flows = s.flows := rfl
@[simp] theorem regPut_atomics (s : State) (o hi lo v : Nat) : (regPut s o hi lo v).atomics = s.atomics := rfl
@[simp] theorem regPut_notifies (s : State) (o hi lo v : Nat) : (regPut s o hi lo v).notifies = s.notifies := rfl
@[simp] theorem regPut_timeSync (s : State) (o hi lo v : Nat) : (regPut s o hi lo v).timeSync = s.timeSync := rfl
@[simp] theorem regPut_joint (s : State) (o hi lo v : Nat) : (regPut s o hi lo v).joint = s.joint := rfl
@[simp] theorem regPut_grants (s : State) (o hi lo v : Nat) : (regPut s o hi lo v).grants = s.grants := rfl
@[simp] theorem regPut_members (s : State) (o hi lo v : Nat) : (regPut s o hi lo v).members = s.members := rfl
@[simp] theorem regPut_power (s : State) (o hi lo v : Nat) : (regPut s o hi lo v).power = s.power := rfl
@[simp] theorem regPut_temps (s : State) (o hi lo v : Nat) : (regPut s o hi lo v).temps = s.temps := rfl
@[simp] theorem regPut_faults (s : State) (o hi lo v : Nat) : (regPut s o hi lo v).faults = s.faults := rfl
@[simp] theorem regPut_mboxes (s : State) (o hi lo v : Nat) : (regPut s o hi lo v).mboxes = s.mboxes := rfl
@[simp] theorem regPut_fns (s : State) (o hi lo v : Nat) : (regPut s o hi lo v).fns = s.fns := rfl
@[simp] theorem regPut_sec (s : State) (o hi lo v : Nat) : (regPut s o hi lo v).sec = s.sec := rfl
@[simp] theorem regPut_bist (s : State) (o hi lo v : Nat) : (regPut s o hi lo v).bist = s.bist := rfl
@[simp] theorem regPut_jrnl (s : State) (o hi lo v : Nat) : (regPut s o hi lo v).jrnl = s.jrnl := rfl
@[simp] theorem regPut_cxl (s : State) (o hi lo v : Nat) : (regPut s o hi lo v).cxl = s.cxl := rfl
@[simp] theorem regPut_timestamp (s : State) (o hi lo v : Nat) : (regPut s o hi lo v).timestamp = s.timestamp := rfl
@[simp] theorem regPut_out (s : State) (o hi lo v : Nat) : (regPut s o hi lo v).out = s.out := rfl
@[simp] theorem regPut_freeCtr (s : State) (o hi lo v : Nat) : (regPut s o hi lo v).freeCtr = s.freeCtr := rfl
@[simp] theorem regPut_pending (s : State) (o hi lo v : Nat) : (regPut s o hi lo v).pending = s.pending := rfl

/-! ### regFlag -/

@[simp] theorem regFlag_fuses (s : State) (o b : Nat) : (regFlag s o b).fuses = s.fuses := rfl
@[simp] theorem regFlag_pins (s : State) (o b : Nat) : (regFlag s o b).pins = s.pins := rfl
@[simp] theorem regFlag_fw (s : State) (o b : Nat) : (regFlag s o b).fw = s.fw := rfl
@[simp] theorem regFlag_tick (s : State) (o b : Nat) : (regFlag s o b).tick = s.tick := rfl
@[simp] theorem regFlag_bar2Last (s : State) (o b : Nat) : (regFlag s o b).bar2Last = s.bar2Last := rfl
@[simp] theorem regFlag_bar2Shadow (s : State) (o b : Nat) : (regFlag s o b).bar2Shadow = s.bar2Shadow := rfl
@[simp] theorem regFlag_regData (s : State) (o b : Nat) : (regFlag s o b).regData = s.regData := rfl
@[simp] theorem regFlag_mem (s : State) (o b : Nat) : (regFlag s o b).mem = s.mem := rfl
@[simp] theorem regFlag_poison (s : State) (o b : Nat) : (regFlag s o b).poison = s.poison := rfl
@[simp] theorem regFlag_tags (s : State) (o b : Nat) : (regFlag s o b).tags = s.tags := rfl
@[simp] theorem regFlag_arrays (s : State) (o b : Nat) : (regFlag s o b).arrays = s.arrays := rfl
@[simp] theorem regFlag_fes (s : State) (o b : Nat) : (regFlag s o b).fes = s.fes := rfl
@[simp] theorem regFlag_bars (s : State) (o b : Nat) : (regFlag s o b).bars = s.bars := rfl
@[simp] theorem regFlag_mere (s : State) (o b : Nat) : (regFlag s o b).mere = s.mere := rfl
@[simp] theorem regFlag_mgen (s : State) (o b : Nat) : (regFlag s o b).mgen = s.mgen := rfl
@[simp] theorem regFlag_items (s : State) (o b : Nat) : (regFlag s o b).items = s.items := rfl
@[simp] theorem regFlag_itemNo (s : State) (o b : Nat) : (regFlag s o b).itemNo = s.itemNo := rfl
@[simp] theorem regFlag_images (s : State) (o b : Nat) : (regFlag s o b).images = s.images := rfl
@[simp] theorem regFlag_adapters (s : State) (o b : Nat) : (regFlag s o b).adapters = s.adapters := rfl
@[simp] theorem regFlag_lps (s : State) (o b : Nat) : (regFlag s o b).lps = s.lps := rfl
@[simp] theorem regFlag_rqt (s : State) (o b : Nat) : (regFlag s o b).rqt = s.rqt := rfl
@[simp] theorem regFlag_work (s : State) (o b : Nat) : (regFlag s o b).work = s.work := rfl
@[simp] theorem regFlag_rounds (s : State) (o b : Nat) : (regFlag s o b).rounds = s.rounds := rfl
@[simp] theorem regFlag_roundNo (s : State) (o b : Nat) : (regFlag s o b).roundNo = s.roundNo := rfl
@[simp] theorem regFlag_nodes (s : State) (o b : Nat) : (regFlag s o b).nodes = s.nodes := rfl
@[simp] theorem regFlag_pages (s : State) (o b : Nat) : (regFlag s o b).pages = s.pages := rfl
@[simp] theorem regFlag_queues (s : State) (o b : Nat) : (regFlag s o b).queues = s.queues := rfl
@[simp] theorem regFlag_lastServed (s : State) (o b : Nat) : (regFlag s o b).lastServed = s.lastServed := rfl
@[simp] theorem regFlag_lds (s : State) (o b : Nat) : (regFlag s o b).lds = s.lds := rfl
@[simp] theorem regFlag_ops (s : State) (o b : Nat) : (regFlag s o b).ops = s.ops := rfl
@[simp] theorem regFlag_roles (s : State) (o b : Nat) : (regFlag s o b).roles = s.roles := rfl
@[simp] theorem regFlag_sent (s : State) (o b : Nat) : (regFlag s o b).sent = s.sent := rfl
@[simp] theorem regFlag_msgNo (s : State) (o b : Nat) : (regFlag s o b).msgNo = s.msgNo := rfl
@[simp] theorem regFlag_ctlWait (s : State) (o b : Nat) : (regFlag s o b).ctlWait = s.ctlWait := rfl
@[simp] theorem regFlag_lateData (s : State) (o b : Nat) : (regFlag s o b).lateData = s.lateData := rfl
@[simp] theorem regFlag_rlOps (s : State) (o b : Nat) : (regFlag s o b).rlOps = s.rlOps := rfl
@[simp] theorem regFlag_roleIn (s : State) (o b : Nat) : (regFlag s o b).roleIn = s.roleIn := rfl
@[simp] theorem regFlag_ports (s : State) (o b : Nat) : (regFlag s o b).ports = s.ports := rfl
@[simp] theorem regFlag_peers (s : State) (o b : Nat) : (regFlag s o b).peers = s.peers := rfl
@[simp] theorem regFlag_flows (s : State) (o b : Nat) : (regFlag s o b).flows = s.flows := rfl
@[simp] theorem regFlag_atomics (s : State) (o b : Nat) : (regFlag s o b).atomics = s.atomics := rfl
@[simp] theorem regFlag_notifies (s : State) (o b : Nat) : (regFlag s o b).notifies = s.notifies := rfl
@[simp] theorem regFlag_timeSync (s : State) (o b : Nat) : (regFlag s o b).timeSync = s.timeSync := rfl
@[simp] theorem regFlag_joint (s : State) (o b : Nat) : (regFlag s o b).joint = s.joint := rfl
@[simp] theorem regFlag_grants (s : State) (o b : Nat) : (regFlag s o b).grants = s.grants := rfl
@[simp] theorem regFlag_members (s : State) (o b : Nat) : (regFlag s o b).members = s.members := rfl
@[simp] theorem regFlag_power (s : State) (o b : Nat) : (regFlag s o b).power = s.power := rfl
@[simp] theorem regFlag_temps (s : State) (o b : Nat) : (regFlag s o b).temps = s.temps := rfl
@[simp] theorem regFlag_faults (s : State) (o b : Nat) : (regFlag s o b).faults = s.faults := rfl
@[simp] theorem regFlag_mboxes (s : State) (o b : Nat) : (regFlag s o b).mboxes = s.mboxes := rfl
@[simp] theorem regFlag_fns (s : State) (o b : Nat) : (regFlag s o b).fns = s.fns := rfl
@[simp] theorem regFlag_sec (s : State) (o b : Nat) : (regFlag s o b).sec = s.sec := rfl
@[simp] theorem regFlag_bist (s : State) (o b : Nat) : (regFlag s o b).bist = s.bist := rfl
@[simp] theorem regFlag_jrnl (s : State) (o b : Nat) : (regFlag s o b).jrnl = s.jrnl := rfl
@[simp] theorem regFlag_cxl (s : State) (o b : Nat) : (regFlag s o b).cxl = s.cxl := rfl
@[simp] theorem regFlag_timestamp (s : State) (o b : Nat) : (regFlag s o b).timestamp = s.timestamp := rfl
@[simp] theorem regFlag_out (s : State) (o b : Nat) : (regFlag s o b).out = s.out := rfl
@[simp] theorem regFlag_freeCtr (s : State) (o b : Nat) : (regFlag s o b).freeCtr = s.freeCtr := rfl
@[simp] theorem regFlag_pending (s : State) (o b : Nat) : (regFlag s o b).pending = s.pending := rfl

/-! ### setTag -/

@[simp] theorem setTag_fuses (s : State) (f : Nat) (t : Tag) : (setTag s f t).fuses = s.fuses := by
  unfold setTag
  dsimp only
  split <;> rfl
@[simp] theorem setTag_pins (s : State) (f : Nat) (t : Tag) : (setTag s f t).pins = s.pins := by
  unfold setTag
  dsimp only
  split <;> rfl
@[simp] theorem setTag_fw (s : State) (f : Nat) (t : Tag) : (setTag s f t).fw = s.fw := by
  unfold setTag
  dsimp only
  split <;> rfl
@[simp] theorem setTag_tick (s : State) (f : Nat) (t : Tag) : (setTag s f t).tick = s.tick := by
  unfold setTag
  dsimp only
  split <;> rfl
@[simp] theorem setTag_regs (s : State) (f : Nat) (t : Tag) : (setTag s f t).regs = s.regs := by
  unfold setTag
  dsimp only
  split <;> rfl
@[simp] theorem setTag_bar2Last (s : State) (f : Nat) (t : Tag) : (setTag s f t).bar2Last = s.bar2Last := by
  unfold setTag
  dsimp only
  split <;> rfl
@[simp] theorem setTag_bar2Shadow (s : State) (f : Nat) (t : Tag) : (setTag s f t).bar2Shadow = s.bar2Shadow := by
  unfold setTag
  dsimp only
  split <;> rfl
@[simp] theorem setTag_regData (s : State) (f : Nat) (t : Tag) : (setTag s f t).regData = s.regData := by
  unfold setTag
  dsimp only
  split <;> rfl
@[simp] theorem setTag_poison (s : State) (f : Nat) (t : Tag) : (setTag s f t).poison = s.poison := by
  unfold setTag
  dsimp only
  split <;> rfl
@[simp] theorem setTag_arrays (s : State) (f : Nat) (t : Tag) : (setTag s f t).arrays = s.arrays := by
  unfold setTag
  dsimp only
  split <;> rfl
@[simp] theorem setTag_fes (s : State) (f : Nat) (t : Tag) : (setTag s f t).fes = s.fes := by
  unfold setTag
  dsimp only
  split <;> rfl
@[simp] theorem setTag_bars (s : State) (f : Nat) (t : Tag) : (setTag s f t).bars = s.bars := by
  unfold setTag
  dsimp only
  split <;> rfl
@[simp] theorem setTag_mere (s : State) (f : Nat) (t : Tag) : (setTag s f t).mere = s.mere := by
  unfold setTag
  dsimp only
  split <;> rfl
@[simp] theorem setTag_mgen (s : State) (f : Nat) (t : Tag) : (setTag s f t).mgen = s.mgen := by
  unfold setTag
  dsimp only
  split <;> rfl
@[simp] theorem setTag_items (s : State) (f : Nat) (t : Tag) : (setTag s f t).items = s.items := by
  unfold setTag
  dsimp only
  split <;> rfl
@[simp] theorem setTag_itemNo (s : State) (f : Nat) (t : Tag) : (setTag s f t).itemNo = s.itemNo := by
  unfold setTag
  dsimp only
  split <;> rfl
@[simp] theorem setTag_images (s : State) (f : Nat) (t : Tag) : (setTag s f t).images = s.images := by
  unfold setTag
  dsimp only
  split <;> rfl
@[simp] theorem setTag_adapters (s : State) (f : Nat) (t : Tag) : (setTag s f t).adapters = s.adapters := by
  unfold setTag
  dsimp only
  split <;> rfl
@[simp] theorem setTag_lps (s : State) (f : Nat) (t : Tag) : (setTag s f t).lps = s.lps := by
  unfold setTag
  dsimp only
  split <;> rfl
@[simp] theorem setTag_rqt (s : State) (f : Nat) (t : Tag) : (setTag s f t).rqt = s.rqt := by
  unfold setTag
  dsimp only
  split <;> rfl
@[simp] theorem setTag_work (s : State) (f : Nat) (t : Tag) : (setTag s f t).work = s.work := by
  unfold setTag
  dsimp only
  split <;> rfl
@[simp] theorem setTag_rounds (s : State) (f : Nat) (t : Tag) : (setTag s f t).rounds = s.rounds := by
  unfold setTag
  dsimp only
  split <;> rfl
@[simp] theorem setTag_roundNo (s : State) (f : Nat) (t : Tag) : (setTag s f t).roundNo = s.roundNo := by
  unfold setTag
  dsimp only
  split <;> rfl
@[simp] theorem setTag_nodes (s : State) (f : Nat) (t : Tag) : (setTag s f t).nodes = s.nodes := by
  unfold setTag
  dsimp only
  split <;> rfl
@[simp] theorem setTag_pages (s : State) (f : Nat) (t : Tag) : (setTag s f t).pages = s.pages := by
  unfold setTag
  dsimp only
  split <;> rfl
@[simp] theorem setTag_queues (s : State) (f : Nat) (t : Tag) : (setTag s f t).queues = s.queues := by
  unfold setTag
  dsimp only
  split <;> rfl
@[simp] theorem setTag_lastServed (s : State) (f : Nat) (t : Tag) : (setTag s f t).lastServed = s.lastServed := by
  unfold setTag
  dsimp only
  split <;> rfl
@[simp] theorem setTag_lds (s : State) (f : Nat) (t : Tag) : (setTag s f t).lds = s.lds := by
  unfold setTag
  dsimp only
  split <;> rfl
@[simp] theorem setTag_ops (s : State) (f : Nat) (t : Tag) : (setTag s f t).ops = s.ops := by
  unfold setTag
  dsimp only
  split <;> rfl
@[simp] theorem setTag_roles (s : State) (f : Nat) (t : Tag) : (setTag s f t).roles = s.roles := by
  unfold setTag
  dsimp only
  split <;> rfl
@[simp] theorem setTag_sent (s : State) (f : Nat) (t : Tag) : (setTag s f t).sent = s.sent := by
  unfold setTag
  dsimp only
  split <;> rfl
@[simp] theorem setTag_msgNo (s : State) (f : Nat) (t : Tag) : (setTag s f t).msgNo = s.msgNo := by
  unfold setTag
  dsimp only
  split <;> rfl
@[simp] theorem setTag_ctlWait (s : State) (f : Nat) (t : Tag) : (setTag s f t).ctlWait = s.ctlWait := by
  unfold setTag
  dsimp only
  split <;> rfl
@[simp] theorem setTag_lateData (s : State) (f : Nat) (t : Tag) : (setTag s f t).lateData = s.lateData := by
  unfold setTag
  dsimp only
  split <;> rfl
@[simp] theorem setTag_rlOps (s : State) (f : Nat) (t : Tag) : (setTag s f t).rlOps = s.rlOps := by
  unfold setTag
  dsimp only
  split <;> rfl
@[simp] theorem setTag_roleIn (s : State) (f : Nat) (t : Tag) : (setTag s f t).roleIn = s.roleIn := by
  unfold setTag
  dsimp only
  split <;> rfl
@[simp] theorem setTag_ports (s : State) (f : Nat) (t : Tag) : (setTag s f t).ports = s.ports := by
  unfold setTag
  dsimp only
  split <;> rfl
@[simp] theorem setTag_peers (s : State) (f : Nat) (t : Tag) : (setTag s f t).peers = s.peers := by
  unfold setTag
  dsimp only
  split <;> rfl
@[simp] theorem setTag_flows (s : State) (f : Nat) (t : Tag) : (setTag s f t).flows = s.flows := by
  unfold setTag
  dsimp only
  split <;> rfl
@[simp] theorem setTag_atomics (s : State) (f : Nat) (t : Tag) : (setTag s f t).atomics = s.atomics := by
  unfold setTag
  dsimp only
  split <;> rfl
@[simp] theorem setTag_notifies (s : State) (f : Nat) (t : Tag) : (setTag s f t).notifies = s.notifies := by
  unfold setTag
  dsimp only
  split <;> rfl
@[simp] theorem setTag_timeSync (s : State) (f : Nat) (t : Tag) : (setTag s f t).timeSync = s.timeSync := by
  unfold setTag
  dsimp only
  split <;> rfl
@[simp] theorem setTag_joint (s : State) (f : Nat) (t : Tag) : (setTag s f t).joint = s.joint := by
  unfold setTag
  dsimp only
  split <;> rfl
@[simp] theorem setTag_grants (s : State) (f : Nat) (t : Tag) : (setTag s f t).grants = s.grants := by
  unfold setTag
  dsimp only
  split <;> rfl
@[simp] theorem setTag_members (s : State) (f : Nat) (t : Tag) : (setTag s f t).members = s.members := by
  unfold setTag
  dsimp only
  split <;> rfl
@[simp] theorem setTag_power (s : State) (f : Nat) (t : Tag) : (setTag s f t).power = s.power := by
  unfold setTag
  dsimp only
  split <;> rfl
@[simp] theorem setTag_temps (s : State) (f : Nat) (t : Tag) : (setTag s f t).temps = s.temps := by
  unfold setTag
  dsimp only
  split <;> rfl
@[simp] theorem setTag_faults (s : State) (f : Nat) (t : Tag) : (setTag s f t).faults = s.faults := by
  unfold setTag
  dsimp only
  split <;> rfl
@[simp] theorem setTag_mboxes (s : State) (f : Nat) (t : Tag) : (setTag s f t).mboxes = s.mboxes := by
  unfold setTag
  dsimp only
  split <;> rfl
@[simp] theorem setTag_fns (s : State) (f : Nat) (t : Tag) : (setTag s f t).fns = s.fns := by
  unfold setTag
  dsimp only
  split <;> rfl
@[simp] theorem setTag_sec (s : State) (f : Nat) (t : Tag) : (setTag s f t).sec = s.sec := by
  unfold setTag
  dsimp only
  split <;> rfl
@[simp] theorem setTag_bist (s : State) (f : Nat) (t : Tag) : (setTag s f t).bist = s.bist := by
  unfold setTag
  dsimp only
  split <;> rfl
@[simp] theorem setTag_jrnl (s : State) (f : Nat) (t : Tag) : (setTag s f t).jrnl = s.jrnl := by
  unfold setTag
  dsimp only
  split <;> rfl
@[simp] theorem setTag_cxl (s : State) (f : Nat) (t : Tag) : (setTag s f t).cxl = s.cxl := by
  unfold setTag
  dsimp only
  split <;> rfl
@[simp] theorem setTag_timestamp (s : State) (f : Nat) (t : Tag) : (setTag s f t).timestamp = s.timestamp := by
  unfold setTag
  dsimp only
  split <;> rfl
@[simp] theorem setTag_out (s : State) (f : Nat) (t : Tag) : (setTag s f t).out = s.out := by
  unfold setTag
  dsimp only
  split <;> rfl
@[simp] theorem setTag_freeCtr (s : State) (f : Nat) (t : Tag) : (setTag s f t).freeCtr = s.freeCtr := by
  unfold setTag
  dsimp only
  split <;> rfl
@[simp] theorem setTag_pending (s : State) (f : Nat) (t : Tag) : (setTag s f t).pending = s.pending := by
  unfold setTag
  dsimp only
  split <;> rfl

/-! ### regBump -/

@[simp] theorem regBump_fuses (s : State) (o n : Nat) : (regBump s o n).fuses = s.fuses := by unfold regBump; split <;> rfl
@[simp] theorem regBump_pins (s : State) (o n : Nat) : (regBump s o n).pins = s.pins := by unfold regBump; split <;> rfl
@[simp] theorem regBump_fw (s : State) (o n : Nat) : (regBump s o n).fw = s.fw := by unfold regBump; split <;> rfl
@[simp] theorem regBump_tick (s : State) (o n : Nat) : (regBump s o n).tick = s.tick := by unfold regBump; split <;> rfl
@[simp] theorem regBump_bar2Last (s : State) (o n : Nat) : (regBump s o n).bar2Last = s.bar2Last := by unfold regBump; split <;> rfl
@[simp] theorem regBump_bar2Shadow (s : State) (o n : Nat) : (regBump s o n).bar2Shadow = s.bar2Shadow := by unfold regBump; split <;> rfl
@[simp] theorem regBump_regData (s : State) (o n : Nat) : (regBump s o n).regData = s.regData := by unfold regBump; split <;> rfl
@[simp] theorem regBump_mem (s : State) (o n : Nat) : (regBump s o n).mem = s.mem := by unfold regBump; split <;> rfl
@[simp] theorem regBump_poison (s : State) (o n : Nat) : (regBump s o n).poison = s.poison := by unfold regBump; split <;> rfl
@[simp] theorem regBump_tags (s : State) (o n : Nat) : (regBump s o n).tags = s.tags := by unfold regBump; split <;> rfl
@[simp] theorem regBump_arrays (s : State) (o n : Nat) : (regBump s o n).arrays = s.arrays := by unfold regBump; split <;> rfl
@[simp] theorem regBump_fes (s : State) (o n : Nat) : (regBump s o n).fes = s.fes := by unfold regBump; split <;> rfl
@[simp] theorem regBump_bars (s : State) (o n : Nat) : (regBump s o n).bars = s.bars := by unfold regBump; split <;> rfl
@[simp] theorem regBump_mere (s : State) (o n : Nat) : (regBump s o n).mere = s.mere := by unfold regBump; split <;> rfl
@[simp] theorem regBump_mgen (s : State) (o n : Nat) : (regBump s o n).mgen = s.mgen := by unfold regBump; split <;> rfl
@[simp] theorem regBump_items (s : State) (o n : Nat) : (regBump s o n).items = s.items := by unfold regBump; split <;> rfl
@[simp] theorem regBump_itemNo (s : State) (o n : Nat) : (regBump s o n).itemNo = s.itemNo := by unfold regBump; split <;> rfl
@[simp] theorem regBump_images (s : State) (o n : Nat) : (regBump s o n).images = s.images := by unfold regBump; split <;> rfl
@[simp] theorem regBump_adapters (s : State) (o n : Nat) : (regBump s o n).adapters = s.adapters := by unfold regBump; split <;> rfl
@[simp] theorem regBump_lps (s : State) (o n : Nat) : (regBump s o n).lps = s.lps := by unfold regBump; split <;> rfl
@[simp] theorem regBump_rqt (s : State) (o n : Nat) : (regBump s o n).rqt = s.rqt := by unfold regBump; split <;> rfl
@[simp] theorem regBump_work (s : State) (o n : Nat) : (regBump s o n).work = s.work := by unfold regBump; split <;> rfl
@[simp] theorem regBump_rounds (s : State) (o n : Nat) : (regBump s o n).rounds = s.rounds := by unfold regBump; split <;> rfl
@[simp] theorem regBump_roundNo (s : State) (o n : Nat) : (regBump s o n).roundNo = s.roundNo := by unfold regBump; split <;> rfl
@[simp] theorem regBump_nodes (s : State) (o n : Nat) : (regBump s o n).nodes = s.nodes := by unfold regBump; split <;> rfl
@[simp] theorem regBump_pages (s : State) (o n : Nat) : (regBump s o n).pages = s.pages := by unfold regBump; split <;> rfl
@[simp] theorem regBump_queues (s : State) (o n : Nat) : (regBump s o n).queues = s.queues := by unfold regBump; split <;> rfl
@[simp] theorem regBump_lastServed (s : State) (o n : Nat) : (regBump s o n).lastServed = s.lastServed := by unfold regBump; split <;> rfl
@[simp] theorem regBump_lds (s : State) (o n : Nat) : (regBump s o n).lds = s.lds := by unfold regBump; split <;> rfl
@[simp] theorem regBump_ops (s : State) (o n : Nat) : (regBump s o n).ops = s.ops := by unfold regBump; split <;> rfl
@[simp] theorem regBump_roles (s : State) (o n : Nat) : (regBump s o n).roles = s.roles := by unfold regBump; split <;> rfl
@[simp] theorem regBump_sent (s : State) (o n : Nat) : (regBump s o n).sent = s.sent := by unfold regBump; split <;> rfl
@[simp] theorem regBump_msgNo (s : State) (o n : Nat) : (regBump s o n).msgNo = s.msgNo := by unfold regBump; split <;> rfl
@[simp] theorem regBump_ctlWait (s : State) (o n : Nat) : (regBump s o n).ctlWait = s.ctlWait := by unfold regBump; split <;> rfl
@[simp] theorem regBump_lateData (s : State) (o n : Nat) : (regBump s o n).lateData = s.lateData := by unfold regBump; split <;> rfl
@[simp] theorem regBump_rlOps (s : State) (o n : Nat) : (regBump s o n).rlOps = s.rlOps := by unfold regBump; split <;> rfl
@[simp] theorem regBump_roleIn (s : State) (o n : Nat) : (regBump s o n).roleIn = s.roleIn := by unfold regBump; split <;> rfl
@[simp] theorem regBump_ports (s : State) (o n : Nat) : (regBump s o n).ports = s.ports := by unfold regBump; split <;> rfl
@[simp] theorem regBump_peers (s : State) (o n : Nat) : (regBump s o n).peers = s.peers := by unfold regBump; split <;> rfl
@[simp] theorem regBump_flows (s : State) (o n : Nat) : (regBump s o n).flows = s.flows := by unfold regBump; split <;> rfl
@[simp] theorem regBump_atomics (s : State) (o n : Nat) : (regBump s o n).atomics = s.atomics := by unfold regBump; split <;> rfl
@[simp] theorem regBump_notifies (s : State) (o n : Nat) : (regBump s o n).notifies = s.notifies := by unfold regBump; split <;> rfl
@[simp] theorem regBump_timeSync (s : State) (o n : Nat) : (regBump s o n).timeSync = s.timeSync := by unfold regBump; split <;> rfl
@[simp] theorem regBump_joint (s : State) (o n : Nat) : (regBump s o n).joint = s.joint := by unfold regBump; split <;> rfl
@[simp] theorem regBump_grants (s : State) (o n : Nat) : (regBump s o n).grants = s.grants := by unfold regBump; split <;> rfl
@[simp] theorem regBump_members (s : State) (o n : Nat) : (regBump s o n).members = s.members := by unfold regBump; split <;> rfl
@[simp] theorem regBump_power (s : State) (o n : Nat) : (regBump s o n).power = s.power := by unfold regBump; split <;> rfl
@[simp] theorem regBump_temps (s : State) (o n : Nat) : (regBump s o n).temps = s.temps := by unfold regBump; split <;> rfl
@[simp] theorem regBump_faults (s : State) (o n : Nat) : (regBump s o n).faults = s.faults := by unfold regBump; split <;> rfl
@[simp] theorem regBump_mboxes (s : State) (o n : Nat) : (regBump s o n).mboxes = s.mboxes := by unfold regBump; split <;> rfl
@[simp] theorem regBump_fns (s : State) (o n : Nat) : (regBump s o n).fns = s.fns := by unfold regBump; split <;> rfl
@[simp] theorem regBump_sec (s : State) (o n : Nat) : (regBump s o n).sec = s.sec := by unfold regBump; split <;> rfl
@[simp] theorem regBump_bist (s : State) (o n : Nat) : (regBump s o n).bist = s.bist := by unfold regBump; split <;> rfl
@[simp] theorem regBump_jrnl (s : State) (o n : Nat) : (regBump s o n).jrnl = s.jrnl := by unfold regBump; split <;> rfl
@[simp] theorem regBump_cxl (s : State) (o n : Nat) : (regBump s o n).cxl = s.cxl := by unfold regBump; split <;> rfl
@[simp] theorem regBump_timestamp (s : State) (o n : Nat) : (regBump s o n).timestamp = s.timestamp := by unfold regBump; split <;> rfl
@[simp] theorem regBump_out (s : State) (o n : Nat) : (regBump s o n).out = s.out := by unfold regBump; split <;> rfl
@[simp] theorem regBump_freeCtr (s : State) (o n : Nat) : (regBump s o n).freeCtr = s.freeCtr := by unfold regBump; split <;> rfl
@[simp] theorem regBump_pending (s : State) (o n : Nat) : (regBump s o n).pending = s.pending := by unfold regBump; split <;> rfl

/-! ### disarm -/

@[simp] theorem disarm_fuses (s : State) (c u : Nat) : (disarm s c u).fuses = s.fuses := by unfold disarm; dsimp only; split <;> (try split) <;> rfl
@[simp] theorem disarm_pins (s : State) (c u : Nat) : (disarm s c u).pins = s.pins := by unfold disarm; dsimp only; split <;> (try split) <;> rfl
@[simp] theorem disarm_fw (s : State) (c u : Nat) : (disarm s c u).fw = s.fw := by unfold disarm; dsimp only; split <;> (try split) <;> rfl
@[simp] theorem disarm_tick (s : State) (c u : Nat) : (disarm s c u).tick = s.tick := by unfold disarm; dsimp only; split <;> (try split) <;> rfl
@[simp] theorem disarm_bar2Last (s : State) (c u : Nat) : (disarm s c u).bar2Last = s.bar2Last := by unfold disarm; dsimp only; split <;> (try split) <;> rfl
@[simp] theorem disarm_bar2Shadow (s : State) (c u : Nat) : (disarm s c u).bar2Shadow = s.bar2Shadow := by unfold disarm; dsimp only; split <;> (try split) <;> rfl
@[simp] theorem disarm_regData (s : State) (c u : Nat) : (disarm s c u).regData = s.regData := by unfold disarm; dsimp only; split <;> (try split) <;> rfl
@[simp] theorem disarm_mem (s : State) (c u : Nat) : (disarm s c u).mem = s.mem := by unfold disarm; dsimp only; split <;> (try split) <;> rfl
@[simp] theorem disarm_poison (s : State) (c u : Nat) : (disarm s c u).poison = s.poison := by unfold disarm; dsimp only; split <;> (try split) <;> rfl
@[simp] theorem disarm_tags (s : State) (c u : Nat) : (disarm s c u).tags = s.tags := by unfold disarm; dsimp only; split <;> (try split) <;> rfl
@[simp] theorem disarm_arrays (s : State) (c u : Nat) : (disarm s c u).arrays = s.arrays := by unfold disarm; dsimp only; split <;> (try split) <;> rfl
@[simp] theorem disarm_fes (s : State) (c u : Nat) : (disarm s c u).fes = s.fes := by unfold disarm; dsimp only; split <;> (try split) <;> rfl
@[simp] theorem disarm_bars (s : State) (c u : Nat) : (disarm s c u).bars = s.bars := by unfold disarm; dsimp only; split <;> (try split) <;> rfl
@[simp] theorem disarm_mere (s : State) (c u : Nat) : (disarm s c u).mere = s.mere := by unfold disarm; dsimp only; split <;> (try split) <;> rfl
@[simp] theorem disarm_mgen (s : State) (c u : Nat) : (disarm s c u).mgen = s.mgen := by unfold disarm; dsimp only; split <;> (try split) <;> rfl
@[simp] theorem disarm_items (s : State) (c u : Nat) : (disarm s c u).items = s.items := by unfold disarm; dsimp only; split <;> (try split) <;> rfl
@[simp] theorem disarm_itemNo (s : State) (c u : Nat) : (disarm s c u).itemNo = s.itemNo := by unfold disarm; dsimp only; split <;> (try split) <;> rfl
@[simp] theorem disarm_images (s : State) (c u : Nat) : (disarm s c u).images = s.images := by unfold disarm; dsimp only; split <;> (try split) <;> rfl
@[simp] theorem disarm_adapters (s : State) (c u : Nat) : (disarm s c u).adapters = s.adapters := by unfold disarm; dsimp only; split <;> (try split) <;> rfl
@[simp] theorem disarm_lps (s : State) (c u : Nat) : (disarm s c u).lps = s.lps := by unfold disarm; dsimp only; split <;> (try split) <;> rfl
@[simp] theorem disarm_rqt (s : State) (c u : Nat) : (disarm s c u).rqt = s.rqt := by unfold disarm; dsimp only; split <;> (try split) <;> rfl
@[simp] theorem disarm_work (s : State) (c u : Nat) : (disarm s c u).work = s.work := by unfold disarm; dsimp only; split <;> (try split) <;> rfl
@[simp] theorem disarm_rounds (s : State) (c u : Nat) : (disarm s c u).rounds = s.rounds := by unfold disarm; dsimp only; split <;> (try split) <;> rfl
@[simp] theorem disarm_roundNo (s : State) (c u : Nat) : (disarm s c u).roundNo = s.roundNo := by unfold disarm; dsimp only; split <;> (try split) <;> rfl
@[simp] theorem disarm_nodes (s : State) (c u : Nat) : (disarm s c u).nodes = s.nodes := by unfold disarm; dsimp only; split <;> (try split) <;> rfl
@[simp] theorem disarm_pages (s : State) (c u : Nat) : (disarm s c u).pages = s.pages := by unfold disarm; dsimp only; split <;> (try split) <;> rfl
@[simp] theorem disarm_queues (s : State) (c u : Nat) : (disarm s c u).queues = s.queues := by unfold disarm; dsimp only; split <;> (try split) <;> rfl
@[simp] theorem disarm_lastServed (s : State) (c u : Nat) : (disarm s c u).lastServed = s.lastServed := by unfold disarm; dsimp only; split <;> (try split) <;> rfl
@[simp] theorem disarm_lds (s : State) (c u : Nat) : (disarm s c u).lds = s.lds := by unfold disarm; dsimp only; split <;> (try split) <;> rfl
@[simp] theorem disarm_ops (s : State) (c u : Nat) : (disarm s c u).ops = s.ops := by unfold disarm; dsimp only; split <;> (try split) <;> rfl
@[simp] theorem disarm_roles (s : State) (c u : Nat) : (disarm s c u).roles = s.roles := by unfold disarm; dsimp only; split <;> (try split) <;> rfl
@[simp] theorem disarm_sent (s : State) (c u : Nat) : (disarm s c u).sent = s.sent := by unfold disarm; dsimp only; split <;> (try split) <;> rfl
@[simp] theorem disarm_msgNo (s : State) (c u : Nat) : (disarm s c u).msgNo = s.msgNo := by unfold disarm; dsimp only; split <;> (try split) <;> rfl
@[simp] theorem disarm_ctlWait (s : State) (c u : Nat) : (disarm s c u).ctlWait = s.ctlWait := by unfold disarm; dsimp only; split <;> (try split) <;> rfl
@[simp] theorem disarm_lateData (s : State) (c u : Nat) : (disarm s c u).lateData = s.lateData := by unfold disarm; dsimp only; split <;> (try split) <;> rfl
@[simp] theorem disarm_rlOps (s : State) (c u : Nat) : (disarm s c u).rlOps = s.rlOps := by unfold disarm; dsimp only; split <;> (try split) <;> rfl
@[simp] theorem disarm_roleIn (s : State) (c u : Nat) : (disarm s c u).roleIn = s.roleIn := by unfold disarm; dsimp only; split <;> (try split) <;> rfl
@[simp] theorem disarm_ports (s : State) (c u : Nat) : (disarm s c u).ports = s.ports := by unfold disarm; dsimp only; split <;> (try split) <;> rfl
@[simp] theorem disarm_peers (s : State) (c u : Nat) : (disarm s c u).peers = s.peers := by unfold disarm; dsimp only; split <;> (try split) <;> rfl
@[simp] theorem disarm_flows (s : State) (c u : Nat) : (disarm s c u).flows = s.flows := by unfold disarm; dsimp only; split <;> (try split) <;> rfl
@[simp] theorem disarm_atomics (s : State) (c u : Nat) : (disarm s c u).atomics = s.atomics := by unfold disarm; dsimp only; split <;> (try split) <;> rfl
@[simp] theorem disarm_notifies (s : State) (c u : Nat) : (disarm s c u).notifies = s.notifies := by unfold disarm; dsimp only; split <;> (try split) <;> rfl
@[simp] theorem disarm_timeSync (s : State) (c u : Nat) : (disarm s c u).timeSync = s.timeSync := by unfold disarm; dsimp only; split <;> (try split) <;> rfl
@[simp] theorem disarm_joint (s : State) (c u : Nat) : (disarm s c u).joint = s.joint := by unfold disarm; dsimp only; split <;> (try split) <;> rfl
@[simp] theorem disarm_grants (s : State) (c u : Nat) : (disarm s c u).grants = s.grants := by unfold disarm; dsimp only; split <;> (try split) <;> rfl
@[simp] theorem disarm_members (s : State) (c u : Nat) : (disarm s c u).members = s.members := by unfold disarm; dsimp only; split <;> (try split) <;> rfl
@[simp] theorem disarm_power (s : State) (c u : Nat) : (disarm s c u).power = s.power := by unfold disarm; dsimp only; split <;> (try split) <;> rfl
@[simp] theorem disarm_temps (s : State) (c u : Nat) : (disarm s c u).temps = s.temps := by unfold disarm; dsimp only; split <;> (try split) <;> rfl
@[simp] theorem disarm_mboxes (s : State) (c u : Nat) : (disarm s c u).mboxes = s.mboxes := by unfold disarm; dsimp only; split <;> (try split) <;> rfl
@[simp] theorem disarm_fns (s : State) (c u : Nat) : (disarm s c u).fns = s.fns := by unfold disarm; dsimp only; split <;> (try split) <;> rfl
@[simp] theorem disarm_sec (s : State) (c u : Nat) : (disarm s c u).sec = s.sec := by unfold disarm; dsimp only; split <;> (try split) <;> rfl
@[simp] theorem disarm_bist (s : State) (c u : Nat) : (disarm s c u).bist = s.bist := by unfold disarm; dsimp only; split <;> (try split) <;> rfl
@[simp] theorem disarm_jrnl (s : State) (c u : Nat) : (disarm s c u).jrnl = s.jrnl := by unfold disarm; dsimp only; split <;> (try split) <;> rfl
@[simp] theorem disarm_cxl (s : State) (c u : Nat) : (disarm s c u).cxl = s.cxl := by unfold disarm; dsimp only; split <;> (try split) <;> rfl
@[simp] theorem disarm_timestamp (s : State) (c u : Nat) : (disarm s c u).timestamp = s.timestamp := by unfold disarm; dsimp only; split <;> (try split) <;> rfl
@[simp] theorem disarm_out (s : State) (c u : Nat) : (disarm s c u).out = s.out := by unfold disarm; dsimp only; split <;> (try split) <;> rfl
@[simp] theorem disarm_freeCtr (s : State) (c u : Nat) : (disarm s c u).freeCtr = s.freeCtr := by unfold disarm; dsimp only; split <;> (try split) <;> rfl
@[simp] theorem disarm_pending (s : State) (c u : Nat) : (disarm s c u).pending = s.pending := by unfold disarm; dsimp only; split <;> (try split) <;> rfl

/-! ### stickItem -/

@[simp] theorem stickItem_fuses (s : State) (i : Option Nat) (e : Nat) : (stickItem s i e).fuses = s.fuses := by
  unfold stickItem
  repeat' split
  all_goals rfl
@[simp] theorem stickItem_pins (s : State) (i : Option Nat) (e : Nat) : (stickItem s i e).pins = s.pins := by
  unfold stickItem
  repeat' split
  all_goals rfl
@[simp] theorem stickItem_fw (s : State) (i : Option Nat) (e : Nat) : (stickItem s i e).fw = s.fw := by
  unfold stickItem
  repeat' split
  all_goals rfl
@[simp] theorem stickItem_tick (s : State) (i : Option Nat) (e : Nat) : (stickItem s i e).tick = s.tick := by
  unfold stickItem
  repeat' split
  all_goals rfl
@[simp] theorem stickItem_regs (s : State) (i : Option Nat) (e : Nat) : (stickItem s i e).regs = s.regs := by
  unfold stickItem
  repeat' split
  all_goals rfl
@[simp] theorem stickItem_bar2Last (s : State) (i : Option Nat) (e : Nat) : (stickItem s i e).bar2Last = s.bar2Last := by
  unfold stickItem
  repeat' split
  all_goals rfl
@[simp] theorem stickItem_bar2Shadow (s : State) (i : Option Nat) (e : Nat) : (stickItem s i e).bar2Shadow = s.bar2Shadow := by
  unfold stickItem
  repeat' split
  all_goals rfl
@[simp] theorem stickItem_regData (s : State) (i : Option Nat) (e : Nat) : (stickItem s i e).regData = s.regData := by
  unfold stickItem
  repeat' split
  all_goals rfl
@[simp] theorem stickItem_mem (s : State) (i : Option Nat) (e : Nat) : (stickItem s i e).mem = s.mem := by
  unfold stickItem
  repeat' split
  all_goals rfl
@[simp] theorem stickItem_poison (s : State) (i : Option Nat) (e : Nat) : (stickItem s i e).poison = s.poison := by
  unfold stickItem
  repeat' split
  all_goals rfl
@[simp] theorem stickItem_tags (s : State) (i : Option Nat) (e : Nat) : (stickItem s i e).tags = s.tags := by
  unfold stickItem
  repeat' split
  all_goals rfl
@[simp] theorem stickItem_arrays (s : State) (i : Option Nat) (e : Nat) : (stickItem s i e).arrays = s.arrays := by
  unfold stickItem
  repeat' split
  all_goals rfl
@[simp] theorem stickItem_fes (s : State) (i : Option Nat) (e : Nat) : (stickItem s i e).fes = s.fes := by
  unfold stickItem
  repeat' split
  all_goals rfl
@[simp] theorem stickItem_bars (s : State) (i : Option Nat) (e : Nat) : (stickItem s i e).bars = s.bars := by
  unfold stickItem
  repeat' split
  all_goals rfl
@[simp] theorem stickItem_mere (s : State) (i : Option Nat) (e : Nat) : (stickItem s i e).mere = s.mere := by
  unfold stickItem
  repeat' split
  all_goals rfl
@[simp] theorem stickItem_mgen (s : State) (i : Option Nat) (e : Nat) : (stickItem s i e).mgen = s.mgen := by
  unfold stickItem
  repeat' split
  all_goals rfl
@[simp] theorem stickItem_itemNo (s : State) (i : Option Nat) (e : Nat) : (stickItem s i e).itemNo = s.itemNo := by
  unfold stickItem
  repeat' split
  all_goals rfl
@[simp] theorem stickItem_images (s : State) (i : Option Nat) (e : Nat) : (stickItem s i e).images = s.images := by
  unfold stickItem
  repeat' split
  all_goals rfl
@[simp] theorem stickItem_adapters (s : State) (i : Option Nat) (e : Nat) : (stickItem s i e).adapters = s.adapters := by
  unfold stickItem
  repeat' split
  all_goals rfl
@[simp] theorem stickItem_lps (s : State) (i : Option Nat) (e : Nat) : (stickItem s i e).lps = s.lps := by
  unfold stickItem
  repeat' split
  all_goals rfl
@[simp] theorem stickItem_rqt (s : State) (i : Option Nat) (e : Nat) : (stickItem s i e).rqt = s.rqt := by
  unfold stickItem
  repeat' split
  all_goals rfl
@[simp] theorem stickItem_work (s : State) (i : Option Nat) (e : Nat) : (stickItem s i e).work = s.work := by
  unfold stickItem
  repeat' split
  all_goals rfl
@[simp] theorem stickItem_rounds (s : State) (i : Option Nat) (e : Nat) : (stickItem s i e).rounds = s.rounds := by
  unfold stickItem
  repeat' split
  all_goals rfl
@[simp] theorem stickItem_roundNo (s : State) (i : Option Nat) (e : Nat) : (stickItem s i e).roundNo = s.roundNo := by
  unfold stickItem
  repeat' split
  all_goals rfl
@[simp] theorem stickItem_nodes (s : State) (i : Option Nat) (e : Nat) : (stickItem s i e).nodes = s.nodes := by
  unfold stickItem
  repeat' split
  all_goals rfl
@[simp] theorem stickItem_pages (s : State) (i : Option Nat) (e : Nat) : (stickItem s i e).pages = s.pages := by
  unfold stickItem
  repeat' split
  all_goals rfl
@[simp] theorem stickItem_queues (s : State) (i : Option Nat) (e : Nat) : (stickItem s i e).queues = s.queues := by
  unfold stickItem
  repeat' split
  all_goals rfl
@[simp] theorem stickItem_lastServed (s : State) (i : Option Nat) (e : Nat) : (stickItem s i e).lastServed = s.lastServed := by
  unfold stickItem
  repeat' split
  all_goals rfl
@[simp] theorem stickItem_lds (s : State) (i : Option Nat) (e : Nat) : (stickItem s i e).lds = s.lds := by
  unfold stickItem
  repeat' split
  all_goals rfl
@[simp] theorem stickItem_ops (s : State) (i : Option Nat) (e : Nat) : (stickItem s i e).ops = s.ops := by
  unfold stickItem
  repeat' split
  all_goals rfl
@[simp] theorem stickItem_roles (s : State) (i : Option Nat) (e : Nat) : (stickItem s i e).roles = s.roles := by
  unfold stickItem
  repeat' split
  all_goals rfl
@[simp] theorem stickItem_sent (s : State) (i : Option Nat) (e : Nat) : (stickItem s i e).sent = s.sent := by
  unfold stickItem
  repeat' split
  all_goals rfl
@[simp] theorem stickItem_msgNo (s : State) (i : Option Nat) (e : Nat) : (stickItem s i e).msgNo = s.msgNo := by
  unfold stickItem
  repeat' split
  all_goals rfl
@[simp] theorem stickItem_ctlWait (s : State) (i : Option Nat) (e : Nat) : (stickItem s i e).ctlWait = s.ctlWait := by
  unfold stickItem
  repeat' split
  all_goals rfl
@[simp] theorem stickItem_lateData (s : State) (i : Option Nat) (e : Nat) : (stickItem s i e).lateData = s.lateData := by
  unfold stickItem
  repeat' split
  all_goals rfl
@[simp] theorem stickItem_rlOps (s : State) (i : Option Nat) (e : Nat) : (stickItem s i e).rlOps = s.rlOps := by
  unfold stickItem
  repeat' split
  all_goals rfl
@[simp] theorem stickItem_roleIn (s : State) (i : Option Nat) (e : Nat) : (stickItem s i e).roleIn = s.roleIn := by
  unfold stickItem
  repeat' split
  all_goals rfl
@[simp] theorem stickItem_ports (s : State) (i : Option Nat) (e : Nat) : (stickItem s i e).ports = s.ports := by
  unfold stickItem
  repeat' split
  all_goals rfl
@[simp] theorem stickItem_peers (s : State) (i : Option Nat) (e : Nat) : (stickItem s i e).peers = s.peers := by
  unfold stickItem
  repeat' split
  all_goals rfl
@[simp] theorem stickItem_flows (s : State) (i : Option Nat) (e : Nat) : (stickItem s i e).flows = s.flows := by
  unfold stickItem
  repeat' split
  all_goals rfl
@[simp] theorem stickItem_atomics (s : State) (i : Option Nat) (e : Nat) : (stickItem s i e).atomics = s.atomics := by
  unfold stickItem
  repeat' split
  all_goals rfl
@[simp] theorem stickItem_notifies (s : State) (i : Option Nat) (e : Nat) : (stickItem s i e).notifies = s.notifies := by
  unfold stickItem
  repeat' split
  all_goals rfl
@[simp] theorem stickItem_timeSync (s : State) (i : Option Nat) (e : Nat) : (stickItem s i e).timeSync = s.timeSync := by
  unfold stickItem
  repeat' split
  all_goals rfl
@[simp] theorem stickItem_joint (s : State) (i : Option Nat) (e : Nat) : (stickItem s i e).joint = s.joint := by
  unfold stickItem
  repeat' split
  all_goals rfl
@[simp] theorem stickItem_grants (s : State) (i : Option Nat) (e : Nat) : (stickItem s i e).grants = s.grants := by
  unfold stickItem
  repeat' split
  all_goals rfl
@[simp] theorem stickItem_members (s : State) (i : Option Nat) (e : Nat) : (stickItem s i e).members = s.members := by
  unfold stickItem
  repeat' split
  all_goals rfl
@[simp] theorem stickItem_power (s : State) (i : Option Nat) (e : Nat) : (stickItem s i e).power = s.power := by
  unfold stickItem
  repeat' split
  all_goals rfl
@[simp] theorem stickItem_temps (s : State) (i : Option Nat) (e : Nat) : (stickItem s i e).temps = s.temps := by
  unfold stickItem
  repeat' split
  all_goals rfl
@[simp] theorem stickItem_faults (s : State) (i : Option Nat) (e : Nat) : (stickItem s i e).faults = s.faults := by
  unfold stickItem
  repeat' split
  all_goals rfl
@[simp] theorem stickItem_mboxes (s : State) (i : Option Nat) (e : Nat) : (stickItem s i e).mboxes = s.mboxes := by
  unfold stickItem
  repeat' split
  all_goals rfl
@[simp] theorem stickItem_fns (s : State) (i : Option Nat) (e : Nat) : (stickItem s i e).fns = s.fns := by
  unfold stickItem
  repeat' split
  all_goals rfl
@[simp] theorem stickItem_sec (s : State) (i : Option Nat) (e : Nat) : (stickItem s i e).sec = s.sec := by
  unfold stickItem
  repeat' split
  all_goals rfl
@[simp] theorem stickItem_bist (s : State) (i : Option Nat) (e : Nat) : (stickItem s i e).bist = s.bist := by
  unfold stickItem
  repeat' split
  all_goals rfl
@[simp] theorem stickItem_jrnl (s : State) (i : Option Nat) (e : Nat) : (stickItem s i e).jrnl = s.jrnl := by
  unfold stickItem
  repeat' split
  all_goals rfl
@[simp] theorem stickItem_cxl (s : State) (i : Option Nat) (e : Nat) : (stickItem s i e).cxl = s.cxl := by
  unfold stickItem
  repeat' split
  all_goals rfl
@[simp] theorem stickItem_timestamp (s : State) (i : Option Nat) (e : Nat) : (stickItem s i e).timestamp = s.timestamp := by
  unfold stickItem
  repeat' split
  all_goals rfl
@[simp] theorem stickItem_out (s : State) (i : Option Nat) (e : Nat) : (stickItem s i e).out = s.out := by
  unfold stickItem
  repeat' split
  all_goals rfl
@[simp] theorem stickItem_freeCtr (s : State) (i : Option Nat) (e : Nat) : (stickItem s i e).freeCtr = s.freeCtr := by
  unfold stickItem
  repeat' split
  all_goals rfl
@[simp] theorem stickItem_pending (s : State) (i : Option Nat) (e : Nat) : (stickItem s i e).pending = s.pending := by
  unfold stickItem
  repeat' split
  all_goals rfl

/-! ### What was set is what is read -/

@[simp] theorem arr_setArr (s : State) (a : ArrId) (u : ArrayUnit) : arr (setArr s a u) a = u := by
  simp [arr, setArr]

theorem arr_setArr_ne (s : State) (a b : ArrId) (u : ArrayUnit) (h : b ≠ a) : arr (setArr s a u) b = arr s b := by
  have h' : ¬ a.val = b.val := fun e => h (Fin.ext e.symm)
  simp [arr, setArr, h']

@[simp] theorem fe_setFe (s : State) (f : FeId) (u : FetchUnit) : fe (setFe s f u) f = u := by
  simp [fe, setFe]

theorem fe_setFe_ne (s : State) (a b : FeId) (u : FetchUnit) (h : b ≠ a) : fe (setFe s a u) b = fe s b := by
  have h' : ¬ a.val = b.val := fun e => h (Fin.ext e.symm)
  simp [fe, setFe, h']

@[simp] theorem ten_setTen (s : State) (t : LdId) (u : Tenant) : ten (setTen s t u) t = u := by
  simp [ten, setTen]

theorem ten_setTen_ne (s : State) (a b : LdId) (u : Tenant) (h : b ≠ a) : ten (setTen s a u) b = ten s b := by
  have h' : ¬ a.val = b.val := fun e => h (Fin.ext e.symm)
  simp [ten, setTen, h']

@[simp] theorem que_setQue (s : State) (q : Fin 128) (u : Queue) : que (setQue s q u) q = u := by
  simp [que, setQue]

theorem que_setQue_ne (s : State) (a b : Fin 128) (u : Queue) (h : b ≠ a) : que (setQue s a u) b = que s b := by
  have h' : ¬ a.val = b.val := fun e => h (Fin.ext e.symm)
  simp [que, setQue, h']

@[simp] theorem port_setPort (s : State) (p : PortId) (u : Port) : port (setPort s p u) p = u := by
  simp [port, setPort]

theorem port_setPort_ne (s : State) (a b : PortId) (u : Port) (h : b ≠ a) : port (setPort s a u) b = port s b := by
  have h' : ¬ a.val = b.val := fun e => h (Fin.ext e.symm)
  simp [port, setPort, h']

/-- A unit is read through its field alone. -/
theorem arr_congr {s t : State} (h : t.arrays = s.arrays) (a : ArrId) : arr t a = arr s a := by simp [arr, h]
theorem fe_congr {s t : State} (h : t.fes = s.fes) (f : FeId) : fe t f = fe s f := by simp [fe, h]
theorem ten_congr {s t : State} (h : t.lds = s.lds) (i : LdId) : ten t i = ten s i := by simp [ten, h]
theorem que_congr {s t : State} (h : t.queues = s.queues) (q : Fin 128) : que t q = que s q := by simp [que, h]
theorem port_congr {s t : State} (h : t.ports = s.ports) (p : PortId) : port t p = port s p := by simp [port, h]
theorem regGet_congr {s t : State} (h : t.regs = s.regs) (o : Nat) : regGet t o = regGet s o := by simp [regGet, h]
theorem memReads_congr {s t : State} (h : t.mem = s.mem) (a n : Nat) : memReads t a n = memReads s a n := by
  simp [memReads, h]

end Sys2Proof.Machine
end

