-- ==== Sys2Proof/WellFormed.lean ====
section
/-! DEFINITION. Well-formed commands: what the interface that carries a command permits of its operands, beyond their types. The
meanings are total on ill-formed commands too. -/

namespace Sys2Proof

/-- An offset that the access's space has: 32 MiB of owner registers (R486), 256 KiB of BAR0 (R344), 4 KiB of configuration space. -/
def targetOk : RegTarget → Bool
  | .bar2 o => decide (o < 2 ^ 25)
  | .bar2Read o => decide (o < 2 ^ 25)
  | .bar0 _ o => decide (o < 2 ^ 18)
  | .bar0Read _ o => decide (o < 2 ^ 18)
  | .config _ o => decide (o < 4096)
  | .configWrite _ o => decide (o < 4096)

/-- A host physical address has 52 bits. -/
def hostAddrOk : HostAddr → Bool
  | .ld _ o => decide (o < 2 ^ 52)
  | .sld o => decide (o < 2 ^ 52)

/-- A mailbox's payload is 4 KiB at most (R348). -/
def payloadOk (p : List Byte) : Bool := decide (p.length ≤ 4096)

/-- A packet's payload is one page at most, and LEN is what the header says of it (R321, R324). -/
def packetOk (k : Packet) : Bool := decide (k.payload.length ≤ 4096) && decide (k.len < 2 ^ 32)

/-- Nonces of 32 B (R318, R443). -/
def helloOk (h : HelloMsg) : Bool := h.nonce.length == 32 && h.echo.length == 32 && h.stepping.length == 2 && h.tag.length == 16

/-- What a burst meets: the barrier of a NOTIFY has eight bits (R326). -/
def burstOk : BurstEnv → Bool
  | .plain => true
  | .eccCorrected => true
  | .eccUncorrectable => true
  | .notify _ bar => decide (bar < 256)

/-- Whether a command's operands are ones that its interface can carry. -/
def wellFormed : Instr → Bool
  | .registerWrite tgt size _ => targetOk tgt && decide (1 ≤ size) && decide (size ≤ 8)
  | .cxlMemRead addr q => hostAddrOk addr && decide (1 ≤ q.len) && decide (q.len ≤ 64)
  | .cxlMemWrite addr q => hostAddrOk addr && decide (1 ≤ q.bytes.length) && decide (q.bytes.length ≤ 64)
      && (q.enables.getD []).length ≤ q.bytes.length
  | .sqTail _ _ _ => true
  | .cqHead _ _ _ => true
  | .submissionRead _ => true
  | .tick w => decide (w ≤ 1024)
  | .headland w => decide (w ≤ 1024)
  | .furNumSet _ => true
  | .furrowSyncPulse _ _ => true
  | .tickRefLost _ => true
  | .pcieRefLost => true
  | .raileRefLost _ => true
  | .admissionPass => true
  | .tileStart _ _ => true
  | .stepIssue _ _ _ => true
  | .heldSwap _ _ _ => true
  | .chunkUpdate _ _ => true
  | .drain _ _ => true
  | .outputRow _ _ => true
  | .outputRowWrite _ => true
  | .preambleEnd _ => true
  | .bankPowerDown _ _ _ => true
  | .bankWakeDone _ _ => true
  | .lateWake _ addr bytes => decide (1 ≤ bytes.length) && decide (addr + bytes.length ≤ 2 ^ 21)
  | .acquire _ _ => true
  | .publish _ _ => true
  | .wait _ _ _ => true
  | .release _ _ => true
  | .nop _ _ => true
  | .add _ _ => true
  | .sub _ _ => true
  | .mul _ _ => true
  | .fma _ _ => true
  | .max _ _ => true
  | .min _ _ => true
  | .maxnum _ _ => true
  | .minnum _ _ => true
  | .cmp _ _ => true
  | .sel _ _ => true
  | .sign _ _ => true
  | .cvt _ _ => true
  | .logic _ _ => true
  | .exp2 _ _ => true
  | .log2 _ _ => true
  | .rcp _ _ => true
  | .rsqrt _ _ => true
  | .sigm _ _ => true
  | .tanh _ _ => true
  | .expd _ _ => true
  | .rope _ _ => true
  | .quant _ _ => true
  | .red _ _ => true
  | .topk _ _ => true
  | .psum _ _ => true
  | .expsort _ _ => true
  | .ld _ _ => true
  | .st _ _ => true
  | .cld _ _ => true
  | .cacheFill _ => true
  | .rstat _ _ => true
  | .mpos _ _ => true
  | .mcmd _ _ => true
  | .barinc _ _ => true
  | .mgenLoad _ => true
  | .read _ _ => true
  | .write _ _ => true
  | .burst _ _ u => burstOk u.env
  | .faultResume _ _ => true
  | .descriptorComplete _ _ => true
  | .workItemComplete _ => true
  | .roleMsg m => decide (m.msgId < 2 ^ 32)
  | .roleAck n => decide (n < 2 ^ 32)
  | .staleRole n _ _ => decide (n < 2 ^ 32)
  | .chunkCommit _ => true
  | .roundSample _ => true
  | .roundCommit _ => true
  | .stallLimit _ => true
  | .queryDevice _ p => payloadOk p
  | .createQp _ p => payloadOk p
  | .deleteQp _ p => payloadOk p
  | .cancel _ p => payloadOk p
  | .queryRequest _ p => payloadOk p
  | .exportBundle _ p => payloadOk p
  | .park _ p => payloadOk p
  | .lift _ p => payloadOk p
  | .releaseRequest _ p => payloadOk p
  | .ldStatus _ p => payloadOk p
  | .resetSelf _ p => payloadOk p
  | .provisionKey _ p _ => payloadOk p
  | .setWindow _ p => payloadOk p
  | .loadImage _ p _ => payloadOk p
  | .unloadImage _ p => payloadOk p
  | .loadAdapter _ p _ => payloadOk p
  | .retireAdapter _ p => payloadOk p
  | .loadLp _ p _ => payloadOk p
  | .unloadLp _ p => payloadOk p
  | .setRole _ p => payloadOk p
  | .setCap _ p => payloadOk p
  | .resetTenant _ p => payloadOk p
  | .startRecovery _ p => payloadOk p
  | .restart _ p => payloadOk p
  | .getLog _ p => payloadOk p
  | .setSldSpan _ p => payloadOk p
  | .readReg _ p => payloadOk p
  | .writeReg _ p => payloadOk p
  | .backgroundCommandComplete _ => true
  | .identifyMemoryDevice _ => true
  | .getEventRecords _ => true
  | .clearEventRecords _ _ => true
  | .getEventInterruptPolicy _ => true
  | .setEventInterruptPolicy _ _ => true
  | .getSupportedLogs _ => true
  | .getCxlLog _ => true
  | .getHealthInfo _ => true
  | .getTimestamp _ => true
  | .setTimestamp _ _ => true
  | .getFwInfo _ => true
  | .transferFw _ action _ data slot => decide (action ≤ 4) && decide (data.length ≤ 4096) && decide (slot < 256)
  | .activateFw _ action => decide (action < 256)
  | .getLdInfo _ => true
  | .getLdAllocations _ => true
  | .setLdAllocations _ start units => decide (1 ≤ units.length) && decide (start + units.length ≤ 16)
  | .hdmDecoderCommit _ _ ways base size => decide (1 ≤ ways) && base % 2 ^ 28 == 0 && size % 2 ^ 28 == 0
  | .completionVector _ => true
  | .coalTimer _ => true
  | .qcfgWrite _ _ => true
  | .ldRqtWrite _ _ => true
  | .ldPoolLimitWrite _ _ => true
  | .spdmRequest _ _ => true
  | .ideKm _ k => decide (k.keys.length ≤ 4096)
  | .ideFail => true
  | .tableAccess _ => true
  | .doeDiscovery _ => true
  | .entdaa _ => true
  | .mctpControl _ => true
  | .pldmRequest _ => true
  | .inBandInterrupt _ => true
  | .bundleWritten _ => true
  | .bundleWriteFailed _ => true
  | .liftHeaderRead _ _ => true
  | .liftBlockRead _ _ => true
  | .liftResowBooking _ => true
  | .journalBatchDone _ => true
  | .jrnlTailWrite _ => true
  | .recoverLd _ _ => true
  | .portEnable _ => true
  | .portDisable _ => true
  | .partnerDetected _ => true
  | .lanesLocked _ _ => true
  | .equaliseTimeout _ _ => true
  | .alignDone _ => true
  | .paramExchanged _ _ _ => true
  | .retrain _ _ => true
  | .laneRetire _ _ _ => true
  | .frameReceived _ f => decide (f.body.length ≤ 1268) && f.errors.length == 2
  | .frameResendTimeout _ => true
  | .ackReport _ => true
  | .routeWrite _ _ => true
  | .regionWrite _ _ _ => true
  | .hello h => helloOk h
  | .helloAck h => helloOk h
  | .helloRetry _ => true
  | .bye _ b => b.nonce.length == 32 && b.tag.length == 16
  | .keepalive _ _ => true
  | .peerSuspect _ => true
  | .peerDown _ => true
  | .flowOpen m => m.nonce.length == 32
  | .flowAccept m => m.nonce.length == 32
  | .flowRefuse _ => true
  | .writePacket k => packetOk k
  | .readReq k => packetOk k
  | .readResp k => packetOk k
  | .atomicReq k => packetOk k
  | .atomicResp k => packetOk k
  | .ack k _ _ => packetOk k
  | .nack k _ _ => packetOk k
  | .retransmitTimeout _ _ _ => true
  | .notify m => decide (m.msgId < 2 ^ 32) && decide (m.bar < 256)
  | .sync _ _ _ _ _ => true
  | .syncJoin _ => true
  | .delayReq _ _ _ => true
  | .delayResp _ _ _ _ _ => true
  | .bookQuery _ _ _ _ _ _ => true
  | .bookReply _ _ _ => true
  | .bookCommit _ _ _ _ => true
  | .bookAck _ _ _ => true
  | .powerStatus _ _ _ _ _ => true
  | .powerGrant _ _ _ _ => true
  | .parityError _ => true
  | .scrubRead line _ => decide (line < 2 ^ 32)
  | .watchdog _ => true
  | .arrayReset _ _ => true
  | .arrayTestDone _ _ => true
  | .fenDieReset _ => true
  | .deviceHalt _ _ => true
  | .pcRetire _ => true
  | .redirectCopyDone _ => true
  | .fltInject _ => true
  | .telemetrySample xs => (xs.map (·.rail)).eraseDups.length == xs.length
  | .capLoop _ => true
  | .energyInterval _ => true
  | .avsTrim _ => true
  | .currentLimit => true
  | .droopDetect => true
  | .droopEnd _ => true
  | .brownoutWarn => true
  | .brownoutClear => true
  | .supplyReset => true
  | .sensorRead _ => true
  | .flowFail _ => true
  | .opRaisePrepare => true
  | .pwrCfgWrite _ => true
  | .commit => true
  | .commitDone => true
  | .revoke _ => true
  | .fenceReq => true
  | .fenceDone => true
  | .secKeyClear _ => true
  | .domainKeyLock => true
  | .bypass => true
  | .idcode => true
  | .samplePreload => true
  | .extest => true
  | .clamp => true
  | .highz => true
  | .ikbChal => true
  | .ikbUnlock _ _ _ => true
  | .dapAccess => true
  | .pwrgoodRise _ => true
  | .pwrgoodFall => true
  | .perstAssert => true
  | .perstDeassert _ _ _ _ => true
  | .bootRomStart => true
  | .powerUpBistDone _ => true
  | .bistSelfRestart => true
  | .go _ => true
  | .bistTestDone _ => true
  | .flowWaitEnd => true
  | .currentLimitRise => true
  | .stacksLeaveSelfRefresh _ => true

end Sys2Proof
end

