-- ==== Sys2Proof/Tests/Slice0.lean ====
section
/-! SUPPORT. Tests: ill-formed commands that the check refuses, small facts from the manual's text about single commands, and for
every statement of Certificates/Slice0/Obligations.lean that has hypotheses, a state and operands that meet them, clause by
clause. -/

open Sys2Proof Sys2Proof.Machine

namespace Sys2Proof.Tests

set_option Elab.async false

/-! ### States -/

/-- Powered, out of reset, firmware running, MLD mode, after the first tick. -/
def up : State := { State.reset with
  pins := { pwrgood := true, perstN := true, hostLink := true, mld := true, memEn := true, i3cAddr := some 8, bootPath := some true }
  fw := { running := true, keyIndex := 1, svn := 2 }
  tick := { started := true, geoMask := 2 ^ 64 - 1 } }

/-- A work item on array 0 alone. -/
def job : ItemRun :=
  { id := 0, rqt := 0, round := none, recIdx := 0, image := 0, step := 0, gang := 0, number := 0, layer := 0, leader := 0
    width := 1, mode := 0, declared := 0, flags := 0, mgenSlot := some 0, barMap := [7], engines := [0], binds := [], arrived := [] }

/-- Array 0 with that work item. -/
def on (u : ArrayUnit) : State := { setArr up 0 { u with item := some 0 } with items := [job] }

/-- Whether a computation of the checks passed. -/
def passed {α β : Type} : Except α β → Bool
  | .ok _ => true
  | .error _ => false

theorem wit_StepRunsFrontCommand : ({ up with pending := [.pcieRefLost, .ideFail] } : State).pending = .pcieRefLost :: [.ideFail] := rfl

theorem wit_IdlePeriodCountsTime :
    (up.pending = [] ∧ up.pins.pwrgood = true ∧ up.pins.perstN = true ∧ up.tick.tickRef = true)
    ∧ (State.reset.pending = [] ∧ State.reset.pins.pwrgood = false) := by decide +kernel

/-- `Inv` holds of a state other than the reset state, and a step from it answers. -/
theorem wit_StepKeepsInv : Inv up ∧ ∃ n, step { up with pending := [.pcieRefLost] } = .next n :=
  ⟨⟨by decide +kernel, by decide +kernel, by decide +kernel, by decide +kernel, by decide +kernel⟩, _, rfl⟩

def ringOf (g : Ring) : State := on { rings := (Vector.replicate 6 {} : Vector Ring 6).set 0 g }

/-- Ring 0 with four slots: its counters, and whether the producer holds position tail. -/
def ring (h t : Nat) (c : Bool) : State := ringOf { enable := true, slotSize := 64, slots := 4, head := h, tail := t, claimed := c }

theorem wit_RingPositions :
    (let g := (arr (ring 0 3 true) 0).rings[(0 : Fin 6)];
      g.enable = true ∧ g.tail + g.filledUp - g.head < g.slots ∧ g.claimed = true ∧ g.filledUp = 0
      ∧ writePending (arr (ring 0 3 true) 0) (ringSlotAddr g g.tail) g.slotSize = false
      ∧ g.head + (2 : Fin 16).val < g.tail ∧ g.tail ≤ g.head + (3 : Fin 16).val ∧ g.head < g.tail)
    ∧ (let g := (arr (ring 0 4 false) 0).rings[(0 : Fin 6)]; g.enable = true ∧ g.slots ≤ g.tail + g.filledUp - g.head)
    ∧ (let u : ArrayUnit := { arr (ring 0 3 true) 0 with
          banks := (Vector.replicate 32 { power := .on }).set 3 { power := .waking, pending := [(0, 1)] } };
      writePending u (ringSlotAddr u.rings[(0 : Fin 6)] 3) 64 = true)
    ∧ ((arr up 0).rings[(0 : Fin 6)]).enable = false := by decide +kernel

def sleepy (p : BankPower) (req : Bool) (ws : List (Nat × Byte)) : State :=
  on { banks := (Vector.replicate 32 { power := .on }).set 0 { power := p, pdReq := req, pending := ws }, spad := [(0, 9)] }

/-- A preamble in which bank 31, a cache bank, wakes for the work item. -/
def preambleWake : State :=
  on { preamble := true, swBanks := 30, banks := (Vector.replicate 32 { power := .on }).set 31 { power := .waking, booked := true } }

theorem wit_ScratchpadBanks :
    (let k := (arr (sleepy .on true []) 0).banks[(0 : Fin 32)];
      k.pdReq = true ∧ k.power = .on ∧ k.pending = [])
    ∧ (let k := (arr (sleepy .waking true [(4, 1)]) 0).banks[(0 : Fin 32)];
      k.pdReq = true ∧ k.power = .waking ∧ k.pending ≠ [] ∧ 255 < 256 ∧ memWf (arr (sleepy .waking true [(4, 1)]) 0).spad = true
      ∧ (0 : Fin 32).val < (arr (sleepy .waking true [(4, 1)]) 0).swBanks)
    ∧ (let k := (arr (sleepy .sleep false [(4, 1)]) 0).banks[(0 : Fin 32)]; k.power = .sleep ∧ k.pending ≠ [])
    ∧ (let u := arr (sleepy .sleep false []) 0;
      meetsSleep u 4 2 = true ∧ 4 + 2 ≤ swBytes u ∧ meetsSleep u 4 1 = true)
    ∧ ((arr (on { preamble := true }) 0).preamble = true ∧ (arr (on { preamble := true }) 0).portq = []
      ∧ (∀ b : Fin 32, ((arr (on { preamble := true }) 0).banks[b]).pending = [])
      ∧ (∀ b : Fin 32, ((arr (on { preamble := true }) 0).banks[b]).booked = false))
    ∧ (arr (on { preamble := true, portq := [(1, [2])] }) 0).portq = [((1 : Fin 6).val, [2])]
    ∧ (let k := (arr preambleWake 0).banks[(31 : Fin 32)];
      (arr preambleWake 0).preamble = true ∧ k.booked = true ∧ k.power = .waking ∧ (arr preambleWake 0).swBanks ≤ (31 : Fin 32).val) := by
  decide +kernel

def tile : TileDesc :=
  { aFmt := 2, bFmt := 2, outFmt := 2, promo := 1, kSteps := 1, rowValid := 65535, drain := true, outBase := 65536, feedBase := 131072
    holdCStride := 64, feedMStride := 64, outMStride := 128 }

def tiled (d : TileDesc) (e : EntState) : State :=
  on { st := .running, tiles := [d, d], ent := (Vector.replicate 16 EntState.free).set 0 e }

theorem wit_TileStartsOnGang :
    (let s := tiled tile .free;
      arrItem s 0 = some job ∧ (arr s 0).tiles = [tile, tile] ∧ job.leader = (0 : ArrId).val ∧ job.width = 1 ∧ job.halted = 0
      ∧ (arr s 0).st ≠ .fallow ∧ (arr s 0).preamble = false ∧ prevDone (arr s 0) 400 = true
      ∧ tileLegal tile 0 (swBytes (arr s 0)) = true ∧ gangDrains s job tile = false ∧ ownKind (arr s 0) tile = 0
      ∧ passed (do
          let v ← beginGang job 0 400 ((gangArrays job).foldl (startOn tile 400) s)
          feedGang job tile 0 400 [] v) = true)
    ∧ gangDrains (tiled tile .draining) job tile = true
    ∧ tileLegal { tile with promo := 0 } 0 (swBytes (arr (tiled { tile with promo := 0 } .free) 0)) = false := by decide +kernel

def held : HeldBuf := { seq := 1, tile := 0, step := 0, cols := List.replicate 64 { elems := [], scales := [] } }

/-- Array 0 in a tile whose held load is in progress, on its way down or in row 0's buffer, and its feeders. -/
def feeding (issued : Nat) (a0 : Option HeldBuf) (ls : List HeldLoad) (fs : Vector Feeder 16) : State :=
  on { st := .running, cur := some { desc := tile, idx := 0, start := 320, issued := issued }, act := a0 :: List.replicate 15 none
       loads := ls, loadNo := 1, feeders := fs }

def fed : Vector Feeder 16 := Vector.replicate 16 { next := 1, q := [{ tile := 0, at_ := 0, segs := [] }] }

/-- Whether row 0's segment and the feeders' entries are there for an array's next issue, after the clock's reads. -/
def issueReady (s : State) (c : TileRun) (t : Clk) : Option (Bool × Bool × Bool) :=
  match beginGang job 0 t (loseAccess job c.desc t [] [] s 0) >>= feedGang job c.desc c.idx t [] with
  | .error _ => none
  | .ok v => some
      (gangHolds v job c.idx (c.issued / stepClk c.desc) && !(holdSources job c.desc).any (fun b => unitStalled (arr v b) 1),
       (feedSources job c.desc).all (fun b => rowsQueued (arr v b) c.desc c.idx c.issued && !unitStalled (arr v b) 0),
       sluicePermits (gangSluice v job) t)

theorem wit_StepIssueDecision :
    let s := feeding 0 (some held) [] fed
    let c : TileRun := { desc := tile, idx := 0, start := 320 }
    (arrItem s 0 = some job ∧ (arr s 0).cur = some c ∧ job.leader = (0 : ArrId).val ∧ (arr s 0).st ≠ .fallow
      ∧ c.issued < tileSteps tile * stepClk tile ∧ c.start ≤ 320 ∧ 320 < c.start + holdClk tile
      ∧ ¬ (340 : Nat) < c.start + holdClk tile)
    ∧ issueReady s c 320 = some (true, true, true) ∧ issueReady s c 340 = some (true, true, true)
    ∧ issueReady (feeding 0 none [] fed) c 340 = some (false, true, true)
    ∧ issueReady (setArr s 0 { arr s 0 with care := { thermal := 4 } }) c 340 = some (true, true, false)
    ∧ issueReady (setArr s 0 { arr s 0 with rings := (Vector.replicate 6 {} : Vector Ring 6).set 0 { enable := true, waitC := some (0, 0, 3) } })
        c 340 = some (true, false, true) := by decide +kernel

def load0 (r : Option Nat) : HeldLoad :=
  { seq := 1, tile := 0, step := 0, rows := [List.replicate 64 { elems := [], scales := [] }], ready := 328, swapAt := r }

/-- A tile of two steps whose first load is complete: with its swap the second begins. -/
def twoSteps : State :=
  let c : TileRun := { desc := { tile with kSteps := 65 }, idx := 0, start := 320, begun := 1 }
  on { st := .running, cur := some c, loads := [load0 none], loadNo := 1 }

theorem wit_HeldBufferSwaps :
    ((match (arr twoSteps 0).cur with
      | some c => nextLoad (arr twoSteps 0) 0 == some (load0 none) && c.issued == (load0 none).step * stepClk c.desc
        && gangReady twoSteps job (load0 none) 328
        && loadBegins job 0 ((gangArrays job).foldl (swapOn 0 328) twoSteps)
        && passed (beginGang job 0 328 ((gangArrays job).foldl (swapOn 0 328) twoSteps))
      | none => false) = true) ∧
    (let s := feeding 0 none [load0 none] fed;
      arrItem s 0 = some job ∧ (arr s 0).cur = some { desc := tile, idx := 0, start := 320 } ∧ nextLoad (arr s 0) 0 = some (load0 none)
      ∧ (load0 none).tile = 0 ∧ 0 = (load0 none).step * stepClk tile ∧ gangReady s job (load0 none) 328 = true
      ∧ gangReady s job (load0 none) 327 = false ∧ passed (beginGang job 0 328 ((gangArrays job).foldl (swapOn 0 328) s)) = true)
    ∧ nextLoad (arr (feeding 1 none [load0 none] fed) 0) 0 = some (load0 none) ∧ 1 ≠ (load0 none).step * stepClk tile
    ∧ (nextLoad (arr (feeding 0 (some held) [load0 (some 328)] fed) 0) 3 = some (load0 (some 328)) ∧ 328 + 3 ≤ 331 ∧ 330 < 328 + 3)
    ∧ nextLoad (arr (feeding 0 none [load0 none] fed) 0) 3 = some (load0 none) := by decide +kernel

def stepOf (r : Nat) : RowStep :=
  { row := r, elem := 0, step := 0, pass := 0, gstep := 0, tile := 0, issue := 328, fed := { elems := [], scales := [] }
    held := some (List.replicate 64 { elems := [], scales := [] }), desc := tile }

theorem wit_ChunkUpdateAccumulates :
    takeRow 1 (arr (on { pipe := [stepOf 0, stepOf 1] }) 0).pipe = some (stepOf 1, [stepOf 0])
    ∧ takeRow 1 (arr (on { pipe := [stepOf 0, { stepOf 1 with held := none }] }) 0).pipe = none := by decide +kernel

def draining (d : TileDesc) (b : Option Nat) (p : List RowStep) : State :=
  on { drains := [{ desc := d, idx := 0, due := 400, started := b }], pipe := p, banks := Vector.replicate 32 { power := .on } }

def rowOut : OutRow := { m := 0, addr := 65536, bytes := List.replicate 128 5, stats := [], tile := 0, clk := 404, last := false }

/-- A row in the output stage. -/
def staged : State := on { outq := [rowOut], banks := Vector.replicate 32 { power := .on } }

theorem wit_DrainsReachScratchpad :
    (findIdxFrom (fun x => x.started.isNone) (arr (draining tile none []) 0).drains 0
        = some (0, { desc := tile, idx := 0, due := 400, started := none }) ∧ 400 ≤ 400 ∧ 399 < 400
      ∧ (arr (draining tile none []) 0).pipe = [] ∧ (stepOf 0).tile = 0)
    ∧ (let s := draining tile (some 400) [];
      (arr s 0).drains = [{ desc := tile, idx := 0, due := 400, started := some 400 }] ∧ 400 + 12 + 0 ≤ 412 ∧ (arr s 0).outAt ≤ 412
      ∧ (arr s 0).outq.length < 8 ∧ rowFed tile (0 % 16) (0 / 16) = true
      ∧ maskWord (fillMasks s.mgen 412 (arr s 0)).1 tile 0 = some (2 ^ 64 - 1))
    ∧ rowFed { tile with rowValid := 65534 } (0 % 16) (0 / 16) = false
    ∧ (let d := { tile with maskSrc := 1, maskBase := 1024 };
      passed (slotCheck (arr (draining d (some 400) []) 0) 2 false (d.maskBase + 8 * 0) 8) = true
      ∧ (maskWord (fillMasks up.mgen 412 (arr (draining d (some 400) []) 0)).1 d 0).isSome = true)
    ∧ ((arr staged 0).outq = [rowOut] ∧ passed (slotCheck (arr staged 0) 2 true rowOut.addr rowOut.bytes.length) = true
      ∧ memWf (arr staged 0).spad = true ∧ ∀ b : Fin 32, ((arr staged 0).banks[b]).power = .on) := by decide +kernel

def engine (u : ArrayUnit) : ArrayUnit := { u with ve := .running, vlen := 4, banks := Vector.replicate 32 { power := .on } }

def ve : State := on (engine { swBanks := 30, cacheBanks := 2, stats := [(0, { max := 1, sum := 2, sq := 3, tag := some 5 })] })

theorem wit_ArithmeticLanes : veReady ve 0 = true ∧ ({ dt := 1 } : VInstr).dt = 1 ∧ ({ dt := 2 } : VInstr).dt = 2
    ∧ ({ dt := 0xA } : VInstr).dt = 0xA ∧ (5 : BitVec 4) ≠ 1 ∧ (5 : BitVec 4) ≠ 2 ∧ (5 : BitVec 4) ≠ 0xA := by decide +kernel

theorem wit_LaneOperations :
    veReady ve 0 = true ∧ ({ dt := 0xA, aux := 5 } : VInstr).aux.toNat % 8 ≤ 5 ∧ isVecFmt 3 = true ∧ isVecFmt 4 = false
    ∧ 5 < ({ dt := 0xA, aux := 6 } : VInstr).aux.toNat % 8 ∧ veReady (on { ve := .running, vpos := 4, vlen := 4 }) 0 = false := by
  decide +kernel

/-- A mask buffer that is full. -/
def masked : State := on (engine { maskRows := [16], maskBuf := List.replicate 256 (0, 0, 0) })

/-- A tree slot that is held and not loaded. -/
def forked : State := { ve with mgen := ve.mgen.set 0 { busy := some 0, tree := true, parents := [0, 0] } }

theorem wit_SegmentInstructions :
    veReady ve 0 = true ∧ (1 ≤ (9 : BitVec 4).toNat ∧ (9 : BitVec 4).toNat ≤ 9)
    ∧ (let v : VInstr := { dt := 1, seg := 4, aux := 16 }; v.aux.toNat % 32 = 16 ∧ 16 ≤ 2 ^ v.seg.toNat ∧ v.vd ≠ 31)
    ∧ 9 < (10 : BitVec 4).toNat
    ∧ (bits (2 ^ 24 + 5) 32 24 = 1 ∧ bits (2 ^ 24 + 5) 23 16 = 0 ∧ bits (2 ^ 24 + 5) 15 0 = 5
      ∧ lookupN 0 (arr ve 0).stats = some { max := 1, sum := 2, sq := 3, tag := some 5 })
    ∧ (itemMgen ve 0 0 = some 0 ∧ (ve.mgen[(0 : Fin 8)]).tokens ≤ bits 0 23 0)
    ∧ (veReady masked 0 = true ∧ itemMgen masked 0 0 = some 0 ∧ bits 0 63 62 ≠ 3 ∧ (arr masked 0).maskq = []
      ∧ 256 ≤ (arr masked 0).maskBuf.length ∧ nthD 0 (arr masked 0).maskRows (arr masked 0).maskNo ≠ 0)
    ∧ (veReady forked 0 = true ∧ (forked.mgen[(0 : Fin 8)]).busy ≠ none ∧ (forked.mgen[(0 : Fin 8)]).tree = true
      ∧ (forked.mgen[(0 : Fin 8)]).loaded = false) := by decide +kernel

theorem wit_FormatInstructions :
    (isVecFmt 1 && isVecFmt 2) = true ∧ (isVecFmt 1 && isVecFmt 4) = false
    ∧ quantOk { dt := 1, dt2 := 5, seg := 4, aux := 0xD } = true ∧ quantOk { dt := 1, dt2 := 5, seg := 3, aux := 0xD } = false := by
  decide +kernel

theorem wit_ScratchpadLoadsAndStores :
    veReady ve 0 = true ∧ formRanges (arr ve 0) (0xFF <<< 44) = some [(0, 2048)] ∧ isVecFmt 1 = true
    ∧ passed (slotChecks 3 false (arr ve 0) [(0, 2048)]) = true
    ∧ passed (slotChecks 3 true (arr ve 0) (storeForm (0xFF <<< 44) [(0, 2048)])) = true ∧ memWf (arr ve 0).spad = true
    ∧ formRanges (arr ve 0) (0xFF <<< 44 ||| 1) = none ∧ isVecFmt 4 = false
    ∧ ((arr (sleepy .on true []) 0).banks[(0 : Fin 32)]) = { power := .on, pdReq := true }
    ∧ ((arr (sleepy .waking true [(4, 1)]) 0).banks[(0 : Fin 32)]).power = .waking
    ∧ (let u := arr (sleepy .sleep false []) 0; (u.banks[(0 : Fin 32)]).power = .sleep ∧ bankOf u 4 = 0 ∧ 4 < swBytes u)
    ∧ (let u := arr preambleWake 0; u.preamble = true ∧ u.portq = [] ∧ (u.banks[(31 : Fin 32)]).booked = true
      ∧ (u.banks[(31 : Fin 32)]).power = .waking) := by decide +kernel

theorem wit_TableInstructions :
    (veReady ve 0 = true ∧ itemMgen ve 0 0 = some 0 ∧ itemMgen ve 0 1 = none)
    ∧ (bits (2 ^ 24 + 5) 32 24 = 1 ∧ bits (2 ^ 24 + 5) 23 16 = 0 ∧ bits (2 ^ 24 + 5) 15 0 = 5 ∧ (0 : BitVec 12).toNat % 4 ≠ 3
      ∧ lookupN 0 (arr ve 0).stats = some { max := 1, sum := 2, sq := 3, tag := some 5 })
    ∧ bits 0 63 62 ≠ 3 ∧ bits (3 <<< 62) 63 62 = 3 ∧ (arrItem ve 0 = some job ∧ job.barMap[(0 : BitVec 12).toNat % 256]? = some 7)
    ∧ (lookupN (bits (2 ^ 24 + 2 ^ 16 + 5) 23 16) (arr ve 0).stats = none ∧ bits (2 ^ 24 + 2 ^ 16 + 5) 32 24 = 1)
    ∧ (let u := arr masked 0; u.maskq = [] ∧ 256 ≤ u.maskBuf.length ∧ nthD 0 u.maskRows u.maskNo ≠ 0)
    ∧ ((forked.mgen[(0 : Fin 8)]).busy ≠ none ∧ (forked.mgen[(0 : Fin 8)]).tree = true ∧ (forked.mgen[(0 : Fin 8)]).loaded = false) := by
  decide +kernel

/-- A parameter block at 0: one token, one expert each, two experts, rows of 16. -/
def sortBlock : List Byte :=
  toLE 4 256 ++ toLE 4 1 ++ toLE 1 1 ++ toLE 1 0 ++ toLE 2 2 ++ toLE 4 16 ++ toLE 4 2 ++ toLE 4 512 ++ toLE 4 1024 ++ toLE 4 1536
    ++ toLE 4 2048 ++ toLE 4 0 ++ toLE 8 3

def sorting : State := on (engine { spad := cellWrites 0 sortBlock [] })

theorem wit_ExpertSortWritesLists :
    let u := arr sorting 0
    let p := spadReads u 0 64
    let writes := [(fld p 0x14 4, 4 * 2 * 16), (fld p 0x18 4, 4 * 2 * 16), (fld p 0x1C 4, 8 * 2), (fld p 0x20 4, 8 * 2)]
    veReady sorting 0 = true ∧ fld p 4 4 = 1 ∧ fld p 8 1 = 1 ∧ fld p 0x0A 2 = 2 ∧ fld p 0x0C 4 = 16 ∧ bitLen 16 = bitLen 15 + 1
    ∧ fld p 0x10 4 = 2 ∧ fld p 0x28 8 ≠ 0 ∧ memWf u.spad = true ∧ (∀ x ∈ [(0, 64), (256, 4)] ++ writes, x.1 + x.2 ≤ swBytes u)
    ∧ passed (do
        let v ← slotChecks 3 false u [(0, 64), (fld p 0 4, 4 * 1 * 1)]
        slotChecks 3 true v writes) = true
    ∧ ∀ b : Fin 32, (u.banks[b]).power = .on := by decide +kernel

def lines : List CacheLine := (List.range 8).map (fun k => { owner := 0, line := k, bytes := List.replicate 256 1, use := k })

def cached (ls : List CacheLine) : State :=
  { on (engine { cacheBanks := 2, swBanks := 30, cache := ls }) with rqt := [(0, { state := .running, ld := 0 })] }

def cldRun : CldRun := { instr := { dt := 1, vd := 3 }, at_ := 0, owner := 0, addr := 0 }

def filling : State := setTen (setArr (cached []) 0 { arr (cached []) 0 with cld := some cldRun, ve := .held }) 0 { window := [1] }

/-- A load whose line lies in a page that no frame holds. -/
def missing : State := setArr filling 0 { arr filling 0 with cld := some { cldRun with addr := 2 ^ 47 } }

theorem wit_CachedLoads :
    (veReady (cached lines) 0 = true ∧ arrItem (cached lines) 0 = some job ∧ (arr (cached lines) 0).cacheBanks ≠ 0 ∧ 0 % 256 = 0
      ∧ isVecFmt 1 = true ∧ 2048 ≤ (cldHits 8 (arr (cached lines) 0) cldRun 0).2.1.data.length)
    ∧ (cldHits 8 (arr (cached []) 0) cldRun 0).2.1.data.length < 2048
    ∧ ((arr filling 0).cld = some cldRun ∧ arrItem filling 0 = some job
      ∧ (match fillDpa filling 0 0 with
        | .ok p => decide (p < hbmCap filling) && !poisoned (lineRead 0 filling p) p 256
        | .error _ => false) = true)
    ∧ ((arr missing 0).cld = some { cldRun with addr := 2 ^ 47 } ∧ arrItem missing 0 = some job ∧ job.halted = 0 ∧ job.failStatus = 0
      ∧ (match fillDpa missing 0 (2 ^ 47) with
        | .error c => c == 1
        | .ok _ => false) = true ∧ (fe missing (fillEngine job)).faults.any (fillWaits job (2 ^ 47)) = false)
    ∧ (arr sorting 0).cacheBanks = 0 ∧ (256 + 1) % 256 ≠ 0 ∧ isVecFmt 4 = false := by decide +kernel

/-! Fetch engines and work items -/

def rd : Desc := { op := 0, space := 0, ring := 0, len0 := 64, base := 0, baseSel := 0, counts := [1, 1, 1, 1], strides := [0, 0, 0, 0] }

def descOf (d : Desc) (st : DescState) (p : List Nat) : DescRun := { desc := d, item := 0, order := 0, st := st, pos := p }

def slotted (x : DescRun) (u : ArrayUnit) : State :=
  setTen (setFe { on u with rqt := [(0, { state := .running, ld := 0 })] } 0 { fallow := false, slots := [(0, x)] }) 0 { window := [1] }

def lit (q : Fin 6) (g : Ring) : ArrayUnit :=
  { rings := (Vector.replicate 6 {} : Vector Ring 6).set q g, banks := Vector.replicate 32 { power := .on } }

def inRing : ArrayUnit := lit 0 { enable := true, slotSize := 128, slots := 4 }
def outRing (tail : Nat) : ArrayUnit := lit 4 { enable := true, slotSize := 128, slots := 4, tail := tail }

theorem wit_DescriptorsStart :
    let x := descOf rd .queued [0, 0, 0, 0, 0]
    let y := descOf { rd with op := 1, waitBar := 0, waitVal := 1 } .queued [0, 0, 0, 0, 0]
    let z := descOf { rd with space := 3 } .queued [0, 0, 0, 0, 0]
    slotDesc (slotted x inRing) 0 0 = some x ∧ itemOf (slotted x inRing) 0 = some job ∧ descUnstarted x = true ∧ job.halted = 0
    ∧ mayStart (slotted x inRing) 0 job x = true ∧ rd.space ≠ 3
    ∧ slotDesc (slotted y inRing) 0 0 = some y ∧ descUnstarted y = true ∧ mayStart (slotted y inRing) 0 job y = false
    ∧ mayStart (slotted z inRing) 0 job z = true := by decide +kernel

def wr : Desc := { rd with op := 1, ring := 4 }

/-- Whether a state meets what every clause on a burst asks of the descriptor in slot 0 of engine 0. -/
def bursting (s : State) (d : Desc) (q : Fin 6) : Bool :=
  let x := descOf d .running [0, 0, 0, 0, 0]
  slotDesc s 0 0 == some x && itemOf s x.item == some job && descRing d == some q && descActive x && !descMoved x && job.halted == 0
    && ringTurn s 0 x && d.space == 0 && burstLen d x.pos 0 == 64
    && (match runOf (listTouch s job d x.pos) job x with
      | .addr v => v == 0
      | _ => false)

theorem wit_BurstsMoveBytes :
    let x := descOf rd .running [0, 0, 0, 0, 0]
    let y := descOf wr .running [0, 0, 0, 0, 0]
    let s := slotted x inRing
    let s1 := listTouch s job rd [0, 0, 0, 0, 0]
    (bursting s rd 0 = true ∧ ringTakes (arr s 0) 0 64 = true ∧ tvaMapped s1 0 0 64 = true ∧ tvaDpa s1 0 0 = some (2 ^ 21)
      ∧ 2 ^ 21 < hbmCap s1 ∧ poisoned (burstRead s1 rd.hint (2 ^ 21) .plain) (2 ^ 21) 64 = false ∧ (arr s 0).preamble = false
      ∧ (let g := (arr s 0).rings[(0 : Fin 6)]; passed (slotChecks 5 true (arr s 0) (ringPieces g (ringTop g) g.filled 64)) = true)
      ∧ merePresent s1 (2 ^ 21) = false ∧ frameTag s1 (2 ^ 21 / 65536) ≠ .image)
    ∧ (let v := slotted x { inRing with preamble := true };
      bursting v rd 0 = true ∧ (arr v 0).preamble = true ∧ ringTakes (arr v 0) 0 64 = true)
    ∧ (let g : Ring := { enable := true, slotSize := 64, slots := 1, tail := 1 };
      let v := slotted x (lit 0 g); let v' := slotted x { lit 0 g with preamble := true };
      bursting v rd 0 = true ∧ ringTakes (arr v 0) 0 64 = false ∧ (arr v 0).preamble = false
      ∧ bursting v' rd 0 = true ∧ ringTakes (arr v' 0) 0 64 = false ∧ (arr v' 0).preamble = true)
    ∧ (let v := slotted y (outRing 1); let v1 := listTouch v job wr [0, 0, 0, 0, 0];
      bursting v wr 4 = true ∧ tvaReadOnly v1 0 0 64 = false ∧ tvaMapped v1 0 0 64 = true ∧ (∀ p ∈ tvaLines v1 0 0 64, p < hbmCap v1)
      ∧ ((arr v 0).rings[(4 : Fin 6)]).enable = true ∧ 64 ≤ ringHolds ((arr v 0).rings[(4 : Fin 6)])
      ∧ passed (slotChecks 4 false (arr v1 0) (ringPieces ((arr v 0).rings[(4 : Fin 6)]) 0 0 64)) = true)
    ∧ (let v := slotted y (outRing 0); bursting v wr 4 = true ∧ ringHolds ((arr v 0).rings[(4 : Fin 6)]) < 64) := by
  decide +kernel

theorem wit_BurstsMoveBytes_inv : Inv (slotted (descOf wr .running [0, 0, 0, 0, 0]) (outRing 1)) :=
  ⟨by decide +kernel, by decide +kernel, by decide +kernel, by decide +kernel, by decide +kernel⟩

def stuck (code addr : Nat) : DescRun := { descOf rd .running [0, 0, 0, 0, 0] with st := .faulted, code := code, faultAddr := addr }

def pooled (booking : Nat) : State := { slotted (stuck 1 (2 ^ 47)) inRing with work := [(0, { booking := booking })] }

/-- A state whose node 5 is UP and reached over port 0. -/
def reached (s : State) : State := setPort (regSet { s with peers := [(5, { st := .up })] } (routeOff 4) (2 ^ 16)) 0 { st := .active }

def ended (d : Desc) : DescRun := descOf d .running [0, 0, 0, 0, 1]

theorem wit_DescriptorsEnd :
    (slotDesc (pooled 1) 0 0 = some (stuck 1 (2 ^ 47)) ∧ itemOf (pooled 1) 0 = some job
      ∧ (mapPage (pooled 1) (itemTenant (pooled 1) job) (some job.rqt) (2 ^ 47)).isSome = true
      ∧ (mapPage (pooled 0) (itemTenant (pooled 0) job) (some job.rqt) (2 ^ 47)).isNone = true)
    ∧ (let s := slotted (stuck 7 (5 * 2 ^ 52)) inRing;
      slotDesc s 0 0 = some (stuck 7 (5 * 2 ^ 52)) ∧ raileReach s 5 = false ∧ raileReach (reached s) 5 = true)
    ∧ (let x := ended rd; let s := slotted x inRing;
      slotDesc s 0 0 = some x ∧ descRing rd = some 0 ∧ descActive x = true ∧ descMoved x = true ∧ job.halted = 0
      ∧ portWaiting (arr s (descArr job rd)) (0 : Fin 6).val = 0 ∧ x.wr = [] ∧ x.ntf = none ∧ rd.endB = false ∧ (fe s 0).waitq = []
      ∧ rd.signalBar = 0xFF ∧ job.barMap[0]? = some 7)
    ∧ (let w : RaileWrite := { op := 1, addr := 5 * 2 ^ 52, data := [1] }; let x := { ended wr with wr := [w] };
      descRing wr = some 4 ∧ descActive x = true ∧ descMoved x = true ∧ raileReach (reached (slotted x (outRing 0))) (w.addr / 2 ^ 52) = true)
    ∧ (let x := { ended wr with ntf := some (5, 9, 0) };
      let s := reached (slotted x (outRing 0));
      slotDesc s 0 0 = some x ∧ descActive x = true ∧ descMoved x = true ∧ x.wr = [] ∧ x.ntf = some (5, 9, 0) ∧ x.notified = false
      ∧ x.ntfMsg = none ∧ (5 : NodeId).toNat ≠ ownNode s) := by decide +kernel

theorem wit_WorkItemCompletes :
    let s := on { st := .running, ve := .running }
    itemOf s 0 = some job ∧ job.done = false ∧ job.halted = 0 ∧ job.failStatus = 0 ∧ itemComplete s job = true ∧ job.width ≤ 64 := by
  decide +kernel

/-! Queues, requests and rounds -/

/-- LD 0 keyed, with one window unit and an HDM decoder of 256 MiB from host address 0, no work. -/
def keyed : State := setTen up 0 { window := [1], material := some (List.replicate 64 7), hdm := [some (0, 2 ^ 28), none] }

/-- The same with queue 0 of LD 0 on and its pair created. -/
def paired : State :=
  setQue (setTen (regSet keyed (qcfgOff 0) (2 ^ 16 + 1)) 0 { ten keyed 0 with doorbells := some 0 :: List.replicate 7 none }) 0
    { pair := true, written := 3, coalRecords := 2, coalUs := 5, timerOn := true, sqTail := 1, sqTva := 4096, cqTva := 8192 }

/-- The same with a completion queue of 16 records full, and a record that waits for room. -/
def crowded : State :=
  setQue (setTen paired 0 { ten paired 0 with overflow := [{ queue := 0, bytes := [], compl := true, place := true }], places := 1 }) 0
    { que paired 0 with written := 16 }

theorem wit_QueueCounts :
    (slotQueue up 0 0 = none ∧ slotQueue paired 0 0 = some 0)
    ∧ (let u := que paired 0; let above (b y : Nat) : Nat := (y + 2 ^ 32 - b) % 2 ^ 32;
      (above u.sqHead u.sqTail ≤ above u.sqHead 16 ∧ above u.sqHead 16 ≤ 2 ^ u.sqLog2)
      ∧ ¬ (above u.sqHead u.sqTail ≤ above u.sqHead 17 ∧ above u.sqHead 17 ≤ 2 ^ u.sqLog2)
      ∧ above u.cqHead 3 ≤ above u.cqHead u.written ∧ (ten paired 0).overflow = [] ∧ above u.cqHead u.written < above u.cqHead 4
      ∧ u.pair = true ∧ 0 < (u.written + 2 ^ 32 - u.announced) % 2 ^ 32 ∧ u.coalRecords ≤ (u.written + 2 ^ 32 - u.announced) % 2 ^ 32
      ∧ u.timerOn = true ∧ 0 < u.coalUs ∧ u.written ≠ u.announced)
    ∧ (let u := que crowded 0;
      slotQueue crowded 0 0 = some 0 ∧ (1 + 2 ^ 32 - u.cqHead) % 2 ^ 32 ≤ (u.written + 2 ^ 32 - u.cqHead) % 2 ^ 32
      ∧ (ten crowded 0).overflow.map (·.queue) = [(0 : Fin 128).val] ∧ u.pair = true ∧ cqFull u = true
      ∧ poisoned crowded (reserveLine crowded 2 (0 : LdId).val) 256 = false
      ∧ cqFull { u with cqHead := 1 } = false) := by decide +kernel

/-- An image in frame 64: a directory of two sections, one plan of one step, MODEL_INFO. -/
def imageMem (plan model : List (Nat × Byte)) : List Host.Cell :=
  ([(0x48, (2 : Byte)), (0x51, 1), (0x100, 8), (0x109, 2), (0x118, 1), (0x120, 0xB), (0x128, 0x40), (0x129, 2), (0x131, 1)]
    ++ plan.map (fun (p : Nat × Byte) => (0x200 + p.1, p.2)) ++ model.map (fun (p : Nat × Byte) => (0x240 + p.1, p.2))).map
      (fun (p : Nat × Byte) => (2 ^ 22 + p.1, p.2))

/-- A state with that image as image 0. -/
def withImage (s : State) (plan model : List (Nat × Byte)) : State :=
  { s with
    images := (Vector.replicate 16 none).set 0 (some { frames := [64], length := 4096, digest := List.replicate 48 1, weight := false })
    tags := [(64, .image)], mem := imageMem plan model }

def imaged (plan model : List (Nat × Byte)) : State := withImage keyed plan model

/-- A plan of one step for chunks of 64 on one array, and a model of 16 tokens with contexts of up to 256 positions. -/
def aPlan : List (Nat × Byte) := [(0, 64), (4, 64), (8, 1), (9, 1), (12, 1), (16, 64)]
def aModel : List (Nat × Byte) := [(0, 16), (4, 1), (6, 14), (9, 1), (12, 0xFF), (13, 0xFF), (14, 1)]

/-- A queue with one submission entry (tag 5) whose RPB and input token lie in the window; `sub` and `rpb` add bytes to both. -/
def submitted (sub rpb : List (Nat × Byte)) : State :=
  let s := withImage (regSet paired (ldRqtOff 0) 16) aPlan aModel
  let e : List (Nat × Byte) := [(0, 1), (4, 5), (9, 0x20)]
  let r : List (Nat × Byte) := [(2, 0xFF), (3, 0xFF), (4, 0xFF), (5, 0x40), (0x11, 0x30), (0x18, 1), (0x46, 0x80), (0x47, 0x3F)]
  let bs := (e ++ sub).map (fun p => (2 ^ 21 + 4096 + p.1, p.2)) ++ (r ++ rpb).map (fun p => (2 ^ 21 + 8192 + p.1, p.2))
  { s with mem := bs.foldl (fun m p => cellWrite p.1 p.2 m) s.mem }

/-- What the serving block reads of the next submission: whether its header stands, the RPB's bytes and the inputs. -/
def subReads (s : State) : Option (Bool × Nat × Bool × Option (List Byte × State × Option (List Nat × List Nat × List Nat))) :=
  let s0 := setQue s 0 { que s 0 with sqHead := 1 }
  let s1 := setTen s0 0 { ten s0 0 with places := 1 }
  match readRange s1 0 (que s 0).sqTva 128 with
  | (_, none) => none
  | (v, some b) =>
    let rr := readRange v 0 (fld b 8 8) 2432
    some (fld b 0 1 == 1 && zeroAt b 1 3 && zeroAt b 16 112 && decide (fld b 4 4 < 2 ^ 31), fld b 4 4, fld b 8 8 % 64 == 0,
      rr.2.map (fun r => (r, readInputs rr.1 0 r)))

/-- The status of R230 for the next submission, where all of it can be read. -/
def subStatus (s : State) (cont : Option Nat) : Option Nat :=
  match subReads s with
  | some (true, tag, true, some (r, v, some x)) => some (submitStatus v 0 r tag x.1 (rpbParams r x.2.1 x.2.2) cont)
  | _ => none

def queuedUp : State :=
  let s := withImage paired aPlan aModel
  let s := regSet (regSet (regSet s (rqtReg 0x100000) 64) (qcfgOff 0) (regGet s (qcfgOff 0) + 1)) (ldPoolOff 0) 8
  setQue { s with rqt := [(0, { state := .queued, tag := 5, targetLen := 64 })] } 0 { que s 0 with waiting := [0] }

theorem wit_SubmissionAndAdmission :
    mayReadSq paired 0 = true ∧ mayReadSq (submitted [] []) 0 = true
    ∧ (subReads (setQue paired 0 { que paired 0 with sqTva := 2 ^ 30 })).isNone = true
    ∧ (subReads (submitted [(1, 1)] [])).map (·.1) = some false
    ∧ (subReads (submitted [(8, 1)] [])).map (fun x => (x.1, x.2.2.1)) = some (true, false)
    ∧ (subReads (submitted [(11, 0x40)] [])).map (fun x => (x.1, x.2.2.1, x.2.2.2.isNone)) = some (true, true, true)
    ∧ (subReads (submitted [] [(0x13, 0x40)])).map (fun x => (x.1, x.2.2.1, x.2.2.2.map (fun y => y.2.2.isNone))) = some (true, true, some true)
    ∧ subStatus (submitted [] []) none = some 0 ∧ entriesFree (submitted [] []) 0 1 = true
    ∧ subStatus (submitted [] [(5, 0)]) none = some 7
    ∧ entriesFree (regSet (submitted [] []) (ldRqtOff 0) 0) 0 1 = false
    ∧ (let s := { submitted [] [(0x1C, 5), (0x1F, 0x80)] with rqt := [(0, { state := .complete, retain := true, tag := 5 })] };
      byTag s 0 5 = some (0, { state := .complete, retain := true, tag := 5 }) ∧ retained (entryOf s 0) = true
      ∧ (workOf s 0).releaseReq = false ∧ s.ops = [] ∧ subStatus s (some 0) = some 0)
    ∧ (admits queuedUp = true ∧ (que queuedUp 0).waiting = [0] ∧ queueHead queuedUp 0 = some 0
      ∧ (∀ p : Fin 128, p ≠ 0 → (que queuedUp p).waiting = [])
      ∧ admitCost queuedUp 0 ≤ 0 + regField queuedUp (qcfgOff 0) 7 0 * regField queuedUp (rqtReg 0x100000) 31 0
      ∧ damagedFor queuedUp (entryOf queuedUp 0) = false ∧ (entryOf queuedUp 0).forest = false ∧ jobOf queuedUp 0 = none)
    ∧ (let s := setQue queuedUp 0 { que queuedUp 0 with deficit := 64, waiting := [] };
      (match admitPlans (curFurrow s) 0 (entryOf s 0) 1 0 s none false with
      | .fits v _ _ chain qt => passed (bookTail (setWork v 0 { workOf v 0 with chain := chain }) 0 (entryOf s 0) qt qt)
      | _ => false) = true)
    ∧ admits up = true ∧ (∀ q, queueHead up q = none) ∧ admits State.reset = false := by decide +kernel

/-- A request of LD 0, tag 5, in entry 0. -/
def entered (e : Entry) : State := { keyed with rqt := [(0, { e with tag := 5 })] }

/-- A payload: the header for LD 0, then the fields. -/
def pay (fs : List Byte) : List Byte := List.replicate 8 0 ++ fs

/-- An owner's payload of a command that names no LD. -/
def payOwn (fs : List Byte) : List Byte := 0xFF :: (List.replicate 7 0 ++ fs)

theorem wit_CancelAndRelease :
    let p := pay (toLE 4 5)
    mboxLive keyed (.tenant 0) = true ∧ gate keyed { len := 0x0C } (.tenant 0) p false = .ok 0 ∧ byTag keyed 0 (fld p 8 4) = none
    ∧ (∀ c : Bool, let s := entered { state := .running, cancelPending := c };
      mboxLive s .owner = true ∧ gate s { len := 0x0C } .owner p false = .ok 0
      ∧ byTag s 0 (fld p 8 4) = some (0, { state := .running, cancelPending := c, tag := 5 })
      ∧ opOf s 0 = none ∧ retained { state := .running, cancelPending := c, tag := 5 } = false)
    ∧ (let s := entered { state := .parked };
      byTag s 0 (fld p 8 4) = some (0, { state := .parked, tag := 5 }) ∧ opOf s 0 = none ∧ gate s { len := 0x0C } .owner p false = .ok 0)
    ∧ (let s := entered { state := .failedPartial };
      byTag s 0 (fld p 8 4) = some (0, { state := .failedPartial, tag := 5 }) ∧ opOf s 0 = none
      ∧ retained { state := .failedPartial, tag := 5 } = true ∧ gate s { len := 0x0C } .owner p false = .ok 0)
    ∧ (let s := { entered { state := .parking } with ops := [{ entry := 0, kind := 1, addr := 0, len := 0, bundleId := 1, committed := 0 }] };
      byTag s 0 (fld p 8 4) = some (0, { state := .parking, tag := 5 }) ∧ opOf s 0 ≠ none
      ∧ gate s { len := 0x0C } .owner p false = .ok 0) := by decide +kernel

/-- A request whose next chunk may commit, with the chunks still to run. -/
def committing (e : Entry) (chunks : List Nat) : State :=
  { entered { e with state := .running, committed := 64, targetLen := 192 } with
    work := [(0, { chunkLens := chunks, splitting := true, special := 2 })] }

def rounded (r : Round) : State := { imaged [(12, 1)] [] with rounds := [r] }
def aRound : Round := { id := 3, image := 0, adapter := 0xFF, start := 1, rp := 1, seats := [0], lanes := [] }

def tailed : Params := { maxNew := 1 }

theorem wit_RequestsCommit :
    (let s := committing {} [64, 64];
      chunkReady s 0 = true ∧ (entryOf s 0).cancelPending = false ∧ (entryOf s 0).forest = false ∧ (workOf s 0).chunkLens = [64, 64])
    ∧ (chunkReady (committing { cancelPending := true } [64]) 0 = true
      ∧ (entryOf (committing { cancelPending := true } [64]) 0).cancelPending = true)
    ∧ (chunkReady (committing {} [64]) 0 = true ∧ (entryOf (committing {} [64]) 0).seedRng.maxNew = 0)
    ∧ (let s := committing { seedRng := tailed } [64];
      chunkReady s 0 = true ∧ 0 < (entryOf s 0).seedRng.maxNew ∧ tokenRoom s (ldId 0) (queId 0) = true
      ∧ (let v := setTen s 0 { ten s 0 with overflow := List.replicate 61440 { queue := 0, bytes := [], compl := false, place := false } };
        tokenRoom v (ldId 0) (queId 0) = false))
    ∧ (let s := committing { forest := true, seedRng := { branches := [0], parents := [0] } } [64];
      chunkReady s 0 = true ∧ (entryOf s 0).forest = true ∧ (entryOf s 0).seedRng.maxNew = 0 ∧ (entryOf s 0).seedRng.branches = [0]
      ∧ lookupN 1 s.rqt = none)
    ∧ (let s := { imaged [(12, 1), (8, 1), (9, 1)] [] with
          rqt := [(0, { state := .lifting, tag := 5 })], work := [(0, { resow := [(0, 64), (64, 64)], stepDone := [0] })] };
      chunkReady s 0 = false ∧ resowReady s 0 = true ∧ (workOf s 0).resow = [(0, 64), (64, 64)])
    ∧ (roundOf (rounded aRound) 3 = some aRound ∧ roundReady (rounded aRound) aRound = true)
    ∧ (let r := { aRound with sampled := true, outcome := [{ entry := 0, toks := [7], accepted := 0, fed := 0, noCand := false }] };
      let s := { rounded r with rqt := [(0, { state := .generating, tag := 5 })] };
      roundOf s 3 = some r ∧ r.sampled = true ∧ (entryOf s 0).state = .generating ∧ (entryOf s 0).cancelPending = false
      ∧ tokenRoom s (ldId 0) (queId 0) = true)
    ∧ (let s := { entered { state := .running } with work := [(0, { stallFurrows := 65535 })] };
      (entryOf s 0).state = .running ∧ 0 < (workOf s 0).stallFurrows
      ∧ Nat.max 1 (regField s (fltReg 0) 47 32) ≤ (workOf s 0).stallFurrows) := by decide +kernel

/-- A state in which frame 65 stands behind a page of entry 0's device-managed memory. -/
def paged (s : State) (tva : Nat) : State :=
  setTen { s with tags := s.tags ++ [(65, .pool 0)] } 0 { ten s 0 with tva := [(tva / 65536, 65)] }

/-- The same with the first line of that page poisoned. -/
def pagePoison (s : State) (tva : Nat) : State := { paged s tva with poison := [65 * 256] }

/-- A last chunk with a tail, for an image of 16 tokens. -/
def sampling : State :=
  { imaged [] [(0, 16)] with
    rqt := [(0, { state := .running, tag := 5, committed := 64, targetLen := 192, seedRng := tailed })]
    work := [(0, { chunkLens := [64], splitting := true, special := 2 })] }

theorem wit_RequestsCommit_poison :
    (∀ c : Bool, let s := if c then pagePoison sampling (2 ^ 47) else { sampling with poison := [countsAddr sampling 0 / 256] };
      chunkReady s 0 = true ∧ 0 < (entryOf s 0).seedRng.maxNew ∧ tokenRoom s (ldId 0) (queId 0) = true
      ∧ logitPoison (touchLogits s 0 1) 0 1 ≠ 0)
    ∧ (let s := sampling; chunkReady s 0 = true ∧ logitPoison (touchLogits s 0 1) 0 1 = 0)
    ∧ (∀ bad : Bool, let f := committing { forest := true, seedRng := { branches := [0], parents := [0xFFFFFFFF] } } [64];
      let f := { withImage f [] aModel with rqt := f.rqt, work := [(0, { workOf f 0 with blocks := [{}, { pages := [2 ^ 47 + 65536] }] })] };
      let s := if bad then pagePoison f (2 ^ 47 + 65536) else paged f (2 ^ 47 + 65536);
      let v := touchAll s 0 (splitReads s 0);
      chunkReady s 0 = true ∧ (entryOf s 0).forest = true ∧ (entryOf s 0).cancelPending = false ∧ (entryOf s 0).seedRng.maxNew = 0
      ∧ splitReads s 0 ≠ [] ∧ anyPoisoned v 0 (splitReads v 0) = bad)
    ∧ (∀ b : Fin 3, let o : SeatOut := { entry := 0, toks := [7], accepted := 0, fed := 0, noCand := false, bad := b.val };
      let r := { aRound with sampled := true, outcome := [o] };
      let s := { rounded r with rqt := [(0, { state := .generating, tag := 5 })] };
      roundOf s 3 = some r ∧ r.outcome = [o] ∧ (entryOf s 0).state = .generating ∧ (entryOf s 0).cancelPending = false
      ∧ tokenRoom s (ldId (entryOf s 0).ld) (queId (entryOf s 0).queue) = true) := by decide +kernel

def oper (k : Nat) : BundleOp := { entry := 0, kind := k, addr := 2 ^ 12, len := 2 ^ 13, bundleId := 1, committed := 0 }

def entryOne (e : Entry) (s : State) : State := { s with rqt := [(0, { e with tag := 5 })] }

/-- An export, a park and a lift pass their gate and their checks; LD 0 may hold 16 entries. -/
theorem wit_BundleOperations :
    let p := pay (toLE 8 5 ++ toLE 8 (5 * 2 ^ 52 + 4096) ++ toLE 8 (2 ^ 20))
    let l := (pay (toLE 8 5 ++ toLE 8 4096 ++ toLE 8 8192)).take 0x1D
    let e : Entry := { state := .complete, retain := true, tag := 5 }
    (let s := entryOne e (imaged aPlan aModel);
      mboxLive s .owner = true ∧ fld p 0x10 8 % 4096 = 0 ∧ gate s { len := 0x20 } .owner p (!zeroAt p 0x0C 4) = .ok 0
      ∧ byTag s 0 (fld p 8 4) = some (0, e) ∧ (ten s 0).places < 4096 ∧ opOf s 0 = none ∧ retained e = true
      ∧ (workOf s 0).releaseReq = false
      ∧ (let place := setTen s 0 { ten s 0 with places := (ten s 0).places + 1 };
        let md := modelOf place e; let rows := carried place 0; let lay := bundleLay rows.length md.vocab;
        rows.any (fun x => bitAt x.2.2 1 && !bitAt x.2.2 0) = false
        ∧ totalLen md lay.data (placeBlocks md lay.data rows) ≤ fld p 0x18 8)
      ∧ fld p 0x10 8 / 2 ^ 52 ≠ ownNode s)
    ∧ (gate keyed { len := 0x20 } .owner p (!zeroAt p 0x0C 4) = .ok 0 ∧ byTag keyed 0 (fld p 8 4) = none)
    ∧ (let s := entered { state := .parked };
      gate s { len := 0x1D } .owner l (decide (8 ≤ fld l 0x0C 1)) = .ok 0 ∧ fld l 0x10 8 % 4096 = 0 ∧ bitAt (fld l 0x0C 1) 0 = false
      ∧ byTag s 0 (fld l 8 4) = some (0, { state := .parked, tag := 5 }) ∧ (workOf s 0).releaseReq = false ∧ opOf s 0 = none)
    ∧ (let s := regSet keyed (ldRqtOff 0) 16; let l := (pay (toLE 4 (2 ^ 31 - 1) ++ toLE 4 1 ++ toLE 8 4096 ++ toLE 8 8192)).take 0x1D;
      gate s { len := 0x1D } .owner l (decide (8 ≤ fld l 0x0C 1)) = .ok 0 ∧ fld l 0x10 8 % 4096 = 0 ∧ bitAt (fld l 0x0C 1) 0 = true
      ∧ fld l 8 4 < 2 ^ 31 ∧ tagUsed s 0 (fld l 8 4) none = false ∧ fld l 0x0D 1 < 128 ∧ queueLd s (fld l 0x0D 1) = 0
      ∧ entriesFree s 0 1 = true) := by decide +kernel

/-- Whether every part of entry 0's bundle is written. -/
def partsWritten (s : State) (o : BundleOp) : Bool :=
  (raileStores (touchBundle s 0 o) (entryOf s 0).ld
    ((if o.begun then [] else [(o.addr, headStart s (entryOf s 0) o)]) ++ (sealBundle s 0 o).1) 0).2.1

theorem wit_BundleOperations_write :
    (let s := { entryOne { state := .parking } keyed with ops := [oper 1], work := [(0, { leftState := .complete })] };
      opOf s 0 = some (oper 1) ∧ (oper 1).kind < 2 ∧ (workOf s 0).leftState ≠ .free ∧ raileOpen s (oper 1).addr = true
      ∧ partsWritten s (oper 1) = false)
    ∧ (∀ begun : Bool, let o := { oper 1 with addr := 5 * 2 ^ 52, begun := begun };
      let s := { entryOne { state := .parking } (reached keyed) with ops := [o] };
      opOf s 0 = some o ∧ raileOpen s o.addr = true ∧ partsWritten s o = true)
    ∧ (let o := { oper 0 with addr := 5 * 2 ^ 52, stallAt := some 0 };
      let s := { entryOne { state := .complete } keyed with ops := [o] };
      opOf s 0 = some o ∧ raileOpen s o.addr = false ∧ rqtNow s < 0 + regField s (bndReg 0x38) 15 0 * 100000)
    ∧ (let s := { entryOne { state := .complete } keyed with ops := [oper 0] }; opOf s 0 = some (oper 0) ∧ raileOpen s (oper 0).addr = true) := by
  decide +kernel

/-- A bundle of `n` full blocks without pages, whose header agrees with the image of `imaged`: its digest and its tag list as given. -/
def liftBytes (n : Nat) (rows dg tags : List Byte) : List Byte :=
  ascii [73, 75, 66, 66, 85, 78, 68, 76] ++ toLE 8 0x10000 ++ toLE 8 1 ++ toLE 8 (0x3000 + 0x2000 * n) ++ List.replicate 48 1
    ++ toLE 12 0xFFFF ++ toLE 4 (64 * n) ++ List.replicate 52 0 ++ toLE 4 n ++ List.replicate 8 0 ++ toLE 8 0x1000
    ++ toLE 8 (0x1000 + 0x1000 * n) ++ toLE 8 (0x2000 + 0x1000 * n) ++ toLE 8 (0x3000 + 0x1000 * n) ++ List.replicate 16 0 ++ dg
    ++ List.replicate 3840 0 ++ slice rows 0 (0x1000 * n) ++ tags

/-- A lift from node 5. -/
def liftOp : BundleOp := { oper 2 with addr := 5 * 2 ^ 52 }

/-- A state in which it runs, and a path leads there. -/
def liftState (ps : List (Nat × Byte)) : State :=
  { regSet (reached (imaged ps [])) (ldPoolOff 0) 8 with rqt := [(0, { state := .lifting, tag := 5 })], ops := [liftOp] }

/-- The same without a path. -/
def cutOff (s : State) : State := { s with peers := [(5, { st := .down })] }

def liftWhole : List Byte :=
  liftBytes 0 [] (toBE 48 4339531663810267583919309896048246355044740652625936713833646483830637751909191885361521458789187582349272019137946)
    (toBE 16 22601993675414253495375652350013183419)

def liftOne : List Byte :=
  liftBytes 1 (toLE 4 0 ++ toLE 4 64 ++ toLE 8 0x4000 ++ toLE 8 4096) (toBE 48 10988208879384804199827145549176044816467278077130445869200637722559612135116865399545849785325374200526287366508875) (toBE 16 147931199475412952963366440644271119390 ++ List.replicate 16 0)

/-- What the statement asks of a header that passes: that its checks pass, and that its frames can be had. -/
def liftPasses (bs : List Byte) (n : Nat) : Bool :=
  let s := liftState []
  match liftHead s 0 liftOp { readOk := true, bytes := bs } with
  | none => false
  | some (s0, x) =>
    let e := resolveImage s0 (entryOf s0 0) x.bytes
    let s1 := meterMem (regBump s0 (bndReg 0x78) x.bytes.length) (.entry 0) x.bytes.length
    let s2 := setOp s1 { liftOp with committed := fld (slice x.bytes 0 4096) 0x5C 4 }
    x.readOk && (liftChecks s1 e x.bytes true).1 == 0 && fld (slice x.bytes 0 4096) 0x94 4 == n
      && (poolEvict (s2.nodes.length + 1) s2 e.ld (liftFrames (modelOf s2 e) n)).2

theorem wit_LiftsAndResowing_header :
    (let s := liftState []; opOf s 0 = some liftOp ∧ liftOp.kind = 2 ∧ liftOp.headerOk = false ∧ (entryOf s 0).state = .lifting
      ∧ liftOp.resow = [] ∧ (workOf s 0).recover = none)
    ∧ (liftHead (liftState []) 0 liftOp { readOk := false, bytes := [] }).isSome = true
    ∧ (liftChecks (liftState []) (entryOf (liftState []) 0) [] false).1 = 0x0107
    ∧ opOf (cutOff (liftState [])) 0 = some liftOp
    ∧ (liftHead (cutOff (liftState [])) 0 liftOp { readOk := true, bytes := [] }).isNone = true := by
  decide +kernel

theorem wit_LiftsAndResowing_none : liftPasses liftWhole 0 = true := by decide +kernel

theorem wit_LiftsAndResowing_one : liftPasses liftOne 1 = true := by decide +kernel

/-- A lift whose header has passed, for an image without layers. -/
def blockOp (rows : List (Nat × Nat × Nat × Nat)) : BundleOp :=
  { liftOp with headerOk := true, table := rows, rawTable := rows.flatMap (tableEntry (modelOf keyed { image := 0xFFFF })) }

def aRow : Nat × Nat × Nat × Nat := (0, 64, 1, 0)

/-- The same with the tag that 4,096 bytes 0 have as the data of block 0. -/
def tagged (rows : List (Nat × Nat × Nat × Nat)) : BundleOp :=
  { blockOp rows with tags := List.replicate 16 0 ++ toBE 16 314284111700434656287067484097056582612 }

def blockState (o : BundleOp) : State := { reached (entered { state := .lifting, image := 0xFFFF }) with ops := [o] }

/-- What the node answers for block 0, in full. -/
def aBlock : LiftBlock := { index := 0, tokRead := true, pagesRead := true, bytes := [] }

theorem wit_LiftsAndResowing_block :
    let o := tagged [aRow]
    let s := blockState o
    let md := modelOf s (entryOf s 0)
    opOf s 0 = some o ∧ o.kind = 2 ∧ o.headerOk = true ∧ findIdxFrom (fun r => r.1 == 0) o.table 0 = some (0, aRow)
    ∧ o.seen.contains 0 = false ∧ bitAt aRow.2.2.1 0 = true
    ∧ (match liftData s 0 o aRow.2.2.2 (dataLen md true) aBlock with
      | some (s0, x) => x.tokRead && x.pagesRead
          && (gcmOpen (bundleKey (materialOf s0 0)) (bundleIv o.bundleId.toNat x.index)
            (sha384 (slice o.header 0 0xD0 ++ List.replicate 48 0 ++ slice o.header 0x100 3840) ++ slice o.rawTable (32 * 0) 32)
            (slice x.bytes 0 (dataLen md true)) (slice o.tags (16 * (0 + 1)) 16)).2
      | none => false) = true
    ∧ (liftData (cutOff s) 0 o aRow.2.2.2 (dataLen md true) aBlock).isNone = true
    ∧ o.seen.length + 1 = o.table.length ∧ o.resow = [] ∧ (workOf s 0).recover = none ∧ bitAt aRow.2.2.1 1 = false
    ∧ ({ o with seen := [0] } : BundleOp).seen.contains 0 = true := by decide +kernel

theorem wit_LiftsAndResowing_blocks :
    let o := tagged [aRow, (1, 64, 1, 0)]
    findIdxFrom (fun r => r.1 == 0) o.table 0 = some (0, aRow) ∧ o.seen.length + 1 < o.table.length ∧ o.tags = (tagged [aRow]).tags
    ∧ o.header = (tagged [aRow]).header ∧ materialOf (blockState o) 0 = materialOf (blockState (tagged [aRow])) 0 := by decide +kernel

/-- A block whose ciphertext is the key stream itself has a token area of zeros. -/
theorem tokens_of_stream (ks : List (List Nat)) (iv : List Byte) :
    slice (gcmText ks iv (slice (ctrStream ks iv 256 2) 0 4096)) 0 4096 = List.replicate 4096 0 := by
  generalize hx : ctrStream ks iv 256 2 = x
  have hl : (slice x 0 4096).length = 4096 := by simp [slice]
  have hz : ∀ b ∈ gcmText ks iv (slice x 0 4096), b = 0 := by
    intro b hb
    simp only [gcmText, hl, show cdiv 4096 16 = 256 from by decide, hx, xorBytes] at hb
    obtain ⟨i, hi, rfl⟩ := List.mem_iff_getElem.mp hb
    simp only [List.length_zipWith] at hi
    simp only [List.getElem_zipWith, slice]
    rw [List.getElem_append_left (by simp; omega)]
    simp
  generalize gcmText ks iv (slice x 0 4096) = y at hz
  refine List.eq_replicate_iff.mpr ⟨by simp [slice], fun b hb => ?_⟩
  simp only [slice, List.drop_zero, List.mem_append] at hb
  rcases hb with h | h
  · exact hz b (List.mem_of_mem_take h)
  · exact (List.mem_replicate.mp h).2

/-- A block of an image with 16 tokens, whose pages could not be read but whose token area could. -/
theorem wit_LiftsAndResowing_resown :
    let o := blockOp [aRow, (1, 64, 1, 0)]
    let s : State := { reached (imaged [] [(0, 16)]) with rqt := [(0, { state := .lifting, tag := 5 })], ops := [o] }
    let md := modelOf s (entryOf s 0)
    let x : LiftBlock := { index := 0, tokRead := true, pagesRead := false
                           bytes := ctrStream (aes256Keys (bundleKey (materialOf s 0))) (bundleIv o.bundleId.toNat 0) 256 2 }
    opOf s 0 = some o ∧ o.seen.contains 0 = false ∧ bitAt aRow.2.2.1 1 = false ∧ x.tokRead = true ∧ x.pagesRead = false
    ∧ (liftData s 0 o aRow.2.2.2 (dataLen md true) x).map (·.2) = some x ∧ o.seen.length + 1 < o.table.length ∧ ∀ aad tag : List Byte,
      tokenAreaOk md aRow.2.1 (slice (gcmOpen (bundleKey (materialOf s 0)) (bundleIv o.bundleId.toNat 0) aad
        (slice x.bytes 0 (dataLen md true)) tag).1 0 4096) = true := by
  refine ⟨rfl, by decide, by decide, rfl, rfl, rfl, by decide, fun aad tag => ?_⟩
  have hd : dataLen (modelOf { reached (imaged [] [(0, 16)]) with rqt := [(0, { state := .lifting, tag := 5 })], ops := [blockOp [aRow, (1, 64, 1, 0)]] }
      (entryOf { reached (imaged [] [(0, 16)]) with rqt := [(0, { state := .lifting, tag := 5 })], ops := [blockOp [aRow, (1, 64, 1, 0)]] } 0)) true = 4096 := by
    decide +kernel
  simp only [gcmOpen, hd, tokens_of_stream]
  decide +kernel

def resowing (ps : List (Nat × Byte)) : State :=
  { imaged ps [(12, 1)] with
    rqt := [(0, { state := .lifting, tag := 5 })]
    ops := [{ oper 2 with headerOk := true, table := [aRow], seen := [0], resow := [0], committed := 64 }] }

/-- The search of the plans for a lift's re-sow. -/
def resowSearch (s : State) : Except (Option Nat) (Nat × List (Nat × Nat) × List LaneFurrow × Nat) :=
  let x := resowRuns s 0
  resowPlans s (entryOf s 0) x.2.2.2 x.2.2.1 x.1 (secD (imgRd s (entryOf s 0).image) 8).count 0 none

theorem wit_LiftsAndResowing_booking :
    (let s := resowing [(0, 64), (5, 1), (12, 1), (16, 64)];
      (∃ o, opOf s 0 = some o ∧ o.kind = 2 ∧ o.headerOk = true ∧ o.table.length ≤ o.seen.length) ∧ (entryOf s 0).state = .lifting
      ∧ (resowRuns s 0).1 ≠ [] ∧ (workOf s 0).resow = [] ∧ passed (resowSearch s) = true)
    ∧ passed (resowSearch (resowing [])) = false
    ∧ (let r : Recover := { state := .complete, committed := 64, pending := none, genLeft := 0, params := none, draft := false, addTok := [] };
      let s := { resowing [] with ops := [], work := [(0, { recover := some r })] };
      opOf s 0 = none ∧ (workOf s 0).recover.isSome = true ∧ (resowRuns s 0).1 = [(0, 64)]) :=
  ⟨⟨⟨_, rfl, by decide +kernel, by decide +kernel, by decide +kernel⟩, by decide +kernel⟩, by decide +kernel, by decide +kernel⟩

/-- A complete batch that holds a record of LD 1. -/
def aBatch : List Byte :=
  let r := toLE 2 0x0104 ++ toLE 2 0 ++ toLE 4 48 ++ List.replicate 40 (0 : Byte)
  let h := toLE 2 0xFF0F ++ toLE 2 0 ++ toLE 4 112 ++ toLE 8 1 ++ List.replicate 16 (0 : Byte)
  r ++ h ++ List.replicate 16 0 ++ sha384 (r ++ h) ++ (gcmSeal (deviceJournalKey keyed) (recIv 0 1) h []).2

theorem wit_JournalAndRecovery :
    (({ up with jrnl := { busy := true } } : State).jrnl.busy = true ∧ ({ busy := true } : Journal).stale = false
      ∧ ({ busy := true } : Journal).denied = false)
    ∧ (let s := regPut keyed (bndReg 0x30) 2 2 1; let here := regSet s (bndReg 0x08) (4096 + ownNode s * 2 ^ 52);
      let far := regSet s (bndReg 0x08) (5 * 2 ^ 52);
      ringSource far = none ∧ (ringSource (reached far)).any (fun x => batchComplete x.1 aBatch && x.2 aBatch) = true
      ∧ (ringSource here).any (fun x => !x.2 aBatch) = true)
    ∧ (let s := regSet keyed (bndReg 0) 1;
      mboxLive s .owner = true ∧ gate s { owner := true } .owner (payOwn []) false = .ok 15 ∧ regField s (bndReg 0) 1 0 ≠ 0
      ∧ recovering s = false ∧ regField keyed (bndReg 0) 1 0 = 0)
    ∧ (let s := regPut keyed (bndReg 0x30) 2 2 1;
      recovering s = true ∧ gate s { owner := true } .owner (payOwn []) false = .ok 15
      ∧ s.jrnl.ldsDone.contains (0 : LdId).val = false ∧ (ten s 0).material.isSome = true ∧ (ten s 1).material = none
      ∧ batchComplete s aBatch = true ∧ batchLds [aBatch] = [1]
      ∧ (batchLds []).all (fun t => (addN 0 s.jrnl.ldsDone).contains t) = true
      ∧ (batchLds [aBatch]).all (fun t => (addN 0 s.jrnl.ldsDone).contains t) = false
      ∧ (batchLds [aBatch]).contains (1 : LdId).val = true) := by decide +kernel

/-! Raile -/

def trained (x : Port) : State := setPort up 3 x
def locked : State := regFlag up (secReg 0x28) 1

theorem wit_PortTraining :
    (raileLive up = true ∧ alive up = true ∧ (port up 3).st = .disabled ∧ portLanes up 3 = 15)
    ∧ (port (setPort locked 3 { st := .detect }) 3).st = .detect ∧ domainLocked (setPort locked 3 { st := .detect }) = true
    ∧ domainLocked (trained { st := .detect }) = false ∧ alive (trained { st := .detect }) = true
    ∧ (let s := trained { st := .equalise, locked := 3 };
      ((port s 3).locked ||| (4 : BitVec 4)) &&& portLanes s 3 ≠ portLanes s 3
      ∧ ((port s 3).locked ||| (12 : BitVec 4)) &&& portLanes s 3 = portLanes s 3
      ∧ ((port s 3).locked ||| (0 : BitVec 4)) &&& portLanes s 3 ≠ 0)
    ∧ (let s := trained { st := .equalise }; ((port s 3).locked ||| (0 : BitVec 4)) &&& portLanes s 3 = 0 ∧ portLanes s 3 ≠ 0)
    ∧ (port (trained { st := .align }) 3).st = .align ∧ (port (trained { st := .param }) 3).st = .param
    ∧ (5 : NodeId).toNat ≠ ownNode up ∧ (0 : NodeId).toNat = ownNode up := by decide +kernel

def sending : State := trained { st := .active, resends := 8, lockFails := [3, 0, 0, 0], replay := [(0, { vc := false, first := 0, bytes := [1] })] }

/-- A frame that arrives without a symbol in error. -/
def clean (n : BitVec 12) : Frame :=
  { crcOk := true, fseq := n, ackSeq := 0, ackValid := true, nak := false, vc := false, idle := false, credD := 0, credC := 0
    body := [], errors := [[], []] }

theorem wit_PortsAndFrames :
    (port sending 3).st = .active ∧ RetrainCause.reference ≠ .resendRounds ∧ 8 ≤ (port sending 3).resends ∧ alive sending = true
    ∧ laneEnabled sending 3 0 = true ∧ 3 ≤ nthD 0 (port sending 3).lockFails 0 ∧ (port sending 3).replay ≠ []
    ∧ ((clean 0).crcOk && (clean 0).errors.all correctable) = true ∧ (clean 0).fseq = (port sending 3).rxSeq
    ∧ correctable (List.ofFn (fun i : Fin 15 => Fin.ofNat 544 i.val)) = true
    ∧ correctable (List.ofFn (fun i : Fin 16 => Fin.ofNat 544 i.val)) = false
    ∧ (port sending 3).txD = [] ∧ (port sending 3).txC = [] := by decide +kernel

/-- A peer with node number 5, reached over port 3. -/
def met (x : Peer) : State := { regSet sending (routeOff 5) (8 * 2 ^ 16) with peers := [(5, x)] }
/-- A HELLO (code 1) or HELLO_ACK (code 2) of that peer, signed with the hello key. -/
def greeting (code : Nat) (echo : List Byte) : HelloMsg :=
  let body := helloBody 5 1 [0x42, 0x31] (List.replicate 32 1) echo
  { node := 5, bootId := 1, nonce := List.replicate 32 1, echo := List.replicate 32 2, stepping := [0x42, 0x31]
    tag := plainTag (met {}) 5 0 code body }
def greet : HelloMsg := greeting 1 []
def farewell : ByeMsg := { bootId := 1, nonce := List.replicate 32 1, tag := plainTag (met {}) 5 0 3 (toLE 4 1 ++ List.replicate 32 1) }

theorem wit_PeerStates :
    (raileLive (met {}) = true ∧ greet.node = 5 ∧ (5 : NodeId).toNat ≠ ownNode (met {}) ∧ helloTagOk (met {}) 1 greet = true
      ∧ (peerOf (met {}) 5).st = .unknown ∧ routePorts (met {}) 5 ≠ [])
    ∧ helloTagOk (met {}) 1 { greet with tag := [] } = false ∧ helloTagOk (met {}) 2 greet = false
    ∧ (let s := met { st := .joining, nonce := List.replicate 32 2 }; let h := greeting 2 (List.replicate 32 2);
      (peerOf s 5).st = .joining ∧ h.echo = (peerOf s 5).nonce ∧ helloTagOk s 2 h = true)
    ∧ byeTagOk (met { st := .up }) 5 farewell = true ∧ byeTagOk (met { st := .up }) 5 { farewell with tag := [] } = false
    ∧ (peerOf (met { st := .up }) 5).st = .up ∧ (peerOf (met { st := .suspect }) 5).st = .suspect := by decide +kernel

def opening : FlowMsg := { node := 5, ctx := 0, flow := 0, keyEpoch := 0, nonce := List.replicate 32 1, port := 3 }
def aFlow : Flow := { node := 5, ctx := 0, flow := 0, initiator := true, port := 3, keyEpoch := 0 }
def known (fs : List Flow) : State :=
  setTen { met { st := .up } with flows := fs } 0 { window := [1], material := some (List.replicate 64 7) }

theorem wit_FlowsOpen :
    (raileLive (known []) = true ∧ peerUp (heardFrom (known []) 5) opening.node = true
      ∧ ctxKeyed (heardFrom (known []) 5) opening.ctx.val = true)
    ∧ peerUp (heardFrom (met { st := .suspect }) 5) 5 = true
    ∧ ctxKeyed (heardFrom (met { st := .up }) 5) opening.ctx.val = false
    ∧ (flowOf (heardFrom (known [aFlow]) 5) 5 0 0 = some aFlow ∧ aFlow.opened = false ∧ aFlow.initiator = true ∧ aFlow.waitq = []) := by
  decide +kernel

/-- Region 0: 2 MiB at offset 0, LD 0, TVA 0, node 5, all accesses permitted. -/
def mapped : State :=
  let s := known [{ aFlow with opened := true, rxPsn := 7, unacked := [(4, [1]), (5, [2])] }]
  regSet (regSet s (rgnOff 0 1) 1) (rgnOff 0 3) (1 + 8 + 16 + 32 + 5 * 2 ^ 20)

def packet (psn : BitVec 32) (addr : BitVec 64) : Packet :=
  { src := 5, dst := 0, ctx := 0, flow := 0, psn := psn, len := 8, addr := addr, opId := 1, keyEpoch := 0, last := true, fadd := true
    payload := toLE 8 9, tagOk := true }

/-- Whether a packet is taken as new, with what is checked of it next. -/
def freshAnd (s : State) (k : Packet) (f : State → Bool) : Bool :=
  match rxCheck s k with
  | .fresh s _ => f s
  | _ => false

def isAgain (s : State) (k : Packet) : Bool :=
  match rxCheck s k with
  | .again _ _ => true
  | _ => false

/-- The state after a packet's sequence and access checks. -/
def accessed (k : Packet) : State :=
  match rxCheck mapped k with
  | .fresh s _ => (match rxAccess s .wr k 8 with
    | .ok (v, _, _) => v
    | .error _ => mapped)
  | _ => mapped

theorem wit_PacketsAppliedOnce :
    freshAnd mapped (packet 7 64) (fun s => passed (rxAccess s .wr (packet 7 64) (packet 7 64).payload.length)
      && passed (rxAccess s .rd (packet 7 64) (packet 7 64).len) && passed (rxAccess s .atomic (packet 7 64) 8)) = true
    ∧ tvaPoisoned (accessed (packet 7 64)) 0 64 8 = false ∧ (accessed (packet 7 64)).faults.injected = []
    ∧ isAgain mapped (packet 6 64) = true
    ∧ freshAnd mapped (packet 7 (2 ^ 21)) (fun s => !passed (rxAccess s .wr (packet 7 (2 ^ 21)) 8)
      && !passed (rxAccess s .rd (packet 7 (2 ^ 21)) 8) && !passed (rxAccess s .atomic (packet 7 (2 ^ 21)) 8)) = true
    ∧ freshAnd mapped (packet 7 65) (fun _ => true) = true
    ∧ (freshAnd mapped (packet 7 65) (fun s => passed (rgnCheck s .atomic 0 5 65 8))
      && freshAnd mapped (packet 7 (2 ^ 21 + 1)) (fun s => !passed (rgnCheck s .atomic 0 5 (2 ^ 21 + 1) 8))) = true
    ∧ (packet 7 65).addr.toNat / 2 ^ 52 = ownNode mapped ∧ (packet 7 (2 ^ 21 + 1)).addr.toNat % 2 ^ 52 % 8 ≠ 0
    ∧ (packet 7 65).addr.toNat % 8 ≠ 0 ∧ (packet 7 64).addr.toNat % 8 = 0 ∧ (packet 7 (2 ^ 21)).addr.toNat % 8 = 0 := by decide +kernel

theorem wit_PacketsAppliedOnce_inv : Inv (accessed (packet 7 64)) :=
  ⟨by decide +kernel, by decide +kernel, by decide +kernel, by decide +kernel, by decide +kernel⟩

/-- A route of two ports, the flow on one that is ACTIVE. -/
def twoWays : State := regSet (setPort mapped 4 { st := .active }) (routeOff 5) (24 * 2 ^ 16)

theorem wit_AcknowledgementsAndTimeouts :
    (let f := { aFlow with opened := true, rxPsn := 7, unacked := [(4, [1]), (5, [2])] };
      ackFlow mapped (packet 7 64) = some f ∧ f.waitq = [] ∧ f.txPsn < psnLimit ∧ f.replies < psnLimit ∧ (peerOf mapped (packet 7 64).src).st = .up
      ∧ flowOf mapped 5 0 0 = some f ∧ raileLive mapped = true ∧ f.unacked ≠ [] ∧ f.timeouts = 0 ∧ (flowPort mapped f).isSome = true
      ∧ (routePorts mapped 5).any (fun p => p.val != f.port) = false
      ∧ flowOf twoWays 5 0 0 = some f ∧ (routePorts twoWays 5).any (fun p => p.val != f.port) = true
      ∧ (flowPort (setPort twoWays 3 {}) f).isNone = true
      ∧ (routePorts (setPort twoWays 3 {}) 5).any (fun p => p.val != f.port) = true) := by decide +kernel

def actors : State :=
  { met { st := .up } with
    tick := { furrow := 9, started := true }
    roles := [{ id := 1, holder := 0, epoch := 2 }, { id := 2, holder := 5, epoch := 3 }]
    sent := [{ id := 9, role := 1, srcRole := 2, notify := none, body := [] }] }

theorem wit_RoleMessages :
    raileLive actors = true ∧ peerUp (heardFrom actors 5) 5 = true ∧ epochsAgree (heardFrom actors 5) 1 2 3 2 = true
    ∧ epochsAgree (heardFrom actors 5) 1 2 3 1 = false ∧ curFurrow (heardFrom actors 5) = 9 ∧ ∃ x ∈ actors.sent, x.id = 9 := by
  decide +kernel

theorem wit_RoleMessages_ack :
    let d : DescRun := { ended wr with ntfMsg := some 9 }
    slotDesc (heardRole (setFe actors 0 { fallow := false, slots := [(0, d)] }) 9) 0 0 = some d := by decide +kernel

def led (n : NodeId) : State := { met { st := .up } with tick := { started := true, syncMode := 3 }, timeSync := { leader := n } }

theorem wit_FurrowTimeOverRaile :
    (raileLive (led 5) = true ∧ followsNode (led 5) 5 = true ∧ (led 5).timeSync.lastOffset = none
      ∧ (-256 : Int) ≤ 266 - 10 - (led 5).timeSync.delay ∧ (266 : Int) - 10 - (led 5).timeSync.delay ≤ 256
      ∧ 256 < (267 : Int) - 10 - (led 5).timeSync.delay ∧ (10 : Int) - 267 - (led 5).timeSync.delay < -256)
    ∧ (let s := { led 5 with timeSync := { (led 5).timeSync with lastOffset := some 20, moved := -1 } };
      followsNode s 5 = true ∧ s.timeSync.lastOffset = some 20)
    ∧ timeLeader (heardFrom (led 0) 5) = true ∧ (led 0).timeSync.followers.contains 5 = false := by decide +kernel

def attempt (c : List LaneFurrow) (ns : List NodeId) : Joint :=
  { job := 1, entry := 0, plan := 0, first := 4, waiting := ns, free := [], chain := c }

/-- A request of a job that another node shares, with an attempt to book it, under the image of `aPlan`. -/
def shared (e : Entry) (c : List LaneFurrow) (ns : List NodeId) : State :=
  { regSet (withImage (met { st := .up }) aPlan aModel) (ldPoolOff 0) 8 with
    rqt := [(0, { e with tag := 5, targetLen := 64 })], joint := [attempt c ns]
    roles := [{ id := 0, holder := 0, epoch := 1 }, { id := 1, holder := 5, epoch := 1 }] }

def aLane : LaneFurrow := { furrow := 4, gangW := 1, gangs := 1, barMax := 1, feMax := 1, engines := [] }

/-- Whether an entry under a chain passes the tests of its admission. -/
def servesChain (s : State) (i : Nat) (chain : List LaneFurrow) : Bool :=
  let e := entryOf s i
  let q := ((chain.getLast?).map (·.furrow + 1)).getD (curFurrow s)
  let r := poolEvict (s.nodes.length + 1) s e.ld (poolNeed s i e)
  r.2 && quoteServes r.1 i q && passed (bookTail (setWork r.1 i { workOf r.1 i with chain := chain }) i e q q)

theorem chainServes_of (s : State) (i : Nat) (chain : List LaneFurrow) (h : servesChain s i chain = true) : chainServes s i chain := by
  simp only [servesChain, Bool.and_eq_true] at h
  refine ⟨h.1.1, h.1.2, ?_⟩
  have h2 := h.2
  revert h2
  cases bookTail _ i _ _ _ with
  | ok v => intro _; exact ⟨v.1, v.2, rfl⟩
  | error _ => simp [passed]

theorem wit_JointBooking_replies :
    (let s := shared { state := .queued } [] [5, 6];
      raileLive s = true ∧ peerUp (heardFrom s 5) 5 = true
      ∧ (heardFrom s 5).joint.find? (fun j => j.job == 1 && j.chain.isEmpty && j.waiting.contains 5) = some (attempt [] [5, 6])
      ∧ (entryOf (heardFrom s 5) 0).state = .queued ∧ (attempt [] [5, 6]).waiting.erase 5 = [6])
    ∧ (let s := shared { state := .complete } [] [5]; (entryOf s 0).state ≠ .queued ∧ hasPrefill s 0 = false)
    ∧ (let s := shared { state := .queued } [] [5];
      (entryOf s 0).state = .queued ∧ (attempt [] [5]).waiting.erase 5 = []
      ∧ (match jointNeed s 0 with
        | some (_, _, need) => (lanesAmong s 0 0 need (((List.range (jointLast 6 need + 1 - 6)).map (6 + ·)).filter
            (fun g => [((5 : NodeId), List.range 64)].all (fun x => x.2.contains g))) []).isSome
        | none => false) = true) := by decide +kernel

theorem wit_JointBooking_commits :
    (hasPrefill (shared { state := .complete } [] [5]) 0 = false ∧ (entryOf (shared { state := .complete } [] [5]) 0).state ≠ .queued)
    ∧ (let s := shared { state := .queued } [] [5];
      hasPrefill s 0 = false ∧ (entryOf s 0).state = .queued ∧ (jointPlanOf s 0).isSome = true
      ∧ (match lanesAll s 0 0 [6, 7] [] with
        | some ls => servesChain (setQue s 0 { que s 0 with waiting := (que s 0).waiting.filter (· != 0) }) 0 ls
        | none => false) = true)
    ∧ (let s := { shared { state := .running } [] [5] with work := [(0, { chunkLens := [64] })] };
      hasPrefill s 0 = true ∧ (lanesAll (setWork s 0 { workOf s 0 with chain := [] }) 0 0 [6] []).isSome = true)
    ∧ (entryOf (shared { state := .admitted } [] [5]) 0).state = .admitted
    ∧ (let s := shared { state := .queued } [aLane] [5, 6];
      s.joint.find? (fun j => j.job == 1 && !j.chain.isEmpty && j.waiting.contains 5) = some (attempt [aLane] [5, 6])
      ∧ (attempt [aLane] [5, 6]).waiting.erase 5 = [6])
    ∧ (let s := shared { state := .queued } [aLane] [5];
      s.joint.find? (fun j => j.job == 1 && !j.chain.isEmpty && j.waiting.contains 5) = some (attempt [aLane] [5])
      ∧ (attempt [aLane] [5]).waiting.erase 5 = []
      ∧ (let v := { s with joint := s.joint.filter (fun x => x.entry != 0) };
        (jointPlanOf v 0).isSome = true ∧ servesChain v 0 [aLane] = true)) := by decide +kernel

theorem wit_JointBooking_power :
    let s := shared { state := .queued } [] []
    let m (k : NodeId) : Member := { node := k, shard := 0, cap := 0, lendMax := 0, waitShare := 0 }
    let all (ms : List Member) : Bool :=
      ((jobShards s ((creditRole s).toNat / 64)).map (·.2)).all (fun n => ms.any (fun x => x.node == n))
    raileLive s = true ∧ (creditLeader (heardFrom s 5)).map BitVec.toNat = some (ownNode (heardFrom s 5))
    ∧ all [m 5] = false ∧ all [m 0, m 5] = true ∧ creditOn s = false
    ∧ creditOn (((creditLeader (regFlag s (rlReg 0 0x1020) 15)).map (heardFrom (regFlag s (rlReg 0 0x1020) 15))).getD s) = true
    ∧ s.tick.window = 0 ∧ (0 : Nat) ≠ s.tick.window + 1 ∧ (0 : Nat) ≠ s.tick.window + 2 := by decide +kernel

/-! Host commands -/

theorem wit_QueriesAnswer :
    (mboxLive keyed (.tenant 0) = true ∧ gate keyed { i3c := true, onStop := true, onRec := true } (.tenant 0) (pay []) false = .ok 0
      ∧ gate keyed { onStop := true, onRec := true } (.tenant 0) (pay []) false = .ok 0
      ∧ gate keyed { len := 0x0C } (.tenant 0) (pay (toLE 4 5)) false = .ok 0)
    ∧ (let s := entered { state := .running };
      gate s { len := 0x0C } (.tenant 0) (pay (toLE 4 5)) false = .ok 0 ∧ byTag s 0 5 = some (0, { state := .running, tag := 5 })
      ∧ byTag s 0 6 = none)
    ∧ (let p := payOwn (toLE 8 0x100000 ++ toLE 2 1);
      mboxLive keyed .owner = true ∧ gate keyed { owner := true, len := 0x12 } .owner p false = .ok 15 ∧ keyed.fw.running = true
      ∧ rangeOk (fld p 8 8) (fld p 0x10 2) 1 511 = true)
    ∧ (∀ ty : Fin 2, let p := payOwn (toLE 8 ty.val ++ toLE 8 0 ++ toLE 4 64);
      gate keyed { owner := true, len := 0x1C, i3c := true, onStop := true, onHalt := true } .owner p (!zeroAt p 9 7) = .ok 15
      ∧ 1 ≤ fld p 0x18 4 ∧ fld p 0x18 4 ≤ 4088 ∧ fld p 8 1 = ty.val)
    ∧ gate keyed { len := 0x0C } (.tenant 0) (pay []) false = .error (0x16, 0)
    ∧ gate keyed { owner := true, named := true, len := 0x0C } (.tenant 0) (pay (toLE 4 5)) false = .error (3, 0)
    ∧ ({ keyed with fw := {} } : State).fw.running = false ∧ stopped keyed = false ∧ keyed.pins.mld = true ∧ Mbox.owner ≠ .i3c
    ∧ (let p := pay (toLE 4 5); p.length = 0x0C ∧ zeroAt p 1 7 = true ∧ halted (regFlag keyed (fltReg 8) 0) = true
      ∧ halted (regFlag keyed (pwrReg 0x010) 7) = false ∧ stopped (regFlag keyed (pwrReg 0x010) 7) = true) := by decide +kernel

def unpaired : State := setQue paired 0 {}

theorem wit_QueuePairsComeAndGo :
    (let p := pay ([0, 1, 4, 4] ++ toLE 4 1 ++ toLE 8 4096 ++ toLE 8 8192); let s := setTen unpaired 0 { ten keyed 0 with window := [1] };
      mboxLive s (.tenant 0) = true ∧ gate s { len := 0x20 } (.tenant 0) p false = .ok 0 ∧ fld p 8 1 < 128 ∧ queueLd s 0 = 0
      ∧ queueOn s 0 = true ∧ qpParams s p = true ∧ (que s 0).pair = false ∧ freeSlot s 0 = some 0 ∧ (ten s 0).overflow = [])
    ∧ (gate paired { len := 9 } (.tenant 0) (pay [0]) false = .ok 0 ∧ queueLd paired 0 = 0 ∧ (que paired 0).pair = true
      ∧ (∀ x ∈ paired.rqt, x.2.state ≠ .free → x.2.queue ≠ 0) ∧ queueWaits (ten paired 0) 0 = false) := by decide +kernel

def sld : State := { up with pins := { up.pins with mld := false } }
def halting : State := regFlag keyed (pwrReg 0x010) 7
def cooled : State := { halting with power := { halting.power with vddArr := halting.power.vddSet } }

/-- Every free frame booked by a request. -/
def filled : State := { entered { state := .admitted } with work := [(0, { booking := 2 ^ 24 })] }

theorem wit_OwnerCommandsSet :
    (mboxLive keyed .owner = true ∧ gate keyed { owner := true, named := true, len := 0x0C } .owner (pay (toLE 4 0)) false = .ok 0
      ∧ (resizeWindow keyed 0 0).isSome = true
      ∧ gate filled { owner := true, named := true, len := 0x0C } .owner (pay (toLE 4 2)) false = .ok 0
      ∧ mboxLive filled .owner = true ∧ resizeWindow filled 0 2 = none)
    ∧ (keyed.fw.running = true ∧ keyed.pins.mld = true ∧ (resizeWindow keyed 1 (128 * 1)).isSome = true)
    ∧ (mboxLive sld .owner = true ∧ gate sld { owner := true, len := 9 } .owner (payOwn [30]) false = .ok 15 ∧ sld.pins.mld = false
      ∧ (∀ x, (ten sld x).window = []))
    ∧ (let p := payOwn (toLE 2 500 ++ [0]);
      gate keyed { owner := true, len := 0x0B, i3c := true, onStop := true } .owner p (bits (fld p 0x0A 1) 7 1 != 0) = .ok 15
      ∧ 500 ≤ fld p 8 2 ∧ fld p 8 2 ≤ 1600)
    ∧ (let p := payOwn (toLE 4 1 ++ toLE 2 5 ++ [0]);
      mboxLive actors .owner = true ∧ gate actors { owner := true, len := 0x0F } .owner p
        (!zeroAt p 0x0B 1 || decide (2 ≤ fld p 0x0E 1) || decide (4096 ≤ fld p 0x0C 2)) = .ok 15
      ∧ (actors.roles.find? (fun r => r.id == BitVec.ofNat 24 (fld p 8 4))).isSome = true)
    ∧ (let p := payOwn (toLE 4 3 ++ toLE 2 5 ++ [0]);
      gate actors { owner := true, len := 0x0F } .owner p
        (!zeroAt p 0x0B 1 || decide (2 ≤ fld p 0x0E 1) || decide (4096 ≤ fld p 0x0C 2)) = .ok 15
      ∧ actors.roles.find? (fun r => r.id == BitVec.ofNat 24 (fld p 8 4)) = none ∧ bitAt (fld p 0x0E 1) 0 = false)
    ∧ (let p := payOwn (toLE 8 0x100000 ++ toLE 8 1 ++ toLE 8 0);
      gate keyed { owner := true, len := 0x18 + 8 * fld p 0x10 2 } .owner p (!zeroAt p 0x12 6) = .ok 15
      ∧ rangeOk (fld p 8 8) (fld p 0x10 2) 1 509 = true)
    ∧ (gate keyed { owner := true, i3c := true, onStop := true } .owner (payOwn []) false = .ok 15 ∧ stopped keyed = false
      ∧ gate halting { owner := true, i3c := true, onStop := true } .owner (payOwn []) false = .ok 15 ∧ stopped halting = true
      ∧ mayRestart halting = false ∧ stopped cooled = true ∧ mayRestart cooled = true
      ∧ gate cooled { owner := true, i3c := true, onStop := true } .owner (payOwn []) false = .ok 15) := by decide +kernel

/-- A role table without a role has room where it holds any, and one as long as its size is full. -/
theorem wit_OwnerCommandsSet_roles :
    (0 < Config.roleTableSize → ([] : List Role).length < Config.roleTableSize)
    ∧ Config.roleTableSize ≤ (List.replicate Config.roleTableSize ({ id := 0, holder := 0, epoch := 0 } : Role)).length :=
  ⟨id, by simp⟩

/-- A weight image of 288 bytes: the header and a directory of one empty section. -/
def weights (dg : List Byte) : List Byte :=
  ascii [0x49, 0x4B, 0x42, 0x44, 0x52, 0x49, 0x4C, 0x4C] ++ toLE 8 0x10000 ++ toLE 8 288 ++ dg ++ toLE 8 1 ++ toLE 8 256
    ++ List.replicate 168 0 ++ toLE 8 2 ++ toLE 24 256

def cellsOf (bs : List Byte) : List (Nat × Byte) := bs.zipIdx.map (fun p => (p.2, p.1))

def whole : List Byte := weights (sha384 (weights (List.replicate 48 0)))

/-- A load's source: host memory, `n` bytes. -/
def src (n : Nat) : List Byte := toLE 8 2 ++ toLE 8 0x1000 ++ toLE 8 n

def loaded : State := { imaged [] [(4, 1)] with pins := sld.pins }

/-- A load from host memory reads exactly the bytes given for it, and leaves the state as it was. -/
theorem srcBytes_host (s : State) (x : LoadSrc) (c : List (Nat × Byte)) (h : x.kind = 2) (hm : s.pins.mld = false) :
    srcBytes s x c = (s, some (denseFrom 0 x.len c)) := by simp [srcBytes, h, hm]

theorem wit_LoadImage :
    (let p := payOwn (src 288); let s := sld;
      mboxLive s .owner = true ∧ gate s { owner := true, len := 0x20, bg := true } .owner p (srcReserved p 8) = .ok 15
      ∧ freeHandle s = some 0 ∧ frameRoom s (cdiv (loadSrc p 8).len 65536) = true
      ∧ (loadSrc p 8).kind = 2 ∧ s.pins.mld = false ∧ denseFrom 0 (loadSrc p 8).len (cellsOf whole) = whole ∧ imageReason s whole (loadSrc p 8).len = 0) := by decide +kernel

theorem wit_LoadsAndUnloads :
    (let p := payOwn (toLE 2 0 ++ toLE 2 7 ++ toLE 4 1 ++ src 64); let s := loaded;
      mboxLive s .owner = true ∧ gate s { owner := true, len := 0x28, bg := true } .owner p (srcReserved p 0x10) = .ok 15
      ∧ drillHandle s (fld p 8 2) = true
      ∧ (∀ a ∈ s.adapters.toList, ¬ ((a.st = .loading ∨ a.st = .ready) ∧ a.id = fld p 0x0A 2 ∧ a.version = fld p 0x0C 4))
      ∧ (List.finRange 32).find? (fun k => (s.adapters[k]).st == .empty) = some 0
      ∧ frameRoom s (cdiv (loadSrc p 0x10).len 65536) = true
      ∧ (loadSrc p 0x10).kind = 2 ∧ s.pins.mld = false)
    ∧ (let p := payOwn ([9, 0] ++ toLE 2 0 ++ toLE 4 64 ++ src 1); let s := loaded;
      gate s { owner := true, len := 0x28, bg := true } .owner p (srcReserved p 0x10 || !zeroAt p 9 1) = .ok 15
      ∧ fld p 8 1 = (9 : Fin 64).val ∧ (s.lps[(9 : Fin 64)]).st = .empty ∧ drillHandle s (fld p 0x0A 2) = true
      ∧ fld p 0x0C 4 % 64 = 0 ∧ 64 ≤ fld p 0x0C 4 ∧ fld p 0x0C 4 ≤ 4096
      ∧ (loadSrc p 0x10).len = lpBytes s (fld p 0x0A 2) (fld p 0x0C 4) ∧ lpRefs s 9 = 0
      ∧ frameRoom s (cdiv (loadSrc p 0x10).len 65536) = true ∧ (loadSrc p 0x10).kind = 2)
    ∧ (let s := setMbox loaded .owner { bg := some (0xC105, 9, 1) };
      (mboxOf s .owner).bg = some (0xC105, 9, 1) ∧ 0xC105 ≠ 0x0202 ∧ srcWaits s (mboxOf s .owner).bgSrc = false
      ∧ srcWaits (setMbox loaded .owner { bg := some (0xC105, 9, 1), bgSrc := (1, 5) }) (1, 5) = true)
    ∧ (let s := setMbox loaded .owner { bg := some (0xC101, 0, 1) };
      (mboxOf s .owner).bg = some (0xC101, 0, 1) ∧ s.images[Fin.ofNat 16 0] ≠ none)
    ∧ (let s := setMbox loaded .owner { bg := some (0xC101, 0, 0) }; (mboxOf s .owner).bg = some (0xC101, 0, 0)) := by decide +kernel

theorem wit_Unloads :
    let p := payOwn (toLE 2 0)
    (gate loaded { owner := true, len := 0x0A } .owner p false = .ok 15 ∧ imageInUse loaded (fld p 8 2) = false
      ∧ (imageOf loaded (fld p 8 2)).map (·.ready) = some true ∧ readyAdapter loaded (fld p 8 2) = none)
    ∧ (let s := { loaded with rqt := [(0, { state := .running, image := 0, lpSlot := some 0 })] };
      gate s { owner := true, len := 0x0A } .owner p false = .ok 15 ∧ imageInUse s 0 = true ∧ (imageOf s 0).isSome = true
      ∧ gate s { owner := true, len := 9 } .owner (payOwn [0]) false = .ok 15 ∧ lpRefs s 0 ≠ 0)
    ∧ (gate loaded { owner := true, len := 9 } .owner (payOwn [63]) false = .ok 15 ∧ fld (payOwn [63]) 8 1 < 64 ∧ lpRefs loaded 63 = 0
      ∧ (loaded.lps[Fin.ofNat 64 63]).st ≠ .loading
      ∧ (({ loaded with lps := loaded.lps.set 63 { loaded.lps[(63 : Fin 64)] with st := .loading } } : State).lps[Fin.ofNat 64 63]).st = .loading)
    ∧ readyAdapter { loaded with adapters := loaded.adapters.set 2 { st := .ready, id := 0 } } 0 = some 2 := by decide +kernel

theorem wit_TenantKeysAndReset :
    (let p := pay (toLE 8 1 ++ List.replicate 64 3);
      mboxLive up (.tenant 0) = true ∧ up.fw.running = true ∧ gate up { len := 0x50, onRec := true } (.tenant 0) p (!zeroAt p 0x0C 4) = .ok 0
      ∧ (ten up 0).material = none ∧ fld p 8 4 ≠ 0)
    ∧ (let s := setTen up 0 { material := some (List.replicate 64 3), keyGen := 5 };
      let p (g : Nat) := pay (toLE 8 g ++ List.replicate 64 3);
      (∀ g : Fin 3, gate s { len := 0x50, onRec := true } (.tenant 0) (p (g.val + 4)) (!zeroAt (p (g.val + 4)) 0x0C 4) = .ok 0)
      ∧ fld (p 5) 8 4 = (ten s 0).keyGen ∧ bytesEq (slice (p 5) 0x10 64) (List.replicate 64 3) = true ∧ (ten s 0).keyGen < fld (p 6) 8 4
      ∧ ldEntries s 0 = [] ∧ fld (p 4) 8 4 < (ten s 0).keyGen)
    ∧ (let v := { setTen up 0 { window := [1] } with sec := { up.sec with sessions := [(.doe (.tenant 0), 1)] } };
      secured v (.tenant 0) (some 1) = true ∧ secured v (.tenant 0) (some 2) = false ∧ secured v .owner (some 1) = false)
    ∧ gate up {} (.tenant 0) (pay []) false = .ok 0 ∧ gate up { owner := true, named := true } .owner (pay []) false = .ok 0
    ∧ alive up = true := by decide +kernel

theorem wit_CxlCommands :
    (mboxLive up .owner = true ∧ up.fw.running = true ∧ Mbox.owner ≠ .i3c ∧ up.pins.mld = true)
    ∧ ({ up with timestamp := some 5 } : State).timestamp = some 5 ∧ stopped up = false
    ∧ (stopped halting = true ∧ mboxLive halting .owner = true ∧ halting.fw.running = true ∧ mboxLive sld .owner = true)
    ∧ mboxLive filled .owner = true ∧ filled.fw.running = true ∧ filled.pins.mld = true ∧ resizeAll filled 0 [1] = none ∧ (resizeAll keyed 1 [1]).isSome = true
    ∧ mboxLive keyed .owner = true ∧ keyed.fw.running = true ∧ (resizeAll keyed 0 [0]).isSome = true ∧ (ten keyed (ldId 0)).window ≠ [] ∧ mboxLive up (.tenant 3) = true := by decide +kernel

def bootRom : State := { up with fw := { rom := true } }

/-- A firmware image of 640 bytes under key 0, whose private key is 2, but for its body of 128 bytes 6. -/
def firmware : List Byte :=
  fwMagic ++ toLE 8 0x10000 ++ toLE 8 0 ++ toLE 8 128 ++ List.replicate 16 0 ++ sha384 (List.replicate 128 6) ++ publicKey 2
    ++ List.replicate 63 0
    ++ toBE 48 0xe86b995e350e4d312a95a6b7d5d8cdcdb4682f588800a1cd6c972e1dcb2a5ac38d90046951b03ccb3b179a89fda88b1b
    ++ toBE 48 0x386f0b8fae9af970cdb57a681c0031f1f9a57c201e17f7e41e482105038c0f32ee13449e253f7497ae95b900f41f16d3 ++ List.replicate 160 0

def receiving : State := { bootRom with fw := { rom := true, open_ := true, buffer := firmware } }

theorem wit_FirmwareTransfer :
    (mboxLive bootRom .owner = true ∧ bootRom.fw.running = false ∧ bootRom.fw.rom = true ∧ (mboxOf bootRom .owner).bg = none)
    ∧ (receiving.fw.open_ = true ∧ 4 * 128 = receiving.fw.buffer.length ∧ fwCheck receiving [] ≠ 0 ∧ 5 * 128 ≠ receiving.fw.buffer.length)
    ∧ (let v := { bootRom with fw := { rom := true, verified := some [0] } };
      v.fw.verified ≠ none ∧ regField v (bistReg 0) 0 0 = 0
      ∧ (let s := regFlag v (bistReg 0) 0; regField s (bistReg 0) 0 0 = 1 ∧ regField s (bistReg 0) 2 2 = 0
        ∧ regField (regFlag s (bistReg 0) 2) (bistReg 0) 0 0 = 1 ∧ regField (regFlag s (bistReg 0) 2) (bistReg 0) 2 2 = 1)) := by
  decide +kernel

theorem wit_FirmwareTransfer_checks : fwCheck receiving (receiving.fw.buffer ++ List.replicate 128 6) = 0 := by decide +kernel

theorem wit_FirmwareTransfer_refused : fwCheck receiving (receiving.fw.buffer ++ List.replicate 128 7) ≠ 0 := by decide +kernel

/-- LD 0 without keys, and with a window whose end the host reaches. -/
def unkeyed : State := setTen keyed 0 { ten keyed 0 with material := none }

/-- One bad line in the window of LD 0. -/
def spoilt : State := { keyed with poison := [2 ^ 13] }

theorem wit_WindowAccesses :
    cxlUp keyed = true ∧ memOpen keyed = true ∧ (ten keyed 0).material.isSome = true
    ∧ (hostTarget keyed (.ld 0 0) = some (0, 0) ∧ windowDpa keyed 0 0 = some (2 ^ 21)
      ∧ windowDpa keyed 0 (0 + 64 - 1) = some (2 ^ 21 + 63)
      ∧ tvaPoisoned (meterWindow (peerTouch keyed 0 0 64) 0 64) 0 0 64 = false
      ∧ cxlUp spoilt = true ∧ memOpen spoilt = true ∧ tvaPoisoned (meterWindow (peerTouch spoilt 0 0 64) 0 64) 0 0 64 = true)
    ∧ (hostTarget keyed (.ld 0 (2 ^ 21)) = some (0, 2 ^ 21) ∧ windowDpa keyed 0 (2 ^ 21) = none)
    ∧ (cxlUp unkeyed = true ∧ memOpen unkeyed = true ∧ hostTarget unkeyed (.ld 0 0) = some (0, 0) ∧ (ten unkeyed 0).material = none
      ∧ windowDpa unkeyed 0 0 = some (2 ^ 21) ∧ windowDpa unkeyed 0 (0 + 64 - 1) = some (2 ^ 21 + 63)) ∧ alive keyed = true := by
  decide +kernel

theorem wit_WindowAccesses_inv : Inv keyed :=
  ⟨by decide +kernel, by decide +kernel, by decide +kernel, by decide +kernel, by decide +kernel⟩

theorem wit_RegisterWrites :
    alive paired = true ∧ queueOn paired 0 = true ∧ hostUp paired = true
    ∧ (queueOn paired 1 = false ∧ (que paired 1).pair = false ∧ paired.rqt = []) ∧ queueLd paired 0 = (0 : LdId).val
    ∧ [2, 3, 5, 6, 7].contains (bits (BitVec.ofNat 64 (4 * 2 ^ 40) : Reg64).toNat 47 40) = false
    ∧ ([2, 3, 5, 6, 7].contains (bits (BitVec.ofNat 64 (2 * 2 ^ 40) : Reg64).toNat 47 40) = true
      ∧ bits (BitVec.ofNat 64 (2 * 2 ^ 40) : Reg64).toNat 2 1 ≠ 3)
    ∧ rgnOverlaps mapped 1 = false
    ∧ (let s := regSet (regSet (regSet mapped (rgnOff 1 1) 1) (rgnOff 1 3) 1) (rgnOff 0 3) 1; rgnOverlaps s 1 = true) := by decide +kernel

theorem wit_RegisterWrites_bar2 :
    (bar2Open sld 0x100008 = true ∧ sizeOk 0x100008 3 = false ∧ sizeOk 0x100008 8 = true ∧ (blockOf 0x100008).isSome = true
      ∧ 0x100008 % 8 = 0 ∧ 0x10000C % 8 = 4 ∧ bar2Open sld 0x10000C = true ∧ (blockOf 0x10000C).isSome = true)
    ∧ (bar2Open sld 0x1FFFFF8 = true ∧ sizeOk 0x1FFFFF8 8 = true ∧ blockOf 0x1FFFFF8 = none)
    ∧ (bar2Open sld 0x400140 = true ∧ 0x400140 % 8 = 0 ∧ blockOf 0x400140 = some (2, 0, 0x140) ∧ regAccess 0x400140 ≠ {}) := by
  decide +kernel

theorem wit_RegisterWrites_pages :
    hostUp paired = true ∧ bitAt (2 : Reg64).toNat 1 = true ∧ fnExists sld .owner = true
    ∧ hasBars paired (.tenant 0) = true ∧ hasBars sld .owner = true ∧ hostUp sld = true ∧ (31 : Fin 64).val < fnVectors (.tenant 0)
    ∧ boxBusy paired (.tenant 0) = false ∧ knownOpcode (fnOf paired (.tenant 0)).opcode = false ∧ bitAt (1 : Reg64).toNat 0 = true
    ∧ paired.fw.running = true
    ∧ ((configDvsecs sld .owner)[(0x100 - 0x100) / 4]?).isSome = true := by decide +kernel

/-! Security, bring-up and power -/

def attested (ss sh : List (SpdmPort × Nat)) : State := { up with sec := { aliasKey := some 1, sessions := ss, shaking := sh } }

theorem wit_SpdmAndIde :
    (spdmLive (attested [] []) (.doe .owner) = true ∧ spdmLive (attested [] []) .i3c = true ∧ freeSession (attested [] []) .i3c < 4
      ∧ (measurement (attested [] []) .i3c 6).isNone = true ∧ (measurement (attested [] []) .i3c 1).isSome = true
      ∧ doeLive (attested [] []) (.tenant 0) = true)
    ∧ (.i3c, 2) ∈ (attested [] [(.i3c, 2)]).sec.shaking ∧ (.i3c, 2) ∈ (attested [(.i3c, 2)] []).sec.sessions
    ∧ (alive up = true ∧ (SpdmPort.doe .owner, 1) ∈ (attested [(.doe .owner, 1)] []).sec.sessions)
    ∧ (let s := attested [(.i3c, 0), (.i3c, 1), (.i3c, 2), (.i3c, 3)] []; spdmLive s .i3c = true ∧ 4 ≤ freeSession s .i3c)
    ∧ (.i3c, 4) ∉ (attested [(.i3c, 2)] []).sec.sessions
    ∧ ({ up with sec := { ideKeyed := true } } : State).sec.ideKeyed = true := by decide +kernel

theorem wit_CommitRevokeAndFence :
    alive up = true ∧ up.fw.running = true ∧ ({ up with sec := { committing := true } } : State).sec.committing = true
    ∧ ({ up with sec := { fencing := true } } : State).sec.fencing = true := by decide +kernel

/-- A debug unlock token for level 1 and a challenge of zeros, for a part whose DeviceID private key is 7, signed under the debug key,
whose private key is 11. -/
def token : List Byte :=
  debugMagic ++ sha384 (publicKey 7) ++ List.replicate 32 0 ++ toLE 8 1 ++ publicKey 11 ++ List.replicate 15 0
    ++ toBE 48 0xe86b995e350e4d312a95a6b7d5d8cdcdb4682f588800a1cd6c972e1dcb2a5ac38d90046951b03ccb3b179a89fda88b1b
    ++ toBE 48 0xd1d72a4798588f99113ba3d82fccb3455ee139df130e63e66ab2cb9c05d2bd32b3ed92d969d7a5968800b09876cf332d ++ List.replicate 16 0

def challenged : State := { up with sec := { challenge := List.replicate 32 0, devicePub := publicKey 7 } }

theorem wit_TapInstructions :
    alive challenged = true ∧ challenged.sec.unlockFails < 8 ∧ 8 ≤ ({ up with sec := { unlockFails := 8 } } : State).sec.unlockFails
    ∧ token.length = 320 ∧ tokenOk challenged (token.take 64 ++ []) = false := by decide +kernel

theorem wit_TapInstructions_unlocks : tokenOk challenged (token.take 64 ++ token.drop 64) = true := by decide +kernel

theorem wit_SidebandPort :
    up.pins.pwrgood = true ∧ up.pins.bootPath = some true ∧ mboxLive up .i3c = true
    ∧ 2 ∈ ({ up with pins := { up.pins with ibiDue := [2] } } : State).pins.ibiDue ∧ 2 ∉ up.pins.ibiDue := by decide +kernel

theorem wit_ErrorsDetected :
    (alive up = true ∧ halted up = false ∧ restartsSince up < 2 ∧ poisoned up (reserveLine up 8 0) 256 = false ∧ up.power.asleep = false
      ∧ poisoned up (reserveLine up 3 (0 : Fin 4096).val) 256 = false ∧ up.faults.dieDown.contains (dpaPc (0 * 256) / 160) = false
      ∧ up.faults.dieDown.contains (dpaPc (0xA0000000 * 256) / 160) = false ∧ up.faults.injected = [] ∧ 0 * 256 < hbmCap up
      ∧ regField (regPut up (fltReg 0) 0 0 1) (fltReg 0) 0 0 = 1 ∧ hbmCap up ≤ 0xA0000000 * 256)
    ∧ (let s := on {}; alive s = true ∧ halted s = false ∧ itemOn s 0 = some job ∧ itemOf s job.id = some job ∧ job.done = false ∧ job.halted = 0
      ∧ job.id = 0 ∧ ∀ a ∈ gangArrays job, itemOn s a = some job ∧ arrEnabled s a.val = true ∧ (arr s a).care.testing = false)
    ∧ (let x := descOf rd .running [0, 0, 0, 0, 0]; let s := slotted x inRing;
      slotDesc s 0 0 = some x ∧ itemOf s x.item = some job ∧ halted s = false)
    ∧ (arrEnabled up 63 = true ∧ (arr up 63).care.testing = false)
    ∧ (let s := { up with faults := { restarts := [(2, 0), (2, 0)] } }; 2 ≤ restartsSince s)
    ∧ (let s := regPut { up with poison := [reserveLine up 3 0 / 256] } (fltReg 0) 0 0 1;
      poisoned s (reserveLine s 3 (0 : Fin 4096).val) 256 = true)
    ∧ (let s := regPut { up with power := { up.power with asleep := true } } (fltReg 0) 0 0 1;
      regField s (fltReg 0) 0 0 = 1 ∧ s.power.asleep = true)
    ∧ (let s := regPut { up with faults := { dieDown := [0] } } (fltReg 0) 0 0 1;
      regField s (fltReg 0) 0 0 = 1 ∧ s.faults.dieDown.contains (dpaPc (0 * 256) / 160) = true)
    ∧ (pcEnabled up 639 = true ∧ regField up (fltReg 0x018) 15 15 = 0)
    ∧ (let s := regPut up (fltReg 0x018) 15 15 1; regField s (fltReg 0x018) 15 15 = 1 ∧ regField s (fltReg 0x018) 31 31 = 0
      ∧ pcEnabled s 0 = true)
    ∧ (let s := regPut (regPut up (fltReg 0x018) 15 15 1) (fltReg 0x018) 31 31 1;
      regField s (fltReg 0x018) 15 15 = 1 ∧ regField s (fltReg 0x018) 31 31 = 1) := by decide +kernel

theorem wit_ArraysAndDiesReset :
    (alive up = true ∧ arrEnabled up 63 = true ∧ (arr up 63).care.testing = false ∧ halted up = false ∧ up.faults.dieReset = []
      ∧ halted (regFlag up (fltReg 8) 0) = true)
    ∧ (let s := setArr up 0 { st := .idle, care := { testing := true, resetAt := some 1 } };
      (arr s 0).care.testing = true ∧ (arr s 0).care.resetAt.isSome = true ∧ arrEnabled s 0 = true ∧ (arr s 0).care.disturbed = false)
    ∧ (∀ k : Fin 4, let s := setArr up 0 { care := { testing := true, resetAt := some 1, disturbed := true, reruns := k.val } };
      (arr s 0).care.testing = true ∧ (arr s 0).care.disturbed = true ∧ arrEnabled s 0 = true
      ∧ ((arr s 0).care.reruns < 3 ↔ k ≠ 3))
    ∧ (let s := setArr up 63 { st := .idle }; let v : Reg64 := BitVec.ofNat 64 (63 * 2 ^ 58 + 1);
      bitAt v.toNat 0 = true ∧ s.bist.unit = none ∧ regField s (bistReg 0) 1 1 = 0 ∧ arrEnabled s (bits v.toNat 63 58) = true
      ∧ (arr s (arrId (bits v.toNat 63 58))).st ≠ .fallow ∧ bitAt (2 : Reg64).toNat 0 = false)
    ∧ (arr up (arrId 63)).st = .fallow ∧ ({ up with bist := { unit := some 3 } } : State).bist.unit.isSome = true
    ∧ (let s := { up with bist := { unit := some 3, started := true } };
      s.bist.unit = some 3 ∧ stopped s = false ∧ s.bist.started = true ∧ inRange s.power.wop = true
      ∧ regField s (bistReg 0) 3 3 = 0 ∧ (arr s (arrId 3)).care.disturbed = false
      ∧ (let v := setArr s 3 { care := { disturbed := true, reruns := 2 } };
        (arr v (arrId 3)).care.disturbed = true ∧ (arr v (arrId 3)).care.reruns < 3 ∧ v.bist = s.bist)
      ∧ (let v := setArr s 3 { care := { disturbed := true, reruns := 3 } };
        (arr v (arrId 3)).care.disturbed = true ∧ 3 ≤ (arr v (arrId 3)).care.reruns)) := by decide +kernel

theorem wit_PowerLoops :
    (alive up = true ∧ aboveCap up 100 = false ∧ aboveCap up 97 = false ∧ up.power.capCalm + 1 < 10)
    ∧ aboveCap { up with power := { samples := [1400001] } } 100 = true
    ∧ (let s := { up with power := { samples := [1400000], capCalm := 9 } };
      aboveCap s 100 = false ∧ aboveCap s 97 = true ∧ 10 ≤ s.power.capCalm + 1)
    ∧ aboveCap { up with power := { capCalm := 9 } } 97 = false
    ∧ (let s := { up with power := { up.power with raiseTo := some 2 } };
      s.power.imm = none ∧ s.power.raised = false ∧ 2 < s.power.op ∧ stopped s = false)
    ∧ (let s := { up with power := { up.power with imm := some { op := 2, k := 8, cause := 4, lowers := false } } };
      s.power.imm.isSome = true ∧ 2 < s.power.op ∧ stopped s = false)
    ∧ (let v := rails.foldl (sampleRail []) { up with power := { misses := [(.arr, 9)] } };
      rails.any (fun r => decide (10 ≤ railGet 0 r v.power.misses)) = true)
    ∧ (([⟨.arr, some (700, 5)⟩] : List RailSample).find? (fun x => x.rail == .arr)).bind (·.value) = some (700, 5)
    ∧ (let s := regPut { up with power := { vddSet := 700, trim := 10 } } (pwrReg 0x008) 4 4 1;
      stopped s = false ∧ regField s (pwrReg 0x008) 4 4 = 1 ∧ s.power.droop = false ∧ s.power.droopAt = none ∧ s.power.trimAt = none
      ∧ anyTest s = false ∧ s.power.trim + 5 ≤ 30 ∧ 660 + s.power.trim + 5 ≤ voltOf s s.power.vddOp
      ∧ ¬ (({ s with power := { s.power with trim := 30 } } : State).power.trim + 5 ≤ 30)) := by decide +kernel

theorem wit_PowerLimits :
    alive up = true ∧ ({ up with power := { droop := true } } : State).power.droop = true
    ∧ (arr (setArr up 0 { care := { testing := true } }) 0).care.testing = true
    ∧ (up.power.brownout = false ∧ stopped up = false) ∧ ({ up with power := { brownout := true } } : State).power.brownout = true
    ∧ up.fw.running = true ∧ up.pins.flowFailN = true
    ∧ (let s := storeTemps up { arrays := [(0, 114)], fen := [], hbm := [(0, 104)] };
      (∀ x ∈ dieTemps s, x < 115) ∧ (∀ x ∈ stackTemps s, x < 105)) := by decide +kernel

theorem wit_PowerAndReset :
    State.reset.pins.pwrgood = false ∧ up.pins.pwrgood = true ∧ up.pins.perstN = true ∧ up.sec.committing = false
    ∧ ({ up with sec := { committing := true } } : State).sec.committing = true
    ∧ ({ up with pins := { perstN := true } } : State).pins.pwrgood = false ∧ ({ up with pins := { perstN := true } } : State).pins.perstN = true
    ∧ ({ up with pins := { pwrgood := true } } : State).pins.perstN = false ∧ (2 : BitVec 2) ≠ 0 := by decide +kernel

theorem wit_BootRuns :
    (let s := { up with fw := {}, pins := { up.pins with hostLink := false } };
      alive s = true ∧ s.pins.bootPath = some true ∧ s.fw.rom = false ∧ s.fw.running = false ∧ s.fw.dead = false
      ∧ s.pins.thermtripLow = false ∧ s.fuses.fuseOk = true ∧ ({ s with fuses := { s.fuses with fuseOk := false } } : State).fuses.fuseOk = false)
    ∧ (let s := regPut bootRom (bistReg 0) 15 12 2;
      let f : BistFinding := { test := 1, source := 9, unit := 0, struct := 0, address := 0, byteMask := 0, firstBit := 0, nbits := 0
                               value := 0, drain := false, retestOk := false };
      stopped s = false ∧ regField s (bistReg 0) 15 12 = 2 ∧ regField s (bistReg 0) 3 3 = 0 ∧ s.fw.waiting = false
      ∧ ∃ x ∈ [f], findingOutcome [f] x = 2)
    ∧ (let s := regPut { up with fw := { rom := true, waiting := true, verified := some [0] } } (bistReg 0) 15 12 2;
      stopped s = false ∧ regField s (bistReg 0) 15 12 = 2 ∧ regField s (bistReg 0) 3 3 = 0 ∧ s.fw.waiting = true
      ∧ regField s (bistReg 0) 2 2 = 0 ∧ s.fw.verified ≠ none)
    ∧ (let s := { cooled with fw := { rom := true } }; s.fw.running = false ∧ stopped s = true ∧ mayRestart s = true)
    ∧ (let s := regPut bootRom (bistReg 0) 3 3 1; s.pins.flowFailN = true ∧ regField s (bistReg 0) 3 3 = 1) := by decide +kernel

theorem wit_FurrowsAndReferences :
    (ticking up = true ∧ ticking State.reset = false ∧ headlandDue up = false ∧ up.tick.numSet = none ∧ up.tick.syncMode ≠ 3
      ∧ up.tick.nextNum = none ∧ up.tick.nextWin = none)
    ∧ (let s := { up with tick := { started := true, inWindow := 63 } }; ticking s = true ∧ headlandDue s = true ∧ s.tick.headDone = false)
    ∧ ({ up with tick := { started := true, inWindow := 63, headDone := true } } : State).tick.headDone = true
    ∧ (let s := { up with tick := { started := true, syncMode := 2 } };
      ticking s = true ∧ s.tick.started = true ∧ s.tick.tickRef = true ∧ s.tick.syncMode = 2)
    ∧ (let s := { up with tick := { started := true, syncMode := 2, furrow := 8, goodTicks := 2, goodAt := 7, headPulse := true } };
      ticking s = true ∧ s.tick.goodTicks = 2 ∧ s.tick.goodAt + 1 = s.tick.furrow ∧ s.tick.headPulse = true
      ∧ regField s (furReg 0x018) 0 0 = 0)
    ∧ (alive up = true ∧ up.tick.tickRef = true ∧ up.tick.pcieRef = true)
    ∧ (let s := { up with tick := { tickRef := false } }; s.tick.tickRef = false ∧ s.tick.pcieRef = true)
    ∧ (let s := { up with tick := { pcieRef := false } }; s.tick.tickRef = true ∧ s.tick.pcieRef = false) := by decide +kernel

/-! ### Ill-formed commands, one for each check -/

theorem test_illFormed :
    ([.registerWrite (.bar2 (2 ^ 25)) 8 0, .registerWrite (.bar2 0) 9 0, .registerWrite (.bar0 .owner (2 ^ 18)) 4 0, .cxlMemRead (.ld 0 (2 ^ 52)) ⟨.memRd, 64⟩
      , .cxlMemRead (.ld 0 0) ⟨.memInv, 65⟩, .cxlMemWrite (.sld 0) ⟨[], none⟩, .cxlMemWrite (.sld 0) ⟨[1], some [true, true]⟩, .tick 1025, .headland 1025, .lateWake 0 (2 ^ 21) [0]
      , .burst 0 0 ⟨.notify 0 256, 0⟩, .roleAck (2 ^ 32), .staleRole (2 ^ 32) 0 0
      , .roleMsg { sender := 0, msgId := 2 ^ 32, role := 0, srcRole := 0, srcEpoch := 0, dstEpoch := 0, body := [] }
      , .notify { sender := 0, msgId := 0, role := 0, srcEpoch := 0, dstEpoch := 0, srcRole := 0, furrow := 0, bar := 256 }
      , .transferFw .owner 5 0 [] 1, .transferFw .owner 0 0 [] 256, .activateFw .owner 256, .setLdAllocations .owner 9 [1, 1, 1, 1, 1, 1, 1, 1]
      , .hdmDecoderCommit 0 0 0 0 0, .hdmDecoderCommit 0 0 1 1 0, .hello { greet with nonce := [] }, .helloAck { greet with echo := [] }, .hello { greet with stepping := [] }, .hello { greet with tag := [] }
      , .bye 5 { farewell with tag := [] }
      , .flowOpen { opening with nonce := [] }, .flowAccept { opening with nonce := [] }, .writePacket { packet 0 0 with len := 2 ^ 32 }
      , .scrubRead (2 ^ 32) .clean, .telemetrySample [⟨.arr, none⟩, ⟨.arr, none⟩]] : List Instr).all (fun c => !wellFormed c) = true := by
  decide +kernel

theorem test_illFormed_long :
    wellFormed (.cancel .owner (List.replicate 4097 0)) = false ∧ wellFormed (.ideKm none { keys := List.replicate 4097 0 }) = false
    ∧ wellFormed (.transferFw .owner 0 0 (List.replicate 4097 0) 1) = false
    ∧ wellFormed (.readResp { packet 0 0 with payload := List.replicate 4097 0 }) = false
    ∧ wellFormed (.frameReceived 0 { clean 0 with body := List.replicate 1269 0 }) = false
    ∧ wellFormed (.frameReceived 0 { clean 0 with errors := [[]] }) = false
    ∧ wellFormed (.registerWrite (.config .owner 4096) 4 0) = false := by
  decide +kernel

theorem test_wellFormed : wellFormed (.cxlMemRead (.ld 0 0) ⟨.memSpecRd, 64⟩) = true ∧ wellFormed (.hello greet) = true
    ∧ wellFormed (.telemetrySample [⟨.arr, none⟩, ⟨.ctl, none⟩]) = true := by decide +kernel

/-! ### The manual's own examples -/

/-- R480: IDCODE of an IKB7240 at stepping B1. -/
theorem test_idcode : idcode State.reset = 0x57240D9B := by decide +kernel

/-- R401: at k = 6, clocks 1, 2, 3, 5, 6 and 7 of each group are permitted. -/
theorem test_sluice : (List.range 8).filter (sluicePermits 6) = [1, 2, 3, 5, 6, 7] := by decide +kernel

/-- R404, worked example: pairs at five caps. -/
theorem test_pairs :
    let s := (List.range 16).foldl (fun s k => regPut s (rlReg k 0) 0 0 1) (regPut State.reset (pwrReg 0x008) 5 5 1)
    let p (w : Nat) := choosePair s { owner := w, src := 1, limit := 8 } w
    ((p 1600).1, (p 1600).2.1) = (0, 8) ∧ ((p 1400).1, (p 1400).2.1) = (1, 8) ∧ ((p 1000).1, (p 1000).2.1) = (4, 8)
    ∧ ((p 700).1, (p 700).2.1) = (5, 3) ∧ p 560 = (5, 1, 597, true) := by decide +kernel

/-- R212 and the same example: B of OP0, OP1, OP4 and OP5, and the effective counts of two plans. -/
theorem test_budgets :
    [0, 1, 4, 5].map (capacityB State.reset) = [679000, 611100, 407400, 339500] ∧ effCount 652000 6 = 869334
    ∧ effCount 509000 6 = 678667 ∧ reserveOf State.reset 1280 = 39 ∧ reserveOf State.reset 1720 = 52 := by decide +kernel

/-- R488, worked example: locating registers. -/
theorem test_offsets :
    ringReg 13 4 0x08 = 0x0081AA08 ∧ mcReg 2 0 = 0x00843000 ∧ veReg 37 0x40 = 0x0010A540 ∧ furReg 0x30 = 0x00200030 := by decide +kernel

/-- R55: the midpoint 464 converts to E4M3's 448, and 7.0 overflows E2M1. -/
theorem test_midpoints :
    (convFF ffE4m3 false (fp32Val 0x43E80000)).1 = 0x7E ∧ (convFF ffE2m1 false (fp32Val 0x40E00000)).1 = 7
    ∧ convFF ffE4m3 true (fp32Val 0x43E80000) = convFF ffE4m3 true (.fin false 448 0) := by decide +kernel

/-- R358 and the wrap example: with 16 records written, CQ_HEAD 18 is rejected and sets DB_ERR; 16 is accepted. -/
theorem test_cqHead :
    let s := setQue paired 0 { que paired 0 with written := 16 }
    (match exec (.cqHead 0 0 18) s, exec (.cqHead 0 0 16) s with
      | .next a, .next b => (que a 0).cqHead == 0 && nthD false (ten a 0).dbErr 0 && (que b 0).cqHead == 16
      | _, _ => false) = true := by decide +kernel

/-- R35: a read beyond the window answers poison and counts. -/
theorem test_windowEnd :
    (match exec (.cxlMemRead (.ld 0 (2 ^ 21)) ⟨.memRd, 64⟩) keyed with
      | .next n => n.cxl.poison && regGet n (fltReg 0x100) == 1
      | _ => false) = true := by decide +kernel

/-- R142: ACQUIRE on a full ring stalls the producer; RELEASE frees a position. -/
theorem test_ring :
    (match exec (.acquire 0 ⟨0, 1, 400⟩) (ring 0 4 false) with
      | .next n => ((arr n 0).rings[(0 : Fin 6)]).waitP == some (1, 400) && regGet n (ringReg 0 0 0x10) == 1
      | _ => false) = true
    ∧ (match exec (.release 0 0) (ring 0 4 false) with
      | .next n => ((arr n 0).rings[(0 : Fin 6)]).head == 1
      | _ => false) = true := by decide +kernel

/-- R494: an event counter wraps modulo two to the 64. -/
theorem test_counterWraps : regGet (regBump (regSet up (fltReg 0x068) (2 ^ 64 - 1)) (fltReg 0x068) 1) (fltReg 0x068) = 0 := by decide +kernel

end Sys2Proof.Tests
end

section
/-! # Every command answers (O3)

The `<definition>_keeps` lemmas under Laws/ say what the answer of a command keeps where it is a next state. Here: every
meaning is a tree of branches whose leaves are next states. -/

namespace Sys2Proof.Machine

/-- An outcome that is a next state. -/
def Answers (o : Host.Outcome State Fault Refusal) : Prop := ∃ n, o = .next n

theorem answers_next (n : State) : Answers (.next n) := ⟨n, rfl⟩

theorem answers_ite {c : Prop} [Decidable c] {a b : Host.Outcome State Fault Refusal} (ha : Answers a) (hb : Answers b) :
    Answers (if c then a else b) := by
  split
  · exact ha
  · exact hb

/-- The commonest shape of a meaning: nothing where its event cannot take place, and its effect otherwise. -/
theorem answers_guard {c : Prop} [Decidable c] {s t : State} : Answers (if c then .next s else .next t) :=
  answers_ite (answers_next s) (answers_next t)

/-- An outcome that is a next state which keeps what every command keeps. -/
def Completes (s : State) (o : Host.Outcome State Fault Refusal) : Prop := ∃ n, o = .next n ∧ Keeps s n

theorem KeepsOut.completes {s : State} {o : Host.Outcome State Fault Refusal} (hk : KeepsOut s o) (ha : Answers o) :
    Completes s o := by
  obtain ⟨n, rfl⟩ := ha
  exact ⟨n, rfl, hk⟩

/-! ### The shapes that several meanings share -/

theorem vRun_answers (s : State) (a : ArrId) (v : VInstr) (legal : Bool) (o : ArrayUnit → VOut) :
    Answers (vRun s a v legal o) :=
  answers_ite (answers_next _) answers_guard

theorem vAccess_answers (s : State) (a : ArrId) (v : VInstr) (wr : Bool) (lost : List (Fin 32))
    (f : State → ArrayUnit → List (Nat × Nat) → State) : Answers (vAccess s a v wr lost f) := by
  unfold vAccess
  repeat' split
  all_goals exact answers_next _

theorem bruahRun_answers (c : Cmd) (m : Mbox) (p : List Byte) (bad : Bool) (s : State)
    (f : LdId → State → State × Nat × List Byte) : Answers (bruahRun c m p bad s f) := by
  unfold bruahRun
  split
  all_goals exact answers_next _

theorem bruah_answers (c : Cmd) (m : Mbox) (p : List Byte) (bad : Bool) (s : State)
    (f : LdId → State → State × Nat × List Byte) : Answers (bruah c m p bad s f) :=
  answers_ite (answers_next _) (bruahRun_answers ..)

theorem bruahBg_answers (c : Cmd) (m : Mbox) (p : List Byte) (bad : Bool) (src : Nat × Nat) (s : State)
    (f : LdId → State → State × Nat × List Byte × (Nat × Nat × Nat)) : Answers (bruahBg c m p bad src s f) := by
  unfold bruahBg
  repeat' split
  all_goals exact answers_next _

theorem resetCmd_answers (c : Cmd) (m : Mbox) (p : List Byte) (s : State) : Answers (resetCmd c m p s) := by
  unfold resetCmd
  repeat' split
  all_goals exact answers_next _

theorem cxlCmd_answers (s : State) (m : Mbox) (ownerOnly health : Bool) (f : State → State × Nat × List Byte) :
    Answers (cxlCmd s m ownerOnly health f) :=
  answers_ite (answers_next _) answers_guard

theorem tapIf_answers (s : State) (ok : Bool) (i : BitVec 8) : Answers (tapIf s ok i) := answers_next _

/-! ### The meanings with cases of their own -/

theorem execRegisterWrite_answers (tgt : RegTarget) (size : Nat) (val : Reg64) (s : State) :
    Answers (execRegisterWrite tgt size val s) := by
  unfold execRegisterWrite
  repeat' split
  all_goals exact answers_next _

theorem execCxlMemRead_answers (addr : HostAddr) (req : MemRead) (s : State) : Answers (execCxlMemRead addr req s) := by
  unfold execCxlMemRead
  dsimp only
  repeat' split
  all_goals exact answers_next _

theorem execCxlMemWrite_answers (addr : HostAddr) (req : MemWrite) (s : State) :
    Answers (execCxlMemWrite addr req s) := by
  unfold execCxlMemWrite
  dsimp only
  repeat' split
  all_goals exact answers_next _

theorem execSqTail_answers (ld : LdId) (slot : Fin 8) (val : Reg64) (s : State) :
    Answers (execSqTail ld slot val s) := by
  unfold execSqTail
  dsimp only
  repeat' split
  all_goals exact answers_next _

theorem execCqHead_answers (ld : LdId) (slot : Fin 8) (val : Reg64) (s : State) :
    Answers (execCqHead ld slot val s) := by
  unfold execCqHead
  dsimp only
  repeat' split
  all_goals exact answers_next _

theorem execSubmissionRead_answers (q : Fin 128) (s : State) : Answers (execSubmissionRead q s) := by
  unfold execSubmissionRead
  dsimp only
  repeat' split
  all_goals exact answers_next _

theorem execTickRefLost_answers (lost : Bool) (s : State) : Answers (execTickRefLost lost s) := by
  unfold execTickRefLost
  dsimp only
  repeat' split
  all_goals exact answers_next _

theorem execTileStart_answers (a : ArrId) (t : Clk) (s : State) : Answers (execTileStart a t s) := by
  unfold execTileStart
  dsimp only
  repeat' split
  all_goals exact answers_next _

theorem execStepIssue_answers (a : ArrId) (t : Clk) (lost : StepLost) (s : State) :
    Answers (execStepIssue a t lost s) := by
  unfold execStepIssue
  dsimp only
  repeat' split
  all_goals exact answers_next _

theorem execHeldSwap_answers (a : ArrId) (row : Fin 16) (t : Clk) (s : State) : Answers (execHeldSwap a row t s) := by
  unfold execHeldSwap
  dsimp only
  repeat' split
  all_goals exact answers_next _

theorem execChunkUpdate_answers (a : ArrId) (row : Fin 16) (s : State) : Answers (execChunkUpdate a row s) := by
  unfold execChunkUpdate
  dsimp only
  repeat' split
  all_goals exact answers_next _

theorem execDrain_answers (a : ArrId) (t : Clk) (s : State) : Answers (execDrain a t s) := by
  unfold execDrain
  dsimp only
  repeat' split
  all_goals exact answers_next _

theorem execOutputRow_answers (a : ArrId) (t : Clk) (s : State) : Answers (execOutputRow a t s) := by
  unfold execOutputRow
  dsimp only
  repeat' split
  all_goals exact answers_next _

theorem execOutputRowWrite_answers (x : ArrAccess) (s : State) : Answers (execOutputRowWrite x s) := by
  unfold execOutputRowWrite
  dsimp only
  repeat' split
  all_goals exact answers_next _

theorem execExpsort_answers (a : ArrId) (x : VAccess) (s : State) : Answers (execExpsort a x s) := by
  unfold execExpsort
  dsimp only
  repeat' split
  all_goals exact answers_next _

theorem execCld_answers (a : ArrId) (x : VAccess) (s : State) : Answers (execCld a x s) := by
  unfold execCld
  dsimp only
  repeat' split
  all_goals exact answers_next _

theorem execCacheFill_answers (x : ArrAccess) (s : State) : Answers (execCacheFill x s) := by
  unfold execCacheFill
  dsimp only
  repeat' split
  all_goals exact answers_next _

theorem execMpos_answers (a : ArrId) (v : VInstr) (s : State) : Answers (execMpos a v s) := by
  unfold execMpos
  split
  · exact answers_guard
  · exact vRun_answers ..

theorem execMcmd_answers (a : ArrId) (v : VInstr) (s : State) : Answers (execMcmd a v s) := by
  unfold execMcmd
  dsimp only
  repeat' split
  all_goals exact answers_next _

theorem execBarinc_answers (a : ArrId) (v : VInstr) (s : State) : Answers (execBarinc a v s) := by
  unfold execBarinc
  repeat' split
  all_goals exact answers_next _

theorem execBurst_answers (f : FeId) (k : Fin 64) (use : BurstUse) (s : State) : Answers (execBurst f k use s) := by
  unfold execBurst
  repeat' split
  all_goals exact answers_next _

theorem execFaultResume_answers (f : FeId) (k : Fin 64) (s : State) : Answers (execFaultResume f k s) := by
  unfold execFaultResume
  repeat' split
  all_goals exact answers_next _

theorem execDescriptorComplete_answers (f : FeId) (k : Fin 64) (s : State) :
    Answers (execDescriptorComplete f k s) := by
  unfold execDescriptorComplete
  dsimp only
  repeat' split
  all_goals exact answers_next _

theorem execWorkItemComplete_answers (item : Nat) (s : State) : Answers (execWorkItemComplete item s) := by
  unfold execWorkItemComplete
  repeat' split
  all_goals exact answers_next _

theorem execRoundSample_answers (n : Nat) (s : State) : Answers (execRoundSample n s) := by
  unfold execRoundSample
  repeat' split
  all_goals exact answers_next _

theorem execRoundCommit_answers (n : Nat) (s : State) : Answers (execRoundCommit n s) := by
  unfold execRoundCommit
  repeat' split
  all_goals exact answers_next _

theorem execStallLimit_answers (i : Fin 4096) (s : State) : Answers (execStallLimit i s) := by
  unfold execStallLimit
  dsimp only
  repeat' split
  all_goals exact answers_next _

theorem execBackgroundCommandComplete_answers (m : Mbox) (s : State) : Answers (execBackgroundCommandComplete m s) := by
  unfold execBackgroundCommandComplete
  dsimp only
  repeat' split
  all_goals exact answers_next _

theorem execIdentifyMemoryDevice_answers (m : Mbox) (s : State) : Answers (execIdentifyMemoryDevice m s) := by
  unfold execIdentifyMemoryDevice
  repeat' split
  all_goals exact answers_next _

theorem execGetFwInfo_answers (m : Mbox) (s : State) : Answers (execGetFwInfo m s) := by
  unfold execGetFwInfo
  repeat' split
  all_goals exact answers_next _

theorem execTransferFw_answers (m : Mbox) (action offset : Nat) (data : List Byte) (slot : Nat) (s : State) :
    Answers (execTransferFw m action offset data slot s) := by
  unfold execTransferFw
  dsimp only
  repeat' refine answers_ite ?_ ?_
  all_goals exact answers_next _

theorem execActivateFw_answers (m : Mbox) (action : Nat) (s : State) : Answers (execActivateFw m action s) := by
  unfold execActivateFw
  repeat' split
  all_goals exact answers_next _

theorem execSpdmRequest_answers (port : SpdmPort) (req : SpdmReq) (s : State) :
    Answers (execSpdmRequest port req s) := by
  unfold execSpdmRequest
  dsimp only
  repeat' split
  all_goals exact answers_next _

theorem execIdeKm_answers (session : Option Nat) (keys : IdeKeys) (s : State) : Answers (execIdeKm session keys s) := by
  unfold execIdeKm
  repeat' split
  all_goals exact answers_next _

theorem execBundleWritten_answers (i : Fin 4096) (s : State) : Answers (execBundleWritten i s) := by
  unfold execBundleWritten
  dsimp only
  repeat' split
  all_goals exact answers_next _

theorem execBundleWriteFailed_answers (i : Fin 4096) (s : State) : Answers (execBundleWriteFailed i s) := by
  unfold execBundleWriteFailed
  dsimp only
  repeat' split
  all_goals exact answers_next _

theorem execLiftHeaderRead_answers (i : Fin 4096) (x : LiftHeader) (s : State) :
    Answers (execLiftHeaderRead i x s) := by
  unfold execLiftHeaderRead
  dsimp only
  repeat' split
  all_goals exact answers_next _

theorem execLiftBlockRead_answers (i : Fin 4096) (x : LiftBlock) (s : State) : Answers (execLiftBlockRead i x s) := by
  unfold execLiftBlockRead
  dsimp only
  repeat' split
  all_goals exact answers_next _

theorem execLiftResowBooking_answers (i : Fin 4096) (s : State) : Answers (execLiftResowBooking i s) := by
  unfold execLiftResowBooking
  dsimp only
  repeat' split
  all_goals exact answers_next _

theorem execRecoverLd_answers (ld : LdId) (batches : List (List Byte)) (s : State) :
    Answers (execRecoverLd ld batches s) := by
  unfold execRecoverLd
  dsimp only
  repeat' split
  all_goals exact answers_next _

theorem execFrameReceived_answers (p : PortId) (f : Frame) (s : State) : Answers (execFrameReceived p f s) := by
  unfold execFrameReceived
  dsimp only
  repeat' split
  all_goals exact answers_next _

theorem execHello_answers (h : HelloMsg) (s : State) : Answers (execHello h s) := by
  unfold execHello
  dsimp only
  repeat' split
  all_goals exact answers_next _

theorem execHelloRetry_answers (n : NodeId) (s : State) : Answers (execHelloRetry n s) := by
  unfold execHelloRetry
  dsimp only
  repeat' split
  all_goals exact answers_next _

theorem execKeepalive_answers (n : NodeId) (m : KeepaliveMsg) (s : State) : Answers (execKeepalive n m s) := by
  unfold execKeepalive
  dsimp only
  repeat' split
  all_goals exact answers_next _

theorem execFlowAccept_answers (m : FlowMsg) (s : State) : Answers (execFlowAccept m s) := by
  unfold execFlowAccept
  dsimp only
  repeat' split
  all_goals exact answers_next _

theorem execWritePacket_answers (k : Packet) (s : State) : Answers (execWritePacket k s) := by
  unfold execWritePacket
  repeat' split
  all_goals exact answers_next _

theorem execReadReq_answers (k : Packet) (s : State) : Answers (execReadReq k s) := by
  unfold execReadReq
  repeat' split
  all_goals exact answers_next _

theorem execReadResp_answers (k : Packet) (s : State) : Answers (execReadResp k s) := by
  unfold execReadResp
  repeat' split
  all_goals exact answers_next _

theorem execAtomicReq_answers (k : Packet) (s : State) : Answers (execAtomicReq k s) := by
  unfold execAtomicReq
  repeat' split
  all_goals exact answers_next _

theorem execAtomicResp_answers (k : Packet) (s : State) : Answers (execAtomicResp k s) := by
  unfold execAtomicResp
  repeat' split
  all_goals exact answers_next _

theorem execAck_answers (k : Packet) (cumPsn : BitVec 32) (credits : BitVec 16) (s : State) :
    Answers (execAck k cumPsn credits s) := by
  unfold execAck
  repeat' split
  all_goals exact answers_next _

theorem execNack_answers (k : Packet) (nackPsn : BitVec 32) (code : BitVec 8) (s : State) :
    Answers (execNack k nackPsn code s) := by
  unfold execNack
  repeat' split
  all_goals exact answers_next _

theorem execRetransmitTimeout_answers (n : NodeId) (ctx : Fin 17) (fl : Fin 16) (s : State) :
    Answers (execRetransmitTimeout n ctx fl s) := by
  unfold execRetransmitTimeout
  dsimp only
  repeat' split
  all_goals exact answers_next _

theorem execBookReply_answers (n : NodeId) (job : BitVec 18) (free : List Nat) (s : State) :
    Answers (execBookReply n job free s) := by
  unfold execBookReply
  dsimp only
  repeat' split
  all_goals exact answers_next _

theorem execBookCommit_answers (n : NodeId) (job : BitVec 18) (i : Fin 4096) (chain : List Nat) (s : State) :
    Answers (execBookCommit n job i chain s) := by
  unfold execBookCommit
  dsimp only
  repeat' split
  all_goals exact answers_next _

theorem execBookAck_answers (n : NodeId) (job : BitVec 18) (ok : Bool) (s : State) :
    Answers (execBookAck n job ok s) := by
  unfold execBookAck
  dsimp only
  repeat' split
  all_goals exact answers_next _

theorem execParityError_answers (x : ParityStruct) (s : State) : Answers (execParityError x s) := by
  unfold execParityError
  dsimp only
  repeat' split
  all_goals exact answers_next _

theorem execScrubRead_answers (line : Nat) (ecc : EccResult) (s : State) : Answers (execScrubRead line ecc s) := by
  unfold execScrubRead
  repeat' split
  all_goals exact answers_next _

theorem execArrayTestDone_answers (a : ArrId) (pass : Bool) (s : State) : Answers (execArrayTestDone a pass s) := by
  unfold execArrayTestDone
  dsimp only
  repeat' split
  all_goals exact answers_next _

theorem execRedirectCopyDone_answers (slot : Fin 2) (s : State) : Answers (execRedirectCopyDone slot s) := by
  unfold execRedirectCopyDone
  repeat' split
  all_goals exact answers_next _

theorem execTelemetrySample_answers (xs : List RailSample) (s : State) : Answers (execTelemetrySample xs s) := by
  unfold execTelemetrySample
  dsimp only
  repeat' split
  all_goals exact answers_next _

theorem execCapLoop_answers (withheld : Nat) (s : State) : Answers (execCapLoop withheld s) := by
  unfold execCapLoop
  dsimp only
  repeat' split
  all_goals exact answers_next _

theorem execOpRaisePrepare_answers (s : State) : Answers (execOpRaisePrepare s) := by
  unfold execOpRaisePrepare
  dsimp only
  repeat' split
  all_goals exact answers_next _

theorem execBistTestDone_answers (res : ArrayTest) (s : State) : Answers (execBistTestDone res s) := by
  unfold execBistTestDone
  dsimp only
  repeat' split
  all_goals exact answers_next _

/-! ### Every command -/

/-- Every command answers a next state, which keeps what its meaning keeps. -/
theorem exec_completes (c : Instr) (s : State) : Completes s (exec c s) :=
  match c with
  | .registerWrite .. => (execRegisterWrite_keeps _ _ _ _ (Keeps.refl s)).completes (execRegisterWrite_answers ..)
  | .cxlMemRead .. => (execCxlMemRead_keeps _ _ _ (Keeps.refl s)).completes (execCxlMemRead_answers ..)
  | .cxlMemWrite .. => (execCxlMemWrite_keeps _ _ _ (Keeps.refl s)).completes (execCxlMemWrite_answers ..)
  | .sqTail .. => (execSqTail_keeps _ _ _ _ (Keeps.refl s)).completes (execSqTail_answers ..)
  | .cqHead .. => (execCqHead_keeps _ _ _ _ (Keeps.refl s)).completes (execCqHead_answers ..)
  | .submissionRead .. => (execSubmissionRead_keeps _ _ (Keeps.refl s)).completes (execSubmissionRead_answers ..)
  | .tick .. => (execTick_keeps _ _ (Keeps.refl s)).completes answers_guard
  | .headland .. => (execHeadland_keeps _ _ (Keeps.refl s)).completes answers_guard
  | .furNumSet .. => (execFurNumSet_keeps _ _ (Keeps.refl s)).completes answers_guard
  | .furrowSyncPulse .. => (execFurrowSyncPulse_keeps _ _ _ (Keeps.refl s)).completes answers_guard
  | .tickRefLost .. => (execTickRefLost_keeps _ _ (Keeps.refl s)).completes (execTickRefLost_answers ..)
  | .pcieRefLost => (execPcieRefLost_keeps _ (Keeps.refl s)).completes answers_guard
  | .raileRefLost .. => (execRaileRefLost_keeps _ _ (Keeps.refl s)).completes answers_guard
  | .admissionPass => (execAdmissionPass_keeps _ (Keeps.refl s)).completes answers_guard
  | .tileStart .. => (execTileStart_keeps _ _ _ (Keeps.refl s)).completes (execTileStart_answers ..)
  | .stepIssue .. => (execStepIssue_keeps _ _ _ _ (Keeps.refl s)).completes (execStepIssue_answers ..)
  | .heldSwap .. => (execHeldSwap_keeps _ _ _ _ (Keeps.refl s)).completes (execHeldSwap_answers ..)
  | .chunkUpdate .. => (execChunkUpdate_keeps _ _ _ (Keeps.refl s)).completes (execChunkUpdate_answers ..)
  | .drain .. => (execDrain_keeps _ _ _ (Keeps.refl s)).completes (execDrain_answers ..)
  | .outputRow .. => (execOutputRow_keeps _ _ _ (Keeps.refl s)).completes (execOutputRow_answers ..)
  | .outputRowWrite .. => (execOutputRowWrite_keeps _ _ (Keeps.refl s)).completes (execOutputRowWrite_answers ..)
  | .preambleEnd .. => (execPreambleEnd_keeps _ _ (Keeps.refl s)).completes answers_guard
  | .bankPowerDown .. => (execBankPowerDown_keeps _ _ _ _ (Keeps.refl s)).completes answers_guard
  | .bankWakeDone .. => (execBankWakeDone_keeps _ _ _ (Keeps.refl s)).completes
      (answers_ite (answers_next _) answers_guard)
  | .lateWake .. => (execLateWake_keeps _ _ _ _ (Keeps.refl s)).completes answers_guard
  | .acquire .. => (execAcquire_keeps _ _ _ (Keeps.refl s)).completes answers_guard
  | .publish .. => (execPublish_keeps _ _ _ (Keeps.refl s)).completes answers_guard
  | .wait .. => (execWait_keeps _ _ _ _ (Keeps.refl s)).completes answers_guard
  | .release .. => (execRelease_keeps _ _ _ (Keeps.refl s)).completes answers_guard
  | .nop .. => (execNop_keeps _ _ _ (Keeps.refl s)).completes (by unfold execNop; exact vRun_answers ..)
  | .add .. => (execAdd_keeps _ _ _ (Keeps.refl s)).completes (by unfold execAdd; exact vRun_answers ..)
  | .sub .. => (execSub_keeps _ _ _ (Keeps.refl s)).completes (by unfold execSub; exact vRun_answers ..)
  | .mul .. => (execMul_keeps _ _ _ (Keeps.refl s)).completes (by unfold execMul; exact vRun_answers ..)
  | .fma .. => (execFma_keeps _ _ _ (Keeps.refl s)).completes (by unfold execFma; exact vRun_answers ..)
  | .max .. => (execMax_keeps _ _ _ (Keeps.refl s)).completes (by unfold execMax; exact vRun_answers ..)
  | .min .. => (execMin_keeps _ _ _ (Keeps.refl s)).completes (by unfold execMin; exact vRun_answers ..)
  | .maxnum .. => (execMaxnum_keeps _ _ _ (Keeps.refl s)).completes (by unfold execMaxnum; exact vRun_answers ..)
  | .minnum .. => (execMinnum_keeps _ _ _ (Keeps.refl s)).completes (by unfold execMinnum; exact vRun_answers ..)
  | .cmp .. => (execCmp_keeps _ _ _ (Keeps.refl s)).completes (by unfold execCmp; exact vRun_answers ..)
  | .sel .. => (execSel_keeps _ _ _ (Keeps.refl s)).completes (by unfold execSel; exact vRun_answers ..)
  | .sign .. => (execSign_keeps _ _ _ (Keeps.refl s)).completes (by unfold execSign; exact vRun_answers ..)
  | .cvt .. => (execCvt_keeps _ _ _ (Keeps.refl s)).completes (by unfold execCvt; exact vRun_answers ..)
  | .logic .. => (execLogic_keeps _ _ _ (Keeps.refl s)).completes (by unfold execLogic; exact vRun_answers ..)
  | .exp2 .. => (execExp2_keeps _ _ _ (Keeps.refl s)).completes (by unfold execExp2; exact vRun_answers ..)
  | .log2 .. => (execLog2_keeps _ _ _ (Keeps.refl s)).completes (by unfold execLog2; exact vRun_answers ..)
  | .rcp .. => (execRcp_keeps _ _ _ (Keeps.refl s)).completes (by unfold execRcp; exact vRun_answers ..)
  | .rsqrt .. => (execRsqrt_keeps _ _ _ (Keeps.refl s)).completes (by unfold execRsqrt; exact vRun_answers ..)
  | .sigm .. => (execSigm_keeps _ _ _ (Keeps.refl s)).completes (by unfold execSigm; exact vRun_answers ..)
  | .tanh .. => (execTanh_keeps _ _ _ (Keeps.refl s)).completes (by unfold execTanh; exact vRun_answers ..)
  | .expd .. => (execExpd_keeps _ _ _ (Keeps.refl s)).completes (by unfold execExpd; exact vRun_answers ..)
  | .rope .. => (execRope_keeps _ _ _ (Keeps.refl s)).completes (by unfold execRope; exact vRun_answers ..)
  | .quant .. => (execQuant_keeps _ _ _ (Keeps.refl s)).completes (by unfold execQuant; exact vRun_answers ..)
  | .red .. => (execRed_keeps _ _ _ (Keeps.refl s)).completes (by unfold execRed; exact vRun_answers ..)
  | .topk .. => (execTopk_keeps _ _ _ (Keeps.refl s)).completes (by unfold execTopk; exact vRun_answers ..)
  | .psum .. => (execPsum_keeps _ _ _ (Keeps.refl s)).completes (answers_ite answers_guard (vAccess_answers ..))
  | .expsort .. => (execExpsort_keeps _ _ _ (Keeps.refl s)).completes (execExpsort_answers ..)
  | .ld .. => (execLd_keeps _ _ _ (Keeps.refl s)).completes (by unfold execLd; exact vAccess_answers ..)
  | .st .. => (execSt_keeps _ _ _ (Keeps.refl s)).completes (by unfold execSt; exact vAccess_answers ..)
  | .cld .. => (execCld_keeps _ _ _ (Keeps.refl s)).completes (execCld_answers ..)
  | .cacheFill .. => (execCacheFill_keeps _ _ (Keeps.refl s)).completes (execCacheFill_answers ..)
  | .rstat .. => (execRstat_keeps _ _ _ (Keeps.refl s)).completes
      (answers_ite (answers_next _) (answers_ite (answers_next _) answers_guard))
  | .mpos .. => (execMpos_keeps _ _ _ (Keeps.refl s)).completes (execMpos_answers ..)
  | .mcmd .. => (execMcmd_keeps _ _ _ (Keeps.refl s)).completes (execMcmd_answers ..)
  | .barinc .. => (execBarinc_keeps _ _ _ (Keeps.refl s)).completes (execBarinc_answers ..)
  | .mgenLoad .. => (execMgenLoad_keeps _ _ (Keeps.refl s)).completes answers_guard
  | .read .. => (execRead_keeps _ _ _ (Keeps.refl s)).completes (answers_next _)
  | .write .. => (execWrite_keeps _ _ _ (Keeps.refl s)).completes (answers_next _)
  | .burst .. => (execBurst_keeps _ _ _ _ (Keeps.refl s)).completes (execBurst_answers ..)
  | .faultResume .. => (execFaultResume_keeps _ _ _ (Keeps.refl s)).completes (execFaultResume_answers ..)
  | .descriptorComplete .. => (execDescriptorComplete_keeps _ _ _ (Keeps.refl s)).completes
      (execDescriptorComplete_answers ..)
  | .workItemComplete .. => (execWorkItemComplete_keeps _ _ (Keeps.refl s)).completes (execWorkItemComplete_answers ..)
  | .roleMsg .. => (execRoleMsg_keeps _ _ (Keeps.refl s)).completes (answers_ite (answers_next _) answers_guard)
  | .roleAck .. => (execRoleAck_keeps _ _ (Keeps.refl s)).completes answers_guard
  | .staleRole _ _ e => (execStaleRole_keeps _ _ e _ (Keeps.refl s)).completes (answers_next _)
  | .chunkCommit .. => (execChunkCommit_keeps _ _ (Keeps.refl s)).completes (answers_ite (answers_next _) answers_guard)
  | .roundSample .. => (execRoundSample_keeps _ _ (Keeps.refl s)).completes (execRoundSample_answers ..)
  | .roundCommit .. => (execRoundCommit_keeps _ _ (Keeps.refl s)).completes (execRoundCommit_answers ..)
  | .stallLimit .. => (execStallLimit_keeps _ _ (Keeps.refl s)).completes (execStallLimit_answers ..)
  | .queryDevice .. => (execQueryDevice_keeps _ _ _ (Keeps.refl s)).completes (bruah_answers ..)
  | .createQp .. => (execCreateQp_keeps _ _ _ (Keeps.refl s)).completes (bruah_answers ..)
  | .deleteQp .. => (execDeleteQp_keeps _ _ _ (Keeps.refl s)).completes (bruah_answers ..)
  | .cancel .. => (execCancel_keeps _ _ _ (Keeps.refl s)).completes (bruah_answers ..)
  | .queryRequest .. => (execQueryRequest_keeps _ _ _ (Keeps.refl s)).completes (bruah_answers ..)
  | .exportBundle .. => (execExportBundle_keeps _ _ _ (Keeps.refl s)).completes (bruah_answers ..)
  | .park .. => (execPark_keeps _ _ _ (Keeps.refl s)).completes (bruah_answers ..)
  | .lift .. => (execLift_keeps _ _ _ (Keeps.refl s)).completes (bruah_answers ..)
  | .releaseRequest .. => (execReleaseRequest_keeps _ _ _ (Keeps.refl s)).completes (bruah_answers ..)
  | .ldStatus .. => (execLdStatus_keeps _ _ _ (Keeps.refl s)).completes (bruah_answers ..)
  | .resetSelf .. => (execResetSelf_keeps _ _ _ (Keeps.refl s)).completes (resetCmd_answers ..)
  | .provisionKey .. => (execProvisionKey_keeps _ _ _ _ (Keeps.refl s)).completes
      (answers_ite (bruahRun_answers ..) (answers_ite (answers_next _) (bruah_answers ..)))
  | .setWindow .. => (execSetWindow_keeps _ _ _ (Keeps.refl s)).completes (bruah_answers ..)
  | .loadImage .. => (execLoadImage_keeps _ _ _ _ (Keeps.refl s)).completes (bruahBg_answers ..)
  | .unloadImage .. => (execUnloadImage_keeps _ _ _ (Keeps.refl s)).completes (bruah_answers ..)
  | .loadAdapter .. => (execLoadAdapter_keeps _ _ _ _ (Keeps.refl s)).completes (bruahBg_answers ..)
  | .retireAdapter .. => (execRetireAdapter_keeps _ _ _ (Keeps.refl s)).completes (bruah_answers ..)
  | .loadLp .. => (execLoadLp_keeps _ _ _ _ (Keeps.refl s)).completes (bruahBg_answers ..)
  | .unloadLp .. => (execUnloadLp_keeps _ _ _ (Keeps.refl s)).completes (bruah_answers ..)
  | .setRole .. => (execSetRole_keeps _ _ _ (Keeps.refl s)).completes (bruah_answers ..)
  | .setCap .. => (execSetCap_keeps _ _ _ (Keeps.refl s)).completes (bruah_answers ..)
  | .resetTenant .. => (execResetTenant_keeps _ _ _ (Keeps.refl s)).completes (resetCmd_answers ..)
  | .startRecovery .. => (execStartRecovery_keeps _ _ _ (Keeps.refl s)).completes (bruah_answers ..)
  | .restart .. => (execRestart_keeps _ _ _ (Keeps.refl s)).completes (bruah_answers ..)
  | .getLog .. => (execGetLog_keeps _ _ _ (Keeps.refl s)).completes (bruah_answers ..)
  | .setSldSpan .. => (execSetSldSpan_keeps _ _ _ (Keeps.refl s)).completes (bruah_answers ..)
  | .readReg .. => (execReadReg_keeps _ _ _ (Keeps.refl s)).completes (answers_ite (answers_next _) (bruah_answers ..))
  | .writeReg .. => (execWriteReg_keeps _ _ _ (Keeps.refl s)).completes (bruah_answers ..)
  | .backgroundCommandComplete .. => (execBackgroundCommandComplete_keeps _ _ (Keeps.refl s)).completes
      (execBackgroundCommandComplete_answers ..)
  | .identifyMemoryDevice .. => (execIdentifyMemoryDevice_keeps _ _ (Keeps.refl s)).completes
      (execIdentifyMemoryDevice_answers ..)
  | .getEventRecords .. => (execGetEventRecords_keeps _ _ (Keeps.refl s)).completes (cxlCmd_answers ..)
  | .clearEventRecords .. => (execClearEventRecords_keeps _ _ _ (Keeps.refl s)).completes (cxlCmd_answers ..)
  | .getEventInterruptPolicy .. => (execGetEventInterruptPolicy_keeps _ _ (Keeps.refl s)).completes (cxlCmd_answers ..)
  | .setEventInterruptPolicy .. => (execSetEventInterruptPolicy_keeps _ _ _ (Keeps.refl s)).completes
      (cxlCmd_answers ..)
  | .getSupportedLogs .. => (execGetSupportedLogs_keeps _ _ (Keeps.refl s)).completes (cxlCmd_answers ..)
  | .getCxlLog .. => (execGetCxlLog_keeps _ _ (Keeps.refl s)).completes (cxlCmd_answers ..)
  | .getHealthInfo .. => (execGetHealthInfo_keeps _ _ (Keeps.refl s)).completes (cxlCmd_answers ..)
  | .getTimestamp .. => (execGetTimestamp_keeps _ _ (Keeps.refl s)).completes (cxlCmd_answers ..)
  | .setTimestamp .. => (execSetTimestamp_keeps _ _ _ (Keeps.refl s)).completes (cxlCmd_answers ..)
  | .getFwInfo .. => (execGetFwInfo_keeps _ _ (Keeps.refl s)).completes (execGetFwInfo_answers ..)
  | .transferFw .. => (execTransferFw_keeps _ _ _ _ _ _ (Keeps.refl s)).completes (execTransferFw_answers ..)
  | .activateFw .. => (execActivateFw_keeps _ _ _ (Keeps.refl s)).completes (execActivateFw_answers ..)
  | .getLdInfo .. => (execGetLdInfo_keeps _ _ (Keeps.refl s)).completes (cxlCmd_answers ..)
  | .getLdAllocations .. => (execGetLdAllocations_keeps _ _ (Keeps.refl s)).completes (cxlCmd_answers ..)
  | .setLdAllocations .. => (execSetLdAllocations_keeps _ _ _ _ (Keeps.refl s)).completes (cxlCmd_answers ..)
  | .hdmDecoderCommit .. => (execHdmDecoderCommit_keeps _ _ _ _ _ _ (Keeps.refl s)).completes
      (answers_ite (answers_next _) answers_guard)
  | .completionVector .. => (execCompletionVector_keeps _ _ (Keeps.refl s)).completes answers_guard
  | .coalTimer .. => (execCoalTimer_keeps _ _ (Keeps.refl s)).completes answers_guard
  | .qcfgWrite .. => (execQcfgWrite_keeps _ _ _ (Keeps.refl s)).completes answers_guard
  | .ldRqtWrite .. => (execLdRqtWrite_keeps _ _ _ (Keeps.refl s)).completes answers_guard
  | .ldPoolLimitWrite .. => (execLdPoolLimitWrite_keeps _ _ _ (Keeps.refl s)).completes answers_guard
  | .spdmRequest .. => (execSpdmRequest_keeps _ _ _ (Keeps.refl s)).completes (execSpdmRequest_answers ..)
  | .ideKm .. => (execIdeKm_keeps _ _ _ (Keeps.refl s)).completes (execIdeKm_answers ..)
  | .ideFail => (execIdeFail_keeps _ (Keeps.refl s)).completes answers_guard
  | .tableAccess .. => (execTableAccess_keeps _ _ (Keeps.refl s)).completes answers_guard
  | .doeDiscovery .. => (execDoeDiscovery_keeps _ _ (Keeps.refl s)).completes answers_guard
  | .entdaa .. => (execEntdaa_keeps _ _ (Keeps.refl s)).completes answers_guard
  | .mctpControl .. => (execMctpControl_keeps _ _ (Keeps.refl s)).completes answers_guard
  | .pldmRequest .. => (execPldmRequest_keeps _ _ (Keeps.refl s)).completes answers_guard
  | .inBandInterrupt .. => (execInBandInterrupt_keeps _ _ (Keeps.refl s)).completes answers_guard
  | .bundleWritten .. => (execBundleWritten_keeps _ _ (Keeps.refl s)).completes (execBundleWritten_answers ..)
  | .bundleWriteFailed .. => (execBundleWriteFailed_keeps _ _ (Keeps.refl s)).completes
      (execBundleWriteFailed_answers ..)
  | .liftHeaderRead .. => (execLiftHeaderRead_keeps _ _ _ (Keeps.refl s)).completes (execLiftHeaderRead_answers ..)
  | .liftBlockRead .. => (execLiftBlockRead_keeps _ _ _ (Keeps.refl s)).completes (execLiftBlockRead_answers ..)
  | .liftResowBooking .. => (execLiftResowBooking_keeps _ _ (Keeps.refl s)).completes (execLiftResowBooking_answers ..)
  | .journalBatchDone .. => (execJournalBatchDone_keeps _ _ (Keeps.refl s)).completes
      (answers_ite (answers_next _) (answers_ite (answers_next _) answers_guard))
  | .jrnlTailWrite .. => (execJrnlTailWrite_keeps _ _ (Keeps.refl s)).completes (answers_next _)
  | .recoverLd .. => (execRecoverLd_keeps _ _ _ (Keeps.refl s)).completes (execRecoverLd_answers ..)
  | .portEnable .. => (execPortEnable_keeps _ _ (Keeps.refl s)).completes (answers_ite (answers_next _) answers_guard)
  | .portDisable .. => (execPortDisable_keeps _ _ (Keeps.refl s)).completes answers_guard
  | .partnerDetected .. => (execPartnerDetected_keeps _ _ (Keeps.refl s)).completes answers_guard
  | .lanesLocked .. => (execLanesLocked_keeps _ _ _ (Keeps.refl s)).completes
      (answers_ite (answers_next _) answers_guard)
  | .equaliseTimeout .. => (execEqualiseTimeout_keeps _ _ _ (Keeps.refl s)).completes
      (answers_ite (answers_next _) answers_guard)
  | .alignDone .. => (execAlignDone_keeps _ _ (Keeps.refl s)).completes answers_guard
  | .paramExchanged .. => (execParamExchanged_keeps _ _ _ _ (Keeps.refl s)).completes
      (answers_ite (answers_next _) answers_guard)
  | .retrain .. => (execRetrain_keeps _ _ _ (Keeps.refl s)).completes answers_guard
  | .laneRetire .. => (execLaneRetire_keeps _ _ _ _ (Keeps.refl s)).completes
      (answers_ite (answers_next _) answers_guard)
  | .frameReceived .. => (execFrameReceived_keeps _ _ _ (Keeps.refl s)).completes (execFrameReceived_answers ..)
  | .frameResendTimeout .. => (execFrameResendTimeout_keeps _ _ (Keeps.refl s)).completes answers_guard
  | .ackReport .. => (execAckReport_keeps _ _ (Keeps.refl s)).completes answers_guard
  | .routeWrite .. => (execRouteWrite_keeps _ _ _ (Keeps.refl s)).completes answers_guard
  | .regionWrite .. => (execRegionWrite_keeps _ _ _ _ (Keeps.refl s)).completes
      (answers_ite (answers_next _) answers_guard)
  | .hello .. => (execHello_keeps _ _ (Keeps.refl s)).completes (execHello_answers ..)
  | .helloAck .. => (execHelloAck_keeps _ _ (Keeps.refl s)).completes
      (answers_ite (answers_next _) (answers_ite (answers_next _) answers_guard))
  | .helloRetry .. => (execHelloRetry_keeps _ _ (Keeps.refl s)).completes (execHelloRetry_answers ..)
  | .bye .. => (execBye_keeps _ _ _ (Keeps.refl s)).completes
      (answers_ite (answers_next _) (answers_ite (answers_next _) answers_guard))
  | .keepalive .. => (execKeepalive_keeps _ _ _ (Keeps.refl s)).completes (execKeepalive_answers ..)
  | .peerSuspect .. => (execPeerSuspect_keeps _ _ (Keeps.refl s)).completes answers_guard
  | .peerDown .. => (execPeerDown_keeps _ _ (Keeps.refl s)).completes answers_guard
  | .flowOpen .. => (execFlowOpen_keeps _ _ (Keeps.refl s)).completes (answers_ite (answers_next _) answers_guard)
  | .flowAccept .. => (execFlowAccept_keeps _ _ (Keeps.refl s)).completes (execFlowAccept_answers ..)
  | .flowRefuse .. => (execFlowRefuse_keeps _ _ (Keeps.refl s)).completes answers_guard
  | .writePacket .. => (execWritePacket_keeps _ _ (Keeps.refl s)).completes (execWritePacket_answers ..)
  | .readReq .. => (execReadReq_keeps _ _ (Keeps.refl s)).completes (execReadReq_answers ..)
  | .readResp .. => (execReadResp_keeps _ _ (Keeps.refl s)).completes (execReadResp_answers ..)
  | .atomicReq .. => (execAtomicReq_keeps _ _ (Keeps.refl s)).completes (execAtomicReq_answers ..)
  | .atomicResp .. => (execAtomicResp_keeps _ _ (Keeps.refl s)).completes (execAtomicResp_answers ..)
  | .ack .. => (execAck_keeps _ _ _ _ (Keeps.refl s)).completes (execAck_answers ..)
  | .nack .. => (execNack_keeps _ _ _ _ (Keeps.refl s)).completes (execNack_answers ..)
  | .retransmitTimeout .. => (execRetransmitTimeout_keeps _ _ _ _ (Keeps.refl s)).completes
      (execRetransmitTimeout_answers ..)
  | .notify .. => (execNotify_keeps _ _ (Keeps.refl s)).completes (answers_ite (answers_next _) answers_guard)
  | .sync .. => (execSync_keeps _ _ _ _ _ _ (Keeps.refl s)).completes answers_guard
  | .syncJoin .. => (execSyncJoin_keeps _ _ (Keeps.refl s)).completes answers_guard
  | .delayReq .. => (execDelayReq_keeps _ _ _ _ (Keeps.refl s)).completes answers_guard
  | .delayResp .. => (execDelayResp_keeps _ _ _ _ _ _ (Keeps.refl s)).completes answers_guard
  | .bookQuery .. => (execBookQuery_keeps _ _ _ _ _ _ _ (Keeps.refl s)).completes answers_guard
  | .bookReply .. => (execBookReply_keeps _ _ _ _ (Keeps.refl s)).completes (execBookReply_answers ..)
  | .bookCommit .. => (execBookCommit_keeps _ _ _ _ _ (Keeps.refl s)).completes (execBookCommit_answers ..)
  | .bookAck .. => (execBookAck_keeps _ _ _ _ (Keeps.refl s)).completes (execBookAck_answers ..)
  | .powerStatus .. => (execPowerStatus_keeps _ _ _ _ _ _ (Keeps.refl s)).completes answers_guard
  | .powerGrant .. => (execPowerGrant_keeps _ _ _ _ _ (Keeps.refl s)).completes answers_guard
  | .parityError .. => (execParityError_keeps _ _ (Keeps.refl s)).completes (execParityError_answers ..)
  | .scrubRead .. => (execScrubRead_keeps _ _ _ (Keeps.refl s)).completes (execScrubRead_answers ..)
  | .watchdog .. => (execWatchdog_keeps _ _ (Keeps.refl s)).completes answers_guard
  | .arrayReset .. => (execArrayReset_keeps _ _ _ (Keeps.refl s)).completes answers_guard
  | .arrayTestDone .. => (execArrayTestDone_keeps _ _ _ (Keeps.refl s)).completes (execArrayTestDone_answers ..)
  | .fenDieReset .. => (execFenDieReset_keeps _ _ (Keeps.refl s)).completes answers_guard
  | .deviceHalt .. => (execDeviceHalt_keeps _ _ _ (Keeps.refl s)).completes answers_guard
  | .pcRetire .. => (execPcRetire_keeps _ _ (Keeps.refl s)).completes answers_guard
  | .redirectCopyDone .. => (execRedirectCopyDone_keeps _ _ (Keeps.refl s)).completes (execRedirectCopyDone_answers ..)
  | .fltInject .. => (execFltInject_keeps _ _ (Keeps.refl s)).completes answers_guard
  | .telemetrySample .. => (execTelemetrySample_keeps _ _ (Keeps.refl s)).completes (execTelemetrySample_answers ..)
  | .capLoop .. => (execCapLoop_keeps _ _ (Keeps.refl s)).completes (execCapLoop_answers ..)
  | .energyInterval .. => (execEnergyInterval_keeps _ _ (Keeps.refl s)).completes answers_guard
  | .avsTrim .. => (execAvsTrim_keeps _ _ (Keeps.refl s)).completes (answers_ite (answers_next _) answers_guard)
  | .currentLimit => (execCurrentLimit_keeps _ (Keeps.refl s)).completes answers_guard
  | .droopDetect => (execDroopDetect_keeps _ (Keeps.refl s)).completes answers_guard
  | .droopEnd .. => (execDroopEnd_keeps _ _ (Keeps.refl s)).completes answers_guard
  | .brownoutWarn => (execBrownoutWarn_keeps _ (Keeps.refl s)).completes answers_guard
  | .brownoutClear => (execBrownoutClear_keeps _ (Keeps.refl s)).completes answers_guard
  | .supplyReset => (execSupplyReset_keeps _ (Keeps.refl s)).completes answers_guard
  | .sensorRead .. => (execSensorRead_keeps _ _ (Keeps.refl s)).completes (answers_ite (answers_next _) answers_guard)
  | .flowFail .. => (execFlowFail_keeps _ _ (Keeps.refl s)).completes (answers_ite (answers_next _) answers_guard)
  | .opRaisePrepare => (execOpRaisePrepare_keeps _ (Keeps.refl s)).completes (execOpRaisePrepare_answers ..)
  | .pwrCfgWrite .. => (execPwrCfgWrite_keeps _ _ (Keeps.refl s)).completes (answers_ite (answers_next _) answers_guard)
  | .commit => (execCommit_keeps _ (Keeps.refl s)).completes answers_guard
  | .commitDone => (execCommitDone_keeps _ (Keeps.refl s)).completes answers_guard
  | .revoke .. => (execRevoke_keeps _ _ (Keeps.refl s)).completes (answers_ite (answers_next _) answers_guard)
  | .fenceReq => (execFenceReq_keeps _ (Keeps.refl s)).completes answers_guard
  | .fenceDone => (execFenceDone_keeps _ (Keeps.refl s)).completes answers_guard
  | .secKeyClear .. => (execSecKeyClear_keeps _ _ (Keeps.refl s)).completes answers_guard
  | .domainKeyLock => (execDomainKeyLock_keeps _ (Keeps.refl s)).completes answers_guard
  | .bypass => (execBypass_keeps _ (Keeps.refl s)).completes (tapIf_answers ..)
  | .idcode => (execIdcode_keeps _ (Keeps.refl s)).completes (answers_next _)
  | .samplePreload => (execSamplePreload_keeps _ (Keeps.refl s)).completes (tapIf_answers ..)
  | .extest => (execExtest_keeps _ (Keeps.refl s)).completes (tapIf_answers ..)
  | .clamp => (execClamp_keeps _ (Keeps.refl s)).completes (tapIf_answers ..)
  | .highz => (execHighz_keeps _ (Keeps.refl s)).completes (tapIf_answers ..)
  | .ikbChal => (execIkbChal_keeps _ (Keeps.refl s)).completes (answers_next _)
  | .ikbUnlock .. => (execIkbUnlock_keeps _ _ _ _ (Keeps.refl s)).completes (answers_ite (answers_next _) answers_guard)
  | .dapAccess => (execDapAccess_keeps _ (Keeps.refl s)).completes (tapIf_answers ..)
  | .pwrgoodRise .. => (execPwrgoodRise_keeps _ _ (Keeps.refl s)).completes answers_guard
  | .pwrgoodFall => (execPwrgoodFall_keeps _ (Keeps.refl s)).completes answers_guard
  | .perstAssert => (execPerstAssert_keeps _ (Keeps.refl s)).completes (answers_ite (answers_next _) answers_guard)
  | .perstDeassert .. => (execPerstDeassert_keeps _ _ _ _ _ (Keeps.refl s)).completes
      (answers_ite (answers_next _) answers_guard)
  | .bootRomStart => (execBootRomStart_keeps _ (Keeps.refl s)).completes
      (answers_ite (answers_next _) (answers_ite (answers_next _) answers_guard))
  | .powerUpBistDone .. => (execPowerUpBistDone_keeps _ _ (Keeps.refl s)).completes
      (answers_ite (answers_next _) (answers_ite (answers_next _) answers_guard))
  | .bistSelfRestart => (execBistSelfRestart_keeps _ (Keeps.refl s)).completes answers_guard
  | .go .. => (execGo_keeps _ _ (Keeps.refl s)).completes
      (answers_ite (answers_next _) (answers_ite (answers_next _) answers_guard))
  | .bistTestDone .. => (execBistTestDone_keeps _ _ (Keeps.refl s)).completes (execBistTestDone_answers ..)
  | .flowWaitEnd => (execFlowWaitEnd_keeps _ (Keeps.refl s)).completes answers_guard
  | .currentLimitRise => (execCurrentLimitRise_keeps _ (Keeps.refl s)).completes answers_guard
  | .stacksLeaveSelfRefresh .. => (execStacksLeaveSelfRefresh_keeps _ _ (Keeps.refl s)).completes (answers_next _)

/-- Settles O3: every meaning answers, and what it answers keeps the queue and the blown fuses. -/
theorem everyCommandCompletes : Obligations.EveryCommandCompletes := by
  intro c s
  obtain ⟨n, hn, hk⟩ := exec_completes c s
  exact ⟨n, hn, hk.queue, hk.fuses⟩

end Sys2Proof.Machine
end

section
/-! # Registers: fields, the writes with rules of their own, BAR2, BAR0 and configuration space -/

namespace Sys2Proof.Machine

/-! ### Bit fields -/

theorem bits_eq (v hi lo : Nat) : bits v hi lo = v / 2 ^ lo % 2 ^ (hi + 1 - lo) := by
  rw [bits, Nat.shiftRight_eq_div_pow]

theorem bits_lt (v hi lo : Nat) : bits v hi lo < 2 ^ (hi + 1 - lo) := Nat.mod_lt _ (Nat.two_pow_pos _)

theorem testBit_bits (v hi lo i : Nat) : (bits v hi lo).testBit i = (decide (i < hi + 1 - lo) && v.testBit (lo + i)) := by
  rw [bits, Nat.testBit_mod_two_pow, Nat.testBit_shiftRight]

theorem testBit_mask (hi lo i : Nat) : (mask hi lo).testBit i = (decide (lo ≤ i) && decide (i ≤ hi)) := by
  rw [mask, ← Nat.shiftLeft_eq, Nat.testBit_shiftLeft, Nat.testBit_two_pow_sub_one]
  by_cases h : lo ≤ i
  · have : i - lo < hi + 1 - lo ↔ i ≤ hi := by omega
    simp [h, this]
  · simp [h]

/-- A field replaced, as the number's parts above, in and below the field. -/
theorem putBits_eq (old hi lo v : Nat) :
    putBits old hi lo v
      = 2 ^ lo * (2 ^ (hi + 1 - lo) * (old / 2 ^ lo / 2 ^ (hi + 1 - lo)) + v % 2 ^ (hi + 1 - lo)) + old % 2 ^ lo := by
  have hlow := Nat.div_add_mod old (2 ^ lo)
  have hmid := Nat.div_add_mod (old / 2 ^ lo) (2 ^ (hi + 1 - lo))
  rw [putBits, bits_eq]
  generalize 2 ^ (hi + 1 - lo) = m at *
  generalize 2 ^ lo = k at *
  generalize v % m = x
  generalize old % k = c at *
  generalize hq : old / k = q at *
  generalize q / m = p at *
  generalize q % m = r at *
  have hold : old = k * (m * p) + k * r + c := by rw [← hlow, ← hmid, Nat.mul_add]
  rw [hold, Nat.mul_add, Nat.mul_comm r k, Nat.mul_comm x k]
  omega

theorem testBit_putBits (old hi lo v i : Nat) :
    (putBits old hi lo v).testBit i = if lo ≤ i ∧ i ≤ hi then v.testBit (i - lo) else old.testBit i := by
  rw [putBits_eq, Nat.testBit_two_pow_mul_add _ (Nat.mod_lt _ (Nat.two_pow_pos _)),
    Nat.testBit_two_pow_mul_add _ (Nat.mod_lt _ (Nat.two_pow_pos _))]
  simp only [Nat.testBit_mod_two_pow, Nat.testBit_div_two_pow]
  by_cases hlo : i < lo
  · rw [if_pos hlo, if_neg (by omega)]
    simp [hlo]
  · by_cases hhi : i ≤ hi
    · have h : i - lo < hi + 1 - lo := by omega
      rw [if_neg hlo, if_pos h, if_pos (by omega)]
      simp [h]
    · rw [if_neg hlo, if_neg (by omega), if_neg (by omega)]
      congr 1
      omega

theorem bits_putBits (old hi lo v : Nat) : bits (putBits old hi lo v) hi lo = v % 2 ^ (hi + 1 - lo) := by
  refine Nat.eq_of_testBit_eq fun i => ?_
  rw [testBit_bits, testBit_putBits, Nat.testBit_mod_two_pow]
  by_cases h : i < hi + 1 - lo
  · rw [if_pos (by omega), Nat.add_sub_cancel_left]
  · simp [h]

/-- Another field of a number with a field replaced. -/
theorem bits_putBits_of_disjoint (old hi lo v hi' lo' : Nat) (h : hi' < lo ∨ hi < lo') :
    bits (putBits old hi lo v) hi' lo' = bits old hi' lo' := by
  refine Nat.eq_of_testBit_eq fun i => ?_
  rw [testBit_bits, testBit_bits, testBit_putBits]
  by_cases hi : i < hi' + 1 - lo'
  · rw [if_neg (by omega)]
  · simp [hi]

/-- A field put back as it is. -/
theorem putBits_bits (v hi lo : Nat) : putBits v hi lo (bits v hi lo) = v := by
  refine Nat.eq_of_testBit_eq fun i => ?_
  rw [testBit_putBits, testBit_bits]
  split
  · have h : i - lo < hi + 1 - lo := by omega
    rw [show lo + (i - lo) = i by omega]
    simp [h]
  · rfl

/-- A field is read of the bits of a word that hold it. -/
theorem bits_mod_two_pow (v n hi lo : Nat) (h : hi < n) : bits (v % 2 ^ n) hi lo = bits v hi lo := by
  refine Nat.eq_of_testBit_eq fun i => ?_
  rw [testBit_bits, testBit_bits, Nat.testBit_mod_two_pow]
  by_cases hi : i < hi + 1 - lo
  · simp [show lo + i < n by omega]
  · simp [hi]

/-- A write to a register whose writable bits all store what is written (R15). -/
theorem testBit_accessWrite_rw (m old new i : Nat) :
    (accessWrite { rw := m } old new).testBit i
      = (decide (i < 64) && if m.testBit i then new.testBit i else old.testBit i) := by
  simp only [accessWrite, Nat.testBit_or, Nat.testBit_and, Nat.testBit_xor, testBit_mask, Nat.testBit_mod_two_pow,
    Nat.and_zero, Nat.zero_testBit]
  by_cases h : i < 64
  · have h' : i ≤ 63 := by omega
    cases hm : m.testBit i <;> simp [h, h']
  · have h' : ¬ i ≤ 63 := by omega
    cases hm : m.testBit i <;> simp [h, h']

/-- A field of which every bit stores what is written. -/
theorem bits_accessWrite_rw (m old new hi lo : Nat) (h64 : hi < 64) (hm : ∀ i, lo ≤ i → i ≤ hi → m.testBit i = true) :
    bits (accessWrite { rw := m } old new) hi lo = bits new hi lo := by
  refine Nat.eq_of_testBit_eq fun i => ?_
  rw [testBit_bits, testBit_bits, testBit_accessWrite_rw]
  by_cases h : i < hi + 1 - lo
  · rw [hm _ (by omega) (by omega)]
    simp [show lo + i < 64 by omega]
  · simp [h]

/-! ### Stored registers -/

theorem regGet_regSet_ne (s : State) {o p : Nat} (v : Nat) (h : p ≠ o) : regGet (regSet s o v) p = regGet s p := by
  rw [regGet_regSet, if_neg h]

theorem regField_regSet (s : State) (o v hi lo : Nat) (h : hi < 64) : regField (regSet s o v) o hi lo = bits v hi lo := by
  rw [regField, regGet_regSet, if_pos rfl, bits_mod_two_pow _ _ _ _ h]

theorem regField_regSet_ne (s : State) {o p : Nat} (v hi lo : Nat) (h : p ≠ o) :
    regField (regSet s o v) p hi lo = regField s p hi lo := by
  rw [regField, regGet_regSet_ne s v h, regField]

theorem regField_regPut (s : State) (o hi lo v : Nat) (h : hi < 64) :
    regField (regPut s o hi lo v) o hi lo = v % 2 ^ (hi + 1 - lo) := by
  rw [regPut, regField_regSet _ _ _ _ _ h, bits_putBits]

/-- Another field of a register with a field set. -/
theorem regField_regPut_of_disjoint (s : State) (o hi lo v hi' lo' : Nat) (h64 : hi' < 64) (h : hi' < lo ∨ hi < lo') :
    regField (regPut s o hi lo v) o hi' lo' = regField s o hi' lo' := by
  rw [regPut, regField_regSet _ _ _ _ _ h64, bits_putBits_of_disjoint _ _ _ _ _ _ h, regField]

theorem regGet_regPut_ne (s : State) {o p : Nat} (hi lo v : Nat) (h : p ≠ o) : regGet (regPut s o hi lo v) p = regGet s p :=
  regGet_regSet_ne s _ h

theorem regField_regPut_ne (s : State) {o p : Nat} (hi lo v hi' lo' : Nat) (h : p ≠ o) :
    regField (regPut s o hi lo v) p hi' lo' = regField s p hi' lo' := regField_regSet_ne s _ _ _ h

theorem regsBut_regSet (s : State) (o v : Nat) : regsBut [o] s (regSet s o v) := fun p hp =>
  regGet_regSet_ne s v (by simpa using hp)

/-! ### Places of registers -/

theorem qcfgOff_inj {p q : Nat} : qcfgOff p = qcfgOff q ↔ p = q := by
  unfold qcfgOff rqtReg; omega

theorem qcfgOff_ne_ldRqtOff {q : Nat} (t : Nat) (h : q < 128) : qcfgOff q ≠ ldRqtOff t := by
  unfold qcfgOff ldRqtOff rqtReg; omega

/-! ### QCFG, LD_RQT and LD_POOL_LIMIT -/

/-- QCFG from its fields: ENABLE, the LD, the class and WEIGHT. -/
theorem bits_qcfg {on ld cls weight : Nat} (hon : on < 2) (hld : ld < 16) (hcls : cls < 4) (hw : weight < 256) :
    let v := on * 2 ^ 16 + ld * 2 ^ 12 + cls * 2 ^ 10 + weight
    bits v 7 0 = weight ∧ bits v 15 12 = ld ∧ bits v 16 16 = on := by
  simp only [bits_eq, Nat.reduceAdd, Nat.reduceSub, Nat.reducePow]
  omega

theorem queueLd_lt (s : State) (q : Nat) : queueLd s q < 16 := bits_lt _ 15 12

/-- Whether QCFG.LD is fixed: the queue is on, has a pair, or a request names it (R231). -/
def ldFixed (s : State) (q : Fin 128) : Bool :=
  queueOn s q.val || (que s q).pair || s.rqt.any (fun x => x.2.state != .free && x.2.queue == q.val)

/-- The LD that QCFG of a queue holds after a write. -/
def qcfgLd (s : State) (q : Fin 128) (v : Nat) : Nat := if ldFixed s q then queueLd s q.val else bits v 15 12

/-- What QCFG holds after a write. -/
def qcfgStored (s : State) (q : Fin 128) (v : Nat) : Nat :=
  bits v 16 16 * 2 ^ 16 + qcfgLd s q v * 2 ^ 12
    + Nat.max (bits v 11 10) (regField s (ldRqtOff (qcfgLd s q v)) 15 14) * 2 ^ 10 + Nat.max 1 (bits v 7 0)

theorem exec_qcfgWrite (s : State) (q : Fin 128) (v : Reg64) (ha : alive s = true) :
    exec (.qcfgWrite q v) s = .next (regSet s (qcfgOff q.val) (qcfgStored s q v.toNat)) := by
  simp only [exec, execQcfgWrite, ha]
  rfl

theorem qcfgLd_lt (s : State) (q : Fin 128) (v : Nat) : qcfgLd s q v < 16 := by
  unfold qcfgLd
  split
  · exact queueLd_lt s _
  · exact bits_lt v 15 12

theorem bits_qcfgStored (s : State) (q : Fin 128) (v : Nat) :
    bits (qcfgStored s q v) 7 0 = Nat.max 1 (bits v 7 0) ∧ bits (qcfgStored s q v) 15 12 = qcfgLd s q v
      ∧ bits (qcfgStored s q v) 16 16 = bits v 16 16 :=
  bits_qcfg (bits_lt v 16 16) (qcfgLd_lt s q v) (Nat.max_lt.2 ⟨bits_lt v 11 10, bits_lt _ 15 14⟩)
    (Nat.max_lt.2 ⟨by decide, bits_lt v 7 0⟩)

/-- A queue that is off, without a pair and named by no request takes the LD that is written. -/
theorem ldFixed_eq_false (s : State) (q : Fin 128) (hoff : queueOn s q.val = false) (hpair : (que s q).pair = false)
    (hfree : ∀ x ∈ s.rqt, x.2.state = .free ∨ x.2.queue ≠ q.val) : ldFixed s q = false := by
  have hnamed : s.rqt.any (fun x => x.2.state != .free && x.2.queue == q.val) = false :=
    List.any_eq_false.2 fun x hx => by rcases hfree x hx with h | h <;> simp [h]
  simp [ldFixed, hoff, hpair, hnamed]

theorem exec_qcfgWrite_spec (s : State) (q : Fin 128) (v : Reg64) (ha : alive s = true) :
    ∃ n, exec (.qcfgWrite q v) s = .next n ∧ n = { s with regs := n.regs }
        ∧ regField n (qcfgOff q.val) 7 0 = Nat.max 1 (bits v.toNat 7 0)
        ∧ regField n (qcfgOff q.val) 16 16 = bits v.toNat 16 16
        ∧ (queueOn s q.val = true → queueLd n q.val = queueLd s q.val)
        ∧ (queueOn s q.val = false → (que s q).pair = false → (∀ x ∈ s.rqt, x.2.state = .free ∨ x.2.queue ≠ q.val) →
            queueLd n q.val = bits v.toNat 15 12)
        ∧ regsBut [qcfgOff q.val] s n := by
  obtain ⟨hweight, hld, hon⟩ := bits_qcfgStored s q v.toNat
  have hfield : ∀ hi lo, hi < 64 → regField (regSet s (qcfgOff q.val) (qcfgStored s q v.toNat)) (qcfgOff q.val) hi lo
      = bits (qcfgStored s q v.toNat) hi lo := fun hi lo h => regField_regSet _ _ _ _ _ h
  refine ⟨_, exec_qcfgWrite s q v ha, rfl, ?_, ?_, fun h => ?_, fun h hpair hfree => ?_, regsBut_regSet s _ _⟩
  · rw [hfield _ _ (by decide), hweight]
  · rw [hfield _ _ (by decide), hon]
  · rw [queueLd, hfield _ _ (by decide), hld, qcfgLd, if_pos (by simp [ldFixed, h])]
  · rw [queueLd, hfield _ _ (by decide), hld, qcfgLd, ldFixed_eq_false s q h hpair hfree, if_neg (by decide)]

/-- LD_RQT from its fields. -/
theorem bits_ldRqt {mc lim : Nat} (hmc : mc < 4) (hlim : lim ≤ 4096) :
    bits (mc * 2 ^ 14 + lim) 12 0 = lim ∧ bits (mc * 2 ^ 14 + lim) 15 14 = mc := by
  simp only [bits_eq, Nat.reduceAdd, Nat.reduceSub, Nat.reducePow]
  omega

/-- The class of queue `q` raised to the least one of its LD (R248). -/
def raiseClass (ld mc : Nat) (s : State) (q : Nat) : State :=
  if queueLd s q = ld ∧ regField s (qcfgOff q) 11 10 < mc then regPut s (qcfgOff q) 11 10 mc else s

theorem raiseClass_regs (ld mc : Nat) (s : State) (q : Nat) :
    raiseClass ld mc s q = { s with regs := (raiseClass ld mc s q).regs } := by
  unfold raiseClass; split <;> rfl

theorem regGet_raiseClass_ne (ld mc : Nat) (s : State) {q p : Nat} (h : p ≠ qcfgOff q) :
    regGet (raiseClass ld mc s q) p = regGet s p := by
  unfold raiseClass
  split
  · exact regGet_regPut_ne s _ _ _ h
  · rfl

theorem queueLd_raiseClass (ld mc : Nat) (s : State) (q p : Nat) : queueLd (raiseClass ld mc s q) p = queueLd s p := by
  by_cases h : p = q
  · subst h
    unfold raiseClass
    split
    · exact regField_regPut_of_disjoint s _ _ _ _ _ _ (by decide) (by decide)
    · rfl
  · rw [queueLd, regField, regGet_raiseClass_ne ld mc s (fun e => h (qcfgOff_inj.1 e)), queueLd, regField]

theorem class_raiseClass (ld mc : Nat) (s : State) (q : Nat) (hmc : mc < 4) (h : queueLd s q = ld) :
    mc ≤ regField (raiseClass ld mc s q) (qcfgOff q) 11 10 := by
  unfold raiseClass
  split
  · rw [regField_regPut _ _ _ _ _ (by decide)]
    exact (Nat.mod_eq_of_lt hmc).ge
  · omega

theorem foldl_raiseClass_regs (ld mc : Nat) (l : List Nat) (s : State) :
    l.foldl (raiseClass ld mc) s = { s with regs := (l.foldl (raiseClass ld mc) s).regs } := by
  induction l generalizing s with
  | nil => rfl
  | cons q l ih =>
    rw [List.foldl_cons, ih, raiseClass_regs]

theorem regGet_foldl_raiseClass (ld mc : Nat) (l : List Nat) (s : State) {p : Nat} (h : ∀ q ∈ l, p ≠ qcfgOff q) :
    regGet (l.foldl (raiseClass ld mc) s) p = regGet s p := by
  induction l generalizing s with
  | nil => rfl
  | cons q l ih =>
    rw [List.foldl_cons, ih _ fun x hx => h x (List.mem_cons_of_mem _ hx), regGet_raiseClass_ne _ _ _ (h q List.mem_cons_self)]

theorem class_foldl_raiseClass (ld mc : Nat) (l : List Nat) (s : State) (hl : l.Nodup) (hmc : mc < 4) :
    ∀ q ∈ l, queueLd s q = ld → mc ≤ regField (l.foldl (raiseClass ld mc) s) (qcfgOff q) 11 10 := by
  induction l generalizing s with
  | nil => simp
  | cons x l ih =>
    obtain ⟨hx, hl⟩ := List.nodup_cons.1 hl
    intro q hq hld
    rw [List.foldl_cons]
    rcases List.mem_cons.1 hq with rfl | hq
    · rw [regField, regGet_foldl_raiseClass]
      · exact class_raiseClass ld mc s q hmc hld
      · intro p hp e
        exact hx (qcfgOff_inj.1 e ▸ hp)
    · exact ih _ hl q hq (by rw [queueLd_raiseClass, hld])

theorem exec_ldRqtWrite_spec (s : State) (ld : LdId) (v : Reg64) (ha : alive s = true) :
    ∃ n, exec (.ldRqtWrite ld v) s = .next n ∧ n = { s with regs := n.regs }
        ∧ regField n (ldRqtOff ld.val) 12 0 = Nat.min 4096 (bits v.toNat 12 0)
        ∧ regField n (ldRqtOff ld.val) 15 14 = bits v.toNat 15 14
        ∧ ∀ q, q < 128 → queueLd s q = ld.val → bits v.toNat 15 14 ≤ regField n (qcfgOff q) 11 10 := by
  set mc := bits v.toNat 15 14
  set s1 := regSet s (ldRqtOff ld.val) (mc * 2 ^ 14 + Nat.min 4096 (bits v.toNat 12 0)) with hs1
  have hmc : mc < 4 := bits_lt _ 15 14
  obtain ⟨hlim, hcls⟩ := bits_ldRqt hmc (Nat.min_le_left 4096 (bits v.toNat 12 0))
  have hrun : exec (.ldRqtWrite ld v) s = .next ((List.range 128).foldl (raiseClass ld.val mc) s1) := by
    simp only [exec, execLdRqtWrite, ha]
    rfl
  have hother : regGet ((List.range 128).foldl (raiseClass ld.val mc) s1) (ldRqtOff ld.val) = regGet s1 (ldRqtOff ld.val) :=
    regGet_foldl_raiseClass _ _ _ _ fun q hq => (qcfgOff_ne_ldRqtOff _ (List.mem_range.1 hq)).symm
  refine ⟨_, hrun, ?_, ?_, ?_, ?_⟩
  · rw [foldl_raiseClass_regs]; rfl
  · rw [regField, hother, ← regField, regField_regSet _ _ _ _ _ (by decide), hlim]
  · rw [regField, hother, ← regField, regField_regSet _ _ _ _ _ (by decide), hcls]
  · intro q hq hld
    refine class_foldl_raiseClass _ _ _ _ List.nodup_range hmc q (List.mem_range.2 hq) ?_
    rw [queueLd, regField_regSet_ne _ _ _ _ (qcfgOff_ne_ldRqtOff _ hq), ← queueLd, hld]

theorem exec_ldPoolLimitWrite (s : State) (ld : LdId) (v : Reg64) (ha : alive s = true) :
    exec (.ldPoolLimitWrite ld v) s = .next (regSet s (ldPoolOff ld.val) (bits v.toNat 31 0)) := by
  simp [exec, execLdPoolLimitWrite, ha]

/-! ### ROUTE_WRITE: what follows a write leaves the route table as it is -/

/-- The route registers of RAILE[0] (R338) are as they were. -/
structure RoutesKept (s t : State) : Prop where
  get : ∀ n, n < 4096 → regGet t (routeOff n) = regGet s (routeOff n)

theorem RoutesKept.refl (s : State) : RoutesKept s s := ⟨fun _ _ => rfl⟩

theorem RoutesKept.trans {s t u : State} (a : RoutesKept s t) (b : RoutesKept t u) : RoutesKept s u :=
  ⟨fun n h => (b.get n h).trans (a.get n h)⟩

/-- A change that leaves the register file alone. -/
theorem routesKept_of_regs {s t : State} (h : t.regs = s.regs) : RoutesKept s t := ⟨fun _ _ => regGet_congr h _⟩

theorem routesKept_foldl {α : Type} {f : State → α → State} (hf : ∀ s x, RoutesKept s (f s x)) (l : List α) (s : State) :
    RoutesKept s (l.foldl f s) := by
  induction l generalizing s with
  | nil => exact RoutesKept.refl s
  | cons x l ih => exact (hf s x).trans (ih _)

/-- A counter in the first registers of a port's block, before the route table. -/
theorem regBump_routesKept (s : State) (p : Nat) {r : Nat} (k : Nat) (h : r < 0x2000) :
    RoutesKept s (regBump s (rlReg p r) k) := by
  refine ⟨fun n hn => ?_⟩
  rw [regGet_regBump, if_neg]
  unfold routeOff rlReg
  omega

theorem setPort_routesKept (s : State) (p : PortId) (u : Port) : RoutesKept s (setPort s p u) := routesKept_of_regs rfl

theorem send_routesKept (s : State) (m : OutMsg) : RoutesKept s (send s m) := routesKept_of_regs rfl

theorem sendFrame_routesKept (s : State) (p : PortId) (fseq : BitVec 12) (nak idle : Bool) (b : TxBody) :
    RoutesKept s (sendFrame s p fseq nak idle b) := by
  unfold sendFrame
  extract_lets u h t bs
  exact ((setPort_routesKept ..).trans (regBump_routesKept t p.val 1280 (by decide))).trans (send_routesKept ..)

theorem pumpPort_routesKept (p : PortId) (n : Nat) (s : State) : RoutesKept s (pumpPort p n s) := by
  induction n generalizing s with
  | zero => exact RoutesKept.refl s
  | succ n ih =>
    unfold pumpPort
    dsimp only
    split
    · exact RoutesKept.refl s
    · split
      · exact RoutesKept.refl s
      · exact ((setPort_routesKept ..).trans (sendFrame_routesKept ..)).trans (ih _)

theorem portSend_routesKept (s : State) (p : PortId) (vc : Bool) (bs : List Byte) : RoutesKept s (portSend s p vc bs) :=
  (setPort_routesKept ..).trans (pumpPort_routesKept ..)

theorem flowBytes_routesKept (s : State) (f : Flow) (bs : List Byte) : RoutesKept s (flowBytes s f bs) := by
  unfold flowBytes
  split
  · exact portSend_routesKept ..
  · exact RoutesKept.refl s

theorem resendFlow_routesKept (s : State) (f : Flow) : RoutesKept s (resendFlow s f) := by
  unfold resendFlow
  split
  · exact RoutesKept.refl s
  · exact (regBump_routesKept s 0 _ (by decide)).trans (routesKept_foldl (fun _ _ => flowBytes_routesKept ..) _ _)

theorem moveFlow_routesKept (s : State) (f : Flow) : RoutesKept s (moveFlow s f) := by
  unfold moveFlow
  split
  · exact RoutesKept.refl s
  · extract_lets g
    exact RoutesKept.trans (t := setFlow s g) (routesKept_of_regs rfl) (resendFlow_routesKept ..)

theorem rerouteFlows_routesKept (s : State) : RoutesKept s (rerouteFlows s) :=
  routesKept_foldl moveFlow_routesKept _ s

theorem sendPlain_routesKept (s : State) (n : NodeId) (code : Nat) (body : List Byte) :
    RoutesKept s (sendPlain s n code body) := by
  unfold sendPlain
  split
  · exact RoutesKept.refl s
  · exact portSend_routesKept ..

theorem sendHello_routesKept (s : State) (n : NodeId) (ackB : Bool) (nonce echo : List Byte) :
    RoutesKept s (sendHello s n ackB nonce echo) := by
  unfold sendHello
  extract_lets body
  exact (send_routesKept ..).trans (sendPlain_routesKept ..)

theorem setPeer_routesKept (s : State) (n : NodeId) (p : Peer) : RoutesKept s (setPeer s n p) := routesKept_of_regs rfl

theorem joinPeer_routesKept (s : State) (n : NodeId) : RoutesKept s (joinPeer s n) := by
  unfold joinPeer
  extract_lets nonce t
  exact RoutesKept.trans (t := tickFree s) (routesKept_of_regs rfl)
    ((setPeer_routesKept ..).trans (sendHello_routesKept ..))

theorem joinRouted_routesKept (s : State) : RoutesKept s (joinRouted s) := by
  refine routesKept_foldl (fun s n => ?_) _ s
  split
  · exact joinPeer_routesKept s n
  · exact RoutesKept.refl s

theorem setFe_routesKept (s : State) (f : FeId) (u : FetchUnit) : RoutesKept s (setFe s f u) := routesKept_of_regs rfl

theorem closePeer_routesKept (s : State) (n : NodeId) : RoutesKept s (closePeer s n) := by
  unfold closePeer
  extract_lets t
  have ht : RoutesKept s t := routesKept_foldl (fun _ _ => setFe_routesKept ..) _ s
  clear_value t
  exact ht.trans (routesKept_of_regs rfl)

theorem loseContact_routesKept (s : State) (n : NodeId) : RoutesKept s (loseContact s n) := routesKept_of_regs rfl

theorem peerDownTo_routesKept (s : State) (n : NodeId) (st : PeerState) : RoutesKept s (peerDownTo s n st) := by
  unfold peerDownTo
  extract_lets p
  exact (setPeer_routesKept ..).trans ((regBump_routesKept _ 0 1 (by decide)).trans
    ((loseContact_routesKept ..).trans (closePeer_routesKept ..)))

/-- A route register holds what ROUTE_WRITE writes, whatever becomes of flows and peers (R317). -/
theorem exec_routeWrite_spec (s : State) (i : Fin 1024) (v : Reg64) (ha : alive s = true) :
    ∃ n, exec (.routeWrite i v) s = .next n ∧ regGet n (routeOff (4 * i.val)) = v.toNat := by
  have hi : 4 * i.val < 4096 := by omega
  rw [exec, execRouteWrite, if_neg (by simp [ha])]
  extract_lets before s1 s2
  have h2 : RoutesKept s1 s2 := routesKept_foldl (fun t j => by
    dsimp only
    split
    · exact peerDownTo_routesKept ..
    · exact RoutesKept.refl t) _ _
  have h : RoutesKept s1 (joinRouted (rerouteFlows s2)) :=
    h2.trans ((rerouteFlows_routesKept s2).trans (joinRouted_routesKept _))
  refine ⟨_, rfl, ?_⟩
  rw [h.get _ hi, regGet_regSet, if_pos rfl, Nat.mod_eq_of_lt v.isLt]

/-! ### REGION_WRITE -/

theorem rgnOff_eq (i r : Nat) : rgnOff i r = 0xE04000 + 32 * i + 8 * r := by
  unfold rgnOff rlReg; omega

theorem regReset_rgnOff {i r : Nat} (hi : i < 512) (hr : r < 4) : regReset (rgnOff i r) = 0 := by
  have hblock : blockOf (rgnOff i r) = some (7, 0, 0x4000 + 32 * i + 8 * r) := by
    rw [rgnOff_eq, blockOf, if_neg (by omega), if_neg (by omega), if_neg (by omega), if_neg (by omega), if_neg (by omega),
      if_neg (by omega), if_neg (by omega), if_pos (by omega)]
    congr 3 <;> omega
  unfold regReset
  rw [hblock]
  exact if_neg (by omega)

theorem mem_of_lookupN {α : Type} {k : Nat} {v : α} : ∀ {l : List (Nat × α)}, lookupN k l = some v → (k, v) ∈ l
  | [], h => by simp [lookupN] at h
  | (x, y) :: l, h => by
    unfold lookupN at h
    split at h
    · simp_all
    · exact List.mem_cons_of_mem _ (mem_of_lookupN h)

/-- A valid region has its flags among the listed registers. -/
theorem mem_regs_of_rgnValid {s : State} {j : Nat} (hj : j < 512) (h : rgnValid s j = true) :
    ∃ v, (rgnOff j 3, v) ∈ s.regs := by
  unfold rgnValid rgn regGet at h
  split at h
  · exact ⟨_, mem_of_lookupN ‹_›⟩
  · rw [regReset_rgnOff hj (by decide)] at h
    simp [bitAt] at h

/-- Whether region `j` overlaps region `i`. -/
def rgnMeets (s : State) (i j : Nat) : Prop :=
  j ≠ i ∧ rgnValid s j = true ∧ rgnBase s i < rgnBase s j + rgnSize s j ∧ rgnBase s j < rgnBase s i + rgnSize s i

/-- The region that a listed register belongs to. -/
def regRgn (o : Nat) : Nat := (o - rgnOff 0 0) / 32

theorem regRgn_lt {o : Nat} (h0 : rgnOff 0 0 ≤ o) (h1 : o < rgnOff 512 0) : regRgn o < 512 := by
  rw [rgnOff_eq] at h0 h1
  rw [regRgn, rgnOff_eq]
  omega

theorem regRgn_rgnOff (j : Nat) : regRgn (rgnOff j 3) = j := by
  rw [regRgn, rgnOff_eq, rgnOff_eq]
  omega

theorem rgnOff_range {j : Nat} (h : j < 512) : rgnOff 0 0 ≤ rgnOff j 3 ∧ rgnOff j 3 < rgnOff 512 0 := by
  rw [rgnOff_eq, rgnOff_eq, rgnOff_eq]
  omega

/-- What `rgnOverlaps` asks of region `j`. -/
theorem rgnMeets_iff (s : State) (i j : Nat) :
    (j != i && rgnValid s j && decide (rgnBase s i < rgnBase s j + rgnSize s j)
      && decide (rgnBase s j < rgnBase s i + rgnSize s i)) = true ↔ rgnMeets s i j := by
  have h : rgnMeets s i j ↔ ((j ≠ i ∧ rgnValid s j = true) ∧ rgnBase s i < rgnBase s j + rgnSize s j)
      ∧ rgnBase s j < rgnBase s i + rgnSize s i := by
    rw [and_assoc, and_assoc, rgnMeets]
  rw [h, Bool.and_eq_true, Bool.and_eq_true, Bool.and_eq_true, bne_iff_ne, decide_eq_true_iff, decide_eq_true_iff]

theorem rgnOverlaps_iff_listed (s : State) (i : Nat) :
    rgnOverlaps s i = true ↔ ∃ e ∈ s.regs, (rgnOff 0 0 ≤ e.1 ∧ e.1 < rgnOff 512 0) ∧ rgnMeets s i (regRgn e.1) := by
  unfold rgnOverlaps
  simp only [List.any_eq_true, List.mem_map, List.mem_filter, rgnMeets_iff]
  constructor
  · rintro ⟨_, ⟨e, ⟨hmem, h⟩, rfl⟩, hm⟩
    exact ⟨e, hmem, by simpa using h, hm⟩
  · rintro ⟨e, hmem, h, hm⟩
    exact ⟨_, ⟨e, ⟨hmem, by simpa using h⟩, rfl⟩, hm⟩

theorem rgnOverlaps_iff (s : State) (i : Nat) : rgnOverlaps s i = true ↔ ∃ j, j < 512 ∧ rgnMeets s i j := by
  rw [rgnOverlaps_iff_listed]
  constructor
  · rintro ⟨e, -, ⟨h0, h1⟩, hm⟩
    exact ⟨_, regRgn_lt h0 h1, hm⟩
  · rintro ⟨j, hj, hm⟩
    obtain ⟨v, hmem⟩ := mem_regs_of_rgnValid hj hm.2.1
    exact ⟨_, hmem, rgnOff_range hj, (regRgn_rgnOff j).symm ▸ hm⟩

/-- Only the other entries, and the base and size of its own, decide whether a region overlaps. -/
theorem rgnOverlaps_congr {s t : State} {i : Nat}
    (h : ∀ j r, j < 512 → r < 4 → (j = i → r ≠ 3) → regGet t (rgnOff j r) = regGet s (rgnOff j r))
    (hi : i < 512) (ho : rgnOverlaps s i = true) :
    rgnOverlaps t i = true := by
  obtain ⟨j, hj, hne, hv, h2, h3⟩ := (rgnOverlaps_iff s i).1 ho
  have hbase : ∀ k, k < 512 → rgnBase t k = rgnBase s k := fun k hk => by
    rw [rgnBase, rgn, h k 0 hk (by decide) (by simp), rgnBase, rgn]
  have hsize : ∀ k, k < 512 → rgnSize t k = rgnSize s k := fun k hk => by
    rw [rgnSize, rgn, h k 1 hk (by decide) (by simp), rgnSize, rgn]
  refine (rgnOverlaps_iff t i).2 ⟨j, hj, hne, ?_, ?_, ?_⟩
  · rw [rgnValid, rgn, h j 3 hj (by decide) (fun e => absurd e hne)]
    exact hv
  · rw [hbase i hi, hbase j hj, hsize j hj]
    exact h2
  · rw [hbase i hi, hbase j hj, hsize i hi]
    exact h3

/-- The answer to a write that makes two valid entries overlap: the entry is invalid and RGN_ERR set (R326). -/
def rgnRefused (s : State) (i : Nat) : State := regFlag (regClearBit s (rgnOff i 3) 0) (rlReg 0 0x1030) 1

theorem regGet_rgnRefused (s : State) {i j r : Nat} (hj : j < 512) (hr : r < 4) (h : j = i → r ≠ 3) :
    regGet (rgnRefused s i) (rgnOff j r) = regGet s (rgnOff j r) := by
  unfold rgnRefused regFlag regClearBit
  rw [regGet_regPut_ne, regGet_regPut_ne]
  · rw [rgnOff_eq, rgnOff_eq]; omega
  · rw [rgnOff_eq, rlReg]; omega

theorem rgnValid_rgnRefused (s : State) (i : Nat) : rgnValid (rgnRefused s i) i = false := by
  unfold rgnValid rgn rgnRefused regFlag regClearBit
  rw [regGet_regPut_ne _ _ _ _ (by rw [rgnOff_eq, rlReg]; omega), regPut, regGet_regSet, if_pos rfl,
    bitAt, Nat.testBit_mod_two_pow, testBit_putBits]
  simp

theorem exec_regionWrite_spec (s : State) (i : Fin 512) (r : Fin 4) (v : Reg64) (ha : alive s = true) :
    ∃ n, exec (.regionWrite i r v) s = .next n ∧ n = { s with regs := n.regs }
        ∧ (rgnOverlaps n i.val = true → rgnValid n i.val = false)
        ∧ (rgnOverlaps n i.val = false → regGet n (rgnOff i.val r.val)
            = accessWrite (regAccess (rgnOff i.val r.val)) (regGet s (rgnOff i.val r.val)) v.toNat % 2 ^ 64) := by
  rw [exec, execRegionWrite, if_neg (by simp [ha])]
  extract_lets o t
  split
  case isTrue h =>
    obtain ⟨hv, ho⟩ := h
    have hover : rgnOverlaps (rgnRefused t i) i = true :=
      rgnOverlaps_congr (fun _ _ hj hr => regGet_rgnRefused t hj hr) i.isLt ho
    exact ⟨rgnRefused t i, rfl, rfl, fun _ => rgnValid_rgnRefused t i, fun hno => absurd hover (by simp [hno])⟩
  case isFalse h =>
    refine ⟨t, rfl, rfl, fun ho => ?_, fun _ => ?_⟩
    · cases hv : rgnValid t i
      · rfl
      · exact absurd ⟨hv, ho⟩ h
    · rw [regGet_regSet, if_pos rfl]

/-! ### PWR_CFG -/

/-- PWR_CFG as stored has SLUICE_LIMIT within 1 to 8 and DROOP_MV at least 12 (R424). -/
theorem bits_pwrCfgStored (old new : Nat) :
    1 ≤ bits (pwrCfgStored old new) 3 0 ∧ bits (pwrCfgStored old new) 3 0 ≤ 8
      ∧ 12 ≤ bits (pwrCfgStored old new) 15 8 := by
  unfold pwrCfgStored
  extract_lets v w
  have hlimit : bits (putBits w 3 0 (Nat.max 1 (Nat.min 8 (bits w 3 0)))) 3 0 = max 1 (min 8 (bits w 3 0)) :=
    (bits_putBits ..).trans (Nat.mod_eq_of_lt (by show max 1 (min 8 (bits w 3 0)) < 16; omega))
  have hdroop : bits (putBits w 3 0 (Nat.max 1 (Nat.min 8 (bits w 3 0)))) 15 8 = max 12 (bits v 15 8) := by
    rw [bits_putBits_of_disjoint _ _ _ _ _ _ (by decide)]
    exact (bits_putBits ..).trans (Nat.mod_eq_of_lt (Nat.max_lt.2 ⟨by decide, bits_lt v 15 8⟩))
  rw [hlimit, hdroop]
  omega

theorem setVdd_regs (s : State) (mv : Nat) : (setVdd s mv).regs = s.regs := by
  unfold setVdd
  split <;> rfl

theorem setVddOp_regs (s : State) (op : Nat) : (setVddOp s op).regs = s.regs := setVdd_regs _ _

theorem dropTrim_regs (s : State) : (dropTrim s).regs = s.regs := by
  unfold dropTrim
  dsimp only
  split
  · rfl
  · split
    · rfl
    · exact setVddOp_regs _ _

/-- A cap change sets no power register but PWR_STATUS.CAP_FLOOR (R404). -/
theorem regGet_capChange (s : State) {o : Nat} (h : o ≠ pwrReg 0x010) : regGet (capChange s) o = regGet s o := by
  unfold capChange pendPair
  extract_lets window c t
  refine Eq.trans (b := regGet t o) (regGet_congr rfl o) ?_
  unfold t floorFlag
  split
  · exact regGet_regPut_ne s _ _ _ h
  · rfl

theorem exec_pwrCfgWrite_spec (s : State) (v : Reg64) (ha : alive s = true) :
    ∃ n, exec (.pwrCfgWrite v) s = .next n
        ∧ regGet n (pwrReg 0x008) = pwrCfgStored (regGet s (pwrReg 0x008)) v.toNat % 2 ^ 64
        ∧ 1 ≤ regField n (pwrReg 0x008) 3 0 ∧ regField n (pwrReg 0x008) 3 0 ≤ 8 ∧ 12 ≤ regField n (pwrReg 0x008) 15 8 := by
  have hbits := bits_pwrCfgStored (regGet s (pwrReg 0x008)) v.toNat
  have hrun : ∃ n, exec (.pwrCfgWrite v) s = .next n
      ∧ regGet n (pwrReg 0x008) = pwrCfgStored (regGet s (pwrReg 0x008)) v.toNat % 2 ^ 64 := by
    rw [exec, execPwrCfgWrite, if_neg (by simp [ha])]
    extract_lets old new s1 s2
    have h1 : regGet s1 (pwrReg 0x008) = new % 2 ^ 64 := by rw [regGet_regSet, if_pos rfl]
    have h2 : regGet s2 (pwrReg 0x008) = new % 2 ^ 64 := by
      unfold s2
      split
      · exact h1
      · rw [regGet_congr (dropTrim_regs s1), h1]
    split
    · exact ⟨_, rfl, (regGet_capChange s2 (by decide)).trans h2⟩
    · exact ⟨_, rfl, h2⟩
  obtain ⟨n, hn, hreg⟩ := hrun
  refine ⟨n, hn, hreg, ?_⟩
  rw [regField, regField, hreg, bits_mod_two_pow _ _ _ _ (by decide), bits_mod_two_pow _ _ _ _ (by decide)]
  exact hbits

/-! ### FLT_INJECT -/

theorem fltInject_access {i : Nat} (hi : i < 64) (h : i < 3 ∨ 40 ≤ i) :
    (mask 63 40 + mask 2 0).testBit i = true := by
  have hall : ∀ i < 64, i < 3 ∨ 40 ≤ i → (mask 63 40 + mask 2 0).testBit i = true := by decide
  exact hall i hi h

/-- What FLT_INJECT stores of a write: every writable field but a SOURCE that is not accepted (notes/assumptions/83.md). -/
def fltInjectStored (s : State) (v : Nat) : Nat :=
  let src := if [2, 3, 5, 6, 7].contains (bits v 47 40) then bits v 47 40 else regField s (fltReg 0x080) 47 40
  accessWrite (regAccess (fltReg 0x080)) (regGet s (fltReg 0x080)) (putBits v 47 40 src)

theorem exec_fltInject (s : State) (v : Reg64) (ha : alive s = true) :
    exec (.fltInject v) s = .next (regSet s (fltReg 0x080) (fltInjectStored s v.toNat)) := by
  rw [exec, execFltInject]
  simp only [ha]
  rfl

theorem exec_fltInject_spec (s : State) (v : Reg64) (ha : alive s = true) :
    ∃ n, exec (.fltInject v) s = .next n ∧ n = { s with regs := n.regs } ∧ regsBut [fltReg 0x080] s n
        ∧ ([2, 3, 5, 6, 7].contains (bits v.toNat 47 40) = true →
            regGet n (fltReg 0x080) = accessWrite (regAccess (fltReg 0x080)) (regGet s (fltReg 0x080)) v.toNat % 2 ^ 64)
        ∧ ([2, 3, 5, 6, 7].contains (bits v.toNat 47 40) = false →
            regField n (fltReg 0x080) 47 40 = regField s (fltReg 0x080) 47 40)
        ∧ bitAt (regGet n (fltReg 0x080)) 0 = bitAt v.toNat 0 ∧ regField n (fltReg 0x080) 2 1 = bits v.toNat 2 1 := by
  have hacc : regAccess (fltReg 0x080) = { rw := mask 63 40 + mask 2 0 } := rfl
  refine ⟨_, exec_fltInject s v ha, rfl, regsBut_regSet s _ _, fun hok => ?_, fun hbad => ?_, ?_, ?_⟩
  · rw [regGet_regSet, if_pos rfl, fltInjectStored, if_pos hok, putBits_bits]
  · rw [regField_regSet _ _ _ _ _ (by decide), fltInjectStored, hbad, hacc,
      bits_accessWrite_rw _ _ _ _ _ (by decide) (fun i h1 h2 => fltInject_access (by omega) (by omega)), bits_putBits]
    exact Nat.mod_eq_of_lt (bits_lt _ 47 40)
  · rw [regGet_regSet, if_pos rfl, bitAt, bitAt, Nat.testBit_mod_two_pow, fltInjectStored, hacc, testBit_accessWrite_rw,
      fltInject_access (by decide) (by decide), testBit_putBits]
    simp
  · rw [regField_regSet _ _ _ _ _ (by decide), fltInjectStored, hacc,
      bits_accessWrite_rw _ _ _ _ _ (by decide) (fun i h1 h2 => fltInject_access (by omega) (by omega)),
      bits_putBits_of_disjoint _ _ _ _ _ _ (by decide)]

/-! ### REGISTER_WRITE over BAR2 -/

/-- The state of an access over BAR2 that is no second half of a read (R491). -/
def bar2Fresh (s : State) : State := { s with bar2Last := none }

/-- No register shows the shadow of BAR2's read path. -/
theorem regRead_bar2Fresh (s : State) (o : Nat) : regRead (bar2Fresh s) o = regRead s o := rfl

theorem exec_bar2 (s : State) (o k : Nat) (v : Reg64) (h : bar2Open s o = true) :
    exec (.registerWrite (.bar2 o) k v) s = .next (bar2Write s o k v.toNat)
      ∧ exec (.registerWrite (.bar2Read o) k v) s = .next (bar2Fetch s o k) := ⟨if_pos h, if_pos h⟩

theorem sizeOk_whole {o : Nat} (h : o % 8 = 0) : sizeOk o 8 = true := by simp [sizeOk, h]

theorem sizeOk_half {o : Nat} (h : o % 4 = 0) : sizeOk o 4 = true := by simp [sizeOk, h]

/-- An access of a size or alignment that R491 forbids. -/
theorem bar2_badSize (s : State) {o k : Nat} (v : Nat) (h : sizeOk o k = false) :
    bar2Write s o k v = regFlag (bar2Fresh s) (glbReg 0x008) 1
      ∧ bar2Fetch s o k = { regFlag (bar2Fresh s) (glbReg 0x008) 1 with regData := 0 } := by
  have hbad : (!sizeOk o k) = true := by rw [h]; rfl
  exact ⟨if_pos hbad, if_pos hbad⟩

/-- An access outside every block (R490). -/
theorem bar2_noBlock (s : State) {o k : Nat} (v : Nat) (hs : sizeOk o k = true) (h : blockOf o = none) :
    bar2Write s o k v = regFlag (bar2Fresh s) (glbReg 0x008) 0
      ∧ bar2Fetch s o k = { regFlag (bar2Fresh s) (glbReg 0x008) 0 with regData := 0 } := by
  have hsize : ¬ (!sizeOk o k) = true := by rw [hs]; decide
  have hblock : (blockOf o).isNone = true := by rw [h]; rfl
  exact ⟨(if_neg hsize).trans (if_pos hblock), (if_neg hsize).trans (if_pos hblock)⟩

section
variable {s : State} {o : Nat} (hblock : (blockOf o).isSome = true)
include hblock

theorem bar2Write_mapped (k v : Nat) (hs : sizeOk o k = true) :
    bar2Write s o k v = if k = 8 then regWrite (bar2Fresh s) o v .whole
      else if o % 8 = 0 then regWrite (bar2Fresh s) o v .low
      else regWrite (bar2Fresh s) (o - 4) (v * 2 ^ 32) .high := by
  have hsize : ¬ (!sizeOk o k) = true := by rw [hs]; decide
  have hnone : ¬ (blockOf o).isNone = true := by
    rw [Option.isNone_iff_eq_none]
    intro h
    simp [h] at hblock
  exact (if_neg hsize).trans (if_neg hnone)

theorem bar2Fetch_aligned (k : Nat) (ho : o % 8 = 0) (hs : sizeOk o k = true) :
    bar2Fetch s o k = if k = 8 then { bar2Fresh s with regData := reg (regRead s o) }
      else { bar2Fresh s with
        regData := reg (regRead s o % 2 ^ 32), bar2Last := some o, bar2Shadow := BitVec.ofNat 32 (regRead s o / 2 ^ 32) } := by
  have hsize : ¬ (!sizeOk o k) = true := by rw [hs]; decide
  have hnone : ¬ (blockOf o).isNone = true := by
    rw [Option.isNone_iff_eq_none]
    intro h
    simp [h] at hblock
  refine ((if_neg hsize).trans (if_neg hnone)).trans ?_
  rw [if_pos ho]
  rfl

end

/-- Registers of ARRAY, FETCH and BIST whose write does nothing beside (R15). -/
theorem regWrite_plain (s : State) {o b a r : Nat} (v : Nat) (p : RegPart) (h : blockOf o = some (b, a, r))
    (hb : (b = 2 ∧ r ≠ 0x008) ∨ (b = 3 ∧ r ≠ 0x3000) ∨ (b = 9 ∧ r ≠ 0x008)) :
    regWrite s o v p = plainWrite s o (mergePart s o v p) := by
  unfold regWrite
  rw [h]
  rcases hb with ⟨rfl, hr⟩ | ⟨rfl, hr⟩ | ⟨rfl, hr⟩
  · exact if_neg hr
  · exact if_neg hr
  · exact if_neg hr

theorem plainWrite_eq (s : State) {o : Nat} (v : Nat) (h : regAccess o ≠ {}) :
    plainWrite s o v = regSet s o (accessWrite (regAccess o) (regGet s o) v) := if_neg h

/-- A write of a register under its access codes alone, over BAR2. -/
theorem bar2_plainWrite_spec (s : State) {o b a r : Nat} (v : Nat) (h : blockOf o = some (b, a, r))
    (hb : (b = 2 ∧ r ≠ 0x008) ∨ (b = 3 ∧ r ≠ 0x3000) ∨ (b = 9 ∧ r ≠ 0x008)) (hacc : regAccess o ≠ {}) :
    regWrite (bar2Fresh s) o v .whole = { bar2Fresh s with regs := (regWrite (bar2Fresh s) o v .whole).regs }
      ∧ regsBut [o] s (regWrite (bar2Fresh s) o v .whole)
      ∧ regGet (regWrite (bar2Fresh s) o v .whole) o
        = accessWrite (regAccess o) (regGet s o) (mergePart (bar2Fresh s) o v .whole) % 2 ^ 64 := by
  rw [regWrite_plain _ _ _ h hb, plainWrite_eq _ _ hacc]
  refine ⟨rfl, fun x hx => regsBut_regSet (bar2Fresh s) _ _ x hx, ?_⟩
  rw [regGet_regSet, if_pos rfl]
  rfl

theorem exec_bar2_spec (s : State) (v : Reg64) (o : Nat) (hopen : bar2Open s o = true) :
    let w := { s with bar2Last := none }
    (∀ k, sizeOk o k = false → exec (.registerWrite (.bar2 o) k v) s = .next (regFlag w (glbReg 0x008) 1)
      ∧ exec (.registerWrite (.bar2Read o) k v) s = .next { regFlag w (glbReg 0x008) 1 with regData := 0 })
    ∧ (∀ k, sizeOk o k = true → blockOf o = none →
        exec (.registerWrite (.bar2 o) k v) s = .next (regFlag w (glbReg 0x008) 0)
      ∧ exec (.registerWrite (.bar2Read o) k v) s = .next { regFlag w (glbReg 0x008) 0 with regData := 0 })
    ∧ ((blockOf o).isSome = true → o % 8 = 0 →
        exec (.registerWrite (.bar2 o) 8 v) s = .next (regWrite w o v.toNat .whole)
        ∧ exec (.registerWrite (.bar2 o) 4 v) s = .next (regWrite w o v.toNat .low)
        ∧ exec (.registerWrite (.bar2Read o) 8 v) s = .next { w with regData := reg (regRead s o) }
        ∧ exec (.registerWrite (.bar2Read o) 4 v) s = .next { w with
            regData := reg (regRead s o % 2 ^ 32), bar2Last := some o, bar2Shadow := BitVec.ofNat 32 (regRead s o / 2 ^ 32) }
        ∧ ∀ b a r, blockOf o = some (b, a, r) →
            ((b = 2 ∧ r ≠ 0x008) ∨ (b = 3 ∧ r ≠ 0x3000) ∨ (b = 9 ∧ r ≠ 0x008)) →
            regAccess o ≠ {} →
            ∃ n, exec (.registerWrite (.bar2 o) 8 v) s = .next n ∧ n = { w with regs := n.regs }
              ∧ regsBut [o] s n
              ∧ regGet n o = accessWrite (regAccess o) (regGet s o) (mergePart w o v.toNat .whole) % 2 ^ 64)
    ∧ ((blockOf o).isSome = true → o % 8 = 4 →
        exec (.registerWrite (.bar2 o) 4 v) s = .next (regWrite w (o - 4) (v.toNat * 2 ^ 32) .high)) := by
  intro w
  have hwrite : ∀ k n, bar2Write s o k v.toNat = n → exec (.registerWrite (.bar2 o) k v) s = .next n := fun k n h =>
    (exec_bar2 s o k v hopen).1.trans (congrArg _ h)
  have hread : ∀ k n, bar2Fetch s o k = n → exec (.registerWrite (.bar2Read o) k v) s = .next n := fun k n h =>
    (exec_bar2 s o k v hopen).2.trans (congrArg _ h)
  refine ⟨fun k hk => ?_, fun k hk hnone => ?_, fun hblock ho => ?_, fun hblock ho => ?_⟩
  · obtain ⟨hw, hr⟩ := bar2_badSize s v.toNat hk
    exact ⟨hwrite k _ hw, hread k _ hr⟩
  · obtain ⟨hw, hr⟩ := bar2_noBlock s v.toNat hk hnone
    exact ⟨hwrite k _ hw, hread k _ hr⟩
  · have h8 := sizeOk_whole ho
    have h4 : sizeOk o 4 = true := sizeOk_half (by omega)
    have hwhole := hwrite 8 _ ((bar2Write_mapped hblock 8 v.toNat h8).trans (if_pos rfl))
    refine ⟨hwhole, hwrite 4 _ ?_, hread 8 _ ?_, hread 4 _ ?_, fun b a r hb hplain hacc => ?_⟩
    · exact (bar2Write_mapped hblock 4 _ h4).trans ((if_neg (by decide)).trans (if_pos ho))
    · exact (bar2Fetch_aligned hblock 8 ho h8).trans (if_pos rfl)
    · exact (bar2Fetch_aligned hblock 4 ho h4).trans (if_neg (by decide))
    · exact ⟨_, hwhole, bar2_plainWrite_spec s _ hb hplain hacc⟩
  · refine hwrite 4 _ ((bar2Write_mapped hblock 4 _ (sizeOk_half (by omega))).trans ?_)
    exact (if_neg (by decide)).trans (if_neg (by omega))

/-! ### FUR_NUM_SET -/

theorem exec_furNumSet (s : State) (v : Reg64) (h : hostUp s = true) :
    exec (.furNumSet v) s = .next { s with tick := { s.tick with numSet := some v.toNat } } := by
  rw [exec, execFurNumSet, if_neg (by simp [h])]

/-! ### Doorbell pages in BAR0 -/

/-- The offset in BAR0 of doorbell slot `k` of LD `t`, as a function sees it: in the LD's own page in MLD mode,
in page `t` of the SLD function (R358). -/
def BellPlace (fn : Mbox) (t : LdId) (k : Fin 8) (b : Nat) : Prop :=
  (fn = .tenant t ∧ b = 0x20000 + 0x20 * k.val) ∨ (fn = .owner ∧ b = 0x20000 + 0x1000 * t.val + 0x20 * k.val)

theorem BellPlace.range {fn : Mbox} {t : LdId} {k : Fin 8} {b : Nat} (h : BellPlace fn t k b) {o : Nat} (ho : o < 0x20) :
    0x20000 ≤ b + o ∧ b + o < 0x30000 := by
  rcases h with ⟨-, rfl⟩ | ⟨-, rfl⟩ <;> omega

theorem slot_ofNat (k : Fin 8) (n : Nat) {o : Nat} (ho : o < 0x20) :
    Fin.ofNat 8 ((0x1000 * n + 0x20 * k.val + o) % 0x1000 / 0x20) = k :=
  Fin.ext (by simp only [Fin.val_ofNat]; omega)

theorem ldId_page (t : LdId) {x : Nat} (hx : x < 0x1000) : ldId ((0x1000 * t.val + x) / 0x1000) = t :=
  Fin.ext (by simp only [ldId, Fin.val_ofNat]; omega)

/-- In MLD mode a function has one page, the LD's own. -/
theorem bellAt_tenant (t : LdId) (k : Fin 8) {o : Nat} (ho : o < 0x20) :
    bellAt (.tenant t) (0x20 * k.val + o) = some (t, k, o) := by
  have hk := k.isLt
  have hslot := slot_ofNat k 0 ho
  rw [Nat.mul_zero, Nat.zero_add] at hslot
  have hpage : 0x20 * k.val + o < 0x1000 := by omega
  have hin : (0x20 * k.val + o) % 0x1000 < 0x100 := by omega
  have hreg : (0x20 * k.val + o) % 0x20 = o := by omega
  simp only [bellAt, hpage, if_true, hin, hslot, hreg]

/-- The SLD function has a page for each LD. -/
theorem bellAt_owner (t : LdId) (k : Fin 8) {o : Nat} (ho : o < 0x20) :
    bellAt .owner (0x1000 * t.val + 0x20 * k.val + o) = some (t, k, o) := by
  have hk := k.isLt
  have hslot := slot_ofNat k t.val ho
  have hpage := ldId_page t (x := 0x20 * k.val + o) (by omega)
  rw [← Nat.add_assoc] at hpage
  have hin : (0x1000 * t.val + 0x20 * k.val + o) % 0x1000 < 0x100 := by omega
  have hreg : (0x1000 * t.val + 0x20 * k.val + o) % 0x20 = o := by omega
  simp only [bellAt, hpage, if_true, hin, hslot, hreg]

theorem BellPlace.bellAt_eq {fn : Mbox} {t : LdId} {k : Fin 8} {b : Nat} (h : BellPlace fn t k b) {o : Nat}
    (ho : o < 0x20) : bellAt fn (b + o - 0x20000) = some (t, k, o) := by
  rcases h with ⟨rfl, rfl⟩ | ⟨rfl, rfl⟩
  · rw [Nat.add_assoc, Nat.add_sub_cancel_left, bellAt_tenant t k ho]
  · rw [Nat.add_assoc, Nat.add_assoc, Nat.add_sub_cancel_left, ← Nat.add_assoc, bellAt_owner t k ho]

section
variable {s : State} {fn : Mbox} (hup : hostUp s = true) (hbars : hasBars s fn = true)
include hup hbars

theorem exec_bar0 (o z : Nat) (v : Reg64) : exec (.registerWrite (.bar0 fn o) z v) s = .next (bar0Write s fn o z v) :=
  if_pos (by rw [hup, hbars]; rfl)

theorem exec_bar0Read (o z : Nat) (v : Reg64) :
    exec (.registerWrite (.bar0Read fn o) z v) s = .next { s with regData := reg (bar0Fetch s fn o z) } :=
  if_pos (by rw [hup, hbars]; rfl)

end

theorem bar0Write_bell (s : State) {fn : Mbox} {t : LdId} {k : Fin 8} {b : Nat} (h : BellPlace fn t k b) {o : Nat}
    (ho : o < 0x20) (z : Nat) (v : Reg64) : bar0Write s fn (b + o) z v = bellWrite s t k o z v := by
  obtain ⟨hlo, hhi⟩ := h.range ho
  rw [bar0Write]
  rw [if_neg (by omega), if_neg (by omega), if_pos hhi, h.bellAt_eq ho]

theorem bar0Fetch_bell (s : State) {fn : Mbox} {t : LdId} {k : Fin 8} {b : Nat} (h : BellPlace fn t k b) {o : Nat}
    (ho : o < 0x20) (z : Nat) : bar0Fetch s fn (b + o) z = bellRead s t k o := by
  obtain ⟨hlo, hhi⟩ := h.range ho
  rw [bar0Fetch, if_neg (by omega), if_neg (by omega), if_pos hhi, h.bellAt_eq ho]

/-- A register whose write has a row of its own acts as that command. -/
theorem next_afterCmd (s : State) (c : Instr) : .next (afterCmd s (exec c s)) = exec c s := by
  obtain ⟨n, hn, -⟩ := exec_completes c s
  rw [hn]
  rfl

theorem exec_doorbell_spec (s : State) (v : Reg64) (t : LdId) (k : Fin 8) (fn : Mbox) (b z : Nat) (hup : hostUp s = true)
    (hbars : hasBars s fn = true) (hz : z = 4 ∨ z = 8) (h : BellPlace fn t k b) :
    exec (.registerWrite (.bar0 fn b) z v) s = exec (.sqTail t k v) s
      ∧ exec (.registerWrite (.bar0 fn (b + 8)) z v) s = exec (.cqHead t k v) s
      ∧ (bitAt v.toNat 1 = true → exec (.registerWrite (.bar0 fn (b + 0x18)) z v) s
          = .next (setTen s t { ten s t with dbErr := (ten s t).dbErr.set k.val false }))
      ∧ ∀ o, o < 0x20 →
        exec (.registerWrite (.bar0Read fn (b + o)) z v) s = .next { s with regData := reg (bellRead s t k o) } := by
  have hsize : ¬ (z ≠ 4 ∧ z ≠ 8) := by omega
  have hwrite : ∀ o, o < 0x20 → exec (.registerWrite (.bar0 fn (b + o)) z v) s
      = .next (bellWrite s t k o z v) := fun o ho => by
    rw [exec_bar0 hup hbars, bar0Write_bell s h ho]
  refine ⟨?_, ?_, fun hv => ?_, fun o ho => ?_⟩
  · rw [← next_afterCmd s (.sqTail t k v)]
    exact (hwrite 0 (by decide)).trans (congrArg _ ((if_neg hsize).trans (if_pos rfl)))
  · rw [← next_afterCmd s (.cqHead t k v)]
    exact (hwrite 8 (by decide)).trans (congrArg _ ((if_neg hsize).trans ((if_neg (by decide)).trans (if_pos rfl))))
  · exact (hwrite 0x18 (by decide)).trans (congrArg _ ((if_neg hsize).trans ((if_neg (by decide)).trans
      ((if_neg (by decide)).trans (if_pos ⟨rfl, hv⟩)))))
  · rw [exec_bar0Read hup hbars, bar0Fetch_bell s h ho]

/-! ### MSI-X and the mailbox doorbell in BAR0 -/

theorem bitAt_mod_word (v : Nat) : bitAt (v % 2 ^ 32) 0 = bitAt v 0 := by
  rw [bitAt, bitAt, Nat.testBit_mod_two_pow]
  simp

theorem bar0Write_msix (s : State) (fn : Mbox) {o : Nat} (v : Reg64) (h0 : 0x30000 ≤ o) (h1 : o < 0x31000) :
    bar0Write s fn o 4 v = msixWrite s fn (o - 0x30000) (v.toNat % 2 ^ 32) := by
  rw [bar0Write]
  rw [if_neg (by omega), if_neg (by omega), if_neg (by omega), if_pos h1]
  exact if_neg (by decide)

theorem bar0Write_devReg (s : State) (fn : Mbox) {o : Nat} (v : Reg64) (h0 : 0x10000 ≤ o) (h1 : o < 0x20000) :
    bar0Write s fn o 4 v = devRegWrite s fn (o - 0x10000) (v.toNat % 2 ^ 32) := by
  rw [bar0Write]
  rw [if_neg (by omega), if_pos h1]
  exact if_neg (by decide)

theorem msixWrite_control (s : State) (fn : Mbox) (k : Fin 64) (hk : k.val < fnVectors fn) (v : Nat) :
    msixWrite s fn (16 * k.val + 12) v
      = flushMsix (setFn s fn { fnOf s fn with
          vectors := (fnOf s fn).vectors.set k { (fnOf s fn).vectors[k] with masked := bitAt v 0 } }) fn := by
  have hi : Fin.ofNat 64 ((16 * k.val + 12) / 16) = k := Fin.ext (by simp only [Fin.val_ofNat]; omega)
  rw [msixWrite, if_neg (by omega)]
  dsimp only
  rw [if_neg (by omega), if_neg (by omega), if_neg (by omega)]
  simp only [hi]

theorem exec_msixMailbox_spec (s : State) (v : Reg64) (fn : Mbox) (hup : hostUp s = true) (hbars : hasBars s fn = true) :
    (∀ k : Fin 64, k.val < fnVectors fn →
      let f := fnOf s fn
      let x := f.vectors[k]
      exec (.registerWrite (.bar0 fn (0x3000C + 16 * k.val)) 4 v) s
        = .next (flushMsix (setFn s fn { f with vectors := f.vectors.set k { x with masked := bitAt v.toNat 0 } }) fn))
    ∧ (boxBusy s fn = false → knownOpcode (fnOf s fn).opcode = false → bitAt v.toNat 0 = true →
      s.fw.running = true → exec (.registerWrite (.bar0 fn 0x10204) 4 v) s = .next (reply s fn 3 [])) := by
  constructor
  · intro k hk f x
    have ho : 0x3000C + 16 * k.val - 0x30000 = 16 * k.val + 12 := by omega
    rw [exec_bar0 hup hbars, bar0Write_msix s fn v (by omega) (by omega), ho, msixWrite_control s fn k hk,
      bitAt_mod_word]
  · intro hfree hop hv hfw
    rw [exec_bar0 hup hbars, bar0Write_devReg s fn v (by decide) (by decide)]
    have hring : ringBox s fn = reply s fn 3 [] := by
      rw [ringBox, if_neg (by simp [hfree, hop]), if_pos hfw]
    have hbell : devRegWrite s fn 0x204 (v.toNat % 2 ^ 32) = ringBox s fn := by
      rw [devRegWrite]
      rw [if_pos rfl, if_pos (by rw [bitAt_mod_word, hv])]
    exact congrArg _ (hbell.trans hring)

/-! ### Configuration space -/

theorem exec_config_spec (s : State) (v : Reg64) (fn : Mbox) (z : Nat) (hup : hostUp s = true) (hfn : fnExists s fn = true) :
    (∀ o w, 0x100 ≤ o → (configDvsecs s fn)[(o - 0x100) / 4]? = some w →
      exec (.registerWrite (.config fn o) z v) s = .next { s with regData := reg w })
    ∧ exec (.registerWrite (.configWrite fn 0x04) z v) s
        = .next (setFn s fn { fnOf s fn with memSpace := bitAt v.toNat 1, busMaster := bitAt v.toNat 2 }) := by
  have hex : ¬ (!fnExists s fn) = true := by rw [hfn]; decide
  constructor
  · intro o w ho hw
    have hread : configRead s fn o = { s with regData := reg w } := by
      rw [configRead, if_neg hex, if_neg (by omega), hw]
    exact (if_pos hup).trans (congrArg _ hread)
  · have hwrite : configWrite s fn 0x04 v.toNat
        = setFn s fn { fnOf s fn with memSpace := bitAt v.toNat 1, busMaster := bitAt v.toNat 2 } := by
      rw [configWrite, if_neg hex, if_pos rfl]
    exact (if_pos hup).trans (congrArg _ hwrite)

/-- Settles O49: each register, page and word by what its own lemma above says of it. -/
theorem registerWrites : Obligations.RegisterWrites := by
  intro s v ha
  exact ⟨fun q => exec_qcfgWrite_spec s q v ha, fun ld => exec_ldRqtWrite_spec s ld v ha,
    fun ld => exec_ldPoolLimitWrite s ld v ha, fun i => exec_routeWrite_spec s i v ha,
    fun i r => exec_regionWrite_spec s i r v ha, exec_pwrCfgWrite_spec s v ha, exec_fltInject_spec s v ha,
    exec_furNumSet s v, exec_bar2_spec s v, exec_doorbell_spec s v, exec_msixMailbox_spec s v, exec_config_spec s v⟩

end Sys2Proof.Machine
end

section
/-! # The canonical forms are kept (O4)

`exec_completes` says of every command that its answer keeps `Inv`, and `idle_keeps` of an idle period; what is left is the
queue, of which `Inv` says nothing. -/

namespace Sys2Proof.Machine

/-- The canonical forms do not speak of the queue. -/
theorem Inv.setPending {s : State} (h : Inv s) (q : List Instr) : Inv { s with pending := q } :=
  ⟨h.mem, h.regs, h.tags, h.rqt, h.part⟩

theorem step_of_idle {s : State} (h : s.pending = []) : step s = .next (idle s) := by
  unfold step; rw [h]

theorem step_of_command {s : State} {c : Instr} {r : List Instr} (h : s.pending = c :: r) :
    step s = exec c { s with pending := r } := by
  unfold step; rw [h]

/-- Settles O4: an idle period changes the time alone, and a command's answer keeps the forms of the state it ran on. -/
theorem stepKeepsInv : Obligations.StepKeepsInv := by
  intro s n hinv hstep
  cases hq : s.pending with
  | nil =>
    rw [step_of_idle hq] at hstep
    injection hstep with hn
    exact hn ▸ (idle_keeps s (Keeps.refl s)).inv hinv
  | cons c r =>
    obtain ⟨m, hm, hkeeps⟩ := exec_completes c { s with pending := r }
    rw [step_of_command hq, hm] at hstep
    injection hstep with hn
    exact hn ▸ hkeeps.inv (hinv.setPending r)

end Sys2Proof.Machine
end

section
/-! # CXL.mem on a window (O48)

What an access of the host does beside moving its bytes: counters of the mere cache and the memory controllers, fault records,
events and messages. None of it reaches the bytes of HBM, a translation, a key or a counter of the LDs. -/

namespace Sys2Proof.Machine

/-! ### The frame of an access -/

/-- The bytes of HBM, what addresses translate to, the keys and the last answer are as they were: of a tenant only the event
log may differ, and every register that `P` names is kept. -/
structure DataKept (P : Nat → Prop) (s n : State) : Prop where
  mem  : n.mem = s.mem
  cxl  : n.cxl = s.cxl
  lps  : n.lps = s.lps
  lds  : ∀ t, ten n t = { ten s t with events := (ten n t).events }
  regs : ∀ o, P o → regGet n o = regGet s o

/-- The counters of the LDs in FAULT (R394): accesses beyond the window and poisoned reads. -/
abbrev LdCounter (o : Nat) : Prop := fltReg 0x100 ≤ o ∧ o < fltReg 0x200

section
variable {P : Nat → Prop}

theorem DataKept.refl (s : State) : DataKept P s s := ⟨rfl, rfl, rfl, fun _ => rfl, fun _ _ => rfl⟩

theorem DataKept.trans {s t u : State} (a : DataKept P s t) (b : DataKept P t u) : DataKept P s u :=
  ⟨b.mem.trans a.mem, b.cxl.trans a.cxl, b.lps.trans a.lps, fun i => (b.lds i).trans (by rw [a.lds i]),
    fun o ho => (b.regs o ho).trans (a.regs o ho)⟩

/-- A change of other fields. -/
theorem DataKept.of_fields {s n : State} (hm : n.mem = s.mem) (hc : n.cxl = s.cxl) (hl : n.lps = s.lps) (ht : n.lds = s.lds)
    (hr : n.regs = s.regs) : DataKept P s n :=
  ⟨hm, hc, hl, fun t => by rw [ten_congr ht t], fun o _ => regGet_congr hr o⟩

theorem dataKept_ite {c : Prop} [Decidable c] {s a b : State} (ha : DataKept P s a) (hb : DataKept P s b) :
    DataKept P s (if c then a else b) := by
  split
  · exact ha
  · exact hb

theorem dataKept_foldl {α : Type} {f : State → α → State} (l : List α) (s : State)
    (hf : ∀ s, ∀ x ∈ l, DataKept P s (f s x)) : DataKept P s (l.foldl f s) := by
  induction l generalizing s with
  | nil => exact DataKept.refl s
  | cons x l ih =>
    exact (hf s x List.mem_cons_self).trans (ih _ fun s y hy => hf s y (List.mem_cons_of_mem x hy))

theorem regSet_dataKept (s : State) {o : Nat} (v : Nat) (h : ¬ P o) : DataKept P s (regSet s o v) :=
  ⟨rfl, rfl, rfl, fun _ => rfl, fun _ hp => regGet_regSet_ne s v fun e => h (e ▸ hp)⟩

theorem regBump_dataKept (s : State) {o : Nat} (n : Nat) (h : ¬ P o) : DataKept P s (regBump s o n) :=
  dataKept_ite (DataKept.refl s) (regSet_dataKept s _ h)

theorem regPut_dataKept (s : State) {o : Nat} (hi lo v : Nat) (h : ¬ P o) : DataKept P s (regPut s o hi lo v) :=
  regSet_dataKept s _ h

/-! ### Messages, events and records -/

theorem send_dataKept (s : State) (m : OutMsg) : DataKept P s (send s m) := .of_fields rfl rfl rfl rfl rfl

theorem raiseIbi_dataKept (s : State) (payload : Nat) : DataKept P s (raiseIbi s payload) := .of_fields rfl rfl rfl rfl rfl

theorem sendMsix_dataKept (s : State) (fn : Mbox) (v : Nat) : DataKept P s (sendMsix s fn v) :=
  dataKept_ite (send_dataKept ..) (.of_fields rfl rfl rfl rfl rfl)

theorem ownerEvent_dataKept (s : State) (bs : List Byte) : DataKept P s (ownerEvent s bs) := by
  unfold ownerEvent
  extract_lets faults t
  have ht : DataKept P s t := .of_fields rfl rfl rfl rfl rfl
  exact dataKept_ite (ht.trans (sendMsix_dataKept ..)) ht

theorem setTen_events_dataKept (s : State) (t : LdId) (es : List (List Byte)) :
    DataKept P s (setTen s t { ten s t with events := es }) := by
  refine ⟨rfl, rfl, rfl, fun i => ?_, fun _ _ => rfl⟩
  by_cases hi : i = t
  · rw [hi, ten_setTen]
  · rw [ten_setTen_ne _ _ _ _ hi]

theorem tenantEvent_dataKept (s : State) (t : LdId) (bs : List Byte) : DataKept P s (tenantEvent s t bs) := by
  unfold tenantEvent
  extract_lets u n
  have hn : DataKept P s n := setTen_events_dataKept ..
  exact dataKept_ite (hn.trans (sendMsix_dataKept ..)) hn

theorem sendMsix_lds (s : State) (fn : Mbox) (v : Nat) : (sendMsix s fn v).lds = s.lds := by
  unfold sendMsix
  split <;> rfl

theorem ownerEvent_lds (s : State) (bs : List Byte) : (ownerEvent s bs).lds = s.lds := by
  simp only [ownerEvent, apply_ite State.lds, sendMsix_lds, ite_self]

/-- An event given to a tenant is the last of its log. -/
theorem tenantEvent_events (s : State) (t : LdId) (bs : List Byte) :
    (ten (tenantEvent s t bs) t).events = (ten s t).events ++ [bs] := by
  unfold tenantEvent
  extract_lets u n
  have hn : (ten n t).events = (ten s t).events ++ [bs] := by rw [ten_setTen]
  split
  · rw [ten_congr (sendMsix_lds ..), hn]
  · exact hn

theorem mediaEvent_dataKept (s : State) (t : LdId) (off : Nat) : DataKept P s (mediaEvent s t off) :=
  (ownerEvent_dataKept ..).trans (tenantEvent_dataKept ..)

/-- A record logged (R373, R392): after its class counter only FLT_LOG_SEQ and the flag of lost records change. -/
theorem logFaultIn_dataKept (s : State) (furrow : Nat) (r : FaultRec) (hseq : ¬ P (fltReg 0x010)) (hlost : ¬ P (fltReg 0x008)) :
    DataKept P (regBump s (fltReg (0x020 + 8 * r.cls)) 1) (logFaultIn s furrow r) := by
  unfold logFaultIn
  extract_lets r' s1 faults full lost log s2 s3 s4 s5 s6
  have h3 : DataKept P s1 s3 := .trans (t := s2) (.of_fields rfl rfl rfl rfl rfl) (regBump_dataKept s2 1 hseq)
  have h4 : DataKept P s3 s4 := dataKept_ite (regPut_dataKept s3 _ _ _ hlost) (.refl s3)
  have h5 : DataKept P s4 s5 := ownerEvent_dataKept ..
  have h6 : DataKept P s5 s6 := dataKept_ite (raiseIbi_dataKept ..) (.refl s5)
  have hlog : DataKept P s1 s6 := ((h3.trans h4).trans h5).trans h6
  exact dataKept_ite (.of_fields rfl rfl rfl rfl rfl)
    (dataKept_ite (hlog.trans (send_dataKept ..)) hlog)

/-- A record logged adds nothing to a tenant's event log. -/
theorem logFaultIn_lds (s : State) (furrow : Nat) (r : FaultRec) : (logFaultIn s furrow r).lds = s.lds := by
  simp only [logFaultIn, apply_ite State.lds, ownerEvent_lds, raiseIbi_lds, send_lds, regBump_lds, regFlag_lds, ite_self]

end

theorem logFault_dataKept (s : State) (r : FaultRec) (h : r.cls = 0) : DataKept LdCounter s (logFault s r) :=
  (regBump_dataKept s 1 (by rw [h]; decide)).trans (logFaultIn_dataKept s _ r (by decide) (by decide))

/-! ### Reads of lines -/

theorem dpaPc_lt (a : Nat) : dpaPc a < 640 := by unfold dpaPc; omega

theorem mcReg_not_ldCounter (n : Nat) {r : Nat} (hr : r < 0x1000) : ¬ LdCounter (mcReg n r) := by
  unfold LdCounter mcReg feReg fltReg; omega

theorem retirePc_dataKept (s : State) {pc : Nat} (h : pc < 640) : DataKept LdCounter s (retirePc s pc) := by
  unfold retirePc
  extract_lets o v0 v1 s1 now faults s2
  have ho : ¬ LdCounter o := by decide
  have h1 : DataKept LdCounter s s1 :=
    dataKept_ite (.trans (.trans (.trans (regPut_dataKept _ _ _ _ ho) (regPut_dataKept _ _ _ _ ho)) (regPut_dataKept _ _ _ _ ho))
        (regPut_dataKept _ _ _ _ ho))
      (.trans (.trans (regPut_dataKept _ _ _ _ ho) (regPut_dataKept _ _ _ _ ho)) (regPut_dataKept _ _ _ _ ho))
  have h2 : DataKept LdCounter s1 s2 := .of_fields rfl rfl rfl rfl rfl
  have hgeo : ¬ LdCounter (glbReg (0x120 + 8 * (pc / 64))) := by unfold LdCounter glbReg fltReg; omega
  have h3 : DataKept LdCounter s2 (geoBump (regClearBit s2 (glbReg (0x120 + 8 * (pc / 64))) (pc % 64))) :=
    (regPut_dataKept s2 _ _ _ hgeo).trans (regBump_dataKept _ 1 (by decide))
  exact dataKept_ite (.refl s) (dataKept_ite (regPut_dataKept s _ _ _ (by decide))
    (((h1.trans h2).trans h3).trans (logFault_dataKept _ _ rfl)))

theorem notePcErr_dataKept (s : State) {pc : Nat} (line : Option Nat) (n : Nat) (h : pc < 640) :
    DataKept LdCounter s (notePcErr s pc line n) := by
  unfold notePcErr
  extract_lets now es mine faults s1
  have h1 : DataKept LdCounter s s1 := .of_fields rfl rfl rfl rfl rfl
  exact dataKept_ite (h1.trans (retirePc_dataKept s1 h)) h1

theorem eccCorrect_dataKept (s : State) (dpa n : Nat) : DataKept LdCounter s (eccCorrect s dpa n) := by
  unfold eccCorrect
  extract_lets pc v s1
  have h0 : DataKept LdCounter s (regBump (tickFree s) (fltReg 0x050) n) :=
    .trans (t := tickFree s) (.of_fields rfl rfl rfl rfl rfl) (regBump_dataKept _ n (by decide))
  exact (h0.trans (logFault_dataKept _ _ rfl)).trans (notePcErr_dataKept s1 none n (dpaPc_lt _))

theorem eccPoison_dataKept (s : State) (dpa : Nat) (quiet : Bool) : DataKept LdCounter s (eccPoison s dpa quiet) := by
  unfold eccPoison
  extract_lets l pc s1 v s2 s3
  have h1 : DataKept LdCounter s s1 :=
    .trans (t := { s with poison := addN l s.poison }) (.of_fields rfl rfl rfl rfl rfl) (regBump_dataKept _ 1 (by decide))
  have h2 : DataKept LdCounter s1 s2 :=
    dataKept_ite (.refl s1) (.trans (t := tickFree s1) (.of_fields rfl rfl rfl rfl rfl) (logFault_dataKept _ _ rfl))
  have h3 : DataKept LdCounter s s3 := (h1.trans h2).trans (notePcErr_dataKept s2 _ 1 (dpaPc_lt _))
  refine dataKept_ite (.refl s) ?_
  split
  · exact h3.trans (mediaEvent_dataKept ..)
  · exact h3

theorem hbmRead_dataKept (quiet : Bool) (s : State) (dpa : Nat) : DataKept LdCounter s (hbmRead quiet s dpa) := by
  unfold hbmRead
  extract_lets mine faults s1
  have h1 : DataKept LdCounter s s1 := .of_fields rfl rfl rfl rfl rfl
  exact dataKept_ite (.refl s) (dataKept_ite (h1.trans (eccCorrect_dataKept ..)) (h1.trans (eccPoison_dataKept ..)))

theorem disarm_dataKept (s : State) (source unit : Nat) : DataKept LdCounter s (disarm s source unit) := by
  unfold disarm
  extract_lets v s1
  have h1 : DataKept LdCounter s s1 := regPut_dataKept s _ _ _ (by decide)
  exact dataKept_ite (dataKept_ite h1 (h1.trans (.of_fields rfl rfl rfl rfl rfl))) (.refl s)

theorem mereRead_dataKept (s : State) (dpa hint : Nat) : DataKept LdCounter s (mereRead s dpa hint) := by
  have hreg : ∀ r, r < 0x1000 → ¬ LdCounter (mcReg (dpaDie dpa) r) := fun r hr => mcReg_not_ldCounter _ hr
  unfold mereRead
  extract_lets n k m line set t s1 ok inSet free way rest s2
  split
  case h_1 hit _ =>
    have h1 : DataKept LdCounter s { s with mere := s.mere.set k { m with plru := insertN set (plruTouch hit.way t) m.plru } } :=
      .of_fields rfl rfl rfl rfl rfl
    exact h1.trans (regBump_dataKept _ 1 (hreg 0x08 (by decide)))
  case h_2 =>
    have h1 : DataKept LdCounter s s1 := regBump_dataKept s 1 (hreg 0x10 (by decide))
    have h2 : DataKept LdCounter s1 s2 := .of_fields rfl rfl rfl rfl rfl
    exact dataKept_ite h1 (((h1.trans h2).trans (regBump_dataKept s2 _ (hreg 0x20 (by decide)))).trans (disarm_dataKept ..))

theorem lineRead_dataKept (hint : Nat) (s : State) (dpa : Nat) : DataKept LdCounter s (lineRead hint s dpa) :=
  (dataKept_ite (.refl s) (hbmRead_dataKept false s dpa)).trans (mereRead_dataKept ..)

theorem peerTouch_dataKept (s : State) (t : LdId) (v n : Nat) : DataKept LdCounter s (peerTouch s t v n) :=
  dataKept_foldl _ s fun s x _ => lineRead_dataKept 2 s x

theorem meterWindow_dataKept {P : Nat → Prop} (s : State) (t : LdId) (n : Nat) : DataKept P s (meterWindow s t n) :=
  .trans (t := meterMem s (.ld t) n) (.of_fields rfl rfl rfl rfl rfl) (.of_fields rfl rfl rfl rfl rfl)

/-! ### Writes of lines -/

theorem slicesWrote_dataKept (s : State) (ps : List Nat) : DataKept LdCounter s (slicesWrote s ps) := by
  refine dataKept_foldl _ s fun s d _ => ?_
  have hreg : ¬ LdCounter (mcReg d 0x18) := mcReg_not_ldCounter d (by decide)
  exact dataKept_ite (.refl s) ((regBump_dataKept s _ hreg).trans (disarm_dataKept ..))

theorem hbmWrote_dataKept (s : State) (x : Nat × Nat) : DataKept LdCounter s (hbmWrote s x) := by
  unfold hbmWrote
  extract_lets v hit covers rest err faults s1
  have h1 : DataKept LdCounter s s1 := .of_fields rfl rfl rfl rfl rfl
  exact dataKept_ite (.refl s) (dataKept_ite (h1.trans (regPut_dataKept s1 _ _ _ (by decide))) h1)

theorem piecesWrote_dataKept (s : State) (ps : List (Nat × Nat)) : DataKept LdCounter s (piecesWrote s ps) :=
  (slicesWrote_dataKept ..).trans (dataKept_foldl _ _ fun s x _ => hbmWrote_dataKept s x)

theorem tvaUnpoison_dataKept {P : Nat → Prop} (s : State) (t : LdId) (v n : Nat) : DataKept P s (tvaUnpoison s t v n) := by
  refine dataKept_foldl _ s fun s k _ => dataKept_ite (.refl s) ?_
  split
  · exact .of_fields rfl rfl rfl rfl rfl
  · exact .refl s

/-- A store at a TVA is its bytes written, and the frame of an access. -/
theorem tvaStore_dataKept (s : State) (t : LdId) (v : Nat) (bs : List Byte) :
    DataKept LdCounter (tvaWrites s t v bs) (tvaStore s t v bs) :=
  (tvaUnpoison_dataKept ..).trans (piecesWrote_dataKept ..)

/-! ### Translation, and bytes written -/

/-- The same bytes of HBM under the same translation. -/
structure SameBytes (s n : State) : Prop where
  mem : n.mem = s.mem
  dpa : ∀ t v, tvaDpa n t v = tvaDpa s t v

theorem SameBytes.trans {s t u : State} (a : SameBytes s t) (b : SameBytes t u) : SameBytes s u :=
  ⟨b.mem.trans a.mem, fun i v => (b.dpa i v).trans (a.dpa i v)⟩

theorem DataKept.material {P : Nat → Prop} {s n : State} (h : DataKept P s n) (t : LdId) :
    (ten n t).material = (ten s t).material := by rw [h.lds t]

theorem DataKept.sameBytes {P : Nat → Prop} {s n : State} (h : DataKept P s n) : SameBytes s n := by
  refine ⟨h.mem, fun t v => ?_⟩
  have htva : (ten n t).tva = (ten s t).tva := by rw [h.lds t]
  have hwindow : (ten n t).window = (ten s t).window := by rw [h.lds t]
  unfold tvaDpa windowDpa aliasDpa
  rw [hwindow, htva, h.lps]

theorem SameBytes.tvaReads {s n : State} (h : SameBytes s n) (t : LdId) (v k : Nat) : tvaReads n t v k = tvaReads s t v k := by
  induction k generalizing v with
  | zero => rfl
  | succ k ih =>
    unfold Machine.tvaReads tvaByte
    rw [h.dpa, h.mem, ih]

/-- One byte written at a TVA. -/
def tvaPut (s : State) (t : LdId) (v : Nat) (b : Byte) : State :=
  match tvaDpa s t v with
  | some a => { s with mem := cellWrite a b s.mem }
  | none => s

theorem tvaWrites_cons (s : State) (t : LdId) (v : Nat) (b : Byte) (bs : List Byte) :
    tvaWrites s t v (b :: bs) = tvaWrites (tvaPut s t v b) t (v + 1) bs := rfl

/-- A byte written leaves the translation as it was. -/
theorem tvaDpa_tvaPut (s : State) (t : LdId) (v : Nat) (b : Byte) (i : LdId) (x : Nat) :
    tvaDpa (tvaPut s t v b) i x = tvaDpa s i x := by
  unfold tvaPut
  split <;> rfl

theorem tvaDpa_tvaWrites (s : State) (t : LdId) (v : Nat) (bs : List Byte) (i : LdId) (x : Nat) :
    tvaDpa (tvaWrites s t v bs) i x = tvaDpa s i x := by
  induction bs generalizing s v with
  | nil => rfl
  | cons b bs ih => rw [tvaWrites_cons, ih, tvaDpa_tvaPut]

theorem tvaWrites_cxl (s : State) (t : LdId) (v : Nat) (bs : List Byte) : (tvaWrites s t v bs).cxl = s.cxl := by
  induction bs generalizing s v with
  | nil => rfl
  | cons b bs ih =>
    rw [tvaWrites_cons, ih, tvaPut]
    split <;> rfl

theorem SameBytes.tvaPut {s n : State} (h : SameBytes s n) (t : LdId) (v : Nat) (b : Byte) :
    SameBytes (tvaPut s t v b) (tvaPut n t v b) := by
  refine ⟨?_, fun i x => by rw [tvaDpa_tvaPut, tvaDpa_tvaPut, h.dpa]⟩
  unfold Machine.tvaPut
  rw [h.dpa]
  split
  · exact congrArg (cellWrite _ b) h.mem
  · exact h.mem

theorem SameBytes.tvaWrites {s n : State} (h : SameBytes s n) (t : LdId) (v : Nat) (bs : List Byte) :
    SameBytes (tvaWrites s t v bs) (tvaWrites n t v bs) := by
  induction bs generalizing s n v with
  | nil => exact h
  | cons b bs ih => exact ih (h.tvaPut t v b) (v + 1)

theorem SameBytes.tvaStore {s n : State} (h : SameBytes s n) (t : LdId) (v : Nat) (bs : List Byte) :
    SameBytes (Machine.tvaWrites s t v bs) (tvaStore n t v bs) :=
  (h.tvaWrites t v bs).trans (tvaStore_dataKept n t v bs).sameBytes

theorem tvaStore_cxl (s : State) (t : LdId) (v : Nat) (bs : List Byte) : (tvaStore s t v bs).cxl = s.cxl :=
  (tvaStore_dataKept s t v bs).cxl.trans (tvaWrites_cxl s t v bs)

theorem tvaPut_memWf {s : State} (t : LdId) (v : Nat) (b : Byte) (hs : memWf s.mem = true) :
    memWf (tvaPut s t v b).mem = true := by
  unfold tvaPut
  split
  · exact memWf_write _ _ _ hs
  · exact hs

theorem tvaWrites_memWf {s : State} (t : LdId) (v : Nat) (bs : List Byte) (hs : memWf s.mem = true) :
    memWf (tvaWrites s t v bs).mem = true := by
  induction bs generalizing s v with
  | nil => exact hs
  | cons b bs ih => exact ih (v + 1) (tvaPut_memWf t v b hs)

theorem cellRead_tvaPut_ne {s : State} (t : LdId) (v : Nat) (b : Byte) {z : Nat} (hs : memWf s.mem = true)
    (hz : tvaDpa s t v ≠ some z) : cellRead z (tvaPut s t v b).mem = cellRead z s.mem := by
  unfold tvaPut
  split
  case h_1 a ha =>
    have hne : z ≠ a := fun e => hz (e ▸ ha)
    rw [cellRead_write _ _ _ _ ((memWf_iff _).1 hs).1, if_neg hne]
  case h_2 => rfl

/-- Bytes written leave every other byte of HBM as it was. -/
theorem cellRead_tvaWrites_ne (s : State) (t : LdId) (v : Nat) (bs : List Byte) (z : Nat) (hs : memWf s.mem = true)
    (hz : ∀ i, i < bs.length → tvaDpa s t (v + i) ≠ some z) :
    cellRead z (tvaWrites s t v bs).mem = cellRead z s.mem := by
  induction bs generalizing s v with
  | nil => rfl
  | cons b bs ih =>
    have hv : tvaDpa s t v ≠ some z := hz 0 (Nat.zero_lt_succ _)
    rw [tvaWrites_cons, ih _ _ (tvaPut_memWf t v b hs), cellRead_tvaPut_ne t v b hs hv]
    intro i hi
    rw [tvaDpa_tvaPut, Nat.add_assoc, Nat.add_comm 1 i]
    exact hz (i + 1) (Nat.succ_lt_succ hi)

/-! ### The bytes that MemWrPtl enables -/

section
variable (t : LdId) (off : Nat) (bs : List Byte) (es : List Bool)

/-- Byte `i` of a MemWrPtl written, where it is enabled. -/
def ptlWrite (s : State) (i : Nat) : State := if nthD false es i then tvaWrites s t (off + i) [nthD 0 bs i] else s

/-- Byte `i` of a MemWrPtl stored through the slices, where it is enabled. -/
def ptlStore (s : State) (i : Nat) : State := if nthD false es i then tvaStore s t (off + i) [nthD 0 bs i] else s

theorem memWrStore_ptl (s : State) :
    memWrStore s t off ⟨bs, some es⟩ = (List.range bs.length).foldl (ptlStore t off bs es) s := rfl

theorem foldl_ptlStore_cxl (l : List Nat) (s : State) : (l.foldl (ptlStore t off bs es) s).cxl = s.cxl := by
  induction l generalizing s with
  | nil => rfl
  | cons i l ih =>
    rw [List.foldl_cons, ih, ptlStore]
    split
    · exact tvaStore_cxl ..
    · rfl

theorem SameBytes.foldl_ptlStore (l : List Nat) {s n : State} (h : SameBytes s n) :
    SameBytes (l.foldl (ptlWrite t off bs es) s) (l.foldl (ptlStore t off bs es) n) := by
  induction l generalizing s n with
  | nil => exact h
  | cons i l ih =>
    refine ih ?_
    unfold ptlWrite ptlStore
    split
    · exact h.tvaStore ..
    · exact h

theorem cellRead_foldl_ptlWrite_ne (l : List Nat) (s : State) (z : Nat) (hs : memWf s.mem = true)
    (hz : ∀ i ∈ l, nthD false es i = true → tvaDpa s t (off + i) ≠ some z) :
    cellRead z (l.foldl (ptlWrite t off bs es) s).mem = cellRead z s.mem := by
  induction l generalizing s with
  | nil => rfl
  | cons i l ih =>
    have hl : ∀ j ∈ l, nthD false es j = true → tvaDpa s t (off + j) ≠ some z :=
      fun j hj => hz j (List.mem_cons_of_mem i hj)
    rw [List.foldl_cons]
    by_cases hi : nthD false es i = true
    · rw [ptlWrite, if_pos hi, ih]
      · refine cellRead_tvaWrites_ne s t (off + i) _ z hs fun k hk => ?_
        rw [Nat.lt_one_iff.1 hk]
        exact hz i List.mem_cons_self hi
      · exact tvaWrites_memWf t _ _ hs
      · intro j hj
        rw [tvaDpa_tvaWrites]
        exact hl j hj
    · rw [ptlWrite, if_neg hi, ih s hs hl]

end

/-! ### The commands on a window -/

/-- What a read within the window does (R23, R159, R380, R440). -/
def windowRead (s : State) (t : LdId) (off k : Nat) : State :=
  let v := meterWindow (peerTouch s t off k) t k
  if (ten v t).material.isNone then cxlPoison v
  else if tvaPoisoned v t off k then cxlPoison (mediaEvent (regBump v (fltReg (0x108 + 16 * t.val)) 1) t off)
  else { v with cxl := { bytes := tvaReads v t off k } }

theorem exec_memSpecRd (s : State) (a : HostAddr) (k : Nat) : exec (.cxlMemRead a ⟨.memSpecRd, k⟩) s = .next s :=
  if_pos (.inr rfl)

section
variable {s : State} {a : HostAddr} {t : LdId} {off : Nat} (hup : cxlUp s = true) (ht : hostTarget s a = some (t, off))
  (hopen : memOpen s = true)

include hup ht hopen

theorem exec_memInv {k x y : Nat} (hx : windowDpa s t off = some x) (hy : windowDpa s t (off + k - 1) = some y) :
    exec (.cxlMemRead a ⟨.memInv, k⟩) s = .next { s with cxl := {} } := by
  simp [exec, execCxlMemRead, hup, ht, hopen, hx, hy]

theorem exec_memRead_inside {kd : MemReadKind} {k x y : Nat} (hkd : kd = .memRd ∨ kd = .memRdData)
    (hx : windowDpa s t off = some x) (hy : windowDpa s t (off + k - 1) = some y) :
    exec (.cxlMemRead a ⟨kd, k⟩) s = .next (windowRead s t off k) := by
  have hspec : kd ≠ .memSpecRd := by rcases hkd with rfl | rfl <;> decide
  have hinv : kd ≠ .memInv := by rcases hkd with rfl | rfl <;> decide
  simp only [exec, execCxlMemRead, hup, ht, hopen, hx, hy, hspec, hinv, windowRead, apply_ite Host.Outcome.next]
  simp

theorem exec_memRead_beyond {kd : MemReadKind} (k : Nat) (hkd : kd ≠ .memSpecRd) (hx : windowDpa s t off = none) :
    exec (.cxlMemRead a ⟨kd, k⟩) s = .next (cxlPoison (windowMiss s t off)) := by
  simp [exec, execCxlMemRead, hup, ht, hopen, hx, hkd]

theorem exec_memWrite_inside {w : MemWrite} {x y : Nat} (hx : windowDpa s t off = some x)
    (hy : windowDpa s t (off + w.bytes.length - 1) = some y) :
    exec (.cxlMemWrite a w) s = .next (if (ten s t).material.isNone then { s with cxl := {} }
      else memWrStore (meterWindow { s with cxl := {} } t w.bytes.length) t off w) := by
  have hopen' : memOpen { s with cxl := {} } = true := hopen
  have hx' : windowDpa { s with cxl := {} } t off = some x := hx
  have hy' : windowDpa { s with cxl := {} } t (off + w.bytes.length - 1) = some y := hy
  simp only [exec, execCxlMemWrite, hup, ht, hopen', hx', hy']
  rfl

theorem exec_memWrite_beyond (w : MemWrite) (hx : windowDpa s t off = none) :
    exec (.cxlMemWrite a w) s = .next (windowMiss { s with cxl := {} } t off) := by
  have hopen' : memOpen { s with cxl := {} } = true := hopen
  have hx' : windowDpa { s with cxl := {} } t off = none := hx
  simp only [exec, execCxlMemWrite, hup, ht, hopen', hx']
  rfl

end

/-! ### What a read within the window answers -/

@[simp] theorem cxlPoison_mem (s : State) : (cxlPoison s).mem = s.mem := rfl

@[simp] theorem regGet_cxlPoison (s : State) (o : Nat) : regGet (cxlPoison s) o = regGet s o := rfl

/-- The state in which a read of a window finds its bytes: its lines are touched and its traffic metered. -/
theorem touched_dataKept (s : State) (t : LdId) (off k : Nat) :
    DataKept LdCounter s (meterWindow (peerTouch s t off k) t k) :=
  (peerTouch_dataKept ..).trans (meterWindow_dataKept ..)

theorem windowRead_clean {s : State} {t : LdId} {off k : Nat} (hkey : (ten s t).material.isSome = true)
    (hclean : tvaPoisoned (meterWindow (peerTouch s t off k) t k) t off k = false) :
    windowRead s t off k
      = { meterWindow (peerTouch s t off k) t k with cxl := { bytes := tvaReads s t off k, poison := false } } := by
  have hv := touched_dataKept s t off k
  unfold windowRead
  dsimp only
  rw [if_neg (Bool.eq_false_iff.1 (Option.isNone_eq_false_iff.2 (hv.material t ▸ hkey))),
    if_neg (by rw [hclean]; decide), hv.sameBytes.tvaReads]

theorem ldCounter_poisoned (t : LdId) : LdCounter (fltReg (0x108 + 16 * t.val)) := by
  unfold LdCounter fltReg; omega

theorem windowRead_poisoned {s : State} {t : LdId} {off k : Nat} (hkey : (ten s t).material.isSome = true)
    (hbad : tvaPoisoned (meterWindow (peerTouch s t off k) t k) t off k = true) :
    (windowRead s t off k).cxl = { bytes := [], poison := true } ∧ (windowRead s t off k).mem = s.mem
      ∧ rises (fltReg (0x108 + 16 * t.val)) 1 s (windowRead s t off k) := by
  have hv := touched_dataKept s t off k
  unfold windowRead
  extract_lets v
  rw [if_neg (Bool.eq_false_iff.1 (Option.isNone_eq_false_iff.2 (hv.material t ▸ hkey))), if_pos hbad]
  have hbump : DataKept (fun _ => False) v (regBump v (fltReg (0x108 + 16 * t.val)) 1) := regBump_dataKept v 1 id
  have hevent : DataKept (fun _ => True) (regBump v (fltReg (0x108 + 16 * t.val)) 1)
      (mediaEvent (regBump v (fltReg (0x108 + 16 * t.val)) 1) t off) := mediaEvent_dataKept ..
  have hcount := hevent.regs (fltReg (0x108 + 16 * t.val)) trivial
  rw [regGet_regBump, if_pos rfl, hv.regs _ (ldCounter_poisoned t)] at hcount
  rw [rises, regGet_cxlPoison, cxlPoison_mem]
  exact ⟨rfl, (hevent.mem.trans hbump.mem).trans hv.mem, hcount⟩

theorem windowRead_unkeyed {s : State} {t : LdId} {off k : Nat} (hkey : (ten s t).material = none) :
    (windowRead s t off k).cxl = { bytes := [], poison := true } ∧ (windowRead s t off k).mem = s.mem := by
  have hv := touched_dataKept s t off k
  unfold windowRead
  dsimp only
  rw [if_pos (by rw [hv.material, hkey]; rfl)]
  exact ⟨rfl, hv.mem⟩

/-! ### What a write within the window stores -/

section
variable (s : State) (t : LdId) (off : Nat) (bs : List Byte)

theorem cxlClear_sameBytes : SameBytes s { s with cxl := {} } := by
  refine ⟨rfl, fun i x => ?_⟩
  unfold tvaDpa windowDpa aliasDpa
  rfl

/-- The state that a write of `n` bytes finds: its completion carries no data, and its traffic is metered. -/
theorem metered_sameBytes (n : Nat) : SameBytes s (meterWindow { s with cxl := {} } t n) :=
  (cxlClear_sameBytes s).trans (meterWindow_dataKept (P := fun _ => True) _ t n).sameBytes

theorem memWrStore_all_spec (hs : Inv s) :
    let n := memWrStore (meterWindow { s with cxl := {} } t bs.length) t off ⟨bs, none⟩
    n.cxl = {} ∧ n.mem = (tvaWrites s t off bs).mem
      ∧ ∀ z, (∀ i, i < bs.length → tvaDpa s t (off + i) ≠ some z) → cellRead z n.mem = cellRead z s.mem := by
  intro n
  have hmem : n.mem = (tvaWrites s t off bs).mem := ((metered_sameBytes s t bs.length).tvaStore t off bs).mem
  exact ⟨tvaStore_cxl .., hmem, fun z hz => hmem ▸ cellRead_tvaWrites_ne s t off bs z hs.mem hz⟩

theorem memWrStore_ptl_spec (es : List Bool) (hs : Inv s) :
    let n := memWrStore (meterWindow { s with cxl := {} } t bs.length) t off ⟨bs, some es⟩
    n.cxl = {} ∧ n.mem = ((List.range bs.length).foldl (ptlWrite t off bs es) s).mem
      ∧ ∀ z, (∀ i, i < bs.length → nthD false es i = true → tvaDpa s t (off + i) ≠ some z) →
        cellRead z n.mem = cellRead z s.mem := by
  intro n
  have hn : n = (List.range bs.length).foldl (ptlStore t off bs es) (meterWindow { s with cxl := {} } t bs.length) :=
    memWrStore_ptl t off bs es _
  have hmem : n.mem = ((List.range bs.length).foldl (ptlWrite t off bs es) s).mem :=
    hn ▸ (SameBytes.foldl_ptlStore t off bs es _ (metered_sameBytes s t bs.length)).mem
  refine ⟨hn ▸ foldl_ptlStore_cxl .., hmem, fun z hz => ?_⟩
  rw [hmem]
  exact cellRead_foldl_ptlWrite_ne t off bs es _ s z hs.mem fun i hi => hz i (List.mem_range.1 hi)

end

/-! ### Accesses beyond the window (R35) -/

/-- What R35 asks of a discarded access: HBM as it was, one event counted against the LD and one CORRECTED error (R373), and a
record of the LD and the address given to the LD. -/
def Recorded (t : LdId) (off : Nat) (s n : State) : Prop :=
  n.mem = s.mem ∧ rises (fltReg (0x100 + 16 * t.val)) 1 s n ∧ rises (fltReg 0x020) 1 s n
    ∧ ∃ r : FaultRec, r.cls = 0 ∧ r.code = 0x000E ∧ r.ld = t.val ∧ r.addr = off
      ∧ (ten n t).events = (ten s t).events ++ [faultBytes r]

/-- The registers that a record logged leaves alone, once its class is counted: all but FLT_STATUS and FLT_LOG_SEQ (R392,
R394). -/
abbrev NoLogReg (o : Nat) : Prop := o ≠ fltReg 0x010 ∧ o ≠ fltReg 0x008

/-- The two counters of an access beyond the window, the LD's own and that of CORRECTED errors, risen. -/
def missCounted (s : State) (t : LdId) : State := regBump (regBump s (fltReg (0x100 + 16 * t.val)) 1) (fltReg 0x020) 1

theorem windowMiss_spec (s : State) (t : LdId) (off : Nat) :
    Recorded t off s (windowMiss s t off) ∧ (windowMiss s t off).cxl = s.cxl := by
  unfold windowMiss
  extract_lets r
  have hc : fltReg (0x100 + 16 * t.val) ≠ fltReg 0x020 := by unfold fltReg; omega
  have hP : NoLogReg (fltReg (0x100 + 16 * t.val)) := by unfold NoLogReg fltReg; omega
  have hrec : DataKept NoLogReg (missCounted s t)
      (tenantEvent (logFault (regBump s (fltReg (0x100 + 16 * t.val)) 1) r) t (faultBytes r)) :=
    (logFaultIn_dataKept _ _ r (by decide) (by decide)).trans (tenantEvent_dataKept ..)
  have hcount : DataKept (fun _ => False) s (missCounted s t) := (regBump_dataKept s 1 id).trans (regBump_dataKept _ 1 id)
  refine ⟨⟨hrec.mem.trans hcount.mem, ?_, ?_, r, rfl, rfl, rfl, rfl, ?_⟩, hrec.cxl.trans hcount.cxl⟩
  · rw [rises, hrec.regs _ hP, missCounted, regGet_regBump, if_neg hc, regGet_regBump, if_pos rfl]
  · rw [rises, hrec.regs _ (by decide), missCounted, regGet_regBump, if_pos rfl, regGet_regBump, if_neg hc.symm]
  · rw [tenantEvent_events, logFault, ten_congr (logFaultIn_lds ..), ten_congr (regBump_lds ..)]

/-! ### HDM decoders -/

theorem exec_hdmDecoderCommit (s : State) (t : LdId) (d : Fin 2) (ways base size : Nat) (ha : alive s = true) :
    exec (.hdmDecoderCommit t d ways base size) s
      = .next (setTen s t (if ways = 1
          then { ten s t with hdm := (ten s t).hdm.set d.val (some (base, size)), hdmErr := (ten s t).hdmErr.set d.val false }
          else { ten s t with hdmErr := (ten s t).hdmErr.set d.val true })) := by
  rw [exec, execHdmDecoderCommit, if_neg (by simp [ha])]
  dsimp only
  split <;> rfl

/-- Settles O48: reads and writes within the window, those beyond it, and the commit of a decoder. -/
theorem windowAccesses : Obligations.WindowAccesses := by
  refine ⟨fun a s t off hup ht hopen => ⟨fun k => exec_memSpecRd s a k, fun k x y hx hy => exec_memInv hup ht hopen hx hy,
    fun hkey => ⟨fun kd k x y hkd hx hy => ?read, fun bs x y hx hy hs => ?write⟩,
    fun hkey => ⟨fun kd k x y hkd hx hy => ?unkeyedRead, fun w x y hx hy => ?unkeyedWrite⟩,
    fun hx => ⟨fun kd k hkd => ?readBeyond, fun w => ?writeBeyond⟩⟩, exec_hdmDecoderCommit⟩
  case read =>
    have hv := touched_dataKept s t off k
    have hread := exec_memRead_inside hup ht hopen hkd hx hy
    refine ⟨hv.mem, hv.sameBytes.tvaReads t off k, fun hclean => ?_, fun hbad => ?_⟩
    · rw [hread, windowRead_clean hkey hclean]
    · exact ⟨_, hread, windowRead_poisoned hkey hbad⟩
  case write =>
    have hwrite (es : Option (List Bool)) : exec (.cxlMemWrite a ⟨bs, es⟩) s
        = .next (memWrStore (meterWindow { s with cxl := {} } t bs.length) t off ⟨bs, es⟩) := by
      rw [exec_memWrite_inside hup ht hopen hx hy, if_neg (Bool.eq_false_iff.1 (Option.isNone_eq_false_iff.2 hkey))]
    exact ⟨⟨_, hwrite none, memWrStore_all_spec s t off bs hs⟩,
      fun es => ⟨_, hwrite (some es), memWrStore_ptl_spec s t off bs es hs⟩⟩
  case unkeyedRead => exact ⟨_, exec_memRead_inside hup ht hopen hkd hx hy, windowRead_unkeyed hkey⟩
  case unkeyedWrite => rw [exec_memWrite_inside hup ht hopen hx hy, hkey]; rfl
  case readBeyond =>
    obtain ⟨hrec, -⟩ := windowMiss_spec s t off
    exact ⟨_, exec_memRead_beyond hup ht hopen k hkd hx, rfl, hrec⟩
  case writeBeyond =>
    obtain ⟨hrec, hcxl⟩ := windowMiss_spec { s with cxl := {} } t off
    exact ⟨_, exec_memWrite_beyond hup ht hopen w hx, hcxl, hrec⟩

end Sys2Proof.Machine
end

section
/-! # Vector instructions: what an issued one changes, and an illegal one (R44, R163, R164, R209) -/

namespace Sys2Proof.Machine

/-! ### What a stopped work item keeps -/

/-- HBM, the lanes of every vector register and the registers below FETCH (R488) are as they were. -/
structure LanesKept (s n : State) : Prop where
  mem   : n.mem = s.mem
  vregs : ∀ b, (arr n b).vregs = (arr s b).vregs
  regs  : ∀ o, o < feReg 0 0 → regGet n o = regGet s o

theorem LanesKept.refl (s : State) : LanesKept s s := ⟨rfl, fun _ => rfl, fun _ _ => rfl⟩

theorem LanesKept.trans {s t u : State} (a : LanesKept s t) (b : LanesKept t u) : LanesKept s u :=
  ⟨b.mem.trans a.mem, fun i => (b.vregs i).trans (a.vregs i), fun o ho => (b.regs o ho).trans (a.regs o ho)⟩

theorem lanesKept_foldl {α : Type} {f : State → α → State} (hf : ∀ s x, LanesKept s (f s x)) (l : List α) (s : State) :
    LanesKept s (l.foldl f s) := by
  induction l generalizing s with
  | nil => exact .refl s
  | cons x l ih => exact (hf s x).trans (ih _)

theorem regBump_lanesKept (s : State) {o : Nat} (n : Nat) (h : feReg 0 0 ≤ o) : LanesKept s (regBump s o n) :=
  ⟨regBump_mem .., fun b => by rw [arr_congr (regBump_arrays ..)],
    fun p hp => by rw [regGet_regBump, if_neg (Nat.ne_of_lt (Nat.lt_of_lt_of_le hp h))]⟩

theorem setFe_lanesKept (s : State) (f : FeId) (u : FetchUnit) : LanesKept s (setFe s f u) :=
  ⟨rfl, fun _ => rfl, fun _ _ => rfl⟩

theorem setArr_lanesKept (s : State) (a : ArrId) {u : ArrayUnit} (h : u.vregs = (arr s a).vregs) :
    LanesKept s (setArr s a u) := by
  refine ⟨rfl, fun b => ?_, fun _ _ => rfl⟩
  by_cases hb : b = a
  · rw [hb, arr_setArr, h]
  · rw [arr_setArr_ne _ _ _ _ hb]

theorem ringReg_ge (a q off : Nat) : feReg 0 0 ≤ ringReg a q off := by
  unfold ringReg spReg feReg; omega

theorem feReg_ge (m off : Nat) : feReg 0 0 ≤ feReg m off := by
  unfold feReg; omega

theorem countWaits_lanesKept (s : State) (a : ArrId) : LanesKept s (countWaits s a) := by
  unfold countWaits
  extract_lets t u clks s1
  split
  · exact .refl s
  · have hcounts : LanesKept s s1 := lanesKept_foldl (fun s q =>
      (regBump_lanesKept s _ (ringReg_ge ..)).trans (regBump_lanesKept _ _ (ringReg_ge ..))) _ s
    exact hcounts.trans (setArr_lanesKept _ _ (hcounts.vregs a).symm)

theorem countStallsOn_lanesKept (p : DescRun → Bool) (s : State) (f : FeId) : LanesKept s (countStallsOn p s f) := by
  unfold countStallsOn
  extract_lets on u s1
  have hcounts : LanesKept s s1 := lanesKept_foldl (fun s x => by
    split
    · exact regBump_lanesKept s _ (ringReg_ge ..)
    · exact .refl s) _ s
  exact hcounts.trans (setFe_lanesKept ..)

theorem discardOn_lanesKept (every : Bool) (id : Nat) (s : State) (f : FeId) : LanesKept s (discardOn every id s f) := by
  unfold discardOn
  extract_lets u gone n slots
  split
  · exact .refl s
  · exact (setFe_lanesKept ..).trans (regBump_lanesKept _ _ (feReg_ge ..))

theorem forFes_lanesKept {f : State → FeId → State} (hf : ∀ s i, LanesKept s (f s i)) (s : State) :
    LanesKept s (forFes s f) := lanesKept_foldl hf _ s

/-- A cut (R103, R115, R156) stops arrays and engines and counts in FETCH: it reaches no lane. -/
theorem cutItem_lanesKept (s : State) (w : ItemRun) : LanesKept s (cutItem s w) := by
  unfold cutItem
  extract_lets s1 s2
  have hstalls : LanesKept s s1 := (lanesKept_foldl countWaits_lanesKept _ s).trans
    (forFes_lanesKept (countStallsOn_lanesKept _) _)
  have hcut : LanesKept s1 s2 := lanesKept_foldl (fun s a => setArr_lanesKept s a (by rfl)) _ s1
  exact (hstalls.trans hcut).trans (forFes_lanesKept (discardOn_lanesKept _ _) s2)

/-- A record logged changes no array. -/
theorem logFaultIn_arrays (s : State) (furrow : Nat) (r : FaultRec) : (logFaultIn s furrow r).arrays = s.arrays := by
  have hmsix (s : State) (fn : Mbox) (v : Nat) : (sendMsix s fn v).arrays = s.arrays := by
    unfold sendMsix; split <;> rfl
  have howner (s : State) (bs : List Byte) : (ownerEvent s bs).arrays = s.arrays := by
    simp only [ownerEvent, apply_ite State.arrays, hmsix, ite_self]
  simp only [logFaultIn, apply_ite State.arrays, howner, raiseIbi_arrays, send_arrays, regBump_arrays, regFlag_arrays, ite_self]

/-- A schedule fault (R209) counts one in FUR_SCHED_FAULT and changes no byte of HBM and no lane. -/
theorem schedFault_spec (s : State) (w : ItemRun) (pt : Nat × Nat × Nat) (tile detail clk unit : Nat) :
    rises (furReg 0x040) 1 s (schedFault s w pt tile detail clk unit)
      ∧ (schedFault s w pt tile detail clk unit).mem = s.mem
      ∧ ∀ b, (arr (schedFault s w pt tile detail clk unit) b).vregs = (arr s b).vregs := by
  unfold schedFault
  extract_lets s1 s2
  generalize FaultRec.mk .. = r
  have hstop : s2.mem = s1.mem ∧ (∀ b, (arr s2 b).vregs = (arr s1 b).vregs)
      ∧ regGet s2 (furReg 0x040) = regGet s1 (furReg 0x040) := by
    unfold s2 haltItem
    extract_lets w' s3
    obtain ⟨hmem, hvregs, hregs⟩ : LanesKept s1 s3 :=
      .trans (t := setItem s1 w') ⟨rfl, fun _ => rfl, fun _ _ => rfl⟩ (cutItem_lanesKept ..)
    refine ⟨by rw [regBump_mem, hmem], fun b => by rw [arr_congr (regBump_arrays ..), hvregs], ?_⟩
    rw [regGet_regBump, if_neg (by decide), hregs _ (by decide)]
  obtain ⟨hmem, hvregs, hregs⟩ := hstop
  have hlog := logFaultIn_dataKept (P := (· = furReg 0x040)) s2 (curFurrow s2) r (by decide) (by decide)
  refine ⟨?_, ?_, fun b => ?_⟩
  · have hcls : furReg 0x040 ≠ fltReg (0x020 + 8 * r.cls) := by unfold furReg fltReg; omega
    rw [rises, logFault, hlog.regs _ rfl, regGet_regBump, if_neg hcls, hregs, regGet_regBump, if_pos rfl]
  · rw [logFault, hlog.mem, regBump_mem, hmem, regBump_mem]
  · rw [logFault, arr_congr (logFaultIn_arrays ..), hvregs, arr_congr (regBump_arrays ..)]

/-! ### The parts of an issue -/

/-- The fields outside which an issue changes nothing. -/
def IssueFields (s n : State) : Prop :=
  n = { s with arrays := n.arrays, regs := n.regs, items := n.items, faults := n.faults, freeCtr := n.freeCtr }

theorem IssueFields.trans {s t u : State} (a : IssueFields s t) (b : IssueFields t u) : IssueFields s u :=
  Eq.trans b (by rw [a])

theorem issueFields_ite {c : Prop} [Decidable c] {s a b : State} (ha : IssueFields s a) (hb : IssueFields s b) :
    IssueFields s (if c then a else b) := by
  split
  · exact ha
  · exact hb

theorem regBump_issueFields (s : State) (o n : Nat) : IssueFields s (regBump s o n) := issueFields_ite rfl rfl

theorem disarm_issueFields (s : State) (source unit : Nat) : IssueFields s (disarm s source unit) :=
  issueFields_ite (issueFields_ite rfl rfl) rfl

theorem stickItem_issueFields (s : State) (id : Option Nat) (e : Nat) : IssueFields s (stickItem s id e) := by
  unfold stickItem
  repeat' split
  all_goals rfl

theorem mayCorrupt_of_faults {s n : State} (h : n.faults = s.faults) : mayCorrupt s n := by
  rw [mayCorrupt, h]
  exact ⟨rfl, [], List.append_nil _⟩

theorem disarm_mayCorrupt (s : State) (source unit : Nat) : mayCorrupt s (disarm s source unit) := by
  unfold disarm
  extract_lets v s1
  repeat' split
  · exact mayCorrupt_of_faults rfl
  · exact ⟨rfl, [(source, unit)], rfl⟩
  · exact mayCorrupt_of_faults rfl

theorem regGet_disarm (s : State) (source unit : Nat) {o : Nat} (h : o ≠ fltReg 0x080) :
    regGet (disarm s source unit) o = regGet s o := by
  unfold disarm
  extract_lets v s1
  have h1 : regGet s1 o = regGet s o := regGet_regPut_ne s _ _ _ h
  repeat' split
  · exact h1
  · exact h1
  · rfl

/-- A work item replaced by one of its id is the one found under that id; the others are as they were. -/
theorem itemOf_setItem {s : State} {i : Nat} {w w' : ItemRun} (hw : itemOf s i = some w) (hid : w'.id = i) (j : Nat) :
    itemOf (setItem s w') j = if j = i then some w' else itemOf s j := by
  have hfind : (itemOf (setItem s w') j) = (itemOf s j).map (fun x => if x.id = w'.id then w' else x) := by
    unfold itemOf setItem
    rw [List.find?_map]
    congr 2
    funext x
    simp only [Function.comp_apply]
    split
    · next h => rw [h]
    · rfl
  rw [hfind]
  split
  · next h =>
    have hwj : w.id = i := by simpa using List.find?_some hw
    rw [h, hw, Option.map_some, if_pos (hwj.trans hid.symm)]
  · next h =>
    cases hj : itemOf s j with
    | none => rfl
    | some x =>
      have hx : x.id = j := by simpa using List.find?_some hj
      rw [Option.map_some, if_neg (by rw [hx, hid]; exact h)]

/-- Sticky bits go to one work item, and change nothing else of it. -/
theorem itemOf_stickItem (s : State) (id : Option Nat) (e j : Nat) :
    itemOf (stickItem s id e) j = itemOf s j
      ∨ some j = id ∧ ∃ w, itemOf s j = some w ∧ itemOf (stickItem s id e) j = some { w with sticky := w.sticky ||| e } := by
  unfold stickItem
  split
  · exact .inl rfl
  · cases id with
    | none => exact .inl rfl
    | some i =>
      cases hi : itemOf s i with
      | none => simp [hi]
      | some w =>
        have hid : w.id = i := by simpa using List.find?_some hi
        have hset := itemOf_setItem (w' := { w with sticky := w.sticky ||| e }) hi hid j
        by_cases hj : j = i
        · subst hj
          refine .inr ⟨rfl, w, hi, ?_⟩
          simp only [hi]
          exact hset.trans (if_pos rfl)
        · simp only [hi]
          exact .inl (hset.trans (if_neg hj))

/-- The counters of R188 after an instruction of a vector engine. -/
def countIssue (s : State) (a : ArrId) (o : VOut) : State :=
  regBump (regBump (regBump (regBump (regBump (regBump s (veReg a.val 0x08) 1) (veReg a.val 0x10) o.sf)
    (veReg a.val 0x28) o.ev.ovf) (veReg a.val 0x30) o.ev.nanLost) (veReg a.val 0x38) o.ev.intSat) (veReg a.val 0x40) o.ev.nan

/-- An array after an instruction of its stream: its registers, and its place in the stream. -/
def issuedUnit (u : ArrayUnit) (v : VInstr) (o : VOut) : ArrayUnit :=
  { u with
    vregs := vwrites u.vregs o.writes
    vpos := u.vpos + 1
    ve := if u.vpos + 1 = u.vlen then .idle else u.ve
    veClk := u.veClk + v.gap.toNat + o.issue }

/-- A register written takes an armed error injection (R394). -/
def injectIssue (s : State) (a : ArrId) (o : VOut) : State := if o.writes.isEmpty then s else disarm s 3 a.val

theorem vfinish_eq_parts (s : State) (a : ArrId) (v : VInstr) (o : VOut) :
    vfinish s a v o = stickItem (injectIssue (countIssue (setArr s a (issuedUnit (arr s a) v o)) a o) a o)
      (arr s a).item (evSticky o.ev) := rfl

theorem countIssue_issueFields (s : State) (a : ArrId) (o : VOut) : IssueFields s (countIssue s a o) :=
  (((((regBump_issueFields s _ _).trans (regBump_issueFields ..)).trans (regBump_issueFields ..)).trans
    (regBump_issueFields ..)).trans (regBump_issueFields ..)).trans (regBump_issueFields ..)

theorem countIssue_arrays (s : State) (a : ArrId) (o : VOut) : (countIssue s a o).arrays = s.arrays := by
  simp only [countIssue, regBump_arrays]

theorem countIssue_items (s : State) (a : ArrId) (o : VOut) : (countIssue s a o).items = s.items := by
  simp only [countIssue, regBump_items]

theorem countIssue_faults (s : State) (a : ArrId) (o : VOut) : (countIssue s a o).faults = s.faults := by
  simp only [countIssue, regBump_faults]

theorem countIssue_rises (s : State) (a : ArrId) (o : VOut) : rises (veReg a.val 0x08) 1 s (countIssue s a o) := by
  simp [rises, countIssue, regGet_regBump, veReg]

theorem countIssue_regsBut (s : State) (a : ArrId) (o : VOut) :
    regsBut [veReg a.val 0x08, veReg a.val 0x10, veReg a.val 0x28, veReg a.val 0x30, veReg a.val 0x38, veReg a.val 0x40]
      s (countIssue s a o) := by
  intro p hp
  simp only [List.mem_cons, List.not_mem_nil, or_false, not_or] at hp
  obtain ⟨h08, h10, h28, h30, h38, h40⟩ := hp
  simp only [countIssue, regGet_regBump, if_neg h08, if_neg h10, if_neg h28, if_neg h30, if_neg h38, if_neg h40]

theorem injectIssue_issueFields (s : State) (a : ArrId) (o : VOut) : IssueFields s (injectIssue s a o) :=
  issueFields_ite rfl (disarm_issueFields ..)

theorem injectIssue_arrays (s : State) (a : ArrId) (o : VOut) : (injectIssue s a o).arrays = s.arrays := by
  simp only [injectIssue, apply_ite State.arrays, disarm_arrays, ite_self]

theorem injectIssue_items (s : State) (a : ArrId) (o : VOut) : (injectIssue s a o).items = s.items := by
  simp only [injectIssue, apply_ite State.items, disarm_items, ite_self]

theorem injectIssue_mayCorrupt (s : State) (a : ArrId) (o : VOut) : mayCorrupt s (injectIssue s a o) := by
  unfold injectIssue
  split
  · exact mayCorrupt_of_faults rfl
  · exact disarm_mayCorrupt ..

theorem regGet_injectIssue (s : State) (a : ArrId) (o : VOut) {p : Nat} (h : p ≠ fltReg 0x080) :
    regGet (injectIssue s a o) p = regGet s p := by
  unfold injectIssue
  split
  · rfl
  · exact regGet_disarm s _ _ h

/-! ### The frame of an issue -/

/-- A register that no write names is as it was. -/
theorem vwrites_get_of_not_mem {ws : List (Fin 32 × VReg)} {r : Fin 32} (h : r ∉ ws.map (·.1)) (rs : Vector VReg 32) :
    (vwrites rs ws)[r] = rs[r] := by
  induction ws generalizing rs with
  | nil => rfl
  | cons w ws ih =>
    simp only [List.map_cons, List.mem_cons, not_or] at h
    obtain ⟨hw, hws⟩ := h
    have hne : w.1.val ≠ r.val := fun e => hw (Fin.ext e.symm)
    exact (ih hws _).trans (by simp [hne])

section
variable (s : State) (a : ArrId) (v : VInstr) (o : VOut)

theorem vfinish_arrays : (vfinish s a v o).arrays = (setArr s a (issuedUnit (arr s a) v o)).arrays := by
  rw [vfinish_eq_parts, stickItem_arrays, injectIssue_arrays, countIssue_arrays]

theorem arr_vfinish : arr (vfinish s a v o) a = issuedUnit (arr s a) v o := by
  rw [arr_congr (vfinish_arrays ..), arr_setArr]

theorem vget_vfinish (r : Fin 32) : vget (arr (vfinish s a v o) a) r = (vwrites (arr s a).vregs o.writes)[r] := by
  rw [arr_vfinish]; rfl

theorem itemOf_vfinish (j : Nat) :
    itemOf (vfinish s a v o) j = itemOf s j
      ∨ some j = (arr s a).item
        ∧ ∃ w, itemOf s j = some w ∧ itemOf (vfinish s a v o) j = some { w with sticky := w.sticky ||| evSticky o.ev } := by
  have hitems : itemOf (injectIssue (countIssue (setArr s a (issuedUnit (arr s a) v o)) a o) a o) j = itemOf s j := by
    simp only [itemOf, injectIssue_items, countIssue_items, setArr_items]
  rw [vfinish_eq_parts, ← hitems]
  exact itemOf_stickItem ..

/-- An issued instruction changes what R163, R164 and R188 say, and the registers that it writes. -/
theorem vfinish_vectorFrame : vectorFrame a (o.writes.map (·.1)) s (vfinish s a v o) := by
  have hregs : ∀ p, p ≠ fltReg 0x080 → regGet (vfinish s a v o) p
      = regGet (countIssue (setArr s a (issuedUnit (arr s a) v o)) a o) p := fun p hp => by
    rw [vfinish_eq_parts, regGet_congr (stickItem_regs ..), regGet_injectIssue _ _ _ hp]
  refine ⟨?fields, fun b hb => ?others, ?corrupt, ?place, fun r hr => ?lanes, ?counted, fun p hp => ?regs, fun j hj => ?item,
    fun j => ?sticky⟩
  case fields =>
    rw [vfinish_eq_parts]
    exact ((IssueFields.trans (t := setArr s a (issuedUnit (arr s a) v o)) rfl (countIssue_issueFields ..)).trans
      (injectIssue_issueFields ..)).trans (stickItem_issueFields ..)
  case corrupt =>
    have h := injectIssue_mayCorrupt (countIssue (setArr s a (issuedUnit (arr s a) v o)) a o) a o
    rw [mayCorrupt, countIssue_faults, setArr_faults] at h
    rwa [mayCorrupt, vfinish_eq_parts, stickItem_faults]
  case regs =>
    simp only [List.append_nil, List.mem_cons, List.not_mem_nil, or_false, not_or] at hp
    obtain ⟨h08, h10, h28, h30, h38, h40, hinject⟩ := hp
    rw [hregs p hinject, countIssue_regsBut _ a o p (by simp [h08, h10, h28, h30, h38, h40])]
    rfl
  case item => exact (itemOf_vfinish s a v o j).resolve_right fun h => hj h.1
  case sticky =>
    obtain h | ⟨-, w, hw, h⟩ := itemOf_vfinish s a v o j
    · rw [h]
    · rw [h, hw]; rfl
  case others => rw [arr_congr (vfinish_arrays ..), arr_setArr_ne _ _ _ _ hb]
  case place => rw [arr_vfinish]; rfl
  case lanes => rw [vget_vfinish, vwrites_get_of_not_mem hr]; rfl
  case counted =>
    have hne : veReg a.val 0x08 ≠ fltReg 0x080 := by have := a.isLt; unfold veReg fltReg; omega
    rw [rises, hregs _ hne]
    exact countIssue_rises ..

end

/-! ### The registers that an issue writes -/

/-- The frame of an issue whose writes are known. -/
theorem vfinish_frame_of_writes (s : State) (a : ArrId) (v : VInstr) {o : VOut} {ws : List (Fin 32 × VReg)} (h : o.writes = ws) :
    vectorFrame a (ws.map (·.1)) s (vfinish s a v o) := h ▸ vfinish_vectorFrame s a v o

/-- The register after an instruction that writes one. -/
theorem vget_vfinish_single (s : State) (a : ArrId) (v : VInstr) {o : VOut} {d : Fin 32} {x : VReg} (h : o.writes = [(d, x)]) :
    vget (arr (vfinish s a v o) a) d = x := by
  rw [vget_vfinish, h]; simp [vwrites]

/-- The registers after an instruction that writes two. -/
theorem vget_vfinish_pair (s : State) (a : ArrId) (v : VInstr) {o : VOut} {d e : Fin 32} {x y : VReg}
    (hw : o.writes = [(d, x), (e, y)]) (hne : d ≠ e) :
    vget (arr (vfinish s a v o) a) d = x ∧ vget (arr (vfinish s a v o) a) e = y := by
  have hval : e.val ≠ d.val := fun h => hne (Fin.ext h.symm)
  rw [vget_vfinish, vget_vfinish, hw]
  simp [vwrites, hval]

/-- The register after VD is another one, also where it wraps. -/
theorem register_ne_succ (r : Fin 32) : r ≠ r + 1 := by omega

/-! ### The two answers of a vector instruction that may issue -/

section
variable {s : State} {a : ArrId} {v : VInstr} (hready : veReady s a = true)
include hready

theorem vRun_legal {legal : Bool} (o : ArrayUnit → VOut) (h : legal = true) :
    vRun s a v legal o = .next (vfinish s a v (o (arr s a))) := by
  simp [vRun, hready, h]

/-- An engine that may issue runs a work item. -/
theorem veReady_item : ∃ w, arrItem s a = some w := by
  cases h : arrItem s a with
  | some w => exact ⟨w, rfl⟩
  | none => simp [veReady, h] at hready

/-- A form that is not permitted (R44). -/
theorem formFaults_of_illegal {legal : Bool} (o : ArrayUnit → VOut) {c : Instr} (hc : exec c s = vRun s a v legal o)
    (h : legal = false) : formFaults c s := by
  obtain ⟨w, hw⟩ := veReady_item hready
  have hrun : exec c s = .next (schedFault s w (20, (arr s a).vpos, 0) 0 0 (veIssueClk (arr s a) v) a.val) := by
    rw [hc]; simp [vRun, vIllegal, hready, h, hw]
  exact ⟨_, hrun, schedFault_spec ..⟩

end

/-! ### Lane by lane -/

theorem lane_vmk (f : Nat → Lane32) {i : Nat} (h : i < 512) : lane (vmk f) i = f i := by
  simp [lane, vmk, h]

/-- An instruction whose one write is VD, lane by lane. -/
theorem laneResult_of_write {c : Instr} {a : ArrId} {v : VInstr} {s : State} {legal : Bool} {o : ArrayUnit → VOut}
    {g : Nat → Lane32} {f : Lane32 → Lane32 → Lane32 → Lane32} (hready : veReady s a = true)
    (hc : exec c s = vRun s a v legal o) (hl : legal = true) (hw : (o (arr s a)).writes = [(v.vd, vmk g)])
    (hg : ∀ i, i < 512 → g i = f (lane (vget (arr s a) v.va) i) (lane (srcB (arr s a) v) i) (lane (vget (arr s a) v.vc) i)) :
    laneResult c a v s f := by
  refine ⟨vfinish s a v (o (arr s a)), by rw [hc, vRun_legal hready o hl], ?_, fun i hi => ?_⟩
  · exact vfinish_frame_of_writes s a v hw
  · rw [vget_vfinish_single s a v hw, lane_vmk g hi, hg i hi]

end Sys2Proof.Machine
end

section
/-! # Arithmetic lane by lane (O13) -/

namespace Sys2Proof.Machine

/-! ### The formats of an instruction -/

theorem dtIn_of_mem {v : VInstr} {cs : List Nat} (h : v.dt.toNat ∈ cs) : dtIn v cs = true := List.contains_iff_mem.2 h

theorem dtIn_false {v : VInstr} {cs : List Nat} (h : v.dt.toNat ∉ cs) : dtIn v cs = false :=
  Bool.eq_false_iff.2 fun e => h (List.contains_iff_mem.1 e)

/-! ### One lane -/

section
variable {v : VInstr} {used : Nat} {f : Num → Num → Num → Num} {g : Int → Int → Int} (x y z : Lane32)

theorem arithLane_fp32 (h : v.dt = 1) :
    (arithLane v used f g x y z).1 = fp32Enc (f (fp32Val x) (fp32Val y) (fp32Val z)) := by
  rw [arithLane, if_pos h]; rfl

theorem arithLane_bf16 (h : v.dt = 2) :
    (arithLane v used f g x y z).1 = BitVec.ofNat 32
      ((convFF ffBf16 v.sat (f (decodeFF ffBf16 (x.toNat / 65536)) (decodeFF ffBf16 (y.toNat / 65536))
          (decodeFF ffBf16 (z.toNat / 65536)))).1 * 65536
        + (convFF ffBf16 v.sat (f (decodeFF ffBf16 (x.toNat % 65536)) (decodeFF ffBf16 (y.toNat % 65536))
          (decodeFF ffBf16 (z.toNat % 65536)))).1) := by
  rw [arithLane, if_neg (by simp [h]), if_pos h]; rfl

/-- An integer clamped to 32 bits (R166), its bounds written out. -/
theorem clampInt_32 (r : Int) :
    (clampInt 32 r).1 = if r < -2147483648 then -2147483648 else if 2147483647 < r then 2147483647 else r := by
  have hmax : intMax 32 = 2147483647 := rfl
  have hmin : intMin 32 = -2147483648 := rfl
  rw [clampInt, hmax, hmin]
  by_cases hhi : 2147483647 < r
  · simp [hhi, show ¬ r < -2147483648 by omega]
  · by_cases hlo : r < -2147483648 <;> simp [hhi, hlo]

theorem arithLane_int (h : v.dt = 0xA) :
    (arithLane v used f g x y z).1
      = let r := g x.toInt y.toInt
        BitVec.ofInt 32 (if r < -2147483648 then -2147483648 else if 2147483647 < r then 2147483647 else r) := by
  rw [arithLane, if_neg (by simp [h]), if_neg (by simp [h])]
  simp only [intOut, clampInt_32]

end

/-! ### The eight instructions -/

section
variable (a : ArrId) (v : VInstr) (s : State)

theorem exec_add : exec (.add a v) s = vRun s a v (dtIn v [1, 2, 0xA]) (arithOut v 2 (fun x y _ => numAdd x y) (· + ·)) := rfl

theorem exec_sub :
    exec (.sub a v) s = vRun s a v (dtIn v [1, 2, 0xA]) (arithOut v 2 (fun x y _ => numAdd x (numNeg y)) (· - ·)) := rfl

theorem exec_mul : exec (.mul a v) s = vRun s a v (dtIn v [1, 2, 0xA]) (arithOut v 2 (fun x y _ => numMul x y) (· * ·)) := rfl

theorem exec_fma :
    exec (.fma a v) s = vRun s a v (dtIn v [1, 2]) (arithOut v 3 (fun x y z => numAdd (numMul x y) z) (fun x _ => x)) := rfl

theorem exec_max : exec (.max a v) s
    = vRun s a v (dtIn v [1, 2, 0xA]) (arithOut v 2 (fun x y _ => numMax x y) (fun x y => if x < y then y else x)) := rfl

theorem exec_min : exec (.min a v) s
    = vRun s a v (dtIn v [1, 2, 0xA]) (arithOut v 2 (fun x y _ => numMin x y) (fun x y => if x < y then x else y)) := rfl

theorem exec_maxnum :
    exec (.maxnum a v) s = vRun s a v (dtIn v [1, 2]) (arithOut v 2 (fun x y _ => numMaxNum x y) (fun x _ => x)) := rfl

theorem exec_minnum :
    exec (.minnum a v) s = vRun s a v (dtIn v [1, 2]) (arithOut v 2 (fun x y _ => numMinNum x y) (fun x _ => x)) := rfl

end

theorem arithOut_writes (v : VInstr) (used : Nat) (f : Num → Num → Num → Num) (g : Int → Int → Int) (u : ArrayUnit) :
    (arithOut v used f g u).writes = [(v.vd, vmk (fun i =>
      (arithLane v used f g (lane (vget u v.va) i) (lane (srcB u v) i) (lane (vget u v.vc) i)).1))] := rfl

/-- An arithmetic instruction in a format that it has, from what it does to one lane. -/
theorem arith_laneResult {c : Instr} {a : ArrId} {v : VInstr} {s : State} {cs : List Nat} {used : Nat}
    {f : Num → Num → Num → Num} {g : Int → Int → Int} {h : Lane32 → Lane32 → Lane32 → Lane32} (hready : veReady s a = true)
    (hc : exec c s = vRun s a v (dtIn v cs) (arithOut v used f g)) (hdt : v.dt.toNat ∈ cs)
    (hlane : ∀ x y z, (arithLane v used f g x y z).1 = h x y z) : laneResult c a v s h :=
  laneResult_of_write hready hc (dtIn_of_mem hdt) (arithOut_writes ..) fun _ _ => hlane ..

/-- The eight instructions in a floating-point format, `F` being what the format makes of an operation on values. -/
theorem float_laneResults {a : ArrId} {v : VInstr} {s : State}
    {F : (Num → Num → Num → Num) → Lane32 → Lane32 → Lane32 → Lane32} (hready : veReady s a = true) (hdt : v.dt.toNat ∈ [1, 2])
    (hlane : ∀ used f g x y z, (arithLane v used f g x y z).1 = F f x y z) :
    laneResult (.add a v) a v s (F fun x y _ => numAdd x y) ∧ laneResult (.sub a v) a v s (F fun x y _ => numAdd x (numNeg y))
    ∧ laneResult (.mul a v) a v s (F fun x y _ => numMul x y) ∧ laneResult (.fma a v) a v s (F fun x y z => numAdd (numMul x y) z)
    ∧ laneResult (.max a v) a v s (F fun x y _ => numMax x y) ∧ laneResult (.min a v) a v s (F fun x y _ => numMin x y)
    ∧ laneResult (.maxnum a v) a v s (F fun x y _ => numMaxNum x y)
    ∧ laneResult (.minnum a v) a v s (F fun x y _ => numMinNum x y) := by
  have hany : v.dt.toNat ∈ [1, 2, 0xA] := List.mem_append_left [0xA] hdt
  exact ⟨arith_laneResult hready (exec_add a v s) hany (hlane _ _ _), arith_laneResult hready (exec_sub a v s) hany (hlane _ _ _),
    arith_laneResult hready (exec_mul a v s) hany (hlane _ _ _), arith_laneResult hready (exec_fma a v s) hdt (hlane _ _ _),
    arith_laneResult hready (exec_max a v s) hany (hlane _ _ _), arith_laneResult hready (exec_min a v s) hany (hlane _ _ _),
    arith_laneResult hready (exec_maxnum a v s) hdt (hlane _ _ _),
    arith_laneResult hready (exec_minnum a v s) hdt (hlane _ _ _)⟩

/-- Settles O13: one lemma on a lane for each format, and the answer to a form that is not permitted. -/
theorem arithmeticLanes : Obligations.ArithmeticLanes := by
  refine ⟨fun a v s hready hdt => ?fp32, fun a v s hready hdt => ?bf16, fun a v s hready hdt => ?int,
    fun a v s hready h1 h2 => ⟨fun h10 c hc => ?noInt, fun c hc => ?noFloat⟩⟩
  case fp32 =>
    exact float_laneResults hready (by rw [hdt]; decide) fun _ _ _ x y z => arithLane_fp32 x y z hdt
  case bf16 =>
    exact float_laneResults hready (by rw [hdt]; decide) fun _ _ _ x y z => arithLane_bf16 x y z hdt
  case int =>
    have hany : v.dt.toNat ∈ [1, 2, 0xA] := by rw [hdt]; decide
    exact ⟨arith_laneResult hready (exec_add a v s) hany fun x y z => arithLane_int x y z hdt,
      arith_laneResult hready (exec_sub a v s) hany fun x y z => arithLane_int x y z hdt,
      arith_laneResult hready (exec_mul a v s) hany fun x y z => arithLane_int x y z hdt,
      arith_laneResult hready (exec_max a v s) hany fun x y z => arithLane_int x y z hdt,
      arith_laneResult hready (exec_min a v s) hany fun x y z => arithLane_int x y z hdt⟩
  case noInt =>
    have hform : dtIn v [1, 2, 0xA] = false := dtIn_false (by
      simpa using ⟨fun e => h1 (BitVec.eq_of_toNat_eq e), fun e => h2 (BitVec.eq_of_toNat_eq e),
        fun e => h10 (BitVec.eq_of_toNat_eq e)⟩)
    fin_cases hc
    · exact formFaults_of_illegal hready _ (exec_add a v s) hform
    · exact formFaults_of_illegal hready _ (exec_sub a v s) hform
    · exact formFaults_of_illegal hready _ (exec_mul a v s) hform
    · exact formFaults_of_illegal hready _ (exec_max a v s) hform
    · exact formFaults_of_illegal hready _ (exec_min a v s) hform
  case noFloat =>
    have hform : dtIn v [1, 2] = false := dtIn_false (by
      simpa using ⟨fun e => h1 (BitVec.eq_of_toNat_eq e), fun e => h2 (BitVec.eq_of_toNat_eq e)⟩)
    fin_cases hc
    · exact formFaults_of_illegal hready _ (exec_fma a v s) hform
    · exact formFaults_of_illegal hready _ (exec_maxnum a v s) hform
    · exact formFaults_of_illegal hready _ (exec_minnum a v s) hform

end Sys2Proof.Machine
end

section
/-! # Conversion and block quantisation (O16) -/

namespace Sys2Proof.Machine

theorem quantSource_fp32 (u : ArrayUnit) {v : VInstr} (h : v.dt = 1) : quantSource u v = (vget u v.va).toList := if_pos h

section
variable (a : ArrId) (v : VInstr) (s : State)

/-- CVT writes VD alone (R55, R169). -/
theorem exec_cvt : ∃ o, exec (.cvt a v) s = vRun s a v (isVecFmt v.dt.toNat && isVecFmt v.dt2.toNat) o
    ∧ ∀ u, (o u).writes = [(v.vd, natReg (packNat (fmtBits v.dt2.toNat)
        ((List.range (Nat.min (16384 / fmtBits v.dt.toNat) (16384 / fmtBits v.dt2.toNat))).map (fun i =>
          (convTo v.dt2.toNat v.sat (decodeNum v.dt.toNat (regElem v.dt.toNat (regNat (vget u v.va)) i))).1))))] := by
  change ∃ o, execCvt a v s = vRun s a v _ o ∧ _
  unfold execCvt
  refine ⟨_, rfl, fun u => ?_⟩
  dsimp only
  rw [List.map_map, List.map_map]
  rfl

/-- The blocks of QUANT, each its source's elements times their multipliers (R172). -/
def quantBlocks (u : ArrayUnit) (v : VInstr) : List (List Nat × Nat × Ev × Nat) :=
  let x := quantSource u v
  let b := quantScale u v x.length
  let w := 2 ^ v.seg.toNat
  (List.range (x.length / w)).map (fun i =>
    quantBlock (v.aux.toNat % 16 == 0xD) v.dt2.toNat ((x.drop (i * w)).take w) ((b.drop (i * w)).take w))

/-- QUANT writes VD and the register after it (R172). -/
theorem exec_quant : ∃ o, exec (.quant a v) s = vRun s a v (quantOk v) o
    ∧ ∀ u, (o u).writes = [(v.vd, natReg (packNat (fmtBits v.dt2.toNat) ((quantBlocks u v).flatMap (·.1)))),
        (v.vd + 1, natReg (packNat 8 ((quantBlocks u v).map (·.2.1))))] := by
  change ∃ o, execQuant a v s = vRun s a v _ o ∧ _
  unfold execQuant
  exact ⟨_, rfl, fun _ => rfl⟩

end

/-- Settles O16: the two permitted forms write what R55 and R172 compute, the others are schedule faults. -/
theorem formatInstructions : Obligations.FormatInstructions := by
  intro a v s hready u d e k w x b blocks
  obtain ⟨cvt, hcvt, hcvtWrites⟩ := exec_cvt a v s
  obtain ⟨quant, hquant, hquantWrites⟩ := exec_quant a v s
  refine ⟨fun hform => ⟨_, hcvt.trans (vRun_legal hready _ hform), ?cvtFrame, ?cvtWrite⟩, formFaults_of_illegal hready _ hcvt,
    fun hform => ⟨_, hquant.trans (vRun_legal hready _ hform), ?quantFrame, ?elements, ?scales, quantSource_fp32 u⟩,
    formFaults_of_illegal hready _ hquant⟩
  case cvtFrame => exact vfinish_frame_of_writes s a v (hcvtWrites u)
  case cvtWrite => exact vget_vfinish_single s a v (hcvtWrites u)
  case quantFrame => exact vfinish_frame_of_writes s a v (hquantWrites u)
  case elements => exact (vget_vfinish_pair s a v (hquantWrites u) (register_ne_succ v.vd)).1
  case scales => exact (vget_vfinish_pair s a v (hquantWrites u) (register_ne_succ v.vd)).2

end Sys2Proof.Machine
end

section
/-! # The chunk update (O11)

What an array counts and traps in its arithmetic (R121 to R124) reaches its own counters and NaN trap, and the sticky bits of a
work item. -/

namespace Sys2Proof.Machine

/-! ### Frames of registers -/

theorem regsBut_refl (os : List Nat) (s : State) : regsBut os s s := fun _ _ => rfl

theorem regsBut_trans {os : List Nat} {s t u : State} (a : regsBut os s t) (b : regsBut os t u) : regsBut os s u :=
  fun o h => (b o h).trans (a o h)

theorem regsBut_mono {os ps : List Nat} {s n : State} (h : regsBut os s n) (hsub : os ⊆ ps) : regsBut ps s n :=
  fun o ho => h o fun hm => ho (hsub hm)

theorem regsBut_of_regs {os : List Nat} {s n : State} (h : n.regs = s.regs) : regsBut os s n := fun o _ => regGet_congr h o

theorem regsBut_regBump {os : List Nat} (s : State) {o : Nat} (k : Nat) (h : o ∈ os) : regsBut os s (regBump s o k) :=
  fun p hp => by rw [regGet_regBump, if_neg (ne_of_mem_of_not_mem h hp).symm]

/-! ### Events counted and NaNs trapped -/

/-- The offsets of an array's event counters and of its NaN trap (R128). -/
def eventOffsets : List Nat := [0x100, 0x108, 0x110, 0x118, 0x120, 0x128, 0x148, 0x150, 0x158, 0x160]

/-- Events of array `a` counted or trapped: only its own counters, its trap and the sticky bits of work items may differ. -/
structure EventsNoted (a : ArrId) (s n : State) : Prop where
  fields : n = { s with regs := n.regs, items := n.items }
  regs   : regsBut (eventOffsets.map (arrReg a.val)) s n

theorem EventsNoted.refl (a : ArrId) (s : State) : EventsNoted a s s := ⟨rfl, regsBut_refl _ s⟩

theorem EventsNoted.trans {a : ArrId} {s t u : State} (h : EventsNoted a s t) (k : EventsNoted a t u) : EventsNoted a s u :=
  ⟨k.fields.trans (by rw [h.fields]), regsBut_trans h.regs k.regs⟩

theorem EventsNoted.arrays {a : ArrId} {s n : State} (h : EventsNoted a s n) : n.arrays = s.arrays := by rw [h.fields]

section
variable (a : ArrId) (s : State)

theorem regSet_eventsNoted {off : Nat} (v : Nat) (h : off ∈ eventOffsets) : EventsNoted a s (regSet s (arrReg a.val off) v) :=
  ⟨rfl, regsBut_mono (regsBut_regSet s _ v) (List.cons_subset.2 ⟨List.mem_map_of_mem h, List.nil_subset _⟩)⟩

theorem regFlag_eventsNoted {off : Nat} (b : Nat) (h : off ∈ eventOffsets) : EventsNoted a s (regFlag s (arrReg a.val off) b) :=
  regSet_eventsNoted a s _ h

theorem regBump_eventsNoted {off : Nat} (k : Nat) (h : off ∈ eventOffsets) :
    EventsNoted a s (regBump s (arrReg a.val off) k) := by
  unfold regBump
  split
  · exact .refl a s
  · exact regSet_eventsNoted a s _ h

theorem stickItem_eventsNoted (id : Option Nat) (e : Nat) : EventsNoted a s (stickItem s id e) := by
  refine ⟨?_, regsBut_of_regs (stickItem_regs ..)⟩
  unfold stickItem
  repeat' split
  all_goals rfl

theorem countOs_eventsNoted (e : Ev) : EventsNoted a s (countOs s a e) := by
  unfold countOs
  extract_lets s1 s2 s3 s4 s5
  have h5 : EventsNoted a s s5 :=
    ((((regBump_eventsNoted a s _ (by decide)).trans (regBump_eventsNoted a s1 _ (by decide))).trans
      (regBump_eventsNoted a s2 _ (by decide))).trans (regBump_eventsNoted a s3 _ (by decide))).trans
      (regBump_eventsNoted a s4 _ (by decide))
  exact h5.trans (stickItem_eventsNoted a s5 _ _)

theorem nanTrap_eventsNoted (es : List NanEvent) : EventsNoted a s (nanTrap s a es) := by
  unfold nanTrap
  split
  case h_1 => exact .refl a s
  case h_2 x _ =>
    extract_lets w st valid time old fur earlier s1 s2 s3 s4 s5 s6
    have h1 : EventsNoted a s s1 := regBump_eventsNoted a s _ (by decide)
    have h2 : EventsNoted a s s2 := h1.trans (stickItem_eventsNoted a s1 _ _)
    have h3 : EventsNoted a s s3 := by
      unfold s3
      split
      · exact h2.trans (regFlag_eventsNoted a s2 1 (by decide))
      · exact h2
    split
    · exact h3
    · have h5 : EventsNoted a s3 s5 :=
        (regFlag_eventsNoted a s3 0 (by decide)).trans (regSet_eventsNoted a s4 _ (by decide))
      exact ((h3.trans h5).trans (regSet_eventsNoted a s5 _ (by decide))).trans (regSet_eventsNoted a s6 _ (by decide))

end

/-! ### The update -/

/-- The array after the update of a row by its step `p` (R109): `rest` is the pipeline without the step. -/
def updatedUnit (u : ArrayUnit) (row : Nat) (p : RowStep) (rest : List RowStep) : ArrayUnit :=
  let e := passEntry p.desc p.elem p.pass
  setAcc { u with pipe := rest } row e
    ((updateCells p (decide (p.step + 1 = p.desc.kSteps)) (accCells u row e) (p.held.getD [])).map (·.cell))

/-- A chunk update is the row's cells replaced, and its events noted. -/
theorem exec_chunkUpdate {a : ArrId} {row : Fin 16} {s : State} {p : RowStep} {rest : List RowStep}
    (h : takeRow row.val (arr s a).pipe = some (p, rest)) :
    ∃ n, exec (.chunkUpdate a row) s = .next n ∧ EventsNoted a (setArr s a (updatedUnit (arr s a) row.val p rest)) n := by
  change ∃ n, execChunkUpdate a row s = .next n ∧ _
  simp only [execChunkUpdate, h]
  exact ⟨_, rfl, (countOs_eventsNoted ..).trans (nanTrap_eventsNoted ..)⟩

theorem exec_chunkUpdate_none {a : ArrId} {row : Fin 16} {s : State} (h : takeRow row.val (arr s a).pipe = none) :
    exec (.chunkUpdate a row) s = .next s := by
  change execChunkUpdate a row s = _
  simp only [execChunkUpdate, h]

/-- Settles O11: the row's cells are replaced, and what arises in them is noted. -/
theorem chunkUpdateAccumulates : Obligations.ChunkUpdateAccumulates := by
  intro a row s u
  refine ⟨fun p rest hp => ?_, exec_chunkUpdate_none⟩
  intro e
  obtain ⟨n, hn, hnoted⟩ := exec_chunkUpdate hp
  refine ⟨n, hn, ?_, fun b hb => ?_, ?_, fun o ho => hnoted.regs o ho⟩
  · exact hnoted.fields.trans (by rw [hnoted.arrays]; rfl)
  · rw [arr_congr hnoted.arrays, arr_setArr_ne _ _ _ _ hb]
  · rw [arr_congr hnoted.arrays, arr_setArr]
    rfl

end Sys2Proof.Machine
end

section
/-! # Drains (O12) -/

namespace Sys2Proof.Machine

/-! ### What the parts of a drain leave unchanged -/

/-- What only the output stage itself and the end of a row change: the rows in the stage, the drains, the scratchpad and the
vector registers are as they were. -/
structure OutputKept (u v : ArrayUnit) : Prop where
  outq   : v.outq = u.outq
  drains : v.drains = u.drains
  spad   : v.spad = u.spad
  vregs  : v.vregs = u.vregs

theorem OutputKept.refl (u : ArrayUnit) : OutputKept u u := ⟨rfl, rfl, rfl, rfl⟩

theorem OutputKept.trans {u v x : ArrayUnit} (a : OutputKept u v) (b : OutputKept v x) : OutputKept u x :=
  ⟨b.outq.trans a.outq, b.drains.trans a.drains, b.spad.trans a.spad, b.vregs.trans a.vregs⟩

/-- The state of an array between issues concerns its `st` alone (R104). -/
theorem restUnit_eq (u : ArrayUnit) : restUnit u = { u with st := (restUnit u).st } := by
  unfold restUnit
  extract_lets issuing
  repeat' split
  all_goals rfl

/-- An access checked changes the slots alone (R208). -/
theorem slotCheck_eq {u v : ArrayUnit} {unit : Nat} {wr : Bool} {x n : Nat} (h : slotCheck u unit wr x n = .ok v) :
    v = { u with slots := v.slots } := by
  unfold slotCheck at h
  split at h
  · cases h
    rfl
  · cases h

theorem fillMasksN_outputKept (mg : Vector MgenSlot 8) (t fuel : Nat) (u : ArrayUnit) :
    OutputKept u (fillMasksN mg t fuel u).1 := by
  induction fuel generalizing u with
  | zero => exact .refl u
  | succ fuel ih =>
    unfold fillMasksN
    split
    · exact .refl u
    · extract_lets q w r
      split
      · refine .trans ?_ (ih _)
        exact ⟨rfl, rfl, rfl, rfl⟩
      · split
        · exact .refl u
        · refine .trans ?_ (ih _)
          exact ⟨rfl, rfl, rfl, rfl⟩

/-- The mask generator fills the mask buffer alone (R184). -/
theorem fillMasks_outputKept (mg : Vector MgenSlot 8) (t : Nat) (u : ArrayUnit) : OutputKept u (fillMasks mg t u).1 :=
  fillMasksN_outputKept ..

/-- The end of a row moves the first drain on, or ends it with the tile's last row (R115). -/
theorem afterRow_outputKept (u : ArrayUnit) (x : DrainRun) (m t : Nat) :
    OutputKept { u with drains :=
        if m + 1 = 16 * tileE x.desc then u.drains.drop 1 else u.drains.set 0 { x with nextRow := m + 1 } }
      (afterRow u x m t) := by
  unfold afterRow
  extract_lets u1 d n es u2 u3 drains
  have h1 : OutputKept u u1 := by
    unfold u1
    split
    · exact ⟨rfl, rfl, rfl, rfl⟩
    · exact .refl u
  have h3 : OutputKept u1 u3 := by
    unfold u3
    split
    · exact ⟨rfl, rfl, rfl, rfl⟩
    · exact .refl u1
  have h := h1.trans h3
  rw [restUnit_eq]
  refine ⟨h.outq, ?_, h.spad, h.vregs⟩
  dsimp only [drains]
  rw [h.drains]

/-! ### DRAIN -/

theorem exec_drain {a : ArrId} {t : Clk} {s : State} {i : Nat} {x : DrainRun}
    (hx : findIdxFrom (fun x => x.started.isNone) (arr s a).drains 0 = some (i, x)) (hdue : x.due ≤ t)
    (hpipe : ∀ p ∈ (arr s a).pipe, p.tile ≠ x.idx) :
    exec (.drain a t) s
      = .next (setArr s a (restUnit { arr s a with drains := (arr s a).drains.set i { x with started := some t } })) := by
  have hall : (arr s a).pipe.all (fun p => p.tile != x.idx) = true := List.all_eq_true.2 fun p hp => bne_iff_ne.2 (hpipe p hp)
  change execDrain a t s = _
  simp only [execDrain, hx, hdue, hall, and_self, if_true]

theorem exec_drain_waits {a : ArrId} {t : Clk} {s : State} {i : Nat} {x : DrainRun}
    (hx : findIdxFrom (fun x => x.started.isNone) (arr s a).drains 0 = some (i, x))
    (hwait : t < x.due ∨ ∃ p ∈ (arr s a).pipe, p.tile = x.idx) : exec (.drain a t) s = .next s := by
  have hnot : ¬ (x.due ≤ t ∧ (arr s a).pipe.all (fun p => p.tile != x.idx) = true) := by
    rintro ⟨hdue, hall⟩
    rcases hwait with h | ⟨p, hp, htile⟩
    · exact Nat.not_lt.2 hdue h
    · exact bne_iff_ne.1 (List.all_eq_true.1 hall p hp) htile
  change execDrain a t s = _
  simp only [execDrain, hx, if_neg hnot]

/-! ### OUTPUT_ROW -/

/-- The array `a` after the mask generator has filled its buffer, and the words counted in MGEN (R184). -/
def maskFilled (s : State) (a : ArrId) (t : Clk) : State :=
  regBump (setArr s a (fillMasks s.mgen t (arr s a)).1) (mgenReg 0x10) (fillMasks s.mgen t (arr s a)).2

/-- The elements of output row `m` of a drain (R117), `mw` being the row's mask word. -/
def rowElems (u : ArrayUnit) (d : TileDesc) (m mw : Nat) : List OutElem :=
  (List.range 64).map (fun c => outputElement d (tensorT d) (bitAt mw c)
    (nthD {} (accCells u (m % 16) (passEntry d (m / 16) 0)) c) (nthD {} (accCells u (m % 16) (passEntry d (m / 16) 1)) c))

/-- Output row `m` of a drain as it enters the output stage at clock `t` (R117 to R120). -/
def rowOut (u : ArrayUnit) (x : DrainRun) (m mw t : Nat) : OutRow :=
  { m := m, addr := x.desc.outBase + m * x.desc.outMStride
    bytes := packElems x.desc.outFmt ((rowElems u x.desc m mw).map (·.code))
    stats := rowStats x.desc.fuse ((rowElems u x.desc m mw).map (·.stat)), tile := x.idx, clk := t + 4
    last := decide ((fedRows x.desc).getLast? = some m) }

section
variable {a : ArrId} {t t0 : Nat} {s : State} {x : DrainRun} {xs : List DrainRun} (hdrains : (arr s a).drains = x :: xs)
  (hstart : x.started = some t0) (hrow : t0 + 12 + x.nextRow ≤ t) (hstage : (arr s a).outAt ≤ t)
  (hroom : (arr s a).outq.length < 8)

include hdrains hstart hrow hstage hroom

theorem exec_outputRow_unfed (hfed : rowFed x.desc (x.nextRow % 16) (x.nextRow / 16) = false) :
    exec (.outputRow a t) s
      = .next (setArr (maskFilled s a t) a (afterRow (fillMasks s.mgen t (arr s a)).1 x x.nextRow t)) := by
  have hdue : ¬ (t < t0 + 12 + x.nextRow ∨ t < (arr s a).outAt ∨ 8 ≤ (arr s a).outq.length) := by omega
  change execOutputRow a t s = _
  simp only [execOutputRow, hdrains, hstart, if_neg hdue, hfed]
  rfl

theorem exec_outputRow_fed {u1 : ArrayUnit} {mw : Nat} (hfed : rowFed x.desc (x.nextRow % 16) (x.nextRow / 16) = true)
    (hcheck : (if x.desc.maskSrc = 1 then slotCheck (fillMasks s.mgen t (arr s a)).1 2 false (x.desc.maskBase + 8 * x.nextRow) 8
      else .ok (fillMasks s.mgen t (arr s a)).1) = .ok u1)
    (hmask : maskWord (fillMasks s.mgen t (arr s a)).1 x.desc x.nextRow = some mw) :
    ∃ n, exec (.outputRow a t) s = .next n
      ∧ EventsNoted a (setArr (maskFilled s a t) a
          (afterRow { u1 with outq := u1.outq ++ [rowOut u1 x x.nextRow mw t] } x x.nextRow t)) n := by
  have hdue : ¬ (t < t0 + 12 + x.nextRow ∨ t < (arr s a).outAt ∨ 8 ≤ (arr s a).outq.length) := by omega
  change ∃ n, execOutputRow a t s = .next n ∧ _
  simp only [execOutputRow, hdrains, hstart, if_neg hdue, hfed, hcheck, hmask, not_true_eq_false, if_false]
  exact ⟨_, rfl, (countOs_eventsNoted ..).trans (nanTrap_eventsNoted ..)⟩

end

/-! ### OUTPUT_ROW_WRITE -/

/-- A byte written into the scratchpad changes bytes and banks alone (R138, R140). -/
theorem spadPutByte_eq (r : ArrayUnit × Nat) (x : Nat) (b : Byte) :
    (spadPutByte r x b).1 = { r.1 with spad := (spadPutByte r x b).1.spad, banks := (spadPutByte r x b).1.banks } := by
  unfold spadPutByte
  extract_lets u k bank
  split <;> rfl

theorem spadPut_eq (r : ArrayUnit × Nat) (x : Nat) (bs : List Byte) :
    (spadPut r x bs).1 = { r.1 with spad := (spadPut r x bs).1.spad, banks := (spadPut r x bs).1.banks } := by
  induction bs generalizing r x with
  | nil => rfl
  | cons b bs ih =>
    unfold spadPut
    rw [ih, spadPutByte_eq]

/-- The bytes after one was put: written, or waiting in its bank. -/
theorem spadPutByte_spad (r : ArrayUnit × Nat) (x : Nat) (b : Byte) :
    (spadPutByte r x b).1.spad = cellWrite x b r.1.spad ∨ (spadPutByte r x b).1.spad = r.1.spad := by
  unfold spadPutByte
  extract_lets u k bank
  split
  · exact .inl rfl
  all_goals exact .inr rfl

theorem spadPutByte_spad_of_on (r : ArrayUnit × Nat) (x : Nat) (b : Byte) (h : (r.1.banks[bankOf r.1 x]).power = .on) :
    (spadPutByte r x b).1 = { r.1 with spad := cellWrite x b r.1.spad } := by
  unfold spadPutByte
  extract_lets u k bank
  have hon : bank.power = .on := h
  rw [hon]

theorem cellRead_spadPut_outside (r : ArrayUnit × Nat) (x y : Nat) (bs : List Byte) (hm : memWf r.1.spad = true)
    (hy : y < x ∨ x + bs.length ≤ y) : cellRead y (spadPut r x bs).1.spad = cellRead y r.1.spad := by
  induction bs generalizing r x with
  | nil => rfl
  | cons b bs ih =>
    rw [List.length_cons] at hy
    unfold spadPut
    rcases spadPutByte_spad r x b with h | h
    · rw [ih _ _ (h ▸ memWf_write _ _ _ hm) (by omega), h, cellRead_write _ _ _ _ ((memWf_iff _).1 hm).1, if_neg (by omega)]
    · rw [ih _ _ (h ▸ hm) (by omega), h]

/-- With every bank ON the bytes put are the bytes read. -/
theorem cellReads_spadPut (r : ArrayUnit × Nat) (x : Nat) (bs : List Byte) (hm : memWf r.1.spad = true)
    (hon : ∀ b : Fin 32, (r.1.banks[b]).power = .on) : cellReads (spadPut r x bs).1.spad x bs.length = bs := by
  induction bs generalizing r x with
  | nil => rfl
  | cons b bs ih =>
    have hput := spadPutByte_spad_of_on r x b (hon _)
    have hm' : memWf (spadPutByte r x b).1.spad = true := by rw [hput]; exact memWf_write _ _ _ hm
    have hon' : ∀ k : Fin 32, ((spadPutByte r x b).1.banks[k]).power = .on := by rw [hput]; exact hon
    rw [List.length_cons, cellReads]
    unfold spadPut
    rw [ih _ _ hm' hon', cellRead_spadPut_outside _ _ _ _ hm' (.inl (Nat.lt_succ_self x)), hput,
      cellRead_write _ _ _ _ ((memWf_iff _).1 hm).1, if_pos rfl]

/-- The array whose oldest output row leaves the stage, before the row's bytes are stored: its statistics are kept (R119). -/
def rowLeft (u : ArrayUnit) (r : OutRow) (rest : List OutRow) : ArrayUnit :=
  { u with
    outq := rest
    stats := insertN r.m (statAfter ((lookupN r.m u.stats).getD { max := 0, sum := 0, sq := 0, tag := none }) r) u.stats }

/-- A store into the scratchpad of array `a`, `u` being the array before it and `os` registers that count beside it: its bytes are
put, the late wakes are counted, and an armed error injection is taken (R140, R394). -/
structure Stored (os : List Nat) (a : ArrId) (u : ArrayUnit) (x : Nat) (bs : List Byte) (s n : State) : Prop where
  fields  : n = { s with arrays := n.arrays, regs := n.regs, faults := n.faults }
  arrays  : n.arrays = s.arrays.set a (spadPut (u, 0) x bs).1
  corrupt : mayCorrupt s n
  regs    : regsBut (os ++ [spReg a.val 0x10, fltReg 0x080]) s n

theorem disarm_eq (s : State) (c u : Nat) :
    disarm s c u = { s with regs := (disarm s c u).regs, faults := (disarm s c u).faults } := by
  unfold disarm
  extract_lets v s1
  repeat' split
  all_goals rfl

theorem spadStore_stored (s : State) (a : ArrId) (u : ArrayUnit) (x : Nat) (bs : List Byte) :
    Stored [] a u x bs s (spadStore (setArr s a u) a x bs) := by
  unfold spadStore
  rw [arr_setArr]
  extract_lets r
  generalize hw : regBump (setArr (setArr s a u) a r.1) (spReg a.val 0x10) r.2 = w
  have hfields : w = { s with arrays := w.arrays, regs := w.regs } := by rw [← hw, regBump_arrays, regBump_eq]; rfl
  have harrays : w.arrays = s.arrays.set a r.1 := by rw [← hw, regBump_arrays]; simp [setArr]
  refine ⟨?_, (disarm_arrays ..).trans harrays, ?_, fun o ho => ?_⟩
  · rw [disarm_arrays]
    exact (disarm_eq w 2 a.val).trans (by rw [hfields])
  · have h := disarm_mayCorrupt w 2 a.val
    rwa [mayCorrupt, show w.faults = s.faults by rw [hfields]] at h
  · simp only [List.nil_append, List.mem_cons, List.not_mem_nil, or_false, not_or] at ho
    rw [regGet_disarm _ _ _ ho.2, ← hw, regGet_regBump, if_neg ho.1]
    rfl

theorem Stored.others {os : List Nat} {a : ArrId} {u : ArrayUnit} {x : Nat} {bs : List Byte} {s n : State}
    (h : Stored os a u x bs s n) : arrsBut a s n := fun b hb =>
  (arr_congr (t := n) (s := setArr s a (spadPut (u, 0) x bs).1) h.arrays b).trans (arr_setArr_ne _ _ _ _ hb)

theorem Stored.unit {os : List Nat} {a : ArrId} {u : ArrayUnit} {x : Nat} {bs : List Byte} {s n : State}
    (h : Stored os a u x bs s n) : arr n a = (spadPut (u, 0) x bs).1 :=
  (arr_congr (t := n) (s := setArr s a (spadPut (u, 0) x bs).1) h.arrays a).trans (arr_setArr ..)

/-- A counter beside a store. -/
theorem Stored.regBump {os : List Nat} {a : ArrId} {u : ArrayUnit} {x : Nat} {bs : List Byte} {s n : State}
    (h : Stored os a u x bs s n) (o k : Nat) : Stored (o :: os) a u x bs s (regBump n o k) := by
  refine ⟨?_, (regBump_arrays ..).trans h.arrays, ?_, ?_⟩
  · rw [regBump_arrays, regBump_faults]
    exact (regBump_eq n o k).trans (by rw [h.fields])
  · rw [mayCorrupt, regBump_faults]
    exact h.corrupt
  · exact regsBut_trans (regsBut_mono h.regs (List.subset_cons_self ..)) (regsBut_regBump n k List.mem_cons_self)

theorem exec_outputRowWrite {a : ArrId} {lost : Nat} {s : State} {r : OutRow} {rest : List OutRow} {u1 : ArrayUnit}
    (hq : (arr s a).outq = r :: rest) (hcheck : slotCheck (arr s a) 2 true r.addr r.bytes.length = .ok u1) :
    exec (.outputRowWrite ⟨a, lost⟩) s
      = .next (regBump (regBump (spadStore (setArr s a (rowLeft u1 r rest)) a r.addr r.bytes) (arrReg a.val 0x130) 1)
          (spReg a.val 0x20) lost) := by
  change execOutputRowWrite ⟨a, lost⟩ s = _
  simp only [execOutputRowWrite, hq, hcheck]
  rfl

/-! ### The statement's parts -/

theorem maskFilled_frame (s : State) (a : ArrId) (t : Clk) (u : ArrayUnit) :
    let n := setArr (maskFilled s a t) a u
    n = { s with arrays := n.arrays, regs := n.regs } ∧ arrsBut a s n := by
  refine ⟨?_, fun b hb => ?_⟩
  · rw [maskFilled, regBump_eq]
    rfl
  · rw [arr_setArr_ne _ _ _ _ hb, maskFilled, arr_congr (regBump_arrays ..), arr_setArr_ne _ _ _ _ hb]

theorem afterRow_drains {u : ArrayUnit} {x : DrainRun} {xs : List DrainRun} (h : u.drains = x :: xs) (m t : Nat) :
    (afterRow u x m t).drains = if m + 1 = 16 * tileE x.desc then xs else { x with nextRow := m + 1 } :: xs := by
  rw [(afterRow_outputKept u x m t).drains, h]
  rfl

/-- The access to a mask word in the scratchpad, where the tile has its masks there, changes the slots alone. -/
theorem maskCheck_eq {u u1 : ArrayUnit} {d : TileDesc} {m : Nat}
    (h : (if d.maskSrc = 1 then slotCheck u 2 false (d.maskBase + 8 * m) 8 else .ok u) = .ok u1) :
    u1 = { u with slots := u1.slots } := by
  split at h
  · exact slotCheck_eq h
  · cases h
    rfl

theorem rowElems_congr {u v : ArrayUnit} (h : v.acc = u.acc) (d : TileDesc) (m mw : Nat) :
    rowElems v d m mw = rowElems u d m mw := by
  unfold rowElems accCells
  rw [h]

/-! ### Places of registers (R488) -/

theorem arrReg_ne_spReg (a b : ArrId) {x : Nat} (y : Nat) (hx : x < 0x10000) : arrReg a.val x ≠ spReg b.val y := by
  have := a.isLt
  unfold arrReg spReg feReg
  omega

theorem arrReg_ne_fltReg (a : ArrId) {x : Nat} (y : Nat) (hx : x < 0x10000) : arrReg a.val x ≠ fltReg y := by
  have := a.isLt
  unfold arrReg fltReg
  omega

theorem spReg_ne_fltReg (a : ArrId) {x : Nat} (y : Nat) (hx : x < 0x800) : spReg a.val x ≠ fltReg y := by
  have := a.isLt
  unfold spReg feReg fltReg
  omega

theorem spReg_inj (a : ArrId) {x y : Nat} : spReg a.val x = spReg a.val y ↔ x = y := by
  unfold spReg feReg
  omega

/-- Settles O12: the begin of a drain, a row into the output stage, and a row out of it. -/
theorem drainsReachScratchpad : Obligations.DrainsReachScratchpad := by
  refine ⟨fun a t s i x => ?begin, fun a t t0 s x xs => ?row, fun a lost s r rest u1 => ?write⟩
  case begin =>
    intro u hx
    refine ⟨fun hdue hpipe => ⟨_, exec_drain hx hdue hpipe, rfl, fun b hb => arr_setArr_ne _ _ _ _ hb, ?_⟩, exec_drain_waits hx⟩
    rw [arr_setArr]
    exact restUnit_eq _
  case row =>
    intro u d m cells hdrains hstart hrow hstage hroom
    have hfill : OutputKept (arr s a) u := fillMasks_outputKept ..
    refine ⟨fun u1 mw hfed hcheck hmask => ?fed, fun hfed => ?unfed⟩
    case fed =>
      obtain ⟨n, hn, hnoted⟩ := exec_outputRow_fed hdrains hstart hrow hstage hroom hfed hcheck hmask
      have hkept := afterRow_outputKept { u1 with outq := u1.outq ++ [rowOut u1 x m mw t] } x m t
      have hu1 : u1 = { u with slots := u1.slots } := maskCheck_eq hcheck
      have hacc : u1.acc = u.acc := by rw [hu1]
      obtain ⟨hfields, hothers⟩ := maskFilled_frame s a t (afterRow { u1 with outq := u1.outq ++ [rowOut u1 x m mw t] } x m t)
      refine ⟨n, rowOut u1 x m mw t, hn, ?_, fun b hb => ?_, ?_, rfl, rfl, rfl, ?_, ?_, ?_⟩
      · rw [hnoted.arrays]
        exact hnoted.fields.trans (by rw [hfields])
      · rw [arr_congr hnoted.arrays, hothers b hb]
      · rw [arr_congr hnoted.arrays, arr_setArr, hkept.outq, ← hfill.outq, hu1]
      · rw [rowOut, rowElems_congr hacc, rowElems, List.map_map]
        rfl
      · rw [arr_congr hnoted.arrays, arr_setArr, hkept.spad, ← hfill.spad, hu1]
      · rw [arr_congr hnoted.arrays, arr_setArr, hkept.vregs, ← hfill.vregs, hu1]
    case unfed =>
      have hkept := afterRow_outputKept u x m t
      obtain ⟨hfields, hothers⟩ := maskFilled_frame s a t (afterRow u x m t)
      refine ⟨_, exec_outputRow_unfed hdrains hstart hrow hstage hroom hfed, hfields, hothers, ?_, ?_, ?_⟩
      · rw [arr_setArr, ← hfill.outq]
        exact hkept.outq
      · rw [arr_setArr, ← hfill.spad]
        exact hkept.spad
      · rw [arr_setArr]
        exact afterRow_drains (hfill.drains.trans hdrains) m t
  case write =>
    intro u hq hcheck
    have hu1 : u1 = { u with slots := u1.slots } := slotCheck_eq hcheck
    have hstore := spadStore_stored s a (rowLeft u1 r rest) r.addr r.bytes
    have hwrite := (hstore.regBump (arrReg a.val 0x130) 1).regBump (spReg a.val 0x20) lost
    have hspad : (rowLeft u1 r rest).spad = u.spad := by rw [rowLeft, hu1]
    have hput := spadPut_eq (rowLeft u1 r rest, 0) r.addr r.bytes
    refine ⟨_, exec_outputRowWrite hq hcheck, hwrite.fields, hwrite.others, hwrite.corrupt, ?_, ?_, ?_, ?_, ?_,
      fun hm y hy => ?_, fun hm hon => ?_⟩
    · rw [hwrite.unit, hput]
      rfl
    · rw [rises, regGet_regBump, if_neg (arrReg_ne_spReg a a _ (by decide)), regGet_regBump, if_pos rfl, hstore.regs]
      simp [arrReg_ne_spReg, arrReg_ne_fltReg]
    · rw [rises, regGet_regBump, if_pos rfl, regGet_regBump, if_neg (arrReg_ne_spReg a a _ (by decide)).symm, hstore.regs]
      simp [spReg_inj, spReg_ne_fltReg]
    · refine regsBut_mono hwrite.regs fun o ho => ?_
      simp only [List.mem_append, List.mem_cons, List.not_mem_nil, or_false] at ho ⊢
      tauto
    · rw [hwrite.unit, hput]
      exact (lookupN_insertN ..).trans ((if_pos rfl).trans (by rw [hu1]))
    · rw [hwrite.unit, cellRead_spadPut_outside _ _ _ _ (hspad ▸ hm) hy, hspad]
    · rw [hwrite.unit]
      exact cellReads_spadPut _ _ _ (hspad ▸ hm) (by rw [rowLeft, hu1]; exact hon)

end Sys2Proof.Machine
end

section
/-! # Gangs

What a step made on every array of a gang comes to (R94 to R97), and what the reads of a clock change: the held load that begins
and the feeders that read ahead (R77, R79). -/

namespace Sys2Proof.Machine

/-! ### A step made for each member of a list -/

section
variable {ι α : Type} {f : State → ι → State}

/-- A reading that no member changes. -/
theorem foldl_reads {g : State → α} (l : List ι) (s : State) (h : ∀ s, ∀ i ∈ l, g (f s i) = g s) : g (l.foldl f s) = g s := by
  induction l generalizing s with
  | nil => rfl
  | cons i l ih =>
    exact (ih _ fun s j hj => h s j (List.mem_cons_of_mem i hj)).trans (h s i List.mem_cons_self)

/-- A reading that one member alone changes: it is what that member's step makes of it, in the state that some of the others have
left. -/
theorem foldl_reads_mem {g : State → α} {l : List ι} {i : ι} (hl : l.Nodup) (hi : i ∈ l)
    (h : ∀ s, ∀ j ∈ l, j ≠ i → g (f s j) = g s) (s : State) :
    ∃ p, p ⊆ l ∧ g (p.foldl f s) = g s ∧ g (l.foldl f s) = g (f (p.foldl f s) i) := by
  obtain ⟨p, q, rfl⟩ := List.append_of_mem hi
  obtain ⟨-, hq, hdisj⟩ := List.nodup_append.1 hl
  have hp : ∀ j ∈ p, j ≠ i := fun j hj => hdisj j hj i List.mem_cons_self
  have hq : ∀ j ∈ q, j ≠ i := fun j hj e => (List.nodup_cons.1 hq).1 (e ▸ hj)
  refine ⟨p, List.subset_append_left .., foldl_reads p s fun s j hj => h s j (List.mem_append_left _ hj) (hp j hj), ?_⟩
  rw [List.foldl_append, List.foldl_cons]
  exact foldl_reads q _ fun s j hj => h s j (List.mem_append_right _ (List.mem_cons_of_mem i hj)) (hq j hj)

/-- A relation that every member's step meets. -/
theorem foldl_rel {R : State → State → Prop} (hrefl : ∀ s, R s s) (htrans : ∀ s t u, R s t → R t u → R s u) (l : List ι)
    (s : State) (h : ∀ s, ∀ i ∈ l, R s (f s i)) : R s (l.foldl f s) := by
  induction l generalizing s with
  | nil => exact hrefl s
  | cons i l ih =>
    exact htrans _ _ _ (h s i List.mem_cons_self) (ih _ fun s j hj => h s j (List.mem_cons_of_mem i hj))

/-- Of steps that may fail the first failure stays. -/
theorem foldl_error {ε : Type} {F : Except ε State → ι → Except ε State} (herr : ∀ e i, F (.error e) i = .error e)
    (l : List ι) (e : ε) : l.foldl F (.error e) = .error e := by
  induction l with
  | nil => rfl
  | cons i l ih => rw [List.foldl_cons, herr, ih]

/-- A relation that every member's step meets where it does not fail. -/
theorem foldl_except_rel {ε : Type} {F : Except ε State → ι → Except ε State} {R : State → State → Prop} (hrefl : ∀ s, R s s)
    (htrans : ∀ s t u, R s t → R t u → R s u) (herr : ∀ e i, F (.error e) i = .error e) (l : List ι)
    (h : ∀ s v, ∀ i ∈ l, F (.ok s) i = .ok v → R s v) {s v : State} (hv : l.foldl F (.ok s) = .ok v) : R s v := by
  induction l generalizing s with
  | nil =>
    cases hv
    exact hrefl _
  | cons i l ih =>
    rw [List.foldl_cons] at hv
    cases hi : F (.ok s) i with
    | ok t =>
      rw [hi] at hv
      exact htrans _ _ _ (h s t i List.mem_cons_self hi) (ih (fun s v j hj => h s v j (List.mem_cons_of_mem i hj)) hv)
    | error e =>
      rw [hi, foldl_error herr] at hv
      cases hv

end

/-! ### Steps on arrays -/

theorem setArr_arr (s : State) (a : ArrId) : setArr s a (arr s a) = s := by
  simp [setArr, arr]

/-- Nothing but arrays may differ. -/
def ArraysOnly (s n : State) : Prop := n = { s with arrays := n.arrays }

theorem ArraysOnly.trans (s t u : State) (a : ArraysOnly s t) (b : ArraysOnly t u) : ArraysOnly s u := Eq.trans b (by rw [a])

theorem foldl_arraysOnly {ι : Type} {f : State → ι → State} (h : ∀ s i, ArraysOnly s (f s i)) (l : List ι) (s : State) :
    ArraysOnly s (l.foldl f s) := foldl_rel (R := ArraysOnly) (fun _ => rfl) ArraysOnly.trans l s fun s i _ => h s i

/-- Nothing but arrays and registers may differ. -/
def ArraysRegs (s n : State) : Prop := n = { s with arrays := n.arrays, regs := n.regs }

theorem ArraysRegs.trans (s t u : State) (a : ArraysRegs s t) (b : ArraysRegs t u) : ArraysRegs s u := Eq.trans b (by rw [a])

theorem ArraysOnly.arraysRegs {s n : State} (h : ArraysOnly s n) : ArraysRegs s n := Eq.trans h (by rw [h])

theorem regBump_arraysRegs (s : State) (o k : Nat) : ArraysRegs s (regBump s o k) := by
  unfold regBump
  split <;> rfl

theorem foldl_arraysRegs {ι : Type} {f : State → ι → State} (h : ∀ s i, ArraysRegs s (f s i)) (l : List ι) (s : State) :
    ArraysRegs s (l.foldl f s) := foldl_rel (R := ArraysRegs) (fun _ => rfl) ArraysRegs.trans l s fun s i _ => h s i

/-- An array on which no member of a list works. -/
theorem arr_foldl_outside {ι : Type} {f : State → ι → State} {place : ι → ArrId} {l : List ι}
    (hf : ∀ s i, arrsBut (place i) s (f s i)) {b : ArrId} (hb : b ∉ l.map place) (s : State) : arr (l.foldl f s) b = arr s b :=
  foldl_reads (g := fun s => arr s b) l s fun s i hi => hf s i b fun e => hb (e ▸ List.mem_map_of_mem hi)

/-- One change made to each array of a list. -/
theorem arr_foldl_each {f : State → ArrId → State} {g : ArrayUnit → ArrayUnit}
    (hf : ∀ s b c, arr (f s b) c = if c = b then g (arr s c) else arr s c) {l : List ArrId} (hl : l.Nodup) (s : State)
    (c : ArrId) : arr (l.foldl f s) c = if c ∈ l then g (arr s c) else arr s c := by
  have hother : ∀ s b, b ≠ c → arr (f s b) c = arr s c := fun s b hb => by rw [hf, if_neg hb.symm]
  split
  case isTrue hc =>
    obtain ⟨p, -, hp, h⟩ := foldl_reads_mem (g := fun s => arr s c) hl hc (fun s b _ hb => hother s b hb) s
    rw [h, hf, if_pos rfl, hp]
  case isFalse hc =>
    exact foldl_reads (g := fun s => arr s c) l s fun s b hb => hother s b fun e => hc (e ▸ hb)

theorem arr_setArr_each (g : ArrayUnit → ArrayUnit) (s : State) (b c : ArrId) :
    arr (setArr s b (g (arr s b))) c = if c = b then g (arr s c) else arr s c := by
  split
  case isTrue h => rw [h, arr_setArr]
  case isFalse h => rw [arr_setArr_ne _ _ _ _ h]

/-! ### The members of a gang -/

theorem gangArrays_nodup {w : ItemRun} (h : w.width ≤ 64) : (gangArrays w).Nodup := by
  refine List.Nodup.map_on (fun i hi j hj hij => ?_) List.nodup_range
  have hmod := congrArg Fin.val hij
  simp only [arrId, Fin.val_ofNat] at hmod
  have := List.mem_range.1 hi
  have := List.mem_range.1 hj
  omega

section
variable {w : ItemRun} (hpos : 1 ≤ w.width)
include hpos

theorem leader_mem_gangArrays : arrId w.leader ∈ gangArrays w := List.mem_map.2 ⟨0, List.mem_range.2 hpos, rfl⟩

theorem holdSources_subset (d : TileDesc) : holdSources w d ⊆ gangArrays w := by
  unfold holdSources
  split
  · exact List.Subset.refl _
  · exact List.cons_subset.2 ⟨leader_mem_gangArrays hpos, List.nil_subset _⟩

theorem feedSources_subset (d : TileDesc) : feedSources w d ⊆ gangArrays w := by
  unfold feedSources
  split
  · exact List.cons_subset.2 ⟨leader_mem_gangArrays hpos, List.nil_subset _⟩
  · exact List.Subset.refl _

end

theorem arrId_leader {w : ItemRun} {a : ArrId} (h : w.leader = a.val) : arrId w.leader = a := by
  rw [h]
  exact Fin.ext (Nat.mod_eq_of_lt a.isLt)

/-! ### Accesses of the ports, as the slot checker lets them -/

theorem slotChecks_eq {u v : ArrayUnit} {unit : Nat} {wr : Bool} {rs : List (Nat × Nat)} (h : slotChecks unit wr u rs = .ok v) :
    v = { u with slots := v.slots } := by
  induction rs generalizing u with
  | nil =>
    cases h
    rfl
  | cons r rs ih =>
    obtain ⟨x, n⟩ := r
    unfold slotChecks at h
    split at h
    case h_1 t ht => exact (ih h).trans (by rw [slotCheck_eq ht])
    case h_2 => cases h

/-- Reads on the arrays of a list: of an array their slots and feeders alone differ. -/
structure PortsRead (l : List ArrId) (s v : State) : Prop where
  fields : ArraysOnly s v
  others : ∀ b, b ∉ l → arr v b = arr s b
  unit   : ∀ b, arr v b = { arr s b with slots := (arr v b).slots, feeders := (arr v b).feeders }

theorem PortsRead.refl (l : List ArrId) (s : State) : PortsRead l s s := ⟨rfl, fun _ _ => rfl, fun _ => rfl⟩

theorem PortsRead.trans {l : List ArrId} (s t u : State) (a : PortsRead l s t) (b : PortsRead l t u) : PortsRead l s u :=
  ⟨a.fields.trans _ _ _ b.fields, fun i hi => (b.others i hi).trans (a.others i hi), fun i => (b.unit i).trans (by rw [a.unit i])⟩

theorem PortsRead.mono {l k : List ArrId} {s v : State} (h : PortsRead l s v) (hsub : l ⊆ k) : PortsRead k s v :=
  ⟨h.fields, fun b hb => h.others b fun hl => hb (hsub hl), h.unit⟩

theorem setArr_portsRead {l : List ArrId} {s : State} {b : ArrId} {u : ArrayUnit} (hb : b ∈ l)
    (hu : u = { arr s b with slots := u.slots, feeders := u.feeders }) : PortsRead l s (setArr s b u) := by
  refine ⟨rfl, fun c hc => arr_setArr_ne _ _ _ _ fun e => hc (e ▸ hb), fun c => ?_⟩
  by_cases hc : c = b
  · rw [hc, arr_setArr]
    exact hu
  · rw [arr_setArr_ne _ _ _ _ hc]

theorem gangChecks_portsRead {unit : Nat} {rs : List (Nat × Nat)} {l : List ArrId} {s v : State}
    (h : gangChecks unit rs l s = .ok v) : PortsRead l s v := by
  refine foldl_except_rel (PortsRead.refl l) PortsRead.trans (fun _ _ => rfl) l (fun s v b hb hv => ?_) h
  dsimp only at hv
  split at hv
  case h_1 u hu =>
    cases hv
    exact setArr_portsRead hb (slotChecks_eq hu ▸ rfl)
  case h_2 => cases hv

theorem feedOn_eq {d : TileDesc} {tile t : Nat} {lost : List Nat} {u v : ArrayUnit} (h : feedOn d tile t lost u = .ok v) :
    v = { u with slots := v.slots, feeders := v.feeders } := by
  unfold feedOn at h
  extract_lets rows ranges at h
  split at h
  case h_1 => cases h
  case h_2 x hx =>
    cases h
    rw [slotChecks_eq hx]

theorem feedGang_portsRead {w : ItemRun} {d : TileDesc} {tile t : Nat} {lost : List (Nat × Nat)} {s v : State}
    (h : feedGang w d tile t lost s = .ok v) : PortsRead (feedSources w d) s v := by
  refine foldl_except_rel (PortsRead.refl _) PortsRead.trans (fun _ _ => rfl) _ (fun s v b hb hv => ?_) h
  dsimp only at hv
  split at hv
  · cases hv
    exact .refl _ s
  · split at hv
    case h_1 u hu =>
      cases hv
      exact setArr_portsRead hb (feedOn_eq hu)
    case h_2 => cases hv

/-! ### The held load that begins -/

/-- The segments in row 0's buffer, which a shift moves on (R78). -/
def lastCols (u : ArrayUnit) (c : TileRun) : List Segment :=
  if c.begun = 0 then [] else match (u.act[0]?).join with
    | some h => h.cols
    | none => []

/-- Array `b` once the next held load of its tile has begun at clock `t` (R77). -/
def loadBegun (w : ItemRun) (t : Nat) (s : State) (b : ArrId) : ArrayUnit :=
  match (arr s b).cur with
  | none => arr s b
  | some c =>
    beginLoad (arr s (holdSource w c.desc b)) { arr s b with cur := some { c with begun := c.begun + 1 } } c.desc c.idx c.begun t
      (lastCols (arr s b) c)

theorem beginOn_eq (w : ItemRun) (t : Nat) (s : State) (b : ArrId) : beginOn w t s b = setArr s b (loadBegun w t s b) := by
  unfold beginOn loadBegun
  dsimp only
  cases (arr s b).cur with
  | none => exact (setArr_arr s b).symm
  | some c => rfl

/-- What a load reads is of its source's scratchpad alone. -/
theorem loadRows_congr {u v : ArrayUnit} (h : v.spad = u.spad) (d : TileDesc) (k : Nat) (old : List Segment) :
    loadRows v d k old = loadRows u d k old := by
  unfold loadRows holdRow shiftRow readSeg spadReads
  rw [h]

section
variable (w : ItemRun) (t : Nat) (s : State) (b : ArrId)

theorem loadBegun_of_cur {c : TileRun} (hc : (arr s b).cur = some c) : loadBegun w t s b
    = beginLoad (arr s (holdSource w c.desc b)) { arr s b with cur := some { c with begun := c.begun + 1 } } c.desc c.idx c.begun t
      (lastCols (arr s b) c) := by
  unfold loadBegun
  rw [hc]

theorem loadBegun_eq : loadBegun w t s b = { arr s b with
    cur := (loadBegun w t s b).cur, loads := (loadBegun w t s b).loads, loadNo := (loadBegun w t s b).loadNo } := by
  unfold loadBegun
  split <;> rfl

/-- A load that begins moves its tile's count of loads alone. -/
theorem loadBegun_cur : (loadBegun w t s b).cur.map (fun x => { x with begun := 0 })
    = (arr s b).cur.map (fun x => { x with begun := 0 }) := by
  unfold loadBegun
  split
  case h_1 => rfl
  case h_2 c hc =>
    rw [hc]
    rfl

/-- The array after a load began is the same in a state whose scratchpads and whose array `b` are the same but for slots and
feeders. -/
theorem loadBegun_congr {v : State} (hu : arr v b = { arr s b with slots := (arr v b).slots, feeders := (arr v b).feeders })
    (hspad : ∀ c, (arr v c).spad = (arr s c).spad) :
    loadBegun w t v b = { loadBegun w t s b with slots := (arr v b).slots, feeders := (arr v b).feeders } := by
  have hcur : (arr v b).cur = (arr s b).cur := by rw [hu]
  cases hc : (arr s b).cur with
  | none =>
    unfold loadBegun
    rw [hcur, hc]
    exact hu
  | some c =>
    rw [loadBegun_of_cur w t s b hc, loadBegun_of_cur w t v b (hcur.trans hc), beginLoad, beginLoad, loadRows_congr (hspad _), hu]
    rfl

end

/-- What the reads of a clock make of array `b`, but for slots and feeders: the gang's next load begins where it is due and no ring
stalls a port that serves the gang. -/
def heldRead (w : ItemRun) (a : ArrId) (t : Nat) (s : State) (b : ArrId) : ArrayUnit :=
  if loadBegins w a s then loadBegun w t s b else arr s b

/-- The ports of the gang led by `a` have read at clock `t`: held loads began, and feeders read ahead. -/
structure GangRead (w : ItemRun) (a : ArrId) (t : Nat) (s v : State) : Prop where
  fields : ArraysOnly s v
  others : ∀ b, b ∉ gangArrays w → arr v b = arr s b
  unit   : ∀ b ∈ gangArrays w, arr v b = { heldRead w a t s b with slots := (arr v b).slots, feeders := (arr v b).feeders }

theorem GangRead.portsRead {w : ItemRun} {a : ArrId} {t : Nat} {s v n : State} (h : GangRead w a t s v)
    (hr : PortsRead (gangArrays w) v n) : GangRead w a t s n :=
  ⟨h.fields.trans _ _ _ hr.fields, fun b hb => (hr.others b hb).trans (h.others b hb),
    fun b hb => (hr.unit b).trans (by rw [h.unit b hb])⟩

theorem beginOn_arrsBut (w : ItemRun) (t : Nat) (s : State) (b : ArrId) : arrsBut b s (beginOn w t s b) := fun c hc => by
  rw [beginOn_eq, arr_setArr_ne _ _ _ _ hc]

/-- A load that begins leaves every scratchpad as it was. -/
theorem beginOn_spad (w : ItemRun) (t : Nat) (s : State) (b c : ArrId) : (arr (beginOn w t s b) c).spad = (arr s c).spad := by
  by_cases hc : c = b
  · rw [hc, beginOn_eq, arr_setArr, loadBegun_eq]
  · rw [beginOn_arrsBut w t s b c hc]

section
variable {w : ItemRun} {a : ArrId} {t : Nat} {s v : State}

/-- The held load that begins on every member, after the accesses `hr` of the ports. -/
theorem arr_foldl_beginOn (hwidth : w.width ≤ 64) {m : State} {l : List ArrId} (hr : PortsRead l s m) {b : ArrId}
    (hb : b ∈ gangArrays w) :
    let v := (gangArrays w).foldl (beginOn w t) m
    arr v b = { loadBegun w t s b with slots := (arr v b).slots, feeders := (arr v b).feeders } := by
  intro v
  obtain ⟨p, -, hp, hv⟩ := foldl_reads_mem (f := beginOn w t) (g := fun s => arr s b) (gangArrays_nodup hwidth) hb
    (fun s c _ hc => beginOn_arrsBut w t s c b hc.symm) m
  have hspad : ∀ c, (arr (p.foldl (beginOn w t) m) c).spad = (arr s c).spad := fun c =>
    (foldl_reads (g := fun s => (arr s c).spad) p m fun s i _ => beginOn_spad w t s i c).trans (by rw [hr.unit c])
  have hunit := loadBegun_congr w t s b (v := p.foldl (beginOn w t) m) (by rw [hp]; exact hr.unit b) hspad
  have hv : arr v b = loadBegun w t (p.foldl (beginOn w t) m) b := by rw [hv, beginOn_eq, arr_setArr]
  rw [hv, hunit]

/-- The gang's held load waits, or its ports' accesses are checked and it begins on every member. -/
theorem beginGang_cases (h : beginGang w a t s = .ok v) :
    (loadBegins w a s = false ∧ v = s) ∨ (loadBegins w a s = true
      ∧ ∃ m d, PortsRead (holdSources w d) s m ∧ v = (gangArrays w).foldl (beginOn w t) m) := by
  unfold beginGang at h
  unfold loadBegins
  split at h
  case h_1 hc =>
    cases h
    rw [hc]
    exact .inl ⟨rfl, rfl⟩
  case h_2 c hc =>
    rw [hc]
    split at h
    case isFalse hno =>
      cases h
      exact .inl ⟨Bool.eq_false_iff.2 hno, rfl⟩
    case isTrue hyes =>
      split at h
      case h_1 => cases h
      case h_2 m hm =>
        cases h
        exact .inr ⟨hyes, m, c.desc, gangChecks_portsRead hm, rfl⟩

variable (hpos : 1 ≤ w.width) (hwidth : w.width ≤ 64)
include hpos hwidth

/-- The gang's held load at clock `t`, where the slot checker lets it. -/
theorem beginGang_gangRead (h : beginGang w a t s = .ok v) : GangRead w a t s v := by
  rcases beginGang_cases h with ⟨hbegins, rfl⟩ | ⟨hbegins, m, d, hm, rfl⟩
  · exact ⟨rfl, fun _ _ => rfl, fun b _ => by rw [heldRead, hbegins]; rfl⟩
  · have hm := hm.mono (holdSources_subset hpos d)
    refine ⟨hm.fields.trans _ _ _ (foldl_arraysOnly (fun s b => by rw [beginOn_eq]; rfl) _ m), fun b hb => ?_, fun b hb => ?_⟩
    · exact (arr_foldl_outside (place := id) (beginOn_arrsBut w t) (by rwa [List.map_id]) m).trans (hm.others b hb)
    · rw [heldRead, hbegins]
      exact arr_foldl_beginOn hwidth hm hb

/-- The held load and the feeders' reads at clock `t`, where the slot checker lets them. -/
theorem gangRead_of_reads {d : TileDesc} {tile : Nat} {lost : List (Nat × Nat)} {n : State} (h : beginGang w a t s = .ok v)
    (hfeed : feedGang w d tile t lost v = .ok n) : GangRead w a t s n :=
  (beginGang_gangRead hpos hwidth h).portsRead ((feedGang_portsRead hfeed).mono (feedSources_subset hpos d))

end

/-! ### What the reads of a clock leave of a member -/

theorem heldRead_eq (w : ItemRun) (a : ArrId) (t : Nat) (s : State) (b : ArrId) :
    heldRead w a t s b = { arr s b with
      cur := (heldRead w a t s b).cur, loads := (heldRead w a t s b).loads, loadNo := (heldRead w a t s b).loadNo } := by
  unfold heldRead
  split
  · exact loadBegun_eq w t s b
  · rfl

section
variable {w : ItemRun} {a : ArrId} {t : Nat} {s v : State} (h : GangRead w a t s v) {b : ArrId} (hb : b ∈ gangArrays w)
include h hb

theorem GangRead.kept : arr v b = { arr s b with
    cur := (arr v b).cur, loads := (arr v b).loads, loadNo := (arr v b).loadNo
    slots := (arr v b).slots, feeders := (arr v b).feeders } := by
  rw [h.unit b hb, heldRead_eq]

/-- Of a tile in progress its count of loads alone moves. -/
theorem GangRead.cur_begun :
    (arr v b).cur.map (fun x => { x with begun := 0 }) = (arr s b).cur.map (fun x => { x with begun := 0 }) := by
  rw [h.unit b hb, heldRead]
  split
  · exact loadBegun_cur w t s b
  · rfl

theorem GangRead.cur {c : TileRun} (hc : (arr s b).cur = some c) :
    (arr v b).cur = some { c with begun := c.begun + b2n (loadBegins w a s) } := by
  rw [h.unit b hb, heldRead]
  cases loadBegins w a s with
  | false => exact hc
  | true => rw [if_pos rfl, loadBegun_of_cur w t s b hc]; rfl

theorem GangRead.loads {c : TileRun} (hc : (arr s b).cur = some c) :
    (arr v b).loads = (arr s b).loads ++ if loadBegins w a s then
      [{ seq := (arr s b).loadNo + 1, tile := c.idx, step := c.begun
         rows := loadRows (arr s (holdSource w c.desc b)) c.desc c.begun (lastCols (arr s b) c)
         ready := t + holdClk c.desc }] else [] := by
  rw [h.unit b hb, heldRead]
  cases loadBegins w a s with
  | false => exact (List.append_nil _).symm
  | true => rw [if_pos rfl, loadBegun_of_cur w t s b hc]; rfl

end

end Sys2Proof.Machine
end

section
/-! # Swaps of held buffers (O10) -/

namespace Sys2Proof.Machine

/-- An array whose row `row` has swapped to its next load at clock `t` (R77). -/
def swappedUnit (row t : Nat) (u : ArrayUnit) : ArrayUnit :=
  match nextLoad u row with
  | none => u
  | some l =>
    let act := u.act.set row (some { seq := l.seq, tile := l.tile, step := l.step, cols := loadCols l row })
    { u with
      act := act
      loads := (u.loads.map (fun x => if x.seq = l.seq ∧ row = 0 then { x with swapAt := some t } else x)).filter
        (fun x => act.any (fun y => match y with | some y => decide (y.seq < x.seq) | none => true))
      pipe := u.pipe.map (fun p =>
        if p.row = row ∧ p.tile = l.tile ∧ p.gstep = l.step then { p with held := some (loadCols l row) } else p)
      cur := if row = 0 then u.cur.map (fun c => { c with swap := t }) else u.cur }

theorem swapOn_eq (row t : Nat) (s : State) (b : ArrId) : swapOn row t s b = setArr s b (swappedUnit row t (arr s b)) := by
  unfold swapOn swappedUnit
  dsimp only
  cases nextLoad (arr s b) row with
  | none => exact (setArr_arr s b).symm
  | some l => rfl

theorem swappedUnit_eq (row t : Nat) (u : ArrayUnit) :
    let v := swappedUnit row t u
    v = { u with act := v.act, loads := v.loads, pipe := v.pipe, cur := v.cur } := by
  intro v
  unfold v swappedUnit
  split <;> rfl

section
variable {row t : Nat} {u : ArrayUnit} {l : HeldLoad} (h : nextLoad u row = some l)
include h

theorem swappedUnit_act : (swappedUnit row t u).act
    = u.act.set row (some { seq := l.seq, tile := l.tile, step := l.step, cols := loadCols l row }) := by
  unfold swappedUnit
  rw [h]

theorem swappedUnit_pipe : (swappedUnit row t u).pipe
    = u.pipe.map (fun p =>
        if p.row = row ∧ p.tile = l.tile ∧ p.gstep = l.step then { p with held := some (loadCols l row) } else p) := by
  unfold swappedUnit
  rw [h]

theorem swappedUnit_cur {c : TileRun} (hc : u.cur = some c) :
    (swappedUnit row t u).cur = some { c with swap := if row = 0 then t else c.swap } := by
  unfold swappedUnit
  rw [h, hc]
  dsimp only
  split <;> rfl

end

/-- A gang whose row `row` has swapped at clock `t`. -/
theorem foldl_swapOn {w : ItemRun} (hwidth : w.width ≤ 64) (row t : Nat) (s : State) :
    let m := (gangArrays w).foldl (swapOn row t) s
    ArraysOnly s m ∧ ∀ b, arr m b = if b ∈ gangArrays w then swappedUnit row t (arr s b) else arr s b := by
  refine ⟨foldl_arraysOnly (fun s b => by rw [swapOn_eq]; rfl) _ s, arr_foldl_each (fun s b c => ?_) (gangArrays_nodup hwidth) s⟩
  rw [swapOn_eq]
  exact arr_setArr_each _ s b c

section
variable {a : ArrId} {row : Fin 16} {t : Clk} {s : State} {w : ItemRun} {c : TileRun} {l : HeldLoad}
  (hitem : arrItem s a = some w) (hcur : (arr s a).cur = some c) (hnext : nextLoad (arr s a) row.val = some l)
  (hruns : ¬ (w.leader ≠ a.val ∨ w.halted ≠ 0 ∨ (arr s a).st = .fallow))
include hitem hcur hnext hruns

theorem exec_heldSwap_boundary {n : State} (hrow : row.val = 0)
    (hready : l.tile = c.idx ∧ c.issued = l.step * stepClk c.desc ∧ gangReady s w l t = true)
    (hbegin : beginGang w a t ((gangArrays w).foldl (swapOn 0 t) s) = .ok n) : exec (.heldSwap a row t) s = .next n := by
  change execHeldSwap a row t s = _
  simp only [execHeldSwap, hitem, hcur, hnext]
  rw [if_neg hruns, if_pos hrow, if_pos hready, hbegin]

theorem exec_heldSwap_not_ready (hrow : row.val = 0)
    (hwait : ¬ (l.tile = c.idx ∧ c.issued = l.step * stepClk c.desc ∧ gangReady s w l t = true)) :
    exec (.heldSwap a row t) s = .next s := by
  change execHeldSwap a row t s = _
  simp only [execHeldSwap, hitem, hcur, hnext]
  rw [if_neg hruns, if_pos hrow, if_neg hwait]

theorem exec_heldSwap_follows {t0 : Nat} (hrow : row.val ≠ 0) (hswap : l.swapAt = some t0) (hclk : t0 + row.val ≤ t) :
    exec (.heldSwap a row t) s = .next ((gangArrays w).foldl (swapOn row.val t) s) := by
  change execHeldSwap a row t s = _
  simp only [execHeldSwap, hitem, hcur, hnext, hswap]
  rw [if_neg hruns, if_neg hrow, if_pos hclk]

theorem exec_heldSwap_early (hrow : row.val ≠ 0) (hearly : ∀ t0, l.swapAt = some t0 → t < t0 + row.val) :
    exec (.heldSwap a row t) s = .next s := by
  change execHeldSwap a row t s = _
  simp only [execHeldSwap, hitem, hcur, hnext]
  rw [if_neg hruns, if_neg hrow]
  split
  case h_1 t0 hswap => exact if_neg (Nat.not_le.2 (hearly t0 hswap))
  case h_2 => rfl

end

/-- Settles O10: a member's swap, and with row 0's the gang's next load. -/
theorem heldBufferSwaps : Obligations.HeldBufferSwaps := by
  intro a row t s w c l u m swapped hitem hcur hnext hlead hwidth hpos hrun hlive
  have hruns : ¬ (w.leader ≠ a.val ∨ w.halted ≠ 0 ∨ u.st = .fallow) := by simp [hlead, hrun, hlive]
  refine ⟨fun n hrow htile hissued hready hbegin =>
      ⟨exec_heldSwap_boundary hitem hcur hnext hruns hrow ⟨htile, hissued, hready⟩ hbegin, ?begins⟩,
    fun hrow hno => exec_heldSwap_not_ready hitem hcur hnext hruns hrow fun ⟨htile, hissued, hready⟩ => ?waits,
    fun t0 hrow hswap hclk => ⟨_, exec_heldSwap_follows hitem hcur hnext hruns hrow hswap hclk, ?follows⟩,
    exec_heldSwap_early hitem hcur hnext hruns⟩
  case waits => simp [htile, hissued, hready] at hno
  case begins =>
    obtain ⟨hfields, hunit⟩ := foldl_swapOn hwidth 0 t s
    have hread := beginGang_gangRead hpos hwidth hbegin
    refine ⟨hfields.trans _ _ _ hread.fields, fun b hb => ?_, fun b hb => ?_⟩
    · rw [hread.others b hb, hunit, if_neg hb]
    · have hm : arr m b = swappedUnit 0 t (arr s b) := (hunit b).trans (if_pos hb)
      have hkept := hread.kept hb
      have hswap := swappedUnit_eq 0 t (arr s b)
      rw [hrow]
      refine ⟨?_, ?_, fun c' l' hc' hl' => ?_⟩
      · rw [hkept, hm, hswap]
      · rw [hkept, hm, hswap]
      have hcm : (arr m b).cur = some { c' with swap := t } := by rw [hm, swappedUnit_cur hl' hc']; rfl
      refine ⟨?_, ?_, ?_, fun _ hloads => ?_⟩
      · rw [hkept, hm]
        exact swappedUnit_act hl'
      · rw [hkept, hm]
        exact swappedUnit_pipe hl'
      · exact hread.cur hb hcm
      · refine ⟨_, by rw [hread.loads hb hcm, hloads]; exact List.mem_append_right _ List.mem_cons_self, ?_, rfl, rfl, rfl, rfl⟩
        rw [hm, hswap]
  case follows =>
    obtain ⟨hfields, hunit⟩ := foldl_swapOn hwidth row.val t s
    have hrow0 : (row.val == 0) = false := beq_eq_false_iff_ne.2 hrow
    refine ⟨hfields, fun b hb => (hunit b).trans (if_neg hb), fun b hb => ?_⟩
    have hswap := swappedUnit_eq row.val t (arr s b)
    rw [hunit b, if_pos hb]
    refine ⟨by rw [hswap], by rw [hswap], fun c' l' hc' hl' =>
      ⟨swappedUnit_act hl', swappedUnit_pipe hl', ?_, fun h => absurd h hrow⟩⟩
    rw [swappedUnit_cur hl' hc', hrow0]
    rfl

end Sys2Proof.Machine
end

section
/-! # The start of a tile (O8) -/

namespace Sys2Proof.Machine

/-! ### Entries -/

theorem setEnts_foldl_get (es : List Nat) (st : EntState) (v : Vector EntState 16) (k : Fin 16)
    (h : (∃ j ∈ es, Fin.ofNat 16 j = k) ∨ v[k] = st) : (es.foldl (fun v j => v.set (Fin.ofNat 16 j) st) v)[k] = st := by
  induction es generalizing v with
  | nil => exact h.resolve_left (by simp)
  | cons j es ih =>
    refine ih _ ?_
    by_cases hk : Fin.ofNat 16 j = k
    · right
      rw [← hk]
      exact Vector.getElem_set_self _
    · have hne : (Fin.ofNat 16 j).val ≠ k.val := fun e => hk (Fin.ext e)
      rcases h with ⟨i, hi, hik⟩ | hv
      · rcases List.mem_cons.1 hi with rfl | hi
        · exact absurd hik hk
        · exact .inl ⟨i, hi, hik⟩
      · exact .inr ((Vector.getElem_set_ne _ _ hne).trans hv)

/-- Entries that are set to a state have it. -/
theorem entAt_setEnts (u : ArrayUnit) (es : List Nat) (st : EntState) {j : Nat} (h : j ∈ es) : entAt (setEnts u es st) j = st :=
  setEnts_foldl_get es st u.ent _ (.inl ⟨j, h, rfl⟩)

/-! ### One member's start -/

/-- An array that has started the tile of descriptor `d` at clock `t` (R100, R115). -/
def startedUnit (d : TileDesc) (t : Nat) (u : ArrayUnit) : ArrayUnit :=
  let es := tileEntries d
  let v := setEnts (if d.cont then u else clearAcc u es) es .active
  { v with
    st := .running
    entTile := (v.entTile.filter (fun p => !es.contains p.1)) ++ es.map (fun j => (j, v.tileNo, tileE d, tileN d))
    tiles := v.tiles.drop 1
    tileNo := v.tileNo + 1
    feeders := v.feeders.map (fun f => { f with next := 0 })
    cur := some { desc := d, idx := v.tileNo, start := t } }

theorem startOn_eq (d : TileDesc) (t : Nat) (s : State) (b : ArrId) :
    startOn d t s b = setArr s b (startedUnit d t (arr s b)) := rfl

theorem startedUnit_eq (d : TileDesc) (t : Nat) (u : ArrayUnit) :
    let v := startedUnit d t u
    v = { u with
      st := .running, tiles := u.tiles.drop 1, tileNo := u.tileNo + 1, cur := some { desc := d, idx := u.tileNo, start := t }
      acc := if d.cont = true then u.acc else u.acc.filter (fun x => !(tileEntries d).contains x.ent)
      ent := v.ent, entTile := v.entTile, feeders := v.feeders } := by
  intro v
  unfold v startedUnit
  cases d.cont <;> rfl

theorem startedUnit_entries (d : TileDesc) (t : Nat) (u : ArrayUnit) :
    ∀ j ∈ tileEntries d, entAt (startedUnit d t u) j = .active :=
  fun _ hj => entAt_setEnts _ _ _ hj

/-- A gang that has started a tile at clock `t`. -/
theorem foldl_startOn {w : ItemRun} (hwidth : w.width ≤ 64) (d : TileDesc) (t : Nat) (s : State) :
    let m := (gangArrays w).foldl (startOn d t) s
    ArraysOnly s m ∧ ∀ b, arr m b = if b ∈ gangArrays w then startedUnit d t (arr s b) else arr s b :=
  ⟨foldl_arraysOnly (fun s b => by rw [startOn_eq]; rfl) _ s,
    arr_foldl_each (fun s b c => by rw [startOn_eq]; exact arr_setArr_each _ s b c) (gangArrays_nodup hwidth) s⟩

/-- A start reaches neither a scratchpad nor a ring. -/
theorem foldl_startOn_kept {w : ItemRun} (hwidth : w.width ≤ 64) (d : TileDesc) (t : Nat) (s : State) (b : ArrId) :
    let m := (gangArrays w).foldl (startOn d t) s
    (arr m b).spad = (arr s b).spad ∧ (arr m b).rings = (arr s b).rings := by
  intro m
  have hunit : arr m b = _ := (foldl_startOn hwidth d t s).2 b
  rw [hunit]
  split
  · rw [startedUnit_eq]
    exact ⟨rfl, rfl⟩
  · exact ⟨rfl, rfl⟩

/-- The first held load of a tile begins with its start where it has a step, unless a ring stalls a port that serves the gang. -/
theorem loadBegins_startOn {w : ItemRun} {a : ArrId} (hwidth : w.width ≤ 64) (ha : a ∈ gangArrays w) (d : TileDesc) (t : Nat)
    (s : State) : loadBegins w a ((gangArrays w).foldl (startOn d t) s)
      = (decide (0 < tileSteps d) && !(holdSources w d).any (fun b => unitStalled (arr s b) 1)) := by
  have hcur : (arr ((gangArrays w).foldl (startOn d t) s) a).cur = some { desc := d, idx := (arr s a).tileNo, start := t } := by
    rw [(foldl_startOn hwidth d t s).2, if_pos ha, startedUnit_eq]
  have hstall : ∀ b, unitStalled (arr ((gangArrays w).foldl (startOn d t) s) b) 1 = unitStalled (arr s b) 1 := fun b => by
    rw [unitStalled, (foldl_startOn_kept hwidth d t s b).2, unitStalled]
  simp [loadBegins, hcur, loadDue, hstall]

/-! ### TILE_START -/

section
variable {a : ArrId} {t : Clk} {s : State} {w : ItemRun} {d : TileDesc} {ds : List TileDesc}
  (hitem : arrItem s a = some w) (htiles : (arr s a).tiles = d :: ds)
  (hruns : ¬ (w.leader ≠ a.val ∨ w.halted ≠ 0 ∨ (arr s a).st = .fallow ∨ (arr s a).preamble = true ∨ prevDone (arr s a) t = false))
include hitem htiles hruns

theorem exec_tileStart_illegal (hlegal : tileLegal d (if w.width = 4 then 2 else w.width - 1) (swBytes (arr s a)) = false) :
    exec (.tileStart a t) s = .next (accFault s a w 3 (arr s a).tileNo 0xFFFF 0 t) := by
  change execTileStart a t s = _
  simp only [execTileStart, hitem, htiles]
  rw [if_neg hruns, if_pos (by rw [hlegal]; decide)]

variable (hlegal : tileLegal d (if w.width = 4 then 2 else w.width - 1) (swBytes (arr s a)) = true)
include hlegal

theorem exec_tileStart_waits (hdrain : gangDrains s w d = true) : exec (.tileStart a t) s = .next s := by
  change execTileStart a t s = _
  simp only [execTileStart, hitem, htiles]
  rw [if_neg hruns, if_neg (by rw [hlegal]; decide), if_pos hdrain]

theorem exec_tileStart_starts {v n : State} (hdrain : gangDrains s w d = false) (hown : ownKind (arr s a) d = 0)
    (hbegin : beginGang w a t ((gangArrays w).foldl (startOn d t) s) = .ok v)
    (hfeed : feedGang w d (arr s a).tileNo t [] v = .ok n) : exec (.tileStart a t) s = .next n := by
  change execTileStart a t s = _
  simp only [execTileStart, hitem, htiles]
  rw [if_neg hruns, if_neg (by rw [hlegal]; decide), if_neg (Bool.eq_false_iff.1 hdrain), if_neg (not_not.2 hown), hbegin]
  dsimp only
  rw [hfeed]

end

/-- Settles O8: each member starts, and then the ports of the gang read. -/
theorem tileStartsOnGang : Obligations.TileStartsOnGang := by
  intro a t s w d ds u legal hitem htiles hlead hwidth hpos hrun hlive hpre hprev
  have hruns : ¬ (w.leader ≠ a.val ∨ w.halted ≠ 0 ∨ u.st = .fallow ∨ u.preamble = true ∨ prevDone u t = false) := by
    simp [hlead, hrun, hlive, hpre, hprev]
  refine ⟨fun v n hlegal hdrain hown hbegin hfeed => ?starts, exec_tileStart_waits hitem htiles hruns,
    exec_tileStart_illegal hitem htiles hruns⟩
  case starts =>
    intro begins
    obtain ⟨hfields, hunit⟩ := foldl_startOn hwidth d t s
    have hread := gangRead_of_reads hpos hwidth hbegin hfeed
    have ha : a ∈ gangArrays w := arrId_leader hlead ▸ leader_mem_gangArrays hpos
    have hbegins : loadBegins w a ((gangArrays w).foldl (startOn d t) s) = begins := loadBegins_startOn hwidth ha d t s
    refine ⟨exec_tileStart_starts hitem htiles hruns hlegal hdrain hown hbegin hfeed, hfields.trans _ _ _ hread.fields,
      fun b hb => by rw [hread.others b hb, hunit, if_neg hb], fun b hb => ?_⟩
    have hm : arr ((gangArrays w).foldl (startOn d t) s) b = startedUnit d t (arr s b) := (hunit b).trans (if_pos hb)
    have hkept := hread.kept hb
    have hstart := startedUnit_eq d t (arr s b)
    have hcur : (arr ((gangArrays w).foldl (startOn d t) s) b).cur = some { desc := d, idx := (arr s b).tileNo, start := t } := by
      rw [hm, hstart]
    refine ⟨?_, ?_, ?_, ?_, ?_, fun j hj => ?_, ?_, ?_, ?_, ?_⟩
    · rw [hkept, hm, hstart]
    · rw [hkept, hm, hstart]
    · rw [hkept, hm, hstart]
    · rw [hread.cur hb hcur, hbegins, Nat.zero_add]
    · rw [hread.loads hb hcur, hbegins, hm, loadRows_congr (foldl_startOn_kept hwidth d t s _).1]
      rw [hstart]
      rfl
    · rw [hkept, hm]
      exact startedUnit_entries d t (arr s b) j hj
    · rw [hkept, hm, hstart]
    · rw [hkept, hm, hstart]
    · rw [hkept, hm, hstart]
    · rw [hkept, hm, hstart]

end Sys2Proof.Machine
end

section
/-! # The issue decision (O9) -/

namespace Sys2Proof.Machine

/-! ### Registers of the members of a list -/

section
variable {ι : Type} {f : State → ι → State} {os : ι → List Nat} (hf : ∀ s i, regsBut (os i) s (f s i))
include hf

theorem foldl_regsBut (l : List ι) (s : State) : regsBut (l.flatMap os) s (l.foldl f s) := fun o ho =>
  foldl_reads (g := fun s => regGet s o) l s fun s i hi => hf s i o fun h => ho (List.mem_flatMap.2 ⟨i, hi, h⟩)

/-- A counter that one member alone raises. -/
theorem foldl_rises {l : List ι} (hl : l.Nodup) {i : ι} (hi : i ∈ l) {o k : Nat} (hother : ∀ j ∈ l, j ≠ i → o ∉ os j)
    (hrise : ∀ s, rises o k s (f s i)) (s : State) : rises o k s (l.foldl f s) := by
  obtain ⟨p, -, hp, h⟩ := foldl_reads_mem (f := f) (g := fun s => regGet s o) hl hi
    (fun s j hj hne => hf s j o (hother j hj hne)) s
  rw [rises, h, ← hp]
  exact hrise _

end

theorem rises_regBump (s : State) (o k : Nat) : rises o k s (regBump s o k) := by rw [rises, regGet_regBump, if_pos rfl]

theorem spReg_array_inj {a b : ArrId} {x : Nat} (h : spReg a.val x = spReg b.val x) : a = b := by
  refine Fin.ext ?_
  unfold spReg feReg at h
  omega

theorem arrReg_inj {a b : ArrId} {x y : Nat} (hx : x < 0x10000) (hy : y < 0x10000) (h : arrReg a.val x = arrReg b.val y) :
    a = b ∧ x = y := by
  unfold arrReg at h
  have : a.val = b.val := by omega
  exact ⟨Fin.ext this, by omega⟩

/-- No register of one array is among two of another. -/
theorem arrReg_not_mem {b c : ArrId} (hc : c ≠ b) {x y z : Nat} (h : x < 0x10000 ∧ y < 0x10000 ∧ z < 0x10000) :
    arrReg b.val x ∉ [arrReg c.val y, arrReg c.val z] := by
  simp only [List.mem_cons, List.not_mem_nil, or_false, not_or]
  obtain ⟨hx, hy, hz⟩ := h
  exact ⟨fun h => hc (arrReg_inj hx hy h).1.symm, fun h => hc (arrReg_inj hx hz h).1.symm⟩

/-! ### Accesses lost -/

section
variable (w : ItemRun) (d : TileDesc) (t : Nat) (lost : List (Nat × Nat)) (heldLost : List Nat)

/-- The accesses that member `i` of a gang loses (R131): those of its feeders and of its held load port, where they read for the
tile. -/
def lostAccesses (i : Nat) : Nat :=
  (if arrId (w.leader + i) ∈ feedSources w d then (lost.filter (fun p => p.1 == i)).length else 0)
    + (if arrId (w.leader + i) ∈ holdSources w d then heldLost.count i else 0)

theorem loseAccess_eq (s : State) (i : Nat) : ∃ ls : List HeldLoad, loseAccess w d t lost heldLost s i
    = regBump (setArr s (arrId (w.leader + i)) { arr s (arrId (w.leader + i)) with loads := ls })
        (spReg (arrId (w.leader + i)).val 0x20) (lostAccesses w d lost heldLost i) := ⟨_, rfl⟩

/-- A member's lost accesses count in its own SP_CONFLICT, and delay its own loads. -/
theorem loseAccess_regs (s : State) (i : Nat) :
    regsBut [spReg (arrId (w.leader + i)).val 0x20] s (loseAccess w d t lost heldLost s i)
      ∧ rises (spReg (arrId (w.leader + i)).val 0x20) (lostAccesses w d lost heldLost i) s
        (loseAccess w d t lost heldLost s i) := by
  obtain ⟨ls, h⟩ := loseAccess_eq w d t lost heldLost s i
  rw [h]
  exact ⟨regsBut_regBump _ _ List.mem_cons_self, rises_regBump ..⟩

theorem loseAccess_arrays (s : State) (i : Nat) :
    ArraysRegs s (loseAccess w d t lost heldLost s i) ∧ arrsBut (arrId (w.leader + i)) s (loseAccess w d t lost heldLost s i)
      ∧ ∀ b, arr (loseAccess w d t lost heldLost s i) b
          = { arr s b with loads := (arr (loseAccess w d t lost heldLost s i) b).loads } := by
  obtain ⟨ls, h⟩ := loseAccess_eq w d t lost heldLost s i
  rw [h]
  refine ⟨ArraysRegs.trans _ (setArr s _ _) _ rfl (regBump_arraysRegs ..), fun b hb => ?_, fun b => ?_⟩
  · rw [arr_congr (regBump_arrays ..), arr_setArr_ne _ _ _ _ hb]
  · rw [arr_congr (regBump_arrays ..)]
    by_cases hb : b = arrId (w.leader + i)
    · rw [hb, arr_setArr]
    · rw [arr_setArr_ne _ _ _ _ hb]

/-- The gang after the accesses that lost the clock. -/
theorem foldl_loseAccess (s : State) :
    let v := (List.range w.width).foldl (loseAccess w d t lost heldLost) s
    ArraysRegs s v ∧ (∀ b, b ∉ gangArrays w → arr v b = arr s b) ∧ (∀ b, arr v b = { arr s b with loads := (arr v b).loads })
      ∧ regsBut ((gangArrays w).map (fun b => spReg b.val 0x20)) s v := by
  refine ⟨foldl_arraysRegs (fun s i => (loseAccess_arrays w d t lost heldLost s i).1) _ s,
    fun b hb => arr_foldl_outside (fun s i => (loseAccess_arrays w d t lost heldLost s i).2.1) hb s, fun b => ?_, ?_⟩
  · exact foldl_rel (R := fun s v => arr v b = { arr s b with loads := (arr v b).loads }) (fun _ => rfl)
      (fun s t u h k => k.trans (by rw [h])) _ s fun s i _ => (loseAccess_arrays w d t lost heldLost s i).2.2 b
  · refine regsBut_mono (foldl_regsBut (fun s i => (loseAccess_regs w d t lost heldLost s i).1) _ s) fun o ho => ?_
    obtain ⟨i, hi, ho⟩ := List.mem_flatMap.1 ho
    rw [List.mem_singleton.1 ho, gangArrays, List.map_map]
    exact List.mem_map_of_mem (f := fun i => spReg (arrId (w.leader + i)).val 0x20) hi

theorem foldl_loseAccess_rises {w : ItemRun} (hwidth : w.width ≤ 64) {i : Nat} (hi : i < w.width) (s : State) :
    rises (spReg (arrId (w.leader + i)).val 0x20) (lostAccesses w d lost heldLost i) s
      ((List.range w.width).foldl (loseAccess w d t lost heldLost) s) := by
  refine foldl_rises (fun s i => (loseAccess_regs w d t lost heldLost s i).1) List.nodup_range (List.mem_range.2 hi)
    (fun j hj hne h => hne ?_) (fun s => (loseAccess_regs w d t lost heldLost s i).2) s
  have hplace := spReg_array_inj (List.mem_singleton.1 h)
  exact List.inj_on_of_nodup_map (gangArrays_nodup hwidth) hj (List.mem_range.2 hi) hplace.symm

end

/-! ### A clock without an issue -/

/-- An array that has issued nothing in a clock (R104). -/
def stalledUnit (u : ArrayUnit) : ArrayUnit := { u with st := .stalled }

/-- A gang that the sluice withholds. -/
theorem foldl_stalled {w : ItemRun} (hwidth : w.width ≤ 64) (s : State) :
    let n := (gangArrays w).foldl (fun s b => setArr s b (stalledUnit (arr s b))) s
    ArraysOnly s n ∧ ∀ b, arr n b = if b ∈ gangArrays w then stalledUnit (arr s b) else arr s b :=
  ⟨foldl_arraysOnly (fun _ _ => by rfl) _ s, arr_foldl_each (arr_setArr_each stalledUnit) (gangArrays_nodup hwidth) s⟩

/-- A member stalls in a clock in which a held segment or an entry is missing (R81). -/
def countStall (held queued : Bool) (s : State) (b : ArrId) : State :=
  regBump (regBump (setArr s b (stalledUnit (arr s b))) (arrReg b.val 0x28) (b2n (!queued))) (arrReg b.val 0x30) (b2n (!held))

section
variable (held queued : Bool)

theorem countStall_regs (s : State) (b : ArrId) :
    regsBut [arrReg b.val 0x28, arrReg b.val 0x30] s (countStall held queued s b)
      ∧ rises (arrReg b.val 0x28) (b2n (!queued)) s (countStall held queued s b)
      ∧ rises (arrReg b.val 0x30) (b2n (!held)) s (countStall held queued s b) := by
  have hne : arrReg b.val 0x28 ≠ arrReg b.val 0x30 := fun h => absurd (arrReg_inj (by decide) (by decide) h).2 (by decide)
  unfold countStall
  refine ⟨?_, ?_, ?_⟩
  · exact regsBut_trans (regsBut_regBump (setArr s b _) _ List.mem_cons_self)
      (regsBut_regBump _ _ (List.mem_cons_of_mem _ List.mem_cons_self))
  · rw [rises, regGet_regBump, if_neg hne, regGet_regBump, if_pos rfl]
    rfl
  · rw [rises, regGet_regBump, if_pos rfl, regGet_regBump, if_neg hne.symm]
    rfl

/-- A clock without an issue, on the gang. -/
theorem foldl_countStall {w : ItemRun} (hwidth : w.width ≤ 64) (s : State) :
    let n := (gangArrays w).foldl (countStall held queued) s
    ArraysRegs s n ∧ (∀ b, arr n b = if b ∈ gangArrays w then stalledUnit (arr s b) else arr s b)
      ∧ (∀ b ∈ gangArrays w, rises (arrReg b.val 0x28) (b2n (!queued)) s n ∧ rises (arrReg b.val 0x30) (b2n (!held)) s n)
      ∧ regsBut ((gangArrays w).flatMap (fun b => [arrReg b.val 0x28, arrReg b.val 0x30])) s n := by
  have hregs := fun s b => (countStall_regs held queued s b).1
  have hnodup := gangArrays_nodup hwidth
  refine ⟨foldl_arraysRegs (fun s b => ?_) _ s, arr_foldl_each (fun s b c => ?_) hnodup s, fun b hb => ⟨?_, ?_⟩,
    foldl_regsBut hregs _ s⟩
  · exact ArraysRegs.trans _ _ _ (ArraysRegs.trans _ (setArr s b _) _ rfl (regBump_arraysRegs ..)) (regBump_arraysRegs ..)
  · rw [countStall, arr_congr (regBump_arrays ..), arr_congr (regBump_arrays ..)]
    exact arr_setArr_each stalledUnit s b c
  · exact foldl_rises hregs hnodup hb (fun c _ hc => arrReg_not_mem hc (by decide))
      (fun s => (countStall_regs held queued s b).2.1) s
  · exact foldl_rises hregs hnodup hb (fun c _ hc => arrReg_not_mem hc (by decide))
      (fun s => (countStall_regs held queued s b).2.2) s

end

/-! ### An issue -/

/-- What an issue may change on its array alone: the accumulators, the scratchpad and the vector registers are as they were. -/
structure IssueKept (b : ArrId) (s n : State) : Prop where
  fields : ArraysRegs s n
  others : arrsBut b s n
  regs   : regsBut [arrReg b.val 0x20, arrReg b.val 0x38] s n
  acc    : (arr n b).acc = (arr s b).acc
  spad   : (arr n b).spad = (arr s b).spad
  vregs  : (arr n b).vregs = (arr s b).vregs

section
variable (w : ItemRun) (t j : Nat) (es : List Nat) (s : State) (b : ArrId)

/-- A member in a tile makes its issue, counted in ARR_ISSUE and with its gated rows (R104). -/
theorem issueOn_eq {c : TileRun} (hc : (arr s b).cur = some c) : ∃ u last,
    issueOn w t j es s b = regBump (regBump (setArr s b u) (arrReg b.val 0x20) 1) (arrReg b.val 0x38) (gatedRows c.desc es)
      ∧ u.acc = (arr s b).acc ∧ u.spad = (arr s b).spad ∧ u.vregs = (arr s b).vregs
      ∧ u.cur = some { c with issued := c.issued + 1, last := last } := by
  unfold issueOn
  extract_lets u
  split
  case h_1 hnone => cases hnone.symm.trans hc
  case h_2 x hx =>
    obtain rfl : x = c := Option.some.inj (hx.symm.trans hc)
    extract_lets d rows n finished last c' ent u1 draining held u2
    refine ⟨u2, c'.last, rfl, ?_⟩
    unfold u2
    split
    · exact ⟨rfl, rfl, rfl, rfl⟩
    · split
      all_goals
        rw [restUnit_eq]
        exact ⟨rfl, rfl, rfl, rfl⟩

theorem issueOn_kept : IssueKept b s (issueOn w t j es s b) := by
  cases hc : (arr s b).cur with
  | none =>
    have hnone : issueOn w t j es s b = s := by simp only [issueOn, hc]
    rw [hnone]
    exact ⟨rfl, fun _ _ => rfl, regsBut_refl _ s, rfl, rfl, rfl⟩
  | some c =>
    obtain ⟨u, last, h, hacc, hspad, hvregs, -⟩ := issueOn_eq w t j es s b hc
    have harr : ∀ c, arr (issueOn w t j es s b) c = arr (setArr s b u) c := fun c => by
      rw [h, arr_congr (regBump_arrays ..), arr_congr (regBump_arrays ..)]
    refine ⟨?_, fun c hc => by rw [harr, arr_setArr_ne _ _ _ _ hc], ?_, ?_, ?_, ?_⟩
    · rw [h]
      exact ArraysRegs.trans _ _ _ (ArraysRegs.trans _ (setArr s b u) _ rfl (regBump_arraysRegs ..)) (regBump_arraysRegs ..)
    · rw [h]
      exact regsBut_trans (regsBut_regBump (setArr s b u) _ List.mem_cons_self)
        (regsBut_regBump _ _ (List.mem_cons_of_mem _ List.mem_cons_self))
    · rw [harr, arr_setArr, hacc]
    · rw [harr, arr_setArr, hspad]
    · rw [harr, arr_setArr, hvregs]

theorem issueOn_counts {c : TileRun} (hc : (arr s b).cur = some c) :
    rises (arrReg b.val 0x20) 1 s (issueOn w t j es s b)
      ∧ ∃ c', (arr (issueOn w t j es s b) b).cur = some c' ∧ c'.issued = c.issued + 1 ∧ c'.desc = c.desc := by
  obtain ⟨u, last, h, -, -, -, hcur⟩ := issueOn_eq w t j es s b hc
  have hne : arrReg b.val 0x20 ≠ arrReg b.val 0x38 := fun h => absurd (arrReg_inj (by decide) (by decide) h).2 (by decide)
  refine ⟨?_, { c with issued := c.issued + 1, last := last }, ?_, rfl, rfl⟩
  · rw [h, rises, regGet_regBump, if_neg hne, regGet_regBump, if_pos rfl]
    rfl
  · rw [h, arr_congr (regBump_arrays ..), arr_congr (regBump_arrays ..), arr_setArr, hcur]

end

/-- What a member's issue is seen by: the member, and its counter ARR_ISSUE. -/
def issueReading (b : ArrId) (s : State) : ArrayUnit × Nat := (arr s b, regGet s (arrReg b.val 0x20))

/-- A gang that issues. -/
theorem foldl_issueOn {w : ItemRun} (hwidth : w.width ≤ 64) (t j : Nat) (es : List Nat) (s : State) :
    let n := (gangArrays w).foldl (issueOn w t j es) s
    ArraysRegs s n ∧ (∀ b, b ∉ gangArrays w → arr n b = arr s b)
      ∧ regsBut ((gangArrays w).flatMap (fun b => [arrReg b.val 0x20, arrReg b.val 0x38])) s n
      ∧ ∀ b ∈ gangArrays w, (arr n b).acc = (arr s b).acc ∧ (arr n b).spad = (arr s b).spad ∧ (arr n b).vregs = (arr s b).vregs
        ∧ ∀ c, (arr s b).cur = some c → rises (arrReg b.val 0x20) 1 s n
          ∧ ∃ c', (arr n b).cur = some c' ∧ c'.issued = c.issued + 1 ∧ c'.desc = c.desc := by
  refine ⟨foldl_arraysRegs (fun s b => (issueOn_kept w t j es s b).fields) _ s,
    fun b hb => arr_foldl_outside (place := id) (fun s b => (issueOn_kept w t j es s b).others) (by rwa [List.map_id]) s,
    foldl_regsBut (fun s b => (issueOn_kept w t j es s b).regs) _ s, fun b hb => ?_⟩
  have hother : ∀ s, ∀ c ∈ gangArrays w, c ≠ b → issueReading b (issueOn w t j es s c) = issueReading b s := by
    intro s c _ hc
    have hkept := issueOn_kept w t j es s c
    exact Prod.ext (hkept.others b hc.symm) (hkept.regs _ (arrReg_not_mem hc (by decide)))
  obtain ⟨p, -, hp, hn⟩ := foldl_reads_mem (gangArrays_nodup hwidth) hb hother s
  obtain ⟨hparr, hpreg⟩ := Prod.mk.inj hp
  obtain ⟨hnarr, hnreg⟩ := Prod.mk.inj hn
  have hkept := issueOn_kept w t j es (p.foldl (issueOn w t j es) s) b
  rw [hnarr, ← hparr]
  refine ⟨hkept.acc, hkept.spad, hkept.vregs, fun c hc => ?_⟩
  obtain ⟨hrise, hcur⟩ := issueOn_counts w t j es _ b hc
  refine ⟨?_, hcur⟩
  rw [rises, hnreg, ← hpreg]
  exact hrise

/-- The entries that a gang issues leave the queues of the arrays that feed it (R80). -/
theorem foldl_takeEntries (l : List ArrId) (tile n t : Nat) (s : State) :
    PortsRead l s (l.foldl (fun s b => setArr s b (takeEntries tile n t (arr s b))) s) :=
  foldl_rel (R := PortsRead l) (PortsRead.refl l) PortsRead.trans l s fun _ _ hb => setArr_portsRead hb rfl

/-! ### STEP_ISSUE -/

/-- Row 0's segment is in the buffer of every member, and no ring stalls a port that serves the gang (R81, R97, R143). -/
def segmentHeld (v : State) (w : ItemRun) (c : TileRun) : Bool :=
  gangHolds v w c.idx (c.issued / stepClk c.desc) && !(holdSources w c.desc).any (fun b => unitStalled (arr v b) 1)

/-- The entries of the next issue are in the queues of the feeders, and no ring stalls these (R81, R143). -/
def entriesQueued (v : State) (w : ItemRun) (c : TileRun) : Bool :=
  (feedSources w c.desc).all (fun b => rowsQueued (arr v b) c.desc c.idx c.issued && !unitStalled (arr v b) 0)

/-- The decision of row 0 at clock `t`, once the ports of the gang have read (R81): the clocks before the first held load, a clock
that the sluice withholds, one in which a segment or an entry is missing, and an issue. -/
def issueDecision (w : ItemRun) (t : Nat) (c : TileRun) (v : State) : State :=
  if c.issued = 0 ∧ t < c.start + holdClk c.desc then v
  else if ¬ sluicePermits (gangSluice v w) t then (gangArrays w).foldl (fun s b => setArr s b (stalledUnit (arr s b))) v
  else if !(segmentHeld v w c && entriesQueued v w c) then
    (gangArrays w).foldl (countStall (segmentHeld v w c) (entriesQueued v w c)) v
  else (feedSources w c.desc).foldl (fun s b => setArr s b (takeEntries c.idx c.issued t (arr s b)))
    ((gangArrays w).foldl (issueOn w t (c.issued / stepClk c.desc) (issueElems c.desc (c.issued % stepClk c.desc))) v)

theorem exec_stepIssue {a : ArrId} {t : Clk} {lost : List (Fin 4 × Fin 16)} {heldLost : List (Fin 4)} {s v0 v : State}
    {w : ItemRun} {c : TileRun} (hitem : arrItem s a = some w) (hcur : (arr s a).cur = some c)
    (hruns : ¬ (w.leader ≠ a.val ∨ w.halted ≠ 0 ∨ (arr s a).st = .fallow ∨ tileIssues c.desc ≤ c.issued ∨ t < c.start))
    (hbegin : beginGang w a t ((List.range w.width).foldl (loseAccess w c.desc t
      ((lost.map (fun p => (p.1.val, p.2.val))).filter (fun p => decide (p.1 < w.width))) (heldLost.map (·.val))) s) = .ok v0)
    (hfeed : feedGang w c.desc c.idx t
      ((lost.map (fun p => (p.1.val, p.2.val))).filter (fun p => decide (p.1 < w.width))) v0 = .ok v) :
    exec (.stepIssue a t ⟨lost, heldLost⟩) s = .next (issueDecision w t c v) := by
  change execStepIssue a t ⟨lost, heldLost⟩ s = _
  simp only [execStepIssue, hitem, hcur]
  rw [if_neg hruns, hbegin]
  dsimp only
  rw [hfeed]
  unfold issueDecision
  simp only [apply_ite Host.Outcome.next]
  rfl

section
variable {w : ItemRun} {t : Nat} {c : TileRun} {v : State} (hgo : ¬ (c.issued = 0 ∧ t < c.start + holdClk c.desc))
include hgo

theorem issueDecision_withheld (hsluice : sluicePermits (gangSluice v w) t = false) :
    issueDecision w t c v = (gangArrays w).foldl (fun s b => setArr s b (stalledUnit (arr s b))) v := by
  rw [issueDecision, if_neg hgo, if_pos (by rw [hsluice]; decide)]

variable (hsluice : sluicePermits (gangSluice v w) t = true)
include hsluice

theorem issueDecision_missing (hmissing : (segmentHeld v w c && entriesQueued v w c) = false) :
    issueDecision w t c v = (gangArrays w).foldl (countStall (segmentHeld v w c) (entriesQueued v w c)) v := by
  rw [issueDecision, if_neg hgo, if_neg (by rw [hsluice]; decide), if_pos (by rw [hmissing]; rfl)]

theorem issueDecision_issues (hready : (segmentHeld v w c && entriesQueued v w c) = true) :
    issueDecision w t c v
      = (feedSources w c.desc).foldl (fun s b => setArr s b (takeEntries c.idx c.issued t (arr s b)))
          ((gangArrays w).foldl (issueOn w t (c.issued / stepClk c.desc) (issueElems c.desc (c.issued % stepClk c.desc))) v) := by
  rw [issueDecision, if_neg hgo, if_neg (by rw [hsluice]; decide), if_neg (by rw [hready]; decide)]

end

/-- Settles O9: the accesses lost and the ports' reads come first, then the decision. -/
theorem stepIssueDecision : Obligations.StepIssueDecision := by
  intro a t lost heldLost s v0 v w c u d j ls hs held queued waits c0 hitem hcur hlead hwidth hpos hrun hlive
    hissue hstart hbegin hfeed
  have hruns : ¬ (w.leader ≠ a.val ∨ w.halted ≠ 0 ∨ u.st = .fallow ∨ tileIssues d ≤ c.issued ∨ t < c.start) := by
    simp only [hlead, hrun, hlive, ne_eq, not_true_eq_false, false_or, not_or, not_le, not_lt]
    exact ⟨hissue, hstart⟩
  have hexec : exec c0 s = .next (issueDecision w t c v) := exec_stepIssue hitem hcur hruns hbegin hfeed
  obtain ⟨hlfields, hlothers, hlunit, hlregs⟩ := foldl_loseAccess w d t ls hs s
  have hread := gangRead_of_reads hpos hwidth hbegin hfeed
  have hregs : v.regs = ((List.range w.width).foldl (loseAccess w d t ls hs) s).regs := by rw [hread.fields]
  refine ⟨⟨?fields, fun i hi => ?lost, ?regs, fun b hb => ?others, fun b hb => ?kept⟩, fun hwait => ?waits,
    fun hgo hsluice => ?withheld, fun hgo hsluice hmissing => ?missing, fun hgo hsluice hready => ?issues⟩
  case fields => exact ArraysRegs.trans _ _ _ hlfields hread.fields.arraysRegs
  case lost =>
    have h := foldl_loseAccess_rises d t ls hs hwidth hi s
    rwa [rises, ← regGet_congr hregs] at h
  case regs => exact fun o ho => (regGet_congr hregs o).trans (hlregs o ho)
  case others => rw [hread.others b hb, hlothers b hb]
  case kept =>
    refine ⟨?_, ?_, ?_⟩
    · rw [hread.kept hb, hlunit b]
    · rw [hread.kept hb, hlunit b]
    · rw [hread.cur_begun hb, hlunit b]
  case waits => rw [hexec, issueDecision, if_pos hwait]
  case withheld =>
    have hn := issueDecision_withheld hgo hsluice
    exact ⟨_, hexec.trans (congrArg _ hn), foldl_stalled hwidth v⟩
  case missing =>
    have hn := issueDecision_missing hgo hsluice hmissing
    exact ⟨_, hexec.trans (congrArg _ hn), foldl_countStall held queued hwidth v⟩
  case issues =>
    have hn := issueDecision_issues hgo hsluice hready
    obtain ⟨hfields, hothers, hiregs, hmembers⟩ := foldl_issueOn hwidth t j (issueElems d (c.issued % stepClk d)) v
    have htake := foldl_takeEntries (feedSources w d) c.idx c.issued t
      ((gangArrays w).foldl (issueOn w t j (issueElems d (c.issued % stepClk d))) v)
    have hregs := fun o => regGet_congr (congrArg State.regs htake.fields) o
    refine ⟨_, hexec.trans (congrArg _ hn), ArraysRegs.trans _ _ _ hfields htake.fields.arraysRegs, rfl, fun b hb => ?_, ?_,
      fun b hb => ?_⟩
    · exact (htake.others b fun h => hb (feedSources_subset hpos d h)).trans (hothers b hb)
    · exact fun o ho => (hregs o).trans (hiregs o ho)
    · obtain ⟨hacc, hspad, hvregs, hcounts⟩ := hmembers b hb
      have hunit := htake.unit b
      refine ⟨?_, ?_, ?_, fun x hx => ?_⟩
      · rw [hunit, ← hacc]
      · rw [hunit, ← hspad]
      · rw [hunit, ← hvregs]
      · obtain ⟨hrise, y, hy, hcount⟩ := hcounts x hx
        exact ⟨(hregs _).trans hrise, y, by rw [hunit]; exact hy, hcount⟩

end Sys2Proof.Machine
end

section
/-! # Loads, partial sums and stores of the vector engine, and the banks they need (O17)

An access that the form and the slot checker let pass is held first (R131, R165): its instruction's effect starts from the state
of `vHeld`, so each frame below is the effect's own frame behind that of the held access. -/

namespace Sys2Proof.Machine

/-! ### Places of registers (R488) -/

theorem veReg_inj (a : ArrId) {x y : Nat} : veReg a.val x = veReg a.val y ↔ x = y := by
  unfold veReg
  omega

theorem veReg_ne_spReg (a b : ArrId) {x : Nat} (y : Nat) (hx : x < 0x100) : veReg a.val x ≠ spReg b.val y := by
  have := a.isLt
  unfold veReg spReg feReg
  omega

theorem veReg_ne_fltReg (a : ArrId) {x : Nat} (y : Nat) (hx : x < 0x100) : veReg a.val x ≠ fltReg y := by
  have := a.isLt
  unfold veReg fltReg
  omega

/-! ### Frames composed -/

theorem mayCorrupt_trans {s t u : State} (h : mayCorrupt s t) (k : mayCorrupt t u) : mayCorrupt s u := by
  obtain ⟨hfaults, hpre⟩ := h
  obtain ⟨kfaults, kpre⟩ := k
  exact ⟨kfaults.trans (by rw [hfaults]), hpre.trans kpre⟩

theorem arrsBut_trans {a : ArrId} {s t u : State} (h : arrsBut a s t) (k : arrsBut a t u) : arrsBut a s u :=
  fun b hb => (k b hb).trans (h b hb)

/-- Clocks that have been counted stay counted while the two counters are as they were. -/
theorem lostClocks_of_regsBut {a : ArrId} {lost : List (Fin 32)} {os : List Nat} {s t n : State} (h : lostClocks a lost s t)
    (hregs : regsBut os t n) (hstall : veReg a.val 0x18 ∉ os) (hconflict : spReg a.val 0x20 ∉ os) : lostClocks a lost s n :=
  ⟨(hregs _ hstall).trans h.1, (hregs _ hconflict).trans h.2⟩

/-! ### An access held by arbitration (R131, R165) -/

section
variable (s : State) (a : ArrId) (u : ArrayUnit) (lost : List (Fin 32))

theorem vHeld_arrays :
    (vHeld (setArr s a u) a lost).arrays = (setArr s a { u with veClk := u.veClk + lost.length }).arrays := by
  simp [vHeld, setArr, arr]

theorem arr_vHeld : arr (vHeld (setArr s a u) a lost) a = { u with veClk := u.veClk + lost.length } := by
  rw [arr_congr (vHeld_arrays ..), arr_setArr]

theorem vHeld_arrsBut : arrsBut a s (vHeld (setArr s a u) a lost) := fun b hb => by
  rw [arr_congr (vHeld_arrays ..), arr_setArr_ne _ _ _ _ hb]

theorem vHeld_arraysRegs : ArraysRegs s (vHeld (setArr s a u) a lost) := by
  unfold vHeld
  extract_lets u1 s1
  have hset : ArraysRegs s s1 := rfl
  exact (hset.trans _ _ _ (regBump_arraysRegs ..)).trans _ _ _ (regBump_arraysRegs ..)

theorem vHeld_regsBut : regsBut [veReg a.val 0x18, spReg a.val 0x20] s (vHeld (setArr s a u) a lost) := by
  unfold vHeld
  extract_lets u1 s1
  have hset : regsBut [veReg a.val 0x18, spReg a.val 0x20] s s1 := regsBut_of_regs rfl
  exact regsBut_trans (regsBut_trans hset (regsBut_regBump _ _ (by simp))) (regsBut_regBump _ _ (by simp))

theorem vHeld_lostClocks : lostClocks a lost s (vHeld (setArr s a u) a lost) := by
  have hne : veReg a.val 0x18 ≠ spReg a.val 0x20 := veReg_ne_spReg a a _ (by decide)
  constructor
  · rw [rises, vHeld, regGet_regBump, if_neg hne, regGet_regBump, if_pos rfl]
    rfl
  · rw [rises, vHeld, regGet_regBump, if_pos rfl, regGet_regBump, if_neg hne.symm]
    rfl

end

/-! ### The answers to an access (R133, R208) -/

section
variable {s : State} {a : ArrId} {v : VInstr} (hready : veReady s a = true)
include hready

theorem vAccess_passed {wr : Bool} (lost : List (Fin 32)) (f : State → ArrayUnit → List (Nat × Nat) → State)
    {rs : List (Nat × Nat)} {u : ArrayUnit} (hfmt : isVecFmt v.dt.toNat = true) (hform : formRanges (arr s a) v.ext.toNat = some rs)
    (hcheck : slotChecks 3 wr (arr s a) (if wr then storeForm v.ext.toNat rs else rs) = .ok u) :
    vAccess s a v wr lost f = .next (f (vHeld (setArr s a u) a lost) u rs) := by
  simp [vAccess, hready, hfmt, hform, hcheck]

theorem vAccess_illegal (wr : Bool) (lost : List (Fin 32)) (f : State → ArrayUnit → List (Nat × Nat) → State)
    (h : formRanges (arr s a) v.ext.toNat = none ∨ isVecFmt v.dt.toNat = false) :
    vAccess s a v wr lost f = .next (vIllegal s a v) := by
  rcases h with h | h <;> simp [vAccess, hready, h]

theorem formFaults_of_vIllegal {c : Instr} (hc : exec c s = .next (vIllegal s a v)) : formFaults c s :=
  formFaults_of_illegal (v := v) hready (legal := false) (fun _ => {}) (hc.trans (by simp [vRun, hready])) rfl

end

/-! ### Loads -/

theorem tickFree_vectorFrame {a : ArrId} {wr : List (Fin 32)} {s n : State} (h : vectorFrame a wr s n) :
    vectorFrame a wr s (tickFree n) := by
  obtain ⟨hfields, hrest⟩ := h
  refine ⟨?_, hrest⟩
  unfold tickFree
  rw [hfields]

/-- The frame of an instruction behind its held access: beside its own, the slots' epochs and the two counters of R131. -/
theorem vectorFrame_after_vHeld {a : ArrId} {wr : List (Fin 32)} {lost : List (Fin 32)} {s n : State} {u : ArrayUnit}
    (hu : u = { arr s a with slots := u.slots }) (h : vectorFrame a wr (vHeld (setArr s a u) a lost) n) :
    vectorFrameBut [veReg a.val 0x18, spReg a.val 0x20] a wr s n ∧ lostClocks a lost s n := by
  have hheld := vHeld_arraysRegs s a u lost
  have hregsHeld := vHeld_regsBut s a u lost
  have hunit := arr_vHeld s a u lost
  have hitems : ∀ id, itemOf (vHeld (setArr s a u) a lost) id = itemOf s id := fun id => by rw [hheld]; rfl
  obtain ⟨hfields, hothers, hcorrupt, hplace, hlanes, hcounted, hregs, hitem, hsticky⟩ := h
  have h08 : veReg a.val 0x08 ∉ [veReg a.val 0x18, spReg a.val 0x20] := by
    simp [veReg_inj, veReg_ne_spReg]
  refine ⟨⟨?fields, arrsBut_trans (vHeld_arrsBut s a u lost) hothers, ?corrupt, ?place, fun r hr => ?lanes, ?counted, ?regs,
    fun id hid => ?item, fun id => ?sticky⟩, ?lost⟩
  case fields => exact hfields.trans (by rw [hheld])
  case corrupt => exact mayCorrupt_trans (mayCorrupt_of_faults (by rw [hheld])) hcorrupt
  case place => rw [hplace, hunit, hu]
  case lanes => rw [hlanes r hr, hunit, hu]; rfl
  case counted => rwa [rises, hregsHeld _ h08] at hcounted
  case regs => exact regsBut_trans (regsBut_mono hregsHeld (List.subset_append_right ..)) (regsBut_mono hregs (by simp))
  case item =>
    refine (hitem id ?_).trans (hitems id)
    rwa [hunit, hu]
  case sticky => rw [hsticky, hitems]
  case lost =>
    exact lostClocks_of_regsBut (vHeld_lostClocks s a u lost) hregs (by simp [veReg_inj, veReg_ne_fltReg])
      (by simp [(veReg_ne_spReg a a _ _).symm, spReg_ne_fltReg])

/-- An instruction that reads the scratchpad and writes VD alone, `g` being the lanes it writes (R133). -/
theorem read_lanes {c : Instr} {s : State} {a : ArrId} {v : VInstr} {lost : List (Fin 32)} {rs : List (Nat × Nat)} {u : ArrayUnit}
    {o : State → ArrayUnit → List (Nat × Nat) → VOut} {g : State → ArrayUnit → List (Nat × Nat) → Nat → Lane32} {k : Nat}
    {f : Nat → Lane32} (hready : veReady s a = true) (hfmt : isVecFmt v.dt.toNat = true)
    (hform : formRanges (arr s a) v.ext.toNat = some rs) (hcheck : slotChecks 3 false (arr s a) rs = .ok u)
    (hc : exec c s = vAccess s a v false lost (fun t u rs => tickFree (vfinish t a v (o t u rs))))
    (hw : ∀ t u rs, (o t u rs).writes = [(v.vd, vmk (g t u rs))]) (hg : ∀ t i, 4 * i + 4 ≤ k → g t u rs i = f i) :
    ∃ n, exec c s = .next n ∧ vectorFrameBut [veReg a.val 0x18, spReg a.val 0x20] a [v.vd] s n ∧ lostClocks a lost s n
      ∧ ∀ i, i < 512 → 4 * i + 4 ≤ k → lane (vget (arr n a) v.vd) i = f i := by
  have hwrites := hw (vHeld (setArr s a u) a lost) u rs
  obtain ⟨hframe, hlost⟩ :=
    vectorFrame_after_vHeld (slotChecks_eq hcheck) (tickFree_vectorFrame (vfinish_frame_of_writes _ a v hwrites))
  refine ⟨_, hc.trans (vAccess_passed hready lost _ hfmt hform hcheck), hframe, hlost, fun i hi hreach => ?_⟩
  rw [← hg (vHeld (setArr s a u) a lost) i hreach, ← lane_vmk (g _ u rs) hi]
  exact congrArg (fun x => lane x i) (vget_vfinish_single _ a v hwrites)

/-- The bytes of VA as ST sends them (R133). -/
def storeBytes (v : VInstr) (u : ArrayUnit) : List Byte :=
  formStore v.ext.toNat ((vget u v.va).toList.flatMap (fun x => toLE 4 x.toNat))

section
variable (a : ArrId) (v : VInstr) (lost : List (Fin 32)) (s : State)

/-- LD writes VD alone (R133, R169). -/
theorem exec_ld : ∃ o : State → ArrayUnit → List (Nat × Nat) → VOut,
    exec (.ld a ⟨v, lost⟩) s = vAccess s a v false lost (fun t u rs => tickFree (vfinish t a v (o t u rs)))
    ∧ ∀ t u rs, (o t u rs).writes = [(v.vd, vmk fun i =>
        if 4 * i + 4 ≤ (formLoad u v.ext.toNat rs).length then bytesLanes (formLoad u v.ext.toNat rs) i
        else Config.freeLane t.freeCtr i)] := by
  change ∃ o, execLd a ⟨v, lost⟩ s = _ ∧ _
  unfold execLd
  exact ⟨_, rfl, fun _ _ _ => rfl⟩

/-- PSUM of FP32 lanes writes VD alone (R126, R169). -/
theorem exec_psum (hdt : v.dt = 1) :
    ∃ o : State → ArrayUnit → List (Nat × Nat) → VOut,
      exec (.psum a ⟨v, lost⟩) s = vAccess s a v false lost (fun t u rs => tickFree (vfinish t a v (o t u rs)))
    ∧ ∀ t u rs, (o t u rs).writes = [(v.vd, vmk fun i =>
        (if 4 * i + 4 ≤ (formLoad u v.ext.toNat rs).length then
          fpOut (fadd (lane (vget u v.vd) i) (bytesLanes (formLoad u v.ext.toNat rs) i))
            [lane (vget u v.vd) i, bytesLanes (formLoad u v.ext.toNat rs) i]
        else (Config.freeLane t.freeCtr i, {})).1)] := by
  change ∃ o, execPsum a ⟨v, lost⟩ s = _ ∧ _
  unfold execPsum
  exact ⟨_, if_neg (not_not.2 hdt), fun _ _ _ => rfl⟩

/-- PSUM has the format FP32 alone (R126, R169). -/
theorem exec_psum_other (hready : veReady s a = true) (hdt : v.dt ≠ 1) : exec (.psum a ⟨v, lost⟩) s = .next (vIllegal s a v) := by
  change execPsum a ⟨v, lost⟩ s = _
  unfold execPsum
  exact (if_pos hdt).trans (if_pos hready)

theorem exec_st : exec (.st a ⟨v, lost⟩) s = vAccess s a v true lost (fun t u rs =>
    vfinish (storeRanges a t (storeForm v.ext.toNat rs) (storeBytes v u)) a v { issue := formClks u v.ext.toNat rs }) := rfl

end

/-! ### Stores -/

/-- Bytes put into ranges of an array's scratchpad, in order. -/
def putRanges : ArrayUnit → List (Nat × Nat) → List Byte → ArrayUnit
  | u, [], _ => u
  | u, (x, n) :: rs, bs => putRanges (spadPut (u, 0) x (bs.take n)).1 rs (bs.drop n)

theorem arr_spadStore (s : State) (a : ArrId) (x : Nat) (bs : List Byte) :
    arr (spadStore s a x bs) a = (spadPut (arr s a, 0) x bs).1 := by
  have h := (spadStore_stored s a (arr s a) x bs).unit
  rwa [setArr_arr] at h

theorem arr_storeRanges (a : ArrId) (s : State) (rs : List (Nat × Nat)) (bs : List Byte) :
    arr (storeRanges a s rs bs) a = putRanges (arr s a) rs bs := by
  induction rs generalizing s bs with
  | nil => rfl
  | cons r rs ih => rw [storeRanges, ih, arr_spadStore]; rfl

/-- Bytes put change bytes and banks alone (R138, R140). -/
theorem putRanges_eq (u : ArrayUnit) (rs : List (Nat × Nat)) (bs : List Byte) :
    putRanges u rs bs = { u with spad := (putRanges u rs bs).spad, banks := (putRanges u rs bs).banks } := by
  induction rs generalizing u bs with
  | nil => rfl
  | cons r rs ih =>
    unfold putRanges
    rw [ih, spadPut_eq]

/-- The clock of the array's stream has no part in where bytes go. -/
theorem spadPutByte_veClk (u : ArrayUnit) (k c x : Nat) (b : Byte) :
    spadPutByte ({ u with veClk := k }, c) x b
      = ({ (spadPutByte (u, c) x b).1 with veClk := k }, (spadPutByte (u, c) x b).2) := by
  have hbank : bankOf { u with veClk := k } x = bankOf u x := rfl
  simp only [spadPutByte, hbank]
  cases (u.banks[bankOf u x]).power <;> rfl

theorem spadPut_veClk (u : ArrayUnit) (k c x : Nat) (bs : List Byte) :
    spadPut ({ u with veClk := k }, c) x bs = ({ (spadPut (u, c) x bs).1 with veClk := k }, (spadPut (u, c) x bs).2) := by
  induction bs generalizing u c x with
  | nil => rfl
  | cons b bs ih => rw [spadPut, spadPutByte_veClk, ih]; rfl

theorem putRanges_veClk (u : ArrayUnit) (k : Nat) (rs : List (Nat × Nat)) (bs : List Byte) :
    putRanges { u with veClk := k } rs bs = { putRanges u rs bs with veClk := k } := by
  induction rs generalizing u bs with
  | nil => rfl
  | cons r rs ih => rw [putRanges, spadPut_veClk, ih]; rfl

theorem memWf_spadPut (r : ArrayUnit × Nat) (x : Nat) (bs : List Byte) (h : memWf r.1.spad = true) :
    memWf (spadPut r x bs).1.spad = true := by
  induction bs generalizing r x with
  | nil => exact h
  | cons b bs ih =>
    refine ih _ _ ?_
    rcases spadPutByte_spad r x b with e | e
    · exact e ▸ memWf_write _ _ _ h
    · exact e ▸ h

theorem cellRead_putRanges_outside (u : ArrayUnit) (rs : List (Nat × Nat)) (bs : List Byte) (hm : memWf u.spad = true) {y : Nat}
    (hy : ∀ r ∈ rs, y < r.1 ∨ r.1 + r.2 ≤ y) : cellRead y (putRanges u rs bs).spad = cellRead y u.spad := by
  induction rs generalizing u bs with
  | nil => rfl
  | cons r rs ih =>
    obtain ⟨hr, hrs⟩ := List.forall_mem_cons.1 hy
    have hlen : (bs.take r.2).length ≤ r.2 := List.length_take_le ..
    exact (ih _ _ (memWf_spadPut (u, 0) _ _ hm) hrs).trans (cellRead_spadPut_outside (u, 0) _ _ _ hm (by omega))

/-- What a store into the scratchpad of array `a` may change, `os` being the registers that count (R140, R394). -/
structure StoreFrame (os : List Nat) (a : ArrId) (s n : State) : Prop where
  others  : arrsBut a s n
  fields  : n = { s with arrays := n.arrays, regs := n.regs, faults := n.faults }
  corrupt : mayCorrupt s n
  regs    : regsBut os s n

theorem StoreFrame.refl (os : List Nat) (a : ArrId) (s : State) : StoreFrame os a s s :=
  ⟨fun _ _ => rfl, rfl, mayCorrupt_of_faults rfl, regsBut_refl _ s⟩

theorem StoreFrame.trans {os : List Nat} {a : ArrId} {s t u : State} (h : StoreFrame os a s t) (k : StoreFrame os a t u) :
    StoreFrame os a s u :=
  ⟨arrsBut_trans h.others k.others, k.fields.trans (by rw [h.fields]), mayCorrupt_trans h.corrupt k.corrupt,
    regsBut_trans h.regs k.regs⟩

theorem StoreFrame.mono {os ps : List Nat} {a : ArrId} {s n : State} (h : StoreFrame os a s n) (hsub : os ⊆ ps) :
    StoreFrame ps a s n := ⟨h.others, h.fields, h.corrupt, regsBut_mono h.regs hsub⟩

theorem storeFrame_of_arraysRegs {os : List Nat} {a : ArrId} {s n : State} (hfields : ArraysRegs s n) (hothers : arrsBut a s n)
    (hregs : regsBut os s n) : StoreFrame os a s n :=
  ⟨hothers, Eq.trans hfields (by rw [hfields]), mayCorrupt_of_faults (by rw [hfields]), hregs⟩

theorem setArr_storeFrame (s : State) (a : ArrId) (u : ArrayUnit) : StoreFrame [] a s (setArr s a u) :=
  storeFrame_of_arraysRegs rfl (fun b hb => arr_setArr_ne s a b u hb) (regsBut_of_regs rfl)

theorem regBump_storeFrame (s : State) (a : ArrId) (o k : Nat) : StoreFrame [o] a s (regBump s o k) :=
  storeFrame_of_arraysRegs (regBump_arraysRegs ..) (fun _ _ => arr_congr (regBump_arrays ..) _)
    (regsBut_regBump s k List.mem_cons_self)

theorem vHeld_storeFrame (s : State) (a : ArrId) (u : ArrayUnit) (lost : List (Fin 32)) :
    StoreFrame [veReg a.val 0x18, spReg a.val 0x20] a s (vHeld (setArr s a u) a lost) :=
  storeFrame_of_arraysRegs (vHeld_arraysRegs ..) (vHeld_arrsBut s a u lost) (vHeld_regsBut s a u lost)

theorem spadStore_storeFrame (s : State) (a : ArrId) (x : Nat) (bs : List Byte) :
    StoreFrame [spReg a.val 0x10, fltReg 0x080] a s (spadStore s a x bs) := by
  have h := spadStore_stored s a (arr s a) x bs
  rw [setArr_arr] at h
  exact ⟨h.others, h.fields, h.corrupt, h.regs⟩

theorem storeRanges_storeFrame (a : ArrId) (s : State) (rs : List (Nat × Nat)) (bs : List Byte) :
    StoreFrame [spReg a.val 0x10, fltReg 0x080] a s (storeRanges a s rs bs) := by
  induction rs generalizing s bs with
  | nil => exact .refl _ a s
  | cons r rs ih => exact (spadStore_storeFrame ..).trans (ih ..)

/-- An instruction that writes no register and notes no event counts itself and moves on (R164, R188). -/
theorem vfinish_quiet (s : State) (a : ArrId) (v : VInstr) (k : Nat) :
    vfinish s a v { issue := k } = regBump (setArr s a (issuedUnit (arr s a) v { issue := k })) (veReg a.val 0x08) 1 := by
  rw [vfinish_eq_parts]
  rfl

theorem vfinish_quiet_storeFrame (s : State) (a : ArrId) (v : VInstr) (k : Nat) :
    StoreFrame [veReg a.val 0x08] a s (vfinish s a v { issue := k }) := by
  rw [vfinish_quiet]
  exact ((setArr_storeFrame ..).mono (List.nil_subset _)).trans (regBump_storeFrame ..)

/-- The state after ST: its access held, its bytes put, and the instruction counted (R133, R165, R188). -/
def storeIssued (v : VInstr) (lost : List (Fin 32)) (rs : List (Nat × Nat)) (bs : List Byte) (k : Nat) (s : State) (a : ArrId)
    (u : ArrayUnit) : State :=
  vfinish (storeRanges a (vHeld (setArr s a u) a lost) rs bs) a v { issue := k }

theorem exec_st_passed {s : State} {a : ArrId} {v : VInstr} {rs : List (Nat × Nat)} {u : ArrayUnit} (lost : List (Fin 32))
    (hready : veReady s a = true) (hfmt : isVecFmt v.dt.toNat = true) (hform : formRanges (arr s a) v.ext.toNat = some rs)
    (hcheck : slotChecks 3 true (arr s a) (storeForm v.ext.toNat rs) = .ok u) :
    exec (.st a ⟨v, lost⟩) s
      = .next (storeIssued v lost (storeForm v.ext.toNat rs) (storeBytes v u) (formClks u v.ext.toNat rs) s a u) :=
  (exec_st a v lost s).trans (vAccess_passed hready lost _ hfmt hform hcheck)

section
variable (v : VInstr) (lost : List (Fin 32)) (rs : List (Nat × Nat)) (bs : List Byte) (k : Nat) (s : State) (a : ArrId)
  (u : ArrayUnit)

theorem storeIssued_storeFrame :
    StoreFrame [veReg a.val 0x08, veReg a.val 0x18, spReg a.val 0x10, spReg a.val 0x20, fltReg 0x080] a s
      (storeIssued v lost rs bs k s a u) :=
  ((vHeld_storeFrame s a u lost).mono (by simp)).trans
    (((storeRanges_storeFrame a _ rs bs).mono (by simp)).trans ((vfinish_quiet_storeFrame _ a v k).mono (by simp)))

theorem storeIssued_lostClocks : lostClocks a lost s (storeIssued v lost rs bs k s a u) := by
  have hput := lostClocks_of_regsBut (vHeld_lostClocks s a u lost) (storeRanges_storeFrame a _ rs bs).regs
    (by simp [veReg_ne_spReg, veReg_ne_fltReg]) (by simp [spReg_inj, spReg_ne_fltReg])
  exact lostClocks_of_regsBut hput (vfinish_quiet_storeFrame _ a v k).regs (by simp [veReg_inj])
    (by simp [(veReg_ne_spReg a a _ _).symm])

theorem arr_storeIssued :
    arr (storeIssued v lost rs bs k s a u) a
      = issuedUnit { putRanges u rs bs with veClk := u.veClk + lost.length } v { issue := k } := by
  rw [storeIssued, arr_vfinish, arr_storeRanges, arr_vHeld, putRanges_veClk]

variable {s a u} (hu : u = { arr s a with slots := u.slots })
include hu

theorem arr_storeIssued_eq :
    arr (storeIssued v lost rs bs k s a u) a = { arr (storeRanges a (setArr s a u) rs bs) a with
      vpos := (arr s a).vpos + 1, veClk := (arr (storeIssued v lost rs bs k s a u) a).veClk
      ve := if (arr s a).vpos + 1 = (arr s a).vlen then .idle else (arr s a).ve } := by
  rw [arr_storeIssued, arr_storeRanges, arr_setArr, putRanges_eq, hu]
  rfl

theorem cellRead_storeIssued_outside (hm : memWf (arr s a).spad = true) {y : Nat} (hy : ∀ r ∈ rs, y < r.1 ∨ r.1 + r.2 ≤ y) :
    cellRead y (arr (storeIssued v lost rs bs k s a u) a).spad = cellRead y (arr s a).spad := by
  have hspad : u.spad = (arr s a).spad := by rw [hu]
  rw [arr_storeIssued, ← hspad]
  exact cellRead_putRanges_outside u rs bs (hspad ▸ hm) hy

end

/-! ### Banks (R138 to R141) -/

theorem exec_bankPowerDown_drained {a : ArrId} {b : Fin 32} (t : Clk) {s : State} (hreq : ((arr s a).banks[b]).pdReq = true)
    (hon : ((arr s a).banks[b]).power = .on) (hdrained : ((arr s a).banks[b]).pending = []) :
    exec (.bankPowerDown a b t) s = .next (setArr s a { arr s a with
      banks := (arr s a).banks.set b { (arr s a).banks[b] with power := .sleep, pdReq := false } }) := by
  change execBankPowerDown a b t s = _
  simp [-Fin.getElem_fin, execBankPowerDown, hreq, hon, hdrained, b2n, regBump]

/-- A bank that wakes is ON with nothing waiting, and the other banks are as they were. -/
theorem wakeBank_banks (u : ArrayUnit) (b : Fin 32) :
    (wakeBank u b).banks = u.banks.set b { u.banks[b] with power := .on, pending := [] } := rfl

theorem exec_bankWakeDone_waking {a : ArrId} {b : Fin 32} {s : State} (h : ((arr s a).banks[b]).power = .waking) :
    exec (.bankWakeDone a b) s = .next (setArr s a (wakeBank (arr s a) b)) := by
  change execBankWakeDone a b s = _
  exact if_pos h

theorem exec_lateWake_byte {a : ArrId} {x : Nat} (d : Byte) {s : State}
    (hsleep : ((arr s a).banks[bankOf (arr s a) x]).power = .sleep) (hx : x < swBytes (arr s a)) :
    exec (.lateWake a x [d]) s = .next (spadStore s a x [d]) := by
  change execLateWake a x [d] s = _
  have hmeets : meetsSleep (arr s a) x 1 = true := by
    simp [-Fin.getElem_fin, meetsSleep, hsleep]
  have hin : x + 1 ≤ swBytes (arr s a) := hx
  simp [execLateWake, hmeets, hin]

/-- A byte that reaches a bank in SLEEP wakes it and waits (R140). -/
theorem spadPutByte_banks_of_sleep {u : ArrayUnit} (c : Nat) {x : Nat} (d : Byte) (h : (u.banks[bankOf u x]).power = .sleep) :
    (spadPutByte (u, c) x d).1.banks = u.banks.set (bankOf u x)
      { u.banks[bankOf u x] with power := .waking, pending := (u.banks[bankOf u x]).pending ++ [(bankByte u x, d)] } := by
  simp only [spadPutByte, h]

/-- What the end of the preamble does to one bank: one that the work item books and that wakes turns ON (R141). -/
def wakeBooked (u : ArrayUnit) (b : Fin 32) : ArrayUnit :=
  if (u.banks[b]).booked && (u.banks[b]).power == .waking then wakeBank u b else u

theorem wakeBank_bank_ne (u : ArrayUnit) {b c : Fin 32} (h : c ≠ b) : (wakeBank u b).banks[c] = u.banks[c] := by
  have hval : b.val ≠ c.val := fun e => h (Fin.ext e.symm)
  rw [wakeBank_banks]
  simp [hval]

theorem wakeBank_bank_self (u : ArrayUnit) (b : Fin 32) : ((wakeBank u b).banks[b]).power = .on := by
  rw [wakeBank_banks]
  simp

theorem wakeBooked_bank_ne (u : ArrayUnit) {b c : Fin 32} (h : c ≠ b) : (wakeBooked u b).banks[c] = u.banks[c] := by
  unfold wakeBooked
  split
  · exact wakeBank_bank_ne u h
  · rfl

theorem wakeBooked_stays_on {u : ArrayUnit} {c : Fin 32} (h : (u.banks[c]).power = .on) (b : Fin 32) :
    ((wakeBooked u b).banks[c]).power = .on := by
  by_cases hc : c = b
  · rw [wakeBooked, if_neg (by simp [-Fin.getElem_fin, ← hc, h])]
    exact h
  · rw [wakeBooked_bank_ne u hc, h]

theorem foldl_wakeBooked_stays_on {u : ArrayUnit} {c : Fin 32} (h : (u.banks[c]).power = .on) (l : List (Fin 32)) :
    ((l.foldl wakeBooked u).banks[c]).power = .on := by
  induction l generalizing u with
  | nil => exact h
  | cons b l ih => exact ih (wakeBooked_stays_on h b)

theorem foldl_wakeBooked_on {u : ArrayUnit} {c : Fin 32} (hbooked : (u.banks[c]).booked = true)
    (hwaking : (u.banks[c]).power = .waking) {l : List (Fin 32)} (hc : c ∈ l) : ((l.foldl wakeBooked u).banks[c]).power = .on := by
  induction l generalizing u with
  | nil => cases hc
  | cons b l ih =>
    by_cases hb : c = b
    · subst hb
      refine foldl_wakeBooked_stays_on ?_ l
      rw [wakeBooked, if_pos (by simp [-Fin.getElem_fin, hbooked, hwaking])]
      exact wakeBank_bank_self u c
    · have hkept := wakeBooked_bank_ne u hb
      exact ih (by rw [hkept, hbooked]) (by rw [hkept, hwaking]) ((List.mem_cons.1 hc).resolve_left hb)

/-- The end of a preamble at which no burst waits (R141). -/
theorem exec_preambleEnd_empty {a : ArrId} {s : State} (hpre : (arr s a).preamble = true) (hport : (arr s a).portq = []) :
    ∃ v : ArrayUnit, exec (.preambleEnd a) s = .next (setArr s a { v with preamble := false, portq := [] })
      ∧ ∀ b : Fin 32, ((arr s a).banks[b]).booked = true → ((arr s a).banks[b]).power = .waking → (v.banks[b]).power = .on := by
  refine ⟨(List.finRange 32).foldl wakeBooked (arr s a), ?_, fun b hbooked hwaking =>
    foldl_wakeBooked_on hbooked hwaking (List.mem_finRange b)⟩
  change execPreambleEnd a s = _
  simp only [execPreambleEnd, hpre, hport, if_true, List.foldl_nil]
  rfl

/-- Settles O17: an access of each kind behind its held clocks, the forms that are not permitted, and the banks. -/
theorem scratchpadLoadsAndStores : Obligations.ScratchpadLoadsAndStores := by
  refine ⟨fun a v lost s hready => ⟨fun rs u hform => ⟨fun hfmt hcheck => ?ld, fun hcheck hdt => ?psum, fun hfmt hcheck => ?st⟩,
    fun hillegal => ?illegal, fun hdt => ?psumFormat⟩, fun a b s => ⟨fun t hreq hon hdrained => ?sleeps, fun hwaking => ?wakes,
    fun x d hsleep hbank hx => ?late, fun hpre hport => ?preamble⟩⟩
  case ld =>
    obtain ⟨o, hexec, hwrites⟩ := exec_ld a v lost s
    exact read_lanes hready hfmt hform hcheck hexec hwrites fun _ _ hreach => if_pos hreach
  case psum =>
    have hfmt : isVecFmt v.dt.toNat = true := by rw [hdt]; decide
    obtain ⟨o, hexec, hwrites⟩ := exec_psum a v lost s hdt
    exact read_lanes hready hfmt hform hcheck hexec hwrites fun _ _ hreach => by rw [if_pos hreach]; rfl
  case st =>
    have hu := slotChecks_eq hcheck
    have hframe := storeIssued_storeFrame v lost (storeForm v.ext.toNat rs) (storeBytes v u) (formClks u v.ext.toNat rs) s a u
    exact ⟨_, exec_st_passed lost hready hfmt hform hcheck, hframe.others, hframe.fields, hframe.corrupt,
      storeIssued_lostClocks .., hframe.regs, arr_storeIssued_eq _ _ _ _ _ hu,
      fun hm y hy => cellRead_storeIssued_outside _ _ _ _ _ hu hm hy⟩
  case illegal =>
    refine ⟨formFaults_of_vIllegal (v := v) hready ?_, formFaults_of_vIllegal (v := v) hready ?_,
      formFaults_of_vIllegal (v := v) hready ?_⟩
    · obtain ⟨o, hexec, -⟩ := exec_ld a v lost s
      exact hexec.trans (vAccess_illegal hready _ _ _ hillegal)
    · by_cases hdt : v.dt = 1
      · obtain ⟨o, hexec, -⟩ := exec_psum a v lost s hdt
        exact hexec.trans (vAccess_illegal hready _ _ _ hillegal)
      · exact exec_psum_other a v lost s hready hdt
    · exact (exec_st a v lost s).trans (vAccess_illegal hready _ _ _ hillegal)
  case psumFormat => exact formFaults_of_vIllegal hready (exec_psum_other a v lost s hready hdt)
  case sleeps => exact exec_bankPowerDown_drained t hreq hon hdrained
  case wakes => exact ⟨_, exec_bankWakeDone_waking hwaking, by rw [arr_setArr, wakeBank_banks]⟩
  case late =>
    subst hbank
    exact ⟨_, exec_lateWake_byte d hsleep hx, by rw [arr_spadStore]; exact spadPutByte_banks_of_sleep 0 d hsleep⟩
  case preamble =>
    obtain ⟨v, hexec, hon⟩ := exec_preambleEnd_empty hpre hport
    refine ⟨_, hexec, by rw [arr_setArr], fun hbooked hwaking => ?_⟩
    rw [arr_setArr]
    exact hon b hbooked hwaking

end Sys2Proof.Machine
end

section
/-! # The ring operations (O6) -/

namespace Sys2Proof.Machine

/-! ### A ring replaced, and a stall counted -/

/-- What ACQUIRE and WAIT answer: a ring replaced, the clocks of its unit's stall counted in a register, and the clock of the vector
engine's stream moved on where that is the unit (R143). -/
def ringCounted (s : State) (a : ArrId) (q : Fin 6) (unit : Fin 4) (k o : Nat) (g : Ring) : State :=
  regBump (setArr s a (setRing { arr s a with veClk := if unit = 3 then (arr s a).veClk + k else (arr s a).veClk } q g))
    (ringReg a.val q.val o) k

theorem ringCounted_frame (s : State) (a : ArrId) (q : Fin 6) (unit : Fin 4) {k k' : Nat} (o : Nat) (g : Ring) (hk : k = k') :
    let n := ringCounted s a q unit k o g
    n = { s with arrays := n.arrays, regs := n.regs } ∧ arrsBut a s n
      ∧ arr n a = { arr s a with
          rings := (arr s a).rings.set q g, veClk := if unit.val = 3 then (arr s a).veClk + k' else (arr s a).veClk }
      ∧ rises (ringReg a.val q.val o) k' s n ∧ regsBut [ringReg a.val q.val o] s n := by
  subst hk
  have hunit : (unit = 3) = (unit.val = 3) := propext ⟨fun h => h ▸ rfl, fun h => Fin.ext h⟩
  refine ⟨ArraysRegs.trans s (setArr s a _) _ rfl (regBump_arraysRegs ..), fun b hb => ?_, ?_, rises_regBump _ _ _,
    regsBut_regBump _ _ List.mem_cons_self⟩
  · rw [ringCounted, arr_congr (regBump_arrays ..), arr_setArr_ne _ _ _ _ hb]
  · simp only [ringCounted, arr_congr (regBump_arrays ..), arr_setArr, setRing, hunit]

section
variable {a : ArrId} {q : Fin 6} {s : State}

theorem exec_acquire_claims (unit : Fin 4) (t : Clk) (h : ((arr s a).rings[q]).enable = true)
    (hroom : ringFull (arr s a).rings[q] = false) :
    exec (.acquire a ⟨q, unit, t⟩) s = .next
      (ringCounted s a q unit (stallClks (((arr s a).rings[q]).waitP.map (·.2)) t false) 0x10
        { (arr s a).rings[q] with claimed := true, waitP := none }) := by
  change execAcquire a ⟨q, unit, t⟩ s = _
  simp only [execAcquire, h, hroom]
  rfl

theorem exec_acquire_stalls (unit : Fin 4) (t : Clk) (h : ((arr s a).rings[q]).enable = true)
    (hfull : ringFull (arr s a).rings[q] = true) :
    exec (.acquire a ⟨q, unit, t⟩) s = .next
      (ringCounted s a q unit (stallClks (((arr s a).rings[q]).waitP.map (·.2)) t true) 0x10
        { (arr s a).rings[q] with waitP := some (unit.val, t) }) := by
  change execAcquire a ⟨q, unit, t⟩ s = _
  simp only [execAcquire, h, hfull]
  rfl

theorem exec_wait_succeeds (i : Fin 16) (unit : Fin 4) (t : Clk) (h : ((arr s a).rings[q]).enable = true)
    (hthere : ((arr s a).rings[q]).head + i.val < ((arr s a).rings[q]).tail) :
    exec (.wait a ⟨q, unit, t⟩ i) s = .next
      (ringCounted s a q unit (stallClks (((arr s a).rings[q]).waitC.map (·.2.2)) t false) 0x18
        { (arr s a).rings[q] with waitC := none }) := by
  change execWait a ⟨q, unit, t⟩ i s = _
  simp only [execWait, h, hthere, decide_true]
  rfl

theorem exec_wait_stalls (i : Fin 16) (unit : Fin 4) (t : Clk) (h : ((arr s a).rings[q]).enable = true)
    (hmissing : ¬ ((arr s a).rings[q]).head + i.val < ((arr s a).rings[q]).tail) :
    exec (.wait a ⟨q, unit, t⟩ i) s = .next
      (ringCounted s a q unit (stallClks (((arr s a).rings[q]).waitC.map (·.2.2)) t true) 0x18
        { (arr s a).rings[q] with waitC := some (i.val, unit.val, t) }) := by
  change execWait a ⟨q, unit, t⟩ i s = _
  simp only [execWait, h, hmissing, decide_false]
  rfl

theorem exec_publish (henable : ((arr s a).rings[q]).enable = true) (hclaimed : ((arr s a).rings[q]).claimed = true) :
    exec (.publish a q) s = .next (setArr s a (ringFilled (arr s a) q)) := by
  change execPublish a q s = _
  exact if_pos (by simp [-Fin.getElem_fin, henable, hclaimed])

theorem exec_release (henable : ((arr s a).rings[q]).enable = true) (h : ((arr s a).rings[q]).head < ((arr s a).rings[q]).tail) :
    exec (.release a q) s
      = .next (setArr s a (setRing (arr s a) q { (arr s a).rings[q] with head := ((arr s a).rings[q]).head + 1 })) := by
  change execRelease a q s = _
  exact if_pos (by simp [-Fin.getElem_fin, henable, h])

/-- On a ring that the work item has not set up the four accesses change nothing. -/
theorem exec_ring_disabled (i : Fin 16) (unit : Fin 4) (t : Clk) (h : ((arr s a).rings[q]).enable = false) :
    exec (.acquire a ⟨q, unit, t⟩) s = .next s ∧ exec (.publish a q) s = .next s ∧ exec (.wait a ⟨q, unit, t⟩ i) s = .next s
      ∧ exec (.release a q) s = .next s := by
  refine ⟨?_, ?_, ?_, ?_⟩
  · change execAcquire a ⟨q, unit, t⟩ s = _
    exact if_pos (by simp [-Fin.getElem_fin, h])
  · change execPublish a q s = _
    exact if_neg (by simp [-Fin.getElem_fin, h])
  · change execWait a ⟨q, unit, t⟩ i s = _
    exact if_pos (by simp [-Fin.getElem_fin, h])
  · change execRelease a q s = _
    exact if_neg (by simp [-Fin.getElem_fin, h])

end

/-! ### Positions published (R143) -/

/-- Publishing moves tail alone, over positions that were filled. -/
theorem publishRing_eq (u : ArrayUnit) (fuel : Nat) (g : Ring) :
    publishRing u fuel g = { g with tail := (publishRing u fuel g).tail, filledUp := (publishRing u fuel g).filledUp }
      ∧ (publishRing u fuel g).tail + (publishRing u fuel g).filledUp = g.tail + g.filledUp ∧ g.tail ≤ (publishRing u fuel g).tail := by
  induction fuel generalizing g with
  | zero => exact ⟨rfl, rfl, Nat.le_refl _⟩
  | succ fuel ih =>
    unfold publishRing
    split
    case isTrue => exact ⟨rfl, rfl, Nat.le_refl _⟩
    case isFalse h =>
      obtain ⟨heq, hsum, hle⟩ := ih { g with tail := g.tail + 1, filledUp := g.filledUp - 1 }
      dsimp only at hsum hle
      exact ⟨heq, by omega, by omega⟩

/-- A position whose writes are pending is not published, nor is one behind it. -/
theorem publishRing_of_pending (u : ArrayUnit) (fuel : Nat) (g : Ring)
    (h : writePending u (ringSlotAddr g g.tail) g.slotSize = true) : publishRing u fuel g = g := by
  cases fuel with
  | zero => rfl
  | succ fuel => exact if_pos (.inr h)

/-- The one position filled is published when its writes are performed. -/
theorem publishRing_one (u : ArrayUnit) (g : Ring) (hfilled : g.filledUp = 1)
    (h : writePending u (ringSlotAddr g g.tail) g.slotSize = false) : (publishRing u 1 g).tail = g.tail + 1 := by
  rw [publishRing, if_neg (by simp [hfilled, h])]
  rfl

/-- Settles O6: the answer of each access, and what `ringFilled` publishes. -/
theorem ringPositions : Obligations.RingPositions := by
  intro a q s u g changed
  refine ⟨fun henable => ⟨fun unit t hroom => ?claims, fun unit t hfull => ?full, fun hclaimed => ?publish,
    fun i unit t hthere => ?there, fun i unit t hmissing => ?missing, exec_release henable⟩,
    fun hoff i unit t => exec_ring_disabled i unit t hoff⟩
  case claims =>
    exact ⟨_, exec_acquire_claims unit t henable (decide_eq_false (Nat.not_le.2 hroom)),
      ringCounted_frame s a q unit 0x10 _ (by cases ((arr s a).rings[q]).waitP <;> rfl)⟩
  case full =>
    exact ⟨_, exec_acquire_stalls unit t henable (decide_eq_true hfull), ringCounted_frame s a q unit 0x10 _ (by cases ((arr s a).rings[q]).waitP <;> rfl)⟩
  case there =>
    exact ⟨_, exec_wait_succeeds i unit t henable hthere, ringCounted_frame s a q unit 0x18 _ (by cases ((arr s a).rings[q]).waitC <;> rfl)⟩
  case missing =>
    exact ⟨_, exec_wait_stalls i unit t henable (Nat.not_lt.2 hmissing), ringCounted_frame s a q unit 0x18 _ (by cases ((arr s a).rings[q]).waitC <;> rfl)⟩
  case publish =>
    let g1 : Ring := { g with filledUp := g.filledUp + 1, filled := if q.val < 4 then 0 else g.filled, claimed := false }
    obtain ⟨heq, hsum, hle⟩ := publishRing_eq u g1.filledUp g1
    refine ⟨_, _, ?_, (hsum.trans (Nat.add_assoc ..).symm), hle, fun hnone hdone => ?_, fun hpending => ?_⟩
    · rw [exec_publish henable hclaimed, ringFilled, heq]
      rfl
    · have hone : g1.filledUp = 1 := congrArg (· + 1) hnone
      rw [hone]
      exact publishRing_one u g1 hone hdone
    · rw [publishRing_of_pending u _ g1 hpending]

end Sys2Proof.Machine
end

section
/-! # Bank power, late wakes and the end of a preamble (O7) -/

namespace Sys2Proof.Machine

/-! ### A bank woken (R138, R140) -/

/-- The software space after the writes that waited for bank `b` have been performed in their order; those of a bank that is no software
bank do not show (R129). -/
def pendingPut (u : ArrayUnit) (b : Fin 32) (ps : List (Nat × Byte)) (m : List Host.Cell) : List Host.Cell :=
  if b.val < u.swBanks then ps.foldl (fun m p => cellWrite (bankAddr u b.val p.1) p.2 m) m else m

theorem wakeBank_spad (u : ArrayUnit) (b : Fin 32) : (wakeBank u b).spad = pendingPut u b (u.banks[b]).pending u.spad := rfl

theorem cellRead_foldl_cellWrite_outside (f : Nat → Nat) (ps : List (Nat × Byte)) {m : List Host.Cell} (hm : memWf m = true) {x : Nat}
    (hx : ∀ p ∈ ps, f p.1 ≠ x) : cellRead x (ps.foldl (fun m p => cellWrite (f p.1) p.2 m) m) = cellRead x m := by
  induction ps generalizing m with
  | nil => rfl
  | cons p ps ih =>
    obtain ⟨hp, hps⟩ := List.forall_mem_cons.1 hx
    rw [List.foldl_cons, ih (memWf_write _ _ _ hm) hps, cellRead_write _ _ _ _ ((memWf_iff _).1 hm).1, if_neg hp.symm]

theorem cellRead_pendingPut_outside {u : ArrayUnit} (b : Fin 32) {ps : List (Nat × Byte)} (hm : memWf u.spad = true) {x : Nat}
    (hx : ∀ p ∈ ps, bankAddr u b.val p.1 ≠ x) : cellRead x (pendingPut u b ps u.spad) = cellRead x u.spad := by
  unfold pendingPut
  split
  · exact cellRead_foldl_cellWrite_outside _ ps hm hx
  · rfl

/-- Positions that are published leave head and the filled positions as they were (R143). -/
theorem publishAll_rings (u : ArrayUnit) (q : Fin 6) :
    ((publishAll u).rings[q]).head = (u.rings[q]).head
      ∧ ((publishAll u).rings[q]).tail + ((publishAll u).rings[q]).filledUp = (u.rings[q]).tail + (u.rings[q]).filledUp := by
  have hring : (publishAll u).rings[q] = publishRing u (u.rings[q]).filledUp u.rings[q] := Vector.getElem_map ..
  obtain ⟨heq, hsum, -⟩ := publishRing_eq u (u.rings[q]).filledUp u.rings[q]
  rw [hring]
  exact ⟨by rw [heq], hsum⟩

theorem wakeBank_rings (u : ArrayUnit) (b : Fin 32) (q : Fin 6) :
    ((wakeBank u b).rings[q]).head = (u.rings[q]).head
      ∧ ((wakeBank u b).rings[q]).tail + ((wakeBank u b).rings[q]).filledUp = (u.rings[q]).tail + (u.rings[q]).filledUp :=
  publishAll_rings _ q

/-- What a state in which bank `b` of array `a` has been woken keeps, and how the array reads. -/
theorem woken_frame {s n : State} {a : ArrId} {b : Fin 32} (hfields : n = { s with arrays := n.arrays, regs := n.regs })
    (harrays : n.arrays = (setArr s a (wakeBank (arr s a) b)).arrays) :
    let u := arr s a
    let k := u.banks[b]
    n = { s with arrays := n.arrays, regs := n.regs } ∧ arrsBut a s n
      ∧ arr n a = { u with spad := (arr n a).spad, rings := (arr n a).rings, banks := u.banks.set b { k with power := .on, pending := [] } }
      ∧ (b.val < u.swBanks → (arr n a).spad = k.pending.foldl (fun m p => cellWrite (bankAddr u b.val p.1) p.2 m) u.spad)
      ∧ (u.swBanks ≤ b.val → (arr n a).spad = u.spad)
      ∧ (memWf u.spad = true → ∀ x, (∀ p ∈ k.pending, bankAddr u b.val p.1 ≠ x) → cellRead x (arr n a).spad = cellRead x u.spad)
      ∧ ∀ q : Fin 6, ((arr n a).rings[q]).head = (u.rings[q]).head
          ∧ ((arr n a).rings[q]).tail + ((arr n a).rings[q]).filledUp = (u.rings[q]).tail + (u.rings[q]).filledUp := by
  have hunit : arr n a = wakeBank (arr s a) b := by rw [arr_congr harrays, arr_setArr]
  refine ⟨hfields, fun c hc => by rw [arr_congr harrays, arr_setArr_ne _ _ _ _ hc], ?_, fun hb => ?_, fun hb => ?_, fun hm x hx => ?_,
    fun q => ?_⟩
  · rw [hunit]
    rfl
  · rw [hunit]
    exact if_pos hb
  · rw [hunit]
    exact if_neg (Nat.not_lt.2 hb)
  · rw [hunit, wakeBank_spad]
    exact cellRead_pendingPut_outside b hm hx
  · rw [hunit]
    exact wakeBank_rings _ b q

theorem exec_bankWakeDone_sleeping {a : ArrId} {b : Fin 32} {s : State} (hsleep : ((arr s a).banks[b]).power = .sleep)
    (hpending : ((arr s a).banks[b]).pending ≠ []) :
    exec (.bankWakeDone a b) s = .next (regBump (setArr s a (wakeBank (arr s a) b)) (spReg a.val 0x10) 1) := by
  change execBankWakeDone a b s = _
  simp [-Fin.getElem_fin, execBankWakeDone, hsleep, hpending]

/-! ### Power-down (R139) -/

/-- A bank whose power-down was requested and whose time has come sleeps; a bank cut short with writes pending is counted. -/
theorem exec_bankPowerDown_sleeps {a : ArrId} {b : Fin 32} {t : Clk} {s : State} (hreq : ((arr s a).banks[b]).pdReq = true)
    (hpower : ((arr s a).banks[b]).power = .on ∨ ((arr s a).banks[b]).power = .waking)
    (hdue : ((arr s a).banks[b]).pending = [] ∨ 256 ≤ t) :
    exec (.bankPowerDown a b t) s = .next (regBump (setArr s a { arr s a with
      banks := (arr s a).banks.set b { (arr s a).banks[b] with power := .sleep, pdReq := false } }) (spReg a.val 0x18)
        (if ((arr s a).banks[b]).pending = [] then 0 else 1)) := by
  have hclks : b2n (!((arr s a).banks[b]).pending.isEmpty) = if ((arr s a).banks[b]).pending = [] then 0 else 1 := by
    cases ((arr s a).banks[b]).pending <;> rfl
  change execBankPowerDown a b t s = _
  rw [← hclks]
  exact if_pos (by rcases hpower with h | h <;> rcases hdue with hd | hd <;> simp [-Fin.getElem_fin, hreq, h, hd])

theorem exec_bankPowerDown_waits {a : ArrId} {b : Fin 32} {t : Clk} {s : State} (hpending : ((arr s a).banks[b]).pending ≠ [])
    (ht : t < 256) : exec (.bankPowerDown a b t) s = .next s := by
  change execBankPowerDown a b t s = _
  exact if_neg (by simp [-Fin.getElem_fin, hpending, Nat.not_le.2 ht])

/-! ### Late wakes (R140) -/

theorem exec_lateWake {a : ArrId} {x : Nat} {ds : List Byte} {s : State} (hmeets : meetsSleep (arr s a) x ds.length = true)
    (hin : x + ds.length ≤ swBytes (arr s a)) : exec (.lateWake a x ds) s = .next (spadStore s a x ds) := by
  change execLateWake a x ds s = _
  exact if_pos (by simp [hmeets, hin])

theorem spadStore_rises (s : State) (a : ArrId) (x : Nat) (bs : List Byte) :
    rises (spReg a.val 0x10) (spadPut (arr s a, 0) x bs).2 s (spadStore s a x bs) := by
  rw [rises, spadStore, regGet_disarm _ _ _ (spReg_ne_fltReg a _ (by decide)), regGet_regBump, if_pos rfl]
  rfl

/-- A byte that reaches a bank in SLEEP wakes it, and waits there. -/
theorem spadPutByte_of_sleep {u : ArrayUnit} (c : Nat) {x : Nat} (d : Byte) (h : (u.banks[bankOf u x]).power = .sleep) :
    spadPutByte (u, c) x d =
      ({ u with
          banks := u.banks.set (bankOf u x)
            { u.banks[bankOf u x] with power := .waking, pending := (u.banks[bankOf u x]).pending ++ [(bankByte u x, d)] } },
        c + 1) := by
  simp only [spadPutByte, h]

theorem bank_sleeps_of_meetsSleep {u : ArrayUnit} {x : Nat} (h : meetsSleep u x 1 = true) : (u.banks[bankOf u x]).power = .sleep := by
  simpa [-Fin.getElem_fin, meetsSleep] using h

/-! ### The end of a preamble (R141) -/

/-- What the end of the preamble leaves of the banks that a list names: those that the work item books and that wake are ON, with their
writes performed. -/
structure Woken (l : List (Fin 32)) (u v : ArrayUnit) : Prop where
  unit  : v = { u with spad := v.spad, rings := v.rings, banks := v.banks }
  spad  : v.spad = l.foldl (fun m b => if (u.banks[b]).booked = true ∧ (u.banks[b]).power = .waking then
    pendingPut u b (u.banks[b]).pending m else m) u.spad
  rings : ∀ q : Fin 6, (v.rings[q]).head = (u.rings[q]).head
    ∧ (v.rings[q]).tail + (v.rings[q]).filledUp = (u.rings[q]).tail + (u.rings[q]).filledUp
  banks : ∀ b : Fin 32, v.banks[b] = if b ∈ l ∧ (u.banks[b]).booked = true ∧ (u.banks[b]).power = .waking then
    { u.banks[b] with power := .on, pending := [] } else u.banks[b]

/-- Bank `b` is the next that the preamble's end reaches: it is still as it was before. -/
theorem Woken.snoc {l : List (Fin 32)} {u v : ArrayUnit} (h : Woken l u v) {b : Fin 32} (hb : b ∉ l) :
    Woken (l ++ [b]) u (wakeBooked v b) := by
  have hbank : v.banks[b] = u.banks[b] := by rw [h.banks b, if_neg fun hm => hb hm.1]
  have hsw : v.swBanks = u.swBanks := by rw [h.unit]
  have hfold (m : List Host.Cell) : pendingPut v b (u.banks[b]).pending m = pendingPut u b (u.banks[b]).pending m := by
    unfold pendingPut bankAddr
    rw [hsw]
  by_cases hwakes : (u.banks[b]).booked = true ∧ (u.banks[b]).power = .waking
  · have hv : wakeBooked v b = wakeBank v b := if_pos (by simp [-Fin.getElem_fin, hbank, hwakes])
    rw [hv]
    refine ⟨?_, ?_, fun q => ?_, fun c => ?_⟩
    · exact (show wakeBank v b = { v with
        spad := (wakeBank v b).spad, rings := (wakeBank v b).rings, banks := (wakeBank v b).banks } from rfl).trans (by rw [h.unit])
    · rw [List.foldl_append, ← h.spad, wakeBank_spad, hbank, hfold]
      exact (if_pos hwakes).symm
    · obtain ⟨hhead, hsum⟩ := wakeBank_rings v b q
      exact ⟨hhead.trans (h.rings q).1, hsum.trans (h.rings q).2⟩
    · by_cases hc : c = b
      · subst hc
        rw [if_pos ⟨by simp, hwakes⟩, wakeBank_banks, hbank]
        simp
      · rw [wakeBank_bank_ne v hc, h.banks c]
        simp [-Fin.getElem_fin, hc]
  · have hv : wakeBooked v b = v := if_neg (by simpa [-Fin.getElem_fin, hbank] using hwakes)
    rw [hv]
    refine ⟨h.unit, ?_, h.rings, fun c => ?_⟩
    · rw [List.foldl_append, ← h.spad]
      exact (if_neg hwakes).symm
    · rw [h.banks c]
      by_cases hc : c = b
      · subst hc
        rw [if_neg fun hm => hwakes hm.2, if_neg fun hm => hwakes hm.2]
      · simp [-Fin.getElem_fin, hc]

theorem foldl_wakeBooked_woken (u : ArrayUnit) (l : List (Fin 32)) (hl : l.Nodup) : Woken l u (l.foldl wakeBooked u) := by
  induction l using List.reverseRecOn with
  | nil => exact ⟨rfl, rfl, fun _ => ⟨rfl, rfl⟩, fun b => by simp⟩
  | append_singleton l b ih =>
    obtain ⟨hl, -, hb⟩ := List.nodup_append.1 hl
    rw [List.foldl_append]
    exact (ih hl).snoc fun hm => hb b hm b List.mem_cons_self rfl

/-- Where the work item books no bank, nothing of the array changes. -/
theorem foldl_wakeBooked_unbooked {u : ArrayUnit} (h : ∀ b : Fin 32, (u.banks[b]).booked = false) (l : List (Fin 32)) :
    l.foldl wakeBooked u = u := by
  induction l with
  | nil => rfl
  | cons b l ih => rw [List.foldl_cons, wakeBooked, if_neg (by simp [-Fin.getElem_fin, h b]), ih]

theorem exec_preambleEnd {a : ArrId} {s : State} (h : (arr s a).preamble = true) :
    exec (.preambleEnd a) s = .next ((arr s a).portq.foldl (fun s p => ringDeliver s a (Fin.ofNat 6 p.1) p.2)
      (setArr s a { (List.finRange 32).foldl wakeBooked (arr s a) with preamble := false, portq := [] })) := by
  change execPreambleEnd a s = _
  exact if_pos h

/-- Settles O7: a bank at its power-down and at its wake, a write that wakes a bank, and the banks at the end of a preamble. -/
theorem scratchpadBanks : Obligations.ScratchpadBanks := by
  refine ⟨fun a b s => ⟨fun t hreq hpower => ⟨fun hdue => ?down, exec_bankPowerDown_waits⟩, fun hwaking => ?wakes,
    fun hsleep hpending => ?sleeping⟩, fun a x ds s hmeets hin => ?late, fun a s hpre => ?preamble⟩
  case down =>
    have hframe := ((setArr_storeFrame s a { arr s a with
      banks := (arr s a).banks.set b { (arr s a).banks[b] with power := .sleep, pdReq := false } }).mono
        (List.nil_subset _)).trans (regBump_storeFrame _ a (spReg a.val 0x18) (if ((arr s a).banks[b]).pending = [] then 0 else 1))
    refine ⟨_, exec_bankPowerDown_sleeps hreq hpower hdue, ArraysRegs.trans s (setArr s a _) _ rfl (regBump_arraysRegs ..),
      hframe.others, ?_, rises_regBump _ _ _, hframe.regs⟩
    rw [arr_congr (regBump_arrays ..), arr_setArr]
  case wakes => exact ⟨_, exec_bankWakeDone_waking hwaking, woken_frame rfl rfl, rfl⟩
  case sleeping =>
    exact ⟨_, exec_bankWakeDone_sleeping hsleep hpending,
      woken_frame (ArraysRegs.trans s (setArr s a _) _ rfl (regBump_arraysRegs ..)) (regBump_arrays ..), rises_regBump _ _ _,
      regsBut_regBump _ _ List.mem_cons_self⟩
  case late =>
    have hframe := spadStore_storeFrame s a x ds
    refine ⟨_, exec_lateWake hmeets hin, hframe.fields, hframe.others, hframe.corrupt, arr_spadStore s a x ds,
      spadStore_rises s a x ds, hframe.regs, fun d hd => ?_⟩
    subst hd
    have hput := spadPutByte_of_sleep 0 d (bank_sleeps_of_meetsSleep hmeets)
    exact ⟨congrArg Prod.snd hput, (arr_spadStore s a x [d]).trans (congrArg Prod.fst hput)⟩
  case preamble =>
    have hwoken := foldl_wakeBooked_woken (arr s a) (List.finRange 32) (List.nodup_finRange 32)
    refine ⟨_, exec_preambleEnd hpre, hwoken.unit, hwoken.spad.trans ?_, hwoken.rings, fun b => ?_, fun hunbooked => ?_⟩
    · simp only [pendingPut, ite_and]
    · rw [hwoken.banks b]
      simp [-Fin.getElem_fin]
    · have hkept := foldl_wakeBooked_unbooked hunbooked (List.finRange 32)
      refine ⟨hkept, fun hport => ?_⟩
      rw [exec_preambleEnd hpre, hkept, hport]
      rfl

end Sys2Proof.Machine
end

section
/-! # What the block notes beside its transfers

Reads and writes of lines, faults and messages count, log and inform. None of it reaches a byte of HBM, an array, a fetch engine, or a
register of the engines, scratchpads and rings. -/

namespace Sys2Proof.Machine

/-! ### Registers of the engines, scratchpads and rings (R162, R488) -/

/-- The registers of FETCH but for those of the mere cache's slices. -/
def UnitReg (o : Nat) : Prop := feReg 0 0 ≤ o ∧ o < feReg 32 0 ∧ o % 0x4000 < 0x3000

theorem feReg_unitReg (f : FeId) {off : Nat} (h : off < 0x3000) : UnitReg (feReg f.val off) := by
  have := f.isLt
  unfold UnitReg feReg
  omega

theorem spReg_unitReg (a : ArrId) {off : Nat} (h : off < 0x800) : UnitReg (spReg a.val off) := by
  have := a.isLt
  unfold UnitReg spReg feReg
  omega

theorem mcReg_not_unitReg (n : Nat) {off : Nat} (h : off < 0x1000) : ¬ UnitReg (mcReg n off) := by
  unfold UnitReg mcReg feReg
  omega

theorem fltReg_not_unitReg (off : Nat) : ¬ UnitReg (fltReg off) := by
  unfold UnitReg fltReg feReg
  omega

theorem rlReg_not_unitReg (p off : Nat) : ¬ UnitReg (rlReg p off) := by
  unfold UnitReg rlReg feReg
  omega

theorem glbReg_not_unitReg {off : Nat} (h : off < 0x10000) : ¬ UnitReg (glbReg off) := by
  unfold UnitReg glbReg feReg
  omega

/-! ### The frame -/

/-- Of the state at most registers outside `UnitReg` and what the block notes and sends may differ. -/
structure Noted (s n : State) : Prop where
  fields : n = { s with
    regs := n.regs, lds := n.lds, items := n.items, work := n.work, power := n.power, faults := n.faults, pins := n.pins, fns := n.fns
    flows := n.flows, ports := n.ports, sent := n.sent, ctlWait := n.ctlWait, out := n.out, freeCtr := n.freeCtr }
  regs : ∀ o, UnitReg o → regGet n o = regGet s o

theorem Noted.refl (s : State) : Noted s s := ⟨rfl, fun _ _ => rfl⟩

theorem Noted.trans {s t u : State} (a : Noted s t) (b : Noted t u) : Noted s u :=
  ⟨Eq.trans b.fields (by rw [a.fields]), fun o ho => (b.regs o ho).trans (a.regs o ho)⟩

theorem noted_ite {c : Prop} [Decidable c] {s a b : State} (ha : Noted s a) (hb : Noted s b) : Noted s (if c then a else b) := by
  split
  · exact ha
  · exact hb

theorem noted_foldl {α : Type} {f : State → α → State} (l : List α) (s : State) (h : ∀ s, ∀ x ∈ l, Noted s (f s x)) :
    Noted s (l.foldl f s) := foldl_rel Noted.refl (fun _ _ _ => Noted.trans) l s h

section
variable {s n : State} (h : Noted s n)
include h

theorem Noted.mem : n.mem = s.mem := by rw [h.fields]
theorem Noted.arrays : n.arrays = s.arrays := by rw [h.fields]
theorem Noted.fes : n.fes = s.fes := by rw [h.fields]
theorem Noted.poison : n.poison = s.poison := by rw [h.fields]
theorem Noted.msgNo : n.msgNo = s.msgNo := by rw [h.fields]

end

theorem Noted.setMere {s n : State} (h : Noted s n) (m : Vector MereSlice 4) : Noted { s with mere := m } { n with mere := m } :=
  ⟨by rw [h.fields], h.regs⟩

/-! ### Registers, messages and records -/

theorem regSet_noted (s : State) {o : Nat} (v : Nat) (h : ¬ UnitReg o) : Noted s (regSet s o v) :=
  ⟨rfl, fun _ hp => regGet_regSet_ne s v fun e => h (e ▸ hp)⟩

theorem regBump_noted (s : State) {o : Nat} (k : Nat) (h : ¬ UnitReg o) : Noted s (regBump s o k) :=
  noted_ite (.refl s) (regSet_noted s _ h)

theorem regPut_noted (s : State) {o : Nat} (hi lo v : Nat) (h : ¬ UnitReg o) : Noted s (regPut s o hi lo v) := regSet_noted s _ h

theorem send_noted (s : State) (m : OutMsg) : Noted s (send s m) := ⟨rfl, fun _ _ => rfl⟩

theorem tickFree_noted (s : State) : Noted s (tickFree s) := ⟨rfl, fun _ _ => rfl⟩

theorem setFaults_noted (s : State) (x : FaultUnit) : Noted s { s with faults := x } := ⟨rfl, fun _ _ => rfl⟩

theorem setTen_noted (s : State) (t : LdId) (u : Tenant) : Noted s (setTen s t u) := ⟨rfl, fun _ _ => rfl⟩

theorem sendMsix_noted (s : State) (fn : Mbox) (v : Nat) : Noted s (sendMsix s fn v) :=
  noted_ite (send_noted ..) ⟨rfl, fun _ _ => rfl⟩

theorem ownerEvent_noted (s : State) (bs : List Byte) : Noted s (ownerEvent s bs) := by
  unfold ownerEvent
  extract_lets faults t
  have ht : Noted s t := setFaults_noted ..
  exact noted_ite (ht.trans (sendMsix_noted ..)) ht

theorem tenantEvent_noted (s : State) (t : LdId) (bs : List Byte) : Noted s (tenantEvent s t bs) := by
  unfold tenantEvent
  extract_lets u n
  have hn : Noted s n := setTen_noted ..
  exact noted_ite (hn.trans (sendMsix_noted ..)) hn

theorem mediaEvent_noted (s : State) (t : LdId) (off : Nat) : Noted s (mediaEvent s t off) :=
  (ownerEvent_noted ..).trans (tenantEvent_noted ..)

theorem logFaultIn_noted (s : State) (furrow : Nat) (r : FaultRec) : Noted s (logFaultIn s furrow r) := by
  unfold logFaultIn
  extract_lets r' s1 faults full lost log s2 s3 s4 s5 s6
  have h1 : Noted s s1 := regBump_noted s 1 (fltReg_not_unitReg _)
  have h3 : Noted s1 s3 := (setFaults_noted ..).trans (regBump_noted s2 1 (fltReg_not_unitReg _))
  have h4 : Noted s3 s4 := noted_ite (regPut_noted s3 _ _ _ (fltReg_not_unitReg _)) (.refl s3)
  have h6 : Noted s4 s6 := (ownerEvent_noted s4 _).trans (noted_ite ⟨rfl, fun _ _ => rfl⟩ (.refl s5))
  have hlog : Noted s s6 := ((h1.trans h3).trans h4).trans h6
  exact noted_ite (h1.trans (setFaults_noted ..)) (noted_ite (hlog.trans (send_noted ..)) hlog)

theorem logFault_noted (s : State) (r : FaultRec) : Noted s (logFault s r) := logFaultIn_noted ..

/-! ### Errors of memory (R372, R389 to R391) -/

theorem retirePc_noted (s : State) {pc : Nat} (h : pc < 640) : Noted s (retirePc s pc) := by
  unfold retirePc
  extract_lets o v0 v1 s1 now faults s2
  have ho : ¬ UnitReg o := fltReg_not_unitReg _
  have h1 : Noted s s1 :=
    noted_ite ((((regPut_noted _ _ _ _ ho).trans (regPut_noted _ _ _ _ ho)).trans (regPut_noted _ _ _ _ ho)).trans
        (regPut_noted _ _ _ _ ho))
      (((regPut_noted _ _ _ _ ho).trans (regPut_noted _ _ _ _ ho)).trans (regPut_noted _ _ _ _ ho))
  have h2 : Noted s s2 := h1.trans (setFaults_noted ..)
  have h3 : Noted s2 (geoBump (regClearBit s2 (glbReg (0x120 + 8 * (pc / 64))) (pc % 64))) :=
    (regPut_noted s2 _ _ _ (glbReg_not_unitReg (by omega))).trans (regBump_noted _ 1 (glbReg_not_unitReg (by decide)))
  exact noted_ite (.refl s) (noted_ite (regPut_noted s _ _ _ (fltReg_not_unitReg _)) ((h2.trans h3).trans (logFault_noted ..)))

theorem notePcErr_noted (s : State) {pc : Nat} (line : Option Nat) (k : Nat) (h : pc < 640) : Noted s (notePcErr s pc line k) := by
  unfold notePcErr
  extract_lets now es mine faults s1
  have h1 : Noted s s1 := setFaults_noted ..
  exact noted_ite (h1.trans (retirePc_noted s1 h)) h1

theorem eccCorrect_noted (s : State) (dpa k : Nat) : Noted s (eccCorrect s dpa k) := by
  unfold eccCorrect
  extract_lets pc v s1
  exact (((tickFree_noted s).trans (regBump_noted _ k (fltReg_not_unitReg _))).trans (logFault_noted ..)).trans
    (notePcErr_noted s1 none k (dpaPc_lt _))

/-- The poisoned lines once a line among them is poisoned (R372). -/
def poisonWith (s : State) (l : Nat) : List Nat := if s.poison.contains l then s.poison else addN l s.poison

theorem eccPoison_noted (s : State) (dpa : Nat) (quiet : Bool) :
    Noted { s with poison := poisonWith s (dpa / 256) } (eccPoison s dpa quiet) := by
  unfold eccPoison poisonWith
  extract_lets l pc s1 v s2 s3
  split
  case isTrue => exact .refl s
  case isFalse =>
    have h1 : Noted { s with poison := addN l s.poison } s1 := regBump_noted _ 1 (fltReg_not_unitReg _)
    have h2 : Noted s1 s2 := noted_ite (.refl s1) ((tickFree_noted s1).trans (logFault_noted ..))
    have h3 : Noted s2 s3 := notePcErr_noted s2 _ 1 (dpaPc_lt _)
    have hpoison := (h1.trans h2).trans h3
    split
    · exact hpoison.trans (mediaEvent_noted ..)
    · exact hpoison

/-- The poisoned lines after the memory controller has read a line: an injected error of two symbols poisons it (R372, R394). -/
def hbmPoison (s : State) (dpa : Nat) : List Nat :=
  let mine := s.faults.injected.filter (fun x => x.1 / 8 == dpa / 256)
  if mine.isEmpty then s.poison else if mine.all (fun x => x.2 == 1) then s.poison else poisonWith s (dpa / 256)

theorem hbmRead_noted (quiet : Bool) (s : State) (dpa : Nat) : Noted { s with poison := hbmPoison s dpa } (hbmRead quiet s dpa) := by
  unfold hbmRead hbmPoison
  extract_lets mine faults s1
  have h1 (p : List Nat) : Noted { s with poison := p } { s1 with poison := p } := setFaults_noted ..
  split
  case isTrue => exact .refl s
  case isFalse =>
    split
    case isTrue => exact (h1 s.poison).trans (eccCorrect_noted s1 dpa _)
    case isFalse => exact (h1 _).trans (eccPoison_noted s1 dpa quiet)

/-! ### Lines read and written (R23, R158, R159) -/

theorem disarm_noted (s : State) (source unit : Nat) : Noted s (disarm s source unit) := by
  unfold disarm
  extract_lets v s1
  have h1 : Noted s s1 := regPut_noted s _ _ _ (fltReg_not_unitReg _)
  exact noted_ite (noted_ite h1 (h1.trans (setFaults_noted ..))) (.refl s)

theorem mereRead_noted (s : State) (dpa hint : Nat) : Noted { s with mere := (mereRead s dpa hint).mere } (mereRead s dpa hint) := by
  have hreg : ∀ r, r < 0x1000 → ¬ UnitReg (mcReg (dpaDie dpa) r) := fun r hr => mcReg_not_unitReg _ hr
  suffices h : ∃ m, Noted { s with mere := m } (mereRead s dpa hint) by
    obtain ⟨m, h⟩ := h
    have hm : (mereRead s dpa hint).mere = m := by rw [h.fields]
    rwa [hm]
  unfold mereRead
  extract_lets n k m line set t s1 ok inSet free way rest s2
  split
  case h_1 hit _ => exact ⟨_, regBump_noted _ 1 (hreg 0x08 (by decide))⟩
  case h_2 =>
    have h1 : Noted s s1 := regBump_noted s 1 (hreg 0x10 (by decide))
    split
    · exact ⟨s.mere, h1⟩
    · have h2 : Noted { s with mere := s2.mere } s2 := h1.setMere _
      exact ⟨_, (h2.trans (regBump_noted s2 _ (hreg 0x20 (by decide)))).trans (disarm_noted ..)⟩

/-- Lines read or written: beside what is noted, poison and the mere cache may differ. -/
def LinesTouched (s n : State) : Prop := Noted { s with poison := n.poison, mere := n.mere } n

theorem LinesTouched.refl (s : State) : LinesTouched s s := Noted.refl s

theorem LinesTouched.trans {s t u : State} (a : LinesTouched s t) (b : LinesTouched t u) : LinesTouched s u :=
  ⟨Eq.trans b.fields (by rw [a.fields]), fun o ho => (b.regs o ho).trans (a.regs o ho)⟩

theorem Noted.linesTouched {s n : State} {p : List Nat} {m : Vector MereSlice 4} (h : Noted { s with poison := p, mere := m } n) :
    LinesTouched s n := ⟨by rw [h.fields], h.regs⟩

theorem linesTouched_ite {c : Prop} [Decidable c] {s a b : State} (ha : LinesTouched s a) (hb : LinesTouched s b) :
    LinesTouched s (if c then a else b) := by
  split
  · exact ha
  · exact hb

section
variable {s n : State} (h : LinesTouched s n)
include h

theorem LinesTouched.mem : n.mem = s.mem := by rw [h.fields]
theorem LinesTouched.arrays : n.arrays = s.arrays := by rw [h.fields]

end

theorem hbmRead_linesTouched (quiet : Bool) (s : State) (dpa : Nat) : LinesTouched s (hbmRead quiet s dpa) :=
  (hbmRead_noted quiet s dpa).linesTouched

theorem mereRead_linesTouched (s : State) (dpa hint : Nat) : LinesTouched s (mereRead s dpa hint) :=
  (mereRead_noted s dpa hint).linesTouched

theorem workRead_linesTouched (hint : Nat) (s : State) (dpa : Nat) : LinesTouched s (workRead hint s dpa) :=
  (linesTouched_ite (.refl s) (hbmRead_linesTouched true s dpa)).trans (mereRead_linesTouched ..)

/-- The poisoned lines after a line has been read: a slice that holds it answers without the memory controller. -/
def readPoison (s : State) (dpa : Nat) : List Nat := if merePresent s dpa then s.poison else hbmPoison s dpa

theorem mereRead_poison (s : State) (dpa hint : Nat) : (mereRead s dpa hint).poison = s.poison := (mereRead_noted s dpa hint).poison

theorem hbmRead_poison (quiet : Bool) (s : State) (dpa : Nat) : (hbmRead quiet s dpa).poison = hbmPoison s dpa :=
  (hbmRead_noted quiet s dpa).poison

theorem workRead_poison (hint : Nat) (s : State) (dpa : Nat) : (workRead hint s dpa).poison = readPoison s dpa := by
  simp only [workRead, mereRead_poison, apply_ite State.poison, hbmRead_poison, readPoison]

theorem lineRead_poison (hint : Nat) (s : State) (dpa : Nat) : (lineRead hint s dpa).poison = readPoison s dpa := by
  simp only [lineRead, mereRead_poison, apply_ite State.poison, hbmRead_poison, readPoison]

/-! ### Work items and activity -/

theorem noteCause_noted (s : State) (i c : Nat) : Noted s (noteCause s i c) := noted_ite ⟨rfl, fun _ _ => rfl⟩ (.refl s)

theorem noteItem_noted (s : State) (w : ItemRun) (c : Nat) : Noted s (noteItem s w c) := by
  unfold noteItem
  split
  · exact noteCause_noted ..
  · split
    · exact noted_foldl _ s fun s i _ => noteCause_noted s i c
    · exact .refl s

theorem failFetch_noted (s : State) (f : FeId) (w : ItemRun) (addr detail status : Nat) :
    Noted s (failFetch s f w addr detail status) := by
  unfold failFetch
  extract_lets t
  have ht : Noted s t := ⟨rfl, fun _ _ => rfl⟩
  exact ht.trans (logFault_noted ..)

/-! ### Messages under roles (R211, R321, R329) -/

theorem setFlow_noted (s : State) (f : Flow) : Noted s (setFlow s f) := ⟨rfl, fun _ _ => rfl⟩

theorem setPort_noted (s : State) (p : PortId) (u : Port) : Noted s (setPort s p u) := ⟨rfl, fun _ _ => rfl⟩

theorem sendFrame_noted (s : State) (p : PortId) (fseq : BitVec 12) (nak idle : Bool) (b : TxBody) :
    Noted s (sendFrame s p fseq nak idle b) := by
  unfold sendFrame
  extract_lets u h t bs
  exact ((setPort_noted ..).trans (regBump_noted t 1280 (rlReg_not_unitReg _ _))).trans (send_noted ..)

theorem pumpPort_noted (p : PortId) (fuel : Nat) (s : State) : Noted s (pumpPort p fuel s) := by
  induction fuel generalizing s with
  | zero => exact .refl s
  | succ fuel ih =>
    unfold pumpPort
    refine noted_ite (.refl s) ?_
    split
    · exact .refl s
    · exact ((setPort_noted ..).trans (sendFrame_noted ..)).trans (ih _)

theorem flowBytes_noted (s : State) (f : Flow) (bs : List Byte) : Noted s (flowBytes s f bs) := by
  unfold flowBytes
  split
  · exact (setPort_noted ..).trans (pumpPort_noted ..)
  · exact .refl s

theorem meterCtx_noted (s : State) (ctx k : Nat) : Noted s (meterCtx s ctx k) := noted_ite ⟨rfl, fun _ _ => rfl⟩ (.refl s)

theorem flowPut_noted (s : State) (f : Flow) (x : TxPacket) : Noted s (flowPut s f x) := by
  unfold flowPut
  extract_lets psn bs t
  exact (((setFlow_noted ..).trans (flowBytes_noted t f bs)).trans (meterCtx_noted ..)).trans (send_noted ..)

theorem flowSend_noted (s : State) (f : Flow) (x : TxPacket) : Noted s (flowSend s f x) :=
  noted_ite (setFlow_noted ..) (flowPut_noted ..)

theorem sendCtl_noted (s : State) (n : NodeId) (code : Nat) (body : List Byte) : Noted s (sendCtl s n code body) := by
  unfold sendCtl
  split
  · exact noted_ite ⟨rfl, fun _ _ => rfl⟩ (.refl s)
  · exact (send_noted ..).trans (noted_ite (flowPut_noted ..) (flowSend_noted ..))

theorem mapSent_noted (s : State) (id : Nat) (g : SentMsg → SentMsg) : Noted s (mapSent s id g) := ⟨rfl, fun _ _ => rfl⟩

/-- A message for another node takes the next message number, and is sent or waits. -/
theorem sendMsg_noted (s : State) {n : NodeId} (role src : BitVec 24) (ntf : Option (Nat × Nat)) (body : List Byte)
    (h : n.toNat ≠ ownNode s) : Noted { s with msgNo := s.msgNo + 1 } (sendMsg s (some n) role src ntf body) := by
  unfold sendMsg
  extract_lets m
  have hkept : Noted { s with msgNo := s.msgNo + 1 } { s with sent := s.sent ++ [m], msgNo := s.msgNo + 1 } := ⟨rfl, fun _ _ => rfl⟩
  have hnode : msgNode { s with sent := s.sent ++ [m], msgNo := s.msgNo + 1 } m = some n := rfl
  have hother : ¬ n.toNat = ownNode { s with sent := s.sent ++ [m], msgNo := s.msgNo + 1 } := h
  refine hkept.trans ?_
  simp only [issueMsg, hnode, if_neg hother]
  exact noted_ite (mapSent_noted ..) ((mapSent_noted ..).trans (sendCtl_noted ..))

end Sys2Proof.Machine
end

section
/-! # Slots and faults of the fetch engines -/

namespace Sys2Proof.Machine

/-! ### Slots (R146) -/

theorem slotDesc_congr {s n : State} (h : n.fes = s.fes) (f : FeId) (k : Fin 64) : slotDesc n f k = slotDesc s f k := by
  unfold slotDesc
  rw [fe_congr h]

theorem slotDesc_setSlot (s : State) (f : FeId) (k : Fin 64) (d : DescRun) (j : Fin 64) :
    slotDesc (setSlot s f k d) f j = if j = k then some d else slotDesc s f j := by
  unfold slotDesc setSlot
  rw [fe_setFe, lookupN_insertN]
  simp only [Fin.ext_iff]

theorem slotDesc_setSlot_same (s : State) (f : FeId) (k : Fin 64) (d : DescRun) : slotDesc (setSlot s f k d) f k = some d := by
  rw [slotDesc_setSlot, if_pos rfl]

/-- Of the engines only the slots named may differ. -/
structure SlotsBut (f : FeId) (k : Fin 64) (s n : State) : Prop where
  engines : ∀ g, g ≠ f → fe n g = fe s g
  slots   : ∀ j, j ≠ k → slotDesc n f j = slotDesc s f j

theorem SlotsBut.trans {f : FeId} {k : Fin 64} {s t u : State} (a : SlotsBut f k s t) (b : SlotsBut f k t u) : SlotsBut f k s u :=
  ⟨fun g hg => (b.engines g hg).trans (a.engines g hg), fun j hj => (b.slots j hj).trans (a.slots j hj)⟩

theorem slotsBut_of_fes (f : FeId) (k : Fin 64) {s n : State} (h : n.fes = s.fes) : SlotsBut f k s n :=
  ⟨fun g _ => fe_congr h g, fun j _ => slotDesc_congr h f j⟩

theorem setSlot_slotsBut (s : State) (f : FeId) (k : Fin 64) (d : DescRun) : SlotsBut f k s (setSlot s f k d) :=
  ⟨fun g hg => fe_setFe_ne _ _ _ _ hg, fun j hj => by rw [slotDesc_setSlot, if_neg hj]⟩

/-! ### Faults shown (R154, R162) -/

/-- The faults of an engine changed and shown: its slots and the other engines are as they were. -/
structure FaultsChanged (f : FeId) (xs : List FeFault) (s n : State) : Prop where
  fields : n = { s with fes := n.fes, regs := n.regs }
  fes    : n.fes = (setFe s f { fe s f with faults := xs }).fes
  regs   : regsBut [feReg f.val 0x10, feReg f.val 0x18, feReg f.val 0x40] s n

/-- Nothing but registers may differ. -/
def RegsOnly (s n : State) : Prop := n = { s with regs := n.regs }

theorem RegsOnly.trans {s t u : State} (a : RegsOnly s t) (b : RegsOnly t u) : RegsOnly s u := Eq.trans b (by rw [a])

theorem regSet_regsOnly (s : State) (o v : Nat) : RegsOnly s (regSet s o v) := rfl

theorem showFault_regsOnly (s : State) (f : FeId) : RegsOnly s (showFault s f) := by
  unfold showFault
  split
  · exact regSet_regsOnly ..
  · exact (regSet_regsOnly ..).trans (regSet_regsOnly ..)

theorem showFault_regsBut (s : State) (f : FeId) : regsBut [feReg f.val 0x10, feReg f.val 0x18] s (showFault s f) := by
  unfold showFault
  split
  · exact regsBut_mono (regsBut_regSet s (feReg f.val 0x10) _) (by simp)
  · exact regsBut_trans (regsBut_mono (regsBut_regSet s (feReg f.val 0x10) _) (by simp))
      (regsBut_mono (regsBut_regSet _ (feReg f.val 0x18) _) (by simp))

theorem feReg_inj (f : FeId) {x y : Nat} : feReg f.val x = feReg f.val y ↔ x = y := by
  unfold feReg
  omega

section
variable {f : FeId} {xs : List FeFault} {s n : State}

/-- An engine's faults are set, some of its counters too, and the oldest is shown. -/
theorem faultsChanged_of_shown {t : State} (h : RegsOnly (setFe s f { fe s f with faults := xs }) t)
    (hregs : regsBut [feReg f.val 0x10, feReg f.val 0x18, feReg f.val 0x40] s t) : FaultsChanged f xs s (showFault t f) := by
  have hshown := h.trans (showFault_regsOnly t f)
  refine ⟨?_, ?_, regsBut_trans hregs (regsBut_mono (showFault_regsBut t f) (by simp))⟩
  · rw [hshown]
    rfl
  · rw [hshown]

theorem raiseFault_faultsChanged (s : State) (f : FeId) (x : FeFault) :
    FaultsChanged f ((fe s f).faults ++ [x]) s (raiseFault s f x) :=
  faultsChanged_of_shown (regBump_eq ..) (regsBut_trans (regsBut_of_regs rfl) (regsBut_regBump (o := feReg f.val 0x40) _ 1 (by simp)))

theorem raiseFault_rises (s : State) (f : FeId) (x : FeFault) : rises (feReg f.val 0x40) 1 s (raiseFault s f x) := by
  unfold raiseFault
  extract_lets u
  rw [rises, showFault_regsBut _ f _ (by simp [feReg_inj]), regGet_regBump, if_pos rfl]
  rfl

theorem slotFaults_faultsChanged (s : State) (f : FeId) (k : Fin 64) (g : FeFault → Option FeFault) :
    FaultsChanged f ((fe s f).faults.filterMap (fun x => if !x.fill ∧ x.slot = k.val then g x else some x)) s (slotFaults s f k g) :=
  faultsChanged_of_shown rfl (regsBut_of_regs rfl)

theorem FaultsChanged.fe_same (h : FaultsChanged f xs s n) : fe n f = { fe s f with faults := xs } := by
  rw [fe_congr h.fes, fe_setFe]

theorem FaultsChanged.slotDesc (h : FaultsChanged f xs s n) (j : Fin 64) : slotDesc n f j = slotDesc s f j := by
  unfold Machine.slotDesc
  rw [h.fe_same]

theorem FaultsChanged.slotsBut (h : FaultsChanged f xs s n) (k : Fin 64) : SlotsBut f k s n :=
  ⟨fun g hg => by rw [fe_congr h.fes, fe_setFe_ne _ _ _ _ hg], fun j _ => h.slotDesc j⟩

end

/-! ### A descriptor stopped by a fault (R154, R155) -/

/-- A descriptor's fault is raised, or takes the place of the one that it has. -/
theorem descFault_spec (s : State) (f : FeId) (k : Fin 64) (w : ItemRun) (d : DescRun) (code addr status : Nat) :
    let n := descFault s f k w d code addr status
    slotDesc n f k = some { d with st := .faulted, code := code, faultAddr := addr } ∧ SlotsBut f k s n ∧ n.mem = s.mem
      ∧ n.arrays = s.arrays ∧ (d.st ≠ .faulted → rises (feReg f.val 0x40) 1 s n) := by
  unfold descFault
  extract_lets d' s1 s2 s3 n
  have hset : slotDesc s1 f k = some d' := slotDesc_setSlot_same ..
  have h2 : ∃ xs, FaultsChanged f xs s1 s2 := by
    unfold s2
    split
    · exact ⟨_, slotFaults_faultsChanged ..⟩
    · exact ⟨_, raiseFault_faultsChanged ..⟩
  obtain ⟨xs, h2⟩ := h2
  have hn : Noted s2 n := (noteItem_noted s2 w 1).trans (noted_ite (.refl s3) (failFetch_noted ..))
  refine ⟨?_, ?_, ?_, ?_, fun hfresh => ?_⟩
  · rw [slotDesc_congr hn.fes, h2.slotDesc, hset]
  · exact ((setSlot_slotsBut ..).trans (h2.slotsBut k)).trans (slotsBut_of_fes f k hn.fes)
  · rw [hn.mem, h2.fields]
    rfl
  · rw [hn.arrays, h2.fields]
    rfl
  · rw [rises, hn.regs _ (feReg_unitReg f (by decide))]
    unfold s2
    rw [if_neg hfresh]
    exact raiseFault_rises s1 f _

/-! # The start of a descriptor (O21) -/

section
variable {op : Nat} {f : FeId} {k : Fin 64} {s : State} {w : ItemRun} {d0 : DescRun} (hslot : slotDesc s f k = some d0)
  (hitem : itemOf s d0.item = some w) (hop : (readList s w d0).desc.op = op) (hfresh : descUnstarted (readList s w d0) = true)
  (hrunning : w.halted = 0)
include hslot hitem hop hfresh hrunning

theorem startDesc_waits (h : mayStart s f w (readList s w d0) = false) :
    startDesc op f k s = setSlot s f k { d0 with st := .waiting } := by
  simp [startDesc, hslot, hitem, hop, hfresh, hrunning, h]

theorem startDesc_reserve (h : mayStart s f w (readList s w d0) = true) (hspace : (readList s w d0).desc.space = 3) :
    startDesc op f k s = descFault s f k w (readList s w d0) 9 (readList s w d0).desc.base 0x0202 := by
  simp [startDesc, hslot, hitem, hop, hfresh, hrunning, h, hspace]

theorem startDesc_setup (h : mayStart s f w (readList s w d0) = true) (hspace : (readList s w d0).desc.space ≠ 3) :
    startDesc op f k s = disarm (regBump (setSlot s f k { readList s w d0 with st := .setup, setAt := nowClk s })
      (feReg f.val 0x38) (if descClks (readList s w d0).desc < 32 then 1 else 0)) 5 f.val := by
  simp [startDesc, b2n, hslot, hitem, hop, hfresh, hrunning, h, hspace]

end

/-- READ starts the descriptors that name memory as the source, WRITE those that name it as the target. -/
theorem exec_start {c : Instr} {f : FeId} {k : Fin 64} {s : State} {op : Nat}
    (h : (c = .read f k ∧ op = 0) ∨ (c = .write f k ∧ op = 1)) : exec c s = .next (startDesc op f k s) := by
  rcases h with ⟨rfl, rfl⟩ | ⟨rfl, rfl⟩
  · rfl
  · rfl

/-- A list in a scratchpad gives the descriptor's fields; the item it serves and its state are as they were. -/
theorem readList_item (s : State) (w : ItemRun) (d : DescRun) : (readList s w d).item = d.item := by
  unfold readList
  split <;> rfl

/-- What a descriptor's setup changes: its slot, FE_SHORT, and an armed error injection. -/
theorem setup_frame (s : State) (f : FeId) (k : Fin 64) (d : DescRun) (x : Nat) :
    let n := disarm (regBump (setSlot s f k d) (feReg f.val 0x38) x) 5 f.val
    n = { s with fes := n.fes, regs := n.regs, faults := n.faults } ∧ mayCorrupt s n ∧ n.fes = (setSlot s f k d).fes
      ∧ rises (feReg f.val 0x38) x s n ∧ regsBut [feReg f.val 0x38, fltReg 0x080] s n := by
  intro n
  let t := regBump (setSlot s f k d) (feReg f.val 0x38) x
  have ht : RegsOnly (setSlot s f k d) t := regBump_eq ..
  have hfaults : t.faults = s.faults := by rw [ht]; rfl
  have hdisarm : n = { t with regs := n.regs, faults := n.faults } := disarm_eq t 5 f.val
  have hne : feReg f.val 0x38 ≠ fltReg 0x080 := by
    unfold feReg fltReg
    omega
  refine ⟨?_, ?_, ?_, ?_, fun o ho => ?_⟩
  · rw [hdisarm, ht]
    rfl
  · exact mayCorrupt_trans (mayCorrupt_of_faults hfaults) (disarm_mayCorrupt t 5 f.val)
  · rw [hdisarm, ht]
  · rw [rises, regGet_disarm _ _ _ hne]
    exact rises_regBump (setSlot s f k d) _ _
  · simp only [List.mem_cons, List.not_mem_nil, or_false, not_or] at ho
    rw [regGet_disarm _ _ _ ho.2, regGet_regBump, if_neg ho.1]
    rfl

/-- Settles O21: the setup, the wait and the fault of a descriptor that is asked to start. -/
theorem descriptorsStart : Obligations.DescriptorsStart := by
  intro f k s d0 w d hslot hitem hfresh hrunning c hc
  rw [readList_item] at hitem
  have hexec : exec c s = .next (startDesc d.desc.op f k s) := exec_start hc
  rw [hexec]
  cases hstart : mayStart s f w d with
  | false =>
    have h := startDesc_waits hslot hitem rfl hfresh hrunning hstart
    have hbut := setSlot_slotsBut s f k { d0 with st := .waiting }
    rw [h]
    exact ⟨_, rfl, hbut.engines, hbut.slots, rfl, rfl, nofun, fun _ => ⟨rfl, slotDesc_setSlot_same ..⟩, nofun⟩
  | true =>
    by_cases hspace : d.desc.space = 3
    · obtain ⟨hdesc, hbut, hmem, harrays, hrise⟩ := descFault_spec s f k w d 9 d.desc.base 0x0202
      rw [startDesc_reserve hslot hitem rfl hfresh hrunning hstart hspace]
      refine ⟨_, rfl, hbut.engines, hbut.slots, hmem, harrays, fun _ h => absurd hspace h, nofun, fun _ _ => ⟨hrise ?_, hdesc⟩⟩
      intro hst
      rw [descUnstarted, hst] at hfresh
      cases hfresh
    · have hframe := setup_frame s f k { d with st := .setup, setAt := nowClk s } (if descClks d.desc < 32 then 1 else 0)
      obtain ⟨hfields, hcorrupt, hfes, hrise, hregs⟩ := hframe
      have hbut := (setSlot_slotsBut s f k { d with st := .setup, setAt := nowClk s }).trans (slotsBut_of_fes f k hfes)
      rw [startDesc_setup hslot hitem rfl hfresh hrunning hstart hspace]
      refine ⟨_, rfl, hbut.engines, hbut.slots, by rw [hfields], by rw [hfields], fun _ _ => ⟨hfields, hcorrupt, ?_, hrise, hregs⟩,
        nofun, fun _ h => absurd h hspace⟩
      rw [slotDesc_congr hfes, slotDesc_setSlot_same]

end Sys2Proof.Machine
end

section
/-! # Faults resumed, and descriptors that complete (O23) -/

namespace Sys2Proof.Machine

/-! ### FAULT_RESUME (R154, R155) -/

/-- A descriptor that goes on from its progress record, its fault resolved. -/
def descResumed (s : State) (f : FeId) (k : Fin 64) (d : DescRun) : State :=
  slotFaults (setSlot s f k { d with st := .running, code := 0 }) f k (fun _ => none)

section
variable (s : State) (f : FeId) (k : Fin 64) (d : DescRun)

theorem descResumed_eq : descResumed s f k d = { s with fes := (descResumed s f k d).fes, regs := (descResumed s f k d).regs } :=
  (slotFaults_faultsChanged (setSlot s f k { d with st := .running, code := 0 }) f k (fun _ => none)).fields

theorem slotDesc_descResumed : slotDesc (descResumed s f k d) f k = some { d with st := .running, code := 0 } :=
  ((slotFaults_faultsChanged ..).slotDesc k).trans (slotDesc_setSlot_same ..)

/-- No fault of the slot's descriptor is left. -/
theorem faults_descResumed {x : FeFault} (hx : x ∈ (fe (descResumed s f k d) f).faults) : x.fill = true ∨ x.slot ≠ k.val := by
  rw [descResumed, (slotFaults_faultsChanged ..).fe_same] at hx
  obtain ⟨y, -, hy⟩ := List.mem_filterMap.1 hx
  split at hy
  · cases hy
  case isFalse h =>
    cases hy
    simpa [imp_iff_not_or] using h

end

section
variable {f : FeId} {k : Fin 64} {s : State} {d : DescRun} {w : ItemRun} (hslot : slotDesc s f k = some d)
  (hitem : itemOf s d.item = some w) (hfaulted : d.st = .faulted)
include hslot hitem hfaulted

theorem exec_faultResume_maps {s1 : State} (hcode : d.code = 1) (h : mapPage s (itemTenant s w) (some w.rqt) d.faultAddr = some s1) :
    exec (.faultResume f k) s = .next (descResumed s1 f k d) := by
  change execFaultResume f k s = _
  simp only [execFaultResume, hslot, hitem, hfaulted, hcode, h]
  rfl

theorem exec_faultResume_noFrame (hcode : d.code = 1) (h : mapPage s (itemTenant s w) (some w.rqt) d.faultAddr = none) :
    exec (.faultResume f k) s = .next (descFault s f k w d 4 d.faultAddr 0x0202) := by
  change execFaultResume f k s = _
  simp only [execFaultResume, hslot, hitem, hfaulted, hcode, h]
  rfl

theorem exec_faultResume_raile (hcode : d.code = 7) :
    exec (.faultResume f k) s = .next (if raileReach s (d.faultAddr / 2 ^ 52) then descResumed s f k d else s) := by
  change execFaultResume f k s = _
  cases hreach : raileReach s (d.faultAddr / 2 ^ 52) <;>
    simp [-Nat.reducePow, execFaultResume, descResumed, hslot, hitem, hfaulted, hcode, hreach]

end

/-! ### DESCRIPTOR_COMPLETE (R152, R153, R330) -/

/-- The state in which a descriptor has completed, before its barrier is signalled. -/
def descDone (s : State) (f : FeId) (k : Fin 64) (w : ItemRun) (d : DescRun) (q : Fin 6) : State :=
  regBump (setSlot (setArr s (descArr w d.desc) (endRing (arr s (descArr w d.desc)) d.desc q)) f k { d with st := .done })
    (feReg f.val 0x30) 1

/-- The barrier that a descriptor signals (R153). -/
def descSignal (s : State) (w : ItemRun) (d : Desc) : State := if d.signalBar = 0xFF then s else itemBarInc s w d.signalBar

/-- The state after a descriptor has completed and its slot has been given on (R146, R152, R153). -/
def descCompleted (s : State) (f : FeId) (k : Fin 64) (w : ItemRun) (d : DescRun) (q : Fin 6) : State :=
  setFe (descSignal (descDone s f k w d q) w d.desc) f (refill (fe (descSignal (descDone s f k w d q) w d.desc) f) k.val)

section
variable {f : FeId} {k : Fin 64} {s : State} {d : DescRun} {w : ItemRun} {q : Fin 6} (hslot : slotDesc s f k = some d)
  (hitem : itemOf s d.item = some w) (hring : descRing d.desc = some q) (hactive : descActive d = true)
  (hmoved : descMoved d = true) (hrunning : w.halted = 0) (hport : portWaiting (arr s (descArr w d.desc)) q.val = 0)
include hslot hitem hring hactive hmoved hrunning hport

theorem exec_descriptorComplete_done (hwr : d.wr = []) (hntf : d.ntf = none) :
    exec (.descriptorComplete f k) s = .next (descCompleted s f k w d q) := by
  change execDescriptorComplete f k s = _
  simp [execDescriptorComplete, hslot, hitem, hring, hactive, hmoved, hrunning, hport, hwr, notifyOpen, hntf, descCompleted,
    descSignal, descDone]

theorem exec_descriptorComplete_unacked (hwr : d.wr ≠ []) (hreach : ∀ x ∈ d.wr, raileReach s (x.addr / 2 ^ 52) = true) :
    exec (.descriptorComplete f k) s = .next s := by
  have hnone : d.wr.find? (fun x => !raileReach s (x.addr / 2 ^ 52)) = none :=
    List.find?_eq_none.2 fun x hx => by rw [hreach x hx]; exact Bool.false_ne_true
  have hwait : awaitAcks s f k w d = s := by rw [awaitAcks, hnone]
  change execDescriptorComplete f k s = _
  simp [execDescriptorComplete, hslot, hitem, hring, hactive, hmoved, hrunning, hport, hwr, hwait]

/-- The descriptor's NOTIFY is sent, and it waits for the answer. -/
theorem exec_descriptorComplete_notifies {n : NodeId} {role : BitVec 24} {bar : Nat} (hwr : d.wr = [])
    (hntf : d.ntf = some (n, role, bar)) (hopen : d.notified = false) (hfirst : d.ntfMsg = none) (hother : n.toNat ≠ ownNode s) :
    exec (.descriptorComplete f k) s = .next (sendMsg (setSlot s f k { d with ntfMsg := some s.msgNo }) (some n) role
      (ownRole s role) (some (curFurrow s, bar)) []) := by
  have hsent := sendMsg_noted (setSlot s f k { d with ntfMsg := some s.msgNo }) role (ownRole s role) (some (curFurrow s, bar)) [] hother
  have hask : askNotify s f k d = sendMsg (setSlot s f k { d with ntfMsg := some s.msgNo }) (some n) role
      (ownRole s role) (some (curFurrow s, bar)) [] := by
    simp only [askNotify, hntf, hfirst]
  have hasked : slotDesc (askNotify s f k d) f k = some { d with ntfMsg := some s.msgNo } := by
    rw [hask, slotDesc_congr hsent.fes]
    exact slotDesc_setSlot_same ..
  rw [← hask]
  change execDescriptorComplete f k s = _
  simp [execDescriptorComplete, hslot, hitem, hring, hactive, hmoved, hrunning, hport, hwr, notifyOpen, hntf, hopen, hasked]

end

/-! ### A descriptor that has completed -/

theorem endRing_of_no_end (u : ArrayUnit) {d : Desc} (q : Fin 6) (h : d.endB = false) : endRing u d q = u := by
  simp [endRing, h]

theorem descSignal_eq (s : State) (w : ItemRun) (d : Desc) : descSignal s w d = { s with bars := (descSignal s w d).bars } := by
  unfold descSignal itemBarInc
  split
  · rfl
  · split <;> rfl

section
variable (s : State) (f : FeId) (k : Fin 64) (w : ItemRun) (d : DescRun) (q : Fin 6)

theorem descDone_regsOnly : RegsOnly
    (setSlot (setArr s (descArr w d.desc) (endRing (arr s (descArr w d.desc)) d.desc q)) f k { d with st := .done })
    (descDone s f k w d q) := regBump_eq ..

theorem descCompleted_eq : descCompleted s f k w d q = { s with
    arrays := (descCompleted s f k w d q).arrays
    fes := (descCompleted s f k w d q).fes
    regs := (descCompleted s f k w d q).regs
    bars := (descCompleted s f k w d q).bars } := by
  unfold descCompleted
  rw [descSignal_eq, descDone_regsOnly]
  rfl

theorem descCompleted_arrays : (descCompleted s f k w d q).arrays
    = (setArr s (descArr w d.desc) (endRing (arr s (descArr w d.desc)) d.desc q)).arrays := by
  unfold descCompleted
  rw [descSignal_eq, descDone_regsOnly]
  rfl

theorem descCompleted_bars : (descCompleted s f k w d q).bars = (descSignal s w d.desc).bars := by
  have hdone : (descDone s f k w d q).bars = s.bars := by rw [descDone_regsOnly]; rfl
  change (descSignal (descDone s f k w d q) w d.desc).bars = _
  unfold descSignal itemBarInc barInc
  split
  · exact hdone
  · split
    · rw [hdone]
    · exact hdone

theorem fe_descCompleted : fe (descCompleted s f k w d q) f
    = refill { fe s f with slots := insertN k.val { d with st := .done } (fe s f).slots } k.val := by
  have hfe : fe (descSignal (descDone s f k w d q) w d.desc) f
      = { fe s f with slots := insertN k.val { d with st := .done } (fe s f).slots } := by
    rw [descSignal_eq, descDone_regsOnly]
    exact fe_setFe ..
  rw [descCompleted, fe_setFe, hfe]

/-- The freed slot takes the first descriptor that waits for one. -/
theorem slot_descCompleted : ((fe s f).waitq = [] → slotDesc (descCompleted s f k w d q) f k = some { d with st := .done }
      ∧ (fe (descCompleted s f k w d q) f).waitq = [])
    ∧ ∀ x r, (fe s f).waitq = x :: r → slotDesc (descCompleted s f k w d q) f k = some x
      ∧ (fe (descCompleted s f k w d q) f).waitq = r := by
  unfold slotDesc
  rw [fe_descCompleted, refill]
  refine ⟨fun h => ?_, fun x r h => ?_⟩
  · simp [h, lookupN_insertN]
  · simp [h, lookupN_insertN]

theorem regs_descCompleted : rises (feReg f.val 0x30) 1 s (descCompleted s f k w d q)
    ∧ regsBut [feReg f.val 0x30] s (descCompleted s f k w d q) := by
  have hregs (o : Nat) : regGet (descCompleted s f k w d q) o = regGet (descDone s f k w d q) o :=
    regGet_congr (by rw [descCompleted, descSignal_eq]; rfl) o
  refine ⟨(hregs _).trans (rises_regBump _ _ _), fun o ho => (hregs o).trans ?_⟩
  exact regsBut_regBump (os := [feReg f.val 0x30]) _ 1 List.mem_cons_self o ho

end

/-- Settles O23: a fault resumed, and a descriptor whose bytes have all moved. -/
theorem descriptorsEnd : Obligations.DescriptorsEnd := by
  refine ⟨fun f k s d w hslot hitem hfaulted => ⟨fun s1 hcode hmap => ?maps, fun hcode hmap => ?noFrame, fun hcode hreach => ?resumes,
    fun hcode hreach => ?stalls⟩, fun f k s d w q hslot hitem hring hactive hmoved hrunning hport =>
      ⟨fun hwr hntf => ?done, exec_descriptorComplete_unacked hslot hitem hring hactive hmoved hrunning hport,
        fun x hwr hntf hopen hfirst hother => ?notifies⟩⟩
  case maps =>
    exact ⟨_, exec_faultResume_maps hslot hitem hfaulted hcode hmap, slotDesc_descResumed .., by rw [descResumed_eq],
      fun x hx => faults_descResumed s1 f k d hx⟩
  case noFrame =>
    obtain ⟨hdesc, -, hmem, -, -⟩ := descFault_spec s f k w d 4 d.faultAddr 0x0202
    refine ⟨_, exec_faultResume_noFrame hslot hitem hfaulted hcode hmap, hdesc.trans ?_, hmem⟩
    rw [← hfaulted]
  case resumes =>
    refine ⟨_, (exec_faultResume_raile hslot hitem hfaulted hcode).trans (by rw [if_pos hreach]), slotDesc_descResumed .., ?_⟩
    exact descResumed_eq ..
  case stalls =>
    rw [exec_faultResume_raile hslot hitem hfaulted hcode, hreach]
    rfl
  case done =>
    obtain ⟨hrise, hregs⟩ := regs_descCompleted s f k w d q
    obtain ⟨hlast, hnext⟩ := slot_descCompleted s f k w d q
    have harrays := descCompleted_arrays s f k w d q
    have hbars := descCompleted_bars s f k w d q
    refine ⟨_, exec_descriptorComplete_done hslot hitem hring hactive hmoved hrunning hport hwr hntf, descCompleted_eq ..,
      fun b hb => (arr_congr harrays b).trans (arr_setArr_ne _ _ _ _ hb), fun hend => ?_, hrise, hregs, hlast, hnext,
      fun hsilent => hbars.trans ?_, fun b hsignal hb => hbars.trans ?_⟩
    · rwa [endRing_of_no_end _ q hend, setArr_arr] at harrays
    · rw [descSignal, if_pos hsilent]
    · rw [descSignal, if_neg hsignal, itemBarInc, hb]
  case notifies =>
    obtain ⟨n, role, bar⟩ := x
    have hsent := sendMsg_noted (setSlot s f k { d with ntfMsg := some s.msgNo }) role (ownRole s role) (some (curFurrow s, bar)) []
      hother
    refine ⟨_, exec_descriptorComplete_notifies hslot hitem hring hactive hmoved hrunning hport hwr hntf hopen hfirst hother, ?_,
      hsent.msgNo, hsent.mem⟩
    rw [slotDesc_congr hsent.fes]
    exact slotDesc_setSlot_same ..

end Sys2Proof.Machine
end

section
/-! # A burst that the slot checker refuses (O22)

The statement keeps every array but the ring's own for each READ burst whose bytes are clean. Outside the preamble the bytes still pass
the slot checker (R208), and a refusal is a schedule fault of the work item, which cuts every array of its gang (R103, R209). -/

namespace Sys2Proof.Machine

/-- A work item on arrays 0 and 1. -/
def refusedItem : ItemRun :=
  { id := 0, rqt := 0, round := none, recIdx := 0, image := 0, step := 0, gang := 0, number := 0, layer := 0, leader := 0
    width := 2, mode := 0, declared := 0, flags := 0, mgenSlot := none, barMap := [], engines := [0], binds := [], arrived := [] }

/-- A descriptor that reads 64 bytes of the window into ring 0. -/
def refusedDesc : DescRun :=
  { desc := { op := 0, space := 0, ring := 0, len0 := 64, base := 0, baseSel := 0, counts := [1, 1, 1, 1], strides := [0, 0, 0, 0] }
    item := 0, order := 0, st := .running, pos := [0, 0, 0, 0, 0] }

/-- Array 0: ring 0 has room, and its first slot lies in a slot of the work item that the output stage fills. -/
def refusedUnit : ArrayUnit :=
  { item := some 0
    rings := (Vector.replicate 6 {} : Vector Ring 6).set 0 { enable := true, slotSize := 128, slots := 4 }
    slots := [{ base := 0, size := 64, producer := 0, consumer := 0, reads := 1 }]
    banks := Vector.replicate 32 { power := .on } }

/-- The descriptor runs in slot 0 of engine 0, on a window of one unit. -/
def refusedState : State :=
  setTen (setFe { setArr State.reset 0 refusedUnit with items := [refusedItem] } 0 { slots := [(0, refusedDesc)] }) 0 { window := [1] }

/-- The burst reads the window's first 64 bytes. -/
def refusedBurst : Instr := .burst 0 0 ⟨.plain, 0⟩

/-- Whether a burst leaves the first accumulator entry of array 1 INVALID. -/
def cutsNeighbour (s : State) : Bool :=
  match exec refusedBurst s with
  | .next n => (arr n 1).ent[(0 : Fin 16)] == .invalid
  | _ => false

theorem refusedState_cutsNeighbour : cutsNeighbour refusedState = true := by decide +kernel

theorem refusedState_neighbour_free : (arr refusedState 1).ent[(0 : Fin 16)] = .free := by decide +kernel

theorem arr_ne_of_refusedBurst {n : State} (h : exec refusedBurst refusedState = .next n) : arr n 1 ≠ arr refusedState 1 := by
  intro hkept
  have hcut := refusedState_cutsNeighbour
  simp only [cutsNeighbour, h, hkept, refusedState_neighbour_free] at hcut
  cases hcut

/-- Refutes O22: the slot checker refuses the burst's bytes, and the cut of the gang reaches array 1, which is not the ring's. -/
theorem not_burstsMoveBytes : ¬ Obligations.BurstsMoveBytes := by
  intro h
  obtain ⟨hread, -⟩ := h 0 0 .plain 0 refusedState refusedDesc refusedItem 0 0 (by decide +kernel) (by decide +kernel)
    (by decide +kernel) (by decide +kernel) (by decide +kernel) (by decide +kernel) (by decide +kernel) (by decide +kernel)
    (by decide +kernel) (by decide +kernel)
  obtain ⟨hmapped, -⟩ := hread (by decide +kernel) (by decide +kernel)
  obtain ⟨hclean, -⟩ := hmapped (2 ^ 21) (by decide +kernel) (by decide +kernel) (by decide +kernel) (by decide +kernel)
  obtain ⟨n, hexec, -, hkept, -⟩ := hclean (by decide +kernel)
  exact arr_ne_of_refusedBurst hexec (hkept 1 (by decide +kernel))

end Sys2Proof.Machine
end

section
/-! # Cache-mode loads (O20) -/

namespace Sys2Proof.Machine

/-! ### Lines of the array's cache (R135) -/

theorem cacheHit_eq {u v : ArrayUnit} {owner line : Nat} {bs : List Byte} (h : cacheHit u owner line = some (v, bs)) :
    v = { u with cache := v.cache } := by
  unfold cacheHit at h
  split at h
  · cases h
  · cases h
    rfl

/-- Collecting the lines that are present marks them used, and changes neither the array otherwise nor the load's instruction. -/
theorem cldHits_eq (n : Nat) (u : ArrayUnit) (c : CldRun) (h : Nat) :
    (cldHits n u c h).1 = { u with cache := (cldHits n u c h).1.cache } ∧ (cldHits n u c h).2.1.instr = c.instr := by
  induction n generalizing u c h with
  | zero => exact ⟨rfl, rfl⟩
  | succ n ih =>
    unfold cldHits
    split
    · exact ⟨rfl, rfl⟩
    · split
      · exact ⟨rfl, rfl⟩
      case h_2 v bs hhit =>
        obtain ⟨hunit, hinstr⟩ := ih v { c with data := c.data ++ bs } (h + 1)
        exact ⟨hunit.trans (by rw [cacheHit_eq hhit]), hinstr⟩

/-! ### A cached load goes on (R135, R162, R165) -/

/-- What a load that went on with what is present has done, `r` being the array, the load and the hits: with all its bytes it has ended
in VD, otherwise it is HELD, and the miss counts. -/
structure CldWent (a : ArrId) (r : ArrayUnit × CldRun × Nat) (s n : State) : Prop where
  others : arrsBut a s n
  mem    : n.mem = s.mem
  spad   : (arr n a).spad = (arr s a).spad
  hits   : rises (spReg a.val 0x28) r.2.2 s n
  ended  : 2048 ≤ r.2.1.data.length → (arr n a).cld = none ∧ (arr n a).vpos = (arr s a).vpos + 1
    ∧ (∀ x, x ≠ r.2.1.instr.vd → vget (arr n a) x = vget (arr s a) x)
    ∧ vget (arr n a) r.2.1.instr.vd = vmk (bytesLanes (r.2.1.data.take 2048))
  held   : r.2.1.data.length < 2048 → (arr n a).cld = some r.2.1 ∧ (arr n a).ve = .held ∧ (arr n a).vregs = (arr s a).vregs
    ∧ (arr n a).vpos = (arr s a).vpos ∧ rises (spReg a.val 0x30) 1 s n

/-- The registers that a cached load counts in. -/
def cldRegs (a : ArrId) : List Nat :=
  [spReg a.val 0x28, spReg a.val 0x30, veReg a.val 0x20, veReg a.val 0x08, veReg a.val 0x10, veReg a.val 0x28, veReg a.val 0x30,
    veReg a.val 0x38, veReg a.val 0x40, fltReg 0x080]

/-- The state and the unit from which a load goes on: of the array the place of its stream, its registers and its software space are as
in `s`, and so are memory and the other arrays. -/
structure CldReady (a : ArrId) (s t : State) (u : ArrayUnit) : Prop where
  others : arrsBut a s t
  mem    : t.mem = s.mem
  spad   : u.spad = (arr s a).spad
  vregs  : u.vregs = (arr s a).vregs
  vpos   : u.vpos = (arr s a).vpos
  hits   : regGet t (spReg a.val 0x28) = regGet s (spReg a.val 0x28)
  misses : regGet t (spReg a.val 0x30) = regGet s (spReg a.val 0x30)

/-- The state in which a load's hits are counted and its array is `v`. -/
def hitsCounted (t : State) (a : ArrId) (v : ArrayUnit) (h : Nat) : State := setArr (regBump t (spReg a.val 0x28) h) a v

section
variable {a : ArrId} {s t : State} {u : ArrayUnit} (hready : CldReady a s t u) (v : ArrayUnit) (h : Nat)
include hready

theorem CldReady.counted_others : arrsBut a s (hitsCounted t a v h) := fun b hb => by
  rw [hitsCounted, arr_setArr_ne _ _ _ _ hb, arr_congr (regBump_arrays ..), hready.others b hb]

theorem CldReady.counted_mem : (hitsCounted t a v h).mem = s.mem := (regBump_mem ..).trans hready.mem

theorem CldReady.counted_hits : rises (spReg a.val 0x28) h s (hitsCounted t a v h) := by
  rw [rises, ← hready.hits]
  exact rises_regBump t _ h

theorem CldReady.counted_misses : regGet (hitsCounted t a v h) (spReg a.val 0x30) = regGet s (spReg a.val 0x30) := by
  rw [← hready.misses]
  exact regsBut_regBump (os := [spReg a.val 0x28]) t h List.mem_cons_self _ (by simp [spReg_inj])

end

theorem hitsCounted_regsBut (t : State) (a : ArrId) (v : ArrayUnit) (h : Nat) : regsBut (cldRegs a) t (hitsCounted t a v h) :=
  regsBut_regBump t h (by simp [cldRegs])

section
variable {a : ArrId} {t : State} {u : ArrayUnit} {c : CldRun}

theorem cldGo_held (hdata : (cldHits 8 u c 0).2.1.data.length < 2048) :
    cldGo t a u c = regBump (hitsCounted t a { (cldHits 8 u c 0).1 with cld := some (cldHits 8 u c 0).2.1, ve := .held }
      (cldHits 8 u c 0).2.2) (spReg a.val 0x30) 1 := if_neg (Nat.not_le.2 hdata)

theorem cldGo_ended (hdata : 2048 ≤ (cldHits 8 u c 0).2.1.data.length) :
    ∃ late issue, cldGo t a u c = vfinish (regBump (hitsCounted t a { (cldHits 8 u c 0).1 with cld := none, ve := .running }
        (cldHits 8 u c 0).2.2) (veReg a.val 0x20) late) a c.instr
      { writes := [(c.instr.vd, vmk (bytesLanes ((cldHits 8 u c 0).2.1.data.take 2048)))], issue := issue } :=
  ⟨_, _, if_pos hdata⟩

theorem cldGo_regsBut : regsBut (cldRegs a) t (cldGo t a u c) := by
  have hcounted (v : ArrayUnit) := hitsCounted_regsBut t a v (cldHits 8 u c 0).2.2
  rcases Nat.lt_or_ge (cldHits 8 u c 0).2.1.data.length 2048 with hdata | hdata
  · rw [cldGo_held hdata]
    exact regsBut_trans (hcounted _) (regsBut_regBump _ 1 (by simp [cldRegs]))
  · obtain ⟨late, issue, hgo⟩ := cldGo_ended (t := t) (a := a) hdata
    obtain ⟨-, -, -, -, -, -, hregs, -, -⟩ := vfinish_frame_of_writes (regBump (hitsCounted t a
      { (cldHits 8 u c 0).1 with cld := none, ve := .running } (cldHits 8 u c 0).2.2) (veReg a.val 0x20) late) a c.instr
      (o := { writes := [(c.instr.vd, vmk (bytesLanes ((cldHits 8 u c 0).2.1.data.take 2048)))], issue := issue }) rfl
    rw [hgo]
    exact regsBut_trans (regsBut_trans (hcounted _) (regsBut_regBump _ late (by simp [cldRegs]))) (regsBut_mono hregs (by simp [cldRegs]))

end

section
variable {a : ArrId} {s t : State} {u : ArrayUnit} {c : CldRun} (hready : CldReady a s t u)
include hready

theorem CldReady.unit : (cldHits 8 u c 0).1.spad = (arr s a).spad ∧ (cldHits 8 u c 0).1.vregs = (arr s a).vregs
    ∧ (cldHits 8 u c 0).1.vpos = (arr s a).vpos := by
  obtain ⟨hunit, -⟩ := cldHits_eq 8 u c 0
  rw [hunit]
  exact ⟨hready.spad, hready.vregs, hready.vpos⟩

theorem cldGo_went_held (hdata : (cldHits 8 u c 0).2.1.data.length < 2048) :
    CldWent a (cldHits 8 u c 0) s (cldGo t a u c) := by
  obtain ⟨hspad, hvregs, hvpos⟩ := hready.unit (c := c)
  have hgo := cldGo_held (t := t) (a := a) hdata
  generalize cldHits 8 u c 0 = r at *
  let v : ArrayUnit := { r.1 with cld := some r.2.1, ve := .held }
  have harr (b : ArrId) : arr (cldGo t a u c) b = arr (hitsCounted t a v r.2.2) b := by rw [hgo, arr_congr (regBump_arrays ..)]
  have hself : arr (cldGo t a u c) a = v := by rw [harr, hitsCounted, arr_setArr]
  refine ⟨fun b hb => by rw [harr, hready.counted_others v _ b hb], ?_, by rw [hself, ← hspad], ?_,
    fun h => absurd h (Nat.not_le.2 hdata), fun _ => ⟨by rw [hself], by rw [hself], by rw [hself, ← hvregs], by rw [hself, ← hvpos], ?_⟩⟩
  · rw [hgo, regBump_mem, hready.counted_mem]
  · rw [hgo, rises, regGet_regBump, if_neg (by simp [spReg_inj])]
    exact hready.counted_hits ..
  · rw [rises, ← hready.counted_misses v r.2.2, hgo]
    exact rises_regBump ..

theorem cldGo_went_ended (hdata : 2048 ≤ (cldHits 8 u c 0).2.1.data.length) :
    CldWent a (cldHits 8 u c 0) s (cldGo t a u c) := by
  obtain ⟨hspad, hvregs, hvpos⟩ := hready.unit (c := c)
  obtain ⟨-, hinstr⟩ := cldHits_eq 8 u c 0
  obtain ⟨late, issue, hgo⟩ := cldGo_ended (t := t) (a := a) hdata
  generalize cldHits 8 u c 0 = r at *
  let v : ArrayUnit := { r.1 with cld := none, ve := .running }
  let m := regBump (hitsCounted t a v r.2.2) (veReg a.val 0x20) late
  let o : VOut := { writes := [(c.instr.vd, vmk (bytesLanes (r.2.1.data.take 2048)))], issue := issue }
  have hm : arr m a = v := by rw [arr_congr (regBump_arrays ..), hitsCounted, arr_setArr]
  obtain ⟨hfields, hothers, -, hplace, hlanes, -, hregs, -, -⟩ := vfinish_frame_of_writes m a c.instr (o := o) rfl
  have hwritten := vget_vfinish_single m a c.instr (o := o) rfl
  rw [← hgo] at hfields hothers hplace hlanes hregs hwritten
  rw [hm] at hplace hlanes
  refine ⟨fun b hb => ?_, ?_, by rw [hplace, ← hspad], ?_,
    fun _ => ⟨by rw [hplace], by rw [hplace, ← hvpos], fun y hy => ?_, by rw [hinstr, hwritten]⟩, fun h => absurd hdata (Nat.not_le.2 h)⟩
  · rw [hothers b hb, arr_congr (regBump_arrays ..), hready.counted_others v _ b hb]
  · rw [hfields]
    exact (regBump_mem ..).trans (hready.counted_mem ..)
  · rw [rises, hregs _ (by simp [(veReg_ne_spReg a a _ _).symm, spReg_ne_fltReg]), regGet_regBump,
      if_neg (veReg_ne_spReg a a _ (by decide)).symm]
    exact hready.counted_hits ..
  · rw [hlanes y (by simpa [o, hinstr] using hy), vget, vget, ← hvregs]

theorem cldGo_went : CldWent a (cldHits 8 u c 0) s (cldGo t a u c) :=
  (Nat.lt_or_ge _ 2048).elim (cldGo_went_held hready) (cldGo_went_ended hready)

end

/-! ### CLD (R135, R165) -/

section
variable {a : ArrId} {v : VInstr} {lost : List (Fin 32)} {s : State} (hready : veReady s a = true)
include hready

/-- A load whose bank accesses that lose have delayed it looks its lines up. -/
theorem exec_cld {w : ItemRun} (hitem : arrItem s a = some w) (hbanks : (arr s a).cacheBanks ≠ 0) (haligned : v.ext.toNat % 256 = 0)
    (hfmt : isVecFmt v.dt.toNat = true) :
    exec (.cld a ⟨v, lost⟩) s = .next (cldGo (vHeld s a lost) a (arr (vHeld s a lost) a)
      { instr := v, at_ := veIssueClk (arr (vHeld s a lost) a) v
        owner := if bitAt v.aux.toNat 0 then 16 + w.image else itemLd s w, addr := v.ext.toNat }) := by
  change execCld a ⟨v, lost⟩ s = _
  simp [execCld, hready, hitem, hbanks, haligned, hfmt]

theorem exec_cld_illegal (h : (arr s a).cacheBanks = 0 ∨ v.ext.toNat % 256 ≠ 0 ∨ isVecFmt v.dt.toNat = false) :
    exec (.cld a ⟨v, lost⟩) s = .next (vIllegal s a v) := by
  change execCld a ⟨v, lost⟩ s = _
  unfold execCld
  rw [if_neg (by simp [hready])]
  exact if_pos h

end

/-- Clocks lost to arbitration come before the load. -/
theorem vHeld_cldReady (s : State) (a : ArrId) (lost : List (Fin 32)) :
    CldReady a s (vHeld s a lost) { arr s a with veClk := (arr s a).veClk + lost.length } := by
  have hothers := vHeld_arrsBut s a (arr s a) lost
  have hfields := vHeld_arraysRegs s a (arr s a) lost
  have hregs := vHeld_regsBut s a (arr s a) lost
  rw [setArr_arr] at hothers hfields hregs
  refine ⟨hothers, by rw [hfields], rfl, rfl, rfl, hregs _ ?_, hregs _ ?_⟩ <;> simp [spReg_inj, (veReg_ne_spReg a a _ _).symm]

/-! ### CACHE_FILL (R135, R154, R155) -/

/-- The fault of a fill that has found its line is resolved, and shown no more. -/
theorem fillFaults_faultsChanged (s : State) (w : ItemRun) (addr : Nat) (g : FeFault → Option FeFault) :
    FaultsChanged (fillEngine w) ((fe s (fillEngine w)).faults.filterMap (fun x => if fillWaits w addr x then g x else some x)) s
      (fillFaults s w addr g) :=
  faultsChanged_of_shown rfl (regsBut_of_regs rfl)

theorem poisoned_congr {s t : State} (h : t.poison = s.poison) (x n : Nat) : poisoned t x n = poisoned s x n := by
  unfold poisoned
  rw [h]

section
variable {a : ArrId} {k : Nat} {s : State} {w : ItemRun} {c : CldRun} (hcld : (arr s a).cld = some c) (hitem : arrItem s a = some w)
  (hrunning : w.halted = 0) (hfail : w.failStatus = 0)
include hcld hitem hrunning hfail

theorem exec_cacheFill_found {p : Nat} (hp : fillDpa s c.owner ((c.addr + c.data.length) / 256 * 256) = .ok p) :
    exec (.cacheFill ⟨a, k⟩) s = .next (fillLine (fillFaults s w ((c.addr + c.data.length) / 256 * 256) (fun _ => none)) a w c
      ((c.addr + c.data.length) / 256 * 256) p k) := by
  change execCacheFill ⟨a, k⟩ s = _
  simp only [execCacheFill, hcld, hitem, hrunning, hfail, hp]
  rfl

/-- The first time that no frame holds the page, the fault is raised. -/
theorem exec_cacheFill_unmapped (hp : fillDpa s c.owner ((c.addr + c.data.length) / 256 * 256) = .error 1)
    (hfirst : (fe s (fillEngine w)).faults.any (fillWaits w ((c.addr + c.data.length) / 256 * 256)) = false) :
    exec (.cacheFill ⟨a, k⟩) s = .next (raiseFill s w 1 ((c.addr + c.data.length) / 256 * 256)) := by
  change execCacheFill ⟨a, k⟩ s = _
  simp only [execCacheFill, hcld, hitem, hrunning, hfail, hp, hfirst]
  rfl

end

/-- A line that can be read is installed, and the load goes on with it. -/
theorem fillLine_goes {s : State} (a : ArrId) (w : ItemRun) (c : CldRun) (line lost : Nat) {p : Nat} (hp : p < hbmCap s)
    (hclean : poisoned (workRead 0 s p) p 256 = false) :
    fillLine s a w c (line * 256) p lost = cldGo (regBump (workRead 0 s p) (spReg a.val 0x20) lost) a
      (cachePut (arr s a) c.owner line (memReads s p 256)) { c with data := c.data ++ memReads s p 256 } := by
  have hread := workRead_linesTouched 0 s p
  have hbytes : memReads (workRead 0 s p) p 256 = memReads s p 256 := by rw [memReads, hread.mem]; rfl
  have hunit : arr (regBump (workRead 0 s p) (spReg a.val 0x20) lost) a = arr s a :=
    arr_congr ((regBump_arrays ..).trans hread.arrays) a
  unfold fillLine
  rw [if_neg (Nat.not_le.2 hp)]
  simp only [hclean, hbytes, hunit, Nat.mul_div_cancel line (by decide : 0 < 256)]
  rfl

/-- A fault of a fill raised: counted, and it waits for a frame. -/
theorem raiseFill_spec (s : State) (w : ItemRun) (addr : Nat) :
    let n := raiseFill s w 1 addr
    n.mem = s.mem ∧ n.arrays = s.arrays ∧ rises (feReg (fillEngine w).val 0x40) 1 s n
      ∧ (fe n (fillEngine w)).faults.any (fillWaits w addr) = true := by
  unfold raiseFill
  extract_lets v n
  let x : FeFault := { fill := true, slot := v % 64, code := 1, ld := itemLd s w, rqt := w.rqt, addr := addr }
  let t := raiseFault (tickFree s) (fillEngine w) x
  have ht : FaultsChanged (fillEngine w) _ (tickFree s) t := raiseFault_faultsChanged ..
  have hn : Noted t n := noteItem_noted t w 1
  refine ⟨?_, ?_, ?_, ?_⟩
  · rw [hn.mem, ht.fields]
    rfl
  · rw [hn.arrays, ht.fields]
    rfl
  · rw [rises, hn.regs _ (feReg_unitReg _ (by decide))]
    exact raiseFault_rises (tickFree s) _ x
  · rw [fe_congr hn.fes, ht.fe_same]
    simp [x, fillWaits]

/-- What went, as the obligation lists it. -/
theorem CldWent.all {a : ArrId} {r : ArrayUnit × CldRun × Nat} {s n : State} (h : CldWent a r s n) :
    arrsBut a s n ∧ n.mem = s.mem ∧ (arr n a).spad = (arr s a).spad ∧ rises (spReg a.val 0x28) r.2.2 s n
      ∧ (2048 ≤ r.2.1.data.length → (arr n a).cld = none ∧ (arr n a).vpos = (arr s a).vpos + 1
        ∧ (∀ x, x ≠ r.2.1.instr.vd → vget (arr n a) x = vget (arr s a) x)
        ∧ vget (arr n a) r.2.1.instr.vd = vmk (bytesLanes (r.2.1.data.take 2048)))
      ∧ (r.2.1.data.length < 2048 → (arr n a).cld = some r.2.1 ∧ (arr n a).ve = .held ∧ (arr n a).vregs = (arr s a).vregs
        ∧ (arr n a).vpos = (arr s a).vpos ∧ rises (spReg a.val 0x30) 1 s n) :=
  ⟨h.others, h.mem, h.spad, h.hits, h.ended, h.held⟩

/-- A load goes on behind its held clocks, and counts them. -/
theorem cldGo_vHeld_lostClocks (s : State) (a : ArrId) (lost : List (Fin 32)) (u : ArrayUnit) (c : CldRun) :
    lostClocks a lost s (cldGo (vHeld s a lost) a u c) := by
  have hlost := vHeld_lostClocks s a (arr s a) lost
  rw [setArr_arr] at hlost
  refine lostClocks_of_regsBut hlost cldGo_regsBut ?_ ?_
  · simp [cldRegs, veReg_inj, veReg_ne_spReg, veReg_ne_fltReg]
  · simp [cldRegs, spReg_inj, (veReg_ne_spReg a a _ _).symm, spReg_ne_fltReg]

theorem spReg_ne_feReg (a : ArrId) (f : FeId) {x y : Nat} (hx : x < 0x800) (hy : y < 0x2000) :
    spReg a.val x ≠ feReg f.val y := by
  have := a.isLt
  unfold spReg feReg
  omega

/-- A line of memory that a fill has read, its lost bank accesses counted: the load goes on from there. -/
def fillRead (s : State) (w : ItemRun) (a : ArrId) (addr p k : Nat) : State :=
  regBump (workRead 0 (fillFaults s w addr (fun _ => none)) p) (spReg a.val 0x20) k

section
variable (s : State) (w : ItemRun) (a : ArrId) (addr p k : Nat)

/-- Resolving a fill's fault leaves what a read of its line says. -/
theorem fillFaults_fields (g : FeFault → Option FeFault) :
    let n := fillFaults s w addr g
    n = { s with fes := n.fes, regs := n.regs } := (fillFaults_faultsChanged s w addr g).fields

theorem fillRead_poisoned : poisoned (workRead 0 (fillFaults s w addr (fun _ => none)) p) p 256 = poisoned (lineRead 0 s p) p 256 := by
  refine poisoned_congr ?_ p 256
  rw [workRead_poison, lineRead_poison, fillFaults_fields]
  rfl

theorem fillRead_arrays : (fillRead s w a addr p k).arrays = s.arrays := by
  rw [fillRead, regBump_arrays, (workRead_linesTouched ..).arrays, fillFaults_fields]

theorem fillRead_mem : (fillRead s w a addr p k).mem = s.mem := by
  rw [fillRead, regBump_mem, (workRead_linesTouched ..).mem, fillFaults_fields]

/-- The scratchpad's counters are as they were before the line's bank accesses. -/
theorem fillRead_spReg {x : Nat} (hx : x < 0x800) :
    regGet (workRead 0 (fillFaults s w addr (fun _ => none)) p) (spReg a.val x) = regGet s (spReg a.val x) := by
  rw [(workRead_linesTouched ..).regs _ (spReg_unitReg a hx)]
  refine (fillFaults_faultsChanged s w addr _).regs _ ?_
  simp [spReg_ne_feReg _ _ hx]

theorem fillRead_rises : rises (spReg a.val 0x20) k s (fillRead s w a addr p k) := by
  rw [rises, ← fillRead_spReg s w a addr p (by decide)]
  exact rises_regBump ..

theorem fillRead_cldReady (owner line : Nat) (bs : List Byte) :
    CldReady a s (fillRead s w a addr p k) (cachePut (arr s a) owner line bs) := by
  refine ⟨fun b _ => arr_congr (fillRead_arrays ..) b, fillRead_mem .., rfl, rfl, rfl, ?_, ?_⟩
  all_goals
    rw [fillRead, regGet_regBump, if_neg (by simp [spReg_inj])]
    exact fillRead_spReg s w a addr p (by decide)

end

/-- Settles O20: a load behind its held clocks, a fill that finds its line, one that finds no frame, and the forms that are not
permitted. -/
theorem cachedLoads : Obligations.CachedLoads := by
  intro a v lost k s w u uh owner went
  refine ⟨fun hready hitem hbanks haligned hfmt => ?load, fun c p hcld hitem hrunning hfail hdpa hp hclean => ?fill,
    fun c hcld hitem hrunning hfail => ?unmapped, fun hready h => formFaults_of_vIllegal hready (exec_cld_illegal hready h)⟩
  case load =>
    have hunit : arr (vHeld s a lost) a = uh := by
      have h := arr_vHeld s a u lost
      rwa [setArr_arr] at h
    have hexec := exec_cld hready (lost := lost) hitem hbanks haligned hfmt
    rw [hunit] at hexec
    exact ⟨_, hexec, cldGo_vHeld_lostClocks .., (cldGo_went (vHeld_cldReady s a lost)).all⟩
  case fill =>
    let line := (c.addr + c.data.length) / 256
    let t := fillFaults s w (line * 256) (fun _ => none)
    have ht : t = { s with fes := t.fes, regs := t.regs } := fillFaults_fields ..
    have hcap : p < hbmCap t := by
      rw [ht]
      exact hp
    have hbytes : memReads t p 256 = memReads s p 256 := by
      rw [ht]
      rfl
    have hunit : arr t a = u := by
      rw [ht]
      rfl
    have hgo := fillLine_goes (s := t) a w c line k hcap ((fillRead_poisoned ..).trans hclean)
    rw [hbytes, hunit] at hgo
    have hexec : exec (.cacheFill ⟨a, k⟩) s = .next (fillLine t a w c (line * 256) p k) :=
      exec_cacheFill_found hcld hitem hrunning hfail hdpa
    rw [hexec, hgo]
    refine ⟨_, rfl, ?_, (cldGo_went (fillRead_cldReady s w a (line * 256) p k c.owner line _)).all⟩
    rw [rises, cldGo_regsBut (a := a) _ (by simp [cldRegs, spReg_inj, (veReg_ne_spReg a a _ _).symm, spReg_ne_fltReg])]
    exact fillRead_rises ..
  case unmapped =>
    intro la hdpa hfirst
    exact ⟨_, exec_cacheFill_unmapped hcld hitem hrunning hfail hdpa hfirst, raiseFill_spec s w la⟩

end Sys2Proof.Machine
end

section
/-! # Reductions, top-k and rotary embedding over segments -/

namespace Sys2Proof.Machine

/-! ### Segments -/

theorem nthD_map_range {α : Type} (d : α) (f : Nat → α) {n i : Nat} (h : i < n) : nthD d ((List.range n).map f) i = f i := by
  simp [nthD, h]

/-- The segment of a lane is one of those that a register has. -/
theorem segment_lt {i k : Nat} (hi : i < 512) (hk : k ≤ 9) : i / 2 ^ k < 512 / 2 ^ k := by
  have hregister : 512 = 2 ^ (9 - k) * 2 ^ k := by rw [← pow_add, Nat.sub_add_cancel hk]; rfl
  rw [hregister, Nat.mul_div_cancel _ (Nat.two_pow_pos k)]
  exact Nat.div_lt_of_lt_mul (by rwa [Nat.mul_comm, ← hregister])

theorem half_two_pow {k : Nat} (hk : 1 ≤ k) : 2 ^ (k - 1) = 2 ^ k / 2 := by
  obtain ⟨j, rfl⟩ := Nat.exists_eq_add_of_le' hk
  rw [pow_succ, Nat.mul_div_cancel _ Nat.two_pos, Nat.add_sub_cancel]

/-- Segment `j` of a register, of two to the `k` lanes (R171). -/
def segmentOf (x : VReg) (k j : Nat) : List Lane32 := (x.toList.drop (j * 2 ^ k)).take (2 ^ k)

section
variable (u : ArrayUnit) (v : VInstr)

/-- The reductions of the segments of VA (R171). -/
def redResults : List (Lane32 × Ev) :=
  (List.range (512 / 2 ^ v.seg.toNat)).map (fun j =>
    redSegment (decide (v.dt = 0xA)) (v.aux.toNat % 4) v.seg.toNat (segmentOf (vget u v.va) v.seg.toNat j))

/-- The K largest lanes of segment `j` of VA with their places, in order (R173). -/
def segmentRanks (j : Nat) : List (Nat × Lane32) :=
  (sortBy (fun p q => !topkAbove q p) ((List.range (2 ^ v.seg.toNat)).zip (segmentOf (vget u v.va) v.seg.toNat j))).take
    (v.aux.toNat % 32)

/-- What TOPK finds for lane `i`: the lane of that rank in its segment, if the segment has it (R173). -/
def rankAt (i : Nat) : Option (Nat × Lane32) :=
  (nthD [] ((List.range (512 / 2 ^ v.seg.toNat)).map (segmentRanks u v)) (i / 2 ^ v.seg.toNat))[i % 2 ^ v.seg.toNat]?

/-- The first lane of the pair that holds lane `i` (R178). -/
def ropeFirst (i : Nat) : Nat :=
  if v.aux.getLsbD 0 then (if i % 2 ^ v.seg.toNat < 2 ^ (v.seg.toNat - 1) then i else i - 2 ^ (v.seg.toNat - 1)) else i / 2 * 2

/-- Lane `i` after its pair has been rotated by the position and frequency of the pair's first lane (R178). -/
def ropeLane (i : Nat) : Lane32 × Ev :=
  let j := ropeFirst v i
  let r := ropePair (lane (vget u v.va) j) (lane (vget u v.va) (if v.aux.getLsbD 0 then j + 2 ^ (v.seg.toNat - 1) else j + 1))
    (lane (srcB u v) j) (lane (vget u v.vc) j)
  if i = j then r.1 else r.2

end

/-- The value of a rank, and -Inf for a rank that the segment has not (R173). -/
def rankValue : Option (Nat × Lane32) → Lane32
  | some p => if isNan (fp32Val p.2) then nan32 else p.2
  | none => 0xFF800000#32

/-- The place of a rank, and -1 for a rank that the segment has not (R173). -/
def rankPlace : Option (Nat × Lane32) → Lane32
  | some p => BitVec.ofNat 32 p.1
  | none => 0xFFFFFFFF#32

section
variable {u : ArrayUnit} {v : VInstr} {i : Nat} (hi : i < 512) (hseg : v.seg.toNat ≤ 9)
include hi hseg

theorem redResults_at : nthD (0, {}) (redResults u v) (i / 2 ^ v.seg.toNat)
    = redSegment (decide (v.dt = 0xA)) (v.aux.toNat % 4) v.seg.toNat
        (segmentOf (vget u v.va) v.seg.toNat (i / 2 ^ v.seg.toNat)) :=
  nthD_map_range _ _ (segment_lt hi hseg)

theorem rankAt_eq : rankAt u v i = (segmentRanks u v (i / 2 ^ v.seg.toNat))[i % 2 ^ v.seg.toNat]? := by
  rw [rankAt, nthD_map_range _ _ (segment_lt hi hseg)]

end

/-! ### The instructions -/

section
variable (a : ArrId) (v : VInstr) (s : State)

/-- RED writes VD alone (R171). -/
theorem exec_red : ∃ o, exec (.red a v) s = vRun s a v (dtIn v [1, 0xA] && decide (1 ≤ v.seg.toNat) && decide (v.seg.toNat ≤ 9)) o
    ∧ ∀ u, (o u).writes = [(v.vd, vmk (fun i => (nthD (0, {}) (redResults u v) (i / 2 ^ v.seg.toNat)).1))] := by
  change ∃ o, execRed a v s = vRun s a v _ o ∧ _
  unfold execRed
  exact ⟨_, rfl, fun _ => rfl⟩

/-- TOPK writes VD and the register after it (R173). -/
theorem exec_topk : ∃ o, exec (.topk a v) s
      = vRun s a v (dtIn v [1] && decide (v.seg.toNat ≤ 9) && decide (1 ≤ v.aux.toNat % 32) && decide (v.aux.toNat % 32 ≤ 16)
          && decide (v.aux.toNat % 32 ≤ 2 ^ v.seg.toNat) && decide (v.vd ≠ 31)) o
    ∧ ∀ u, (o u).writes = [(v.vd, vmk (fun i => rankValue (rankAt u v i))), (v.vd + 1, vmk (fun i => rankPlace (rankAt u v i)))] := by
  change ∃ o, execTopk a v s = vRun s a v _ o ∧ _
  unfold execTopk
  exact ⟨_, rfl, fun _ => rfl⟩

/-- ROPE writes VD alone (R178). -/
theorem exec_rope : ∃ o, exec (.rope a v) s = vRun s a v (dtIn v [1] && decide (1 ≤ v.seg.toNat) && decide (v.seg.toNat ≤ 9)) o
    ∧ ∀ u, (o u).writes = [(v.vd, vmk (fun i => (ropeLane u v i).1))] := by
  change ∃ o, execRope a v s = vRun s a v _ o ∧ _
  unfold execRope
  exact ⟨_, rfl, fun _ => rfl⟩

end

end Sys2Proof.Machine
end

section
/-! # Comparison, selection, sign, logic and special functions lane by lane (O14) -/

namespace Sys2Proof.Machine

/-! ### One lane -/

/-- The test that a comparison makes of how two values compare (R169). -/
theorem cmpTest_eq_orderHolds (k : Nat) (o : Ordering) :
    (if k = 0 then o == .lt else if k = 1 then o != .gt else if k = 2 then o == .eq else o != .eq) = orderHolds k o := by
  match k with
  | 0 => rfl
  | 1 => rfl
  | 2 => rfl
  | _ + 3 => rfl

theorem cmpLane_int {v : VInstr} (h : v.dt = 0xA) (x y : Lane32) :
    cmpLane v x y = if orderHolds (v.aux.toNat % 4) (compare x.toInt y.toInt) then 1 else 0 := by
  simp [cmpLane, h, cmpTest_eq_orderHolds]

theorem cmpLane_fp32 {v : VInstr} (h : v.dt = 1) (x y : Lane32) :
    cmpLane v x y = if isNan (fp32Val x) ∨ isNan (fp32Val y) then (if v.aux.toNat % 4 = 3 then 1 else 0)
      else if orderHolds (v.aux.toNat % 4) (numCmp (fp32Val x) (fp32Val y)) then 1 else 0 := by
  unfold cmpLane
  simp only [h, cmpTest_eq_orderHolds, decide_true, Bool.true_and, if_true, Bool.or_eq_true]
  split <;> simp

/-! ### The instructions -/

section
variable (a : ArrId) (v : VInstr) (s : State)

theorem exec_nop : exec (.nop a v) s = vRun s a v true (fun _ => {}) := rfl

theorem exec_cmp : exec (.cmp a v) s = vRun s a v (dtIn v [1, 0xA]) (fun u =>
    { writes := [(v.vd, vmk (fun i => cmpLane v (lane (vget u v.va) i) (lane (srcB u v) i)))] }) := rfl

theorem exec_sel : exec (.sel a v) s = vRun s a v (isVecFmt v.dt.toNat) (fun u =>
    { writes := [(v.vd, vmk (fun i =>
        if lane (vget u v.vc) i ≠ 0 then lane (vget u v.va) i else lane (srcB u v) i))] }) := rfl

theorem exec_sign : exec (.sign a v) s = vRun s a v (dtIn v [1]) (fun u =>
    { writes := [(v.vd, vmk (fun i => signLane (v.aux.getLsbD 0) (lane (vget u v.va) i)))] }) := rfl

theorem exec_logic : exec (.logic a v) s = vRun s a v (dtIn v [0xA] && decide (v.aux.toNat % 8 ≤ 5)) (fun u =>
    { writes := [(v.vd, vmk (fun i => logicLane (v.aux.toNat % 8) (lane (vget u v.va) i) (lane (srcB u v) i)))] }) := rfl

theorem exec_exp2 : exec (.exp2 a v) s = vRun s a v (dtIn v [1]) (sfOut sfExp2 v) := rfl

theorem exec_log2 : exec (.log2 a v) s = vRun s a v (dtIn v [1]) (sfOut sfLog2 v) := rfl

theorem exec_rcp : exec (.rcp a v) s = vRun s a v (dtIn v [1]) (sfOut sfRcp v) := rfl

theorem exec_rsqrt : exec (.rsqrt a v) s = vRun s a v (dtIn v [1]) (sfOut sfRsqrt v) := rfl

theorem exec_sigm : exec (.sigm a v) s = vRun s a v (dtIn v [1]) (sfOut sfSigm v) := rfl

theorem exec_tanh : exec (.tanh a v) s = vRun s a v (dtIn v [1]) (sfOut sfTanh v) := rfl

/-- The guarded exponential writes VD alone (R174). -/
theorem exec_expd : ∃ o, exec (.expd a v) s = vRun s a v (dtIn v [1]) o
    ∧ ∀ u, (o u).writes = [(v.vd, vmk (fun i => expdLane (lane (vget u v.va) i) (lane (srcB u v) i)))] := by
  change ∃ o, execExpd a v s = vRun s a v _ o ∧ _
  unfold execExpd
  exact ⟨_, rfl, fun _ => rfl⟩

theorem sfOut_writes (f : Num → Lane32) (u : ArrayUnit) :
    (sfOut f v u).writes = [(v.vd, vmk (fun i => f (fp32Val (lane (vget u v.va) i))))] := rfl

/-- The instructions that have the format FP32 alone (R169, R170, R174). -/
theorem fp32Only_run :
    ∀ c ∈ ([.sign a v, .exp2 a v, .log2 a v, .rcp a v, .rsqrt a v, .sigm a v, .tanh a v, .expd a v] : List Instr),
      ∃ o, exec c s = vRun s a v (dtIn v [1]) o := by
  obtain ⟨expd, hexpd, -⟩ := exec_expd a v s
  simp only [List.forall_mem_cons]
  exact ⟨⟨_, exec_sign a v s⟩, ⟨_, exec_exp2 a v s⟩, ⟨_, exec_log2 a v s⟩, ⟨_, exec_rcp a v s⟩, ⟨_, exec_rsqrt a v s⟩,
    ⟨_, exec_sigm a v s⟩, ⟨_, exec_tanh a v s⟩, ⟨expd, hexpd⟩, fun _ h => nomatch h⟩

/-- The instructions whose whole meaning is the frame of `vRun`. -/
def registerOps : List Instr :=
  [.nop a v, .add a v, .sub a v, .mul a v, .fma a v, .max a v, .min a v, .maxnum a v, .minnum a v, .cmp a v, .sel a v, .sign a v
  , .cvt a v, .logic a v, .exp2 a v, .log2 a v, .rcp a v, .rsqrt a v, .sigm a v, .tanh a v, .expd a v, .rope a v, .quant a v
  , .red a v, .topk a v]

theorem registerOps_run : ∀ c ∈ registerOps a v, ∃ legal o, exec c s = vRun s a v legal o := by
  obtain ⟨cvt, hcvt, -⟩ := exec_cvt a v s
  obtain ⟨expd, hexpd, -⟩ := exec_expd a v s
  obtain ⟨rope, hrope, -⟩ := exec_rope a v s
  obtain ⟨quant, hquant, -⟩ := exec_quant a v s
  obtain ⟨red, hred, -⟩ := exec_red a v s
  obtain ⟨topk, htopk, -⟩ := exec_topk a v s
  simp only [registerOps, List.forall_mem_cons]
  exact ⟨⟨_, _, exec_nop a v s⟩, ⟨_, _, exec_add a v s⟩, ⟨_, _, exec_sub a v s⟩, ⟨_, _, exec_mul a v s⟩, ⟨_, _, exec_fma a v s⟩,
    ⟨_, _, exec_max a v s⟩, ⟨_, _, exec_min a v s⟩, ⟨_, _, exec_maxnum a v s⟩, ⟨_, _, exec_minnum a v s⟩,
    ⟨_, _, exec_cmp a v s⟩, ⟨_, _, exec_sel a v s⟩, ⟨_, _, exec_sign a v s⟩, ⟨_, cvt, hcvt⟩, ⟨_, _, exec_logic a v s⟩,
    ⟨_, _, exec_exp2 a v s⟩, ⟨_, _, exec_log2 a v s⟩, ⟨_, _, exec_rcp a v s⟩, ⟨_, _, exec_rsqrt a v s⟩, ⟨_, _, exec_sigm a v s⟩,
    ⟨_, _, exec_tanh a v s⟩, ⟨_, expd, hexpd⟩, ⟨_, rope, hrope⟩, ⟨_, quant, hquant⟩, ⟨_, red, hred⟩, ⟨_, topk, htopk⟩,
    fun _ h => nomatch h⟩

/-- The instructions with a meaning of their own. -/
def unitOps (lost : List (Fin 32)) : List Instr :=
  [.psum a ⟨v, lost⟩, .expsort a ⟨v, lost⟩, .ld a ⟨v, lost⟩, .st a ⟨v, lost⟩, .cld a ⟨v, lost⟩, .rstat a v, .mpos a v, .mcmd a v
  , .barinc a v]

end

/-- A special function in FP32, lane by lane (R170). -/
theorem sf_laneResult {c : Instr} {a : ArrId} {v : VInstr} {s : State} {f : Num → Lane32} (hready : veReady s a = true)
    (hdt : v.dt = 1) (hc : exec c s = vRun s a v (dtIn v [1]) (sfOut f v)) :
    laneResult c a v s (fun x _ _ => f (fp32Val x)) :=
  laneResult_of_write hready hc (dtIn_of_mem (by simp [hdt])) (sfOut_writes v f _) fun _ _ => rfl

theorem dtIn_fp32_false {v : VInstr} (h : v.dt ≠ 1) : dtIn v [1] = false :=
  dtIn_false (by simpa using fun e => h (BitVec.eq_of_toNat_eq e))

theorem dtIn_int_false {v : VInstr} (h : v.dt ≠ 0xA) : dtIn v [0xA] = false :=
  dtIn_false (by simpa using fun e => h (BitVec.eq_of_toNat_eq e))

theorem dtIn_fp32_int_false {v : VInstr} (h1 : v.dt ≠ 1) (h10 : v.dt ≠ 0xA) : dtIn v [1, 0xA] = false :=
  dtIn_false (by simpa using ⟨fun e => h1 (BitVec.eq_of_toNat_eq e), fun e => h10 (BitVec.eq_of_toNat_eq e)⟩)

/-! ### An engine that may not issue -/

section
variable {s : State} {a : ArrId} (v : VInstr) (hheld : veReady s a = false)
include hheld

theorem vRun_held (legal : Bool) (o : ArrayUnit → VOut) : vRun s a v legal o = .next s := by
  simp [vRun, hheld]

theorem vAccess_held (wr : Bool) (lost : List (Fin 32)) (f : State → ArrayUnit → List (Nat × Nat) → State) :
    vAccess s a v wr lost f = .next s := by
  simp [vAccess, hheld]

theorem exec_psum_held (lost : List (Fin 32)) : exec (.psum a ⟨v, lost⟩) s = .next s := by
  change execPsum a ⟨v, lost⟩ s = _
  unfold execPsum
  dsimp only
  split
  · exact if_neg (by simp [hheld])
  · exact vAccess_held v hheld ..

theorem exec_ld_held (lost : List (Fin 32)) : exec (.ld a ⟨v, lost⟩) s = .next s := by
  obtain ⟨o, hexec, -⟩ := exec_ld a v lost s
  exact hexec.trans (vAccess_held v hheld ..)

theorem exec_expsort_held (lost : List (Fin 32)) : exec (.expsort a ⟨v, lost⟩) s = .next s := by
  change execExpsort a ⟨v, lost⟩ s = _
  unfold execExpsort
  exact if_pos (by rw [hheld]; rfl)

theorem exec_cld_held (lost : List (Fin 32)) : exec (.cld a ⟨v, lost⟩) s = .next s := by
  change execCld a ⟨v, lost⟩ s = _
  unfold execCld
  exact if_pos (by rw [hheld]; rfl)

theorem exec_rstat_held : exec (.rstat a v) s = .next s := by
  change execRstat a v s = _
  unfold execRstat
  exact if_pos (by rw [hheld]; rfl)

theorem exec_barinc_held : exec (.barinc a v) s = .next s := by
  change execBarinc a v s = _
  unfold execBarinc
  exact if_pos (by rw [hheld]; rfl)

theorem exec_mpos_held : exec (.mpos a v) s = .next s := by
  change execMpos a v s = _
  unfold execMpos
  split
  · simp [hheld]
  · exact vRun_held v hheld ..

theorem exec_mcmd_held : exec (.mcmd a v) s = .next s := by
  change execMcmd a v s = _
  unfold execMcmd
  dsimp only
  split <;> simp [hheld]

/-- Each asks first whether the engine may issue. -/
theorem exec_unitOps_held (lost : List (Fin 32)) : ∀ c ∈ unitOps a v lost, exec c s = .next s := by
  simp only [unitOps, List.forall_mem_cons]
  exact ⟨exec_psum_held v hheld lost, exec_expsort_held v hheld lost, exec_ld_held v hheld lost,
    (exec_st a v lost s).trans (vAccess_held v hheld ..), exec_cld_held v hheld lost, exec_rstat_held v hheld,
    exec_mpos_held v hheld, exec_mcmd_held v hheld, exec_barinc_held v hheld, fun _ h => nomatch h⟩

end

/-! ### NOP and BARINC -/

theorem exec_barinc {s : State} {a : ArrId} {w : ItemRun} (v : VInstr) (hready : veReady s a = true) (hitem : arrItem s a = some w) :
    exec (.barinc a v) s = .next (itemBarInc (vfinish s a v {}) w (v.aux.toNat % 256)) := by
  change execBarinc a v s = _
  simp [execBarinc, hready, hitem]

/-- A barrier raised changes the barrier counters alone (R153). -/
theorem itemBarInc_eq (s : State) (w : ItemRun) (k : Nat) :
    itemBarInc s w k = { s with bars := (itemBarInc s w k).bars } := by
  unfold itemBarInc
  split <;> rfl

/-- NOP and BARINC issue: what they change of the arrays and registers is what an instruction without a write changes. -/
theorem exec_nop_barinc {s : State} {a : ArrId} {v : VInstr} (hready : veReady s a = true) :
    ∀ c ∈ ([.nop a v, .barinc a v] : List Instr),
      ∃ n, exec c s = .next n ∧ n.arrays = (vfinish s a v {}).arrays ∧ n.regs = (vfinish s a v {}).regs := by
  obtain ⟨w, hitem⟩ := veReady_item hready
  have hinc := itemBarInc_eq (vfinish s a v {}) w (v.aux.toNat % 256)
  simp only [List.forall_mem_cons]
  exact ⟨⟨_, (exec_nop a v s).trans (vRun_legal hready _ rfl), rfl, rfl⟩,
    ⟨_, exec_barinc v hready hitem, by rw [hinc], by rw [hinc]⟩, fun _ h => nomatch h⟩

/-- Settles O14: one lemma on a lane for each operation, the forms that are not permitted, and an engine that may not issue. -/
theorem laneOperations : Obligations.LaneOperations := by
  refine ⟨fun a v s hready => ⟨fun hdt => ?cmpInt, fun hdt => ?cmpFp, fun hfmt => ?sel, fun hdt => ?sign, fun hdt haux => ?logic⟩,
    fun a v s hready hdt => ⟨?exp2, ?log2, ?rcp, ?rsqrt, ?sigm, ?tanh, ?expd⟩,
    fun a v s => ⟨fun hready => ⟨fun hdt c hc => ?fpFormat, fun h1 h10 => ?cmpFormat, fun hfmt => ?selFormat, fun h => ?logicFormat⟩,
      fun hheld lost c hc => ?held, fun hready c hc => ?issue⟩⟩
  case cmpInt =>
    exact laneResult_of_write hready (exec_cmp a v s) (dtIn_of_mem (by simp [hdt])) rfl fun _ _ => cmpLane_int hdt ..
  case cmpFp =>
    exact laneResult_of_write hready (exec_cmp a v s) (dtIn_of_mem (by simp [hdt])) rfl fun _ _ => cmpLane_fp32 hdt ..
  case sel => exact laneResult_of_write hready (exec_sel a v s) hfmt rfl fun _ _ => rfl
  case sign => exact laneResult_of_write hready (exec_sign a v s) (dtIn_of_mem (by simp [hdt])) rfl fun _ _ => rfl
  case logic =>
    have hform : (dtIn v [0xA] && decide (v.aux.toNat % 8 ≤ 5)) = true := by
      rw [dtIn_of_mem (by simp [hdt]), decide_eq_true haux, Bool.and_self]
    exact laneResult_of_write hready (exec_logic a v s) hform rfl fun _ _ => rfl
  case exp2 => exact sf_laneResult hready hdt (exec_exp2 a v s)
  case log2 => exact sf_laneResult hready hdt (exec_log2 a v s)
  case rcp => exact sf_laneResult hready hdt (exec_rcp a v s)
  case rsqrt => exact sf_laneResult hready hdt (exec_rsqrt a v s)
  case sigm => exact sf_laneResult hready hdt (exec_sigm a v s)
  case tanh => exact sf_laneResult hready hdt (exec_tanh a v s)
  case expd =>
    obtain ⟨o, hexec, hwrites⟩ := exec_expd a v s
    exact laneResult_of_write hready hexec (dtIn_of_mem (by simp [hdt])) (hwrites _) fun _ _ => rfl
  case fpFormat =>
    obtain ⟨o, hexec⟩ := fp32Only_run a v s c hc
    exact formFaults_of_illegal hready o hexec (dtIn_fp32_false hdt)
  case cmpFormat => exact formFaults_of_illegal hready _ (exec_cmp a v s) (dtIn_fp32_int_false h1 h10)
  case selFormat => exact formFaults_of_illegal hready _ (exec_sel a v s) hfmt
  case logicFormat =>
    refine formFaults_of_illegal hready _ (exec_logic a v s) ?_
    rcases h with hdt | haux
    · rw [dtIn_int_false hdt, Bool.false_and]
    · rw [decide_eq_false (Nat.not_le.2 haux), Bool.and_false]
  case held =>
    have hsplit : c ∈ registerOps a v ++ unitOps a v lost := hc
    rcases List.mem_append.1 hsplit with hc | hc
    · obtain ⟨legal, o, hexec⟩ := registerOps_run a v s c hc
      exact hexec.trans (vRun_held v hheld legal o)
    · exact exec_unitOps_held v hheld lost c hc
  case issue =>
    obtain ⟨n, hexec, harrays, hregs⟩ := exec_nop_barinc hready c hc
    have hunit : arr n a = issuedUnit (arr s a) v {} := by rw [arr_congr harrays, arr_vfinish]
    obtain ⟨-, -, -, -, -, hcounted, -⟩ := vfinish_vectorFrame s a v {}
    exact ⟨n, hexec, by rw [hunit]; rfl, by rw [hunit]; rfl, (regGet_congr hregs _).trans hcounted⟩

end Sys2Proof.Machine
end

section
/-! # Statistics, positions, mask commands and tree slots (O18) -/

namespace Sys2Proof.Machine

/-! ### Places of registers (R488) -/

theorem veReg_ne_mgenReg (a : ArrId) {x : Nat} (y : Nat) (hx : x < 0x100) : veReg a.val x ≠ mgenReg y := by
  have := a.isLt
  unfold veReg mgenReg
  omega

/-! ### RSTAT -/

/-- What SLOT_FAULT and SLOT_FAULT_WHERE show concerns neither memory nor arrays, nor the count of schedule faults (R228). -/
theorem slotShown_kept (s : State) (c : Prop) [Decidable c] (v x : Nat) :
    let t := if c then s else regSet (regSet s (furReg 0x060) v) (furReg 0x068) x
    t.mem = s.mem ∧ t.arrays = s.arrays ∧ regGet t (furReg 0x040) = regGet s (furReg 0x040) := by
  intro t
  unfold t
  split
  · exact ⟨rfl, rfl, rfl⟩
  · exact ⟨rfl, rfl, by rw [regGet_regSet_ne _ _ (by decide), regGet_regSet_ne _ _ (by decide)]⟩

/-- A slot fault is a schedule fault, which SLOT_FAULT and SLOT_FAULT_WHERE may show (R208, R228). -/
theorem slotFault_spec {s : State} {a : ArrId} {w : ItemRun} (hitem : arrItem s a = some w) (h : SlotHit) (unit clk tile : Nat) :
    rises (furReg 0x040) 1 s (slotFault s a h unit clk tile) ∧ (slotFault s a h unit clk tile).mem = s.mem
      ∧ ∀ b, (arr (slotFault s a h unit clk tile) b).vregs = (arr s b).vregs := by
  generalize hn : slotFault s a h unit clk tile = n
  unfold slotFault at hn
  split at hn
  case h_1 hnone => rw [hitem] at hnone; cases hnone
  case h_2 w' _ =>
    extract_lets pt v s1 at hn
    obtain ⟨hmem, harrays, hcount⟩ : s1.mem = s.mem ∧ s1.arrays = s.arrays
        ∧ regGet s1 (furReg 0x040) = regGet s (furReg 0x040) := slotShown_kept s _ v _
    obtain ⟨hrises, hmemFault, hvregs⟩ := schedFault_spec s1 w' pt tile v clk a.val
    rw [rises, hn, hcount] at hrises
    rw [hn] at hmemFault hvregs
    exact ⟨hrises, hmemFault.trans hmem, fun b => by rw [hvregs, arr_congr harrays]⟩

section
variable (u : ArrayUnit) (v : VInstr) (i : Nat)

/-- Whether row `i` of those that an RSTAT reads is one of the 256 and was written by the tile that EXT names (R119). -/
def rowWritten : Bool :=
  decide (bits v.ext.toNat 23 16 + i ≤ 255) && (match lookupN (bits v.ext.toNat 23 16 + i) u.stats with
    | some x => x.tag == some (bits v.ext.toNat 15 0)
    | none => false)

/-- Lane `i` of what an RSTAT writes (R171). -/
def rstatLane : Lane32 :=
  if i < bits v.ext.toNat 32 24 then (match lookupN (bits v.ext.toNat 23 16 + i) u.stats with
    | some x => statOf (v.aux.toNat % 4) x
    | none => 0) else 0

theorem rowWritten_iff : rowWritten u v i = true ↔ bits v.ext.toNat 23 16 + i ≤ 255
    ∧ ∃ x, lookupN (bits v.ext.toNat 23 16 + i) u.stats = some x ∧ x.tag = some (bits v.ext.toNat 15 0) := by
  unfold rowWritten
  cases lookupN (bits v.ext.toNat 23 16 + i) u.stats <;> simp

theorem rstatLane_of_lookup {x : RowStat} (hi : i < bits v.ext.toNat 32 24)
    (hx : lookupN (bits v.ext.toNat 23 16 + i) u.stats = some x) : rstatLane u v i = statOf (v.aux.toNat % 4) x := by
  simp only [rstatLane, hi, hx, if_true]

theorem rstatLane_beyond (hi : bits v.ext.toNat 32 24 ≤ i) : rstatLane u v i = 0 := if_neg (Nat.not_lt.2 hi)

end

section
variable {s : State} {a : ArrId} {v : VInstr} (hready : veReady s a = true)
include hready

theorem exec_rstat_illegal (h : v.dt ≠ 1 ∨ bits v.ext.toNat 32 24 = 0 ∨ 256 < bits v.ext.toNat 32 24 ∨ v.aux.toNat % 4 = 3) :
    exec (.rstat a v) s = .next (vIllegal s a v) := by
  change execRstat a v s = _
  unfold execRstat
  rw [if_neg (by simp [hready])]
  exact if_pos h

variable (hform : v.dt = 1 ∧ bits v.ext.toNat 32 24 ≠ 0 ∧ bits v.ext.toNat 32 24 ≤ 256 ∧ v.aux.toNat % 4 ≠ 3)
include hform

/-- RSTAT writes VD alone where the tile wrote every row, and is a fault of the slot checker elsewhere (R119, R171, R208). -/
theorem exec_rstat : ∃ h clk tile, exec (.rstat a v) s
    = if (List.range (bits v.ext.toNat 32 24)).all (rowWritten (arr s a) v) = true then
        .next (vfinish s a v { writes := [(v.vd, vmk (rstatLane (arr s a) v))] })
      else .next (slotFault (tickFree s) a h 3 clk tile) := by
  obtain ⟨hdt, hk, hmax, hkind⟩ := hform
  change ∃ h clk tile, execRstat a v s = _
  unfold execRstat
  rw [if_neg (by simp [hready])]
  refine ⟨_, _, _, (if_neg ?_).trans rfl⟩
  simp only [not_or]
  exact ⟨not_not.2 hdt, hk, Nat.not_lt.2 hmax, hkind⟩

theorem exec_rstat_present
    (hrows : ∀ i, i < bits v.ext.toNat 32 24 → bits v.ext.toNat 23 16 + i ≤ 255
      ∧ ∃ x, lookupN (bits v.ext.toNat 23 16 + i) (arr s a).stats = some x ∧ x.tag = some (bits v.ext.toNat 15 0)) :
    ∃ n, exec (.rstat a v) s = .next n ∧ vectorFrame a [v.vd] s n
      ∧ ∀ i, i < 512 → lane (vget (arr n a) v.vd) i = rstatLane (arr s a) v i := by
  obtain ⟨_, _, _, hexec⟩ := exec_rstat hready hform
  have hall : (List.range (bits v.ext.toNat 32 24)).all (rowWritten (arr s a) v) = true :=
    List.all_eq_true.2 fun i hi => (rowWritten_iff ..).2 (hrows i (List.mem_range.1 hi))
  refine ⟨_, hexec.trans (if_pos hall), vfinish_frame_of_writes s a v rfl, fun i hi => ?_⟩
  rw [vget_vfinish_single s a v rfl, lane_vmk _ hi]

/-- A statistic beyond row 255, unwritten or of another tile is a fault of the slot checker (R119, R208). -/
theorem formFaults_rstat_missing
    (hrow : ∃ i, i < bits v.ext.toNat 32 24 ∧ (255 < bits v.ext.toNat 23 16 + i
      ∨ ∀ x, lookupN (bits v.ext.toNat 23 16 + i) (arr s a).stats = some x → x.tag ≠ some (bits v.ext.toNat 15 0))) :
    formFaults (.rstat a v) s := by
  obtain ⟨w, hitem⟩ := veReady_item hready
  obtain ⟨h, clk, tile, hexec⟩ := exec_rstat hready hform
  have hnot : ¬ (List.range (bits v.ext.toNat 32 24)).all (rowWritten (arr s a) v) = true := fun hall => by
    obtain ⟨i, hi, hbad⟩ := hrow
    obtain ⟨hin, x, hx, htag⟩ := (rowWritten_iff ..).1 (List.all_eq_true.1 hall i (List.mem_range.2 hi))
    rcases hbad with hout | hbad
    · exact Nat.not_lt.2 hin hout
    · exact hbad x hx htag
  exact ⟨_, hexec.trans (if_neg hnot), slotFault_spec (s := tickFree s) hitem h 3 clk tile⟩

end

/-! ### MPOS -/

section
variable {a : ArrId} {v : VInstr} {s : State}

/-- MPOS writes the positions of a chunk's tokens to VD, and 0 beyond the chunk (R181). -/
theorem exec_mpos {g : Fin 8} (hslot : itemMgen s a (bits v.ext.toNat 26 24) = some g) :
    ∃ o, exec (.mpos a v) s = vRun s a v (dtIn v [0xA]) o ∧ ∀ u, (o u).writes = [(v.vd, vmk (fun i =>
      if bits v.ext.toNat 23 0 + i < (s.mgen[g]).tokens then
        BitVec.ofNat 32 ((s.mgen[g]).prefixLen
          + (if (s.mgen[g]).tree then nthD 0 (s.mgen[g]).depth (bits v.ext.toNat 23 0 + i) else bits v.ext.toNat 23 0 + i))
      else 0))] := by
  change ∃ o, execMpos a v s = _ ∧ _
  unfold execMpos
  rw [hslot]
  exact ⟨_, rfl, fun _ => rfl⟩

theorem mpos_lanes {g : Fin 8} (hready : veReady s a = true) (hslot : itemMgen s a (bits v.ext.toNat 26 24) = some g)
    (hdt : v.dt = 0xA) :
    ∃ n, exec (.mpos a v) s = .next n ∧ vectorFrame a [v.vd] s n
      ∧ ∀ i, i < 512 → lane (vget (arr n a) v.vd) i
        = if bits v.ext.toNat 23 0 + i < (s.mgen[g]).tokens then
            BitVec.ofNat 32 ((s.mgen[g]).prefixLen
              + (if (s.mgen[g]).tree then nthD 0 (s.mgen[g]).depth (bits v.ext.toNat 23 0 + i) else bits v.ext.toNat 23 0 + i))
          else 0 := by
  obtain ⟨o, hexec, hwrites⟩ := exec_mpos hslot
  refine ⟨_, hexec.trans (vRun_legal hready o (dtIn_of_mem (by simp [hdt]))), vfinish_frame_of_writes s a v (hwrites _),
    fun i hi => ?_⟩
  rw [vget_vfinish_single s a v (hwrites _), lane_vmk _ hi]

theorem formFaults_mpos (hready : veReady s a = true)
    (h : itemMgen s a (bits v.ext.toNat 26 24) = none ∨ v.dt ≠ 0xA) : formFaults (.mpos a v) s := by
  cases hslot : itemMgen s a (bits v.ext.toNat 26 24) with
  | none =>
    refine formFaults_of_vIllegal (v := v) hready ?_
    change execMpos a v s = _
    simp [execMpos, hslot, hready]
  | some g =>
    obtain ⟨o, hexec, -⟩ := exec_mpos hslot
    exact formFaults_of_illegal hready o hexec (dtIn_int_false (h.resolve_left (by simp [hslot])))

end

/-! ### MCMD -/

/-- The mask generator fills an array's buffer and takes its commands, and changes nothing else of it (R184). -/
theorem fillMasks_eq (mg : Vector MgenSlot 8) (t : Nat) (u : ArrayUnit) :
    (fillMasks mg t u).1 = { u with
      maskq := (fillMasks mg t u).1.maskq, maskAt := (fillMasks mg t u).1.maskAt, maskBuf := (fillMasks mg t u).1.maskBuf } := by
  unfold fillMasks
  generalize 258 + u.maskq.length = fuel
  induction fuel generalizing u with
  | zero => rfl
  | succ fuel ih =>
    unfold fillMasksN
    split
    · rfl
    · extract_lets q w r
      split
      · exact ih _
      · split
        · rfl
        · exact ih _

/-- A buffer that is full takes nothing, while the command in front has words to deliver (R184). -/
theorem fillMasks_full {mg : Vector MgenSlot 8} {t : Nat} {u : ArrayUnit} {c : MaskCmd} {rest : List MaskCmd}
    (hq : u.maskq = c :: rest) (hwords : c.next < nthD 0 u.maskRows c.no) (hfull : 256 ≤ u.maskBuf.length) :
    fillMasks mg t u = (u, 0) := by
  have hfuel : 258 + u.maskq.length = (257 + u.maskq.length) + 1 := by omega
  rw [fillMasks, hfuel, fillMasksN, hq]
  dsimp only
  rw [if_neg (Nat.not_le.2 hwords), if_pos (.inl hfull)]

/-- The mask command that an MCMD gives to slot `g` (R183). -/
def mcmdOf (u : ArrayUnit) (v : VInstr) (g : Fin 8) : MaskCmd :=
  { mode := bits v.ext.toNat 63 62, qshift := bits v.ext.toNat 60 58, slot := g.val, k0 := bits v.ext.toNat 47 24
    q0 := bits v.ext.toNat 23 0, no := u.maskNo, at_ := veIssueClk u v }

/-- The array once an MCMD has joined its queue, and the words that are delivered then (R183, R184). -/
def mcmdFilled (s : State) (a : ArrId) (v : VInstr) (g : Fin 8) : ArrayUnit × Nat :=
  fillMasks s.mgen (veIssueClk (arr s a) v)
    { arr s a with maskq := (arr s a).maskq ++ [mcmdOf (arr s a) v g], maskNo := (arr s a).maskNo + 1 }

/-- The state once an MCMD has joined the queue of its array. -/
def mcmdQueued (s : State) (a : ArrId) (v : VInstr) (g : Fin 8) : State :=
  regBump (setArr s a (mcmdFilled s a v g).1) (mgenReg 0x10) (mcmdFilled s a v g).2

section
variable {s : State} {a : ArrId} {v : VInstr} {g : Fin 8}

theorem exec_mcmd (hready : veReady s a = true) (hslot : itemMgen s a (bits v.ext.toNat 55 53) = some g)
    (hmode : bits v.ext.toNat 63 62 ≠ 3) : exec (.mcmd a v) s = .next (vfinish (mcmdQueued s a v g) a v {}) := by
  change execMcmd a v s = _
  unfold execMcmd
  simp only [hslot, hready, Bool.not_true, Bool.false_eq_true, if_false, if_neg hmode]
  rfl

theorem exec_mcmd_illegal (hready : veReady s a = true)
    (h : itemMgen s a (bits v.ext.toNat 55 53) = none ∨ bits v.ext.toNat 63 62 = 3) :
    exec (.mcmd a v) s = .next (vIllegal s a v) := by
  change execMcmd a v s = _
  unfold execMcmd
  cases hslot : itemMgen s a (bits v.ext.toNat 55 53) with
  | none => simp [hslot, hready]
  | some g =>
    have hmode : bits v.ext.toNat 63 62 = 3 := h.resolve_left (by simp [hslot])
    simp [hslot, hready, hmode]

variable (s a v g)

theorem mcmdQueued_arraysRegs : ArraysRegs s (mcmdQueued s a v g) :=
  ArraysRegs.trans s (setArr s a (mcmdFilled s a v g).1) _ rfl (regBump_arraysRegs ..)

theorem arr_mcmdQueued : arr (mcmdQueued s a v g) a = (mcmdFilled s a v g).1 := by
  rw [mcmdQueued, arr_congr (regBump_arrays ..), arr_setArr]

theorem mcmdQueued_arrsBut : arrsBut a s (mcmdQueued s a v g) := fun b hb => by
  rw [mcmdQueued, arr_congr (regBump_arrays ..), arr_setArr_ne _ _ _ _ hb]

theorem regGet_mcmdQueued (o : Nat) : regGet (mcmdQueued s a v g) o
    = if o = mgenReg 0x10 then (regGet s (mgenReg 0x10) + (mcmdFilled s a v g).2) % 2 ^ 64 else regGet s o := by
  rw [mcmdQueued, regGet_regBump]
  rfl

theorem regGet_vfinish_quiet (k o : Nat) : regGet (vfinish s a v { issue := k }) o
    = if o = veReg a.val 0x08 then (regGet s (veReg a.val 0x08) + 1) % 2 ^ 64 else regGet s o := by
  rw [vfinish_quiet, regGet_regBump]
  rfl

theorem vfinish_quiet_arraysRegs (k : Nat) : ArraysRegs s (vfinish s a v { issue := k }) := by
  rw [vfinish_quiet]
  exact ArraysRegs.trans s (setArr s a _) _ rfl (regBump_arraysRegs ..)

theorem mcmdFilled_vregs : (mcmdFilled s a v g).1.vregs = (arr s a).vregs := by
  rw [mcmdFilled, fillMasks_eq]

theorem mcmdFilled_maskNo : (mcmdFilled s a v g).1.maskNo = (arr s a).maskNo + 1 := by
  rw [mcmdFilled, fillMasks_eq]

/-- MCMD changes its array's masks and place, and two counters (R164, R184, R189). -/
theorem mcmd_issued :
    let u := arr s a
    let r := mcmdFilled s a v g
    let n := vfinish (mcmdQueued s a v g) a v {}
    n = { s with arrays := n.arrays, regs := n.regs } ∧ arrsBut a s n
      ∧ arr n a = { r.1 with vpos := u.vpos + 1, veClk := (arr n a).veClk, ve := if u.vpos + 1 = u.vlen then .idle else u.ve }
      ∧ rises (mgenReg 0x10) r.2 s n ∧ rises (veReg a.val 0x08) 1 s n ∧ regsBut [mgenReg 0x10, veReg a.val 0x08] s n := by
  intro u r n
  have hregs : ∀ o, regGet n o = if o = veReg a.val 0x08 then (regGet (mcmdQueued s a v g) (veReg a.val 0x08) + 1) % 2 ^ 64
      else regGet (mcmdQueued s a v g) o := regGet_vfinish_quiet _ a v 1
  have hne : veReg a.val 0x08 ≠ mgenReg 0x10 := veReg_ne_mgenReg a _ (by decide)
  refine ⟨?fields, ?others, ?unit, ?words, ?counted, fun o ho => ?regs⟩
  case fields => exact (mcmdQueued_arraysRegs s a v g).trans _ _ _ (vfinish_quiet_arraysRegs _ a v 1)
  case others => exact arrsBut_trans (mcmdQueued_arrsBut s a v g) (vfinish_quiet_storeFrame _ a v 1).others
  case unit =>
    have hunit : arr n a = issuedUnit r.1 v {} := by rw [arr_vfinish, arr_mcmdQueued]
    rw [hunit, show r.1 = _ from fillMasks_eq ..]
    rfl
  case words => rw [rises, hregs, if_neg hne.symm, regGet_mcmdQueued, if_pos rfl]
  case counted => rw [rises, hregs, if_pos rfl, regGet_mcmdQueued, if_neg hne]
  case regs =>
    simp only [List.mem_cons, List.not_mem_nil, or_false, not_or] at ho
    rw [hregs, if_neg ho.2, regGet_mcmdQueued, if_neg ho.1]

/-- A command that meets a full buffer waits (R184). -/
theorem mcmdFilled_full (hq : (arr s a).maskq = []) (hfull : 256 ≤ (arr s a).maskBuf.length)
    (hrows : nthD 0 (arr s a).maskRows (arr s a).maskNo ≠ 0) :
    mcmdFilled s a v g
      = ({ arr s a with maskq := [mcmdOf (arr s a) v g], maskNo := (arr s a).maskNo + 1 }, 0) := by
  unfold mcmdFilled
  rw [hq]
  exact fillMasks_full rfl (Nat.pos_of_ne_zero hrows) hfull

end

/-! ### NOP and BARINC, and the load of a tree slot -/

/-- BARINC changes its array's place, its counter and the barrier (R153, R164). -/
theorem barinc_issued {s : State} {a : ArrId} {v : VInstr} {w : ItemRun} {b : Nat} (hready : veReady s a = true)
    (hitem : arrItem s a = some w) (hbar : w.barMap[v.aux.toNat % 256]? = some b) :
    ∃ n, exec (.barinc a v) s = .next n ∧ n = { s with arrays := n.arrays, regs := n.regs, bars := n.bars }
      ∧ arrsBut a s n ∧ (arr n a).vregs = (arr s a).vregs ∧ (arr n a).vpos = (arr s a).vpos + 1
      ∧ n.bars = (barInc s b).bars := by
  have hinc : itemBarInc (vfinish s a v {}) w (v.aux.toNat % 256) = barInc (vfinish s a v {}) b := by
    simp only [itemBarInc, hbar]
  have hquiet : ArraysRegs s (vfinish s a v {}) := vfinish_quiet_arraysRegs s a v 1
  have hunit : arr (barInc (vfinish s a v {}) b) a = issuedUnit (arr s a) v {} := arr_vfinish ..
  refine ⟨barInc (vfinish s a v {}) b, (exec_barinc v hready hitem).trans (by rw [hinc]), ?_,
    (vfinish_quiet_storeFrame s a v 1).others, by rw [hunit]; rfl, by rw [hunit]; rfl, ?_⟩
  · unfold barInc
    rw [hquiet]
  · unfold barInc
    rw [hquiet]

/-- The tree slot that MGEN_LOAD leaves: loaded from its parent list in two passes (R181). -/
def treeLoaded (m : MgenSlot) : MgenSlot :=
  let size := treeSizes m.parents m.parents.length (List.replicate m.parents.length 1)
  let pd := treePre m.parents size m.parents.length 0 0 [] [] []
  { m with size := size, pre := pd.1, depth := pd.2, tokens := m.parents.length, loaded := true }

theorem exec_mgenLoad {g : Fin 8} {s : State} (hbusy : (s.mgen[g]).busy ≠ none) (htree : (s.mgen[g]).tree = true)
    (hloaded : (s.mgen[g]).loaded = false) :
    exec (.mgenLoad g) s = .next (regBump { s with mgen := s.mgen.set g (treeLoaded (s.mgen[g])) } (mgenReg 0x08) 1) := by
  change execMgenLoad g s = _
  exact if_pos ⟨Option.isSome_iff_ne_none.2 hbusy, htree, by rw [hloaded]; rfl⟩

theorem mgen_set_self (ms : Vector MgenSlot 8) (g : Fin 8) (m : MgenSlot) : (ms.set g m)[g] = m := by simp

theorem mgen_set_ne (ms : Vector MgenSlot 8) {g h : Fin 8} (m : MgenSlot) (hne : h ≠ g) : (ms.set g m)[h] = ms[h] := by
  have hval : g.val ≠ h.val := fun e => hne (Fin.ext e.symm)
  simp [hval]

/-- Settles O18: a lemma for each instruction's permitted form, and the forms that are not permitted. -/
theorem tableInstructions : Obligations.TableInstructions := by
  refine ⟨fun a v s g hready => ?tables, fun a v s w hready hitem => ⟨?nop, fun b hbar => barinc_issued hready hitem hbar⟩,
    fun g s => ?load⟩
  case tables =>
    intro u e k m0 m
    refine ⟨fun ⟨hdt, hk, hmax, hkind, hrows⟩ => ?rstat,
      fun ⟨hdt, hk, hmax, hkind, hrow⟩ => formFaults_rstat_missing hready ⟨hdt, hk, hmax, hkind⟩ hrow,
      fun hslot hdt => mpos_lanes hready hslot hdt, fun hslot hmode => ?mcmd,
      fun h => formFaults_of_vIllegal hready (exec_rstat_illegal hready h), formFaults_mpos hready,
      fun h => formFaults_of_vIllegal hready (exec_mcmd_illegal hready h)⟩
    case rstat =>
      obtain ⟨n, hexec, hframe, hlanes⟩ := exec_rstat_present hready ⟨hdt, hk, hmax, hkind⟩ hrows
      exact ⟨n, hexec, hframe, fun i hi => ⟨fun x hwithin hx => (hlanes i hi).trans (rstatLane_of_lookup _ v i hwithin hx),
        fun hbeyond => (hlanes i hi).trans (rstatLane_beyond _ v i hbeyond)⟩⟩
    case mcmd =>
      intro c r
      obtain ⟨hfields, hothers, hunit, hwords, hcounted, hregs⟩ := mcmd_issued s a v g
      refine ⟨_, exec_mcmd hready hslot hmode, hfields, hothers, hunit, hwords, hcounted, hregs, ?_, ?_, fun hq hfull hrows => ?_⟩
      · rw [hunit]
        exact mcmdFilled_vregs s a v g
      · rw [hunit]
        exact mcmdFilled_maskNo s a v g
      · rw [hunit, mcmdFilled_full s a v g hq hfull hrows]
        rfl
  case nop => exact ⟨_, (exec_nop a v s).trans (vRun_legal hready _ rfl), vfinish_vectorFrame s a v {}⟩
  case load =>
    intro m hbusy htree hloaded
    have hslot : ∀ h : Fin 8, (regBump { s with mgen := s.mgen.set g (treeLoaded m) } (mgenReg 0x08) 1).mgen[h]
        = (s.mgen.set g (treeLoaded m))[h] := fun h => by rw [regBump_mgen]
    refine ⟨_, exec_mgenLoad hbusy htree hloaded, ?_, fun h hne => ?_, ?_, ?_, ?_, ?_, ?_⟩
    · rw [regBump_mgen]; exact regBump_eq ..
    · rw [hslot, mgen_set_ne _ _ hne]
    · rw [hslot, mgen_set_self]; rfl
    · rw [hslot, mgen_set_self]; rfl
    · rw [hslot, mgen_set_self]; rfl
    · rw [rises, regGet_regBump, if_pos rfl]; rfl
    · exact regsBut_regBump _ _ List.mem_cons_self

end Sys2Proof.Machine
end

section
/-! # Segments, and what the table instructions give them (O15) -/

namespace Sys2Proof.Machine

section
variable {s : State} {a : ArrId} {v : VInstr} (hready : veReady s a = true)
include hready

theorem red_lanes (hdt : v.dt = 1 ∨ v.dt = 0xA) (hmin : 1 ≤ v.seg.toNat) (hmax : v.seg.toNat ≤ 9) :
    ∃ n, exec (.red a v) s = .next n ∧ vectorFrame a [v.vd] s n
      ∧ ∀ i, i < 512 → lane (vget (arr n a) v.vd) i = (redSegment (decide (v.dt = 0xA)) (v.aux.toNat % 4) v.seg.toNat
          (segmentOf (vget (arr s a) v.va) v.seg.toNat (i / 2 ^ v.seg.toNat))).1 := by
  obtain ⟨o, hexec, hwrites⟩ := exec_red a v s
  have hfmt : dtIn v [1, 0xA] = true := dtIn_of_mem (by rcases hdt with h | h <;> simp [h])
  refine ⟨_, hexec.trans (vRun_legal hready o (by simp [hfmt, hmin, hmax])), vfinish_frame_of_writes s a v (hwrites _),
    fun i hi => ?_⟩
  rw [vget_vfinish_single s a v (hwrites _), lane_vmk _ hi, redResults_at hi hmax]

theorem formFaults_red (h : (v.dt ≠ 1 ∧ v.dt ≠ 0xA) ∨ v.seg = 0 ∨ 9 < v.seg.toNat) : formFaults (.red a v) s := by
  obtain ⟨o, hexec, -⟩ := exec_red a v s
  refine formFaults_of_illegal hready o hexec ?_
  rcases h with ⟨h1, h10⟩ | hseg | hseg
  · simp [dtIn_fp32_int_false h1 h10]
  · simp [hseg]
  · simp [Nat.not_le.2 hseg]

theorem topk_lanes (hdt : v.dt = 1) (hseg : v.seg.toNat ≤ 9) (hmin : 1 ≤ v.aux.toNat % 32) (hmax : v.aux.toNat % 32 ≤ 16)
    (hfit : v.aux.toNat % 32 ≤ 2 ^ v.seg.toNat) (hlast : v.vd ≠ 31) :
    ∃ n, exec (.topk a v) s = .next n ∧ vectorFrame a [v.vd, v.vd + 1] s n
      ∧ ∀ i, i < 512 →
          let rank := (segmentRanks (arr s a) v (i / 2 ^ v.seg.toNat))[i % 2 ^ v.seg.toNat]?
          lane (vget (arr n a) v.vd) i = rankValue rank ∧ lane (vget (arr n a) (v.vd + 1)) i = rankPlace rank := by
  obtain ⟨o, hexec, hwrites⟩ := exec_topk a v s
  have hfmt : dtIn v [1] = true := dtIn_of_mem (by simp [hdt])
  obtain ⟨hvalues, hplaces⟩ := vget_vfinish_pair s a v (hwrites (arr s a)) (register_ne_succ v.vd)
  refine ⟨_, hexec.trans (vRun_legal hready o (by simp [hfmt, hseg, hmin, hmax, hfit, hlast])),
    vfinish_frame_of_writes s a v (hwrites _), fun i hi => ?_⟩
  rw [hvalues, hplaces, lane_vmk _ hi, lane_vmk _ hi, rankAt_eq hi hseg]
  exact ⟨rfl, rfl⟩

theorem formFaults_topk (h : v.dt ≠ 1 ∨ 9 < v.seg.toNat ∨ v.aux.toNat % 32 = 0 ∨ 16 < v.aux.toNat % 32
    ∨ 2 ^ v.seg.toNat < v.aux.toNat % 32 ∨ v.vd = 31) : formFaults (.topk a v) s := by
  obtain ⟨o, hexec, -⟩ := exec_topk a v s
  refine formFaults_of_illegal hready o hexec ?_
  rcases h with hdt | hseg | hmin | hmax | hfit | hlast
  · simp [dtIn_fp32_false hdt]
  · simp [Nat.not_le.2 hseg]
  · simp [hmin]
  · simp [Nat.not_le.2 hmax]
  · simp [Nat.not_le.2 hfit]
  · simp [hlast]

theorem rope_lanes (hdt : v.dt = 1) (hmin : 1 ≤ v.seg.toNat) (hmax : v.seg.toNat ≤ 9) :
    ∃ n, exec (.rope a v) s = .next n ∧ vectorFrame a [v.vd] s n
      ∧ ∀ i, i < 512 → lane (vget (arr n a) v.vd) i = (ropeLane (arr s a) v i).1 := by
  obtain ⟨o, hexec, hwrites⟩ := exec_rope a v s
  have hfmt : dtIn v [1] = true := dtIn_of_mem (by simp [hdt])
  refine ⟨_, hexec.trans (vRun_legal hready o (by simp [hfmt, hmin, hmax])), vfinish_frame_of_writes s a v (hwrites _),
    fun i hi => ?_⟩
  rw [vget_vfinish_single s a v (hwrites _), lane_vmk _ hi]

theorem formFaults_rope (h : v.dt ≠ 1 ∨ v.seg = 0 ∨ 9 < v.seg.toNat) : formFaults (.rope a v) s := by
  obtain ⟨o, hexec, -⟩ := exec_rope a v s
  refine formFaults_of_illegal hready o hexec ?_
  rcases h with hdt | hseg | hseg
  · simp [dtIn_fp32_false hdt]
  · simp [hseg]
  · simp [Nat.not_le.2 hseg]

/-- An RSTAT of one row (R171). -/
theorem rstat_one_row (hdt : v.dt = 1) (hone : bits v.ext.toNat 32 24 = 1) (haux : v.aux = 0) {x : RowStat}
    (hx : lookupN (bits v.ext.toNat 23 16) (arr s a).stats = some x) (htag : x.tag = some (bits v.ext.toNat 15 0)) :
    ∃ n, exec (.rstat a v) s = .next n ∧ vectorFrame a [v.vd] s n
      ∧ ∀ i, i < 512 → lane (vget (arr n a) v.vd) i = if i = 0 then statOf 0 x else 0 := by
  have hrow : bits v.ext.toNat 23 16 ≤ 255 := Nat.le_of_lt_succ (bits_lt ..)
  obtain ⟨n, hexec, hframe, hlanes⟩ := exec_rstat_present hready ⟨hdt, by omega, by omega, by simp [haux]⟩ fun i hi => by
    obtain rfl : i = 0 := by omega
    exact ⟨hrow, x, hx, htag⟩
  refine ⟨n, hexec, hframe, fun i hi => ?_⟩
  rw [hlanes i hi]
  split
  case isTrue h =>
    subst h
    rw [rstatLane_of_lookup _ v 0 (by omega) hx, haux]
    rfl
  case isFalse h => exact rstatLane_beyond _ v i (by omega)

/-- An MPOS whose tokens lie beyond the chunk (R181). -/
theorem mpos_beyond {g : Fin 8} (hslot : itemMgen s a (bits v.ext.toNat 26 24) = some g) (hdt : v.dt = 0xA)
    (htokens : (s.mgen[g]).tokens ≤ bits v.ext.toNat 23 0) :
    ∃ n, exec (.mpos a v) s = .next n ∧ vectorFrame a [v.vd] s n ∧ ∀ i, i < 512 → lane (vget (arr n a) v.vd) i = 0 := by
  obtain ⟨n, hexec, hframe, hlanes⟩ := mpos_lanes hready hslot hdt
  exact ⟨n, hexec, hframe, fun i hi => (hlanes i hi).trans (if_neg (by omega))⟩

/-- An MCMD that meets a full buffer (R184). -/
theorem mcmd_waits {g : Fin 8} (hslot : itemMgen s a (bits v.ext.toNat 55 53) = some g) (hmode : bits v.ext.toNat 63 62 ≠ 3)
    (hq : (arr s a).maskq = []) (hfull : 256 ≤ (arr s a).maskBuf.length) (hrows : nthD 0 (arr s a).maskRows (arr s a).maskNo ≠ 0) :
    ∃ n, exec (.mcmd a v) s = .next n ∧ (arr n a).vregs = (arr s a).vregs ∧ (arr n a).maskNo = (arr s a).maskNo + 1
      ∧ (arr n a).maskq.length = 1 ∧ (arr n a).maskBuf = (arr s a).maskBuf := by
  obtain ⟨-, -, hunit, -⟩ := mcmd_issued s a v g
  rw [mcmdFilled_full s a v g hq hfull hrows] at hunit
  refine ⟨_, exec_mcmd hready hslot hmode, ?_, ?_, ?_, ?_⟩ <;> rw [hunit]
  rfl

end

/-- Settles O15: a lemma for each instruction's permitted form, and the forms that are not permitted. -/
theorem segmentInstructions : Obligations.SegmentInstructions := by
  intro a v s hready u x w k seg far first
  refine ⟨fun ⟨hdt, hmin, hmax⟩ => red_lanes hready hdt hmin hmax,
    fun ⟨hdt, hseg, hmin, hmax, hfit, hlast⟩ => ?topk, fun ⟨hdt, hmin, hmax⟩ => ?rope, formFaults_rope hready,
    formFaults_red hready, formFaults_topk hready,
    fun ⟨hdt, hone, haux⟩ x hx htag => rstat_one_row hready hdt hone haux hx htag,
    fun g hslot hdt htokens => mpos_beyond hready hslot hdt htokens,
    fun g hslot hmode hq hfull hrows => mcmd_waits hready hslot hmode hq hfull hrows,
    fun g hbusy htree hloaded => ⟨_, exec_mgenLoad hbusy htree hloaded, ?loaded, ?tokens⟩⟩
  case topk =>
    obtain ⟨n, hexec, hframe, hlanes⟩ := topk_lanes hready hdt hseg hmin hmax hfit hlast
    refine ⟨n, hexec, hframe, fun i hi => ?_⟩
    have hi := hlanes i hi
    split
    case h_1 p hp =>
      have hrank : (segmentRanks (arr s a) v (i / 2 ^ v.seg.toNat))[i % 2 ^ v.seg.toNat]? = some p := hp
      rwa [hrank] at hi
    case h_2 hp =>
      have hrank : (segmentRanks (arr s a) v (i / 2 ^ v.seg.toNat))[i % 2 ^ v.seg.toNat]? = none := hp
      rwa [hrank] at hi
  case rope =>
    obtain ⟨n, hexec, hframe, hlanes⟩ := rope_lanes hready hdt hmin hmax
    refine ⟨n, hexec, hframe, fun i hi => ?_⟩
    rw [hlanes i hi]
    unfold ropeLane ropeFirst
    rw [half_two_pow hmin]
  case loaded => rw [regBump_mgen, mgen_set_self]; rfl
  case tokens => rw [regBump_mgen, mgen_set_self]; rfl

end Sys2Proof.Machine
end

section
/-! # EXPSORT (O19)

The four lists are one run of bytes put into four ranges in order, so that what a store into ranges keeps (O17) holds of them. -/

namespace Sys2Proof.Machine

/-! ### Bytes of numbers (R13) -/

theorem toLE_length (n x : Nat) : (toLE n x).length = n := by
  induction n generalizing x with
  | zero => rfl
  | succ n ih => rw [toLE, List.length_cons, ih]

theorem ofLE_toLE (n x : Nat) : ofLE (toLE n x) = x % 256 ^ n := by
  induction n generalizing x with
  | zero => simp [toLE, ofLE, Nat.mod_one]
  | succ n ih =>
    have hbyte : (BitVec.ofNat 8 x).toNat = x % 256 := BitVec.toNat_ofNat ..
    rw [toLE, ofLE, ih, hbyte, Nat.pow_succ', Nat.mod_mul]

/-- Elements of one size laid one after another: the bytes of element `i`. -/
theorem flatMap_element {α β : Type} {f : α → List β} {k : Nat} (hf : ∀ x, (f x).length = k) {xs : List α} {i : Nat} {x : α}
    (hx : xs[i]? = some x) : ((xs.flatMap f).drop (k * i)).take k = f x := by
  induction xs generalizing i with
  | nil => cases hx
  | cons y ys ih =>
    cases i with
    | zero =>
      obtain rfl : y = x := Option.some.inj hx
      rw [List.flatMap_cons, Nat.mul_zero, List.drop_zero, ← hf y, List.take_left]
    | succ i =>
      have hskip : k * (i + 1) = (f y).length + k * i := by rw [hf, Nat.mul_succ, Nat.add_comm]
      rw [List.flatMap_cons, hskip, List.drop_length_add_append]
      exact ih hx

theorem flatMap_length {α β : Type} {f : α → List β} {k : Nat} (hf : ∀ x, (f x).length = k) (xs : List α) :
    (xs.flatMap f).length = k * xs.length := by
  rw [List.length_flatMap, List.map_congr_left fun x _ => hf x, List.map_const', List.sum_replicate, smul_eq_mul, Nat.mul_comm]

/-- Bytes read from within a run that is read. -/
theorem cellReads_within (m : List Host.Cell) (x i n k : Nat) (h : i + n ≤ k) :
    cellReads m (x + i) n = ((cellReads m x k).drop i).take n := by
  induction k generalizing x i n with
  | zero =>
    obtain ⟨rfl, rfl⟩ : i = 0 ∧ n = 0 := by omega
    rfl
  | succ k ih =>
    rw [cellReads]
    cases i with
    | zero =>
      cases n with
      | zero => rfl
      | succ n =>
        rw [List.drop_zero, List.take_succ_cons, cellReads, Nat.add_zero]
        congr 1
        have h' := ih (x + 1) 0 n (by omega)
        rwa [List.drop_zero, Nat.add_zero] at h'
    | succ i =>
      rw [List.drop_succ_cons, ← ih (x + 1) i n (by omega)]
      congr 1
      omega

/-! ### Ranges put in order -/

theorem storeRanges_append {a : ArrId} {s : State} {x n : Nat} {rs : List (Nat × Nat)} {bs cs : List Byte} (h : bs.length = n) :
    storeRanges a s ((x, n) :: rs) (bs ++ cs) = storeRanges a (spadStore s a x bs) rs cs := by
  rw [storeRanges, ← h, List.take_left, List.drop_left]

theorem storeRanges_single {a : ArrId} {s : State} {x n : Nat} {bs : List Byte} (h : bs.length = n) :
    storeRanges a s [(x, n)] bs = spadStore s a x bs := by
  rw [storeRanges, ← h, List.take_length, storeRanges]

/-- Bytes put into banks that are ON leave the banks as they were. -/
theorem spadPut_banks_of_on (r : ArrayUnit × Nat) (x : Nat) (bs : List Byte) (hon : ∀ b : Fin 32, (r.1.banks[b]).power = .on) :
    (spadPut r x bs).1.banks = r.1.banks := by
  induction bs generalizing r x with
  | nil => rfl
  | cons b bs ih =>
    have hput : (spadPutByte r x b).1.banks = r.1.banks := by rw [spadPutByte_spad_of_on r x b (hon _)]
    exact (ih _ _ (by rw [hput]; exact hon)).trans hput

/-- A scratchpad whose banks are all ON, so that bytes put are bytes read (R138). -/
def Awake (u : ArrayUnit) : Prop := memWf u.spad = true ∧ ∀ b : Fin 32, (u.banks[b]).power = .on

theorem Awake.spadPut {u : ArrayUnit} (h : Awake u) (x : Nat) (bs : List Byte) : Awake (spadPut (u, 0) x bs).1 :=
  ⟨memWf_spadPut (u, 0) x bs h.1, fun b => by rw [spadPut_banks_of_on (u, 0) x bs h.2]; exact h.2 b⟩

/-- The range put last is read back. -/
theorem cellReads_putRanges_last {u : ArrayUnit} {rs : List (Nat × Nat)} {bs : List Byte} (hu : Awake u)
    (hlen : (rs.map (·.2)).sum = bs.length) (x : Nat) (cs : List Byte) :
    cellReads (putRanges u (rs ++ [(x, cs.length)]) (bs ++ cs)).spad x cs.length = cs := by
  induction rs generalizing u bs with
  | nil =>
    obtain rfl : bs = [] := List.length_eq_zero_iff.1 hlen.symm
    rw [List.nil_append, List.nil_append, putRanges, List.take_length, putRanges]
    exact cellReads_spadPut (u, 0) x cs hu.1 hu.2
  | cons r rs ih =>
    rw [List.map_cons, List.sum_cons] at hlen
    have hr : r.2 ≤ bs.length := by omega
    rw [List.cons_append, putRanges, List.drop_append_of_le_length hr]
    exact ih (hu.spadPut _ _) (by rw [List.length_drop]; omega)

/-! ### The parameter block and the lists (R186) -/

section
variable (u : ArrayUnit) (v : VInstr)

/-- The parameter block that EXT[20:0] names. -/
def sortParams : List Byte := spadReads u (bits v.ext.toNat 20 0) 64

/-- The pairs of tokens and ranks that the block gives. -/
def sortPairs : Nat := fld (sortParams u v) 4 4 * fld (sortParams u v) 8 1

/-- The experts. -/
def sortExperts : Nat := fld (sortParams u v) 0x0A 2

/-- The rows of a group. -/
def sortGroup : Nat := fld (sortParams u v) 0x0C 4

/-- The groups. -/
def sortGroups : Nat := fld (sortParams u v) 0x10 4

/-- The ranges that EXPSORT reads. -/
def sortReads : List (Nat × Nat) :=
  [(bits v.ext.toNat 20 0, 64), (fld (sortParams u v) 0 4, 4 * fld (sortParams u v) 4 4 * fld (sortParams u v) 8 1)]

/-- The ranges of the gather, scatter and pointer lists. -/
def sortRowRanges : List (Nat × Nat) :=
  [(fld (sortParams u v) 0x14 4, 4 * sortGroups u v * sortGroup u v), (fld (sortParams u v) 0x18 4, 4 * sortGroups u v * sortGroup u v),
    (fld (sortParams u v) 0x1C 4, 8 * sortGroups u v)]

/-- The ranges of the four lists, the counts last. -/
def sortWrites : List (Nat × Nat) := sortRowRanges u v ++ [(fld (sortParams u v) 0x20 4, 8 * sortExperts u v)]

/-- A parameter block that R186 permits. -/
def sortOk : Bool :=
  let p := sortParams u v
  (decide (v.dt = 0xA) && decide (1 ≤ fld p 4 4) && decide (fld p 4 4 ≤ 65536) && decide (1 ≤ fld p 8 1) && decide (fld p 8 1 ≤ 16)
    && decide (1 ≤ fld p 0x0A 2) && decide (fld p 0x0A 2 ≤ 256) && decide (16 ≤ fld p 0x0C 4) && decide (fld p 0x0C 4 ≤ 1024)
    && decide (bitLen (fld p 0x0C 4) = bitLen (fld p 0x0C 4 - 1) + 1) && fld p 0x28 8 != 0)
  && (sortReads u v ++ sortWrites u v).all (fun x => decide (x.1 + x.2 ≤ swBytes u))

/-- The expert of pair `i`. -/
def sortId (i : Nat) : Int := sx 32 (spadNum u (fld (sortParams u v) 0 4 + 4 * i) 4)

/-- The pairs of each expert. -/
def sortRows : List (List Nat) :=
  (List.range (sortExperts u v)).map (expertRows ((List.range (sortPairs u v)).map (sortId u v)) (fld (sortParams u v) 8 1))

/-- The rows of all groups, padded to the groups that the block gives. -/
def sortPadded : List Nat :=
  ((sortRows u v).flatMap (padRows (sortGroup u v)) ++ List.replicate (sortGroups u v * sortGroup u v) 0xFFFFFFFF).take
    (sortGroups u v * sortGroup u v)

/-- The groups of each expert. -/
def sortShares : List Nat := (sortRows u v).map (fun x => cdiv x.length (sortGroup u v))

/-- The expert that each group belongs to, from 1, and 0 for a group beyond them. -/
def sortOwners : List Nat :=
  ((List.range (sortExperts u v)).flatMap (fun e => List.replicate (nthD 0 (sortShares u v) e) (e + 1))
    ++ List.replicate (sortGroups u v) 0).take (sortGroups u v)

/-- The gather list: the token of each row. -/
def gatherList : List Byte :=
  (sortPadded u v).flatMap (fun x => toLE 4 (if x = 0xFFFFFFFF then x else x / fld (sortParams u v) 8 1))

/-- The scatter list: the pair of each row. -/
def scatterList : List Byte := (sortPadded u v).flatMap (toLE 4)

/-- The pointer list: for each group where its expert's weights stand. -/
def pointerList : List Byte :=
  (sortOwners u v).flatMap (fun e =>
    toLE 8 (if e = 0 then 0 else fld (sortParams u v) 0x28 8 + (e - 1) * fld (sortParams u v) 0x30 8))

/-- The counts list: for each expert how many pairs it has, and its first group. -/
def countsList : List Byte :=
  (List.range (sortExperts u v)).flatMap (fun e => toLE 4 (nthD [] (sortRows u v) e).length
    ++ toLE 4 (nthD 0 ((List.range (sortExperts u v)).map (fun e => sumN ((sortShares u v).take e))) e))

/-- The bytes of the lists before the counts. -/
def rowLists : List Byte := gatherList u v ++ (scatterList u v ++ pointerList u v)

theorem length_take_padding (xs : List Nat) (n x : Nat) : ((xs ++ List.replicate n x).take n).length = n := by
  rw [List.length_take, List.length_append, List.length_replicate]
  omega

theorem sortPadded_length : (sortPadded u v).length = sortGroups u v * sortGroup u v := length_take_padding ..

theorem gatherList_length : (gatherList u v).length = 4 * sortGroups u v * sortGroup u v := by
  rw [gatherList, flatMap_length (fun _ => toLE_length 4 _), sortPadded_length, Nat.mul_assoc]

theorem scatterList_length : (scatterList u v).length = 4 * sortGroups u v * sortGroup u v := by
  rw [scatterList, flatMap_length (toLE_length 4), sortPadded_length, Nat.mul_assoc]

theorem pointerList_length : (pointerList u v).length = 8 * sortGroups u v := by
  rw [pointerList, flatMap_length (fun _ => toLE_length 8 _), sortOwners, length_take_padding]

theorem countsElement_length (x y : Nat) : (toLE 4 x ++ toLE 4 y).length = 8 := by
  rw [List.length_append, toLE_length, toLE_length]

theorem countsList_length : (countsList u v).length = 8 * sortExperts u v := by
  rw [countsList, flatMap_length (fun _ => countsElement_length _ _), List.length_range]

theorem rowLists_length : ((sortRowRanges u v).map (·.2)).sum = (rowLists u v).length := by
  simp only [sortRowRanges, rowLists, List.map_cons, List.map_nil, List.sum_cons, List.sum_nil, List.length_append,
    gatherList_length, scatterList_length, pointerList_length, Nat.add_zero]

/-- How many pairs an expert has. -/
theorem sortRows_length {e : Nat} (he : e < sortExperts u v) :
    (nthD [] (sortRows u v) e).length = ((List.range (sortPairs u v)).filter (fun i => sortId u v i == (e : Int))).length := by
  rw [sortRows, nthD_map_range _ _ he, expertRows, List.length_map, List.length_map, List.length_range]
  refine congrArg List.length (List.filter_congr fun i hi => ?_)
  rw [nthD_map_range _ _ (List.mem_range.1 hi)]

/-- The count of an expert stands at its place of the counts list. -/
theorem countsList_count {e : Nat} (he : e < sortExperts u v) :
    ((countsList u v).drop (8 * e)).take 4 = toLE 4 (nthD [] (sortRows u v) e).length := by
  have helement := flatMap_element (f := fun e => toLE 4 (nthD [] (sortRows u v) e).length
    ++ toLE 4 (nthD 0 ((List.range (sortExperts u v)).map (fun e => sumN ((sortShares u v).take e))) e))
    (fun _ => countsElement_length _ _) (List.getElem?_range he)
  have htake : ∀ xs : List Byte, xs.take 4 = (xs.take 8).take 4 := fun xs => by rw [List.take_take]; rfl
  rw [htake, countsList, helement, List.take_append_of_le_length (by rw [toLE_length]), List.take_of_length_le (by rw [toLE_length])]

end

/-! ### The state after EXPSORT -/

/-- The state after EXPSORT, `bs` being the bytes put into the ranges `rs` in order: the access held, the bytes stored, `bad`
identifiers counted that name no expert, and the instruction counted (R186, R188). -/
def sortIssued (v : VInstr) (lost : List (Fin 32)) (rs : List (Nat × Nat)) (bs : List Byte) (bad k : Nat) (s : State) (a : ArrId)
    (u : ArrayUnit) : State :=
  vfinish (regBump (storeRanges a (vHeld (setArr s a u) a lost) rs bs) (veReg a.val 0x38) bad) a v { issue := k }

section
variable (v : VInstr) (lost : List (Fin 32)) (rs : List (Nat × Nat)) (bs : List Byte) (bad k : Nat) (s : State) (a : ArrId)
  (u : ArrayUnit)

theorem sortIssued_storeFrame :
    StoreFrame [veReg a.val 0x08, veReg a.val 0x18, veReg a.val 0x38, spReg a.val 0x10, spReg a.val 0x20, fltReg 0x080] a s
      (sortIssued v lost rs bs bad k s a u) :=
  ((vHeld_storeFrame s a u lost).mono (by simp)).trans
    (((storeRanges_storeFrame a _ rs bs).mono (by simp)).trans
      (((regBump_storeFrame _ a _ bad).mono (by simp)).trans ((vfinish_quiet_storeFrame _ a v k).mono (by simp))))

theorem sortIssued_lostClocks : lostClocks a lost s (sortIssued v lost rs bs bad k s a u) := by
  have hput := lostClocks_of_regsBut (vHeld_lostClocks s a u lost) (storeRanges_storeFrame a _ rs bs).regs
    (by simp [veReg_ne_spReg, veReg_ne_fltReg]) (by simp [spReg_inj, spReg_ne_fltReg])
  have hbad := lostClocks_of_regsBut hput (regBump_storeFrame _ a (veReg a.val 0x38) bad).regs (by simp [veReg_inj])
    (by simp [(veReg_ne_spReg a a _ _).symm])
  exact lostClocks_of_regsBut hbad (vfinish_quiet_storeFrame _ a v k).regs (by simp [veReg_inj])
    (by simp [(veReg_ne_spReg a a _ _).symm])

theorem arr_sortIssued :
    arr (sortIssued v lost rs bs bad k s a u) a
      = issuedUnit { putRanges u rs bs with veClk := u.veClk + lost.length } v { issue := k } := by
  rw [sortIssued, arr_vfinish, arr_congr (regBump_arrays ..), arr_storeRanges, arr_vHeld, putRanges_veClk]

theorem sortIssued_spad : (arr (sortIssued v lost rs bs bad k s a u) a).spad = (putRanges u rs bs).spad := by
  rw [arr_sortIssued]
  rfl

variable {s a u} in
/-- EXPSORT leaves the vector registers, the rings and the accumulators of its array as they were (R186). -/
theorem sortIssued_unitKept (hu : u = { arr s a with slots := u.slots }) :
    let n := sortIssued v lost rs bs bad k s a u
    (arr n a).vregs = (arr s a).vregs ∧ (arr n a).vpos = (arr s a).vpos + 1 ∧ (arr n a).rings = (arr s a).rings
      ∧ (arr n a).acc = (arr s a).acc := by
  intro n
  have hput : arr n a = _ := arr_sortIssued ..
  rw [hput, putRanges_eq, hu]
  exact ⟨rfl, rfl, rfl, rfl⟩

end

/-- The identifiers that name no expert. -/
def sortBad (u : ArrayUnit) (v : VInstr) : Nat :=
  (((List.range (sortPairs u v)).map (sortId u v)).filter (fun i => decide (i < 0) || decide ((sortExperts u v : Int) ≤ i))).length

/-- The clocks that EXPSORT takes. -/
def sortClks (u : ArrayUnit) (v : VInstr) : Nat :=
  2 * cdiv (sortPairs u v) 64 + cdiv (sortGroups u v * sortGroup u v) 128 + 64

/-- The four lists stored one after another. -/
theorem storeRanges_sortWrites (a : ArrId) (t : State) (u : ArrayUnit) (v : VInstr) :
    storeRanges a t (sortWrites u v) (rowLists u v ++ countsList u v)
      = spadStore (spadStore (spadStore (spadStore t a (fld (sortParams u v) 0x14 4) (gatherList u v))
          a (fld (sortParams u v) 0x18 4) (scatterList u v)) a (fld (sortParams u v) 0x1C 4) (pointerList u v))
          a (fld (sortParams u v) 0x20 4) (countsList u v) := by
  rw [sortWrites, sortRowRanges, rowLists, List.append_assoc, List.append_assoc]
  simp only [List.cons_append, List.nil_append]
  rw [storeRanges_append (gatherList_length ..), storeRanges_append (scatterList_length ..),
    storeRanges_append (pointerList_length ..), storeRanges_single (countsList_length ..)]

/-- EXPSORT under a block that is permitted and that the slot checker lets pass (R186, R208). -/
theorem exec_expsort {s : State} {a : ArrId} {v : VInstr} {u1 u2 : ArrayUnit} (lost : List (Fin 32)) (hready : veReady s a = true)
    (hok : sortOk (arr s a) v = true) (hreads : slotChecks 3 false (arr s a) (sortReads (arr s a) v) = .ok u1)
    (hwrites : slotChecks 3 true u1 (sortWrites (arr s a) v) = .ok u2) :
    exec (.expsort a ⟨v, lost⟩) s = .next (sortIssued v lost (sortWrites (arr s a) v)
      (rowLists (arr s a) v ++ countsList (arr s a) v) (sortBad (arr s a) v) (sortClks (arr s a) v) s a u2) := by
  have hheld : ¬ (!veReady s a) = true := by simp [hready]
  have hlegal : ¬ (!sortOk (arr s a) v) = true := by simp [hok]
  change execExpsort a ⟨v, lost⟩ s = _
  unfold execExpsort sortIssued
  rw [if_neg hheld, storeRanges_sortWrites]
  extract_lets u p t k nexp r nt idsA ga sc pt co ok reads writes
  refine (if_neg hlegal).trans ?_
  have hreads' : slotChecks 3 false u reads = .ok u1 := hreads
  have hwrites' : slotChecks 3 true u1 writes = .ok u2 := hwrites
  rw [hreads']
  dsimp only
  rw [hwrites']
  rfl

/-- The number of an expert's pairs is read back at its place of the counts list. -/
theorem spadNum_counts {u u2 : ArrayUnit} {v : VInstr} (hu : Awake u2) (hpairs : sortPairs u v < 2 ^ 32) {e : Nat}
    (he : e < sortExperts u v) :
    spadNum (putRanges u2 (sortWrites u v) (rowLists u v ++ countsList u v)) (fld (sortParams u v) 0x20 4 + 8 * e) 4
      = ((List.range (sortPairs u v)).filter (fun i => sortId u v i == (e : Int))).length := by
  have hread := cellReads_putRanges_last hu (rowLists_length u v) (fld (sortParams u v) 0x20 4) (countsList u v)
  have hcount : ((List.range (sortPairs u v)).filter (fun i => sortId u v i == (e : Int))).length ≤ sortPairs u v :=
    (List.length_filter_le ..).trans (List.length_range ..).le
  rw [countsList_length] at hread
  rw [spadNum, spadReads, cellReads_within _ _ (8 * e) 4 (8 * sortExperts u v) (by omega)]
  refine (congrArg (fun bs => ofLE ((bs.drop (8 * e)).take 4)) hread).trans ?_
  rw [countsList_count u v he, ofLE_toLE, sortRows_length u v he]
  exact Nat.mod_eq_of_lt (hcount.trans_lt hpairs)

/-- Settles O19: the four lists are one store into four ranges, the counts last. -/
theorem expertSortWritesLists : Obligations.ExpertSortWritesLists := by
  intro a v lost s u1 u2 u p t k ne r nt reads writes hready hdt ht htmax hk hkmax hne hnemax hr hrmax hpow hstride hin hreads hwrites
  have hok : sortOk u v = true := by
    have hblock : (decide (v.dt = 0xA) && decide (1 ≤ t) && decide (t ≤ 65536) && decide (1 ≤ k) && decide (k ≤ 16)
        && decide (1 ≤ ne) && decide (ne ≤ 256) && decide (16 ≤ r) && decide (r ≤ 1024) && decide (bitLen r = bitLen (r - 1) + 1)
        && fld p 0x28 8 != 0) = true := by
      simp only [hdt, ht, htmax, hk, hkmax, hne, hnemax, hr, hrmax, hpow, bne_iff_ne.2 hstride, decide_true, Bool.and_self]
    exact Bool.and_eq_true_iff.2 ⟨hblock, List.all_eq_true.2 fun x hx => decide_eq_true (hin x hx)⟩
  have hu : u2 = { u with slots := u2.slots } := by
    rw [slotChecks_eq hwrites, slotChecks_eq hreads]
  have hspad : u2.spad = u.spad := by rw [hu]
  have hbanks : u2.banks = u.banks := by rw [hu]
  have hframe := sortIssued_storeFrame v lost (sortWrites u v) (rowLists u v ++ countsList u v) (sortBad u v) (sortClks u v) s a u2
  obtain ⟨hvregs, hvpos, hrings, hacc⟩ :=
    sortIssued_unitKept v lost (sortWrites u v) (rowLists u v ++ countsList u v) (sortBad u v) (sortClks u v) hu
  refine ⟨_, exec_expsort lost hready hok hreads hwrites, hframe.others, ?fields, hframe.corrupt, hvregs, hvpos, hrings, hacc,
    sortIssued_lostClocks .., hframe.regs, fun hm y hy => ?outside, fun hm hon e he => ?counts⟩
  case fields =>
    have hitems := congrArg State.items hframe.fields
    exact hframe.fields.trans (by rw [hitems])
  case outside =>
    rw [sortIssued_spad, ← hspad]
    exact cellRead_putRanges_outside u2 _ _ (hspad ▸ hm) hy
  case counts =>
    have hpairs : sortPairs u v < 2 ^ 32 := (Nat.mul_le_mul htmax hkmax).trans_lt (by decide)
    rw [spadNum, spadReads, sortIssued_spad]
    exact spadNum_counts ⟨hspad ▸ hm, hbanks ▸ hon⟩ hpairs he

end Sys2Proof.Machine
end

section
/-! # The reset state (O5) -/

namespace Sys2Proof.Machine

/-! ### A unit of the reset state is the one that its file repeats -/

theorem port_ofFuses (f : Fuses) (p : PortId) : port (State.ofFuses f) p = {} := Vector.getElem_replicate _

theorem arr_ofFuses (f : Fuses) (a : ArrId) : arr (State.ofFuses f) a = {} := Vector.getElem_replicate _

theorem que_ofFuses (f : Fuses) (q : Fin 128) : que (State.ofFuses f) q = {} := Vector.getElem_replicate _

/-- Settles O5: the canonical forms are those of any fuses with an array; the other values are the fields' own defaults. -/
theorem resetMeetsInv : Obligations.ResetMeetsInv := by
  have harrays : Fuses.reset.arrays ≠ 0 := by decide
  refine ⟨ofFuses_inv Fuses.reset harrays, rfl, rfl, rfl, rfl, rfl, rfl, rfl, fun p => ?port, fun a => ?array, fun q => ?queue,
    rfl, rfl, rfl, rfl, rfl, rfl, rfl, rfl, rfl⟩
  case port => rw [State.reset, port_ofFuses]
  case array => rw [State.reset, arr_ofFuses]
  case queue => rw [State.reset, que_ofFuses]

end Sys2Proof.Machine
end

section
/-! # The completion of a work item (O24) -/

namespace Sys2Proof.Machine

/-- An array whose work item has completed (R221). -/
def idleUnit (u : ArrayUnit) : ArrayUnit :=
  { u with
    cur := none
    st := if u.st = .fallow then .fallow else .idle
    ve := if u.ve = .fallow then .fallow else .idle }

/-- A work item counted and marked, its arrays still as they were. -/
def markDone (s : State) (w : ItemRun) : State := setItem (meterArrays s w) { w with done := true }

theorem exec_workItemComplete {id : Nat} {s : State} {w : ItemRun} (hw : itemOf s id = some w) (hdone : w.done = false)
    (hhalted : w.halted = 0) (hfail : w.failStatus = 0) (hcomplete : itemComplete s w = true) :
    exec (.workItemComplete id) s
      = .next ((gangArrays w).foldl (fun s a => setArr s a (idleUnit (arr s a))) (markDone s w)) := by
  show execWorkItemComplete id s = _
  unfold execWorkItemComplete
  rw [hw]
  exact if_neg (by simp [hdone, hhalted, hfail, hcomplete])

/-- Settles O24: one idle step for each member of the gang, behind the item's mark. -/
theorem workItemCompletes : Obligations.WorkItemCompletes := by
  intro id s w hw hdone hhalted hfail hcomplete hwidth
  refine ⟨_, exec_workItemComplete hw hdone hhalted hfail hcomplete, ?_⟩
  have harr := arr_foldl_each (arr_setArr_each idleUnit) (gangArrays_nodup hwidth) (markDone s w)
  have hrest := foldl_arraysOnly (f := fun s a => setArr s a (idleUnit (arr s a))) (fun _ _ => rfl) (gangArrays w) (markDone s w)
  have hitems : ∀ j, itemOf (markDone s w) j = if j = id then some { w with done := true } else itemOf s j :=
    itemOf_setItem (s := meterArrays s w) hw (by simpa using List.find?_some hw)
  generalize (gangArrays w).foldl _ (markDone s w) = n at harr hrest
  have hitemsKept : ∀ j, itemOf n j = itemOf (markDone s w) j := fun j => by rw [hrest]; rfl
  refine ⟨by rw [hrest]; rfl, ?marked, fun j hj => ?others, fun b hb => ?outside, fun b hb => ?member⟩
  case marked => rw [hitemsKept, hitems, if_pos rfl]
  case others => rw [hitemsKept, hitems, if_neg hj]
  case outside => exact (harr b).trans (if_neg hb)
  case member => exact (harr b).trans (if_pos hb)

end Sys2Proof.Machine
end

section
/-! # Messages under roles (O38)

What a packet sent, or sent again, changes of the state (R312 to R315, R321, R324), and the four messages. -/

namespace Sys2Proof.Machine

/-! ### The frame of a send -/

/-- Of the state at most the links, what waits for them, the activity counted and registers of RAILE and of the blocks above it may
differ (R488). -/
structure LinksChanged (s n : State) : Prop where
  fields : n = { s with
    regs := n.regs, power := n.power, ports := n.ports, peers := n.peers, flows := n.flows, ctlWait := n.ctlWait, out := n.out }
  regs : ∀ o, o < rlReg 0 0 → regGet n o = regGet s o

theorem LinksChanged.refl (s : State) : LinksChanged s s := ⟨rfl, fun _ _ => rfl⟩

theorem LinksChanged.trans {s t u : State} (a : LinksChanged s t) (b : LinksChanged t u) : LinksChanged s u :=
  ⟨Eq.trans b.fields (by rw [a.fields]), fun o ho => (b.regs o ho).trans (a.regs o ho)⟩

theorem linksChanged_ite {c : Prop} [Decidable c] {s a b : State} (ha : LinksChanged s a) (hb : LinksChanged s b) :
    LinksChanged s (if c then a else b) := by
  split
  · exact ha
  · exact hb

theorem linksChanged_foldl {α : Type} {f : State → α → State} (h : ∀ s x, LinksChanged s (f s x)) (l : List α) (s : State) :
    LinksChanged s (l.foldl f s) := foldl_rel LinksChanged.refl (fun _ _ _ => LinksChanged.trans) l s fun s x _ => h s x

section
variable {s n : State} (h : LinksChanged s n)
include h

theorem LinksChanged.sent : n.sent = s.sent := by rw [h.fields]
theorem LinksChanged.roleIn : n.roleIn = s.roleIn := by rw [h.fields]
theorem LinksChanged.bars : n.bars = s.bars := by rw [h.fields]
theorem LinksChanged.notifies : n.notifies = s.notifies := by rw [h.fields]
theorem LinksChanged.pins : n.pins = s.pins := by rw [h.fields]

theorem LinksChanged.stopped : stopped n = stopped s := by rw [Machine.stopped, regField, h.regs _ (by decide)]; rfl

theorem LinksChanged.halted : halted n = halted s := by rw [Machine.halted, regField, h.regs _ (by decide)]; rfl

theorem LinksChanged.raileLive : raileLive n = raileLive s := by
  rw [Machine.raileLive, alive, h.pins, h.stopped, h.halted]; rfl

end

theorem regBump_linksChanged (s : State) (p off k : Nat) : LinksChanged s (regBump s (rlReg p off) k) := by
  refine linksChanged_ite (.refl s) ⟨rfl, fun o ho => regGet_regSet_ne s _ ?_⟩
  unfold rlReg at ho ⊢
  omega

theorem send_linksChanged (s : State) (m : OutMsg) : LinksChanged s (send s m) := ⟨rfl, fun _ _ => rfl⟩

theorem setFlow_linksChanged (s : State) (f : Flow) : LinksChanged s (setFlow s f) := ⟨rfl, fun _ _ => rfl⟩

theorem setPort_linksChanged (s : State) (p : PortId) (u : Port) : LinksChanged s (setPort s p u) := ⟨rfl, fun _ _ => rfl⟩

theorem setPeer_linksChanged (s : State) (n : NodeId) (p : Peer) : LinksChanged s (setPeer s n p) := ⟨rfl, fun _ _ => rfl⟩

theorem meterCtx_linksChanged (s : State) (ctx k : Nat) : LinksChanged s (meterCtx s ctx k) :=
  linksChanged_ite ⟨rfl, fun _ _ => rfl⟩ (.refl s)

theorem sendFrame_linksChanged (s : State) (p : PortId) (fseq : BitVec 12) (nak idle : Bool) (b : TxBody) :
    LinksChanged s (sendFrame s p fseq nak idle b) := by
  unfold sendFrame
  extract_lets u h t bs
  exact ((setPort_linksChanged ..).trans (regBump_linksChanged t ..)).trans (send_linksChanged ..)

theorem pumpPort_linksChanged (p : PortId) (fuel : Nat) (s : State) : LinksChanged s (pumpPort p fuel s) := by
  induction fuel generalizing s with
  | zero => exact .refl s
  | succ fuel ih =>
    unfold pumpPort
    refine linksChanged_ite (.refl s) ?_
    split
    · exact .refl s
    · exact ((setPort_linksChanged ..).trans (sendFrame_linksChanged ..)).trans (ih _)

theorem portSend_linksChanged (s : State) (p : PortId) (vc : Bool) (bs : List Byte) : LinksChanged s (portSend s p vc bs) :=
  (setPort_linksChanged ..).trans (pumpPort_linksChanged ..)

theorem flowBytes_linksChanged (s : State) (f : Flow) (bs : List Byte) : LinksChanged s (flowBytes s f bs) := by
  unfold flowBytes
  split
  · exact portSend_linksChanged ..
  · exact .refl s

theorem flowPut_linksChanged (s : State) (f : Flow) (x : TxPacket) : LinksChanged s (flowPut s f x) := by
  unfold flowPut
  extract_lets psn bs t
  exact (((setFlow_linksChanged ..).trans (flowBytes_linksChanged t f bs)).trans (meterCtx_linksChanged ..)).trans
    (send_linksChanged ..)

theorem sendCtl_linksChanged (s : State) (n : NodeId) (code : Nat) (body : List Byte) : LinksChanged s (sendCtl s n code body) := by
  unfold sendCtl
  split
  · exact linksChanged_ite ⟨rfl, fun _ _ => rfl⟩ (.refl s)
  · exact (send_linksChanged ..).trans (linksChanged_ite (flowPut_linksChanged ..)
      (linksChanged_ite (setFlow_linksChanged ..) (flowPut_linksChanged ..)))

theorem resendFlow_linksChanged (s : State) (f : Flow) : LinksChanged s (resendFlow s f) := by
  unfold resendFlow
  split
  · exact .refl s
  · exact (regBump_linksChanged ..).trans (linksChanged_foldl (fun _ _ => flowBytes_linksChanged ..) _ _)

/-- A valid packet from a node resumes what waited for it, and changes nothing else (R318, R324). -/
theorem heardFrom_linksChanged (s : State) (n : NodeId) : LinksChanged s (heardFrom s n) := by
  unfold heardFrom
  extract_lets p t
  have ht : LinksChanged s t := setPeer_linksChanged ..
  exact linksChanged_ite (ht.trans (linksChanged_foldl resendFlow_linksChanged _ _)) (.refl s)

theorem heardRole_linksChanged (s : State) (id : Nat) : LinksChanged s (heardRole s id) := by
  unfold heardRole
  split
  · exact linksChanged_ite (heardFrom_linksChanged ..) (.refl s)
  · exact .refl s

/-! ### What the receiver does (R211, R330) -/

/-- A message dropped for its epochs counts one, and beside its answer leaves the device as it was. -/
theorem dropStale_spec (s : State) (n : NodeId) (id : Nat) (role src : BitVec 24) :
    rises (furReg 0x48) 1 s (dropStale s n id role src) ∧ (dropStale s n id role src).roleIn = s.roleIn
      ∧ (dropStale s n id role src).bars = s.bars ∧ (dropStale s n id role src).notifies = s.notifies := by
  have hanswer : LinksChanged (regBump s (furReg 0x48) 1) (dropStale s n id role src) := sendCtl_linksChanged ..
  refine ⟨?_, by rw [hanswer.roleIn, regBump_roleIn], by rw [hanswer.bars, regBump_bars],
    by rw [hanswer.notifies, regBump_notifies]⟩
  rw [rises, hanswer.regs _ (by decide), regGet_regBump, if_pos rfl]

/-- A message under a role that is heard: it is applied, or it is stale. -/
theorem exec_roleMsg {s : State} {m : RoleMsg} (hlive : raileLive s = true) (hup : peerUp (heardFrom s m.sender) m.sender = true) :
    exec (.roleMsg m) s =
      if epochsAgree (heardFrom s m.sender) m.role m.srcRole m.srcEpoch m.dstEpoch then
        .next (sendCtl { heardFrom s m.sender with roleIn := (heardFrom s m.sender).roleIn ++ [m] } m.sender 0x11 (toLE 4 m.msgId))
      else .next (dropStale (heardFrom s m.sender) m.sender m.msgId m.role m.srcRole) := by
  have hlive' := (heardFrom_linksChanged s m.sender).raileLive.trans hlive
  simp [exec, execRoleMsg, hlive, hlive', hup]

theorem exec_notify {s : State} {m : NotifyMsg} (hlive : raileLive s = true) (hup : peerUp (heardFrom s m.sender) m.sender = true) :
    exec (.notify m) s =
      if epochsAgree (heardFrom s m.sender) m.role m.srcRole m.srcEpoch m.dstEpoch then
        .next (sendCtl (applyNotify (heardFrom s m.sender) m.role m.furrow m.bar) m.sender 0x11 (toLE 4 m.msgId))
      else .next (dropStale (heardFrom s m.sender) m.sender m.msgId m.role m.srcRole) := by
  have hlive' := (heardFrom_linksChanged s m.sender).raileLive.trans hlive
  simp [exec, execNotify, hlive, hlive', hup]

theorem applyNotify_coming (s : State) (role : BitVec 24) {furrow : Nat} (bar : Nat)
    (h : furrow = curFurrow s + 1 ∨ furrow = curFurrow s + 2) :
    applyNotify s role furrow bar = { s with notifies := s.notifies ++ [⟨furrow, role, bar⟩] } := by
  have hnow : furrow ≠ curFurrow s := by omega
  simp only [applyNotify, if_neg hnow, if_pos h]

theorem applyNotify_over (s : State) (role : BitVec 24) {furrow : Nat} (bar : Nat) (h : furrow < curFurrow s) :
    applyNotify s role furrow bar = regBump s (rlReg 0 0x1060) 1 := by
  have hnow : furrow ≠ curFurrow s := by omega
  have hcoming : ¬ (furrow = curFurrow s + 1 ∨ furrow = curFurrow s + 2) := by omega
  simp only [applyNotify, if_neg hnow, if_neg hcoming, if_pos h]

/-! ### What the sender does (R211, R329) -/

/-- One change made to every engine. -/
theorem fe_forFes (g : FetchUnit → FetchUnit) (s : State) (f : FeId) :
    fe (forFes s (fun s f => setFe s f (g (fe s f)))) f = g (fe s f) := by
  obtain ⟨p, -, hp, h⟩ := foldl_reads_mem (f := fun s f => setFe s f (g (fe s f))) (g := fun s => fe s f)
    (List.nodup_finRange 32) (List.mem_finRange f) (fun s _ _ hj => fe_setFe_ne s _ f _ hj.symm) s
  exact h.trans ((fe_setFe ..).trans (congrArg g hp))

theorem mapDescs_fields (s : State) (g : DescRun → DescRun) : mapDescs s g = { s with fes := (mapDescs s g).fes } := by
  unfold mapDescs forFes
  exact foldl_rel (R := fun s n => n = { s with fes := n.fes }) (fun _ => rfl) (fun _ _ _ a b => b.trans (by rw [a])) _ s
    fun _ _ _ => rfl

theorem lookupN_map_snd {α β : Type} (k : Nat) (g : α → β) (l : List (Nat × α)) :
    lookupN k (l.map (fun x => (x.1, g x.2))) = (lookupN k l).map g := by
  induction l with
  | nil => rfl
  | cons x l ih =>
    rw [List.map_cons, lookupN, lookupN, ih, apply_ite (Option.map g), Option.map_some]

theorem slotDesc_mapDescs (s : State) (g : DescRun → DescRun) (f : FeId) (k : Fin 64) :
    slotDesc (mapDescs s g) f k = (slotDesc s f k).map g := by
  have hfe : fe (mapDescs s g) f = { fe s f with slots := (fe s f).slots.map (fun x => (x.1, g x.2)) } :=
    fe_forFes (fun u => { u with slots := u.slots.map (fun x => (x.1, g x.2)) }) s f
  rw [slotDesc, hfe]
  exact lookupN_map_snd ..

/-- An accepted message's record is dropped, and the descriptors whose NOTIFY it carried are notified. -/
theorem acceptMsg_spec (s : State) (id : Nat) :
    acceptMsg s id = { s with sent := (acceptMsg s id).sent, fes := (acceptMsg s id).fes }
      ∧ (acceptMsg s id).sent = s.sent.filter (fun x => x.id != id)
      ∧ ∀ f k d, slotDesc s f k = some d → d.ntfMsg = some id → slotDesc (acceptMsg s id) f k = some { d with notified := true } := by
  unfold acceptMsg markNotified
  have hfields := mapDescs_fields { s with sent := s.sent.filter (fun x => x.id != id) }
    (fun d => if d.ntfMsg = some id then { d with notified := true } else d)
  refine ⟨Eq.trans hfields (by rw [hfields]), by rw [hfields], fun f k d hd hmsg => ?_⟩
  have hkept : slotDesc { s with sent := s.sent.filter (fun x => x.id != id) } f k = some d := hd
  rw [slotDesc_mapDescs, hkept, Option.map_some, if_pos hmsg]

theorem exec_roleAck {s : State} {id : Nat} (h : ∃ x ∈ s.sent, x.id = id) :
    exec (.roleAck id) s = .next (acceptMsg (heardRole s id) id) := by
  have hany : (heardRole s id).sent.any (fun m => m.id == id) = true := by
    rw [(heardRole_linksChanged s id).sent, List.any_eq_true]
    exact h.imp fun x hx => ⟨hx.1, beq_iff_eq.2 hx.2⟩
  exact if_pos hany

/-- Settles O38: each message behind the hearing of its sender. -/
theorem roleMessages : Obligations.RoleMessages := by
  intro s
  refine ⟨?message, ?notification, fun id hsent => ?accepted, fun id role e => ?stale⟩
  case message =>
    intro m hlive v hup
    have hheard := heardFrom_linksChanged s m.sender
    obtain ⟨hrise, hroleIn, -⟩ := dropStale_spec v m.sender m.msgId m.role m.srcRole
    exact ⟨fun hagree => (exec_roleMsg hlive hup).trans (if_pos hagree), fun hstale =>
      ⟨_, (exec_roleMsg hlive hup).trans (if_neg (by simp [v, hstale])), hroleIn.trans hheard.roleIn, hrise⟩⟩
  case notification =>
    intro m hlive v hup
    have hheard := heardFrom_linksChanged s m.sender
    obtain ⟨hrise, -, hbars, hnotifies⟩ := dropStale_spec v m.sender m.msgId m.role m.srcRole
    refine ⟨fun hagree => ⟨(exec_notify hlive hup).trans (if_pos hagree), applyNotify_coming v m.role m.bar, fun hover => ?_⟩,
      fun hstale => ⟨_, (exec_notify hlive hup).trans (if_neg (by simp [v, hstale])), hbars.trans hheard.bars,
        hnotifies.trans hheard.notifies, hrise⟩⟩
    rw [applyNotify_over v m.role m.bar hover]
    exact ⟨by rw [rises, regGet_regBump, if_pos rfl], regBump_bars ..⟩
  case accepted =>
    obtain ⟨hfields, hleft, hdescs⟩ := acceptMsg_spec (heardRole s id) id
    exact ⟨_, exec_roleAck hsent, by rw [hleft, (heardRole_linksChanged s id).sent], hfields, hdescs⟩
  case stale =>
    rw [← (heardRole_linksChanged s id).sent]
    rfl

end Sys2Proof.Machine
end

section
/-! # The owner's commands that set sizes, caps, roles and registers (O43)

What a mailbox reads after its answer (R348), and one equation for a command that its gate lets through (R350, R352, R349). -/

namespace Sys2Proof.Machine

/-! ### Mailboxes and their answers -/

theorem mboxOf_setMbox (s : State) (m : Mbox) (x : MboxState) : mboxOf (setMbox s m x) m = x := by
  unfold mboxOf setMbox
  by_cases h : s.mboxes.any (fun p => p.1 == m)
  case neg =>
    rw [if_neg h, List.find?_append, List.find?_eq_none.2]
    · simp
    · exact fun p hp hkey => h (List.any_eq_true.2 ⟨p, hp, hkey⟩)
  case pos =>
    have hsame : (fun p => p.1 == m) ∘ (fun p : Mbox × MboxState => if p.1 = m then (m, x) else p) = fun p => p.1 == m := by
      funext p
      by_cases hp : p.1 = m <;> simp [hp]
    obtain ⟨p, hp⟩ := Option.isSome_iff_exists.1 ((List.find?_isSome.trans List.any_eq_true.symm).2 h)
    have hkey : p.1 = m := by simpa using List.find?_some hp
    rw [if_pos h, List.find?_map, hsame, hp]
    simp [hkey]

theorem mboxOf_reply (s : State) (m : Mbox) (ret : Nat) (out : List Byte) :
    mboxOf (reply s m ret out) m = { mboxOf s m with ret := ret, outp := out } := mboxOf_setMbox ..

/-- A Bruah command that its gate lets through answers Success with its RESULT and data (R350). -/
theorem bruah_ok {c : Cmd} {m : Mbox} {p : List Byte} {bad : Bool} {s : State} {t : LdId} (hlive : mboxLive s m = true)
    (hgate : gate s c m p bad = .ok t) (f : LdId → State → State × Nat × List Byte) :
    bruah c m p bad s f = .next (reply (f t s).1 m 0 (bruahOut (f t s).2.1 (f t s).2.2)) := by
  unfold bruah bruahRun
  rw [hlive, hgate]
  rfl

/-- A command of CXL on the owner's mailbox, while firmware runs and no stop is in force (R349, R367). -/
theorem cxlCmd_owner {s : State} (hlive : mboxLive s .owner = true) (hfw : s.fw.running = true) (hstop : stopped s = false)
    (ownerOnly : Bool) (f : State → State × Nat × List Byte) :
    cxlCmd s .owner ownerOnly false f = .next (reply (f s).1 .owner (f s).2.1 (f s).2.2) := by
  have hgate : cxlGate s .owner ownerOnly false = 0 := by simp [cxlGate, hfw, hstop]
  simp [cxlCmd, hlive, hgate]

/-! ### Windows (R347) -/

theorem unitsFrom_length_le (s : State) (fuel n u : Nat) : (unitsFrom s fuel n u).length ≤ n := by
  induction fuel generalizing n u with
  | zero => exact Nat.zero_le n
  | succ fuel ih =>
    unfold unitsFrom
    split
    · exact Nat.zero_le n
    next h =>
      have hn : n ≠ 0 := fun h0 => h (.inl h0)
      split
      · have := ih (n - 1) (u + 1)
        simp only [List.length_cons]
        omega
      · exact ih n (u + 1)

/-- A window resized has the size asked for. -/
theorem resizeWindow_length {s s1 : State} {t : LdId} {units : Nat} (h : resizeWindow s t units = some s1) :
    (ten s1 t).window.length = units := by
  unfold resizeWindow at h
  dsimp only at h
  split at h
  next hle =>
    obtain rfl := Option.some.inj h
    rw [ten_setTen]
    exact List.length_take_of_le hle
  next hgrow =>
    split at h
    · exact absurd h nofun
    next hroom =>
      obtain rfl := Option.some.inj h
      have hmost := unitsFrom_length_le s (units - (ten s t).window.length + s.tags.length) (units - (ten s t).window.length) 0
      rw [ten_setTen]
      simp only [List.length_append]
      omega

theorem exec_setWindow {m : Mbox} {p : List Byte} {s : State} {t : LdId} (hlive : mboxLive s m = true)
    (hgate : gate s { owner := true, named := true, len := 0x0C } m p false = .ok t) :
    exec (.setWindow m p) s = .next (match resizeWindow s t (fld p 8 4) with
      | some s1 => reply s1 m 0 (bruahOut 0 (toLE 4 (ten s1 t).window.length))
      | none => reply s m 0 (bruahOut 8 (toLE 4 (ten s t).window.length))) := by
  refine (bruah_ok hlive hgate _).trans ?_
  cases resizeWindow s t (fld p 8 4) <;> rfl

theorem exec_setSldSpan {m : Mbox} {p : List Byte} {s : State} {t : LdId} (hlive : mboxLive s m = true)
    (hgate : gate s { owner := true, len := 9 } m p false = .ok t) (hmld : s.pins.mld = false)
    (hnone : ∀ x, (ten s x).window = []) (hlo : 30 ≤ fld p 8 1) (hhi : fld p 8 1 ≤ 40) :
    exec (.setSldSpan m p) s = .next (reply { s with pins := { s.pins with sldSpan := fld p 8 1 } } m 0 (bruahOut 0 [])) := by
  refine (bruah_ok hlive hgate _).trans ?_
  have hmay : ¬ (s.pins.mld ∨ (List.finRange 16).any (fun t => !(ten s t).window.isEmpty)) := by simp [hmld, hnone]
  have hspan : ¬ (fld p 8 1 < 30 ∨ 40 < fld p 8 1) := by omega
  simp only [if_neg hmay, if_neg hspan]

/-! ### The owner cap (R406 to R408) -/

theorem clampCap_of_mem {w : Nat} (hlo : 500 ≤ w) (hhi : w ≤ 1600) : clampCap w = w := by
  have hmax : Nat.max 500 w = w := Nat.max_eq_right hlo
  rw [clampCap, hmax]
  exact Nat.min_eq_right hhi

theorem pendPair_fields (s : State) (late : Bool) :
    pendPair s late = { s with power := (pendPair s late).power, regs := (pendPair s late).regs }
      ∧ (pendPair s late).power.ownerW = s.power.ownerW := by
  unfold pendPair
  dsimp only
  generalize (choosePair s _ _).2.2.2 = floor
  cases floor
  all_goals exact ⟨rfl, rfl⟩

theorem capNow_fields (s : State) :
    capNow s = { s with power := (capNow s).power, regs := (capNow s).regs } ∧ (capNow s).power.ownerW = s.power.ownerW := by
  unfold capNow
  dsimp only
  generalize (choosePair s _ _).2.2.2 = floor
  cases floor
  all_goals exact ⟨rfl, rfl⟩

/-- A change of the owner's cap keeps what the owner asked for and touches the power unit and its registers only. -/
theorem setOwnerCap_fields (s : State) (w : Nat) (now : Bool) :
    setOwnerCap s w now = { s with power := (setOwnerCap s w now).power, regs := (setOwnerCap s w now).regs }
      ∧ (setOwnerCap s w now).power.ownerW = clampCap w := by
  unfold setOwnerCap
  extract_lets asked t
  split
  · exact capNow_fields t
  · exact pendPair_fields t _

theorem exec_setCap {m : Mbox} {p : List Byte} {s : State} {t : LdId} (hlive : mboxLive s m = true)
    (hgate : gate s { owner := true, len := 0x0B, i3c := true, onStop := true } m p (bits (fld p 0x0A 1) 7 1 != 0) = .ok t)
    (hlo : 500 ≤ fld p 8 2) (hhi : fld p 8 2 ≤ 1600) :
    exec (.setCap m p) s = .next (reply (setOwnerCap s (fld p 8 2) (bitAt (fld p 0x0A 1) 0)) m 0
      (bruahOut 0 (toLE 2 (impliedCap (setOwnerCap s (fld p 8 2) (bitAt (fld p 0x0A 1) 0)))))) := by
  refine (bruah_ok hlive hgate _).trans ?_
  have hcap : ¬ (fld p 8 2 < 500 ∨ 1600 < fld p 8 2) := by omega
  simp only [if_neg hcap]

theorem exec_setCap_spec {m : Mbox} {p : List Byte} {s : State} {t : LdId} (hlive : mboxLive s m = true)
    (hgate : gate s { owner := true, len := 0x0B, i3c := true, onStop := true } m p (bits (fld p 0x0A 1) 7 1 != 0) = .ok t)
    (hlo : 500 ≤ fld p 8 2) (hhi : fld p 8 2 ≤ 1600) :
    ∃ n, exec (.setCap m p) s = .next n ∧ n.power.ownerW = fld p 8 2
      ∧ n = reply (setOwnerCap s (fld p 8 2) (bitAt (fld p 0x0A 1) 0)) m 0
          (bruahOut 0 (toLE 2 (impliedCap (setOwnerCap s (fld p 8 2) (bitAt (fld p 0x0A 1) 0)))))
      ∧ n = { s with power := n.power, regs := n.regs, mboxes := n.mboxes } := by
  obtain ⟨hfields, howner⟩ := setOwnerCap_fields s (fld p 8 2) (bitAt (fld p 0x0A 1) 0)
  refine ⟨_, exec_setCap hlive hgate hlo hhi, howner.trans (clampCap_of_mem hlo hhi), rfl, ?_⟩
  generalize setOwnerCap s (fld p 8 2) (bitAt (fld p 0x0A 1) 0) = u at hfields ⊢
  rw [hfields]
  rfl

/-! ### Roles (R210) -/

section
variable {m : Mbox} {p : List Byte} {s : State} {t : LdId} (hlive : mboxLive s m = true)
  (hgate : gate s { owner := true, len := 0x0F } m p
    (!zeroAt p 0x0B 1 || decide (2 ≤ fld p 0x0E 1) || decide (4096 ≤ fld p 0x0C 2)) = .ok t)
include hlive hgate

/-- A role of the table has its next holder, or none, and answers its next epoch. -/
theorem exec_setRole_known {r : Role} (hr : s.roles.find? (fun r => r.id == BitVec.ofNat 24 (fld p 8 4)) = some r) :
    ∃ n, exec (.setRole m p) s = .next n ∧ (mboxOf n m).outp = bruahOut 0 (toLE 2 (r.epoch + 1).toNat)
      ∧ n.roles = s.roles.map (fun x => if x.id = r.id
          then { r with next := some (if bitAt (fld p 0x0E 1) 0 then none else some (BitVec.ofNat 12 (fld p 0x0C 2))) } else x) := by
  have hid : r.id = BitVec.ofNat 24 (fld p 8 4) := by simpa using List.find?_some hr
  refine ⟨_, bruah_ok hlive hgate _, ?_⟩
  simp only [hr, mboxOf_reply, hid]
  exact ⟨trivial, rfl⟩

/-- A new role takes a place of the role table, and answers epoch 1 (notes/assumptions/45.md). -/
theorem exec_setRole_new (hr : s.roles.find? (fun r => r.id == BitVec.ofNat 24 (fld p 8 4)) = none)
    (hset : bitAt (fld p 0x0E 1) 0 = false) (hroom : s.roles.length < Config.roleTableSize) :
    ∃ n, exec (.setRole m p) s = .next n ∧ (mboxOf n m).outp = bruahOut 0 (toLE 2 1)
      ∧ n.roles = s.roles ++ [{ id := BitVec.ofNat 24 (fld p 8 4), holder := BitVec.ofNat 12 (fld p 0x0C 2), epoch := 0
                                next := some (some (BitVec.ofNat 12 (fld p 0x0C 2))), live := false }] := by
  refine ⟨_, bruah_ok hlive hgate _, ?_⟩
  simp only [hr, hset, Bool.false_eq_true, if_false, if_neg (Nat.not_le.2 hroom), mboxOf_reply]
  exact ⟨trivial, rfl⟩

theorem exec_setRole_full (hr : s.roles.find? (fun r => r.id == BitVec.ofNat 24 (fld p 8 4)) = none)
    (hset : bitAt (fld p 0x0E 1) 0 = false) (hfull : Config.roleTableSize ≤ s.roles.length) :
    exec (.setRole m p) s = .next (reply s m 0 (bruahOut 8 (toLE 2 0))) := by
  refine (bruah_ok hlive hgate _).trans ?_
  simp only [hr, hset, Bool.false_eq_true, if_false, if_pos hfull]

end

theorem exec_writeReg {m : Mbox} {p : List Byte} {s : State} {t : LdId} (hlive : mboxLive s m = true)
    (hgate : gate s { owner := true, len := 0x18 + 8 * fld p 0x10 2 } m p (!zeroAt p 0x12 6) = .ok t)
    (hrange : rangeOk (fld p 8 8) (fld p 0x10 2) 1 509 = true) :
    exec (.writeReg m p) s = .next (reply ((List.range (fld p 0x10 2)).foldl
      (fun s k => regWrite s (fld p 8 8 + 8 * k) (fld p (0x18 + 8 * k) 8) .whole) s) m 0 (bruahOut 0 [])) := by
  refine (bruah_ok hlive hgate _).trans ?_
  simp only [hrange, if_true]

/-! ### The end of a stop (R421) -/

theorem setVdd_vddSet (s : State) (mv : Nat) : (setVdd s mv).power = { s.power with vddSet := mv } := by
  unfold setVdd
  split
  next h => rw [← h]
  · rfl

theorem startTraining_linksChanged (s : State) (p : PortId) : LinksChanged s (startTraining s p) := by
  unfold startTraining
  extract_lets u l t
  refine linksChanged_ite (setPort_linksChanged ..) ?_
  have ht : LinksChanged s t := linksChanged_ite (regBump_linksChanged ..) (.refl s)
  exact (ht.trans (setPort_linksChanged ..)).trans (send_linksChanged ..)

theorem startTraining_power (s : State) (p : PortId) : (startTraining s p).power = s.power := by
  unfold startTraining
  extract_lets u l t
  split
  · rfl
  · change (if u.trained then regBump s (rlReg p.val 0x40) 1 else s).power = s.power
    split
    · exact regBump_power ..
    · rfl

/-- The enabled ports that train, and nothing else of the power unit or below the links. -/
theorem leaveStop_ports (ks : List Nat) (s : State) :
    let n := ks.foldl (fun s k =>
      if regField s (rlReg k 0) 0 0 = 1 ∧ raileLive s ∧ (port s (Fin.ofNat 16 k)).st = .disabled then startTraining s (Fin.ofNat 16 k)
      else s) s
    LinksChanged s n ∧ n.power = s.power := by
  refine ⟨linksChanged_foldl (fun s k => linksChanged_ite (startTraining_linksChanged ..) (.refl s)) ks s, ?_⟩
  refine foldl_reads (g := State.power) ks s fun s k _ => ?_
  split
  · exact startTraining_power ..
  · rfl

theorem leaveStop_spec (s : State) :
    stopped (leaveStop s) = false ∧ (leaveStop s).power.asleep = false ∧ (leaveStop s).power.op = s.power.op
      ∧ (leaveStop s).power.vddSet = trimmed s s.power.wop := by
  unfold leaveStop
  extract_lets awake pins s1 pw s2
  obtain ⟨hlinks, hpower⟩ := leaveStop_ports (List.range 16) s2
  have hpw : s2.power = { s.power with raised := false, asleep := false, vddOp := s.power.wop, vddSet := trimmed s s.power.wop } :=
    setVdd_vddSet ..
  have hstop : stopped s2 = false := by
    have hregs : s2.regs = s1.regs := setVddOp_regs ..
    have h7 : regField s1 (pwrReg 0x010) 7 7 = bits 0 0 0 := regField_regPut _ _ _ _ _ (by omega)
    rw [stopped, regField, regGet, hregs]
    change (regField s1 (pwrReg 0x010) 7 7 == 1) = false
    rw [h7]
    rfl
  exact ⟨hlinks.stopped.trans hstop, by rw [hpower, hpw], by rw [hpower, hpw], by rw [hpower, hpw]⟩

theorem exec_restart {m : Mbox} {p : List Byte} {s : State} {t : LdId} (hlive : mboxLive s m = true)
    (hgate : gate s { owner := true, i3c := true, onStop := true } m p false = .ok t) :
    exec (.restart m p) s = .next (
      if stopped s then
        if mayRestart s then reply (leaveStop s) m 0 (bruahOut 0 []) else reply s m 0 (bruahOut 0x0A [])
      else reply s m 0 (bruahOut 9 [])) := by
  refine (bruah_ok hlive hgate _).trans ?_
  cases hstop : stopped s
  case false => simp
  case true => cases hmay : mayRestart s <;> simp

/-! ### The commands that CXL defines (R347, R349) -/

theorem policyOf_last (s : State) (m : Mbox) (v : BitVec 32) (xs : List (Mbox × BitVec 32))
    (h : s.faults.eventPolicy = xs.filter (fun x => x.1 != m) ++ [(m, v)]) : policyOf s m = v.toNat := by
  have hothers : (xs.filter (fun x => x.1 != m)).find? (fun x => x.1 == m) = none := by simp [List.find?_eq_none]
  simp [policyOf, h, List.find?_append, hothers]

/-- One window that stays is resized alone: no LD loses its capacity. -/
theorem exec_setLdAllocations_one {s s1 : State} {t : LdId} {u : Nat} (hlive : mboxLive s .owner = true)
    (hfw : s.fw.running = true) (hstop : stopped s = false) (hmld : s.pins.mld = true) (hu : 1 ≤ u)
    (hsize : resizeWindow s t (128 * u) = some s1) :
    exec (.setLdAllocations .owner t.val [u]) s = .next (reply s1 .owner 0 []) := by
  have hone : resizeAll s t.val [u] = some s1 := by
    have hld : ldId t.val = t := by simp [ldId]
    simp [resizeAll, hld, hsize]
  have hstays : (List.range 1).filter (fun k => nthD 0 [u] k == 0 && !(ten s (ldId (t.val + k))).window.isEmpty) = [] := by
    have hu0 : u ≠ 0 := by omega
    simp [nthD, hu0]
  change execSetLdAllocations .owner t.val [u] s = _
  rw [execSetLdAllocations, cxlCmd_owner hlive hfw hstop]
  simp only [hmld, Bool.not_true, Bool.false_eq_true, if_false, hone, List.length_singleton, hstays, List.foldl_nil]

/-- Settles O43, command by command. -/
theorem ownerCommandsSet : Obligations.OwnerCommandsSet := by
  refine ⟨fun m p s t hlive => ⟨fun hgate => ?window, exec_setSldSpan hlive, exec_setCap_spec hlive,
    fun r hgate hr => exec_setRole_known hlive hgate hr,
    fun hgate hr hset => ⟨exec_setRole_new hlive hgate hr hset, exec_setRole_full hlive hgate hr hset⟩,
    exec_writeReg hlive, fun hgate => ?restart⟩,
    fun s hlive hfw hstop => ⟨fun k => ?clear, fun v => ?policy, fun v => ?time, ?sizes⟩⟩
  case window =>
    refine ⟨fun s1 h1 => ⟨resizeWindow_length h1, ?_⟩, fun hnone => ?_⟩
    · rw [exec_setWindow hlive hgate, h1]
      dsimp only
      rw [resizeWindow_length h1]
    · rw [exec_setWindow hlive hgate, hnone]
  case restart =>
    rw [exec_restart hlive hgate]
    refine ⟨fun h => ?_, fun h hmay => ?_, fun h hmay => ⟨?_, leaveStop_spec s⟩⟩
    · simp [h]
    · simp [h, hmay]
    · simp [h, hmay]
  case clear =>
    change ∃ n, execClearEventRecords .owner k s = .next n ∧ _
    rw [execClearEventRecords, cxlCmd_owner hlive hfw hstop]
    refine ⟨_, rfl, ?_, rfl⟩
    rw [mboxOf_reply]
  case policy =>
    change ∃ n, execSetEventInterruptPolicy .owner v s = .next n ∧ _
    rw [execSetEventInterruptPolicy, cxlCmd_owner hlive hfw hstop]
    refine ⟨_, rfl, ?_, policyOf_last _ _ v s.faults.eventPolicy rfl⟩
    rw [mboxOf_reply]
  case time =>
    change ∃ n, execSetTimestamp .owner v s = .next n ∧ _
    rw [execSetTimestamp, cxlCmd_owner hlive hfw hstop]
    refine ⟨_, rfl, ?_, rfl⟩
    rw [mboxOf_reply]
  case sizes => exact fun t u s1 hmld hu hsize => exec_setLdAllocations_one hlive hfw hstop hmld hu hsize

end Sys2Proof.Machine
end

section
/-! # Loads and unloads (O44)

Refuted by the clause that UNLOAD_LP leaves HBM as it reads. The tree nodes keyed on the slot are evicted (R255), the POOL frames of
their descriptors become FREE (R254), and a frame whose owner tag selects another key slot reads under that slot's key from then on
(R441). -/

namespace Sys2Proof.Machine

/-! ### What a byte of a frame reads under another key -/

theorem keysRise_cellWrites (a : Nat) (bs : List Byte) {m : List Host.Cell} (h : keysRise m = true) :
    keysRise (cellWrites a bs m) = true := by
  induction bs generalizing a m with
  | nil => exact h
  | cons b bs ih => exact ih (a + 1) (keysRise_cellWrite a b m h)

theorem cellRead_cellWrites_below {a z : Nat} (bs : List Byte) {m : List Host.Cell} (h : keysRise m = true) (hz : z < a) :
    cellRead z (cellWrites a bs m) = cellRead z m := by
  induction bs generalizing a m with
  | nil => rfl
  | cons b bs ih =>
    have hne : z ≠ a := by omega
    exact (ih (keysRise_cellWrite a b m h) (by omega)).trans ((cellRead_write a z b m h).trans (if_neg hne))

theorem cellRead_cellWrites_first (a : Nat) (b : Byte) (bs : List Byte) {m : List Host.Cell} (h : keysRise m = true) :
    cellRead a (cellWrites a (b :: bs) m) = b :=
  (cellRead_cellWrites_below bs (keysRise_cellWrite a b m h) (Nat.lt_succ_self a)).trans
    ((cellRead_write a a b m h).trans (if_pos rfl))

/-- The lines from `line` on, rekeyed, leave what lies below them. -/
theorem cellRead_rekeyLines_below (old new : List Byte) {z : Nat} (lines : List Nat) {m : List Host.Cell} (h : keysRise m = true)
    (hz : ∀ l ∈ lines, z < l * 256) : cellRead z (lines.foldl (rekeyLine old new) m) = cellRead z m := by
  induction lines generalizing m with
  | nil => rfl
  | cons l lines ih =>
    have hl : cellRead z (rekeyLine old new m l) = cellRead z m := cellRead_cellWrites_below _ h (hz l List.mem_cons_self)
    exact (ih (keysRise_cellWrites _ _ h) fun k hk => hz k (List.mem_cons_of_mem l hk)).trans hl

/-- The first byte of a frame whose slot changes is the first that its first line deciphers to. -/
theorem cellRead_rekeyFrame_first {s : State} {old new : List Byte} {f : Nat} {b : Byte} {bs : List Byte} (hkeys : old ≠ new)
    (h : keysRise s.mem = true)
    (hb : xtsOpen new (f * 256) (xtsSeal old (f * 256) (cellReads s.mem (f * 256 * 256) 256)) = b :: bs) :
    cellRead (f * 256 * 256) (rekeyFrame old new s f).mem = b := by
  have hlines : (List.range 256).map (f * 256 + ·) = f * 256 :: ((List.range 255).map Nat.succ).map (f * 256 + ·) := by
    rw [List.range_succ_eq_map, List.map_cons, Nat.add_zero]
  have hmem : (rekeyFrame old new s f).mem = ((List.range 256).map (f * 256 + ·)).foldl (rekeyLine old new) s.mem := if_neg hkeys
  have hline : cellRead (f * 256 * 256) (rekeyLine old new s.mem (f * 256)) = b := by
    rw [rekeyLine, hb]
    exact cellRead_cellWrites_first _ b bs h
  rw [hmem, hlines, List.foldl_cons, cellRead_rekeyLines_below, hline]
  · exact keysRise_cellWrites _ _ h
  · intro l hl
    obtain ⟨_, hk, rfl⟩ := List.mem_map.1 hl
    obtain ⟨k, -, rfl⟩ := List.mem_map.1 hk
    omega

/-! ### A READY slot on which a tree node is keyed -/

/-- The key of LD 0's frames. -/
def poolKey : List Byte := List.replicate 32 1 ++ List.replicate 32 0

/-- A tree node keyed on LP slot 9. -/
def lpNode : Node :=
  { idx := 0, hash := [], ld := 0, image := 0, adapterId := 0, adapterVer := 0, lpSlot := 9, parent := none, refs := 0, lastUse := 0
    tokens := [], pages := [], forked := false, desc := 2 ^ 47 }

/-- A running device whose LP slot 9 is READY with no request bound to it, and with one node keyed on it, whose descriptor lies in frame 65
of LD 0's pool. -/
def lpReady : State :=
  { State.reset with
    pins := { pwrgood := true, perstN := true, hostLink := true, mld := true, bootPath := some true }
    fw := { running := true, keyIndex := 1, svn := 2 }
    lps := State.reset.lps.set 9 { st := .ready, handle := 0, len := 64 }
    nodes := [lpNode]
    lds := State.reset.lds.set 0 { tva := [(2 ^ 31, 65)] }
    tags := [(65, .pool 0)]
    sec := { hbmKeys := (List.replicate 17 none).set 0 (some poolKey) } }

/-- The same with slot 9 emptied, before any eviction. -/
def lpEmptied : State := { lpReady with lps := lpReady.lps.set 9 {} }

/-- UNLOAD_LP of slot 9 at the owner's mailbox. -/
def unloadNine : List Byte := [0xFF, 0, 0, 0, 0, 0, 0, 0, 9]

/-! ### The eviction of a node that stands alone -/

/-- A page that lies in one frame is unmapped: the frame becomes FREE. -/
theorem unmapRange_frame {s : State} {t : LdId} {v f : Nat} (h : lookupN (v / 65536) (ten s t).tva = some f) :
    (unmapRange s t v 65536).mem = (setTag s f .free).mem := by
  have hone : List.range (cdiv 65536 65536) = [0] := rfl
  rw [unmapRange, hone, List.foldl_cons, List.foldl_nil, Nat.add_zero, h]
  rfl

/-- The only node, without pages, takes its descriptor's frame with it (R254). -/
theorem removeNode_alone {s : State} {n : Node} {f : Nat} (hnodes : s.nodes = [n]) (hpages : s.pages = []) (hn : n.pages = [])
    (h : lookupN (n.desc / 65536 * 65536 / 65536) (ten s (ldId n.ld)).tva = some f) :
    (removeNode s n).mem = (setTag (unlinkNode s n) f .free).mem := by
  have hgone : (unlinkNode s n).nodes = [] := by simp [unlinkNode, hnodes]
  have hnone : (unlinkNode s n).pages = [] := hpages
  rw [removeNode, regBump_mem, dropNode, hn]
  simp only [hgone, hnone, List.any_nil, Bool.or_self, Bool.false_eq_true, if_false, List.foldl_nil]
  exact unmapRange_frame h

theorem evictWhere_alone {s : State} {p : Node → Bool} {n : Node} (hnodes : s.nodes = [n]) (hp : p n = true)
    (hroot : n.parent = none) : evictWhere s p = removeNode s n := by
  simp [evictWhere, hnodes, hp, removeSubtree, hroot]

/-- A frame whose tag comes to select another slot reads under that slot's key (R441). -/
theorem setTag_mem_of_slot {s : State} {f : Nat} {t : Tag} (h : tagSlot (frameTag s f) ≠ tagSlot t) :
    (setTag s f t).mem = (rekeyFrame (slotKey s (tagSlot (frameTag s f))) (slotKey s (tagSlot t)) s f).mem := by
  rw [setTag]
  exact (congrArg State.mem (if_neg h)).trans rfl

/-- The node's eviction frees the frame of its descriptor, which reads under the device's own slot from then on. -/
theorem emptyLp_lpReady_mem : (emptyLp lpReady 9).mem = (rekeyFrame poolKey (List.replicate 64 0) lpReady 65).mem := by
  have hready : lpReady.lps[(9 : Fin 64)] = { st := .ready, handle := 0, len := 64 } := rfl
  have hempty : emptyLp lpReady 9 = evictWhere lpEmptied (fun n => n.lpSlot == 9 && n.image == 0) := by
    rw [emptyLp, hready]
    exact if_neg nofun
  have hpage : lookupN (lpNode.desc / 65536 * 65536 / 65536) (ten lpEmptied (ldId lpNode.ld)).tva = some 65 := by decide
  rw [hempty, evictWhere_alone (n := lpNode) rfl rfl rfl, removeNode_alone (f := 65) rfl rfl rfl hpage,
    setTag_mem_of_slot (by decide)]
  rfl

/-- The first byte of that frame, which read 0 before. -/
theorem frame65_reads : cellRead (65 * 256 * 256) (emptyLp lpReady 9).mem = 0x5F := by
  have hfirst : (xtsOpen (List.replicate 64 0) (65 * 256)
      (xtsSeal poolKey (65 * 256) (cellReads lpReady.mem (65 * 256 * 256) 256))).head? = some 0x5F := by decide +kernel
  obtain ⟨bs, hbs⟩ := List.head?_eq_some_iff.1 hfirst
  rw [emptyLp_lpReady_mem]
  exact cellRead_rekeyFrame_first (by decide) rfl hbs

theorem reply_mem (s : State) (m : Mbox) (ret : Nat) (out : List Byte) : (reply s m ret out).mem = s.mem := rfl

theorem exec_unloadLp_unused {m : Mbox} {p : List Byte} {s : State} {t : LdId} (hlive : mboxLive s m = true)
    (hgate : gate s { owner := true, len := 9 } m p false = .ok t) (hk : fld p 8 1 < 64) (hrefs : lpRefs s (fld p 8 1) = 0)
    (hst : (s.lps[Fin.ofNat 64 (fld p 8 1)]).st ≠ .loading) :
    exec (.unloadLp m p) s = .next (reply (emptyLp s (Fin.ofNat 64 (fld p 8 1))) m 0 (bruahOut 0 [])) := by
  refine (bruah_ok hlive hgate _).trans ?_
  have huse : ¬ (0 < lpRefs s (fld p 8 1) ∨ (s.lps[Fin.ofNat 64 (fld p 8 1)]).st = .loading) :=
    not_or.2 ⟨by omega, hst⟩
  simp only [if_neg (Nat.not_le.2 hk), if_neg huse]

/-- Refutes O44: UNLOAD_LP of a READY slot with a node keyed on it leaves HBM reading otherwise than before (R254, R441). -/
theorem not_loadsAndUnloads : ¬ Obligations.LoadsAndUnloads := by
  intro h
  have hlive : mboxLive lpReady .owner = true := by decide
  have hgate : gate lpReady { owner := true, len := 9 } .owner unloadNine false = .ok 15 := by decide
  have hslot : fld unloadNine 8 1 = 9 := by decide
  have hfree : lpRefs lpReady (fld unloadNine 8 1) = 0 := by decide
  have hidle : (lpReady.lps[Fin.ofNat 64 (fld unloadNine 8 1)]).st ≠ .loading := by decide
  obtain ⟨-, hunload⟩ := (h.2 .owner unloadNine lpReady 15 hlive).2.2 hgate (by decide)
  obtain ⟨n, hn, -, -, hmem⟩ := hunload hfree hidle
  have hrun := exec_unloadLp_unused hlive hgate (by decide) hfree hidle
  obtain rfl := Host.Outcome.next.inj (hrun.symm.trans hn)
  have hnine : Fin.ofNat 64 9 = (9 : Fin 64) := rfl
  rw [hslot, hnine, reply_mem] at hmem
  have hread := frame65_reads
  rw [hmem] at hread
  exact absurd hread (by decide)

end Sys2Proof.Machine
end

section
/-! # What leaves the tick unit as it is

The furrow and window numbers, the place in the window and what the tick unit holds beside them (`State.tick`) change at a tick, at a
headland, by messages of time and by the references alone. Here, for every other definition that the end of a furrow and the
begin of the next one go through: it leaves the tick unit as it was. -/

namespace Sys2Proof.Machine

/-! ### The shapes -/

theorem Noted.tick {s n : State} {p : List Nat} {m : Vector MereSlice 4} (h : Noted { s with poison := p, mere := m } n) :
    n.tick = s.tick := by rw [h.fields]

theorem LinesTouched.tick {s n : State} (h : LinesTouched s n) : n.tick = s.tick := Noted.tick h

@[simp] theorem ite_tick {c : Prop} [Decidable c] (s t : State) : (if c then s else t).tick = if c then s.tick else t.tick :=
  apply_ite State.tick c s t

/-- The tick unit is as it was. A fold's step is stated by it, for it compares by the states and not by what they hold. -/
structure SameTick (s n : State) : Prop where
  tick : n.tick = s.tick

@[simp] theorem sameTick_iff (s n : State) : SameTick s n ↔ n.tick = s.tick := ⟨SameTick.tick, SameTick.mk⟩

@[simp] theorem foldl_tick {α : Type} {f : State → α → State} (h : ∀ s x, SameTick s (f s x)) (l : List α) (s : State) :
    (l.foldl f s).tick = s.tick := foldl_reads l s fun s x _ => (h s x).tick

/-- The same of steps that carry more than the state. -/
theorem foldlBeside_tick {α β : Type} {st : β → State} {f : β → α → β} (h : ∀ y x, SameTick (st y) (st (f y x)))
    (l : List α) (y : β) : (st (l.foldl f y)).tick = (st y).tick := by
  induction l generalizing y with
  | nil => rfl
  | cons x l ih => exact (ih _).trans (h y x).tick

/-! ### Units, records and work items (Machine/Ops.lean) -/

@[simp] theorem forArrays_tick {f : State → ArrId → State} (h : ∀ s a, SameTick s (f s a)) (s : State) :
    (forArrays s f).tick = s.tick := foldl_tick h _ s

@[simp] theorem forFes_tick {f : State → FeId → State} (h : ∀ s a, SameTick s (f s a)) (s : State) :
    (forFes s f).tick = s.tick := foldl_tick h _ s

@[simp] theorem mapDescs_tick (s : State) (g : DescRun → DescRun) : (mapDescs s g).tick = s.tick := by rw [mapDescs_fields]

@[simp] theorem forLds_tick {f : State → LdId → State} (h : ∀ s t, SameTick s (f s t)) (s : State) :
    (forLds s f).tick = s.tick := foldl_tick h _ s

@[simp] theorem setHbmKey_tick (s : State) (slot : Nat) (k : Option (List Byte)) : (setHbmKey s slot k).tick = s.tick := rfl

@[simp] theorem rekeyFrame_tick (old new : List Byte) (s : State) (f : Nat) : (rekeyFrame old new s f).tick = s.tick := rfl

@[simp] theorem slicesWrote_tick (s : State) (ps : List Nat) : (slicesWrote s ps).tick = s.tick := by simp [slicesWrote]

@[simp] theorem hbmWrote_tick (s : State) (x : Nat × Nat) : (hbmWrote s x).tick = s.tick := by simp [hbmWrote]

@[simp] theorem piecesWrote_tick (s : State) (ps : List (Nat × Nat)) : (piecesWrote s ps).tick = s.tick := by simp [piecesWrote]

@[simp] theorem giveFrame_tick (s : State) (f : Nat) (t : Tag) : (giveFrame s f t).tick = s.tick := by simp [giveFrame]

@[simp] theorem setMaterial_tick (s : State) (t : LdId) (m : Option (List Byte)) (gen : Nat) (frames : List Nat) :
    (setMaterial s t m gen frames).tick = s.tick := by simp [setMaterial]

@[simp] theorem tvaWrites_tick (s : State) (t : LdId) (v : Nat) (bs : List Byte) : (tvaWrites s t v bs).tick = s.tick := by
  induction bs generalizing s v with
  | nil => rfl
  | cons b bs ih =>
    rw [tvaWrites_cons, ih, tvaPut]
    split <;> rfl

@[simp] theorem regClearBit_tick (s : State) (o b : Nat) : (regClearBit s o b).tick = s.tick := rfl

@[simp] theorem geoBump_tick (s : State) : (geoBump s).tick = s.tick := rfl

@[simp] theorem setFn_tick (s : State) (fn : Mbox) (x : FnRegs) : (setFn s fn x).tick = s.tick := rfl

@[simp] theorem setPending_tick (s : State) (fn : Mbox) (v : Nat) (b : Bool) : (setPending s fn v b).tick = s.tick := rfl

@[simp] theorem sendMsix_tick (s : State) (fn : Mbox) (v : Nat) : (sendMsix s fn v).tick = s.tick := (sendMsix_noted ..).tick

@[simp] theorem ownerEvent_tick (s : State) (bs : List Byte) : (ownerEvent s bs).tick = s.tick := (ownerEvent_noted ..).tick

@[simp] theorem tenantEvent_tick (s : State) (t : LdId) (bs : List Byte) : (tenantEvent s t bs).tick = s.tick :=
  (tenantEvent_noted ..).tick

@[simp] theorem mediaEvent_tick (s : State) (t : LdId) (off : Nat) : (mediaEvent s t off).tick = s.tick :=
  (mediaEvent_noted ..).tick

@[simp] theorem logFaultIn_tick (s : State) (furrow : Nat) (r : FaultRec) : (logFaultIn s furrow r).tick = s.tick :=
  (logFaultIn_noted ..).tick

@[simp] theorem logFault_tick (s : State) (r : FaultRec) : (logFault s r).tick = s.tick := (logFault_noted ..).tick

@[simp] theorem logAt_tick (s : State) (cls domain source unit code : Nat) : (logAt s cls domain source unit code).tick = s.tick := by
  simp [logAt]

@[simp] theorem discardOn_tick (every : Bool) (id : Nat) (s : State) (f : FeId) : (discardOn every id s f).tick = s.tick := by
  simp [discardOn]

@[simp] theorem freeMgen_tick (s : State) (i : Nat) : (freeMgen s i).tick = s.tick := rfl

@[simp] theorem discardDescs_tick (s : State) (every : Bool) (id : Nat) : (discardDescs s every id).tick = s.tick := by
  simp [discardDescs]

@[simp] theorem countWaits_tick (s : State) (a : ArrId) : (countWaits s a).tick = s.tick := by simp [countWaits]

@[simp] theorem countStallsOn_tick (p : DescRun → Bool) (s : State) (f : FeId) : (countStallsOn p s f).tick = s.tick := by
  unfold countStallsOn
  exact (setFe_tick ..).trans (foldl_tick (fun s x => by split <;> simp) _ s)

@[simp] theorem cutItem_tick (s : State) (w : ItemRun) : (cutItem s w).tick = s.tick := by simp [cutItem]

@[simp] theorem copyTrap_tick (s : State) (a : ArrId) : (copyTrap s a).tick = s.tick := by simp [copyTrap]

@[simp] theorem haltItem_tick (s : State) (w : ItemRun) (why cause : Nat) (pt : Option (Nat × Nat × Nat)) :
    (haltItem s w why cause pt).tick = s.tick := by simp [haltItem]

@[simp] theorem meterSer_tick (s : State) (b : Bearer) (n : Nat) : (meterSer s b n).tick = s.tick := rfl

@[simp] theorem meterCtx_tick (s : State) (ctx n : Nat) : (meterCtx s ctx n).tick = s.tick := (meterCtx_noted ..).tick

/-! ### The cap (Machine/Cap.lean) -/

@[simp] theorem setVdd_tick (s : State) (mv : Nat) : (setVdd s mv).tick = s.tick := by simp [setVdd]

@[simp] theorem setVddOp_tick (s : State) (op : Nat) : (setVddOp s op).tick = s.tick := by simp [setVddOp]

@[simp] theorem dropTrim_tick (s : State) : (dropTrim s).tick = s.tick := by simp [dropTrim]

@[simp] theorem floorFlag_tick (s : State) (floor : Bool) : (floorFlag s floor).tick = s.tick := by simp [floorFlag]

@[simp] theorem pendPair_tick (s : State) (late : Bool) : (pendPair s late).tick = s.tick := by simp [pendPair]

@[simp] theorem capChange_tick (s : State) : (capChange s).tick = s.tick := by simp [capChange]

/-! ### Spad (Machine/Spad.lean) -/

@[simp] theorem abandonRings_tick (s : State) (a : ArrId) : (abandonRings s a).tick = s.tick := by simp [abandonRings]

@[simp] theorem abandonArray_tick (s : State) (a : ArrId) : (abandonArray s a).tick = s.tick := by simp [abandonArray]

/-! ### Vector (Machine/Vector.lean) -/

@[simp] theorem barInc_tick (s : State) (b : Nat) : (barInc s b).tick = s.tick := rfl

@[simp] theorem itemBarInc_tick (s : State) (w : ItemRun) (n : Nat) : (itemBarInc s w n).tick = s.tick := by
  unfold itemBarInc
  split <;> rfl

/-! ### Memory (Machine/Access.lean) -/

@[simp] theorem noteCause_tick (s : State) (i c : Nat) : (noteCause s i c).tick = s.tick := (noteCause_noted ..).tick

@[simp] theorem noteItem_tick (s : State) (w : ItemRun) (c : Nat) : (noteItem s w c).tick = s.tick := (noteItem_noted ..).tick

theorem mapPage_tick {s n : State} {t : LdId} {entry : Option Nat} {v : Nat} (h : mapPage s t entry v = some n) : n.tick = s.tick := by
  unfold mapPage at h
  extract_lets +onlyGivenNames booked at h
  split at h
  · cases h
  · split at h
    · dsimp only at h
      split at h
      · split at h
        · cases h
          exact (setWork_tick ..).trans ((setTen_tick ..).trans (giveFrame_tick ..))
        · cases h
          exact (setTen_tick ..).trans (giveFrame_tick ..)
      · cases h
        exact (setTen_tick ..).trans (giveFrame_tick ..)
    · cases h

theorem mapRange_tick {s n : State} {t : LdId} {entry : Option Nat} {v pages : Nat} (h : mapRange s t entry v pages = some n) :
    n.tick = s.tick := by
  induction pages generalizing s v with
  | zero => cases h; rfl
  | succ pages ih =>
    rw [mapRange] at h
    split at h
    case h_1 => cases h
    case h_2 s' hpage =>
      split at hpage
      · cases hpage; exact ih h
      · exact (ih h).trans (mapPage_tick hpage)

@[simp] theorem unmapRange_tick (s : State) (t : LdId) (v bytes : Nat) : (unmapRange s t v bytes).tick = s.tick := by
  unfold unmapRange
  exact foldl_tick (fun s i => by split <;> simp) _ s

theorem rgnTranslate_tick {s n : State} {op : RailOp} {t : LdId} {v k : Nat} (h : rgnTranslate s op t v k = .ok n) :
    n.tick = s.tick := by
  unfold rgnTranslate at h
  split at h
  · cases h
  · split at h
    · cases h; rfl
    · split at h
      · cases h
      · split at h
        · next hr => cases h; exact mapRange_tick hr
        · cases h

theorem railAccess_tick {s : State} {op : RailOp} {ctx src off k : Nat} {r : State × LdId × Nat}
    (h : railAccess s op ctx src off k = .ok r) : r.1.tick = s.tick := by
  unfold railAccess at h
  split at h
  · cases h
  · split at h
    · cases h
    · next hr => cases h; exact rgnTranslate_tick hr

@[simp] theorem mereRead_tick (s : State) (dpa hint : Nat) : (mereRead s dpa hint).tick = s.tick := (mereRead_noted ..).tick

@[simp] theorem meterArrays_tick (s : State) (w : ItemRun) : (meterArrays s w).tick = s.tick := rfl

@[simp] theorem meterItems_tick (s : State) : (meterItems s).tick = s.tick := by simp [meterItems]

@[simp] theorem retirePc_tick (s : State) {pc : Nat} (h : pc < 640) : (retirePc s pc).tick = s.tick := (retirePc_noted s h).tick

@[simp] theorem notePcErr_tick (s : State) {pc : Nat} (line : Option Nat) (n : Nat) (h : pc < 640) :
    (notePcErr s pc line n).tick = s.tick :=
  (notePcErr_noted s line n h).tick

@[simp] theorem eccCorrect_tick (s : State) (dpa n : Nat) : (eccCorrect s dpa n).tick = s.tick := (eccCorrect_noted ..).tick

@[simp] theorem eccPoison_tick (s : State) (dpa : Nat) (quiet : Bool) : (eccPoison s dpa quiet).tick = s.tick :=
  (eccPoison_noted ..).tick

@[simp] theorem hbmRead_tick (quiet : Bool) (s : State) (dpa : Nat) : (hbmRead quiet s dpa).tick = s.tick := (hbmRead_noted ..).tick

@[simp] theorem workRead_tick (hint : Nat) (s : State) (dpa : Nat) : (workRead hint s dpa).tick = s.tick :=
  (workRead_linesTouched ..).tick

@[simp] theorem memTouch_tick (s : State) (a n : Nat) : (memTouch s a n).tick = s.tick := by simp [memTouch]

@[simp] theorem tvaTouch_tick (s : State) (t : LdId) (v n hint : Nat) : (tvaTouch s t v n hint).tick = s.tick := by simp [tvaTouch]

@[simp] theorem touchAll_tick (s : State) (t : LdId) (rs : List (Nat × Nat)) : (touchAll s t rs).tick = s.tick := by simp [touchAll]

@[simp] theorem unpoison_tick (s : State) (a n : Nat) : (unpoison s a n).tick = s.tick := rfl

@[simp] theorem tvaUnpoison_tick (s : State) (t : LdId) (v n : Nat) : (tvaUnpoison s t v n).tick = s.tick := by
  unfold tvaUnpoison
  refine foldl_tick (fun s k => ⟨?_⟩) _ s
  dsimp only
  split
  · rfl
  · split <;> simp

@[simp] theorem tvaStore_tick (s : State) (t : LdId) (v : Nat) (bs : List Byte) : (tvaStore s t v bs).tick = s.tick := by
  simp [tvaStore]

@[simp] theorem devWrite_tick (s : State) (t : LdId) (entry : Option Nat) (v : Nat) (bs : List Byte) :
    (devWrite s t entry v bs).tick = s.tick := by
  have hsame : SameTick s (devWrite s t entry v bs) := by
    unfold devWrite
    split
    · next h => exact ⟨(tvaStore_tick ..).trans (mapRange_tick h)⟩
    · exact ⟨rfl⟩
  exact hsame.tick

@[simp] theorem damageFrame_tick (s : State) (f : Nat) : (damageFrame s f).tick = s.tick := rfl

@[simp] theorem ownDenied_tick (s : State) (code : Nat) : (ownDenied s code).tick = s.tick :=
  (regPut_tick ..).trans ((regPut_tick ..).trans ((regPut_tick ..).trans ((regBump_tick ..).trans (regBump_tick ..))))

/-! ### Records and pages (Machine/Records.lean) -/

@[simp] theorem jrnlAdd_tick (s : State) (r : JRec) : (jrnlAdd s r).tick = s.tick := rfl

@[simp] theorem jrnlPut_tick (s : State) (i ty : Nat) (body : List Byte) : (jrnlPut s i ty body).tick = s.tick := rfl

@[simp] theorem flushProgress_tick (s : State) (i : Nat) : (flushProgress s i).tick = s.tick := by simp [flushProgress]

@[simp] theorem jrnlAdmit_tick (s : State) (i : Nat) : (jrnlAdmit s i).tick = s.tick := rfl

@[simp] theorem jrnlEnd_tick (s : State) (i : Nat) : (jrnlEnd s i).tick = s.tick := by simp [jrnlEnd]

@[simp] theorem putRecord_tick (s : State) (q : Fin 128) (bs : List Byte) (compl : Bool) : (putRecord s q bs compl).tick = s.tick := by
  simp [putRecord]

@[simp] theorem postRecord_tick (s : State) (t : LdId) (q : Fin 128) (bs : List Byte) (compl place : Bool) :
    (postRecord s t q bs compl place).tick = s.tick := by simp [postRecord]

/-! ### Pages, blocks, the tree and bookings (Machine/Booking.lean) -/

@[simp] theorem pageRef_tick (s : State) (t tva : Nat) : (pageRef s t tva).tick = s.tick := rfl

@[simp] theorem unmapPage_tick (s : State) (t tva log2 : Nat) : (unmapPage s t tva log2).tick = s.tick := by simp [unmapPage]

@[simp] theorem pageDrop_tick (s : State) (t : Nat) (now : Bool) (tva : Nat) : (pageDrop s t now tva).tick = s.tick := by
  unfold pageDrop
  split <;> simp

@[simp] theorem reapPages_tick (s : State) : (reapPages s).tick = s.tick := by simp [reapPages]

@[simp] theorem kvTake_tick (s : State) (t : LdId) (size : Nat) : (kvTake s t size).1.tick = s.tick := rfl

@[simp] theorem newPages_tick (s : State) (t : LdId) (layers log2 : Nat) : (newPages s t layers log2).1.tick = s.tick := by
  unfold newPages
  refine foldlBeside_tick (st := Prod.fst) (fun x i => ?_) _ (s, [])
  dsimp only
  split <;> simp

@[simp] theorem writeRow_tick (s : State) (i b : Nat) (k : Block) : (writeRow s i b k).tick = s.tick := by simp [writeRow]

@[simp] theorem writeBlock_tick (s : State) (i b : Nat) : (writeBlock s i b).tick = s.tick := by simp [writeBlock]

@[simp] theorem writeAbsent_tick (s : State) (i b layers : Nat) : (writeAbsent s i b layers).tick = s.tick := by simp [writeAbsent]

@[simp] theorem putBlock_tick (s : State) (i b : Nat) (k : Block) : (putBlock s i b k).tick = s.tick := by simp [putBlock]

@[simp] theorem ensureBlocks_tick (s : State) (i upto : Nat) : (ensureBlocks s i upto).tick = s.tick := by simp [ensureBlocks]

@[simp] theorem setValid_tick (s : State) (i len : Nat) : (setValid s i len).tick = s.tick := by simp [setValid]

@[simp] theorem writeMarks_tick (s : State) (i lo up : Nat) : (writeMarks s i lo up).tick = s.tick := rfl

@[simp] theorem openBlocks_tick (s : State) (i lo up : Nat) : (openBlocks s i lo up).tick = s.tick := by simp [openBlocks]

@[simp] theorem clearBlock_tick (s : State) (i b : Nat) : (clearBlock s i b).tick = s.tick := by simp [clearBlock]

@[simp] theorem dropBlocks_tick (s : State) (i b : Nat) : (dropBlocks s i b).tick = s.tick := by simp [dropBlocks]

@[simp] theorem dropNodes_tick (s : State) (ns : List Nat) : (dropNodes s ns).tick = s.tick := rfl

@[simp] theorem descPlace_tick (s : State) (t : LdId) (image layers : Nat) : (descPlace s t image layers).1.tick = s.tick := by
  unfold descPlace
  dsimp only
  split <;> rfl

@[simp] theorem linkNode_tick (s : State) (n : Node) : (linkNode s n).tick = s.tick := rfl

@[simp] theorem unlinkNode_tick (s : State) (n : Node) : (unlinkNode s n).tick = s.tick := rfl

@[simp] theorem dropNode_tick (s : State) (n : Node) : (dropNode s n).tick = s.tick := by simp [dropNode]

@[simp] theorem removeNode_tick (s : State) (n : Node) : (removeNode s n).tick = s.tick := by simp [removeNode]

@[simp] theorem removeSubtree_tick (fuel : Nat) (s : State) (i : Nat) : (removeSubtree fuel s i).tick = s.tick := by
  induction fuel generalizing s i with
  | zero => rfl
  | succ fuel ih =>
    unfold removeSubtree
    split
    · rfl
    · exact (removeNode_tick ..).trans (foldl_tick (fun s (x : Node) => ⟨ih s x.idx⟩) _ s)

@[simp] theorem evictWhere_tick (s : State) (p : Node → Bool) : (evictWhere s p).tick = s.tick := by simp [evictWhere]

@[simp] theorem insertNode_tick (s : State) (i b : Nat) (parent : Option Nat) (toks : List Nat) :
    (insertNode s i b parent toks).tick = s.tick := by
  unfold insertNode
  extract_lets e k blk full room
  have hroom : ∀ n, room = some n → n.tick = s.tick := by
    intro n hn
    unfold room at hn
    split at hn
    · split at hn <;> cases hn; simp
    · cases hn; rfl
  clear_value room
  split
  · rfl
  · cases room with
    | none => exact regBump_tick ..
    | some n => simpa using hroom n rfl

theorem bookSeat_tick {s n : State} {i : Nat} {e : Entry} {m : ModelInfo} {p : Plan} {rp g : Nat}
    (h : bookSeat s i e m p rp g = some n) : n.tick = s.tick := by
  unfold bookSeat at h
  dsimp only at h
  split at h
  · split at h <;> cases h; rfl
  · split at h
    · cases h
    · split at h <;> cases h; rfl

theorem bookSeats_tick {s n : State} {i : Nat} {e : Entry} {m : ModelInfo} {p : Plan} {rp k g : Nat}
    (h : bookSeats i e m p rp k g s = some n) : n.tick = s.tick := by
  induction k generalizing s g with
  | zero => cases h; rfl
  | succ k ih =>
    rw [bookSeats] at h
    split at h
    · next hseat => exact (ih h).trans (bookSeat_tick hseat)
    · cases h

theorem tailSearch_tick {s : State} {i : Nat} {e : Entry} {m : ModelInfo} {p : Plan} {rp c need fuel start : Nat} {r : State × Nat}
    (h : tailSearch s i e m p rp c need fuel start = .ok r) : r.1.tick = s.tick := by
  induction fuel generalizing start with
  | zero => cases h
  | succ fuel ih =>
    rw [tailSearch] at h
    split at h
    · cases h
    · split at h
      · next hseats => cases h; exact bookSeats_tick hseats
      · exact ih h

theorem bookTail_tick {s : State} {i : Nat} {e : Entry} {q c : Nat} {r : State × Nat} (h : bookTail s i e q c = .ok r) :
    r.1.tick = s.tick := by
  unfold bookTail at h
  split at h
  · cases h; rfl
  · dsimp only at h
    split at h
    · cases h
    · exact tailSearch_tick h

/-! ### Links and messages (Machine/Net.lean) -/

@[simp] theorem sendFrame_tick (s : State) (p : PortId) (fseq : BitVec 12) (nak idle : Bool) (b : TxBody) :
    (sendFrame s p fseq nak idle b).tick = s.tick :=
  (sendFrame_noted ..).tick

@[simp] theorem pumpPort_tick (p : PortId) (fuel : Nat) (s : State) : (pumpPort p fuel s).tick = s.tick := (pumpPort_noted ..).tick

@[simp] theorem portSend_tick (s : State) (p : PortId) (vc : Bool) (bs : List Byte) : (portSend s p vc bs).tick = s.tick := by
  simp [portSend]

@[simp] theorem setFlow_tick (s : State) (f : Flow) : (setFlow s f).tick = s.tick := rfl

@[simp] theorem flowBytes_tick (s : State) (f : Flow) (bs : List Byte) : (flowBytes s f bs).tick = s.tick :=
  (flowBytes_noted ..).tick

@[simp] theorem flowPut_tick (s : State) (f : Flow) (x : TxPacket) : (flowPut s f x).tick = s.tick := (flowPut_noted ..).tick

@[simp] theorem flowSend_tick (s : State) (f : Flow) (x : TxPacket) : (flowSend s f x).tick = s.tick := (flowSend_noted ..).tick

@[simp] theorem sendCtl_tick (s : State) (n : NodeId) (code : Nat) (body : List Byte) : (sendCtl s n code body).tick = s.tick :=
  (sendCtl_noted ..).tick

@[simp] theorem askFlow_tick (s : State) (f : Flow) : (askFlow s f).tick = s.tick := by simp [askFlow]

@[simp] theorem openFlow_tick (s : State) (n : NodeId) (ctx p : Nat) : (openFlow s n ctx p).tick = s.tick := by
  unfold openFlow
  split <;> simp

@[simp] theorem raileSend_tick (s : State) (n : NodeId) (ctx : Nat) (x : TxPacket) : (raileSend s n ctx x).tick = s.tick := by
  unfold raileSend
  dsimp only
  split <;> simp

@[simp] theorem useOp_tick (s : State) : (useOp s).tick = s.tick := rfl

@[simp] theorem sendWrite_tick (s : State) (ctx addr op : Nat) (last : Bool) (bs : List Byte) :
    (sendWrite s ctx addr op last bs).tick = s.tick := by simp [sendWrite]

@[simp] theorem sendWrites_tick (ctx op fuel addr : Nat) (bs : List Byte) (s : State) :
    (sendWrites ctx op fuel addr bs s).tick = s.tick := by
  induction fuel generalizing addr bs s with
  | zero => rfl
  | succ fuel ih => simp [sendWrites, ih]

@[simp] theorem sendPlain_tick (s : State) (n : NodeId) (code : Nat) (body : List Byte) : (sendPlain s n code body).tick = s.tick := by
  unfold sendPlain
  split <;> simp

@[simp] theorem sendBye_tick (s : State) (n : NodeId) : (sendBye s n).tick = s.tick := by simp [sendBye]

@[simp] theorem byeAll_tick (s : State) : (byeAll s).tick = s.tick := by simp [byeAll]

@[simp] theorem stopItem_tick (s : State) (id why cause : Nat) : (stopItem s id why cause).tick = s.tick := by
  unfold stopItem
  split <;> simp

@[simp] theorem stopAll_tick (s : State) (cause : Nat) : (stopAll s cause).tick = s.tick := by simp [stopAll]

@[simp] theorem logItem_tick (s : State) (w : ItemRun) (cls source unit code : Nat) :
    (logItem s w cls source unit code).tick = s.tick := by simp [logItem]

@[simp] theorem haltDevice_tick (s : State) (source unit code : Nat) : (haltDevice s source unit code).tick = s.tick := by
  simp [haltDevice]

@[simp] theorem applyNotify_tick (s : State) (role : BitVec 24) (furrow bar : Nat) :
    (applyNotify s role furrow bar).tick = s.tick := by
  unfold applyNotify
  split <;> simp

@[simp] theorem markNotified_tick (s : State) (id : Nat) : (markNotified s id).tick = s.tick := by simp [markNotified]

@[simp] theorem acceptMsg_tick (s : State) (id : Nat) : (acceptMsg s id).tick = s.tick := by simp [acceptMsg]

@[simp] theorem mapSent_tick (s : State) (id : Nat) (g : SentMsg → SentMsg) : (mapSent s id g).tick = s.tick := rfl

@[simp] theorem issueMsg_tick (s : State) (m : SentMsg) : (issueMsg s m).tick = s.tick := by
  unfold issueMsg
  split
  · rfl
  · split
    · split
      · refine (acceptMsg_tick ..).trans ?_
        split <;> simp
      · simp
    · split <;> simp

/-! ### Shards (Machine/Joint.lean) -/

@[simp] theorem jointStart_tick (s : State) (i job f plan need why : Nat) : (jointStart s i job f plan need why).tick = s.tick := by
  simp [jointStart]

/-! ### Requests (Machine/Serve.lean) -/

@[simp] theorem makeLate_tick (s : State) (i c : Nat) : (makeLate s i c).tick = s.tick := by simp [makeLate]

@[simp] theorem releaseBookings_tick (s : State) (i : Nat) : (releaseBookings s i).tick = s.tick := rfl

@[simp] theorem cutEntryItems_tick (s : State) (i : Nat) : (cutEntryItems s i).tick = s.tick := by simp [cutEntryItems]

@[simp] theorem bumpSeq_tick (s : State) (i : Nat) : (bumpSeq s i).tick = s.tick := rfl

@[simp] theorem postCompl_tick (s : State) (i : Nat) : (postCompl s i).tick = s.tick := by simp [postCompl]

@[simp] theorem endRequest_tick (s : State) (i : Nat) (st : RqState) (status : Nat) : (endRequest s i st status).tick = s.tick := by
  simp [endRequest]

@[simp] theorem failQuiet_tick (s : State) (i status : Nat) : (failQuiet s i status).tick = s.tick := by simp [failQuiet]

@[simp] theorem failRequest_tick (s : State) (i status code : Nat) : (failRequest s i status code).tick = s.tick := by
  simp [failRequest]

@[simp] theorem reapWorkAreas_tick (s : State) (t : LdId) : (reapWorkAreas s t).tick = s.tick := by simp [reapWorkAreas]

@[simp] theorem reapAdapters_tick (s : State) : (reapAdapters s).tick = s.tick := by simp [reapAdapters]

@[simp] theorem releaseGone_tick (s : State) (i : Nat) : (releaseGone s i).tick = s.tick := by simp [releaseGone]

@[simp] theorem freeEntry_tick (s : State) (i : Nat) : (freeEntry s i).tick = s.tick := by simp [freeEntry]

/-! ### Generation (Machine/Gen.lean) -/

@[simp] theorem countTokens_tick (s : State) (i : Nat) (toks : List Nat) : (countTokens s i toks).tick = s.tick := by
  simp [countTokens]

@[simp] theorem touchLogits_tick (s : State) (i n : Nat) : (touchLogits s i n).tick = s.tick := by simp [touchLogits]

@[simp] theorem stampCommit_tick (s : State) (i : Nat) (first : Bool) : (stampCommit s i first).tick = s.tick := by simp [stampCommit]

@[simp] theorem hashBlocks_tick (s : State) (i : Nat) : (hashBlocks s i).tick = s.tick := by simp [hashBlocks]

@[simp] theorem insertBlocks_tick (s : State) (i old : Nat) (skip : Bool) : (insertBlocks s i old skip).tick = s.tick := by
  simp [insertBlocks]

@[simp] theorem streamTokens_tick (s : State) (i pos : Nat) (fedTok : Option Nat) (toks : List Nat) (noCand : Bool) :
    (streamTokens s i pos fedTok toks noCand).tick = s.tick := by simp [streamTokens]

@[simp] theorem poisonFall_tick (s : State) (i : Nat) : (poisonFall s i).tick = s.tick := by
  unfold poisonFall
  dsimp only
  split <;> simp

@[simp] theorem copyPos_tick (s : State) (t : LdId) (i log2 : Nat) (src : List Nat) (sp : Nat) (dst : List Nat) (dp : Nat) :
    (copyPos s t i log2 src sp dst dp).tick = s.tick := by simp [copyPos]

@[simp] theorem makeBranch_tick (s : State) (i : Nat) (toks : List Nat) (k : Nat) : (makeBranch s i toks k).tick = s.tick := by
  unfold makeBranch
  extract_lets e w m u path len c t full pathToks child cw s1 s2 s3 s4 s5 s6 s7 s8 s9
  have h2 : s2.tick = s.tick := by simp [s2, s1]
  have h3 : s3.tick = s2.tick := by
    unfold s3
    split
    · exact countTokens_tick ..
    · rfl
  have h4 : s4.tick = s3.tick := by
    refine foldl_tick (fun s b => ⟨?_⟩) _ s3
    extract_lets blk v u
    have hv : v.tick = s.tick := by simp [v]
    have hu : u.tick = v.tick := by
      unfold u
      split <;> rfl
    exact (putBlock_tick ..).trans (hu.trans hv)
  have h8 : s8.tick = s4.tick := by simp [s8, s7, s6, s5]
  have h9 : s9.tick = s8.tick := by simp [s9]
  exact (postCompl_tick ..).trans (h9.trans (h8.trans (h4.trans (h3.trans h2))))

@[simp] theorem lateCheck_tick (s : State) (i : Nat) : (lateCheck s i).tick = s.tick := by simp [lateCheck]

@[simp] theorem firstToken_tick (s : State) (i : Nat) : (firstToken s i).tick = s.tick := by
  unfold firstToken
  dsimp only
  split <;> simp

@[simp] theorem dropDone_tick (s : State) (i : Nat) : (dropDone s i).tick = s.tick := rfl

@[simp] theorem commitChunk_tick (s : State) (i : Nat) : (commitChunk s i).tick = s.tick := by simp [commitChunk]

@[simp] theorem setRound_tick (s : State) (r : Round) : (setRound s r).tick = s.tick := rfl

@[simp] theorem sampleRound_tick (s : State) (r : Round) : (sampleRound s r).tick = s.tick := by simp [sampleRound]

@[simp] theorem commitSeat_tick (s : State) (o : SeatOut) : (commitSeat s o).tick = s.tick := by simp [commitSeat]

@[simp] theorem commitRound_tick (s : State) (r : Round) : (commitRound s r).tick = s.tick := by simp [commitRound]

/-! ### Mailboxes (Machine/Mailbox.lean) -/

@[simp] theorem setMbox_tick (s : State) (m : Mbox) (x : MboxState) : (setMbox s m x).tick = s.tick := rfl

@[simp] theorem reply_tick (s : State) (m : Mbox) (ret : Nat) (out : List Byte) : (reply s m ret out).tick = s.tick := rfl

/-! ### Bundles (Machine/Bundles.lean) -/

@[simp] theorem dropOp_tick (s : State) (i : Nat) : (dropOp s i).tick = s.tick := rfl

@[simp] theorem raileStore_tick (s : State) (ctx addr : Nat) (bs : List Byte) : (raileStore s ctx addr bs).1.tick = s.tick := by
  unfold raileStore
  split
  · split
    · next h => exact (tvaStore_tick ..).trans (railAccess_tick h)
    · simp
  · simp

@[simp] theorem bundleRecord_tick (s : State) (i status committed : Nat) (quote : Option Nat) :
    (bundleRecord s i status committed quote).tick = s.tick := by simp [bundleRecord]

@[simp] theorem snapRefs_tick (s : State) (i : Nat) (o : BundleOp) (take : Bool) : (snapRefs s i o take).tick = s.tick := by
  simp [snapRefs]

@[simp] theorem unstage_tick (s : State) (o : BundleOp) : (unstage s o).tick = s.tick := by simp [unstage]

@[simp] theorem liftFail_tick (s : State) (i status : Nat) (quote : Option Nat) : (liftFail s i status quote).tick = s.tick := by
  simp [liftFail]

@[simp] theorem recoverLost_tick (s : State) (i : Nat) : (recoverLost s i).tick = s.tick := by simp [recoverLost]

@[simp] theorem liftStop_tick (s : State) (i status : Nat) (quote : Option Nat) : (liftStop s i status quote).tick = s.tick := by
  simp [liftStop]

@[simp] theorem rejoin_tick (s : State) (i : Nat) : (rejoin s i).tick = s.tick := rfl

@[simp] theorem resumeEntry_tick (s : State) (i : Nat) (r : Recover) : (resumeEntry s i r).tick = s.tick := by
  unfold resumeEntry
  dsimp only
  split
  case h_4 =>
    split
    · next h => exact (setEntry_tick ..).trans (bookTail_tick h)
    · simp
  all_goals simp

@[simp] theorem finishLift_tick (s : State) (i : Nat) (quote : Option Nat) : (finishLift s i quote).tick = s.tick := by
  unfold finishLift
  dsimp only
  split
  · simp
  · split <;> simp

@[simp] theorem commitResow_tick (s : State) (i : Nat) : (commitResow s i).tick = s.tick := by simp [commitResow]

/-! ### The journal (Machine/Journal.lean) -/

@[simp] theorem noteWritten_tick (s : State) (x : JRec × Nat) : (noteWritten s x).tick = s.tick := by simp [noteWritten]

@[simp] theorem gatherProgress_tick (s : State) : (gatherProgress s).tick = s.tick := by simp [gatherProgress]

@[simp] theorem adoptJournal_tick (s : State) : (adoptJournal s).tick = s.tick := by simp [adoptJournal]

@[simp] theorem writePiece_tick (s : State) (x : Nat × List Byte) : (writePiece s x).tick = s.tick := by simp [writePiece]

@[simp] theorem journalBatch_tick (s : State) : (journalBatch s).tick = s.tick := by simp [journalBatch]

/-! ### Tenants (Machine/Domain.lean) -/

@[simp] theorem tenantReset_tick (s : State) (t : LdId) (ack : Option Mbox) : (tenantReset s t ack).tick = s.tick := by
  simp [tenantReset]

@[simp] theorem resetEntry_tick (s : State) (i : Nat) : (resetEntry s i).tick = s.tick := by simp [resetEntry]

@[simp] theorem tenantResetTick_tick (s : State) (t : LdId) : (tenantResetTick s t).tick = s.tick := by simp [tenantResetTick]

@[simp] theorem tenantResetHeadland_tick (s : State) (t : LdId) : (tenantResetHeadland s t).tick = s.tick := by
  simp [tenantResetHeadland]

@[simp] theorem clearKeys_tick (s : State) (t : LdId) : (clearKeys s t).tick = s.tick := by simp [clearKeys]

@[simp] theorem tenantFault_tick (s : State) (t : LdId) (source unit code : Nat) (keyErr : Bool) :
    (tenantFault s t source unit code keyErr).tick = s.tick := by simp [tenantFault]

/-! ### Descriptors (Machine/Fetch.lean) -/

@[simp] theorem showFault_tick (s : State) (f : FeId) : (showFault s f).tick = s.tick := by
  unfold showFault
  split
  · exact regPut_tick ..
  · exact (regSet_tick ..).trans (regSet_tick ..)

/-! ### Power (Machine/Power.lean) -/

@[simp] theorem showRaise_tick (s : State) : (showRaise s).tick = s.tick := rfl

@[simp] theorem noteBooked_tick (s : State) (c : Nat) : (noteBooked s c).tick = s.tick := by simp [noteBooked]

@[simp] theorem headlandPair_tick (s : State) : (headlandPair s).tick = s.tick := by
  unfold headlandPair
  extract_lets +onlyGivenNames s1
  have h1 : s1.tick = s.tick := by
    unfold s1
    split <;> simp
  simp [h1]

@[simp] theorem switchOp_tick (s : State) (now op : Nat) : (switchOp s now op).1.tick = s.tick := by
  unfold switchOp
  split
  · rfl
  · split <;> simp

@[simp] theorem tickPair_tick (s : State) (now : Nat) : (tickPair s now).tick = s.tick := by
  unfold tickPair
  rw [ite_tick]
  split
  · rfl
  · split
    · simp
    · split <;> simp

@[simp] theorem noteThermal_tick (s : State) : (noteThermal s).tick = s.tick := by simp [noteThermal]

/-! ### Security (Machine/Security.lean) -/

@[simp] theorem blowRevoke_tick (s : State) : (blowRevoke s).tick = s.tick := by
  unfold blowRevoke
  split <;> rfl

/-! ### BIST (Machine/Bringup.lean) -/

@[simp] theorem enterService_tick (s : State) (a : ArrId) : (enterService s a).tick = s.tick := by simp [enterService]

@[simp] theorem beginTest_tick (s : State) (a : Nat) : (beginTest s a).tick = s.tick := by simp [beginTest]

@[simp] theorem showPhase_tick (s : State) : (showPhase s).tick = s.tick := by simp [showPhase]

@[simp] theorem headlandBist_tick (s : State) : (headlandBist s).tick = s.tick := by
  unfold headlandBist
  extract_lets s1 b s2 b' s3 due s4
  have h2 : s2.tick = s.tick := by simp [s2, s1]
  have h3 : s3.tick = s2.tick := by
    unfold s3
    split
    · split
      · split
        · simp
        · exact regPut_tick ..
      · rfl
    · rfl
  have h4 : s4.tick = s3.tick := by
    unfold s4
    split
    · split
      · exact (beginTest_tick ..).trans (regPut_tick ..)
      · rfl
    · rfl
  exact (showPhase_tick s4).trans (h4.trans (h3.trans h2))

/-! ### Roles (Machine/Flows.lean) -/

@[simp] theorem rolesAtTick_tick (s : State) : (rolesAtTick s).tick = s.tick := by simp [rolesAtTick]

/-! ### Power credits (Machine/Shards.lean) -/

@[simp] theorem takeChain_tick (s : State) (i : Nat) (chain : List LaneFurrow) (cause : Nat) :
    (takeChain s i chain cause).tick = s.tick := by simp [takeChain]

@[simp] theorem takeGrant_tick (s : State) (lender borrower : NodeId) (watts window : Nat) :
    (takeGrant s lender borrower watts window).tick = s.tick := by simp [takeGrant]

@[simp] theorem sendGrant_tick (s : State) (g : NodeId × NodeId × Nat) (window : Nat) : (sendGrant s g window).tick = s.tick := by
  simp [sendGrant]

@[simp] theorem takeStatus_tick (s : State) (m : Member) (window : Nat) : (takeStatus s m window).tick = s.tick := by simp [takeStatus]

/-! ### The end of a furrow (Machine/Work.lean) -/

@[simp] theorem failWith_tick (s : State) (i status code : Nat) : (failWith s i status code).tick = s.tick := by simp [failWith]

@[simp] theorem cutAtTick_tick (s : State) (w : ItemRun) : (cutAtTick s w).tick = s.tick := by
  unfold cutAtTick
  extract_lets s1 s2
  have h1 : s1.tick = s.tick := by
    unfold s1
    split <;> simp
  simp [s2, h1]

@[simp] theorem chargeLeft_tick (s : State) (i : Nat) (l : Left) : (chargeLeft s i l).tick = s.tick := by
  unfold chargeLeft
  split <;> simp

@[simp] theorem copyStep_tick (s : State) (i : Nat) : (copyStep s i).tick = s.tick := by
  unfold copyStep
  extract_lets e w m t first s1
  have h1 : s1.tick = s.tick := setWork_tick ..
  split
  · exact h1
  · rw [ite_tick]
    split
    · exact h1
    · dsimp only
      split <;> simp [h1]

@[simp] theorem settleEntry_tick (s : State) (i : Nat) : (settleEntry s i).tick = s.tick := by simp [settleEntry]

@[simp] theorem failRound_tick (s : State) (r : Round) (status code : Nat) : (failRound s r status code).tick = s.tick := by
  simp [failRound]

@[simp] theorem settleRound_tick (s : State) (r : Round) : (settleRound s r).tick = s.tick := by simp [settleRound]

@[simp] theorem overrun_tick (s : State) (r : Round) : (overrun s r).tick = s.tick := by
  unfold overrun
  split
  · rfl
  · extract_lets later next
    cases next with
    | none => rfl
    | some n => simp

@[simp] theorem tickCommit_tick (s : State) (i : Nat) : (tickCommit s i).tick = s.tick := by simp [tickCommit]

@[simp] theorem tickRound_tick (s : State) (n : Nat) : (tickRound s n).tick = s.tick := by
  unfold tickRound
  extract_lets s1
  have h1 : s1.tick = s.tick := by
    unfold s1
    split <;> simp
  split <;> simp [h1]

@[simp] theorem lateWhereShort_tick (s : State) (i : Nat) : (lateWhereShort s i).tick = s.tick := by simp [lateWhereShort]

@[simp] theorem finishItems_tick (s : State) : (finishItems s).tick = s.tick := by simp [finishItems]

@[simp] theorem settleAll_tick (s : State) (es rs : List Nat) (named : Bool) : (settleAll s es rs named).tick = s.tick := by
  unfold settleAll
  extract_lets s1
  have h1 : s1.tick = s.tick := foldl_tick (fun s p => by simp) _ s
  exact (foldl_tick (fun s r => by split <;> simp) _ s1).trans h1

@[simp] theorem settle_tick (s : State) : (settle s).tick = s.tick := by
  unfold settle
  extract_lets s1 es rs s2 s3 s4 s5 s6 s7
  have h1 : s1.tick = s.tick := (finishItems_tick ..).trans (meterItems_tick s)
  have h2 : s2.tick = s1.tick := settleAll_tick ..
  have h3 : s3.tick = s2.tick := foldl_tick (fun s i => ⟨tickCommit_tick s i⟩) _ s2
  have h4 : s4.tick = s3.tick := foldl_tick (fun s i => ⟨tickRound_tick s i⟩) _ s3
  have h5 : s5.tick = s4.tick := settleAll_tick ..
  have h6 : s6.tick = s5.tick := foldl_tick (fun s r => by split <;> simp) _ s5
  have h7 : s7.tick = s6.tick := forLds_tick (fun s t => ⟨tenantResetTick_tick s t⟩) s6
  clear_value s7
  exact h7.trans (h6.trans (h5.trans (h4.trans (h3.trans (h2.trans h1)))))

/-! ### Sowing (Machine/Sow.lean) -/

@[simp] theorem takeLane_tick (s : State) (i f : Nat) : (takeLane s i f).tick = s.tick := rfl

@[simp] theorem beginRound_tick (s : State) (r : Round) : (beginRound s r).tick = s.tick := by simp [beginRound]

@[simp] theorem deferWork_tick (s : State) (x : SowWork) (cause : Nat) : (deferWork s x cause).tick = s.tick := by
  unfold deferWork
  split
  · split
    · rfl
    · exact (foldl_tick (fun s i => ⟨noteCause_tick s i cause⟩) _ _).trans ((regBump_tick ..).trans (setRound_tick ..))
  · exact (lateWhereShort_tick ..).trans ((regBump_tick ..).trans ((setWork_tick ..).trans (noteCause_tick ..)))

@[simp] theorem bindMgen_tick (s : State) (i tokens : Nat) : (bindMgen s i tokens).1.tick = s.tick := by
  unfold bindMgen
  split
  · rfl
  · split <;> rfl

@[simp] theorem tickArray_tick (s : State) (a : ArrId) : (tickArray s a).tick = s.tick := by simp [tickArray]

@[simp] theorem startArray_tick (s : State) (id : Nat) (rd : Rd) (r : WorkRec) (a : ArrId) : (startArray s id rd r a).tick = s.tick :=
  rfl

@[simp] theorem queueList_tick (s : State) (id : Nat) (f : FeId) (ds : List Desc) : (queueList s id f ds).tick = s.tick := rfl

@[simp] theorem queueScratch_tick (s : State) (id : Nat) (f : FeId) (at_ n : Nat) : (queueScratch s id f at_ n).tick = s.tick := rfl

@[simp] theorem imageTouch_tick (s : State) (h off n : Nat) : (imageTouch s h off n).tick = s.tick := by simp [imageTouch]

@[simp] theorem startItem_tick (s : State) (it : SowItem) (leader : Nat) (engines : List Nat) (bar : Nat) :
    (startItem s it leader engines bar).tick = s.tick := by
  unfold startItem
  extract_lets rd r mg s1 id w parts s2 bad
  have h1 : s1.tick = s.tick := by
    unfold s1 mg
    split
    · exact bindMgen_tick ..
    · rfl
  have h2 : s2.tick = s.tick := (foldl_tick (fun s x => ⟨imageTouch_tick ..⟩) _ s1).trans h1
  clear_value s2
  split
  · exact (logItem_tick ..).trans ((foldl_tick (fun s p => ⟨damageFrame_tick ..⟩) _ s2).trans h2)
  · refine (foldl_tick (fun s x => ⟨?_⟩) _ _).trans ((foldl_tick (fun s a => ⟨startArray_tick ..⟩) _ _).trans h2)
    split
    · split <;> simp
    · simp

@[simp] theorem startWork_tick (put : List (Nat × SowItem × Nat)) (acc : State × Nat) (x : Nat × SowWork) :
    (startWork put acc x).1.tick = acc.1.tick := by
  unfold startWork
  extract_lets mine r
  have hr : r.1.tick = acc.1.tick := by
    refine foldlBeside_tick (st := Prod.fst) (fun a y => ⟨?_⟩) mine (acc.1, acc.2, x.2.lane.engines)
    exact startItem_tick ..
  exact hr

@[simp] theorem openWork_tick (s : State) (x : SowWork) : (openWork s x).tick = s.tick := by
  unfold openWork
  split
  · split <;> simp
  · dsimp only
    rw [ite_tick]
    split
    · rfl
    · split <;> simp

@[simp] theorem noteStarted_tick (s : State) (x : SowWork) : (noteStarted s x).tick = s.tick := by
  unfold noteStarted
  extract_lets +onlyGivenNames s1
  have h1 : s1.tick = s.tick := by simp [s1]
  split
  · split <;> simp [h1]
  · simp [h1]

@[simp] theorem releaseLanes_tick (s : State) (i : Nat) : (releaseLanes s i).tick = s.tick := rfl

@[simp] theorem gatherWork_tick (s : State) (f : Nat) : (gatherWork s f).1.tick = s.tick := by
  unfold gatherWork
  extract_lets rs s1 a
  have h1 : s1.tick = s.tick := by simp [s1]
  have ha : a.1.tick = s1.tick := by
    refine foldlBeside_tick (st := Prod.fst) (fun acc r0 => ⟨?_⟩) _ (s1, [])
    split
    · dsimp only
      split
      · rfl
      · split <;> rfl
    · rfl
  refine (foldlBeside_tick (st := Prod.fst) (fun acc p => ⟨?_⟩) _ a).trans (ha.trans h1)
  dsimp only
  split <;> simp

@[simp] theorem sow_tick (s : State) (f : Nat) : (sow s f).tick = s.tick := by
  unfold sow
  extract_lets g works s1 go wait s2 go' p gone s3 run s4 s5
  have h1 : s1.tick = s.tick := (foldl_tick (fun s x => by simp) _ g.1).trans (gatherWork_tick s f)
  have h2 : s2.tick = s1.tick := foldl_tick (fun s x => by simp) _ s1
  have h3 : s3.tick = s2.tick := foldl_tick (fun s x => by simp) _ s2
  have h4 : s4.tick = s3.tick := foldl_tick (fun s x => by simp) _ s3
  have h5 : s5.tick = s4.tick := foldlBeside_tick (st := Prod.fst) (fun y x => ⟨startWork_tick p.put y x⟩) _ _
  exact (forFes_tick (fun s f => ⟨setFe_tick ..⟩) s5).trans (h5.trans (h4.trans (h3.trans (h2.trans h1))))

@[simp] theorem tickUnits_tick (s : State) : (tickUnits s).tick = s.tick := by simp [tickUnits]

@[simp] theorem applyHeld_tick (s : State) : (applyHeld s).tick = s.tick := by simp [applyHeld]

/-! ### The headland (Machine/Headland.lean) -/

@[simp] theorem cancelEntry_tick (s : State) (i : Nat) : (cancelEntry s i).tick = s.tick := by simp [cancelEntry]

@[simp] theorem applyCancels_tick (s : State) : (applyCancels s).tick = s.tick := by simp [applyCancels]

@[simp] theorem returnPages_tick (s : State) (i : Nat) : (returnPages s i).tick = s.tick := by simp [returnPages]

@[simp] theorem releasePages_tick (s : State) : (releasePages s).tick = s.tick := by simp [releasePages]

@[simp] theorem headlandGrants_tick (s : State) : (headlandGrants s).tick = s.tick := by
  unfold headlandGrants
  exact regSet_tick ..

@[simp] theorem clearCalendar_tick (s : State) : (clearCalendar s).tick = s.tick := rfl

@[simp] theorem dropPassed_tick (s : State) (from_ : Nat) : (dropPassed s from_).tick = s.tick := by simp [dropPassed]

@[simp] theorem dropEarlySeats_tick (s : State) (i : Nat) : (dropEarlySeats s i).tick = s.tick := by simp [dropEarlySeats]

@[simp] theorem addSeats_tick (from_ : Nat) (s : State) (i : Nat) : (addSeats from_ s i).1.tick = s.tick := by
  unfold addSeats
  extract_lets s1 e n
  have h1 : s1.tick = s.tick := dropEarlySeats_tick ..
  split
  · exact h1
  · split
    · exact (makeLate_tick ..).trans h1
    · next h =>
      have hs := (tailSearch_tick h).trans h1
      split
      · exact hs
      · exact (jrnlAdmit_tick ..).trans ((makeLate_tick ..).trans ((setEntry_tick ..).trans hs))

@[simp] theorem askShard_tick (s : State) (job : Nat) : (askShard s job).tick = s.tick := by
  unfold askShard
  split <;> simp

@[simp] theorem rebookRound_tick (from_ : Nat) (x : Rebook) (r : Round) : (rebookRound from_ x r).s.tick = x.s.tick := by
  unfold rebookRound
  dsimp only
  split <;> simp

@[simp] theorem rebookChain_tick (from_ : Nat) (old : State) (x : Rebook) (i : Nat) :
    (rebookChain from_ old x i).s.tick = x.s.tick := by
  unfold rebookChain
  dsimp only
  split
  · split <;> simp
  · split <;> simp

@[simp] theorem rebook_tick (s : State) (from_ : Nat) : (rebook s from_).1.tick = s.tick := by
  unfold rebook
  extract_lets rs x es before y
  have hx : x.s.tick = s.tick := foldlBeside_tick (st := Rebook.s) (fun y r => ⟨rebookRound_tick from_ y r⟩) _ _
  have hy : y.s.tick = x.s.tick := foldlBeside_tick (st := Rebook.s) (fun y i => ⟨rebookChain_tick from_ s y i⟩) _ x
  refine (foldlBeside_tick (st := Prod.fst) (fun a i => ⟨?_⟩) _ (y.s, y.ok)).trans (hy.trans hx)
  exact addSeats_tick ..

@[simp] theorem setAligned_tick (s : State) (on : Bool) : (setAligned s on).tick = s.tick := by simp [setAligned]

@[simp] theorem sendStatus_tick (s : State) (waitShare : Nat) : (sendStatus s waitShare).tick = s.tick := by
  unfold sendStatus
  split
  · simp
  · split <;> simp

@[simp] theorem clearLate_tick (s : State) : (clearLate s).tick = s.tick := rfl

@[simp] theorem leaveFurrow_tick (s : State) : (leaveFurrow s).tick = s.tick := by simp [leaveFurrow]

/-! ### The begin of a furrow (Machine/Furrow.lean) -/

@[simp] theorem drivePulse_tick (s : State) : (drivePulse s).tick = s.tick := by simp [drivePulse]

@[simp] theorem leadTime_tick (s : State) : (leadTime s).tick = s.tick := by simp [leadTime]

@[simp] theorem followTime_tick (s : State) : (followTime s).tick = s.tick := by
  unfold followTime
  simp

@[simp] theorem rejoinArrays_tick (s : State) : (rejoinArrays s).tick = s.tick := by
  refine forArrays_tick (fun s a => ⟨?_⟩) s
  dsimp only
  split
  · split
    · exact (setArr_tick ..).trans (enterService_tick ..)
    · rfl
  · rfl

@[simp] theorem keepTemps_tick (s : State) : (keepTemps s).tick = s.tick := by simp [keepTemps]

@[simp] theorem markThrottled_tick (s : State) : (markThrottled s).tick = s.tick := by simp [markThrottled]

@[simp] theorem reserveFaults_tick (s : State) : (reserveFaults s).tick = s.tick := by simp [reserveFaults]

@[simp] theorem startFurrow_tick (s : State) : (startFurrow s).tick = s.tick := by simp [startFurrow]

end Sys2Proof.Machine
end

section
/-! # Ticks, headlands and references (O60)

What a headland does to the tick unit (R192, R196, R197), what the tick then makes of it, and what the references do. -/

namespace Sys2Proof.Machine

/-! ### Actions of a headland on the tick unit -/

/-- The window ends with the furrow in progress, as `headlandDue` reads it of the tick unit. -/
def windowEnds (t : TickUnit) : Bool := !t.started || decide (t.windowM1 ≤ t.inWindow)

theorem headlandDue_eq (s : State) : headlandDue s = windowEnds s.tick := rfl

/-- No furrow number that the owner or the time leader has set waits for the headland. -/
def Unnumbered (t : TickUnit) : Prop := t.numSet = none ∧ t.syncMode ≠ 3

/-- What a headland's actions keep of the tick unit: the window still ends, and without a number to adopt, the numbers stand. -/
structure HeadlandStep (t u : TickUnit) : Prop where
  started : u.started = t.started
  ends : windowEnds t = true → windowEnds u = true
  numbers : Unnumbered t → u.furrow = t.furrow ∧ u.window = t.window ∧ u.nextNum = t.nextNum ∧ u.nextWin = t.nextWin

theorem HeadlandStep.refl (t : TickUnit) : HeadlandStep t t := ⟨rfl, id, fun _ => ⟨rfl, rfl, rfl, rfl⟩⟩

theorem HeadlandStep.trans {t u v : TickUnit} (a : HeadlandStep t u) (hu : Unnumbered t → Unnumbered u) (b : HeadlandStep u v) :
    HeadlandStep t v := by
  refine ⟨b.started.trans a.started, fun h => b.ends (a.ends h), fun h => ?_⟩
  obtain ⟨hf, hw, hn, hx⟩ := a.numbers h
  obtain ⟨hf', hw', hn', hx'⟩ := b.numbers (hu h)
  exact ⟨hf'.trans hf, hw'.trans hw, hn'.trans hn, hx'.trans hx⟩

theorem adoptRef_step (s : State) :
    HeadlandStep s.tick (adoptRef s).tick ∧ (Unnumbered s.tick → Unnumbered (adoptRef s).tick) := by
  unfold adoptRef
  split
  · rw [regPut_tick]
    exact ⟨⟨rfl, id, fun _ => ⟨rfl, rfl, rfl, rfl⟩⟩, id⟩
  · exact ⟨.refl _, id⟩

/-- The furrow that ends stays the last one of its window, whatever WINDOW_LEN becomes. -/
theorem withLen_step (s : State) (x : Nat × Nat × Nat) :
    HeadlandStep s.tick (withLen s x).tick ∧ (Unnumbered s.tick → Unnumbered (withLen s x).tick) := by
  refine ⟨⟨rfl, fun _ => ?_, fun _ => ⟨rfl, rfl, rfl, rfl⟩⟩, id⟩
  cases hstarted : s.tick.started <;> simp [withLen, windowEnds, hstarted]

theorem adoptLen_step (s : State) (from_ : Nat) :
    HeadlandStep s.tick (adoptLen s from_).tick ∧ (Unnumbered s.tick → Unnumbered (adoptLen s from_).tick) := by
  unfold adoptLen
  extract_lets x
  split
  · exact ⟨.refl _, id⟩
  · split
    · exact withLen_step s x
    · rw [regFlag_tick]
      exact ⟨.refl _, id⟩

theorem adoptedNumber_of_unnumbered {s : State} (h : Unnumbered s.tick) : adoptedNumber s = none := by
  obtain ⟨hset, hmode⟩ := h
  unfold adoptedNumber
  rw [hset]
  dsimp only
  split
  · exact if_neg fun hc => hmode hc.1
  · rfl

/-- A number adopted moves the numbers and their window; its place in the window stays. -/
theorem adoptNumber_of_some {s : State} {n : Nat} (h : adoptedNumber s = some n) :
    (adoptNumber s).tick.started = s.tick.started ∧ windowEnds (adoptNumber s).tick = windowEnds s.tick := by
  unfold adoptNumber
  rw [h]
  dsimp only
  rw [ite_tick, foldl_tick, ite_self]
  · exact ⟨rfl, rfl⟩
  · intro s p
    split <;> simp

theorem adoptNumber_step (s : State) :
    HeadlandStep s.tick (adoptNumber s).tick ∧ (Unnumbered s.tick → Unnumbered (adoptNumber s).tick) := by
  cases h : adoptedNumber s with
  | none =>
    have hsame : adoptNumber s = s := by rw [adoptNumber, h]
    rw [hsame]
    exact ⟨.refl _, id⟩
  | some n =>
    have hnumbered : ¬ Unnumbered s.tick := fun hu => by simp [adoptedNumber_of_unnumbered hu] at h
    obtain ⟨hstarted, hends⟩ := adoptNumber_of_some h
    exact ⟨⟨hstarted, hends.trans, fun hu => absurd hu hnumbered⟩, fun hu => absurd hu hnumbered⟩

theorem adoptSync_step (s : State) : HeadlandStep s.tick (adoptSync s).tick := by
  unfold adoptSync
  extract_lets mode leader changed own old fresh t u
  have ht : HeadlandStep s.tick t.tick := by
    unfold t
    split
    · rw [setAligned_tick]
      exact ⟨rfl, id, fun _ => ⟨rfl, rfl, rfl, rfl⟩⟩
    · exact .refl _
  have hu : u.tick = t.tick := by
    unfold u
    split
    · exact sendCtl_tick ..
    · rfl
  split
  · rw [sendCtl_tick, hu]
    exact ht
  · exact ht

theorem headlandActions_step (s : State) (ws : Nat) : HeadlandStep s.tick (headlandActions s ws).tick := by
  unfold headlandActions
  extract_lets +onlyGivenNames r
  obtain ⟨href, hrefU⟩ : HeadlandStep s.tick r.tick ∧ (Unnumbered s.tick → Unnumbered r.tick) := adoptRef_step s
  clear_value r
  split
  · obtain ⟨hnum, hnumU⟩ := adoptNumber_step { r with faults := { r.faults with cutCarry := false } }
    exact (href.trans hrefU hnum).trans (fun h => hnumU (hrefU h)) (adoptSync_step _)
  · split
    · exact href
    · extract_lets c p g l a j b
      have hg : g.tick = r.tick := by simp [g, p, c]
      obtain ⟨hlen, hlenU⟩ : HeadlandStep g.tick l.tick ∧ (Unnumbered g.tick → Unnumbered l.tick) := adoptLen_step ..
      obtain ⟨hnum, hnumU⟩ : HeadlandStep l.tick a.tick ∧ (Unnumbered l.tick → Unnumbered a.tick) := adoptNumber_step l
      have hb : b.tick = a.tick := by simp [b, j]
      have hsync : HeadlandStep b.tick (adoptSync b).tick := adoptSync_step b
      rw [headlandBist_tick, sendStatus_tick]
      rw [hg] at hlen hlenU
      rw [hb] at hsync
      exact ((href.trans hrefU hlen).trans (fun h => hlenU (hrefU h)) hnum).trans (fun h => hnumU (hlenU (hrefU h))) hsync

/-! ### The end of the furrow -/

/-- What the end of a furrow makes of the tick unit before a headland's actions: RQT_TIME has come to the tick. -/
def endTick (t : TickUnit) (time : Nat) : TickUnit := { t with rqtTime := time, atTick := false }

theorem windowEnds_endTick (t : TickUnit) (time : Nat) : windowEnds (endTick t time) = windowEnds t := rfl

/-- The furrow's end before a headland's actions. -/
theorem endFurrow_eq (s : State) (ws : Nat) : ∃ e : State, e.tick = endTick s.tick (nextTick s)
    ∧ endFurrow s ws = if headlandDue s then clearLate (headlandActions e ws) else e := by
  unfold endFurrow
  extract_lets t0 l t1 u t2 e
  have hl : l.tick = { s.tick with rqtTime := nextTick s } := leaveFurrow_tick ..
  clear_value l
  have hu : u.tick = l.tick ∨ u.tick = { l.tick with atTick := true } := by
    unfold u
    split
    · exact .inl rfl
    · exact .inr (settle_tick ..)
  clear_value u
  have he : e.tick = endTick s.tick (nextTick s) := by
    change { u.tick with atTick := false } = _
    rcases hu with h | h <;> rw [h, hl] <;> rfl
  have hdue : headlandDue e = headlandDue s := by rw [headlandDue_eq, he, windowEnds_endTick, headlandDue_eq]
  exact ⟨e, he, by rw [hdue]⟩

theorem endFurrow_tick_of_not_due {s : State} (ws : Nat) (h : headlandDue s = false) :
    (endFurrow s ws).tick = endTick s.tick (nextTick s) := by
  obtain ⟨e, he, heq⟩ := endFurrow_eq s ws
  rw [heq, h]
  exact he

theorem endFurrow_step (s : State) (ws : Nat) : HeadlandStep s.tick (endFurrow s ws).tick := by
  obtain ⟨e, he, heq⟩ := endFurrow_eq s ws
  have hend : HeadlandStep s.tick e.tick := by
    rw [he]
    exact ⟨rfl, id, fun _ => ⟨rfl, rfl, rfl, rfl⟩⟩
  rw [heq]
  split
  · rw [clearLate_tick]
    exact hend.trans (fun h => he ▸ h) (headlandActions_step e ws)
  · exact hend

/-! ### The tick -/

/-- The furrow has ended, by the headland that has run or now. -/
def ended (s : State) (ws : Nat) : State := if s.tick.headDone then s else endFurrow s ws

theorem ended_step (s : State) (ws : Nat) : HeadlandStep s.tick (ended s ws).tick := by
  unfold ended
  split
  · exact .refl _
  · exact endFurrow_step s ws

theorem ended_of_not_due {s : State} (ws : Nat) (h : headlandDue s = false) :
    windowEnds (ended s ws).tick = false ∧ (ended s ws).tick.inWindow = s.tick.inWindow := by
  unfold ended
  split
  · exact ⟨h, rfl⟩
  · rw [endFurrow_tick_of_not_due ws h]
    exact ⟨h, rfl⟩

/-- After the begin of a furrow, nothing more that a tick does changes the tick unit. -/
theorem exec_tick {s : State} (ws : Nat) (h : ticking s = true) :
    ∃ n, exec (.tick ws) s = .next n ∧ n.tick = (beginFurrow (ended s ws)).tick := by
  let begun := blowRevoke (beginFurrow (ended s ws))
  have hrun : exec (.tick ws) s
      = .next (drivePulse (leadTime (followTime (startFurrow (tickPair begun begun.tick.rqtTime))))) := by
    change execTick ws s = _
    unfold execTick
    rw [h]
    rfl
  refine ⟨_, hrun, ?_⟩
  rw [drivePulse_tick, leadTime_tick, followTime_tick, startFurrow_tick, tickPair_tick, blowRevoke_tick]

theorem exec_tick_spec {s : State} (ws : Nat) (h : ticking s = true) :
    ∃ n, exec (.tick ws) s = .next n ∧ n.tick.started = true ∧ n.tick.headDone = false
      ∧ n.tick.inWindow = (if headlandDue s then 0 else s.tick.inWindow + 1)
      ∧ (s.tick.numSet = none → s.tick.syncMode ≠ 3 → s.tick.nextNum = none → s.tick.nextWin = none →
          n.tick.furrow = (if s.tick.started then s.tick.furrow + 1 else 0)
          ∧ n.tick.window = (if headlandDue s then (if s.tick.started then s.tick.window + 1 else 0) else s.tick.window)) := by
  obtain ⟨n, hrun, hn⟩ := exec_tick ws h
  obtain ⟨hstarted, hends, hnumbers⟩ := ended_step s ws
  have hdue : headlandDue (ended s ws) = headlandDue s := by
    cases hd : headlandDue s with
    | true => exact hends hd
    | false => exact (ended_of_not_due ws hd).1
  refine ⟨n, hrun, by rw [hn]; rfl, by rw [hn]; rfl, ?_, fun hset hmode hnum hwin => ?_⟩
  · have hin : n.tick.inWindow = if headlandDue (ended s ws) then 0 else (ended s ws).tick.inWindow + 1 := by rw [hn]; rfl
    rw [hin, hdue]
    cases hd : headlandDue s with
    | true => rfl
    | false => rw [(ended_of_not_due ws hd).2]
  · obtain ⟨hf, hw, hnn, hnw⟩ := hnumbers ⟨hset, hmode⟩
    have hfurrow : n.tick.furrow = comingFurrow (ended s ws) := by rw [hn]; rfl
    have hwindow : n.tick.window = if headlandDue (ended s ws)
        then (ended s ws).tick.nextWin.getD (if (ended s ws).tick.started then (ended s ws).tick.window + 1 else 0)
        else (ended s ws).tick.window := by rw [hn]; rfl
    rw [hfurrow, hwindow, comingFurrow, hdue, hf, hw, hnn, hnw, hstarted, hnum, hwin]
    exact ⟨rfl, rfl⟩

/-! ### The headland -/

theorem exec_headland {s : State} (ws : Nat) :
    exec (.headland ws) s = if !ticking s ∨ !headlandDue s ∨ s.tick.headDone then .next s
      else .next { endFurrow s ws with tick := { (endFurrow s ws).tick with headDone := true } } := rfl

/-! ### Records leave what HALTED shows and the furrow registers -/

theorem halted_congr {s n : State} (h : regField n (fltReg 0x008) 0 0 = regField s (fltReg 0x008) 0 0) : halted n = halted s := by
  rw [halted, halted, h]

theorem halted_of_regs {s n : State} (h : n.regs = s.regs) : halted n = halted s :=
  halted_congr (by rw [regField, regField, regGet_congr h])

theorem ownerEvent_regs (s : State) (bs : List Byte) (o : Nat) : regGet (ownerEvent s bs) o = regGet s o :=
  (ownerEvent_dataKept (P := fun _ => True) s bs).regs o trivial

theorem sendMsix_halted (s : State) (fn : Mbox) (v : Nat) : halted (sendMsix s fn v) = halted s :=
  halted_congr (by rw [regField, regField, (sendMsix_dataKept (P := fun _ => True) s fn v).regs _ trivial])

theorem logFaultIn_halted (s : State) (furrow : Nat) (r : FaultRec) : halted (logFaultIn s furrow r) = halted s := by
  unfold logFaultIn
  extract_lets r' s1 faults full lost log s2 s3 s4 s5 s6
  have h1 : halted s1 = halted s := halted_congr (by
    rw [regField, regField, regGet_regBump, if_neg (by unfold fltReg; omega)])
  have h3 : halted s3 = halted s2 := halted_congr (by
    rw [regField, regField, regGet_regBump, if_neg (by unfold fltReg; omega)])
  have h4 : halted s4 = halted s3 := by
    unfold s4
    split
    · exact halted_congr (regField_regPut_of_disjoint _ _ _ _ _ _ _ (by omega) (by omega))
    · rfl
  have h5 : halted s5 = halted s4 := halted_congr (by rw [regField, regField, ownerEvent_regs])
  have h6 : halted s6 = halted s5 := by
    unfold s6
    split <;> rfl
  have h2 : halted s2 = halted s1 := rfl
  split
  · exact h1
  · have hlog : halted s6 = halted s := h6.trans (h5.trans (h4.trans (h3.trans (h2.trans h1))))
    split
    · exact hlog
    · exact hlog

theorem logAt_halted (s : State) (cls domain source unit code : Nat) : halted (logAt s cls domain source unit code) = halted s :=
  logFaultIn_halted ..

/-- A record logged leaves every register below the block FAULT. -/
theorem logAt_regs_below (s : State) (cls domain source unit code : Nat) {o : Nat} (ho : o < fltReg 0) :
    regGet (logAt s cls domain source unit code) o = regGet s o := by
  refine ((logFaultIn_dataKept (P := (· < fltReg 0)) s _ _ (by decide) (by decide)).regs o ho).trans ?_
  rw [regGet_regBump, if_neg (by unfold fltReg at *; omega)]

/-- HALTED is set, or was. -/
theorem haltDevice_halted (s : State) (source unit code : Nat) : halted (haltDevice s source unit code) = true := by
  unfold haltDevice
  split
  next h => exact h
  · extract_lets a b c
    have hflag : halted (raiseIbi (regFlag b (fltReg 0x008) 0) 2) = true := by
      have h1 : regField (regFlag b (fltReg 0x008) 0) (fltReg 0x008) 0 0 = 1 := regField_regPut _ _ _ _ _ (by omega)
      rw [halted_of_regs (raiseIbi_regs ..), halted, h1]
      rfl
    have hc : halted c = true := (logAt_halted ..).trans hflag
    split
    · exact hc
    · exact (sendMsix_halted ..).trans hc

/-! ### FURROW_SYNC pulses (R194) -/

/-- ALIGNED set where `c` says so changes that bit alone. -/
theorem alignedWhere_frame (s : State) (c : Prop) [Decidable c] :
    let n := if c then setAligned s true else s
    n.mem = s.mem ∧ n.rqt = s.rqt ∧ n.tick = s.tick ∧ regGet n (furReg 0x020) = regGet s (furReg 0x020)
      ∧ regField n (furReg 0x018) 0 0 = if c then 1 else regField s (furReg 0x018) 0 0 := by
  intro n
  unfold n
  split
  · refine ⟨rfl, rfl, setAligned_tick s true, regGet_regPut_ne s 0 0 1 (by decide), ?_⟩
    exact regField_regPut s (furReg 0x018) 0 0 1 (by omega)
  · exact ⟨rfl, rfl, rfl, rfl, rfl⟩

theorem exec_furrowSyncPulse_spec {s : State} (x : Int) (wide : Bool) (htick : ticking s = true) (hstarted : s.tick.started = true)
    (href : s.tick.tickRef = true) (hmode : s.tick.syncMode = 2) :
    ∃ n, exec (.furrowSyncPulse x wide) s = .next n ∧ regGet n (furReg 0x020) = (BitVec.ofInt 16 x).toNat ∧ n.mem = s.mem
      ∧ n.tick.furrow = s.tick.furrow ∧ n.rqt = s.rqt
      ∧ n.tick.lengthen = (if regField s (furReg 0x018) 0 0 = 1 then s.tick.lengthen else ((-x) % (furrowPeriods s : Int)).toNat)
      ∧ ((x < -1 ∨ 1 < x) → n.tick.goodTicks = 0
          ∧ n.tick.inWindow = (if wide ∧ regField s (furReg 0x018) 0 0 = 0 then 0 else s.tick.inWindow))
      ∧ (-1 ≤ x → x ≤ 0 → s.tick.goodTicks = 2 → s.tick.goodAt + 1 = s.tick.furrow → s.tick.headPulse = true →
          regField n (furReg 0x018) 0 0 = 1) := by
  change ∃ n, execFurrowSyncPulse x wide s = .next n ∧ _
  have hruns : ¬ (!ticking s ∨ !s.tick.started ∨ !s.tick.tickRef ∨ s.tick.syncMode ≠ 2) := by
    simp [htick, hstarted, href, hmode]
  unfold execFurrowSyncPulse
  rw [if_neg hruns]
  extract_lets v close aligned at_ good head t u t' w
  have hofs : regGet v (furReg 0x020) = (BitVec.ofInt 16 x).toNat := by
    have hlt := (BitVec.ofInt 16 x).isLt
    rw [regGet_regSet, if_pos rfl]
    exact Nat.mod_eq_of_lt (by omega)
  have hfield : regField v (furReg 0x018) 0 0 = regField s (furReg 0x018) 0 0 := regField_regSet_ne s _ 0 0 (by decide)
  have hbit : regField s (furReg 0x018) 0 0 < 2 := bits_lt ..
  have haligned : aligned = decide (regField s (furReg 0x018) 0 0 = 1) := by
    unfold aligned
    rw [hfield]
    rfl
  have hregs : w.regs = v.regs := by
    unfold w
    split <;> rfl
  have hheld : w.mem = s.mem ∧ w.rqt = s.rqt ∧ w.tick.furrow = s.tick.furrow ∧ w.tick.goodTicks = good
      ∧ w.tick.headPulse = (close && (s.tick.headPulse || head)) := by
    unfold w
    split <;> exact ⟨rfl, rfl, rfl, rfl, rfl⟩
  have hlengthen : w.tick.lengthen = if aligned then s.tick.lengthen else ((-x) % (furrowPeriods s : Int)).toNat := by
    unfold w
    split <;> rfl
  have hinWindow : w.tick.inWindow = if aligned then s.tick.inWindow else if wide then 0 else s.tick.inWindow := by
    unfold w
    split <;> rfl
  obtain ⟨hmem, hrqt, hfurrow, hgood, hpulse⟩ := hheld
  obtain ⟨nmem, nrqt, ntick, nofs, nfield⟩ := alignedWhere_frame w (!aligned ∧ 3 ≤ good ∧ w.tick.headPulse)
  have hw018 : regField w (furReg 0x018) 0 0 = regField s (furReg 0x018) 0 0 := by
    rw [regField, regGet_congr hregs, ← regField, hfield]
  refine ⟨_, rfl, ?_, nmem.trans hmem, ?_, nrqt.trans hrqt, ?_, fun hfar => ?_, fun hlo hhi htwo hnext hhead => ?_⟩
  · rw [nofs, regGet_congr hregs, hofs]
  · rw [ntick, hfurrow]
  · rw [ntick, hlengthen, haligned]
    simp only [decide_eq_true_eq]
  · have hclose : close = false := by
      simp only [close, Bool.and_eq_false_iff, decide_eq_false_iff_not]
      omega
    refine ⟨by rw [ntick, hgood]; simp [good, hclose], ?_⟩
    rw [ntick, hinWindow, haligned]
    by_cases hone : regField s (furReg 0x018) 0 0 = 1
    · simp [hone]
    · have hzero : regField s (furReg 0x018) 0 0 = 0 := by omega
      simp [hzero]
  · have hclose : close = true := by
      simp only [close, Bool.and_eq_true, decide_eq_true_eq]
      omega
    have hat : at_ = s.tick.furrow := if_neg (by omega)
    have hthree : good = 3 := by
      have hne : s.tick.goodAt ≠ s.tick.furrow := by omega
      have hv : v.tick = s.tick := regSet_tick ..
      simp [good, hclose, hat, hv, htwo, hnext, hne]
    rw [nfield, hw018, hpulse, hthree, hclose, hhead, haligned]
    by_cases hone : regField s (furReg 0x018) 0 0 = 1 <;> simp [hone]

/-! ### References lost (R197, R475) -/

/-- TICK_REF gone: what the tick unit knew of it and of the leader's pulses goes with it. -/
def refLost (s : State) : State :=
  { s with tick := { s.tick with tickRef := false, refBackMs := 0, goodTicks := 0, headPulse := false } }

theorem exec_tickRefLost {s : State} (halive : alive s = true) (href : s.tick.tickRef = true) :
    exec (.tickRefLost true) s = .next (if !s.tick.pcieRef then haltDevice (refLost s) 0x11 0 0x0016
      else logAt (setAligned (regFlag (regFlag (refLost s) (furReg 0x018) 1) (furReg 0x018) 2) false) 0 0 0x11 0 0x0016) := by
  change execTickRefLost true s = _
  unfold execTickRefLost refLost
  simp only [halive, href, Bool.not_true, Bool.false_eq_true, if_false]
  split <;> rfl

/-- Holdover shows beside the flag of its begin and ALIGNED cleared. -/
theorem holdover_shown (s : State) :
    let n := setAligned (regFlag (regFlag s (furReg 0x018) 1) (furReg 0x018) 2) false
    regField n (furReg 0x018) 1 1 = 1 ∧ halted n = halted s := by
  intro n
  have hn : n.regs = (regPut (regFlag (regFlag s (furReg 0x018) 1) (furReg 0x018) 2) (furReg 0x018) 0 0 0).regs := rfl
  constructor
  · rw [regField, regGet_congr hn, ← regField, regField_regPut_of_disjoint _ _ _ _ _ _ _ (by omega) (by omega), regFlag,
      regField_regPut_of_disjoint _ _ _ _ _ _ _ (by omega) (by omega), regFlag, regField_regPut _ _ _ _ _ (by omega)]
    rfl
  · rw [halted_of_regs hn, halted, regField_regPut_ne _ _ _ _ _ _ (by decide), regFlag, regField_regPut_ne _ _ _ _ _ _ (by decide),
      regFlag, regField_regPut_ne _ _ _ _ _ _ (by decide), ← halted]

theorem exec_tickRefLost_holdover {s : State} (halive : alive s = true) (href : s.tick.tickRef = true)
    (hpcie : s.tick.pcieRef = true) :
    ∃ n, exec (.tickRefLost true) s = .next n ∧ n.tick.tickRef = false ∧ regField n (furReg 0x018) 1 1 = 1
      ∧ halted n = halted s := by
  obtain ⟨hshown, hhalted⟩ := holdover_shown (refLost s)
  refine ⟨_, exec_tickRefLost halive href, ?_⟩
  rw [hpcie, if_neg (by simp)]
  refine ⟨?_, ?_, (logAt_halted ..).trans hhalted⟩
  · rw [logAt_tick, setAligned_tick, regFlag_tick, regFlag_tick]
    rfl
  · rw [regField, logAt_regs_below _ _ _ _ _ _ (by decide), ← regField, hshown]

theorem exec_tickRefLost_halts {s : State} (halive : alive s = true) (href : s.tick.tickRef = true) (hpcie : s.tick.pcieRef = false) :
    ∃ n, exec (.tickRefLost true) s = .next n ∧ halted n = true := by
  refine ⟨_, exec_tickRefLost halive href, ?_⟩
  rw [hpcie, if_pos (by simp)]
  exact haltDevice_halted ..

/-- The PCIe reference gone, with the host link. -/
def pcieLost (s : State) : State :=
  { s with tick := { s.tick with pcieRef := false }, pins := { s.pins with hostLink := false } }

theorem exec_pcieRefLost {s : State} (halive : alive s = true) (hpcie : s.tick.pcieRef = true) :
    exec .pcieRefLost s = .next (if s.tick.tickRef then pcieLost s else haltDevice (pcieLost s) 0x11 0 0x0016) := by
  have hlost : ¬ (!alive s ∨ !s.tick.pcieRef) := by simp [halive, hpcie]
  exact if_neg hlost

theorem exec_tickRefBack {s : State} (halive : alive s = true) :
    exec (.tickRefLost false) s = .next (if s.tick.tickRef then s else { s with tick := { s.tick with refBackMs := 1 } }) := by
  change execTickRefLost false s = _
  unfold execTickRefLost
  simp [halive]

theorem exec_tickRefLost_again {s : State} (halive : alive s = true) (href : s.tick.tickRef = false) :
    exec (.tickRefLost true) s = .next { s with tick := { s.tick with refBackMs := 0 } } := by
  change execTickRefLost true s = _
  unfold execTickRefLost
  simp [halive, href]

/-- Settles O60: the tick by what the end of the furrow keeps of the tick unit, the references case by case. -/
theorem furrowsAndReferences : Obligations.FurrowsAndReferences := by
  refine ⟨fun ws s => ⟨exec_tick_spec ws, fun h => ⟨?still, ?stillHead⟩, fun hrun hdue hdone => ?head, fun h => ?done⟩,
    fun s => ⟨exec_furrowSyncPulse_spec, fun halive href hpcie => ⟨exec_tickRefLost_holdover halive href hpcie, ?pcie⟩,
      exec_tickRefLost_halts, fun halive href hpcie => ?both, fun halive href => ?here, exec_tickRefLost_again,
      fun halive href => ?back⟩⟩
  case still =>
    change execTick ws s = _
    rw [execTick, h]
    rfl
  case stillHead =>
    rw [exec_headland, h]
    rfl
  case head =>
    refine ⟨_, ?_, rfl⟩
    rw [exec_headland, hrun, hdue, hdone]
    rfl
  case done =>
    rw [exec_headland]
    refine if_pos ?_
    rcases h with h | h <;> simp [h]
  case pcie =>
    rw [exec_pcieRefLost halive hpcie, href]
    rfl
  case both =>
    refine ⟨_, exec_pcieRefLost halive hpcie, ?_⟩
    rw [href, if_neg (by simp)]
    exact haltDevice_halted ..
  case here =>
    rw [exec_tickRefBack halive, href]
    rfl
  case back =>
    rw [exec_tickRefBack halive, href]
    rfl

end Sys2Proof.Machine
end

section
/-! # A step on the queue (O1, O2) -/

namespace Sys2Proof.Machine

/-- Settles O1: the step is defined on the command in front. -/
theorem stepRunsFrontCommand : Obligations.StepRunsFrontCommand := fun _ _ _ h => step_of_command h

/-- Settles O2: on an empty queue the step is an idle period, which counts time where the part is out of reset and a reference is
present. -/
theorem idlePeriodCountsTime : Obligations.IdlePeriodCountsTime := by
  intro s hq
  rw [step_of_idle hq, idle]
  refine ⟨fun hgood hperst href => ?counts, fun hreset => ?still⟩
  case counts =>
    rw [if_pos]
    rcases href with href | href <;> simp [hgood, hperst, href]
  case still =>
    rw [if_neg]
    rcases hreset with hreset | hreset <;> simp [hreset]

end Sys2Proof.Machine
end

section
/-! # CANCEL and RELEASE (O27) -/

namespace Sys2Proof.Machine

section
variable {m : Mbox} {p : List Byte} {s : State} {t : LdId} (hlive : mboxLive s m = true)
  (hgate : gate s { len := 0x0C } m p false = .ok t)
include hlive hgate

theorem exec_cancel_unknown (h : byTag s t.val (fld p 8 4) = none) :
    exec (.cancel m p) s = .next (reply s m 0 (bruahOut 3 [])) := by
  refine (bruah_ok hlive hgate _).trans ?_
  rw [h]

theorem exec_release_unknown (h : byTag s t.val (fld p 8 4) = none) :
    exec (.releaseRequest m p) s = .next (reply s m 0 (bruahOut 3 [])) := by
  refine (bruah_ok hlive hgate _).trans ?_
  rw [h]

variable {i : Nat} {e : Entry} (htag : byTag s t.val (fld p 8 4) = some (i, e))
include htag

theorem exec_cancel_active
    (hst : e.state = .queued ∨ e.state = .admitted ∨ e.state = .running ∨ e.state = .generating) :
    exec (.cancel m p) s = .next (reply (noteCancel s i) m 0 (bruahOut 0 [])) := by
  refine (bruah_ok hlive hgate _).trans ?_
  rw [htag]
  rcases hst with hst | hst | hst | hst <;> simp only [hst]

theorem exec_cancel_bundle (hst : e.state = .parking ∨ e.state = .parked ∨ e.state = .lifting) :
    exec (.cancel m p) s = .next (reply s m 0 (bruahOut 2 [])) := by
  refine (bruah_ok hlive hgate _).trans ?_
  rw [htag]
  rcases hst with hst | hst | hst <;> simp only [hst]

theorem exec_cancel_ended
    (hst : e.state = .complete ∨ e.state = .cancelled ∨ e.state = .failed ∨ e.state = .failedPartial) :
    exec (.cancel m p) s = .next (reply (regBump s (rqtReg 0x100030) 1) m 0 (bruahOut 1 [])) := by
  refine (bruah_ok hlive hgate _).trans ?_
  rw [htag]
  rcases hst with hst | hst | hst | hst <;> simp only [hst]

theorem exec_release_kept (hop : opOf s i = none) (hst : retained e = true ∨ e.state = .parked) :
    exec (.releaseRequest m p) s
      = .next (reply (setWork s i { workOf s i with releaseReq := true, freeLate := lateChange s }) m 0 (bruahOut 0 [])) := by
  refine (bruah_ok hlive hgate _).trans ?_
  have hmay : (retained e || e.state == .parked) = true := by simpa using hst
  simp only [htag, hop, hmay, if_true]
  rfl

theorem exec_release_badState (hop : opOf s i = none) (hret : retained e = false) (hst : e.state ≠ .parked) :
    exec (.releaseRequest m p) s = .next (reply s m 0 (bruahOut 9 [])) := by
  refine (bruah_ok hlive hgate _).trans ?_
  have hmay : (retained e || e.state == .parked) = false := by simp [hret, hst]
  simp only [htag, hop, hmay]
  rfl

theorem exec_release_busy (hop : opOf s i ≠ none) :
    exec (.releaseRequest m p) s = .next (reply s m 0 (bruahOut 0x0A [])) := by
  refine (bruah_ok hlive hgate _).trans ?_
  have hsome : (opOf s i).isSome = true := Option.isSome_iff_ne_none.2 hop
  simp only [htag, hsome, if_true]

end

/-- Settles O27: one answer for each state of the entry that the tag names. -/
theorem cancelAndRelease : Obligations.CancelAndRelease := by
  intro m p s t hlive hgate
  refine ⟨fun hnone => ⟨exec_cancel_unknown hlive hgate hnone, exec_release_unknown hlive hgate hnone⟩, fun i e htag => ?_⟩
  refine ⟨fun hst => ⟨fun hnew => ?first, fun hpending => ?again⟩, exec_cancel_bundle hlive hgate htag,
    exec_cancel_ended hlive hgate htag, exec_release_kept hlive hgate htag, exec_release_badState hlive hgate htag,
    exec_release_busy hlive hgate htag⟩
  case first => rw [exec_cancel_active hlive hgate htag hst, noteCancel, if_neg (by simp [hnew])]
  case again => rw [exec_cancel_active hlive hgate htag hst, noteCancel, if_pos hpending]

end Sys2Proof.Machine
end

section
/-! # What leaves the requests and the queues as they are

Reads and writes of memory, pages, blocks and tree nodes, faults, messages and records change nothing of what the statements on
serving speak of. That part of the state is named here once, as `served`, and every definition of that kind is shown to keep it. -/

namespace Sys2Proof.Machine

/-! ### The view -/

/-- What decides how a request goes on: its input, its booked chain and its chunks. -/
def bookedWork (w : Work) : List Nat × List LaneFurrow × List Nat := (w.tokens, w.chain, w.chunkLens)

/-- RQT_ADMITTED, the rounds committed and SMP_NAN (R277). -/
def commitCounters : List Nat := [rqtReg 0x100018, rqtReg 0x100068, rqtReg 0x100080]

/-- What the statements say of the requests. -/
structure Requests where
  rqt     : List (Nat × Entry)
  work    : Nat → List Nat × List LaneFurrow × List Nat
  rounds  : List Round
  items   : List ItemRun
  counted : Nat                     -- rounds committed

def requests (s : State) : Requests :=
  ⟨s.rqt, fun i => bookedWork (workOf s i), s.rounds, s.items, regGet s (rqtReg 0x100068)⟩

/-- What they say of the requests, the queues, the records that wait and the counters. -/
structure Served where
  requests : Requests
  queues   : Vector Queue 128
  overflow : LdId → List OverRec
  counts   : List Nat

def served (s : State) : Served :=
  ⟨requests s, s.queues, fun t => (ten s t).overflow, commitCounters.map (regGet s)⟩

section
variable {s n : State} (h : requests n = requests s)
include h

theorem rqt_of_requests : n.rqt = s.rqt := congrArg Requests.rqt h
theorem bookedWork_of_requests (i : Nat) : bookedWork (workOf n i) = bookedWork (workOf s i) :=
  congrFun (congrArg Requests.work h) i
theorem rounds_of_requests : n.rounds = s.rounds := congrArg Requests.rounds h
theorem items_of_requests : n.items = s.items := congrArg Requests.items h
theorem counted_of_requests : regGet n (rqtReg 0x100068) = regGet s (rqtReg 0x100068) := congrArg Requests.counted h
theorem entryOf_of_requests (i : Nat) : entryOf n i = entryOf s i := by rw [entryOf, rqt_of_requests h, entryOf]

end

section
variable {s n : State} (h : served n = served s)
include h

theorem requests_of_served : requests n = requests s := congrArg Served.requests h
theorem queues_of_served : n.queues = s.queues := congrArg Served.queues h
theorem que_of_served (q : Fin 128) : que n q = que s q := que_congr (queues_of_served h) q
theorem overflow_of_served (t : LdId) : (ten n t).overflow = (ten s t).overflow := congrFun (congrArg Served.overflow h) t
theorem regGet_of_served {o : Nat} (ho : o ∈ commitCounters) : regGet n o = regGet s o :=
  List.map_inj_left.1 (congrArg Served.counts h) o ho

end

/-! ### The shapes -/

theorem served_ite {c : Prop} [Decidable c] {s a b : State} (ha : served a = served s) (hb : served b = served s) :
    served (if c then a else b) = served s := by
  split
  · exact ha
  · exact hb

theorem served_foldl {α : Type} {f : State → α → State} (l : List α) (s : State) (h : ∀ s x, served (f s x) = served s) :
    served (l.foldl f s) = served s := foldl_reads l s fun s x _ => h s x

theorem requests_ite {c : Prop} [Decidable c] {s a b : State} (ha : requests a = requests s) (hb : requests b = requests s) :
    requests (if c then a else b) = requests s := by
  split
  · exact ha
  · exact hb

/-! ### Registers -/

/-- A register outside the block RQT. -/
theorem not_commitCounter_of_outside {o : Nat} (h : o < rqtReg 0 ∨ rqtReg 0x200000 ≤ o) : o ∉ commitCounters := by
  simp only [commitCounters, rqtReg, List.mem_cons, List.not_mem_nil, or_false] at h ⊢
  omega

theorem fltReg_not_commitCounter (off : Nat) : fltReg off ∉ commitCounters :=
  not_commitCounter_of_outside (by unfold fltReg rqtReg; omega)

theorem glbReg_not_commitCounter {off : Nat} (h : off < 0x10000) : glbReg off ∉ commitCounters :=
  not_commitCounter_of_outside (by unfold glbReg rqtReg; omega)

theorem mcReg_not_commitCounter {n off : Nat} (hn : n < 4) (h : off < 0x1000) : mcReg n off ∉ commitCounters :=
  not_commitCounter_of_outside (by unfold mcReg feReg rqtReg; omega)

theorem regSet_requests (s : State) {o : Nat} (v : Nat) (h : o ≠ rqtReg 0x100068) : requests (regSet s o v) = requests s := by
  unfold requests
  rw [regGet_regSet_ne s v h.symm]
  rfl

theorem regBump_requests (s : State) {o : Nat} (k : Nat) (h : o ≠ rqtReg 0x100068) : requests (regBump s o k) = requests s :=
  requests_ite rfl (regSet_requests s _ h)

theorem regSet_served (s : State) {o : Nat} (v : Nat) (h : o ∉ commitCounters) : served (regSet s o v) = served s := by
  have hregs : commitCounters.map (regGet (regSet s o v)) = commitCounters.map (regGet s) :=
    List.map_congr_left fun p hp => regGet_regSet_ne s v fun e => h (e ▸ hp)
  have hround : o ≠ rqtReg 0x100068 := fun e => h (e ▸ by decide)
  unfold served
  rw [hregs, regSet_requests s v hround]
  rfl

theorem regBump_served (s : State) {o : Nat} (k : Nat) (h : o ∉ commitCounters) : served (regBump s o k) = served s :=
  served_ite rfl (regSet_served s _ h)

theorem regPut_served (s : State) {o : Nat} (hi lo v : Nat) (h : o ∉ commitCounters) : served (regPut s o hi lo v) = served s :=
  regSet_served s _ h

theorem regPut_flt_served (s : State) (off hi lo v : Nat) : served (regPut s (fltReg off) hi lo v) = served s :=
  regPut_served s hi lo v (fltReg_not_commitCounter off)

theorem regBump_flt_served (s : State) (off k : Nat) : served (regBump s (fltReg off) k) = served s :=
  regBump_served s k (fltReg_not_commitCounter off)

/-! ### Tenants, and the work kept beside an entry -/

theorem setTen_served (s : State) (t : LdId) {u : Tenant} (h : u.overflow = (ten s t).overflow) :
    served (setTen s t u) = served s := by
  have hover : (fun i => (ten (setTen s t u) i).overflow) = fun i => (ten s i).overflow := by
    funext i
    by_cases hi : i = t
    · rw [hi, ten_setTen, h]
    · rw [ten_setTen_ne _ _ _ _ hi]
  unfold served
  rw [hover]
  rfl

theorem workOf_setWork (s : State) (i j : Nat) (w : Work) : workOf (setWork s i w) j = if j = i then w else workOf s j := by
  rw [workOf, setWork, lookupN_insertN]
  split <;> rfl

theorem setWork_served (s : State) (i : Nat) {w : Work} (h : bookedWork w = bookedWork (workOf s i)) :
    served (setWork s i w) = served s := by
  have hwork : (fun j => bookedWork (workOf (setWork s i w) j)) = fun j => bookedWork (workOf s j) := by
    funext j
    rw [workOf_setWork]
    split
    · next hj => rw [h, hj]
    · rfl
  unfold served requests
  rw [hwork]
  rfl

/-! ### Messages, events and records of faults -/

theorem sendMsix_served (s : State) (fn : Mbox) (v : Nat) : served (sendMsix s fn v) = served s := served_ite rfl rfl

theorem ownerEvent_served (s : State) (bs : List Byte) : served (ownerEvent s bs) = served s :=
  served_ite (sendMsix_served ..) rfl

theorem tenantEvent_served (s : State) (t : LdId) (bs : List Byte) : served (tenantEvent s t bs) = served s := by
  unfold tenantEvent
  extract_lets u n
  have hn : served n = served s := setTen_served s t rfl
  exact served_ite ((sendMsix_served ..).trans hn) hn

theorem mediaEvent_served (s : State) (t : LdId) (off : Nat) : served (mediaEvent s t off) = served s :=
  (tenantEvent_served ..).trans (ownerEvent_served ..)

theorem logFaultIn_served (s : State) (furrow : Nat) (r : FaultRec) : served (logFaultIn s furrow r) = served s := by
  unfold logFaultIn
  extract_lets r' s1 faults full lost log s2 s3 s4 s5 s6
  have h1 : served s1 = served s := regBump_flt_served ..
  have h3 : served s3 = served s := (regBump_flt_served s2 0x010 1).trans h1
  have h4 : served s4 = served s := (served_ite (regPut_flt_served s3 0x008 _ _ _) rfl).trans h3
  have h6 : served s6 = served s := (served_ite (by rfl) rfl).trans ((ownerEvent_served s4 (faultBytes r')).trans h4)
  exact served_ite h1 (served_ite h6 h6)

theorem logFault_served (s : State) (r : FaultRec) : served (logFault s r) = served s := logFaultIn_served ..

theorem logAt_served (s : State) (cls domain source unit code : Nat) : served (logAt s cls domain source unit code) = served s :=
  logFault_served ..

theorem windowMiss_served (s : State) (t : LdId) (off : Nat) : served (windowMiss s t off) = served s :=
  (tenantEvent_served ..).trans ((logFault_served ..).trans (regBump_flt_served s (0x100 + 16 * t.val) 1))

/-! ### Lines read -/

theorem geoBump_served (s : State) : served (geoBump s) = served s := regBump_served s 1 (glbReg_not_commitCounter (by decide))

theorem disarm_served (s : State) (source unit : Nat) : served (disarm s source unit) = served s := by
  unfold disarm
  extract_lets v s1
  have h1 : served s1 = served s := regPut_flt_served ..
  exact served_ite (served_ite h1 h1) rfl

theorem retirePc_served (s : State) {pc : Nat} (h : pc < 640) : served (retirePc s pc) = served s := by
  unfold retirePc
  extract_lets o v0 v1 s1 now faults s2
  have h1 : served s1 = served s :=
    served_ite ((regPut_flt_served ..).trans ((regPut_flt_served ..).trans ((regPut_flt_served ..).trans (regPut_flt_served ..))))
      ((regPut_flt_served ..).trans ((regPut_flt_served ..).trans (regPut_flt_served ..)))
  have hclear : served (regClearBit s2 (glbReg (0x120 + 8 * (pc / 64))) (pc % 64)) = served s2 :=
    regPut_served s2 _ _ _ (glbReg_not_commitCounter (by omega))
  have h2 : served s2 = served s := h1
  exact served_ite rfl (served_ite (regPut_flt_served ..)
    ((logFault_served ..).trans ((geoBump_served _).trans (hclear.trans h2))))

theorem notePcErr_served (s : State) {pc : Nat} (line : Option Nat) (k : Nat) (h : pc < 640) :
    served (notePcErr s pc line k) = served s := served_ite (retirePc_served _ h) rfl

theorem eccCorrect_served (s : State) (dpa k : Nat) : served (eccCorrect s dpa k) = served s :=
  (notePcErr_served _ none k (dpaPc_lt _)).trans ((logFault_served ..).trans (regBump_flt_served (tickFree s) 0x050 k))

theorem eccPoison_served (s : State) (dpa : Nat) (quiet : Bool) : served (eccPoison s dpa quiet) = served s := by
  unfold eccPoison
  extract_lets l pc s1 v s2 s3
  have h1 : served s1 = served s := regBump_flt_served ..
  have h2 : served s2 = served s := (served_ite rfl (logFault_served (tickFree s1) _) : served s2 = served s1).trans h1
  have h3 : served s3 = served s := (notePcErr_served s2 _ 1 (dpaPc_lt _)).trans h2
  refine served_ite rfl ?_
  split
  · exact (mediaEvent_served ..).trans h3
  · exact h3

theorem hbmRead_served (quiet : Bool) (s : State) (dpa : Nat) : served (hbmRead quiet s dpa) = served s :=
  served_ite rfl (served_ite (eccCorrect_served ..) (eccPoison_served ..))

theorem dpaDie_lt (a : Nat) : dpaDie a < 4 := by unfold dpaDie; omega

theorem mereRead_served (s : State) (dpa hint : Nat) : served (mereRead s dpa hint) = served s := by
  have hreg : ∀ {off}, off < 0x1000 → mcReg (dpaDie dpa) off ∉ commitCounters := mcReg_not_commitCounter (dpaDie_lt dpa)
  unfold mereRead
  extract_lets n k m line set t s1 ok inSet free way rest s2
  have h1 : served s1 = served s := regBump_served s 1 (hreg (by decide))
  split
  · exact regBump_served _ 1 (hreg (by decide))
  · refine served_ite h1 ((disarm_served ..).trans ((regBump_served s2 _ (hreg (by decide))).trans ?_))
    exact h1

theorem workRead_served (hint : Nat) (s : State) (dpa : Nat) : served (workRead hint s dpa) = served s :=
  (mereRead_served ..).trans (served_ite rfl (hbmRead_served ..))

theorem memTouch_served (s : State) (a n : Nat) : served (memTouch s a n) = served s :=
  served_foldl _ s fun _ _ => workRead_served ..

theorem tvaTouch_served (s : State) (t : LdId) (v n hint : Nat) : served (tvaTouch s t v n hint) = served s :=
  served_foldl _ s fun _ _ => workRead_served ..

theorem devTouch_served (s : State) (t : LdId) (v n : Nat) : served (devTouch s t v n) = served s := tvaTouch_served ..

theorem touchAll_served (s : State) (t : LdId) (rs : List (Nat × Nat)) : served (touchAll s t rs) = served s :=
  served_foldl _ s fun _ _ => tvaTouch_served ..

theorem touchLogits_served (s : State) (i n : Nat) : served (touchLogits s i n) = served s :=
  (touchAll_served ..).trans (memTouch_served ..)

/-! ### Lines written -/

theorem slicesWrote_served (s : State) (ps : List Nat) : served (slicesWrote s ps) = served s :=
  foldl_reads _ s fun s d hd => served_ite rfl ((disarm_served ..).trans
    (regBump_served s _ (mcReg_not_commitCounter (List.mem_range.1 hd) (by decide))))

theorem hbmWrote_served (s : State) (x : Nat × Nat) : served (hbmWrote s x) = served s :=
  served_ite rfl (served_ite (regPut_flt_served ..) rfl)

theorem piecesWrote_served (s : State) (ps : List (Nat × Nat)) : served (piecesWrote s ps) = served s :=
  (served_foldl ps _ hbmWrote_served).trans (slicesWrote_served ..)

theorem giveFrame_served (s : State) (f : Nat) (t : Tag) : served (giveFrame s f t) = served s := piecesWrote_served ..

theorem setTag_served (s : State) (f : Nat) (t : Tag) : served (setTag s f t) = served s := served_ite rfl rfl

theorem tvaPut_served (s : State) (t : LdId) (v : Nat) (b : Byte) : served (tvaPut s t v b) = served s := by
  unfold tvaPut
  split <;> rfl

theorem tvaWrites_served (s : State) (t : LdId) (v : Nat) (bs : List Byte) : served (tvaWrites s t v bs) = served s := by
  induction bs generalizing s v with
  | nil => rfl
  | cons b bs ih => rw [tvaWrites_cons, ih, tvaPut_served]

theorem tvaUnpoison_served (s : State) (t : LdId) (v n : Nat) : served (tvaUnpoison s t v n) = served s := by
  refine served_foldl _ s fun s k => served_ite rfl ?_
  split <;> rfl

theorem tvaStore_served (s : State) (t : LdId) (v : Nat) (bs : List Byte) : served (tvaStore s t v bs) = served s :=
  (piecesWrote_served ..).trans ((tvaUnpoison_served ..).trans (tvaWrites_served ..))

/-! ### Pages mapped and released -/

theorem mapPage_served {s n : State} {t : LdId} {entry : Option Nat} {v : Nat} (h : mapPage s t entry v = some n) :
    served n = served s := by
  have hgive (f : Nat) : served (giveFrame s f (.pool t.val)) = served s := giveFrame_served ..
  unfold mapPage at h
  extract_lets +onlyGivenNames booked at h
  split at h
  · cases h
  · split at h
    case isFalse => cases h
    case isTrue =>
      dsimp only at h
      split at h
      · split at h
        · cases h
          exact (setWork_served _ _ (by rfl)).trans ((setTen_served _ t (by rfl)).trans (hgive _))
        · cases h
          exact (setTen_served _ t (by rfl)).trans (hgive _)
      · cases h
        exact (setTen_served _ t (by rfl)).trans (hgive _)

theorem mapRange_served {s n : State} {t : LdId} {entry : Option Nat} {v pages : Nat} (h : mapRange s t entry v pages = some n) :
    served n = served s := by
  induction pages generalizing s v with
  | zero => cases h; rfl
  | succ pages ih =>
    rw [mapRange] at h
    split at h
    case h_1 => cases h
    case h_2 s' hpage =>
      split at hpage
      · cases hpage; exact ih h
      · exact (ih h).trans (mapPage_served hpage)

theorem devWrite_served (s : State) (t : LdId) (entry : Option Nat) (v : Nat) (bs : List Byte) :
    served (devWrite s t entry v bs) = served s := by
  unfold devWrite
  split
  · next h => exact (tvaStore_served ..).trans (mapRange_served h)
  · rfl

theorem unmapRange_served (s : State) (t : LdId) (v bytes : Nat) : served (unmapRange s t v bytes) = served s := by
  refine served_foldl _ s fun s i => ?_
  dsimp only
  split
  · next f _ =>
    have htag : served (setTag s f .free) = served s := setTag_served ..
    exact (setTen_served _ t (by exact (overflow_of_served htag t).symm)).trans htag
  · rfl

theorem unmapPage_served (s : State) (t tva log2 : Nat) : served (unmapPage s t tva log2) = served s :=
  served_ite (unmapRange_served ..) (served_ite rfl (unmapRange_served ..))

theorem pageDrop_served (s : State) (t : Nat) (now : Bool) (tva : Nat) : served (pageDrop s t now tva) = served s := by
  unfold pageDrop
  split
  · rfl
  · exact served_ite (unmapPage_served ..) rfl

theorem pageDrops_served (s : State) (t : Nat) (now : Bool) (l : List Nat) :
    served (l.foldl (fun s a => pageDrop s t now a) s) = served s := served_foldl l s fun _ _ => pageDrop_served ..

theorem pageRefs_served (s : State) (t : Nat) (l : List Nat) : served (l.foldl (fun s a => pageRef s t a) s) = served s :=
  served_foldl l s fun _ _ => rfl

theorem kvTake_served (s : State) (t : LdId) (size : Nat) : served (kvTake s t size).1 = served s := setTen_served s t rfl

/-- The same of steps that carry more than the state. -/
theorem served_foldlBeside {α β : Type} {st : β → State} {f : β → α → β} (h : ∀ y x, served (st (f y x)) = served (st y))
    (l : List α) (y : β) : served (st (l.foldl f y)) = served (st y) := by
  induction l generalizing y with
  | nil => rfl
  | cons x l ih => exact (ih _).trans (h y x)

theorem newPages_served (s : State) (t : LdId) (layers log2 : Nat) : served (newPages s t layers log2).1 = served s := by
  unfold newPages
  refine served_foldlBeside (st := Prod.fst) (fun x i => ?_) _ (s, [])
  dsimp only
  split
  · exact (tvaStore_served ..).trans (kvTake_served ..)
  · exact kvTake_served x.1 t (2 ^ log2)

/-! ### Blocks of an entry -/

theorem writeRow_served (s : State) (i b : Nat) (k : Block) : served (writeRow s i b k) = served s :=
  (served_foldl _ _ fun _ _ => devWrite_served ..).trans (devWrite_served ..)

theorem writeBlock_served (s : State) (i b : Nat) : served (writeBlock s i b) = served s := writeRow_served ..

theorem putBlock_served (s : State) (i b : Nat) (k : Block) : served (putBlock s i b k) = served s :=
  (writeBlock_served ..).trans (setWork_served _ _ rfl)

theorem ensureBlocks_served (s : State) (i upto : Nat) : served (ensureBlocks s i upto) = served s :=
  served_foldl _ s fun _ _ => served_ite ((putBlock_served ..).trans (newPages_served ..)) rfl

theorem setValid_served (s : State) (i len : Nat) : served (setValid s i len) = served s :=
  served_foldl _ s fun _ _ => served_ite rfl (putBlock_served ..)

theorem clearBlock_served (s : State) (i b : Nat) : served (clearBlock s i b) = served s :=
  served_ite rfl ((writeBlock_served ..).trans (setWork_served _ _ rfl))

theorem dropBlocks_served (s : State) (i b : Nat) : served (dropBlocks s i b) = served s := by
  unfold dropBlocks
  extract_lets e w s1 s2
  have h1 : served s1 = served s := served_foldl _ s fun _ _ => clearBlock_served ..
  have h2 : served s2 = served s1 := served_foldl _ s1 fun s k => pageDrops_served s e.ld false k.pages
  exact (setWork_served _ _ (by rfl)).trans (h2.trans h1)

theorem hashBlocks_served (s : State) (i : Nat) : served (hashBlocks s i) = served s :=
  served_foldl _ s fun _ _ => served_ite rfl (putBlock_served ..)

theorem countTokens_served (s : State) (i : Nat) (toks : List Nat) : served (countTokens s i toks) = served s :=
  have hpieces := piecesWrote_served s (toks.map (fun x => (countsAddr s i + 2 * x, 2)))
  (setWork_served _ _ (by exact (bookedWork_of_requests (requests_of_served hpieces) i).symm)).trans hpieces

theorem copyPos_served (s : State) (t : LdId) (i log2 : Nat) (src : List Nat) (sp : Nat) (dst : List Nat) (dp : Nat) :
    served (copyPos s t i log2 src sp dst dp) = served s := served_foldl _ s fun _ _ => devWrite_served ..

/-! ### Nodes of the tree -/

theorem dropNode_served (s : State) (n : Node) : served (dropNode s n) = served s :=
  (pageDrops_served ..).trans (served_ite rfl (unmapRange_served (unlinkNode s n) ..))

theorem removeNode_served (s : State) (n : Node) : served (removeNode s n) = served s :=
  (regBump_served _ 1 (by decide)).trans (dropNode_served ..)

theorem removeSubtree_served (fuel : Nat) (s : State) (i : Nat) : served (removeSubtree fuel s i) = served s := by
  induction fuel generalizing s i with
  | zero => rfl
  | succ fuel ih =>
    unfold removeSubtree
    split
    · rfl
    · exact (removeNode_served ..).trans (served_foldl _ s fun s x => ih s x.idx)

theorem descPlace_served (s : State) (t : LdId) (image layers : Nat) : served (descPlace s t image layers).1 = served s := by
  unfold descPlace
  dsimp only
  split
  · rfl
  · exact kvTake_served ..

theorem insertNode_served (s : State) (i b : Nat) (parent : Option Nat) (toks : List Nat) :
    served (insertNode s i b parent toks) = served s := by
  unfold insertNode
  extract_lets e k blk full room
  have hroom : ∀ n, room = some n → served n = served s := by
    intro n hn
    unfold room at hn
    split at hn
    · split at hn <;> cases hn
      exact removeNode_served ..
    · cases hn; rfl
  clear_value room
  refine served_ite rfl ?_
  split
  · exact regBump_served s 1 (by decide)
  · next n =>
    extract_lets idx r s1 s2 blk' s3
    have hr : served r.1 = served n := descPlace_served ..
    have h1 : served s1 = served n := hr
    have h2 : served s2 = served s1 := pageRefs_served ..
    have h3 : served s3 = served s2 := piecesWrote_served ..
    exact (putBlock_served ..).trans ((devWrite_served ..).trans (h3.trans (h2.trans (h1.trans (hroom n rfl)))))

theorem insertBlocks_served (s : State) (i old : Nat) (skip : Bool) : served (insertBlocks s i old skip) = served s :=
  served_foldl _ s fun _ _ => served_ite rfl (insertNode_served ..)

end Sys2Proof.Machine
end

section
/-! # Steps of one request

Records posted, work cut and a request ended: what each leaves of the other requests and of the calendar, and what it makes of the
request's own entry. -/

namespace Sys2Proof.Machine

/-! ### Records posted (R360, R361) -/

/-- A record put into a queue, or into its LD's overflow, changes of the queues only what the queue counts of its records. -/
structure RecordPosted (s n : State) (t : LdId) (q : Fin 128) : Prop where
  requests : requests n = requests s
  others   : ∀ p, p ≠ q → que n p = que s p
  queue    : que n q = { que s q with written := (que n q).written, complNew := (que n q).complNew, timerOn := (que n q).timerOn }
  posted   : (que n q).written = ((que s q).written + 1) % 2 ^ 32 ∨ (ten n t).overflow.length = (ten s t).overflow.length + 1

theorem setQue_requests (s : State) (q : Fin 128) (u : Queue) : requests (setQue s q u) = requests s := rfl

theorem putRecord_posted (s : State) (t : LdId) (q : Fin 128) (bs : List Byte) (compl : Bool) :
    RecordPosted s (putRecord s q bs compl) t q := by
  unfold putRecord
  extract_lets u k phase bs' s1
  have hstore : served s1 = served s := tvaStore_served ..
  refine ⟨(setQue_requests ..).trans (requests_of_served hstore), fun p hp => ?_, ?_, .inl ?_⟩
  · rw [que_setQue_ne _ _ _ _ hp, que_of_served hstore]
  · rw [que_setQue]
  · rw [que_setQue]

theorem postRecord_posted (s : State) (t : LdId) (q : Fin 128) (bs : List Byte) (compl place : Bool) :
    RecordPosted s (postRecord s t q bs compl place) t q := by
  have hput := putRecord_posted s t q bs compl
  unfold postRecord
  extract_lets u s1 v own
  split
  · split
    · refine ⟨hput.requests, hput.others, hput.queue, hput.posted.imp_right fun h => ?_⟩
      rw [ten_setTen, ← h]
    · exact hput
  · refine ⟨rfl, fun _ _ => rfl, rfl, .inr ?_⟩
    rw [ten_setTen]
    exact List.length_append

theorem postRecord_requests (s : State) (t : LdId) (q : Fin 128) (bs : List Byte) (compl place : Bool) :
    requests (postRecord s t q bs compl place) = requests s := (postRecord_posted ..).requests

/-! ### Work cut (R103, R116, R156) -/

theorem requests_foldl {α : Type} {f : State → α → State} (l : List α) (s : State) (h : ∀ s x, requests (f s x) = requests s) :
    requests (l.foldl f s) = requests s := foldl_reads l s fun s x _ => h s x

theorem ringReg_ne_roundCount (a q : Nat) {off : Nat} (h : off = 0x10 ∨ off = 0x18) : ringReg a q off ≠ rqtReg 0x100068 := by
  unfold ringReg spReg feReg rqtReg
  omega

theorem countWaits_requests (s : State) (a : ArrId) : requests (countWaits s a) = requests s :=
  requests_ite rfl (requests_foldl _ s fun _ _ =>
    (regBump_requests _ _ (ringReg_ne_roundCount _ _ (.inr rfl))).trans (regBump_requests _ _ (ringReg_ne_roundCount _ _ (.inl rfl))))

theorem stallReg_ne_roundCount (w : ItemRun) (d : Desc) : stallReg w d ≠ rqtReg 0x100068 :=
  ringReg_ne_roundCount _ _ (by split <;> simp)

theorem countStallsOn_requests (p : DescRun → Bool) (s : State) (f : FeId) : requests (countStallsOn p s f) = requests s := by
  refine requests_foldl _ s fun s x => ?_
  split
  · exact regBump_requests _ _ (stallReg_ne_roundCount _ _)
  · rfl

theorem discardOn_requests (every : Bool) (id : Nat) (s : State) (f : FeId) : requests (discardOn every id s f) = requests s :=
  requests_ite rfl (regBump_requests _ _ (by have := f.isLt; unfold feReg rqtReg; omega))

theorem cutItem_requests (s : State) (w : ItemRun) : requests (cutItem s w) = requests s := by
  unfold cutItem
  extract_lets s1 s2
  have h1 : requests s1 = requests s :=
    (requests_foldl _ _ fun _ _ => countStallsOn_requests ..).trans (requests_foldl _ s countWaits_requests)
  have h2 : requests s2 = requests s1 := requests_foldl _ s1 fun _ _ => rfl
  exact (requests_foldl _ s2 fun _ _ => discardOn_requests ..).trans (h2.trans h1)

/-! ### The frame -/

/-- Of the requests at most request `i`, of the calendar at most its seats and its work items differ. -/
structure RequestStep (i : Nat) (s n : State) : Prop where
  entry   : ∀ j, j ≠ i → lookupN j n.rqt = lookupN j s.rqt
  work    : ∀ j, j ≠ i → bookedWork (workOf n j) = bookedWork (workOf s j)
  rounds  : ∀ x ∈ n.rounds, ∃ y ∈ s.rounds, y.id = x.id
  items   : ∀ w ∈ n.items, w ∈ s.items
  counted : regGet n (rqtReg 0x100068) = regGet s (rqtReg 0x100068)

theorem RequestStep.of_requests {i : Nat} {s n : State} (h : requests n = requests s) : RequestStep i s n :=
  ⟨fun _ _ => by rw [rqt_of_requests h], fun j _ => bookedWork_of_requests h j,
    fun x hx => ⟨x, rounds_of_requests h ▸ hx, rfl⟩, fun w hw => items_of_requests h ▸ hw, counted_of_requests h⟩

theorem RequestStep.of_served {i : Nat} {s n : State} (h : served n = served s) : RequestStep i s n :=
  .of_requests (requests_of_served h)

theorem RequestStep.refl (i : Nat) (s : State) : RequestStep i s s := .of_requests rfl

theorem RequestStep.trans {i : Nat} {s t u : State} (a : RequestStep i s t) (b : RequestStep i t u) : RequestStep i s u := by
  refine ⟨fun j hj => (b.entry j hj).trans (a.entry j hj), fun j hj => (b.work j hj).trans (a.work j hj), fun x hx => ?_,
    fun w hw => a.items w (b.items w hw), b.counted.trans a.counted⟩
  obtain ⟨y, hy, hyx⟩ := b.rounds x hx
  obtain ⟨z, hz, hzy⟩ := a.rounds y hy
  exact ⟨z, hz, hzy.trans hyx⟩

theorem requestStep_ite {i : Nat} {c : Prop} [Decidable c] {s a b : State} (ha : RequestStep i s a) (hb : RequestStep i s b) :
    RequestStep i s (if c then a else b) := by
  split
  · exact ha
  · exact hb

theorem RequestStep.entryOf_ne {i j : Nat} {s n : State} (h : RequestStep i s n) (hj : j ≠ i) : entryOf n j = entryOf s j := by
  rw [entryOf, h.entry j hj, entryOf]

theorem lookupN_setEntry (s : State) (i j : Nat) (e : Entry) (h : e.state ≠ .free) :
    lookupN j (setEntry s i e).rqt = if j = i then some e else lookupN j s.rqt := by
  rw [setEntry, if_neg h, lookupN_insertN]

theorem entryOf_setEntry (s : State) (i : Nat) {e : Entry} (h : e.state ≠ .free) : entryOf (setEntry s i e) i = e := by
  rw [entryOf, lookupN_setEntry _ _ _ _ h, if_pos rfl]
  rfl

theorem setEntry_requestStep (s : State) (i : Nat) (e : Entry) : RequestStep i s (setEntry s i e) := by
  refine ⟨fun j hj => ?_, fun _ _ => rfl, fun x hx => ⟨x, hx, rfl⟩, fun _ hw => hw, rfl⟩
  unfold setEntry
  split
  · rw [lookupN_eraseN, if_neg hj]
  · rw [lookupN_insertN, if_neg hj]

theorem setWork_requestStep (s : State) (i : Nat) (w : Work) : RequestStep i s (setWork s i w) :=
  ⟨fun _ _ => rfl, fun j hj => by rw [workOf_setWork, if_neg hj], fun x hx => ⟨x, hx, rfl⟩, fun _ hw => hw, rfl⟩

theorem setWork_requests (s : State) (i : Nat) {w : Work} (h : bookedWork w = bookedWork (workOf s i)) :
    requests (setWork s i w) = requests s := requests_of_served (setWork_served s i h)

theorem workOf_setWork_same (s : State) (i : Nat) (w : Work) : workOf (setWork s i w) i = w := by
  rw [workOf_setWork, if_pos rfl]

/-! ### Times and late marks -/

/-- Of an entry at most its times and its late marks differ (R227, R271). -/
def TimesOnly (e e' : Entry) : Prop :=
  e' = { e with tFirst := e'.tFirst, tLast := e'.tLast, tbtMax := e'.tbtMax, tbtMiss := e'.tbtMiss, late := e'.late
                lateCause := e'.lateCause }

theorem TimesOnly.trans {a b c : Entry} (h : TimesOnly a b) (k : TimesOnly b c) : TimesOnly a c := by
  rw [TimesOnly, k, h]

/-- A step on request `i` that leaves its work, and of its entry all but times and marks. -/
structure TimesStep (i : Nat) (s n : State) : Prop where
  step  : RequestStep i s n
  entry : TimesOnly (entryOf s i) (entryOf n i)
  work  : bookedWork (workOf n i) = bookedWork (workOf s i)

theorem TimesStep.of_requests {i : Nat} {s n : State} (h : requests n = requests s) : TimesStep i s n :=
  ⟨.of_requests h, by rw [entryOf_of_requests h]; rfl, bookedWork_of_requests h i⟩

theorem TimesStep.trans {i : Nat} {s t u : State} (a : TimesStep i s t) (b : TimesStep i t u) : TimesStep i s u :=
  ⟨a.step.trans b.step, a.entry.trans b.entry, b.work.trans a.work⟩

theorem setEntry_timesStep (s : State) (i : Nat) {e : Entry} (h : TimesOnly (entryOf s i) e) (hst : (entryOf s i).state ≠ .free) :
    TimesStep i s (setEntry s i e) := by
  have hst' : e.state ≠ .free := by rw [h]; exact hst
  refine ⟨setEntry_requestStep .., ?_, rfl⟩
  rwa [entryOf_setEntry s i hst']

theorem noteCause_requests (s : State) (i c : Nat) : requests (noteCause s i c) = requests s :=
  requests_ite (setWork_requests s i rfl) rfl

section
variable (s : State) (i : Nat) (hst : (entryOf s i).state ≠ .free)
include hst

theorem makeLate_timesStep (c : Nat) : TimesStep i s (makeLate s i c) := by
  unfold makeLate
  extract_lets e s1 cause s2
  have hnote : requests s1 = requests s := noteCause_requests ..
  have hentry : entryOf s1 i = e := entryOf_of_requests hnote i
  have hset : TimesStep i s1 s2 := setEntry_timesStep s1 i (by rw [hentry]; rfl) (by rwa [hentry])
  exact ((TimesStep.of_requests hnote).trans hset).trans (.of_requests (regBump_requests _ _ (by decide)))

theorem lateCheck_timesStep : TimesStep i s (lateCheck s i) := by
  unfold lateCheck
  extract_lets e
  split
  · exact makeLate_timesStep s i hst _
  · exact .of_requests rfl

theorem stampCommit_timesStep (first : Bool) : TimesStep i s (stampCommit s i first) := by
  unfold stampCommit
  extract_lets e now dt e' s1
  have hset : TimesStep i s s1 := by
    refine setEntry_timesStep s i ?_ hst
    unfold e'
    split <;> rfl
  split
  · exact hset.trans (.of_requests (setWork_requests s1 i rfl))
  · exact hset

end

/-! ### A request ends (R235, R272, R274) -/

theorem bumpSeq_requests (s : State) (i : Nat) : requests (bumpSeq s i) = requests s := setWork_requests s i rfl

theorem postCompl_requests (s : State) (i : Nat) : requests (postCompl s i) = requests s := by
  unfold postCompl
  extract_lets e w s1 s2 src s3
  have h1 : requests s1 = requests s := setWork_requests s i rfl
  have h2 : requests s2 = requests s1 := postRecord_requests ..
  have h3 : requests s3 = requests s2 := setWork_requests s2 i rfl
  exact (bumpSeq_requests ..).trans (h3.trans (h2.trans h1))

theorem releaseBookings_requestStep (s : State) (i : Nat) : RequestStep i s (releaseBookings s i) := by
  unfold releaseBookings
  extract_lets s1 w
  refine RequestStep.trans (t := s1) ⟨fun _ _ => rfl, fun _ _ => rfl, fun x hx => ?_, fun _ hw => hw, rfl⟩ (setWork_requestStep ..)
  obtain ⟨y, hy, rfl⟩ := List.mem_map.1 (List.mem_of_mem_filter hx)
  exact ⟨y, hy, rfl⟩

theorem bookedWork_releaseBookings (s : State) (i : Nat) :
    bookedWork (workOf (releaseBookings s i) i) = ((workOf s i).tokens, [], []) := by
  unfold releaseBookings
  rw [workOf_setWork_same]
  rfl

/-- The entry of a request that has ended. -/
def endedEntry (e : Entry) (st : RqState) (status : Nat) : Entry :=
  { e with state := st, status := status, booked := 0, cancelPending := false }

section
variable (s : State) (i : Nat) (st : RqState) (status : Nat)

theorem endRequest_requestStep : RequestStep i s (endRequest s i st status) :=
  ((releaseBookings_requestStep s i).trans (setEntry_requestStep _ i _)).trans (.of_requests (postCompl_requests ..))

theorem entryOf_endRequest (hst : st ≠ .free) : entryOf (endRequest s i st status) i = endedEntry (entryOf s i) st status := by
  unfold endRequest
  rw [entryOf_of_requests (postCompl_requests ..), entryOf_setEntry _ i (by exact hst)]
  rfl

theorem bookedWork_endRequest : bookedWork (workOf (endRequest s i st status) i) = ((workOf s i).tokens, [], []) := by
  unfold endRequest
  rw [bookedWork_of_requests (postCompl_requests ..)]
  exact bookedWork_releaseBookings s i

end

/-! ### A request fails (R377, R379, R380) -/

/-- The state in which a request fails. -/
def failedAs (e : Entry) : RqState := if 0 < e.committed then .failedPartial else .failed

theorem failedAs_cases (e : Entry) : failedAs e = .failedPartial ∨ failedAs e = .failed := by
  unfold failedAs
  split
  · exact .inl rfl
  · exact .inr rfl

section
variable (s : State) (i : Nat)

theorem cutEntryItems_requestStep : RequestStep i s (cutEntryItems s i) := by
  unfold cutEntryItems
  extract_lets mine s1 s2
  have h1 : requests s1 = requests s := regBump_requests s _ (by decide)
  have h2 : requests s2 = requests s1 := requests_foldl mine s1 cutItem_requests
  refine (RequestStep.of_requests (h2.trans h1)).trans ?_
  exact ⟨fun _ _ => rfl, fun _ _ => rfl, fun x hx => ⟨x, hx, rfl⟩, fun w hw => List.mem_of_mem_filter hw, rfl⟩

theorem entryOf_cutEntryItems : entryOf (cutEntryItems s i) i = entryOf s i := by
  unfold cutEntryItems
  extract_lets mine s1 s2
  have h1 : requests s1 = requests s := regBump_requests s _ (by decide)
  have h2 : requests s2 = requests s1 := requests_foldl mine s1 cutItem_requests
  exact entryOf_of_requests (h2.trans h1) i

variable (status : Nat)

theorem failQuiet_requestStep : RequestStep i s (failQuiet s i status) :=
  ((cutEntryItems_requestStep s i).trans (.of_served (dropBlocks_served ..))).trans (endRequest_requestStep ..)

theorem entryOf_failQuiet : entryOf (failQuiet s i status) i = endedEntry (entryOf s i) (failedAs (entryOf s i)) status := by
  unfold failQuiet
  extract_lets s1 e s2
  have hcut : entryOf s1 i = entryOf s i := entryOf_cutEntryItems s i
  have hdrop : entryOf s2 i = entryOf s1 i := entryOf_of_requests (requests_of_served (dropBlocks_served ..)) i
  have hne : failedAs e ≠ .free := by rcases failedAs_cases e with h | h <;> simp [h]
  exact (entryOf_endRequest s2 i _ status hne).trans (by rw [hdrop, hcut]; unfold e; rw [hcut])

theorem bookedWork_failQuiet :
    ∃ toks, bookedWork (workOf (failQuiet s i status) i) = (toks, [], []) := ⟨_, bookedWork_endRequest ..⟩

variable (code : Nat)

theorem failRequest_requests : requests (failRequest s i status code) = requests (failQuiet s i status) :=
  requests_of_served (logFault_served ..)

theorem failRequest_requestStep : RequestStep i s (failRequest s i status code) :=
  (failQuiet_requestStep s i status).trans (.of_requests (failRequest_requests ..))

theorem entryOf_failRequest :
    entryOf (failRequest s i status code) i = endedEntry (entryOf s i) (failedAs (entryOf s i)) status :=
  (entryOf_of_requests (failRequest_requests ..) i).trans (entryOf_failQuiet s i status)

theorem bookedWork_failRequest : ∃ toks, bookedWork (workOf (failRequest s i status code) i) = (toks, [], []) := by
  rw [bookedWork_of_requests (failRequest_requests ..)]
  exact bookedWork_failQuiet s i status

end

end Sys2Proof.Machine
end

section
/-! # Submissions

A submission is read, and then enqueued or answered (O26). -/

namespace Sys2Proof.Machine

/-! ### Reads of a submission (R230) -/

theorem countUnreadable_served (s : State) (t : LdId) (v n : Nat) : served (countUnreadable s t v n) = served s :=
  served_ite (logFault_served ..) (windowMiss_served ..)

theorem readRange_served (s : State) (t : LdId) (v n : Nat) : served (readRange s t v n).1 = served s := by
  unfold readRange
  dsimp only
  split
  · exact devTouch_served ..
  · exact (countUnreadable_served ..).trans (devTouch_served ..)

theorem readInputs_served (s : State) (t : LdId) (r : List Byte) : served (readInputs s t r).1 = served s := by
  have hread {v n : Nat} {s s' : State} {o : Option (List Byte)} (h : readRange s t v n = (s', o)) : served s' = served s :=
    (congrArg (fun x => served x.1) h).symm.trans (readRange_served ..)
  unfold readInputs
  dsimp only
  split
  · next h1 => exact hread h1
  · next h1 =>
    split
    · exact hread h1
    · split
      · next h2 => exact (hread h2).trans (hread h1)
      · next h2 =>
        split
        · next h3 => exact (hread h3).trans ((hread h2).trans (hread h1))
        · next h3 => exact (hread h3).trans ((hread h2).trans (hread h1))

/-! ### A request enters its queue (R235, R240, R251) -/

theorem jrnlPut_served (s : State) (i ty : Nat) (body : List Byte) : served (jrnlPut s i ty body) = served s := rfl

theorem jrnlSubmit_served (s : State) (i : Nat) (cont : Bool) : served (jrnlSubmit s i cont) = served s :=
  (served_foldl _ _ fun _ _ => jrnlPut_served ..).trans (jrnlPut_served ..)

theorem flushProgress_served (s : State) (i : Nat) : served (flushProgress s i) = served s :=
  served_ite rfl ((setWork_served _ i (by rfl)).trans (served_foldl _ s fun _ _ => jrnlPut_served ..))

theorem evictPoisoned_served (fuel : Nat) (s : State) (key : TreeKey) (n : Nat) (toks : List Nat) (p : Option Nat) (h : List Byte) :
    served (evictPoisoned fuel s key n toks p h) = served s := by
  induction fuel generalizing s with
  | zero => rfl
  | succ fuel ih =>
    unfold evictPoisoned
    split
    · rfl
    · exact (ih _).trans ((logAt_served ..).trans (removeSubtree_served ..))

theorem runLookup_served (s : State) (i : Nat) (cont : Bool) : served (runLookup s i cont) = served s := by
  unfold runLookup
  extract_lets e w key last start n
  clear_value start
  split
  · rfl
  · extract_lets s1 r s2 rest src s3 s4 s5
    have h1 : served s1 = served s := evictPoisoned_served ..
    have h2 : served s2 = served s1 := served_foldl _ s1 fun _ _ => memTouch_served ..
    have h3 : served s3 = served s2 := rfl
    have h4 : served s4 = served s3 := regBump_served s3 _ (by decide)
    have h5 : served s5 = served s4 := regBump_served s4 _ (by decide)
    exact (setWork_served s5 i (by rfl)).trans (h5.trans (h4.trans (h3.trans (h2.trans h1))))

/-- What a request's entry, its work and the queues are once it stands QUEUED at the end of queue `q`. -/
structure Enqueued (s n : State) (t : LdId) (q : Fin 128) (tag : Nat) (toks : List Nat) (p : Params) (i image base : Nat) : Prop where
  others    : ∀ r, r ≠ q → que n r = que s r
  queue     : que n q = { que s q with waiting := (que s q).waiting ++ [i] }
  state     : (entryOf n i).state = .queued
  ld        : (entryOf n i).ld = t.val
  ofQueue   : (entryOf n i).queue = q.val
  tag       : (entryOf n i).tag = tag
  genLeft   : (entryOf n i).genLeft = p.maxNew
  image     : (entryOf n i).image = image
  committed : (entryOf n i).committed = base
  target    : (entryOf n i).targetLen = base + toks.length
  tokens    : (workOf n i).tokens = toks

/-- The length that a submission begins from: the entry's that it continues, or the slot's that it starts from. -/
def subBase (s : State) (b : List Byte) (cont : Option Nat) : Nat :=
  match cont with
  | some i => (entryOf s i).committed
  | none => if fld b 4 1 = 0xFF then 0 else (s.lps[Fin.ofNat 64 (fld b 4 1)]).len

theorem enqueue_spec (s : State) (t : LdId) (q : Fin 128) (b : List Byte) (tag rpb : Nat) (toks : List Nat) (p : Params)
    (cont : Option Nat) :
    ∃ base, (cont.isSome ∨ fld b 4 1 = 0xFF → base = subBase s b cont)
      ∧ Enqueued s (enqueue s t q b tag rpb toks p cont) t q tag toks p (cont.getD (freeIndex s))
          (if cont.isSome then (entryOf s (cont.getD (freeIndex s))).image else fld b 0 2) base := by
  unfold enqueue
  extract_lets fl i old s1 ow lp base e w s2 u s3 m s4
  have h1 : served s1 = served s := by
    unfold s1
    split
    · exact flushProgress_served ..
    · rfl
  have h4 : served s4 = served s3 := by
    unfold s4
    clear_value lp s3
    split
    · exact served_foldl _ s3 fun _ _ => putBlock_served ..
    · rfl
  have hn : served (if p.pxtLookup then runLookup s4 i cont.isSome else s4) = served s3 :=
    (served_ite (runLookup_served ..) rfl).trans h4
  generalize (if p.pxtLookup then runLookup s4 i cont.isSome else s4) = n at hn
  have h2 : served s2 = served (setWork (setEntry s1 i e) i w) := jrnlSubmit_served ..
  have hentry : entryOf n i = e := by
    have hst : e.state ≠ .free := by simp [e]
    have hset : entryOf (setWork (setEntry s1 i e) i w) i = e := entryOf_setEntry s1 i hst
    rw [entryOf_of_requests (requests_of_served hn), ← hset]
    exact entryOf_of_requests (requests_of_served h2) i
  have hwork : bookedWork (workOf n i) = bookedWork w := by
    rw [bookedWork_of_requests (requests_of_served hn)]
    refine (bookedWork_of_requests (requests_of_served h2) i).trans ?_
    rw [workOf_setWork_same]
  have hque : ∀ r, que s2 r = que s r := fun r => (que_of_served h2 r).trans (que_of_served h1 r)
  refine ⟨base, fun hb => ?_, ?_⟩
  · unfold base lp subBase
    cases cont with
    | some c => rfl
    | none =>
      have hlp : fld b 4 1 = 0xFF := by simpa using hb
      simp [hlp]
  · refine ⟨fun r hr => ?_, ?_, by rw [hentry], by rw [hentry], by rw [hentry], by rw [hentry], by rw [hentry], by rw [hentry],
      by rw [hentry], by rw [hentry], congrArg Prod.fst hwork⟩
    · rw [que_of_served hn, que_setQue_ne _ _ _ _ hr, hque]
    · rw [que_of_served hn, que_setQue]
      unfold u
      rw [hque]

/-! ### The end of a submission -/

/-- A submission that was read has entered the queue, or its completion record has been posted. -/
structure SubmissionEnds (s n : State) (t : LdId) (q : Fin 128) : Prop where
  head    : (que n q).sqHead = (que s q).sqHead
  others  : ∀ p, p ≠ q → que n p = que s p
  outcome : (∃ i, (que n q).waiting = (que s q).waiting ++ [i] ∧ (entryOf n i).state = .queued ∧ (entryOf n i).ld = t.val)
    ∨ ((que n q).waiting = (que s q).waiting ∧ n.rqt = s.rqt
        ∧ ((que n q).written = ((que s q).written + 1) % 2 ^ 32 ∨ (ten n t).overflow.length = (ten s t).overflow.length + 1))

theorem SubmissionEnds.of_served {s v n : State} {t : LdId} {q : Fin 128} (h : served v = served s)
    (k : SubmissionEnds v n t q) : SubmissionEnds s n t q := by
  obtain ⟨hhead, hothers, houtcome⟩ := k
  simp only [que_of_served h, rqt_of_requests (requests_of_served h), overflow_of_served h] at hhead hothers houtcome
  exact ⟨hhead, hothers, houtcome⟩

theorem answerSub_ends (s : State) (t : LdId) (q : Fin 128) (tag st : Nat) : SubmissionEnds s (answerSub s t q tag st) t q := by
  have h : RecordPosted s (answerSub s t q tag st) t q := postRecord_posted ..
  exact ⟨by rw [h.queue], h.others, .inr ⟨by rw [h.queue], rqt_of_requests h.requests, h.posted⟩⟩

theorem enqueue_ends (s : State) (t : LdId) (q : Fin 128) (b : List Byte) (tag rpb : Nat) (toks : List Nat) (p : Params)
    (cont : Option Nat) : SubmissionEnds s (enqueue s t q b tag rpb toks p cont) t q := by
  obtain ⟨base, -, h⟩ := enqueue_spec s t q b tag rpb toks p cont
  exact ⟨by rw [h.queue], h.others, .inl ⟨_, by rw [h.queue], h.state, h.ld⟩⟩

theorem submissionEnds_ite {c : Prop} [Decidable c] {s a b : State} {t : LdId} {q : Fin 128} (ha : SubmissionEnds s a t q)
    (hb : SubmissionEnds s b t q) : SubmissionEnds s (if c then a else b) t q := by
  split
  · exact ha
  · exact hb

theorem submit_ends (s : State) (t : LdId) (q : Fin 128) (tag rpb : Nat) (r : List Byte) (x : List Nat × List Nat × List Nat) :
    SubmissionEnds s (submit s t q tag rpb r x) t q :=
  submissionEnds_ite (answerSub_ends ..) (submissionEnds_ite (answerSub_ends ..)
    (submissionEnds_ite (answerSub_ends ..) (submissionEnds_ite (answerSub_ends ..) (enqueue_ends ..))))

/-! ### A submission entry that has been read (R230, R357) -/

/-- The head of a submission entry is one that R357 allows. -/
def SubHeadOk (b : List Byte) : Prop := fld b 0 1 = 1 ∧ zeroAt b 1 3 = true ∧ zeroAt b 16 112 = true ∧ fld b 4 4 < 2 ^ 31

theorem not_subHeadOk_iff (b : List Byte) :
    ¬ SubHeadOk b ↔ (fld b 0 1 ≠ 1 ∨ !zeroAt b 1 3 ∨ !zeroAt b 16 112 ∨ 2 ^ 31 ≤ fld b 4 4) := by
  simp only [SubHeadOk, not_and_or, Nat.not_lt, Bool.not_eq_true', Bool.not_eq_true, ne_eq]

section
variable {s : State} {t : LdId} {q : Fin 128} {b : List Byte}

theorem readSub_badHead (h : ¬ SubHeadOk b) : readSub s t q b = answerSub s t q (fld b 4 4) 7 :=
  if_pos ((not_subHeadOk_iff b).1 h)

variable (hhead : SubHeadOk b)
include hhead

theorem readSub_offBoundary (h : fld b 8 8 % 64 ≠ 0) :
    readSub s t q b = answerSub (windowMiss s t (fld b 8 8)) t q (fld b 4 4) 7 :=
  (if_neg (mt (not_subHeadOk_iff b).2 (not_not_intro hhead))).trans (if_pos h)

variable (hrpb : fld b 8 8 % 64 = 0)
include hrpb

theorem readSub_unread {v : State} (h : readRange s t (fld b 8 8) 2432 = (v, none)) :
    readSub s t q b = answerSub v t q (fld b 4 4) 7 := by
  unfold readSub
  rw [if_neg (mt (not_subHeadOk_iff b).2 (not_not_intro hhead)), if_neg (not_not_intro hrpb), h]

variable {v : State} {r : List Byte} (hread : readRange s t (fld b 8 8) 2432 = (v, some r))
include hread

theorem readSub_inputsUnread {m : State} (h : readInputs v t r = (m, none)) : readSub s t q b = answerSub m t q (fld b 4 4) 7 := by
  unfold readSub
  rw [if_neg (mt (not_subHeadOk_iff b).2 (not_not_intro hhead)), if_neg (not_not_intro hrpb), hread]
  dsimp only
  rw [h]

theorem readSub_read {m : State} {x : List Nat × List Nat × List Nat} (h : readInputs v t r = (m, some x)) :
    readSub s t q b = submit m t q (fld b 4 4) (fld b 8 8) r x := by
  unfold readSub
  rw [if_neg (mt (not_subHeadOk_iff b).2 (not_not_intro hhead)), if_neg (not_not_intro hrpb), hread]
  dsimp only
  rw [h]

end

theorem readSub_ends (s : State) (t : LdId) (q : Fin 128) (b : List Byte) : SubmissionEnds s (readSub s t q b) t q := by
  by_cases hhead : SubHeadOk b
  case neg => rw [readSub_badHead hhead]; exact answerSub_ends ..
  by_cases hrpb : fld b 8 8 % 64 = 0
  case neg => rw [readSub_offBoundary hhead hrpb]; exact .of_served (windowMiss_served ..) (answerSub_ends ..)
  have hserved := readRange_served s t (fld b 8 8) 2432
  rcases hread : readRange s t (fld b 8 8) 2432 with ⟨v, _ | r⟩ <;> rw [hread] at hserved
  · rw [readSub_unread hhead hrpb hread]
    exact .of_served hserved (answerSub_ends ..)
  · have hinputs := readInputs_served v t r
    rcases hin : readInputs v t r with ⟨m, _ | x⟩ <;> rw [hin] at hinputs
    · rw [readSub_inputsUnread hhead hrpb hread hin]
      exact .of_served (hinputs.trans hserved) (answerSub_ends ..)
    · rw [readSub_read hhead hrpb hread hin]
      exact .of_served (hinputs.trans hserved) (submit_ends ..)

/-! ### SUBMISSION_READ (R231, R359) -/

/-- The state in which the next entry of queue `q` is read: it counts as consumed, and holds a completion place. -/
def subTaken (s : State) (q : Fin 128) : State :=
  let u := que s q
  let t := ldId (queueLd s q.val)
  let s0 := setQue s q { u with sqHead := (u.sqHead + 1) % 2 ^ 32 }
  setTen s0 t { ten s0 t with places := (ten s0 t).places + 1 }

/-- That entry, and the state once it has been read. -/
def subRead (s : State) (q : Fin 128) : State × Option (List Byte) :=
  readRange (subTaken s q) (ldId (queueLd s q.val)) ((que s q).sqTva + (que s q).sqHead % 2 ^ (que s q).sqLog2 * 128) 128

theorem subTaken_served (s : State) (q : Fin 128) :
    served (subTaken s q) = served (setQue s q { que s q with sqHead := ((que s q).sqHead + 1) % 2 ^ 32 }) :=
  setTen_served _ _ rfl

theorem subRead_served (s : State) (q : Fin 128) : served (subRead s q).1 = served (subTaken s q) := readRange_served ..

section
variable {s : State} {q : Fin 128} (hmay : mayReadSq s q = true)
include hmay

theorem exec_submissionRead_unread (h : (subRead s q).2 = none) :
    exec (.submissionRead q) s = .next (answerSub (subRead s q).1 (ldId (queueLd s q.val)) q 0xFFFFFFFF 7) := by
  have hread : subRead s q = ((subRead s q).1, none) := Prod.ext rfl h
  change execSubmissionRead q s = _
  unfold execSubmissionRead
  rw [if_neg (by simp [hmay])]
  extract_lets u t at_ s0 s1
  change (match subRead s q with | (s, none) => _ | (s, some b) => _) = _
  rw [hread]

theorem exec_submissionRead_read {b : List Byte} (h : (subRead s q).2 = some b) :
    exec (.submissionRead q) s = .next (readSub (subRead s q).1 (ldId (queueLd s q.val)) q b) := by
  have hread : subRead s q = ((subRead s q).1, some b) := Prod.ext rfl h
  change execSubmissionRead q s = _
  unfold execSubmissionRead
  rw [if_neg (by simp [hmay])]
  extract_lets u t at_ s0 s1
  change (match subRead s q with | (s, none) => _ | (s, some b) => _) = _
  rw [hread]

/-- Whatever the entry holds, the submission is consumed, and enqueued or answered. -/
theorem exec_submissionRead_ends :
    ∃ n, exec (.submissionRead q) s = .next n ∧ SubmissionEnds (subTaken s q) n (ldId (queueLd s q.val)) q := by
  cases h : (subRead s q).2 with
  | none => exact ⟨_, exec_submissionRead_unread hmay h, .of_served (subRead_served s q) (answerSub_ends ..)⟩
  | some b => exact ⟨_, exec_submissionRead_read hmay h, .of_served (subRead_served s q) (readSub_ends ..)⟩

theorem exec_submissionRead_consumes :
    let u := que s q
    let t := ldId (queueLd s q.val)
    ∃ n, exec (.submissionRead q) s = .next n ∧ (que n q).sqHead = (u.sqHead + 1) % 2 ^ 32
      ∧ (∀ p, p ≠ q → que n p = que s p)
      ∧ ((∃ i, (que n q).waiting = u.waiting ++ [i] ∧ (entryOf n i).state = .queued ∧ (entryOf n i).ld = t.val)
        ∨ ((que n q).waiting = u.waiting ∧ n.rqt = s.rqt
            ∧ ((que n q).written = (u.written + 1) % 2 ^ 32 ∨ (ten n t).overflow.length = (ten s t).overflow.length + 1))) := by
  intro u t
  obtain ⟨n, hn, hends⟩ := exec_submissionRead_ends hmay
  obtain ⟨hhead, hothers, houtcome⟩ := SubmissionEnds.of_served (subTaken_served s q) hends
  rw [que_setQue] at hhead houtcome
  exact ⟨n, hn, hhead, fun p hp => (hothers p hp).trans (que_setQue_ne _ _ _ _ hp), houtcome⟩

end

/-! ### The status of a submission (R230, R231, R240) -/

section
variable {s : State} {t : LdId} {q : Fin 128} {tag rpb : Nat} {r : List Byte} {x : List Nat × List Nat × List Nat}

/-- A submission that names no request to continue. -/
theorem submit_new (h : bitAt (fld r 0x1C 4) 31 = false) :
    submit s t q tag rpb r x
      = if submitStatus s t r tag x.1 (rpbParams r x.2.1 x.2.2) none ≠ 0
        then answerSub s t q tag (submitStatus s t r tag x.1 (rpbParams r x.2.1 x.2.2) none)
        else if !entriesFree s t.val 1 then answerSub s t q tag 6
        else enqueue s t q r tag rpb x.1 (rpbParams r x.2.1 x.2.2) none := by
  unfold submit
  extract_lets p isCont found busy cont st
  have hcont : cont = none := by
    unfold cont
    clear_value found
    split
    · exact if_neg (by simp [isCont, h])
    · rfl
  have hnew : isCont = false := h
  simp only [st, p, hcont, hnew, Bool.false_and, Option.isNone_none, Bool.false_eq_true, false_and, true_and, if_false]

/-- A submission that continues the retained entry with its tag. -/
theorem submit_continues {i : Nat} {e : Entry} (h : bitAt (fld r 0x1C 4) 31 = true)
    (htag : byTag s t.val (fld r 0x1C 4 % 2 ^ 31) = some (i, e)) (hops : ∀ o ∈ s.ops, o.entry ≠ i) (hret : retained e = true)
    (hrel : (workOf s i).releaseReq = false) (hst : submitStatus s t r tag x.1 (rpbParams r x.2.1 x.2.2) (some i) = 0) :
    submit s t q tag rpb r x = enqueue s t q r tag rpb x.1 (rpbParams r x.2.1 x.2.2) (some i) := by
  unfold submit
  extract_lets p isCont found busy cont st
  have hcont : cont = some i := by
    unfold cont found
    rw [htag]
    exact if_pos (by simp [isCont, h, hret, hrel])
  have hbusy : busy = false := by
    unfold busy found
    rw [htag]
    simpa using hops
  simp [st, p, hcont, hbusy, hst]

end

end Sys2Proof.Machine
end

section
/-! # An admission pass, and O26

A pass is looked at where at most one queue has an eligible head: the other visits find nothing. -/

namespace Sys2Proof.Machine

/-! ### The plan, the chain and the tail of a request (R216, R263) -/

theorem poolEvict_served (fuel : Nat) (s : State) (t frames : Nat) : served (poolEvict fuel s t frames).1 = served s := by
  induction fuel generalizing s with
  | zero => rfl
  | succ fuel ih =>
    unfold poolEvict
    split
    · rfl
    · split
      · rfl
      · exact (ih _).trans (removeNode_served ..)

theorem admitPlans_served {f i : Nat} {e : Entry} {n idx : Nat} {s s1 : State} {best : Option Nat} {pool : Bool} {plan : Nat}
    {chunks : List Nat} {chain : List LaneFurrow} {q : Nat} (h : admitPlans f i e n idx s best pool = .fits s1 plan chunks chain q) :
    served s1 = served s := by
  induction n generalizing idx s best pool with
  | zero => cases h
  | succ n ih =>
    unfold admitPlans at h
    dsimp only at h
    split at h
    · exact ih h
    · split at h
      · exact ih h
      · have hevict := poolEvict_served (s.nodes.length + 1) s e.ld (poolNeed s i e)
        split at h
        · exact (ih h).trans hevict
        · split at h <;> split at h
          · cases h; exact hevict
          · exact (ih h).trans hevict
          · cases h; exact hevict
          · exact (ih h).trans hevict

/-- Seats booked: of the state at most the rounds differ. -/
def RoundsBooked (s n : State) : Prop := n = { s with rounds := n.rounds, roundNo := n.roundNo }

theorem RoundsBooked.trans {s t u : State} (a : RoundsBooked s t) (b : RoundsBooked t u) : RoundsBooked s u :=
  Eq.trans b (by rw [a])

theorem bookSeat_roundsBooked {s n : State} {i : Nat} {e : Entry} {m : ModelInfo} {p : Plan} {rp g : Nat}
    (h : bookSeat s i e m p rp g = some n) : RoundsBooked s n := by
  unfold bookSeat at h
  dsimp only at h
  split at h
  · split at h <;> cases h; rfl
  · split at h
    · cases h
    · split at h <;> cases h; rfl

theorem bookSeats_roundsBooked {s n : State} {i : Nat} {e : Entry} {m : ModelInfo} {p : Plan} {rp k g : Nat}
    (h : bookSeats i e m p rp k g s = some n) : RoundsBooked s n := by
  induction k generalizing s g with
  | zero => cases h; rfl
  | succ k ih =>
    rw [bookSeats] at h
    split at h
    · next hseat => exact (bookSeat_roundsBooked hseat).trans (ih h)
    · cases h

theorem tailSearch_roundsBooked {s : State} {i : Nat} {e : Entry} {m : ModelInfo} {p : Plan} {rp c need fuel start : Nat}
    {r : State × Nat} (h : tailSearch s i e m p rp c need fuel start = .ok r) : RoundsBooked s r.1 := by
  induction fuel generalizing start with
  | zero => cases h
  | succ fuel ih =>
    rw [tailSearch] at h
    split at h
    · cases h
    · split at h
      · next hseats => cases h; exact bookSeats_roundsBooked hseats
      · exact ih h

theorem bookTail_roundsBooked {s : State} {i : Nat} {e : Entry} {q c : Nat} {r : State × Nat} (h : bookTail s i e q c = .ok r) :
    RoundsBooked s r.1 := by
  unfold bookTail at h
  split at h
  · cases h; rfl
  · dsimp only at h
    split at h
    · cases h
    · exact tailSearch_roundsBooked h

/-! ### A request admitted (R235) -/

theorem shareHits_served (s : State) (i : Nat) : served (shareHits s i) = served s := by
  refine served_foldl _ s fun s k => ?_
  split
  · rfl
  · exact (putBlock_served ..).trans (pageRefs_served ..)

theorem jrnlAdmit_served (s : State) (i : Nat) : served (jrnlAdmit s i) = served s := jrnlPut_served ..

/-- A request that has been admitted, and the queues as they were. -/
structure Admitted (s n : State) (i plan : Nat) (chunks : List Nat) (chain : List LaneFurrow) (q tq : Nat) : Prop where
  queues    : n.queues = s.queues
  state     : (entryOf n i).state = .admitted
  plan      : (entryOf n i).plan = plan
  quote     : (entryOf n i).quote = q
  tailQuote : (entryOf n i).tailQuote = tq
  chain     : (workOf n i).chain = chain
  chunks    : (workOf n i).chunkLens = chunks
  counted   : rises (rqtReg 0x100018) 1 s n

theorem admitEntry_admitted (s : State) (i plan : Nat) (chunks : List Nat) (chain : List LaneFurrow) (q tq frames : Nat) :
    Admitted s (admitEntry s i plan chunks chain q tq frames) i plan chunks chain q tq := by
  unfold admitEntry
  extract_lets s1 e w hit s2 s3 s4
  have h1 : served s1 = served s := shareHits_served ..
  have h4 : served s4 = served s3 := regBump_served s3 _ (by decide)
  have hj := jrnlAdmit_served (regBump s4 (rqtReg 0x100018) 1) i
  have hcount : regGet (regBump s4 (rqtReg 0x100018) 1) (rqtReg 0x100018) = (regGet s4 (rqtReg 0x100018) + 1) % 2 ^ 64 := by
    rw [regGet_regBump, if_pos rfl]
  have hbump : requests (regBump s4 (rqtReg 0x100018) 1) = requests s4 := regBump_requests s4 1 (by decide)
  have hqueues : (regBump s4 (rqtReg 0x100018) 1).queues = s4.queues := regBump_queues ..
  generalize regBump s4 (rqtReg 0x100018) 1 = m at hj hcount hbump hqueues ⊢
  have hn : requests (jrnlAdmit m i) = requests s3 := (requests_of_served hj).trans (hbump.trans (requests_of_served h4))
  have hwork : bookedWork (workOf s3 i) = (w.tokens, chain, chunks) := by
    unfold s3
    rw [workOf_setWork_same]
    rfl
  rw [← bookedWork_of_requests hn] at hwork
  have hkept : s3.queues = s1.queues := (setWork_queues ..).trans (setEntry_queues ..)
  have hset (e' : Entry) (w' : Work) (h : e'.state ≠ .free) : entryOf (setWork (setEntry s1 i e') i w') i = e' :=
    entryOf_setEntry s1 i h
  have hentry : ∃ e', entryOf s3 i = e' ∧ e'.state = .admitted ∧ e'.plan = plan ∧ e'.quote = q ∧ e'.tailQuote = tq :=
    ⟨_, hset _ _ (by simp), rfl, rfl, rfl, rfl⟩
  obtain ⟨e', he', hstate, hplan, hquote, htail⟩ := hentry
  rw [← entryOf_of_requests hn] at he'
  subst he'
  refine ⟨?queues, hstate, hplan, hquote, htail, congrArg (·.2.1) hwork, congrArg (·.2.2) hwork, ?counted⟩
  case queues => exact (queues_of_served hj).trans (hqueues.trans ((queues_of_served h4).trans (hkept.trans (queues_of_served h1))))
  case counted =>
    have hbefore : regGet s4 (rqtReg 0x100018) = regGet s (rqtReg 0x100018) :=
      (regGet_of_served h4 (by decide)).trans (regGet_of_served h1 (by decide))
    rw [rises, ← hbefore]
    exact (regGet_of_served hj (by decide)).trans hcount

/-! ### Visits of a pass (R242) -/

/-- What is read of an image rests on the images, the slots and memory. -/
theorem imgRd_congr {s n : State} (himages : n.images = s.images) (hlps : n.lps = s.lps) (hadapters : n.adapters = s.adapters)
    (hmem : n.mem = s.mem) (h : Nat) : imgRd n h = imgRd s h := by
  have hdpa (off : Nat) : imageDpa n h off = imageDpa s h off := by
    simp only [imageDpa, imageOwn, imageOf, himages, hlps, hadapters]
  funext off k
  change imageReads n h off k = imageReads s h off k
  induction k generalizing off with
  | zero => rfl
  | succ k ih => simp only [imageReads, hdpa, hmem, ih]

theorem queueHead_of_empty {s : State} {q : Fin 128} (h : (que s q).waiting = []) : queueHead s q = none := by
  unfold queueHead
  rw [h]
  split <;> rfl

theorem nextQueue_none {s : State} (h : ∀ q, queueHead s q = none) (cls : Nat) : nextQueue s cls = none := by
  unfold nextQueue
  refine List.find?_eq_none.2 fun q _ => ?_
  simp [h]

/-- Queue `q` is the next of its class where no other queue has an eligible head. -/
theorem nextQueue_only {s : State} {q : Fin 128} (hothers : ∀ p, p ≠ q → queueHead s p = none) (hq : (queueHead s q).isSome = true)
    (cls : Nat) : nextQueue s cls = if regField s (qcfgOff q.val) 11 10 = cls then some q else none := by
  have honly : ∀ p, (regField s (qcfgOff p.val) 11 10 == cls && (queueHead s p).isSome) = true
      ↔ p = q ∧ regField s (qcfgOff q.val) 11 10 = cls := by
    intro p
    by_cases hp : p = q
    · subst hp; simp [hq]
    · simp [hothers p hp, hp]
  unfold nextQueue
  extract_lets last
  split
  · next hcls =>
    have hmem : q ∈ (List.range 128).map (fun k => queId (last + 1 + k)) := by
      refine List.mem_map.2 ⟨(q.val + 128 - (last + 1) % 128) % 128, List.mem_range.2 (Nat.mod_lt _ (by decide)), Fin.ext ?_⟩
      simp only [queId, Fin.val_ofNat]
      omega
    have hsome := (List.find?_isSome (p := fun p : Fin 128 => regField s (qcfgOff p.val) 11 10 == cls && (queueHead s p).isSome)).2
      ⟨q, hmem, (honly q).2 ⟨rfl, hcls⟩⟩
    obtain ⟨p, hp⟩ := Option.isSome_iff_exists.1 hsome
    have hfound := (honly p).1 (List.find?_some (p := fun p : Fin 128 => regField s (qcfgOff p.val) 11 10 == cls
      && (queueHead s p).isSome) hp)
    rw [hp, hfound.1]
  · next hcls => exact List.find?_eq_none.2 fun p _ hp => hcls ((honly p).1 hp).2

theorem visitClass_idle {s : State} {cls : Nat} (h : nextQueue s cls = none) (f amax fuel a : Nat) :
    visitClass f amax cls fuel a s = (s, a) := by
  cases fuel with
  | zero => rfl
  | succ fuel =>
    unfold visitClass
    rw [h]
    exact ite_self _

/-- The visits of some classes in turn. -/
def visitClasses (f amax fuel : Nat) (l : List Nat) (x : State × Nat) : State × Nat :=
  l.foldl (fun (x : State × Nat) cls => visitClass f amax cls fuel x.2 x.1) x

theorem visitClasses_idle {s : State} (l : List Nat) (h : ∀ cls ∈ l, nextQueue s cls = none) (f amax fuel a : Nat) :
    visitClasses f amax fuel l (s, a) = (s, a) := by
  induction l with
  | nil => rfl
  | cons cls l ih =>
    refine Eq.trans (b := visitClasses f amax fuel l (visitClass f amax cls fuel a s)) rfl ?_
    rw [visitClass_idle (h cls List.mem_cons_self)]
    exact ih fun c hc => h c (List.mem_cons_of_mem cls hc)

/-- The deficits of the queues without an eligible head are taken. -/
def clearDeficit (s : State) (q : Fin 128) : State :=
  if (queueHead s q).isNone ∧ (que s q).deficit ≠ 0 then setQue s q { que s q with deficit := 0 } else s

/-- A pass visits the four classes in turn, each with fuel to spare. -/
theorem exec_admissionPass {s : State} (h : admits s = true) :
    ∃ fuel, 0 < fuel ∧ exec .admissionPass s = .next ((List.finRange 128).foldl clearDeficit
      (visitClasses (curFurrow s) (Nat.max 1 (regField s (rqtReg 0x100000) 47 40)) fuel [0, 1, 2, 3] (s, 0)).1) := by
  refine ⟨2 ^ 41, by decide, ?_⟩
  change execAdmissionPass s = _
  unfold execAdmissionPass
  rw [if_neg (by simp [h])]
  extract_lets f amax fuel r
  change _ = Host.Outcome.next ((List.finRange 128).foldl clearDeficit (visitClasses f amax fuel [0, 1, 2, 3] (s, 0)).1)
  clear_value fuel
  rfl

/-! ### Deficits taken -/

theorem setQue_setQue (s : State) (q : Fin 128) (u u' : Queue) : setQue (setQue s q u) q u' = setQue s q u' := by
  unfold setQue
  simp

/-- Of the queues at most deficits differ. -/
structure DeficitsTaken (s n : State) : Prop where
  fields : n = { s with queues := n.queues }
  queues : ∀ q, que n q = { que s q with deficit := (que n q).deficit }

theorem DeficitsTaken.refl (s : State) : DeficitsTaken s s := ⟨rfl, fun _ => rfl⟩

theorem DeficitsTaken.trans {s t u : State} (a : DeficitsTaken s t) (b : DeficitsTaken t u) : DeficitsTaken s u :=
  ⟨Eq.trans b.fields (by rw [a.fields]), fun q => by rw [b.queues, a.queues]⟩

theorem setDeficit_taken (s : State) (q : Fin 128) (d : Nat) : DeficitsTaken s (setQue s q { que s q with deficit := d }) := by
  refine ⟨rfl, fun p => ?_⟩
  by_cases hp : p = q
  · subst hp; rw [que_setQue]
  · rw [que_setQue_ne _ _ _ _ hp]

theorem clearDeficit_taken (s : State) (q : Fin 128) : DeficitsTaken s (clearDeficit s q) := by
  unfold clearDeficit
  split
  · exact setDeficit_taken s q 0
  · exact .refl s

theorem clearDeficits_taken (l : List (Fin 128)) (s : State) : DeficitsTaken s (l.foldl clearDeficit s) :=
  foldl_rel .refl (fun _ _ _ => .trans) l s fun s q _ => clearDeficit_taken s q

theorem DeficitsTaken.requests {s n : State} (h : DeficitsTaken s n) : requests n = requests s := by rw [h.fields]; rfl

theorem DeficitsTaken.jobOf {s n : State} (h : DeficitsTaken s n) (i : Nat) : jobOf n i = jobOf s i := by
  obtain ⟨qs, rfl⟩ : ∃ qs, n = { s with queues := qs } := ⟨_, h.fields⟩
  have hshard : ownShard { s with queues := qs } = ownShard s := rfl
  have hread (image : Nat) : imgRd { s with queues := qs } image = imgRd s image :=
    imgRd_congr (by rfl) (by rfl) (by rfl) (by rfl) image
  unfold Machine.jobOf xdevImage
  rw [hshard, hread]
  rfl

theorem DeficitsTaken.queueHead {s n : State} (h : DeficitsTaken s n) (q : Fin 128) : queueHead n q = queueHead s q := by
  have hq : (que n q).waiting = (que s q).waiting := by rw [h.queues]
  have hld : queueLd n q.val = queueLd s q.val := by rw [h.fields]; rfl
  have hten : ten n (ldId (queueLd s q.val)) = ten s (ldId (queueLd s q.val)) := by rw [h.fields]; rfl
  have hentry := entryOf_of_requests h.requests
  unfold Machine.queueHead bookedElsewhere
  simp only [hq, hld, hten, hentry, h.jobOf]

/-- Once every queue has been passed, no queue without an eligible head keeps its deficit. -/
theorem clearDeficits_zero {s : State} (hnone : ∀ q, queueHead s q = none) (q : Fin 128) :
    (que ((List.finRange 128).foldl clearDeficit s) q).deficit = 0 := by
  have hclear : ∀ s : State, queueHead s q = none → (que (clearDeficit s q) q).deficit = 0 := by
    intro s hs
    unfold clearDeficit
    split
    · rw [que_setQue]
    · next h => simpa [hs] using h
  have hother : ∀ (s : State) (p : Fin 128), p ≠ q → que (clearDeficit s p) q = que s q := by
    intro s p hp
    unfold clearDeficit
    split
    · exact que_setQue_ne _ _ _ _ hp.symm
    · rfl
  obtain ⟨l, -, -, hl⟩ := foldl_reads_mem (g := fun s => que s q) (f := clearDeficit) (List.nodup_finRange 128)
    (List.mem_finRange q) (fun s p _ hp => hother s p hp) s
  rw [hl]
  exact hclear _ ((clearDeficits_taken l s).queueHead q ▸ hnone q)

theorem exec_admissionPass_noHead {s : State} (h : admits s = true) (hnone : ∀ q, queueHead s q = none) :
    ∃ n, exec .admissionPass s = .next n ∧ n = { s with queues := n.queues } ∧ ∀ q, que n q = { que s q with deficit := 0 } := by
  obtain ⟨fuel, -, hpass⟩ := exec_admissionPass h
  rw [visitClasses_idle [0, 1, 2, 3] fun cls _ => nextQueue_none hnone cls] at hpass
  have htaken := clearDeficits_taken (List.finRange 128) s
  refine ⟨_, hpass, htaken.fields, fun q => ?_⟩
  rw [htaken.queues, clearDeficits_zero hnone]

/-! ### A pass that finds one head -/

theorem tryAdmit_solo {v : State} {i f : Nat} (hgood : damagedFor v (entryOf v i) = false) (hforest : (entryOf v i).forest = false)
    (hjob : jobOf v i = none) : tryAdmit v i f = soloAdmit v i f := by
  unfold tryAdmit
  rw [if_neg (by simp [hgood]), if_neg (by simp [hforest]), hjob]

theorem soloAdmit_fits {v s1 s2 : State} {i f plan qt tq : Nat} {chunks : List Nat} {chain : List LaneFurrow}
    (hplan : admitPlans f i (entryOf v i) (secD (imgRd v (entryOf v i).image) 8).count 0 v none false = .fits s1 plan chunks chain qt)
    (htail : bookTail (setWork s1 i { workOf s1 i with chain := chain }) i (entryOf v i) qt qt = .ok (s2, tq)) :
    ∃ frames, soloAdmit v i f = (admitEntry s2 i plan chunks chain qt tq frames, true) := by
  unfold soloAdmit
  extract_lets e n
  rw [hplan]
  dsimp only
  rw [htail]
  exact ⟨_, rfl⟩

/-- The visit of a queue whose one request is admitted. -/
theorem visitQueue_admits {s m : State} {q : Fin 128} {i f amax d : Nat} (hwaiting : (que s q).waiting = [i])
    (hhead : queueHead s q = some i) (hmax : 0 < amax) (hcost : admitCost s i ≤ d)
    (htry : tryAdmit (setQue s q { que s q with deficit := d, waiting := [] }) i f = (m, true))
    (hqueues : ∀ p, que m p = que (setQue s q { que s q with deficit := d, waiting := [] }) p) :
    visitQueue f amax q 2 0 (setQue s q { que s q with deficit := d })
      = (setQue m q { que m q with deficit := (que m q).deficit - admitCost s i }, 1) := by
  have htaken : DeficitsTaken s (setQue s q { que s q with deficit := d }) := setDeficit_taken s q d
  have hagain : setQue (setQue s q { que s q with deficit := d }) q
      { que (setQue s q { que s q with deficit := d }) q with
          waiting := (que (setQue s q { que s q with deficit := d }) q).waiting.filter (· != i) }
      = setQue s q { que s q with deficit := d, waiting := [] } := by
    rw [que_setQue]
    simp only [hwaiting, setQue_setQue]
    simp
  have hsame : admitCost (setQue s q { que s q with deficit := d }) i = admitCost s i := rfl
  rw [visitQueue, htaken.queueHead, hhead]
  dsimp only
  rw [if_neg (by rw [hsame, que_setQue]; simp only; omega), hagain, htry, hsame, visitQueue, queueHead_of_empty]
  · rfl
  · simp only [if_true]
    rw [que_setQue, hqueues, que_setQue]

theorem visitClasses_only {s m : State} {c f amax fuel a : Nat} {l : List Nat} (hmem : c ∈ l)
    (hbefore : ∀ cls, cls ≠ c → nextQueue s cls = none) (hstep : visitClass f amax c fuel 0 s = (m, a))
    (hafter : ∀ cls, nextQueue m cls = none) : visitClasses f amax fuel l (s, 0) = (m, a) := by
  induction l with
  | nil => cases hmem
  | cons cls l ih =>
    refine Eq.trans (b := visitClasses f amax fuel l (visitClass f amax cls fuel 0 s)) rfl ?_
    by_cases h : cls = c
    · rw [h, hstep]
      exact visitClasses_idle l (fun cls _ => hafter cls) f amax fuel a
    · rw [visitClass_idle (hbefore cls h)]
      exact ih ((List.mem_cons.1 hmem).resolve_left (Ne.symm h))

theorem qcfgClass_lt (s : State) (q : Fin 128) : regField s (qcfgOff q.val) 11 10 < 4 := by
  unfold regField bits
  omega

/-- The deficit of a queue at the start of its visit (R242). -/
def raisedDeficit (s : State) (q : Fin 128) : Nat :=
  Nat.min (2 ^ 32 - 1) ((que s q).deficit + regField s (qcfgOff q.val) 7 0 * regField s (rqtReg 0x100000) 31 0)

/-- The visit of the class of the one queue that has a head. -/
theorem visitClass_admits {s m : State} {q : Fin 128} {i f amax cls k : Nat} (hmax : 0 < amax) (hnext : nextQueue s cls = some q)
    (hwaiting : (que s q).waiting = [i])
    (hvisit : visitQueue f amax q 2 0 (setQue s q { que s q with deficit := raisedDeficit s q }) = (m, 1))
    (hafter : nextQueue { m with lastServed := m.lastServed.set (Fin.ofNat 4 cls) q.val } cls = none) :
    visitClass f amax cls (k + 1) 0 s = ({ m with lastServed := m.lastServed.set (Fin.ofNat 4 cls) q.val }, 1) := by
  rw [visitClass, if_neg (by omega)]
  split
  · next hnone => cases hnext.symm.trans hnone
  next p hp =>
  obtain rfl : q = p := Option.some.inj (hnext.symm.trans hp)
  extract_lets +onlyGivenNames u add s1 r
  have hlen : (que s1 q).waiting.length + 1 = 2 := by
    unfold s1 u
    rw [que_setQue, hwaiting]
    rfl
  have hr : r = (m, 1) := by
    unfold r
    rw [hlen]
    exact hvisit
  rw [hr]
  exact visitClass_idle hafter ..

/-- A pass over the one head admits it: what follows finds no other, and takes deficits only. -/
theorem exec_admissionPass_only {s m : State} {q : Fin 128} {i d : Nat} (hadmits : admits s = true)
    (hwaiting : (que s q).waiting = [i]) (hhead : queueHead s q = some i) (hothers : ∀ p, p ≠ q → (que s p).waiting = [])
    (hd : d = raisedDeficit s q) (hcost : admitCost s i ≤ d)
    (htry : tryAdmit (setQue s q { que s q with deficit := d, waiting := [] }) i (curFurrow s) = (m, true))
    (hqueues : ∀ p, que m p = que (setQue s q { que s q with deficit := d, waiting := [] }) p) :
    ∃ n, exec .admissionPass s = .next n ∧ requests n = requests m ∧ (que n q).waiting = []
      ∧ regGet n (rqtReg 0x100018) = regGet m (rqtReg 0x100018) := by
  obtain ⟨fuel, hfuel, hpass⟩ := exec_admissionPass hadmits
  obtain ⟨k, rfl⟩ : ∃ k, fuel = k + 1 := ⟨fuel - 1, by omega⟩
  have hmax : 0 < Nat.max 1 (regField s (rqtReg 0x100000) 47 40) := Nat.lt_of_lt_of_le Nat.one_pos (Nat.le_max_left ..)
  generalize Nat.max 1 (regField s (rqtReg 0x100000) 47 40) = amax at hpass hmax
  have hnext := nextQueue_only (fun p hp => queueHead_of_empty (hothers p hp)) (by rw [hhead]; rfl)
  have hvisit := visitQueue_admits (f := curFurrow s) hwaiting hhead hmax hcost htry hqueues
  generalize hu : setQue m q { que m q with deficit := (que m q).deficit - admitCost s i } = u at hvisit
  generalize hcls : regField s (qcfgOff q.val) 11 10 = cls at hnext
  generalize hv : { u with lastServed := u.lastServed.set (Fin.ofNat 4 cls) q.val } = v
  have hempty : ∀ p, (que v p).waiting = [] := by
    intro p
    rw [← hv, ← hu]
    change (que (setQue m q _) p).waiting = []
    by_cases hp : p = q
    · rw [hp, que_setQue, hqueues, que_setQue]
    · rw [que_setQue_ne _ _ _ _ hp, hqueues, que_setQue_ne _ _ _ _ hp, hothers p hp]
  have hafter : ∀ c, nextQueue v c = none := nextQueue_none fun p => queueHead_of_empty (hempty p)
  have hstep : visitClass (curFurrow s) amax cls (k + 1) 0 s = (v, 1) := by
    rw [← hv]
    refine visitClass_admits hmax ((hnext cls).trans (if_pos rfl)) hwaiting (hd ▸ hvisit) ?_
    rw [hv]
    exact hafter cls
  rw [visitClasses_only (List.mem_range.2 (hcls ▸ qcfgClass_lt s q) : cls ∈ [0, 1, 2, 3])
    (fun c hc => (hnext c).trans (if_neg hc.symm)) hstep hafter] at hpass
  have htaken := clearDeficits_taken (List.finRange 128) v
  have hsame : requests v = requests m := by rw [← hv, ← hu]; rfl
  have hcount : regGet v (rqtReg 0x100018) = regGet m (rqtReg 0x100018) := by rw [← hv, ← hu]; rfl
  have hregs (n : State) (h : DeficitsTaken v n) : regGet n (rqtReg 0x100018) = regGet v (rqtReg 0x100018) := by
    rw [h.fields]
    rfl
  generalize List.foldl clearDeficit v (List.finRange 128) = n at hpass htaken
  refine ⟨n, hpass, htaken.requests.trans hsame, ?_, (hregs n htaken).trans hcount⟩
  rw [htaken.queues]
  exact hempty q

/-! ### O26 -/

theorem subBase_new {s : State} {b : List Byte} (h : fld b 4 1 = 0xFF) : subBase s b none = 0 := by
  unfold subBase
  rw [if_pos h]

theorem eq_mk_of_snd_eq {α β : Type} {p : α × β} {y : β} (h : p.2 = y) : p = (p.1, y) := h ▸ rfl

/-- Settles O26: a submission is followed through its reads, and a pass through its visits. -/
theorem submissionAndAdmission : Obligations.SubmissionAndAdmission := by
  refine ⟨fun q s hmay => ?reads, fun s => ⟨?admits, fun h => exec_admissionPass_noHead h, fun h => if_pos (by simp [h])⟩⟩
  case admits =>
    intro q i plan qt tq chunks chain s1 s2 hadmits hwaiting hhead hothers add d v e hcost hgood hforest hjob hplan htail
    obtain ⟨frames, hsolo⟩ := soloAdmit_fits (v := v) (f := curFurrow s) hplan htail
    have htry := (tryAdmit_solo (f := curFurrow s) hgood hforest hjob).trans hsolo
    have hdone := admitEntry_admitted s2 i plan chunks chain qt tq frames
    have hkept : s2.queues = v.queues := by
      have hbooked : s2.queues = s1.queues := by
        have hfields : s2 = _ := bookTail_roundsBooked htail
        rw [hfields]
        rfl
      refine hbooked.trans ?_
      exact queues_of_served (admitPlans_served hplan)
    obtain ⟨n, hn, hreq, hempty, hcount⟩ := exec_admissionPass_only hadmits hwaiting hhead hothers rfl hcost htry
      (que_congr (hdone.queues.trans hkept))
    have hentry := entryOf_of_requests hreq i
    have hwork := bookedWork_of_requests hreq i
    refine ⟨n, hn, by rw [hentry, hdone.state], by rw [hentry, hdone.plan], by rw [hentry, hdone.quote],
      by rw [hentry, hdone.tailQuote], ?_, ?_, hempty, hcount.trans hdone.counted⟩
    · exact (congrArg (·.2.1) hwork).trans hdone.chain
    · exact (congrArg (·.2.2) hwork).trans hdone.chunks
  case reads =>
    intro u t s0 s1 rd
    refine ⟨exec_submissionRead_consumes hmay, exec_submissionRead_unread hmay, fun b hb => ?_⟩
    have hexec : exec (.submissionRead q) s = .next (readSub rd.1 t q b) := exec_submissionRead_read hmay hb
    intro tag headOk rr
    rw [hexec]
    refine ⟨fun h => ?_, fun h hoff => ?_, fun h hat hr => ?_, fun r h hat hr => ?_⟩
    · rw [readSub_badHead h]
    · rw [readSub_offBoundary h hoff]
    · have hrr : rr = (rr.1, none) := eq_mk_of_snd_eq hr
      rw [readSub_unread h hat hrr]
    intro ri v
    have hrr : rr = (rr.1, some r) := eq_mk_of_snd_eq hr
    constructor
    · intro hin
      have hri : ri = (v, none) := eq_mk_of_snd_eq hin
      rw [readSub_inputsUnread h hat hrr hri]
    intro x hx p isCont queued
    have hri : ri = (v, some x) := eq_mk_of_snd_eq hx
    rw [readSub_read h hat hrr hri]
    have hserved : served v = served (setQue s q { u with sqHead := (u.sqHead + 1) % 2 ^ 32 }) :=
      (readInputs_served ..).trans ((readRange_served ..).trans ((subRead_served s q).trans (subTaken_served s q)))
    have hwaiting : (que v q).waiting = u.waiting := by rw [que_of_served hserved, que_setQue]
    have hqueued : ∀ {n i image base}, Enqueued v n t q tag x.1 p i image base → queued n i := fun k =>
      ⟨by rw [k.queue, ← hwaiting], k.state, k.tag, k.ld, k.ofQueue, k.genLeft, k.tokens⟩
    constructor
    · intro hnew
      rw [submit_new hnew]
      refine ⟨fun hst => by rw [if_pos hst], fun hst hfree => ?_, fun hst hfree hlp => ?_⟩
      · rw [if_neg (not_not_intro hst), if_pos (by simp [hfree])]
      · obtain ⟨base, hbase, hq⟩ := enqueue_spec v t q r tag (fld b 8 8) x.1 p none
        obtain rfl : base = 0 := (hbase (.inr hlp)).trans (subBase_new hlp)
        rw [Option.getD_none] at hq
        rw [if_neg (not_not_intro hst), if_neg (by simp [hfree])]
        exact ⟨_, rfl, hqueued hq, hq.image, hq.committed, hq.target.trans (Nat.zero_add _)⟩
    · intro i e hcont htag hops hret hrel hst
      obtain ⟨base, hbase, hq⟩ := enqueue_spec v t q r tag (fld b 8 8) x.1 p (some i)
      obtain rfl : base = (entryOf v i).committed := hbase (.inl rfl)
      rw [submit_continues hcont htag hops hret hrel hst]
      exact ⟨_, rfl, hqueued hq, hq.image, hq.committed, hq.target⟩

end Sys2Proof.Machine
end

section
/-! # Tokens streamed (R259, R268)

What streaming a seat's tokens makes of its request: it goes on generating, or a stop has completed it. -/

namespace Sys2Proof.Machine

section
variable {e e' : Entry} (h : TimesOnly e e')
include h

theorem TimesOnly.state : e'.state = e.state := by rw [h]
theorem TimesOnly.committed : e'.committed = e.committed := by rw [h]
theorem TimesOnly.genLeft : e'.genLeft = e.genLeft := by rw [h]
theorem TimesOnly.draftsAccepted : e'.draftsAccepted = e.draftsAccepted := by rw [h]

end

/-- The chain and the chunks of a request. -/
def bookings (w : Work) : List LaneFurrow × List Nat := (w.chain, w.chunkLens)

theorem bookings_of_bookedWork {w w' : Work} (h : bookedWork w' = bookedWork w) : bookings w' = bookings w :=
  congrArg Prod.snd h

/-- A request that streams: it generates, or has completed and holds no bookings. -/
structure Streamed (i : Nat) (s n : State) (committed genLeft : Nat) : Prop where
  step      : RequestStep i s n
  committed : (entryOf n i).committed = committed
  genLeft   : (entryOf n i).genLeft = genLeft
  drafts    : (entryOf n i).draftsAccepted = (entryOf s i).draftsAccepted
  state     : (entryOf n i).state = .generating ∨ (entryOf n i).state = .complete
  work      : bookings (workOf n i) = bookings (workOf s i) ∨ bookings (workOf n i) = ([], [])

section
variable {i : Nat} {s t n : State} {c g : Nat}

theorem Streamed.start (h : (entryOf s i).state = .generating) : Streamed i s s (entryOf s i).committed (entryOf s i).genLeft :=
  ⟨.refl i s, rfl, rfl, rfl, .inl h, .inl rfl⟩

theorem Streamed.not_free (h : Streamed i s t c g) : (entryOf t i).state ≠ .free := by
  rcases h.state with hst | hst <;> simp [hst]

theorem Streamed.times (h : Streamed i s t c g) (k : TimesStep i t n) : Streamed i s n c g := by
  refine ⟨h.step.trans k.step, k.entry.committed.trans h.committed, k.entry.genLeft.trans h.genLeft,
    k.entry.draftsAccepted.trans h.drafts, ?_, ?_⟩
  · rw [k.entry.state]; exact h.state
  · rw [bookings_of_bookedWork k.work]; exact h.work

theorem Streamed.of_requests (h : Streamed i s t c g) (k : requests n = requests t) : Streamed i s n c g := h.times (.of_requests k)

/-- The stop met, if any, completes the request. -/
theorem Streamed.ended (h : Streamed i s t c g) (stop : Nat) :
    Streamed i s (if stop = 0 then t else endRequest (setEntry t i { entryOf t i with stop := stop }) i .complete 0) c g := by
  split
  · exact h
  have hentry : entryOf (setEntry t i { entryOf t i with stop := stop }) i = { entryOf t i with stop := stop } :=
    entryOf_setEntry t i h.not_free
  have hstep := (setEntry_requestStep t i { entryOf t i with stop := stop }).trans (endRequest_requestStep _ i .complete 0)
  have hend := entryOf_endRequest (setEntry t i { entryOf t i with stop := stop }) i .complete 0 (by simp)
  rw [hentry] at hend
  refine ⟨h.step.trans hstep, ?_, ?_, ?_, .inr ?_, .inr (congrArg Prod.snd (bookedWork_endRequest ..))⟩
  · rw [hend]; exact h.committed
  · rw [hend]; exact h.genLeft
  · rw [hend]; exact h.drafts
  · rw [hend]; rfl

end

/-- Tokens are taken up to the first stop; of a first token there is always one. -/
theorem untilStop_length (m : ModelInfo) (p : Params) (tail : List Nat) (pos : Nat) (toks acc : List Nat) :
    ∃ j, j ≤ toks.length ∧ (toks ≠ [] → 1 ≤ j) ∧ (untilStop m p tail pos toks acc).1.length = acc.length + j := by
  induction toks generalizing tail pos acc with
  | nil => exact ⟨0, Nat.le_refl _, fun h => absurd rfl h, rfl⟩
  | cons t ts ih =>
    unfold untilStop
    extract_lets tail' st
    split
    · exact ⟨1, by simp, fun _ => Nat.le_refl _, List.length_append⟩
    · obtain ⟨j, hj, -, hlen⟩ := ih tail' (pos + 1) (acc ++ [t])
      refine ⟨j + 1, Nat.succ_le_succ hj, fun _ => Nat.le_add_left .., hlen.trans ?_⟩
      rw [List.length_append, List.length_singleton]
      omega

theorem streamTokens_streamed (s : State) (i pos : Nat) (fedTok : Option Nat) (toks : List Nat) (noCand : Bool)
    (h : (entryOf s i).state = .generating) :
    ∃ j, j ≤ toks.length ∧ (toks ≠ [] → 1 ≤ j)
      ∧ Streamed i s (streamTokens s i pos fedTok toks noCand) (if j = 0 then (entryOf s i).committed else pos + j - 1)
          ((entryOf s i).genLeft - j) := by
  have hne : (entryOf s i).state ≠ .free := by simp [h]
  unfold streamTokens
  extract_lets e w m r out stop s0 src s1 s2 w2 hist s3 src' s4 s5 s6
  obtain ⟨j, hj, hpos, hlen⟩ := untilStop_length m e.seedRng w.tail pos toks []
  change out.length = [].length + j at hlen
  rw [List.length_nil, Nat.zero_add] at hlen
  refine ⟨j, hj, hpos, ?_⟩
  clear_value out stop hist
  split
  case isTrue hempty =>
    have hzero : j = 0 := by rw [← hlen, List.isEmpty_iff.1 hempty]; rfl
    rw [if_pos hzero, hzero, Nat.sub_zero]
    have h0 : Streamed i s s0 (entryOf s i).committed (entryOf s i).genLeft := by
      unfold s0
      split
      · exact (Streamed.start h).times (stampCommit_timesStep s i hne true)
      · exact .start h
    exact h0.ended stop
  case isFalse hnonempty =>
    have hsome : j ≠ 0 := fun hzero => hnonempty (List.isEmpty_iff.2 (List.length_eq_zero_iff.1 (hlen.trans hzero)))
    rw [if_neg hsome]
    have h2 : requests s2 = requests s := (bumpSeq_requests ..).trans (postRecord_requests ..)
    have h3 : requests s3 = requests s := (requests_of_served (countTokens_served ..)).trans ((setWork_requests s2 i (by rfl)).trans h2)
    have hentry : entryOf s3 i = entryOf s i := entryOf_of_requests h3 i
    have hset := entryOf_setEntry (e := { entryOf s3 i with committed := pos + out.length - 1, pendingTok := out.getLast?
                                                            genLeft := e.genLeft - out.length }) s3 i (by simpa [hentry] using hne)
    have h4 : Streamed i s s4 (pos + j - 1) ((entryOf s i).genLeft - j) := by
      refine ⟨(RequestStep.of_requests h3).trans (setEntry_requestStep s3 i _), ?_, ?_, ?_, .inl ?_, .inl ?_⟩
      · unfold s4; rw [hset, hlen]
      · unfold s4; rw [hset, hlen]
      · unfold s4; rw [hset, hentry]
      · unfold s4; rw [hset, hentry]; exact h
      · exact bookings_of_bookedWork (bookedWork_of_requests h3 i)
    have h6 : Streamed i s s6 (pos + j - 1) ((entryOf s i).genLeft - j) :=
      (h4.times (stampCommit_timesStep s4 i h4.not_free _)).of_requests
        (requests_of_served ((hashBlocks_served ..).trans (setValid_served ..)))
    exact h6.ended stop

/-- The token of a request's last chunk: nothing more is committed with it. -/
theorem firstToken_streamed (s : State) (i : Nat) :
    (entryOf (firstToken s i) i).committed = (entryOf s i).committed
      ∧ ((entryOf (firstToken s i) i).state = .generating ∨ (entryOf (firstToken s i) i).state = .complete)
      ∧ (bookings (workOf (firstToken s i) i) = bookings (workOf s i) ∨ bookings (workOf (firstToken s i) i) = ([], [])) := by
  unfold firstToken
  extract_lets e w zs s1 tok s2 s3
  have h1 : requests s1 = requests s := regBump_requests s _ (by decide)
  clear_value s1 tok
  have hset : entryOf s3 i = { e with state := .generating } :=
    entryOf_setEntry (e := { e with state := .generating }) s1 i (by simp)
  have hbook : bookings (workOf s3 i) = bookings (workOf s i) := by
    unfold s3
    rw [workOf_setWork_same]
    rfl
  have hgen : (entryOf s3 i).state = .generating := by rw [hset]
  have hcom : (entryOf s3 i).committed = e.committed := by rw [hset]
  have hdone (toks : List Nat) (noCand : Bool) (hone : toks.length ≤ 1) :
      (entryOf (streamTokens s3 i e.committed none toks noCand) i).committed = e.committed
        ∧ ((entryOf (streamTokens s3 i e.committed none toks noCand) i).state = .generating
          ∨ (entryOf (streamTokens s3 i e.committed none toks noCand) i).state = .complete)
        ∧ (bookings (workOf (streamTokens s3 i e.committed none toks noCand) i) = bookings (workOf s i)
          ∨ bookings (workOf (streamTokens s3 i e.committed none toks noCand) i) = ([], [])) := by
    obtain ⟨j, hj, -, hn⟩ := streamTokens_streamed s3 i e.committed none toks noCand hgen
    refine ⟨hn.committed.trans ?_, hn.state, hbook ▸ hn.work⟩
    split
    · exact hcom
    · omega
  split
  · exact hdone [_] false (Nat.le_refl 1)
  · exact hdone [] true (Nat.zero_le 1)

end Sys2Proof.Machine
end

section
/-! # Chunks, forests and re-sown runs (R255, R256, R262, R374) -/

namespace Sys2Proof.Machine

/-! ### Which entry a new request takes -/

theorem freeIndex_ne {s : State} {i : Nat} (hi : i < 4096) (h : lookupN i s.rqt ≠ none) : i ≠ freeIndex s := by
  unfold freeIndex
  cases hfind : (List.range 4096).find? fun i => (lookupN i s.rqt).isNone with
  | none => exact Nat.ne_of_lt hi
  | some k =>
    have hk := List.find?_some hfind
    rintro rfl
    exact h (Option.isNone_iff_eq_none.1 hk)

theorem lookupN_freeIndex {s : State} (h : ∃ k, k < 4096 ∧ lookupN k s.rqt = none) : lookupN (freeIndex s) s.rqt = none := by
  obtain ⟨k, hk, hfree⟩ := h
  unfold freeIndex
  cases hfind : (List.range 4096).find? fun i => (lookupN i s.rqt).isNone with
  | none =>
    have hused := List.find?_eq_none.1 hfind k (List.mem_range.2 hk)
    simp [hfree] at hused
  | some k =>
    have hk := List.find?_some hfind
    exact Option.isNone_iff_eq_none.1 hk

theorem lookupN_ne_none {s : State} {i : Nat} (h : (entryOf s i).state ≠ .free) : lookupN i s.rqt ≠ none := by
  intro hnone
  unfold entryOf at h
  rw [hnone] at h
  exact h rfl

theorem entryOf_congr {s n : State} {i : Nat} (h : lookupN i n.rqt = lookupN i s.rqt) : entryOf n i = entryOf s i := by
  rw [entryOf, h, entryOf]

/-! ### Branches of a forest (R256) -/

/-- The entry of branch `k` of a forest. -/
def branchEntry (e : Entry) (i k : Nat) : Entry :=
  let u := nthD 0 e.seedRng.branches k
  let len := e.committed + (pathTo e.seedRng.parents u u []).length
  { e with state := .complete, retain := true, forest := false, status := 0x000A, parent := some i, committed := len
           targetLen := len, booked := 0, tag := (e.tag + k + 1) % 2 ^ 31, prefixHit := 0, cancelPending := false }

/-- A branch takes the lowest free entry. -/
theorem makeBranch_spec (s : State) (i : Nat) (toks : List Nat) (k : Nat) :
    RequestStep (freeIndex s) s (makeBranch s i toks k)
      ∧ entryOf (makeBranch s i toks k) (freeIndex s) = branchEntry (entryOf s i) i k := by
  unfold makeBranch
  extract_lets e w m u path len c t full pathToks child cw s1 s2 s3 s4 s5 s6 s7 s8 s9
  have hchild : child = branchEntry (entryOf s i) i k := rfl
  have hst : child.state ≠ .free := by simp [child]
  have h1 : RequestStep c s s1 := (setEntry_requestStep s c child).trans (setWork_requestStep _ c cw)
  have hentry : entryOf s1 c = child := entryOf_setEntry s c hst
  have h3 : served s3 = served s1 := (served_ite (countTokens_served ..) rfl).trans (piecesWrote_served ..)
  have h4 : served s4 = served s3 := by
    refine served_foldl _ s3 fun s b => (putBlock_served ..).trans ?_
    have hrefs (blk : Block) : served (if blk.lp then s else blk.pages.foldl (fun s a => pageRef s e.ld a) s) = served s :=
      served_ite rfl (pageRefs_served ..)
    split
    · exact hrefs _
    · exact hrefs _
  have h6 : served s6 = served s4 := (served_foldl _ _ fun _ _ => copyPos_served ..).trans (ensureBlocks_served ..)
  have h8 : served s8 = served s6 :=
    (hashBlocks_served ..).trans ((setValid_served ..).trans (served_foldl _ _ fun _ _ => putBlock_served ..))
  have h9 : served s9 = served s8 := served_ite (insertBlocks_served ..) rfl
  have hrest : requests (postCompl s9 c) = requests s1 :=
    (postCompl_requests ..).trans (requests_of_served (h9.trans (h8.trans (h6.trans (h4.trans h3)))))
  exact ⟨h1.trans (.of_requests hrest), (entryOf_of_requests hrest c).trans hentry⟩

theorem makeBranches_lookupN {s : State} {i : Nat} (hi : i < 4096) (h : lookupN i s.rqt ≠ none) (toks : List Nat) (l : List Nat) :
    lookupN i (l.foldl (fun s k => makeBranch s i toks k) s).rqt = lookupN i s.rqt := by
  induction l generalizing s with
  | nil => rfl
  | cons k l ih =>
    have hk : lookupN i (makeBranch s i toks k).rqt = lookupN i s.rqt :=
      (makeBranch_spec s i toks k).1.entry i (freeIndex_ne hi h)
    exact (ih (by rwa [hk])).trans hk

/-! ### A chunk that commits, waits or meets poison -/

theorem poisoned0203_failRequest (s : State) (i code : Nat) : poisoned0203 (failRequest s i 0x0203 code) i := by
  unfold poisoned0203
  rw [entryOf_failRequest]
  exact ⟨failedAs_cases _, rfl⟩

theorem chunkReady_running {s : State} {i : Nat} (h : chunkReady s i = true) : (entryOf s i).state = .running := by
  simp only [chunkReady, Bool.and_eq_true] at h
  obtain ⟨⟨⟨hst, -⟩, -⟩, -⟩ := h
  exact eq_of_beq hst

/-- What follows a last chunk without a forest: the request completes, or draws its first token. -/
def lastChunk (s : State) (i maxNew : Nat) : State :=
  let s := setWork s i { workOf s i with chain := [] }
  let s := lateCheck s i
  if maxNew = 0 then endRequest (stampCommit s i true) i .complete 0 else firstToken s i

/-- The entry once a chunk of `x` positions has committed. -/
def chunkEntry (e : Entry) (x : Nat) : Entry := { e with committed := e.committed + x, booked := e.targetLen - (e.committed + x) }

section
variable {s : State} {i x : Nat} {r : List Nat} (hchunks : (workOf s i).chunkLens = x :: r)
  (hcancel : (entryOf s i).cancelPending = false)
include hchunks hcancel

theorem commitChunk_noRoom (hr : r = []) (hgen : 0 < (entryOf s i).seedRng.maxNew)
    (hroom : tokenRoom s (ldId (entryOf s i).ld) (queId (entryOf s i).queue) = false) : commitChunk s i = makeLate s i 8 := by
  unfold commitChunk
  extract_lets e w last
  rw [if_neg (by simp [e, hcancel]), if_pos (by simp [last, w, e, hchunks, hr, hgen, hroom])]

theorem commitChunk_poisonedLogits (hforest : (entryOf s i).forest = false) (hr : r = [])
    (hgen : 0 < (entryOf s i).seedRng.maxNew) (hroom : tokenRoom s (ldId (entryOf s i).ld) (queId (entryOf s i).queue) = true)
    (hbad : logitPoison (touchLogits s i 1) i 1 ≠ 0) :
    commitChunk s i = failRequest (poisonFall (dropDone (touchLogits s i 1) i) i) i 0x0203 0x0004 := by
  unfold commitChunk
  extract_lets e w last v
  have hlast : last = true := by simp [last, w, hchunks, hr]
  have hv : v = touchLogits s i 1 := by simp [v, e, hforest, hlast, hgen]
  rw [if_neg (by simp [e, hcancel]), if_neg (by simp [e, hroom]), hv,
    if_pos (by simp [e, hforest, hlast, hbad, Nat.pos_iff_ne_zero.1 hgen])]

theorem commitChunk_plain (hst : (entryOf s i).state ≠ .free) (hforest : (entryOf s i).forest = false)
    (hroom : r = [] → 0 < (entryOf s i).seedRng.maxNew → tokenRoom s (ldId (entryOf s i).ld) (queId (entryOf s i).queue) = true
      ∧ logitPoison (touchLogits s i 1) i 1 = 0) :
    ∃ m, entryOf m i = chunkEntry (entryOf s i) x ∧ bookings (workOf m i) = ((workOf s i).chain, r)
      ∧ commitChunk s i = if r = [] then lastChunk m i (entryOf s i).seedRng.maxNew else m := by
  unfold commitChunk
  extract_lets e w last v f1 f2 f3 f4 len first new s1 s2 s3 s4 s5 s6 src s7 s8
  have hlast : last = true ↔ r = [] := by simp [last, w, hchunks]
  have hlen : len = x := by simp [len, w, hchunks, nthD]
  have hread : served v = served s := by
    unfold v
    rw [if_neg (by simp [e, hforest])]
    exact served_ite (touchLogits_served ..) rfl
  have hgood : ¬ (e.forest && anyPoisoned v (ldId e.ld) (splitReads v i)
      || (!e.forest && last && e.seedRng.maxNew != 0 && logitPoison v i 1 != 0)) = true := by
    simp only [e, hforest, Bool.false_and, Bool.false_or, Bool.not_false, Bool.true_and, Bool.and_eq_true, bne_iff_ne, not_and,
      not_not]
    rintro ⟨hl, hgen⟩
    have hv : v = touchLogits s i 1 := by simp [v, e, hforest, hl, Nat.pos_iff_ne_zero.2 hgen]
    rw [hv]
    exact (hroom (hlast.1 hl) (Nat.pos_iff_ne_zero.2 hgen)).2
  have hwait : ¬ (last = true ∧ 0 < e.seedRng.maxNew ∧ (!tokenRoom s (ldId e.ld) (queId e.queue)) = true) := by
    rintro ⟨hl, hgen, hnone⟩
    simp [e, (hroom (hlast.1 hl) hgen).1] at hnone
  rw [if_neg (by simp [e, hcancel]), if_neg hwait, if_neg hgood, if_neg (by simp [e, hforest])]
  have hentry4 : entryOf s4 i = chunkEntry e x := by
    rw [← hlen]
    exact entryOf_setEntry s3 i hst
  have h3 : requests s3 = requests s1 := requests_of_served (served_ite (countTokens_served ..) rfl)
  have hwork4 : bookings (workOf s4 i) = (w.chain, r) := by
    refine (bookings_of_bookedWork (bookedWork_of_requests h3 i)).trans ?_
    unfold s1
    rw [workOf_setWork_same]
    simp [bookings, w, hchunks]
  have h6 : requests s6 = requests s4 := requests_of_served ((served_ite (insertBlocks_served ..) rfl).trans
    ((hashBlocks_served ..).trans ((setValid_served ..).trans (ensureBlocks_served ..))))
  refine ⟨s6, (entryOf_of_requests h6 i).trans hentry4, (bookings_of_bookedWork (bookedWork_of_requests h6 i)).trans hwork4, ?_⟩
  by_cases hr : r = []
  · rw [if_pos hr, if_neg (by simp [hlast.2 hr])]
    rfl
  · rw [if_neg hr, if_pos (by simp [mt hlast.1 hr])]

end

section
variable {s : State} {i : Nat} (hcancel : (entryOf s i).cancelPending = false)
include hcancel

theorem commitChunk_poisonedSplit (hforest : (entryOf s i).forest = true) (hgen : (entryOf s i).seedRng.maxNew = 0)
    (hsplit : anyPoisoned (touchAll s (ldId (entryOf s i).ld) (splitReads s i)) (ldId (entryOf s i).ld)
      (splitReads (touchAll s (ldId (entryOf s i).ld) (splitReads s i)) i) = true) :
    commitChunk s i
      = failRequest (poisonFall (dropDone (touchAll s (ldId (entryOf s i).ld) (splitReads s i)) i) i) i 0x0203 0x0004 := by
  unfold commitChunk
  extract_lets e w last v
  have hv : v = touchAll s (ldId e.ld) (splitReads s i) := if_pos hforest
  rw [if_neg (by simp [e, hcancel]), if_neg (by simp [e, hgen]), hv, if_pos (by simp [e, hforest, hsplit])]

/-- A forest splits into its branches, and its request completes. -/
theorem commitChunk_forest (hforest : (entryOf s i).forest = true) (hgen : (entryOf s i).seedRng.maxNew = 0)
    (hsplit : anyPoisoned (touchAll s (ldId (entryOf s i).ld) (splitReads s i)) (ldId (entryOf s i).ld)
      (splitReads (touchAll s (ldId (entryOf s i).ld) (splitReads s i)) i) = false) :
    ∃ v t, v.rqt = s.rqt
      ∧ served t = served ((List.range (entryOf s i).seedRng.branches.length).foldl
          (fun u k => makeBranch u i (workOf s i).tokens k) v)
      ∧ commitChunk s i = endRequest (lateCheck (stampCommit t i true) i) i .complete 0 := by
  unfold commitChunk
  extract_lets e w last v f1 f2 f3 f4
  have hv : v = touchAll s (ldId e.ld) (splitReads s i) := if_pos hforest
  have hgood : ¬ (e.forest && anyPoisoned v (ldId e.ld) (splitReads v i)
      || (!e.forest && last && e.seedRng.maxNew != 0 && logitPoison v i 1 != 0)) = true := by
    rw [hv, hsplit]
    simp [e, hforest]
  rw [if_neg (by simp [e, hcancel]), if_neg (by simp [e, hgen]), if_neg hgood, if_pos hforest]
  have hrqt : v.rqt = s.rqt := hv ▸ rqt_of_requests (requests_of_served (touchAll_served ..))
  have hdrop : served (dropBlocks f3 i (cdiv e.committed 64)) = served f2 :=
    (dropBlocks_served ..).trans (served_ite (countTokens_served ..) rfl)
  exact ⟨f1, dropBlocks f3 i (cdiv e.committed 64), hrqt, hdrop, rfl⟩

end

/-- What a request's last chunk leaves of its entry. -/
theorem lastChunk_spec (s : State) (i maxNew : Nat) (hst : (entryOf s i).state ≠ .free) (hchunks : (workOf s i).chunkLens = []) :
    (entryOf (lastChunk s i maxNew) i).committed = (entryOf s i).committed
      ∧ bookings (workOf (lastChunk s i maxNew) i) = ([], [])
      ∧ (maxNew = 0 → (entryOf (lastChunk s i maxNew) i).state = .complete ∧ (entryOf (lastChunk s i maxNew) i).status = 0)
      ∧ (0 < maxNew → (entryOf (lastChunk s i maxNew) i).state = .generating ∨ (entryOf (lastChunk s i maxNew) i).state = .complete)
      := by
  unfold lastChunk
  extract_lets src s1 s2
  have hentry1 : entryOf s1 i = entryOf s i := rfl
  have hwork1 : bookings (workOf s1 i) = ([], []) := by
    unfold s1
    rw [workOf_setWork_same]
    exact congrArg (Prod.mk []) hchunks
  have h2 : TimesStep i s1 s2 := lateCheck_timesStep s1 i (by rwa [hentry1])
  have hwork2 : bookings (workOf s2 i) = ([], []) := (bookings_of_bookedWork h2.work).trans hwork1
  have hcom2 : (entryOf s2 i).committed = (entryOf s i).committed := by rw [h2.entry.committed, hentry1]
  split
  · next hzero =>
    have h3 : TimesStep i s2 (stampCommit s2 i true) := stampCommit_timesStep s2 i (by rwa [h2.entry.state, hentry1]) true
    have hend := entryOf_endRequest (stampCommit s2 i true) i .complete 0 (by simp)
    refine ⟨?_, congrArg Prod.snd (bookedWork_endRequest ..), fun _ => ?_, fun hpos => by omega⟩
    · rw [hend]
      exact h3.entry.committed.trans hcom2
    · rw [hend]
      exact ⟨rfl, rfl⟩
  · next hpos =>
    obtain ⟨hcom, hstate, hwork⟩ := firstToken_streamed s2 i
    refine ⟨hcom.trans hcom2, ?_, fun hzero => absurd hzero hpos, fun _ => hstate⟩
    exact hwork.elim (fun h => h.trans hwork2) id

/-! ### Forests, and re-sown runs -/

/-- What a forest leaves of its request, and of its one branch. -/
theorem forestEnd_spec {s v t : State} {i : Nat} (hi : i < 4096) (hst : (entryOf s i).state ≠ .free) (hv : v.rqt = s.rqt)
    (toks : List Nat) (k : Nat)
    (ht : served t = served ((List.range k).foldl (fun s k => makeBranch s i toks k) v)) :
    let n := endRequest (lateCheck (stampCommit t i true) i) i .complete 0
    (entryOf n i).state = .complete ∧ (entryOf n i).committed = (entryOf s i).committed
      ∧ (k = 1 → (∃ j, j < 4096 ∧ lookupN j s.rqt = none) → entryOf n (freeIndex s) = branchEntry (entryOf s i) i 0) := by
  intro n
  have hpresent : lookupN i v.rqt ≠ none := by rw [hv]; exact lookupN_ne_none hst
  have hrqt := rqt_of_requests (requests_of_served ht)
  have hlookup : lookupN i t.rqt = lookupN i s.rqt := by rw [hrqt, makeBranches_lookupN hi hpresent, hv]
  have hentry : entryOf t i = entryOf s i := entryOf_congr hlookup
  have h1 : TimesStep i t (stampCommit t i true) := stampCommit_timesStep t i (by rwa [hentry]) true
  have h2 : TimesStep i t (lateCheck (stampCommit t i true) i) :=
    h1.trans (lateCheck_timesStep _ i (by rw [h1.entry.state, hentry]; exact hst))
  have hend := entryOf_endRequest (lateCheck (stampCommit t i true) i) i .complete 0 (by simp)
  refine ⟨by rw [hend]; rfl, ?_, fun hone hfree => ?_⟩
  · rw [hend]
    exact h2.entry.committed.trans (congrArg Entry.committed hentry)
  · have hindex : freeIndex v = freeIndex s := by rw [freeIndex, hv, freeIndex]
    have hother : freeIndex s ≠ i := fun h => lookupN_ne_none hst (h ▸ lookupN_freeIndex hfree)
    have hstep : RequestStep i t n := h2.step.trans (endRequest_requestStep ..)
    have hbranch : entryOf t (freeIndex s) = entryOf (makeBranch v i toks 0) (freeIndex s) := by
      rw [entryOf_of_requests (requests_of_served ht), hone]
      rfl
    rw [hstep.entryOf_ne hother, hbranch, ← hindex, (makeBranch_spec v i toks 0).2, entryOf_congr (congrArg (lookupN i) hv)]

/-- A re-sown run with others to follow leaves its list. -/
theorem commitResow_more {s : State} {i : Nat} {x y : Nat × Nat} {xs : List (Nat × Nat)} (hst : (entryOf s i).state = .lifting)
    (h : (workOf s i).resow = x :: y :: xs) :
    (workOf (commitResow s i) i).resow = y :: xs ∧ (workOf (commitResow s i) i).stepNo = 0
      ∧ entryOf (commitResow s i) i
          = { entryOf s i with booked := (entryOf s i).booked - nthD 0 (workOf s i).chunkLens 0 }
      ∧ (commitResow s i).mem = s.mem := by
  unfold commitResow
  extract_lets e w s1 s2 s3
  rw [if_pos (by simp [w, h])]
  have hwork : workOf s3 i = _ := workOf_setWork_same s1 i _
  have hentry : entryOf s3 i = { e with booked := e.booked - nthD 0 w.chunkLens 0 } :=
    entryOf_setEntry s2 i (by simp [e, hst])
  rw [hwork]
  exact ⟨by simp [w, h], rfl, hentry, rfl⟩

section
variable {s : State} {i x : Nat} {r : List Nat} (hchunks : (workOf s i).chunkLens = x :: r)
  (hcancel : (entryOf s i).cancelPending = false) (hst : (entryOf s i).state ≠ .free) (hforest : (entryOf s i).forest = false)
include hchunks hcancel hst hforest

/-- A last chunk commits, and what the request is to do next begins. -/
theorem commitChunk_last (hr : r = [])
    (hroom : 0 < (entryOf s i).seedRng.maxNew → tokenRoom s (ldId (entryOf s i).ld) (queId (entryOf s i).queue) = true
      ∧ logitPoison (touchLogits s i 1) i 1 = 0) :
    (entryOf (commitChunk s i) i).committed = (entryOf s i).committed + x
      ∧ bookings (workOf (commitChunk s i) i) = ([], [])
      ∧ ((entryOf s i).seedRng.maxNew = 0
          → (entryOf (commitChunk s i) i).state = .complete ∧ (entryOf (commitChunk s i) i).status = 0)
      ∧ (0 < (entryOf s i).seedRng.maxNew
          → (entryOf (commitChunk s i) i).state = .generating ∨ (entryOf (commitChunk s i) i).state = .complete) := by
  obtain ⟨m, hentry, hbook, hm⟩ := commitChunk_plain hchunks hcancel hst hforest fun _ => hroom
  obtain ⟨hcom, hwork, hdone, hstate⟩ := lastChunk_spec m i (entryOf s i).seedRng.maxNew (by rw [hentry]; exact hst)
    ((congrArg Prod.snd hbook).trans hr)
  rw [hm, if_pos hr]
  exact ⟨hcom.trans (by rw [hentry]; rfl), hwork, hdone, hstate⟩

end

theorem exec_chunkCommit_ready {s : State} {i : Fin 4096} (h : chunkReady s i.val = true) :
    exec (.chunkCommit i) s = .next (commitChunk s i.val) := if_pos h

theorem exec_chunkCommit_resow {s : State} {i : Fin 4096} (h : chunkReady s i.val = false) (hr : resowReady s i.val = true) :
    exec (.chunkCommit i) s = .next (commitResow s i.val) := (if_neg (by simp [h])).trans (if_pos hr)

theorem resowReady_lifting {s : State} {i : Nat} (h : resowReady s i = true) : (entryOf s i).state = .lifting := by
  simp only [resowReady, Bool.and_eq_true] at h
  obtain ⟨⟨⟨⟨hst, -⟩, -⟩, -⟩, -⟩ := h
  exact eq_of_beq hst

end Sys2Proof.Machine
end

section
/-! # Rounds, and the stall limit (R262, R265, R268, R379, R380) -/

namespace Sys2Proof.Machine

/-! ### Logits read -/

theorem touchAll_linesTouched (s : State) (t : LdId) (rs : List (Nat × Nat)) : LinesTouched s (touchAll s t rs) :=
  foldl_rel .refl (fun _ _ _ => .trans) rs s fun s _ _ =>
    foldl_rel .refl (fun _ _ _ => .trans) _ s fun s _ _ => workRead_linesTouched 2 s _

theorem memTouch_linesTouched (s : State) (a n : Nat) : LinesTouched s (memTouch s a n) :=
  foldl_rel .refl (fun _ _ _ => .trans) _ s fun s x _ => workRead_linesTouched 2 s x.1

theorem touchLogits_linesTouched (s : State) (i n : Nat) : LinesTouched s (touchLogits s i n) := by
  unfold touchLogits
  exact (memTouch_linesTouched ..).trans (touchAll_linesTouched ..)

/-- What a round feeds of a seat: its position and its drafts. -/
def seatFed (s : State) (i : Nat) : Nat := 1 + seatHeads (modelOf s (entryOf s i)) (entryOf s i)

theorem seatFed_congr {s n : State} (h : LinesTouched s n) (hserved : served n = served s) (i : Nat) : seatFed n i = seatFed s i := by
  have hread (image : Nat) : imgRd n image = imgRd s image :=
    imgRd_congr (by rw [h.fields]) (by rw [h.fields]) (by rw [h.fields]) (by rw [h.fields]) image
  unfold seatFed modelOf
  rw [entryOf_of_requests (requests_of_served hserved), hread]

/-- The lines of the logits of some seats. -/
def touchSeats (s : State) (l : List Nat) : State := l.foldl (fun s i => touchLogits s i (seatFed s i)) s

theorem touchSeats_served (s : State) (l : List Nat) : served (touchSeats s l) = served s :=
  served_foldl l s fun s i => touchLogits_served s i (seatFed s i)

theorem touchSeats_linesTouched (s : State) (l : List Nat) : LinesTouched s (touchSeats s l) :=
  foldl_rel .refl (fun _ _ _ => .trans) l s fun s i _ => touchLogits_linesTouched s i (seatFed s i)

theorem touchSeats_cons (s : State) (i : Nat) (l : List Nat) :
    touchSeats s (i :: l) = touchSeats (touchLogits s i (seatFed s i)) l := List.foldl_cons ..

/-- What is read of one seat does not depend on the seats read before. -/
theorem touchSeats_eq {s u : State} (h : LinesTouched s u) (hserved : served u = served s) (l : List Nat) :
    touchSeats u l = l.foldl (fun u i => touchLogits u i (seatFed s i)) u := by
  induction l generalizing u with
  | nil => rw [touchSeats, List.foldl_nil, List.foldl_nil]
  | cons i l ih =>
    have hlines : LinesTouched s (touchLogits u i (seatFed s i)) := h.trans (touchLogits_linesTouched u i (seatFed s i))
    have hsame : served (touchLogits u i (seatFed s i)) = served s := (touchLogits_served u i (seatFed s i)).trans hserved
    rw [List.foldl_cons, ← ih hlines hsame, touchSeats_cons, seatFed_congr h hserved]

/-! ### A round sampled -/

theorem id_of_roundOf {s : State} {k : Nat} {r : Round} (h : roundOf s k = some r) : r.id = k := by
  have hk := List.find?_some h
  exact eq_of_beq hk

theorem roundOf_setRound {s : State} {k : Nat} {r r' : Round} (h : roundOf s k = some r) (hid : r'.id = r.id) :
    roundOf (setRound s r') k = some r' := by
  have hkeep : ((fun x : Round => x.id == k) ∘ fun x => if x.id = r'.id then r' else x) = fun x => x.id == k := by
    funext x
    by_cases hx : x.id = r'.id <;> simp [hx]
  unfold roundOf setRound
  rw [List.find?_map, hkeep]
  refine (congrArg _ h).trans ?_
  simp [hid]

theorem exec_roundSample {s : State} {k : Nat} {r : Round} (hround : roundOf s k = some r) (hready : roundReady s r = true) :
    exec (.roundSample k) s = .next (sampleRound s r) := by
  change execRoundSample k s = _
  unfold execRoundSample
  rw [hround]
  exact if_neg (by simp [hready])

/-- The seats of a round that generate. -/
def seatsGenerating (s : State) (r : Round) : List Nat := r.seats.filter fun i => (entryOf s i).state == .generating

/-- The outcomes of some seats, beside what the samplers chose for each. -/
theorem seatOuts_eq (v : State) (fed : Nat → Nat) (l : List Nat) :
    (l.map fun i => ({ (sampleSeat v i).1 with bad := logitPoison v i (fed i) }, (sampleSeat v i).2)).map Prod.fst
      = (l.zip (l.map (sampleSeat v))).map fun x => { x.2.1 with bad := logitPoison v x.1 (fed x.1) } := by
  rw [← List.map_prod_left_eq_zip]
  simp only [List.map_map, Function.comp_def]

theorem seatNans_eq (v : State) (fed : Nat → Nat) (l : List Nat) :
    (l.map fun i => ({ (sampleSeat v i).1 with bad := logitPoison v i (fed i) }, (sampleSeat v i).2)).map Prod.snd
      = (l.map (sampleSeat v)).map Prod.snd := by
  simp only [List.map_map, Function.comp_def]

theorem sampleRound_eq {s v : State} {r : Round} {mine : List Nat} (hmine : seatsGenerating s r = mine) (hv : touchSeats s mine = v) :
    sampleRound s r = setRound (regBump v (rqtReg 0x100080) (sumN ((mine.map (sampleSeat v)).map (·.2))))
      { r with
          sampled := true
          outcome := (mine.zip (mine.map (sampleSeat v))).map fun x =>
            { x.2.1 with bad := logitPoison v x.1 (seatFed v x.1) } } := by
  have hfed : seatFed v = seatFed s := by
    rw [← hv]
    exact funext (seatFed_congr (touchSeats_linesTouched s mine) (touchSeats_served s mine))
  have hread : mine.foldl (fun u i => touchLogits u i (seatFed s i)) s = v := (touchSeats_eq (.refl s) rfl mine).symm.trans hv
  unfold sampleRound
  extract_lets mine' fed v' outs
  have hmine' : mine' = mine := hmine
  have hv' : v' = v := by
    rw [← hread, ← hmine']
    rfl
  have houts : outs = mine.map fun i => ({ (sampleSeat v i).1 with bad := logitPoison v i (seatFed s i) }, (sampleSeat v i).2) := by
    rw [← hmine', ← hv']
    rfl
  rw [hv', houts, seatOuts_eq, seatNans_eq, hfed]

/-- A sampled round keeps the requests, the memory and the work items. -/
theorem sampleRound_spec {s : State} {k : Nat} {r : Round} (hround : roundOf s k = some r) :
    let mine := seatsGenerating s r
    let v := touchSeats s mine
    let outs := mine.map (sampleSeat v)
    let n := sampleRound s r
    roundOf n k = some { r with
        sampled := true, outcome := (mine.zip outs).map fun x => { x.2.1 with bad := logitPoison v x.1 (seatFed v x.1) } }
      ∧ n.rqt = s.rqt ∧ n.mem = s.mem ∧ n.items = s.items ∧ rises (rqtReg 0x100080) (sumN (outs.map (·.2))) s n := by
  intro mine v outs n
  have hserved : served v = served s := touchSeats_served ..
  have hmem : v.mem = s.mem := (touchSeats_linesTouched s mine).mem
  have hn : n = _ := sampleRound_eq (r := r) (mine := mine) (v := v) rfl rfl
  have hround' : roundOf (regBump v (rqtReg 0x100080) (sumN (outs.map (·.2)))) k = some r := by
    unfold roundOf
    rw [regBump_rounds, rounds_of_requests (requests_of_served hserved)]
    exact hround
  have hitems : v.items = s.items := items_of_requests (requests_of_served hserved)
  have hrqt : v.rqt = s.rqt := rqt_of_requests (requests_of_served hserved)
  have hcount : regGet v (rqtReg 0x100080) = regGet s (rqtReg 0x100080) := regGet_of_served hserved (by decide)
  clear_value v
  rw [hn]
  refine ⟨roundOf_setRound hround' rfl, (regBump_rqt ..).trans hrqt, (regBump_mem ..).trans hmem, (regBump_items ..).trans hitems, ?_⟩
  have hrise := regGet_regBump v (rqtReg 0x100080) (sumN (outs.map (·.2))) (rqtReg 0x100080)
  rw [if_pos rfl, hcount] at hrise
  exact hrise

/-! ### A round commits -/

/-- Of the calendar at most seats and work items differ. -/
structure CalendarKept (s n : State) : Prop where
  rounds  : ∀ x ∈ n.rounds, ∃ y ∈ s.rounds, y.id = x.id
  items   : ∀ w ∈ n.items, w ∈ s.items
  counted : regGet n (rqtReg 0x100068) = regGet s (rqtReg 0x100068)

theorem RequestStep.calendar {i : Nat} {s n : State} (h : RequestStep i s n) : CalendarKept s n := ⟨h.rounds, h.items, h.counted⟩

theorem CalendarKept.refl (s : State) : CalendarKept s s := (RequestStep.refl 0 s).calendar

theorem CalendarKept.trans {s t u : State} (a : CalendarKept s t) (b : CalendarKept t u) : CalendarKept s u := by
  refine ⟨fun x hx => ?_, fun w hw => a.items w (b.items w hw), b.counted.trans a.counted⟩
  obtain ⟨y, hy, hyx⟩ := b.rounds x hx
  obtain ⟨z, hz, hzy⟩ := a.rounds y hy
  exact ⟨z, hz, hzy.trans hyx⟩

theorem calendarKept_foldl {α : Type} {f : State → α → State} (l : List α) (s : State) (h : ∀ s x, CalendarKept s (f s x)) :
    CalendarKept s (l.foldl f s) := foldl_rel .refl (fun _ _ _ => .trans) l s fun s x _ => h s x

/-- What decides whether a token record has room. -/
theorem tokenRoom_congr {s n : State} (hqueues : n.queues = s.queues) (hlds : n.lds = s.lds) (hrqt : n.rqt = s.rqt)
    (hwork : n.work = s.work) (t : LdId) (q : Fin 128) : tokenRoom n t q = tokenRoom s t q := by
  simp only [tokenRoom, que, ten, placeless, ldEntries, workOf, hqueues, hlds, hrqt, hwork]
  rfl

section
variable {s : State} {o : SeatOut} (hgen : (entryOf s o.entry).state = .generating)
include hgen

theorem commitSeat_cancelled (hcancel : (entryOf s o.entry).cancelPending = true) :
    commitSeat s o = regBump s (rqtReg 0x100070) o.fed := by
  unfold commitSeat
  extract_lets e s1
  rw [if_neg (not_not_intro hgen), if_pos hcancel]

variable (hcancel : (entryOf s o.entry).cancelPending = false)
include hcancel

theorem commitSeat_poisoned (hbad : o.bad = 1) :
    commitSeat s o = failRequest (regBump s (rqtReg 0x100070) o.fed) o.entry 0x0203 0x0004 := by
  unfold commitSeat
  extract_lets e s1
  rw [if_neg (not_not_intro hgen), if_neg (by simp [e, hcancel]), if_pos hbad]

variable (hbad : o.bad ≠ 1)
include hbad

theorem commitSeat_noRoom (htoks : o.toks ≠ [])
    (hroom : tokenRoom s (ldId (entryOf s o.entry).ld) (queId (entryOf s o.entry).queue) = false) :
    commitSeat s o = makeLate (regBump s (rqtReg 0x100070) o.fed) o.entry 8 := by
  unfold commitSeat
  extract_lets e s1
  have hroom1 : tokenRoom s1 (ldId e.ld) (queId e.queue) = false :=
    (tokenRoom_congr (regBump_queues ..) (regBump_lds ..) (regBump_rqt ..) (regBump_work ..) _ _).trans hroom
  rw [if_neg (not_not_intro hgen), if_neg (by simp [e, hcancel]), if_neg hbad, if_pos (by simp [htoks, hroom1])]

theorem commitSeat_streams
    (hroom : o.toks = [] ∨ tokenRoom s (ldId (entryOf s o.entry).ld) (queId (entryOf s o.entry).queue) = true) :
    ∃ m, RequestStep o.entry s m
      ∧ entryOf m o.entry
          = { entryOf s o.entry with draftsAccepted := (entryOf s o.entry).draftsAccepted + o.accepted }
      ∧ commitSeat s o = streamTokens m o.entry ((entryOf s o.entry).committed + 1) (entryOf s o.entry).pendingTok o.toks o.noCand
      := by
  unfold commitSeat
  extract_lets e s1 s2 s3 src s4 s5
  have hroom1 : tokenRoom s1 (ldId e.ld) (queId e.queue) = tokenRoom s (ldId e.ld) (queId e.queue) :=
    tokenRoom_congr (regBump_queues ..) (regBump_lds ..) (regBump_rqt ..) (regBump_work ..) _ _
  have hpass : ¬ ((!o.toks.isEmpty) = true ∧ (!tokenRoom s1 (ldId e.ld) (queId e.queue)) = true) := by
    rintro ⟨hsome, hnone⟩
    rw [hroom1] at hnone
    rcases hroom with htoks | hroom
    · simp [htoks] at hsome
    · simp [e, hroom] at hnone
  rw [if_neg (not_not_intro hgen), if_neg (by simp [e, hcancel]), if_neg hbad, if_neg hpass]
  have h2 : requests s2 = requests s := (regBump_requests s1 _ (by decide)).trans (regBump_requests s _ (by decide))
  clear_value s2
  have h5 : requests s5 = requests s3 := (requests_of_served (ensureBlocks_served ..)).trans (setWork_requests s3 _ (by rfl))
  have hentry : entryOf s3 o.entry = { e with draftsAccepted := e.draftsAccepted + o.accepted } :=
    entryOf_setEntry (e := { e with draftsAccepted := e.draftsAccepted + o.accepted }) s2 o.entry (by simp [e, hgen])
  exact ⟨s5, ((RequestStep.of_requests h2).trans (setEntry_requestStep s2 o.entry _)).trans (.of_requests h5),
    (entryOf_of_requests h5 o.entry).trans hentry, rfl⟩

end

/-- A seat's commit is a step on its request. -/
theorem commitSeat_requestStep (s : State) (o : SeatOut) : RequestStep o.entry s (commitSeat s o) := by
  by_cases hgen : (entryOf s o.entry).state = .generating
  case neg =>
    unfold commitSeat
    rw [if_pos hgen]
    exact .refl ..
  have hfed : requests (regBump s (rqtReg 0x100070) o.fed) = requests s := regBump_requests s _ (by decide)
  by_cases hcancel : (entryOf s o.entry).cancelPending = true
  case pos => exact commitSeat_cancelled hgen hcancel ▸ .of_requests hfed
  have hcancel : (entryOf s o.entry).cancelPending = false := by simpa using hcancel
  by_cases hbad : o.bad = 1
  case pos =>
    rw [commitSeat_poisoned hgen hcancel hbad]
    exact (RequestStep.of_requests hfed).trans (failRequest_requestStep ..)
  by_cases hroom : o.toks = [] ∨ tokenRoom s (ldId (entryOf s o.entry).ld) (queId (entryOf s o.entry).queue) = true
  case pos =>
    obtain ⟨m, hm, hentry, hn⟩ := commitSeat_streams hgen hcancel hbad hroom
    obtain ⟨j, -, -, hstreamed⟩ := streamTokens_streamed m o.entry ((entryOf s o.entry).committed + 1)
      (entryOf s o.entry).pendingTok o.toks o.noCand (by rw [hentry]; exact hgen)
    rw [hn]
    exact hm.trans hstreamed.step
  case neg =>
    obtain ⟨htoks, hnone⟩ := not_or.1 hroom
    rw [commitSeat_noRoom hgen hcancel hbad htoks (by simpa using hnone)]
    refine (RequestStep.of_requests hfed).trans (makeLate_timesStep _ _ ?_ 8).step
    rw [entryOf_of_requests hfed, hgen]
    decide

/-- The calendar without a round, its work items, and the mask generators of its seats. -/
def roundTaken (s : State) (r : Round) : State :=
  r.seats.foldl freeMgen { s with rounds := s.rounds.filter (fun x => x.id != r.id)
                                  items := s.items.filter (fun x => x.round != some r.id) }

theorem roundTaken_served (s : State) (r : Round) :
    served (roundTaken s r) = served { s with rounds := s.rounds.filter (fun x => x.id != r.id)
                                              items := s.items.filter (fun x => x.round != some r.id) } :=
  served_foldl _ _ fun _ _ => rfl

theorem tokenRoom_roundTaken (s : State) (r : Round) (t : LdId) (q : Fin 128) : tokenRoom (roundTaken s r) t q = tokenRoom s t q := by
  refine tokenRoom_congr ?_ ?_ ?_ ?_ t q
  · exact foldl_reads (g := State.queues) r.seats _ fun _ _ _ => rfl
  · exact foldl_reads (g := State.lds) r.seats _ fun _ _ _ => rfl
  · exact foldl_reads (g := State.rqt) r.seats _ fun _ _ _ => rfl
  · exact foldl_reads (g := State.work) r.seats _ fun _ _ _ => rfl

/-- The entries of a poisoned round fail, the first with a fault record (R380). -/
def failSeat (s : State) (x : SeatOut × Nat) : State :=
  if x.2 = 0 then failRequest s x.1.entry 0x0203 0x0004 else failQuiet s x.1.entry 0x0203

theorem failSeat_requestStep (s : State) (x : SeatOut × Nat) : RequestStep x.1.entry s (failSeat s x) :=
  requestStep_ite (failRequest_requestStep ..) (failQuiet_requestStep ..)

theorem exec_roundCommit {s : State} {k : Nat} {r : Round} (hround : roundOf s k = some r) (hsampled : r.sampled = true) :
    exec (.roundCommit k) s = .next (commitRound s r) := by
  change execRoundCommit k s = _
  unfold execRoundCommit
  rw [hround]
  exact if_pos hsampled

/-- A round whose logits were poisoned does not count. -/
theorem commitRound_poisoned {s : State} {r : Round} (h : ∃ o ∈ r.outcome, o.bad = 2) :
    ∃ v, requests v = requests (roundTaken s r)
      ∧ commitRound s r
        = (r.outcome.filter fun o => (entryOf (roundTaken s r) o.entry).state == .generating).zipIdx.foldl failSeat v := by
  refine ⟨_, regBump_requests (roundTaken s r) _ (by decide), if_pos ?_⟩
  simpa using h

theorem commitRound_seats {s : State} {r : Round} (h : ∀ o ∈ r.outcome, o.bad ≠ 2) :
    commitRound s r = r.outcome.foldl commitSeat (regBump (roundTaken s r) (rqtReg 0x100068) 1) := by
  refine if_neg ?_
  simpa using h

/-- The round that commits leaves the calendar with its work items. -/
theorem roundGone {s u v : State} {r : Round} (hrounds : v.rounds = (roundTaken s r).rounds)
    (hitems : v.items = (roundTaken s r).items) (h : CalendarKept v u) :
    roundOf u r.id = none ∧ ∀ w ∈ u.items, w.round ≠ some r.id := by
  have hreq := requests_of_served (roundTaken_served s r)
  refine ⟨List.find?_eq_none.2 fun x hx => ?_, fun w hw => ?_⟩
  · obtain ⟨y, hy, hyx⟩ := h.rounds x hx
    rw [hrounds, rounds_of_requests hreq] at hy
    have hne := (List.mem_filter.1 hy).2
    rw [← hyx]
    simpa using hne
  · have hkept := h.items w hw
    rw [hitems, items_of_requests hreq] at hkept
    simpa using (List.mem_filter.1 hkept).2

theorem commitRound_gone (s : State) (r : Round) :
    roundOf (commitRound s r) r.id = none ∧ ∀ w ∈ (commitRound s r).items, w.round ≠ some r.id := by
  by_cases h : ∃ o ∈ r.outcome, o.bad = 2
  · obtain ⟨v, hv, hn⟩ := commitRound_poisoned (s := s) h
    rw [hn]
    exact roundGone (rounds_of_requests hv) (items_of_requests hv)
      (calendarKept_foldl _ v fun u x => (failSeat_requestStep u x).calendar)
  · rw [commitRound_seats fun o ho hbad => h ⟨o, ho, hbad⟩]
    exact roundGone (regBump_rounds ..) (regBump_items ..) (calendarKept_foldl _ _ fun u o => (commitSeat_requestStep u o).calendar)

theorem commitRound_counts {s : State} {r : Round} (h : ∀ o ∈ r.outcome, o.bad ≠ 2) :
    rises (rqtReg 0x100068) 1 s (commitRound s r) := by
  have hkept : regGet (roundTaken s r) (rqtReg 0x100068) = regGet s (rqtReg 0x100068) :=
    regGet_of_served (roundTaken_served s r) (by decide)
  have hrise := regGet_regBump (roundTaken s r) (rqtReg 0x100068) 1 (rqtReg 0x100068)
  rw [if_pos rfl, hkept] at hrise
  rw [commitRound_seats h]
  exact (calendarKept_foldl _ _ fun u o => (commitSeat_requestStep u o).calendar).counted.trans hrise

/-- The state in which the seats of a round that counts commit. -/
def roundCounted (s : State) (r : Round) : State := regBump (roundTaken s r) (rqtReg 0x100068) 1

theorem rqt_roundTaken (s : State) (r : Round) : (roundTaken s r).rqt = s.rqt :=
  (rqt_of_requests (requests_of_served (roundTaken_served s r))).trans rfl

theorem entryOf_roundTaken (s : State) (r : Round) (i : Nat) : entryOf (roundTaken s r) i = entryOf s i :=
  entryOf_congr (congrArg (lookupN i) (rqt_roundTaken s r))

theorem entryOf_roundCounted (s : State) (r : Round) (i : Nat) : entryOf (roundCounted s r) i = entryOf s i :=
  entryOf_congr (congrArg (lookupN i) ((regBump_rqt ..).trans (rqt_roundTaken s r)))

theorem tokenRoom_roundCounted (s : State) (r : Round) (t : LdId) (q : Fin 128) :
    tokenRoom (roundCounted s r) t q = tokenRoom s t q :=
  (tokenRoom_congr (regBump_queues ..) (regBump_lds ..) (regBump_rqt ..) (regBump_work ..) t q).trans (tokenRoom_roundTaken s r t q)

section
variable {s : State} {r : Round} {o : SeatOut} (hone : r.outcome = [o])
include hone

theorem commitRound_one (hbad : o.bad ≠ 2) : commitRound s r = commitSeat (roundCounted s r) o := by
  rw [commitRound_seats (by simpa [hone] using hbad), hone]
  rfl

variable (hgen : (entryOf s o.entry).state = .generating) (hcancel : (entryOf s o.entry).cancelPending = false)
include hgen hcancel

/-- The one seat of a poisoned round, or one whose counts table is poisoned, fails. -/
theorem commitRound_failsSeat (hbad : o.bad = 1 ∨ o.bad = 2) : poisoned0203 (commitRound s r) o.entry := by
  have hentry := entryOf_roundCounted s r o.entry
  rcases hbad with hbad | hbad
  · rw [commitRound_one hone (by simp [hbad]), commitSeat_poisoned (by rw [hentry, hgen]) (by rw [hentry, hcancel]) hbad]
    exact poisoned0203_failRequest ..
  · obtain ⟨v, hv, hn⟩ := commitRound_poisoned (s := s) (r := r) ⟨o, by simp [hone], hbad⟩
    rw [hn, hone, List.filter_cons_of_pos (by simp [entryOf_roundTaken, hgen])]
    exact poisoned0203_failRequest ..

/-- The one seat of a sound round streams its tokens up to the first stop. -/
theorem commitRound_streams (hbad : o.bad = 0)
    (hroom : tokenRoom s (ldId (entryOf s o.entry).ld) (queId (entryOf s o.entry).queue) = true) :
    ∃ j, j ≤ o.toks.length ∧ (o.toks ≠ [] → 1 ≤ j)
      ∧ (entryOf (commitRound s r) o.entry).committed = (entryOf s o.entry).committed + j
      ∧ (entryOf (commitRound s r) o.entry).genLeft = (entryOf s o.entry).genLeft - j
      ∧ (entryOf (commitRound s r) o.entry).draftsAccepted = (entryOf s o.entry).draftsAccepted + o.accepted
      ∧ ((entryOf (commitRound s r) o.entry).state = .generating ∨ (entryOf (commitRound s r) o.entry).state = .complete) := by
  have hentry := entryOf_roundCounted s r o.entry
  obtain ⟨m, -, hm, hn⟩ := commitSeat_streams (s := roundCounted s r) (o := o) (by rw [hentry, hgen]) (by rw [hentry, hcancel])
    (by simp [hbad]) (.inr (by rw [hentry, tokenRoom_roundCounted, hroom]))
  rw [hentry] at hm hn
  obtain ⟨j, hj, hpos, hstreamed⟩ := streamTokens_streamed m o.entry ((entryOf s o.entry).committed + 1)
    (entryOf s o.entry).pendingTok o.toks o.noCand (by rw [hm]; exact hgen)
  rw [commitRound_one hone (by simp [hbad]), hn]
  refine ⟨j, hj, hpos, hstreamed.committed.trans ?_, hstreamed.genLeft.trans (by rw [hm]), hstreamed.drafts.trans (by rw [hm]),
    hstreamed.state⟩
  split
  · next hzero => rw [hm, hzero]; rfl
  · omega

end

/-! ### The stall limit (R379) -/

/-- Seats that fail with a round leave a request that no longer generates as it is. -/
theorem seatsFail_keeps (l : List Nat) (s : State) (status i : Nat) (h : (entryOf s i).state ≠ .generating) :
    let n := l.foldl (fun s k => if (entryOf s k).state = .generating then failQuiet s k status else s) s
    entryOf n i = entryOf s i ∧ bookedWork (workOf n i) = bookedWork (workOf s i) := by
  induction l generalizing s with
  | nil => exact ⟨rfl, rfl⟩
  | cons k l ih =>
    intro n
    by_cases hk : (entryOf s k).state = .generating
    · have hstep := failQuiet_requestStep s k status
      have hne : i ≠ k := fun heq => h (heq ▸ hk)
      have hentry := hstep.entryOf_ne hne
      have hn : n = l.foldl (fun s k => if (entryOf s k).state = .generating then failQuiet s k status else s)
          (failQuiet s k status) := (List.foldl_cons ..).trans (by rw [if_pos hk])
      obtain ⟨hkeep, hwork⟩ := ih (failQuiet s k status) (by rwa [hentry])
      rw [hn]
      exact ⟨hkeep.trans hentry, hwork.trans (hstep.work i hne)⟩
    · have hn : n = l.foldl (fun s k => if (entryOf s k).state = .generating then failQuiet s k status else s) s :=
        (List.foldl_cons ..).trans (by rw [if_neg hk])
      rw [hn]
      exact ih s h

/-- A request fails whose stall has reached the limit, and with it the others of its round. -/
theorem exec_stallLimit {s : State} {i : Fin 4096} (hst : (entryOf s i.val).state = .running ∨ (entryOf s i.val).state = .generating)
    (hstall : 0 < (workOf s i.val).stallFurrows)
    (hlimit : Nat.max 1 (regField s (fltReg 0) 47 32) ≤ (workOf s i.val).stallFurrows) :
    ∃ n, exec (.stallLimit i) s = .next n
      ∧ entryOf n i.val = endedEntry (entryOf s i.val) (failedAs (entryOf s i.val)) 0x0202
      ∧ bookings (workOf n i.val) = ([], []) := by
  have hfails (u : State) (hu : entryOf u i.val = entryOf s i.val) :
      entryOf (failRequest u i.val 0x0202 0x000F) i.val = endedEntry (entryOf s i.val) (failedAs (entryOf s i.val)) 0x0202
        ∧ bookings (workOf (failRequest u i.val 0x0202 0x000F) i.val) = ([], []) := by
    obtain ⟨toks, hwork⟩ := bookedWork_failRequest u i.val 0x0202 0x000F
    exact ⟨by rw [entryOf_failRequest, hu], congrArg Prod.snd hwork⟩
  change ∃ n, execStallLimit i s = .next n ∧ _
  unfold execStallLimit
  extract_lets e w
  rw [if_pos (by rcases hst with hst | hst <;> simp [e, w, hst, hstall, hlimit])]
  split
  · exact ⟨_, rfl, hfails s rfl⟩
  · next r _ =>
    extract_lets u v
    obtain ⟨hentry, hwork⟩ := hfails u rfl
    have hended : (entryOf v i.val).state ≠ .generating := by
      unfold v
      rw [hentry]
      rcases failedAs_cases (entryOf s i.val) with h | h <;> simp [endedEntry, h]
    obtain ⟨hkeep, hkept⟩ := seatsFail_keeps r.seats v 0x0202 i.val hended
    exact ⟨_, rfl, hkeep.trans hentry, (bookings_of_bookedWork hkept).trans hwork⟩

/-! ### O28 -/

/-- Settles O28: a chunk by what stands in its way, a round by the outcome of its seats, a stall by its length. -/
theorem requestsCommit : Obligations.RequestsCommit := by
  refine ⟨fun i s x r => ?chunks, fun i s x y xs => ?resow, fun k s r hround => ⟨?samples, ?commits⟩, fun i s => ?stalls⟩
  case chunks =>
    intro e w c room v split hready hchunks
    have hrunning : e.state = .running := chunkReady_running hready
    have hst : e.state ≠ .free := by simp [hrunning]
    have hexec : exec c s = .next (commitChunk s i.val) := exec_chunkCommit_ready hready
    rw [hexec]
    refine ⟨fun hcancel => ?_, fun hcancel hforest hr => ?_, fun hcancel hforest hr hgen => ?_,
      fun hcancel hforest hr hgen hroom hbad => ?_, fun hcancel hforest hr hgen hsplit => ?_,
      fun hcancel hforest hr hgen hroom hgood => ?_, fun hcancel hr hgen hroom => ?_, fun hcancel hforest hr hgen hsplit => ?_⟩
    · refine ⟨_, congrArg _ (if_pos hcancel), rfl, ?_, rfl⟩
      rw [workOf_setWork_same]
      exact congrArg (List.drop 1) hchunks
    · obtain ⟨m, hentry, hbook, hm⟩ := commitChunk_plain hchunks hcancel hst hforest fun h => absurd h hr
      rw [if_neg hr] at hm
      exact ⟨m, congrArg _ hm, by rw [hentry]; rfl, by rw [hentry]; rfl, by rw [hentry]; exact hrunning, congrArg Prod.snd hbook⟩
    · obtain ⟨hcom, hwork, hdone, -⟩ := commitChunk_last hchunks hcancel hst hforest hr fun h => absurd hgen (Nat.pos_iff_ne_zero.1 h)
      obtain ⟨hstate, hstatus⟩ := hdone hgen
      exact ⟨_, rfl, hcom, hstate, hstatus, congrArg Prod.snd hwork, congrArg Prod.fst hwork⟩
    · exact ⟨_, congrArg _ (commitChunk_poisonedLogits hchunks hcancel hforest hr hgen hroom hbad), poisoned0203_failRequest ..⟩
    · exact ⟨_, congrArg _ (commitChunk_poisonedSplit hcancel hforest hgen hsplit), poisoned0203_failRequest ..⟩
    · obtain ⟨hcom, hwork, -, hstate⟩ := commitChunk_last hchunks hcancel hst hforest hr fun _ => ⟨hroom, hgood⟩
      exact ⟨_, rfl, hcom, hstate hgen, congrArg Prod.snd hwork, congrArg Prod.fst hwork⟩
    · exact congrArg _ (commitChunk_noRoom hchunks hcancel hr hgen hroom)
    · obtain ⟨u, t, hu, ht, hn⟩ := commitChunk_forest hcancel hforest hgen hsplit
      obtain ⟨hstate, hcom, hbranch⟩ := forestEnd_spec i.isLt hst hu w.tokens _ ht
      refine ⟨_, congrArg _ hn, hstate, hcom, fun y hy hfree => ?_⟩
      intro z
      have hz : z = branchEntry e i.val 0 := hbranch (by rw [hy]; rfl) hfree
      have hy0 : nthD 0 e.seedRng.branches 0 = y := by rw [hy]; rfl
      rw [hz]
      refine ⟨rfl, rfl, rfl, rfl, ?_⟩
      unfold branchEntry
      rw [hy0]
  case resow =>
    intro w hready hresow hlist
    have hlifting : (entryOf s i.val).state = .lifting := resowReady_lifting hresow
    obtain ⟨hleft, hstep, hentry, hmem⟩ := commitResow_more hlifting hlist
    exact ⟨_, exec_chunkCommit_resow hready hresow, hleft, hstep, by rw [hentry], by rw [hentry]; exact hlifting, hmem⟩
  case samples => exact fun hready => ⟨_, exec_roundSample hround hready, sampleRound_spec hround⟩
  case commits =>
    intro hsampled
    obtain ⟨hgone, hitems⟩ := commitRound_gone s r
    exact ⟨_, exec_roundCommit hround hsampled, id_of_roundOf hround ▸ hgone, hitems, commitRound_counts,
      fun o hone hbad hgen hcancel => commitRound_failsSeat hone hgen hcancel hbad,
      fun o hone hbad hgen hcancel hroom => commitRound_streams hone hgen hcancel hbad hroom⟩
  case stalls =>
    intro e w hst hstall hlimit
    obtain ⟨n, hn, hentry, hwork⟩ := exec_stallLimit hst hstall hlimit
    exact ⟨n, hn, by rw [hentry]; rfl, by rw [hentry]; rfl, congrArg Prod.fst hwork, congrArg Prod.snd hwork⟩

end Sys2Proof.Machine
end

section
/-! # What an access of memory leaves of the requests, the bundle operations and the journal

Reads and writes of memory, at the own node or at another, count, log, inform and map pages. None of it reaches an entry, the work kept
beside it, a bundle operation or the journal, or a register of BND (R305). -/

namespace Sys2Proof.Machine

/-! ### The frame -/

/-- The registers of bundles and of the journal (R305, R488). -/
abbrev BndReg (o : Nat) : Prop := bndReg 0 ≤ o ∧ o < bndReg 0x1000

/-- Of the state at most memory, its tags and pages, the links, what is noted and informed, and registers outside BND may differ. -/
structure Accessed (s n : State) : Prop where
  fields : n = { s with
    pins := n.pins, regs := n.regs, mem := n.mem, poison := n.poison, tags := n.tags, mere := n.mere, pages := n.pages, lds := n.lds
    ctlWait := n.ctlWait, rlOps := n.rlOps, ports := n.ports, peers := n.peers, flows := n.flows, power := n.power, faults := n.faults
    fns := n.fns, out := n.out, freeCtr := n.freeCtr }
  regs : ∀ o, BndReg o → regGet n o = regGet s o

theorem Accessed.refl (s : State) : Accessed s s := ⟨rfl, fun _ _ => rfl⟩

theorem Accessed.trans {s t u : State} (a : Accessed s t) (b : Accessed t u) : Accessed s u :=
  ⟨Eq.trans b.fields (by rw [a.fields]), fun o ho => (b.regs o ho).trans (a.regs o ho)⟩

theorem accessed_ite {c : Prop} [Decidable c] {s a b : State} (ha : Accessed s a) (hb : Accessed s b) :
    Accessed s (if c then a else b) := by
  split
  · exact ha
  · exact hb

theorem accessed_foldl {α : Type} {f : State → α → State} (l : List α) (s : State) (h : ∀ s, ∀ x ∈ l, Accessed s (f s x)) :
    Accessed s (l.foldl f s) := foldl_rel Accessed.refl (fun _ _ _ => Accessed.trans) l s h

section
variable {s n : State} (h : Accessed s n)
include h

theorem Accessed.rqt : n.rqt = s.rqt := by rw [h.fields]
theorem Accessed.ops : n.ops = s.ops := by rw [h.fields]
theorem Accessed.jrnl : n.jrnl = s.jrnl := by rw [h.fields]
theorem Accessed.entryOf (i : Nat) : entryOf n i = entryOf s i := by rw [Machine.entryOf, h.rqt]; rfl
theorem Accessed.work : n.work = s.work := by rw [h.fields]
theorem Accessed.opOf (i : Nat) : opOf n i = opOf s i := by rw [Machine.opOf, h.ops]; rfl

end

/-! ### Registers, messages and records -/

theorem not_bndReg_of_above {o : Nat} (h : 0x10E000 ≤ o) : ¬ BndReg o := by
  unfold BndReg bndReg
  omega

theorem fltReg_not_bndReg (off : Nat) : ¬ BndReg (fltReg off) := not_bndReg_of_above (by unfold fltReg; omega)

theorem mcReg_not_bndReg (n off : Nat) : ¬ BndReg (mcReg n off) := not_bndReg_of_above (by unfold mcReg feReg; omega)

theorem rlReg_not_bndReg (p off : Nat) : ¬ BndReg (rlReg p off) := not_bndReg_of_above (by unfold rlReg; omega)

theorem glbReg_not_bndReg {off : Nat} (h : off < 0xD000) : ¬ BndReg (glbReg off) := by
  unfold BndReg glbReg bndReg
  omega

theorem regSet_accessed (s : State) {o : Nat} (v : Nat) (h : ¬ BndReg o) : Accessed s (regSet s o v) :=
  ⟨rfl, fun _ hp => regGet_regSet_ne s v fun e => h (e ▸ hp)⟩

theorem regBump_accessed (s : State) {o : Nat} (k : Nat) (h : ¬ BndReg o) : Accessed s (regBump s o k) :=
  accessed_ite (.refl s) (regSet_accessed s _ h)

theorem regPut_accessed (s : State) {o : Nat} (hi lo v : Nat) (h : ¬ BndReg o) : Accessed s (regPut s o hi lo v) :=
  regSet_accessed s _ h

theorem LinksChanged.accessed {s n : State} (h : LinksChanged s n) : Accessed s n := by
  refine ⟨Eq.trans h.fields (by rw [h.fields]), fun o ho => h.regs o ?_⟩
  unfold BndReg bndReg at ho
  unfold rlReg
  omega

theorem setFaults_accessed (s : State) (x : FaultUnit) : Accessed s { s with faults := x } := ⟨rfl, fun _ _ => rfl⟩

theorem setPages_accessed (s : State) (ps : List Page) : Accessed s { s with pages := ps } := ⟨rfl, fun _ _ => rfl⟩

theorem tickFree_accessed (s : State) : Accessed s (tickFree s) := ⟨rfl, fun _ _ => rfl⟩

theorem useOp_accessed (s : State) : Accessed s (useOp s) := ⟨rfl, fun _ _ => rfl⟩

theorem setTen_accessed (s : State) (t : LdId) (u : Tenant) : Accessed s (setTen s t u) := ⟨rfl, fun _ _ => rfl⟩

theorem sendMsix_accessed (s : State) (fn : Mbox) (v : Nat) : Accessed s (sendMsix s fn v) :=
  accessed_ite ⟨rfl, fun _ _ => rfl⟩ ⟨rfl, fun _ _ => rfl⟩

theorem ownerEvent_accessed (s : State) (bs : List Byte) : Accessed s (ownerEvent s bs) := by
  unfold ownerEvent
  extract_lets faults t
  have ht : Accessed s t := setFaults_accessed ..
  exact accessed_ite (ht.trans (sendMsix_accessed ..)) ht

theorem tenantEvent_accessed (s : State) (t : LdId) (bs : List Byte) : Accessed s (tenantEvent s t bs) := by
  unfold tenantEvent
  extract_lets u n
  have hn : Accessed s n := setTen_accessed ..
  exact accessed_ite (hn.trans (sendMsix_accessed ..)) hn

theorem logFaultIn_accessed (s : State) (furrow : Nat) (r : FaultRec) : Accessed s (logFaultIn s furrow r) := by
  unfold logFaultIn
  extract_lets r' s1 faults full lost log s2 s3 s4 s5 s6
  have h1 : Accessed s s1 := regBump_accessed s 1 (fltReg_not_bndReg _)
  have h3 : Accessed s1 s3 := (setFaults_accessed ..).trans (regBump_accessed s2 1 (fltReg_not_bndReg _))
  have h4 : Accessed s3 s4 := accessed_ite (regPut_accessed s3 _ _ _ (fltReg_not_bndReg _)) (.refl s3)
  have h6 : Accessed s4 s6 := (ownerEvent_accessed s4 _).trans (accessed_ite ⟨rfl, fun _ _ => rfl⟩ (.refl s5))
  have hlog : Accessed s s6 := ((h1.trans h3).trans h4).trans h6
  exact accessed_ite (h1.trans (setFaults_accessed ..)) (accessed_ite (hlog.trans ⟨rfl, fun _ _ => rfl⟩) hlog)

theorem logFault_accessed (s : State) (r : FaultRec) : Accessed s (logFault s r) := logFaultIn_accessed ..

/-! ### Lines read (R372, R389 to R391) -/

theorem retirePc_accessed (s : State) {pc : Nat} (h : pc < 640) : Accessed s (retirePc s pc) := by
  unfold retirePc
  extract_lets o v0 v1 s1 now faults s2
  have ho : ¬ BndReg o := fltReg_not_bndReg _
  have hput (s : State) (hi lo v : Nat) : Accessed s (regPut s o hi lo v) := regPut_accessed s hi lo v ho
  have h1 : Accessed s s1 :=
    accessed_ite ((((hput ..).trans (hput ..)).trans (hput ..)).trans (hput ..)) (((hput ..).trans (hput ..)).trans (hput ..))
  have h2 : Accessed s s2 := h1.trans (setFaults_accessed ..)
  have h3 : Accessed s2 (geoBump (regClearBit s2 (glbReg (0x120 + 8 * (pc / 64))) (pc % 64))) :=
    (regPut_accessed s2 _ _ _ (glbReg_not_bndReg (by omega))).trans (regBump_accessed _ 1 (glbReg_not_bndReg (by decide)))
  exact accessed_ite (.refl s)
    (accessed_ite (regPut_accessed s _ _ _ (fltReg_not_bndReg _)) ((h2.trans h3).trans (logFault_accessed ..)))

theorem notePcErr_accessed (s : State) {pc : Nat} (line : Option Nat) (k : Nat) (h : pc < 640) :
    Accessed s (notePcErr s pc line k) := by
  unfold notePcErr
  extract_lets now es mine faults s1
  have h1 : Accessed s s1 := setFaults_accessed ..
  exact accessed_ite (h1.trans (retirePc_accessed s1 h)) h1

theorem eccCorrect_accessed (s : State) (dpa k : Nat) : Accessed s (eccCorrect s dpa k) := by
  unfold eccCorrect
  extract_lets pc v s1
  exact (((tickFree_accessed s).trans (regBump_accessed _ k (fltReg_not_bndReg _))).trans (logFault_accessed ..)).trans
    (notePcErr_accessed s1 none k (dpaPc_lt _))

theorem eccPoison_accessed (s : State) (dpa : Nat) (quiet : Bool) : Accessed s (eccPoison s dpa quiet) := by
  unfold eccPoison
  extract_lets l pc s1 v s2 s3
  have h0 : Accessed s { s with poison := addN l s.poison } := ⟨rfl, fun _ _ => rfl⟩
  have h1 : Accessed s s1 := h0.trans (regBump_accessed _ 1 (fltReg_not_bndReg _))
  have h2 : Accessed s1 s2 := accessed_ite (.refl s1) ((tickFree_accessed s1).trans (logFault_accessed ..))
  have h3 : Accessed s s3 := (h1.trans h2).trans (notePcErr_accessed s2 _ 1 (dpaPc_lt _))
  refine accessed_ite (.refl s) ?_
  split
  · exact h3.trans ((ownerEvent_accessed ..).trans (tenantEvent_accessed ..))
  · exact h3

theorem hbmRead_accessed (quiet : Bool) (s : State) (dpa : Nat) : Accessed s (hbmRead quiet s dpa) := by
  unfold hbmRead
  extract_lets mine faults s1
  have h1 : Accessed s s1 := setFaults_accessed ..
  exact accessed_ite (.refl s) (accessed_ite (h1.trans (eccCorrect_accessed ..)) (h1.trans (eccPoison_accessed ..)))

theorem disarm_accessed (s : State) (source unit : Nat) : Accessed s (disarm s source unit) := by
  unfold disarm
  extract_lets v s1
  have h1 : Accessed s s1 := regPut_accessed s _ _ _ (fltReg_not_bndReg _)
  exact accessed_ite (accessed_ite h1 (h1.trans (setFaults_accessed ..))) (.refl s)

theorem mereRead_accessed (s : State) (dpa hint : Nat) : Accessed s (mereRead s dpa hint) := by
  have hmere (s : State) (m : Vector MereSlice 4) : Accessed s { s with mere := m } := ⟨rfl, fun _ _ => rfl⟩
  unfold mereRead
  extract_lets n k m line set t s1 ok inSet free way rest s2
  have h1 : Accessed s s1 := regBump_accessed s 1 (mcReg_not_bndReg _ _)
  split
  · exact (hmere ..).trans (regBump_accessed _ 1 (mcReg_not_bndReg _ _))
  · have h2 : Accessed s s2 := h1.trans (hmere ..)
    exact accessed_ite h1 ((h2.trans (regBump_accessed s2 _ (mcReg_not_bndReg _ _))).trans (disarm_accessed ..))

theorem workRead_accessed (hint : Nat) (s : State) (dpa : Nat) : Accessed s (workRead hint s dpa) :=
  (accessed_ite (.refl s) (hbmRead_accessed true s dpa)).trans (mereRead_accessed ..)

theorem devTouch_accessed (s : State) (t : LdId) (v n : Nat) : Accessed s (devTouch s t v n) :=
  accessed_foldl _ s fun s a _ => workRead_accessed 2 s a

/-! ### Lines written (R23, R158, R394) -/

theorem slicesWrote_accessed (s : State) (ps : List Nat) : Accessed s (slicesWrote s ps) :=
  accessed_foldl _ s fun s _ _ =>
    accessed_ite (.refl s) ((regBump_accessed s _ (mcReg_not_bndReg _ _)).trans (disarm_accessed ..))

theorem hbmWrote_accessed (s : State) (x : Nat × Nat) : Accessed s (hbmWrote s x) :=
  accessed_ite (.refl s) (accessed_ite ((setFaults_accessed s _).trans (regPut_accessed _ _ _ _ (fltReg_not_bndReg _)))
    (setFaults_accessed s _))

theorem piecesWrote_accessed (s : State) (ps : List (Nat × Nat)) : Accessed s (piecesWrote s ps) :=
  (slicesWrote_accessed ..).trans (accessed_foldl ps _ fun s x _ => hbmWrote_accessed s x)

theorem giveFrame_accessed (s : State) (f : Nat) (t : Tag) : Accessed s (giveFrame s f t) := by
  have hclear : Accessed s (memClear (markTag s f t) (f * 65536) 65536) := ⟨rfl, fun _ _ => rfl⟩
  exact hclear.trans (piecesWrote_accessed ..)

theorem memStore_accessed (s : State) (a : Nat) (bs : List Byte) : Accessed s (memStore s a bs) := by
  have hwrite : Accessed s (memWrites s a bs) := ⟨rfl, fun _ _ => rfl⟩
  exact hwrite.trans (piecesWrote_accessed ..)

theorem setTag_accessed (s : State) (f : Nat) (t : Tag) : Accessed s (setTag s f t) :=
  accessed_ite ⟨rfl, fun _ _ => rfl⟩ ⟨rfl, fun _ _ => rfl⟩

theorem tvaWrites_accessed (s : State) (t : LdId) (v : Nat) (bs : List Byte) : Accessed s (tvaWrites s t v bs) := by
  induction bs generalizing s v with
  | nil => exact .refl s
  | cons b bs ih =>
    have hput : Accessed s (tvaPut s t v b) := by
      unfold tvaPut
      split
      · exact ⟨rfl, fun _ _ => rfl⟩
      · exact .refl s
    rw [tvaWrites_cons]
    exact hput.trans (ih ..)

theorem tvaUnpoison_accessed (s : State) (t : LdId) (v n : Nat) : Accessed s (tvaUnpoison s t v n) := by
  refine accessed_foldl _ s fun s k _ => accessed_ite (.refl s) ?_
  split
  · exact ⟨rfl, fun _ _ => rfl⟩
  · exact .refl s

theorem tvaStore_accessed (s : State) (t : LdId) (v : Nat) (bs : List Byte) : Accessed s (tvaStore s t v bs) :=
  ((tvaWrites_accessed ..).trans (tvaUnpoison_accessed ..)).trans (piecesWrote_accessed ..)

/-! ### Accesses at the own node (R41, R327) -/

/-- A page mapped on behalf of no request. -/
theorem mapPage_accessed {s n : State} {t : LdId} {v : Nat} (h : mapPage s t none v = some n) : Accessed s n := by
  unfold mapPage at h
  extract_lets +onlyGivenNames booked at h
  split at h
  · cases h
  · split at h
    · cases h
      exact (giveFrame_accessed ..).trans (setTen_accessed ..)
    · cases h

theorem mapRange_accessed {s n : State} {t : LdId} {v pages : Nat} (h : mapRange s t none v pages = some n) : Accessed s n := by
  induction pages generalizing s v with
  | zero => cases h; exact .refl _
  | succ pages ih =>
    rw [mapRange] at h
    split at h
    case h_1 => cases h
    case h_2 s' hpage =>
      split at hpage
      · cases hpage; exact ih h
      · exact (mapPage_accessed hpage).trans (ih h)

theorem rgnTranslate_accessed {s n : State} {op : RailOp} {t : LdId} {v k : Nat} (h : rgnTranslate s op t v k = .ok n) :
    Accessed s n := by
  unfold rgnTranslate at h
  split at h
  · cases h
  · split at h
    · cases h; exact .refl s
    · split at h
      · cases h
      · split at h
        · next hr => cases h; exact mapRange_accessed hr
        · cases h

theorem railAccess_accessed {s : State} {op : RailOp} {ctx src off k : Nat} {r : State × LdId × Nat}
    (h : railAccess s op ctx src off k = .ok r) : Accessed s r.1 := by
  unfold railAccess at h
  split at h
  · cases h
  · split at h
    · cases h
    · next hr => cases h; exact rgnTranslate_accessed hr

theorem ownDenied_accessed (s : State) (code : Nat) : Accessed s (ownDenied s code) := by
  have hr (off : Nat) : ¬ BndReg (rlReg 0 off) := rlReg_not_bndReg _ _
  exact ((((regBump_accessed s 1 (hr _)).trans (regBump_accessed _ 1 (hr _))).trans (regPut_accessed _ _ _ _ (hr _))).trans
    (regPut_accessed _ _ _ _ (hr _))).trans (regPut_accessed _ _ _ _ (hr _))

/-! ### Writes at another node (R320, R321) -/

theorem flowSend_linksChanged (s : State) (f : Flow) (x : TxPacket) : LinksChanged s (flowSend s f x) :=
  linksChanged_ite (setFlow_linksChanged ..) (flowPut_linksChanged ..)

theorem openFlow_accessed (s : State) (n : NodeId) (ctx p : Nat) : Accessed s (openFlow s n ctx p) := by
  unfold openFlow
  split
  · exact .refl s
  · exact (tickFree_accessed s).trans ((setFlow_linksChanged ..).trans (sendCtl_linksChanged ..)).accessed

theorem raileSend_accessed (s : State) (n : NodeId) (ctx : Nat) (x : TxPacket) : Accessed s (raileSend s n ctx x) := by
  unfold raileSend
  extract_lets ps u
  have hu : Accessed s u := accessed_ite (accessed_foldl _ s fun s p _ => openFlow_accessed s n ctx p) (.refl s)
  split
  · exact hu.trans (flowSend_linksChanged ..).accessed
  · exact hu

theorem sendWrites_accessed (ctx op fuel addr : Nat) (bs : List Byte) (s : State) : Accessed s (sendWrites ctx op fuel addr bs s) := by
  induction fuel generalizing addr bs s with
  | zero => exact .refl s
  | succ fuel ih =>
    have hsend : Accessed s (sendWrite s ctx addr op (bs.drop 4096).isEmpty (bs.take 4096)) := raileSend_accessed ..
    exact accessed_ite hsend (hsend.trans (ih ..))

/-- A write to a Raile address, at the own node or at another (R40, R41). -/
theorem raileStore_accessed (s : State) (ctx addr : Nat) (bs : List Byte) : Accessed s (raileStore s ctx addr bs).1 := by
  unfold raileStore
  split
  · split
    · next h => exact (railAccess_accessed h).trans (tvaStore_accessed ..)
    · exact ownDenied_accessed ..
  · exact (useOp_accessed s).trans (sendWrites_accessed ..)

theorem raileStores_accessed (ctx : Nat) (parts : List (Nat × List Byte)) (n : Nat) (s : State) :
    Accessed s (raileStores s ctx parts n).1 := by
  induction parts generalizing n s with
  | nil => exact .refl s
  | cons x parts ih =>
    have hstore := raileStore_accessed s ctx x.1 x.2
    obtain ⟨a, bs⟩ := x
    unfold raileStores
    split
    · next h => rw [h] at hstore; exact hstore.trans (ih ..)
    · next h => rw [h] at hstore; exact hstore

end Sys2Proof.Machine
end

section
/-! # The journal, and recovery (O31) -/

namespace Sys2Proof.Machine

/-! ### Batches (R298, R302, R368) -/

/-- What written records mean for their entries' base records changes the work kept beside entries alone. -/
theorem foldl_noteWritten_fields (xs : List (JRec × Nat)) (s : State) :
    xs.foldl noteWritten s = { s with work := (xs.foldl noteWritten s).work } := by
  refine foldl_rel (R := fun s n => n = { s with work := n.work }) (fun _ => rfl) (fun _ _ _ a b => b.trans (by rw [a])) xs s
    fun s x _ => ?_
  unfold noteWritten
  split
  · rfl
  · dsimp only
    split
    · rfl
    · split <;> rfl

/-- HEAD and REQUIRED_JSEQ once a batch has been written. -/
def headMoved (s : State) : State :=
  regSet (regSet (s.jrnl.inFlight.foldl noteWritten s) (bndReg 0x10) s.jrnl.pendHead) (bndReg 0x28) s.jrnl.pendReq

/-- The whole effect of a written batch but for its vector. -/
def batchWritten (s : State) : State :=
  regBump { headMoved s with jrnl := { s.jrnl with inFlight := [], busy := false } } (bndReg 0x80) 1

theorem batchWritten_fields (s : State) :
    batchWritten s = { s with
      regs := (batchWritten s).regs, work := (batchWritten s).work, jrnl := { s.jrnl with inFlight := [], busy := false } } := by
  unfold batchWritten headMoved
  rw [regBump_eq, foldl_noteWritten_fields]
  rfl

theorem regGet_headMoved (s : State) (o : Nat) :
    regGet (headMoved s) o = if o = bndReg 0x28 then s.jrnl.pendReq % 2 ^ 64
      else if o = bndReg 0x10 then s.jrnl.pendHead % 2 ^ 64 else regGet s o := by
  have hbase : regGet (s.jrnl.inFlight.foldl noteWritten s) o = regGet s o := by rw [foldl_noteWritten_fields]; rfl
  rw [headMoved, regGet_regSet, regGet_regSet, hbase]

theorem batchWritten_regs (s : State) :
    regGet (batchWritten s) (bndReg 0x10) = s.jrnl.pendHead % 2 ^ 64 ∧ regGet (batchWritten s) (bndReg 0x28) = s.jrnl.pendReq % 2 ^ 64
      ∧ rises (bndReg 0x80) 1 s (batchWritten s) ∧ regsBut [bndReg 0x10, bndReg 0x28, bndReg 0x80] s (batchWritten s) := by
  have hread (o : Nat) : regGet (batchWritten s) o
      = if o = bndReg 0x80 then (regGet (headMoved s) (bndReg 0x80) + 1) % 2 ^ 64 else regGet (headMoved s) o := regGet_regBump ..
  simp only [rises, hread, regGet_headMoved]
  refine ⟨rfl, rfl, rfl, fun o ho => ?_⟩
  simp only [List.mem_cons, List.not_mem_nil, or_false, not_or] at ho
  obtain ⟨h10, h28, h80⟩ := ho
  rw [hread, if_neg h80, regGet_headMoved, if_neg h28, if_neg h10]

/-- A vector sent adds its message; one that must wait is left in its pending bit, and changes nothing else (R363). -/
theorem sendMsix_fields (s : State) (fn : Mbox) (v : Nat) :
    sendMsix s fn v = { s with
      out := s.out ++ (if vectorOpen s fn v then [.msix fn v] else [])
      fns := if vectorOpen s fn v then s.fns else (setPending s fn v true).fns } := by
  unfold sendMsix
  split
  · rfl
  · simp [setPending, setFn]

theorem exec_journalBatchDone_written {s : State} (hbusy : s.jrnl.busy = true) (hstale : s.jrnl.stale = false)
    (hdenied : s.jrnl.denied = false) :
    exec (.journalBatchDone false) s = .next (if s.pins.mld then batchWritten s else sendMsix (batchWritten s) .owner 1) := by
  have hpins : (batchWritten s).pins = s.pins := by rw [batchWritten_fields]
  change execJournalBatchDone false s = _
  rw [execJournalBatchDone, if_neg (by simp [hbusy]), if_neg (by simp [hstale]), if_neg (by simp [hdenied]), ← hpins]
  rfl

theorem exec_journalBatchDone_failed {s : State} {error : Bool} (hbusy : s.jrnl.busy = true) (hstale : s.jrnl.stale = false)
    (h : error = true ∨ s.jrnl.denied = true) :
    exec (.journalBatchDone error) s = .next (regFlag { s with jrnl := { s.jrnl with
      due := s.jrnl.inFlight.map (·.1) ++ s.jrnl.due, inFlight := [], busy := false, denied := false } } (bndReg 0x30) 1) := by
  change execJournalBatchDone error s = _
  simp [execJournalBatchDone, hbusy, hstale, h]

theorem exec_journalBatchDone_stale {s : State} (hbusy : s.jrnl.busy = true) (hstale : s.jrnl.stale = true) (error : Bool) :
    exec (.journalBatchDone error) s = .next { s with jrnl := { s.jrnl with busy := false, stale := false } } := by
  change execJournalBatchDone error s = _
  simp [execJournalBatchDone, hbusy, hstale]

/-- A batch whose BATCH_END is written. -/
theorem journalBatchDone_written {s : State} (hbusy : s.jrnl.busy = true) (hstale : s.jrnl.stale = false)
    (hdenied : s.jrnl.denied = false) :
    ∃ n, exec (.journalBatchDone false) s = .next n ∧ regGet n (bndReg 0x10) = s.jrnl.pendHead % 2 ^ 64
      ∧ regGet n (bndReg 0x28) = s.jrnl.pendReq % 2 ^ 64 ∧ rises (bndReg 0x80) 1 s n
      ∧ regsBut [bndReg 0x10, bndReg 0x28, bndReg 0x80] s n ∧ n.jrnl = { s.jrnl with inFlight := [], busy := false }
      ∧ n.mem = s.mem ∧ n.out = s.out ++ (if s.pins.mld = true ∨ vectorOpen s .owner 1 = false then [] else [.msix .owner 1])
      ∧ n.fns = (if s.pins.mld = true ∨ vectorOpen s .owner 1 = true then s.fns else (setPending s .owner 1 true).fns) := by
  refine ⟨_, exec_journalBatchDone_written hbusy hstale hdenied, ?_⟩
  obtain ⟨hhead, hreq, hcount, hregs⟩ := batchWritten_regs s
  have hfields := batchWritten_fields s
  generalize batchWritten s = n at *
  by_cases hmld : s.pins.mld = true
  case pos =>
    rw [if_pos hmld, if_pos (.inl hmld), if_pos (.inl hmld), List.append_nil]
    exact ⟨hhead, hreq, hcount, hregs, by rw [hfields], by rw [hfields], by rw [hfields], by rw [hfields]⟩
  case neg =>
    have hopen : vectorOpen n .owner 1 = vectorOpen s .owner 1 := by rw [hfields]; rfl
    have hpend : (setPending n .owner 1 true).fns = (setPending s .owner 1 true).fns := by rw [hfields]; rfl
    rw [if_neg hmld, sendMsix_fields, hopen, hpend]
    have hout : n.out = s.out := by rw [hfields]
    have hfns : n.fns = s.fns := by rw [hfields]
    refine ⟨hhead, hreq, hcount, hregs, by rw [hfields], by rw [hfields], ?_, ?_⟩
    · cases hv : vectorOpen s .owner 1 <;> simp [hmld, hout]
    · cases hv : vectorOpen s .owner 1 <;> simp [hmld, hfns]

/-- A batch that has failed. -/
theorem journalBatchDone_failed {s : State} {error : Bool} (hbusy : s.jrnl.busy = true) (hstale : s.jrnl.stale = false)
    (h : error = true ∨ s.jrnl.denied = true) :
    ∃ n, exec (.journalBatchDone error) s = .next n ∧ regField n (bndReg 0x30) 1 1 = 1 ∧ regsBut [bndReg 0x30] s n
      ∧ n = { s with regs := n.regs, jrnl := n.jrnl }
      ∧ n.jrnl = { s.jrnl with due := s.jrnl.inFlight.map (·.1) ++ s.jrnl.due, inFlight := [], busy := false, denied := false } :=
  ⟨_, exec_journalBatchDone_failed hbusy hstale h, regField_regPut _ _ _ _ _ (by decide),
    fun _ ho => regGet_regPut_ne _ _ _ _ (by simpa using ho), rfl, rfl⟩

theorem exec_jrnlTailWrite (s : State) (val : Reg64) :
    exec (.jrnlTailWrite val) s = .next (regSet s (bndReg 0x18) (Nat.min val.toNat (regGet s (bndReg 0x10)))) := rfl

theorem regGet_jrnlTail (s : State) (val : Reg64) :
    regGet (regSet s (bndReg 0x18) (Nat.min val.toNat (regGet s (bndReg 0x10)))) (bndReg 0x18)
      = Nat.min val.toNat (regGet s (bndReg 0x10)) := by
  rw [regGet_regSet, if_pos rfl]
  exact Nat.mod_eq_of_lt (Nat.lt_of_le_of_lt (Nat.min_le_left ..) val.isLt)

/-! ### Recovery (R303, R353) -/

/-- RECOVERING reads the bit written last. -/
theorem recovering_of_regPut {s n : State} {v : Nat} (h : n.regs = (regPut s (bndReg 0x30) 2 2 v).regs) :
    recovering n = (v % 2 == 1) := by
  have hbit := regField_regPut s (bndReg 0x30) 2 2 v (by decide)
  rw [regField, ← regGet_congr h] at hbit
  exact congrArg (· == 1) hbit

theorem recovering_regPut (s : State) (v : Nat) : recovering (regPut s (bndReg 0x30) 2 2 v) = (v % 2 == 1) := recovering_of_regPut rfl

theorem regsBut_of_regPut {s n : State} {o hi lo v : Nat} (h : n.regs = (regPut s o hi lo v).regs) : regsBut [o] s n :=
  regsBut_trans (regsBut_regSet _ _ _) (regsBut_of_regs h)

/-- What START_RECOVERY makes of the state, but for its answer. -/
def recoveryBegun (s : State) : State := { regFlag s (bndReg 0x30) 2 with jrnl := { s.jrnl with ldsDone := [] } }

section
variable {s : State} {m : Mbox} {p : List Byte} {t : LdId} (hlive : mboxLive s m = true)
  (hgate : gate s { owner := true } m p false = .ok t)
include hlive hgate

theorem exec_startRecovery_starts (hon : regField s (bndReg 0) 1 0 ≠ 0) (hrec : recovering s = false) :
    exec (.startRecovery m p) s
      = .next (reply (recoveryBegun s) m 0 (bruahOut 0 [])) := by
  refine (bruah_ok hlive hgate _).trans ?_
  rw [if_neg (by simp [hon, hrec])]
  rfl

theorem startRecovery_starts (hon : regField s (bndReg 0) 1 0 ≠ 0) (hrec : recovering s = false) :
    ∃ n, exec (.startRecovery m p) s = .next n ∧ recovering n = true ∧ n.jrnl = { s.jrnl with ldsDone := [] }
      ∧ (mboxOf n m).ret = 0 ∧ (mboxOf n m).outp = bruahOut 0 []
      ∧ n = { s with regs := n.regs, jrnl := n.jrnl, mboxes := n.mboxes } ∧ regsBut [bndReg 0x30] s n := by
  have hbox := mboxOf_reply (recoveryBegun s) m 0 (bruahOut 0 [])
  have hregs : (reply (recoveryBegun s) m 0 (bruahOut 0 [])).regs = (regPut s (bndReg 0x30) 2 2 1).regs := rfl
  exact ⟨_, exec_startRecovery_starts hlive hgate hon hrec, recovering_of_regPut hregs, rfl, by rw [hbox], by rw [hbox], rfl,
    regsBut_of_regPut hregs⟩

theorem exec_startRecovery_refused (h : regField s (bndReg 0) 1 0 = 0 ∨ recovering s = true) :
    exec (.startRecovery m p) s = .next (reply s m 0 (bruahOut 9 [])) := by
  refine (bruah_ok hlive hgate _).trans ?_
  rw [if_pos h]

end

theorem exec_recoverLd_nothing {s : State} {ld : LdId} (batches : List (List Byte))
    (h : recovering s = false ∨ s.jrnl.ldsDone.contains ld.val = true ∨ ringSource s = none) :
    exec (.recoverLd ld batches) s = .next s := by
  change execRecoverLd ld batches s = _
  unfold execRecoverLd
  split
  · rfl
  · next hgo =>
    obtain ⟨hrec, hdone⟩ := not_or.1 hgo
    rcases h with h | h | h
    · exact absurd (by simp [h]) hrec
    · exact absurd h hdone
    · rw [h]

/-- The read of the ring is an access. -/
theorem ringSource_accessed {s s0 : State} {there : List Byte → Bool} (h : ringSource s = some (s0, there)) : Accessed s s0 := by
  have hself {c : Bool} (h : (if c = true then some (s, fun _ : List Byte => true) else none) = some (s0, there)) : Accessed s s0 := by
    obtain ⟨-, rfl, -⟩ : c = true ∧ s = s0 ∧ (fun _ => true) = there := by simpa using h
    exact .refl s
  unfold ringSource at h
  extract_lets a n at h
  split at h
  · exact hself h
  · split at h
    · exact hself h
    · split at h
      · cases h; exact ownDenied_accessed ..
      · next hread => cases h; exact (railAccess_accessed hread).trans (devTouch_accessed ..)

/-- The batches that recovery takes from the ring. -/
def soundBatches (s0 : State) (there : List Byte → Bool) (batches : List (List Byte)) : List (List Byte) :=
  (batches.filter there).filter (batchComplete s0)

/-- The images whose prompts are whole. -/
def wholeImages (s0 : State) (ld : LdId) (good : List (List Byte)) : List EntryImg :=
  (good.foldl (applyBatch s0 ld) []).filter (fun x => x.rpb.isEmpty || x.got == x.nTok)

/-- An LD's entries rebuilt, in the order of their records. -/
def rebuilt (s0 : State) (ld : LdId) (good : List (List Byte)) : State :=
  (sortBy (fun a b => decide (a.jseq ≤ b.jseq)) (wholeImages s0 ld good)).foldl (fun s x => rebuildEntry s ld x) s0

/-- An LD rebuilt and done. -/
def ldRecovered (s0 : State) (ld : LdId) (good : List (List Byte)) : State :=
  let v := rebuilt s0 ld good
  { v with jrnl := { v.jrnl with ldsDone := addN ld.val v.jrnl.ldsDone } }

theorem rebuilt_nil {s0 : State} {ld : LdId} {good : List (List Byte)} (h : wholeImages s0 ld good = []) : rebuilt s0 ld good = s0 := by
  rw [rebuilt, h]
  rfl

/-- RECOVERING cleared, and the sequence number of the next record. -/
def recoveryEnded (v : State) (jseq : Nat) : State := regPut (regSet v (bndReg 0x20) jseq) (bndReg 0x30) 2 2 0

theorem recoveryEnded_fields (v : State) (jseq : Nat) :
    (recoveryEnded v jseq).rqt = v.rqt ∧ (recoveryEnded v jseq).work = v.work ∧ (recoveryEnded v jseq).ops = v.ops
      ∧ (recoveryEnded v jseq).jrnl = v.jrnl ∧ recovering (recoveryEnded v jseq) = false
      ∧ regGet (recoveryEnded v jseq) (bndReg 0x20) = jseq % 2 ^ 64
      ∧ regsBut [bndReg 0x20, bndReg 0x30] v (recoveryEnded v jseq) := by
  refine ⟨rfl, rfl, rfl, rfl, recovering_regPut _ 0, ?_, fun o ho => ?_⟩
  · exact (regGet_regPut_ne _ _ _ _ (by decide)).trans ((regGet_regSet ..).trans (if_pos rfl))
  · obtain ⟨h20, h30⟩ : o ≠ bndReg 0x20 ∧ o ≠ bndReg 0x30 := by simpa using ho
    exact (regGet_regPut_ne _ _ _ _ h30).trans (regGet_regSet_ne _ _ h20)

/-- Where the material is held, or no batch speaks of the LD, recovery does not wait. -/
theorem not_and_of_held {a : Bool} {o : Option (List Byte)} (h : o.isSome = true ∨ a = false) : ¬ (a = true ∧ o.isNone = true) := by
  rintro ⟨ha, ho⟩
  rcases h with h | h
  · simp [Option.isNone_iff_eq_none.1 ho] at h
  · simp [ha] at h

section
variable {s s0 : State} {ld : LdId} {there : List Byte → Bool} {batches : List (List Byte)} (hrec : recovering s = true)
  (hnew : s.jrnl.ldsDone.contains ld.val = false) (hring : ringSource s = some (s0, there))
include hrec hnew hring

theorem exec_recoverLd :
    exec (.recoverLd ld batches) s = .next (
      if (batchLds (soundBatches s0 there batches)).contains ld.val ∧ (ten s0 ld).material.isNone then s0
      else if (batchLds (soundBatches s0 there batches)).all
          (fun t => (ldRecovered s0 ld (soundBatches s0 there batches)).jrnl.ldsDone.contains t) then
        recoveryEnded (ldRecovered s0 ld (soundBatches s0 there batches)) (lastJseq (soundBatches s0 there batches) + 1)
      else ldRecovered s0 ld (soundBatches s0 there batches)) := by
  change execRecoverLd ld batches s = _
  unfold execRecoverLd
  rw [if_neg (by rw [hrec, hnew]; decide), hring]
  dsimp only
  rw [apply_ite Host.Outcome.next, apply_ite Host.Outcome.next]
  rfl

/-- An LD whose material is not held waits for it. -/
theorem recoverLd_waits
    (h : ¬ ((ten s0 ld).material.isSome = true ∨ (batchLds (soundBatches s0 there batches)).contains ld.val = false)) :
    exec (.recoverLd ld batches) s = .next s0 := by
  rw [exec_recoverLd hrec hnew hring, if_pos]
  obtain ⟨hnone, hin⟩ := not_or.1 h
  exact ⟨by simpa using hin, by simpa using hnone⟩

section
variable (hheld : (ten s0 ld).material.isSome = true ∨ (batchLds (soundBatches s0 there batches)).contains ld.val = false)
include hheld

/-- An LD is done, and others remain. -/
theorem recoverLd_goesOn
    (hall : (batchLds (soundBatches s0 there batches)).all
      (fun t => (ldRecovered s0 ld (soundBatches s0 there batches)).jrnl.ldsDone.contains t) = false) :
    exec (.recoverLd ld batches) s = .next (ldRecovered s0 ld (soundBatches s0 there batches)) := by
  rw [exec_recoverLd hrec hnew hring, if_neg (not_and_of_held hheld), if_neg (Bool.eq_false_iff.1 hall)]

/-- The last LD's recovery: RECOVERING clears, and the next record takes the sequence number after the last. -/
theorem recoverLd_ends
    (hall : (batchLds (soundBatches s0 there batches)).all
      (fun t => (ldRecovered s0 ld (soundBatches s0 there batches)).jrnl.ldsDone.contains t) = true) :
    ∃ n, exec (.recoverLd ld batches) s = .next n ∧ recovering n = false
      ∧ n.jrnl = (ldRecovered s0 ld (soundBatches s0 there batches)).jrnl
      ∧ regGet n (bndReg 0x20) = (lastJseq (soundBatches s0 there batches) + 1) % 2 ^ 64
      ∧ n.rqt = (rebuilt s0 ld (soundBatches s0 there batches)).rqt ∧ n.work = (rebuilt s0 ld (soundBatches s0 there batches)).work
      ∧ n.ops = (rebuilt s0 ld (soundBatches s0 there batches)).ops
      ∧ (wholeImages s0 ld (soundBatches s0 there batches) = [] → n.rqt = s.rqt ∧ regsBut [bndReg 0x20, bndReg 0x30] s0 n) := by
  have hexec := exec_recoverLd (batches := batches) hrec hnew hring
  rw [if_neg (not_and_of_held hheld), if_pos hall] at hexec
  have hfields := recoveryEnded_fields (ldRecovered s0 ld (soundBatches s0 there batches)) (lastJseq (soundBatches s0 there batches) + 1)
  generalize recoveryEnded _ _ = n at hexec hfields
  obtain ⟨hrqt, hwork, hops, hjrnl, hdone, hjseq, hregs⟩ := hfields
  refine ⟨n, hexec, hdone, hjrnl, hjseq, hrqt, hwork, hops, fun hnone => ?_⟩
  have hv := rebuilt_nil hnone
  refine ⟨hrqt.trans ((congrArg State.rqt hv).trans (ringSource_accessed hring).rqt), ?_⟩
  exact regsBut_trans (regsBut_of_regs (congrArg State.regs hv)) hregs

end
end

/-- Settles O31: each clause is the equation of its command on the case, and the reads of the registers it writes. -/
theorem journalAndRecovery : Obligations.JournalAndRecovery := by
  refine ⟨fun s => ⟨fun hbusy hstale => ⟨?_, ?_⟩, exec_journalBatchDone_stale, fun val => ?_⟩, fun s => ⟨?_, ?_, ?_⟩⟩
  case refine_1 => exact journalBatchDone_written hbusy hstale
  case refine_2 => exact fun error => journalBatchDone_failed hbusy hstale
  case refine_3 => exact ⟨_, exec_jrnlTailWrite s val, rfl, regGet_jrnlTail s val, regsBut_regSet _ _ _⟩
  case refine_4 =>
    exact fun m p t hlive hgate => ⟨startRecovery_starts hlive hgate, exec_startRecovery_refused hlive hgate⟩
  case refine_5 => exact fun ld batches => exec_recoverLd_nothing batches
  case refine_6 =>
    exact fun ld batches s0 there hrec hnew hring =>
      ⟨recoverLd_ends hrec hnew hring, recoverLd_goesOn hrec hnew hring, recoverLd_waits hrec hnew hring⟩

end Sys2Proof.Machine
end

section
/-! # The bundle operation of an entry -/

namespace Sys2Proof.Machine

theorem entry_of_opOf {s : State} {i : Nat} {o : BundleOp} (h : opOf s i = some o) : o.entry = i := by
  simpa using List.find?_some h

theorem opOf_dropOp (s : State) (i : Nat) : opOf (dropOp s i) i = none := by
  simp [opOf, dropOp, List.find?_eq_none]

theorem opOf_append {s : State} {i : Nat} {o : BundleOp} (hidle : opOf s i = none) (ho : o.entry = i) :
    opOf { s with ops := s.ops ++ [o] } i = some o := by
  have hnone : s.ops.find? (fun o => o.entry == i) = none := hidle
  simp [opOf, List.find?_append, hnone, ho]

theorem opOf_setOp {s : State} {i : Nat} {o x : BundleOp} (h : opOf s i = some o) (hx : x.entry = i) : opOf (setOp s x) i = some x := by
  have hfind : s.ops.find? (fun o => o.entry == i) = some o := h
  have hsame : (fun o => o.entry == i) ∘ (fun y : BundleOp => if y.entry = x.entry then x else y) = fun o => o.entry == i := by
    funext y
    by_cases hy : y.entry = i <;> simp [hx, hy]
  rw [opOf, setOp, List.find?_map, hsame, hfind]
  simp [entry_of_opOf h, hx]

end Sys2Proof.Machine
end

section
/-! # Bundle commands and bundle writes (O29) -/

namespace Sys2Proof.Machine

/-! ### Steps beside the bundle operations -/

/-- Every entry, every bundle operation and the registers of BND are as they were. -/
structure SameBundles (s n : State) : Prop where
  rqt  : n.rqt = s.rqt
  ops  : n.ops = s.ops
  regs : ∀ o, BndReg o → regGet n o = regGet s o

theorem SameBundles.refl (s : State) : SameBundles s s := ⟨rfl, rfl, fun _ _ => rfl⟩

theorem SameBundles.trans {s t u : State} (a : SameBundles s t) (b : SameBundles t u) : SameBundles s u :=
  ⟨b.rqt.trans a.rqt, b.ops.trans a.ops, fun o ho => (b.regs o ho).trans (a.regs o ho)⟩

theorem Accessed.sameBundles {s n : State} (h : Accessed s n) : SameBundles s n := ⟨h.rqt, h.ops, h.regs⟩

section
variable {s n : State} (h : SameBundles s n)
include h

theorem SameBundles.entryOf (i : Nat) : entryOf n i = entryOf s i := by rw [Machine.entryOf, h.rqt]; rfl
theorem SameBundles.opOf (i : Nat) : opOf n i = opOf s i := by rw [Machine.opOf, h.ops]; rfl

end

theorem setWork_sameBundles (s : State) (i : Nat) (w : Work) : SameBundles s (setWork s i w) := ⟨rfl, rfl, fun _ _ => rfl⟩

theorem jrnlPut_sameBundles (s : State) (i ty : Nat) (body : List Byte) : SameBundles s (jrnlPut s i ty body) :=
  ⟨rfl, rfl, fun _ _ => rfl⟩

theorem flushProgress_sameBundles (s : State) (i : Nat) : SameBundles s (flushProgress s i) := by
  unfold flushProgress
  extract_lets w u
  have hu : SameBundles s u := foldl_rel SameBundles.refl (fun _ _ _ => SameBundles.trans) _ s fun s b _ => jrnlPut_sameBundles s i 4 b
  split
  · exact .refl s
  · exact hu.trans (setWork_sameBundles ..)

theorem putRecord_sameBundles (s : State) (q : Fin 128) (bs : List Byte) (compl : Bool) : SameBundles s (putRecord s q bs compl) := by
  unfold putRecord
  extract_lets u k phase bs' s1
  have hstore : Accessed s s1 := tvaStore_accessed ..
  exact hstore.sameBundles.trans ⟨rfl, rfl, fun _ _ => rfl⟩

theorem postRecord_sameBundles (s : State) (t : LdId) (q : Fin 128) (bs : List Byte) (compl place : Bool) :
    SameBundles s (postRecord s t q bs compl place) := by
  unfold postRecord
  extract_lets u s1 v own
  have hput : SameBundles s s1 := putRecord_sameBundles ..
  split
  · split
    · exact hput.trans (setTen_accessed ..).sameBundles
    · exact hput
  · exact (setTen_accessed ..).sameBundles

theorem bundleRecord_sameBundles (s : State) (i status committed : Nat) (quote : Option Nat) :
    SameBundles s (bundleRecord s i status committed quote) :=
  (postRecord_sameBundles ..).trans (setWork_sameBundles ..)

/-! ### The parts of an operation that touch memory alone -/

theorem pageDrop_accessed (s : State) (t a : Nat) : Accessed s (pageDrop s t false a) := by
  unfold pageDrop
  split
  · exact .refl s
  · rw [if_neg (by simp)]
    exact setPages_accessed ..

theorem snapRefs_accessed (s : State) (i : Nat) (o : BundleOp) (take : Bool) : Accessed s (snapRefs s i o take) :=
  accessed_foldl _ s fun s _ _ => accessed_foldl _ s fun _ _ _ => accessed_ite (setPages_accessed ..) (pageDrop_accessed ..)

theorem unstage_accessed (s : State) (o : BundleOp) : Accessed s (unstage s o) :=
  accessed_foldl _ s fun s f _ => setTag_accessed s f .free

theorem touchBundle_accessed (s : State) (i : Nat) (o : BundleOp) : Accessed s (touchBundle s i o) :=
  accessed_foldl _ s fun s _ _ => accessed_ite (accessed_foldl _ s fun s a _ => devTouch_accessed s _ a _) (.refl s)

theorem stageBundle_accessed (s : State) (t : Nat) (o : BundleOp) : Accessed s (stageBundle s t o).1 :=
  (accessed_foldl _ s fun s f _ => giveFrame_accessed s f _).trans (accessed_foldl _ _ fun s _ _ => memStore_accessed s _ _)

theorem entryOf_of_rqt {s n : State} (h : n.rqt = s.rqt) (i : Nat) : entryOf n i = entryOf s i := by rw [entryOf, h]; rfl

theorem opOf_of_ops {s n : State} (h : n.ops = s.ops) (i : Nat) : opOf n i = opOf s i := by rw [opOf, h]; rfl

theorem workOf_of_work {s n : State} (h : n.work = s.work) (i : Nat) : workOf n i = workOf s i := by rw [workOf, h]; rfl

/-! ### An operation given up (R290) -/

/-- What stays of a bundle operation's state before its entry is set and its record written. -/
def opGone (s : State) (i : Nat) (o : BundleOp) : State := unstage (dropOp (snapRefs s i o false) i) o

theorem opGone_spec (s : State) (i : Nat) (o : BundleOp) :
    (opGone s i o).rqt = s.rqt ∧ (opGone s i o).work = s.work ∧ opOf (opGone s i o) i = none
      ∧ ∀ r, BndReg r → regGet (opGone s i o) r = regGet s r := by
  have hrefs := snapRefs_accessed s i o false
  have hstage := unstage_accessed (dropOp (snapRefs s i o false) i) o
  refine ⟨hstage.rqt.trans hrefs.rqt, hstage.work.trans hrefs.work, ?_, fun r hr => (hstage.regs r hr).trans (hrefs.regs r hr)⟩
  rw [opGone, hstage.opOf, opOf_dropOp]

theorem abandonBundle_opOf (s : State) (i : Nat) (o : BundleOp) (status : Nat) : opOf (abandonBundle s i o status) i = none := by
  obtain ⟨-, -, hop, -⟩ := opGone_spec s i o
  refine (bundleRecord_sameBundles ..).opOf i |>.trans ?_
  split
  · exact hop
  · exact hop

theorem abandonBundle_export (s : State) (i : Nat) {o : BundleOp} (status : Nat) (hk : o.kind ≠ 1) :
    entryOf (abandonBundle s i o status) i = entryOf s i := by
  obtain ⟨hrqt, -, -, -⟩ := opGone_spec s i o
  refine (bundleRecord_sameBundles ..).entryOf i |>.trans ?_
  rw [if_neg hk]
  exact entryOf_of_rqt hrqt _

theorem abandonBundle_park (s : State) (i : Nat) {o : BundleOp} (status : Nat) (hk : o.kind = 1)
    (hleft : (workOf s i).leftState ≠ .free) :
    entryOf (abandonBundle s i o status) i = { entryOf s i with state := (workOf s i).leftState, bundle := 0 } := by
  obtain ⟨-, hwork, -, -⟩ := opGone_spec s i o
  have hw : workOf (opGone s i o) i = workOf s i := by rw [workOf, hwork]; rfl
  refine (bundleRecord_sameBundles ..).entryOf i |>.trans ?_
  rw [if_pos hk]
  change entryOf (setEntry (opGone s i o) i { entryOf s i with state := (workOf (opGone s i o) i).leftState, bundle := 0 }) i = _
  rw [hw, entryOf_setEntry _ _ (by exact hleft)]

/-- What the statement says of an operation that is given up. -/
theorem abandonBundle_spec {s v : State} {i : Nat} (o : BundleOp) (status : Nat) (hentry : entryOf v i = entryOf s i)
    (hwork : workOf v i = workOf s i) :
    opOf (abandonBundle v i o status) i = none
      ∧ (o.kind = 0 → entryOf (abandonBundle v i o status) i = entryOf s i)
      ∧ (o.kind = 1 → (workOf s i).leftState ≠ .free →
        (entryOf (abandonBundle v i o status) i).state = (workOf s i).leftState
          ∧ (entryOf (abandonBundle v i o status) i).bundle = 0) := by
  refine ⟨abandonBundle_opOf .., fun hk => ?_, fun hk hleft => ?_⟩
  · rw [abandonBundle_export v i status (by omega), hentry]
  · rw [abandonBundle_park v i status hk (by rw [hwork]; exact hleft), hwork]
    exact ⟨rfl, rfl⟩

/-! ### EXPORT and PARK (R285) -/

theorem ownNode_piecesWrote (s : State) (ps : List (Nat × Nat)) : ownNode (piecesWrote s ps) = ownNode s := by
  have hslice : ∀ s ps, regGet (slicesWrote s ps) (rlReg 0 0x1000) = regGet s (rlReg 0 0x1000) := fun s ps => by
    refine foldl_reads (g := fun s => regGet s (rlReg 0 0x1000)) _ s fun s d _ => ?_
    have hmc : rlReg 0 0x1000 ≠ mcReg d 0x18 := by unfold rlReg mcReg feReg; omega
    dsimp only
    split
    · rfl
    · rw [regGet_disarm _ _ _ (by decide), regGet_regBump, if_neg hmc]
  have hline : ∀ s x, regGet (hbmWrote s x) (rlReg 0 0x1000) = regGet s (rlReg 0 0x1000) := fun s x => by
    unfold hbmWrote
    dsimp only
    split
    · rfl
    · split
      · exact regGet_regPut_ne _ _ _ _ (by decide)
      · rfl
  have hall : regGet (piecesWrote s ps) (rlReg 0 0x1000) = regGet s (rlReg 0 0x1000) :=
    (foldl_reads (g := fun s => regGet s (rlReg 0 0x1000)) ps _ fun s x _ => hline s x).trans (hslice ..)
  rw [ownNode, regField, hall]
  rfl

theorem ownNode_congr {s n : State} (h : n.regs = s.regs) : ownNode n = ownNode s := by rw [ownNode, regField, regGet_congr h]; rfl

theorem ownNode_giveFrame (s : State) (f : Nat) (t : Tag) : ownNode (giveFrame s f t) = ownNode s :=
  (ownNode_piecesWrote ..).trans (ownNode_congr rfl)

theorem ownNode_memStore (s : State) (a : Nat) (bs : List Byte) : ownNode (memStore s a bs) = ownNode s :=
  (ownNode_piecesWrote ..).trans (ownNode_congr rfl)

theorem ownNode_stageBundle (s : State) (t : Nat) (o : BundleOp) : ownNode (stageBundle s t o).1 = ownNode s := by
  unfold stageBundle
  extract_lets fs s1 s2
  have h1 : ownNode s1 = ownNode s := foldl_reads (g := ownNode) _ s fun s f _ => ownNode_giveFrame s f _
  have h2 : ownNode s2 = ownNode s1 := foldl_reads (g := ownNode) _ s1 fun s x _ => ownNode_memStore s _ _
  exact h2.trans h1

theorem ownNode_snapRefs (s : State) (i : Nat) (o : BundleOp) : ownNode (snapRefs s i o true) = ownNode s :=
  foldl_reads (g := ownNode) _ s fun s _ _ => foldl_reads (g := ownNode) _ s fun _ _ _ => rfl

/-- An operation that holds the pages of its entry's blocks. -/
def holdOp (v : State) (i : Nat) (o : BundleOp) : State := snapRefs { v with ops := v.ops ++ [o] } i o true

theorem holdOp_spec (v : State) (i : Nat) (o : BundleOp) :
    (holdOp v i o).rqt = v.rqt ∧ (holdOp v i o).ops = v.ops ++ [o] ∧ ownNode (holdOp v i o) = ownNode v := by
  have hrefs := snapRefs_accessed { v with ops := v.ops ++ [o] } i o true
  exact ⟨hrefs.rqt, hrefs.ops, (ownNode_snapRefs ..).trans (ownNode_congr rfl)⟩

section
variable (s : State) (i kind addr : Nat)

/-- The bundle that a command begins: its length and the snapshot of its entry. -/
def snapshot : BundleOp :=
  let e := entryOf s i
  let m := modelOf s e
  let rows := carried s i
  let lay := bundleLay rows.length m.vocab
  let table := placeBlocks m lay.data rows
  { entry := i, kind := kind, addr := addr, len := totalLen m lay.data table, bundleId := drawReg s, committed := e.committed
    table := table, stateRec := stateRecord s i, startAt := rqtNow s }

/-- The same with its staging, and the time from which it waits for its peer. -/
def stagedOp : BundleOp :=
  { (stageBundle (tickFree s) (entryOf s i).ld (snapshot s i kind addr)).2 with
    stallAt := if raileOpen s addr then none else some (rqtNow s) }

/-- The state in which it holds its pages. -/
def opHeld : State := holdOp (stageBundle (tickFree s) (entryOf s i).ld (snapshot s i kind addr)).1 i (stagedOp s i kind addr)

/-- The state before its first write. -/
def opStarted : State :=
  if kind = 1 then
    setWork (setEntry (opHeld s i kind addr) i { entryOf s i with state := .parking, bundle := addr }) i
      { workOf (opHeld s i kind addr) i with leftState := (entryOf s i).state, changed := true }
  else opHeld s i kind addr

variable {s i kind addr}

theorem opHeld_spec :
    (opHeld s i kind addr).rqt = s.rqt ∧ (opHeld s i kind addr).ops = s.ops ++ [stagedOp s i kind addr]
      ∧ ownNode (opHeld s i kind addr) = ownNode s := by
  have hstage := (tickFree_accessed s).trans (stageBundle_accessed (tickFree s) (entryOf s i).ld (snapshot s i kind addr))
  have hnode := (ownNode_stageBundle (tickFree s) (entryOf s i).ld (snapshot s i kind addr)).trans (ownNode_congr rfl)
  obtain ⟨hrqt, hops, hown⟩ :=
    holdOp_spec (stageBundle (tickFree s) (entryOf s i).ld (snapshot s i kind addr)).1 i (stagedOp s i kind addr)
  rw [hstage.rqt] at hrqt
  rw [hstage.ops] at hops
  exact ⟨hrqt, hops, hown.trans hnode⟩

theorem opStarted_ops : (opStarted s i kind addr).ops = s.ops ++ [stagedOp s i kind addr] := by
  obtain ⟨-, hops, -⟩ := opHeld_spec (s := s) (i := i) (kind := kind) (addr := addr)
  unfold opStarted
  split
  · exact hops
  · exact hops

theorem ownNode_opStarted : ownNode (opStarted s i kind addr) = ownNode s := by
  obtain ⟨-, -, hnode⟩ := opHeld_spec (s := s) (i := i) (kind := kind) (addr := addr)
  unfold opStarted
  split
  · exact hnode
  · exact hnode

theorem raileStore_far {s : State} {addr : Nat} (ctx : Nat) (bs : List Byte) (h : addr / 2 ^ 52 ≠ ownNode s) :
    raileStore s ctx addr bs = (sendWrites ctx (nextOp s) (bs.length / 4096 + 1) addr bs (useOp s), true) := if_neg h

/-- The first write of an operation that has started, while its peer can be reached. -/
def firstWrite (v : State) (i : Nat) (e : Entry) (o : BundleOp) (addr : Nat) : State :=
  if !raileOpen v addr then v
  else
    let r := raileStore v e.ld addr (headStart v e o)
    if r.2 then setOp r.1 { o with begun := true } else abandonBundle r.1 i o 0x0106

theorem startBundle_eq (region : Nat) :
    startBundle s i kind addr region =
      if (opOf s i).isSome then bundleRecord s i 0x0103 (entryOf s i).committed none
      else if !retained (entryOf s i) || (workOf s i).releaseReq then bundleRecord s i 0x010C (entryOf s i).committed none
      else if (carried s i).any (fun x => bitAt x.2.2 1 && !bitAt x.2.2 0) then bundleRecord s i 0x0104 (entryOf s i).committed none
      else if region < (snapshot s i kind addr).len then bundleRecord s i 0x0105 (entryOf s i).committed none
      else firstWrite (opStarted s i kind addr) i (entryOf s i) (stagedOp s i kind addr) addr := rfl

/-- A first write at another node is not denied. -/
theorem firstWrite_far {v : State} {e : Entry} (o : BundleOp) (hnode : addr / 2 ^ 52 ≠ ownNode v) :
    firstWrite v i e o addr =
      if raileOpen v addr then setOp (raileStore v e.ld addr (headStart v e o)).1 { o with begun := true } else v := by
  unfold firstWrite
  cases raileOpen v addr
  case false => rw [if_pos (by decide), if_neg (by decide)]
  case true => rw [if_neg (by decide), if_pos rfl, raileStore_far _ _ hnode, if_pos rfl]

/-- The checks of R285 passed, the operation is held, and its first write is sent. -/
theorem startBundle_passed {region : Nat} (hidle : opOf s i = none) (hret : retained (entryOf s i) = true)
    (hrel : (workOf s i).releaseReq = false) (hfork : (carried s i).any (fun x => bitAt x.2.2 1 && !bitAt x.2.2 0) = false)
    (hroom : (snapshot s i kind addr).len ≤ region) :
    startBundle s i kind addr region = firstWrite (opStarted s i kind addr) i (entryOf s i) (stagedOp s i kind addr) addr := by
  rw [startBundle_eq, if_neg (by simp [hidle]), if_neg (by simp [hret, hrel]), if_neg (by rw [hfork]; decide),
    if_neg (Nat.not_lt.2 hroom)]

/-- What the statement says of the operation that has begun. -/
theorem startBundle_spec {region : Nat} (hidle : opOf s i = none) (hret : retained (entryOf s i) = true)
    (hrel : (workOf s i).releaseReq = false) (hfork : (carried s i).any (fun x => bitAt x.2.2 1 && !bitAt x.2.2 0) = false)
    (hroom : (snapshot s i kind addr).len ≤ region) (hnode : addr / 2 ^ 52 ≠ ownNode s) :
    let n := startBundle s i kind addr region
    (∃ o, opOf n i = some o ∧ o.kind = kind ∧ o.addr = addr ∧ o.len = (snapshot s i kind addr).len
      ∧ o.committed = (entryOf s i).committed ∧ n.ops.length = s.ops.length + 1)
    ∧ n.rqt = (opStarted s i kind addr).rqt ∧ n.work = (opStarted s i kind addr).work := by
  have hops : (opStarted s i kind addr).ops = s.ops ++ [stagedOp s i kind addr] := opStarted_ops
  have hop : opOf (opStarted s i kind addr) i = some (stagedOp s i kind addr) := by
    have happend := opOf_append (o := stagedOp s i kind addr) hidle rfl
    rw [opOf, hops]
    exact happend
  have hlen : (opStarted s i kind addr).ops.length = s.ops.length + 1 := by rw [hops, List.length_append]; rfl
  intro n
  have hn : n = _ := (startBundle_passed hidle hret hrel hfork hroom).trans (firstWrite_far _ (by rw [ownNode_opStarted]; exact hnode))
  clear_value n
  split at hn
  · have hstore := raileStore_accessed (opStarted s i kind addr) (entryOf s i).ld addr
      (headStart (opStarted s i kind addr) (entryOf s i) (stagedOp s i kind addr))
    subst hn
    refine ⟨⟨_, opOf_setOp ((hstore.opOf i).trans hop) rfl, rfl, rfl, rfl, rfl, ?_⟩, hstore.rqt, hstore.work⟩
    exact (List.length_map ..).trans ((congrArg List.length hstore.ops).trans hlen)
  · subst hn
    exact ⟨⟨_, hop, rfl, rfl, rfl, rfl, hlen⟩, rfl, rfl⟩

/-- EXPORT leaves its entry. -/
theorem opStarted_export : (opStarted s i 0 addr).rqt = s.rqt := by
  obtain ⟨hrqt, -, -⟩ := opHeld_spec (s := s) (i := i) (kind := 0) (addr := addr)
  exact hrqt

/-- A park's entry is PARKING, and the state that it left is kept. -/
theorem opStarted_park :
    entryOf (opStarted s i 1 addr) i = { entryOf s i with state := .parking, bundle := addr }
      ∧ (workOf (opStarted s i 1 addr) i).leftState = (entryOf s i).state :=
  ⟨entryOf_setEntry (opHeld s i 1 addr) i (e := { entryOf s i with state := .parking, bundle := addr }) nofun,
    congrArg Work.leftState (workOf_setWork_same ..)⟩

end

/-- A completion place taken. -/
def placed (s : State) (t : LdId) : State := setTen s t { ten s t with places := (ten s t).places + 1 }

/-- The operation that LIFT begins. -/
def commandedLift (s : State) (p : List Byte) (i : Nat) : BundleOp :=
  { entry := i, kind := 2, addr := fld p 0x10 8, len := 0, bundleId := 0, committed := 0, requote := bitAt (fld p 0x0C 1) 1
    pxtInsert := bitAt (fld p 0x0C 1) 2, deadline := if fld p 0x18 4 = 0 then 0 else rqtNow s + fld p 0x18 4 * 100
    isNew := bitAt (fld p 0x0C 1) 0, startAt := rqtNow s }

/-- What LIFT makes of the state with its entry. -/
def liftBegun (v : State) (p : List Byte) (i : Nat) : State :=
  markChanged (setEntry { v with ops := v.ops ++ [commandedLift v p i] } i
    { entryOf v i with state := .lifting, bundle := fld p 0x10 8 }) i

/-- What the statement says of a lift that has begun. -/
theorem reply_liftBegun {s v : State} {t : LdId} (m : Mbox) (p : List Byte) (i : Nat) (hops : v.ops = s.ops)
    (hlds : v.lds = (placed s t).lds) :
    let n := reply (liftBegun v p i) m 0 (bruahOut 0 [])
    ((mboxOf n m).ret = 0 ∧ (mboxOf n m).outp = bruahOut 0 []
      ∧ (entryOf n i).state = .lifting ∧ (entryOf n i).bundle = fld p 0x10 8 ∧ (ten n t).places = (ten s t).places + 1
      ∧ n.ops.length = s.ops.length + 1 ∧ ∃ o ∈ n.ops, o.entry = i ∧ o.kind = 2 ∧ o.addr = fld p 0x10 8 ∧ o.headerOk = false)
    ∧ entryOf n i = { entryOf v i with state := .lifting, bundle := fld p 0x10 8 } := by
  intro n
  have hbox : mboxOf n m = { mboxOf (liftBegun v p i) m with ret := 0, outp := bruahOut 0 [] } := mboxOf_reply ..
  have hentry : entryOf n i = { entryOf v i with state := .lifting, bundle := fld p 0x10 8 } :=
    entryOf_setEntry { v with ops := v.ops ++ [commandedLift v p i] } i
      (e := { entryOf v i with state := .lifting, bundle := fld p 0x10 8 }) nofun
  have hten : ten n t = { ten s t with places := (ten s t).places + 1 } :=
    (congrArg (fun l : Vector Tenant 16 => l[t]) hlds).trans (ten_setTen ..)
  have hlist : n.ops = s.ops ++ [commandedLift v p i] := congrArg (· ++ [commandedLift v p i]) hops
  refine ⟨⟨by rw [hbox], by rw [hbox], by rw [hentry], by rw [hentry], by rw [hten], by rw [hlist, List.length_append]; rfl,
    commandedLift v p i, ?_, rfl, rfl, rfl, rfl⟩, hentry⟩
  rw [hlist]
  exact List.mem_append_right _ List.mem_cons_self

/-- The state with the entry that LIFT adds. -/
def liftEntered (s : State) (t : LdId) (p : List Byte) : State :=
  (liftNew (placed s t) t (fld p 0x0D 1) (fld p 8 4) (fld p 0x0E 2) (fld p 0x1C 1)).1

theorem liftNew_index (s : State) (t : LdId) (q tag image lp : Nat) : (liftNew s t q tag image lp).2 = freeIndex s := by
  unfold liftNew
  dsimp only

theorem freeIndex_placed (s : State) (t : LdId) : freeIndex (placed s t) = freeIndex s := by
  unfold freeIndex
  rfl

/-- The entry that LIFT adds has the tag, the queue and the image named. -/
theorem entryOf_liftEntered (s : State) (t : LdId) (p : List Byte) :
    (entryOf (liftEntered s t p) (freeIndex s)).tag = fld p 8 4 ∧ (entryOf (liftEntered s t p) (freeIndex s)).ld = t.val
      ∧ (entryOf (liftEntered s t p) (freeIndex s)).queue = fld p 0x0D 1
      ∧ (entryOf (liftEntered s t p) (freeIndex s)).image = fld p 0x0E 2 := by
  rw [← freeIndex_placed s t]
  unfold liftEntered liftNew
  extract_lets i e
  have hentry : entryOf (setWork (setEntry (placed s t) i e) i { changed := true }, i).1 i = e :=
    entryOf_setEntry (placed s t) i (e := e) (show RqState.lifting ≠ .free from nofun)
  rw [show freeIndex (placed s t) = i from rfl, hentry]
  exact ⟨rfl, rfl, rfl, rfl⟩

section
variable {s : State} {m : Mbox} {p : List Byte} {t : LdId} (hlive : mboxLive s m = true) (halign : fld p 0x10 8 % 4096 = 0)
include hlive halign

section
variable (hgate : gate s { len := 0x20 } m p (!zeroAt p 0x0C 4) = .ok t)
include hgate

/-- A tag that an entry of the LD has. -/
theorem bundleCmd_found {i : Nat} {e : Entry} (kind : Nat) (hfound : byTag s t.val (fld p 8 4) = some (i, e))
    (hplaces : (ten s t).places < 4096) :
    bundleCmd kind m p s = .next (reply (startBundle (placed s t) i kind (fld p 0x10 8) (fld p 0x18 8)) m 0 (bruahOut 0 [])) := by
  refine (bruah_ok hlive hgate _).trans ?_
  rw [if_neg (not_not.2 halign), hfound]
  dsimp only
  rw [if_neg (Nat.not_le.2 hplaces)]
  rfl

/-- A tag that none has. -/
theorem bundleCmd_unknown (kind : Nat) (hfound : byTag s t.val (fld p 8 4) = none) :
    bundleCmd kind m p s = .next (reply s m 0 (bruahOut 3 [])) := by
  refine (bruah_ok hlive hgate _).trans ?_
  rw [if_neg (not_not.2 halign), hfound]

end

section
variable (hgate : gate s { len := 0x1D } m p (decide (8 ≤ fld p 0x0C 1)) = .ok t) (hplaces : (ten s t).places < 4096)
include hgate hplaces

theorem exec_lift_parked {i : Nat} {e : Entry} (hold : bitAt (fld p 0x0C 1) 0 = false)
    (hfound : byTag s t.val (fld p 8 4) = some (i, e)) (hparked : e.state = .parked) (hrel : (workOf s i).releaseReq = false)
    (hidle : opOf s i = none) :
    exec (.lift m p) s = .next (reply (liftBegun (placed s t) p i) m 0 (bruahOut 0 [])) := by
  refine (bruah_ok hlive hgate _).trans ?_
  dsimp only
  rw [hfound]
  dsimp only
  rw [if_neg (by simp [halign, hold]), if_neg (by simp [hparked, hrel]), if_neg (by simp [hold]), if_neg (by simp [hold]),
    if_neg (Nat.not_le.2 hplaces), if_neg (by simp [hidle]), if_neg (by simp [hold]), if_neg (by simp [hold])]
  rfl

theorem exec_lift_new (hnew : bitAt (fld p 0x0C 1) 0 = true) (htag : fld p 8 4 < 2 ^ 31)
    (hunused : tagUsed s t.val (fld p 8 4) none = false) (hq : fld p 0x0D 1 < 128) (hld : queueLd s (fld p 0x0D 1) = t.val)
    (hroom : entriesFree s t.val 1 = true) :
    exec (.lift m p) s = .next (reply (liftBegun (liftEntered s t p) p (freeIndex s)) m 0 (bruahOut 0 [])) := by
  rw [← freeIndex_placed s t]
  refine (bruah_ok hlive hgate _).trans ?_
  dsimp only
  rw [if_neg (by simpa [halign] using fun _ => htag), if_neg (by simp [hnew]), if_neg (by simp [hunused]), if_neg (by simp [hq, hld]),
    if_neg (Nat.not_le.2 hplaces), if_neg (by simp [hnew]), if_neg, if_pos hnew]
  case hnc =>
    rw [hnew, Bool.true_and, Bool.not_eq_true', Bool.not_eq_false]
    exact hroom
  rw [liftNew_index]
  rfl

end
end

/-! ### BUNDLE_WRITTEN (R287, R288) -/

theorem markChanged_regs (s : State) (i : Nat) : (markChanged s i).regs = s.regs := rfl

theorem markChanged_rqt (s : State) (i : Nat) : (markChanged s i).rqt = s.rqt := rfl

theorem markChanged_ops (s : State) (i : Nat) : (markChanged s i).ops = s.ops := rfl

theorem endPark_regs (s : State) (i : Nat) (o : BundleOp) : (endPark s i o).regs = s.regs := rfl

theorem endPark_ops (s : State) (i : Nat) (o : BundleOp) : (endPark s i o).ops = s.ops := rfl

theorem entryOf_endPark (s : State) (i : Nat) (o : BundleOp) :
    entryOf (endPark s i o) i = { entryOf s i with state := .parked, bundle := o.addr } :=
  entryOf_setEntry s i (e := { entryOf s i with state := .parked, bundle := o.addr }) nofun

section
variable (s : State) (i : Nat) (o : BundleOp)

/-- The parts of a bundle in order: the start of its header unless it has been written, then what is sealed. -/
def bundleParts : List (Nat × List Byte) := (if o.begun then [] else [(o.addr, headStart s (entryOf s i) o)]) ++ (sealBundle s i o).1

/-- The parts written, until one is denied. -/
def bundleSent : State × Bool × Nat := raileStores (touchBundle s i o) (entryOf s i).ld (bundleParts s i o) 0

/-- The same, with the bytes counted. -/
def bundleCounted : State :=
  meterMem (regBump (bundleSent s i o).1 (bndReg 0x70) (bundleSent s i o).2.2) (.entry i) (bundleSent s i o).2.2

/-- The operation ended, and its BUNDLE record due. -/
def bundleClosed : State :=
  jrnlPut (flushProgress (opGone (bundleCounted s i o) i o) i) i 5 (bundleBody o (entryOf s i).queue (sealBundle s i o).2)

variable {s i o}

theorem bundleSent_accessed : Accessed s (bundleSent s i o).1 := (touchBundle_accessed ..).trans (raileStores_accessed ..)

theorem bundleCounted_spec :
    (bundleCounted s i o).rqt = s.rqt ∧ workOf (bundleCounted s i o) i = workOf s i
      ∧ ∀ r, BndReg r → regGet (bundleCounted s i o) r
        = if r = bndReg 0x70 then (regGet s r + (bundleSent s i o).2.2) % 2 ^ 64 else regGet s r := by
  have hsent : Accessed s (bundleSent s i o).1 := bundleSent_accessed
  refine ⟨?_, ?_, fun r hr => ?_⟩
  · exact (regBump_rqt ..).trans hsent.rqt
  · rw [bundleCounted, workOf, meterMem, regBump_work, hsent.work]
    rfl
  · refine (regGet_regBump ..).trans ?_
    rw [hsent.regs r hr, hsent.regs _ (by decide)]
    by_cases h70 : r = bndReg 0x70
    · rw [if_pos h70, if_pos h70, h70]
    · rw [if_neg h70, if_neg h70]

theorem bundleClosed_spec :
    (bundleClosed s i o).rqt = s.rqt ∧ opOf (bundleClosed s i o) i = none
      ∧ ∀ r, BndReg r → regGet (bundleClosed s i o) r
        = if r = bndReg 0x70 then (regGet s r + (bundleSent s i o).2.2) % 2 ^ 64 else regGet s r := by
  obtain ⟨hrqt, -, hregs⟩ := bundleCounted_spec (s := s) (i := i) (o := o)
  obtain ⟨grqt, -, gop, gregs⟩ := opGone_spec (bundleCounted s i o) i o
  have hsame : SameBundles (opGone (bundleCounted s i o) i o) (bundleClosed s i o) :=
    (flushProgress_sameBundles ..).trans (jrnlPut_sameBundles ..)
  exact ⟨hsame.rqt.trans (grqt.trans hrqt), (hsame.opOf i).trans gop,
    fun r hr => (hsame.regs r hr).trans ((gregs r hr).trans (hregs r hr))⟩

/-- A bundle that ends counts its bytes and itself, and has its record. -/
theorem bundleEnded_spec {c : State} {off status : Nat} (hoff : BndReg off) (hne : off ≠ bndReg 0x70)
    (hregs : ∀ r, BndReg r → regGet c r = regGet (bundleClosed s i o) r) :
    let n := bundleRecord (regBump c off 1) i status o.committed none
    opOf n i = opOf c i ∧ entryOf n i = entryOf c i ∧ rises (bndReg 0x70) (bundleSent s i o).2.2 s n ∧ rises off 1 s n := by
  intro n
  obtain ⟨-, -, hclosed⟩ := bundleClosed_spec (s := s) (i := i) (o := o)
  have hsame : SameBundles (regBump c off 1) n := bundleRecord_sameBundles ..
  refine ⟨(hsame.opOf i).trans ?_, (hsame.entryOf i).trans ?_, ?_, ?_⟩
  · rw [opOf, regBump_ops]; rfl
  · rw [entryOf, regBump_rqt]; rfl
  · rw [rises, hsame.regs _ (by decide), regGet_regBump, if_neg hne.symm, hregs _ (by decide), hclosed _ (by decide), if_pos rfl]
  · rw [rises, hsame.regs _ hoff, regGet_regBump, if_pos rfl, hregs _ hoff, hclosed _ hoff, if_neg hne]

end

section
variable {s : State} {i : Fin 4096} {o : BundleOp} (hop : opOf s i.val = some o) (hk : o.kind < 2)
include hop hk

theorem exec_bundleWritten_open (hopen : raileOpen s o.addr = true) :
    exec (.bundleWritten i) s = .next (
      if !(bundleSent s i.val o).2.1 then abandonBundle (bundleCounted s i.val o) i.val o 0x0106
      else if o.kind = 0 then
        bundleRecord (regBump (markChanged (bundleClosed s i.val o) i.val) (bndReg 0x40) 1) i.val 0x0100 o.committed none
      else bundleRecord (regBump (endPark (bundleClosed s i.val o) i.val o) (bndReg 0x48) 1) i.val 0x0101 o.committed none) := by
  have hparts : (if o.begun then (sealBundle s i.val o).1 else (o.addr, headStart s (entryOf s i.val) o) :: (sealBundle s i.val o).1)
      = bundleParts s i.val o := by
    unfold bundleParts
    split <;> rfl
  change execBundleWritten i s = _
  unfold execBundleWritten
  rw [hop]
  dsimp only
  rw [if_neg (Nat.not_le.2 hk), if_neg (by rw [hopen]; decide), hparts, apply_ite Host.Outcome.next, apply_ite Host.Outcome.next]
  rfl

theorem exec_bundleWritten_stalled (hopen : raileOpen s o.addr = false) :
    exec (.bundleWritten i) s = .next (setOp s { o with stallAt := some (o.stallAt.getD (rqtNow s)) }) := by
  change execBundleWritten i s = _
  unfold execBundleWritten
  rw [hop]
  dsimp only
  rw [if_neg (Nat.not_le.2 hk), if_pos (by rw [hopen]; rfl)]

/-- Every part written ends the operation. -/
theorem bundleWritten_whole (hopen : raileOpen s o.addr = true) (hwhole : (bundleSent s i.val o).2.1 = true) :
    ∃ n, exec (.bundleWritten i) s = .next n ∧ opOf n i.val = none ∧ rises (bndReg 0x70) (bundleSent s i.val o).2.2 s n
      ∧ (o.kind = 0 → entryOf n i.val = entryOf s i.val ∧ rises (bndReg 0x40) 1 s n)
      ∧ (o.kind = 1 → (entryOf n i.val).state = .parked ∧ (entryOf n i.val).bundle = o.addr ∧ rises (bndReg 0x48) 1 s n) := by
  obtain ⟨hrqt, hgone, -⟩ := bundleClosed_spec (s := s) (i := i.val) (o := o)
  have hexec := exec_bundleWritten_open hop hk hopen
  rw [if_neg (by rw [hwhole]; decide)] at hexec
  by_cases hexport : o.kind = 0
  case pos =>
    rw [if_pos hexport] at hexec
    obtain ⟨hnop, hnentry, hbytes, hcount⟩ := bundleEnded_spec (s := s) (i := i.val) (o := o) (off := bndReg 0x40) (status := 0x0100)
      (c := markChanged (bundleClosed s i.val o) i.val) (by decide) (by decide) (fun r _ => regGet_congr (markChanged_regs ..) r)
    have hentry := entryOf_of_rqt ((markChanged_rqt (bundleClosed s i.val o) i.val).trans hrqt) i.val
    have hend := hnop.trans ((opOf_of_ops (markChanged_ops (bundleClosed s i.val o) i.val) i.val).trans hgone)
    exact ⟨_, hexec, hend, hbytes, fun _ => ⟨hnentry.trans hentry, hcount⟩, fun h => absurd (hexport.symm.trans h) (by decide)⟩
  case neg =>
    rw [if_neg hexport] at hexec
    obtain ⟨hnop, hnentry, hbytes, hcount⟩ := bundleEnded_spec (s := s) (i := i.val) (o := o) (off := bndReg 0x48) (status := 0x0101)
      (c := endPark (bundleClosed s i.val o) i.val o) (by decide) (by decide) (fun r _ => regGet_congr (endPark_regs ..) r)
    have hentry := entryOf_endPark (bundleClosed s i.val o) i.val o
    have hend := hnop.trans ((opOf_of_ops (endPark_ops (bundleClosed s i.val o) i.val o) i.val).trans hgone)
    exact ⟨_, hexec, hend, hbytes, fun h => absurd h hexport, fun _ => ⟨by rw [hnentry, hentry], by rw [hnentry, hentry], hcount⟩⟩

/-- A part that is denied gives the operation up. -/
theorem bundleWritten_denied (hopen : raileOpen s o.addr = true) (hdenied : (bundleSent s i.val o).2.1 = false) :
    exec (.bundleWritten i) s = .next (abandonBundle (bundleCounted s i.val o) i.val o 0x0106) := by
  rw [exec_bundleWritten_open hop hk hopen, if_pos (by rw [hdenied]; rfl)]

/-! ### BUNDLE_WRITE_FAILED (R290) -/

omit hk in
/-- While the peer cannot be reached and TIMEOUT_MS has not passed, the operation waits. -/
theorem exec_bundleWriteFailed_waits {t0 : Nat} (hclosed : raileOpen s o.addr = false) (hstall : o.stallAt = some t0)
    (htime : rqtNow s < t0 + regField s (bndReg 0x38) 15 0 * 100000) : exec (.bundleWriteFailed i) s = .next s := by
  change execBundleWriteFailed i s = _
  unfold execBundleWriteFailed
  rw [hop]
  dsimp only
  rw [hstall, if_pos (by simp [hclosed, htime])]

/-- Otherwise it is given up. -/
theorem exec_bundleWriteFailed_ends (h : ¬ (raileOpen s o.addr = false ∧ ∃ t0, o.stallAt = some t0
      ∧ rqtNow s < t0 + regField s (bndReg 0x38) 15 0 * 100000)) :
    exec (.bundleWriteFailed i) s = .next (abandonBundle s i.val o 0x0106) := by
  change execBundleWriteFailed i s = _
  unfold execBundleWriteFailed
  rw [hop]
  dsimp only
  cases hstall : o.stallAt with
  | none => rw [if_neg (by simp; omega)]
  | some t0 =>
    rw [if_neg]
    rintro (hkind | hwaits)
    · omega
    · rw [Bool.and_eq_true, Bool.not_eq_true', decide_eq_true_iff] at hwaits
      exact h ⟨hwaits.1, t0, hstall, hwaits.2⟩

end

/-! ### The obligation -/

/-- EXPORT and PARK of an entry that the checks of R285 pass. -/
theorem bundleCmd_starts {m : Mbox} {p : List Byte} {s : State} {t : LdId} {i kind : Nat} (hidle : opOf s i = none)
    (hret : retained (entryOf s i) = true) (hrel : (workOf s i).releaseReq = false)
    (hfork : (carried (placed s t) i).any (fun x => bitAt x.2.2 1 && !bitAt x.2.2 0) = false)
    (hroom : (snapshot (placed s t) i kind (fld p 0x10 8)).len ≤ fld p 0x18 8) (hnode : fld p 0x10 8 / 2 ^ 52 ≠ ownNode s) :
    let n := reply (startBundle (placed s t) i kind (fld p 0x10 8) (fld p 0x18 8)) m 0 (bruahOut 0 [])
    (∃ o, opOf n i = some o ∧ o.kind = kind ∧ o.addr = fld p 0x10 8 ∧ o.len = (snapshot (placed s t) i kind (fld p 0x10 8)).len
      ∧ o.committed = (entryOf s i).committed ∧ n.ops.length = s.ops.length + 1)
    ∧ entryOf n i = entryOf (opStarted (placed s t) i kind (fld p 0x10 8)) i
    ∧ workOf n i = workOf (opStarted (placed s t) i kind (fld p 0x10 8)) i := by
  obtain ⟨hop, hrqt, hwork⟩ := startBundle_spec (s := placed s t) hidle hret hrel hfork hroom 
    (fun h => hnode (h.trans (ownNode_congr rfl)))
  exact ⟨hop, entryOf_of_rqt hrqt _, workOf_of_work hwork _⟩

/-- EXPORT and PARK, as the statement speaks of an entry that is found. -/
theorem bundleCmd_obligation {m : Mbox} {p : List Byte} {s : State} {t : LdId} {i : Nat} {e : Entry} (hlive : mboxLive s m = true)
    (halign : fld p 0x10 8 % 4096 = 0) (hgate : gate s { len := 0x20 } m p (!zeroAt p 0x0C 4) = .ok t)
    (hfound : byTag s t.val (fld p 8 4) = some (i, e)) (hplaces : (ten s t).places < 4096) (hidle : opOf s i = none)
    (hret : retained (entryOf s i) = true) (hrel : (workOf s i).releaseReq = false)
    (hfork : (carried (placed s t) i).any (fun x => bitAt x.2.2 1 && !bitAt x.2.2 0) = false)
    (hroom : (snapshot (placed s t) i 0 (fld p 0x10 8)).len ≤ fld p 0x18 8) (hnode : fld p 0x10 8 / 2 ^ 52 ≠ ownNode s) :
    let holds (n : State) (k : Nat) : Prop := ∃ o, opOf n i = some o ∧ o.kind = k ∧ o.addr = fld p 0x10 8
      ∧ o.len = (snapshot (placed s t) i 0 (fld p 0x10 8)).len ∧ o.committed = (entryOf s i).committed ∧ n.ops.length = s.ops.length + 1
    (∃ n, exec (.exportBundle m p) s = .next n ∧ holds n 0 ∧ entryOf n i = entryOf s i)
    ∧ ∃ n, exec (.park m p) s = .next n ∧ holds n 1 ∧ entryOf n i = { entryOf s i with state := .parking, bundle := fld p 0x10 8 }
      ∧ (workOf n i).leftState = (entryOf s i).state := by
  refine ⟨⟨_, bundleCmd_found hlive halign hgate 0 hfound hplaces, ?_⟩,
    ⟨_, bundleCmd_found hlive halign hgate 1 hfound hplaces, ?_⟩⟩
  · obtain ⟨hop, hentry, -⟩ := bundleCmd_starts (m := m) (kind := 0) hidle hret hrel hfork hroom hnode
    exact ⟨hop, hentry.trans (entryOf_of_rqt opStarted_export i)⟩
  · obtain ⟨hop, hentry, hwork⟩ := bundleCmd_starts (m := m) (kind := 1) hidle hret hrel hfork hroom hnode
    obtain ⟨hparking, hleft⟩ := opStarted_park (s := placed s t) (i := i) (addr := fld p 0x10 8)
    exact ⟨hop, hentry.trans hparking, (congrArg Work.leftState hwork).trans hleft⟩

/-- LIFT, of a PARKED entry and into a free one. -/
theorem lift_begins {m : Mbox} {p : List Byte} {s : State} {t : LdId} (hlive : mboxLive s m = true) (halign : fld p 0x10 8 % 4096 = 0)
    (hgate : gate s { len := 0x1D } m p (decide (8 ≤ fld p 0x0C 1)) = .ok t) (hplaces : (ten s t).places < 4096) :
    let begun (n : State) (i : Nat) : Prop := (mboxOf n m).ret = 0 ∧ (mboxOf n m).outp = bruahOut 0 []
      ∧ (entryOf n i).state = .lifting ∧ (entryOf n i).bundle = fld p 0x10 8 ∧ (ten n t).places = (ten s t).places + 1
      ∧ n.ops.length = s.ops.length + 1 ∧ ∃ o ∈ n.ops, o.entry = i ∧ o.kind = 2 ∧ o.addr = fld p 0x10 8 ∧ o.headerOk = false
    (∀ i e, bitAt (fld p 0x0C 1) 0 = false → byTag s t.val (fld p 8 4) = some (i, e) → e.state = .parked →
      (workOf s i).releaseReq = false → opOf s i = none → ∃ n, exec (.lift m p) s = .next n ∧ begun n i)
    ∧ (bitAt (fld p 0x0C 1) 0 = true → fld p 8 4 < 2 ^ 31 → tagUsed s t.val (fld p 8 4) none = false → fld p 0x0D 1 < 128 →
      queueLd s (fld p 0x0D 1) = t.val → entriesFree s t.val 1 = true →
      ∃ n, exec (.lift m p) s = .next n ∧ begun n (freeIndex s) ∧ (entryOf n (freeIndex s)).tag = fld p 8 4
        ∧ (entryOf n (freeIndex s)).ld = t.val ∧ (entryOf n (freeIndex s)).queue = fld p 0x0D 1
        ∧ (entryOf n (freeIndex s)).image = fld p 0x0E 2) := by
  refine ⟨fun i e hold hfound hparked hrel hidle => ?_, fun hnew htag hunused hq hld hroom => ?_⟩
  · obtain ⟨hbegun, -⟩ := reply_liftBegun (s := s) (t := t) (v := placed s t) m p i rfl rfl
    exact ⟨_, exec_lift_parked hlive halign hgate hplaces hold hfound hparked hrel hidle, hbegun⟩
  · obtain ⟨hbegun, hentry⟩ := reply_liftBegun (s := s) (t := t) (v := liftEntered s t p) m p (freeIndex s) rfl rfl
    obtain ⟨htag', hld', hqueue, himage⟩ := entryOf_liftEntered s t p
    refine ⟨_, exec_lift_new hlive halign hgate hplaces hnew htag hunused hq hld hroom, hbegun, ?_⟩
    rw [hentry]
    exact ⟨htag', hld', hqueue, himage⟩

/-- Settles O29: the commands by the state in which an operation starts, the ends by the state in which it is closed or given up. -/
theorem bundleOperations : Obligations.BundleOperations := by
  refine ⟨?_, ?_⟩
  case refine_1 =>
    intro m p s t place a hlive halign
    refine ⟨fun i e hgate hfound hplaces => ⟨?_, ?_, ?_⟩, fun hgate hfound => ⟨?_, ?_⟩, lift_begins hlive halign⟩
    · exact bundleCmd_found hlive halign hgate 0 hfound hplaces
    · exact bundleCmd_found hlive halign hgate 1 hfound hplaces
    · exact bundleCmd_obligation hlive halign hgate hfound hplaces
    · exact bundleCmd_unknown hlive halign hgate 0 hfound
    · exact bundleCmd_unknown hlive halign hgate 1 hfound
  case refine_2 =>
    intro i s o hop hk w parts r abandoned waits
    refine ⟨bundleWritten_whole hop hk, fun hopen hdenied => ⟨_, bundleWritten_denied hop hk hopen hdenied, ?_⟩,
      exec_bundleWritten_stalled hop hk, fun h => ⟨_, exec_bundleWriteFailed_ends hop hk h, ?_⟩,
      fun ⟨hclosed, t0, hstall, htime⟩ => exec_bundleWriteFailed_waits hop hclosed hstall htime⟩
    · obtain ⟨hrqt, hwork, -⟩ := bundleCounted_spec (s := s) (i := i.val) (o := o)
      exact abandonBundle_spec o 0x0106 (entryOf_of_rqt hrqt _) hwork
    · exact abandonBundle_spec o 0x0106 rfl rfl

end Sys2Proof.Machine
end

section
/-! # A block to re-sow may cost memory its old bytes (O30)

A bundle's block at the own node is read under the region table (R41, R327). A read maps a device-managed page that is not mapped yet, and
the frame that the page takes is cleared (R34). So a block that is then marked for re-sowing has changed memory. -/

namespace Sys2Proof.Machine

/-! ### What a lift reads -/

/-- What a node answers counts for nothing where the bundle lies at the own node. -/
theorem liftSource_own {s : State} {ctx addr n : Nat} {bs : List Byte} {ok : Bool} (h : addr / 2 ^ 52 = ownNode s) :
    liftSource s ctx addr n bs ok = liftSource s ctx addr n [] true := by
  unfold liftSource
  rw [if_pos h, if_pos h]

/-- What a lift reads, it reads by an access. -/
theorem liftSource_accessed {s s1 : State} {ctx addr n : Nat} {bs : List Byte} {ok : Bool} {got : List Byte × Bool}
    (h : liftSource s ctx addr n bs ok = some (s1, got)) : Accessed s s1 := by
  unfold liftSource at h
  split at h
  · split at h
    · cases h; exact ownDenied_accessed ..
    · next hread => cases h; exact (railAccess_accessed hread).trans (devTouch_accessed ..)
  · split at h
    · cases h
    · cases h; exact .refl s

/-- A block of a bundle that begins at another node is what that node answers. -/
theorem liftData_far {s s1 : State} {i ofs len : Nat} {o : BundleOp} {x : LiftBlock} {got : List Byte × Bool}
    (hfar : o.addr / 2 ^ 52 ≠ ownNode s)
    (h : liftSource s (entryOf s i).ld (o.addr + ofs) 4096 x.bytes x.tokRead = some (s1, got)) :
    liftData s i o ofs len x = some (s1, x) := by
  unfold liftData
  dsimp only
  rw [h]
  exact if_pos hfar

/-- The ciphertext of a token area of zeros: the key stream itself. -/
def zeroTokens (material : List Byte) (id index : Nat) : List Byte :=
  ctrStream (aes256Keys (bundleKey material)) (bundleIv id index) 256 2

theorem slice_length (bs : List Byte) (off n : Nat) : (slice bs off n).length = n := by simp [slice]

theorem mem_slice {bs : List Byte} {b : Byte} {off n : Nat} (h : b ∈ slice bs off n) : b ∈ bs ∨ b = 0 :=
  (List.mem_append.1 h).imp (fun h => List.mem_of_mem_drop (List.mem_of_mem_take h)) List.eq_of_mem_replicate

theorem gcmText_zeroTokens (material : List Byte) (id index : Nat) :
    ∀ b ∈ gcmText (aes256Keys (bundleKey material)) (bundleIv id index) (slice (zeroTokens material id index) 0 4096), b = 0 := by
  unfold zeroTokens gcmText xorBytes
  rw [slice_length, show cdiv 4096 16 = 256 from rfl]
  generalize ctrStream _ _ 256 2 = x
  intro b hb
  obtain ⟨k, hk, rfl⟩ := List.mem_iff_getElem.1 hb
  rw [List.length_zipWith, lt_min_iff, slice_length] at hk
  simp only [List.getElem_zipWith, slice]
  rw [List.getElem_append_left (by simpa using hk)]
  simp

/-- A token area of zeros without a token passes under every model. -/
theorem tokenAreaOk_of_zeros {m : ModelInfo} {pt : List Byte} (h : ∀ b ∈ pt, b = 0) : tokenAreaOk m 0 (slice pt 0 4096) = true := by
  have hzero : ∀ b ∈ slice (slice pt 0 4096) (4 * 0) (4096 - 4 * 0), b = 0 := fun b hb => by
    rcases mem_slice hb with hb | hb
    · exact (mem_slice hb).elim (h b) id
    · exact hb
  simpa [tokenAreaOk, zeroAt] using hzero

/-! ### What the re-sow branch does to memory -/

/-- While blocks of a lift are to be read, one that is decided changes its operation alone. -/
theorem liftRead_setOp_mem {s : State} {i : Nat} {o x : BundleOp} (hop : opOf s i = some o) (hx : x.entry = i)
    (hmore : x.seen.length < x.table.length) : (liftRead (setOp s x) i).mem = s.mem := by
  unfold liftRead
  rw [opOf_setOp hop hx]
  dsimp only
  rw [if_pos hmore]
  rfl

/-- A block marked for re-sowing leaves memory as the read of it left it. -/
theorem exec_liftBlockRead_resow_mem {i : Fin 4096} {s s0 n : State} {o : BundleOp} {x : LiftBlock} {k : Nat}
    {row : Nat × Nat × Nat × Nat} (hop : opOf s i.val = some o) (hok : o.headerOk = true) (hop0 : opOf s0 i.val = some o)
    (hrow : findIdxFrom (fun r => r.1 == x.index) o.table 0 = some (k, row)) (hnew : o.seen.contains x.index = false)
    (hdata : liftData s i.val o row.2.2.2 (dataLen (modelOf s (entryOf s i.val)) (bitAt row.2.2.1 0)) x = some (s0, x))
    (hflags : row.2.2.1 = 0) (hread : x.tokRead = true)
    (htokens : tokenAreaOk (modelOf s0 (entryOf s0 i.val)) row.2.1 (slice (gcmText
      (aes256Keys (bundleKey (materialOf s0 (entryOf s0 i.val).ld))) (bundleIv o.bundleId.toNat x.index)
      (slice x.bytes 0 4096)) 0 4096) = true)
    (hmore : (addN x.index o.seen).length < o.table.length) (hexec : exec (.liftBlockRead i x) s = .next n) : n.mem = s0.mem := by
  change execLiftBlockRead i x s = .next n at hexec
  unfold execLiftBlockRead at hexec
  rw [hop] at hexec
  dsimp only at hexec
  rw [hrow] at hexec
  dsimp only at hexec
  rw [if_neg (not_or.2 ⟨by rw [hok]; decide, by rw [hnew]; decide⟩), hdata] at hexec
  dsimp only at hexec
  rw [hflags, if_neg (by simp [bitAt]), if_neg] at hexec
  case hnc =>
    rw [Bool.or_eq_true, Bool.or_eq_true, not_or, not_or, Bool.not_eq_true', Bool.not_eq_true', Bool.not_eq_false, Bool.not_eq_false]
    exact ⟨⟨by decide, hread⟩, htokens⟩
  refine (congrArg State.mem (Host.Outcome.next.inj hexec)).symm.trans ((liftRead_setOp_mem (o := o) ?_ ?_ ?_).trans ?_)
  · rw [opOf, regBump_ops, meterMem, regBump_ops]
    exact hop0
  · exact (entry_of_opOf hop : o.entry = i.val)
  · exact hmore
  · exact (regBump_mem ..).trans (regBump_mem ..)

/-! ### A bundle that begins at one node and whose block lies at the own node -/

/-- A lift of two blocks from the last byte range of node 5 on: the first block's data begin node 6. -/
def straddlingLift : BundleOp :=
  { entry := 0, kind := 2, addr := 5 * 2 ^ 52, len := 0, bundleId := 0, committed := 0, requote := false, startAt := 0
    headerOk := true, table := [(0, 0, 0, 2 ^ 52), (1, 0, 0, 2 ^ 52 + 4096)] }

/-- Node 6, whose only region opens a device-managed page that is not mapped yet, while an old byte stands in the first FREE frame. -/
def unmappedRegion : State :=
  { regSet (regSet (regSet (regSet (regSet State.reset (rlReg 0 0x1000) 6) (rgnOff 0 1) 1) (rgnOff 0 2) (2 ^ 47)) (rgnOff 0 3) 137)
      (ldPoolOff 0) 1 with
    mem := [(0, 1)], rqt := [(0, { state := .lifting })], ops := [straddlingLift] }

/-- What is read of the first block: its token area alone. -/
def tokensOfBlock (bytes : List Byte) : LiftBlock := { index := 0, tokRead := true, pagesRead := false, bytes := bytes }

/-- The read at the own node maps the page, and the old byte is gone. -/
theorem liftSource_unmappedRegion :
    ∃ s0 got, liftSource unmappedRegion 0 (6 * 2 ^ 52) 4096 [] true = some (s0, got) ∧ s0.mem ≠ unmappedRegion.mem := by
  have hread : (match liftSource unmappedRegion 0 (6 * 2 ^ 52) 4096 [] true with
      | some (s0, _) => decide (s0.mem ≠ unmappedRegion.mem)
      | none => false) = true := by decide +kernel
  split at hread
  · next s0 got h => exact ⟨s0, got, h, of_decide_eq_true hread⟩
  · cases hread

/-- Refutes O30: a block marked for re-sowing leaves memory as the read left it, not as it was before the read. In `unmappedRegion` the
read of the block's token area at the own node maps a page into the frame where the byte 1 stands, and clears it. -/
theorem not_liftsAndResowing : ¬ Obligations.LiftsAndResowing := by
  intro h
  obtain ⟨s0, got, hread, hcleared⟩ := liftSource_unmappedRegion
  have hop0 : opOf s0 0 = some straddlingLift := ((liftSource_accessed hread).opOf 0).trans rfl
  generalize hx : tokensOfBlock (zeroTokens (materialOf s0 (entryOf s0 0).ld) 0 0) = x
  have hindex : x.index = 0 := by rw [← hx]; rfl
  have htok : x.tokRead = true := by rw [← hx]; rfl
  have hrow : findIdxFrom (fun r => r.1 == x.index) straddlingLift.table 0 = some (0, (0, 0, 0, 2 ^ 52)) := by rw [hindex]; rfl
  have hnew : straddlingLift.seen.contains x.index = false := rfl
  have hdata (len : Nat) : liftData unmappedRegion 0 straddlingLift (2 ^ 52) len x = some (s0, x) :=
    liftData_far (by decide +kernel) ((liftSource_own (by decide +kernel)).trans hread)
  have htokens : tokenAreaOk (modelOf s0 (entryOf s0 0)) 0 (slice (gcmText
      (aes256Keys (bundleKey (materialOf s0 (entryOf s0 0).ld))) (bundleIv straddlingLift.bundleId.toNat x.index)
      (slice x.bytes 0 4096)) 0 4096) = true := by
    rw [← hx]
    exact tokenAreaOk_of_zeros (gcmText_zeroTokens _ 0 0)
  have hpages : bitAt 0 0 = false := by decide
  have hforked : bitAt 0 1 = false := by decide
  have hmore : (addN x.index straddlingLift.seen).length < straddlingLift.table.length := by rw [hindex]; decide
  obtain ⟨hlifts, -⟩ := h
  obtain ⟨-, -, -, hblocks⟩ := hlifts 0 unmappedRegion straddlingLift rfl rfl
  obtain ⟨-, -, -, hresow⟩ := hblocks x x s0 0 (0, 0, 0, 2 ^ 52) rfl hrow (hdata _)
  obtain ⟨n, o', hexec, -, -, -, hmem⟩ :=
    hresow hnew (fun hl => Bool.false_ne_true (hpages.symm.trans hl.1)) hforked htok htokens hmore
  have hkept := exec_liftBlockRead_resow_mem (i := 0) (s := unmappedRegion) rfl rfl hop0 hrow hnew (hdata _) rfl htok htokens hmore hexec
  exact hcleared (hkept.symm.trans hmem)

end Sys2Proof.Machine
end
